-- ==== Sys2Proof/Word.lean ====
section
/-! DEFINITION. The word types of the part: the 64-bit register (R140), the 32-bit lane and instruction word (R49, R222),
the byte (R3), and their plainest conversions. -/
namespace Sys2Proof

/-- A 64-bit scalar register, queue entry or dword. -/
abbrev Word := BitVec 64

/-- A byte of memory (R3). -/
abbrev Byte := BitVec 8

/-- A 32-bit vector lane or instruction word. -/
abbrev Lane := BitVec 32

end Sys2Proof
end

