-- ==== Sys2Proof/Machine/Formats.lean ====
section
/-! DEFINITION. Number formats (R23-R38): exact values, rounding by the six modes, conversions, the plane form of a slab,
and the matrix engine's accumulator pairs (R39-R43). Exact values are dyadic: every operation computes exactly and
rounds once (R27). -/
namespace Sys2Proof.Machine

/-- The value a floating code stands for, or an exact result before rounding: `fin neg m e` is (-1)^neg x m x 2^e, with a
signed zero when m is 0. -/
inductive FVal where
  | nan
  | inf (neg : Bool)
  | fin (neg : Bool) (m : Nat) (e : Int)
  deriving DecidableEq, Repr

/-- A floating format (R25, R26): widths, bias, greatest finite code, NaN code, and whether it has infinities. The
greatest code is that of the magnitude, without the sign. -/
structure FFmt where
  width   : Nat
  mant    : Nat
  bias    : Nat
  maxCode : Nat
  nanCode : Option Nat
  hasInf  : Bool
  deriving DecidableEq, Repr

/-- f32 (R25). -/
def fmtF32 : FFmt := { width := 32, mant := 23, bias := 127, maxCode := 0x7F7FFFFF, nanCode := some 0x7FC00000, hasInf := true }
/-- bf16 (R25). -/
def fmtBf16 : FFmt := { width := 16, mant := 7, bias := 127, maxCode := 0x7F7F, nanCode := some 0x7FC0, hasInf := true }
/-- f16 (R25). -/
def fmtF16 : FFmt := { width := 16, mant := 10, bias := 15, maxCode := 0x7BFF, nanCode := some 0x7E00, hasInf := true }
/-- fp8e4 (R25, R26): no infinity, one NaN magnitude. -/
def fmtFp8e4 : FFmt := { width := 8, mant := 3, bias := 7, maxCode := 0x7E, nanCode := some 0x7F, hasInf := false }
/-- fp8e5 (R25). -/
def fmtFp8e5 : FFmt := { width := 8, mant := 2, bias := 15, maxCode := 0x7B, nanCode := some 0x7E, hasInf := true }
/-- fp4 (R25): all codes finite. -/
def fmtFp4 : FFmt := { width := 4, mant := 1, bias := 1, maxCode := 0x7, nanCode := none, hasInf := false }

/-- The floating format of a TY code (R60); f32 for a code that is none. -/
def fmtOf (ty : Nat) : FFmt :=
  match ty with
  | 9 => fmtBf16
  | 10 => fmtF16
  | 11 => fmtFp8e4
  | 12 => fmtFp8e5
  | 13 | 14 => fmtFp4
  | _ => fmtF32

/-- The value of a code of a floating format (R25, R26). -/
def FFmt.value (f : FFmt) (code : Nat) : FVal :=
  let sb := 2 ^ (f.width - 1)
  let neg := decide (code % (2 * sb) / sb = 1)
  let mag := code % sb
  let e := mag / 2 ^ f.mant
  let m := mag % 2 ^ f.mant
  if mag ≤ f.maxCode then
    if e = 0 then .fin neg m (1 - f.bias - f.mant)
    else .fin neg (2 ^ f.mant + m) ((e : Int) - f.bias - f.mant)
  else if f.hasInf && m = 0 then .inf neg
  else .nan

/-- The code of the canonical NaN (R26), +0 in a format without one (R31). -/
def FFmt.nan (f : FFmt) : Nat := f.nanCode.getD 0

/-- A code with its sign. -/
def FFmt.signed (f : FFmt) (neg : Bool) (mag : Nat) : Nat :=
  if neg then 2 ^ (f.width - 1) + mag else mag

/-- The code of an infinity, or the greatest finite value where there is none (R31). -/
def FFmt.inf (f : FFmt) (neg : Bool) : Nat :=
  f.signed neg (if f.hasInf then f.maxCode + 1 else f.maxCode)

/-- The rounding modes of R28. -/
inductive RMode where
  | rne | rtz | rdn | rup | rna | sr
  deriving DecidableEq, Repr

/-- RM (R28). -/
def rmOf (rm : BitVec 3) : RMode :=
  match rm.toNat with
  | 1 => .rtz
  | 2 => .rdn
  | 3 => .rup
  | 4 => .rna
  | 5 => .sr
  | _ => .rne

/-- Whether a magnitude n + rem / den, with a remainder below it still when `sticky`, moves away from zero (R28, R29).
`d24` is the draw's high 24 bits. -/
def roundsAway (rm : RMode) (d24 : Nat) (neg : Bool) (n rem den : Nat) (sticky : Bool) : Bool :=
  let exact := rem = 0 && !sticky
  match rm with
  | .rne => decide (den < 2 * rem) || (decide (2 * rem = den) && (sticky || n % 2 = 1))
  | .rtz => false
  | .rdn => neg && !exact
  | .rup => !neg && !exact
  | .rna => decide (den ≤ 2 * rem)
  | .sr =>
    if exact then false
    else
      let below := rem * 2 ^ 24 / den
      if neg then
        let upTo := if rem * 2 ^ 24 % den = 0 && !sticky then below else below + 1
        !decide (d24 < 2 ^ 24 - upTo)
      else decide (d24 < below)

/-- The magnitude n + rem / den rounded to an integer. -/
def roundMag (rm : RMode) (d24 : Nat) (neg : Bool) (n rem den : Nat) (sticky : Bool) : Nat :=
  if roundsAway rm d24 neg n rem den sticky then n + 1 else n

/-- m x 2^e, with something below it when `sticky`, in units of 2^q and rounded. -/
def roundAt (rm : RMode) (d24 : Nat) (neg : Bool) (m : Nat) (e q : Int) (sticky : Bool) : Nat :=
  if q ≤ e then roundMag rm d24 neg (m * 2 ^ (e - q).toNat) 0 1 sticky
  else
    let den := 2 ^ (q - e).toNat
    roundMag rm d24 neg (m / den) (m % den) den sticky

/-- The code whose magnitude is nearest by the mode, with an unbounded exponent range: codes are consecutive, so a code
above `maxCode` is an overflow (R30). -/
def FFmt.magCode (f : FFmt) (rm : RMode) (d24 : Nat) (neg : Bool) (m : Nat) (e : Int) (sticky : Bool) : Nat :=
  if m = 0 && !sticky then 0
  else
    let qmin : Int := 1 - f.bias - f.mant
    let q := max ((Nat.log2 m : Int) + e - f.mant) qmin
    roundAt rm d24 neg m e q sticky + (q - qmin).toNat * 2 ^ f.mant

/-- Round an exact magnitude to a format (R27, R28, R30); beyond the greatest finite magnitude sr gives the overflow result of rne
(R29). -/
def FFmt.round (f : FFmt) (rm : RMode) (d24 : Nat) (sat : Bool) (neg : Bool) (m : Nat) (e : Int) (sticky : Bool) : Nat :=
  let beyond := decide (f.maxCode < f.magCode .rtz 0 neg m e sticky)
    || (decide (f.magCode .rtz 0 neg m e sticky = f.maxCode) && decide (f.maxCode < f.magCode .rup 0 false m e sticky))
  let c := if rm = .sr && beyond then f.maxCode + 1 else f.magCode rm d24 neg m e sticky
  if c ≤ f.maxCode then f.signed neg c
  else if sat || !f.hasInf then f.signed neg f.maxCode
  else
    match rm with
    | .rtz => f.signed neg f.maxCode
    | .rdn => if neg then f.inf true else f.signed false f.maxCode
    | .rup => if neg then f.signed true f.maxCode else f.inf false
    | _ => f.inf neg

/-- A value as a code of a format (R31). -/
def FFmt.ofVal (f : FFmt) (rm : RMode) (d24 : Nat) (sat : Bool) : FVal → Nat
  | .nan => f.nan
  | .inf neg => f.inf neg
  | .fin neg m e => f.round rm d24 sat neg m e false

/-- Exact negation: the sign of a NaN stays canonical. -/
def FVal.neg : FVal → FVal
  | .nan => .nan
  | .inf n => .inf (!n)
  | .fin n m e => .fin (!n) m e

/-- Exact absolute value. -/
def FVal.abs : FVal → FVal
  | .nan => .nan
  | .inf _ => .inf false
  | .fin _ m e => .fin false m e

/-- Whether the value is a NaN. -/
def FVal.isNan : FVal → Bool
  | .nan => true
  | _ => false

/-- The signed integer m x 2^(e - q) of a finite value; q lies at or below e. -/
def scaled (neg : Bool) (m : Nat) (e q : Int) : Int :=
  let v : Int := (m * 2 ^ (e - q).toNat : Nat)
  if neg then -v else v

/-- Exact sum; an exact zero of unlike signs is +0, and -0 under rdn (R26). -/
def FVal.add (rm : RMode) : FVal → FVal → FVal
  | .nan, _ | _, .nan => .nan
  | .inf a, .inf b => if a = b then .inf a else .nan
  | .inf a, _ => .inf a
  | _, .inf b => .inf b
  | .fin na ma ea, .fin nb mb eb =>
    let q := min ea eb
    let v := scaled na ma ea q + scaled nb mb eb q
    if v = 0 then .fin (if ma = 0 && mb = 0 && na = nb then na else rm = .rdn) 0 0
    else .fin (decide (v < 0)) v.natAbs q

/-- Exact product (R27). -/
def FVal.mul : FVal → FVal → FVal
  | .nan, _ | _, .nan => .nan
  | .inf a, .inf b => .inf (a != b)
  | .inf a, .fin b m _ | .fin b m _, .inf a => if m = 0 then .nan else .inf (a != b)
  | .fin a ma ea, .fin b mb eb => .fin (a != b) (ma * mb) (ea + eb)

/-- -1, 0 or 1 as a is less than, equal to or greater than b; none where either is a NaN. Zeros are equal. -/
def FVal.cmp : FVal → FVal → Option Int
  | .nan, _ | _, .nan => none
  | .inf a, .inf b => some (if a = b then 0 else if a then -1 else 1)
  | .inf a, _ => some (if a then -1 else 1)
  | _, .inf b => some (if b then 1 else -1)
  | .fin na ma ea, .fin nb mb eb =>
    let q := min ea eb
    let v := scaled na ma ea q - scaled nb mb eb q
    some (if v < 0 then -1 else if v = 0 then 0 else 1)

/-- Whether a orders at or below b with -0 below +0; for operands that are not NaN (R27). -/
def FVal.leOrder (a b : FVal) : Bool :=
  match a.cmp b with
  | some c =>
    if c = 0 then
      match a, b with
      | .fin na 0 _, .fin nb 0 _ => na || !nb
      | _, _ => true
    else decide (c < 0)
  | none => false

/-- Minimum and maximum (R27): the other operand where exactly one is a NaN. -/
def FVal.minMax (wantMax : Bool) (a b : FVal) : FVal :=
  if a.isNan then b
  else if b.isNan then a
  else if a.leOrder b then (if wantMax then b else a) else (if wantMax then a else b)

/-- Square root of a Nat, rounded down, bit by bit from bit `k`. -/
def isqrtFrom (n : Nat) : Nat → Nat → Nat
  | 0, r => r
  | k + 1, r =>
    let t := r + 2 ^ k
    isqrtFrom n k (if t * t ≤ n then t else r)

/-- Square root of a Nat, rounded down. -/
def isqrt (n : Nat) : Nat := isqrtFrom n (Nat.log2 n / 2 + 1) 0

/-- a / b rounded once (R27). -/
def FFmt.divide (f : FFmt) (rm : RMode) (d24 : Nat) (sat : Bool) (a b : FVal) : Nat :=
  match a, b with
  | .nan, _ | _, .nan => f.nan
  | .inf _, .inf _ => f.nan
  | .inf a, .fin b _ _ => f.inf (a != b)
  | .fin a _ _, .inf b => f.signed (a != b) 0
  | .fin na ma ea, .fin nb mb eb =>
    if mb = 0 then (if ma = 0 then f.nan else f.inf (na != nb))
    else if ma = 0 then f.signed (na != nb) 0
    else
      let s := 128 + Nat.log2 mb
      let n := ma * 2 ^ s
      f.round rm d24 sat (na != nb) (n / mb) (ea - eb - s) (n % mb ≠ 0)

/-- The square root rounded once (R27). -/
def FFmt.squareRoot (f : FFmt) (rm : RMode) (d24 : Nat) : FVal → Nat
  | .nan => f.nan
  | .inf neg => if neg then f.nan else f.inf false
  | .fin neg m e =>
    if m = 0 then f.signed neg 0
    else if neg then f.nan
    else
      let odd := (e % 2).toNat
      let n := m * 2 ^ (odd + 256)
      let r := isqrt n
      f.round rm d24 false false r ((e - odd - 256) / 2) (r * r ≠ n)

/-- The reciprocal square root of a positive finite value, rounded once. -/
def FFmt.recipSqrt (f : FFmt) (rm : RMode) (d24 : Nat) (m : Nat) (e : Int) : Nat :=
  let odd := (e % 2).toNat
  let m2 := m * 2 ^ odd
  let k := 2 * (Nat.log2 m2 + 128)
  let q := 2 ^ k / m2
  let r := isqrt q
  f.round rm d24 false false r (-((e - odd) / 2) - (k / 2 : Nat)) (r * r * m2 ≠ 2 ^ k)

/-! ### Integers (R23) -/

/-- Whether an integer TY is signed. -/
def tySigned (ty : Nat) : Bool := decide (ty < 4)

/-- The width of an element type in bits (R60); 32 for the codes without one. -/
def tyBits (ty : Nat) : Nat :=
  match ty with
  | 0 | 4 | 11 | 12 => 8
  | 1 | 5 | 9 | 10 => 16
  | 3 | 7 => 64
  | 13 | 14 => 4
  | _ => 32

/-- Whether a TY is a floating format. -/
def tyFloat (ty : Nat) : Bool := decide (8 ≤ ty) && decide (ty ≤ 14)

/-- The value of the low `bits` bits of a code. -/
def intOf (signed : Bool) (bits code : Nat) : Int :=
  let v := code % 2 ^ bits
  if signed && decide (2 ^ bits ≤ 2 * v) then (v : Int) - 2 ^ bits else v

/-- The code of a value in `bits` bits, wrapping. -/
def intCode (bits : Nat) (v : Int) : Nat := (v % 2 ^ bits).toNat

/-- The least value of an integer type. -/
def intMin (signed : Bool) (bits : Nat) : Int := if signed then -(2 ^ (bits - 1)) else 0
/-- The greatest value of an integer type. -/
def intMax (signed : Bool) (bits : Nat) : Int := if signed then 2 ^ (bits - 1) - 1 else 2 ^ bits - 1

/-- A value clamped to an integer type (R23). -/
def intSat (signed : Bool) (bits : Nat) (v : Int) : Int :=
  if v < intMin signed bits then intMin signed bits
  else if intMax signed bits < v then intMax signed bits else v

/-- A result in an integer type: saturated in the saturating form, else wrapped. -/
def intResult (signed : Bool) (bits : Nat) (sat : Bool) (v : Int) : Nat :=
  intCode bits (if sat then intSat signed bits v else v)

/-- A value rounded to an integer by the mode and saturated (R31): NaN gives 0. -/
def FVal.toInt (signed : Bool) (bits : Nat) (rm : RMode) (d24 : Nat) : FVal → Int
  | .nan => 0
  | .inf neg => if neg then intMin signed bits else intMax signed bits
  | .fin neg m e =>
    let n : Int := roundAt rm d24 neg m e 0 false
    intSat signed bits (if neg then -n else n)

/-- An integer as an exact value. -/
def FVal.ofInt (v : Int) : FVal := .fin (decide (v < 0)) v.natAbs 0

/-- The exact value of an element code of any type. -/
def elemVal (ty code : Nat) : FVal :=
  if tyFloat ty then (fmtOf ty).value (code % 2 ^ (fmtOf ty).width)
  else FVal.ofInt (intOf (tySigned ty) (tyBits ty) code)

/-- Whether R31's table gives a conversion as exact, so that it takes no draw (R29). -/
def cvtExact (src dst : Nat) : Bool :=
  src = dst || (src = 14 && (dst = 9 || dst = 8))
    || (dst = 8 && (src = 9 || src = 10 || src = 11 || src = 12 || src = 13))
    || ((dst = 9 || dst = 10) && (src = 11 || src = 12 || src = 13))
    || ((dst = 11 || dst = 12) && src = 13)
    || (!tyFloat src && !tyFloat dst)

/-- Convert one element (R31). Integer to integer wraps, or saturates in the saturating form. -/
def convert (src dst : Nat) (rm : RMode) (d24 : Nat) (sat : Bool) (code : Nat) : Nat :=
  if tyFloat dst then (fmtOf dst).ofVal rm d24 sat (elemVal src code)
  else if tyFloat src then intCode (tyBits dst) ((elemVal src code).toInt (tySigned dst) (tyBits dst) rm d24)
  else intResult (tySigned dst) (tyBits dst) sat (intOf (tySigned src) (tyBits src) code)

/-! ### fp4b and the plane form (R32-R38) -/

/-- A block scale (R32) as m x 2^e. -/
def blockScale (code : Nat) : Nat × Int :=
  let e := code / 32 % 8
  let m := code % 32
  if e = 0 then (m, -7) else (32 + m, (e : Int) - 8)

/-- An fp4b element: code x block scale, the band scale left out (R36). -/
def fp4bVal (code scale : Nat) : FVal :=
  let s := blockScale scale
  match fmtFp4.value code with
  | .fin n m e => .fin n (m * s.1) (e + s.2)
  | v => v

/-- One slab of one row in plane form (R35): shared exponent, signs and magnitudes. -/
structure Slab where
  es   : Int
  sign : List Bool
  mag  : List Nat
  deriving DecidableEq, Repr

/-- A source value as the plane window takes it: an infinity as the greatest finite value of its format, a NaN as +0
(R36). -/
def planeSource (ty : Nat) (v : FVal) : Bool × Nat × Int :=
  match v with
  | .nan => (false, 0, 0)
  | .inf neg =>
    match (fmtOf ty).value (fmtOf ty).maxCode with
    | .fin _ m e => (neg, m, e)
    | _ => (neg, 0, 0)
  | .fin neg m e => (neg, m, e)

/-- The least E with rne(m x 2^e / 2^E) at most 2^p - 1, for m not 0 (R36). -/
def leastExp (p m : Nat) (e : Int) : Int :=
  let q := (Nat.log2 m : Int) + e - p + 1
  if roundAt .rne 0 false m e q false ≤ 2 ^ p - 1 then q else q + 1

/-- The slab exponent before clamping; none where every value is zero. -/
def slabExp (p : Nat) (vs : List (Bool × Nat × Int)) : Option Int :=
  vs.foldl (fun acc v => if v.2.1 = 0 then acc else
    match acc with
    | none => some (leastExp p v.2.1 v.2.2)
    | some a => some (max a (leastExp p v.2.1 v.2.2))) none

/-- The plane form of a slab at precision p (R36), or by the saturating form for integer sources (R37). -/
def planeForm (p : Nat) (satInt : Bool) (vs : List (Bool × Nat × Int)) : Slab :=
  match slabExp p vs with
  | none => { es := -128, sign := vs.map (fun _ => false), mag := vs.map (fun _ => 0) }
  | some e0 =>
    let es := if satInt then 0 else max (-127) (min 127 e0)
    let mags := vs.map (fun v => min (roundAt .rne 0 false v.2.1 v.2.2 es false) (2 ^ p - 1))
    { es := es, sign := (vs.zip mags).map (fun vm => vm.2 ≠ 0 && vm.1.1), mag := mags }

/-! ### Accumulators (R39-R43) -/

/-- x / 2^k to the nearest integer, ties to even (R40). -/
def shrEven (x : Int) (k : Nat) : Int :=
  let n : Int := roundMag .rne 0 false (x.natAbs / 2 ^ k) (x.natAbs % 2 ^ k) (2 ^ k) false
  if x < 0 then -n else n

/-- An accumulator element: a 56-bit significand and a 10-bit exponent (R40). -/
structure AccPair where
  s : Int
  e : Int
  deriving DecidableEq, Repr

/-- The cleared element (R40). -/
def accClear : AccPair := { s := 0, e := -512 }

/-- saturate(sigma) (R41). -/
def accSat (neg : Bool) : AccPair := { s := if neg then -(2 ^ 55 - 1) else 2 ^ 55 - 1, e := 511 }

/-- Add a term to an accumulator element; whether it saturated (R41). -/
def accAdd (acc : AccPair) (s e : Int) : AccPair × Bool :=
  let s1 := if e < -512 then shrEven s (-512 - e).toNat else s
  let e1 := if e < -512 then -512 else e
  if 511 < e1 then (accSat (decide (s1 < 0)), true)
  else
    let s2 := if e1 < acc.e then shrEven s1 (acc.e - e1).toNat else s1
    let a2 := if acc.e < e1 then shrEven acc.s (e1 - acc.e).toNat else acc.s
    let ee := max acc.e e1
    let t := a2 + s2
    if 2 ^ 55 - 1 < t || t < -(2 ^ 55) then
      if 511 < ee + 1 then (accSat (decide (t < 0)), true)
      else ({ s := shrEven t 1, e := ee + 1 }, false)
    else ({ s := t, e := ee }, false)

/-- A band scale beta as its exponent b (R34); beta is a bf16 code. -/
def bandExp (beta : Nat) : Int :=
  let e := beta / 128 % 256
  if e = 0 then -126 else (e : Int) - 127

/-- The significand sigma of a band scale, with beta = sigma x 2^b (R34). -/
def bandSig (beta : Nat) : FVal :=
  match fmtBf16.value beta with
  | .fin n m e => .fin n m (e - bandExp beta)
  | v => v

/-- The exact value S x 2^E x sigmaA x sigmaB of an output element (R42). -/
def accVal (a : AccPair) (betaA betaB : Nat) : FVal :=
  ((FVal.fin (decide (a.s < 0)) a.s.natAbs a.e).mul (bandSig betaA)).mul (bandSig betaB)

/-- An f32 operation on codes: value of a code. -/
def f32 (c : Nat) : FVal := fmtF32.value c

/-- Round to f32 by rne. -/
def f32Rne (v : FVal) : Nat := fmtF32.ofVal .rne 0 false v

/-- The f32 sum rounded by a mode. -/
def f32Add (rm : RMode) (d24 : Nat) (a b : Nat) : Nat :=
  fmtF32.ofVal rm d24 false ((f32 a).add rm (f32 b))

end Sys2Proof.Machine
end

