-- ==== Sys2Proof/Machine/Flags.lean ====
section
/-! DEFINITION. Integer narrowing (R205), relations and the flag word (R210, R213), branch conditions (R188), and the f32
comparison word of FOP (R221). -/
namespace Sys2Proof.Machine

/-- sext(x, w) as an integer (R205). -/
def sval (w : Nat) (x : Word) : Int := intOf true w x.toNat
/-- zext(x, w) (R205). -/
def uval (w : Nat) (x : Word) : Nat := x.toNat % 2 ^ w
/-- val(x): by the type's signedness (R205). -/
def valOf (ty : Nat) (x : Word) : Int := intOf (tySigned ty) (tyBits ty) x.toNat
/-- put(v): narrowed to the type and extended to 64 bits (R205). -/
def putOf (ty : Nat) (v : Int) : Word := BitVec.ofInt 64 (intOf (tySigned ty) (tyBits ty) (intCode (tyBits ty) v))

/-- 1 or 0. -/
def boolWord (b : Bool) : Word := if b then 1 else 0

/-- The flag word (R213). -/
def flagWord (w : Nat) (a b : Word) : Word :=
  boolWord (uval w a = uval w b) ||| boolWord (sval w a < sval w b) <<< 1 ||| boolWord (uval w a < uval w b) <<< 2
    ||| boolWord (sval w b < sval w a) <<< 3 ||| boolWord (uval w b < uval w a) <<< 4
    ||| boolWord ((a &&& b).toNat % 2 ^ w ≠ 0) <<< 5

/-- -1, 0 or 1 (R210). -/
def cmp3 (x y : Int) : Word := if x < y then -1 else if x = y then 0 else 1

/-- CMP's result (R210). -/
def cmpResult (fn w : Nat) (a b : Word) : Word :=
  match fn with
  | 0 => boolWord (uval w a = uval w b)
  | 1 => boolWord (uval w a ≠ uval w b)
  | 2 => boolWord (sval w a < sval w b)
  | 3 => boolWord (sval w b ≤ sval w a)
  | 4 => boolWord (uval w a < uval w b)
  | 5 => boolWord (uval w b ≤ uval w a)
  | 6 => boolWord ((a &&& b).toNat % 2 ^ w ≠ 0)
  | 7 => boolWord ((a &&& b).toNat % 2 ^ w = 0)
  | 8 => cmp3 (sval w a) (sval w b)
  | 9 => cmp3 (uval w a) (uval w b)
  | _ => flagWord w a b

/-- The relations of BCMP, of condition nodes and of WAITSIG on 64-bit values (R85, R188). -/
def relHolds (fn : Nat) (a c : Word) : Bool :=
  match fn with
  | 0 => a = c
  | 1 => a ≠ c
  | 2 => a.toInt < c.toInt
  | 3 => c.toInt ≤ a.toInt
  | 4 => a.toNat < c.toNat
  | 5 => c.toNat ≤ a.toNat
  | 6 => a &&& c ≠ 0
  | _ => a &&& c = 0

/-- BZ's conditions (R188). -/
def zeroCond (fn : Nat) (a : Word) : Bool :=
  match fn with
  | 0 => a = 0
  | 1 => a ≠ 0
  | 2 => a.toInt < 0
  | 3 => 0 ≤ a.toInt
  | 4 => 0 < a.toInt
  | _ => a.toInt ≤ 0

/-- FOP.cmp (R221): equal, less, greater, unordered in bits 0 to 3. -/
def fcmpWord (a b : FVal) : Word :=
  match a.cmp b with
  | none => 8
  | some c => if c = 0 then 1 else if c < 0 then 2 else 4

end Sys2Proof.Machine
end

