-- ==== Sys2Proof/Syntax.lean ====
section
/-! DEFINITION. The instruction set as data: the four word formats of R53 with the extended words of R54 and the
literal of R57, the sampler's micro-instruction fields of R467, the operands of the events that
spec/opcode_table.json lists beside the coded instructions, and `Instr`, one constructor per row of that table. -/
namespace Sys2Proof

/-- Extended words 1 and 2 (R54, R55). -/
structure Ext where
  sub   : BitVec 8
  f2    : Bool
  sat   : Bool
  hint  : BitVec 4
  sc    : BitVec 3
  rm    : BitVec 3
  ty    : BitVec 6
  c     : BitVec 6
  imm32 : BitVec 32
  deriving DecidableEq, Repr

/-- The four lengths of R49: what follows word 0. -/
inductive Form where
  | word                                        -- LEN 00
  | ext    (e : Ext)                            -- LEN 01
  | lit    (v : BitVec 64)                      -- LEN 10
  | extLit (e : Ext) (v : BitVec 64)            -- LEN 11
  deriving DecidableEq, Repr

/-- Format R (R53). -/
structure RFields where
  fn   : BitVec 4
  b    : BitVec 6
  a    : BitVec 6
  d    : BitVec 6
  form : Form
  deriving DecidableEq, Repr

/-- Format I (R53). -/
structure IFields where
  imm10 : BitVec 10
  a     : BitVec 6
  d     : BitVec 6
  form  : Form
  deriving DecidableEq, Repr

/-- Format J (R53). -/
structure JFields where
  off12 : BitVec 12
  a     : BitVec 6
  fn    : BitVec 4
  form  : Form
  deriving DecidableEq, Repr

/-- Format V (R53). -/
structure VFields where
  fn   : BitVec 4
  m    : BitVec 3
  vb   : BitVec 5
  va   : BitVec 5
  vd   : BitVec 5
  form : Form
  deriving DecidableEq, Repr

/-- The fields of a sampler micro-instruction below OPC (R467). In LDI, `a` holds H and `b`, `f`, `imm8` hold IMM16. -/
structure MicroFields where
  d    : BitVec 4
  a    : BitVec 4
  b    : BitVec 4
  f    : BitVec 4
  imm8 : BitVec 8
  deriving DecidableEq, Repr

/-- What Ibpilith finds when it boots from or installs a firmware image (R103): which verifications pass, the
security version, whether HBM4E trains, and the version that FWVER takes. -/
structure BootImage where
  readable  : Bool
  ecdsaOk   : Bool
  lmsOk     : Bool
  secVer    : Nat
  hbmTrains : Bool
  fwver     : BitVec 32
  /-- The image authorises a new LMS attestation key (R106). -/
  newLmsKey : Bool
  deriving DecidableEq, Repr

/-- The unit classes from which Caravan dispatches one entry a clk (R118). -/
inductive UnitClass where
  | cores | matrix | copy | sampler | wadi | nearMem
  deriving DecidableEq, Repr

/-- The units that take copy and near-memory nodes (R522): the copy engine of a package cluster, or a stack's engine. -/
inductive NodeUnit where
  | copyEngine (cluster : Nat)
  | nearMem (stack : Nat)
  deriving DecidableEq, Repr

/-- Units whose uncorrectable error is a machine check (R407, R516). -/
inductive EngineUnit where
  | copyEngine (cluster : Nat)
  | matrix (cluster : Nat)
  | nearMem (stack : Nat)
  | sampler (die : Nat)
  | wadi (die : Nat)
  deriving DecidableEq, Repr

/-- Where a storage error is found (R515). Lines are the home keys of `Machine.State.mem` divided by 64. -/
inductive ErrorSite where
  | localWord (core off : Nat)
  | regImage (core ctx : Nat)
  | icache (cluster : Nat)
  | homeMeta (line : Nat)
  | hbm (line : Nat)
  | xm (line : Nat)
  deriving DecidableEq, Repr

/-- A request as it reaches a home port (R326, R349): the accessing agent with its clocks, epoch and race mode, and the
bytes it touches (`key` is the home key of the first byte, see `Machine.State.mem`). -/
structure HomeReq where
  agent  : BitVec 24
  key    : Nat
  /-- The address of the access's first byte, as the instruction gives it (R356, R360). -/
  va     : BitVec 64
  size   : Nat
  lclk   : BitVec 48
  hzn    : BitVec 48
  epoch  : BitVec 8
  scope  : BitVec 3
  atomic : Bool
  report : Bool
  deriving DecidableEq, Repr

/-- A 256-byte Xanwell flit (R490). `info` is the header's META field. -/
structure Flit where
  typ     : Nat
  flags   : BitVec 8
  len     : Nat
  src     : BitVec 16
  dst     : BitVec 16
  tag     : BitVec 64
  addr    : BitVec 64
  info    : BitVec 64
  payload : List Byte
  deriving DecidableEq, Repr

/-- One constructor per row of spec/opcode_table.json, in the table's order: the 163 opcodes of R64, the sampler's 24
micro-instructions (R468), and the steps of the part and of the outside world that have no words. -/
inductive Instr where
  /-- ADD (R207). -/
  | add (x : RFields)
  /-- SUB (R207). -/
  | sub (x : RFields)
  /-- MUL (R207). -/
  | mul (x : RFields)
  /-- MULH (R207). -/
  | mulh (x : RFields)
  /-- DIV (R208). -/
  | div (x : RFields)
  /-- REM (R208). -/
  | rem (x : RFields)
  /-- AND (R207). -/
  | and (x : RFields)
  /-- OR (R207). -/
  | or (x : RFields)
  /-- XOR (R207). -/
  | xor (x : RFields)
  /-- ANDN (R207). -/
  | andn (x : RFields)
  /-- SHL (R209). -/
  | shl (x : RFields)
  /-- SHR (R209). -/
  | shr (x : RFields)
  /-- ROT (R209). -/
  | rot (x : RFields)
  /-- MIN (R207). -/
  | min (x : RFields)
  /-- MAX (R207). -/
  | max (x : RFields)
  /-- CMP (R210). -/
  | cmp (x : RFields)
  /-- ADDI (R211). -/
  | addi (x : IFields)
  /-- ANDI (R211). -/
  | andi (x : IFields)
  /-- ORI (R211). -/
  | ori (x : IFields)
  /-- XORI (R211). -/
  | xori (x : IFields)
  /-- SHLI (R212). -/
  | shli (x : IFields)
  /-- SHRI (R212). -/
  | shri (x : IFields)
  /-- CMPI (R213). -/
  | cmpi (x : IFields)
  /-- LIT (R214). -/
  | lit (x : IFields)
  /-- SEL (R215). -/
  | sel (x : RFields)
  /-- BCNT (R216). -/
  | bcnt (x : RFields)
  /-- BFX (R217). -/
  | bfx (x : RFields)
  /-- BFI (R217). -/
  | bfi (x : RFields)
  /-- ADDR (R218). -/
  | addr (x : RFields)
  /-- ADDS (R219). -/
  | adds (x : RFields)
  /-- FOP (R221). -/
  | fop (x : RFields)
  /-- MAD (R220). -/
  | mad (x : RFields)
  /-- BR (R190). -/
  | br (x : JFields)
  /-- BZ (R191). -/
  | bz (x : JFields)
  /-- BCMP (R192). -/
  | bcmp (x : JFields)
  /-- CALL (R196). -/
  | call (x : JFields)
  /-- RET (R197). -/
  | ret (x : JFields)
  /-- JR (R199). -/
  | jr (x : RFields)
  /-- CALLR (R196). -/
  | callr (x : RFields)
  /-- LOOP (R193). -/
  | loop (x : JFields)
  /-- BQ (R194). -/
  | bq (x : JFields)
  /-- JTAB (R200). -/
  | jtab (x : RFields)
  /-- NOP (R66). -/
  | nop (x : RFields)
  /-- LDL (R284). -/
  | ldl (x : IFields)
  /-- STL (R284). -/
  | stl (x : IFields)
  /-- VLDL (R287). -/
  | vldl (x : VFields)
  /-- VSTL (R287). -/
  | vstl (x : VFields)
  /-- VGATHL (R288). -/
  | vgathl (x : VFields)
  /-- VSCATL (R288). -/
  | vscatl (x : VFields)
  /-- LDTX (R245). -/
  | ldtx (x : VFields)
  /-- RROT (R286). -/
  | rrot (x : RFields)
  /-- BANKMODE (R175). -/
  | bankmode (x : RFields)
  /-- FPUSH (R176). -/
  | fpush (x : RFields)
  /-- FPOP (R176). -/
  | fpop (x : RFields)
  /-- RSTL (R319). -/
  | rstl (x : RFields)
  /-- RADD (R319). -/
  | radd (x : RFields)
  /-- LD (R289). -/
  | ld (x : IFields)
  /-- ST (R290). -/
  | st (x : IFields)
  /-- VLD (R292). -/
  | vld (x : VFields)
  /-- VST (R292). -/
  | vst (x : VFields)
  /-- VGATH (R293). -/
  | vgath (x : VFields)
  /-- VSCAT (R293). -/
  | vscat (x : VFields)
  /-- PREF (R294). -/
  | pref (x : IFields)
  /-- WLQ (R295). -/
  | wlq (x : RFields)
  /-- WLWAIT (R296). -/
  | wlwait (x : RFields)
  /-- AMO (R367). -/
  | amo (x : RFields)
  /-- CAS (R368). -/
  | cas (x : RFields)
  /-- CAS2 (R369). -/
  | cas2 (x : RFields)
  /-- LDA (R370). -/
  | lda (x : IFields)
  /-- STREL (R371). -/
  | strel (x : IFields)
  /-- FENCE (R372). -/
  | fence (x : RFields)
  /-- AFADD (R373). -/
  | afadd (x : RFields)
  /-- LDA2 (R370). -/
  | lda2 (x : IFields)
  /-- BARINIT (R378). -/
  | barinit (x : RFields)
  /-- ARRIVE (R379). -/
  | arrive (x : RFields)
  /-- WAITPH (R380). -/
  | waitph (x : RFields)
  /-- TESTPH (R380). -/
  | testph (x : RFields)
  /-- EXPECT (R381). -/
  | expect (x : RFields)
  /-- SIGNAL (R382). -/
  | signal (x : RFields)
  /-- WAITSIG (R382). -/
  | waitsig (x : RFields)
  /-- DOMAIN (R388). -/
  | domain (x : RFields)
  /-- SYNC (R384). -/
  | sync (x : RFields)
  /-- XSEND (R386). -/
  | xsend (x : RFields)
  /-- XWAIT (R387). -/
  | xwait (x : RFields)
  /-- START (R151). -/
  | start (x : RFields)
  /-- END (R152). -/
  | endHelper (x : RFields)
  /-- HWAIT (R153). -/
  | hwait (x : RFields)
  /-- QBIND (R154). -/
  | qbind (x : RFields)
  /-- QSTAT (R155). -/
  | qstat (x : RFields)
  /-- VCLAIM (R224). -/
  | vclaim (x : RFields)
  /-- VYIELD (R225). -/
  | vyield (x : RFields)
  /-- YIELD (R156). -/
  | yield (x : RFields)
  /-- NWAIT (R132). -/
  | nwait (x : RFields)
  /-- NDONE (R134). -/
  | ndone (x : RFields)
  /-- TASK (R135). -/
  | task (x : RFields)
  /-- VADD (R231). -/
  | vadd (x : VFields)
  /-- VSUB (R231). -/
  | vsub (x : VFields)
  /-- VMUL (R231). -/
  | vmul (x : VFields)
  /-- VFMA (R231). -/
  | vfma (x : VFields)
  /-- VMIN (R231). -/
  | vmin (x : VFields)
  /-- VMAX (R231). -/
  | vmax (x : VFields)
  /-- VAND (R231). -/
  | vand (x : VFields)
  /-- VOR (R231). -/
  | vor (x : VFields)
  /-- VXOR (R231). -/
  | vxor (x : VFields)
  /-- VSHL (R231). -/
  | vshl (x : VFields)
  /-- VSHR (R231). -/
  | vshr (x : VFields)
  /-- VCMP (R232). -/
  | vcmp (x : VFields)
  /-- VSEL (R233). -/
  | vsel (x : VFields)
  /-- VCVT (R235). -/
  | vcvt (x : VFields)
  /-- VNEG (R231). -/
  | vneg (x : VFields)
  /-- VDOT4 (R234). -/
  | vdot4 (x : VFields)
  /-- VSFU (R236). -/
  | vsfu (x : VFields)
  /-- VMOV (R238). -/
  | vmov (x : VFields)
  /-- VIDX (R238). -/
  | vidx (x : VFields)
  /-- VEXT (R238). -/
  | vext (x : VFields)
  /-- VINS (R238). -/
  | vins (x : VFields)
  /-- VCLAMP (R238). -/
  | vclamp (x : VFields)
  /-- VQUANT (R237). -/
  | vquant (x : VFields)
  /-- MOP (R239). -/
  | mop (x : VFields)
  /-- VSHUF (R240). -/
  | vshuf (x : VFields)
  /-- VROT (R240). -/
  | vrot (x : VFields)
  /-- VVOTE (R241). -/
  | vvote (x : VFields)
  /-- VMATCH (R241). -/
  | vmatch (x : VFields)
  /-- VRED (R243). -/
  | vred (x : VFields)
  /-- VSCAN (R244). -/
  | vscan (x : VFields)
  /-- VCOMP (R242). -/
  | vcomp (x : VFields)
  /-- VBCAST (R240). -/
  | vbcast (x : VFields)
  /-- MTILE (R257). -/
  | mtile (x : RFields)
  /-- MLOADB (R258). -/
  | mloadb (x : RFields)
  /-- MACC (R259). -/
  | macc (x : RFields)
  /-- MREAD (R261). -/
  | mread (x : RFields)
  /-- MSCALE (R260). -/
  | mscale (x : RFields)
  /-- MWAIT (R262). -/
  | mwait (x : RFields)
  /-- MSTAT (R263). -/
  | mstat (x : RFields)
  /-- MSOFT (R264). -/
  | msoft (x : RFields)
  /-- CPQ (R316). -/
  | cpq (x : RFields)
  /-- CPSEAL (R317). -/
  | cpseal (x : RFields)
  /-- CPWAIT (R317). -/
  | cpwait (x : RFields)
  /-- CPSTAT (R318). -/
  | cpstat (x : RFields)
  /-- NMC (R320). -/
  | nmc (x : RFields)
  /-- NMFENCE (R321). -/
  | nmfence (x : RFields)
  /-- SNEW (R177). -/
  | snew (x : RFields)
  /-- FORK (R178). -/
  | fork (x : RFields)
  /-- SBIND (R179). -/
  | sbind (x : RFields)
  /-- PPLACE (R180). -/
  | pplace (x : RFields)
  /-- SQUERY (R181). -/
  | squery (x : RFields)
  /-- SSTEP (R477). -/
  | sstep (x : RFields)
  /-- APUSH (R479). -/
  | apush (x : RFields)
  /-- APOP (R479). -/
  | apop (x : RFields)
  /-- STRUNC (R476). -/
  | strunc (x : RFields)
  /-- SMIGR (R487). -/
  | smigr (x : RFields)
  /-- SRET (R484). -/
  | sret (x : RFields)
  /-- JOIN (R485). -/
  | join (x : RFields)
  /-- TRAP (R427). -/
  | trap (x : IFields)
  /-- ERET (R428). -/
  | eret (x : RFields)
  /-- SYSR (R429). -/
  | sysr (x : IFields)
  /-- SYSW (R424). -/
  | sysw (x : IFields)
  /-- BRK (R430). -/
  | brk (x : IFields)
  /-- HALT (R431). -/
  | halt (x : RFields)
  /-- JRNL (R432). -/
  | jrnl (x : RFields)
  /-- TRACE (R447). -/
  | trace (x : RFields)
  /-- TRIG (R448). -/
  | trig (x : RFields)
  /-- WATCH (R449). -/
  | watch (x : RFields)
  /-- SMP_MOV (R468). -/
  | smpMov (x : MicroFields)
  /-- SMP_LDI (R468). -/
  | smpLdi (x : MicroFields)
  /-- SMP_ADD (R468). -/
  | smpAdd (x : MicroFields)
  /-- SMP_SUB (R468). -/
  | smpSub (x : MicroFields)
  /-- SMP_MUL (R468). -/
  | smpMul (x : MicroFields)
  /-- SMP_FADD (R468). -/
  | smpFadd (x : MicroFields)
  /-- SMP_FMUL (R468). -/
  | smpFmul (x : MicroFields)
  /-- SMP_FEXP (R468). -/
  | smpFexp (x : MicroFields)
  /-- SMP_FMAX (R468). -/
  | smpFmax (x : MicroFields)
  /-- SMP_CMP (R468). -/
  | smpCmp (x : MicroFields)
  /-- SMP_BR (R468). -/
  | smpBr (x : MicroFields)
  /-- SMP_BRC (R468). -/
  | smpBrc (x : MicroFields)
  /-- SMP_LOOP (R468). -/
  | smpLoop (x : MicroFields)
  /-- SMP_CLD (R469). -/
  | smpCld (x : MicroFields)
  /-- SMP_CST (R469). -/
  | smpCst (x : MicroFields)
  /-- SMP_CSORTK (R469). -/
  | smpCsortk (x : MicroFields)
  /-- SMP_CSCAN (R469). -/
  | smpCscan (x : MicroFields)
  /-- SMP_CSEL (R469). -/
  | smpCsel (x : MicroFields)
  /-- SMP_RNG (R469). -/
  | smpRng (x : MicroFields)
  /-- SMP_CTRSET (R469). -/
  | smpCtrset (x : MicroFields)
  /-- SMP_CTRGET (R469). -/
  | smpCtrget (x : MicroFields)
  /-- SMP_EMIT (R465). -/
  | smpEmit (x : MicroFields)
  /-- SMP_HALT (R465). -/
  | smpHalt (x : MicroFields)
  /-- SMP_FAULT (R466). -/
  | smpFault (x : MicroFields)
  /-- SAMPLER_DISPATCH (R463). -/
  | samplerDispatch (die : Nat)
  /-- SAMPLER_TIMEOUT (R466). -/
  | samplerTimeout (die : Nat) (k : Nat)
  /-- MODULE_RESET (R103). -/
  | moduleReset (img : BootImage)
  /-- LGO_GO (R110). -/
  | lgoGo (slot : Nat)
  /-- LGO_STOP (R109). -/
  | lgoStop (slot : Nat)
  /-- LGO_KILL (R109). -/
  | lgoKill (slot : Nat)
  /-- XLRESOLVE (R113). -/
  | xlresolve (tag : BitVec 16) (fail : Bool)
  /-- PRECTL_SUSPEND (R416). -/
  | prectlSuspend (slot : Nat) (share : Bool)
  /-- PRECTL_RESUME (R421). -/
  | prectlResume (slot : Nat)
  /-- CLKRST (R362). -/
  | clkrst
  /-- SLOTCTL_COMMIT (R279). -/
  | slotctlCommit (chan : Nat)
  /-- SLOT_TABLE_SWITCH (R279). -/
  | slotTableSwitch (chan : Nat)
  /-- PWRCTL_TARGET (R512). -/
  | pwrctlTarget (target : BitVec 2)
  /-- POWER_TRANSITION_DONE (R512). -/
  | powerTransitionDone
  /-- CGATE_REQUEST (R513). -/
  | cgateRequest (cluster : Nat) (gate : Bool)
  /-- CLUSTER_UNGATE_DONE (R513). -/
  | clusterUngateDone (cluster : Nat)
  /-- MBCMD_READ_COUNTERS (R518). -/
  | mbcmdReadCounters
  /-- FIRMWARE_IMAGE_INSTALL (R103). -/
  | firmwareImageInstall (img : BootImage)
  /-- OWNER_KEY_LOAD (R104). -/
  | ownerKeyLoad (owner : Nat) (root : BitVec 64)
  /-- OWNER_KEY_UNLOAD (R104). -/
  | ownerKeyUnload (owner : Nat)
  /-- ATTESTATION_REQUEST (R106). -/
  | attestationRequest
  /-- REGISTER_WRITE (R100). -/
  | registerWrite (off : Nat) (wide : Bool) (value : BitVec 64)
  /-- HOST_CXL_MEM_READ (R334). -/
  | hostCxlMemRead (dec : Nat) (pa : Nat) (size : Nat)
  /-- HOST_CXL_MEM_WRITE (R334). -/
  | hostCxlMemWrite (dec : Nat) (pa : Nat) (data : List Byte)
  /-- CXL_CACHE_SNOOP (R334). -/
  | cxlCacheSnoop (pa : Nat) (write : Bool)
  /-- SUCCESSOR_READY (R114). -/
  | successorReady (slot : Nat)
  /-- POOL_OVERFLOW_TRANSFER (R116). -/
  | poolOverflowTransfer (die : Nat)
  /-- CARAVAN_DISPATCH (R118). -/
  | caravanDispatch (die : Nat) (cls : UnitClass)
  /-- GANG_CLOSE (R122). -/
  | gangClose (die : Nat) (idx : Nat)
  /-- GANG_COMPLETION (R126). -/
  | gangCompletion (die : Nat) (gslot : Nat)
  /-- CONDITION_EVAL (R85). -/
  | conditionEval (die : Nat)
  /-- SWITCH_EVAL (R85). -/
  | switchEval (die : Nat)
  /-- LOOP_EVAL (R86). -/
  | loopEval (die : Nat)
  /-- STREAM_DRIVE (R88). -/
  | streamDrive (slot : Nat)
  /-- STREAM_DRIVE_COMPLETE (R88). -/
  | streamDriveComplete (slot : Nat)
  /-- LAUNCH_END (R112). -/
  | launchEnd (slot : Nat)
  /-- NWAIT_TIMEOUT (R132). -/
  | nwaitTimeout (core : Nat)
  /-- YIELD_EXPIRE (R156). -/
  | yieldExpire (core : Nat) (ctx : Nat)
  /-- QUEUE_DEADLOCK (R150). -/
  | queueDeadlock (core : Nat) (qset : Nat)
  /-- REGCACHE_REFILL (R144). -/
  | regcacheRefill (core : Nat) (ctx : Nat) (line : Nat)
  /-- FETCH_BLOCK_FILL (R182). -/
  | fetchBlockFill (core : Nat) (ctx : Nat) (block : BitVec 64)
  /-- ASYNC_TRAP_DELIVERY (R411). -/
  | asyncTrapDelivery (core : Nat) (ctx : Nat)
  /-- PREEMPT_POINT (R418). -/
  | preemptPoint (core : Nat) (ctx : Nat)
  /-- CONTEXT_SAVED (R419). -/
  | contextSaved (core : Nat) (ctx : Nat)
  /-- CONTEXT_RESUME (R421). -/
  | contextResume (core : Nat) (ctx : Nat)
  /-- HOME_LOAD (R326). -/
  | homeLoad (req : HomeReq)
  /-- HOME_STORE (R326). -/
  | homeStore (req : HomeReq) (data : List Byte)
  /-- LINE_RECALL (R331). -/
  | lineRecall (line : Nat)
  /-- WLQ_ENTRY_DEPART (R274). -/
  | wlqEntryDepart (core : Nat)
  /-- WLQ_ENTRY_ACCEPT (R274). -/
  | wlqEntryAccept (core : Nat)
  /-- WRITE_WINDOW_END (R276). -/
  | writeWindowEnd (core : Nat)
  /-- HBM_SLOT_SERVICE (R280). -/
  | hbmSlotService (chan : Nat)
  /-- PAGE_WALK (R174). -/
  | pageWalk (owner : Nat) (va : BitVec 64) (agent : Nat) (kind : Nat) (slot : Nat)
  /-- PAGE_MOVE_COMPLETE (R172). -/
  | pageMoveComplete (cluster : Nat)
  /-- IMPORT_WRITE (R338). -/
  | importWrite (die : Nat) (pa : Nat) (data : List Byte) (src : Nat) (tag : BitVec 64)
  /-- REMOTE_ACK (R337). -/
  | remoteAck (core : Nat) (ctx : Nat)
  /-- MACRO_OP_ACCEPT (R252). -/
  | macroOpAccept (cluster : Nat)
  /-- MLOADB_COMPLETE (R258). -/
  | mloadbComplete (cluster : Nat)
  /-- MACC_EXECUTE (R259). -/
  | maccExecute (cluster : Nat)
  /-- SCALE_FIFO_TIMEOUT (R259). -/
  | scaleFifoTimeout (cluster : Nat)
  /-- MREAD_EXECUTE (R261). -/
  | mreadExecute (cluster : Nat)
  /-- MSOFT_EXECUTE (R264). -/
  | msoftExecute (cluster : Nat)
  /-- MTILE_MACRO_OP (R257). -/
  | mtileMacroOp (cluster : Nat)
  /-- MATRIX_NODE_RUN (R265). -/
  | matrixNodeRun (cluster : Nat)
  /-- SPLITK_CONTRIBUTION (R521). -/
  | splitkContribution (src : Nat)
  /-- COPY_ENGINE_TAKE (R297). -/
  | copyEngineTake (core : Nat)
  /-- COPY_NODE_DISPATCH (R522). -/
  | copyNodeDispatch (unit : NodeUnit)
  /-- COPY_COMPLETE (R303). -/
  | copyComplete (cluster : Nat)
  /-- COPY_STOP (R304). -/
  | copyStop (cluster : Nat)
  /-- BATCH_COMPLETE (R305). -/
  | batchComplete (core : Nat) (ctx : Nat)
  /-- DEST_ARITH_APPLY (R307). -/
  | destArithApply (core : Nat)
  /-- POSTED_WRITE_APPLY (R310). -/
  | postedWriteApply (core : Nat)
  /-- POSTED_WRITE_ACK (R308). -/
  | postedWriteAck (core : Nat) (entry : Nat)
  /-- POSTED_WRITE_REFUSAL (R309). -/
  | postedWriteRefusal (core : Nat) (entry : Nat)
  /-- NMC_EXECUTE (R313). -/
  | nmcExecute (stack : Nat)
  /-- NMC_STOP (R314). -/
  | nmcStop (stack : Nat)
  /-- BARRIER_UPDATE (R375). -/
  | barrierUpdate (core : Nat)
  /-- SYNC_BARRIER_COMPLETE (R384). -/
  | syncBarrierComplete (dom : Nat)
  /-- EXCHANGE_SLOT_BEGIN (R384). -/
  | exchangeSlotBegin (dom : Nat)
  /-- EXCHANGE_PHASE_END (R385). -/
  | exchangePhaseEnd (dom : Nat)
  /-- XSEND_DELIVER (R386). -/
  | xsendDeliver (dom : Nat)
  /-- WADI_RESOLVE (R482). -/
  | wadiResolve (die : Nat) (group : Nat)
  /-- JOIN_NODE (R486). -/
  | joinNode (die : Nat)
  /-- XANWELL_OPEN (R489). -/
  | xanwellOpen (flit : Flit)
  /-- XANWELL_PAGE (R489). -/
  | xanwellPage (flit : Flit)
  /-- XANWELL_QUEUE (R489). -/
  | xanwellQueue (flit : Flit)
  /-- XANWELL_CLOSE (R489). -/
  | xanwellClose (flit : Flit)
  /-- XANWELL_RESULT (R489). -/
  | xanwellResult (flit : Flit)
  /-- XANWELL_PUT (R490). -/
  | xanwellPut (flit : Flit)
  /-- XANWELL_GET (R490). -/
  | xanwellGet (flit : Flit)
  /-- XANWELL_DATA (R490). -/
  | xanwellData (flit : Flit)
  /-- XANWELL_ACK (R490). -/
  | xanwellAck (flit : Flit)
  /-- XANWELL_UNDEFINED_FLIT (R490). -/
  | xanwellUndefinedFlit (port : Nat) (flit : Flit)
  /-- SIROCCO_RECORD_COPY (R438). -/
  | siroccoRecordCopy (core : Nat)
  /-- SIROCCO_FRAME_CLOSE (R439). -/
  | siroccoFrameClose (die : Nat)
  /-- LINK_MAP_SNAPSHOT (R441). -/
  | linkMapSnapshot
  /-- THERMAL_WARN (R514). -/
  | thermalWarn (tj : BitVec 16)
  /-- THERMAL_TRIP (R514). -/
  | thermalTrip (tj : BitVec 16)
  /-- STORAGE_ERROR (R515). -/
  | storageError (site : ErrorSite) (correctable : Bool) (syndrome : BitVec 64)
  /-- FLASH_COUNTER_UPDATE (R518). -/
  | flashCounterUpdate
  /-- ISSUE_GOVERNOR_TOKEN (R255). -/
  | issueGovernorToken
  /-- REMOTE_LOCAL_LOAD (R289). -/
  | remoteLocalLoad (core : Nat) (ctx : Nat) (va : BitVec 64) (size : Nat)
  /-- XM_PORT_SERVICE (R282). -/
  | xmPortService (die : Nat)
  /-- CXL_CACHE_RESPONSE (R99). -/
  | cxlCacheResponse (data : List Byte)
  /-- LINK_TRAINING (R99); 1,024 is added to the rate where the other end offers only 68-byte flits. -/
  | linkTraining (port : Nat) (width : Nat) (rate : Nat)
  /-- XANWELL_LINK_FAILURE (R489). -/
  | xanwellLinkFailure (transfer : Nat)
  /-- POWER_LOSS (R518). -/
  | powerLoss
  /-- UNIT_MACHINE_CHECK (R407). -/
  | unitMachineCheck (unit : EngineUnit) (detail : BitVec 64)
  deriving DecidableEq, Repr

end Sys2Proof
end

