-- ==== Sys2Proof/WellFormed.lean ====
section
/-! DEFINITION. Which instructions are well formed: one row per opcode says which forms, types and fields its entry
accepts (R55-R62, R65 and the entries), and `Instr.wf` checks an instruction against its row. The checks that need the
front end or an operand's value (INS.UNIT, INS.QDIR, R63 orders 4, 6, 7) belong to the meanings. -/
namespace Sys2Proof

/-- Front ends on which an opcode is eligible (R65). -/
inductive FrontEnds where
  | both | a | x
  deriving DecidableEq, Repr

/-- What a register field names (R53, R58, R62). `none`: unused, must be 0. `src`, `dst`: the scalar namespace of R58.
`reg`: s0-s31 or g0-g15 (R206, R193). `pair`: an even register naming two (R132, R364). `dstNoQ`, `srcNoQ`: no queue
(R370, R371). `quad`: the first of four registers (R315). `vec`: v0-v31. `maskDst`: m1-m7. `slide`: 1-24 (R196).
`bq`: the code of bq (R189). `any`: fixed by the entry's function, see `Instr.extraOk`. -/
inductive Role where
  | none | src | dst | reg | pair | dstNoQ | srcNoQ | quad | vec | maskDst | slide | bq | any
  deriving DecidableEq, Repr

/-- One row of the instruction set: what the entry of an opcode accepts. -/
structure OpSpec where
  op     : BitVec 8
  fe     : FrontEnds := .both
  word   : Bool := true
  ext    : Bool := true
  lit    : Bool := false
  extLit : Bool := false
  tys    : List Nat := [0]
  defTy  : BitVec 6 := 0
  rm     : Bool := false
  sc     : Bool := false
  defSc  : BitVec 3 := 0
  f2     : Bool := false
  sat    : Bool := false
  subMax : Nat := 0
  fnMax  : Nat := 0
  imm    : Bool := false
  off    : Bool := false
  a      : Role := .none
  b      : Role := .none
  c      : Role := .none
  /-- C has a role for some functions only; for the others it may hold 0 or 48 (R204, R55). -/
  cIdle  : Bool := false
  d      : Role := .none
  m      : Bool := false
  deriving DecidableEq, Repr

/-- i8-i64, n8-n64 (R60). -/
def ints : List Nat := [0, 1, 2, 3, 4, 5, 6, 7]
/-- The vector integer types of R228. -/
def vecInts : List Nat := [0, 1, 2, 4, 5, 6]
/-- The vector float types of R228. -/
def vecFloats : List Nat := [8, 9, 10]
/-- The vector types of R228. -/
def vecTypes : List Nat := [0, 1, 2, 4, 5, 6, 8, 9, 10]
/-- VCVT's sources and destinations (R235). -/
def cvtTypes : List Nat := [0, 1, 2, 4, 5, 6, 8, 9, 10, 11, 12, 13]
/-- The types of VRED and VSCAN (R243, R244). -/
def redTypes : List Nat := [2, 6, 8]
/-- FOP's types, FN 8 and 9 (R221). -/
def fopTypes : List Nat := [0, 1, 2, 3, 4, 5, 6, 7, 8, 9, 10, 11, 12, 13]
/-- The types a memory access accepts (R284, R289, R290). -/
def memTypes : List Nat := [0, 1, 2, 3, 4, 5, 6, 7, 8, 9, 10, 11, 12]
/-- TY of the windowed vector accesses (R287, R288): 0, or fp8e4 and fp8e5 for f8d. -/
def winTypes : List Nat := [0, 11, 12]
/-- TY of VSTL: as `winTypes`, and the source types through pln (R287). DESIGN CHOICE (log 34): R36 and R287 list no source types of a
plane write; the model takes every type of at most 32 bits, fp4, fp8e4 and fp8e5 among them, and fp4b. -/
def laneTypes : List Nat := [0, 1, 2, 4, 5, 6, 8, 9, 10, 11, 12, 13, 14]
/-- The types of kind add (R299). -/
def arithTypes : List Nat := [2, 6, 3, 7, 8, 9]
/-- The types of AMO, CAS, SIGNAL and WAITSIG (R364, R382). -/
def atomTypes : List Nat := [2, 6, 3, 7]

/-- The row of each opcode (R64, R65 and the entries); none for micro-instructions and events. -/
def Instr.spec : Instr → Option OpSpec
  | .add _ => some { op := 0x00, lit := true, extLit := true, tys := ints, defTy := 3, a := .src, b := .src, d := .dst }
  | .sub _ => some { op := 0x01, lit := true, extLit := true, tys := ints, defTy := 3, a := .src, b := .src, d := .dst }
  | .mul _ => some { op := 0x02, lit := true, extLit := true, tys := ints, defTy := 3, a := .src, b := .src, d := .dst }
  | .mulh _ => some { op := 0x03, lit := true, extLit := true, tys := ints, defTy := 3, a := .src, b := .src, d := .dst }
  | .div _ => some { op := 0x04, lit := true, extLit := true, tys := ints, defTy := 3, a := .src, b := .src, d := .dst }
  | .rem _ => some { op := 0x05, lit := true, extLit := true, tys := ints, defTy := 3, a := .src, b := .src, d := .dst }
  | .and _ => some { op := 0x06, lit := true, extLit := true, tys := ints, defTy := 3, a := .src, b := .src, d := .dst }
  | .or _ => some { op := 0x07, lit := true, extLit := true, tys := ints, defTy := 3, a := .src, b := .src, d := .dst }
  | .xor _ => some { op := 0x08, lit := true, extLit := true, tys := ints, defTy := 3, a := .src, b := .src, d := .dst }
  | .andn _ => some { op := 0x09, lit := true, extLit := true, tys := ints, defTy := 3, a := .src, b := .src, d := .dst }
  | .shl _ => some { op := 0x0A, lit := true, extLit := true, tys := ints, defTy := 3, a := .src, b := .src, d := .dst }
  | .shr _ => some { op := 0x0B, lit := true, extLit := true, tys := ints, defTy := 3, fnMax := 1, a := .src, b := .src, d := .dst }
  | .rot _ => some { op := 0x0C, lit := true, extLit := true, tys := ints, defTy := 3, fnMax := 1, a := .src, b := .src, d := .dst }
  | .min _ => some { op := 0x0D, lit := true, extLit := true, tys := ints, defTy := 3, a := .src, b := .src, d := .dst }
  | .max _ => some { op := 0x0E, lit := true, extLit := true, tys := ints, defTy := 3, a := .src, b := .src, d := .dst }
  | .cmp _ => some { op := 0x0F, lit := true, extLit := true, tys := ints, defTy := 3, fnMax := 10, a := .src, b := .src, d := .dst }
  | .addi _ => some { op := 0x10, lit := true, extLit := true, tys := ints, defTy := 3, a := .src, d := .dst }
  | .andi _ => some { op := 0x11, lit := true, extLit := true, tys := ints, defTy := 3, a := .src, d := .dst }
  | .ori _ => some { op := 0x12, lit := true, extLit := true, tys := ints, defTy := 3, a := .src, d := .dst }
  | .xori _ => some { op := 0x13, lit := true, extLit := true, tys := ints, defTy := 3, a := .src, d := .dst }
  | .shli _ => some { op := 0x14, lit := true, extLit := true, tys := ints, defTy := 3, a := .src, d := .dst }
  | .shri _ => some { op := 0x15, lit := true, extLit := true, tys := ints, defTy := 3, a := .src, d := .dst }
  | .cmpi _ => some { op := 0x16, lit := true, extLit := true, tys := ints, defTy := 3, a := .src, d := .dst }
  | .lit _ => some { op := 0x17, lit := true, extLit := true, d := .dst }
  | .sel _ => some { op := 0x18, lit := true, extLit := true, fnMax := 2, a := .src, b := .src, d := .reg }
  | .bcnt _ => some { op := 0x19, tys := ints, defTy := 3, fnMax := 3, a := .src, d := .dst }
  | .bfx _ => some { op := 0x1A, lit := true, extLit := true, fnMax := 1, a := .src, b := .src, d := .dst }
  | .bfi _ => some { op := 0x1B, lit := true, extLit := true, a := .src, b := .src, d := .reg }
  | .addr _ => some { op := 0x1C, lit := true, extLit := true, fnMax := 7, imm := true, a := .src, b := .src, d := .dst }
  | .adds _ => some { op := 0x1D, lit := true, extLit := true, tys := ints, defTy := 3, fnMax := 1, a := .src, b := .src, d := .dst }
  | .fop _ => some { op := 0x1E, lit := true, extLit := true, tys := fopTypes, defTy := 8, rm := true, fnMax := 10, c := .src, cIdle := true, a := .src, b := .src, d := .dst }
  | .mad _ => some { op := 0x1F, lit := true, extLit := true, tys := ints, defTy := 3, c := .src, a := .src, b := .src, d := .dst }
  | .br _ => some { op := 0x20, lit := true, extLit := true, off := true }
  | .bz _ => some { op := 0x21, lit := true, extLit := true, off := true, fnMax := 5, a := .src }
  | .bcmp _ => some { op := 0x22, word := false, extLit := true, off := true, fnMax := 7, a := .src, c := .src, imm := true, f2 := true }
  | .call _ => some { op := 0x23, lit := true, extLit := true, off := true, a := .slide }
  | .ret _ => some { op := 0x24 }
  | .jr _ => some { op := 0x25, a := .src }
  | .callr _ => some { op := 0x26, a := .src, d := .slide }
  | .loop _ => some { op := 0x27, lit := true, extLit := true, off := true, a := .reg }
  | .bq _ => some { op := 0x28, lit := true, extLit := true, fe := .x, off := true, fnMax := 1, a := .bq }
  | .jtab _ => some { op := 0x29, a := .src, b := .src }
  | .nop _ => some { op := 0x2A, ext := false }
  | .ldl _ => some { op := 0x30, tys := memTypes, defTy := 3, a := .src, d := .dst }
  | .stl _ => some { op := 0x31, tys := memTypes, defTy := 3, rm := true, a := .src, d := .src }
  | .vldl _ => some { op := 0x32, word := false, extLit := true, fe := .x, tys := winTypes, f2 := true, c := .src, imm := true, d := .vec, m := true }
  | .vstl _ => some { op := 0x33, word := false, extLit := true, fe := .x, tys := laneTypes, f2 := true, sat := true, subMax := 15, rm := true, c := .src, imm := true, a := .vec, m := true }
  | .vgathl _ => some { op := 0x34, word := false, extLit := true, fe := .x, tys := winTypes, c := .src, imm := true, b := .vec, d := .vec, m := true }
  | .vscatl _ => some { op := 0x35, word := false, extLit := true, fe := .x, tys := winTypes, rm := true, c := .src, imm := true, b := .vec, a := .vec, m := true }
  | .ldtx _ => some { op := 0x36, word := false, extLit := true, fe := .x, subMax := 7, c := .src, imm := true, d := .vec, m := true }
  | .rrot _ => some { op := 0x37, lit := true, extLit := true, a := .src, b := .src, d := .dst }
  | .bankmode _ => some { op := 0x38, ext := false, fe := .a, a := .src, b := .src, d := .dst }
  | .fpush _ => some { op := 0x39, ext := false, fnMax := 1, a := .src, b := .src, d := .dst }
  | .fpop _ => some { op := 0x3A, ext := false, fnMax := 1, a := .src, d := .dst }
  | .rstl _ => some { op := 0x3B, lit := true, extLit := true, fe := .a, tys := ints, defTy := 3, a := .src, b := .src, d := .dst }
  | .radd _ => some { op := 0x3C, lit := true, extLit := true, fe := .a, tys := arithTypes, defTy := 3, fnMax := 2, f2 := true, sat := true, a := .src, b := .src, d := .dst }
  | .ld _ => some { op := 0x40, lit := true, extLit := true, fe := .a, tys := memTypes, defTy := 3, a := .src, d := .dst }
  | .st _ => some { op := 0x41, lit := true, extLit := true, fe := .a, tys := memTypes, defTy := 3, sc := true, defSc := 4, f2 := true, a := .src, d := .src }
  | .vld _ => some { op := 0x42, word := false, extLit := true, fe := .a, c := .src, imm := true, d := .vec, m := true }
  | .vst _ => some { op := 0x43, word := false, extLit := true, fe := .a, sc := true, c := .src, imm := true, a := .vec, m := true }
  | .vgath _ => some { op := 0x44, word := false, extLit := true, fe := .a, c := .src, imm := true, b := .vec, d := .vec, m := true }
  | .vscat _ => some { op := 0x45, word := false, extLit := true, fe := .a, sc := true, c := .src, imm := true, b := .vec, a := .vec, m := true }
  | .pref _ => some { op := 0x46, lit := true, extLit := true, fe := .a, f2 := true, a := .src }
  | .wlq _ => some { op := 0x47, ext := false, fe := .a, fnMax := 1, a := .src, d := .dst }
  | .wlwait _ => some { op := 0x48, fe := .a, sc := true, defSc := 4 }
  | .amo _ => some { op := 0x50, fe := .a, sc := true, defSc := 4, imm := true, tys := atomTypes, defTy := 3, fnMax := 6, subMax := 3, a := .src, b := .src, d := .dst }
  | .cas _ => some { op := 0x51, fe := .a, sc := true, defSc := 4, imm := true, tys := atomTypes, defTy := 3, subMax := 3, c := .src, a := .src, b := .src, d := .dst }
  | .cas2 _ => some { op := 0x52, fe := .a, sc := true, defSc := 4, imm := true, subMax := 3, c := .pair, a := .src, b := .pair, d := .pair }
  | .lda _ => some { op := 0x53, lit := true, extLit := true, fe := .a, tys := ints, defTy := 3, sc := true, defSc := 4, a := .src, d := .dstNoQ }
  | .strel _ => some { op := 0x54, lit := true, extLit := true, fe := .a, tys := ints, defTy := 3, sc := true, defSc := 4, a := .src, d := .srcNoQ }
  | .fence _ => some { op := 0x55, fe := .a, sc := true, defSc := 4 }
  | .afadd _ => some { op := 0x56, fe := .a, sc := true, defSc := 4, imm := true, tys := [8], defTy := 8, rm := true, subMax := 3, a := .src, b := .src, d := .dst }
  | .lda2 _ => some { op := 0x57, lit := true, extLit := true, fe := .a, sc := true, defSc := 4, a := .src, d := .pair }
  | .barinit _ => some { op := 0x60, fe := .a, a := .src, b := .src }
  | .arrive _ => some { op := 0x61, fe := .a, a := .src, b := .src, d := .dst }
  | .waitph _ => some { op := 0x62, fe := .a, a := .src, b := .src, d := .dst }
  | .testph _ => some { op := 0x63, fe := .a, a := .src, b := .src, d := .dst }
  | .expect _ => some { op := 0x64, fe := .a, a := .src, b := .src }
  | .signal _ => some { op := 0x65, fe := .a, sc := true, defSc := 4, imm := true, tys := atomTypes, defTy := 3, fnMax := 1, a := .src, b := .src, d := .dst }
  | .waitsig _ => some { op := 0x66, fe := .a, sc := true, defSc := 4, imm := true, tys := atomTypes, defTy := 3, fnMax := 7, a := .src, b := .src, d := .dst }
  | .domain _ => some { op := 0x67, fe := .a, fnMax := 2, a := .src, b := .src, d := .dst }
  | .sync _ => some { op := 0x68, fe := .a, d := .dst }
  | .xsend _ => some { op := 0x69, fe := .a, fnMax := 15, a := .src, b := .src }
  | .xwait _ => some { op := 0x6A, fe := .a, fnMax := 1, a := .src, d := .dst }
  | .start _ => some { op := 0x70, ext := false, fe := .a, fnMax := 13, a := .src, b := .src, d := .dst }
  | .endHelper _ => some { op := 0x71, ext := false }
  | .hwait _ => some { op := 0x72, ext := false, fe := .a, a := .src, d := .dst }
  | .qbind _ => some { op := 0x73, ext := false, fe := .a, fnMax := 1, a := .src }
  | .qstat _ => some { op := 0x74, ext := false, a := .src, d := .dst }
  | .vclaim _ => some { op := 0x75, ext := false, fe := .x, a := .src, d := .dst }
  | .vyield _ => some { op := 0x76, ext := false, fe := .x, a := .src, d := .dst }
  | .yield _ => some { op := 0x77, ext := false, a := .src }
  | .nwait _ => some { op := 0x78, ext := false, fe := .a, a := .src, d := .pair }
  | .ndone _ => some { op := 0x79, ext := false, fe := .a, a := .src }
  | .task _ => some { op := 0x7A, ext := false, fe := .a, a := .src, b := .src, d := .dst }
  | .vadd _ => some { op := 0x80, lit := true, extLit := true, fe := .x, tys := vecTypes, defTy := 8, rm := true, sat := true, a := .vec, b := .vec, d := .vec, m := true }
  | .vsub _ => some { op := 0x81, lit := true, extLit := true, fe := .x, tys := vecTypes, defTy := 8, rm := true, sat := true, a := .vec, b := .vec, d := .vec, m := true }
  | .vmul _ => some { op := 0x82, lit := true, extLit := true, fe := .x, tys := vecTypes, defTy := 8, rm := true, sat := true, a := .vec, b := .vec, d := .vec, m := true }
  | .vfma _ => some { op := 0x83, lit := true, extLit := true, fe := .x, tys := vecTypes, defTy := 8, rm := true, sat := true, a := .vec, b := .vec, d := .vec, m := true }
  | .vmin _ => some { op := 0x84, lit := true, extLit := true, fe := .x, tys := vecTypes, defTy := 8, a := .vec, b := .vec, d := .vec, m := true }
  | .vmax _ => some { op := 0x85, lit := true, extLit := true, fe := .x, tys := vecTypes, defTy := 8, a := .vec, b := .vec, d := .vec, m := true }
  | .vand _ => some { op := 0x86, lit := true, extLit := true, fe := .x, tys := vecInts, defTy := 2, a := .vec, b := .vec, d := .vec, m := true }
  | .vor _ => some { op := 0x87, lit := true, extLit := true, fe := .x, tys := vecInts, defTy := 2, a := .vec, b := .vec, d := .vec, m := true }
  | .vxor _ => some { op := 0x88, lit := true, extLit := true, fe := .x, tys := vecInts, defTy := 2, a := .vec, b := .vec, d := .vec, m := true }
  | .vshl _ => some { op := 0x89, lit := true, extLit := true, fe := .x, tys := vecInts, defTy := 2, a := .vec, b := .vec, d := .vec, m := true }
  | .vshr _ => some { op := 0x8A, lit := true, extLit := true, fe := .x, tys := vecInts, defTy := 2, fnMax := 1, a := .vec, b := .vec, d := .vec, m := true }
  | .vcmp _ => some { op := 0x8B, lit := true, extLit := true, fe := .x, tys := vecTypes, defTy := 8, f2 := true, fnMax := 7, a := .vec, b := .vec, d := .maskDst, m := true }
  | .vsel _ => some { op := 0x8C, lit := true, extLit := true, fe := .x, a := .vec, b := .vec, d := .vec, m := true }
  | .vcvt _ => some { op := 0x8D, word := false, extLit := true, fe := .x, tys := cvtTypes, rm := true, subMax := 63, imm := true, a := .vec, d := .vec, m := true }
  | .vneg _ => some { op := 0x8E, fe := .x, tys := vecTypes, defTy := 8, rm := true, sat := true, fnMax := 1, a := .vec, d := .vec, m := true }
  | .vdot4 _ => some { op := 0x8F, lit := true, extLit := true, fe := .x, fnMax := 2, a := .vec, b := .vec, d := .vec, m := true }
  | .vsfu _ => some { op := 0x90, fe := .x, tys := vecFloats, defTy := 8, rm := true, fnMax := 8, a := .vec, d := .vec, m := true }
  | .vmov _ => some { op := 0x91, lit := true, extLit := true, fe := .x, tys := vecTypes, defTy := 8, fnMax := 1, c := .src, cIdle := true, a := .vec, d := .vec, m := true }
  | .vidx _ => some { op := 0x92, lit := true, extLit := true, fe := .x, tys := vecInts, defTy := 2, c := .src, d := .vec, m := true }
  | .vext _ => some { op := 0x93, word := false, extLit := true, fe := .x, tys := vecTypes, c := .dst, imm := true, a := .vec }
  | .vins _ => some { op := 0x94, word := false, extLit := true, fe := .x, tys := vecTypes, c := .src, imm := true, d := .vec }
  | .vclamp _ => some { op := 0x95, fe := .x, tys := vecTypes, defTy := 8, c := .src, a := .vec, d := .vec, m := true }
  | .vquant _ => some { op := 0x96, lit := true, extLit := true, fe := .x, tys := [8], defTy := 8, rm := true, a := .vec, d := .vec, m := true }
  | .mop _ => some { op := 0x97, fe := .x, fnMax := 7, c := .any, a := .vec, b := .vec, d := .vec }
  | .vshuf _ => some { op := 0xA0, lit := true, extLit := true, fe := .x, fnMax := 1, a := .vec, b := .vec, d := .vec, m := true }
  | .vrot _ => some { op := 0xA1, lit := true, extLit := true, fe := .x, fnMax := 2, c := .src, a := .vec, d := .vec, m := true }
  | .vvote _ => some { op := 0xA2, fe := .x, fnMax := 3, c := .dst, a := .vec, d := .vec, m := true }
  | .vmatch _ => some { op := 0xA3, fe := .x, fnMax := 2, c := .any, a := .vec, d := .vec, m := true }
  | .vred _ => some { op := 0xA4, lit := true, extLit := true, fe := .x, tys := redTypes, defTy := 8, rm := true, sat := true, subMax := 7, fnMax := 5, c := .dst, a := .vec, d := .vec, m := true }
  | .vscan _ => some { op := 0xA5, lit := true, extLit := true, fe := .x, tys := redTypes, defTy := 8, rm := true, sat := true, fnMax := 3, a := .vec, d := .vec, m := true }
  | .vcomp _ => some { op := 0xA6, fe := .x, fnMax := 1, c := .dst, a := .vec, d := .vec, m := true }
  | .vbcast _ => some { op := 0xA7, lit := true, extLit := true, fe := .x, subMax := 7, c := .src, a := .vec, d := .vec, m := true }
  | .mtile _ => some { op := 0xB0, fe := .x, fnMax := 3, a := .src, b := .src, d := .dst }
  | .mloadb _ => some { op := 0xB1, fe := .x, tys := [0, 1, 13], a := .src, b := .src }
  | .macc _ => some { op := 0xB2, fe := .x, a := .src, b := .src }
  | .mread _ => some { op := 0xB3, fe := .x, tys := [8, 9, 10, 11, 12, 0, 1, 2, 15], defTy := 8, rm := true, a := .src, b := .src }
  | .mscale _ => some { op := 0xB4, fe := .x, fnMax := 3, a := .vec, b := .vec }
  | .mwait _ => some { op := 0xB5, fe := .x, a := .src, d := .dst }
  | .mstat _ => some { op := 0xB6, fe := .x, fnMax := 5, a := .src, d := .dst }
  | .msoft _ => some { op := 0xB7, fe := .x, word := false, tys := [8, 9], rm := true, fnMax := 1, c := .src, imm := true, a := .src, b := .src }
  | .cpq _ => some { op := 0xC0, ext := false, fe := .a, fnMax := 1, a := .quad, d := .dst }
  | .cpseal _ => some { op := 0xC1, ext := false, fe := .a, d := .dst }
  | .cpwait _ => some { op := 0xC2, ext := false, fe := .a, a := .src, d := .dst }
  | .cpstat _ => some { op := 0xC3, ext := false, fe := .a, fnMax := 3, d := .dst }
  | .nmc _ => some { op := 0xC4, ext := false, fe := .a, a := .quad, d := .dst }
  | .nmfence _ => some { op := 0xC5, ext := false, fe := .a, d := .dst }
  | .snew _ => some { op := 0xD0, ext := false, fe := .a, a := .src, b := .src, d := .dst }
  | .fork _ => some { op := 0xD1, ext := false, fe := .a, a := .src, b := .src, d := .dst }
  | .sbind _ => some { op := 0xD2, ext := false, fe := .a, a := .src, d := .dst }
  | .pplace _ => some { op := 0xD3, ext := false, fe := .a, a := .src, b := .src, d := .dst }
  | .squery _ => some { op := 0xD4, ext := false, fe := .a, fnMax := 6, a := .src, b := .src, d := .dst }
  | .sstep _ => some { op := 0xD5, ext := false, fe := .a, fnMax := 4, a := .src, b := .src, d := .dst }
  | .apush _ => some { op := 0xD6, ext := false, fe := .a, fnMax := 1, a := .src, b := .src, d := .dst }
  | .apop _ => some { op := 0xD7, ext := false, fe := .a, fnMax := 1, a := .src, d := .pair }
  | .strunc _ => some { op := 0xD8, word := false, extLit := true, fe := .a, f2 := true, c := .src, a := .src, b := .src, d := .dst }
  | .smigr _ => some { op := 0xD9, word := false, extLit := true, fe := .a, c := .src, a := .src, b := .src, d := .dst }
  | .sret _ => some { op := 0xDA, ext := false, fe := .a, fnMax := 1, a := .src, b := .src, d := .dst }
  | .join _ => some { op := 0xDB, ext := false, fe := .a, fnMax := 3, a := .src, b := .src, d := .dst }
  | .trap _ => some { op := 0xE0, a := .src }
  | .eret _ => some { op := 0xE1, ext := false }
  | .sysr _ => some { op := 0xE2, d := .dst }
  | .sysw _ => some { op := 0xE3, a := .src }
  | .brk _ => some { op := 0xE4 }
  | .halt _ => some { op := 0xE5, ext := false, a := .src }
  | .jrnl _ => some { op := 0xE6, ext := false, fe := .a, fnMax := 3, a := .src, d := .dst }
  | .trace _ => some { op := 0xE7, ext := false, fnMax := 3, a := .src, d := .dst }
  | .trig _ => some { op := 0xE8, ext := false, fnMax := 2, a := .src }
  | .watch _ => some { op := 0xE9, ext := false, fe := .a, fnMax := 2, a := .src, b := .src, d := .dst }
  | .smpMov _ => none
  | .smpLdi _ => none
  | .smpAdd _ => none
  | .smpSub _ => none
  | .smpMul _ => none
  | .smpFadd _ => none
  | .smpFmul _ => none
  | .smpFexp _ => none
  | .smpFmax _ => none
  | .smpCmp _ => none
  | .smpBr _ => none
  | .smpBrc _ => none
  | .smpLoop _ => none
  | .smpCld _ => none
  | .smpCst _ => none
  | .smpCsortk _ => none
  | .smpCscan _ => none
  | .smpCsel _ => none
  | .smpRng _ => none
  | .smpCtrset _ => none
  | .smpCtrget _ => none
  | .smpEmit _ => none
  | .smpHalt _ => none
  | .smpFault _ => none
  | .samplerDispatch _ => none
  | .samplerTimeout _ _ => none
  | .moduleReset _ => none
  | .lgoGo _ => none
  | .lgoStop _ => none
  | .lgoKill _ => none
  | .xlresolve _ _ => none
  | .prectlSuspend _ _ => none
  | .prectlResume _ => none
  | .clkrst  => none
  | .slotctlCommit _ => none
  | .slotTableSwitch _ => none
  | .pwrctlTarget _ => none
  | .powerTransitionDone  => none
  | .cgateRequest _ _ => none
  | .clusterUngateDone _ => none
  | .mbcmdReadCounters  => none
  | .firmwareImageInstall _ => none
  | .ownerKeyLoad _ _ => none
  | .ownerKeyUnload _ => none
  | .attestationRequest  => none
  | .registerWrite _ _ _ => none
  | .hostCxlMemRead _ _ _ => none
  | .hostCxlMemWrite _ _ _ => none
  | .cxlCacheSnoop _ _ => none
  | .successorReady _ => none
  | .poolOverflowTransfer _ => none
  | .caravanDispatch _ _ => none
  | .gangClose _ _ => none
  | .gangCompletion _ _ => none
  | .conditionEval _ => none
  | .switchEval _ => none
  | .loopEval _ => none
  | .streamDrive _ => none
  | .streamDriveComplete _ => none
  | .launchEnd _ => none
  | .nwaitTimeout _ => none
  | .yieldExpire _ _ => none
  | .queueDeadlock _ _ => none
  | .regcacheRefill _ _ _ => none
  | .fetchBlockFill _ _ _ => none
  | .asyncTrapDelivery _ _ => none
  | .preemptPoint _ _ => none
  | .contextSaved _ _ => none
  | .contextResume _ _ => none
  | .homeLoad _ => none
  | .homeStore _ _ => none
  | .lineRecall _ => none
  | .wlqEntryDepart _ => none
  | .wlqEntryAccept _ => none
  | .writeWindowEnd _ => none
  | .hbmSlotService _ => none
  | .pageWalk _ _ _ _ _ => none
  | .pageMoveComplete _ => none
  | .importWrite _ _ _ _ _ => none
  | .remoteAck _ _ => none
  | .macroOpAccept _ => none
  | .mloadbComplete _ => none
  | .maccExecute _ => none
  | .scaleFifoTimeout _ => none
  | .mreadExecute _ => none
  | .msoftExecute _ => none
  | .mtileMacroOp _ => none
  | .matrixNodeRun _ => none
  | .splitkContribution _ => none
  | .copyEngineTake _ => none
  | .copyNodeDispatch _ => none
  | .copyComplete _ => none
  | .copyStop _ => none
  | .batchComplete _ _ => none
  | .destArithApply _ => none
  | .postedWriteApply _ => none
  | .postedWriteAck _ _ => none
  | .postedWriteRefusal _ _ => none
  | .nmcExecute _ => none
  | .nmcStop _ => none
  | .barrierUpdate _ => none
  | .syncBarrierComplete _ => none
  | .exchangeSlotBegin _ => none
  | .exchangePhaseEnd _ => none
  | .xsendDeliver _ => none
  | .wadiResolve _ _ => none
  | .joinNode _ => none
  | .xanwellOpen _ => none
  | .xanwellPage _ => none
  | .xanwellQueue _ => none
  | .xanwellClose _ => none
  | .xanwellResult _ => none
  | .xanwellPut _ => none
  | .xanwellGet _ => none
  | .xanwellData _ => none
  | .xanwellAck _ => none
  | .xanwellUndefinedFlit _ _ => none
  | .siroccoRecordCopy _ => none
  | .siroccoFrameClose _ => none
  | .linkMapSnapshot  => none
  | .thermalWarn _ => none
  | .thermalTrip _ => none
  | .storageError _ _ _ => none
  | .flashCounterUpdate  => none
  | .issueGovernorToken  => none
  | .remoteLocalLoad _ _ _ _ => none
  | .xmPortService _ => none
  | .cxlCacheResponse _ => none
  | .linkTraining _ _ _ => none
  | .xanwellLinkFailure _ => none
  | .powerLoss  => none
  | .unitMachineCheck _ _ => none

/-- The fields of a core instruction, by format (R53). -/
inductive Fields where
  | r (x : RFields)
  | i (x : IFields)
  | j (x : JFields)
  | v (x : VFields)
  deriving DecidableEq, Repr

/-- The fields of a core instruction. -/
def Instr.fields : Instr → Option Fields
  | .add x => some (.r x)
  | .sub x => some (.r x)
  | .mul x => some (.r x)
  | .mulh x => some (.r x)
  | .div x => some (.r x)
  | .rem x => some (.r x)
  | .and x => some (.r x)
  | .or x => some (.r x)
  | .xor x => some (.r x)
  | .andn x => some (.r x)
  | .shl x => some (.r x)
  | .shr x => some (.r x)
  | .rot x => some (.r x)
  | .min x => some (.r x)
  | .max x => some (.r x)
  | .cmp x => some (.r x)
  | .addi x => some (.i x)
  | .andi x => some (.i x)
  | .ori x => some (.i x)
  | .xori x => some (.i x)
  | .shli x => some (.i x)
  | .shri x => some (.i x)
  | .cmpi x => some (.i x)
  | .lit x => some (.i x)
  | .sel x => some (.r x)
  | .bcnt x => some (.r x)
  | .bfx x => some (.r x)
  | .bfi x => some (.r x)
  | .addr x => some (.r x)
  | .adds x => some (.r x)
  | .fop x => some (.r x)
  | .mad x => some (.r x)
  | .br x => some (.j x)
  | .bz x => some (.j x)
  | .bcmp x => some (.j x)
  | .call x => some (.j x)
  | .ret x => some (.j x)
  | .jr x => some (.r x)
  | .callr x => some (.r x)
  | .loop x => some (.j x)
  | .bq x => some (.j x)
  | .jtab x => some (.r x)
  | .nop x => some (.r x)
  | .ldl x => some (.i x)
  | .stl x => some (.i x)
  | .vldl x => some (.v x)
  | .vstl x => some (.v x)
  | .vgathl x => some (.v x)
  | .vscatl x => some (.v x)
  | .ldtx x => some (.v x)
  | .rrot x => some (.r x)
  | .bankmode x => some (.r x)
  | .fpush x => some (.r x)
  | .fpop x => some (.r x)
  | .rstl x => some (.r x)
  | .radd x => some (.r x)
  | .ld x => some (.i x)
  | .st x => some (.i x)
  | .vld x => some (.v x)
  | .vst x => some (.v x)
  | .vgath x => some (.v x)
  | .vscat x => some (.v x)
  | .pref x => some (.i x)
  | .wlq x => some (.r x)
  | .wlwait x => some (.r x)
  | .amo x => some (.r x)
  | .cas x => some (.r x)
  | .cas2 x => some (.r x)
  | .lda x => some (.i x)
  | .strel x => some (.i x)
  | .fence x => some (.r x)
  | .afadd x => some (.r x)
  | .lda2 x => some (.i x)
  | .barinit x => some (.r x)
  | .arrive x => some (.r x)
  | .waitph x => some (.r x)
  | .testph x => some (.r x)
  | .expect x => some (.r x)
  | .signal x => some (.r x)
  | .waitsig x => some (.r x)
  | .domain x => some (.r x)
  | .sync x => some (.r x)
  | .xsend x => some (.r x)
  | .xwait x => some (.r x)
  | .start x => some (.r x)
  | .endHelper x => some (.r x)
  | .hwait x => some (.r x)
  | .qbind x => some (.r x)
  | .qstat x => some (.r x)
  | .vclaim x => some (.r x)
  | .vyield x => some (.r x)
  | .yield x => some (.r x)
  | .nwait x => some (.r x)
  | .ndone x => some (.r x)
  | .task x => some (.r x)
  | .vadd x => some (.v x)
  | .vsub x => some (.v x)
  | .vmul x => some (.v x)
  | .vfma x => some (.v x)
  | .vmin x => some (.v x)
  | .vmax x => some (.v x)
  | .vand x => some (.v x)
  | .vor x => some (.v x)
  | .vxor x => some (.v x)
  | .vshl x => some (.v x)
  | .vshr x => some (.v x)
  | .vcmp x => some (.v x)
  | .vsel x => some (.v x)
  | .vcvt x => some (.v x)
  | .vneg x => some (.v x)
  | .vdot4 x => some (.v x)
  | .vsfu x => some (.v x)
  | .vmov x => some (.v x)
  | .vidx x => some (.v x)
  | .vext x => some (.v x)
  | .vins x => some (.v x)
  | .vclamp x => some (.v x)
  | .vquant x => some (.v x)
  | .mop x => some (.v x)
  | .vshuf x => some (.v x)
  | .vrot x => some (.v x)
  | .vvote x => some (.v x)
  | .vmatch x => some (.v x)
  | .vred x => some (.v x)
  | .vscan x => some (.v x)
  | .vcomp x => some (.v x)
  | .vbcast x => some (.v x)
  | .mtile x => some (.r x)
  | .mloadb x => some (.r x)
  | .macc x => some (.r x)
  | .mread x => some (.r x)
  | .mscale x => some (.r x)
  | .mwait x => some (.r x)
  | .mstat x => some (.r x)
  | .msoft x => some (.r x)
  | .cpq x => some (.r x)
  | .cpseal x => some (.r x)
  | .cpwait x => some (.r x)
  | .cpstat x => some (.r x)
  | .nmc x => some (.r x)
  | .nmfence x => some (.r x)
  | .snew x => some (.r x)
  | .fork x => some (.r x)
  | .sbind x => some (.r x)
  | .pplace x => some (.r x)
  | .squery x => some (.r x)
  | .sstep x => some (.r x)
  | .apush x => some (.r x)
  | .apop x => some (.r x)
  | .strunc x => some (.r x)
  | .smigr x => some (.r x)
  | .sret x => some (.r x)
  | .join x => some (.r x)
  | .trap x => some (.i x)
  | .eret x => some (.r x)
  | .sysr x => some (.i x)
  | .sysw x => some (.i x)
  | .brk x => some (.i x)
  | .halt x => some (.r x)
  | .jrnl x => some (.r x)
  | .trace x => some (.r x)
  | .trig x => some (.r x)
  | .watch x => some (.r x)
  | .smpMov _ => none
  | .smpLdi _ => none
  | .smpAdd _ => none
  | .smpSub _ => none
  | .smpMul _ => none
  | .smpFadd _ => none
  | .smpFmul _ => none
  | .smpFexp _ => none
  | .smpFmax _ => none
  | .smpCmp _ => none
  | .smpBr _ => none
  | .smpBrc _ => none
  | .smpLoop _ => none
  | .smpCld _ => none
  | .smpCst _ => none
  | .smpCsortk _ => none
  | .smpCscan _ => none
  | .smpCsel _ => none
  | .smpRng _ => none
  | .smpCtrset _ => none
  | .smpCtrget _ => none
  | .smpEmit _ => none
  | .smpHalt _ => none
  | .smpFault _ => none
  | .samplerDispatch _ => none
  | .samplerTimeout _ _ => none
  | .moduleReset _ => none
  | .lgoGo _ => none
  | .lgoStop _ => none
  | .lgoKill _ => none
  | .xlresolve _ _ => none
  | .prectlSuspend _ _ => none
  | .prectlResume _ => none
  | .clkrst  => none
  | .slotctlCommit _ => none
  | .slotTableSwitch _ => none
  | .pwrctlTarget _ => none
  | .powerTransitionDone  => none
  | .cgateRequest _ _ => none
  | .clusterUngateDone _ => none
  | .mbcmdReadCounters  => none
  | .firmwareImageInstall _ => none
  | .ownerKeyLoad _ _ => none
  | .ownerKeyUnload _ => none
  | .attestationRequest  => none
  | .registerWrite _ _ _ => none
  | .hostCxlMemRead _ _ _ => none
  | .hostCxlMemWrite _ _ _ => none
  | .cxlCacheSnoop _ _ => none
  | .successorReady _ => none
  | .poolOverflowTransfer _ => none
  | .caravanDispatch _ _ => none
  | .gangClose _ _ => none
  | .gangCompletion _ _ => none
  | .conditionEval _ => none
  | .switchEval _ => none
  | .loopEval _ => none
  | .streamDrive _ => none
  | .streamDriveComplete _ => none
  | .launchEnd _ => none
  | .nwaitTimeout _ => none
  | .yieldExpire _ _ => none
  | .queueDeadlock _ _ => none
  | .regcacheRefill _ _ _ => none
  | .fetchBlockFill _ _ _ => none
  | .asyncTrapDelivery _ _ => none
  | .preemptPoint _ _ => none
  | .contextSaved _ _ => none
  | .contextResume _ _ => none
  | .homeLoad _ => none
  | .homeStore _ _ => none
  | .lineRecall _ => none
  | .wlqEntryDepart _ => none
  | .wlqEntryAccept _ => none
  | .writeWindowEnd _ => none
  | .hbmSlotService _ => none
  | .pageWalk _ _ _ _ _ => none
  | .pageMoveComplete _ => none
  | .importWrite _ _ _ _ _ => none
  | .remoteAck _ _ => none
  | .macroOpAccept _ => none
  | .mloadbComplete _ => none
  | .maccExecute _ => none
  | .scaleFifoTimeout _ => none
  | .mreadExecute _ => none
  | .msoftExecute _ => none
  | .mtileMacroOp _ => none
  | .matrixNodeRun _ => none
  | .splitkContribution _ => none
  | .copyEngineTake _ => none
  | .copyNodeDispatch _ => none
  | .copyComplete _ => none
  | .copyStop _ => none
  | .batchComplete _ _ => none
  | .destArithApply _ => none
  | .postedWriteApply _ => none
  | .postedWriteAck _ _ => none
  | .postedWriteRefusal _ _ => none
  | .nmcExecute _ => none
  | .nmcStop _ => none
  | .barrierUpdate _ => none
  | .syncBarrierComplete _ => none
  | .exchangeSlotBegin _ => none
  | .exchangePhaseEnd _ => none
  | .xsendDeliver _ => none
  | .wadiResolve _ _ => none
  | .joinNode _ => none
  | .xanwellOpen _ => none
  | .xanwellPage _ => none
  | .xanwellQueue _ => none
  | .xanwellClose _ => none
  | .xanwellResult _ => none
  | .xanwellPut _ => none
  | .xanwellGet _ => none
  | .xanwellData _ => none
  | .xanwellAck _ => none
  | .xanwellUndefinedFlit _ _ => none
  | .siroccoRecordCopy _ => none
  | .siroccoFrameClose _ => none
  | .linkMapSnapshot  => none
  | .thermalWarn _ => none
  | .thermalTrip _ => none
  | .storageError _ _ _ => none
  | .flashCounterUpdate  => none
  | .issueGovernorToken  => none
  | .remoteLocalLoad _ _ _ _ => none
  | .xmPortService _ => none
  | .cxlCacheResponse _ => none
  | .linkTraining _ _ _ => none
  | .xanwellLinkFailure _ => none
  | .powerLoss  => none
  | .unitMachineCheck _ _ => none

/-- What follows word 0. -/
def Fields.form : Fields → Form
  | .r x => x.form
  | .i x => x.form
  | .j x => x.form
  | .v x => x.form

/-- Whether the opcode's row accepts this LEN (R57). -/
def OpSpec.formOk (p : OpSpec) : Form → Bool
  | .word => p.word
  | .ext _ => p.ext
  | .lit _ => p.lit
  | .extLit _ _ => p.extLit

/-- Whether the form holds a literal. -/
def Form.hasLit : Form → Bool
  | .lit _ | .extLit _ _ => true
  | _ => false

/-- The extended words, where the form has them. -/
def Form.ext? : Form → Option Ext
  | .ext e | .extLit e _ => some e
  | _ => none

/-- Whether a 6-bit field fits its role (R58, R62). -/
def Role.ok6 (r : Role) (v : BitVec 6) : Bool :=
  match r with
  | .none => v = 0
  | .src => v.toNat < 58
  | .dst => v.toNat < 56
  | .reg => v.toNat < 48
  | .pair => v.toNat % 2 = 0 && v.toNat < 48
  | .dstNoQ => v.toNat < 49
  | .srcNoQ => v.toNat < 49 || v = 56 || v = 57
  | .quad => v.toNat % 4 = 0 && v.toNat < 48
  | .vec => v.toNat < 32
  | .maskDst => 0 < v.toNat && v.toNat < 8
  | .slide => 0 < v.toNat && v.toNat < 25
  | .bq => v = 55
  | .any => true

/-- Whether a 5-bit vector field fits its role (R53, R229). -/
def Role.ok5 (r : Role) (v : BitVec 5) : Bool :=
  match r with
  | .none => v = 0
  | .maskDst => 0 < v.toNat && v.toNat < 8
  | _ => true

/-- Whether the extended words fit the row (R54-R56, R60-R62). `isI`: format I, whose IMM32 is the immediate. -/
def OpSpec.extOk (p : OpSpec) (isI : Bool) (hasLit : Bool) (e : Ext) : Bool :=
  p.tys.contains e.ty.toNat
  && (if p.rm then decide (e.rm.toNat < 6) else e.rm = 0)
  && (if p.sc then decide (e.sc.toNat < 6) else e.sc = 0)
  && (p.f2 || !e.f2) && (p.sat || !e.sat)
  && decide (e.sub.toNat ≤ p.subMax)
  && (p.c.ok6 e.c || (p.cIdle && e.c = 48))
  && (p.imm || (isI && !hasLit) || e.imm32 = 0)

/-- The field that the literal or the extended immediate replaces must hold its stated value (R56, R57). -/
def Fields.slotOk (p : OpSpec) : Fields → Bool
  | .r x => if x.form.hasLit then decide (x.b = 48) else p.b.ok6 x.b
  | .i x => match x.form with
    | .word => true
    | _ => decide (x.imm10 = 0)
  | .j x => if x.form.hasLit then decide (x.off12 = 0) else p.off || decide (x.off12 = 0)
  | .v x => if x.form.hasLit then decide (x.vb = 0) else p.b.ok5 x.vb

/-- The register fields and FN fit the row (R53, R58, R62). -/
def Fields.regsOk (p : OpSpec) : Fields → Bool
  | .r x => decide (x.fn.toNat ≤ p.fnMax) && p.a.ok6 x.a && p.d.ok6 x.d
  | .i x => p.a.ok6 x.a && p.d.ok6 x.d
  | .j x => decide (x.fn.toNat ≤ p.fnMax) && p.a.ok6 x.a
  | .v x => decide (x.fn.toNat ≤ p.fnMax) && p.a.ok5 x.va && p.d.ok5 x.vd && (p.m || decide (x.m = 0))

/-- The effective extended words of a form: the one-word values of R55 where none are present. -/
def OpSpec.eff (p : OpSpec) (f : Form) : Ext :=
  match f.ext? with
  | some e => e
  | none => { sub := 0, f2 := false, sat := false, hint := 0, sc := p.defSc, rm := 0, ty := p.defTy,
              c := if p.c = .none then 0 else 48, imm32 := 0 }

/-- The immediate of an I-format instruction as a 64-bit value (R56, R57). -/
def IFields.imm (x : IFields) : Word :=
  match x.form with
  | .word => x.imm10.signExtend 64
  | .ext e => e.imm32.signExtend 64
  | .lit v => v
  | .extLit _ v => v

/-- VCVT's part limit: elements per lane of the wider side over the narrower (R235). -/
def elemBits (ty : Nat) : Nat :=
  match ty with
  | 0 | 4 | 11 | 12 => 8
  | 1 | 5 | 9 | 10 => 16
  | 2 | 6 | 8 => 32
  | 13 | 14 => 4
  | 3 | 7 => 64
  | _ => 0

/-- Elements per 32-bit lane (R228). -/
def epl (ty : Nat) : Nat := 32 / elemBits ty

/-- VCVT: SUB names a destination type and part lies below the ratio (R235). -/
def cvtOk (e : Ext) : Bool :=
  let es := epl e.ty.toNat
  let ed := epl e.sub.toNat
  cvtTypes.contains e.sub.toNat && decide (e.imm32.toNat < (if es ≤ ed then ed / es else es / ed)) && !e.sat

/-- The decode checks of single entries that a row cannot say: fields whose use depends on FN, F2 or an immediate. -/
def Instr.extraOk (i : Instr) (p : OpSpec) : Bool :=
  match i with
  | .shli x => decide (x.imm.toNat < 64)
  | .shri x => decide (x.imm.toNat < 128)
  | .fop x =>
    let e := p.eff x.form
    (decide (x.fn = 8) || decide (x.fn = 9) || e.ty = 8)
      && (decide (x.fn = 7) || e.c = 0 || e.c = 48)
      && (!(decide (x.fn = 6) || decide (x.fn = 8) || decide (x.fn = 9)) || decide (x.b = 0))
  | .bcmp x =>
    let e := p.eff x.form
    if e.f2 then decide (e.c = 48) else decide (e.imm32 = 0)
  | .radd x =>
    let e := p.eff x.form
    !e.sat || (decide (x.fn = 0) && ints.contains e.ty.toNat)
  | .st x =>
    let e := p.eff x.form
    !e.f2 || (Role.pair.ok6 x.d && (decide (e.ty = 3) || decide (e.ty = 7)))
  | .fpop x => x.fn = 0 || Role.pair.ok6 x.d
  | .wlq x => if x.fn = 0 then decide (x.a = 0) else decide (x.d = 0)
  | .afadd x => decide ((p.eff x.form).rm ≠ 5)
  | .cas2 x => Role.pair.ok6 (p.eff x.form).c
  | .domain x => x.fn = 0 || decide (x.b = 0)
  | .xwait x => x.fn = 0 || decide (x.a = 0)
  | .vcvt x => cvtOk (p.eff x.form)
  | .vmov x =>
    let e := p.eff x.form
    if x.form.hasLit then decide (x.fn = 0) && decide (x.va = 0) && (e.c = 0 || e.c = 48)
    else if x.fn = 1 then decide (x.va = 0) else e.c = 0 || e.c = 48
  | .ldtx x => decide (x.vd.toNat + (p.eff x.form).sub.toNat ≤ 31)
  | .mop x =>
    let e := p.eff x.form
    let low (v : BitVec 5) : Bool := decide (v.toNat < 8)
    if x.fn.toNat ≤ 3 then low x.vd && x.vd ≠ 0 && low x.va && low x.vb && (e.c = 0 || e.c = 48)
    else if x.fn = 4 then low x.vd && x.vd ≠ 0 && low x.va && decide (x.vb = 0) && (e.c = 0 || e.c = 48)
    else if x.fn = 5 then low x.vd && x.vd ≠ 0 && decide (x.va = 0) && decide (x.vb = 0) && Role.src.ok6 e.c
    else decide (x.vd = 0) && low x.va && decide (x.vb = 0) && Role.dst.ok6 e.c
  | .vvote x =>
    let e := p.eff x.form
    if x.fn = 3 then Role.maskDst.ok5 x.vd && decide (e.c = 48) else decide (x.vd = 0)
  | .vmatch x =>
    let e := p.eff x.form
    decide (e.c = 48) && (x.fn = 2 || Role.maskDst.ok5 x.vd)
  | .vred x =>
    let e := p.eff x.form
    (if e.sub = 0 then decide (x.vd = 0) else decide (e.c = 48))
      && (!(decide (3 ≤ x.fn.toNat)) || e.ty ≠ 8)
      && (!e.sat || (decide (x.fn = 0) && decide (e.ty ≠ 8)))
  | .vscan x =>
    let e := p.eff x.form
    !e.sat || (decide (x.fn.toNat < 2) && decide (e.ty ≠ 8))
  | .mstat x => (x.fn.toNat ≤ 1 || x.fn = 4) || decide (x.a = 0)
  | .msoft x => x.fn = 1 || decide ((p.eff x.form).imm32 = 0)
  | .squery x => (x.fn = 1 || x.fn = 6 || decide (x.b = 0)) && (x.fn ≠ 5 || decide (x.a = 0))
  | .sstep x => x.fn ≠ 3 || decide (x.b = 0)
  | .sret x => x.fn = 0 || decide (x.b = 0)
  | .join x => x.fn = 0 || decide (x.b = 0)
  | .trap x => decide (x.imm.toNat < 512) && decide (24 ≤ x.imm.toNat % 32)
  | .trace x => (x.fn ≠ 0 || decide (x.d = 0)) && (x.fn ≠ 2 || decide (x.a = 0))
  | .trig x => x.fn ≠ 1 || decide (x.a = 0)
  | .watch x => x.fn = 0 || decide (x.b = 0)
  | _ => true

/-- The literal forms that one function of an otherwise literal-taking opcode refuses (R221). -/
def Instr.formRefused : Instr → Bool
  | .fop x => x.form.hasLit && (x.fn = 6 || x.fn = 8 || x.fn = 9)
  | _ => false

/-- The form check of R63 order 3. -/
def Instr.formOk (i : Instr) : Bool :=
  match i.spec, i.fields with
  | some p, some f => p.formOk f.form && !i.formRefused
  | _, _ => true

/-- The reserved-value check of R63 order 5. -/
def Instr.rsvdOk (i : Instr) : Bool :=
  match i.spec, i.fields with
  | some p, some f =>
    f.regsOk p && f.slotOk p && i.extraOk p
      && (match f.form.ext? with
          | some e => p.extOk (match f with | .i _ => true | _ => false) f.form.hasLit e
          | none => true)
  | _, _ => true

/-- Micro-instructions: every unused field is 0 and F is defined (R467, R468). -/
def Instr.microOk : Instr → Bool
  | .smpMov x | .smpFexp x => x.b = 0 && x.f = 0 && x.imm8 = 0
  | .smpLdi x => decide (x.a.toNat < 2)
  | .smpAdd x | .smpSub x | .smpMul x => if x.f = 0 then decide (x.imm8 = 0) else decide (x.f = 1) && decide (x.b = 0)
  | .smpFadd x | .smpFmul x | .smpFmax x => x.f = 0 && x.imm8 = 0
  | .smpCmp x => decide (x.f.toNat < 8) && decide (x.imm8 = 0)
  | .smpBr x => x.d = 0 && x.a = 0 && x.b = 0 && x.f = 0
  | .smpBrc x => x.d = 0 && x.b = 0 && decide (x.f.toNat < 2)
  | .smpLoop x => x.d = 0 && x.b = 0 && x.f = 0
  | .smpCld x => x.imm8 = 0 && decide (x.f.toNat < 8) && decide (x.f.toNat % 4 < 3) && decide (x.a.toNat % 2 = 0)
  | .smpCst x => x.f = 0 && x.imm8 = 0 && decide (x.a.toNat % 2 = 0)
  | .smpCsortk x => x.d = 0 && x.f = 0 && x.imm8 = 0
  | .smpCscan x => decide (x.f.toNat < 2) && decide (x.imm8 = 0)
  | .smpCsel x => decide (x.f.toNat < 5) && decide (x.imm8 = 0) && (decide (x.f.toNat < 3) || decide (x.b = 0))
  | .smpRng x => x.a = 0 && x.b = 0 && decide (x.f.toNat < 2) && decide (x.imm8 = 0)
  | .smpCtrset x => x.d = 0 && decide (x.f.toNat < 3) && decide (x.imm8 = 0) && (decide (x.f.toNat < 2) || decide (x.b = 0))
  | .smpCtrget x => x.a = 0 && x.b = 0 && decide (x.f.toNat < 5) && decide (x.imm8 = 0)
  | .smpEmit x | .smpFault x => x.d = 0 && x.b = 0 && x.f = 0 && x.imm8 = 0
  | .smpHalt x => x.d = 0 && x.a = 0 && x.b = 0 && x.f = 0 && x.imm8 = 0
  | _ => true

/-- An instruction is well formed: it passes the form and reserved-value checks of its entry. -/
def Instr.wf (i : Instr) : Bool := i.formOk && i.rsvdOk && i.microOk

end Sys2Proof
end

