-- ==== Sys2Proof/Decode.lean ====
section
/-! DEFINITION. The decoder: instruction words and bytes to instructions, total on any bytes, rejecting by name (R49,
R50, R53-R57, R63-R65), and the sampler's words (R467, R468). After it the encoder, from the same tables, and the
decoder as the opcode table's host check calls it. -/
namespace Sys2Proof

/-- Why the decoder refuses (R63 orders 1-3 and 5; order 4 needs the front end, order 6 the operands). `ended`: fewer
than four bytes are left. The rejections after INS.UNDEF carry the opcode's front ends. -/
inductive DecodeError where
  | ended
  | straddle
  | undef
  | form (fe : FrontEnds)
  | rsvd (fe : FrontEnds)
  deriving DecidableEq, Repr

/-- Format R (R53). -/
def rFields (w : Lane) (f : Form) : RFields :=
  { fn := w.extractLsb' 28 4, b := w.extractLsb' 22 6, a := w.extractLsb' 16 6, d := w.extractLsb' 10 6, form := f }

/-- Format I (R53). -/
def iFields (w : Lane) (f : Form) : IFields :=
  { imm10 := w.extractLsb' 22 10, a := w.extractLsb' 16 6, d := w.extractLsb' 10 6, form := f }

/-- Format J (R53). -/
def jFields (w : Lane) (f : Form) : JFields :=
  { off12 := w.extractLsb' 20 12, a := w.extractLsb' 14 6, fn := w.extractLsb' 10 4, form := f }

/-- Format V (R53). -/
def vFields (w : Lane) (f : Form) : VFields :=
  { fn := w.extractLsb' 28 4, m := w.extractLsb' 25 3, vb := w.extractLsb' 20 5, va := w.extractLsb' 15 5,
    vd := w.extractLsb' 10 5, form := f }

/-- Extended words 1 and 2 (R54). -/
def extFields (w1 w2 : Lane) : Ext :=
  { sub := w1.extractLsb' 24 8, f2 := w1.getLsbD 23, sat := w1.getLsbD 22, hint := w1.extractLsb' 18 4,
    sc := w1.extractLsb' 15 3, rm := w1.extractLsb' 12 3, ty := w1.extractLsb' 6 6, c := w1.extractLsb' 0 6,
    imm32 := w2 }

/-- A 64-bit literal, low word first (R49). -/
def literalOf (lo hi : Lane) : Word := hi ++ lo

/-- How many words an instruction with this LEN has (R49). -/
def wordCount (len : BitVec 2) : Nat :=
  if len = 0 then 1 else if len = 3 then 5 else 3

/-- What follows word 0 (R49); none where words are missing. -/
def formOf (len : BitVec 2) (rest : List Lane) : Option Form :=
  if len = 0 then some .word
  else if len = 1 then
    match rest with
    | w1 :: w2 :: _ => some (.ext (extFields w1 w2))
    | _ => none
  else if len = 2 then
    match rest with
    | w1 :: w2 :: _ => some (.lit (literalOf w1 w2))
    | _ => none
  else
    match rest with
    | w1 :: w2 :: w3 :: w4 :: _ => some (.extLit (extFields w1 w2) (literalOf w3 w4))
    | _ => none

/-- The opcode map (R64): OP = row x 16 + column. -/
def instrOf (op : BitVec 8) (w : Lane) (f : Form) : Option Instr :=
  match op with
  | 0x00#8 => some (.add (rFields w f))
  | 0x01#8 => some (.sub (rFields w f))
  | 0x02#8 => some (.mul (rFields w f))
  | 0x03#8 => some (.mulh (rFields w f))
  | 0x04#8 => some (.div (rFields w f))
  | 0x05#8 => some (.rem (rFields w f))
  | 0x06#8 => some (.and (rFields w f))
  | 0x07#8 => some (.or (rFields w f))
  | 0x08#8 => some (.xor (rFields w f))
  | 0x09#8 => some (.andn (rFields w f))
  | 0x0A#8 => some (.shl (rFields w f))
  | 0x0B#8 => some (.shr (rFields w f))
  | 0x0C#8 => some (.rot (rFields w f))
  | 0x0D#8 => some (.min (rFields w f))
  | 0x0E#8 => some (.max (rFields w f))
  | 0x0F#8 => some (.cmp (rFields w f))
  | 0x10#8 => some (.addi (iFields w f))
  | 0x11#8 => some (.andi (iFields w f))
  | 0x12#8 => some (.ori (iFields w f))
  | 0x13#8 => some (.xori (iFields w f))
  | 0x14#8 => some (.shli (iFields w f))
  | 0x15#8 => some (.shri (iFields w f))
  | 0x16#8 => some (.cmpi (iFields w f))
  | 0x17#8 => some (.lit (iFields w f))
  | 0x18#8 => some (.sel (rFields w f))
  | 0x19#8 => some (.bcnt (rFields w f))
  | 0x1A#8 => some (.bfx (rFields w f))
  | 0x1B#8 => some (.bfi (rFields w f))
  | 0x1C#8 => some (.addr (rFields w f))
  | 0x1D#8 => some (.adds (rFields w f))
  | 0x1E#8 => some (.fop (rFields w f))
  | 0x1F#8 => some (.mad (rFields w f))
  | 0x20#8 => some (.br (jFields w f))
  | 0x21#8 => some (.bz (jFields w f))
  | 0x22#8 => some (.bcmp (jFields w f))
  | 0x23#8 => some (.call (jFields w f))
  | 0x24#8 => some (.ret (jFields w f))
  | 0x25#8 => some (.jr (rFields w f))
  | 0x26#8 => some (.callr (rFields w f))
  | 0x27#8 => some (.loop (jFields w f))
  | 0x28#8 => some (.bq (jFields w f))
  | 0x29#8 => some (.jtab (rFields w f))
  | 0x2A#8 => some (.nop (rFields w f))
  | 0x30#8 => some (.ldl (iFields w f))
  | 0x31#8 => some (.stl (iFields w f))
  | 0x32#8 => some (.vldl (vFields w f))
  | 0x33#8 => some (.vstl (vFields w f))
  | 0x34#8 => some (.vgathl (vFields w f))
  | 0x35#8 => some (.vscatl (vFields w f))
  | 0x36#8 => some (.ldtx (vFields w f))
  | 0x37#8 => some (.rrot (rFields w f))
  | 0x38#8 => some (.bankmode (rFields w f))
  | 0x39#8 => some (.fpush (rFields w f))
  | 0x3A#8 => some (.fpop (rFields w f))
  | 0x3B#8 => some (.rstl (rFields w f))
  | 0x3C#8 => some (.radd (rFields w f))
  | 0x40#8 => some (.ld (iFields w f))
  | 0x41#8 => some (.st (iFields w f))
  | 0x42#8 => some (.vld (vFields w f))
  | 0x43#8 => some (.vst (vFields w f))
  | 0x44#8 => some (.vgath (vFields w f))
  | 0x45#8 => some (.vscat (vFields w f))
  | 0x46#8 => some (.pref (iFields w f))
  | 0x47#8 => some (.wlq (rFields w f))
  | 0x48#8 => some (.wlwait (rFields w f))
  | 0x50#8 => some (.amo (rFields w f))
  | 0x51#8 => some (.cas (rFields w f))
  | 0x52#8 => some (.cas2 (rFields w f))
  | 0x53#8 => some (.lda (iFields w f))
  | 0x54#8 => some (.strel (iFields w f))
  | 0x55#8 => some (.fence (rFields w f))
  | 0x56#8 => some (.afadd (rFields w f))
  | 0x57#8 => some (.lda2 (iFields w f))
  | 0x60#8 => some (.barinit (rFields w f))
  | 0x61#8 => some (.arrive (rFields w f))
  | 0x62#8 => some (.waitph (rFields w f))
  | 0x63#8 => some (.testph (rFields w f))
  | 0x64#8 => some (.expect (rFields w f))
  | 0x65#8 => some (.signal (rFields w f))
  | 0x66#8 => some (.waitsig (rFields w f))
  | 0x67#8 => some (.domain (rFields w f))
  | 0x68#8 => some (.sync (rFields w f))
  | 0x69#8 => some (.xsend (rFields w f))
  | 0x6A#8 => some (.xwait (rFields w f))
  | 0x70#8 => some (.start (rFields w f))
  | 0x71#8 => some (.endHelper (rFields w f))
  | 0x72#8 => some (.hwait (rFields w f))
  | 0x73#8 => some (.qbind (rFields w f))
  | 0x74#8 => some (.qstat (rFields w f))
  | 0x75#8 => some (.vclaim (rFields w f))
  | 0x76#8 => some (.vyield (rFields w f))
  | 0x77#8 => some (.yield (rFields w f))
  | 0x78#8 => some (.nwait (rFields w f))
  | 0x79#8 => some (.ndone (rFields w f))
  | 0x7A#8 => some (.task (rFields w f))
  | 0x80#8 => some (.vadd (vFields w f))
  | 0x81#8 => some (.vsub (vFields w f))
  | 0x82#8 => some (.vmul (vFields w f))
  | 0x83#8 => some (.vfma (vFields w f))
  | 0x84#8 => some (.vmin (vFields w f))
  | 0x85#8 => some (.vmax (vFields w f))
  | 0x86#8 => some (.vand (vFields w f))
  | 0x87#8 => some (.vor (vFields w f))
  | 0x88#8 => some (.vxor (vFields w f))
  | 0x89#8 => some (.vshl (vFields w f))
  | 0x8A#8 => some (.vshr (vFields w f))
  | 0x8B#8 => some (.vcmp (vFields w f))
  | 0x8C#8 => some (.vsel (vFields w f))
  | 0x8D#8 => some (.vcvt (vFields w f))
  | 0x8E#8 => some (.vneg (vFields w f))
  | 0x8F#8 => some (.vdot4 (vFields w f))
  | 0x90#8 => some (.vsfu (vFields w f))
  | 0x91#8 => some (.vmov (vFields w f))
  | 0x92#8 => some (.vidx (vFields w f))
  | 0x93#8 => some (.vext (vFields w f))
  | 0x94#8 => some (.vins (vFields w f))
  | 0x95#8 => some (.vclamp (vFields w f))
  | 0x96#8 => some (.vquant (vFields w f))
  | 0x97#8 => some (.mop (vFields w f))
  | 0xA0#8 => some (.vshuf (vFields w f))
  | 0xA1#8 => some (.vrot (vFields w f))
  | 0xA2#8 => some (.vvote (vFields w f))
  | 0xA3#8 => some (.vmatch (vFields w f))
  | 0xA4#8 => some (.vred (vFields w f))
  | 0xA5#8 => some (.vscan (vFields w f))
  | 0xA6#8 => some (.vcomp (vFields w f))
  | 0xA7#8 => some (.vbcast (vFields w f))
  | 0xB0#8 => some (.mtile (rFields w f))
  | 0xB1#8 => some (.mloadb (rFields w f))
  | 0xB2#8 => some (.macc (rFields w f))
  | 0xB3#8 => some (.mread (rFields w f))
  | 0xB4#8 => some (.mscale (rFields w f))
  | 0xB5#8 => some (.mwait (rFields w f))
  | 0xB6#8 => some (.mstat (rFields w f))
  | 0xB7#8 => some (.msoft (rFields w f))
  | 0xC0#8 => some (.cpq (rFields w f))
  | 0xC1#8 => some (.cpseal (rFields w f))
  | 0xC2#8 => some (.cpwait (rFields w f))
  | 0xC3#8 => some (.cpstat (rFields w f))
  | 0xC4#8 => some (.nmc (rFields w f))
  | 0xC5#8 => some (.nmfence (rFields w f))
  | 0xD0#8 => some (.snew (rFields w f))
  | 0xD1#8 => some (.fork (rFields w f))
  | 0xD2#8 => some (.sbind (rFields w f))
  | 0xD3#8 => some (.pplace (rFields w f))
  | 0xD4#8 => some (.squery (rFields w f))
  | 0xD5#8 => some (.sstep (rFields w f))
  | 0xD6#8 => some (.apush (rFields w f))
  | 0xD7#8 => some (.apop (rFields w f))
  | 0xD8#8 => some (.strunc (rFields w f))
  | 0xD9#8 => some (.smigr (rFields w f))
  | 0xDA#8 => some (.sret (rFields w f))
  | 0xDB#8 => some (.join (rFields w f))
  | 0xE0#8 => some (.trap (iFields w f))
  | 0xE1#8 => some (.eret (rFields w f))
  | 0xE2#8 => some (.sysr (iFields w f))
  | 0xE3#8 => some (.sysw (iFields w f))
  | 0xE4#8 => some (.brk (iFields w f))
  | 0xE5#8 => some (.halt (rFields w f))
  | 0xE6#8 => some (.jrnl (rFields w f))
  | 0xE7#8 => some (.trace (rFields w f))
  | 0xE8#8 => some (.trig (rFields w f))
  | 0xE9#8 => some (.watch (rFields w f))
  | _ => none

/-- Decode the words of one instruction (R63 orders 2, 3 and 5): the instruction and how many words it has. -/
def decodeWords (ws : List Lane) : Except DecodeError (Instr × Nat) :=
  match ws with
  | [] => .error .ended
  | w :: rest =>
    let len := w.extractLsb' 0 2
    match formOf len rest with
    | none => .error .straddle
    | some f =>
      match instrOf (w.extractLsb' 2 8) w f with
      | none => .error .undef
      | some i =>
        match i.spec with
        | none => .error .undef
        | some p =>
          if i.formOk then
            if i.rsvdOk then .ok (i, wordCount len) else .error (.rsvd p.fe)
          else .error (.form p.fe)

/-- Four bytes as a word, the least significant byte first (R3, R49). -/
def laneOf (b0 b1 b2 b3 : Byte) : Lane := b3 ++ b2 ++ b1 ++ b0

/-- Bytes as words; bytes after the last whole word are dropped. -/
def lanesOf : List Byte → List Lane
  | b0 :: b1 :: b2 :: b3 :: rest => laneOf b0 b1 b2 b3 :: lanesOf rest
  | _ => []

/-- Decode the instruction that starts a list of bytes, which ends where its fetch block ends (R50): words beyond the
block are not there, so an instruction that would pass the end is refused as straddling. -/
def decode (bs : List Byte) : Except DecodeError (Instr × Nat) :=
  decodeWords (lanesOf bs)

/-- The fields of a micro-instruction (R467). -/
def microFields (w : Lane) : MicroFields :=
  { d := w.extractLsb' 20 4, a := w.extractLsb' 16 4, b := w.extractLsb' 12 4, f := w.extractLsb' 8 4,
    imm8 := w.extractLsb' 0 8 }

/-- The sampler's operations (R468). -/
def microOf (opc : BitVec 8) (x : MicroFields) : Option Instr :=
  match opc with
  | 0x00#8 => some (.smpMov x)
  | 0x01#8 => some (.smpLdi x)
  | 0x02#8 => some (.smpAdd x)
  | 0x03#8 => some (.smpSub x)
  | 0x04#8 => some (.smpMul x)
  | 0x05#8 => some (.smpFadd x)
  | 0x06#8 => some (.smpFmul x)
  | 0x07#8 => some (.smpFexp x)
  | 0x08#8 => some (.smpFmax x)
  | 0x09#8 => some (.smpCmp x)
  | 0x0A#8 => some (.smpBr x)
  | 0x0B#8 => some (.smpBrc x)
  | 0x0C#8 => some (.smpLoop x)
  | 0x0D#8 => some (.smpCld x)
  | 0x0E#8 => some (.smpCst x)
  | 0x0F#8 => some (.smpCsortk x)
  | 0x10#8 => some (.smpCscan x)
  | 0x11#8 => some (.smpCsel x)
  | 0x12#8 => some (.smpRng x)
  | 0x13#8 => some (.smpCtrset x)
  | 0x14#8 => some (.smpCtrget x)
  | 0x15#8 => some (.smpEmit x)
  | 0x16#8 => some (.smpHalt x)
  | 0x17#8 => some (.smpFault x)
  | _ => none

/-- Decode one word of the sampler's store; none is SMP.PROG (R466). -/
def decodeMicro (w : Lane) : Option Instr :=
  match microOf (w.extractLsb' 24 8) (microFields w) with
  | some i => if i.microOk then some i else none
  | none => none

/-- LEN of a form (R49). -/
def Form.len : Form → BitVec 2
  | .word => 0
  | .ext _ => 1
  | .lit _ => 2
  | .extLit _ _ => 3

/-- Extended word 1 (R54). -/
def Ext.word1 (e : Ext) : Lane :=
  e.sub ++ BitVec.ofBool e.f2 ++ BitVec.ofBool e.sat ++ e.hint ++ e.sc ++ e.rm ++ e.ty ++ e.c

/-- The words after word 0 (R49). -/
def Form.words : Form → List Lane
  | .word => []
  | .ext e => [e.word1, e.imm32]
  | .lit v => [v.extractLsb' 0 32, v.extractLsb' 32 32]
  | .extLit e v => [e.word1, e.imm32, v.extractLsb' 0 32, v.extractLsb' 32 32]

/-- Word 0 by format (R53). -/
def Fields.word0 (op : BitVec 8) : Fields → Lane
  | .r x => x.fn ++ x.b ++ x.a ++ x.d ++ op ++ x.form.len
  | .i x => x.imm10 ++ x.a ++ x.d ++ op ++ x.form.len
  | .j x => x.off12 ++ x.a ++ x.fn ++ op ++ x.form.len
  | .v x => x.fn ++ x.m ++ x.vb ++ x.va ++ x.vd ++ op ++ x.form.len

/-- OPC of a micro-instruction with its fields (R468). -/
def Instr.micro? : Instr → Option (BitVec 8 × MicroFields)
  | .smpMov x => some (0x00, x)
  | .smpLdi x => some (0x01, x)
  | .smpAdd x => some (0x02, x)
  | .smpSub x => some (0x03, x)
  | .smpMul x => some (0x04, x)
  | .smpFadd x => some (0x05, x)
  | .smpFmul x => some (0x06, x)
  | .smpFexp x => some (0x07, x)
  | .smpFmax x => some (0x08, x)
  | .smpCmp x => some (0x09, x)
  | .smpBr x => some (0x0A, x)
  | .smpBrc x => some (0x0B, x)
  | .smpLoop x => some (0x0C, x)
  | .smpCld x => some (0x0D, x)
  | .smpCst x => some (0x0E, x)
  | .smpCsortk x => some (0x0F, x)
  | .smpCscan x => some (0x10, x)
  | .smpCsel x => some (0x11, x)
  | .smpRng x => some (0x12, x)
  | .smpCtrset x => some (0x13, x)
  | .smpCtrget x => some (0x14, x)
  | .smpEmit x => some (0x15, x)
  | .smpHalt x => some (0x16, x)
  | .smpFault x => some (0x17, x)
  | _ => none

/-- An event: a row of the opcode table that has no words. -/
def Instr.isEvent (i : Instr) : Bool := i.spec.isNone && i.micro?.isNone

/-- The word of a micro-instruction (R467). -/
def microWord (opc : BitVec 8) (x : MicroFields) : Lane :=
  opc ++ x.d ++ x.a ++ x.b ++ x.f ++ x.imm8

/-- The words of a core or sampler instruction; an event has none. -/
def encode (i : Instr) : List Lane :=
  match i.spec, i.fields with
  | some p, some f => f.word0 p.op :: f.form.words
  | _, _ =>
    match i.micro? with
    | some (opc, x) => [microWord opc x]
    | none => []

/-- A word's bytes, the least significant first (R3). -/
def laneBytes (w : Lane) : List Byte :=
  [w.extractLsb' 0 8, w.extractLsb' 8 8, w.extractLsb' 16 8, w.extractLsb' 24 8]

/-- The bytes of an instruction. -/
def encodeBytes (i : Instr) : List Byte :=
  (encode i).flatMap laneBytes

/-- The five words of a table word, those above it 0. -/
def tableWords (w : Nat) : List Lane :=
  [BitVec.ofNat 32 w, BitVec.ofNat 32 (w >>> 32), BitVec.ofNat 32 (w >>> 64), BitVec.ofNat 32 (w >>> 96),
   BitVec.ofNat 32 (w >>> 128)]

/-- The instruction the decoder reads from the bits `w` of a row of the opcode table, followed by zeros. The part has two
maps of words, the cores' (R64) and the sampler's (R468): a word that the cores' decoder refuses is read as a
micro-instruction (log 9). -/
def decodeTableWord (nbits w : Nat) : Option Instr :=
  if nbits % 8 = 0 then
    match decode ((tableWords w).flatMap laneBytes) with
    | .ok (i, _) => some i
    | .error _ => decodeMicro (BitVec.ofNat 32 w)
  else none

end Sys2Proof
end

