-- ==== Sys2Proof/Config.lean ====
section
/-! DEFINITION. What an implementation fixes (unit counts of R13, firmware 2.1 defaults) and the values the spec leaves
open: each of those is an opaque constant, applied to plain data, that nothing in Lean can evaluate. -/
namespace Sys2Proof.Config

/-- Cores in the package (R13, R22). -/
def coreCount : Nat := 40960
/-- Cores in a cluster (R13). -/
def coresPerCluster : Nat := 80
/-- Cores in a die (R22). -/
def coresPerDie : Nat := 10240
/-- Clusters in the package (R13). -/
def clusterCount : Nat := 512
/-- Contexts of a core (R13). -/
def contextCount : Nat := 13
/-- The greatest WBASE (R143, R412). -/
def maxWbase : Nat := 1888
/-- Launch slots (R14). -/
def slotCount : Nat := 64
/-- Pages of the page-backing pool that a firmware release reserves (R11, R103 step 6): the spec gives no count (log 6). -/
opaque poolPages : BitVec 32 → Nat
/-- Index in the page-backing pool of the n-th page allocated, BACK of R165 (log 6). -/
opaque backIndex : Nat → BitVec 32
/-- Physical address of the page-backing pool's page with that index (log 6). -/
opaque backAddress : BitVec 32 → BitVec 56
/-- Address of the n-th table node allocated, ROOT of R94 and LEAF of R164 (log 6). -/
opaque nodeAddress : Nat → BitVec 64
/-- Physical address of the n-th page taken from an owner's expansion pool (R172, log 6). -/
opaque xmAddress : Nat → BitVec 56
/-- Where firmware lays the context images: the image numbers in some order, so that no two images share an address (R140, log 6). -/
opaque imageOrder : Equiv.Perm (BitVec 41)
/-- Address, in units of 32 KiB, of the context image of context `ctx` of core `core` on shelf `shelf` (R140, R420). -/
def imageAddress (core ctx shelf : Nat) : BitVec 41 := imageOrder (BitVec.ofNat 41 ((core * contextCount + ctx) * 2 + shelf))
/-- Pages that firmware reserves for an owner's expansion pool (R172, log 6). -/
opaque xmPages : Nat → Nat
/-- A free value: the n-th value that the spec leaves open in a run (log 5). -/
opaque freeValue : Nat → BitVec 64
/-- The fused minimum security version that boot step 4 compares with (R103, log 8). -/
opaque fusedMinimum : Nat
/-- Lines of HBM4E, past the first, that the HDM decoders expose (R99, log 32). -/
opaque hdmLines : Nat
/-- What a firmware release other than 2.1 loads as its n-th default (R11, log 8). -/
opaque releaseValue : BitVec 32 → Nat → Nat
/-- Physical address at which firmware of a release places the reference sampler program (R470, log 6). -/
opaque samplerAddress : BitVec 32 → BitVec 56
/-- A component of this package's torus coordinates x (0), y (1), z (2) (R93, R487, log 6). -/
opaque torus : Nat → BitVec 4

end Sys2Proof.Config
end

