-- ==== Sys2Proof/Machine/Table.lean ====
section
/-! DEFINITION. Sparse tables: a list of key and value pairs in which an absent key reads as a given default. -/
namespace Sys2Proof.Machine

/-- A sparse map from Nat keys. -/
abbrev Table (α : Type) := List (Nat × α)

/-- The entry of a key, if the table lists one. -/
def Table.find {α : Type} : Table α → Nat → Option α
  | [], _ => none
  | (k, v) :: r, i => if k = i then some v else Table.find r i

/-- The value of a key; absent keys read as `d`. -/
def Table.get {α : Type} (t : Table α) (d : α) (i : Nat) : α := (Table.find t i).getD d

/-- Write a key. -/
def Table.set {α : Type} : Table α → Nat → α → Table α
  | [], i, v => [(i, v)]
  | (k, w) :: r, i, v => if k = i then (i, v) :: r else (k, w) :: Table.set r i v

/-- Make a key absent. -/
def Table.drop {α : Type} (t : Table α) (i : Nat) : Table α := t.filter (fun kv => kv.1 ≠ i)

end Sys2Proof.Machine
end

