-- ==== Sys2Proof/Machine/EngineState.lean ====
section
/-! DEFINITION. What the engines hold: the matrix engine of a cluster (R246, R255, R265, R521), copies and page moves
(R172, R297-R304), posted writes on their way (R307-R310), and near-memory commands (R311-R314). -/
namespace Sys2Proof.Machine

/-! ### Matrix engine (R246) -/

/-- A scale record (R250): 32 row exponents and 64 column exponents. -/
structure ScaleRec where
  r : List Int
  y : List Int
  deriving DecidableEq, Repr

/-- Who owns an accumulator tile (R254): a context, or the sequencer's node instance. -/
inductive TileOwner where
  | ctx (core k : Nat)
  | node
  deriving DecidableEq, Repr

/-- An accumulator tile's image: pairs by 64 x row + column, band scales, row mask and OVF (R246). -/
structure TileImage where
  pairs : Table AccPair := []
  sigA  : Nat := 0
  sigB  : Nat := 0
  rows  : BitVec 32 := 0
  ovf   : Bool := false
  deriving DecidableEq, Repr

/-- An accumulator tile (R246, R263). `leaving` marks an owner that has ended while operations remain (R254). -/
structure Tile where
  img     : TileImage := {}
  owner   : Option TileOwner := none
  /-- The shelf of its core on which the owning context stands (R254, R420). -/
  shelf   : Nat := 0
  /-- Slot of the launch for which the tile's owner runs. -/
  owned   : Nat := 0
  errc    : Nat := 0
  smask   : Bool := false
  masked  : BitVec 32 := 0
  fifo    : List ScaleRec := []
  leaving : Bool := false
  deriving DecidableEq, Repr

/-- A B buffer (R246): elements by 64 x column + k; `user` is the owner of the latest MLOADB issued into it. -/
structure BBuffer where
  loaded : Bool := false
  elems  : List Int := []
  poison : Bool := false
  user   : Option Nat := none
  deriving DecidableEq, Repr

/-- A saved tile image (R246, R257). -/
structure CkSlot where
  img   : TileImage
  tag   : Word
  owner : Nat
  deriving DecidableEq, Repr

/-- An A panel word's fields (R248). -/
structure Panel where
  bank0 : Nat
  off   : Nat
  p     : Nat
  deriving DecidableEq, Repr

/-- What a macro-operation does (R257-R264). -/
inductive MacroKind where
  | load (buf : Nat) (elems : List Int) (poison : Bool)
  | openTile (t sigA sigB : Nat) (rows : BitVec 32)
  | save (t slot : Nat) (tag : Word)
  | restore (t slot : Nat)
  | close (t : Nat)
  | macc (t buf : Nat) (pan : Panel) (j : Nat)
  | mreadPln (t : Nat) (pan : Panel) (j : Nat) (clr cls : Bool)
  | mread (t ty la stride : Nat) (clr cls : Bool)
  | msoft (t ty la stride : Nat) (tau : Nat) (keys : Word) (diag : Option Int)
  deriving DecidableEq, Repr

/-- A macro-operation with its issuer and its place in engine order (R252). `since` is the clk at which a MACC began to
wait for a scale record. `shelf` and `launch` tell
whose contexts of that number issued it (R112, R420). -/
structure MacroOp where
  seq   : Nat
  core  : Nat
  ctx   : Nat
  owner : Nat
  kind  : MacroKind
  since : Option Nat := none
  shelf : Nat := 0
  launch : Option (Nat × Nat) := none
  deriving DecidableEq, Repr

/-- A split-K contribution on its way (R521): the reducer's cluster, the tag, launch, rows and pairs, and the sender's
clock. -/
structure Contribution where
  dest  : Nat
  tag   : Nat
  slot  : Nat
  epoch : Nat
  rows  : BitVec 32
  pairs : Table AccPair
  l     : Nat
  deriving DecidableEq, Repr

/-- The matrix-tile node instance that the sequencer runs (R265, R521). -/
structure SeqNode where
  die    : Nat
  ticket : Nat
  slot   : Nat
  epoch  : Nat
  owner  : Nat
  words  : List Word
  recAddr : Word
  rows   : BitVec 32
  tile   : Option Nat := none
  p      : Nat
  /-- Contributions accepted, each with its place in the order of R44. -/
  held   : List (Nat × Contribution) := []
  sent   : Bool := false
  /-- The page whose translation the host failed (R113). -/
  xfail  : Option Nat := none
  deriving DecidableEq, Repr

/-- A node instance whose state is saved with a suspended launch (R266): STEP, its tile and both B buffers. -/
structure ParkedNode where
  node : SeqNode
  step : Nat
  img  : TileImage
  errc : Nat
  bufs : Table BBuffer
  deriving DecidableEq, Repr

/-- A matrix engine (R246). -/
structure MatrixEngine where
  bufs    : Table BBuffer := []
  tiles   : Table Tile := []
  slots   : Table CkSlot := []
  step    : Nat := 0
  node    : Option SeqNode := none
  offered : List MacroOp := []
  loads   : List MacroOp := []
  computes : List MacroOp := []
  seq     : Nat := 0
  /-- Bucket in 1/256 tokens; plane-steps of the slab in hand that have run; clk in which a plane-step waited, up to the present wait; and of
that wait the clk it began and the plane-steps that have yet to run (R255, R263). -/
  bucket  : Nat := 65536
  paid    : Nat := 0
  gov     : Word := 0
  govWait : Option (Nat × Nat) := none
  /-- Contribution that this engine sends (R521). -/
  out     : Option Contribution := none
  parked  : List ParkedNode := []
  deriving DecidableEq, Repr

/-! ### Who started an operation -/

/-- The open ticket of a control context (R132, R414). -/
structure Ticket where
  num   : Nat
  die   : Nat
  slot  : Nat
  epoch : Nat
  deriving DecidableEq, Repr

/-- The context that started a posted write, copy or near-memory command, with its launch and the ticket that its core's
control context held; `ended` once that context has ended (R410). -/
structure Origin where
  core   : Nat := 0
  ctx    : Nat := 0
  slot   : Nat := 0
  epoch  : Nat := 0
  ticket : Option Ticket := none
  ended  : Bool := false
  deriving DecidableEq, Repr

/-! ### Copies and page moves -/

/-- Who asked for a copy or near-memory command: a context with its batch or command number, or a node instance (R522). -/
inductive Issuer where
  | ctx (o : Origin) (num : Nat)
  | node (die ticket : Nat) (recAddr : Word)
  deriving DecidableEq, Repr

/-- A copy from its issue point on (R297-R304): the request, its issuer, the values of the issuing context that it keeps,
and its progress. -/
structure CopyJob where
  id       : Nat
  words    : List Word
  issuer   : Issuer
  owner    : Nat
  slot     : Nat
  epoch    : Nat
  stream   : Word
  p        : Nat
  racemode : Word
  pc       : Word
  /-- Destination arithmetic sent to the destination core, and updates not yet applied (R307). -/
  sent     : Bool := false
  left     : Nat := 0
  /-- Cause, row and column of a stop (R304). -/
  fail     : Option (Nat × Nat × Nat) := none
  /-- Source lines as read at the issue point, and destination lines held, by address / 64 (R302, R303). -/
  snap     : Table (List Byte) := []
  dests    : Table Nat := []
  /-- Every line is read or held, but for those at or beyond a stop. -/
  settled  : Bool := false
  /-- Number of the first destination update (R307). -/
  num      : Nat := 0
  /-- The page whose translation the host failed (R113). -/
  xfail    : Option Nat := none
  deriving DecidableEq, Repr

/-- Where a page is (LOC and ADDR of R165). -/
inductive PageLoc where
  | erg (core frame : Nat)
  | hbm
  | xm (page : Nat)
  | moving (destKind : Nat)
  deriving DecidableEq, Repr

/-- A page move of PPLACE (R172, R180): the page, the issuing context, and where the page comes from and goes to. -/
structure PageMove where
  id     : Nat
  page   : Nat
  core   : Nat
  ctx    : Nat
  src    : PageLoc
  dest   : PageLoc
  launch : Option (Nat × Nat)
  deriving DecidableEq, Repr

/-- What a posted write does at its destination (R307, R308). -/
inductive PostedKind where
  | store
  | arith (fn ty : Nat) (sat : Bool) (seq : Option Nat)
  deriving DecidableEq, Repr

/-- Where the answer to a posted write goes: a journal entry of a core, or a copy (R307, R308). -/
inductive PostedFrom where
  | journal (core ctx entry : Nat)
  | copy (cluster id row col : Nat)
  deriving DecidableEq, Repr

/-- A posted write on its way to a core (R307-R310). -/
structure Posted where
  src   : PostedFrom
  /-- Source of the sequence of R307: a core, or a copy engine. -/
  source : Nat ⊕ Nat
  owner : Nat
  off   : Nat
  bytes : List Byte
  kind  : PostedKind
  deriving DecidableEq, Repr

/-- An update on its way to a barrier object of a core (R375): the object's offset, what it counts, its P and the owner
for which it is made. -/
structure BarUpdate where
  off      : Nat
  arrivals : Nat
  bytes    : Nat
  expected : Nat
  p        : Nat
  owner    : Nat
  deriving DecidableEq, Repr

/-- An exchange send on its way (R386). -/
structure ExSend where
  src   : Nat
  dst   : Nat
  off   : Nat
  bytes : List Byte
  owner : Nat
  deriving DecidableEq, Repr

/-- A near-memory command from its issue point on (R311-R314). `wkey` and `xkey` are the translated addresses. -/
structure NearCmd where
  id     : Nat
  words  : List Word
  issuer : Issuer
  owner  : Nat
  slot   : Nat
  epoch  : Nat
  wkey   : Nat
  xkey   : Nat
  p      : Nat
  racemode : Word
  pc     : Word
  stream : Word
  /-- Destination lines held, and the failing element and cause of a race (R313, R314). -/
  lines  : List Nat := []
  settled : Bool := false
  fail   : Option (Nat × Nat) := none
  /-- Its writes have been sent to the pseudo-channels. -/
  written : Bool := false
  deriving DecidableEq, Repr

end Sys2Proof.Machine
end

