-- ==== Sys2Proof/Machine/CoreState.lean ====
section
/-! DEFINITION. What a core holds: its contexts with their registers (R140-R143, R408, R414), queue sets (R146), banks
(R159), CWAY lines and write-lane queue (R272-R275), copy command FIFO (R297), posted-store journal (R308, R425) and
trace unit (R433, R443, R447). Plain data, each record with the values a core has after module reset. -/
namespace Sys2Proof.Machine

/-- Helper states (R137). The control context is always `live`. -/
inductive HState where
  | free | live | ended
  deriving DecidableEq, Repr

/-- The two front ends (R136). -/
inductive FE where
  | a | x
  deriving DecidableEq, Repr

/-- A node that Caravan delivers: record address, instance word, P of the entry and ticket (R132, R520). -/
structure Delivery where
  record : Word
  word   : Word
  p      : Nat
  ticket : Ticket
  deriving DecidableEq, Repr

/-- One 64-byte block of a fetch buffer (R182). -/
structure FetchBlock where
  va    : Word
  bytes : List Byte
  /-- The context has issued an instruction of the block (R182). -/
  issued : Bool := false
  deriving DecidableEq, Repr

/-- A sealed or open copy batch of a context (R305): its number, the operations not yet complete, and the greatest P. -/
structure Batch where
  num  : Nat
  ops  : List Nat
  p    : Nat
  failed : Bool
  /-- An operation has joined the batch. -/
  used : Bool := false
  deriving DecidableEq, Repr

/-- A pending asynchronous trap (R410): a refused journal entry, CPY.COPY or CPY.NMUE with MORE and %tval. -/
inductive Pend where
  | refused (entry : Nat)
  | copy (more : Bool) (tval : Word)
  | nmue (more : Bool) (tval : Word)
  deriving DecidableEq, Repr

/-- A control context that waits in NWAIT (R132): its operand a, its destination pair, the clk at which its timeout ends, and the address
of the next instruction. -/
structure NodeWait where
  d     : BitVec 6
  limit : Option Nat
  next  : Word
  deriving DecidableEq, Repr

/-- Who made a store: a context of a core, and the launch for which it ran (R112, R274). -/
structure Storer where
  ctx    : Nat
  launch : Option (Nat × Nat)
  /-- The handle under which a stream page was written (R171). -/
  handle : Option Word := none
  deriving DecidableEq, Repr

/-- The write budget and window registers (R275); `win` is the number of the window that USED belongs to. -/
structure WriteLane where
  trap   : Bool := false
  used   : Nat := 0
  budget : Nat := 512
  stallc : BitVec 32 := 0
  log    : Nat := 12
  win    : Nat := 0
  /-- BUDGET at the launch start, which a program may not raise (R424). -/
  cap    : Nat := 512
  /-- Contexts of which a store waits for budget or an entry, and the clk up to which STALLC counts their wait. -/
  waiters : List Nat := []
  seen   : Nat := 0
  deriving DecidableEq, Repr

/-- A context (R140-R143, R341, R355, R408, R414). -/
structure Ctx where
  hstate   : HState := .free
  idle     : Bool := false
  fe       : FE := .a
  resident : Bool := true
  /-- The clk at which it last became resident (R384). -/
  residentAt : Nat := 0
  parked   : Bool := false
  saved    : Bool := false
  pc       : Word := 0
  win      : Table Word := []
  g        : Table Word := []
  wbase    : Nat := 0
  v        : Table Lane := []
  masks    : Table (BitVec 128) := []
  grant    : Nat := 0
  savedGrant : Nat := 0
  shrunk   : Bool := false
  qset     : Nat := 6
  hlive    : BitVec 13 := 0
  abn      : Bool := false
  endp     : Nat := 0
  l        : Nat := 0
  h        : Nat := 0
  tvec     : Word := 0
  tcause   : Word := 0
  epc      : Word := 0
  tval     : Word := 0
  intrap   : Bool := false
  racemode : Word := 0x600
  gkey     : Word := 0
  gpos     : Word := 0
  stream   : Word := 0
  ticket   : Option Ticket := none
  arrived  : Option Delivery := none
  /-- The launch that the context runs for: slot and race epoch of the last delivery (R141). -/
  launch   : Option (Nat × Nat) := none
  /-- Batch numbers: last sealed and last completed (R305). -/
  sealed   : Nat := 0
  done     : Nat := 0
  openBatch : Batch := { num := 1, ops := [], p := 0, failed := false }
  batches  : List Batch := []
  /-- P of the newest completed batch. -/
  doneP    : Nat := 0
  /-- NMC numbers: last issued, last completed, and those not complete; the greatest P of those complete; whether one stopped
  (R320, R321, R414). -/
  nmIssued : Nat := 0
  nmDone   : Nat := 0
  nmOpen   : List Nat := []
  nmP      : Nat := 0
  nmStopped : Bool := false
  /-- Latest engine error of the context: its status word and its batch or command number (R318). -/
  errWord  : Word := 0
  errNum   : Word := 0
  /-- The pending set, the oldest first (R410). -/
  pend     : List Pend := []
  fbuf     : List FetchBlock := []
  acks     : Nat := 0
  yieldEnd : Option Nat := none
  nwait    : Option NodeWait := none
  /-- The page whose translation the host failed (R113). -/
  xfail    : Option Nat := none
  waitFrom : Option Nat := none
  /-- Its issued instruction waits and is at no boundary (R411). -/
  mid      : Bool := false
  /-- The clk since when its instruction waits for a queue alone (R150); while parked, the clk it has waited so far. -/
  qFrom    : Option Nat := none
  /-- While parked: its pair's partner's `qFrom` at that time (R150). -/
  pairFrom : Option Nat := none
  /-- %wlbud, %wlwin and %xslot of the core as a control context's image holds them (R414). -/
  coreRegs : Option (WriteLane × Table Word) := none
  poisoned : Bool := false
  /-- Its next instruction has not issued, for it is not fetched, waits for a queue or lacks room (R138, R252, R308). -/
  unissued : Bool := false
  /-- Bytes that its waiting store, which lacks a queue entry, was admitted with (R276, R277). -/
  admitted : Nat := 0
  /-- Values that its waiting instruction has popped, with their queues, in order (R147). -/
  popped   : List (Nat × Word) := []
  deriving DecidableEq, Repr

/-- A line held in CWAY (R272, R273, R329). -/
structure CLine where
  line    : Nat
  data    : List Byte
  dirty   : Bool
  granted : Nat
  wts     : Nat
  rts     : Nat
  wid     : BitVec 24
  /-- Those whose stores dirtied the line, the latest first (R296). -/
  dirtiers : List Storer
  owner   : Nat
  /-- One store has written the whole line since it was read (R516). -/
  whole   : Bool := false
  /-- The local offset of an uncorrectable error in the copy (R515). -/
  bad     : Option Nat := none
  deriving DecidableEq, Repr

/-- A write-lane queue entry (R274): masked bytes of one line, with the issuing context and its launch. -/
structure WlqEntry where
  line     : Nat
  bytes    : Table Byte
  ctx      : Nat
  since    : Nat
  departed : Bool
  owner    : Nat
  /-- The entry holds a whole line with the core's own dirty bytes (R273). -/
  merged   : Bool := false
  launch   : Option (Nat × Nat) := none
  handle   : Option Word := none
  /-- Others whose stores a written-back line holds (R273, R296). -/
  also     : List Storer := []
  /-- One store has written the whole line (R516). -/
  whole    : Bool := false
  deriving DecidableEq, Repr

/-- States of a journal entry (R308). -/
inductive JState where
  | free | pending | refused
  deriving DecidableEq, Repr

/-- An entry of the posted-store journal (R308, R425). -/
structure JEntry where
  state  : JState := .free
  addr   : Word := 0
  value  : Word := 0
  ctx    : Nat := 0
  ty     : Nat := 0
  fn     : Nat := 0
  kind   : Nat := 0
  reason : Nat := 0
  seq    : Bool := false
  org    : Origin := {}
  /-- The destination's answer on its way: 0 acknowledged, else the reason of a refusal. -/
  reply  : Option Nat := none
  deriving DecidableEq, Repr

/-- A frame of the Erg (R163): the page it holds, or one moving in. -/
inductive FrameUse where
  | free
  | page (id : Nat)
  | moving (id : Nat)
  deriving DecidableEq, Repr

/-- A watch slot of the trace unit (R449). -/
structure WatchSlot where
  /-- The object: an offset of local memory, or the memory key of a signal word. -/
  obj   : Nat := 0
  /-- Bits 15-0 of the object's address. -/
  low   : Nat := 0
  ctl   : Word := 0
  ctx   : Nat := 0
  fired : BitVec 32 := 0
  deriving DecidableEq, Repr

/-- The trace unit of a core (R433, R443, R447): 256 records of two dwords, the write position, the configuration and
the four watch slots. -/
structure TraceUnit where
  recs   : Table (Word × Word) := []
  owners : Table Nat := []
  w      : Nat := 0
  cfg    : Word := 0
  frozen : Bool := false
  lost   : BitVec 32 := 0
  /-- Numbers of the records that Sirocco has still to copy (R438, R440). -/
  todo   : List Nat := []
  /-- Records of earlier launches that Sirocco has still to copy, each with its owner (R437, R438). -/
  left   : List (Nat × Word × Word) := []
  watch  : Table WatchSlot := []
  deriving DecidableEq, Repr

/-- A core. -/
structure Core where
  ctxs    : Table Ctx := []
  modes   : Table Nat := []
  tags    : Table Nat := []
  fifo    : Table (List Word) := []
  frames  : Table FrameUse := []
  queues  : Table (List Word) := []
  rcache  : List (Nat × Nat) := []
  cway    : List CLine := []
  wlq     : List WlqEntry := []
  wl      : WriteLane := {}
  cpq     : List CopyJob := []
  /-- Posted writes that have been sent to this core and not yet applied (R307-R310). -/
  inbox   : List Posted := []
  /-- The trap frames in the context images: that of context k in shelf s at 16s + k (R413, R420). -/
  tframes : Table (Table Word) := []
  journal : Table JEntry := []
  /-- Updates numbered so far to each destination core: the next number is this modulo 2^16 (R307). -/
  seqOut  : Table Nat := []
  /-- Updates that have reached the core's barrier objects in the present clk or are about to (R375). -/
  barq    : List BarUpdate := []
  trace   : TraceUnit := {}
  /-- The helper that last issued on each front end, A 0 and X 1 (R138). -/
  lastIssue : Table Nat := []
  xslot   : Table Word := []
  domain  : Option Nat := none
  /-- The core has left a domain and joined no other since: %xslot reads 0 (R383). -/
  leftDomain : Bool := false
  stage   : Nat := 0
  /-- STAGE of the contexts parked on the other shelf (R19, R420). -/
  otherStage : Nat := 0
  shelf   : Nat := 0
  /-- The slot of a suspended launch that keeps the core, and whether the core was released to others (R420). -/
  parkedBy : Option Nat := none
  shared  : Bool := false
  /-- The parked contexts of the other shelf (R420). -/
  other   : Table Ctx := []
  deriving DecidableEq, Repr

end Sys2Proof.Machine
end

