-- ==== Sys2Proof/Machine/Memory.lean ====
section
/-! DEFINITION. Memory as one list of (key, byte) pairs in canonical form: keys strictly rising, no entry 0, which is what
an unlisted byte reads as (log 3). Keys hold a space above 2^64 and an address in it: 0 HBM4E, 1 expansion memory, 2 host
memory through CXL.cache (R173), 3 local memory by global core number x 65,536 + offset (R22), 4 stream pages by page
number x 4,096 + offset (R169), 5 the fixed regions of R92 and R123 by virtual address. -/
namespace Sys2Proof.Machine

/-- The memory of the machine. -/
abbrev Memory := List Host.Cell

/-- Read one byte. -/
def Memory.byte : Memory → Nat → Byte
  | [], _ => 0
  | (k, b) :: r, a => if a = k then b else if a < k then 0 else Memory.byte r a

/-- Write one byte, keeping the canonical form. -/
def Memory.put : Memory → Nat → Byte → Memory
  | [], a, b => if b = 0 then [] else [(a, b)]
  | (k, c) :: r, a, b =>
    if a < k then (if b = 0 then (k, c) :: r else (a, b) :: (k, c) :: r)
    else if a = k then (if b = 0 then r else (a, b) :: r)
    else (k, c) :: Memory.put r a b

/-- Keys rise strictly above `lo` and no byte is 0. -/
def Memory.wfFrom : Nat → Memory → Bool
  | _, [] => true
  | lo, (k, b) :: r => decide (lo ≤ k) && b ≠ 0 && Memory.wfFrom (k + 1) r

/-- The canonical form. -/
def Memory.wf (m : Memory) : Bool := Memory.wfFrom 0 m

/-- Read `n` bytes from a key upwards. -/
def Memory.bytes (m : Memory) (a : Nat) : Nat → List Byte
  | 0 => []
  | n + 1 => m.byte a :: Memory.bytes m (a + 1) n

/-- Write bytes from a key upwards. -/
def Memory.putBytes (m : Memory) (a : Nat) : List Byte → Memory
  | [] => m
  | b :: r => Memory.putBytes (m.put a b) (a + 1) r

/-- Make `n` bytes from a key zero. -/
def Memory.zero (m : Memory) (a n : Nat) : Memory := m.filter (fun c => !(decide (a ≤ c.1) && decide (c.1 < a + n)))

/-- Bytes as a number, the least significant first (R3). -/
def natOfBytes : List Byte → Nat
  | [] => 0
  | b :: r => b.toNat + 256 * natOfBytes r

/-- The low `n` bytes of a number, the least significant first (R3). -/
def bytesOfNat : Nat → Nat → List Byte
  | 0, _ => []
  | n + 1, v => BitVec.ofNat 8 v :: bytesOfNat n (v / 256)

/-- Read a 64-bit little-endian word. -/
def Memory.dword (m : Memory) (a : Nat) : Word := BitVec.ofNat 64 (natOfBytes (m.bytes a 8))

/-- Write a 64-bit little-endian word. -/
def Memory.putDword (m : Memory) (a : Nat) (v : Word) : Memory := m.putBytes a (bytesOfNat 8 v.toNat)

/-- The size of a space of keys. -/
def space : Nat := 2 ^ 64
/-- Key of an HBM4E physical address. -/
def hbmKey (pa : Nat) : Nat := pa
/-- Key of an expansion-memory physical address. -/
def xmKey (pa : Nat) : Nat := space + pa
/-- Key of a host physical address. -/
def hostKey (pa : Nat) : Nat := 2 * space + pa
/-- Key of a byte of a core's local memory. -/
def localKey (core off : Nat) : Nat := 3 * space + core * 65536 + off
/-- Key of a byte of a stream page. -/
def pageKey (page off : Nat) : Nat := 4 * space + page * 4096 + off
/-- Key of a byte of a fixed region. -/
def fixedKey (va : Nat) : Nat := 5 * space + va

end Sys2Proof.Machine
end

