-- ==== Sys2Proof/Machine/UnitState.lean ====
section
/-! DEFINITION. What the part holds outside its cores: lines at their home ports (R326, R348), page summaries (R352),
streams and their pages (R94, R164, R165), launch slots (R108, R415), Caravan's pools and instances (R114-R131), owners
(R104, R107) and the translation queue (R113). -/
namespace Sys2Proof.Machine

/-- A writer slot of a metadata entry (R348). -/
structure WSlot where
  agent  : BitVec 24 := 0
  tag    : Nat := 0
  scope  : Nat := 0
  atomic : Bool := false
  deriving DecidableEq, Repr

/-- A home metadata entry (R348). `map` holds 0-3 for each of the eight words. -/
structure MetaEntry where
  epoch : Nat
  w0    : WSlot := {}
  w1    : WSlot := {}
  map   : List Nat := [0, 0, 0, 0, 0, 0, 0, 0]
  floor : Nat := 0
  rmask : BitVec 8 := 0
  rmax  : Nat := 0
  rlast : Option (BitVec 24) := none
  rat   : Bool := false
  many  : Bool := false
  rfold : Bool := false
  /-- The greatest tag that the entry has seen (R352). -/
  top   : Nat := 0
  deriving DecidableEq, Repr

/-- Who holds a line exclusively (R331, R332): a core, an engine's operation, or the host for a line of its own that its snoop took
back (R334). -/
inductive Holder where
  | core (g : Nat)
  | engine (op : Nat)
  | host
  deriving DecidableEq, Repr

/-- A coherent line at its home port (R326, R348). -/
structure LineHome where
  wts  : Nat := 0
  rts  : Nat := 0
  wid  : BitVec 24 := 0
  md   : Option MetaEntry := none
  held : Option Holder := none
  /-- Engine operations that wait for the line, the first to come first (R302, R303, R332). -/
  queue : List Nat := []
  deriving DecidableEq, Repr

/-- A page summary (R352). -/
structure PageSum where
  epoch : Nat
  sumw  : Nat
  sumr  : Nat
  deriving DecidableEq, Repr

/-- A write that its home port accepted and its pseudo-channel, XM port or host has not yet taken into the memory (R278, R280, R282,
R99): the bytes that the memory still holds, the class and partition, and the core, with those of its contexts whose stores it
holds; for a near-memory write the command. -/
structure ArrayWrite where
  chan  : Nat
  old   : Table Byte
  part  : Nat
  near  : Bool
  core  : Nat
  by_   : List Storer
  deriving DecidableEq, Repr

/-- A pseudo-channel's slot tables (R279). -/
structure SlotTable where
  staged  : Table Word := []
  live    : Table Word := []
  donate  : Bool := false
  err     : Bool := false
  /-- The table committed for the next table cycle. -/
  next    : Option (Table Word) := none
  slot    : Nat := 0
  deriving DecidableEq, Repr

/-- Stream states (R95). -/
inductive SState where
  | free | admitted | ready | running | waitingAction | frozen | migratedStub | retired
  deriving DecidableEq, Repr

/-- A stream descriptor (R94) with its owner and step clock (R177) and, while frozen, the state it left (R487). -/
structure Stream where
  hzn      : Bool := false
  roshare  : Bool := false
  pruned   : Bool := false
  child    : Bool := false
  parent   : Nat := 0
  jgroup   : Nat := 0
  prio     : Nat := 0
  gen      : Nat := 0
  used     : Bool := false
  state    : SState := .free
  root     : Nat := 0
  pagesUsed : Nat := 0
  resv     : Nat := 0
  steps    : Nat := 0
  horizon  : Nat := 0
  qbase    : Word := 0
  qtail    : Nat := 0
  qhead    : Nat := 0
  qlog     : Nat := 0
  template : Word := 0
  position : Nat := 0
  node     : Nat := 0
  gkey     : Word := 0
  gpos     : Nat := 0
  draw     : Nat := 0
  retval   : Word := 0
  ckdie    : Nat := 0
  ckcl     : Nat := 0
  ckv      : Bool := false
  ckslot   : Nat := 0
  owner    : Nat := 0
  clock    : Nat := 0
  /-- The drive that took the stream: launch slot, node index, and steps completed within it (R88). -/
  drive    : Option (Nat × Nat) := none
  driveSteps : Nat := 0
  /-- P with which the stream is ready while its node's record or a place in the pool is awaited (R89, R116). -/
  heldP : Option Nat := none
  /-- The ready time that its entry takes then (R117, R472). -/
  heldAt : Nat := 0
  /-- State at a freeze (R471, R487). -/
  frozenFrom : SState := .free
  /-- The forwarding handle of a stub (R489). -/
  fwd      : Option Word := none
  deriving DecidableEq, Repr

/-- A root or leaf node of a stream page table (R164): reference count, owner, entries (leaf or descriptor numbers). -/
structure TableNode where
  refcnt  : Nat
  owner   : Nat
  leaf    : Bool
  entries : Table Nat
  deriving DecidableEq, Repr

/-- A page descriptor (R165); its BACK page and address are functions of its number (log 6). -/
structure PageDesc where
  refcnt : Nat
  loc    : PageLoc
  owner  : Nat
  deriving DecidableEq, Repr

/-- States of a launch slot (R108). -/
inductive LState where
  | idle | running | stopping | done | error | stopped
  deriving DecidableEq, Repr

/-- An edge that a completion has released and the owning die has not yet counted (R114): from node `src`, the header for
the roots (R82), to `node`, with the P published. -/
structure EdgeRel where
  src  : Nat
  node : Nat
  p    : Nat
  deriving DecidableEq, Repr

/-- A launch slot's registers (R108, R415) and the launch it runs (R110, R114, R347). -/
structure Launch where
  lgraph : Word := 0
  lctl   : Word := 0
  seq    : Nat := 0
  epoch  : Nat := 0
  enode  : Nat := 0xFFFF
  ecode  : Nat := 0
  golost : Bool := false
  state  : LState := .idle
  params : Table Word := []
  lcomp  : Word := 0
  lelapsed : Word := 0
  lstage : Word := 0
  utcause : Word := 0
  utepc  : Word := 0
  utval  : Word := 0
  /-- Values latched at the start (R110). -/
  graph  : Word := 0
  owner  : Nat := 0
  rmode  : Bool := false
  irqen  : Bool := false
  comp   : Word := 0
  stage  : Word := 0
  vals   : Table Word := []
  start  : Nat := 0
  hostP  : Nat := 0
  nodes  : Nat := 0
  /-- Predecessor counts left and loop counts, by node index (R86, R114). -/
  left   : Table Nat := []
  loops  : Table Nat := []
  /-- Greatest P over the edges counted so far, by node index (R130). -/
  ps     : Table Nat := []
  edges  : List EdgeRel := []
  stopAs : LState := .stopped
  suspended : Bool := false
  share  : Bool := false
  /-- TAG of the graph's header (R82; no record of R435 has a place for it, log 42). -/
  tag    : Nat := 0
  /-- Pages for which a read of Caravan's is held, each with the node that the read is for (R113). -/
  waits  : List (Nat × Nat) := []
  deriving DecidableEq, Repr

/-- A ready node instance (R115-R117), with its record as resolved, and its successors as read, when it became ready (R83,
R90). -/
structure PoolEntry where
  slot   : Nat
  epoch  : Nat
  node   : Nat
  addr   : Word
  words  : List Word
  succ   : List Nat
  kind   : Nat
  prio   : Nat
  ready  : Nat
  p      : Nat
  stream : Option Word
  /-- A TASK's issuing core and barrier address (R135). -/
  task   : Option (Nat × Nat) := none
  /-- The first clk at which an entry that waits outside a gang may join one (R122). -/
  joins  : Nat := 0
  deriving DecidableEq, Repr

/-- A gang (R122). -/
structure Gang where
  opened  : Nat
  closed  : Bool
  max     : Nat
  members : List PoolEntry
  deriving DecidableEq, Repr

/-- A dispatched instance (R118, R134): the cores of its ranks, those whose NDONE came, the greatest P, the gang rows. -/
structure Inst where
  id     : Nat
  die    : Nat
  ticket : Nat
  entry  : PoolEntry
  cores  : List Nat
  done   : List Nat
  p      : Nat
  gslot  : Option Nat
  rows   : List (Option Word)
  /-- The unit that serves an engine node. -/
  unit   : Nat
  /-- A rank was discarded: the instance releases no edge (R109, R415). -/
  dead   : Bool
  /-- A gang whose work is done and whose members have not yet advanced (R126). -/
  finished : Bool := false
  /-- The page of an operand whose translation the host failed (R113). -/
  xfail : Option Nat := none
  deriving DecidableEq, Repr

/-- A Caravan (R114-R131). -/
structure Caravan where
  pool     : List PoolEntry := []
  overflow : List PoolEntry := []
  gangs    : List Gang := []
  insts    : List Inst := []
  gslots   : List Nat := []
  /-- Cores reserved for the head entry of the cores class, and the slot, node, ready time and least stream of that head
  (R120). -/
  reserved : List Nat := []
  reservedFor : Option (Nat × Nat × Nat × Nat) := none
  stale    : BitVec 32 := 0
  /-- Streams whose tables the SPM holds, the least recently bound first (R170). -/
  spm      : List Nat := []
  deriving DecidableEq, Repr

/-- A stream-step node under way: launch slot, node index, the template with its root, the node's successors, handles not yet
taken, streams taken and not yet left, and the counts of R88. -/
structure Drive where
  slot    : Nat
  node    : Nat
  epoch   : Nat
  tpl     : Word
  /-- TAG of the template's header (R82, log 42). -/
  tag     : Nat
  root    : Nat
  succ    : List Nat
  limit   : Nat
  result  : Word
  todo    : List Word
  taken   : List Nat
  left    : Nat
  skipped : Nat
  p       : Nat
  /-- The page of the result whose translation the host failed (R113). -/
  xfail   : Option Nat := none
  deriving DecidableEq, Repr

/-- One whose access waits in a replay queue (R172): a context, with the clk since which it waits, or an operation of an engine. -/
inductive Waiter where
  | ctx (core ctx since : Nat)
  | op (id : Nat)
  deriving DecidableEq, Repr

/-- An owner slot (R104, R107, R173). -/
structure Owner where
  loaded  : Bool := false
  root    : Word := 0
  quota   : BitVec 32 := 0
  resv    : Nat := 0
  refused : BitVec 32 := 0
  xmUsed  : Nat := 0
  /-- Memory as it stood at the owner's latest launch start: the page table that its present mappings are taken from (R174, log 14). -/
  table   : Memory := []
  part    : Nat := 0
  deriving DecidableEq, Repr

/-- A page fault held for the host (R113): the page, who waits, and whether the entry is in the ring. -/
structure HeldFault where
  page   : Nat
  owner  : Nat
  va     : Word
  agent  : BitVec 24
  kind   : Nat
  slot   : Nat
  tag    : Nat
  posted : Bool
  waiters : List (BitVec 24)
  deriving DecidableEq, Repr

/-- A barrier domain (R383). `arrived` lists members whose SYNC has arrived, with their P,
and `released` those whose SYNC completed at T0 and has not yet left, with COUNT at T0; `last` is the
clk of the last arrival, `dp` the P of the latest barrier, `t0` the clk at which its exchange began. -/
structure Domain where
  configured : Bool := false
  exchanging : Bool := false
  slot     : Nat := 0
  epoch    : Nat := 0
  members  : List Nat := []
  slots    : Nat := 1
  slotLen  : Nat := 16
  limit    : Nat := 0
  count    : Nat := 0
  arrived  : List (Nat × Nat) := []
  released : List (Nat × Nat) := []
  last     : Nat := 0
  dp       : Nat := 0
  t0       : Nat := 0
  sends    : List ExSend := []
  /-- Cores of which a send of the latest phase was dropped (R386). -/
  dropped  : List Nat := []
  deriving DecidableEq, Repr

/-- A block of an instruction cache (R183): its physical key, the owner for which it was fetched, and its bytes. -/
structure CodeBlock where
  key   : Nat
  owner : Nat
  bytes : List Byte
  deriving DecidableEq, Repr

/-- A cached translation (R174): owner, virtual page and the entry found. -/
structure Tlb where
  owner : Nat
  page  : Nat
  entry : Word
  big   : Bool
  deriving DecidableEq, Repr

end Sys2Proof.Machine
end

