-- ==== Sys2Proof/Machine/DeviceState.lean ====
section
/-! DEFINITION. What the remaining units hold: the samplers (R461-R466), Wadi's join groups (R481, R482), Barchan's transfers
(R487-R490), Sirocco (R438-R440), and the device registers (R101, R102, R255, R328, R362, R416, R441, R511-R518). -/
namespace Sys2Proof.Machine

/-! ### Samplers -/

/-- A sampler context that runs an instance (R461, R463-R465): the instance's ticket and pool entry, the program (no words until
it is read), its registers, its generator, the entries it was given, and the entries recorded by EMIT with their DRAWIX. -/
structure SmpCtx where
  ticket : Nat
  entry  : PoolEntry
  owner  : Nat
  prog   : Word
  words  : List Lane
  pc     : Nat := 0
  w      : Table Lane
  key    : Word
  pos    : Nat
  draw   : Nat
  base   : Nat
  count  : Nat
  emits  : List (Lane × Lane × Nat) := []
  stepat : Nat
  l      : Nat
  h      : Nat
  ran    : Nat := 0
  /-- The page whose translation the host failed (R113). -/
  xfail  : Option Nat := none
  deriving DecidableEq, Repr

/-- A die's sampler (R461, R464): contexts that run an instance, by number, candidate entries, and L and H of the idle
contexts. -/
structure Sampler where
  ctxs   : Table SmpCtx := []
  cands  : Table Word := []
  clocks : Table (Nat × Nat) := []
  /-- The context that issued last (R467). -/
  last   : Nat := 255
  deriving DecidableEq, Repr

/-! ### Wadi -/

/-- States of a join group (R481). -/
inductive GroupState where
  | free | opened | resolved
  deriving DecidableEq, Repr

/-- A join group (R481, R482): its configuration, result address and the launch and owner that opened it, generation and
RETVAL of each stream that has returned, the greatest P of the reports counted, the P of its resolution, members pruned, and the join
nodes that wait for it, by ticket. -/
structure JoinGroup where
  state  : GroupState := .free
  cfg    : Word := 0
  addr   : Word := 0
  owner  : Nat := 0
  slot   : Nat := 0
  epoch  : Nat := 0
  rets   : Table (Nat × Word) := []
  p      : Nat := 0
  resP   : Nat := 0
  pruned : Nat := 0
  /-- Resolution asked for by a node with NOW (R486). -/
  now    : Bool := false
  /-- The page of the result whose translation the host failed (R113). -/
  xfail  : Option Nat := none
  nodes  : List Nat := []
  deriving DecidableEq, Repr

/-! ### Barchan -/

/-- A transfer that this package sends (R487, R489). It has begun once its flits are sent. -/
structure Transfer where
  tag    : Nat
  die    : Nat
  stream : Nat
  owner  : Nat
  slot   : Nat
  epoch  : Nat
  agent  : BitVec 24
  dest   : BitVec 16
  addr   : Word
  p      : Nat
  begun  : Bool := false
  /-- The page whose translation the host failed (R113). -/
  xfail  : Option Nat := none
  deriving DecidableEq, Repr

/-- A transfer that this package receives (R489): the stream it admits, or the status that refused it; the chunks and entries that
have come, whether what was sent was in error, the state at the freeze, and what the close flit counts. -/
structure Arrival where
  src     : BitVec 16
  tag     : Word
  stream  : Nat := 0
  status  : Nat := 0
  owner   : Nat := 0
  chunks  : List Nat := []
  entries : Nat := 0
  bad     : Bool := false
  waiting : Bool := false
  closing : Option (Nat × Nat) := none
  xfail   : Option Nat := none
  deriving DecidableEq, Repr

/-! ### Sirocco -/

/-- A die's Sirocco (R438-R440): its registers, the sequence number of its next frame, and the open frame's owner, the clk
at which it opened, and its records as (core, dword 0, dword 1). -/
structure Sirocco where
  base  : Word := 0
  head  : Nat := 0
  tail  : Nat := 0
  drop  : BitVec 32 := 0
  seq   : Nat := 0
  owner : Nat := 0
  since : Nat := 0
  recs  : List (Nat × Word × Word) := []
  deriving DecidableEq, Repr

/-! ### Device registers -/

/-- A signed attestation report (R106): the firmware version, and the ECDSA and LMS signatures, which are free values (log 8). -/
structure Report where
  fwver : BitVec 32
  ecdsa : Word
  lms   : Word
  deriving DecidableEq, Repr

/-- Device registers and what Ibpilith keeps. -/
structure Device where
  fwver    : BitVec 32 := 0
  booterr  : Nat := 0
  lmslow   : Bool := false
  recovery : Bool := false
  hbmok    : Bool := false
  ready    : Bool := false
  epoch    : Nat := 0
  hdmown   : Word := 0
  xlqbase  : Word := 0
  xlqtail  : Nat := 0
  xlqhead  : Nat := 0
  xlqcount : Nat := 0
  nextTag  : Nat := 0
  mgov     : Nat := 128
  lease    : Nat := 64
  clkmax   : Nat := 0
  lmbase   : Word := 0
  lmseq    : BitVec 32 := 0
  /-- Intervals of 2^20 clk for which the counters have been captured (R441). -/
  lmtaken  : Nat := 0
  lmowner  : Nat := 0
  lmlog    : Nat := 0
  /-- PWRCTL (R511). -/
  pwrErr   : Bool := false
  pwrBusy  : Bool := false
  pwrCur   : Nat := 0
  pwrTarget : Nat := 0
  /-- THERM (R511). -/
  warned   : Bool := false
  tripped  : Bool := false
  trip     : Nat := 110
  warn     : Nat := 95
  tj       : Nat := 0
  cgerr    : Bool := false
  /-- Package clusters whose CGATE bit is set, and those that are gated (R511, R513). -/
  cgate    : List Nat := []
  gated    : List Nat := []
  /-- The machine-check log (R517). -/
  mcbase   : Word := 0
  mctail   : Nat := 0
  mchead   : Nat := 0
  mccount  : Nat := 0
  mclost   : BitVec 32 := 0
  /-- MSI-X vectors sent, latest first, vectors masked and vectors held pending (R101). -/
  sent     : List Nat := []
  masked   : List Nat := []
  pending  : List Nat := []
  /-- LMS attestation signatures left (R106) and Ibpilith's last answer: 1 done, 2 BUSY, 3 ERROR (R104, R106). -/
  lmsLeft  : Nat := 1048576
  answer   : Nat := 0
  report   : Option Report := none
  /-- The firmware image that an install has put into the module's flash (R103). -/
  image    : Option BootImage := none
  /-- BUDGET and LOG that the firmware loads at a launch start (R11, R275). -/
  budget   : Nat := 512
  window   : Nat := 12
  /-- Lifetime counters by dword, as counted and as module flash holds them (R518). -/
  life     : Table Nat := []
  flash    : Table Nat := []
  mbstat   : Word := 0
  mbox     : Table Word := []
  /-- The completion of the latest host read: its bytes and whether it carries poison (R102, R516). -/
  hostData : List Byte := []
  hostBad  : Bool := false
  /-- Host lines that accesses wait for, the oldest request first (R99, R334). -/
  hostReqs : List Nat := []
  /-- Instruction-cache blocks in error, by cluster, owner and block key (R185, R515). -/
  icBad    : List (Nat × Nat × Nat) := []
  /-- Width and rate of each trained link, by port of R518 (R99). -/
  ports    : Table (Nat × Nat) := []
  deriving DecidableEq, Repr

end Sys2Proof.Machine
end

