-- ==== Sys2Proof/Machine/State.lean ====
section
/-! DEFINITION. The state of the part, the reasons a step can stop, and the state right after module reset. -/
namespace Sys2Proof.Machine

/-- Whose turn a step is (log 1): a front end has an issue slot (R138), in which the contexts named are not ready for reasons of time alone
(R139, log 7); what a context does without a slot goes on; a sampler has an issue slot
(R467), in which the contexts named are not ready; an event of the part or of the outside world takes
place; the host masks or unmasks a vector's MSI-X entry (R101, log 41); or time passes. -/
inductive Turn where
  | front (core : Nat) (fe : FE) (late : List Nat)
  | waits (core ctx : Nat)
  | micro (die : Nat) (late : List Nat)
  | event (i : Instr)
  | mask (vector : Nat) (on : Bool)
  | pass (n : Nat)
  deriving DecidableEq, Repr

/-- Why the machine stops. Raised by no core or sampler instruction. -/
inductive Fault where
  /-- Raised by an event of the agenda that names a unit the part does not have (R13): such an event cannot happen in
  the part, so stopping is safe. -/
  | noUnit
  deriving DecidableEq, Repr

/-- Why an instruction has no meaning. -/
inductive Refusal where
  /-- Raised by the dispatcher for an instruction that has no meaning yet; safe, for nothing is claimed of it. -/
  | notModelled (mnemonic : String)
  deriving DecidableEq, Repr

/-- The part. -/
structure State where
  clk      : Nat
  agenda   : List Turn
  /-- The context whose turn it is, and the sampler context (die and number) whose turn it is. -/
  cur      : Nat × Nat
  smp      : Nat × Nat
  mem      : Memory
  poison   : List Nat
  /-- 32-bit words of local memory (key / 4) with an uncorrectable error (R515). -/
  lmPoison : List Nat
  /-- Whose keys encrypt the bytes of a line of HBM4E or expansion memory: the owners that wrote them, each with a mask (R104). -/
  keyed    : Table (List (Nat × BitVec 64))
  lines    : Table LineHome
  sums     : Table PageSum
  metaUse  : List Nat
  hostClk  : Nat
  imports  : Table Nat
  cores    : Table Core
  launches : Table Launch
  caravans : Table Caravan
  drives   : List Drive
  domains  : Table Domain
  owners   : Table Owner
  streams  : Table Stream
  nodes    : Table TableNode
  pages    : Table PageDesc
  /-- Where freed pages were last, to which writes to them still go (R171). -/
  gone     : Table PageLoc
  /-- Accesses that wait for a moving page, in order of arrival, by page (R172). -/
  replay   : Table (List Waiter)
  poolUsed : Nat
  tlbs     : Table (List Tlb)
  /-- The blocks of each cluster's instruction cache, the most recently used first (R183). -/
  icache   : Table (List CodeBlock)
  held     : List HeldFault
  matrix   : Table MatrixEngine
  jobs     : Table (List CopyJob)
  /-- The core, within its cluster, from whose FIFO a copy engine took its latest request (R297). -/
  rotor    : Table Nat
  moves    : Table (List PageMove)
  /-- Updates numbered so far by each copy engine to a core, by cluster x 40,960 + core (R307). -/
  engSeq   : Table Nat
  near     : List NearCmd
  chans    : Table SlotTable
  array    : List ArrayWrite
  samplers : Table Sampler
  /-- Join groups by die x 1,024 + group. -/
  groups   : Table JoinGroup
  /-- L and H of each die's Wadi (R485). -/
  wadi     : Table (Nat × Nat)
  transfers : List Transfer
  arrivals : List Arrival
  /-- Xanwell flits that the part has sent, the oldest first (R490). -/
  flits    : List Flit
  sirocco  : Table Sirocco
  dev      : Device
  /-- First location that the running instruction accesses in memory, for its trace record: address and bytes (R435). -/
  seen     : Option (Word × Nat)
  /-- The model's own counters: free values taken (log 5) and identities given (log 6). -/
  free     : Nat
  fresh    : Nat
  deriving DecidableEq, Repr

/-- The machine right after module reset (R5, R520, log 3, log 4). -/
def State.reset : State :=
  { clk := 0, agenda := [], cur := (0, 0), smp := (0, 0), mem := [], poison := [], lmPoison := [], keyed := [], lines := [], sums := [],
    metaUse := [], hostClk := 0, imports := [], cores := [], launches := [], caravans := [], drives := [], domains := [],
    owners := [], streams := [], nodes := [], pages := [], gone := [], replay := [], poolUsed := 0, tlbs := [], icache := [], held := [], matrix := [],
    jobs := [], rotor := [], moves := [], engSeq := [], near := [], chans := [], array := [], samplers := [], groups := [], wadi := [],
    transfers := [], arrivals := [], flits := [], sirocco := [], dev := {}, seen := none, free := 0, fresh := 1 }

end Sys2Proof.Machine
end

