-- ==== Sys2Proof/Machine/Ops.lean ====
section
/-! DEFINITION. Named operations over cores, contexts and registers, the monad in which a core instruction runs, and
taking and leaving an exception (R408-R415, R428). -/
namespace Sys2Proof.Machine

/-! ### Cores and contexts -/

/-- A context after module reset: the control context is idle, a helper free (R137, R520). -/
def Ctx.initial (k : Nat) : Ctx := if k = 0 then { hstate := .live, idle := true } else {}

/-- A context of a core. -/
def Core.ctx (c : Core) (k : Nat) : Ctx := c.ctxs.get (Ctx.initial k) k
/-- A core by global core number (R22). -/
def State.core (s : State) (g : Nat) : Core := s.cores.get {} g
/-- A context by core and number. -/
def State.ctx (s : State) (g k : Nat) : Ctx := (s.core g).ctx k
/-- Write a core. -/
def State.setCore (s : State) (g : Nat) (c : Core) : State := { s with cores := s.cores.set g c }
/-- Write a context. -/
def State.setCtx (s : State) (g k : Nat) (x : Ctx) : State :=
  s.setCore g { s.core g with ctxs := (s.core g).ctxs.set k x }
/-- Change a context. -/
def State.onCtx (s : State) (g k : Nat) (f : Ctx → Ctx) : State := s.setCtx g k (f (s.ctx g k))
/-- Change a core. -/
def State.onCore (s : State) (g : Nat) (f : Core → Core) : State := s.setCore g (f (s.core g))
/-- A launch slot. -/
def State.launch (s : State) (i : Nat) : Launch := s.launches.get {} i
/-- Change a launch slot. -/
def State.onLaunch (s : State) (i : Nat) (f : Launch → Launch) : State :=
  { s with launches := s.launches.set i (f (s.launch i)) }
/-- A die's Caravan. -/
def State.caravan (s : State) (d : Nat) : Caravan := s.caravans.get {} d
/-- Change a die's Caravan. -/
def State.onCaravan (s : State) (d : Nat) (f : Caravan → Caravan) : State :=
  { s with caravans := s.caravans.set d (f (s.caravan d)) }
/-- An owner slot. -/
def State.owner (s : State) (o : Nat) : Owner := s.owners.get {} o
/-- Change an owner slot. -/
def State.onOwner (s : State) (o : Nat) (f : Owner → Owner) : State :=
  { s with owners := s.owners.set o (f (s.owner o)) }
/-- A stream descriptor. -/
def State.stream (s : State) (n : Nat) : Stream := s.streams.get {} n
/-- Change a stream descriptor. -/
def State.onStream (s : State) (n : Nat) (f : Stream → Stream) : State :=
  { s with streams := s.streams.set n (f (s.stream n)) }
/-- A barrier domain. -/
def State.domainOf (s : State) (n : Nat) : Domain := s.domains.get {} n
/-- Change a barrier domain. -/
def State.onDomain (s : State) (n : Nat) (f : Domain → Domain) : State :=
  { s with domains := s.domains.set n (f (s.domainOf n)) }

/-- The cluster of a core, counted over the package. -/
def clusterOf (g : Nat) : Nat := g / Config.coresPerCluster
/-- The die of a core. -/
def dieOf (g : Nat) : Nat := g / Config.coresPerDie
/-- The number of a core in its cluster. -/
def coreInCluster (g : Nat) : Nat := g % Config.coresPerCluster

/-- Agent ID of a context (R21). -/
def ctxAgent (g k : Nat) : BitVec 24 :=
  BitVec.ofNat 24 (dieOf g * 2 ^ 18 + clusterOf g % 128 * 2 ^ 11 + coreInCluster g * 16 + k)
/-- Agent ID of a cluster's engine of a kind: 1 copy, 2 matrix (R21). -/
def clusterAgent (kind cl : Nat) : BitVec 24 := BitVec.ofNat 24 (kind * 2 ^ 20 + cl * 2 ^ 11)
/-- Agent ID of a unit that is one a die or stack, or of the host or another package: kinds 3 to 7 (R21). -/
def unitAgent (kind n : Nat) : BitVec 24 := BitVec.ofNat 24 (kind * 2 ^ 20 + n)

/-- Whether a context number is one of the machine's (R18). -/
def hasContext (g k : Nat) : Bool := decide (g < Config.coreCount) && decide (k < Config.contextCount)

/-- The context that a kind 0 agent ID names (R21). -/
def agentCtx (a : BitVec 24) : Option (Nat × Nat) :=
  let low := a.toNat
  let g := low / 2 ^ 18 * 10240 + low / 2 ^ 11 % 128 * 80 + low / 16 % 128
  if low < 2 ^ 20 ∧ low / 16 % 128 < 80 ∧ hasContext g (low % 16) then some (g, low % 16) else none

/-- Whether an agent ID is one that a party of R21's table has: kinds 8-15 are never produced, and the bits that a kind's layout has as
zero are. -/
def agentOk (a : BitVec 24) : Bool :=
  let low := a.toNat % 2 ^ 20
  match a.toNat / 2 ^ 20 with
  | 0 => (agentCtx a).isSome
  | 1 | 2 => decide (low % 2 ^ 11 = 0)
  | 3 => decide (low < 8)
  | 4 | 5 => decide (low < 4)
  | 6 => decide (low = 0)
  | 7 => decide (low < 2 ^ 12)
  | _ => false

/-- An agent ID that is a free value, of the kinds that the part produces (R21, log 5). -/
def freeAgent (n : Nat) : BitVec 24 :=
  let v := (Config.freeValue n).toNat / 8
  match (Config.freeValue n).toNat % 8 with
  | 0 => ctxAgent (v % Config.coreCount) (v / 2 ^ 20 % Config.contextCount)
  | 1 => clusterAgent 1 (v % Config.clusterCount)
  | 2 => clusterAgent 2 (v % Config.clusterCount)
  | 3 => unitAgent 3 (v % 8)
  | 4 => unitAgent 4 (v % 4)
  | 5 => unitAgent 5 (v % 4)
  | 6 => unitAgent 6 0
  | _ => unitAgent 7 (v % 4096)

/-- Place word of a context (R19). -/
def State.place (s : State) (g k : Nat) : Word :=
  BitVec.ofNat 64 ((s.core g).stage * 2 ^ 28 + dieOf g * 2 ^ 26 + clusterOf g % 128 * 2 ^ 19 + coreInCluster g * 2 ^ 12
    + k * 2 ^ 8)

/-- The owner for which a context runs: LCTL.OWNER of its launch (R105). -/
def State.ownerOf (s : State) (g k : Nat) : Nat :=
  match (s.ctx g k).launch with
  | some (slot, _) => (s.launch slot).owner
  | none => 0

/-- The race epoch of a context (R108). -/
def Ctx.epoch (c : Ctx) : Nat := (c.launch.map (·.2)).getD 0

/-- %superstep: COUNT of the core's domain, 0 in none (R383). -/
def State.superstep (s : State) (g : Nat) : Word :=
  match (s.core g).domain with
  | some d => BitVec.ofNat 64 (s.domainOf d).count
  | none => 0

/-! ### Registers -/

/-- Register sk of the current window (R143). -/
def Ctx.s (c : Ctx) (k : Nat) : Word := c.win.get 0 (c.wbase + k)
/-- Write sk. -/
def Ctx.setS (c : Ctx) (k : Nat) (v : Word) : Ctx := { c with win := c.win.set (c.wbase + k) v }
/-- Register gk. -/
def Ctx.gr (c : Ctx) (k : Nat) : Word := c.g.get 0 k
/-- Write gk. -/
def Ctx.setG (c : Ctx) (k : Nat) (v : Word) : Ctx := { c with g := c.g.set k v }

/-- Lane i of vk (R222). -/
def Ctx.lane (c : Ctx) (k i : Nat) : Lane := c.v.get 0 (k * 128 + i)
/-- Write lane i of vk. -/
def Ctx.setLane (c : Ctx) (k i : Nat) (x : Lane) : Ctx := { c with v := c.v.set (k * 128 + i) x }
/-- Mask mk; m0 selects every granted lane (R140). -/
def Ctx.mask (c : Ctx) (k : Nat) : BitVec 128 :=
  if k = 0 then BitVec.ofNat 128 (2 ^ c.grant - 1) else c.masks.get 0 k

/-- A queue of a core: set and queue number, 0-3 lq0-lq3, 4 sq, 5 aq, 6 bq (R146). -/
def Core.queue (c : Core) (set q : Nat) : List Word := c.queues.get [] (set * 7 + q)
/-- Write a queue. -/
def Core.setQueue (c : Core) (set q : Nat) (xs : List Word) : Core := { c with queues := c.queues.set (set * 7 + q) xs }

/-- What a waiting instruction has popped returns to the heads of its queues (R59, R411); the queue may then hold more than eight
values until they are popped (log 43). -/
def State.unpop (s : State) (g k : Nat) : State :=
  let c := s.ctx g k
  if c.popped = [] then s
  else
    (s.onCore g (fun x => c.popped.foldr (fun e x => x.setQueue c.qset e.1 (e.2 :: x.queue c.qset e.1)) x)).onCtx g k
      (fun c => { c with popped := [] })

/-- Whether a context is live: a helper in state live, or a control context that is not idle (R137, R520). -/
def Ctx.live (c : Ctx) : Bool := decide (c.hstate = .live) && !c.idle

/-- Context numbers. -/
def ctxNumbers : List Nat := [0, 1, 2, 3, 4, 5, 6, 7, 8, 9, 10, 11, 12]

/-- Whether a live context is bound to a set on a front end. -/
def Ctx.binds (c : Ctx) (set : Nat) (fe : FE) : Bool := c.live && decide (c.qset = set) && decide (c.fe = fe)

/-- The live context bound to a set on a front end, the lowest number first (R146); a context parked on the other shelf
stays bound (R420). -/
def Core.bound (c : Core) (set : Nat) (fe : FE) : Option Nat :=
  (ctxNumbers.find? (fun k => (c.ctx k).binds set fe)).or
    (ctxNumbers.find? (fun k => (c.other.get {} k).binds set fe))

/-- The context on the shelf in use that is bound to a set on a front end. -/
def Core.boundHere (c : Core) (set : Nat) (fe : FE) : Option Nat := ctxNumbers.find? (fun k => (c.ctx k).binds set fe)

/-- A context's number in the register cache, which holds lines of both shelves (R144, R420). -/
def Core.cacheKey (c : Core) (k : Nat) : Nat := c.shelf * 16 + k

/-- A helper's register lines are discarded (R152). -/
def Core.dropLines (c : Core) (k : Nat) : Core := { c with rcache := c.rcache.filter (fun e => e.1 ≠ c.cacheKey k) }

/-- Whether a set has a live context on a front end, other than a given one (R151, R154). -/
def Core.taken (c : Core) (set : Nat) (fe : FE) (but : Option Nat) : Bool :=
  ctxNumbers.any (fun k => but ≠ some k && (c.ctx k).binds set fe) || c.other.any (fun e => e.2.binds set fe)

/-! ### The monad of core instructions -/

/-- A trap that an instruction raises (R409): cause, %tval, the race record, whether %epc is the next instruction. -/
structure TrapInfo where
  cause : Nat
  tval  : Word
  race  : List Word := []
  next  : Bool := false
  deriving DecidableEq, Repr

/-- Why an instruction does not complete in this step: it traps, or it waits (log 2) and leaves behind what waiting
itself does (a fault reported to the host, lines written back, clk counted). -/
inductive Stop where
  | trap (t : TrapInfo)
  | wait (f : State → State)
  /-- It is not ready, and so has not issued (R138, R308). -/
  | unready

/-- A core instruction runs to its end or stops; when it stops, nothing it did counts (R8). -/
abbrev M := StateT State (Except Stop)

/-- Raise a cause (R405). -/
def trap {α : Type} (cause : Nat) (tval : Word) : M α := throw (.trap { cause := cause, tval := tval })
/-- Wait with no effect. -/
def wait {α : Type} : M α := throw (.wait id)
/-- Be not ready to issue (R138). -/
def unready {α : Type} : M α := throw .unready
/-- Wait and leave an effect. -/
def waitAnd {α : Type} (f : State → State) : M α := throw (.wait f)
/-- Raise a cause when a condition holds. -/
def trapIf (c : Bool) (cause : Nat) (tval : Word) : M Unit := if c then trap cause tval else pure ()

/-- The context that issues. -/
def me : M (Nat × Nat) := do return (← get).cur
/-- Its core. -/
def myCore : M Core := do let s ← get; return s.core s.cur.1
/-- Its registers. -/
def myCtx : M Ctx := do let s ← get; return s.ctx s.cur.1 s.cur.2
/-- Change its registers. -/
def onMyCtx (f : Ctx → Ctx) : M Unit := modify (fun s => s.onCtx s.cur.1 s.cur.2 f)
/-- Change its core. -/
def onMyCore (f : Core → Core) : M Unit := modify (fun s => s.onCore s.cur.1 f)

/-- Greatest value of a clock that may be assigned (R361). -/
def clockLimit : Nat := 2 ^ 48 - 1

/-- Release (R342): publishes P. -/
def release (tval : Word) : M Nat := do
  let c ← myCtx
  trapIf (decide (clockLimit ≤ c.l + 1)) 0x0A6 tval
  onMyCtx (fun c => { c with l := c.l + 1 })
  return c.l

/-- Acquire a clock on a context (R342). -/
def Ctx.acquire (c : Ctx) (p : Nat) : Ctx :=
  let h := max c.h p
  { c with h := h, l := max c.l (h + 1) }

/-- The batch number after n (R305). -/
def nextNumber (n : Nat) : Nat := if n = 2 ^ 32 - 1 then 1 else n + 1

/-- Seal the open batch (R305, R317). -/
def Ctx.seal (c : Ctx) : Ctx :=
  { c with batches := c.batches ++ [c.openBatch], sealed := c.openBatch.num,
           openBatch := { num := nextNumber c.openBatch.num, ops := [], p := 0, failed := false } }

/-- Acquire P (R342). -/
def acquire (p : Nat) (tval : Word) : M Unit := do
  let c ← myCtx
  trapIf (decide (clockLimit ≤ max c.h p + 1)) 0x0A6 tval
  onMyCtx (·.acquire p)

/-- Take a free value (log 5). -/
def freeWord : M Word := do
  let s ← get
  set { s with free := s.free + 1 }
  return Config.freeValue s.free

/-- Note the first location that the running instruction accesses (R435). -/
def noteAccess (va : Word) (size : Nat) : M Unit := modify (fun s => { s with seen := s.seen.or (some (va, size)) })

/-- The first number below n, counted round from a starting one, that passes a test. -/
def firstFrom (start n : Nat) (ok : Nat → Bool) : Option Nat := ((List.range n).map (fun i => (start + i) % n)).find? ok

/-- Take a fresh identity (log 6). -/
def freshId : M Nat := do
  let s ← get
  set { s with fresh := s.fresh + 1 }
  return s.fresh

/-! ### Matrix engines -/

/-- The matrix engine of a cluster (R246). -/
def State.engine (s : State) (cl : Nat) : MatrixEngine := s.matrix.get {} cl
/-- Change a matrix engine. -/
def State.onEngine (s : State) (cl : Nat) (f : MatrixEngine → MatrixEngine) : State :=
  { s with matrix := s.matrix.set cl (f (s.engine cl)) }
/-- An accumulator tile. -/
def MatrixEngine.tile (e : MatrixEngine) (t : Nat) : Tile := e.tiles.get {} t
/-- Change an accumulator tile. -/
def MatrixEngine.onTile (e : MatrixEngine) (t : Nat) (f : Tile → Tile) : MatrixEngine :=
  { e with tiles := e.tiles.set t (f (e.tile t)) }
/-- The tile of a macro-operation; none for a load. -/
def MacroKind.tile : MacroKind → Option Nat
  | .load _ _ _ => none
  | .openTile t _ _ _ | .save t _ _ | .restore t _ | .close t | .macc t _ _ _ | .mreadPln t _ _ _ _
  | .mread t _ _ _ _ _ | .msoft t _ _ _ _ _ _ => some t
/-- Macro-operations issued on a tile and not completed. -/
def MatrixEngine.pendingOn (e : MatrixEngine) (t : Nat) : List MacroOp :=
  (e.computes ++ e.offered).filter (fun o => o.kind.tile = some t)
/-- Row masks by tile and by checkpoint slot after a macro-operation (R257). -/
def MacroKind.rowsStep (k : MacroKind) (r : Table (BitVec 32) × Table (BitVec 32)) : Table (BitVec 32) × Table (BitVec 32) :=
  match k with
  | .openTile t _ _ m => (r.1.set t m, r.2)
  | .save t s _ => (r.1, r.2.set s (r.1.get 0 t))
  | .restore t s => (r.1.set t (r.2.get 0 s), r.2)
  | _ => r
/-- Row masks as they stand in the engine. -/
def MatrixEngine.rowMasks (e : MatrixEngine) : Table (BitVec 32) × Table (BitVec 32) :=
  (e.tiles.map (fun t => (t.1, t.2.img.rows)), e.slots.map (fun t => (t.1, t.2.img.rows)))
/-- A tile's row mask after the macro-operations issued so far. -/
def MatrixEngine.rowsNow (e : MatrixEngine) (t : Nat) : BitVec 32 :=
  ((e.computes ++ e.offered).foldl (fun r o => o.kind.rowsStep r) e.rowMasks).1.get 0 t
/-- The lane as of clk t: USED falls by BUDGET at each window end (R276), and STALLC counts the clk in which a store waited
(R275). -/
def WriteLane.sync (w : WriteLane) (t : Nat) : WriteLane :=
  let n := t / 2 ^ w.log
  { w with used := w.used - w.budget * (n - w.win), win := n, seen := t,
           stallc := if w.waiters = [] then w.stallc else w.stallc + BitVec.ofNat 32 (t - w.seen) }

/-- A waiting store does not take place: it waits no longer, and its charge is withdrawn (R276). -/
def State.unadmit (s : State) (g k : Nat) : State :=
  if (s.ctx g k).admitted = 0 ∧ !(s.core g).wl.waiters.contains k then s
  else
    let w := (s.core g).wl.sync s.clk
    let w1 := { w with used := w.used - (s.ctx g k).admitted, waiters := w.waiters.filter (· ≠ k) }
    (s.onCore g (fun c => { c with wl := w1 })).onCtx g k (fun c => { c with admitted := 0 })

/-- Whether a kind enters the load queue (R252). -/
def MacroKind.isLoad : MacroKind → Bool
  | .load _ _ _ => true
  | _ => false
/-- Whether a queue has room for one more macro-operation (R252). -/
def MatrixEngine.room (e : MatrixEngine) (load : Bool) : Bool :=
  decide ((if load then e.loads else e.computes).length + (e.offered.filter (fun o => o.kind.isLoad = load)).length < 16)
/-- Clk in which a plane-step has waited for a token, up to a clk (R263). -/
def MatrixEngine.govAt (e : MatrixEngine) (clk : Nat) : Word :=
  match e.govWait with
  | some (t, _) => e.gov + BitVec.ofNat 64 (clk - t)
  | none => e.gov
/-- The wait for a token is over. -/
def MatrixEngine.govStop (e : MatrixEngine) (clk : Nat) : MatrixEngine := { e with gov := e.govAt clk, govWait := none }
/-- A tile whose owner has ended and whose operations are complete becomes unowned (R254). -/
def MatrixEngine.vacate (e : MatrixEngine) (t : Nat) : MatrixEngine :=
  if (e.tile t).leaving && (e.pendingOn t).isEmpty then
    e.onTile t (fun x => { x with owner := none, fifo := [], leaving := false })
  else e
/-- Whether a tile is a context's, given with the shelf on which it stands (R254, R420). -/
def Tile.heldBy (t : Tile) (g k sh : Nat) : Bool := decide (t.owner = some (.ctx g k)) && decide (t.shelf = sh)
/-- The tiles of a context of a shelf that ends (R254). -/
def State.releaseTilesOn (s : State) (g k sh : Nat) : State :=
  if ((s.engine (clusterOf g)).tiles).any (fun t => t.2.heldBy g k sh) then
    s.onEngine (clusterOf g) (fun e => [0, 1, 2, 3].foldl (fun e t =>
      if (e.tile t).heldBy g k sh then (e.onTile t (fun x => { x with leaving := true })).vacate t else e) e)
  else s
/-- The tiles of a context that ends (R254). -/
def State.releaseTiles (s : State) (g k : Nat) : State := s.releaseTilesOn g k (s.core g).shelf

/-! ### Origins of operations (R410) -/

/-- The origin of what a context starts now. -/
def State.originOf (s : State) (g k : Nat) : Origin :=
  { core := g, ctx := k, slot := ((s.ctx g k).launch.map (·.1)).getD 0, epoch := (s.ctx g k).epoch, ticket := (s.ctx g 0).ticket }

/-- Mark an origin whose context, running for launch `l`, has ended. -/
def Origin.orphan (g k : Nat) (l : Nat × Nat) (o : Origin) : Origin :=
  if o.core = g ∧ o.ctx = k ∧ (o.slot, o.epoch) = l then { o with ended := true } else o
/-- Mark the origin that an issuer holds. -/
def Issuer.orphan (g k : Nat) (l : Nat × Nat) : Issuer → Issuer
  | .ctx o num => .ctx (o.orphan g k l) num
  | i => i

/-- Mark everything that a context which ends has under way. -/
def State.orphan (s : State) (g k : Nat) : State :=
  let l := ((s.ctx g k).launch).getD (0, 0)
  let job (j : CopyJob) : CopyJob := { j with issuer := j.issuer.orphan g k l }
  let near (n : NearCmd) : NearCmd := { n with issuer := n.issuer.orphan g k l }
  let entry (e : Nat × JEntry) : Nat × JEntry := (e.1, { e.2 with org := e.2.org.orphan g k l })
  let jobs (e : Nat × List CopyJob) : Nat × List CopyJob := (e.1, e.2.map job)
  { s with jobs := s.jobs.map jobs, near := s.near.map near }.onCore g
    (fun c => { c with cpq := c.cpq.map job, journal := c.journal.map entry })

/-- The context that issued, or context k of its core, which may be parked on the other shelf (R420). -/
def State.ctxFor (s : State) (o : Origin) (k : Nat) : Ctx :=
  if (s.ctx o.core k).launch = some (o.slot, o.epoch) then s.ctx o.core k else (s.core o.core).other.get {} k

/-- Change context k of an origin's core, on whichever shelf it stands, if it still runs for the origin's launch. -/
def State.onOrigin (s : State) (o : Origin) (k : Nat) (f : Ctx → Ctx) : State :=
  if (s.ctx o.core k).launch = some (o.slot, o.epoch) then s.onCtx o.core k f
  else if (s.ctxFor o k).launch = some (o.slot, o.epoch) then
    s.onCore o.core (fun c => { c with other := c.other.set k (f (s.ctxFor o k)) })
  else s

/-- Find the instance of a die by its ticket. -/
def Caravan.byTicket (c : Caravan) (t : Nat) : Option Inst := c.insts.find? (fun i => i.ticket = t)

/-! ### Unchecked stores in the order (R326) -/

/-- A line's home record. -/
def State.line (s : State) (line : Nat) : LineHome := s.lines.get {} line

/-- Note the greatest clock assigned (R362). -/
def State.sawClock (s : State) (t : Nat) : State := { s with dev := { s.dev with clkmax := max s.dev.clkmax t } }

/-- The time that one store of an agent with clock l to lines is given (R326). -/
def State.timeLines (s : State) (l : Nat) (lines : List Nat) : Nat := lines.foldl (fun t a => max t ((s.line a).rts + 1)) l

/-- One unchecked store of an agent with clock l to lines takes its place in the order, at the time that it gives (R326); a time past the
clocks' limit is given to no line (R361). -/
def State.placeLines (s : State) (agent : BitVec 24) (l : Nat) (lines : List Nat) : State × Nat :=
  let t := s.timeLines l lines
  if clockLimit ≤ t then (s, t)
  else ({ s with lines := lines.foldl (fun tab a => tab.set a { s.line a with wts := t, rts := t, wid := agent }) s.lines }.sawClock t, t)

/-- The first of a descriptor's two lines (R92). -/
def descLine (n : Nat) : Nat := (5 * space + 0x00FD000000000000 + n * 128) / 64

/-- A descriptor step of an agent with clock l takes its place in the order (R96, R322, R323, R326): one store to the descriptor's two
lines (log 48). -/
def State.placeDesc (s : State) (agent : BitVec 24) (l n : Nat) : State × Nat := s.placeLines agent l [descLine n, descLine n + 1]

/-- The time of a descriptor step of Caravan's with P (R323, R326). -/
def State.unitTime (s : State) (n p : Nat) : Nat := s.timeLines (p + 1) [descLine n, descLine n + 1]

/-- A descriptor step of Caravan's with P takes its place in the order (R322, R323); its agent is a free value (log 26). -/
def State.unitStep (s : State) (n p : Nat) : State := ({ s with free := s.free + 1 }.placeDesc (freeAgent s.free) (p + 1) n).1

/-! ### Stopping a launch -/

/-- A stream whose node instance or pool entry is removed returns to admitted with NODE kept (R109, R131), in a step of Caravan's (R323).
A mark that freezes it after the completion it was to make is gone (R127, R471). -/
def State.readmit (s : State) (h : Option Word) : State :=
  match h with
  | none => s
  | some w =>
    let n := w.toNat % 2 ^ 24
    let d := s.stream n
    if d.gen = w.toNat / 2 ^ 24 % 256 && (d.state = .ready || d.state = .running || d.state = .waitingAction) then
      ({ s with transfers := s.transfers.filter (fun t => !(decide (t.stream = n) && !t.begun)) }.unitStep n d.clock).onStream n
        (fun d => { d with state := .admitted, drive := none, heldP := none })
    else s

/-- The handles of pool entries. -/
def readmitAll (s : State) (es : List PoolEntry) : State := es.foldl (fun s e => s.readmit e.stream) s

/-- Remove a launch's entries from one die's pool, overflow list and gangs (R131). -/
def State.purgeDie (s : State) (slot d : Nat) : State :=
  let c := s.caravan d
  let mine (e : PoolEntry) : Bool := decide (e.slot = slot)
  let gone := c.pool.filter mine ++ c.overflow.filter mine ++ (c.gangs.flatMap (·.members)).filter mine
  readmitAll (s.onCaravan d (fun c => { c with
    pool := c.pool.filter (fun e => !mine e), overflow := c.overflow.filter (fun e => !mine e),
    gangs := c.gangs.filter (fun g => !(g.members.any mine)),
    reserved := if (c.reservedFor.map (·.1)) = some slot then [] else c.reserved,
    reservedFor := if (c.reservedFor.map (·.1)) = some slot then none else c.reservedFor })) gone

/-- A stream that no launch walks any more: one that is ready has lost its entry and is admitted (R88, R131). -/
def Stream.undriven (d : Stream) : Stream :=
  { d with drive := none, heldP := none, state := if d.state = .ready then .admitted else d.state }

/-- No stream walks a template for a launch slot any more (R131); a stream that is admitted so is stepped by Caravan (R323). -/
def State.undrive (s : State) (slot : Nat) : State :=
  (s.streams.filter (fun e => decide (e.2.drive.map (·.1) = some slot))).foldl (fun s e =>
    (if e.2.state = .ready then s.unitStep e.1 e.2.clock else s).onStream e.1 (·.undriven)) s

/-- Remove a launch's pool entries and drives (R131); its streams return to admitted. -/
def State.purge (s : State) (slot : Nat) : State :=
  let s1 := ([0, 1, 2, 3].foldl (fun s d => s.purgeDie slot d) s).undrive slot
  { s1 with drives := s1.drives.filter (fun d => d.slot ≠ slot) }.onLaunch slot (fun l => { l with edges := [] })

/-- A launch enters stopping with an end code (R109, R110). A launch that is stopping keeps its code, but KILL replaces it (R109), and so does
an end in error where the launch was to end stopped (R407, R415). -/
def State.stopLaunch (s : State) (slot code : Nat) (endState : LState) : State :=
  let l := s.launch slot
  if l.state = .running then
    (s.purge slot).onLaunch slot (fun l => { l with state := .stopping, ecode := code, stopAs := endState })
  else if l.state = .stopping && decide (code = 0x11) then
    s.onLaunch slot (fun l => { l with ecode := code, enode := 0xFFFF, stopAs := endState })
  else if l.state = .stopping && decide (endState = .error) && decide (l.stopAs ≠ .error) then
    s.onLaunch slot (fun l => { l with ecode := code, stopAs := endState })
  else s

/-- Record a routed trap of a launch (R415). -/
def State.utrap (s : State) (slot cause : Nat) (async : Bool) (place epc tval : Word) : State :=
  s.onLaunch slot (fun l =>
    let n := l.utcause.toNat / 2 ^ 24 % 256
    let first : Nat := place.toNat % 2 ^ 32 * 2 ^ 32 + (if async then 512 else 0) + cause
    if n = 0 then
      { l with utcause := BitVec.ofNat 64 (first + 2 ^ 24), utepc := epc, utval := tval }
    else
      { l with utcause := BitVec.ofNat 64 (l.utcause.toNat + (if n < 255 then 2 ^ 24 else 0)) })

/-- A unit's step for a running launch that was to take time t: at the clocks' limit the launch ends as for a failing engine operation, with
RACE.CLOCK as the cause (R361, R415, R522); UTVAL is a free value (log 5). -/
def State.clockStop (s : State) (slot t : Nat) (recAddr : Word := 0) : State :=
  if t < clockLimit ∨ (s.launch slot).state ≠ .running then s
  else ({ s with free := s.free + 1 }.utrap slot 0x0A6 true 0 recAddr (Config.freeValue s.free)).stopLaunch slot 0x14 .error

/-! ### Trace records (R433-R436) -/

/-- Append a record to a trace buffer: at its place in the ring, and for Sirocco when DRAIN is set (R433, R438, R440). -/
def TraceUnit.append (t : TraceUnit) (owner : Nat) (d : Word × Word) : TraceUnit :=
  let i := t.w % 256
  let late := t.todo.any (fun n => n % 256 = i)
  { t with recs := t.recs.set i d, owners := t.owners.set i owner, w := (t.w + 1) % 65536,
           lost := if late then t.lost + 1 else t.lost,
           todo := t.todo.filter (fun n => n % 256 ≠ i) ++ (if t.cfg.getLsbD 21 then [t.w] else []) }

/-- Whether a record of a kind and context is wanted: the configuration's two bits, but for WATCH and MARK (R436). -/
def TraceUnit.wants (t : TraceUnit) (kind k : Nat) : Bool :=
  !t.frozen && (decide (kind = 6) || decide (kind = 7) || (t.cfg.getLsbD kind && t.cfg.getLsbD (8 + k)))

/-- Append a trace record for an owner, if it is wanted (R434-R436). -/
def State.traceFor (s : State) (owner g k kind : Nat) (payload : Word) : State :=
  if (s.core g).trace.wants kind k then
    let d0 : Nat := kind * 2 ^ 60 + k * 2 ^ 56 + (s.superstep g).toNat % 65536 * 2 ^ 40 + s.clk % 2 ^ 40
    s.onCore g (fun c => { c with trace := c.trace.append owner (BitVec.ofNat 64 d0, payload) })
  else s

/-- Append a trace record of a context. -/
def State.trace (s : State) (g k kind : Nat) (payload : Word) : State := s.traceFor (s.ownerOf g k) g k kind payload

/-- Append the MASK record of a context whose mask n was written, or, with n 0, whose grant changed (R435). -/
def State.traceMask (s : State) (g k n : Nat) : State :=
  let c := s.ctx g k
  let set := if n = 0 then 0 else ((List.range c.grant).filter (fun i => (c.mask n).getLsbD i)).length
  s.trace g k 2 (BitVec.ofNat 64 (set * 2 ^ 16 + n * 2 ^ 8 + c.grant))

/-- The TRAP record's payload (R435). -/
def trapPayload (cause : Nat) (async : Bool) (epc : Word) : Word :=
  BitVec.ofNat 64 ((if async then 2 ^ 63 else 0) + cause * 2 ^ 54 + epc.toNat / 4 % 2 ^ 54)

/-! ### Pending asynchronous traps (R410) -/

/-- Cause of a pending trap (R309, R304, R314). -/
def Pend.cause : Pend → Nat
  | .refused _ => 0x1A1
  | .copy _ _ => 0x144
  | .nmue _ _ => 0x148
/-- Its %tval (R409). -/
def Pend.tval : Pend → Word
  | .refused e => BitVec.ofNat 64 e
  | .copy _ v | .nmue _ v => v
/-- Its MORE (R410). -/
def Pend.more : Pend → Bool
  | .refused _ => false
  | .copy m _ | .nmue m _ => m

/-- Add a trap to a pending set: a second copy or near-memory error only sets MORE (R410). -/
def addPend (l : List Pend) (p : Pend) : List Pend :=
  match p with
  | .refused _ => l ++ [p]
  | .copy _ _ =>
    if l.any (fun q => q.cause = 0x144) then l.map (fun q => match q with | .copy _ v => .copy true v | q => q) else l ++ [p]
  | .nmue _ _ =>
    if l.any (fun q => q.cause = 0x148) then l.map (fun q => match q with | .nmue _ v => .nmue true v | q => q) else l ++ [p]

/-- The context to which a trap of an origin is delivered (R410): the issuer, or its control context while that holds the
ticket of the issuer's instance. -/
def State.heir (s : State) (o : Origin) : Option Nat :=
  let c := s.ctxFor o o.ctx
  if !o.ended && c.live && decide (c.launch = some (o.slot, o.epoch)) then some o.ctx
  else if o.ticket.isSome && decide ((s.ctxFor o 0).ticket = o.ticket) && decide ((s.ctxFor o 0).launch = some (o.slot, o.epoch)) then some 0
  else none

/-- Record an asynchronous trap that is not delivered (R410, R415). -/
def State.unhandled (s : State) (o : Origin) (p : Pend) : State :=
  let epc := (s.ctxFor o o.ctx).pc
  (s.trace o.core o.ctx 5 (trapPayload p.cause true epc)).utrap o.slot p.cause true (s.place o.core o.ctx) epc p.tval

/-- An asynchronous trap becomes pending, or is routed when no context is left for it (R410, R415). -/
def State.post (s : State) (o : Origin) (p : Pend) : State :=
  match s.heir o with
  | some k => s.onOrigin o k (fun c => { c with pend := addPend c.pend p })
  | none => (s.unhandled o p).stopLaunch o.slot 0x14 .error

/-- The traps that a helper which ends leaves pending go where those do that come after its end (R410). -/
def State.passPend (s : State) (g k : Nat) : State :=
  (s.ctx g k).pend.foldl (fun s p => s.post { s.originOf g k with ended := true } p) (s.onCtx g k (fun c => { c with pend := [] }))

/-- The traps that a discarded context leaves pending are recorded (R410, R415); the launch is being stopped already, and its code stays
(log 51). -/
def State.recordPend (s : State) (g k : Nat) : State := (s.ctx g k).pend.foldl (fun s p => s.unhandled (s.originOf g k) p) s

/-! ### Discarding contexts (R109, R415) -/

/-- An idle control context keeps its clocks, and what helpers are left; a discarded helper is free (R109, R520). -/
def Ctx.discard (k : Nat) (c : Ctx) : Ctx :=
  { Ctx.initial k with l := c.l, h := c.h, acks := c.acks, fe := if k = 0 then .a else c.fe, hlive := c.hlive }

/-- Whether a core still runs its rank of an instance of a launch slot. -/
def Inst.runsOn (i : Inst) (g slot : Nat) : Bool := decide (i.entry.slot = slot) && i.cores.contains g && !i.done.contains g

/-- A rank of an instance is discarded: the instance releases no edge, and its streams return to admitted (R109); once no rank is left its
gang slot is free (R123). -/
def State.dropRank (s : State) (g slot : Nat) : State :=
  [0, 1, 2, 3].foldl (fun s d =>
    let hit := (s.caravan d).insts.filter (fun i => i.runsOn g slot)
    let gone (i : Inst) : Bool := (i.dead || i.runsOn g slot) && i.cores.all (fun x => decide (x = g) || i.done.contains x)
    let s1 := s.onCaravan d (fun c => { c with
      insts := (c.insts.filter (fun i => !gone i)).map (fun i => if i.runsOn g slot then
          { i with dead := true, cores := i.cores.filter (· ≠ g) } else i),
      gslots := c.gslots.filter (fun k => !(c.insts.any (fun i => gone i && decide (i.gslot = some k)))) })
    hit.foldl (fun s i => (i.rows.foldl (fun s r => s.readmit r) s).readmit i.entry.stream) s1) s

/-- Discard contexts of a core, and its rank of an instance of a launch slot (R109): traps that they leave pending are recorded, and
discarded helpers are no longer their control context's. -/
def State.discardCtxs (s : State) (g : Nat) (ks : List Nat) (slot : Nat) : State :=
  let s1 := ks.foldl (fun s k => ((s.recordPend g k).unadmit g k).orphan g k) s
  let gone := ks.foldl (fun m k => m ||| BitVec.ofNat 13 (2 ^ k)) (0 : BitVec 13)
  let s2 := (s1.onCore g (fun c => { c with
    stage := if ks.contains 0 then 0 else c.stage, ctxs := ks.foldl (fun t k => t.set k ((c.ctx k).discard k)) c.ctxs })).onCtx g 0
      (fun c => { c with hlive := c.hlive &&& ~~~gone })
  ks.foldl (fun s k => s.releaseTiles g k) (s2.dropRank g slot)

/-- Discard a core's control context and its helpers (R109, R415). -/
def State.discardCore (s : State) (g : Nat) : State := s.discardCtxs g ctxNumbers (((s.ctx g 0).launch.map (·.1)).getD 0)

/-! ### Interrupts and the machine-check log -/

/-- Send an MSI-X vector, or hold it pending while it is masked (R101). -/
def State.send (s : State) (v : Nat) : State :=
  let d := s.dev
  if d.masked.contains v then
    { s with dev := { d with pending := if d.pending.contains v then d.pending else v :: d.pending } }
  else { s with dev := { d with sent := v :: d.sent } }

/-- Append eight dwords to the machine-check log (R517): vector 65 when it was empty; a full ring counts the entry lost. -/
def State.logEntry (s : State) (ws : List Word) : State :=
  let d := s.dev
  let base := d.mcbase.toNat / 4096 * 4096
  if base = 0 then s
  else if 256 ≤ d.mccount then { s with dev := { d with mclost := d.mclost + 1 } }
  else
    let s1 := { s with
      mem := s.mem.putBytes (hostKey (base + 64 * d.mctail)) (ws.flatMap (fun w => bytesOfNat 8 w.toNat)),
      dev := { d with mctail := (d.mctail + 1) % 256, mccount := d.mccount + 1 } }
    if d.mccount = 0 then s1.send 65 else s1

/-- Log a machine check (R517): its agent, launch slot, cause, address and detail. -/
def State.machineCheck (s : State) (agent : BitVec 24) (slot : Option Nat) (cause addr : Nat) (detail : Word) : State :=
  s.logEntry [BitVec.ofNat 64 (agent.toNat * 2 ^ 40 + (slot.getD 255) * 2 ^ 32 + cause), BitVec.ofNat 64 addr,
    BitVec.ofNat 64 s.clk, detail, 0, 0, 0, 0]

/-- Add to a lifetime counter; the counters saturate (R518). -/
def State.countLife (s : State) (i n : Nat) : State :=
  { s with dev := { s.dev with life := s.dev.life.set i (min (2 ^ 64 - 1) (s.dev.life.get 0 i + n)) } }

/-! ### Traps -/

/-- A helper ends abnormally (R415): it publishes P, returns its lanes and unbinds its set. -/
def Ctx.endAbnormally (c : Ctx) : Ctx :=
  { c with hstate := .ended, abn := true, endp := c.l, l := c.l + 1, qset := 6, grant := 0, masks := [], v := [],
           intrap := false, yieldEnd := none, nwait := none, waitFrom := none, mid := false, qFrom := none, unissued := false, xfail := none }

/-- A helper of a core ends abnormally (R410, R415). -/
def State.endAbnormal (s : State) (g k : Nat) : State :=
  ((((s.unadmit g k).onCtx g k Ctx.endAbnormally).releaseTiles g k).orphan g k).passPend g k

/-- Route a trap of a context (R415). -/
def State.routeTrap (s : State) (g k cause : Nat) (async : Bool) (epc tval : Word) : State :=
  let slot := ((s.ctx g k).launch.map (·.1)).getD 0
  let s1 := (s.trace g k 5 (trapPayload cause async epc)).utrap slot cause async (s.place g k) epc tval
  if cause = 0x1E6 then
    if k = 0 then (s1.stopLaunch slot 0x14 .error).discardCore g
    else (s1.stopLaunch slot 0x14 .error).endAbnormal g k
  else if k = 0 then (s1.stopLaunch slot 0x14 .error).discardCore g
  else s1.endAbnormal g k

/-- %tcause as delivered (R408). -/
def tcauseWord (cause : Nat) (async more : Bool) : Word :=
  BitVec.ofNat 64 (cause + (if async then 1024 else 0) + (if more then 2048 else 0))

/-- The trap frame (R413). -/
def State.trapFrame (s : State) (g k : Nat) (tc epc tval words : Word) (race : List Word) : Table Word :=
  let c := s.ctx g k
  let head : List Word := [tc, epc, tval, BitVec.ofNat 64 c.wbase, BitVec.ofNat 64 c.l, BitVec.ofNat 64 c.h,
    BitVec.ofNat 64 s.clk, words]
  let all := head ++ (race ++ List.replicate (8 - race.length) 0) ++ [c.stream, s.superstep g]
  (List.range all.length).zip all

/-- The frame in the image of a context that is in use (R413, R420). -/
def Core.frame (c : Core) (k : Nat) : Table Word := c.tframes.get [] (c.shelf * 16 + k)

/-- Write a frame (R413). -/
def State.putFrame (s : State) (g k : Nat) (f : Table Word) : State :=
  s.onCore g (fun c => { c with tframes := c.tframes.set (c.shelf * 16 + k) f })

/-- Whether a trap of a cause is routed (R412, R415): no handler, one running, no room, or SYS.HALT or SYS.IMAGE. -/
def Ctx.routes (c : Ctx) (cause : Nat) : Bool :=
  c.intrap || c.tvec = 0 || decide (Config.maxWbase < c.wbase + 32) || cause = 0x1E6 || cause = 0x1E7

/-- Taking an exception (R412): where a handler can run, the frame and the trap registers are written, the window moves
up by 32 and control goes to %tvec; else the trap is routed. `words` is frame dword 7. -/
def State.takeTrap (s : State) (g k cause : Nat) (async more : Bool) (epc tval words : Word) (race : List Word) : State :=
  let c := s.ctx g k
  if c.routes cause then s.routeTrap g k cause async epc tval
  else
    let tc := tcauseWord cause async more
    ((s.trace g k 5 (trapPayload cause async epc)).putFrame g k (s.trapFrame g k tc epc tval words race)).setCtx g k { c with
      tcause := tc, epc := epc, tval := tval,
      wbase := c.wbase + 32, intrap := true, pc := c.tvec, waitFrom := none, mid := false, qFrom := none, unissued := false, yieldEnd := none,
      nwait := none, xfail := none }

/-- The return from an exception (R428), given dword 3 of the frame. -/
def Ctx.returnFromTrap (c : Ctx) (saved : Word) : Ctx := { c with wbase := saved.toNat % 2048, intrap := false, pc := c.epc }

/-- The oldest pending asynchronous trap of a context, delivered at an instruction boundary (R410, R411). -/
def State.deliverAsync (s : State) (g k : Nat) : Option State :=
  let c := s.ctx g k
  match c.pend with
  | [] => none
  | p :: rest =>
    if c.intrap || c.mid then none
    else
      let s1 := (s.unpop g k).onCtx g k (fun c => { c with pend := rest })
      some (s1.takeTrap g k p.cause true p.more c.pc p.tval 0 [])

/-! ### Running an instruction -/

/-- Time passes. -/
def State.tick (s : State) (n : Nat) : State := { s with clk := s.clk + n }

/-- An instruction completed: its context no longer waits (log 7: every instruction takes one clk). -/
def State.retired (s : State) (g k : Nat) : State :=
  (s.onCtx g k (fun c => { c with waitFrom := none, mid := false, qFrom := none, unissued := false, nwait := none, xfail := none, popped := [], admitted := 0 })).tick 1

/-- An instruction waits: nothing but what waiting leaves behind, and the clk at which the wait began. -/
def State.waiting (s : State) (g k : Nat) (f : State → State) : State :=
  ((f s).onCtx g k (fun c => { c with waitFrom := some (c.waitFrom.getD s.clk) })).tick 1

end Sys2Proof.Machine
end

