-- ==== Sys2Proof/Machine/Simoom.lean ====
section
/-! DEFINITION. The Simoom generator (R457): a 32-bit output as a function of key, position and draw index. -/
namespace Sys2Proof.Machine

/-- One round r of R457 on (x0, x1) with the key halves in their order of use. -/
def simoomRound (r : Nat) (k0 : Lane) (x : Lane × Lane) : Lane × Lane :=
  let a := x.1.rotateLeft 7 + x.2
  let b := a ^^^ k0 ^^^ BitVec.ofNat 32 (r * 0x9E3779B9)
  (b, x.2.rotateLeft 3 ^^^ b)

/-- The rounds from round `r` on. -/
def simoomRounds : Nat → Nat → Lane → Lane → Lane × Lane → Lane × Lane
  | 0, _, _, _, x => x
  | n + 1, r, k0, k1, x => simoomRounds n (r + 1) k1 k0 (simoomRound r k0 x)

/-- simoom(K, P, D) (R457). -/
def simoom (key : Word) (p : Nat) (d : Nat) : Lane :=
  let x0 := BitVec.ofNat 32 (p % 256 * 2 ^ 24) + BitVec.ofNat 32 d
  let x := simoomRounds 8 0 (key.setWidth 32) (key.extractLsb' 32 32) (x0, BitVec.ofNat 32 (p / 256))
  x.1 + x.2

/-- The high 24 bits of an output, as stochastic rounding uses them (R29). -/
def simoomHigh (key : Word) (p d : Nat) : Nat := (simoom key p d).toNat / 256

end Sys2Proof.Machine
end

