-- ==== Sys2Proof/Machine/Operands.lean ====
section
/-! DEFINITION. Operand forms: the scalar namespace with its queues (R58, R59, R146-R149), literals and immediates
(R56, R57), vector elements (R24, R222) and draws (R29, R458, R459). -/
namespace Sys2Proof.Machine

/-- Whether an operand code names a queue (R58). -/
def isQueue (c : BitVec 6) : Bool := decide (49 ≤ c.toNat) && decide (c.toNat ≤ 55)

/-- Number of the queue in its set: 0-3 lq0-lq3, 4 sq, 5 aq, 6 bq. -/
def queueIndex (c : BitVec 6) : Nat := c.toNat - 49

/-- Whether the queue may be a source on the front end (R58); the others are destinations there. -/
def queueIsSource (fe : FE) (c : BitVec 6) : Bool :=
  let ax := c = 53 || c = 54
  match fe with
  | .a => ax
  | .x => !ax

/-- Source operand codes of an instruction in the order A, B, C, D (R59). -/
def operandSources (i : Instr) : List (BitVec 6) :=
  match i.spec, i.fields with
  | some p, some f =>
    let a : List (BitVec 6) :=
      match f with
      | .r x => if p.a = .src then [x.a] else []
      | .i x => if p.a = .src then [x.a] else []
      | .j x => if p.a = .src || p.a = .bq then [x.a] else []
      | .v _ => []
    let b : List (BitVec 6) :=
      match f with
      | .r x => if p.b = .src && !x.form.hasLit then [x.b] else []
      | _ => []
    let c : List (BitVec 6) :=
      match i with
      | .mop x => if x.fn = 5 then [(p.eff x.form).c] else []
      | _ => if p.c = .src then [(p.eff f.form).c] else []
    let d : List (BitVec 6) :=
      match f with
      | .i x => if p.d = .src || p.d = .srcNoQ then [x.d] else []
      | _ => []
    a ++ b ++ c ++ d
  | _, _ => []

/-- Destination operand codes of an instruction. -/
def operandDests (i : Instr) : List (BitVec 6) :=
  match i.spec, i.fields with
  | some p, some f =>
    let d : List (BitVec 6) :=
      match f with
      | .r x => if p.d = .dst then [x.d] else []
      | .i x => if p.d = .dst then [x.d] else []
      | _ => []
    let c : List (BitVec 6) :=
      match i with
      | .mop x => if x.fn.toNat ≥ 6 then [(p.eff x.form).c] else []
      | .vmatch x => [(p.eff x.form).c]
      | _ => if p.c = .dst then [(p.eff f.form).c] else []
    d ++ c
  | _, _ => []

/-- Whether a queue is named against its direction (INS.QDIR, R59). -/
def queueDirBad (i : Instr) (fe : FE) : Bool :=
  (operandSources i).any (fun c => isQueue c && !queueIsSource fe c)
    || (operandDests i).any (fun c => isQueue c && queueIsSource fe c)

/-- What the queue conditions of R147 and R149 say of an instruction. -/
inductive QueueVerdict where
  | ready
  | noSet
  | blocked (code : BitVec 6)
  | ended (code : BitVec 6)
  deriving DecidableEq, Repr

/-- The first source whose queue holds too few entries, each earlier appearance counted (R147). -/
def shortSource (core : Core) (set : Nat) : List (BitVec 6) → List (BitVec 6) → Option (BitVec 6)
  | _, [] => none
  | seen, c :: r =>
    if isQueue c && decide ((core.queue set (queueIndex c)).length ≤ (seen.filter (· = c)).length) then some c
    else shortSource core set (c :: seen) r

/-- The queue conditions of an instruction (R146, R147, R149). -/
def queueVerdict (core : Core) (c : Ctx) (i : Instr) : QueueVerdict :=
  let srcs := operandSources i
  let dsts := operandDests i
  if !(srcs ++ dsts).any isQueue then .ready
  else if c.qset = 6 then .noSet
  else
    let full := dsts.find? (fun q => isQueue q && decide (8 ≤ (core.queue c.qset (queueIndex q)).length))
    match (shortSource core c.qset [] srcs).or full with
    | none => .ready
    | some q =>
      match core.bound c.qset (if c.fe = .a then .x else .a) with
      | some _ => .blocked q
      | none => .ended q

/-- A scalar operand read without popping (R58): 0 for a queue. -/
def Ctx.peek (c : Ctx) (place : Word) (code : BitVec 6) : Word :=
  let n := code.toNat
  if n < 32 then c.s n
  else if n < 48 then c.gr (n - 32)
  else if n = 56 then BitVec.ofNat 64 c.grant
  else if n = 57 then place
  else 0

/-- Read a scalar source operand (R58); a queue pops its oldest value (R59). -/
def src (code : BitVec 6) : M Word := do
  let s ← get
  let (g, k) := s.cur
  let c := s.ctx g k
  if isQueue code then
    match (s.core g).queue c.qset (queueIndex code) with
    | [] => return 0
    | v :: r =>
      onMyCore (fun core => core.setQueue c.qset (queueIndex code) r)
      return v
  else return c.peek (s.place g k) code

/-- Write a scalar destination operand (R58); z discards, a queue takes the value at its end. -/
def dst (code : BitVec 6) (v : Word) : M Unit := do
  let n := code.toNat
  if n < 32 then onMyCtx (·.setS n v)
  else if n < 48 then onMyCtx (·.setG (n - 32) v)
  else if isQueue code then
    let c ← myCtx
    onMyCore (fun core =>
      core.setQueue c.qset (queueIndex code) (core.queue c.qset (queueIndex code) ++ [v]))
  else pure ()

/-- Write the register after an even one (R132). -/
def dstNext (code : BitVec 6) (v : Word) : M Unit := dst (code + 1) v

/-- The literal of a form (R57). -/
def formLit : Form → Option Word
  | .lit v | .extLit _ v => some v
  | _ => none

/-- Operand b of format R: the literal or the register (R57). -/
def srcB (x : RFields) : M Word :=
  match formLit x.form with
  | some v => pure v
  | none => src x.b

/-- The effective extended fields of an instruction (R55). -/
def extOf (i : Instr) : Ext :=
  match i.spec, i.fields with
  | some p, some f => p.eff f.form
  | _, _ => { sub := 0, f2 := false, sat := false, hint := 0, sc := 0, rm := 0, ty := 0, c := 0, imm32 := 0 }

/-- A value from operand a for %tval (R409): 0 for none or a queue. -/
def operandA (i : Instr) : Option (BitVec 6) :=
  match i.spec, i.fields with
  | some p, some (.r x) => if p.a = .src || p.a = .reg || p.a = .quad then some x.a else none
  | some p, some (.i x) => if p.a = .src then some x.a else none
  | some p, some (.j x) => if p.a = .src || p.a = .reg || p.a = .bq then some x.a else none
  | _, _ => none

/-! ### Vector operands (R222, R228) -/

/-- Active lanes of an instruction with mask m, ascending. -/
def Ctx.active (c : Ctx) (m : BitVec 3) : List Nat :=
  (List.range c.grant).filter (fun i => (c.mask m.toNat).getLsbD i)

/-- Element j of a lane for elements of `bits` bits (R24). -/
def laneElem (bits : Nat) (x : Lane) (j : Nat) : Nat := x.toNat / 2 ^ (bits * j) % 2 ^ bits

/-- A lane from its elements (R24). -/
def laneOfElems (bits : Nat) (es : List Nat) : Lane :=
  BitVec.ofNat 32 (es.foldr (fun e acc => acc * 2 ^ bits + e % 2 ^ bits) 0)

/-- A literal in every lane of the second vector source (R229), or the register. -/
def Ctx.laneB (c : Ctx) (x : VFields) (conv : Word → Lane) (i : Nat) : Lane :=
  match formLit x.form with
  | some v => conv v
  | none => c.lane x.vb.toNat i

/-! ### Draws (R29, R458) -/

/-- Take n draws of the issuing context (R458): the high 24 bits of the j-th. -/
def takeDraws (n : Nat) (tval : Word) : M (Nat → Nat) := do
  let c ← myCtx
  let d := c.gpos.toNat % 2 ^ 24
  let p := c.gpos.toNat / 2 ^ 24
  trapIf (decide (2 ^ 24 - 1 < d + n)) 0x1C1 tval
  onMyCtx (fun c => { c with gpos := BitVec.ofNat 64 (p * 2 ^ 24 + d + n) })
  return fun j => simoomHigh c.gkey p (d + j)

/-- Draws for an operation that rounds by RM: n under sr, else none (R29). -/
def drawsFor (rm : BitVec 3) (n : Nat) (tval : Word) : M (Nat → Nat) :=
  if rm = 5 then takeDraws n tval else pure (fun _ => 0)

end Sys2Proof.Machine
end

