-- ==== Sys2Proof/Machine/Local.lean ====
section
/-! DEFINITION. Access to a core's own local memory: local addresses and their checks (R157, R158, R285), bank modes and
owner tags (R159, R160), windows (R161, R162), and the element accesses of LDL, STL and the vector forms (R284-R288). -/
namespace Sys2Proof.Machine

/-- Mode of a bank: 0 SPAD, 1 CWAY, 2 FIFO, 3 PAGE, 4 REGS (R159). -/
def Core.mode (c : Core) (bank : Nat) : Nat := c.modes.get 0 bank
/-- Owner tag of a bank (R160). -/
def Core.tag (c : Core) (bank : Nat) : Nat := c.tags.get 0 bank
/-- The bank of an offset (R157). -/
def bankOf (off : Nat) : Nat := off / 512

/-- Window code of a local address (R157). -/
def winOf (la : Word) : Nat := la.toNat / 65536 % 8
/-- Offset of a local address (R157). -/
def offOf (la : Word) : Nat := la.toNat % 65536

/-- Zero a bank of a core and set its tag (R160, R175). -/
def State.zeroBank (s : State) (g bank owner : Nat) : State :=
  { s with mem := s.mem.zero (localKey g (bank * 512)) 512,
           lmPoison := s.lmPoison.filter (fun w => w / 128 ≠ localKey g (bank * 512) / 512) }.onCore g (fun c => { c with tags := c.tags.set bank owner })

/-- Write bytes of a core's local memory; a 32-bit word written whole holds no error any more (R515, log 17). -/
def State.localWrite (s : State) (g off : Nat) (bs : List Byte) : State :=
  let k := localKey g off
  { s with mem := s.mem.putBytes k bs,
           lmPoison := s.lmPoison.filter (fun w => !(decide (k ≤ 4 * w) && decide (4 * w + 4 ≤ k + bs.length))) }

/-- Whether a 32-bit word of local memory within n bytes holds an uncorrectable error (R515). -/
def State.localBad (s : State) (g off n : Nat) : Bool :=
  s.lmPoison.any (fun w => decide (localKey g off / 4 ≤ w) && decide (w ≤ (localKey g off + n - 1) / 4))

/-- The first of n bytes of local memory that holds an uncorrectable error (R409). -/
def State.firstBad (s : State) (g off n : Nat) : Nat := ((List.range n).find? (fun i => s.localBad g (off + i) 1)).getD 0

/-- A local access by a context of another owner zeroes and retags the bank first (R160). -/
def State.retag (s : State) (g owner off : Nat) : State :=
  if (s.core g).tag (bankOf off) = owner then s else s.zeroBank g (bankOf off) owner

/-- The lowest of the offsets whose bank is not SPAD (R159). -/
def Core.notSpad (c : Core) (offs : List Nat) : Option Nat := offs.find? (fun o => c.mode (bankOf o) ≠ 0)

/-- LM.MODE where an offset lies in a bank that is not SPAD; %tval is `la`. -/
def checkSpad (offs : List Nat) (la : Word) : M Unit := do
  let c ← myCore
  trapIf (c.notSpad offs).isSome 0x044 la

/-- Rows of a row mask, ascending (R246). -/
def rowsOf (m : BitVec 32) : List Nat := (List.range 32).filter (fun i => m.getLsbD i)

/-- The bank that holds row i of slab j of a panel (R248). -/
def Panel.bank (p : Panel) (j i : Nat) : Nat := (p.bank0 + i + 32 * (j % 4)) % 128

/-- Banks between two offsets. -/
def bankSpan (lo n : Nat) : List Nat := (List.range 128).filter (fun b => decide (lo / 512 ≤ b) && decide (b ≤ (lo + n - 1) / 512))

/-- Banks that a macro-operation reads or writes, for the rows of a mask (R253). -/
def MacroKind.banks (k : MacroKind) (rows : BitVec 32) : List Nat :=
  match k with
  | .macc _ _ p j => (rowsOf rows).map (p.bank j)
  | .mreadPln _ p j _ _ => (rowsOf rows).map (p.bank j)
  | .mread _ ty la st _ _ => (rowsOf rows).flatMap (fun i => bankSpan (la % 65536 + i * st) (64 * (tyBits ty / 8)))
  | .msoft _ ty la st _ _ _ =>
    (rowsOf rows).flatMap (fun i => bankSpan (la % 65536 + i * st) (64 * (tyBits ty / 8)) ++ bankSpan (la % 65536 + 32 * st + 8 * i) 8)
  | _ => []

/-- Banks of a core that the macro-operations of a queue use, each with its tile's row mask as it will stand then (R253). -/
def banksUsed (g : Nat) : Table (BitVec 32) × Table (BitVec 32) → List MacroOp → List Nat
  | _, [] => []
  | r, o :: ops =>
    (if o.core = g then o.kind.banks (r.1.get 0 (o.kind.tile.getD 0)) else []) ++ banksUsed g (o.kind.rowsStep r) ops

/-- Whether an accepted, unfinished macro-operation uses a bank of a core (R253). -/
def State.bankBusy (s : State) (g bank : Nat) : Bool :=
  let e := s.engine (clusterOf g)
  (banksUsed g e.rowMasks e.computes).contains bank

/-- LM.RANGE and LM.WIN (R157, R158). -/
def checkLocal (la : Word) : M Unit := do
  trapIf (decide (2 ^ 19 ≤ la.toNat)) 0x042 la
  trapIf (decide (6 ≤ winOf la)) 0x043 la

/-- The banks of n bytes are tagged for an owner (R160). -/
def State.retagAll (s : State) (g owner off n : Nat) : State := ((List.range n).map (off + ·)).foldl (fun s o => s.retag g owner o) s

/-- Read bytes of the issuing core's local memory: owner tags (R160), banks that the matrix engine uses (R253) and stored errors (LM.ECC) first. -/
def localGet (off n : Nat) (la : Word) : M (List Byte) := do
  let s ← get
  let (g, k) := s.cur
  let owner := s.ownerOf g k
  if (List.range n).any (fun i => s.bankBusy g (bankOf (off + i))) then wait else pure ()
  let s1 := s.retagAll g owner off n
  trapIf (s1.localBad g off n) 0x049 (la + BitVec.ofNat 64 (s1.firstBad g off n))
  set s1
  return s1.mem.bytes (localKey g off) n

/-- Write bytes of the issuing core's local memory (R160, R253). -/
def localPut (off : Nat) (bs : List Byte) : M Unit := do
  let s ← get
  let (g, k) := s.cur
  let owner := s.ownerOf g k
  if (List.range bs.length).any (fun i => s.bankBusy g (bankOf (off + i))) then wait else pure ()
  let s1 := s.retagAll g owner off bs.length
  set (s1.localWrite g off bs)

/-- Bytes of a type in memory. -/
def tyBytes (ty : Nat) : Nat := tyBits ty / 8

/-- A loaded code as a register value: integers extend by signedness, floats with zeros (R284). -/
def extendTy (ty code : Nat) : Word :=
  if ty < 4 then BitVec.ofInt 64 (intOf true (tyBits ty) code) else BitVec.ofNat 64 code

/-- Physical offsets that a window access of n window bytes reaches (R161). -/
def windowBytes (win off n : Nat) : List Nat :=
  match win with
  | 2 => (List.range (n / 2)).flatMap (fun i =>
      let e := off / 2 + i
      [40 * (e / 64) + e % 64 / 2, 40 * (e / 64) + 32 + e % 64 / 8])
  | 3 => (List.range (n / 2)).map (fun i => off / 2 + i)
  | 4 => (List.range (n / 4 * 2)).map (fun i => off / 4 * 2 + i)
  | 5 => (List.range (n / 4)).map (fun i => off / 4 + i)
  | _ => (List.range n).map (off + ·)

/-- One bf16 element through f4d (R161). -/
def f4dElem (e : Nat) (la : Word) : M Nat := do
  let c ← localGet (40 * (e / 64) + e % 64 / 2) 1 la
  let sc ← localGet (40 * (e / 64) + 32 + e % 64 / 8) 1 la
  let code := if e % 2 = 0 then natOfBytes c % 16 else natOfBytes c / 16
  return fmtBf16.ofVal .rne 0 false (fp4bVal code (natOfBytes sc))

/-- One bf16 element through f8d (R161). -/
def f8dElem (ty e : Nat) (la : Word) : M Nat := do
  let c ← localGet e 1 la
  return fmtBf16.ofVal .rne 0 false ((fmtOf ty).value (natOfBytes c))

/-- n window bytes at a window offset as a number (R161); `la` is %tval of LM.ECC. -/
def windowGet (win off ty n : Nat) (la : Word) : M Nat := do
  match win with
  | 2 =>
    let lo ← f4dElem (off / 2) la
    if n = 4 then
      let hi ← f4dElem (off / 2 + 1) la
      return lo + hi * 65536
    else return lo
  | 3 =>
    let lo ← f8dElem ty (off / 2) la
    if n = 4 then
      let hi ← f8dElem ty (off / 2 + 1) la
      return lo + hi * 65536
    else return lo
  | 4 => do
    let bs ← localGet (off / 4 * 2) 2 la
    return fmtF32.ofVal .rne 0 false (fmtBf16.value (natOfBytes bs))
  | 5 => do
    let bs ← localGet (off / 4) 1 la
    return intCode 32 (intOf true 8 (natOfBytes bs))
  | _ => do
    let bs ← localGet off n la
    return natOfBytes bs

/-- Store n window bytes (R161, R284). `d` gives the draws from index `j`. -/
def windowPut (win off ty n : Nat) (rm : RMode) (d : Nat → Nat) (j v : Nat) : M Unit := do
  match win with
  | 3 =>
    let narrow (code i : Nat) : List Byte :=
      bytesOfNat 1 ((fmtOf ty).ofVal rm (d (j + i)) false (fmtBf16.value (code % 65536)))
    localPut (off / 2) (if n = 4 then narrow v 0 ++ narrow (v / 65536) 1 else narrow v 0)
  | 4 => localPut (off / 4 * 2) (bytesOfNat 2 (fmtBf16.ofVal rm (d j) false (fmtF32.value (v % 2 ^ 32))))
  | 5 => localPut (off / 4) (bytesOfNat 1 (intResult true 8 true (intOf true 32 v)))
  | _ => localPut off (bytesOfNat n v)

/-- Draws that storing 4 window bytes takes under sr (R29, R285): one an element that rounds. -/
def windowDraws (win n : Nat) : Nat :=
  match win with
  | 3 => n / 2
  | 4 => 1
  | _ => 0

/-- Types a scalar access accepts through a window (R284). -/
def windowTypes (win : Nat) : List Nat :=
  match win with
  | 2 => [9]
  | 3 => [11, 12]
  | 4 => [8]
  | 5 => [2]
  | _ => memTypes

/-- Window bytes of a scalar access (R284). -/
def windowSize (win ty : Nat) : Nat :=
  match win with
  | 2 | 3 => 2
  | 4 | 5 => 4
  | _ => tyBytes ty

/-- LM.WRAP: a physical byte past offset 0xFFFF (R158). -/
def wraps (win off n : Nat) : Bool := (windowBytes win off n).any (fun b => 65536 ≤ b)

/-- The checks of R285 for a scalar access; `word0` is %tval of INS.RSVD. -/
def checkScalar (la : Word) (ty : Nat) (store : Bool) (word0 : Lane) : M Unit := do
  checkLocal la
  let win := winOf la
  let n := windowSize win ty
  trapIf (!(windowTypes win).contains ty) 0x004 (word0.setWidth 64)
  trapIf (store && decide (win = 2)) 0x046 la
  trapIf (wraps win (offOf la) n) 0x041 la
  trapIf (decide (offOf la % n ≠ 0) || (store && decide (win = 1))) 0x045 la
  checkSpad (windowBytes win (offOf la) n) la

/-- Read a dword of the issuing core's raw window with the checks of LDL. -/
def localDword (la : Word) : M Word := do
  trapIf (decide (65536 < offOf la + 8)) 0x041 la
  checkSpad ((List.range 8).map (offOf la + ·)) la
  let bs ← localGet (offOf la) 8 la
  return BitVec.ofNat 64 (natOfBytes bs)

end Sys2Proof.Machine
end

