-- ==== Sys2Proof/Machine/WriteLane.lean ====
section
/-! DEFINITION. The write lane of a core: budget windows (R275, R276), the queue (R274), CWAY lines (R272, R273), the
acceptance of queued data at home ports, pending array writes (R278, R280), and bringing a line's placed data home before
another access (R271, R330, R331). -/
namespace Sys2Proof.Machine

/-- A core's write lane at the present clk. -/
def State.lane (s : State) (g : Nat) : WriteLane := (s.core g).wl.sync s.clk

/-- The byte of slot i of a table (R279). -/
def slotByte (t : Table Word) (i : Nat) : Nat := (t.get 0 (i / 8)).toNat / 2 ^ (8 * (i % 8)) % 256

/-- Whether an access of a class and partition is never served: no slot of the live table is for it, and none is given away (R280). -/
def SlotTable.starvesFor (t : SlotTable) (cls part : Nat) : Bool :=
  !t.donate && !(List.range 32).any (fun i => decide (slotByte t.live i / 64 = cls) && decide (slotByte t.live i % 8 = part))

/-- A pseudo-channel's slot tables. -/
def State.chan (s : State) (k : Nat) : SlotTable := s.chans.get {} k
/-- Change a pseudo-channel's slot tables. -/
def State.onChan (s : State) (k : Nat) (f : SlotTable → SlotTable) : State := { s with chans := s.chans.set k (f (s.chan k)) }

/-- Charge bytes that are never refused (R273, R276). -/
def State.charge (s : State) (g n : Nat) : State :=
  s.onCore g (fun c => { c with wl := { c.wl.sync s.clk with used := (c.wl.sync s.clk).used + n } })

/-- A store of context k waits for budget or an entry (R275). -/
def State.stall (s : State) (g k : Nat) : State :=
  s.onCore g (fun c => { c with wl := { c.wl.sync s.clk with waiters := k :: c.wl.waiters.filter (· ≠ k) } })

/-- A store of context k that was admitted with n bytes, now or when it was tried before, waits for an entry: it is charged once (R276,
R277). -/
def State.stallAdmitted (s : State) (g k n : Nat) : State :=
  let w := s.lane g
  let used := if (s.ctx g k).admitted = 0 then w.used + n else w.used
  (s.onCore g (fun c => { c with wl := { w with used := used, waiters := k :: w.waiters.filter (· ≠ k) } })).onCtx g k
    (fun c => { c with admitted := n })

/-- The pseudo-channel of an HBM4E physical address (R269). -/
def channelOf (pa : Nat) : Nat := pa / 4096 % 512 ^^^ pa / 2 ^ 21 % 512

/-- Where a page is, or was when it was freed. -/
def State.pageLoc (s : State) (page : Nat) : PageLoc := ((s.pages.find page).map (·.loc)).getD (s.gone.get .hbm page)

/-- The home cluster of a line, over the package (R269). -/
def State.homeCluster (s : State) (line : Nat) : Nat :=
  let key := line * 64
  let a := key % space
  match key / space with
  | 0 => channelOf a
  | 1 => a / 2 ^ 41 % 4 * 128 + a / 2 ^ 12 % 128
  | 2 => a / 2 ^ 12 % 128
  | 4 =>
    match s.pageLoc (a / 4096) with
    | .erg core _ => clusterOf core
    | .xm n => (Config.xmAddress n).toNat / 2 ^ 41 % 4 * 128 + (Config.xmAddress n).toNat / 2 ^ 12 % 128
    | _ => channelOf (Config.backAddress (Config.backIndex (a / 4096))).toNat
  | _ => channelOf a

/-- The unit that puts a line's writes into its memory: the pseudo-channel of an HBM4E line (R278), 512 + die for the
expansion-memory port of XM lines (R282), 516 for the host's lines (R99); none for other memory. -/
def State.arrayChannel (s : State) (line : Nat) : Option Nat :=
  let key := line * 64
  match key / space with
  | 0 => some (channelOf (key % space))
  | 1 => some (512 + s.homeCluster line / 128)
  | 2 => some 516
  | 4 =>
    match s.pageLoc (key % space / 4096) with
    | .hbm => some (s.homeCluster line)
    | .xm _ => some (512 + s.homeCluster line / 128)
    | _ => none
  | _ => none

/-- Whether an access of a class to a line of HBM4E waits for ever: its channel's live table has no slot of the class in the owner's partition,
and gives no slot away (R280). Reads that find a slot are part of the accesses that make them (log 11). -/
def State.starvesFor (s : State) (cls owner line : Nat) : Bool :=
  match s.arrayChannel line with
  | some ch => decide (ch < 512) && (s.chan ch).starvesFor cls (s.owner owner).part
  | none => false

/-- The pending writes of a line are in its array (R278). -/
def State.landed (s : State) (line : Nat) : State :=
  { s with array := s.array.filter (fun w => !w.old.any (fun b => decide (b.1 / 64 = line))) }

/-- The machine check of an uncorrectable error in a line of HBM4E or of XM (R515). -/
def State.lineCheck (s : State) (line : Nat) : Nat :=
  match s.arrayChannel line with
  | some ch => if 512 ≤ ch ∧ ch < 516 then 0x1F1 else 0x1F0
  | none => 0x1F0

/-- Stream ID of a handle (R93). -/
def handleId (h : Word) : Nat := h.toNat % 2 ^ 24
/-- Generation of a handle. -/
def handleGen (h : Word) : Nat := h.toNat / 2 ^ 24 % 256

/-- Whether a write made under a handle comes under a generation that is no longer its stream's (R171). -/
def State.staleHandle (s : State) (h : Option Word) : Bool :=
  match h with
  | some h => decide ((s.stream (handleId h)).gen ≠ handleGen h)
  | none => false

/-- Whether a line belongs to a stream page that has been freed. -/
def State.freedLine (s : State) (line : Nat) : Bool :=
  let key := line * 64
  decide (key / space = 4) && (s.pages.find (key % space / 4096)).isNone

/-- The bytes of a line that a table writes, as a mask. -/
def byteMask (line : Nat) (bytes : Table Byte) : BitVec 64 :=
  BitVec.ofNat 64 (bytes.foldl (fun m b => m ||| 2 ^ (b.1 - line * 64)) 0)

/-- The keys of a line's bytes once an owner has written some of them (R104). -/
def keyBytes (old : List (Nat × BitVec 64)) (owner : Nat) (mask : BitVec 64) : List (Nat × BitVec 64) :=
  let mine := (old.filter (fun e => e.1 = owner)).foldl (fun m e => m ||| e.2) mask
  (owner, mine) :: ((old.filter (fun e => e.1 ≠ owner)).map (fun e => (e.1, e.2 &&& ~~~ mask))).filter (fun e => e.2 ≠ 0)

/-- Write bytes at their home, noting what the array holds until the channel writes it (R278) and whose key encrypts them from now on
(R104). `made` names the handles under which it was made: under stale ones it is dropped and counted (R171), and what is written for a page
that has been freed is lost (log 49). -/
def State.homeWrite (s : State) (line : Nat) (bytes : Table Byte) (core : Nat) (by_ : List Storer) (owner : Nat) (near : Bool)
    (made : List (Option Word) := by_.map (·.handle)) : State :=
  let mem := bytes.foldl (fun m b => m.put b.1 b.2) s.mem
  if made ≠ [] ∧ made.all s.staleHandle then s.onCaravan (s.homeCluster line / 128) (fun c => { c with stale := c.stale + 1 })
  else if s.freedLine line then s
  else match s.arrayChannel line with
  | none => { s with mem := mem }
  | some ch =>
    let old := bytes.map (fun b => (b.1, s.mem.byte b.1))
    { s with
      mem := mem,
      keyed := if line < 2 * space / 64 then s.keyed.set line (keyBytes (s.keyed.get [] line) owner (byteMask line bytes)) else s.keyed,
      array := s.array ++ [{ chan := ch, old := old, part := (s.owner owner).part, near := near, core := core, by_ := by_ }] }

/-- A byte as the HBM4E array holds it: what the oldest pending write found, else the home's value (R278). -/
def State.arrayByte (s : State) (key : Nat) : Byte :=
  match s.array.findSome? (fun w => w.old.find key) with
  | some b => b
  | none => s.mem.byte key

/-- Those whose stores a queue entry holds. -/
def WlqEntry.stores (e : WlqEntry) : List Storer := { ctx := e.ctx, launch := e.launch, handle := e.handle } :: e.also

/-- The home port accepts a queue entry and frees it (R274); a line that one store wrote whole is no longer poisoned (R516). -/
def State.acceptEntry (s : State) (g : Nat) (e : WlqEntry) : State :=
  let s1 := s.homeWrite e.line e.bytes g e.stores e.owner false
  if e.whole then { s1 with poison := s1.poison.filter (· ≠ e.line) } else s1

/-- Accept a core's entries in queue order up to and with the last one for a line. -/
def State.acceptFor (s : State) (g line : Nat) : List WlqEntry → State
  | [] => s
  | e :: r =>
    if (e :: r).any (fun x => x.line = line) then
      ((s.acceptEntry g e).onCore g (fun c => { c with wlq := r })).acceptFor g line r
    else s

/-- Accept every queued entry for a line, of all cores but one (R271, R330). -/
def State.acceptLine (s : State) (but : Option Nat) (line : Nat) : State :=
  s.cores.foldl (fun s gc => if but = some gc.1 then s else s.acceptFor gc.1 line (s.core gc.1).wlq) s

/-- A free entry for data that a core sends whatever its queue holds: the oldest entry is accepted first (R273, log 2). -/
def State.makeRoom (s : State) (g : Nat) : State :=
  match (s.core g).wlq with
  | e :: r => if r.length < 15 then s else (s.acceptEntry g e).onCore g (fun c => { c with wlq := r })
  | [] => s

/-- A line's bytes as a table by key. -/
def lineBytes (line : Nat) (data : List Byte) : Table Byte := (List.range 64).zip data |>.map (fun ib => (line * 64 + ib.1, ib.2))

/-- A dirty line on its way home through the queue: it holds the stores of all who dirtied it (R273, R296). -/
def CLine.entry (l : CLine) (clk : Nat) : WlqEntry :=
  { line := l.line, bytes := lineBytes l.line l.data, ctx := (l.dirtiers.head?.map (·.ctx)).getD 0, since := clk, departed := false,
    owner := l.owner, merged := true, launch := l.dirtiers.head?.bind (·.launch), handle := l.dirtiers.head?.bind (·.handle),
    also := l.dirtiers.drop 1, whole := l.whole }

/-- Write a dirty CWAY line back through the queue and charge it (R273, R274); the core keeps no copy (log 13). A copy in error poisons the
line (R515, log 29). -/
def State.writeBack (s : State) (g : Nat) (l : CLine) : State :=
  let s1 := (s.charge g 64).makeRoom g
  let s2 := s1.onCore g (fun c => { c with cway := c.cway.filter (fun x => x.line ≠ l.line), wlq := c.wlq ++ [l.entry s.clk] })
  { s2 with
    poison := if l.bad.isSome && !s2.poison.contains l.line then l.line :: s2.poison else s2.poison,
    lines := s2.lines.set l.line { s2.lines.get {} l.line with held := none } }

/-- The line of a core's CWAY. -/
def Core.cline (c : Core) (line : Nat) : Option CLine := c.cway.find? (fun l => l.line = line)

/-- Bring a line's placed data home for an access by core `g`, whose own queued entries wait on where `mine` says so (R271, R274,
R330, R331): the other entries are accepted, and a line dirty in another core is recalled. An engine of the package passes no
core. -/
def State.settleFor (s : State) (g : Option Nat) (mine : Bool) (line : Nat) : State :=
  let s1 := s.acceptLine (if mine then g else none) line
  match (s1.line line).held with
  | some (.core h) =>
    if g = some h then s1
    else
      match (s1.core h).cline line with
      | some l => let s2 := s1.writeBack h l; s2.acceptFor h line (s2.core h).wlq
      | none => { s1 with lines := s1.lines.set line { s1.line line with held := none } }
  | _ => s1

/-- Bring all of a line's placed data home but what core `g` holds dirty itself (R271, R330, R331). -/
def State.settle (s : State) (g : Option Nat) (line : Nat) : State := s.settleFor g false line

/-- Ask the host for a line that its snoop took back, with at most 256 such requests outstanding (R99, R334). -/
def State.askHost (s : State) (line : Nat) : State :=
  if (s.line line).held = some .host ∧ !s.dev.hostReqs.contains line ∧ s.dev.hostReqs.length < 256 then
    { s with dev := { s.dev with hostReqs := s.dev.hostReqs ++ [line] } }
  else s

/-- Whether an engine or the host holds the line, or an engine's operation waits for it (R302, R332, R334). -/
def State.engineHolds (s : State) (line : Nat) : Bool :=
  match (s.line line).held with
  | some (.engine _) => true
  | some .host => true
  | _ => !(s.line line).queue.isEmpty

/-- Whether a line is not an engine operation's to take: another operation or the host holds it, or others wait for it that came
before (R302, R303, R334). -/
def State.otherHolds (s : State) (id line : Nat) : Bool :=
  match (s.line line).held with
  | some (.engine i) => decide (i ≠ id)
  | some .host => true
  | _ => match (s.line line).queue with
    | [] => false
    | i :: _ => decide (i ≠ id)

/-- An engine operation (0 for a unit that just tries again) waits for a line behind those that came before: a store that comes
later is placed after its access (R302, R332). -/
def State.queueFor (s : State) (id line : Nat) : State :=
  if id = 0 ∨ (s.line line).queue.contains id then s
  else { s with lines := s.lines.set line { s.line line with queue := (s.line line).queue ++ [id] } }

/-- An engine operation waits for a line no more. -/
def State.unqueue (s : State) (id line : Nat) : State :=
  if (s.line line).queue.contains id then
    { s with lines := s.lines.set line { s.line line with queue := (s.line line).queue.filter (· ≠ id) } }
  else s

/-- An engine operation waits for no line any more. -/
def State.unqueueAll (s : State) (id : Nat) : State :=
  (s.lines.filter (fun e => e.2.queue.contains id)).foldl (fun s e => s.unqueue id e.1) s

/-- CWAY lines that a core's banks can hold (R159). -/
def Core.cwayRoom (c : Core) : Nat := ((List.range 128).filter (fun b => c.mode b = 1)).length * 8

/-- Put a line in CWAY as the most recently used; the least recently used line goes when there is no room (R273). -/
def State.cwayPut (s : State) (g : Nat) (l : CLine) : State :=
  let c := s.core g
  let rest := c.cway.filter (fun x => x.line ≠ l.line)
  if rest.length < c.cwayRoom then s.setCore g { c with cway := rest ++ [l] }
  else
    match rest with
    | [] => s
    | v :: r =>
      let s1 := if v.dirty then s.writeBack g v else s
      s1.onCore g (fun c => { c with cway := r ++ [l] })

/-- Bytes that the running instruction's store was admitted with when it was tried before. -/
def State.mineAdmitted (s : State) : Nat := (s.ctx s.cur.1 s.cur.2).admitted

/-- Admit a written-through store of n bytes (R276), unless it was admitted when it was tried before. `f` is what the
instruction has done that lasts while it waits. -/
def takeBudget (n : Nat) (va : Word) (f : State → State := id) : M Unit := do
  let s ← get
  let (g, k) := s.cur
  let w := s.lane g
  if s.mineAdmitted = 0 ∧ w.budget ≠ 0 ∧ w.used ≠ 0 ∧ w.budget < w.used + n then
    if w.trap then trap 0x081 va else waitAnd (fun s => (f s).stall g k)
  else onMyCore (fun c => { c with wl := { w with used := if s.mineAdmitted = 0 then w.used + n else w.used, waiters := w.waiters.filter (· ≠ k) } })

/-- Whether a store joins the youngest entry: one for its line, of its own context, that has not departed (R274). -/
def joins (q : List WlqEntry) (line : Nat) (w : Storer) : Bool :=
  match q.getLast? with
  | some e => decide (e.line = line) && decide (e.ctx = w.ctx) && decide (e.launch = w.launch) && !e.departed
  | none => false

/-- Who the context that issues is to a store it makes in a line: the handle of its stream goes with a store to a stream page (R171). -/
def State.storer (s : State) (line : Nat) : Storer :=
  let c := s.ctx s.cur.1 s.cur.2
  { ctx := s.cur.2, launch := c.launch, handle := if line * 64 / space = 4 then some c.stream else none }

/-- Whether a store is one of a context in a launch. -/
def Storer.by (x : Storer) (k : Nat) (l : Option (Nat × Nat)) : Bool := decide (x.ctx = k) && decide (x.launch = l)

/-- A written-through store needs free entries, `m` of them (R277): it waits for them, keeping its charge of n bytes, or raises WL.FULL. -/
def needEntries (m n : Nat) (va : Word) (f : State → State := id) : M Unit := do
  let s ← get
  let (g, k) := s.cur
  if (s.core g).wlq.length + m ≤ 16 then pure ()
  else if (s.lane g).trap then trap 0x082 va
  else waitAnd (fun s => (f s).stallAdmitted g k n)

/-- A written-through store needs a free entry (R277). -/
def needEntry (n : Nat) (va : Word) (f : State → State := id) : M Unit := needEntries 1 n va f

/-- Put bytes into the queue: into the youngest entry, or a free one that the caller has made sure of (R274). `also` are others
whose stores the bytes hold; `whole` says that one store wrote the line whole. -/
def State.enqueue (s : State) (line : Nat) (bytes : Table Byte) (merged : Bool) (also : List Storer) (whole : Bool := false) : State :=
  let w := s.storer line
  if joins (s.core s.cur.1).wlq line w then
    s.onCore s.cur.1 (fun c => { c with wlq := c.wlq.dropLast ++ (c.wlq.getLast?.toList.map (fun e =>
      { e with bytes := bytes.foldl (fun t b => t.set b.1 b.2) e.bytes, merged := e.merged || merged,
               also := e.also ++ ((w :: also).filter (fun x => !e.stores.contains x)).dedup, whole := e.whole || whole })) })
  else
    let e : WlqEntry := {
      line := line, bytes := bytes, ctx := w.ctx, since := s.clk, departed := false, owner := s.ownerOf s.cur.1 s.cur.2, merged := merged,
      launch := w.launch, handle := w.handle, also := also, whole := whole }
    s.onCore s.cur.1 (fun c => { c with wlq := c.wlq ++ [e] })

/-- A written-through store of n charged bytes goes into the queue (R274, R277). -/
def enqueue (line : Nat) (bytes : Table Byte) (merged : Bool) (also : List Storer) (n : Nat) (va : Word) (f : State → State := id)
    (whole : Bool := false) : M Unit := do
  let s ← get
  if joins (s.core s.cur.1).wlq line (s.storer line) then pure () else needEntry n va f
  modify (fun s => s.enqueue line bytes merged also whole)

end Sys2Proof.Machine
end

