-- ==== Sys2Proof/Machine/Pages.lean ====
section
/-! DEFINITION. Stream page tables (R164-R168): finding a page, reference counts, copy on write, and freeing. -/
namespace Sys2Proof.Machine

/-- Reserved bits of a handle are zero (R93). -/
def handleOk (h : Word) : Bool := decide (h.toNat < 2 ^ 44)
/-- Torus coordinates of a handle, x then y then z in 12 bits. -/
def handleHome (h : Word) : Nat := h.toNat / 2 ^ 32 % 2 ^ 12
/-- Torus coordinates of this package in the same form (log 6). -/
def homeHere : Nat := (Config.torus 0).toNat * 256 + (Config.torus 1).toNat * 16 + (Config.torus 2).toNat
/-- The handle of a stream of this package (R93). -/
def handleOf (n gen : Nat) : Word := BitVec.ofNat 64 (homeHere * 2 ^ 32 + gen * 2 ^ 24 + n)

/-- A table node. -/
def State.node (s : State) (n : Nat) : TableNode := s.nodes.get { refcnt := 0, owner := 0, leaf := false, entries := [] } n
/-- Write a table node. -/
def State.setNode (s : State) (n : Nat) (t : TableNode) : State := { s with nodes := s.nodes.set n t }
/-- A page descriptor. -/
def State.page (s : State) (n : Nat) : PageDesc := s.pages.get { refcnt := 0, loc := .hbm, owner := 0 } n
/-- Write a page descriptor. -/
def State.setPage (s : State) (n : Nat) (p : PageDesc) : State := { s with pages := s.pages.set n p }

/-- The page a stream maps at an index, without any effect (R164). -/
def State.pageAt (s : State) (stream p : Nat) : Option Nat :=
  match (s.node (s.stream stream).root).entries.find (p / 512) with
  | none => none
  | some leaf => (s.node leaf).entries.find (p % 512)

/-- Page indices that a stream maps, ascending (R164). -/
def State.mapped (s : State) (n : Nat) : List Nat :=
  (((s.node (s.stream n).root).entries.flatMap (fun r => (s.node r.2).entries.map (fun l => r.1 * 512 + l.1))).insertionSort (· ≤ ·))

/-! ### The stream page map (R170) -/

/-- Of tables in the order of their binding, those that stay when at most `room` leaf entries fit: the least recently bound go. -/
def State.fitSpm (s : State) (room : Nat) : List Nat → List Nat
  | [] => []
  | m :: r => if ((m :: r).map (fun n => (s.mapped n).length)).sum ≤ room then m :: r else s.fitSpm room r

/-- The other tables of a stream page map that stay beside a stream's own. -/
def State.besideSpm (s : State) (n : Nat) (spm : List Nat) : List Nat := s.fitSpm (65536 - (s.mapped n).length) (spm.filter (· ≠ n))

/-- A table comes into a die's stream page map as the most recently bound; the least recently bound go to make room, and a
table of more than 65,536 leaf entries stays out (R170). -/
def State.loadSpm (s : State) (die n : Nat) : State :=
  if 65536 < (s.mapped n).length then s
  else s.onCaravan die (fun c => { c with spm := s.besideSpm n c.spm ++ [n] })

/-- A table is held in a stream page map no more. -/
def State.leaveSpm (s : State) (n : Nat) : State :=
  { s with caravans := s.caravans.map (fun (e : Nat × Caravan) => (e.1, { e.2 with spm := e.2.spm.filter (· ≠ n) })) }

/-- A stream's table has grown: where it is held others make room for it, until it is too large to be held (R170). -/
def State.growSpm (s : State) (n : Nat) : State :=
  if 65536 < (s.mapped n).length then s.leaveSpm n
  else
    { s with caravans := s.caravans.map (fun (e : Nat × Caravan) =>
        (e.1, if e.2.spm.contains n then { e.2 with spm := e.2.spm.filter (fun m => decide (m = n) || (s.besideSpm n e.2.spm).contains m) } else e.2)) }

/-- A new identity of a node or page (log 6). -/
def State.newId (s : State) : State × Nat := ({ s with fresh := s.fresh + 1 }, s.fresh)

/-- Copy a page's 4 KiB in memory, everything placed in it brought home first (R167). -/
def State.copyPage (s : State) (src dst : Nat) : State :=
  let s1 := (List.range 64).foldl (fun s i => s.settle none (pageKey src 0 / 64 + i)) s
  let cells := s1.mem.filter (fun c => decide (pageKey src 0 ≤ c.1) && decide (c.1 < pageKey src 0 + 4096))
  { s1 with mem := cells.foldl (fun m c => m.put (pageKey dst 0 + (c.1 - pageKey src 0)) c.2) s1.mem }

/-- A page's copy at its own backing, with count 1 (R167). -/
def State.dupPage (s : State) (page : Nat) : State × Nat :=
  let (s1, id) := s.newId
  ((s1.setPage id { refcnt := 1, loc := .hbm, owner := (s1.page page).owner }).copyPage page id, id)

/-- Count one more leaf entry naming a page; a count never passes 65,535: the entry then names a copy (R167). -/
def State.sharePage (s : State) (page : Nat) : State × Nat :=
  let d := s.page page
  if d.refcnt < 65535 then (s.setPage page { d with refcnt := d.refcnt + 1 }, page) else s.dupPage page

/-- Copy a leaf node: every page it names is shared (R167). -/
def State.copyLeaf (s : State) (leaf : Nat) : State × Nat :=
  let n := s.node leaf
  let r := n.entries.foldl (fun (acc : State × Table Nat) e =>
    let t := acc.1.sharePage e.2
    (t.1, acc.2 ++ [(e.1, t.2)])) (s, [])
  let (s1, id) := r.1.newId
  ((s1.setNode id { n with refcnt := 1, entries := r.2 }).setNode leaf { n with refcnt := n.refcnt - 1 }, id)

/-- Copy a root node: every leaf it names gains a reference (R167). -/
def State.copyRoot (s : State) (root : Nat) : State × Nat :=
  let n := s.node root
  let s1 := n.entries.foldl (fun s e => s.setNode e.2 { s.node e.2 with refcnt := (s.node e.2).refcnt + 1 }) s
  let (s2, id) := s1.newId
  ((s2.setNode id { n with refcnt := 1 }).setNode root { s2.node root with refcnt := n.refcnt - 1 }, id)

/-- Make a stream's root node its own (R167). -/
def State.privateRoot (s : State) (stream : Nat) : State :=
  let d := s.stream stream
  if 1 < (s.node d.root).refcnt then
    let r := s.copyRoot d.root
    r.1.onStream stream (fun d => { d with root := r.2 })
  else s

/-- Make the leaf node of page index p a stream's own, its root first; a leaf that is not there is created (R167). Gives the
leaf. -/
def State.privateLeaf (s : State) (stream p : Nat) : State × Nat :=
  let s1 := s.privateRoot stream
  let root := (s1.stream stream).root
  let setLeaf (s : State) (leaf : Nat) : State × Nat :=
    (s.setNode root { s.node root with entries := (s.node root).entries.set (p / 512) leaf }, leaf)
  match (s1.node root).entries.find (p / 512) with
  | none =>
    let (t, id) := s1.newId
    setLeaf (t.setNode id { refcnt := 1, owner := (s.stream stream).owner, leaf := true, entries := [] }) id
  | some leaf =>
    if 1 < (s1.node leaf).refcnt then
      let r := s1.copyLeaf leaf
      setLeaf r.1 r.2
    else (s1, leaf)

/-- A write through the stream window to page index p (R167): the state with the path made private, and the page; none
where the stream may hold no more pages (STR.FULL, R166). -/
def State.pageForWrite (s : State) (stream p : Nat) : Option (State × Nat) :=
  let d := s.stream stream
  let (s2, leaf) := s.privateLeaf stream p
  let setPage (s : State) (page : Nat) : State :=
    s.setNode leaf { s.node leaf with entries := (s.node leaf).entries.set (p % 512) page }
  match (s2.node leaf).entries.find (p % 512) with
  | none =>
    if d.pagesUsed = d.resv then none
    else
      let (t, id) := s2.newId
      some (((setPage (t.setPage id { refcnt := 1, loc := .hbm, owner := d.owner }) id).onStream stream
        (fun d => { d with pagesUsed := d.pagesUsed + 1 })).growSpm stream, id)
  | some page =>
    if 1 < (s2.page page).refcnt then
      let r := s2.dupPage page
      some (setPage (r.1.setPage page { r.1.page page with refcnt := (r.1.page page).refcnt - 1 }) r.2, r.2)
    else some (s2, page)

/-- Whether a page is moving (R172). -/
def State.pageMoving (s : State) (page : Nat) : Bool :=
  match (s.page page).loc with
  | .moving _ => true
  | _ => false

/-- Whether a copy of the leaf node of page index p, which a write to it makes, must also copy a page that is moving: the copy waits until
that move completes (R167). -/
def State.copyWaits (s : State) (stream p : Nat) : Bool :=
  let root := s.node (s.stream stream).root
  match root.entries.find (p / 512) with
  | none => false
  | some leaf =>
    (decide (1 < root.refcnt) || decide (1 < (s.node leaf).refcnt))
      && (s.node leaf).entries.any (fun e => decide (65535 ≤ (s.page e.2).refcnt) && s.pageMoving e.2)

/-! ### The replay queues (R172) -/

/-- Whether one that waits in a replay queue still waits for the same access. -/
def State.stillWaits (s : State) : Waiter → Bool
  | .ctx g k since => (s.ctx g k).live && (s.ctx g k).resident && decide ((s.ctx g k).waitFrom = some since)
  | .op id =>
    s.jobs.any (fun e => e.2.any (·.id = id)) || s.cores.any (fun e => e.2.cpq.any (·.id = id)) || s.near.any (·.id = id)

/-- A page's replay queue, the first that arrived first. -/
def State.replayOf (s : State) (page : Nat) : List Waiter := (s.replay.get [] page).filter s.stillWaits

/-- Whether an access to a page may be made: the page is not moving, and no access that waited for it came before. -/
def State.pageFree (s : State) (page : Nat) (w : Waiter) : Bool :=
  !s.pageMoving page && (match s.replayOf page with
    | [] => true
    | x :: _ => decide (x = w))

/-- An access joins a page's replay queue. -/
def State.joinReplay (s : State) (page : Nat) (w : Waiter) : State :=
  if (s.replay.get [] page).contains w then s else { s with replay := s.replay.set page (s.replayOf page ++ [w]) }

/-- An access is released from a page's replay queue. -/
def State.leaveReplay (s : State) (page : Nat) (w : Waiter) : State :=
  match (s.replay.get [] page).filter (· ≠ w) with
  | [] => { s with replay := s.replay.drop page }
  | q => { s with replay := s.replay.set page q }

/-- One that is first in the queue of a page that has moved has been released, whatever it waits for next. -/
def State.passReplay (s : State) (w : Waiter) : State :=
  s.replay.foldl (fun s e => if s.pageFree e.1 w then s.leaveReplay e.1 w else s) s

/-- Free an Erg frame that holds a page. -/
def State.freeFrame (s : State) (page : Nat) : State :=
  match (s.page page).loc with
  | .erg core frame => s.onCore core (fun c => { c with frames := c.frames.set frame .free })
  | .xm _ => s.onOwner (s.page page).owner (fun o => { o with xmUsed := o.xmUsed - 1 })
  | _ => s

/-- Free a page (R166); where it was is kept (R171). -/
def State.freePage (s : State) (page : Nat) : State :=
  let s1 := s.freeFrame page
  { s1 with pages := s1.pages.drop page, gone := s1.gone.set page (s.page page).loc, replay := s1.replay.drop page, mem := s1.mem.zero (pageKey page 0) 4096 }

/-- One reference to a page ends; at 0 the page is freed, or once it has moved (R166, R474). -/
def State.unrefPage (s : State) (page : Nat) : State :=
  let d := s.page page
  if d.refcnt ≤ 1 then (if s.pageMoving page then s.setPage page { d with refcnt := 0 } else s.freePage page)
  else s.setPage page { d with refcnt := d.refcnt - 1 }

/-- One reference to a leaf node ends. -/
def State.unrefLeaf (s : State) (leaf : Nat) : State :=
  let n := s.node leaf
  if n.refcnt ≤ 1 then
    let s1 := n.entries.foldl (fun s e => s.unrefPage e.2) s
    { s1 with nodes := s1.nodes.drop leaf }
  else s.setNode leaf { n with refcnt := n.refcnt - 1 }

/-- One reference to a root node ends. -/
def State.unrefRoot (s : State) (root : Nat) : State :=
  let n := s.node root
  if n.refcnt ≤ 1 then
    let s1 := n.entries.foldl (fun s e => s.unrefLeaf e.2) s
    { s1 with nodes := s1.nodes.drop root }
  else s.setNode root { n with refcnt := n.refcnt - 1 }

/-- Pool pages that a stream with RESV pages reserves: its own, its root and its leaves (R166). -/
def poolNeed (resv : Nat) : Nat := resv + 1 + (resv + 511) / 512

/-- Take a reservation for an owner, in one step; a refusal is counted (R107). -/
def State.reserve (s : State) (owner k : Nat) : State × Bool :=
  let o := s.owner owner
  if o.resv + k ≤ o.quota.toNat ∧ s.poolUsed + k ≤ Config.poolPages s.dev.fwver then
    ({ s with poolUsed := s.poolUsed + k }.onOwner owner (fun o => { o with resv := o.resv + k }), true)
  else (s.onOwner owner (fun o => { o with refused := o.refused + 1 }), false)

/-- Give a reservation back (R107, R166). -/
def State.unreserve (s : State) (owner k : Nat) : State :=
  { s with poolUsed := s.poolUsed - k }.onOwner owner (fun o => { o with resv := o.resv - k })

end Sys2Proof.Machine
end

