-- ==== Sys2Proof/Machine/Translate.lean ====
section
/-! DEFINITION. The global address map (R267, R268), page-table walks and cached translations (R173, R174), translation
faults held for the host (R113), and where a global access of a context lands. -/
namespace Sys2Proof.Machine

/-- The regions of R267. -/
inductive Region where
  | translated | remote | gang | streamTable | window
  deriving DecidableEq, Repr

/-- The region of one address; none in a hole (R267). -/
def regionOf (va : Nat) : Option Region :=
  if va < 0x00F0000000000000 then some .translated
  else if va < 0x00F00000A0000000 then some .remote
  else if va < 0x00FC000000000000 then none
  else if va < 0x00FD000000000000 then
    let o := va - 0x00FC000000000000
    if o / 2 ^ 24 < 4 ∧ o % 2 ^ 24 < 2 ^ 18 then some .gang else none
  else if va < 0x00FD000080000000 then some .streamTable
  else if va < 0x00FE000000000000 then none
  else if va < 0x00FF000000000000 then some .window
  else none

/-- What a page-table walk finds (R173). -/
inductive Walk where
  | absent
  | malformed
  | page (entry : Word) (big : Bool)
  deriving DecidableEq, Repr

/-- A malformed table entry (R173): the reserved memory kind, or a bit that must be 0 in an entry of the level, 3 to 1 upper levels, 0
level 0, 4 the leaf. -/
def entryBad (level : Nat) (e : Nat) : Bool :=
  let pg := e / 2 % 2 = 1
  let low (n : Nat) : Bool := decide (e / 64 % 2 ^ (n - 6) ≠ 0)
  decide (2 ^ 56 ≤ e) || decide (e / 16 % 4 = 3) || (pg && decide (level ≠ 0)) ||
    (if level = 0 then (if pg then low 21 else decide (e / 64 % 4 ≠ 0))
     else if level = 4 then low 16 else low 12)

/-- Walk from level `n` - 1 down: `base` is the node, `va` the address. -/
def walkFrom (mem : Memory) (va : Nat) : Nat → Nat → Walk
  | 0, base =>
    let e := (mem.dword (hbmKey (base + va / 2 ^ 16 % 32 * 8)))
    if e.toNat % 2 = 0 then .absent else if entryBad 4 e.toNat then .malformed else .page e false
  | n + 1, base =>
    let idx := if n = 3 then va / 2 ^ 48 % 256 else va / 2 ^ (21 + 9 * n) % 512
    let e := (mem.dword (hbmKey (base + idx * 8)))
    if e.toNat % 2 = 0 then .absent
    else if entryBad n e.toNat then .malformed
    else if n = 0 then
      if e.toNat / 2 % 2 = 1 then .page e true else walkFrom mem va n (e.toNat / 256 % 2 ^ 48 * 256)
    else walkFrom mem va n (e.toNat / 4096 % 2 ^ 44 * 4096)

/-- Walk an owner's page table for an address (R173). -/
def State.walk (s : State) (owner va : Nat) : Walk := walkFrom s.mem va 4 (s.owner owner).root.toNat

/-- What a walk for an access finds at an address: a mapping present at the owner's latest launch start stands as it was then; one that was
not present is walked (R174, log 14). -/
def State.unitWalk (s : State) (owner va : Nat) : Walk :=
  match walkFrom (s.owner owner).table va 4 (s.owner owner).root.toNat with
  | .page e big => .page e big
  | _ => s.walk owner va

/-- The 64 KiB page number of an address, which names what a translation fault waits for (log 14). -/
def pageOf (va : Nat) : Nat := va / 65536

/-- A cluster's cached translation of an address (R174). -/
def State.cached (s : State) (cl owner va : Nat) : Option Tlb :=
  (s.tlbs.get [] cl).find? (fun t => t.owner = owner && t.page = (if t.big then va / 2 ^ 21 else va / 65536))

/-- Translate by the cluster's cache or a walk; a page found is cached (R174), and the oldest leaves a cache that holds 4,096 (DESIGN CHOICE,
log 51). -/
def State.translate (s : State) (cl owner va : Nat) : Walk × State :=
  match s.cached cl owner va with
  | some t => (.page t.entry t.big, s)
  | none =>
    match s.unitWalk owner va with
    | .page e big =>
      let t : Tlb := { owner := owner, page := if big then va / 2 ^ 21 else va / 65536, entry := e, big := big }
      (.page e big, { s with tlbs := s.tlbs.set cl ((t :: s.tlbs.get [] cl).take 4096) })
    | w => (w, s)

/-- Memory key of an address in a page found (R173); none where the entry does not allow the access. -/
def entryKey (e : Word) (big : Bool) (va : Nat) (write fetch : Bool) : Option Nat :=
  let v := e.toNat
  let kind := v / 16 % 4
  if (write && v / 4 % 2 = 0) || (fetch && v / 8 % 2 = 0) || kind = 3 then none
  else
    let pa := if big then v / 2 ^ 21 % 2 ^ 35 * 2 ^ 21 + va % 2 ^ 21 else v / 2 ^ 16 % 2 ^ 40 * 2 ^ 16 + va % 2 ^ 16
    some (kind * space + pa)

/-- Append a held fault's entry to the host ring when there is room (R113); vector 64 when the ring was empty. -/
def State.postFault (s : State) (f : HeldFault) : State × HeldFault :=
  if f.posted ∨ s.dev.xlqcount = 128 then (s, f)
  else
    let base := s.dev.xlqbase.toNat / 4096 * 4096 + 32 * s.dev.xlqtail
    let meta1 := f.agent.toNat * 2 ^ 40 + f.owner * 2 ^ 34 + f.kind * 2 ^ 32 + f.slot * 2 ^ 16 + f.tag
    let bytes := bytesOfNat 8 f.va.toNat ++ bytesOfNat 8 meta1 ++ bytesOfNat 16 0
    let d := s.dev
    let s1 := { s with mem := s.mem.putBytes (hostKey base) bytes,
                       dev := { d with xlqtail := (d.xlqtail + 1) % 128, xlqcount := d.xlqcount + 1 } }
    (if d.xlqcount = 0 then s1.send 64 else s1, { f with posted := true })

/-- Post the held faults that the ring has room for, in order. -/
def State.postFaults (s : State) : List HeldFault → State × List HeldFault
  | [] => (s, [])
  | f :: r =>
    let (s1, f1) := s.postFault f
    let (s2, r2) := State.postFaults s1 r
    (s2, f1 :: r2)

/-- Hold an access for translation and report it (R113): faults on one page and owner share one entry. `agent` is reported, and
`waiter` names who waits. -/
def State.holdFaultAs (s : State) (owner va : Nat) (agent waiter : BitVec 24) (kind slot : Nat) : State :=
  let same (f : HeldFault) : Bool := f.page = pageOf va && f.owner = owner
  let held :=
    if s.held.any same then
      s.held.map (fun f => if same f && !f.waiters.contains waiter then { f with waiters := waiter :: f.waiters } else f)
    else
      s.held ++ [{ page := pageOf va, owner := owner, va := BitVec.ofNat 64 (va % 2 ^ 56), agent := agent, kind := kind,
                   slot := slot, tag := s.dev.nextTag, posted := false, waiters := [waiter] }]
  let tag := if s.held.any same then s.dev.nextTag else (s.dev.nextTag + 1) % 65536
  let (s1, h1) := { s with dev := { s.dev with nextTag := tag } }.postFaults held
  { s1 with held := h1 }

/-- Whether an access that was held waits on: the host has not yet resolved its page's entry (R113). -/
def State.stillHeld (s : State) (owner va : Nat) (waiter : BitVec 24) : Bool :=
  s.held.any (fun f => decide (f.page = pageOf va) && decide (f.owner = owner) && f.waiters.contains waiter)

/-- Hold an access of an agent for translation (R113). -/
def State.holdFault (s : State) (owner va : Nat) (agent : BitVec 24) (kind slot : Nat) : State := s.holdFaultAs owner va agent agent kind slot

/-- Who waits when Caravan itself reads (no agent of R21). -/
def caravanWaits : BitVec 24 := 0xFFFFFF
/-- Who waits when a drive stores its result. -/
def driveWaits : BitVec 24 := 0xFFFFFE
/-- Who waits when a Barchan engine reads or writes an action queue, or stores a completion record. -/
def barchanWaits : BitVec 24 := 0xFFFFFD

/-- Where one element of a global access lands. -/
inductive Loc where
  | mem (key : Nat)
  /-- A stream page that is not mapped: reads return zero (R169). -/
  | zero
  | remote (core off : Nat)
  deriving DecidableEq, Repr

/-- The checks of R169 rows 1-4 for a bound handle and an accessor's owner; gives the stream and page index. -/
def State.windowOf (s : State) (h : Word) (owner va : Nat) (aval : Word) : Except TrapInfo (Nat × Nat) :=
  let d := s.stream (handleId h)
  if h = 0 then .error { cause := 0x165, tval := aval }
  else if 0x00FE000040000000 ≤ va then .error { cause := 0x166, tval := aval }
  else if d.gen ≠ handleGen h then .error { cause := 0x161, tval := aval }
  else if d.state = .free || d.state = .retired || d.state = .migratedStub then .error { cause := 0x164, tval := aval }
  else if d.owner ≠ owner then .error { cause := 0x063, tval := BitVec.ofNat 64 va }
  else .ok (handleId h, (va - 0x00FE000000000000) / 4096)

/-- The bound stream's checks for a context. -/
def windowStream (s : State) (g k va : Nat) (aval : Word) : Except TrapInfo (Nat × Nat) :=
  s.windowOf (s.ctx g k).stream (s.ownerOf g k) va aval

/-- Translate an address of translated space for a context, or hold the access (R113, R173): one that is held waits for the host's answer,
and faults where that is a failure. -/
def translateFor (va : Nat) (write fetch : Bool) : M Nat := do
  let s ← get
  let (g, k) := s.cur
  let owner := s.ownerOf g k
  let addr := BitVec.ofNat 64 va
  trapIf (decide ((s.ctx g k).xfail = some (pageOf va))) 0x062 addr
  if s.stillHeld owner va (ctxAgent g k) then wait else pure ()
  let (w, s1) := s.translate (clusterOf g) owner va
  match w with
  | .malformed => trap 0x063 addr
  | .page e big =>
    match entryKey e big va write fetch with
    | none => trap 0x063 addr
    | some key =>
      set s1
      return key
  | .absent =>
    let slot := (((s.ctx g k).launch).map (·.1)).getD 0
    let kind := if fetch then 2 else if write then 1 else 0
    waitAnd (fun s => s.holdFault owner va (ctxAgent g k) kind slot)

/-- The issuing context as one that waits for a page. -/
def State.myWaiter (s : State) : Waiter := .ctx s.cur.1 s.cur.2 ((s.ctx s.cur.1 s.cur.2).waitFrom.getD s.clk)

/-- An access of the issuing context to a page waits while the page moves, and behind the accesses that waited for it (R172). -/
def needPage (page : Nat) : M Unit := do
  let s ← get
  let w := s.myWaiter
  if s.pageFree page w then modify (·.leaveReplay page w) else waitAnd (·.joinReplay page w)

/-- A write of an agent with clock l through the stream window (R167): the page, and the time of the descriptor step in which the
stream's USED or ROOT has changed, or l where neither has (R322, R323). -/
def State.windowWrite (s : State) (agent : BitVec 24) (l n p : Nat) : Option (State × Nat × Nat) :=
  match s.pageForWrite n p with
  | none => none
  | some (s1, page) =>
    if (s1.stream n).pagesUsed = (s.stream n).pagesUsed ∧ (s1.stream n).root = (s.stream n).root then some (s1, page, l)
    else
      let (s2, t) := s1.placeDesc agent l n
      some (s2, page, t)

/-- Fault orders 1-5 of R283 for one element, and where it lands. A write through the stream window makes the page
private first (R167). -/
def locate (va : Word) (size : Nat) (write : Bool) (aval : Word) : M Loc := do
  noteAccess va size
  let a := va.toNat
  match regionOf a, regionOf (a + size - 1) with
  | none, _ => trap 0x064 va
  | some _, none => trap 0x064 (BitVec.ofNat 64 (a + ((List.range size).find? (fun i => regionOf (a + i) = none)).getD 0))
  | some r, some _ =>
    trapIf (decide (a % size ≠ 0)) 0x061 va
    match r with
    | .translated => do
      let key ← translateFor a write false
      return .mem key
    | .remote => return .remote ((a - 0x00F0000000000000) / 65536) (a % 65536)
    | .gang => do
      trapIf write 0x063 va
      return .mem (fixedKey a)
    | .streamTable => do
      trapIf (write && decide (a % 128 < 0x60)) 0x063 va
      return .mem (fixedKey a)
    | .window => do
      let s ← get
      match windowStream s s.cur.1 s.cur.2 a aval with
      | .error t => throw (.trap t)
      | .ok (n, p) =>
        if write then
          trapIf (decide ((s.stream n).state = .frozen)) 0x169 aval
          match s.pageAt n p with
          | some page => needPage page
          | none => pure ()
          let s ← get
          if s.copyWaits n p then wait else pure ()
          match s.windowWrite (ctxAgent s.cur.1 s.cur.2) (s.ctx s.cur.1 s.cur.2).l n p with
          | none => trap 0x167 aval
          | some (s1, page, t) =>
            trapIf (decide (clockLimit ≤ t)) 0x0A6 va
            set s1
            onMyCtx (fun c => { c with l := t })
            return .mem (pageKey page (a % 4096))
        else
          match s.pageAt n p with
          | none => return .zero
          | some page => do
            needPage page
            return .mem (pageKey page (a % 4096))

end Sys2Proof.Machine
end

