-- ==== Sys2Proof/Machine/Home.lean ====
section
/-! DEFINITION. The home port: logical times (R326), race checks and metadata (R344, R348-R354), the race record and log
(R357, R358, R360), read copies (R329), and the plain loads and stores of a context (R270-R273, R283). -/
namespace Sys2Proof.Machine

/-- An access as its home port sees it (R326, R349). `tag` is the P of a release or an engine (R343); none takes the
access's own time. -/
structure Req where
  agent  : BitVec 24
  l      : Nat
  h      : Nat
  epoch  : Nat
  scope  : Nat
  atomic : Bool
  key    : Nat
  size   : Nat
  read   : Bool
  write  : Bool
  tag    : Option Nat
  /-- The words that an engine's operation touches in a line it holds whole (R332); none for the bytes named. -/
  only   : Option (List Nat) := none
  deriving DecidableEq, Repr

/-- The line an access touches. -/
def Req.line (r : Req) : Nat := r.key / 64
/-- The 8-byte words it touches, ascending (R344). -/
def Req.words (r : Req) : List Nat :=
  (List.range 8).filter (fun w => match r.only with
    | some ws => ws.contains w
    | none => decide (r.key % 64 / 8 ≤ w) && decide (w ≤ (r.key % 64 + r.size - 1) / 8))

/-- Time of a load (R326). -/
def loadTime (wts : Nat) (wid agent : BitVec 24) (l : Nat) : Nat :=
  let t := max l wts
  if t = wts ∧ agent.toNat < wid.toNat then wts + 1 else t

/-- The time an access receives (R326). -/
def Req.time (r : Req) (ln : LineHome) : Nat :=
  if r.write then max r.l (ln.rts + 1) else loadTime ln.wts ln.wid r.agent r.l

/-- A line's clocks after an access at time t (R326). -/
def LineHome.timed (ln : LineHome) (r : Req) (t lease : Nat) : LineHome :=
  if r.write then { ln with wts := t, rts := t, wid := r.agent } else { ln with rts := max ln.rts (t + lease) }

/-- Whether agent g lies within a scope taken from the place of `w` (R335). Kinds 3-5 belong to a die by their stack or
die number (log 15). -/
def scopeHas (w : BitVec 24) (scope : Nat) (g : BitVec 24) : Bool :=
  let kind (a : BitVec 24) := a.toNat / 2 ^ 20
  let low (a : BitVec 24) := a.toNat % 2 ^ 20
  let die (a : BitVec 24) : Option Nat :=
    match kind a with
    | 0 | 1 | 2 => some (low a / 2 ^ 18)
    | 3 => some (low a % 8 / 2)
    | 4 | 5 => some (low a % 4)
    | _ => none
  let cluster (a : BitVec 24) : Option Nat := if kind a ≤ 2 then some (low a / 2 ^ 11) else none
  match scope with
  | 0 => decide (g = w)
  | 1 => decide (kind g = 0) && decide (kind w = 0) && decide (low g / 16 = low w / 16)
  | 2 => (cluster g).isSome && decide (cluster g = cluster w)
  | 3 => (die g).isSome && decide (die g = die w)
  | 4 => decide (kind g ≤ 6)
  | _ => true

/-- What a check notes (R349). -/
inductive Note where
  | scope | mixed | ww | rw | wr | advWW | advRW | advWR
  deriving DecidableEq, Repr

/-- The cause of a note (R349, R405). -/
def Note.cause : Note → Nat
  | .scope => 0x0A4
  | .mixed => 0x0A5
  | .ww | .advWW => 0x0A3
  | .rw | .advRW => 0x0A1
  | .wr | .advWR => 0x0A2

/-- Whether a note is only advisory. -/
def Note.advisory : Note → Bool
  | .advWW | .advRW | .advWR => true
  | _ => false

/-- Rank of a note, the lowest first (R349). -/
def Note.rank : Note → Nat
  | .scope => 0
  | .mixed => 1
  | .ww | .rw | .advWW | .advRW => 2
  | .wr | .advWR => 3

/-- The notes of one word (R349). -/
def MetaEntry.notesOf (m : MetaEntry) (r : Req) (w : Nat) : List Note :=
  let s := m.map.getD w 0
  let slot := if s = 1 then m.w0 else m.w1
  let first : List Note :=
    if (s = 1 || s = 2) && slot.agent ≠ r.agent then
      if !scopeHas slot.agent slot.scope r.agent then [.scope]
      else if decide (r.h < slot.tag) && !(slot.atomic && r.atomic) then
        if slot.atomic ≠ r.atomic then [.mixed] else if r.write then [.ww] else [.rw]
      else []
    else if s = 3 && decide (r.h < m.floor) then (if r.write then [.advWW] else [.advRW])
    else []
  let second : List Note :=
    if r.write && m.rmask.getLsbD w && decide (r.h < m.rmax) && m.rlast ≠ some r.agent then
      if m.rfold then [.advWR] else if m.rat ≠ r.atomic then [.mixed] else if !m.rat then [.wr] else []
    else []
  first ++ second

/-- The verdict of a check: the race's cause, or the advisory cause, of the note of highest precedence (R349). -/
structure Verdict where
  race : Option Nat
  adv  : Option Nat
  deriving DecidableEq, Repr

/-- The note of highest precedence; the first among equals. -/
def firstNote : List Note → Option Note
  | [] => none
  | n :: r =>
    match firstNote r with
    | none => some n
    | some m => if m.rank < n.rank then some m else some n

/-- The verdict over a list of notes. -/
def verdictOf (ns : List Note) : Verdict :=
  match firstNote (ns.filter (fun n => !n.advisory)) with
  | some n => { race := some n.cause, adv := none }
  | none => { race := none, adv := (firstNote ns).map Note.cause }

/-- The metadata entry that an access of an epoch meets: the line's own, one rebuilt from its page summary, or none
(R349, R352). -/
def State.metaFor (s : State) (line epoch : Nat) : Option MetaEntry :=
  match (s.line line).md with
  | some m => if m.epoch = epoch then some m else none
  | none =>
    match s.sums.find (line / 64) with
    | some p =>
      if p.epoch = epoch then
        some { epoch := epoch, map := List.replicate 8 3, floor := p.sumw, rmask := 255, rmax := p.sumr, rfold := true }
      else none
    | none => none

/-- Check an access (R349); an absent entry passes. -/
def State.raceCheck (s : State) (r : Req) : Verdict :=
  match s.metaFor r.line r.epoch with
  | none => { race := none, adv := none }
  | some m => verdictOf (r.words.flatMap (m.notesOf r))

/-- A mask of words. -/
def wordMask (ws : List Nat) : BitVec 8 := BitVec.ofNat 8 (ws.foldl (fun acc w => acc + 2 ^ w) 0)

/-- Update by a read at time or reader clock t (R350). -/
def MetaEntry.addRead (m : MetaEntry) (r : Req) (t : Nat) : MetaEntry :=
  let empty := decide (m.rmask = 0)
  let mask := m.rmask ||| wordMask r.words
  if empty then { m with rmask := mask, rmax := t, rlast := some r.agent, rat := r.atomic, many := false }
  else
    let m1 := { m with rmask := mask, many := m.many || m.rlast ≠ some r.agent }
    if m.rmax ≤ t then { m1 with rmax := t, rlast := some r.agent, rat := r.atomic } else m1

/-- Map words to a slot code. -/
def setMap (map : List Nat) (ws : List Nat) (code : Nat) : List Nat :=
  (List.range 8).map (fun i => if ws.contains i then code else map.getD i 0)

/-- Fold a slot into the floor (R351): its words map to the floor. -/
def MetaEntry.fold (m : MetaEntry) (code : Nat) : MetaEntry :=
  let slot := if code = 1 then m.w0 else m.w1
  { m with floor := max m.floor slot.tag, map := m.map.map (fun c => if c = code then 3 else c) }

/-- The slot that a write folds when neither is free (R351). -/
def MetaEntry.victim (m : MetaEntry) (r : Req) : Nat :=
  let ordered (w : WSlot) : Bool := w.agent = r.agent || decide (w.tag ≤ r.h)
  if ordered m.w0 = ordered m.w1 then (if m.w1.tag < m.w0.tag then 2 else 1)
  else if ordered m.w0 then 1 else 2

/-- Update by a write with tag c (R350, R351). -/
def MetaEntry.addWrite (m : MetaEntry) (r : Req) (c : Nat) : MetaEntry :=
  let ws := r.words
  let mask := m.rmask &&& ~~~ wordMask ws
  let m1 : MetaEntry :=
    if mask = 0 then { m with top := max m.top c, rmask := 0, rlast := none, rmax := 0, rat := false, many := false, rfold := false }
    else { m with top := max m.top c, rmask := mask }
  let mine (w : WSlot) : Bool := w.agent = r.agent && w.scope = r.scope && w.atomic = r.atomic
  let mapped (code : Nat) : List Nat := (List.range 8).filter (fun i => m.map.getD i 0 = code)
  let fresh : WSlot := { agent := r.agent, tag := c, scope := r.scope, atomic := r.atomic }
  let keep (w : WSlot) (code : Nat) : WSlot := if (mapped code).all (ws.contains ·) then { w with tag := c } else w
  if mine m.w0 && (mapped 1 ≠ [] || !(mine m.w1 && mapped 2 ≠ [])) then
    { m1 with w0 := keep m.w0 1, map := setMap m.map ws 1 }
  else if mine m.w1 then { m1 with w1 := keep m.w1 2, map := setMap m.map ws 2 }
  else if mapped 1 = [] then { m1 with w0 := fresh, map := setMap m.map ws 1 }
  else if mapped 2 = [] then { m1 with w1 := fresh, map := setMap m.map ws 2 }
  else
    let v := m.victim r
    let m2 := m1.fold v
    if v = 1 then { m2 with w0 := fresh, map := setMap m2.map ws 1 }
    else { m2 with w1 := fresh, map := setMap m2.map ws 2 }

/-- Greatest tag that an entry has seen, for its page's summary (R352): its writes' tags, and its floor. -/
def MetaEntry.maxTag (m : MetaEntry) : Nat := max m.top m.floor

/-- Evict a line's entry into its page summary (R352). -/
def State.evictMeta (s : State) (line : Nat) : State :=
  match (s.line line).md with
  | none => s
  | some m =>
    let p := line / 64
    let rd := if m.rmask = 0 then 0 else m.rmax
    let sum : PageSum :=
      match s.sums.find p with
      | some q => if q.epoch = m.epoch then { q with sumw := max q.sumw m.maxTag, sumr := max q.sumr rd }
                  else { epoch := m.epoch, sumw := m.maxTag, sumr := rd }
      | none => { epoch := m.epoch, sumw := m.maxTag, sumr := rd }
    { s with sums := s.sums.set p sum, lines := s.lines.set line { s.line line with md := none },
             metaUse := s.metaUse.filter (· ≠ line) }

/-- Use a line's entry: most recently used first; a cluster's home metadata cache holds 8,192 (R348, R352). -/
def State.touchMeta (s : State) (line : Nat) : State :=
  let use := line :: s.metaUse.filter (· ≠ line)
  let s1 := { s with metaUse := use }
  if use.length ≤ 8192 then s1
  else
    let mine := use.filter (fun l => s.homeCluster l = s.homeCluster line)
    if mine.length ≤ 8192 then s1
    else
      match mine.getLast? with
      | some l => s1.evictMeta l
      | none => s1

/-- Record a checked access that passed, or that report mode lets proceed (R350), at time t. -/
def State.recordAccess (s : State) (r : Req) (t : Nat) : State :=
  let m := (s.metaFor r.line r.epoch).getD { epoch := r.epoch }
  let m1 := if r.write then m.addWrite r (r.tag.getD t) else m.addRead r (r.tag.getD t)
  ({ s with lines := s.lines.set r.line { s.line r.line with md := some m1 } }).touchMeta r.line

/-- Place an access in the order at its home port (R326): its time, and the line's clocks. -/
def State.place326 (s : State) (r : Req) : State × Nat :=
  let ln := s.line r.line
  let t := r.time ln
  ({ s with lines := s.lines.set r.line (ln.timed r t s.dev.lease) }.sawClock t, t)

/-! ### Race records (R360) -/

/-- A signed clock delta saturated to 32 bits. -/
def delta32 (a b : Nat) : Nat :=
  intCode' (max (-(2 ^ 31)) (min (2 ^ 31 - 1) ((a : Int) - b)))
where
  /-- Two's complement in 32 bits. -/
  intCode' (v : Int) : Nat := (v % 2 ^ 32).toNat

/-- A writer slot as a race record shows it; zero when no word maps to it. -/
def WSlot.word (w : WSlot) (mapped : Bool) (h : Nat) : Word :=
  if mapped then
    BitVec.ofNat 64 (w.agent.toNat * 2 ^ 40 + w.scope * 2 ^ 37 + (if w.atomic then 2 ^ 36 else 0) + delta32 w.tag h)
  else 0

/-- The race record of an access (R360): `kind` 0 read, 1 write, 2 read-modify-write, 3 engine line. -/
def raceRecord (m : MetaEntry) (r : Req) (cause kind : Nat) (adv rpt : Bool) (pc va stream : Nat) (step : Word) : List Word :=
  let lg := Nat.log2 r.size
  let b (x : Bool) (n : Nat) := if x then 2 ^ n else 0
  [ BitVec.ofNat 64 (r.agent.toNat * 2 ^ 40 + r.epoch * 2 ^ 32 + r.scope * 2 ^ 29 + b r.atomic 28 + kind * 2 ^ 26
      + lg * 2 ^ 23 + b rpt 12 + b adv 11 + cause),
    BitVec.ofNat 64 ((if stream = 0 then 0 else stream / 2 ^ 24 % 256) * 2 ^ 56 + pc % 2 ^ 56),
    BitVec.ofNat 64 (va % 2 ^ 56),
    m.w0.word (m.map.contains 1) r.h,
    m.w1.word (m.map.contains 2) r.h,
    BitVec.ofNat 64 ((m.rlast.getD 0).toNat * 2 ^ 40 + m.rmask.toNat * 2 ^ 32 + (if m.rmask = 0 then 0 else delta32 m.rmax r.h)),
    BitVec.ofNat 64 ((m.map.foldr (fun c acc => acc * 4 + c) 0) * 2 ^ 48 + b m.many 47 + b m.rat 46 + b m.rfold 45
      + stream % 2 ^ 24 * 2 ^ 16 + step.toNat % 65536),
    BitVec.ofNat 64 (min (r.l - r.h) 65535 * 2 ^ 48 + r.h) ]

/-- Size in bytes of a race log, its count included (R358). -/
def logBase (racemode : Word) : Nat := racemode.toNat / 4096 % 2 ^ 44 * 4096
/-- Records a race log holds, as a power of two (R355). -/
def logCount (racemode : Word) : Nat := 2 ^ (racemode.toNat / 256 % 16)

/-- A log write as the home port takes it (R358). -/
def logReq (agent : BitVec 24) (l key : Nat) : Req :=
  { agent := agent, l := l, h := 0, epoch := 0, scope := 4, atomic := false, key := key, size := 8, read := false, write := true, tag := none }

/-- The store time that a log write takes (R326, R358). -/
def State.logTime (s : State) (agent : BitVec 24) (l key : Nat) : Nat :=
  (logReq agent l key).time ((s.settle none (key / 64)).line (key / 64))

/-- The context that makes a store, as the end of its launch waits for it (R112): none for a unit. -/
def State.loggedBy (s : State) (agent : BitVec 24) : List Storer :=
  match agentCtx agent with
  | some (g, k) => [{ ctx := k, launch := (s.ctx g k).launch }]
  | none => []

/-- A log write: a store of the accessing agent that leaves its L unchanged, unchecked and uncharged (R358). -/
def State.logWrite (s : State) (g owner : Nat) (agent : BitVec 24) (l key : Nat) (bytes : List Byte) : State :=
  let line := key / 64
  let s1 := s.settle none line
  let s2 := (s1.place326 (logReq agent l key)).1
  let s3 := s2.homeWrite line ((List.range bytes.length).zip bytes |>.map (fun b => (key + b.1, b.2))) g (s.loggedBy agent) owner false
  if agent.toNat < 2 ^ 20 then s3.onCore g (fun c => { c with cway := c.cway.filter (fun x => x.line ≠ line) }) else s3

/-- Whether a race log can be written now (R358): a page of it is not present, a line of it is held by an engine or the host, or a
store to it would be given a time at the limit of the clocks (R361). -/
inductive LogWay where
  | ready
  | absent (va : Nat)
  | held (line : Nat)
  | clock
  deriving DecidableEq, Repr

/-- Whether the count and the next record of an owner's race log can be written by an operation (0 for a context) of an agent with clock
l, which may hold the lines itself (R358). -/
def State.logWay (s : State) (owner id : Nat) (agent : BitVec 24) (l : Nat) (racemode : Word) : LogWay :=
  let base := logBase racemode
  let held (s : State) (line : Nat) : Bool := match (s.line line).held with
    | some (.engine i) => decide (i ≠ id)
    | some .host => true
    | _ => false
  if base = 0 then .ready
  else
    match s.unitWalk owner base with
    | .absent => .absent base
    | .malformed => .ready
    | .page e big =>
      match entryKey e big base true false with
      | none => .ready
      | some key =>
        let va := base + 64 + 64 * (((s.settle none (key / 64)).mem.dword key).toNat % logCount racemode)
        if held s (key / 64) then .held (key / 64)
        else if clockLimit ≤ s.logTime agent l key then .clock
        else
          match s.unitWalk owner va with
          | .absent => .absent va
          | .malformed => .ready
          | .page e2 big2 =>
            match entryKey e2 big2 va true false with
            | none => .ready
            | some k2 =>
              if held s (k2 / 64) then .held (k2 / 64) else if clockLimit ≤ s.logTime agent l k2 then .clock else .ready

/-- Append a record to the log of a racemode value (R358); nothing without a log or a translation of it. -/
def State.appendLog (s : State) (g owner : Nat) (agent : BitVec 24) (l : Nat) (racemode : Word) (rec8 : List Word) : State :=
  let base := logBase racemode
  if base = 0 then s
  else
    match s.unitWalk owner base with
    | .page e big =>
      match entryKey e big base true false with
      | none => s
      | some key =>
        let s1 := s.settle none (key / 64)
        let n := (s1.mem.dword key).toNat
        let s2 := s1.logWrite g owner agent l key (bytesOfNat 8 (n + 1))
        let va := base + 64 + 64 * (n % logCount racemode)
        match s2.unitWalk owner va with
        | .page e2 big2 =>
          match entryKey e2 big2 va true false with
          | some k2 => s2.logWrite g owner agent l k2 (rec8.flatMap (fun w => bytesOfNat 8 w.toNat))
          | none => s2
        | _ => s2
    | _ => s

/-! ### Descriptor bytes (R92, R94) -/

/-- STATE's code (R95). -/
def SState.code : SState → Nat
  | .free => 0
  | .admitted => 1
  | .ready => 2
  | .running => 3
  | .waitingAction => 4
  | .frozen => 5
  | .migratedStub => 6
  | .retired => 7

/-- Dword i of a stream descriptor, 0 to 11 (R94). -/
def Stream.dword (d : Stream) (i : Nat) : Word :=
  let b (x : Bool) (n : Nat) := if x then 2 ^ n else 0
  BitVec.ofNat 64 (match i with
  | 0 => b d.hzn 60 + b d.roshare 58 + b d.pruned 57 + b d.child 56 + d.parent * 2 ^ 32 + d.jgroup * 2 ^ 16
         + d.prio * 2 ^ 12 + d.gen * 16 + d.state.code
  | 1 => if d.state = .free then 0 else (d.fwd.getD (Config.nodeAddress d.root)).toNat
  | 2 => d.pagesUsed * 2 ^ 32 + d.resv
  | 3 => d.steps * 2 ^ 32 + d.horizon
  | 4 => d.qbase.toNat
  | 5 => d.qtail * 2 ^ 32 + d.qhead * 256 + d.qlog
  | 6 => d.template.toNat
  | 7 => d.position * 2 ^ 16 + d.node
  | 8 => d.gkey.toNat
  | 9 => d.gpos * 2 ^ 24 + d.draw
  | 10 => d.retval.toNat
  | _ => d.ckdie * 2 ^ 16 + d.ckcl * 2 ^ 9 + b d.ckv 3 + d.ckslot)

/-- The byte of a descriptor's bytes 0x00-0x5F at a key; none for any other key (R92). -/
def State.descByte (s : State) (key : Nat) : Option Byte :=
  let va := key - 5 * space
  let o := va % 128
  if 5 * space + 0x00FD000000000000 ≤ key ∧ key < 5 * space + 0x00FE000000000000 ∧ o < 0x60 then
    some (BitVec.ofNat 8 (((s.stream (va % 2 ^ 31 / 128)).dword (o / 8)).toNat / 256 ^ (o % 8)))
  else none

/-- Bytes at a key as the home holds them: descriptor bytes 0x00-0x5F come from the descriptors (R92). -/
def State.homeBytes (s : State) (key n : Nat) : List Byte :=
  if 5 * space ≤ key then (List.range n).map (fun i => (s.descByte (key + i)).getD (s.mem.byte (key + i))) else s.mem.bytes key n

/-- Whether accesses to a key are race-checked (R92, R123). -/
def keyChecked (key : Nat) (write : Bool) : Bool :=
  let va := key - 5 * space
  if 5 * space ≤ key then write || (decide (0x00FD000000000000 ≤ va) && decide (0x60 ≤ va % 128)) else true

/-! ### Accesses of a context -/

/-- The request of the issuing context. -/
def ctxReq (s : State) (key size : Nat) (read write atomic : Bool) (scope : Nat) (tag : Option Nat) : Req :=
  let (g, k) := s.cur
  let c := s.ctx g k
  { agent := ctxAgent g k, l := c.l, h := c.h, epoch := c.epoch, scope := scope, atomic := atomic, key := key, size := size,
    read := read, write := write, tag := tag }

/-- Wait until the log of the issuing context is translated and its lines are free (R358); RACE.CLOCK, with the access's address, where its
stores cannot be given times (R361). -/
def needLog (va : Word) : M Unit := do
  let c ← myCtx
  let s ← get
  match s.logWay (s.ownerOf s.cur.1 s.cur.2) 0 (ctxAgent s.cur.1 s.cur.2) c.l c.racemode with
  | .clock => trap 0x0A6 va
  | .absent va => do
    let _ ← translateFor va true false
    pure ()
  | .held line => waitAnd (fun s => s.askHost line)
  | .ready => pure ()

/-- The address of the lowest word of an access, at `va`, to which a note of a cause applies (R409): its first byte there. -/
def State.raceAddr (s : State) (r : Req) (va : Word) (cause : Nat) : Word :=
  match s.metaFor r.line r.epoch with
  | none => va
  | some m =>
    match r.words.find? (fun w => (m.notesOf r w).any (fun n => !n.advisory && decide (n.cause = cause))) with
    | some w => if r.key % 64 < 8 * w then va + BitVec.ofNat 64 (8 * w - r.key % 64) else va
    | none => va

/-- Take an access's place at its home port: RACE.CLOCK, the race check by the context's mode, the clocks and the
metadata (R326, R349, R350, R356, R357, R361). `pc` is the instruction's address. Gives the access's time. -/
def homeAccess (r : Req) (va : Word) (pc : Word) : M Nat := do
  let s ← get
  let (g, k) := s.cur
  let c := s.ctx g k
  let t := r.time (s.line r.line)
  trapIf (decide (clockLimit ≤ t)) 0x0A6 va
  let v : Verdict := if keyChecked r.key r.write then s.raceCheck r else { race := none, adv := none }
  let m := (s.metaFor r.line r.epoch).getD { epoch := r.epoch }
  let kind := if r.read && r.write then 2 else if r.write then 1 else 0
  let record (cause : Nat) (adv rpt : Bool) :=
    raceRecord m r cause kind adv rpt pc.toNat va.toNat c.stream.toNat (s.superstep g)
  let report := c.racemode.getLsbD 0
  match v.race with
  | some cause =>
    needLog va
    if report then
      modify (fun s => s.appendLog g (s.ownerOf g k) r.agent r.l c.racemode (record cause false true))
    else throw (.trap { cause := cause, tval := s.raceAddr r va cause, race := record cause false false })
  | none =>
    match v.adv with
    | some cause =>
      if c.racemode.getLsbD 2 then do
        needLog va
        modify (fun s => s.appendLog g (s.ownerOf g k) r.agent r.l c.racemode (record cause true report))
      else pure ()
    | none => pure ()
  modify (fun s => (if keyChecked r.key r.write then s.recordAccess r t else s).sawClock t)
  modify (fun s => { s with lines := s.lines.set r.line ((s.line r.line).timed r t s.dev.lease) })
  onMyCtx (fun c => { c with l := t })
  return t

/-- Wait for an engine or the host that holds the line, and bring its placed data home (R271, R330-R332); the core's own queued
data stay in the queue where `mine` says so (R274). -/
def settleMineFor (mine : Bool) (line : Nat) : M Unit := do
  let s ← get
  if s.engineHolds line then waitAnd (fun s => s.askHost line) else pure ()
  modify (fun s => s.settleFor (some s.cur.1) mine line)

/-- Wait for who holds the line, and bring its placed data home (R271, R330-R332). -/
def settleMine (line : Nat) : M Unit := settleMineFor false line

/-- A line as the issuing core sees it once settled: its own dirty copy, but for a descriptor's bytes, else the home's bytes. -/
def State.lineData (s : State) (g key n : Nat) : List Byte :=
  match (s.core g).cline (key / 64) with
  | some l =>
    if !l.dirty then s.homeBytes key n
    else if 5 * space ≤ key then (List.range n).map (fun i => (s.descByte (key + i)).getD (l.data.getD (key % 64 + i) 0))
    else (l.data.drop (key % 64)).take n
  | none => s.homeBytes key n

/-- Whether a plain load hits a read copy, and its time then (R329). -/
def readHit (s : State) (r : Req) (l : CLine) : Option Nat :=
  let t := loadTime l.wts l.wid r.agent r.l
  if !l.dirty && decide (t ≤ l.rts) && decide (s.clk < l.granted + 4096) then some t else none

/-- Whether a read of a line of HBM4E waits for ever (R280). -/
def State.starves (s : State) (owner line : Nat) : Bool := s.starvesFor 0 owner line

/-- Wait where a read of the issuing context's owner finds no slot (R280). -/
def needSlot (line : Nat) : M Unit := do
  let s ← get
  if s.starves (s.ownerOf s.cur.1 s.cur.2) line then wait else pure ()

/-- A byte of the record of the node whose ticket a context's core holds, where a parameter reference stands there: that of the value which
the node uses (R83, R91, log 52). -/
def State.recordByte (s : State) (g k a : Nat) : Option Byte :=
  match (s.ctx g 0).ticket with
  | none => none
  | some t =>
    if (s.ctx g k).launch ≠ some (t.slot, t.epoch) then none
    else
      match (s.caravan t.die).byTicket t.num with
      | none => none
      | some i =>
        let base := i.entry.addr.toNat
        if base + 16 ≤ a ∧ a < base + 64 ∧ (i.entry.words.getD 0 0).getLsbD (24 + (a - base - 16) / 8) then
          (bytesOfNat 8 (i.entry.words.getD ((a - base) / 8) 0).toNat)[(a - base) % 8]?
        else none

/-- The bytes that a load of the issuing context at an address gives, of those that memory holds there (R83). -/
def State.recordBytes (s : State) (va : Nat) (bs : List Byte) : List Byte :=
  (List.range bs.length).zip bs |>.map (fun b => (s.recordByte s.cur.1 s.cur.2 (va + b.1)).getD b.2)

/-- Whether a poisoned line is still so for a core: no store of its own has written the line whole in CWAY (R516). -/
def State.poisonedFor (s : State) (g line : Nat) : Bool :=
  s.poison.contains line && !(((s.core g).cline line).map (fun l => l.dirty && l.whole)).getD false

/-- Whether a load's bytes overlap an entry of a core's queue (R271). -/
def Core.overlaps (c : Core) (key size : Nat) : Bool :=
  c.wlq.any (fun e => e.bytes.any (fun b => decide (key ≤ b.1) && decide (b.1 < key + size)))

/-- A load of at most 16 bytes at a memory key (R271, R273, R326, R329): `plain` loads may hit and leave read copies; a line that the
core holds dirty becomes the most recently used. A copy in error is LM.ECC (R515, log 29). -/
def loadKey (key size : Nat) (va pc : Word) (plain : Bool) (atomic : Bool) (scope : Nat) : M (List Byte) := do
  let s0 ← get
  let g := s0.cur.1
  let line := key / 64
  if (s0.core g).overlaps key size then modify (fun s => s.acceptFor g line (s.core g).wlq) else pure ()
  let s ← get
  let r := ctxReq s key size true false atomic scope none
  let hit := match (s.core g).cline line with
    | some l => if plain && decide (scope < 5) then (readHit s r l).map (fun t => (t, l)) else none
    | none => none
  match ((s.core g).cline line).bind (·.bad) with
  | some off => trap 0x049 (BitVec.ofNat 64 off)
  | none => pure ()
  match hit with
  | some (t, l) => do
    trapIf (s.poisonedFor g line) 0x066 va
    trapIf (decide (clockLimit ≤ t)) 0x0A6 va
    onMyCtx (fun c => { c with l := t })
    modify (fun s => s.cwayPut g l)
    return s.recordBytes va.toNat ((l.data.drop (key % 64)).take size)
  | none => do
    settleMine line
    let s ← get
    trapIf (s.poisonedFor g line) 0x066 va
    if (((s.core g).cline line).map (·.dirty)).getD false then pure () else needSlot line
    let _ ← homeAccess r va pc
    let s ← get
    let data := s.lineData g key size
    let ln := s.line line
    let whole := s.lineData g (line * 64) 64
    let dirty := ((s.core g).cway.find? (fun l => l.line = line && l.dirty))
    if dirty.isSome then modify (fun s => s.onCore g (fun c =>
      { c with cway := c.cway.filter (fun l => l.line ≠ line) ++ dirty.toList }))
    else if plain && decide (0 < (s.core g).cwayRoom) && decide (key < 5 * space) then
      modify (fun s => s.cwayPut g {
        line := line, data := whole, dirty := false, granted := s.clk, wts := ln.wts, rts := ln.rts, wid := ln.wid,
        dirtiers := [], owner := s.ownerOf g s.cur.2 })
    else pure ()
    return s.recordBytes va.toNat data

/-- A load from another core's local memory, or the own core's by this way (R160, R253, R289). -/
def remoteLoad (core off size : Nat) (va : Word) : M (List Byte) := do
  let s ← get
  if decide (core = s.cur.1) && (List.range size).any (fun i => s.bankBusy core (bankOf (off + i))) then wait else pure ()
  let owner := s.ownerOf s.cur.1 s.cur.2
  let c := s.core core
  trapIf (decide (c.mode (bankOf off) ≠ 0) || decide (c.tag (bankOf off) ≠ owner)) 0x063 va
  trapIf (s.localBad core off size) 0x066 (va + BitVec.ofNat 64 (s.firstBad core off size))
  return s.mem.bytes (localKey core off) size

/-- A plain load of a context (R289). -/
def loadBytes (va : Word) (size : Nat) (aval pc : Word) : M (List Byte) := do
  match ← locate va size false aval with
  | .zero => return List.replicate size 0
  | .remote core off => remoteLoad core off size va
  | .mem key => loadKey key size va pc true false 4

/-- A plain load of an 8-byte word. -/
def loadDword (va : Word) (aval pc : Word) : M Word := do
  let bs ← loadBytes va 8 aval pc
  return BitVec.ofNat 64 (natOfBytes bs)

/-- A table of bytes from a key upwards. -/
def byteTable (key : Nat) (bs : List Byte) : Table Byte := (List.range bs.length).zip bs |>.map (fun b => (key + b.1, b.2))

/-- Whether a store of this scope stays in the core's CWAY (R159, R272). -/
def Core.keepsStore (c : Core) (scope : Nat) : Bool := decide (scope < 4) && decide (0 < c.cwayRoom)

/-- Bytes a store to a line is charged for: none when it stays in CWAY, the whole line when it merges with a dirty one
(R272, R273). -/
def storeCharge (c : Core) (line size scope : Nat) : Nat :=
  if c.keepsStore scope then 0
  else if ((c.cline line).map (·.dirty)).getD false then 64 else size

/-- Put a checked store's data where its scope sends it (R272-R274), at time t; `n` bytes are charged for it. A store that stays in
CWAY first reads a line that is not there. -/
def putStore (key : Nat) (bs : List Byte) (scope t n : Nat) (va : Word) : M Unit := do
  let line := key / 64
  let c ← myCore
  if c.keepsStore scope then do
    modify (fun s => s.acceptFor s.cur.1 line (s.core s.cur.1).wlq)
    if (c.cline line).isSome then pure () else needSlot line
  else pure ()
  let s ← get
  let (g, k) := s.cur
  let core := s.core g
  let old := s.lineData g (line * 64) 64
  let new := (List.range 64).map (fun i =>
    if key % 64 ≤ i ∧ i < key % 64 + bs.length then bs.getD (i - key % 64) 0 else old.getD i 0)
  let prev := core.cline line
  let cl : CLine := { line := line, data := new, dirty := true, granted := s.clk, wts := t, rts := t, wid := ctxAgent g k,
                      dirtiers := s.storer line :: ((prev.map (·.dirtiers)).getD []).filter (· ≠ s.storer line), owner := s.ownerOf g k,
                      whole := (prev.map (·.whole)).getD false }
  if core.keepsStore scope then
    modify (fun s => (s.cwayPut g cl))
    modify (fun s => { s with lines := s.lines.set line { s.line line with held := some (.core g) } })
  else if (prev.map (·.dirty)).getD false then
    onMyCore (fun c => { c with cway := c.cway.filter (fun x => x.line ≠ line) })
    modify (fun s => { s with lines := s.lines.set line { s.line line with held := none } })
    enqueue line (lineBytes line new) true (cl.dirtiers.drop 1) n va id cl.whole
  else enqueue line (byteTable key bs) false [] n va

/-- A store of at most 16 bytes at a memory key (R283 orders 6-8, R290). -/
def storeKey (key : Nat) (bs : List Byte) (va pc : Word) (scope : Nat) (atomic : Bool) (tag : Option Nat) : M Unit := do
  let line := key / 64
  settleMineFor true line
  let core ← myCore
  let n := storeCharge core line bs.length scope
  if core.keepsStore scope then pure () else takeBudget n va
  putStore key bs scope 0 n va
  let s ← get
  let t ← homeAccess (ctxReq s key bs.length false true atomic scope tag) va pc
  onMyCore (fun c => { c with cway := c.cway.map (fun l => if l.line = line && l.dirty then { l with wts := t, rts := t } else l) })

end Sys2Proof.Machine
end

