-- ==== Sys2Proof/Machine/Issue.lean ====
section
/-! DEFINITION. Issuing one core instruction (R63, R147, R149, R409, R411): the decode checks in their order, the queue
conditions, the body, and what a trap or a wait leaves; and fetching the instruction (R182-R185). -/
namespace Sys2Proof.Machine

/-- What an instruction's body is given: its address, the address after it, word 0 and extended word 1 for the trap frame,
its effective extended fields, and operand a for %tval (R409). -/
structure Env where
  pc    : Word
  next  : Word
  word0 : Lane
  word1 : Lane
  e     : Ext
  aval  : Word
  deriving DecidableEq, Repr

/-- Length in bytes of an instruction (R49). -/
def instrBytes (i : Instr) : Nat := 4 * (encode i).length

/-- The environment of an instruction issued by a context. -/
def envOf (s : State) (g k : Nat) (i : Instr) : Env :=
  let c := s.ctx g k
  let ws := encode i
  { pc := c.pc, next := c.pc + BitVec.ofNat 64 (instrBytes i), word0 := ws.headD 0,
    word1 := if ws.headD 0 &&& 1 = 1 then (ws.drop 1).headD 0 else 0, e := extOf i,
    aval := match operandA i with
      | some code => c.peek (s.place g k) code
      | none => 0 }

/-- Whether an opcode may issue on a front end (R65). -/
def feAllows (f : FrontEnds) (fe : FE) : Bool :=
  match f, fe with
  | .both, _ => true
  | .a, .a => true
  | .x, .x => true
  | _, _ => false

/-- The decode faults of R63 orders 3 to 6 for an instruction on a front end. -/
def decodeCause (i : Instr) (fe : FE) : Option Nat :=
  if !i.formOk then some 0x002
  else if !((i.spec.map (fun p => feAllows p.fe fe)).getD true) then some 0x003
  else if !i.rsvdOk then some 0x004
  else if queueDirBad i fe then some 0x005
  else none

/-- A trap of the instruction at the head of context (g, k), taken from state s, in which the instruction had no effect
(R8, R409) and popped nothing (R59). A race record of precise mode is also logged (R356). -/
def State.trapAt (s : State) (g k : Nat) (v : Env) (t : TrapInfo) : State :=
  let s := (s.unpop g k).unadmit g k
  let c := s.ctx g k
  let s1 := if t.race = [] then s else s.appendLog g (s.ownerOf g k) (ctxAgent g k) c.l c.racemode t.race
  let words := BitVec.ofNat 64 (v.word0.toNat + v.word1.toNat * 2 ^ 32)
  (s1.takeTrap g k t.cause false false (if t.next then v.next else v.pc) t.tval words t.race).tick 1

/-- The kind of a MEM record for an instruction of rows 4 and 5: 0 load, 1 store, 2 read-modify-write, 3 one that makes no
access; none for the other rows (R435). -/
def memKind (i : Instr) : Option Nat :=
  match i with
  | .ld _ | .vld _ | .vgath _ | .pref _ | .lda _ | .lda2 _ => some 0
  | .st _ | .vst _ | .vscat _ | .strel _ => some 1
  | .amo _ | .cas _ | .cas2 _ | .afadd _ => some 2
  | .wlq _ | .wlwait _ | .fence _ => some 3
  | _ => none

/-- Append the MEM record of a completed instruction (R435). Of an instruction that makes no access the spec gives no
payload: a free value (log 5). -/
def State.traceMem (s : State) (g k : Nat) (i : Instr) : State :=
  match memKind i, s.seen with
  | none, _ => s
  | some kind, some (va, n) => s.trace g k 3 (BitVec.ofNat 64 (kind % 3 * 2 ^ 62 + Nat.log2 n * 2 ^ 59 + va.toNat % 2 ^ 56))
  | some _, none => { s with free := s.free + 1 }.trace g k 3 (Config.freeValue s.free)

/-- Whether the core's control context has arrived with SYNC and not yet left it (R411). -/
def State.inSync (s : State) (g : Nat) : Bool :=
  match (s.core g).domain with
  | some d => (s.domainOf d).arrived.any (fun a => a.1 = g) || (s.domainOf d).released.any (fun a => a.1 = g)
  | none => false

/-- Whether an instruction's macro-operation lacks room in its queue: it has not issued (R252). -/
def State.lacksRoom (s : State) (g : Nat) (i : Instr) : Bool :=
  match i with
  | .mloadb _ => !(s.engine (clusterOf g)).room true
  | .mtile _ | .macc _ | .mread _ | .msoft _ => !(s.engine (clusterOf g)).room false
  | _ => false

/-- Whether a context is at an instruction boundary while this instruction waits (R152, R252, R411). -/
def waitBoundary (i : Instr) (s : State) (g : Nat) : Bool :=
  match i with
  | .nwait _ | .hwait _ | .waitph _ | .waitsig _ | .cpwait _ | .cpseal _ | .cpq _ | .nmfence _ | .mwait _ | .wlwait _ | .wlq _
  | .xwait _ | .fpush _ | .fpop _ | .mscale _ | .endHelper _ => true
  | .sync _ => !s.inSync g
  | _ => s.lacksRoom g i

/-- The block of an address. -/
def blockOf (va : Word) : Word := BitVec.ofNat 64 (va.toNat / 64 * 64)

/-- The context issues from the block of its PC, which becomes the most recent of its fetch buffer (R182). -/
def Ctx.touched (c : Ctx) : Ctx :=
  match c.fbuf.find? (fun b => b.va = blockOf c.pc) with
  | some b => { c with fbuf := { b with issued := true } :: c.fbuf.filter (fun x => x.va ≠ b.va) }
  | none => c

/-- What a wait leaves behind, and whether the context is at a boundary meanwhile. -/
def waitEffect (i : Instr) (g k : Nat) (f : State → State) (s : State) : State :=
  let room := !(f s).lacksRoom g i
  ((f s).passReplay (f s).myWaiter).onCtx g k
    (fun c => { (if room then c.touched else c) with mid := !(waitBoundary i (f s) g), qFrom := none, unissued := !room })

/-- What an instruction that is not ready leaves behind: the context stands before it, at a boundary (R138, R411). -/
def unreadyEffect (g k : Nat) (s : State) : State := s.onCtx g k (fun c => { c with mid := false, qFrom := none, unissued := true })

/-- The queue sources of an instruction that has issued and waits are popped (R147). -/
def State.takePops (s : State) (g k : Nat) (i : Instr) : State :=
  let c := s.ctx g k
  if s.lacksRoom g i then s
  else ((operandSources i).filter isQueue).foldl (fun s q =>
    match (s.core g).queue c.qset (queueIndex q) with
    | [] => s
    | v :: r =>
      (s.onCore g (fun x => x.setQueue c.qset (queueIndex q) r)).onCtx g k
        (fun c => { c with popped := c.popped ++ [(queueIndex q, v)] })) s

/-- A wait for queues alone: since when (R150). -/
def queueWait (g k : Nat) (s : State) : State :=
  s.onCtx g k (fun c => { c with mid := false, qFrom := some (c.qFrom.getD s.clk), unissued := true })

/-- Run a body whose checks passed: its effects and the next PC, or its trap, or its wait. -/
def runBody (i : Instr) (s : State) (g k : Nat) (v : Env) (body : Env → M Unit) : State :=
  match (body v).run ({ s with seen := none }.onCtx g k (fun c => { c.touched with pc := v.next })) with
  | .ok (_, t) => (t.traceMem g k i).retired g k
  | .error (.trap t) => s.trapAt g k v t
  | .error (.wait f) => (s.waiting g k (waitEffect i g k f)).takePops g k i
  | .error .unready => s.waiting g k (unreadyEffect g k)

/-- Issue an instruction on the context whose turn it is; one that waited is tried again with what it popped (R147). -/
def issue (i : Instr) (body : Env → M Unit) (s : State) : Host.Outcome State Fault Refusal :=
  let g := s.cur.1
  let k := s.cur.2
  let c := s.ctx g k
  let v := envOf s g k i
  match decodeCause i c.fe with
  | some cause => .next (s.trapAt g k v { cause := cause, tval := v.word0.setWidth 64 })
  | none =>
    let s := s.unpop g k
    match queueVerdict (s.core g) (s.ctx g k) i with
    | .noSet => .next (s.trapAt g k v { cause := 0x0E7, tval := v.aval })
    | .ended q => .next (s.trapAt g k v { cause := 0x0E8, tval := q.setWidth 64 })
    | .blocked _ => .next (s.waiting g k (queueWait g k))
    | .ready => .next (runBody i s g k v body)

/-! ### Fetching (R182-R185) -/

/-- What fetching gives: bytes from the PC to the end of its block, a trap, a page that is not present, or a read that waits for its page's
entry or for a slot (R113, R280). -/
inductive Fetched where
  | bytes (bs : List Byte) (s : State)
  | fault (cause : Nat) (tval : Word)
  | absent
  | held
  deriving DecidableEq, Repr

/-- The set of an instruction cache in which a block lies (R183). -/
def codeSet (key : Nat) : Nat := key / 64 % 256

/-- Put a block into a cache of 256 sets of 16 ways: the least recently used block of a full set goes (R183). -/
def insertCode (b : CodeBlock) (blocks : List CodeBlock) : List CodeBlock :=
  let mine := blocks.filter (fun x => codeSet x.key = codeSet b.key)
  match if mine.length < 16 then none else mine.getLast? with
  | some v => b :: blocks.erase v
  | none => b :: blocks

/-- Put a block into a cluster's cache; the error of a block that gives way leaves with it (R185). -/
def State.cacheCode (s : State) (cl : Nat) (b : CodeBlock) : State :=
  let blocks := insertCode b (s.icache.get [] cl)
  let stays (e : Nat × Nat × Nat) : Bool := decide (e.1 ≠ cl) || blocks.any (fun x => decide ((x.owner, x.key) = e.2))
  { s with icache := s.icache.set cl blocks, dev := { s.dev with icBad := s.dev.icBad.filter stays } }

/-- A physical block for an owner through the cluster's instruction cache (R183, log 12): a hit makes the block the most recently used; a
read of memory waits where it finds no slot (R280); an uncorrectable error of the block that is read is FET.POISON (R185). -/
def State.icacheBlock (s : State) (cl owner key : Nat) (va : Word) : Fetched :=
  let blocks := s.icache.get [] cl
  match blocks.find? (fun b => decide (b.key = key) && decide (b.owner = owner)) with
  | some b =>
    if s.dev.icBad.contains (cl, owner, key) then .fault 0x023 va
    else .bytes b.bytes { s with icache := s.icache.set cl (b :: blocks.erase b) }
  | none =>
    let s1 := s.settle none (key / 64)
    let b : CodeBlock := { key := key, owner := owner, bytes := s1.mem.bytes key 64 }
    if s.starves owner (key / 64) then .held
    else if s1.poison.contains (key / 64) then .fault 0x023 va
    else .bytes b.bytes (s1.cacheCode cl b)

/-- Put a block into a context's fetch buffer of four (R182). -/
def State.fillBlock (s : State) (g k : Nat) (va : Word) (bs : List Byte) : State :=
  s.onCtx g k (fun c => { c with fbuf := ({ va := va, bytes := bs } :: c.fbuf.filter (fun b => b.va ≠ va)).take 4 })

/-- Read the block that holds an address for a context, through the caches (R183, R185). -/
def State.fetchBlock (s : State) (g k : Nat) (va : Word) : Fetched :=
  let a := (blockOf va).toNat
  match regionOf a with
  | none => .fault 0x064 va
  | some .translated =>
    let cl := clusterOf g
    let owner := s.ownerOf g k
    if (s.ctx g k).xfail = some (pageOf a) then .fault 0x062 va
    else if s.stillHeld owner a (ctxAgent g k) then .held
    else
      let (w, s1) := s.translate cl owner a
      match w with
      | .absent => .absent
      | .malformed => .fault 0x063 va
      | .page e big =>
        match entryKey e big a false true with
        | none => .fault 0x063 va
        | some key => s1.icacheBlock cl owner key va
  | some _ => .fault 0x063 va

/-- Fetch at a context's PC: from its fetch buffer, else through the instruction cache (R182). -/
def State.fetch (s : State) (g k : Nat) : Fetched :=
  let c := s.ctx g k
  match c.fbuf.find? (fun b => b.va = blockOf c.pc) with
  | some b => .bytes (b.bytes.drop (c.pc.toNat % 64)) s
  | none =>
    match s.fetchBlock g k c.pc with
    | .bytes bs s1 => .bytes (bs.drop (c.pc.toNat % 64)) (s1.fillBlock g k (blockOf c.pc) bs)
    | r => r

/-- The instruction at a context's PC, where its fetch buffer holds it. -/
def Ctx.atPc (c : Ctx) : Option Instr :=
  match c.fbuf.find? (fun b => b.va = blockOf c.pc) with
  | none => none
  | some b =>
    match decode (b.bytes.drop (c.pc.toNat % 64)) with
    | .ok (i, _) => some i
    | .error _ => none

/-! ### The register cache (R142-R145) -/

/-- The lines of a context's image that hold its current window and its g registers (R144). -/
def Ctx.pinLines (x : Ctx) : List Nat :=
  let first := (0x4400 + 8 * x.wbase) / 64
  let last := (0x4400 + 8 * x.wbase + 255) / 64
  8 :: 9 :: ((List.range 5).map (first + ·)).filter (· ≤ last)

/-- Whether a line of a context's image is pinned: the lines of a resident context's window and its two g lines (R144); those of a
context on the other shelf are not (R145, R420). -/
def Core.pinned (c : Core) (e : Nat × Nat) : Bool :=
  let x := c.ctx (e.1 % 16)
  decide (e.1 / 16 = c.shelf) && x.live && x.resident && x.pinLines.contains e.2

/-- A line becomes the most recent of the cache; a line that is not pinned and is the least recent gives way (R144). -/
def Core.cacheLine (c : Core) (e : Nat × Nat) : Core :=
  let rest := c.rcache.filter (· ≠ e)
  let victim := if rest.length < 96 then none else rest.reverse.find? (fun x => !c.pinned x)
  { c with rcache := e :: (rest.filter (fun x => some x ≠ victim)).take 95 }

/-- The pinned lines of a context that the cache does not hold. -/
def Core.lacks (c : Core) (k : Nat) : List Nat := (c.ctx k).pinLines.filter (fun l => !c.rcache.contains (c.cacheKey k, l))

/-- The pinned lines are fetched before an instruction issues (R144, R196). -/
def State.pinLines (s : State) (g k : Nat) : State :=
  match (s.core g).lacks k with
  | [] => s
  | ls => s.onCore g (fun c => ls.foldl (fun c l => c.cacheLine (c.cacheKey k, l)) c)

/-- SYS.IMAGE (R407, R409): %tval is operand a of the instruction at the PC, where the fetch buffer holds one. -/
def State.imageTrap (s : State) (g k : Nat) : State :=
  let c := s.ctx g k
  let tval := match c.atPc with
    | some i => (envOf s g k i).aval
    | none => 0
  (s.onCtx g k (fun c => { c with poisoned := false })).takeTrap g k 0x1E7 false false c.pc tval 0 []

end Sys2Proof.Machine
end

