-- ==== Sys2Proof/Machine/Posted.lean ====
section
/-! DEFINITION. Updates of barrier objects (R374-R376) and posted writes with their journal (R307-R310). -/
namespace Sys2Proof.Machine

/-! ### Barrier objects -/

/-- The fields of a barrier object (R374). -/
structure BarObj where
  parr   : Nat
  earr   : Nat
  phase  : Nat
  pbytes : Nat
  ebytes : Nat
  racc   : Nat
  rpub   : Nat
  deriving DecidableEq, Repr

/-- Read a barrier object of a core. -/
def State.barObj (s : State) (g off : Nat) : BarObj :=
  let d (i : Nat) : Nat := (s.mem.dword (localKey g (off + 8 * i))).toNat
  { parr := d 0 / 2 ^ 48, earr := d 0 / 2 ^ 32 % 2 ^ 16, phase := d 0 % 2 ^ 32, pbytes := d 1 / 2 ^ 32,
    ebytes := d 1 % 2 ^ 32, racc := d 2 % 2 ^ 48, rpub := d 3 % 2 ^ 48 }

/-- The 32 bytes of a barrier object. -/
def BarObj.bytes (b : BarObj) : List Byte :=
  bytesOfNat 8 (b.parr * 2 ^ 48 + b.earr * 2 ^ 32 + b.phase) ++ bytesOfNat 8 (b.pbytes * 2 ^ 32 + b.ebytes)
    ++ bytesOfNat 8 b.racc ++ bytesOfNat 8 b.rpub

/-- The updates of one clk applied together, with one test (R375). -/
def BarObj.apply (b : BarObj) (us : List BarUpdate) : BarObj :=
  let parr := min 65535 (b.parr + (us.map (·.arrivals)).sum)
  let pbytes := min (2 ^ 32 - 1) (b.pbytes + (us.map (·.bytes)).sum)
  let ebytes := b.ebytes + (us.map (·.expected)).sum
  let racc := us.foldl (fun a u => max a u.p) b.racc
  if b.earr ≤ parr ∧ ebytes ≤ pbytes then
    { b with rpub := max b.rpub racc, racc := 0, phase := (b.phase + 1) % 2 ^ 32, parr := 0, pbytes := 0, ebytes := 0 }
  else { b with parr := parr, pbytes := pbytes, ebytes := ebytes % 2 ^ 32, racc := racc }

/-- Whether an update finds its bank SPAD and tagged with its owner (R375). -/
def State.barFits (s : State) (g : Nat) (u : BarUpdate) : Bool :=
  decide ((s.core g).mode (bankOf u.off) = 0) && decide ((s.core g).tag (bankOf u.off) = u.owner)

/-- The watch slots of a core, in ascending order, that fire on an event (R443): those of an object with a SIG bit for which
the test holds of their EVENT. -/
def Core.watching (c : Core) (obj : Nat) (sig : Bool) (test : Nat → Bool) : List Nat :=
  [0, 1, 2, 3].filter (fun i =>
    let w := c.trace.watch.get {} i
    w.ctl.getLsbD 6 && w.ctl.getLsbD 4 = sig && decide (w.obj = obj) && test (w.ctl.toNat / 4 % 4))

/-- A watch slot fires (R435, R443): its count, its record, which is the launch's on the core (R437), and the freeze. `val` is the payload's high part. -/
def State.fireWatch (s : State) (g i val : Nat) : State :=
  let w := (s.core g).trace.watch.get {} i
  let p := BitVec.ofNat 64 (val % 2 ^ 32 * 2 ^ 32 + i * 2 ^ 18 + w.ctl.toNat / 4 % 4 * 2 ^ 16 + w.low % 2 ^ 16)
  (s.traceFor (s.ownerOf g 0) g w.ctx 6 p).onCore g (fun c => { c with trace := { c.trace with
    watch := c.trace.watch.set i { w with fired := w.fired + 1 }, frozen := c.trace.frozen || w.ctl.getLsbD 5 } })

/-- The firings of a barrier object's update from `b` to `b2` by updates with `n` arrivals in all (R443). -/
def State.fireBar (s : State) (g off n : Nat) (b b2 : BarObj) : State :=
  let flip := decide (b.phase ≠ b2.phase)
  let test (e : Nat) : Bool :=
    match e with
    | 0 => decide (0 < n)
    | 1 => decide (b.parr < b.earr) && decide (b.earr ≤ b.parr + n)
    | _ => flip
  ((s.core g).watching off false test).foldl (fun s i => s.fireWatch g i b2.phase) s

/-- The firings when a SIGNAL that wrote `val` is placed at a word's home port, or at a word of a stream page that its watch found
unmapped (R443). -/
def State.fireSignal (s : State) (key val : Nat) : State :=
  s.cores.foldl (fun s gc => (gc.2.watching key true (fun _ => true)).foldl (fun s i => s.fireWatch gc.1 i val) s) s

/-- Updates reach an object: they are applied with those that wait there, with one test (R375). -/
def State.updateBar (s : State) (g off : Nat) (us : List BarUpdate) : State :=
  let all := ((s.core g).barq.filter (fun u => u.off = off) ++ us).filter (s.barFits g)
  let s1 := s.onCore g (fun c => { c with barq := c.barq.filter (fun u => u.off ≠ off) })
  if all.isEmpty then s1
  else
    let b2 := (s.barObj g off).apply all
    (s1.localWrite g off b2.bytes).fireBar g off (all.map (·.arrivals)).sum (s.barObj g off) b2

/-- Apply the updates that wait at objects of a bank, before its mode changes (R175, R375). -/
def State.drainBar (s : State) (g bank : Nat) : State :=
  ((s.core g).barq.filter (fun u => bankOf u.off = bank)).foldl (fun s u => s.updateBar g u.off []) s

/-- Whether a phase number is satisfied (R376). -/
def BarObj.satisfies (b : BarObj) (n : Nat) : Bool :=
  let d := (b.phase + 2 ^ 32 - n % 2 ^ 32) % 2 ^ 32
  decide (1 ≤ d) && decide (d ≤ 2 ^ 31)

/-! ### Posted writes -/

/-- The lowest free entries of a core's journal (R308). -/
def Core.freeEntries (c : Core) : List Nat := (List.range 32).filter (fun i => (c.journal.get {} i).state = .free)

/-- Change a journal entry. -/
def Core.onEntry (c : Core) (i : Nat) (f : JEntry → JEntry) : Core := { c with journal := c.journal.set i (f (c.journal.get {} i)) }

/-- A journal entry's status word (R308). -/
def JEntry.status (e : JEntry) : Word :=
  BitVec.ofNat 64 (e.ctx * 2 ^ 36 + e.reason * 2 ^ 32 + e.ty * 2 ^ 24 + e.fn * 2 ^ 20 + (if e.seq then 2 ^ 19 else 0)
    + e.kind * 2 ^ 16 + (match e.state with | .free => 0 | .pending => 1 | .refused => 2))

/-- Whether every journal entry of a context is acknowledged or refused (R310). -/
def State.journalQuiet (s : State) (g k : Nat) : Bool :=
  (List.range 32).all (fun i =>
    let e := (s.core g).journal.get {} i
    !(decide (e.state = .pending) && decide (e.ctx = k)))

/-- Admission of a posted store of n bytes (R276, R277, R290, R319): its charge, and the queue entry that it must find. -/
def admitPosted (n : Nat) (va : Word) : M Unit := do
  takeBudget n va
  needEntry n va

/-- Send one posted write of the issuing context to the core that an address names, by a free journal entry, whose index it
gives (R308). -/
def postWrite (va : Word) (bs : List Byte) (ty jkind fn : Nat) (kind : PostedKind) : M Nat := do
  let s ← get
  let (g, k) := s.cur
  match (s.core g).freeEntries with
  | [] => unready
  | i :: _ =>
    let core := (va.toNat - 0x00F0000000000000) / 65536
    let seq := match kind with
      | .store => false
      | .arith _ _ _ q => q.isSome
    let e : JEntry := { state := .pending, addr := va, value := BitVec.ofNat 64 (natOfBytes bs), ctx := k, ty := ty, fn := fn,
                        kind := jkind, seq := seq, org := s.originOf g k }
    let p : Posted := { src := .journal g k i, source := .inl g, owner := s.ownerOf g k, off := va.toNat % 65536, bytes := bs, kind := kind }
    modify (fun s => (s.onCore g (fun c => c.onEntry i (fun _ => e))).onCore core (fun c => { c with inbox := c.inbox ++ [p] }))
    return i

/-- Two posted writes of which the later must wait for the earlier: of one context (R310), or of one copy in row-major order
(R307). -/
def Posted.blocks (a b : Posted) : Bool :=
  match a.src, b.src with
  | .journal g k _, .journal h l _ => decide (g = h) && decide (k = l)
  | .copy c i _ _, .copy d j _ _ => decide (c = d) && decide (i = j)
  | _, _ => false

/-- The number of a SEQ update (R307). -/
def Posted.seqNum (p : Posted) : Option Nat :=
  match p.kind with
  | .arith _ _ _ n => n
  | .store => none

/-- Whether one SEQ update must be applied before another: from the same source to the same bank, with a lower number (R307). -/
def Posted.seqBefore (a b : Posted) : Bool :=
  match a.seqNum, b.seqNum with
  | some m, some n => decide (m < n) && decide (a.source = b.source) && decide (bankOf a.off = bankOf b.off)
  | _, _ => false

/-- Whether the interface takes an update after those in `seen` (R307): of its source it holds fewer than 16 early arrivals at every
bank, or the update is the one that a bank's early arrivals wait for (log 47). `early` tells them. -/
def windowTakes (early : Posted → Bool) (seen : List Posted) (p : Posted) : Bool :=
  let held (b : Nat) : Nat := (seen.filter (fun q => decide (q.source = p.source) && decide (bankOf q.off = b) && q.seqNum.isSome && early q)).length
  (List.range 128).all (fun b => decide (held b < 16) || (p.seqNum.isSome && decide (bankOf p.off = b)))

/-- The first posted write in a list of arrivals that satisfies a test and has none to wait for; `early` tells SEQ updates that wait for
ones not yet sent (R307, R310). -/
def firstReady (want early : Posted → Bool) (all : List Posted) : List Posted → List Posted → Option Posted
  | _, [] => none
  | seen, p :: r =>
    let waits (q : Posted) : Bool := early q || all.any (fun a => a.seqBefore q)
    if want p && !waits p && !seen.any (fun q => q.blocks p) && windowTakes waits seen p then some p
    else firstReady want early all (p :: seen) r

/-- Whether a write of a core's own context waits for a bank that the matrix engine uses (R253). -/
def State.bankHeld (s : State) (g : Nat) (p : Posted) : Bool :=
  match p.src with
  | .journal h _ _ => decide (h = g) && (List.range p.bytes.length).any (fun i => s.bankBusy g (bankOf (p.off + i)))
  | .copy _ _ _ _ => false

/-- Why a destination refuses a posted write (R308, R309); none when it takes it. -/
def State.postedReason (s : State) (g : Nat) (p : Posted) : Option Nat :=
  if s.dev.gated.contains (clusterOf g) then some 3
  else if (s.core g).mode (bankOf p.off) ≠ 0 then some 1
  else if (s.core g).tag (bankOf p.off) ≠ p.owner then some 2
  else if s.localBad g p.off p.bytes.length then some 4
  else none

/-- One application of destination arithmetic (R307): an element and an operand of a type. -/
def arithApply (fn ty : Nat) (sat : Bool) (old new : Nat) : Nat :=
  if tyFloat ty then
    let f := fmtOf ty
    match fn with
    | 0 => f.ofVal .rne 0 false ((f.value old).add .rne (f.value new))
    | 1 => f.ofVal .rne 0 false ((f.value old).minMax false (f.value new))
    | _ => f.ofVal .rne 0 false ((f.value old).minMax true (f.value new))
  else
    let v (c : Nat) : Int := intOf (tySigned ty) (tyBits ty) c
    match fn with
    | 0 => intResult (tySigned ty) (tyBits ty) sat (v old + v new)
    | 1 => intCode (tyBits ty) (min (v old) (v new))
    | _ => intCode (tyBits ty) (max (v old) (v new))

/-- The bytes that a posted write leaves at its destination. -/
def State.postedBytes (s : State) (g : Nat) (p : Posted) : List Byte :=
  match p.kind with
  | .store => p.bytes
  | .arith fn ty sat _ =>
    bytesOfNat p.bytes.length (arithApply fn ty sat (natOfBytes (s.mem.bytes (localKey g p.off) p.bytes.length)) (natOfBytes p.bytes))

/-- The answer to a posted write reaches its journal entry, or the copy that sent it: a refusal stops the copy and drops its
later updates (R304, R309); the spec names no cause for that stop, so it is a free value (log 5). -/
def State.answer (s : State) (g : Nat) (p : Posted) (reason : Option Nat) : State :=
  match p.src with
  | .journal h _ e => s.onCore h (fun c => c.onEntry e (fun e => { e with reply := some (reason.getD 0) }))
  | .copy cl id r c =>
    match reason with
    | none =>
      { s with jobs := s.jobs.set cl ((s.jobs.get [] cl).map (fun (j : CopyJob) => if j.id = id then { j with left := j.left - 1 } else j)) }
    | some _ =>
      let cause := (Config.freeValue s.free).toNat % 512
      { s with free := s.free + 1, jobs := s.jobs.set cl ((s.jobs.get [] cl).map (fun (j : CopyJob) =>
          if j.id = id then { j with left := 0, fail := some (cause, r, c) } else j)) }.onCore g
        (fun x => { x with inbox := x.inbox.filter (fun q => match q.src with
          | .copy cl2 id2 _ _ => !(decide (cl2 = cl) && decide (id2 = id))
          | _ => true) })

/-- A posted write is applied at its destination and answered, or refused there without effect (R307, R309, R310). -/
def State.applyPosted (s : State) (g : Nat) (p : Posted) : State :=
  let s1 := s.onCore g (fun c => { c with inbox := c.inbox.erase p })
  match s.postedReason g p with
  | some r => s1.answer g p (some r)
  | none => (s1.localWrite g p.off (s.postedBytes g p)).answer g p none

/-- An acknowledgement frees a journal entry (R308). -/
def State.ackEntry (s : State) (g i : Nat) : State :=
  let e := (s.core g).journal.get {} i
  if e.state = .pending ∧ e.reply = some 0 then s.onCore g (fun c => c.onEntry i (fun _ => {})) else s

/-- A refusal marks a journal entry and makes PST.REFUSED pending at its context (R309). -/
def State.refuseEntry (s : State) (g i : Nat) : State :=
  let e := (s.core g).journal.get {} i
  match e.reply with
  | some r =>
    if e.state = .pending ∧ r ≠ 0 then
      (s.onCore g (fun c => c.onEntry i (fun e => { e with state := .refused, reason := r, reply := none }))).post e.org (.refused i)
    else s
  | none => s

/-- The posted write of a core's journal entry i is applied at its destination and acknowledged (R308). -/
def State.finishEntry (s : State) (g i : Nat) : State :=
  let h := (((s.core g).journal.get {} i).addr.toNat - 0x00F0000000000000) / 65536
  match (s.core h).inbox.find? (fun p => match p.src with | .journal a _ e => decide (a = g) && decide (e = i) | _ => false) with
  | some p => (s.applyPosted h p).ackEntry g i
  | none => s.ackEntry g i

/-- Post one lane of a vector store, and give the entries of the lanes posted so far, the oldest first. A store of more lanes than the journal
has entries finds all of them free; when it has filled them, its own lanes are applied and acknowledged in their order (R310, log 2),
but one for a bank that the matrix engine uses is waited for (R253). -/
def postLane (va : Word) (x : Lane) (sent : List Nat) : M (List Nat) := do
  let s ← get
  let g := s.cur.1
  if (s.core g).freeEntries = [] && (s.core g).inbox.any (s.bankHeld g) then wait else pure ()
  let free (s : State) : Bool := decide ((s.core g).freeEntries ≠ [])
  set (sent.foldl (fun s i => if free s then s else s.finishEntry g i) s)
  let i ← postWrite va (bytesOfNat 4 x.toNat) 2 0 0 .store
  return sent.filter (· ≠ i) ++ [i]

end Sys2Proof.Machine
end

