-- ==== Sys2Proof/Machine/GlobalAccess.lean ====
section
/-! DEFINITION. Row 4 of the opcode map: global loads and stores (R289-R293), PREF, WLQ and WLWAIT (R294-R296). -/
namespace Sys2Proof.Machine

/-- LD (R289). -/
def execLd (x : IFields) (s : State) : Host.Outcome State Fault Refusal :=
  issue (.ld x) (fun v => do
    let a ← src x.a
    let ty := v.e.ty.toNat
    let bs ← loadBytes (a + x.imm) (tyBytes ty) v.aval v.pc
    dst x.d (extendTy ty (natOfBytes bs))) s

/-- Post the pieces of a store in order (R290). -/
def postAll (ty : Nat) : List (Word × List Byte) → M Unit
  | [] => pure ()
  | (a, b) :: r => do
    let _ ← postWrite a b ty 0 0 .store
    postAll ty r

/-- Store bytes at an address: where its scope sends them, or posted to another core's local memory (R272, R290). `posts`
gives the pieces of a posted store. -/
def storeBytes (va : Word) (bs : List Byte) (ty scope : Nat) (posts : List (Word × List Byte)) (v : Env) : M Unit := do
  match ← locate va bs.length true v.aval with
  | .zero => pure ()
  | .remote _ _ => do
    admitPosted bs.length va
    postAll ty posts
  | .mem key => storeKey key bs va v.pc scope false none

/-- ST (R290). -/
def execSt (x : IFields) (s : State) : Host.Outcome State Fault Refusal :=
  issue (.st x) (fun v => do
    let a ← src x.a
    let d ← src x.d
    let va := a + x.imm
    let ty := v.e.ty.toNat
    if v.e.f2 then do
      let d1 ← src (x.d + 1)
      let lo := bytesOfNat 8 d.toNat
      let hi := bytesOfNat 8 d1.toNat
      storeBytes va (lo ++ hi) ty v.e.sc.toNat [(va, lo), (va + 8, hi)] v
    else do
      let bs := bytesOfNat (tyBytes ty) d.toNat
      storeBytes va bs ty v.e.sc.toNat [(va, bs)] v) s

/-! ### Vector accesses of the pair partner (R291-R293) -/

/-- The registers of the context that a core number stands for as a partner: one parked on the other shelf has no lanes (R226,
R420). -/
def Core.partnerCtx (c : Core) (set k : Nat) : Ctx :=
  if c.boundHere set .x = some k then c.ctx k else { c.other.get {} k with grant := 0 }

/-- The partner of the issuing context: CPL.NOQ without a set, VEC.PAIR without a live X context in it (R291). -/
def partner (v : Env) : M (Nat × Ctx) := do
  let c ← myCtx
  trapIf (decide (c.qset = 6)) 0x0E7 v.aval
  let core ← myCore
  match core.bound c.qset .x with
  | some k => return (k, core.partnerCtx c.qset k)
  | none => trap 0x103 v.aval

/-- Active lanes with their addresses: contiguous, or indexed by a register of the partner (R292, R293). -/
def vectorLanes (p : Ctx) (x : VFields) (v : Env) (base : Word) (indexed : Bool) : List (Nat × Word) :=
  (p.active x.m).map (fun i =>
    (i, base + v.e.imm32.signExtend 64 + (if indexed then (p.laneB x (·.setWidth 32) i).signExtend 64 else BitVec.ofNat 64 (4 * i))))

/-- Whether two addresses lie in two regions, or in the local memories of two cores (R268). -/
def straddles (a b : Word) : Bool :=
  regionOf a.toNat ≠ regionOf b.toNat
    || (decide (regionOf a.toNat = some .remote) && decide (a.toNat / 65536 ≠ b.toNat / 65536))

/-- Orders 1-5 of R283 for every lane in ascending order (R292); GM.STRADDLE for contiguous accesses. -/
def locateLanes (write : Bool) (first : Option Word) (aval : Word) : List (Nat × Word) → M (List (Nat × Word × Loc))
  | [] => return []
  | (i, va) :: r => do
    trapIf (decide (regionOf va.toNat = none) || decide (regionOf (va.toNat + 3) = none)) 0x064 va
    match first with
    | some f => trapIf (straddles f va || straddles f (va + 3)) 0x065 va
    | none => pure ()
    let loc ← locate va 4 write aval
    let rest ← locateLanes write first aval r
    return (i, va, loc) :: rest

/-- Read the lanes in ascending order into a register of the partner. -/
def readLanes (k vd : Nat) (pc : Word) : List (Nat × Word × Loc) → M Unit
  | [] => pure ()
  | (i, va, loc) :: r => do
    let bs ← (match loc with
      | .zero => pure (List.replicate 4 0)
      | .remote core off => remoteLoad core off 4 va
      | .mem key => loadKey key 4 va pc true false 4)
    modify (fun s => s.onCtx s.cur.1 k (·.setLane vd i (BitVec.ofNat 32 (natOfBytes bs))))
    readLanes k vd pc r

/-- Bytes a vector store is charged for (R292): a lane 4, none where CWAY keeps it; a line dirty in CWAY 64 once. -/
def vectorCharge (c : Core) (scope : Nat) (locs : List Loc) : Nat :=
  let keys := locs.filterMap (fun l => match l with | .mem k => some k | _ => none)
  let remotes := (locs.filter (fun l => match l with | .remote _ _ => true | _ => false)).length
  let dirty (k : Nat) : Bool := ((c.cline (k / 64)).map (·.dirty)).getD false
  4 * remotes + (if c.keepsStore scope then 0
    else 64 * (((keys.filter dirty).map (· / 64)).dedup).length + 4 * (keys.filter (fun k => !dirty k)).length)

/-- The addresses of the lanes of a vector store for which it takes a queue entry, in lane order (R274, R277): lanes stay in CWAY, join the
entry of the lane before them, or the youngest entry. A posted lane leaves its entry at once. -/
def State.entryLanes (s : State) (scope : Nat) : Option Nat → List (Nat × Word × Loc) → List Word
  | _, [] => []
  | last, (_, va, loc) :: r =>
    match loc with
    | .zero => s.entryLanes scope last r
    | .remote _ _ => s.entryLanes scope last r
    | .mem key =>
      let line := key / 64
      if (s.core s.cur.1).keepsStore scope || decide (last = some line)
          || (last.isNone && joins (s.core s.cur.1).wlq line (s.storer line)) then
        s.entryLanes scope (if (s.core s.cur.1).keepsStore scope then last else some line) r
      else va :: s.entryLanes scope (some line) r

/-- The lanes of a vector store that are posted. -/
def postedLanes (locs : List (Nat × Word × Loc)) : List Word :=
  locs.filterMap (fun l => match l.2.2 with
    | .remote _ _ => some l.2.1
    | _ => none)

/-- The one admission of orders 6 and 7 (R292): its charge of n bytes, the queue entries that its lanes take, or one for a lane that is posted,
and the journal entries of those (R277, R308). Of more lanes than there are entries the first fill them (log 2). %tval of WL.FULL is the
lane that lacks an entry (R409). -/
def admitVector (n scope : Nat) (locs : List (Nat × Word × Loc)) : M Unit := do
  let s ← get
  let core ← myCore
  if core.freeEntries.length < min 32 (postedLanes locs).length then unready else pure ()
  if n = 0 then pure ()
  else do
    takeBudget n ((locs.head?.map (·.2.1)).getD 0)
    let lanes := s.entryLanes scope none locs
    let takes := if lanes = [] then (postedLanes locs).take 1 else lanes
    needEntries (min 16 takes.length) n (takes.getD (16 - core.wlq.length) 0)

/-- Room for one more lane of an admitted vector store: its own earlier entries depart first (R274, log 2). -/
def makeRoom (line : Nat) : M Unit := modify (fun s =>
  if joins (s.core s.cur.1).wlq line (s.storer line) then s else s.makeRoom s.cur.1)

/-- Store the lanes in ascending order, each checked at its home (R292); `sent` are the journal entries of the lanes posted so far. -/
def writeLanes (p : Ctx) (va0 : Nat) (scope : Nat) (pc : Word) (sent : List Nat) : List (Nat × Word × Loc) → M Unit
  | [] => pure ()
  | (i, va, loc) :: r => do
    let x := p.lane va0 i
    match loc with
    | .zero => writeLanes p va0 scope pc sent r
    | .remote _ _ => do
      let sent2 ← postLane va x sent
      writeLanes p va0 scope pc sent2 r
    | .mem key => do
      settleMineFor true (key / 64)
      makeRoom (key / 64)
      putStore key (bytesOfNat 4 x.toNat) scope 0 0 va
      let s ← get
      let t ← homeAccess (ctxReq s key 4 false true false scope none) va pc
      onMyCore (fun c => { c with cway := c.cway.map (fun l => if l.line = key / 64 && l.dirty then { l with wts := t, rts := t } else l) })
      writeLanes p va0 scope pc sent r

/-- The lines that a vector store writes whole. -/
def wholeLines (locs : List (Nat × Word × Loc)) : List Nat :=
  let keys := (locs.filterMap (fun l => match l.2.2 with | .mem k => some k | _ => none)).dedup
  ((keys.map (· / 64)).dedup).filter (fun line => decide ((keys.filter (fun k => k / 64 = line)).length = 16))

/-- A store that has written lines whole: they are poisoned no more once they come home, from the core's CWAY or its queue (R516). -/
def State.storedWhole (s : State) (g : Nat) (lines : List Nat) : State :=
  let s1 := s.onCore g (fun c => { c with
    cway := c.cway.map (fun (l : CLine) => if l.dirty && lines.contains l.line then { l with whole := true } else l),
    wlq := c.wlq.map (fun (e : WlqEntry) => if lines.contains e.line then { e with whole := true } else e) })
  let home (l : Nat) : Bool := !((s1.core g).cway.any (fun x => x.dirty && decide (x.line = l)) || (s1.core g).wlq.any (fun e => decide (e.line = l)))
  { s1 with poison := s1.poison.filter (fun l => !(lines.contains l && home l)) }

/-- A vector load (R292, R293). -/
def vectorLoad (x : VFields) (v : Env) (indexed : Bool) : M Unit := do
  let (k, p) ← partner v
  let base ← src v.e.c
  let lanes := vectorLanes p x v base indexed
  let locs ← locateLanes false (if indexed then none else lanes.head?.map (·.2)) v.aval lanes
  readLanes k x.vd.toNat v.pc locs

/-- A vector store (R292, R293). -/
def vectorStore (x : VFields) (v : Env) (indexed : Bool) : M Unit := do
  let (_, p) ← partner v
  let base ← src v.e.c
  let lanes := vectorLanes p x v base indexed
  let locs ← locateLanes true (if indexed then none else lanes.head?.map (·.2)) v.aval lanes
  let core ← myCore
  admitVector (vectorCharge core v.e.sc.toNat (locs.map (·.2.2))) v.e.sc.toNat locs
  writeLanes p x.va.toNat v.e.sc.toNat v.pc [] locs
  modify (fun s => s.storedWhole s.cur.1 (wholeLines locs))

/-- VLD (R292). -/
def execVld (x : VFields) (s : State) : Host.Outcome State Fault Refusal := issue (.vld x) (fun v => vectorLoad x v false) s
/-- VST (R292). -/
def execVst (x : VFields) (s : State) : Host.Outcome State Fault Refusal := issue (.vst x) (fun v => vectorStore x v false) s
/-- VGATH (R293). -/
def execVgath (x : VFields) (s : State) : Host.Outcome State Fault Refusal := issue (.vgath x) (fun v => vectorLoad x v true) s
/-- VSCAT (R293). -/
def execVscat (x : VFields) (s : State) : Host.Outcome State Fault Refusal := issue (.vscat x) (fun v => vectorStore x v true) s

/-! ### PREF, WLQ and WLWAIT -/

/-- Fetch a line at a memory key into the issuing core's CWAY, with no event in the order (R294); a line of which data still wait in the
core's own queue is not fetched, and the queue goes on as before (R271, R274). -/
def State.prefetch (s : State) (key : Nat) : State :=
  let (g, k) := s.cur
  let line := key / 64
  if s.engineHolds line || s.poison.contains line || decide ((s.core g).cwayRoom = 0) || ((s.core g).cline line).isSome
      || (s.core g).wlq.any (fun e => decide (e.line = line))
      || decide (5 * space ≤ key) || s.starves (s.ownerOf g k) line then s
  else
    let s1 := s.settle (some g) line
    let ln := s1.line line
    s1.cwayPut g { line := line, data := s1.mem.bytes (line * 64) 64, dirty := false, granted := s1.clk, wts := ln.wts,
                   rts := ln.rts, wid := ln.wid, dirtiers := [], owner := s1.ownerOf g k }

/-- PREF (R294): an address that would fault is ignored. -/
def execPref (x : IFields) (s : State) : Host.Outcome State Fault Refusal :=
  issue (.pref x) (fun v => do
    let a ← src x.a
    let va := a + x.imm
    let s ← get
    match (locate (BitVec.ofNat 64 (va.toNat / 8 * 8)) 8 false 0).run s with
    | .ok (.mem key, s1) =>
      set s1
      if v.e.f2 then pure () else modify (fun s => s.prefetch key)
    | _ => pure ()) s

/-- WLQ.stat (R295). -/
def wlqStat (core : Core) (c : Ctx) (k : Nat) : Word :=
  BitVec.ofNat 64 (c.acks % 65536 * 2 ^ 48 + (core.cway.filter (·.dirty)).length * 2 ^ 16
    + (core.wlq.filter (fun e => e.stores.any (·.by k c.launch))).length * 2 ^ 8 + core.wlq.length)

/-- WLQ (R295). -/
def execWlq (x : RFields) (s : State) : Host.Outcome State Fault Refusal :=
  issue (.wlq x) (fun _ => do
    let core ← myCore
    let c ← myCtx
    let (_, k) ← me
    if x.fn = 0 then dst x.d (wlqStat core c k)
    else do
      let a ← src x.a
      if core.wlq.length + min a.toNat 16 ≤ 16 then pure () else wait) s

/-- Write back the lines that some storers of a core dirtied, and let their queue entries and those before them depart and be
accepted (R273, R274, R296). -/
def State.flushStores (s : State) (g : Nat) (who : Storer → Bool) : State :=
  let lines := (s.core g).cway.filter (fun l => l.dirty && l.dirtiers.any who)
  let s1 := lines.foldl (fun s l => s.writeBack g l) s
  (s1.core g).wlq.foldl (fun s e => if ((s.core g).wlq.any (fun x => x.stores.any who)) then
    (s.acceptEntry g e).onCore g (fun c => { c with wlq := c.wlq.drop 1 }) else s) s1

/-- Write back and send home what a context stored. -/
def State.flushMine (s : State) (g k : Nat) : State := s.flushStores g (·.by k (s.ctx g k).launch)

/-- Whether every store of a context has reached the visibility point of a scope, once flushed (R278). -/
def State.visible (s : State) (g k scope : Nat) : Bool :=
  (decide (scope < 4) || !s.array.any (fun w => decide (w.core = g) && w.by_.any (·.by k (s.ctx g k).launch) && !w.near))
    && (decide (scope < 5) || decide ((s.ctx g k).acks = 0))

/-- WLWAIT (R296). -/
def execWlwait (x : RFields) (s : State) : Host.Outcome State Fault Refusal :=
  issue (.wlwait x) (fun v => do
    let (g, k) ← me
    let scope := v.e.sc.toNat
    if scope < 2 then pure ()
    else do
      modify (fun s => s.flushMine g k)
      let s ← get
      if s.visible g k scope then pure () else waitAnd (fun s => s.flushMine g k)) s

end Sys2Proof.Machine
end

