-- ==== Sys2Proof/Machine/Atomics.lean ====
section
/-! DEFINITION. Row 5 of the opcode map (R364-R373), and the atomic accesses that row 6 shares (R365, R382). -/
namespace Sys2Proof.Machine

/-- The P that R345 assigns to the words of a request: the tag of an atomic write, or the floor. -/
def State.acquiredP (s : State) (r : Req) : Option Nat :=
  match s.metaFor r.line r.epoch with
  | none => none
  | some m =>
    r.words.foldl (fun acc w =>
      let slot := if m.map.getD w 0 = 1 then m.w0 else m.w1
      let p : Option Nat :=
        match m.map.getD w 0 with
        | 0 => none
        | 3 => some m.floor
        | _ => if slot.atomic then some slot.tag else none
      match acc, p with
      | some a, some b => some (max a b)
      | none, b => b
      | a, none => a) none

/-- Acquire what an acquire form found, and the import clocks at scope sys (R338, R342, R366). -/
def acquireForm (p : Option Nat) (scope : Nat) (va : Word) : M Unit := do
  match p with
  | some x => acquire x va
  | none => pure ()
  if scope = 5 then do
    let s ← get
    acquire (max (max (s.imports.get 0 0) (s.imports.get 0 1)) (max (s.imports.get 0 2) (s.imports.get 0 3))) va
  else pure ()

/-- The part of a release form before its access (R366): the acknowledgements at scope sys, then the release. -/
def releaseForm (scope : Nat) (va : Word) : M Nat := do
  let c ← myCtx
  if scope = 5 ∧ c.acks ≠ 0 then wait else pure ()
  release va

/-- Where an atomic access lands: SYN.NCOH in the 0x00F0 region, else R283 (R365). -/
def locateAtomic (va : Word) (size : Nat) (write : Bool) (aval : Word) : M Loc := do
  trapIf (decide (regionOf va.toNat = some .remote)) 0x0C1 aval
  locate va size write aval

/-- What brings a line home for an atomic access: queued data, other cores' dirty lines, and the core's own (R365). -/
def State.settleAtomic (s : State) (line : Nat) : State :=
  let g := s.cur.1
  let s1 := s.settle (some g) line
  match (s1.core g).cline line with
  | some l => if l.dirty then let s2 := s1.writeBack g l; s2.acceptFor g line (s2.core g).wlq else s1
  | none => s1

/-- Wait for who holds the line, and bring its placed data home, the core's own dirty line too (R365). -/
def settleAtomic (line : Nat) : M Unit := do
  settleMine line
  modify (·.settleAtomic line)

/-- A row 5 load, which is an acquire (R365, R370). Gives the value as a number. Where `ready` is given, the value is read at its home
port again and again, without an event, until it holds of it (R382). -/
def atomicLoad (va : Word) (size scope : Nat) (v : Env) (ready : Nat → Bool := fun _ => true) : M Nat := do
  match ← locateAtomic va size false v.aval with
  | .zero => return 0
  | .remote _ _ => return 0
  | .mem key => do
    settleAtomic (key / 64)
    needSlot (key / 64)
    let s ← get
    trapIf (s.poison.contains (key / 64)) 0x066 va
    if ready (natOfBytes (s.homeBytes key size)) then pure () else wait
    let r := ctxReq s key size true false true scope none
    let p := s.acquiredP r
    let _ ← homeAccess r va v.pc
    let s ← get
    acquireForm p scope va
    return natOfBytes (s.homeBytes key size)

/-- A read-modify-write or atomic store at its home port (R365, R366, R368): `f` gives the new value from the old one. The
old value is the result. -/
def atomicWrite (va : Word) (size scope : Nat) (reads acq rel : Bool) (f : Nat → Nat) (v : Env) : M Nat := do
  match ← locateAtomic va size true v.aval with
  | .zero => return 0
  | .remote _ _ => return 0
  | .mem key => do
    let tag ← if rel then (releaseForm scope va >>= fun p => pure (some p)) else pure none
    settleAtomic (key / 64)
    if reads then needSlot (key / 64) else pure ()
    let s ← get
    trapIf (reads && s.poison.contains (key / 64)) 0x066 va
    let old := natOfBytes (s.homeBytes key size)
    takeBudget size va (·.settleAtomic (key / 64))
    enqueue (key / 64) (byteTable key (bytesOfNat size (f old))) false [] size va (·.settleAtomic (key / 64))
    let s ← get
    let r := ctxReq s key size reads true true scope tag
    let p := s.acquiredP r
    let _ ← homeAccess r va v.pc
    onMyCore (fun c => { c with cway := c.cway.filter (fun l => l.line ≠ key / 64) })
    if acq then acquireForm p scope va else pure ()
    return old

/-- The address of an R-format atomic (R364). -/
def atomicAddr (x : RFields) (v : Env) : M Word := do
  let a ← src x.a
  return a + v.e.imm32.signExtend 64

/-- AMO's new value (R367). -/
def amoResult (fn ty old new : Nat) : Nat :=
  let w := tyBits ty
  let i (c : Nat) : Int := intOf (tySigned ty) w (c % 2 ^ w)
  match fn with
  | 0 => new % 2 ^ w
  | 1 => (old + new) % 2 ^ w
  | 2 => (old &&& new) % 2 ^ w
  | 3 => (old ||| new) % 2 ^ w
  | 4 => (old ^^^ new) % 2 ^ w
  | 5 => if i new < i old then new % 2 ^ w else old
  | _ => if i old < i new then new % 2 ^ w else old

/-- AMO (R367). -/
def execAmo (x : RFields) (s : State) : Host.Outcome State Fault Refusal :=
  issue (.amo x) (fun v => do
    let va ← atomicAddr x v
    let b ← src x.b
    let ty := v.e.ty.toNat
    let old ← atomicWrite va (tyBytes ty) v.e.sc.toNat true (v.e.sub.getLsbD 0) (v.e.sub.getLsbD 1)
      (fun o => amoResult x.fn.toNat ty o b.toNat) v
    dst x.d (putOf ty old)) s

/-- CAS (R368). -/
def execCas (x : RFields) (s : State) : Host.Outcome State Fault Refusal :=
  issue (.cas x) (fun v => do
    let va ← atomicAddr x v
    let b ← src x.b
    let c ← src v.e.c
    let ty := v.e.ty.toNat
    let w := tyBits ty
    let old ← atomicWrite va (tyBytes ty) v.e.sc.toNat true (v.e.sub.getLsbD 0) (v.e.sub.getLsbD 1)
      (fun o => if o = c.toNat % 2 ^ w then b.toNat % 2 ^ w else o) v
    dst x.d (putOf ty old)) s

/-- A register pair as 128 bits, the low dword first (R364). -/
def srcPair (code : BitVec 6) : M Nat := do
  let lo ← src code
  let hi ← src (code + 1)
  return lo.toNat + hi.toNat * 2 ^ 64

/-- Write a register pair. -/
def dstPair (code : BitVec 6) (v : Nat) : M Unit := do
  dst code (BitVec.ofNat 64 v)
  dstNext code (BitVec.ofNat 64 (v / 2 ^ 64))

/-- CAS2 (R369). -/
def execCas2 (x : RFields) (s : State) : Host.Outcome State Fault Refusal :=
  issue (.cas2 x) (fun v => do
    let va ← atomicAddr x v
    let b ← srcPair x.b
    let c ← srcPair v.e.c
    let old ← atomicWrite va 16 v.e.sc.toNat true (v.e.sub.getLsbD 0) (v.e.sub.getLsbD 1) (fun o => if o = c then b else o) v
    dstPair x.d old) s

/-- LDA (R370). -/
def execLda (x : IFields) (s : State) : Host.Outcome State Fault Refusal :=
  issue (.lda x) (fun v => do
    let a ← src x.a
    let ty := v.e.ty.toNat
    let o ← atomicLoad (a + x.imm) (tyBytes ty) v.e.sc.toNat v
    dst x.d (extendTy ty o)) s

/-- LDA2 (R370). -/
def execLda2 (x : IFields) (s : State) : Host.Outcome State Fault Refusal :=
  issue (.lda2 x) (fun v => do
    let a ← src x.a
    let o ← atomicLoad (a + x.imm) 16 v.e.sc.toNat v
    dstPair x.d o) s

/-- STREL (R371). -/
def execStrel (x : IFields) (s : State) : Host.Outcome State Fault Refusal :=
  issue (.strel x) (fun v => do
    let a ← src x.a
    let d ← src x.d
    let n := tyBytes v.e.ty.toNat
    let _ ← atomicWrite (a + x.imm) n v.e.sc.toNat false false true (fun _ => d.toNat % 2 ^ (8 * n)) v
    pure ()) s

/-- FENCE (R339, R372). -/
def execFence (x : RFields) (s : State) : Host.Outcome State Fault Refusal :=
  issue (.fence x) (fun v => do
    let (g, k) ← me
    let scope := v.e.sc.toNat
    if scope < 2 then pure ()
    else do
      modify (fun s => s.flushMine g k)
      let s ← get
      if s.visible g k scope then pure () else waitAnd (fun s => s.flushMine g k)) s

/-- AFADD (R373). -/
def execAfadd (x : RFields) (s : State) : Host.Outcome State Fault Refusal :=
  issue (.afadd x) (fun v => do
    let va ← atomicAddr x v
    let b ← src x.b
    let old ← atomicWrite va 4 v.e.sc.toNat true (v.e.sub.getLsbD 0) (v.e.sub.getLsbD 1)
      (fun o => f32Add (rmOf v.e.rm) 0 o (b.toNat % 2 ^ 32)) v
    dst x.d (BitVec.ofNat 64 old)) s

end Sys2Proof.Machine
end

