-- ==== Sys2Proof/Machine/Barriers.lean ====
section
/-! DEFINITION. Row 6 of the opcode map: barrier objects (R377-R381), signals (R382), barrier domains and supersteps
(R383-R388). -/
namespace Sys2Proof.Machine

/-! ### Barrier objects -/

/-- The checks of a local barrier object named by a register (R377): its offset. -/
def barAt (a : Word) : M Nat := do
  trapIf (decide (2 ^ 19 ≤ a.toNat)) 0x042 a
  trapIf (decide (winOf a ≠ 0)) 0x043 a
  trapIf (decide (a.toNat % 32 ≠ 0)) 0x045 a
  checkSpad [offOf a] a
  return offOf a

/-- A local barrier object that an instruction reads (R377): its offset, the bank retagged for the issuer first (R160). -/
def barOperand (a : Word) : M Nat := do
  let off ← barAt a
  let _ ← localGet off 32 a
  return off

/-- Apply an update to a local object in this clk, with those that wait there (R375). -/
def updateMine (off arrivals expected p : Nat) : M Unit :=
  modify (fun s =>
    let (g, k) := s.cur
    s.updateBar g off [{ off := off, arrivals := arrivals, bytes := 0, expected := expected, p := p, owner := s.ownerOf g k }])

/-- Wait until every journal entry of the context is answered (R310). -/
def awaitJournal : M Unit := do
  let s ← get
  if s.journalQuiet s.cur.1 s.cur.2 then pure () else wait

/-- BARINIT (R378). -/
def execBarinit (x : RFields) (s : State) : Host.Outcome State Fault Refusal :=
  issue (.barinit x) (fun v => do
    let a ← src x.a
    let b ← src x.b
    let off ← barAt a
    trapIf (decide (2 ^ 48 ≤ b.toNat)) 0x0C2 v.aval
    localPut off (BarObj.bytes { parr := 0, earr := b.toNat % 65536, phase := 0, pbytes := 0, ebytes := b.toNat / 65536 % 2 ^ 32,
                                 racc := 0, rpub := 0 })) s

/-- ARRIVE (R379): on a local object, or by message on one of a core that the address names (R377). -/
def execArrive (x : RFields) (s : State) : Host.Outcome State Fault Refusal :=
  issue (.arrive x) (fun v => do
    let a ← src x.a
    let b ← src x.b
    let bad := decide (b.toNat = 0) || decide (65536 ≤ b.toNat)
    if regionOf a.toNat = some .remote then do
      trapIf (decide (a.toNat % 32 ≠ 0)) 0x061 a
      trapIf bad 0x0C2 v.aval
      awaitJournal
      let p ← release v.aval
      let s ← get
      let h := (a.toNat - 0x00F0000000000000) / 65536
      let u : BarUpdate := { off := a.toNat % 65536, arrivals := b.toNat, bytes := 0, expected := 0, p := p, owner := s.ownerOf s.cur.1 s.cur.2 }
      if decide (h = s.cur.1) && s.bankBusy h (bankOf u.off) then wait else pure ()
      trapIf (!s.barFits h u) 0x0C3 v.aval
      set (s.updateBar h u.off [u])
      dst x.d (BitVec.ofNat 64 (s.barObj h u.off).phase)
    else do
      let off ← barOperand a
      trapIf bad 0x0C2 v.aval
      awaitJournal
      let p ← release v.aval
      let s ← get
      updateMine off b.toNat 0 p
      dst x.d (BitVec.ofNat 64 (s.barObj s.cur.1 off).phase)) s

/-- WAITPH (R380). -/
def execWaitph (x : RFields) (s : State) : Host.Outcome State Fault Refusal :=
  issue (.waitph x) (fun v => do
    let a ← src x.a
    let b ← src x.b
    let off ← barOperand a
    let s ← get
    let o := s.barObj s.cur.1 off
    if o.satisfies (b.toNat % 2 ^ 32) then do
      acquire o.rpub v.aval
      dst x.d (BitVec.ofNat 64 o.phase)
    else waitAnd (fun s => s.retagAll s.cur.1 (s.ownerOf s.cur.1 s.cur.2) off 32)) s

/-- TESTPH (R380). -/
def execTestph (x : RFields) (s : State) : Host.Outcome State Fault Refusal :=
  issue (.testph x) (fun v => do
    let a ← src x.a
    let b ← src x.b
    let off ← barOperand a
    let s ← get
    let o := s.barObj s.cur.1 off
    if o.satisfies (b.toNat % 2 ^ 32) then do
      acquire o.rpub v.aval
      dst x.d 1
    else dst x.d 0) s

/-- EXPECT (R381). -/
def execExpect (x : RFields) (s : State) : Host.Outcome State Fault Refusal :=
  issue (.expect x) (fun v => do
    let a ← src x.a
    let b ← src x.b
    let off ← barOperand a
    let s ← get
    trapIf (decide (2 ^ 32 ≤ b.toNat) || decide (2 ^ 32 ≤ (s.barObj s.cur.1 off).ebytes + b.toNat)) 0x0C2 v.aval
    updateMine off 0 b.toNat 0) s

/-! ### Signals -/

/-- What stands for a word of a stream page that is not mapped, as the object of a watch slot (R443, R449): no key of memory. Another
address has 0, which no signal watch has. -/
def State.windowObj (s : State) (va : Word) : Nat :=
  let off := va.toNat % 2 ^ 48
  if regionOf va.toNat = some .window then 6 * space + handleId (s.ctx s.cur.1 s.cur.2).stream * 2 ^ 48 + off else 6 * space

/-- The watch slots that a SIGNAL at an address fires (R443). -/
def signalSeen (va : Word) (val : Nat) : M Unit := do
  match ← locate va 4 false 0 with
  | .mem key => modify (fun s => (s.fireSignal key val).fireSignal (s.windowObj va) val)
  | _ => pure ()

/-- SIGNAL (R382). -/
def execSignal (x : RFields) (s : State) : Host.Outcome State Fault Refusal :=
  issue (.signal x) (fun v => do
    let va ← atomicAddr x v
    let b ← src x.b
    awaitJournal
    let ty := v.e.ty.toNat
    let old ← atomicWrite va (tyBytes ty) v.e.sc.toNat true false true (fun o => amoResult x.fn.toNat ty o b.toNat) v
    signalSeen va (amoResult x.fn.toNat ty old b.toNat)
    dst x.d (putOf ty old)) s

/-- WAITSIG (R382): no event until the relation holds. -/
def execWaitsig (x : RFields) (s : State) : Host.Outcome State Fault Refusal :=
  issue (.waitsig x) (fun v => do
    let va ← atomicAddr x v
    let b ← src x.b
    let ty := v.e.ty.toNat
    let holds (o : Nat) : Bool := decide (cmpResult x.fn.toNat (tyBits ty) (putOf ty o) b ≠ 0)
    let o ← atomicLoad va (tyBytes ty) v.e.sc.toNat v holds
    if holds o then dst x.d (putOf ty o) else wait) s

/-! ### Barrier domains -/

/-- Member bits of a bitmap: the cores of its set bits, ascending (R388). -/
def bitmapCores (words : List Word) : List Nat :=
  (List.range words.length).flatMap (fun i =>
    ((List.range 64).filter (fun b => (words.getD i 0).getLsbD b)).map (fun b => 64 * i + b))

/-- Configure a domain and its member cores (R383). -/
def State.configDomain (s : State) (d slot epoch : Nat) (members : List Nat) (slots len limit : Nat) : State :=
  let s1 := s.onDomain d (fun _ => { configured := true, slot := slot, epoch := epoch, members := members, slots := slots,
                                     slotLen := len, limit := limit })
  members.foldl (fun s g => s.onCore g (fun c => { c with domain := some d, leftDomain := false, xslot := [] })) s1

/-- Free a domain (R383). -/
def State.freeDomain (s : State) (d : Nat) : State :=
  let ms := (s.domainOf d).members
  (ms.foldl (fun s g => s.onCore g (fun c => { c with domain := none, leftDomain := true })) s).onDomain d (fun _ => {})

/-- Why a domain cannot be configured with these members (R388); none when it can. -/
def State.domainRefusal (s : State) (d : Nat) (members : List Nat) : Option Word :=
  if (s.domainOf d).configured then some (-1)
  else if members.any (fun g => (s.core g).domain.isSome) then some (-2)
  else if members = [] ∨ members.any (fun g => s.dev.gated.contains (clusterOf g)) then some (-3)
  else none

/-- Read n dwords from an address with plain loads in ascending order (R388). -/
def loadDwords (va : Word) (v : Env) : Nat → M (List Word)
  | 0 => return []
  | n + 1 => do
    let w ← loadDword va v.aval v.pc
    let r ← loadDwords (va + 8) v n
    return w :: r

/-- Whether every member's control context is resident (R384). -/
def State.allResident (s : State) (d : Nat) : Bool := (s.domainOf d).members.all (fun g => (s.ctx g 0).resident)

/-- T0 of a superstep whose members have all arrived (R384): 64 clk after the last arrival, or the clk from which every member's control
context was resident again. -/
def State.superstepStart (s : State) (d : Nat) : Nat :=
  let x := s.domainOf d
  x.members.foldl (fun t g => max t (s.ctx g 0).residentAt) (x.last + 64)

/-- The barrier of a superstep completes at T0 (R384): every member has arrived, 64 clk have passed, all are resident. -/
def State.barrierComplete (s : State) (d : Nat) : State :=
  let x := s.domainOf d
  if x.configured && !x.exchanging && decide (x.arrived.length = x.members.length) && decide (s.superstepStart d ≤ s.clk)
      && s.allResident d then
    s.onDomain d (fun x => { x with
      exchanging := true, t0 := s.superstepStart d, dp := x.arrived.foldl (fun m a => max m a.2) 0, sends := [], dropped := [],
      arrived := [], released := x.arrived.map (fun a => (a.1, x.count)) })
  else s

/-- The current exchange slot (R384, R385); none from the last slot's end on. -/
def Domain.slotNow (x : Domain) (clk : Nat) : Option Nat :=
  let i := (clk - x.t0) / x.slotLen
  if i < x.slots then some i else none

/-- What an exchange send brings to one bank of its destination is written there, or dropped (R386). -/
def State.deliverPart (s : State) (d : Nat) (m : ExSend) (off : Nat) (bs : List Byte) : State :=
  if bs = [] then s
  else if (s.core m.dst).mode (bankOf off) ≠ 0 ∨ (s.core m.dst).tag (bankOf off) ≠ m.owner then
    s.onDomain d (fun x => { x with dropped := m.src :: x.dropped })
  else s.localWrite m.dst off bs

/-- An exchange send reaches its destination, in one bank or two (R386). -/
def State.deliverSend (s : State) (d : Nat) (m : ExSend) : State :=
  let n := 512 - m.off % 512
  ((s.onDomain d (fun x => { x with sends := x.sends.erase m })).deliverPart d m m.off (m.bytes.take n)).deliverPart d m (m.off + n) (m.bytes.drop n)

/-- The exchange phase ends once its slots are over and every send is written (R385). -/
def State.phaseEnd (s : State) (d : Nat) : State :=
  let x := s.domainOf d
  if x.configured && x.exchanging && decide (x.t0 + x.slots * x.slotLen ≤ s.clk) && decide (x.sends = []) then
    s.onDomain d (fun x => { x with exchanging := false, count := (x.count + 1) % 2 ^ 32 })
  else s

/-- What a member that waits for the phase's end sees come about by itself (log 2): once the slots are over, the sends are written and the
phase ends. -/
def State.finishPhase (s : State) (d : Nat) : State :=
  let x := s.domainOf d
  if x.exchanging && decide (x.t0 + x.slots * x.slotLen ≤ s.clk) then
    (x.sends.foldl (fun s m => s.deliverSend d m) s).phaseEnd d
  else s

/-- The issuing core's domain, or BSP.NODOM. -/
def myDomain (aval : Word) : M Nat := do
  let core ← myCore
  match core.domain with
  | some d => return d
  | none => trap 0x182 aval

/-- DOMAIN (R388). -/
def execDomain (x : RFields) (s : State) : Host.Outcome State Fault Refusal :=
  issue (.domain x) (fun v => do
    let a ← src x.a
    let d := a.toNat % 64
    if x.fn = 0 then do
      let b ← src x.b
      trapIf (decide (a.toNat / 64 % 4 ≠ 0) || decide (a.toNat / 2 ^ 24 % 256 ≠ 0) || decide (15 < a.toNat / 2 ^ 16 % 256)) 0x185 v.aval
      trapIf (decide (b.toNat % 64 ≠ 0)) 0x061 b
      let words ← loadDwords b v 640
      let s ← get
      let members := bitmapCores words
      match s.domainRefusal d members with
      | some r => dst x.d r
      | none => do
        let _ ← release v.aval
        modify (fun s =>
          let l := ((s.ctx s.cur.1 s.cur.2).launch).getD (0, 0)
          s.configDomain d l.1 l.2 members (a.toNat / 256 % 256 + 1) (16 * (a.toNat / 2 ^ 16 % 256 + 1)) (a.toNat / 2 ^ 32))
        dst x.d 0
    else do
      trapIf (decide (64 ≤ a.toNat)) 0x185 v.aval
      let s ← get
      let t := s.domainOf d
      if x.fn = 1 then
        if !t.configured then dst x.d (-1)
        else if t.exchanging || t.arrived ≠ [] || t.released ≠ [] then dst x.d (-4)
        else do
          let _ ← release v.aval
          modify (fun s => s.freeDomain d)
          dst x.d 0
      else dst x.d (BitVec.ofNat 64 (t.count + t.members.length * 2 ^ 32
        + (if !t.configured then 0 else if t.exchanging then 2 else 1) * 2 ^ 48))) s

/-- SYNC (R384): it arrives once, then waits for T0. -/
def execSync (x : RFields) (s : State) : Host.Outcome State Fault Refusal :=
  issue (.sync x) (fun v => do
    let (g, k) ← me
    trapIf (decide (k ≠ 0)) 0x0E2 v.aval
    let d ← myDomain v.aval
    modify (fun s => s.barrierComplete d)
    let s ← get
    match (s.domainOf d).released.find? (fun r => r.1 = g) with
    | some r => do
      modify (fun s => s.onDomain d (fun t => { t with released := t.released.filter (fun a => a.1 ≠ g) }))
      acquire (s.domainOf d).dp v.aval
      dst x.d (BitVec.ofNat 64 r.2)
    | none =>
      if (s.domainOf d).arrived.any (fun a => a.1 = g) then wait
      else do
        modify (fun s => s.phaseEnd d)
        let s ← get
        let t := s.domainOf d
        trapIf t.exchanging 0x183 v.aval
        if t.limit ≠ 0 ∧ t.count = t.limit then dst x.d (-1)
        else do
          awaitJournal
          let p ← release v.aval
          waitAnd (fun s => ((s.phaseEnd d).onDomain d (fun t => { t with
            arrived := t.arrived ++ [(g, p)], last := s.clk })).onCtx g k (fun c => { c with l := c.l + 1 }))) s

/-- XSEND (R386). -/
def execXsend (x : RFields) (s : State) : Host.Outcome State Fault Refusal :=
  issue (.xsend x) (fun v => do
    let a ← src x.a
    let b ← src x.b
    let (g, k) ← me
    let d ← myDomain v.aval
    modify (fun s => (s.barrierComplete d).phaseEnd d)
    let s ← get
    let t := s.domainOf d
    trapIf (!t.exchanging) 0x183 v.aval
    let core := s.core g
    match t.slotNow s.clk with
    | none => trap 0x181 v.aval
    | some i => trapIf (!(core.xslot.get 0 (i / 64)).getLsbD (i % 64)) 0x181 v.aval
    let to_ := a.toNat / 65536 % 65536
    trapIf (decide (2 ^ 32 ≤ a.toNat) || decide (40960 ≤ to_) || !t.members.contains to_) 0x184 v.aval
    let n := 16 * (x.fn.toNat + 1)
    checkLocal b
    trapIf (decide (winOf b ≠ 0)) 0x043 b
    trapIf (decide (b.toNat % 16 ≠ 0)) 0x045 b
    trapIf (decide (65536 < offOf b + n)) 0x041 b
    match core.notSpad ((List.range n).map (offOf b + ·)) with
    | some o => trap 0x044 (BitVec.ofNat 64 o)
    | none => pure ()
    let off := a.toNat % 65536
    trapIf (decide (off % 16 ≠ 0) || decide (65536 < off + n)) 0x185 v.aval
    let bs ← localGet (offOf b) n b
    modify (fun s => s.onDomain d (fun t => { t with
      sends := t.sends ++ [{ src := g, dst := to_, off := off, bytes := bs, owner := s.ownerOf g k }] }))) s

/-- XWAIT (R387). An XWAIT.slot that has waited completes as its slot begins. -/
def execXwait (x : RFields) (s : State) : Host.Outcome State Fault Refusal :=
  issue (.xwait x) (fun v => do
    let (g, k) ← me
    let d ← myDomain v.aval
    modify (fun s => let u := s.barrierComplete d; if x.fn = 0 then u.phaseEnd d else u.finishPhase d)
    let s ← get
    let t := s.domainOf d
    if x.fn = 0 then do
      let a ← src x.a
      trapIf (!t.exchanging) 0x183 v.aval
      trapIf (decide (t.slots ≤ a.toNat)) 0x185 v.aval
      let waited := (s.ctx g k).waitFrom.isSome && !(s.ctx g k).unissued
      match t.slotNow s.clk with
      | none => dst x.d (if waited then a else BitVec.ofNat 64 t.slots)
      | some i => if a.toNat ≤ i then dst x.d (if waited then a else BitVec.ofNat 64 i) else wait
    else if t.exchanging then wait
    else do
      acquire t.dp v.aval
      dst x.d (BitVec.ofNat 64 (t.count + (if t.dropped.contains g then 2 ^ 32 else 0)))) s

end Sys2Proof.Machine
end

