-- ==== Sys2Proof/Machine/Look.lean ====
section
/-! DEFINITION. What units read through an owner's page table (R90, R173): a value, a page that is not present, or an address that may
not be read. -/
namespace Sys2Proof.Machine

/-- A field of a word: `n` bits from `lo`. -/
def field (w : Word) (lo n : Nat) : Nat := w.toNat / 2 ^ lo % 2 ^ n

/-- What a unit's read through an owner's page table gives: a value, a page that is not present (or a line that cannot be read yet, R280), or an
address that may not be read. -/
inductive Got (α : Type) where
  | ok (a : α)
  | absent (va : Nat)
  | bad
  deriving DecidableEq, Repr

/-- Go on with what was read. -/
def Got.andThen {α β : Type} (g : Got α) (f : α → Got β) : Got β :=
  match g with
  | .ok a => f a
  | .absent va => .absent va
  | .bad => .bad

/-- Whether a read through an owner's page table waits for a slot that its partition never gets (R279, R280). -/
def State.slotWaits (s : State) (owner va : Nat) : Bool :=
  match s.unitWalk owner va with
  | .page e big => ((entryKey e big va false false).map (fun k => s.starves owner (k / 64))).getD false
  | _ => false

/-- Memory key of an address of translated space for an owner (R173, R174); a page for which a unit's read is held waits for the host's
answer (R113), and one of a line that finds no slot waits for that (R280). -/
def State.lookKey (s : State) (owner va : Nat) (write : Bool) : Got Nat :=
  match regionOf va with
  | some .translated =>
    if s.stillHeld owner va caravanWaits || s.stillHeld owner va barchanWaits then .absent va
    else match s.unitWalk owner va with
    | .absent => .absent va
    | .malformed => .bad
    | .page e big =>
      match entryKey e big va write false with
      | some k => if !write && s.starves owner (k / 64) then .absent va else .ok k
      | none => .bad
  | _ => .bad

/-- Memory key of a word that Caravan evaluates (R85, R86, R128): in translated space, the stream table or the gang records (R322). -/
def State.evalKey (s : State) (owner va : Nat) : Got Nat :=
  match regionOf va with
  | some .streamTable | some .gang => .ok (fixedKey va)
  | _ => s.lookKey owner va false

/-- A dword at an address, with everything that is placed in its line (R330). -/
def State.lookDword (s : State) (owner va : Nat) : Got Word :=
  (s.lookKey owner va false).andThen (fun k =>
    .ok (BitVec.ofNat 64 (natOfBytes ((s.settle none (k / 64)).homeBytes k 8))))

/-- n dwords from an address (R90: each is read as it stands). -/
def State.lookDwords (s : State) (owner va : Nat) : Nat → Got (List Word)
  | 0 => .ok []
  | n + 1 => (s.lookDword owner va).andThen (fun w => (s.lookDwords owner (va + 8) n).andThen (fun r => .ok (w :: r)))

/-- A 16-bit index at an address, which may lie across two dwords (R80). -/
def State.lookHalf (s : State) (owner va : Nat) : Got Nat :=
  (s.lookDword owner (va / 8 * 8)).andThen (fun w =>
    if va % 8 = 7 then (s.lookDword owner (va / 8 * 8 + 8)).andThen (fun x => .ok (w.toNat / 2 ^ 56 + x.toNat % 256 * 256))
    else .ok (w.toNat / 2 ^ (8 * (va % 8)) % 65536))

/-- n 16-bit indices from an address (R80). -/
def State.lookHalves (s : State) (owner va : Nat) : Nat → Got (List Nat)
  | 0 => .ok []
  | n + 1 => (s.lookHalf owner va).andThen (fun h => (s.lookHalves owner (va + 2) n).andThen (fun r => .ok (h :: r)))

end Sys2Proof.Machine
end

