-- ==== Sys2Proof/Machine/Barchan.lean ====
section
/-! DEFINITION. Action queues (R98), and what a Barchan engine sends for a frozen stream (R489, R490). -/
namespace Sys2Proof.Machine

/-- Key of byte 0x60 of a descriptor, the first that software may write (R92). -/
def swKey (n : Nat) : Nat := fixedKey (0x00FD000000000000 + n * 128 + 0x60)

/-- Entries that a stream's queue holds (R98). -/
def Stream.held (d : Stream) : Nat := (d.qtail + 2 ^ 24 - d.qhead) % 2 ^ 24
/-- Whether the queue is full. -/
def Stream.full (d : Stream) : Bool := decide (2 ^ d.qlog ≤ d.held)
/-- Address of the entry of a counter value (R98). -/
def Stream.entryAddr (d : Stream) (c : Nat) : Nat := (d.qbase.toNat + 16 * (c % 2 ^ d.qlog)) % 2 ^ 64

/-- The die of a stream's home (R93). -/
def homeDie (n : Nat) : Nat := n % 4

/-- A flit of a transfer (R490). Its TAG is the stream's ID, from which the destination takes the index of the home die (log 23). -/
def Transfer.flit (t : Transfer) (typ : Nat) (bad : Bool) (addr info : Nat) (payload : List Byte) : Flit :=
  { typ := typ, flags := if bad then 1 else 0, len := payload.length, src := BitVec.ofNat 16 homeHere, dst := t.dest,
    tag := BitVec.ofNat 64 t.tag, addr := BitVec.ofNat 64 addr, info := BitVec.ofNat 64 info, payload := payload }

/-- Everything placed in a page is brought home (R330). -/
def State.settlePage (s : State) (page : Nat) : State := (List.range 64).foldl (fun s i => s.settle none (pageKey page 0 / 64 + i)) s

/-- The 128 bytes of a descriptor as a transfer sends them: STATE is the state at the freeze (R489, log 23). -/
def State.descBytes (s : State) (n : Nat) : List Byte :=
  let d := s.stream n
  let sent : Stream := { d with state := d.frozenFrom }
  (List.range 12).flatMap (fun i => bytesOfNat 8 (sent.dword i).toNat) ++ (s.settle none (swKey n / 64)).mem.bytes (swKey n) 32

/-- The page flit of a chunk (R490); a line in error poisons it. -/
def State.pageFlit (s : State) (t : Transfer) (p chunk : Nat) : Flit :=
  let key := pageKey ((s.pageAt t.stream p).getD 0) (128 * chunk)
  t.flit 6 (s.poison.contains (key / 64) || s.poison.contains (key / 64 + 1)) (p * 32 + chunk) 0 (s.mem.bytes key 128)

/-- One action-queue entry as it is sent, and whether it is in error. One that the host does not map, or that may not be read, is sent
as an error (log 23). -/
def State.queueEntry (s : State) (t : Transfer) (va : Nat) : Got (List Byte × Bool) :=
  if t.xfail = some (pageOf va) then .ok (List.replicate 16 0, true)
  else match s.lookKey (s.stream t.stream).owner va false with
  | .absent a => .absent a
  | .bad => .ok (List.replicate 16 0, true)
  | .ok k => let s1 := s.settle none (k / 64); .ok (s1.homeBytes k 16, s1.poison.contains (k / 64))

/-- The entries QHEAD to QTAIL - 1, the first m of them from entry i on. -/
def State.queueEntries (s : State) (t : Transfer) : Nat → Nat → Got (List (List Byte × Bool))
  | 0, _ => .ok []
  | m + 1, i =>
    let d := s.stream t.stream
    (s.queueEntry t (d.entryAddr (d.qhead + i))).andThen (fun e => (s.queueEntries t m (i + 1)).andThen (fun r => .ok (e :: r)))

/-- Queue flits of eight entries each; the first argument bounds their number (R489). -/
def queueFlits (t : Transfer) : Nat → Nat → List (List Byte × Bool) → List Flit
  | 0, _, _ => []
  | m + 1, i, es =>
    if es = [] then []
    else t.flit 7 ((es.take 8).any (·.2)) i 0 ((es.take 8).flatMap (·.1)) :: queueFlits t m (i + 8) (es.drop 8)

/-- Send a frozen stream (R489): open, pages, queue, close. It waits while a page of its queue is not present, or a page of its own moves
(R172), and a part that has tripped sends nothing (R514); the spec gives the engine no agent ID, so the report's is a free value. -/
def State.sendStream (s : State) (t : Transfer) : State :=
  let d := s.stream t.stream
  if t.begun ∨ d.state ≠ .frozen ∨ s.dev.tripped then s
  else if (s.mapped t.stream).any (fun p => ((s.pageAt t.stream p).map s.pageMoving).getD false) then s
  else
    match s.queueEntries t d.held 0 with
    | .absent va =>
      if s.slotWaits d.owner va then s
      else { s with free := s.free + 1 }.holdFaultAs d.owner va (freeAgent s.free) barchanWaits 3 t.slot
    | .bad => s
    | .ok es =>
      let ps := s.mapped t.stream
      let s1 := ps.foldl (fun s p => s.settlePage ((s.pageAt t.stream p).getD 0)) s
      let out := t.flit 5 false 0 d.owner (s1.descBytes t.stream)
        :: (ps.flatMap (fun p => (List.range 32).map (fun c => s1.pageFlit t p c)) ++ queueFlits t es.length 0 es
          ++ [t.flit 8 false 0 (es.length * 2 ^ 32 + ps.length) []])
      { s1 with
        flits := s1.flits ++ out,
        transfers := s1.transfers.map (fun (x : Transfer) => if x.tag = t.tag then { x with begun := true } else x) }

/-- Send every frozen stream whose transfer has not begun. -/
def State.startSends (s : State) : State := s.transfers.foldl (fun s t => s.sendStream t) s

end Sys2Proof.Machine
end

