-- ==== Sys2Proof/Machine/Caravan.lean ====
section
/-! DEFINITION. Graph templates and node records (R78-R91), the ready pool (R114-R117), and completing node instances
(R112, R126, R130, R134). -/
namespace Sys2Proof.Machine

/-! ### Node records (R79-R84) -/

/-- A node record as resolved (R83): dword 0, dword 1 and K0 to K5, with its successors. -/
structure NodeRec where
  w0   : Word
  w1   : Word
  k    : List Word
  succ : List Nat
  /-- Unused successor entries are 0xFFFF and the array offset has no high bits (R80). -/
  succOk : Bool
  deriving DecidableEq, Repr

/-- KIND. -/
def NodeRec.kind (r : NodeRec) : Nat := field r.w0 0 4
/-- PRIO. -/
def NodeRec.prio (r : NodeRec) : Nat := field r.w0 6 2
/-- NPRED. -/
def NodeRec.npred (r : NodeRec) : Nat := field r.w0 8 8
/-- NSUCC. -/
def NodeRec.nsucc (r : NodeRec) : Nat := field r.w0 16 8
/-- TMODE. -/
def NodeRec.tmode (r : NodeRec) : Nat := field r.w0 30 2
/-- TARGET. -/
def NodeRec.target (r : NodeRec) : Nat := field r.w0 32 32
/-- Dword Ki. -/
def NodeRec.kd (r : NodeRec) (i : Nat) : Word := r.k.getD i 0

/-- DIE, CLUSTER and CORE of a TARGET (R19). -/
def targetDie (t : Nat) : Nat := t / 2 ^ 26 % 4
/-- CLUSTER of a TARGET. -/
def targetCluster (t : Nat) : Nat := t / 2 ^ 19 % 128
/-- CORE of a TARGET. -/
def targetCore (t : Nat) : Nat := t / 2 ^ 12 % 128
/-- STAGE of a TARGET. -/
def targetStage (t : Nat) : Nat := t / 2 ^ 28 % 16
/-- The package cluster that a TARGET names. -/
def targetPlace (t : Nat) : Nat := targetDie t * 128 + targetCluster t

/-- Resolve the parameter references of a record's dwords (R83). -/
def resolveDwords (vals : Table Word) (w0 : Word) (ks : List Word) : List Word :=
  (List.range 6).map (fun i =>
    let v := ks.getD i 0
    if field w0 24 6 / 2 ^ i % 2 = 1 then vals.get 0 (v.toNat % 16) + BitVec.ofInt 64 (v.toInt / 16) else v)

/-- The successors that dwords 0 and 1 of a record name (R80). -/
def State.successors (s : State) (owner tmpl : Nat) (w0 w1 : Word) : Got (List Nat × Bool) :=
  let n := field w0 16 8
  if n ≤ 4 then
    let all := (List.range 4).map (fun j => field w1 (16 * j) 16)
    .ok (all.take n, (all.drop n).all (· = 0xFFFF))
  else if 2 ^ 32 ≤ w1.toNat then .ok ([], false)
  else (s.lookHalves owner (tmpl + w1.toNat) n).andThen (fun l => .ok (l, true))

/-- Read and resolve record `idx` of a template for a launch slot. -/
def State.readNode (s : State) (slot tmpl idx : Nat) : Got NodeRec :=
  let l := s.launch slot
  (s.lookDwords l.owner (tmpl + 64 * idx) 8).andThen (fun ws =>
    (s.successors l.owner tmpl (ws.getD 0 0) (ws.getD 1 0)).andThen (fun sc =>
      .ok { w0 := ws.getD 0 0, w1 := ws.getD 1 0, k := resolveDwords l.vals (ws.getD 0 0) (ws.drop 2),
            succ := sc.1, succOk := sc.2 }))

/-! ### Checks (R89) -/

/-- Bits that dword Ki of a kind may hold (R84; R297, R311 for engine nodes). -/
def allowedBits (kind i : Nat) : Nat :=
  let all := 2 ^ 64 - 1
  match kind, i with
  | 1, 1 => 0x1F7F
  | 2, 0 => 0x7F003FFFFF
  | 3, 3 => all - 0xFFFF00
  | 4, 1 => 0xFFFFFF
  | 4, 3 => 0xFFFFFFFF
  | 5, 2 => 0xFFFF
  | 6, 0 => 0x3FF
  | 7, 1 => all - 0xFFFF
  | 8, 2 => 7
  | 9, 1 | 9, 2 | 11, 3 => 0xFFFFFFFF
  | 11, 1 => 0xFFFF3F
  | 3, 4 | 3, 5 | 4, 5 | 6, 3 | 6, 4 | 6, 5 | 7, 4 | 7, 5 | 8, 3 | 8, 4 | 8, 5 | 9, 3 | 9, 4 | 9, 5
  | 10, 2 | 10, 3 | 10, 4 | 10, 5 | 11, 4 | 11, 5 => 0
  | _, _ => all

/-- Bits of TARGET that TMODE uses (R79, R81). -/
def targetBits (kind tmode : Nat) : Nat :=
  if kind = 7 then 0xFFFFFFFF
  else if (kind = 5 || kind = 6) && decide (2 ≤ tmode) then 0x0FFFF000
  else match tmode with
    | 0 => 0
    | 1 => 0xF0000000
    | 2 => 0x0FF80000
    | _ => 0x0FFFF000

/-- A join node's control dword (R481, R486): INIT or RES with bits 61-32 zero; the configuration is zero without INIT. -/
def joinCtlOk (j : Word) : Bool :=
  decide (field j 32 30 = 0) &&
    (if j.getLsbD 63 then decide (field j 0 16 ≠ 0) && decide (field j 16 4 ≤ 5) && decide (field j 29 3 = 0)
     else decide (field j 0 32 = 0))

/-- GRAPH.RSVD of a record (R84, R89); also a stream template's NPRED that is not 0 and an unused successor entry that is not
0xFFFF, for which R89 names no code (log 42), and a task record's NPRED, whose successor entries are not looked at (DESIGN CHOICE, log 51). -/
def NodeRec.rsvdBad (r : NodeRec) (oneStream task : Bool) : Bool :=
  decide (field r.w0 4 2 ≠ 0) || (r.target &&& (0xFFFFFFFF - targetBits r.kind r.tmode)) ≠ 0
    || (List.range 6).any (fun i => (r.kd i).toNat &&& (2 ^ 64 - 1 - allowedBits r.kind i) ≠ 0)
    || (decide (r.kind = 1) && (decide (field (r.kd 1) 0 7 = 0) || decide (80 < field (r.kd 1) 0 7)))
    || (decide (r.kind = 2) && decide (field (r.kd 5) 32 6 = 15) && decide (field (r.kd 5) 48 8 ≠ 0))
    || (decide (r.kind = 4) && decide (field (r.kd 1) 0 24 = 0))
    || (decide (r.kind = 11) && decide (15 < field (r.kd 1) 16 8))
    || (decide (r.kind = 6) && !joinCtlOk (r.kd 1))
    || ((oneStream || task) && decide (r.npred ≠ 0)) || (!task && !r.succOk)

/-- GRAPH.SUCC of a record: an index at or past N, or NSUCC wrong for the kind (R85-R87, R135). -/
def NodeRec.succBad (r : NodeRec) (oneStream task : Bool) (n : Nat) : Bool :=
  if task then decide (r.nsucc ≠ 0)
  else r.succ.any (fun i => n ≤ i) ||
    (if r.kind = 8 ∨ r.kind = 9 then decide (r.nsucc ≠ 2)
     else if r.kind = 10 then decide (r.nsucc < 2)
     else oneStream && decide (1 < r.nsucc))

/-- Whether a record's TARGET names a cluster (R81): samplers and Wadi ignore it, and near-memory nodes all of TARGET. -/
def NodeRec.namesCluster (r : NodeRec) : Bool := decide (2 ≤ r.tmode) && !(r.kind = 5 || r.kind = 6 || r.kind = 7)

/-- GRAPH.TARGET of a record (R20, R81, R119). -/
def State.targetBad (s : State) (r : NodeRec) : Bool :=
  (decide (r.tmode = 1) && !(r.kind = 1 || r.kind = 11))
    || (r.namesCluster && decide (r.tmode = 3) && decide (79 < targetCore r.target))
    || (r.namesCluster && s.dev.gated.contains (targetPlace r.target))
    || (decide (r.kind = 1) && decide (r.tmode = 3) && decide (80 < targetCore r.target + field (r.kd 1) 0 7))

/-- GRAPH.ALIGN of a record (R78, R84); also of a stream-step node's result address (DESIGN CHOICE, log 51). -/
def NodeRec.alignBad (r : NodeRec) : Bool :=
  let off (i n : Nat) : Bool := decide ((r.kd i).toNat % n ≠ 0)
  match r.kind with
  | 1 => off 0 64
  | 11 => off 0 64 || off 2 8
  | 8 | 9 | 10 => off 0 8
  | 4 => off 0 8 || off 2 64 || off 4 8
  | _ => false

/-- The first check of R89, but for GRAPH.LOOP, that a record fails; codes in ascending order. -/
def State.checkNode (s : State) (r : NodeRec) (oneStream task : Bool) (n : Nat) : Option Nat :=
  if r.kind = 0 ∨ 12 ≤ r.kind ∨ (oneStream ∧ (r.kind = 4 ∨ r.kind = 11)) ∨ (task ∧ r.kind ≠ 1) then some 1
  else if r.rsvdBad oneStream task then some 2
  else if r.succBad oneStream task n then some 3
  else if s.targetBad r then some 4
  else if r.alignBad then some 5
  else none

/-- How many of the records j .. j + m - 1 name the loop node, and whether one names a node outside the range (R86). -/
def State.bodyEdges (s : State) (owner tmpl loop b0 b1 : Nat) : Nat → Nat → Got (Nat × Bool)
  | _, 0 => .ok (0, false)
  | j, m + 1 =>
    (s.lookDwords owner (tmpl + 64 * j) 2).andThen (fun ws =>
      (s.successors owner tmpl (ws.getD 0 0) (ws.getD 1 0)).andThen (fun sc =>
        (s.bodyEdges owner tmpl loop b0 b1 (j + 1) m).andThen (fun r =>
          .ok (r.1 + (if sc.1.contains loop then 1 else 0),
               r.2 || sc.1.any (fun x => x ≠ loop && !(decide (b0 ≤ x) && decide (x ≤ b1)))))))

/-- The loop nodes among records j .. j + m - 1. -/
def State.countLoops (s : State) (owner tmpl : Nat) : Nat → Nat → Got Nat
  | _, 0 => .ok 0
  | j, m + 1 =>
    (s.lookDword owner (tmpl + 64 * j)).andThen (fun w =>
      (s.countLoops owner tmpl (j + 1) m).andThen (fun c => .ok (c + (if field w 0 4 = 9 then 1 else 0))))

/-- GRAPH.LOOP of a loop node (R86, R87, R89); also a body node's successor outside the body, and a body that is no range of the
nodes, for which R89 names no code (log 42). -/
def State.loopBad (s : State) (owner tmpl idx n : Nat) (oneStream : Bool) (r : NodeRec) : Got Bool :=
  let b0 := field (r.kd 2) 0 16
  let b1 := field (r.kd 2) 16 16
  if b1 < b0 ∨ n ≤ b1 ∨ (b0 ≤ idx ∧ idx ≤ b1) then .ok true
  else
    (s.bodyEdges owner tmpl idx b0 b1 b0 (b1 - b0 + 1)).andThen (fun e =>
      if e.1 ≠ 1 ∨ e.2 then .ok true
      else if oneStream then (s.countLoops owner tmpl 1 (n - 1)).andThen (fun c => .ok (decide (1 < c)))
      else .ok false)

/-- What a header holds (R82): N, TAG and the roots. -/
structure HeaderRec where
  n     : Nat
  tag   : Nat
  roots : List Nat
  deriving DecidableEq, Repr

/-- A header's check and contents: the error code, or what it holds (R78, R82, R83, R87, R89). Its dword 0 may hold only PREFMASK
and NSUCC. DESIGN CHOICE (log 51): a reserved bit, a dword K1-K5 that is not zero and an STPL unlike the template's use are GRAPH.HEAD. -/
def State.readHeader (s : State) (slot tmpl : Nat) (oneStream : Bool) : Got (Except Nat HeaderRec) :=
  let owner := (s.launch slot).owner
  if tmpl % 64 ≠ 0 then .ok (.error 5)
  else
    (s.lookDwords owner tmpl 8).andThen (fun ws =>
      let w0 := ws.getD 0 0
      let ks := resolveDwords (s.launch slot).vals w0 (ws.drop 2)
      let k0 := ks.getD 0 0
      let n := field k0 0 16
      if w0.toNat &&& (2 ^ 64 - 1 - 0x3FFF0000) ≠ 0 ∨ field k0 17 15 ≠ 0 ∨ (ks.drop 1).any (· ≠ 0) ∨ n < 2
          ∨ k0.getLsbD 16 ≠ oneStream then .ok (.error 7)
      else
        (s.successors owner tmpl w0 (ws.getD 1 0)).andThen (fun sc =>
          if !sc.2 ∨ sc.1 = [] ∨ (oneStream ∧ sc.1.length ≠ 1) then .ok (.error 7)
          else if sc.1.any (fun i => n ≤ i) then .ok (.error 3)
          else .ok (.ok { n := n, tag := field k0 32 32, roots := sc.1 })))

/-- Read a node and make every check of R89: the record and N, or the error code. -/
def State.nodeAt (s : State) (slot tmpl idx : Nat) (oneStream : Bool) : Got (Except Nat NodeRec) :=
  let owner := (s.launch slot).owner
  (s.readHeader slot tmpl oneStream).andThen (fun h =>
    match h with
    | .error c => .ok (.error c)
    | .ok hd =>
      let n := hd.n
      if n ≤ idx then .ok (.error 3)
      else
        (s.readNode slot tmpl idx).andThen (fun r =>
          match s.checkNode r oneStream false n with
          | some c => .ok (.error c)
          | none =>
            if r.kind = 9 then
              (s.loopBad owner tmpl idx n oneStream r).andThen (fun b => .ok (if b then .error 6 else .ok r))
            else .ok (.ok r)))

/-- A graph error stops the launch (R89, R109, R110). -/
def State.graphError (s : State) (slot code idx : Nat) : State :=
  if (s.launch slot).state = .running then
    (s.stopLaunch slot code .error).onLaunch slot (fun l => { l with enode := idx })
  else s

/-- A read that the page table refuses has no graph error code in the spec: the launch stops with one that is a free value
(log 18). -/
def State.graphUnreadable (s : State) (slot idx : Nat) : State :=
  { s with free := s.free + 1 }.graphError slot ((Config.freeValue s.free).toNat % 7 + 1) idx

/-- Hold a node's read for the host (R89, R113), or for a slot (R280); the spec gives Caravan no agent ID, so the entry's is a free value. -/
def State.holdNode (s : State) (slot idx va : Nat) : State :=
  if s.slotWaits (s.launch slot).owner va then s
  else ({ s with free := s.free + 1 }.holdFaultAs (s.launch slot).owner va (freeAgent s.free) caravanWaits 3 slot).onLaunch slot
    (fun l => { l with waits := if l.waits.contains (pageOf va, idx) then l.waits else l.waits ++ [(pageOf va, idx)] })

/-- The host has answered for a page of an owner (R113): its launches' reads are held no more, and those that it failed may not be made, so
that each launch ends with the first node that waited (log 18). -/
def State.releaseNodes (s : State) (owner page : Nat) (fail : Bool) : State :=
  (List.range 64).foldl (fun s slot =>
    let l := s.launch slot
    match l.waits.find? (fun w => decide (w.1 = page)) with
    | some w =>
      if l.owner = owner then
        let s1 := s.onLaunch slot (fun l => { l with waits := l.waits.filter (fun w => decide (w.1 ≠ page)) })
        if fail then s1.graphUnreadable slot w.2 else s1
      else s
    | none => s) s

/-- Act on what a node read gave. -/
def State.withGot {α : Type} (s : State) (slot idx : Nat) (g : Got (Except Nat α)) (f : α → State) : State :=
  match g with
  | .absent va => s.holdNode slot idx va
  | .bad => s.graphUnreadable slot idx
  | .ok (.error c) => s.graphError slot c idx
  | .ok (.ok a) => f a

/-! ### Cores and stages -/

/-- The stage of a core for a launch (R108); none while the map's page cannot be read. -/
def State.stageOf (s : State) (slot g : Nat) : Option Nat :=
  let l := s.launch slot
  if l.stage = 0 then some 0
  else
    match s.lookDword l.owner (l.stage.toNat + g / 2 / 8 * 8) with
    | .ok w => some (field w (8 * (g / 2 % 8) + 4 * (g % 2)) 4)
    | _ => none

/-- Whether a core is awaited by the contexts on its other shelf, whose launch has been resumed (R421). -/
def State.awaited (s : State) (g : Nat) : Bool :=
  (s.core g).shared && (match (s.core g).parkedBy with
    | some slot => !(s.launch slot).suspended
    | none => false)

/-- Whether a core's control context is free for a node (R119, R520). -/
def State.coreFree (s : State) (g : Nat) : Bool :=
  let c := s.ctx g 0
  (c.idle || (c.nwait.isSome && c.waitFrom.isSome)) && c.resident && c.ticket.isNone && c.arrived.isNone && !s.dev.gated.contains (clusterOf g)
    && !s.awaited g

/-- Whether a core is eligible for an entry by TMODE and TARGET (R119). DESIGN CHOICE (log 51): under a stage map that may not be read no
core is eligible, and the entry waits. -/
def State.coreEligible (s : State) (slot tmode target g : Nat) : Bool :=
  match tmode with
  | 0 => true
  | 1 => s.stageOf slot g = some (targetStage target)
  | _ => decide (clusterOf g = targetPlace target)

/-- Whether a core may be a member of a domain node's group (R79, R119): as for a tile, and with TMODE 3 the core that TARGET
names. -/
def State.memberEligible (s : State) (slot tmode target g : Nat) : Bool :=
  s.coreEligible slot tmode target g && (decide (tmode ≠ 3) || decide (coreInCluster g = targetCore target))

/-- The cores of a package cluster. -/
def clusterCores (cl : Nat) : List Nat := (List.range 80).map (fun i => cl * 80 + i)

/-- The die with the most eligible free cores, the lowest at a tie (R115). -/
def State.roomiestDie (s : State) (slot : Nat) (r : NodeRec) : Nat :=
  let count (d : Nat) : Nat := ((List.range 10240).filter (fun i =>
    s.coreFree (d * 10240 + i) && s.coreEligible slot r.tmode r.target (d * 10240 + i))).length
  [1, 2, 3].foldl (fun best d => if count best < count d then d else best) 0

/-- Whether the stage map of a launch can be read: the map's first and last dwords lie in the pages that it touches (R108,
R113). -/
def State.stageMap (s : State) (slot : Nat) : Got Unit :=
  let l := s.launch slot
  if l.stage = 0 then .ok ()
  else (s.lookDword l.owner l.stage.toNat).andThen (fun _ => (s.lookDword l.owner (l.stage.toNat + 20472)).andThen (fun _ => .ok ()))

/-- What choosing a ready node's pool reads (R115): the stage map for TMODE 1, the page of a near-memory node's address. -/
def State.placeRead (s : State) (slot : Nat) (r : NodeRec) : Got Unit :=
  if r.kind = 7 then (s.lookKey (s.launch slot).owner (r.kd 2).toNat false).andThen (fun _ => .ok ())
  else if r.tmode = 1 then s.stageMap slot
  else .ok ()

/-- The stack that holds a near-memory node's address (R81, R269): the destination w as its owner's table maps it. Of an address
that may not be read the spec names no stack, and the node goes to stack 0's (log 42). -/
def State.nodeStack (s : State) (slot : Nat) (r : NodeRec) : Nat :=
  match s.lookKey (s.launch slot).owner (r.kd 2).toNat false with
  | .ok k => channelOf k / 64
  | _ => 0

/-- The pool that a ready instance enters (R115). -/
def State.poolOf (s : State) (slot : Nat) (r : NodeRec) (stream : Option Word) : Nat :=
  if r.kind = 7 then s.nodeStack slot r / 2
  else if 2 ≤ r.tmode then targetDie r.target
  else
    match stream with
    | some h => h.toNat % 4
    | none => if r.kind = 1 ∨ r.kind = 11 then s.roomiestDie slot r else slot % 4

/-! ### Gangs (R122) -/

/-- The record that a pool entry carries. -/
def PoolEntry.record (e : PoolEntry) : NodeRec :=
  { w0 := e.words.getD 0 0, w1 := e.words.getD 1 0, k := e.words.drop 2, succ := e.succ, succOk := true }
/-- Whether an entry joins gangs: a tile or matrix-tile node of a stream. -/
def PoolEntry.gangs (e : PoolEntry) : Bool := e.stream.isSome && (decide (e.kind = 1) || decide (e.kind = 2))
/-- Whether two entries of a die share a gang key. -/
def PoolEntry.sameKey (a b : PoolEntry) : Bool :=
  decide (a.slot = b.slot) && decide (a.epoch = b.epoch) && decide (a.addr = b.addr) && decide (a.node = b.node)
/-- The ID of an entry's stream; 0 without one. -/
def PoolEntry.streamId (e : PoolEntry) : Nat := (e.stream.getD 0).toNat % 2 ^ 24
/-- The greatest size of an entry's gang. -/
def PoolEntry.gangMax (e : PoolEntry) : Nat :=
  if e.kind = 1 ∧ field (e.record.kd 1) 8 5 ≠ 0 then field (e.record.kd 1) 8 5 else 32

/-- Whether an open gang takes members at a clk (R122): it is below its maximum and within 512 clk of its opening. -/
def Gang.accepts (g : Gang) (clk : Nat) : Bool := !g.closed && decide (g.members.length < g.max) && decide (clk < g.opened + 512)
/-- Whether a gang has an entry's key. -/
def Gang.keyed (g : Gang) (e : PoolEntry) : Bool := g.members.any (fun m => m.sameKey e)
/-- Whether an entry's residue is held in a matrix-tile gang. -/
def Gang.holds (g : Gang) (e : PoolEntry) : Bool :=
  decide (e.kind = 2) && g.members.any (fun m => decide (m.streamId % 32 = e.streamId % 32))

/-- Entries that a die holds, waiting or dispatched. -/
def Caravan.held (c : Caravan) : List PoolEntry :=
  c.pool ++ c.overflow ++ c.gangs.flatMap (·.members)
    ++ c.insts.flatMap (fun i => if i.gslot.isSome then (i.rows.filterMap id).map (fun h => { i.entry with stream := some h }) else [i.entry])

/-- The template of an entry's node. -/
def PoolEntry.tpl (e : PoolEntry) : Word := e.addr - BitVec.ofNat 64 (64 * e.node)

/-- Whether a stream of a gang's template and launch is ready or running at another node of its die. -/
def Caravan.awaited (c : Caravan) (e : PoolEntry) : Bool :=
  c.held.any (fun x => x.stream.isSome && decide (x.slot = e.slot) && decide (x.node ≠ e.node) && decide (x.tpl = e.tpl))

/-- Whether a drive of a gang's template and launch still takes handles, which keeps the gang open (R507, log 26). -/
def State.driving (s : State) (e : PoolEntry) : Bool :=
  s.drives.any (fun d => decide (d.slot = e.slot) && decide (d.tpl = e.tpl) && decide (d.todo ≠ []))

/-- An entry joins the open gang of its key, opens one, or waits outside. -/
def Caravan.joinOpen (c : Caravan) (e : PoolEntry) (clk : Nat) : Caravan :=
  match c.gangs.find? (fun g => !g.closed && g.keyed e) with
  | none => { c with gangs := c.gangs ++ [{ opened := clk, closed := false, max := e.gangMax, members := [e] }] }
  | some g =>
    if g.accepts clk && !g.holds e then
      { c with gangs := c.gangs.map (fun (y : Gang) => if !y.closed && y.keyed e then { y with members := y.members ++ [e] } else y) }
    else { c with pool := c.pool ++ [e] }

/-- The open gang of an entry's key closes at a clk; the entries that wait outside it may join the next in the clk after (R122). -/
def Caravan.closeGang (c : Caravan) (e : PoolEntry) (clk : Nat) : Caravan :=
  { c with
    gangs := c.gangs.map (fun (y : Gang) => if y.keyed e then { y with closed := true } else y),
    pool := c.pool.map (fun (x : PoolEntry) => if x.gangs && x.sameKey e then { x with joins := clk + 1 } else x) }

/-- The entries that wait outside gangs join the open gang of their key or open the next, in ready-time order (R122). -/
def Caravan.regroup (c : Caravan) (clk : Nat) : Caravan :=
  let waits (x : PoolEntry) : Bool := x.gangs && decide (x.joins ≤ clk)
  ((c.pool.filter waits).insertionSort (fun a b => a.ready ≤ b.ready)).foldl (fun c x => c.joinOpen x clk)
    { c with pool := c.pool.filter (fun x => !waits x) }

/-- The clk at which a gang that takes no more members closes (R122): that at which its last member came, or 512 clk after its opening. -/
def Gang.closeAt (g : Gang) : Nat :=
  if g.max ≤ g.members.length then g.members.foldl (fun (t : Nat) (m : PoolEntry) => Nat.max t (Nat.max m.ready m.joins)) g.opened else g.opened + 512

/-- A pool entry comes into the pool: an entry that joins gangs joins one. Where the open gang of its key takes no more, that gang closes and
the entries that wait outside it come first, if it has closed at an earlier clk (R122). -/
def Caravan.enter (c : Caravan) (e : PoolEntry) (clk : Nat) : Caravan :=
  if !e.gangs then { c with pool := c.pool ++ [e] }
  else
    match c.gangs.find? (fun g => !g.closed && g.keyed e) with
    | some g => if g.accepts clk then c.joinOpen e clk else ((c.closeGang e g.closeAt).regroup clk).joinOpen e clk
    | none => c.joinOpen e clk

/-- Entries that a pool holds (R116). -/
def Caravan.size (c : Caravan) : Nat := c.pool.length + (c.gangs.map (fun g => g.members.length)).sum

/-- The open gangs of a die for an entry's template and launch that have no stream elsewhere on its way, while no drive takes handles, have
closed at a clk before this one, and the entries that waited outside them come first (R122, log 26). -/
def State.closeLone (s : State) (die : Nat) (e : PoolEntry) : State :=
  let lone (c : Caravan) (m : PoolEntry) : Bool :=
    decide (m.slot = e.slot) && decide (m.tpl = e.tpl) && !c.awaited m && !s.driving m
  let close (c : Caravan) (g : Gang) : Caravan :=
    match g.members with
    | [] => c
    | m :: _ => if !g.closed && lone c m then (c.closeGang m (s.clk - 1)).regroup s.clk else c
  if e.stream.isSome then s.onCaravan die (fun c => c.gangs.foldl close c) else s

/-- Put an instance into its pool, or at the end of the overflow list when the pool is full or others wait there (R116). `src` is the die
where its stream's last node was until now: a gang there has waited for it (R122). -/
def State.enterPool (s : State) (die : Nat) (e : PoolEntry) (src : Option Nat) : State :=
  (if src = some die then s else s.closeLone die e).onCaravan die (fun c =>
    if c.size < 8192 ∧ c.overflow = [] then c.enter e s.clk else { c with overflow := c.overflow ++ [e] })

/-- Whether a die can take no more instances: its overflow list is full (R116). -/
def Caravan.full (c : Caravan) : Bool := decide (65536 ≤ c.overflow.length)

/-- The pool entry of a ready node. -/
def poolEntry (s : State) (slot idx : Nat) (addr : Word) (r : NodeRec) (p : Nat) (stream : Option Word) : PoolEntry :=
  { slot := slot, epoch := (s.launch slot).epoch, node := idx, addr := addr, words := r.w0 :: r.w1 :: r.k, succ := r.succ, kind := r.kind,
    prio := r.prio, ready := s.clk, p := p, stream := stream }

/-! ### Streams on their templates (R87, R88) -/

/-- The step clock takes a P (R480). -/
def Stream.stamp (d : Stream) (p : Nat) : Stream := { d with clock := max d.clock p }

/-- A stream that a drive has taken leaves it for good; the drive keeps the greatest step clock (R88, R130). -/
def State.partDrive (s : State) (n : Nat) : State :=
  { s with drives := s.drives.map (fun (d : Drive) =>
      if d.taken.contains n then
        ({ d with taken := d.taken.filter (· ≠ n), left := d.left + 1, p := max d.p (s.stream n).clock } : Drive)
      else d) }

/-- A stream leaves its drive and is walked by no launch. -/
def State.leaveDrive (s : State) (n : Nat) : State := (s.partDrive n).onStream n (fun d => { d with drive := none, heldP := none })

/-- Remove a stream's entry from the pools when it leaves state ready (R125). -/
def State.unpool (s : State) (n : Nat) : State :=
  let keep (e : PoolEntry) : Bool := !(match e.stream with | some h => decide (h.toNat % 2 ^ 24 = n) | none => false)
  let clear (c : Caravan) : Caravan := { c with
    pool := c.pool.filter keep, overflow := c.overflow.filter keep,
    gangs := (c.gangs.map (fun (g : Gang) => ({ g with members := g.members.filter keep } : Gang))).filter (fun g => g.members ≠ []) }
  { s with caravans := s.caravans.map (fun (kc : Nat × Caravan) => (kc.1, clear kc.2)) }

/-- Freeze a stream for its transfer (R471, R487): a ready entry is removed (R125). -/
def State.freeze (s : State) (n : Nat) : State :=
  let d := s.stream n
  let s1 := if d.state = .ready then s.unpool n else s
  ((s1.leaveDrive n).onStream n (fun d => { d with frozenFrom := d.state, state := .frozen, drive := none })).startSends

/-- Whether a running stream is marked to be frozen in the step after its completion (R127, R487). -/
def State.marked (s : State) (n : Nat) : Bool := s.transfers.any (fun t => decide (t.stream = n) && !t.begun) && decide ((s.stream n).state ≠ .frozen)

/-- The step after a completion step: a marked stream is frozen (R127). -/
def State.freezeMarked (s : State) (n : Nat) : State :=
  if s.marked n ∧ ((s.stream n).state = .admitted ∨ (s.stream n).state = .ready ∨ (s.stream n).state = .waitingAction) then s.freeze n else s

/-- A stream becomes ready at its node (R87): its node is read and checked, and its entry joins a pool. While the node cannot be
read, or its pool takes no more, the stream waits in state ready with P and the ready time kept (R89, R116, R472). -/
def State.streamReady (s : State) (n p clk : Nat) (src : Option Nat) : State :=
  let d := s.stream n
  match d.drive with
  | none => s.onStream n (fun d => { d with state := .admitted })
  | some (slot, _) =>
    let s0 := s.onStream n (fun d => { d with state := .ready, heldP := some p, heldAt := clk })
    let tmpl := d.template.toNat
    let h := handleOf n d.gen
    s0.withGot slot d.node (s0.nodeAt slot tmpl d.node true) (fun r =>
      match s0.placeRead slot r with
      | .absent va => s0.holdNode slot d.node va
      | _ =>
        let die := s0.poolOf slot r (some h)
        if (s0.caravan die).full then s0
        else
          (s0.onStream n (fun d => { d with heldP := none })).enterPool die
            { poolEntry s0 slot d.node (d.template + BitVec.ofNat 64 (64 * d.node)) r p (some h) with ready := clk } src)

/-- A stream's node instance on a die completed with P (R87, R126): NODE takes the chosen successor, or the pass ends. Where `stop` holds,
the stream is admitted there (R88, R473). A marked stream is then frozen (R127). -/
def State.streamAdvance (s : State) (die n : Nat) (succ : Option Nat) (stop : Bool) (p : Nat) : State :=
  let s1 := (s.unitStep n p).onStream n (fun d => { d.stamp p with node := succ.getD 0xFFFF })
  ((if succ.isNone || stop then (s1.leaveDrive n).onStream n (fun d => { d with state := .admitted })
   else s1.streamReady n p s.clk (some die)).freezeMarked n).clockStop ((((s.stream n).drive).map (·.1)).getD 64) (s.unitTime n p)

/-- Count a completed sample instance in its stream's drive (R88). -/
def State.countStep (s : State) (n : Nat) : State := s.onStream n (fun d => { d with driveSteps := d.driveSteps + 1 })

/-- Whether a stream has completed the steps of its drive (R88), or has reached its horizon (R473). -/
def State.stepsOver (s : State) (n : Nat) : Bool :=
  let d := s.stream n
  d.hzn || s.drives.any (fun v => v.taken.contains n && decide (v.limit ≠ 0) && decide (v.limit ≤ d.driveSteps))

/-! ### Completion -/

/-- Release the edges of a completed launch-graph node (R114, R130). -/
def State.releaseEdges (s : State) (slot idx p : Nat) (succ : List Nat) : State :=
  s.onLaunch slot (fun l => { l with edges := l.edges ++ succ.map (fun i => { src := idx, node := i, p := p }) })

/-- A node instance of a launch graph, or one stream's instance, on a die completes with P (R114, R126, R130). -/
def State.completeEntry (s : State) (die : Nat) (e : PoolEntry) (p : Nat) : State :=
  match e.stream with
  | none =>
    if (s.launch e.slot).state ≠ .running ∨ (s.launch e.slot).epoch ≠ e.epoch then s
    else s.releaseEdges e.slot e.node p e.succ
  | some h =>
    let n := h.toNat % 2 ^ 24
    let d := s.stream n
    if d.gen ≠ h.toNat / 2 ^ 24 % 256 ∨ d.state ≠ .running then s
    else if e.kind = 5 then
      let s1 := s.countStep n
      s1.streamAdvance die n e.succ.head? (s1.stepsOver n) p
    else s.streamAdvance die n e.succ.head? false p

/-- A task's completion arrives at its barrier object (R135, R375). -/
def State.taskArrive (s : State) (e : PoolEntry) (p : Nat) : State :=
  match e.task with
  | some (g, off) =>
    if off = 0 then s
    else
      let u : BarUpdate := { off := off % 65536, arrivals := 1, bytes := 0, expected := 0, p := p, owner := (s.launch e.slot).owner }
      s.onCore g (fun c => { c with barq := c.barq ++ [u] })
  | none => s

/-- Take an instance out of its Caravan, giving back its gang slot (R123). -/
def State.dropInst (s : State) (die id : Nat) : State :=
  s.onCaravan die (fun c => { c with
    insts := c.insts.filter (fun i => i.id ≠ id),
    gslots := c.gslots.filter (fun g => !(c.insts.any (fun i => i.id = id && i.gslot = some g))) })

/-- Complete a dispatched instance: its members advance or its edges are released, unless a rank was discarded (R109,
R126). -/
def State.completeInst (s : State) (die : Nat) (i : Inst) : State :=
  let s1 := s.dropInst die i.id
  if i.dead then s1
  else if i.gslot.isSome then
    i.rows.foldl (fun s r => match r with
      | some h => s.completeEntry die { i.entry with stream := some h } i.p
      | none => s) s1
  else if i.entry.task.isSome then s1.taskArrive i.entry i.p
  else s1.completeEntry die i.entry i.p

/-! ### Taking a node (R132, R141, R520) -/

/-- A control context that takes a node of a new launch (R141, R182, R305, R355, R408, R459). -/
def Ctx.newLaunch (c : Ctx) (slot epoch : Nat) (rmode : Bool) : Ctx :=
  { c with win := [], g := [], wbase := 0, qset := 6, racemode := 0x600 + boolWord rmode, tvec := 0, tcause := 0, epc := 0,
           tval := 0, intrap := false, gkey := 0, gpos := 0, launch := some (slot, epoch), sealed := 0, done := 0, doneP := 0,
           openBatch := { num := 1, ops := [], p := 0, failed := false }, batches := [], nmIssued := 0, nmDone := 0,
           nmOpen := [], nmP := 0, nmStopped := false, fbuf := [], pend := [] }

/-- The write budget at a launch start, as the firmware loads it (R275, R424). -/
def WriteLane.launchStart (w : WriteLane) (clk budget log : Nat) : WriteLane :=
  { w.sync clk with budget := budget, cap := budget, log := log, win := clk / 2 ^ log }

/-- The trace unit of a core that takes a node of a new launch (R437): records of another owner are zeroed. -/
def TraceUnit.newLaunch (t : TraceUnit) (owner : Nat) : TraceUnit :=
  if t.owners.any (fun o => o.2 ≠ owner) then
    { left := t.left ++ t.todo.map (fun n => (t.owners.get 0 (n % 256), t.recs.get (0, 0) (n % 256))) }
  else { t with cfg := 0, frozen := false, lost := 0, watch := [] }

/-- A core takes a node: its STAGE (R108) and, for a node of a new launch, its registers and write budget. A stage map that
cannot be read gives a free value (log 19). -/
def State.takeNode (s : State) (g : Nat) (t : Ticket) : State :=
  let st := s.stageOf t.slot g
  let s1 := { s with free := if st.isSome then s.free else s.free + 1 }.onCore g
    (fun c => { c with stage := st.getD ((Config.freeValue s.free).toNat % 16) })
  if (s.ctx g 0).launch = some (t.slot, t.epoch) then s1
  else
    (s1.onCtx g 0 (fun c => c.newLaunch t.slot t.epoch (s.launch t.slot).rmode)).onCore g
      (fun c => { c with wl := c.wl.launchStart s.clk s.dev.budget s.dev.window, trace := c.trace.newLaunch (s.launch t.slot).owner })

/-- The work of an instance is done: a gang's members advance in a step of their own (R126). -/
def State.finishInst (s : State) (die : Nat) (i : Inst) : State :=
  if i.gslot.isSome && !i.dead then
    s.onCaravan die (fun c => { c with insts := c.insts.map (fun (y : Inst) => if y.id = i.id then { i with finished := true } else y) })
  else s.completeInst die i

end Sys2Proof.Machine
end

