-- ==== Sys2Proof/Machine/Contexts.lean ====
section
/-! DEFINITION. Row 7 of the opcode map: starting and joining helpers (R151-R153), queue sets (R154, R155), YIELD (R156),
lane grants (R222-R225), nodes (R132-R134) and tasks (R135). -/
namespace Sys2Proof.Machine

/-! ### Helpers -/

/-- The state in which START leaves helper k (R141, R151, R408, R459). -/
def Ctx.started (old ctl : Ctx) (k : Nat) (fe : FE) (q : Nat) (pc s0 : Word) (p : Nat) : Ctx :=
  { hstate := .live, fe := fe, qset := q, pc := pc, win := [(0, s0)], h := p, l := p + 1, racemode := ctl.racemode,
    gkey := ctl.gkey ^^^ BitVec.ofNat 64 k, gpos := ctl.gpos, launch := ctl.launch, acks := old.acks }

/-- START (R151). -/
def execStart (x : RFields) (s : State) : Host.Outcome State Fault Refusal :=
  issue (.start x) (fun v => do
    let a ← src x.a
    let b ← src x.b
    let (_, k) ← me
    trapIf (decide (k ≠ 0)) 0x0E2 v.aval
    trapIf (decide (a.toNat % 64 ≠ 0) || decide (2 ^ 56 ≤ a.toNat)) 0x021 a
    let q := x.fn.toNat / 2
    let fe : FE := if x.fn.toNat % 2 = 1 then .x else .a
    let core ← myCore
    if q ≤ 5 ∧ core.taken q fe none then dst x.d (-2)
    else
      match ctxNumbers.find? (fun j => j ≠ 0 && decide ((core.ctx j).hstate = .free)) with
      | none => dst x.d (-1)
      | some j => do
        let p ← release v.aval
        let c ← myCtx
        modify (fun s => s.onCtx s.cur.1 j (fun h => h.started c j fe q a b p))
        onMyCtx (fun c => { c with hlive := c.hlive ||| BitVec.ofNat 13 (2 ^ j) })
        dst x.d (BitVec.ofNat 64 j)) s

/-- The state in which END leaves a helper that published P (R152, R222). -/
def Ctx.finished (c : Ctx) (p : Nat) : Ctx :=
  { c with hstate := .ended, abn := false, endp := p, qset := 6, grant := 0, masks := [], v := [], win := [], g := [] }

/-- END (R152). -/
def execEndHelper (x : RFields) (s : State) : Host.Outcome State Fault Refusal :=
  issue (.endHelper x) (fun v => do
    let (g, k) ← me
    trapIf (decide (k = 0)) 0x0E9 v.aval
    let c ← myCtx
    if !c.openBatch.used then pure ()
    else if 16 ≤ c.batches.length then wait
    else onMyCtx (·.seal)
    let p ← release v.aval
    onMyCtx (·.finished p)
    modify (fun s => (((s.releaseTiles g k).orphan g k).passPend g k).onCore g (·.dropLines k))) s

/-- HWAIT (R153). -/
def execHwait (x : RFields) (s : State) : Host.Outcome State Fault Refusal :=
  issue (.hwait x) (fun v => do
    let a ← src x.a
    let (g, k) ← me
    trapIf (decide (k ≠ 0)) 0x0E2 v.aval
    let c ← myCtx
    let named := ctxNumbers.filter (fun j => a.getLsbD j)
    trapIf (a.getLsbD 0 || decide (2 ^ 13 ≤ a.toNat) || named.any (fun j => !c.hlive.getLsbD j)) 0x0EA v.aval
    if named = [] then dst x.d 0
    else do
      let core ← myCore
      if named.any (fun j => (core.ctx j).hstate ≠ .ended) then wait else pure ()
      acquire (named.foldl (fun p j => max p (core.ctx j).endp) 0) v.aval
      modify (fun s => named.foldl (fun s j => s.onCtx g j (fun h => { Ctx.initial j with acks := h.acks })) s)
      onMyCtx (fun c => { c with hlive := c.hlive &&& ~~~(a.setWidth 13) })
      dst x.d (BitVec.ofNat 64 ((named.filter (fun j => (core.ctx j).abn)).foldl (fun m j => m + 2 ^ j) 0))) s

/-! ### Queue sets -/

/-- QBIND (R154). -/
def execQbind (x : RFields) (s : State) : Host.Outcome State Fault Refusal :=
  issue (.qbind x) (fun v => do
    let a ← src x.a
    let (_, k) ← me
    let clr := decide (x.fn = 1)
    trapIf (decide (6 < a.toNat) || (clr && decide (a.toNat = 6))) 0x0EB v.aval
    let core ← myCore
    let q := a.toNat
    if clr then do
      trapIf (core.taken q .a (some k) || core.taken q .x (some k)) 0x0EC v.aval
      onMyCore (fun c => [0, 1, 2, 3, 4, 5, 6].foldl (fun c i => c.setQueue q i []) c)
    else do
      trapIf (decide (q ≤ 5) && core.taken q .a (some k)) 0x0EC v.aval
      onMyCtx (fun c => { c with qset := q })) s

/-- QSTAT's result (R155); set 6 is no set. -/
def queueStatus (core : Core) (q : Nat) : Word :=
  if q = 6 then BitVec.ofNat 64 (15 * 2 ^ 36 + 15 * 2 ^ 32)
  else BitVec.ofNat 64 (((core.bound q .x).getD 15) * 2 ^ 36 + ((core.bound q .a).getD 15) * 2 ^ 32
    + ([0, 1, 2, 3, 4, 5, 6].map (fun i => (core.queue q i).length * 16 ^ i)).sum)

/-- QSTAT (R155). -/
def execQstat (x : RFields) (s : State) : Host.Outcome State Fault Refusal :=
  issue (.qstat x) (fun v => do
    let a ← src x.a
    let c ← myCtx
    trapIf (!(decide (a.toNat ≤ 5) || decide (a.toNat = 7))) 0x0EB v.aval
    let core ← myCore
    dst x.d (queueStatus core (if a.toNat = 7 then c.qset else a.toNat))) s

/-- YIELD (R156): the context is not ready for that many clk after this one; its place behind the other helpers is that of the one that
last issued (R138). -/
def execYield (x : RFields) (s : State) : Host.Outcome State Fault Refusal :=
  issue (.yield x) (fun _ => do
    let a ← src x.a
    let s ← get
    let n := min a.toNat 65535
    onMyCtx (fun c => { c with yieldEnd := if n = 0 then none else some (s.clk + 1 + n) })) s

/-! ### Lane grants -/

/-- Lanes of a core's octet that are not granted (R223). -/
def State.freeLanes (s : State) (g : Nat) : Nat :=
  let base := g / 8 * 8
  128 - ((List.range 8).flatMap (fun i => ctxNumbers.map (fun k => (s.ctx (base + i) k).grant))).sum

/-- %lanes (R223). -/
def lanesWord (grant : Nat) (shrunk : Bool) : Word := BitVec.ofNat 64 (grant + if shrunk then 256 else 0)

/-- A context with its grant changed to g: lanes and mask bits at or above the smaller grant hold 0 (R224, R225). -/
def Ctx.regrant (c : Ctx) (g : Nat) : Ctx :=
  let keep := min c.grant g
  { c with grant := g, v := c.v.filter (fun e => decide (e.1 % 128 < keep)),
           masks := c.masks.map (fun (e : Nat × BitVec 128) => (e.1, e.2 &&& BitVec.ofNat 128 (2 ^ keep - 1))) }

/-- Set the issuing context's grant (R224, R225); a change is traced (R435). -/
def setGrant (g : Nat) : M Unit := do
  let c ← myCtx
  onMyCtx (fun c => { c.regrant g with shrunk := false })
  if g = c.grant then pure () else modify (fun s => s.traceMask s.cur.1 s.cur.2 0)

/-- VCLAIM (R224). -/
def execVclaim (x : RFields) (s : State) : Host.Outcome State Fault Refusal :=
  issue (.vclaim x) (fun _ => do
    let a ← src x.a
    let s ← get
    let c ← myCtx
    let want := min 128 (8 * ((a.toNat + 7) / 8))
    let g := if c.grant < want then c.grant + min (want - c.grant) (s.freeLanes s.cur.1) else c.grant
    setGrant g
    dst x.d (lanesWord g c.shrunk)) s

/-- VYIELD (R225). -/
def execVyield (x : RFields) (s : State) : Host.Outcome State Fault Refusal :=
  issue (.vyield x) (fun _ => do
    let a ← src x.a
    let c ← myCtx
    let g := min c.grant (8 * (a.toNat / 8))
    setGrant g
    dst x.d (lanesWord g c.shrunk)) s

/-! ### Nodes -/

/-- NWAIT (R132, R520). A node that finds it waiting completes it (State.deliver); one that an idle context began with is there at
once. -/
def execNwait (x : RFields) (s : State) : Host.Outcome State Fault Refusal :=
  issue (.nwait x) (fun v => do
    let a ← src x.a
    let (g, k) ← me
    trapIf (decide (k ≠ 0)) 0x0E2 v.aval
    let c ← myCtx
    trapIf c.ticket.isSome 0x0E3 v.aval
    match c.arrived with
    | some n => do
      modify (fun s => s.takeNode g n.ticket)
      dst x.d n.record
      dstNext x.d n.word
      acquire n.p v.aval
      onMyCtx (fun c => { c with ticket := some n.ticket, arrived := none })
    | none => do
      let s ← get
      let w : NodeWait := (c.nwait).getD { d := x.d, limit := if a = 0 then none else some (s.clk + a.toNat), next := v.next }
      match w.limit with
      | some t =>
        if t ≤ s.clk then do
          dst x.d 0
          dstNext x.d 0
        else waitAnd (fun s => s.onCtx g k (fun c => { c with nwait := some w }))
      | none => waitAnd (fun s => s.onCtx g k (fun c => { c with nwait := some w }))) s

/-- The domain of a domain node is freed when its instance completes (R383). -/
def State.freeNodeDomain (s : State) (i : Inst) : State :=
  if i.entry.kind = 11 then s.freeDomain (field (i.entry.record.kd 1) 0 6) else s

/-- A rank of an instance reports completion with its P (R134). -/
def State.rankDone (s : State) (g : Nat) (t : Ticket) (p : Nat) : State :=
  match (s.caravan t.die).byTicket t.num with
  | none => s
  | some i =>
    let j : Inst := { i with done := g :: i.done, p := max i.p p }
    if j.cores.all (fun c => j.done.contains c) then (s.freeNodeDomain j).finishInst t.die j
    else s.onCaravan t.die (fun c => { c with insts := c.insts.map (fun (y : Inst) => if y.id = i.id then j else y) })

/-- NDONE (R134). -/
def execNdone (x : RFields) (s : State) : Host.Outcome State Fault Refusal :=
  issue (.ndone x) (fun v => do
    let a ← src x.a
    let (g, k) ← me
    trapIf (decide (k ≠ 0)) 0x0E2 v.aval
    let c ← myCtx
    match c.ticket with
    | none => trap 0x0E4 v.aval
    | some t => do
      trapIf (decide (field a 32 2 ≠ t.die) || decide (field a 16 13 ≠ t.num)) 0x0E4 v.aval
      trapIf (decide (c.hlive ≠ 0)) 0x0E5 v.aval
      let p ← release v.aval
      onMyCtx (fun c => { c with ticket := none })
      modify (fun s => s.rankDone g t p)) s

/-! ### Tasks -/

/-- Put an accepted task into its pool (R115, R135). -/
def State.enqueueTask (s : State) (slot : Nat) (addr : Word) (r : NodeRec) (p g off : Nat) : State :=
  s.enterPool (s.poolOf slot r none) { poolEntry s slot 0xFFFF addr r p none with task := some (g, off) } none

/-- TASK (R135). -/
def execTask (x : RFields) (s : State) : Host.Outcome State Fault Refusal :=
  issue (.task x) (fun v => do
    let a ← src x.a
    let b ← src x.b
    trapIf (decide (a.toNat % 64 ≠ 0)) 0x061 a
    if b = 0 then pure ()
    else do
      trapIf (decide (2 ^ 19 ≤ b.toNat)) 0x042 b
      trapIf (decide (winOf b ≠ 0)) 0x043 b
      trapIf (decide (b.toNat % 32 ≠ 0)) 0x045 b
    let ws ← loadDwords a v 8
    let s ← get
    let (g, k) := s.cur
    let slot := ((s.ctx g k).launch.map (·.1)).getD 0
    let w0 := ws.getD 0 0
    let r : NodeRec := { w0 := w0, w1 := ws.getD 1 0, k := resolveDwords (s.launch slot).vals w0 (ws.drop 2), succ := [], succOk := true }
    match s.checkNode r false true 0 with
    | some code => dst x.d (BitVec.ofInt 64 (-(0x10 + code)))
    | none =>
      if (s.launch slot).state ≠ .running then dst x.d (-2)
      else if (s.caravan (s.poolOf slot r none)).full then dst x.d (-1)
      else do
        let p ← release v.aval
        modify (fun s => s.enqueueTask slot a r p g b.toNat)
        dst x.d 0) s

end Sys2Proof.Machine
end

