-- ==== Sys2Proof/Machine/EngineAccess.lean ====
section
/-! DEFINITION. Accesses of engines: where an address leads (R267, R304, R313), and an engine's read or exclusive hold of a
line at its home port (R302, R303, R332, R359). -/
namespace Sys2Proof.Machine

/-- An engine's operation (0 for none that holds lines) as its accesses see it (R332, R359): the agent, L for its accesses, its horizon and P, the epoch and launch, the
owner and cluster whose translations it uses, its race mode and log, the address that a race record names, the stream bound,
the core whose superstep it names, and the page whose translation the host failed. -/
structure EngineOp where
  id       : Nat
  agent    : BitVec 24
  l        : Nat
  h        : Nat
  p        : Nat
  epoch    : Nat
  slot     : Nat
  owner    : Nat
  cluster  : Nat
  racemode : Word
  pc       : Word
  stream   : Word
  core     : Option Nat
  xfail    : Option Nat
  /-- Who waits for a page that is not present. -/
  waiter   : BitVec 24 := agent
  deriving DecidableEq, Repr

/-- Where an engine's address leads: zeros (R169), another core's local memory, a memory key, a wait, or a failure with its
cause. -/
inductive EngineLoc where
  | zero
  | remote (core off : Nat)
  | mem (key : Nat)
  | pending
  | fail (cause : Nat)
  deriving DecidableEq, Repr

/-- Translate an address of an engine, or report the page and wait (R113, R304). -/
def State.engineTranslate (s : State) (o : EngineOp) (va : Nat) (write : Bool) : State × EngineLoc :=
  if o.xfail = some (pageOf va) then (s, .fail 0x062)
  else if s.stillHeld o.owner va o.waiter then (s, .pending)
  else match s.translate o.cluster o.owner va with
  | (.malformed, _) => (s, .fail 0x063)
  | (.page e big, s1) =>
    match entryKey e big va write false with
    | none => (s, .fail 0x063)
    | some key => (s1, .mem key)
  | (.absent, _) => (s.holdFaultAs o.owner va o.agent o.waiter 3 o.slot, .pending)

/-- An operation of an engine gets past a page's replay queue (R172); none while it waits in it. A unit without an operation of its own
(0) waits only while the page moves. -/
def State.enginePage (s : State) (id page : Nat) : State × Bool :=
  if id = 0 then (s, !s.pageMoving page)
  else if s.pageFree page (.op id) then (s.leaveReplay page (.op id), true)
  else (s.joinReplay page (.op id), false)

/-- Where an address of an engine leads; a write through the stream window makes the page private (R167, R169, R304). -/
def State.engineLocate (s : State) (o : EngineOp) (va : Nat) (write : Bool) : State × EngineLoc :=
  match regionOf va with
  | none => (s, .fail 0x064)
  | some .translated => s.engineTranslate o va write
  | some .remote => (s, .remote ((va - 0x00F0000000000000) / 65536) (va % 65536))
  | some .gang => (s, if write then .fail 0x063 else .mem (fixedKey va))
  | some .streamTable => (s, if write && decide (va % 128 < 0x60) then .fail 0x063 else .mem (fixedKey va))
  | some .window =>
    match s.windowOf o.stream o.owner va 0 with
    | .error t => (s, .fail t.cause)
    | .ok (n, p) =>
      if write ∧ (s.stream n).state = .frozen then (s, .fail 0x169)
      else
        let (s0, ready) := match s.pageAt n p with
          | some page => s.enginePage o.id page
          | none => (s, true)
        if !ready || (write && s0.copyWaits n p) then (s0, .pending)
        else if write then
          match s0.windowWrite o.agent o.l n p with
          | none => (s0, .fail 0x167)
          | some (s1, page, t) => if clockLimit ≤ t then (s0, .fail 0x0A6) else (s1, .mem (pageKey page (va % 4096)))
        else
          match s0.pageAt n p with
          | none => (s0, .zero)
          | some page => (s0, .mem (pageKey page (va % 4096)))

/-- The clock of an operation after a descriptor step that locating its write made (R323, R327). -/
def EngineOp.after (o : EngineOp) (s s1 : State) : EngineOp :=
  let n := handleId o.stream
  if (s1.line (descLine n)).wts = (s.line (descLine n)).wts then o else { o with l := max o.l (s1.line (descLine n)).wts }

/-- An engine's access that must write its race log first: none where it can, else how the access waits or fails (R113, R358). -/
def State.logWait (s : State) (o : EngineOp) : Option (State × EngineLoc) :=
  match s.logWay o.owner o.id o.agent o.l o.racemode with
  | .clock => some (s, .fail 0x0A6)
  | .ready => none
  | .held line => some (s.askHost line, .pending)
  | .absent va =>
    if o.xfail = some (pageOf va) then some (s, .fail 0x062)
    else if s.stillHeld o.owner va o.waiter then some (s, .pending)
    else some (s.holdFaultAs o.owner va o.agent o.waiter 3 o.slot, .pending)

/-- An engine's access to a line: `ws` are the words that its operation touches there (R344). It takes its place in the order
with the operation's clock, is checked by the operation's race mode, and is recorded with P (R332, R343, R349, R359). A race
found in precise mode, poison or a clock past its limit gives the failing cause and leaves the line as it was. -/
def State.engineAccess (s : State) (o : EngineOp) (key va : Nat) (ws : List Nat) (write : Bool) : State × EngineLoc :=
  let line := key / 64
  if s.otherHolds o.id line then ((s.askHost line).queueFor o.id line, .pending)
  else if !write && s.starves o.owner line then (s.queueFor o.id line, .pending)
  else if !write && (s.settle none line).poison.contains line then ((s.unqueue o.id line).settle none line, .fail 0x066)
  else
    let s := s.unqueue o.id line
    let s1 := s.settle none line
    let r : Req := { agent := o.agent, l := o.l, h := o.h, epoch := o.epoch, scope := 4, atomic := false, key := line * 64, size := 64,
                     read := !write, write := write, tag := some o.p, only := some ws }
    let t := r.time (s1.line line)
    if clockLimit ≤ t then (s, .fail 0x0A6)
    else
      let checked := keyChecked key write
      let v : Verdict := if checked then s1.raceCheck r else { race := none, adv := none }
      let m := (s1.metaFor line o.epoch).getD { epoch := o.epoch }
      let report := o.racemode.getLsbD 0
      let step := (o.core.map s1.superstep).getD 0
      let record (cause : Nat) (adv : Bool) : List Word :=
        raceRecord m { r with l := o.p + 1 } cause 3 adv report o.pc.toNat (va / 64 * 64) o.stream.toNat step
      let log (s : State) (cause : Nat) (adv : Bool) : State :=
        s.appendLog (o.core.getD 0) o.owner o.agent o.l o.racemode (record cause adv)
      let go (s : State) : State :=
        let s2 := (s.place326 r).1
        if checked then s2.recordAccess r t else s2
      match v.race, v.adv with
      | some cause, _ =>
        (s.logWait o).getD (if report then (go (log s1 cause false), .mem key) else (log s cause false, .fail cause))
      | none, some cause =>
        if o.racemode.getLsbD 2 then (s.logWait o).getD (go (log s1 cause true), .mem key) else (go s1, .mem key)
      | none, none => (go s1, .mem key)

/-- What an engine's read of a line gives. -/
inductive LineGot where
  | bytes (bs : List Byte)
  | pending
  | fail (cause : Nat)
  deriving DecidableEq, Repr

/-- Read the 64-byte line at an address, of which the operation touches the words `ws` (R302, R304). -/
def State.engineRead (s : State) (o : EngineOp) (va : Nat) (ws : List Nat) : State × LineGot :=
  let base := va / 64 * 64
  match s.engineLocate o va false with
  | (s1, .zero) => (s1, .bytes (List.replicate 64 0))
  | (s1, .remote core off) =>
    let c := s1.core core
    let o0 := off / 64 * 64
    if c.mode (bankOf off) ≠ 0 ∨ c.tag (bankOf off) ≠ o.owner then (s, .fail 0x063)
    else if ws.any (fun w => s1.localBad core (o0 + 8 * w) 8) then (s, .fail 0x066)
    else (s1, .bytes (s1.mem.bytes (localKey core o0) 64))
  | (s1, .mem key) =>
    match s1.engineAccess o key base ws false with
    | (s2, .mem _) => (s2, .bytes (s2.homeBytes (key / 64 * 64) 64))
    | (s2, .fail c) => (s2, .fail c)
    | (s2, _) => (s2, .pending)
  | (s1, .pending) => (s1, .pending)
  | (s1, .fail c) => (s1, .fail c)

/-- Take exclusive hold of the line at an address for an operation's writes (R303, R332). Another core's local memory is no
coherent line, and is not held. -/
def State.engineHold (s : State) (o : EngineOp) (va : Nat) (ws : List Nat) : State × EngineLoc :=
  match s.engineLocate o va true with
  | (s1, .mem key) =>
    match s1.engineAccess (o.after s s1) key (va / 64 * 64) ws true with
    | (s2, .mem _) => ({ s2 with lines := s2.lines.set (key / 64) { s2.line (key / 64) with held := some (.engine o.id) } }, .mem key)
    | r => r
  | r => r

/-- Time and hold a line that an operation does not write since it stops (R332): unchecked. -/
def State.reserveLine (s : State) (o : EngineOp) (line : Nat) : State × EngineLoc :=
  if s.otherHolds o.id line then ((s.askHost line).queueFor o.id line, .pending)
  else
    let s1 := (s.unqueue o.id line).settle none line
    let r : Req := { agent := o.agent, l := o.l, h := o.h, epoch := o.epoch, scope := 4, atomic := false, key := line * 64, size := 64,
                     read := false, write := true, tag := some o.p }
    if clockLimit ≤ r.time (s1.line line) then (s, .fail 0x0A6)
    else
      let s2 := (s1.place326 r).1
      ({ s2 with lines := s2.lines.set line { s2.line line with held := some (.engine o.id) } }, .mem (line * 64))

/-- Give a line its read time for an operation that stops before it (R332): unchecked. -/
def State.timeRead (s : State) (o : EngineOp) (va : Nat) : State × LineGot :=
  match s.engineLocate o va false with
  | (s1, .mem key) =>
    let line := key / 64
    if s1.otherHolds o.id line then ((s1.askHost line).queueFor o.id line, .pending)
    else
      let s2 := (s1.unqueue o.id line).settle none line
      let r : Req := { agent := o.agent, l := o.l, h := o.h, epoch := o.epoch, scope := 4, atomic := false, key := line * 64, size := 64,
                       read := true, write := false, tag := some o.p }
      if clockLimit ≤ r.time (s2.line line) then (s, .fail 0x0A6) else ((s2.place326 r).1, .bytes (s2.homeBytes (line * 64) 64))
  | (s1, .pending) => (s1, .pending)
  | (s1, .fail c) => (s1, .fail c)
  | (s1, .remote core off) => (s1, .bytes (s1.mem.bytes (localKey core (off / 64 * 64)) 64))
  | (s1, .zero) => (s1, .bytes (List.replicate 64 0))

/-- Time and hold the line at an address that a stopping operation does not write (R332). -/
def State.engineReserve (s : State) (o : EngineOp) (va : Nat) : State × EngineLoc :=
  match s.engineLocate o va false with
  | (s1, .mem key) => s1.reserveLine o (key / 64)
  | r => r

/-- Release a line that an operation holds. -/
def State.letGo (s : State) (id line : Nat) : State :=
  if (s.line line).held = some (.engine id) then { s with lines := s.lines.set line { s.line line with held := none } } else s

/-- The handle that goes with a write of an engine to a line (R171): none where it is no stream page. -/
def madeUnder (line : Nat) (stream : Word) : List (Option Word) := if line * 64 / space = 4 ∧ stream ≠ 0 then [some stream] else []

/-- Write bytes of an engine into a line, by key, under the handle of its stream: a line written whole is no longer poisoned (R516). -/
def State.engineWrite (s : State) (line : Nat) (bs : Table Byte) (owner : Nat) (near : Bool) (stream : Word := 0) : State :=
  let s1 := s.homeWrite line bs 0 [] owner near (madeUnder line stream)
  if 64 ≤ bs.length then { s1 with poison := s1.poison.filter (· ≠ line) } else s1

/-- An engine's node instance completes with P (R130). -/
def State.engineDone (s : State) (die ticket p : Nat) : State :=
  match (s.caravan die).byTicket ticket with
  | some i => s.finishInst die { i with p := max i.p p }
  | none => s

/-- A stop or failed check of a node with no context (R415, R522): place word 0, the node record's address, and the launch
ends with ECODE 0x14. -/
def State.engineTrap (s : State) (slot cause : Nat) (async : Bool) (recAddr tval : Word) : State :=
  (s.utrap slot cause async 0 recAddr tval).stopLaunch slot 0x14 .error

/-- A node instance that does not complete leaves its Caravan and releases no edge (R522). -/
def State.engineLost (s : State) (die ticket : Nat) : State :=
  match (s.caravan die).byTicket ticket with
  | some i => i.rows.foldl (fun s r => s.readmit r) ((s.dropInst die i.id).readmit i.entry.stream)
  | none => s

end Sys2Proof.Machine
end

