-- ==== Sys2Proof/Machine/Copies.lean ====
section
/-! DEFINITION. Copies (R297-R307): requests, their elements, the issue point, and writing, finishing and stopping a copy. -/
namespace Sys2Proof.Machine

/-! ### Requests (R298, R299) -/

/-- The fields of a copy request. -/
structure CopyReq where
  src  : Nat
  dst  : Nat
  rows : Nat
  cols : Nat
  ss   : Nat
  ds   : Nat
  vr   : Nat
  vc   : Nat
  bar  : Nat
  ty   : Nat
  kind : Nat
  seq  : Bool
  sat  : Bool
  deriving DecidableEq, Repr

/-- The request of four words. -/
def copyReq (ws : List Word) : CopyReq :=
  let w2 := ws.getD 2 0
  let w3 := ws.getD 3 0
  { src := (ws.getD 0 0).toNat, dst := (ws.getD 1 0).toNat, rows := field w2 0 12, cols := field w2 12 12, ss := field w2 24 20,
    ds := field w2 44 20, vr := field w3 24 12, vc := field w3 36 12, bar := field w3 8 16, ty := field w3 4 4,
    kind := field w3 0 4, seq := w3.getLsbD 48, sat := w3.getLsbD 49 }

/-- Element size in bytes (R299). -/
def CopyReq.es (q : CopyReq) : Nat := tyBits q.ty / 8
/-- Destination arithmetic: kinds add, min and max. -/
def CopyReq.arith (q : CopyReq) : Bool := decide (3 ≤ q.kind)

/-- GM.HOLE and GM.ALIGN of one element (R267, R268, R299). -/
def elemBad (va n : Nat) : Option Nat :=
  if regionOf va = none ∨ regionOf (va + n - 1) = none then some 0x064 else if va % n ≠ 0 then some 0x061 else none

/-- Check the first and last element of an extent: the cause and the address. -/
def extentCheck (base step cols rows es : Nat) : Option (Nat × Word) :=
  let last := (base + ((rows - 1) * step + cols - 1) * es) % 2 ^ 64
  match elemBad base es, elemBad last es with
  | some c, _ => some (c, BitVec.ofNat 64 base)
  | none, some c => some (c, BitVec.ofNat 64 last)
  | none, none => none

/-- Check an index block (R300). -/
def blockCheck (block rows : Nat) : Option (Nat × Word) :=
  let last := block + 8 + 4 * (rows - 1)
  if regionOf block = none ∨ regionOf (block + 7) = none then some (0x064, BitVec.ofNat 64 block)
  else if block % 64 ≠ 0 then some (0x061, BitVec.ofNat 64 block)
  else if regionOf last = none ∨ regionOf (last + 3) = none then some (0x064, BitVec.ofNat 64 last)
  else none

/-- The checks of CPQ (R299, R300, R316): the failing cause and %tval, `aval` for a CPY cause. -/
def copyCheck (ws : List Word) (aval : Word) : Option (Nat × Word) :=
  let q := copyReq ws
  let last := (q.dst + ((q.rows - 1) * q.ds + q.cols - 1) * q.es) % 2 ^ 64
  if field (ws.getD 3 0) 50 14 ≠ 0 ∨ q.rows = 0 ∨ q.cols = 0 ∨ q.bar % 32 ≠ 0 then some (0x143, aval)
  else if 5 < q.kind then some (0x141, aval)
  else if 12 < q.ty ∨ (q.arith = true ∧ !([2, 3, 6, 7, 8, 9].contains q.ty)) then some (0x142, aval)
  else if q.arith && regionOf q.dst ≠ some .remote then some (0x143, aval)
  else
    (if q.kind = 1 then blockCheck q.src q.rows else extentCheck q.src q.ss q.cols q.rows q.es).or
      (if q.kind = 2 then blockCheck q.dst q.rows
       else (extentCheck q.dst q.ds q.cols q.rows q.es).or
         (if (regionOf q.dst = some .remote ∨ regionOf last = some .remote) ∧ q.dst / 65536 ≠ last / 65536 then
            some (0x065, BitVec.ofNat 64 q.dst) else none))

/-! ### Elements (R300, R301) -/

/-- An element that a copy handles: row, column, source address (none: zero is written) and destination address. -/
structure CopyElem where
  row : Nat
  col : Nat
  src : Option Nat
  dst : Nat
  deriving DecidableEq, Repr

/-- Bytes of a source line that the copy has read. -/
def CopyJob.snapBytes (j : CopyJob) (va n : Nat) : Option (List Byte) :=
  (j.snap.find (va / 64)).map (fun bs => (bs.drop (va % 64)).take n)

/-- Where row r lies at source and destination; none while its index has not been read. -/
def CopyJob.rowBase (j : CopyJob) (q : CopyReq) (r : Nat) : Option (Nat × Nat) :=
  let sb := q.src + r * q.ss * q.es
  let db := q.dst + r * q.ds * q.es
  if r < q.vr ∧ (q.kind = 1 ∨ q.kind = 2) then
    let block := if q.kind = 1 then q.src else q.dst
    match j.snapBytes block 8, j.snapBytes (block + 8 + 4 * r) 4 with
    | some b, some i =>
      if q.kind = 1 then some (natOfBytes b + natOfBytes i * q.ss * q.es, db)
      else some (sb, natOfBytes b + natOfBytes i * q.ds * q.es)
    | _, _ => none
  else some (sb, db)

/-- The elements of one row in ascending column order. -/
def CopyReq.rowCells (q : CopyReq) (r sb db : Nat) : List CopyElem :=
  let valid (c : Nat) : Bool := decide (r < q.vr) && decide (c < q.vc)
  ((List.range q.cols).filter (fun c => !q.arith || valid c)).map (fun c =>
    { row := r, col := c, src := if valid c then some ((sb + c * q.es) % 2 ^ 64) else none, dst := (db + c * q.es) % 2 ^ 64 })

/-- The elements of n rows from row r, and whether every row's place is known. -/
def CopyJob.rowsFrom (j : CopyJob) (q : CopyReq) : Nat → Nat → List CopyElem × Bool
  | 0, _ => ([], true)
  | n + 1, r =>
    match j.rowBase q r with
    | none => ([], false)
    | some (sb, db) =>
      let rest := CopyJob.rowsFrom j q n (r + 1)
      (q.rowCells r sb db ++ rest.1, rest.2)

/-- The elements that a copy handles in row-major order, and whether every one is known. -/
def CopyJob.elems (j : CopyJob) : List CopyElem × Bool :=
  let q := copyReq j.words
  j.rowsFrom q (if q.kind = 2 ∨ q.arith then min q.rows q.vr else q.rows) 0

/-- Whether an element comes before the copy's stop. -/
def CopyJob.before (j : CopyJob) (row col : Nat) : Bool :=
  match j.fail with
  | none => true
  | some (_, r, c) => decide (row < r) || (decide (row = r) && decide (col < c))

/-- The elements before the stop. -/
def CopyJob.live (j : CopyJob) : List CopyElem := j.elems.1.filter (fun e => j.before e.row e.col)

/-! ### The issue point (R302, R303, R332) -/

/-- A copy's accesses: L is P for sources and P + 1 for destinations. -/
def CopyJob.op (j : CopyJob) (cl : Nat) (write : Bool) : EngineOp :=
  { id := j.id, agent := clusterAgent 1 cl, l := if write then j.p + 1 else j.p, h := j.p, p := j.p, epoch := j.epoch, slot := j.slot,
    owner := j.owner, cluster := cl, racemode := j.racemode, pc := j.pc, stream := j.stream,
    core := match j.issuer with
      | .ctx o _ => some o.core
      | .node _ _ _ => none,
    xfail := j.xfail }

/-- A pass over a copy's lines: the state, the copy, and whether a line still waits for a page or for another engine. -/
structure CopyPass where
  s    : State
  j    : CopyJob
  open_ : Bool
  deriving DecidableEq, Repr

/-- Note a stop at an element, unless the copy stops before it. -/
def CopyJob.failAt (j : CopyJob) (cause row col : Nat) : CopyJob :=
  if j.before row col then { j with fail := some (cause, row, col) } else j

/-- Read one source line for the copy, once; a line of elements that the copy does not reach takes its read time alone (R332). -/
def CopyPass.readLine (x : CopyPass) (cl va : Nat) (ws : List Nat) (row col : Nat) : CopyPass :=
  if (x.j.snap.find (va / 64)).isSome then x
  else
    match (if x.j.before row col then x.s.engineRead (x.j.op cl false) va ws else x.s.timeRead (x.j.op cl false) va) with
    | (s1, .bytes bs) => { x with s := s1, j := { x.j with snap := x.j.snap.set (va / 64) bs } }
    | (s1, .pending) => { x with s := s1, open_ := true }
    | (s1, .fail c) => { x with s := s1, j := x.j.failAt c row col }

/-- Read the index block's lines; a line's failure is at the first row whose index lies there. -/
def CopyPass.readIndex (x : CopyPass) (cl : Nat) : CopyPass :=
  let q := copyReq x.j.words
  let n := min q.rows q.vr
  if (q.kind ≠ 1 ∧ q.kind ≠ 2) ∨ n = 0 then x
  else
    let block := if q.kind = 1 then q.src else q.dst
    let size := 8 + 4 * n
    (List.range ((size + 63) / 64)).foldl (fun x i =>
      x.readLine cl (block + 64 * i) ((List.range 8).filter (fun w => 64 * i + 8 * w < size)) ((64 * i - 8) / 4) 0) x

/-- The words of the line of `va` that a list of addresses touches. -/
def wordsIn (vas : List Nat) (va : Nat) : List Nat :=
  ((vas.filter (fun a => a / 64 = va / 64)).map (fun a => a % 64 / 8)).dedup

/-- Read the source lines of the elements in row-major order. -/
def CopyPass.readSources (x : CopyPass) (cl : Nat) : CopyPass :=
  let es := x.j.elems.1
  let n := (copyReq x.j.words).es
  let vas := es.filterMap (·.src)
  es.foldl (fun x e =>
    match e.src with
    | none => x
    | some va =>
      match elemBad va n with
      | some c => { x with j := x.j.failAt c e.row e.col }
      | none => x.readLine cl va (wordsIn vas va) e.row e.col) x

/-- The core of the first destination in the 0x00F0 region: a copy that reaches another core's stops there (R300). -/
def destCore (es : List CopyElem) : Option Nat := (es.find? (fun e => regionOf e.dst = some .remote)).map (·.dst / 65536)

/-- Hold the destination lines of the elements in row-major order: those before the stop as the copy writes them, the others, which
it never writes (one whose race check fails among them), for their store time alone (R303, R332). -/
def CopyPass.holdDests (x : CopyPass) (cl : Nat) : CopyPass :=
  let es := x.j.elems.1
  let n := (copyReq x.j.words).es
  let vas := x.j.live.map (·.dst)
  let core := destCore es
  es.foldl (fun x e =>
    if (x.j.dests.find (e.dst / 64)).isSome then x
    else
      match elemBad e.dst n with
      | some c => { x with j := x.j.failAt c e.row e.col }
      | none =>
        if regionOf e.dst = some .remote then
          (if core = some (e.dst / 65536) then x else { x with j := x.j.failAt 0x065 e.row e.col })
        else
        match (if x.j.before e.row e.col then x.s.engineHold (x.j.op cl true) e.dst (wordsIn vas e.dst)
            else x.s.engineReserve (x.j.op cl true) e.dst) with
        | (s1, .mem key) => { x with s := s1, j := { x.j with dests := x.j.dests.set (e.dst / 64) (key / 64) } }
        | (s1, .fail c) =>
          let j := x.j.failAt c e.row e.col
          match s1.engineReserve (j.op cl true) e.dst with
          | (s2, .mem key) => { x with s := s2, j := { j with dests := j.dests.set (e.dst / 64) (key / 64) } }
          | (s2, .pending) => { x with s := s2, j := j, open_ := true }
          | (s2, _) => { x with s := s2, j := j }
        | (s1, .pending) => { x with s := s1, open_ := true }
        | _ => x) x

/-- The issue point of a copy, and again as pages become present and other engines let lines go: sources, then
destinations. -/
def State.placeCopy (s : State) (cl : Nat) (j : CopyJob) : State × CopyJob :=
  if j.settled then (s, j)
  else
    let x := ((({ s := s, j := j, open_ := false } : CopyPass).readIndex cl).readSources cl).holdDests cl
    (x.s, { x.j with settled := !x.open_ && (x.j.elems.2 || x.j.fail.isSome) })

/-! ### Carrying a copy out -/

/-- Bytes that element e takes to its destination. -/
def CopyJob.cell (j : CopyJob) (n : Nat) (e : CopyElem) : List Byte :=
  match e.src with
  | none => List.replicate n 0
  | some va => (j.snapBytes va n).getD (List.replicate n 0)

/-- Number the updates of a copy for its destination core in its source's sequence (R307). -/
def State.numberCopy (s : State) (cl : Nat) (j : CopyJob) : State × CopyJob :=
  let q := copyReq j.words
  if !q.arith then (s, j)
  else
    let dest := (q.dst - 0x00F0000000000000) / 65536
    let n := min q.rows q.vr * min q.cols q.vc
    match j.issuer with
    | .ctx o _ =>
      let k := (s.core o.core).seqOut.get 0 dest
      (s.onCore o.core (fun c => { c with seqOut := c.seqOut.set dest (k + n) }), { j with num := k })
    | .node _ _ _ =>
      let k := s.engSeq.get 0 (cl * 40960 + dest)
      ({ s with engSeq := s.engSeq.set (cl * 40960 + dest) (k + n) }, { j with num := k })

/-- The posted updates of a copy of kind add, min or max, in row-major order (R307). -/
def CopyJob.updates (j : CopyJob) (cl : Nat) : List (Nat × Posted) :=
  let q := copyReq j.words
  let es := j.live
  ((List.range es.length).zip es).map (fun ie =>
    ((ie.2.dst - 0x00F0000000000000) / 65536,
     { src := .copy cl j.id ie.2.row ie.2.col,
       source := match j.issuer with
         | .ctx o _ => .inl o.core
         | .node _ _ _ => .inr cl,
       owner := j.owner, off := ie.2.dst % 65536, bytes := j.cell q.es ie.2,
       kind := .arith (q.kind - 3) q.ty q.sat (if q.seq then some (j.num + ie.1) else none) }))

/-- Send a settled copy's updates (R307). -/
def State.sendUpdates (s : State) (cl : Nat) (j : CopyJob) : State × CopyJob :=
  if !(copyReq j.words).arith || !j.settled || j.sent then (s, j)
  else
    let us := j.updates cl
    (us.foldl (fun s u => s.onCore u.1 (fun c => { c with inbox := c.inbox ++ [u.2] })) s,
     { j with sent := true, left := us.length })

/-- Why a bank of another core refuses a copy's element (R160, R304). -/
def State.bankRefuses (s : State) (g off owner : Nat) : Bool :=
  s.dev.gated.contains (clusterOf g) || decide ((s.core g).mode (bankOf off) ≠ 0) || decide ((s.core g).tag (bankOf off) ≠ owner)

/-- Write the elements in ascending row-major order: lines of memory gather their bytes, other cores' words are written at once;
a bank that refuses stops the copy there (R304). The spec names no cause for that stop: it is a free value (log 5). -/
def State.writeElems (s : State) (j : CopyJob) (n : Nat) : Table (Table Byte) → List CopyElem → State × Table (Table Byte) × Option (Nat × Nat × Nat)
  | t, [] => (s, t, none)
  | t, e :: r =>
    let bs := j.cell n e
    if regionOf e.dst = some .remote then
      let g := (e.dst - 0x00F0000000000000) / 65536
      let off := e.dst % 65536
      if s.bankRefuses g off j.owner then
        ({ s with free := s.free + 1 }, t, some ((Config.freeValue s.free).toNat % 512, e.row, e.col))
      else State.writeElems (s.localWrite g off bs) j n t r
    else
      let line := j.dests.get 0 (e.dst / 64)
      let old := t.get [] line
      let new := (byteTable (line * 64 + e.dst % 64) bs).foldl (fun t b => t.set b.1 b.2) old
      State.writeElems s j n (t.set line new) r

/-- A barrier count that finds a bank that is not SPAD or carries another owner's tag stops the copy with CPY.ARG (R306, R375); the
spec gives that stop no element: row and column are a free value (log 5). -/
def State.countCopy (s : State) (j : CopyJob) : State × Option (Nat × Nat × Nat) :=
  let q := copyReq j.words
  match j.issuer with
  | .ctx o _ =>
    if q.bar = 0 then (s, none)
    else if (s.core o.core).mode (bankOf q.bar) ≠ 0 ∨ (s.core o.core).tag (bankOf q.bar) ≠ j.owner then
      let f := (Config.freeValue s.free).toNat
      ({ s with free := s.free + 1 }, some (0x143, f % 4096, f / 4096 % 4096))
    else
      let u : BarUpdate := { off := q.bar, arrivals := 0, bytes := q.rows * q.cols * q.es, expected := 0, p := j.p, owner := j.owner }
      (s.onCore o.core (fun c => { c with barq := c.barq ++ [u] }), none)
  | .node _ _ _ => (s, none)

/-- What a settled copy leaves when it has written all it writes (R303, R304, R306): the state, and where it stopped. None while
it cannot finish yet. -/
def State.carryOut (s : State) (j : CopyJob) : Option (State × Option (Nat × Nat × Nat)) :=
  let q := copyReq j.words
  if !j.settled || (q.arith && (!j.sent || decide (j.left ≠ 0))) then none
  else
    let (s1, t, f) := if q.arith then (s, [], none) else s.writeElems j q.es [] j.live
    let s2 := t.foldl (fun s l => s.engineWrite l.1 l.2 j.owner false j.stream) s1
    let s3 := j.dests.foldl (fun s d => s.letGo j.id d.2) s2
    match f.or j.fail with
    | some x => some (s3, some x)
    | none => some (s3.countCopy j)

/-- CPSTAT.err's word of a copy (R318). -/
def copyErrWord (cause row col : Nat) : Word := BitVec.ofNat 64 (cause % 512 + col % 4096 * 2 ^ 16 + row % 4096 * 2 ^ 28)

/-- One operation of a batch has finished with P (R305). -/
def Batch.finish (b : Batch) (id p : Nat) (failed : Bool) : Batch :=
  if b.ops.contains id then { b with ops := b.ops.filter (· ≠ id), p := max b.p p, failed := b.failed || failed } else b

/-- An operation of a context has finished (R305). -/
def Ctx.finishOp (c : Ctx) (id p : Nat) (failed : Bool) : Ctx :=
  { c with openBatch := c.openBatch.finish id p failed, batches := c.batches.map (fun (b : Batch) => b.finish id p failed) }

/-- A copy completes, or stops at an element (R304, R305, R522). -/
def State.endCopy (s : State) (cl : Nat) (j : CopyJob) (stop : Option (Nat × Nat × Nat)) : State :=
  let s1 := { s with jobs := s.jobs.set cl ((s.jobs.get [] cl).filter (fun k => k.id ≠ j.id)) }.unqueueAll j.id
  match j.issuer, stop with
  | .ctx o _, none => s1.onOrigin o o.ctx (·.finishOp j.id j.p false)
  | .ctx o num, some (c, row, col) =>
    let w := copyErrWord c row col
    let s2 := s1.onOrigin o o.ctx (·.finishOp j.id j.p true)
    let s3 := if o.ended then s2 else s2.onOrigin o o.ctx (fun x => { x with errWord := w, errNum := BitVec.ofNat 64 num })
    s3.post o (.copy false w)
  | .node die ticket _, none => s1.engineDone die ticket j.p
  | .node die ticket recAddr, some (c, row, col) =>
    (s1.engineLost die ticket).engineTrap j.slot 0x144 true recAddr (copyErrWord c row col)

/-- Go on with a copy that the engine has taken: lines that were not free yet, and updates to send. -/
def State.advanceCopy (s : State) (cl : Nat) (j : CopyJob) : State × CopyJob :=
  let (s1, j1) := s.placeCopy cl j
  s1.sendUpdates cl j1

/-- Go on with every copy of a cluster's engine, the oldest first. -/
def State.advanceCopies (s : State) (cl : Nat) : State :=
  let (s1, js) := (s.jobs.get [] cl).foldl (fun (acc : State × List CopyJob) j =>
    let (t, j1) := acc.1.advanceCopy cl j
    (t, acc.2 ++ [j1])) (s, [])
  { s1 with jobs := s1.jobs.set cl js }

/-- The copies of an owner that wait translate again (R113), in the engines and in the FIFOs of the cores: lines that a page now present
holds are read and taken before any later access (R302, R303). -/
def State.placeCopies (s : State) (owner : Nat) : State :=
  let pass (cl : Nat) (s : State) (js : List CopyJob) : State × List CopyJob :=
    js.foldl (fun (acc : State × List CopyJob) j =>
      let (t, j1) := if j.owner = owner then acc.1.placeCopy cl j else (acc.1, j)
      (t, acc.2 ++ [j1])) (s, [])
  let s1 := s.jobs.foldl (fun s e =>
    let (t, js) := pass e.1 s e.2
    { t with jobs := t.jobs.set e.1 js }) s
  (s1.cores.filter (fun e => !e.2.cpq.isEmpty)).foldl (fun s e =>
    let (t, js) := pass (clusterOf e.1) s e.2.cpq
    t.onCore e.1 (fun c => { c with cpq := js })) s1

/-- The first copy of a cluster's engine that can end, by completing or by stopping, and the state it leaves. -/
def State.firstEnd (s : State) (cl : Nat) (stops : Bool) : Option State :=
  (s.jobs.get [] cl).findSome? (fun j =>
    match s.carryOut j with
    | some (t, f) => if f.isSome = stops then some (t.endCopy cl j f) else none
    | none => none)

/-- COPY_COMPLETE and COPY_STOP (R303, R304): the copies go on, and the first that so ends does. -/
def State.stepCopies (s : State) (cl : Nat) (stops : Bool) : State :=
  let s1 := s.advanceCopies cl
  (s1.firstEnd cl stops).getD s1

/-- Whether a SEQ update waits for lower-numbered ones of its source that a copy has not yet sent (R307). -/
def State.heldBack (s : State) (g : Nat) (p : Posted) : Bool :=
  match p.kind with
  | .arith _ _ _ (some n) =>
    let mine (cl : Nat) (j : CopyJob) : Bool :=
      let q := copyReq j.words
      q.arith && q.seq && !j.sent && decide ((q.dst - 0x00F0000000000000) / 65536 = g) && decide (j.num < n)
        && decide (p.source = (match j.issuer with
          | .ctx o _ => .inl o.core
          | .node _ _ _ => .inr cl))
        && j.live.any (fun e => decide (bankOf (e.dst % 65536) = bankOf p.off))
    match p.source with
    | .inl h => ((s.core h).cpq ++ s.jobs.get [] (clusterOf h)).any (mine (clusterOf h))
    | .inr cl => (s.jobs.get [] cl).any (mine cl)
  | _ => false

end Sys2Proof.Machine
end

