-- ==== Sys2Proof/Machine/NearMem.lean ====
section
/-! DEFINITION. Near-memory commands (R311-R314): their checks, issue point, arithmetic, and ends. -/
namespace Sys2Proof.Machine

/-! ### Commands (R311, R312) -/

/-- The fields of a near-memory command. -/
structure NearReq where
  op    : Nat
  ty    : Nat
  count : Nat
  alpha : Nat
  beta  : Nat
  bar   : Nat
  w     : Nat
  x     : Nat
  deriving DecidableEq, Repr

/-- The command of four words; TYPE as a TY code. -/
def nearReq (ws : List Word) : NearReq :=
  let d0 := ws.getD 0 0
  let d1 := ws.getD 1 0
  { op := field d0 0 4, ty := if field d0 4 4 = 0 then 8 else 9, count := field d0 8 16 + 1, alpha := field d0 32 32,
    beta := field d1 32 32, bar := field d1 0 16, w := (ws.getD 2 0).toNat, x := (ws.getD 3 0).toNat }

/-- Element size in bytes. -/
def NearReq.es (q : NearReq) : Nat := tyBits q.ty / 8
/-- The operations that read x: axpy, decay, copy and sum (R313). -/
def NearReq.readsX (q : NearReq) : Bool := [0, 2, 5, 6].contains q.op
/-- The operations that read w: axpy, scale, decay and clamp. -/
def NearReq.readsW (q : NearReq) : Bool := decide (q.op ≤ 3)
/-- Bytes of the destination extent. -/
def NearReq.wSize (q : NearReq) : Nat := if q.op = 6 then 4 else q.count * q.es
/-- Bytes of the source extent. -/
def NearReq.xSize (q : NearReq) : Nat := q.count * q.es
/-- Offset of element i's destination. -/
def NearReq.wOff (q : NearReq) (i : Nat) : Nat := if q.op = 6 then 0 else i * q.es

/-- The checks of NMC that need no translation (R313, R320): the failing cause and %tval. -/
def nearCheck (ws : List Word) (aval : Word) : Option (Nat × Word) :=
  let q := nearReq ws
  let region (va n : Nat) : Option (Nat × Word) :=
    if regionOf va = none ∨ regionOf (va + n - 1) = none then some (0x064, BitVec.ofNat 64 va)
    else if regionOf va ≠ some .translated ∨ regionOf (va + n - 1) ≠ some .translated then some (0x146, aval)
    else none
  if 6 < q.op then some (0x145, aval)
  else if 1 < field (ws.getD 0 0) 4 4 ∨ field (ws.getD 0 0) 24 8 ≠ 0 ∨ field (ws.getD 1 0) 16 16 ≠ 0 ∨ q.bar % 32 ≠ 0 then some (0x143, aval)
  else if q.w % (if q.op = 6 then 4 else q.es) ≠ 0 then some (0x061, BitVec.ofNat 64 q.w)
  else if q.readsX = true ∧ q.x % q.es ≠ 0 then some (0x061, BitVec.ofNat 64 q.x)
  else (region q.w q.wSize).or (if q.readsX then region q.x q.xSize else none)

/-- What translating an extent of a command gives: its key, a wait, or the failing cause. -/
def State.nearExtent (s : State) (o : EngineOp) (va n : Nat) (write : Bool) : State × EngineLoc :=
  match s.translate o.cluster o.owner va with
  | (.page _ big, _) =>
    let size := if big then 2 ^ 21 else 2 ^ 16
    match s.engineTranslate o va write with
    | (s1, .mem key) =>
      if va / size ≠ (va + n - 1) / size ∨ hbmKey space ≤ key then (s, .fail 0x146) else (s1, .mem key)
    | r => r
  | _ => s.engineTranslate o va write

/-- What the issue of a command finds: its translated addresses, a wait, or a failing cause and %tval. -/
inductive NearGot where
  | keys (w x : Nat)
  | pending
  | fail (cause : Nat) (tval : Word)
  deriving DecidableEq, Repr

/-- %tval of a failing extent: the address for a GM cause. -/
def nearTval (cause va : Nat) (aval : Word) : Word := if cause < 0x140 then BitVec.ofNat 64 va else aval

/-- Translate a command's extents and check that they do not overlap (R313). -/
def State.nearKeys (s : State) (o : EngineOp) (ws : List Word) (aval : Word) : State × NearGot :=
  let q := nearReq ws
  match s.nearExtent o q.w q.wSize true with
  | (s1, .mem wk) =>
    if q.readsX then
      match s1.nearExtent o q.x q.xSize false with
      | (s2, .mem xk) =>
        if wk < xk + q.xSize ∧ xk < wk + q.wSize then (s, .fail 0x147 aval) else (s2, .keys wk xk)
      | (s2, .fail c) => (s2, .fail c (nearTval c q.x aval))
      | (s2, _) => (s2, .pending)
    else (s1, .keys wk 0)
  | (s1, .fail c) => (s1, .fail c (nearTval c q.w aval))
  | (s1, _) => (s1, .pending)

/-! ### The issue point (R313, R332) -/

/-- The stack whose engine handles a key (R269). -/
def stackOf (key : Nat) : Nat := channelOf key / 64

/-- A command's accesses to a line: the agent is the engine of the stack that holds it. -/
def NearCmd.opAt (n : NearCmd) (key : Nat) : EngineOp :=
  { id := n.id, agent := unitAgent 3 (stackOf key), l := n.p + 1, h := n.p, p := n.p, epoch := n.epoch, slot := n.slot, owner := n.owner,
    cluster := channelOf key, racemode := n.racemode, pc := n.pc, stream := n.stream,
    core := match n.issuer with
      | .ctx o _ => some o.core
      | .node _ _ _ => none,
    xfail := none }

/-- The first element whose destination lies in a line at offset i x 64 of the destination's first line. -/
def NearReq.firstIn (q : NearReq) (wkey line : Nat) : Nat := if q.op = 6 then 0 else (line * 64 - wkey) / q.es

/-- Whether a command writes a line: it lies before the line at which it stops. -/
def NearCmd.before (n : NearCmd) (line : Nat) : Bool :=
  match n.fail with
  | none => true
  | some (_, f) => decide (line < (n.wkey + (nearReq n.words).wOff f) / 64)

/-- Hold one destination line: a race found in precise mode stops the command at it (R314); it and the lines beyond take a store time
alone (R332). The flag tells whether a line still waits. -/
def State.holdLine (x : State × NearCmd × Bool) (line : Nat) : State × NearCmd × Bool :=
  let (s, n, late) := x
  let q := nearReq n.words
  let lo := max (line * 64) n.wkey
  let hi := min (line * 64 + 64) (n.wkey + q.wSize)
  let ws := (List.range 8).filter (fun w => decide (lo < line * 64 + 8 * w + 8) && decide (line * 64 + 8 * w < hi))
  if n.lines.contains line then x
  else
    let (r, m) : (State × EngineLoc) × NearCmd :=
      if n.before line then
        match s.engineAccess (n.opAt lo) lo (q.w + (lo - n.wkey)) ws true with
        | (s1, .fail c) => (s1.reserveLine (n.opAt lo) line, { n with fail := some (c, q.firstIn n.wkey line) })
        | r => (r, n)
      else (s.reserveLine (n.opAt lo) line, n)
    match r with
    | (s1, .mem _) =>
      ({ s1 with lines := s1.lines.set line { s1.line line with held := some (.engine n.id) } }, { m with lines := m.lines ++ [line] }, late)
    | (s1, .pending) => (s1, m, true)
    | (s1, _) => (s1, m, late)

/-- The issue point of a command, and again as other engines let its lines go. -/
def State.placeNear (s : State) (n : NearCmd) : State × NearCmd :=
  if n.settled then (s, n)
  else
    let q := nearReq n.words
    let first := n.wkey / 64
    let x := ((List.range ((n.wkey + q.wSize - 1) / 64 + 1 - first)).map (first + ·)).foldl State.holdLine (s, n, false)
    (x.1, { x.2.1 with settled := !x.2.2 })

/-! ### Arithmetic (R312) -/

/-- The f32 result of an exact value, as a value. -/
def viaF32 (v : FVal) : FVal := f32 (f32Rne v)

/-- One element: the codes of w and x give the code stored. -/
def NearReq.element (q : NearReq) (w x : Nat) : Nat :=
  let f := fmtOf q.ty
  let rne (v : FVal) : Nat := f.ofVal .rne 0 false v
  let a := f32 q.alpha
  let b := f32 q.beta
  let wv := f.value w
  let xv := f.value x
  match q.op with
  | 0 => rne ((a.mul xv).add .rne wv)
  | 1 => rne (a.mul wv)
  | 2 =>
    let t1 := viaF32 (b.mul wv)
    let t2 := viaF32 (xv.add .rne t1)
    let t3 := viaF32 (a.mul t2)
    rne (wv.add .rne t3.neg)
  | 3 => rne ((wv.minMax true a).minMax false b)
  | 4 => rne a
  | _ => x

/-- The f32 sum of codes in ascending order. -/
def NearReq.total (q : NearReq) (xs : List Nat) : Nat :=
  xs.foldl (fun s x => f32Rne ((f32 s).add .rne ((fmtOf q.ty).value x))) 0

/-! ### Carrying a command out -/

/-- Source element i as the array holds it (R278, R313). -/
def State.nearX (s : State) (n : NearCmd) (i : Nat) : Nat :=
  let q := nearReq n.words
  natOfBytes ((List.range q.es).map (fun b => s.arrayByte (n.xkey + i * q.es + b)))

/-- Whether element i's source or destination word lies in a line in error that the command reads (R314). -/
def State.nearBad (s : State) (n : NearCmd) (i : Nat) : Bool :=
  let q := nearReq n.words
  (q.readsX && s.poison.contains ((n.xkey + i * q.es) / 64)) || (q.readsW && s.poison.contains ((n.wkey + q.wOff i) / 64))

/-- Whether a read of a command waits for a slot of class near-memory that its partition never gets (R279, R280, R313). -/
def State.nearStarves (s : State) (n : NearCmd) : Bool :=
  let q := nearReq n.words
  let linesOf (k size : Nat) : List Nat := (List.range ((k + size - 1) / 64 + 1 - k / 64)).map (k / 64 + ·)
  ((if q.readsX then linesOf n.xkey q.xSize else []) ++ (if q.readsW then linesOf n.wkey q.wSize else [])).any
    (fun l => s.starvesFor 2 n.owner l)

/-- Elements that a command updates when it stops at element f with a cause: those below, but for an error not those in f's
destination line (R314). -/
def NearReq.upto (q : NearReq) (wkey cause f : Nat) : Nat :=
  if cause = 0x148 then (if q.op = 6 then 0 else min f (((wkey + q.wOff f) / 64 * 64 - wkey + q.es - 1) / q.es)) else f

/-- Process a settled command, once its reads are served: it stops at the lowest element in error, else at its race; the elements before are sent to the
pseudo-channels (R313, R314). -/
def State.runNear (s : State) (n : NearCmd) : State × NearCmd :=
  if !n.settled || n.written || s.nearStarves n then (s, n)
  else
    let q := nearReq n.words
    let limit := (n.fail.map (·.2)).getD q.count
    let n1 := match (List.range (if n.fail.isSome then limit else q.count)).find? (s.nearBad n) with
      | some f => { n with fail := some (0x148, f) }
      | none => n
    let upto := match n1.fail with
      | none => q.count
      | some (c, f) => q.upto n.wkey c f
    let table : Table (Table Byte) :=
      if q.op = 6 then
        (if n1.fail.isSome then []
         else [(n.wkey / 64, byteTable n.wkey (bytesOfNat 4 (q.total ((List.range q.count).map (s.nearX n)))))])
      else
        (List.range upto).foldl (fun t i =>
          let k := n.wkey + i * q.es
          let w := natOfBytes (s.mem.bytes k q.es)
          let bs := byteTable k (bytesOfNat q.es (q.element w (if q.readsX then s.nearX n i else 0)))
          t.set (k / 64) (t.get [] (k / 64) ++ bs)) []
    let put (s : State) (l : Nat × Table Byte) : State :=
      let s1 := s.homeWrite l.1 l.2 n.id [] n.owner true (madeUnder l.1 n.stream)
      if 64 ≤ l.2.length then { s1 with poison := s1.poison.filter (· ≠ l.1) } else s1
    let s2 := table.foldl put s
    let s3 := match n1.fail with
      | some (0x148, f) =>
        let line := (n.wkey + q.wOff f) / 64
        { s2 with poison := if s2.poison.contains line then s2.poison else line :: s2.poison }
      | _ => s2
    (s3, { n1 with written := true })

/-- Whether a processed command's writes are all in the arrays. -/
def State.nearWritten (s : State) (n : NearCmd) : Bool := n.written && !s.array.any (fun w => w.near && decide (w.core = n.id))

/-- CPSTAT.err's word of a near-memory command (R318). -/
def nearErrWord (cause f num : Nat) : Word := BitVec.ofNat 64 (cause % 512 + 2 ^ 15 + f % 65536 * 2 ^ 16 + num % 2 ^ 32 * 2 ^ 32)

/-- A command of a context is complete (R320, R321). -/
def Ctx.finishNear (c : Ctx) (num p : Nat) (stopped : Bool) : Ctx :=
  { c with nmDone := num, nmOpen := c.nmOpen.filter (· ≠ num), nmP := max c.nmP p, nmStopped := c.nmStopped || stopped }

/-- Count a command's bytes at its barrier object (R306, R313); a bank that is not SPAD takes no count, and for a command the
spec names no stop (log 22). -/
def State.countNear (s : State) (n : NearCmd) : State :=
  let q := nearReq n.words
  match n.issuer with
  | .ctx o _ =>
    if q.bar = 0 then s
    else
      let u : BarUpdate := { off := q.bar, arrivals := 0, bytes := q.xSize, expected := 0, p := n.p, owner := n.owner }
      s.onCore o.core (fun c => { c with barq := c.barq ++ [u] })
  | .node _ _ _ => s

/-- A command completes or stops (R313, R314, R522). -/
def State.endNear (s : State) (n : NearCmd) : State :=
  let s1 := n.lines.foldl (fun s l => s.letGo n.id l) ({ s with near := s.near.filter (fun m => m.id ≠ n.id) }.unqueueAll n.id)
  match n.issuer, n.fail with
  | .ctx o num, none => if o.ended then s1.countNear n else (s1.countNear n).onOrigin o o.ctx (·.finishNear num n.p false)
  | .ctx o num, some (c, f) =>
    let s2 := if o.ended then s1 else s1.onOrigin o o.ctx (fun x =>
      { x.finishNear num n.p true with errWord := nearErrWord c f num, errNum := BitVec.ofNat 64 num })
    s2.post o (.nmue false (BitVec.ofNat 64 (num % 2 ^ 32 * 2 ^ 32 + f % 65536)))
  | .node die ticket _, none => s1.engineDone die ticket n.p
  | .node die ticket recAddr, some (c, f) => (s1.engineLost die ticket).engineTrap n.slot 0x148 true recAddr (nearErrWord c f 0)

/-- Go on with a command: its lines, its elements. -/
def State.advanceNear (s : State) (n : NearCmd) : State :=
  let (s1, n1) := s.placeNear n
  let (s2, n2) := s1.runNear n1
  { s2 with near := s2.near.map (fun (m : NearCmd) => if m.id = n.id then n2 else m) }

/-- NMC_EXECUTE and NMC_STOP (R313, R314): the commands whose first element lies in the stack go on, and the first that so ends
does. -/
def State.stepNear (s : State) (stack : Nat) (stops : Bool) : State :=
  let s1 := (s.near.filter (fun n => stackOf n.wkey = stack)).foldl (fun s n => s.advanceNear n) s
  match s1.near.find? (fun n => decide (stackOf n.wkey = stack) && s1.nearWritten n && n.fail.isSome = stops) with
  | some n => s1.endNear n
  | none => s1

end Sys2Proof.Machine
end

