-- ==== Sys2Proof/Machine/Streams.lean ====
section
/-! DEFINITION. The stream unit: identities and admission (R97, R166, R177, R178), the stream page map (R170), retirement (R474),
waking and freezing (R472, R487), Wadi's groups and their resolution (R481-R483), and stores of units (R483, R489). -/
namespace Sys2Proof.Machine

/-! ### Stores of units -/

/-- What a unit's store does: it is placed, and leaves this clock; it waits for a page, a line or the host; its address may not be written; or
it would be given a time past the clocks' limit (R361). -/
inductive UnitGot where
  | done (l : Nat)
  | pending
  | bad
  | clock
  deriving DecidableEq, Repr

/-- Cut bytes at an address into pieces that stay within a line; the first argument bounds their number. -/
def lineParts : Nat → Nat → List Byte → List (Nat × List Byte)
  | 0, _, _ => []
  | n + 1, va, bs => if bs = [] then [] else (va, bs.take (64 - va % 64)) :: lineParts n (va + (64 - va % 64)) (bs.drop (64 - va % 64))

/-- Words of a line that n bytes at an address touch. -/
def wordSpan (va n : Nat) : List Nat := (List.range 8).filter (fun w => decide (va % 64 / 8 ≤ w) && decide (w ≤ (va % 64 + n - 1) / 8))

/-- Find where each piece of a unit's store goes, before any of it is written. -/
def State.unitPrepare (s : State) (o : EngineOp) : List (Nat × List Byte) → State × Except UnitGot (List (Nat × List Byte × EngineLoc))
  | [] => (s, .ok [])
  | (va, bs) :: r =>
    match s.engineLocate o va true with
    | (s1, .pending) => (s1, .error .pending)
    | (s1, .fail c) => (s1, .error (if c = 0x0A6 then .clock else .bad))
    | (s1, loc) =>
      let waits := match loc with
        | .mem key => s1.engineHolds (key / 64)
        | _ => false
      let t := match loc with
        | .mem key => max o.l ((s1.line (key / 64)).rts + 1)
        | _ => o.l
      if clockLimit ≤ t then (s, .error .clock)
      else if waits then ((match loc with
          | .mem key => s1.askHost (key / 64)
          | _ => s1), .error .pending)
      else
        match State.unitPrepare s1 { o with l := t } r with
        | (s2, .ok l) => (s2, .ok ((va, bs, loc) :: l))
        | e => e

/-- Write the pieces, each as a store of the unit in its turn. -/
def State.unitPieces (s : State) (o : EngineOp) : List (Nat × List Byte × EngineLoc) → State × Nat
  | [] => (s, o.l)
  | (va, bs, loc) :: r =>
    match loc with
    | .mem key =>
      let (s1, _) := s.engineAccess o key va (wordSpan va bs.length) true
      let s2 := s1.engineWrite (key / 64) (byteTable key bs) o.owner false o.stream
      State.unitPieces s2 { o with l := (s2.line (key / 64)).wts } r
    | .remote g off =>
      let s1 := if decide ((s.core g).mode (bankOf off) = 0) && decide ((s.core g).tag (bankOf off) = o.owner) then s.localWrite g off bs else s
      State.unitPieces s1 o r
    | _ => State.unitPieces s o r

/-- Store bytes for a unit, tagged with its P and at scope pkg (R483, R489). -/
def State.unitStore (s : State) (o : EngineOp) (va : Nat) (bs : List Byte) : State × UnitGot :=
  match s.unitPrepare o (lineParts bs.length va bs) with
  | (s1, .error e) => (s1, e)
  | (s1, .ok l) =>
    let (s2, t) := s1.unitPieces o l
    (s2, .done t)

/-- The bytes of dwords. -/
def dwordBytes (ws : List Word) : List Byte := ws.flatMap (fun w => bytesOfNat 8 w.toNat)

/-! ### Identities -/

/-- Whether a stream ID is free to be taken: its slot is unused or retired (R177, R471). -/
def State.idFree (s : State) (n : Nat) : Bool := decide ((s.stream n).state = .free) || decide ((s.stream n).state = .retired)

/-- The lowest free ID of a home die (R177). -/
def State.lowestId (s : State) (die : Nat) : Option Nat :=
  ((List.range (s.streams.length + 1)).map (fun i => die + 4 * i)).find? (fun n => decide (n < 2 ^ 24) && s.idFree n)

/-- The generation that a slot's next stream takes (R97). -/
def Stream.nextGen (d : Stream) : Nat := if d.used then (d.gen + 1) % 256 else 0

/-- An ID as SNEW and FORK take it, with the reservation of R166 made under an owner: a negative result changes nothing but the
count of refusals (R107). -/
def State.takeId (s : State) (want die owner resv : Nat) : State × Except Word Nat :=
  if want ≠ 0xFFFFFF ∧ !s.idFree want then (s, .error (-2))
  else
    match s.reserve owner (poolNeed resv) with
    | (s1, false) => (s1, .error (-1))
    | (s1, true) =>
      if want ≠ 0xFFFFFF then (s1, .ok want)
      else
        match s1.lowestId die with
        | some n => (s1, .ok n)
        | none => (s, .error (-2))

/-- The bytes 0x60-0x7F of a new descriptor are 0 (R94). -/
def State.clearSw (s : State) (n : Nat) : State :=
  let s1 := s.settle none (swKey n / 64)
  { s1 with mem := s1.mem.zero (swKey n) 32 }

/-- Admit a stream (R94, R166, R177): a root node of its own, and the descriptor given, which takes its generation. -/
def State.admitNew (s : State) (n : Nat) (d : Stream) : State :=
  let (s1, root) := s.newId
  let old := s1.stream n
  (((s1.setNode root { refcnt := 1, owner := d.owner, leaf := false, entries := [] }).onStream n
    (fun _ => { d with root := root, gen := old.nextGen, used := true, state := .admitted })).clearSw n)

/-- Admit a forked child, which shares its parent's table (R178). -/
def State.admitChild (s : State) (n : Nat) (d : Stream) : State :=
  let old := s.stream n
  let r := s.node d.root
  ((s.setNode d.root { r with refcnt := r.refcnt + 1 }).onStream n
    (fun _ => { d with gen := old.nextGen, used := true, state := .admitted })).clearSw n

/-! ### Pages -/

/-- Unmap one page of a stream (R475): shared nodes are copied first, with which the entry may come to
name a copy of the page (R167), and a leaf left empty is freed. -/
def State.unmapPage (s : State) (n p : Nat) : State :=
  if s.pageAt n p = none then s
  else
    let (s1, leaf) := s.privateLeaf n p
    let page := (s1.pageAt n p).getD 0
    let rest := (s1.node leaf).entries.drop (p % 512)
    let s2 := ((s1.setNode leaf { s1.node leaf with entries := rest }).unrefPage page).onStream n
      (fun d => { d with pagesUsed := d.pagesUsed - 1 })
    if rest = [] then
      let root := (s2.stream n).root
      (s2.setNode root { s2.node root with entries := (s2.node root).entries.drop (p / 512) }).unrefLeaf leaf
    else s2

/-- Erg frames of a core that are free: eight PAGE banks that hold no page and take none (R163). -/
def Core.freeFrames (c : Core) : List Nat :=
  (List.range 16).filter (fun f => (List.range 8).all (fun b => c.mode (8 * f + b) = 3) && decide (c.frames.get .free f = .free))

/-- The lowest free frame of a package cluster's Erg, lowest core first (R180). -/
def State.lowestFrame (s : State) (cl : Nat) : Option (Nat × Nat) :=
  (clusterCores cl).findSome? (fun g => ((s.core g).freeFrames.head?).map (fun f => (g, f)))

/-- Code of a page's place (R165): 0 Erg, 1 HBM4E, 2 XM, 3 moving. -/
def PageLoc.code : PageLoc → Nat
  | .erg _ _ => 0
  | .hbm => 1
  | .xm _ => 2
  | .moving _ => 3

/-- Dword 0 of a page's descriptor (R165). -/
def pageDword (page : Nat) (d : PageDesc) : Word :=
  let dest := match d.loc with
    | .moving k => k
    | _ => 0
  BitVec.ofNat 64 (d.refcnt * 2 ^ 48 + d.loc.code * 2 ^ 45 + dest * 2 ^ 42 + d.owner * 2 ^ 36 + (Config.backIndex page).toNat)

/-- Begin a page's move to a place (R172): the old place is kept until the move completes. -/
def State.beginMove (s : State) (cl id page core ctx : Nat) (dest : PageLoc) : State :=
  let d := s.page page
  let m : PageMove := { id := id, page := page, core := core, ctx := ctx, src := d.loc, dest := dest, launch := (s.ctx core ctx).launch }
  let s1 := { s with moves := s.moves.set cl (s.moves.get [] cl ++ [m]) }.setPage page { d with loc := .moving dest.code }
  match dest with
  | .erg g f => s1.onCore g (fun c => { c with frames := c.frames.set f (.moving page) })
  | .xm _ => s1.onOwner d.owner (fun o => { o with xmUsed := o.xmUsed + 1 })
  | _ => s1

/-- Whether page index p of a stream is shared: the page's count, or that of the leaf or of the root which leads to it, is above 1 (R164, R165,
R506). -/
def State.pageShared (s : State) (n p : Nat) : Bool :=
  let root := s.node (s.stream n).root
  decide (1 < root.refcnt) || (match root.entries.find (p / 512) with
    | none => false
    | some leaf => decide (1 < (s.node leaf).refcnt) || (match (s.node leaf).entries.find (p % 512) with
      | none => false
      | some page => decide (1 < (s.page page).refcnt)))

/-- Why PPLACE stops at page index p (R180). DEDUCED (log 23): a page under a shared node counts as shared, as in R506, where its own count
is 1. -/
def State.placeStop (s : State) (n p page dest cl : Nat) : Option Nat :=
  if s.pageShared n p && (s.stream n).roshare then some 3
  else if dest = 0 ∧ s.lowestFrame cl = none then some 1
  else if dest = 2 ∧ Config.xmPages (s.page page).owner ≤ (s.owner (s.page page).owner).xmUsed then some 2
  else none

/-- Whether a page needs no move, for it is at the destination (R180). -/
def State.placed (s : State) (page dest cl : Nat) : Bool :=
  match (s.page page).loc with
  | .erg g _ => decide (dest = 0) && decide (clusterOf g = cl)
  | .hbm => decide (dest = 1)
  | .xm _ => decide (dest = 2)
  | .moving _ => false

/-- Queue moves of a stream's pages in ascending index order (R180): `dest` 0 is the Erg of cluster `cl`. Gives the moves'
identities and the stop reason. -/
def State.placePages (s : State) (n dest cl core ctx : Nat) : List Nat → State × List Nat × Nat
  | [] => (s, [], 0)
  | p :: r =>
    match s.pageAt n p with
    | none => State.placePages s n dest cl core ctx r
    | some page =>
      if s.placed page dest cl then State.placePages s n dest cl core ctx r
      else
        match s.placeStop n p page dest cl with
        | some why => (s, [], why)
        | none =>
          let id := s.fresh
          let s1 := { s with fresh := s.fresh + 1 }
          let to_ : PageLoc := match dest with
            | 0 => (match s1.lowestFrame cl with
              | some gf => .erg gf.1 gf.2
              | none => .hbm)
            | 1 => .hbm
            | _ => .xm id
          let (s2, ids, why) := State.placePages (s1.beginMove (clusterOf core) id page core ctx to_) n dest cl core ctx r
          (s2, id :: ids, why)

/-! ### Retiring, freezing, waking -/

/-- A stream's table and reservation are released (R474): it maps no page from now on, and no stream page map holds its table. -/
def State.dropTable (s : State) (n : Nat) : State :=
  let d := s.stream n
  (((s.unrefRoot d.root).leaveSpm n).unreserve d.owner (poolNeed d.resv)).onStream n (fun d => { d with root := 0 })

/-- Retire a stream (R474). -/
def State.retire (s : State) (n : Nat) (pruned : Bool) : State :=
  let d := s.stream n
  let s1 := if d.state = .migratedStub then s else s.dropTable n
  let s2 := if d.state = .ready then s1.unpool n else s1
  ({ s2 with transfers := s2.transfers.filter (fun t => !(decide (t.stream = n) && !t.begun)) }.leaveDrive n).onStream n (fun d => { d with qhead := d.qtail, ckv := false, state := .retired, pruned := d.pruned || pruned, drive := none, heldP := none })

/-- A stream enters waiting-action and has left its drive (R88, R472); the launch goes on walking it. -/
def State.awaitAction (s : State) (n : Nat) : State := (s.partDrive n).onStream n (fun d => { d with state := .waitingAction })

/-- An action makes a waiting stream ready at NODE with the producer's P (R472): its entry is one of the launch that walks it. Of a
stream that no running launch walks the spec names no pool, and it is ready with no entry (log 42). -/
def State.wakeStream (s : State) (n p : Nat) : State :=
  match (s.stream n).drive with
  | some (slot, _) =>
    if (s.launch slot).state = .running then s.streamReady n p s.clk none
    else s.onStream n (fun d => { d with state := .ready, drive := none })
  | none => s.onStream n (fun d => { d with state := .ready })

/-! ### Join groups -/

/-- A join group. -/
def State.group (s : State) (die n : Nat) : JoinGroup := s.groups.get {} (die * 1024 + n)
/-- Change a join group. -/
def State.onGroup (s : State) (die n : Nat) (f : JoinGroup → JoinGroup) : State :=
  { s with groups := s.groups.set (die * 1024 + n) (f (s.group die n)) }

/-- N of a configuration (R481). -/
def joinN (cfg : Word) : Nat := field cfg 0 16
/-- OP. -/
def joinOp (cfg : Word) : Nat := field cfg 16 4
/-- KEEP. -/
def joinKeep (cfg : Word) : Nat := field cfg 20 8
/-- Whether a configuration is one (R481). -/
def joinCfgOk (cfg : Word) : Bool := decide (cfg.toNat < 2 ^ 29) && decide (joinN cfg ≠ 0) && decide (joinOp cfg ≤ 5)

/-- Whether an open group holds its N returns, and so resolves. -/
def JoinGroup.complete (g : JoinGroup) : Bool := decide (joinN g.cfg ≤ g.rets.length)

/-- Open a group (R481, R485). -/
def State.openGroup (s : State) (die n : Nat) (cfg addr : Word) (owner slot epoch : Nat) : State :=
  s.onGroup die n (fun _ => { state := .opened, cfg := cfg, addr := addr, owner := owner, slot := slot, epoch := epoch })

/-- A stream reports its RETVAL to its group with its P (R482, R484); none when the group takes no report. -/
def State.report (s : State) (n p : Nat) : Option State :=
  let d := s.stream n
  let die := n % 4
  let g := s.group die d.jgroup
  if d.jgroup = 0xFFFF ∨ g.state ≠ .opened ∨ g.complete then none
  else some (s.onGroup die d.jgroup (fun g => { g with rets := g.rets.set n (d.gen, d.retval), p := max g.p p }))

/-- A return as Wadi ranks it: stream ID, generation, RETVAL. -/
abbrev Ret := Nat × Nat × Word

/-- Whether return a ranks before b (R482). -/
def ranksBefore (cfg : Word) (a b : Ret) : Bool :=
  let low := cfg.getLsbD 28
  if joinOp cfg ≤ 2 then
    let va := f32 (a.2.2.toNat % 2 ^ 32)
    let vb := f32 (b.2.2.toNat % 2 ^ 32)
    match va.cmp vb with
    | none => if va.isNan = vb.isNan then decide (a.1 ≤ b.1) else vb.isNan
    | some c => if c = 0 then decide (a.1 ≤ b.1) else if low then decide (c < 0) else decide (0 < c)
  else
    let x := a.2.2.toInt
    let y := b.2.2.toInt
    if x = y then decide (a.1 ≤ b.1) else if low then decide (x < y) else decide (y < x)

/-- The reduction over returns in ascending stream ID (R482, R243). -/
def joinReduce (op : Nat) (vs : List Word) : Word :=
  let f (v : Word) : FVal := f32 (v.toNat % 2 ^ 32)
  match op with
  | 0 => BitVec.ofNat 64 (vs.foldl (fun s v => f32Rne ((f32 s).add .rne (f v))) 0)
  | 1 | 2 => BitVec.ofNat 64 (f32Rne (match vs with
    | [] => .inf (decide (op = 1))
    | v :: r => r.foldl (fun a x => a.minMax (decide (op = 1)) (f x)) (f v)))
  | 3 => vs.foldl (· + ·) 0
  | 4 => BitVec.ofInt 64 (vs.foldl (fun a v => max a v.toInt) (-(2 ^ 63)))
  | _ => BitVec.ofInt 64 (vs.foldl (fun a v => min a v.toInt) (2 ^ 63 - 1))

/-- Whether a prune of this return takes effect (R482): its stream is not frozen, a stub, retired or another by now. -/
def State.prunable (s : State) (r : Ret) : Bool :=
  let d := s.stream r.1
  decide (d.gen = r.2.1) && (decide (d.state = .admitted) || decide (d.state = .ready) || decide (d.state = .running) || decide (d.state = .waitingAction))

/-- Prune a returned member with P (R482); Wadi's clock, which was l, takes the time of the step (R323). -/
def State.prune (s : State) (die p : Nat) (r : Ret) (l : Nat) : State × Nat :=
  if s.prunable r then
    let (s1, t) := s.placeDesc (unitAgent 5 die) l r.1
    (((s1.retire r.1 true).onStream r.1 (·.stamp p)), t)
  else (s, l)

/-- Wadi's accesses for a group (R483): agent kind 5, checked as in report mode with no log (log 23). -/
def wadiOp (die : Nat) (g : JoinGroup) (l h p : Nat) : EngineOp :=
  { id := 0, agent := unitAgent 5 die, l := l, h := h, p := p, epoch := g.epoch, slot := g.slot, owner := g.owner, cluster := die * 128,
    racemode := 1, pc := 0, stream := 0, core := none, xfail := g.xfail }

/-- A group's returns in rank order. -/
def JoinGroup.ranked (g : JoinGroup) : List Ret := g.rets.insertionSort (fun a b => ranksBefore g.cfg a b)

/-- The result record (R483): the winners with their handles. -/
def JoinGroup.record (g : JoinGroup) (pruned : Nat) : List Word :=
  let order := g.ranked
  let win := order.take (joinKeep g.cfg)
  joinReduce (joinOp g.cfg) ((g.rets.insertionSort (fun a b => a.1 ≤ b.1)).map (·.2.2))
    :: BitVec.ofNat 64 (order.length + win.length * 2 ^ 16 + pruned * 2 ^ 32)
    :: win.map (fun r => handleOf r.1 r.2.1)

/-- The resolution of an open group (R482, R483, R485, R486): Wadi acquires the P of the reports, and of a prune, and releases its
resolution P; losers are pruned, the record is written and the join nodes that wait complete. While the record's page is not
present nothing happens but the report of the page. Nothing is given where a clock would pass its limit (R361). An address that
may not be written leaves the record unwritten (log 23). -/
def State.resolution (s : State) (die n : Nat) (prune : Option Nat) : Option (State × Option Nat) :=
  let g := s.group die n
  let (l0, h0) := s.wadi.get (0, 0) die
  let h := max h0 (max g.p (prune.getD 0))
  let p := max l0 (h + 1)
  let losers := if joinKeep g.cfg = 0 then [] else g.ranked.drop (joinKeep g.cfg)
  let pruned := (losers.filter s.prunable).length
  if clockLimit ≤ p + 1 then none
  else match s.unitStore (wadiOp die g (p + 1) h p) g.addr.toNat (dwordBytes (g.record pruned)) with
  | (s1, .pending) => some (s1, none)
  | (_, .clock) => none
  | (s1, got) =>
    let l := match got with
      | .done t => t
      | _ => p + 1
    let (s2, l2) := losers.foldl (fun (a : State × Nat) r => a.1.prune die p r a.2) (s1, l)
    let s2 := { s2 with wadi := s2.wadi.set die (l2, h) }
    let s3 := s2.onGroup die n (fun g => { g with state := .resolved, resP := p, pruned := pruned, nodes := [], now := false })
    if clockLimit ≤ l2 then none else some (g.nodes.foldl (fun s t => s.engineDone die t p) s3, some pruned)

/-- Resolve an open group; Wadi's operation that would pass the clocks' limit stops, and the launch that opened the group ends (R361). -/
def State.resolve (s : State) (die n : Nat) (prune : Option Nat) : State × Option Nat :=
  (s.resolution die n prune).getD (s.clockStop (s.group die n).slot clockLimit, none)

end Sys2Proof.Machine
end

