-- ==== Sys2Proof/Machine/Transcend.lean ====
section
/-! DEFINITION. Functions whose exact value is irrational and is rounded once: VSFU (R236), FEXP and CSCAN.exp (R468,
R469) and MSOFT's weights (R264). Each is bracketed by integers at a precision and rounded when both ends round alike;
if not, a greater precision is taken. -/
namespace Sys2Proof.Machine

/-- A magnitude strictly between lo x 2^e and hi x 2^e. -/
structure Approx where
  lo : Nat
  hi : Nat
  e  : Int
  deriving DecidableEq, Repr

/-- The bracket of a fixed-point result whose error is at most 2^16 units. -/
def bracket (v : Nat) (e : Int) : Approx := { lo := v - 2 ^ 16, hi := v + 2 ^ 16, e := e }

/-- The code both ends of a bracket round to. -/
def FFmt.roundApprox (f : FFmt) (rm : RMode) (d24 : Nat) (neg : Bool) (a : Approx) : Option Nat :=
  let lo := f.round rm d24 false neg a.lo a.e true
  if lo = f.round rm d24 false neg (a.hi - 1) a.e true then some lo else none

/-- Round by the first precision that decides; the last one's lower end if none did. -/
def FFmt.roundLadder (f : FFmt) (rm : RMode) (d24 : Nat) (neg : Bool) (approx : Nat → Approx) : List Nat → Nat
  | [] => f.round rm d24 false neg (approx 2048).lo (approx 2048).e true
  | p :: ps =>
    match f.roundApprox rm d24 neg (approx p) with
    | some c => c
    | none => f.roundLadder rm d24 neg approx ps

/-- The precisions tried. -/
def ladder : List Nat := [96, 192, 400, 800, 2048]

/-- Sum of num x 2^w / (k x base^j) over odd k, for arctangents (alternating) and their hyperbolic forms. -/
def oddSeries (alternate : Bool) (sq : Nat) : Nat → Nat → Nat → Bool → Int → Int
  | 0, _, _, _, acc => acc
  | n + 1, term, k, minus, acc =>
    let t : Int := (term / k : Nat)
    oddSeries alternate sq n (term / sq) (k + 2) (alternate && !minus) (if minus then acc - t else acc + t)

/-- ln 2 x 2^w = 2 atanh(1/3). -/
def ln2Fix (w : Nat) : Nat := (2 * oddSeries false 9 w (2 ^ w / 3) 1 false 0).toNat

/-- pi x 2^w = 16 atan(1/5) - 4 atan(1/239). -/
def piFix (w : Nat) : Nat :=
  (16 * oddSeries true 25 w (2 ^ w / 5) 1 false 0 - 4 * oddSeries true 57121 w (2 ^ w / 239) 1 false 0).toNat

/-- Taylor terms of e^r: `term` is r^(k-1)/(k-1)! x 2^w. -/
def expSeries (w r : Nat) : Nat → Nat → Nat → Nat → Nat
  | 0, _, _, acc => acc
  | n + 1, k, term, acc =>
    let t := term * r / 2 ^ w / k
    expSeries w r n (k + 1) t (acc + t)

/-- e^(r / 2^w) x 2^w for r below 2^w. -/
def expFix (w r : Nat) : Nat := expSeries w r w 1 (2 ^ w) (2 ^ w)

/-- Alternating Taylor terms in steps of two, for sine and cosine. -/
def sinSeries (w r2 : Nat) : Nat → Nat → Nat → Bool → Int → Int
  | 0, _, _, _, acc => acc
  | n + 1, k, term, minus, acc =>
    let t := term * r2 / 2 ^ w / (k * (k + 1))
    sinSeries w r2 n (k + 2) t (!minus) (if minus then acc - t else acc + (t : Int))

/-- m x 2^e in units of 2^-w, rounded down. -/
def fixOf (m : Nat) (e : Int) (w : Nat) : Nat :=
  if 0 ≤ e + w then m * 2 ^ (e + w).toNat else m / 2 ^ (-(e + w)).toNat

/-- e^x as a mantissa in units of 2^-w and a binary exponent, for |x| below 1024. -/
def expParts (w : Nat) (neg : Bool) (m : Nat) (e : Int) : Nat × Int :=
  let x : Int := fixOf m e w
  let v := if neg then -x else x
  let l := ln2Fix w
  let n := v / (l : Int)
  (expFix w (v - n * l).toNat, n)

/-- Bracket of e^x at a precision. -/
def expApprox (neg : Bool) (m : Nat) (e : Int) (p : Nat) : Approx :=
  let w := p + 32
  let r := expParts w neg m e
  bracket r.1 (r.2 - w)

/-- Bracket of 2^x at a precision, for |x| below 2048. -/
def exp2Approx (neg : Bool) (m : Nat) (e : Int) (p : Nat) : Approx :=
  let w := p + 32
  let x : Int := fixOf m e w
  let v := if neg then -x else x
  let n := v / 2 ^ w
  let f := (v - n * 2 ^ w).toNat
  bracket (expFix w (f * ln2Fix w / 2 ^ w)) (n - w)

/-- log2 of m x 2^e in units of 2^-w, signed. -/
def log2Fix (m : Nat) (e : Int) (w : Nat) : Int :=
  let k := Nat.log2 m
  let up := decide (2 * 2 ^ (2 * k) < m * m)
  let y := m
  let one : Nat := if up then 2 ^ (k + 1) else 2 ^ k
  let ex : Int := if up then (k : Int) + 1 + e else k + e
  let d : Int := (y : Int) - one
  let z := d.natAbs * 2 ^ w / (y + one)
  let sq := z * z
  let s := logSeries w sq w z 1 0
  let lg : Int := (2 * s * 2 ^ w / ln2Fix w : Nat)
  ex * 2 ^ w + (if d < 0 then -lg else lg)
where
  /-- Sum of z^k / k over odd k in units of 2^-w. -/
  logSeries (w sq : Nat) : Nat → Nat → Nat → Nat → Nat
    | 0, _, _, acc => acc
    | n + 1, term, k, acc => logSeries w sq n (term * sq / 2 ^ (2 * w)) (k + 2) (acc + term / k)

/-- sin or cos of an angle below pi/2 given in units of 2^-w. -/
def sinCosFix (cosine : Bool) (w theta : Nat) : Nat :=
  let r2 := theta * theta / 2 ^ w
  if cosine then (sinSeries w r2 w 1 (2 ^ w) true (2 ^ w : Nat)).toNat
  else (sinSeries w r2 w 2 theta true theta).toNat

/-- Extra bits of precision for an argument below 1. -/
def tinyBits (m : Nat) (e : Int) : Nat := (-((Nat.log2 m : Int) + e)).toNat

/-- x modulo 2 in units of 2^-w with the quadrant of pi x and the rest below one half (exact for w above x's bits). -/
def quadrant (m : Nat) (e : Int) (w : Nat) : Nat × Nat :=
  let x := fixOf m e w % 2 ^ (w + 1)
  (x / 2 ^ (w - 1), x % 2 ^ (w - 1))

/-- Magnitude and sign of sin(pi x) or cos(pi x) for x at least 0, where it is not exact. -/
def sinpiApprox (cosine : Bool) (m : Nat) (e : Int) (p : Nat) : Approx :=
  let w := p + 64 + tinyBits m e
  let q := quadrant m e w
  let theta := piFix w * q.2 / 2 ^ w
  bracket (sinCosFix (cosine != decide (q.1 % 2 = 1)) w theta) (-(w : Int))

/-- The quadrant of pi x, and whether x is a multiple of one half. -/
def quadrantOf (m : Nat) (e : Int) : Nat × Bool :=
  let q := quadrant m e (64 + (-e).toNat)
  (q.1, q.2 = 0)

/-- Bracket of tanh x for 0 < x below 1024. -/
def tanhApprox (m : Nat) (e : Int) (p : Nat) : Approx :=
  let w := p + 64 + 2 * tinyBits m e
  let r := expParts w true m (e + 1)
  let q := r.1 / 2 ^ (-r.2).toNat
  bracket ((2 ^ w - q) * 2 ^ w / (2 ^ w + q)) (-(w : Int))

/-- Bracket of 1 / (1 + e^-x) for |x| below 1024. -/
def sigmApprox (neg : Bool) (m : Nat) (e : Int) (p : Nat) : Approx :=
  let w := p + 64 + tinyBits m e
  let r := expParts w true m e
  let t := r.1 / 2 ^ (-r.2).toNat
  if neg then bracket (r.1 * 2 ^ w / (2 ^ w + t)) (r.2 - w)
  else bracket (2 ^ (2 * w) / (2 ^ w + t)) (-(w : Int))

/-- A positive magnitude below every format's least subnormal. -/
def FFmt.roundTiny (f : FFmt) (rm : RMode) (d24 : Nat) : Nat := f.round rm d24 false false 1 (-2000) true
/-- A magnitude above every format's greatest finite value. -/
def FFmt.roundHuge (f : FFmt) (rm : RMode) (d24 : Nat) : Nat := f.round rm d24 false false 1 2000 true
/-- A magnitude just below 1. -/
def FFmt.roundBelowOne (f : FFmt) (rm : RMode) (d24 : Nat) (neg : Bool) : Nat :=
  f.round rm d24 false neg (2 ^ 2000 - 1) (-2000) true

/-- The code of 1. -/
def FFmt.one (f : FFmt) (neg : Bool) : Nat := f.round .rne 0 false neg 1 0 false

/-- Whether a magnitude is 1,024 or more. -/
def isHuge (m : Nat) (e : Int) : Bool := decide (10 ≤ (Nat.log2 m : Int) + e) && m ≠ 0

/-- e^x rounded once. -/
def FFmt.exp (f : FFmt) (rm : RMode) (d24 : Nat) : FVal → Nat
  | .nan => f.nan
  | .inf neg => if neg then 0 else f.inf false
  | .fin neg m e =>
    if m = 0 then f.one false
    else if isHuge m e then (if neg then f.roundTiny rm d24 else f.roundHuge rm d24)
    else f.roundLadder rm d24 false (expApprox neg m e) ladder

/-- 2^x rounded once (R236). -/
def FFmt.exp2 (f : FFmt) (rm : RMode) (d24 : Nat) : FVal → Nat
  | .nan => f.nan
  | .inf neg => if neg then 0 else f.inf false
  | .fin neg m e =>
    if m = 0 then f.one false
    else if isHuge m e then (if neg then f.roundTiny rm d24 else f.roundHuge rm d24)
    else if 0 ≤ e || m % 2 ^ (-e).toNat = 0 then
      let n : Int := fixOf m e 0
      f.round rm d24 false false 1 (if neg then -n else n) false
    else f.roundLadder rm d24 false (exp2Approx neg m e) ladder

/-- log2 x rounded once (R236). -/
def FFmt.log2 (f : FFmt) (rm : RMode) (d24 : Nat) : FVal → Nat
  | .nan => f.nan
  | .inf neg => if neg then f.nan else f.inf false
  | .fin neg m e =>
    if m = 0 then f.inf true
    else if neg then f.nan
    else if m = 2 ^ Nat.log2 m then f.ofVal rm d24 false (FVal.ofInt ((Nat.log2 m : Int) + e))
    else
      f.roundLadder rm d24 (decide (log2Fix m e 160 < 0))
        (fun p => bracket (log2Fix m e (p + 32)).natAbs (-((p : Int) + 32))) ladder

/-- sin(pi x) and cos(pi x) rounded once (R236). -/
def FFmt.sinpi (f : FFmt) (cosine : Bool) (rm : RMode) (d24 : Nat) : FVal → Nat
  | .nan => f.nan
  | .inf _ => f.nan
  | .fin neg m e =>
    if m = 0 then (if cosine then f.one false else f.signed neg 0)
    else
      let q := quadrantOf m e
      let qq := if cosine then q.1 + 1 else q.1
      let minus := decide (2 ≤ qq % 4)
      if q.2 then
        if qq % 2 = 0 then f.signed (neg && !cosine) 0 else f.one (if cosine then minus else minus != neg)
      else f.roundLadder rm d24 (if cosine then minus else minus != neg) (sinpiApprox cosine m e) ladder

/-- tanh x rounded once (R236). -/
def FFmt.tanh (f : FFmt) (rm : RMode) (d24 : Nat) : FVal → Nat
  | .nan => f.nan
  | .inf neg => f.one neg
  | .fin neg m e =>
    if m = 0 then f.signed neg 0
    else if isHuge m e then f.roundBelowOne rm d24 neg
    else f.roundLadder rm d24 neg (tanhApprox m e) ladder

/-- 1 / (1 + e^-x) rounded once (R236). -/
def FFmt.sigm (f : FFmt) (rm : RMode) (d24 : Nat) : FVal → Nat
  | .nan => f.nan
  | .inf neg => if neg then 0 else f.one false
  | .fin neg m e =>
    if m = 0 then f.round rm d24 false false 1 (-1) false
    else if isHuge m e then (if neg then f.roundTiny rm d24 else f.roundBelowOne rm d24 false)
    else f.roundLadder rm d24 false (sigmApprox neg m e) ladder

/-- VSFU's functions (R236). -/
def FFmt.sfu (f : FFmt) (fn : Nat) (rm : RMode) (d24 : Nat) (x : FVal) : Nat :=
  match fn with
  | 0 => f.divide rm d24 false (.fin false 1 0) x
  | 1 =>
    match x with
    | .nan => f.nan
    | .inf neg => if neg then f.nan else 0
    | .fin neg m e => if m = 0 then f.inf neg else if neg then f.nan else f.recipSqrt rm d24 m e
  | 2 => f.squareRoot rm d24 x
  | 3 => f.exp2 rm d24 x
  | 4 => f.log2 rm d24 x
  | 5 => f.sinpi false rm d24 x
  | 6 => f.sinpi true rm d24 x
  | 7 => f.tanh rm d24 x
  | _ => f.sigm rm d24 x

/-! ### Softmax rows (R264) -/

/-- e^d for d at most 0 in units of 2^-w, with its binary exponent; 0 for d of magnitude 1,024 or more. -/
def weightParts (w : Nat) (m : Nat) (e : Int) : Nat × Int :=
  if m = 0 then (2 ^ w, 0)
  else if isHuge m e then (0, 0)
  else expParts w true m e

/-- The sum of weights in units of 2^-w. -/
def weightSum (w : Nat) (ds : List (Nat × Int)) : Nat :=
  ds.foldl (fun acc d => let r := weightParts w d.1 d.2; acc + r.1 / 2 ^ (-r.2).toNat) 0

/-- l, the sum of e^d over the row's valid columns, rounded once to f32 (R264). -/
def softmaxSum (ds : List (Nat × Int)) : Nat :=
  if ds.all (fun d => d.1 = 0) then fmtF32.ofVal .rne 0 false (FVal.ofInt ds.length)
  else fmtF32.roundLadder .rne 0 false (fun p => bracket (weightSum (p + 32) ds) (-((p : Int) + 32))) ladder

/-- y = e^d / l rounded once to the output format (R264). -/
def softmaxWeight (f : FFmt) (ds : List (Nat × Int)) (d : Nat × Int) : Nat :=
  if ds.all (fun d => d.1 = 0) then f.divide .rne 0 false (.fin false 1 0) (FVal.ofInt ds.length)
  else if isHuge d.1 d.2 then f.roundTiny .rne 0
  else
    f.roundLadder .rne 0 false (fun p =>
      let w := p + 32
      let r := weightParts w d.1 d.2
      bracket (r.1 * 2 ^ w / weightSum w ds) (r.2 - w)) ladder

end Sys2Proof.Machine
end

