-- ==== Sys2Proof/Machine/SamplerOps.lean ====
section
/-! DEFINITION. The sampler: its contexts and candidate entries (R461), dispatch (R462-R464), micro-instructions (R467-R469), the
commit (R465) and failures (R466). -/
namespace Sys2Proof.Machine

/-! ### Contexts and entries -/

/-- A die's sampler. -/
def State.sampler (s : State) (die : Nat) : Sampler := s.samplers.get {} die
/-- Change a die's sampler. -/
def State.onSampler (s : State) (die : Nat) (f : Sampler → Sampler) : State :=
  { s with samplers := s.samplers.set die (f (s.sampler die)) }
/-- A sampler context that runs an instance. -/
def State.smpCtx (s : State) (die k : Nat) : Option SmpCtx := (s.sampler die).ctxs.find k
/-- Write a sampler context. -/
def State.setSmp (s : State) (die k : Nat) (c : SmpCtx) : State :=
  s.onSampler die (fun m => { m with ctxs := m.ctxs.set k c })

/-- Register wi. -/
def SmpCtx.reg (c : SmpCtx) (i : BitVec 4) : Lane := c.w.get 0 i.toNat
/-- Write register wi. -/
def SmpCtx.setReg (c : SmpCtx) (i : BitVec 4) (v : Lane) : SmpCtx := { c with w := c.w.set i.toNat v }
/-- The 64-bit address in registers i and i + 1 (R469). -/
def SmpCtx.pair (c : SmpCtx) (i : BitVec 4) : Nat := (c.reg i).toNat + (c.reg (i + 1)).toNat * 2 ^ 32

/-- Slot i of an instance: score in bits 63-32 and ID in bits 31-0 (R461). -/
def Sampler.slot (m : Sampler) (c : SmpCtx) (i : Nat) : Word := m.cands.get 0 (c.base + i)
/-- Write slots from i on. -/
def Sampler.setSlots (m : Sampler) (c : SmpCtx) (i : Nat) (vs : List Word) : Sampler :=
  { m with cands := ((List.range vs.length).zip vs).foldl (fun (t : Table Word) e => t.set (c.base + i + e.1) e.2) m.cands }
/-- A slot range. -/
def Sampler.slots (m : Sampler) (c : SmpCtx) (i n : Nat) : List Word := (List.range n).map (fun j => m.slot c (i + j))
/-- Score of a slot. -/
def scoreOf (v : Word) : Nat := v.toNat / 2 ^ 32
/-- ID of a slot. -/
def idOf (v : Word) : Nat := v.toNat % 2 ^ 32
/-- A slot's value. -/
def slotWord (score ident : Nat) : Word := BitVec.ofNat 64 (score % 2 ^ 32 * 2 ^ 32 + ident % 2 ^ 32)

/-- Free a context and its entries; its clocks stay (R464, R466). -/
def State.freeSmp (s : State) (die k : Nat) (c : SmpCtx) : State :=
  s.onSampler die (fun m => { m with ctxs := m.ctxs.drop k, clocks := m.clocks.set k (c.l, c.h) })

/-- A failing instance (R466): it stops, its context and entries are free, the failure is routed with no context, and its
stream is admitted. -/
def State.smpFail (s : State) (die k : Nat) (c : SmpCtx) (cause : Nat) (tval : Word) : State :=
  let epc := c.prog + BitVec.ofNat 64 (8 + 4 * c.pc)
  ((s.freeSmp die k c).engineLost die c.ticket).engineTrap c.entry.slot cause false epc tval

/-! ### Allocation (R461) -/

/-- Entries that an ncand takes. -/
def candRoom (ncand : Nat) : Nat := 64 * ((ncand + 63) / 64)

/-- Whether n entries at p are free. -/
def Sampler.fits (m : Sampler) (n p : Nat) : Bool :=
  decide (p + n ≤ 65536) && m.ctxs.all (fun e => decide (p + n ≤ e.2.base) || decide (e.2.base + e.2.count ≤ p) || decide (e.2.count = 0))

/-- The lowest place for n entries. -/
def Sampler.place (m : Sampler) (n : Nat) : Option Nat :=
  ((0 :: m.ctxs.map (fun e => e.2.base + e.2.count)).filter (m.fits n)).min?

/-- An idle context, the first from a starting number: which one an instance takes is free (log 24). -/
def Sampler.idle (m : Sampler) (start : Nat) : Option Nat := firstFrom start 256 (fun k => (m.ctxs.find k).isNone)

/-- Whether the sampler is free for an ncand (R461). -/
def Sampler.free (m : Sampler) (ncand : Nat) : Bool := (m.idle 0).isSome && (m.place (candRoom ncand)).isSome

/-- A context takes an instance: its entries read zero, and it acquires the entry's P (R461, R464). -/
def State.takeSample (s : State) (die : Nat) (i : Inst) : State :=
  let m := s.sampler die
  let n := candRoom (field (i.entry.record.kd 2) 0 16)
  match m.idle (Config.freeValue s.free).toNat, m.place n with
  | some k, some base =>
    let s := { s with free := s.free + 1 }
    let (l0, h0) := m.clocks.get (0, 0) k
    let h := max h0 i.entry.p
    let c : SmpCtx := { ticket := i.ticket, entry := i.entry, owner := (s.launch i.entry.slot).owner, prog := i.entry.record.kd 0,
                        words := [], w := [], key := 0, pos := 0, draw := 0, base := base, count := n, stepat := 0,
                        l := max l0 (h + 1), h := h }
    (s.setSmp die k c).onSampler die (fun m => m.setSlots c 0 (List.replicate n 0))
  | _, _ => s

/-! ### Coherent accesses (R464) -/

/-- An instance's accesses: the die's agent, under LCTL.RMODE with no log. -/
def SmpCtx.op (c : SmpCtx) (die : Nat) (rmode : Bool) : EngineOp :=
  { id := 0, agent := unitAgent 4 die, l := c.l, h := c.h, p := c.l, epoch := c.entry.epoch, slot := c.entry.slot, owner := c.owner,
    cluster := die * 128, racemode := boolWord rmode, pc := c.prog + BitVec.ofNat 64 (8 + 4 * c.pc), stream := 0, core := none,
    xfail := c.xfail }

/-- The time that an access of an operation receives at its home port (R326). -/
def State.engineTime (s : State) (o : EngineOp) (key : Nat) (write : Bool) : Nat :=
  let r : Req := { agent := o.agent, l := o.l, h := o.h, epoch := o.epoch, scope := 4, atomic := false, key := key / 64 * 64, size := 64,
                   read := !write, write := write, tag := none }
  r.time ((s.settle none (key / 64)).line (key / 64))

/-- What an access of the sampler gives: a result with L, a wait, or a failure with its address. -/
inductive SmpGot (α : Type) where
  | ok (a : α) (l : Nat)
  | pending
  | fail (cause : Nat) (va : Nat)
  deriving DecidableEq, Repr

/-- Read pieces of lines, each as an access in its turn. -/
def State.smpRead (s : State) (o : EngineOp) : List (Nat × Nat) → State × SmpGot (List Byte)
  | [] => (s, .ok [] o.l)
  | (va, n) :: r =>
    let more (s : State) (o : EngineOp) (bs : List Byte) : State × SmpGot (List Byte) :=
      match State.smpRead s o r with
      | (s1, .ok rest l) => (s1, .ok (bs ++ rest) l)
      | e => e
    match s.engineLocate o va false with
    | (s1, .zero) => more s1 o (List.replicate n 0)
    | (s1, .pending) => (s1, .pending)
    | (_, .fail c) => (s, .fail c va)
    | (s1, .remote core off) =>
      if (s1.core core).mode (bankOf off) ≠ 0 ∨ (s1.core core).tag (bankOf off) ≠ o.owner then (s, .fail 0x063 va)
      else if s1.localBad core off n then (s, .fail 0x066 va)
      else more s1 o (s1.mem.bytes (localKey core off) n)
    | (s1, .mem key) =>
      let t := s1.engineTime o key false
      match s1.engineAccess { o with p := t } key va (wordSpan va n) false with
      | (s2, .mem _) => more s2 { o with l := t } (s2.homeBytes key n)
      | (_, .fail c) => (s, .fail c va)
      | (s2, _) => (s2, .pending)

/-- Write pieces of lines; `tag` is the P of a release, none the access's own time. Remote local memory is no coherent
location (R322): GM.PROT (log 24). -/
def State.smpWrite (s : State) (o : EngineOp) (tag : Option Nat) : List (Nat × List Byte) → State × SmpGot Unit
  | [] => (s, .ok () o.l)
  | (va, bs) :: r =>
    match s.engineLocate o va true with
    | (s1, .pending) => (s1, .pending)
    | (_, .fail c) => (s, .fail c va)
    | (s1, .mem key) =>
      let t := s1.engineTime o key true
      match s1.engineAccess { o with p := tag.getD t } key va (wordSpan va bs.length) true with
      | (s2, .mem _) => State.smpWrite (s2.engineWrite (key / 64) (byteTable key bs) o.owner false o.stream) { o with l := t } tag r
      | (_, .fail c) => (s, .fail c va)
      | (s2, _) => (s2, .pending)
    | (_, _) => (s, .fail 0x063 va)

/-- n elements of `es` bytes from an address on, each an access of its own. -/
def elemParts (va es n : Nat) : List (Nat × Nat) := (List.range n).map (fun i => (va + es * i, es))

/-- The bytes of n elements, each an access of its own. -/
def elemBytes (va es n : Nat) (bs : List Byte) : List (Nat × List Byte) := (List.range n).map (fun i => (va + es * i, (bs.drop (es * i)).take es))

/-- Why a range of elements of an address cannot be accessed (R283, R469): no region there, or a misaligned element. -/
def elemCause (va es : Nat) : Option Nat :=
  if regionOf va = none then some 0x064 else if va % es ≠ 0 then some 0x061 else none

/-! ### Dispatch (R462, R463) -/

/-- The registers at the first micro-instruction (R463). -/
def smpRegs (r : NodeRec) (d : Option (Nat × Nat × Word)) : Table Lane :=
  let lo (w : Word) : Lane := w.setWidth 32
  let hi (w : Word) : Lane := w.extractLsb' 32 32
  let (sid, steps, sw) := d.getD (0xFFFFFFFF, 0, 0)
  [(0, lo (r.kd 1)), (1, hi (r.kd 1)), (2, BitVec.ofNat 32 (field (r.kd 2) 0 16)), (3, lo (r.kd 3)), (4, hi (r.kd 3)),
   (5, lo (r.kd 4)), (6, hi (r.kd 4)), (7, lo (r.kd 5)), (8, hi (r.kd 5)), (9, BitVec.ofNat 32 sid), (10, BitVec.ofNat 32 steps),
   (11, lo sw), (12, hi sw)]

/-- The stream of an instance: its ID. -/
def SmpCtx.streamId (c : SmpCtx) : Option Nat := c.entry.stream.map (fun h => h.toNat % 2 ^ 24)

/-- The context as it stands before its first micro-instruction. -/
def State.smpStarted (s : State) (c : SmpCtx) (words : List Lane) (l : Nat) : SmpCtx :=
  let r := c.entry.record
  match c.streamId with
  | none => { c with words := words, l := l, w := smpRegs r none, key := r.kd 4, pos := 0, draw := 0, stepat := 0, xfail := none }
  | some n =>
    let d := s.stream n
    let sw := BitVec.ofNat 64 (natOfBytes ((s.settle none (swKey n / 64)).mem.bytes (swKey n) 8))
    { c with words := words, l := l, w := smpRegs r (some (n, d.steps, sw)), key := d.gkey, pos := d.gpos, draw := d.draw,
             stepat := d.steps, xfail := none }

/-- Read and check the program of a context (R462). UTVAL of a misaligned program is free (log 24). -/
def State.smpLoad (s : State) (die k : Nat) (c : SmpCtx) : State :=
  let o := c.op die (s.launch c.entry.slot).rmode
  if field (c.entry.record.kd 2) 0 16 = 0 then s.smpFail die k c 0x1C3 0
  else if c.prog.toNat % 8 ≠ 0 then { s with free := s.free + 1 }.smpFail die k c 0x1C2 (Config.freeValue s.free)
  else
    match s.smpRead o [(c.prog.toNat, 8)] with
    | (s1, .pending) => s1
    | (s1, .fail cause va) => s1.smpFail die k c cause (BitVec.ofNat 64 va)
    | (s1, .ok bs l) =>
      let hdr := natOfBytes bs
      let n := hdr % 512
      if 512 ≤ hdr ∨ n = 0 ∨ 256 < n then s1.smpFail die k { c with l := l } 0x1C2 (BitVec.ofNat 64 hdr)
      else
        match s1.smpRead { o with l := l } (elemParts (c.prog.toNat + 8) 4 n) with
        | (s2, .pending) => { s with held := s2.held, dev := s2.dev }
        | (s2, .fail cause va) => s2.smpFail die k { c with l := l } cause (BitVec.ofNat 64 va)
        | (s2, .ok code l2) => s2.setSmp die k (s2.smpStarted c (lanesOf code) l2)

/-- SAMPLER_DISPATCH (R462, R463): the lowest context whose program is not read reads it. -/
def execSamplerDispatch (die : Nat) (s : State) : Host.Outcome State Fault Refusal :=
  if 4 ≤ die then .fault .noUnit
  else
    match (List.range 256).find? (fun k => ((s.smpCtx die k).map (fun c => decide (c.words = []))).getD false) with
    | none => .next s
    | some k =>
      match s.smpCtx die k with
      | none => .next s
      | some c => .next (s.smpLoad die k c)

/-- SAMPLER_TIMEOUT (R466). -/
def execSamplerTimeout (die k : Nat) (s : State) : Host.Outcome State Fault Refusal :=
  if 4 ≤ die ∨ 256 ≤ k then .fault .noUnit
  else
    match s.smpCtx die k with
    | none => .next s
    | some c => .next (if 2 ^ 20 ≤ c.ran then s.smpFail die k c 0x1C6 0 else s)

/-! ### Running a micro-instruction -/

/-- What a micro-instruction's body gives: it completes, its instance fails (with a free UTVAL where the spec gives none), it
waits, or its instance is complete. -/
inductive MicroGot where
  | ok (c : SmpCtx) (m : Sampler)
  | placed (c : SmpCtx) (s : State)
  | fail (cause : Nat) (tval : Word)
  | failFree (cause : Nat)
  | wait (s : State)
  | over_ (s : State)
  deriving DecidableEq, Repr

/-- Run a micro-instruction on the sampler context whose turn it is (R467): one clk. The body is given the context past the
instruction and the sampler. -/
def micro (body : SmpCtx → Sampler → MicroGot) (s : State) : Host.Outcome State Fault Refusal :=
  let die := s.smp.1
  let k := s.smp.2
  match s.smpCtx die k with
  | none => .next (s.tick 1)
  | some c =>
    if 2 ^ 20 ≤ c.ran then .next ((s.smpFail die k c 0x1C6 0).tick 1)
    else
      match body { c with pc := c.pc + 1, ran := c.ran + 1, xfail := none } (s.sampler die) with
      | .ok c1 m => .next (({ s with samplers := s.samplers.set die m }.setSmp die k c1).tick 1)
      | .placed c1 s1 => .next ((s1.setSmp die k c1).tick 1)
      | .fail cause tval => .next ((s.smpFail die k c cause tval).tick 1)
      | .failFree cause => .next (({ s with free := s.free + 1 }.smpFail die k c cause (Config.freeValue s.free)).tick 1)
      | .wait s1 => .next (s1.tick 1)
      | .over_ s1 => .next (s1.tick 1)

/-- A register result. -/
def toReg (x : MicroFields) (v : SmpCtx → Lane) (s : State) : Host.Outcome State Fault Refusal :=
  micro (fun c m => .ok (c.setReg x.d (v c)) m) s

/-- The second operand of ADD, SUB and MUL (R468). -/
def microB (x : MicroFields) (c : SmpCtx) : Lane := if x.f = 1 then x.imm8.signExtend 32 else c.reg x.b

/-- f32 value of a register. -/
def SmpCtx.val (c : SmpCtx) (i : BitVec 4) : FVal := f32 (c.reg i).toNat

/-- SMP_MOV (R468). -/
def execSmpMov (x : MicroFields) (s : State) : Host.Outcome State Fault Refusal := toReg x (fun c => c.reg x.a) s

/-- SMP_LDI (R468). -/
def execSmpLdi (x : MicroFields) (s : State) : Host.Outcome State Fault Refusal :=
  toReg x (fun c =>
    let imm : BitVec 16 := x.b ++ x.f ++ x.imm8
    if x.a = 0 then imm.setWidth 32 else imm ++ (c.reg x.d).setWidth 16) s

/-- SMP_ADD (R468). -/
def execSmpAdd (x : MicroFields) (s : State) : Host.Outcome State Fault Refusal := toReg x (fun c => c.reg x.a + microB x c) s
/-- SMP_SUB (R468). -/
def execSmpSub (x : MicroFields) (s : State) : Host.Outcome State Fault Refusal := toReg x (fun c => c.reg x.a - microB x c) s
/-- SMP_MUL (R468). -/
def execSmpMul (x : MicroFields) (s : State) : Host.Outcome State Fault Refusal := toReg x (fun c => c.reg x.a * microB x c) s

/-- SMP_FADD (R468). -/
def execSmpFadd (x : MicroFields) (s : State) : Host.Outcome State Fault Refusal :=
  toReg x (fun c => BitVec.ofNat 32 (f32Rne ((c.val x.a).add .rne (c.val x.b)))) s
/-- SMP_FMUL (R468). -/
def execSmpFmul (x : MicroFields) (s : State) : Host.Outcome State Fault Refusal :=
  toReg x (fun c => BitVec.ofNat 32 (f32Rne ((c.val x.a).mul (c.val x.b)))) s
/-- SMP_FEXP (R468). -/
def execSmpFexp (x : MicroFields) (s : State) : Host.Outcome State Fault Refusal :=
  toReg x (fun c => BitVec.ofNat 32 (fmtF32.exp .rne 0 (c.val x.a))) s
/-- SMP_FMAX (R468). -/
def execSmpFmax (x : MicroFields) (s : State) : Host.Outcome State Fault Refusal :=
  toReg x (fun c => BitVec.ofNat 32 (f32Rne ((c.val x.a).minMax true (c.val x.b)))) s

/-- The relations of SMP_CMP (R468). -/
def microRel (f : Nat) (a b : Lane) : Bool :=
  let va := f32 a.toNat
  let vb := f32 b.toNat
  match f with
  | 0 => a = b
  | 1 => a ≠ b
  | 2 => a.toInt < b.toInt
  | 3 => b.toInt ≤ a.toInt
  | 4 => a.toNat < b.toNat
  | 5 => b.toNat ≤ a.toNat
  | 6 => (match va.cmp vb with
    | some c => decide (c < 0)
    | none => false)
  | _ => (match va.cmp vb with
    | some c => decide (0 ≤ c)
    | none => false)

/-- SMP_CMP (R468). -/
def execSmpCmp (x : MicroFields) (s : State) : Host.Outcome State Fault Refusal :=
  toReg x (fun c => if microRel x.f.toNat (c.reg x.a) (c.reg x.b) then 1 else 0) s

/-- Branch to IMM8 when `taken` holds of the context; a target beyond the program fails (R466). -/
def microBranch (opc : BitVec 8) (x : MicroFields) (go : SmpCtx → SmpCtx × Bool) (s : State) : Host.Outcome State Fault Refusal :=
  micro (fun c m =>
    if c.words.length ≤ x.imm8.toNat then .fail 0x1C2 ((microWord opc x).setWidth 64)
    else
      let (c1, taken) := go c
      .ok (if taken then { c1 with pc := x.imm8.toNat } else c1) m) s

/-- SMP_BR (R468). -/
def execSmpBr (x : MicroFields) (s : State) : Host.Outcome State Fault Refusal := microBranch 0x0A x (fun c => (c, true)) s
/-- SMP_BRC (R468). -/
def execSmpBrc (x : MicroFields) (s : State) : Host.Outcome State Fault Refusal :=
  microBranch 0x0B x (fun c => (c, if x.f = 1 then decide (c.reg x.a = 0) else decide (c.reg x.a ≠ 0))) s
/-- SMP_LOOP (R193, R468). -/
def execSmpLoop (x : MicroFields) (s : State) : Host.Outcome State Fault Refusal :=
  microBranch 0x0C x (fun c =>
    let v := if c.reg x.a = 0 then 0 else c.reg x.a - 1
    (c.setReg x.a v, decide (v ≠ 0))) s

/-! ### Candidates (R469) -/

/-- The first failing slot of a range, if it fails (R466): `zero` tells that a count of 0 fails. -/
def SmpCtx.badRange (c : SmpCtx) (a n : Nat) (zero : Bool) : Option Nat :=
  if n = 0 then (if zero then some a else none)
  else if c.count < a + n then some (max a c.count) else none

/-- SMP.CAND. -/
def candFail (i : Nat) : MicroGot := .fail 0x1C3 (BitVec.ofNat 64 i)

/-- A candidate from element i's bytes (R469). -/
def candOf (f : Nat) (scale : FVal) (i : Nat) (e : Nat) : Word :=
  let score := match f % 4 with
    | 0 => e
    | 1 => f32Rne (fmtBf16.value e)
    | _ => e / 2 ^ 32
  let v := if f / 4 % 2 = 1 then f32Rne ((f32 score).mul scale) else score
  slotWord v (if f % 4 = 2 then e % 2 ^ 32 else i)

/-- Bytes of an element (R469). -/
def candBytes (f : Nat) : Nat :=
  match f % 4 with
  | 0 => 4
  | 1 => 2
  | _ => 8

/-- Element i of n-byte elements. -/
def elemOf (bs : List Byte) (n i : Nat) : Nat := natOfBytes ((bs.drop (n * i)).take n)

/-- SMP_CLD (R469). -/
def execSmpCld (x : MicroFields) (s : State) : Host.Outcome State Fault Refusal :=
  micro (fun c m =>
    let f := x.f.toNat
    let n := (c.reg x.b).toNat
    let first := (c.reg x.d).toNat
    let va := c.pair x.a
    let es := candBytes f
    match c.badRange first n false with
    | some i => candFail i
    | none =>
      if n = 0 then .ok c m
      else match elemCause va es with
      | some cause => .fail cause (BitVec.ofNat 64 va)
      | none =>
        let xf := ((s.smpCtx s.smp.1 s.smp.2).map (·.xfail)).getD none
        match s.smpRead { (c.op s.smp.1 (s.launch c.entry.slot).rmode) with xfail := xf } (elemParts va es n) with
        | (s1, .pending) => .wait { s with held := s1.held, dev := s1.dev }
        | (_, .fail cause a) => .fail cause (BitVec.ofNat 64 a)
        | (s1, .ok bs l) =>
          .placed { c with l := l } (s1.onSampler s.smp.1 (fun m =>
            m.setSlots c first ((List.range n).map (fun i => candOf f (c.val 15) i (elemOf bs es i)))))) s

/-- SMP_CST (R469). -/
def execSmpCst (x : MicroFields) (s : State) : Host.Outcome State Fault Refusal :=
  micro (fun c m =>
    let n := (c.reg x.b).toNat
    let first := (c.reg x.d).toNat
    let va := c.pair x.a
    match c.badRange first n false with
    | some i => candFail i
    | none =>
      if n = 0 then .ok c m
      else match elemCause va 8 with
      | some cause => .fail cause (BitVec.ofNat 64 va)
      | none =>
        let xf := ((s.smpCtx s.smp.1 s.smp.2).map (·.xfail)).getD none
        let bs := (m.slots c first n).flatMap (fun w => bytesOfNat 8 w.toNat)
        match s.smpWrite { (c.op s.smp.1 (s.launch c.entry.slot).rmode) with xfail := xf } none (elemBytes va 8 n bs) with
        | (s1, .pending) => .wait { s with held := s1.held, dev := s1.dev }
        | (_, .fail cause a) => .fail cause (BitVec.ofNat 64 a)
        | (s1, .ok _ l) => .placed { c with l := l } s1) s

/-- Whether candidate a sorts before or with b (R469): (former slot, value). -/
def sortsBefore (a b : Nat × Word) : Bool :=
  let va := f32 (scoreOf a.2)
  let vb := f32 (scoreOf b.2)
  let tie := if idOf a.2 = idOf b.2 then decide (a.1 ≤ b.1) else decide (idOf a.2 < idOf b.2)
  match va.cmp vb with
  | some c => if c = 0 then tie else decide (0 < c)
  | none => if va.isNan = vb.isNan then tie else vb.isNan

/-- CSORTK's order of a range. -/
def sortCands (vs : List Word) : List Word :=
  (((List.range vs.length).zip vs).insertionSort (fun a b => sortsBefore a b)).map (·.2)

/-- SMP_CSORTK (R469). -/
def execSmpCsortk (x : MicroFields) (s : State) : Host.Outcome State Fault Refusal :=
  micro (fun c m =>
    let a := (c.reg x.a).toNat
    let n := (c.reg x.b).toNat
    match c.badRange a n true with
    | some i => candFail i
    | none => .ok c (m.setSlots c a (sortCands (m.slots c a n)))) s

/-- The greatest non-NaN value. -/
def greatestScore (vs : List FVal) : Option FVal :=
  vs.foldl (fun acc v => if v.isNan then acc else match acc with
    | none => some v
    | some m => some (m.minMax true v)) none

/-- Scores under .exp (R469). -/
def expScores (vs : List Nat) : List Nat :=
  match greatestScore (vs.map f32) with
  | none | some (.inf true) => vs.map (fun _ => 0)
  | some m => vs.map (fun v =>
      if (f32 v).isNan then 0 else fmtF32.exp .rne 0 (f32 (f32Rne ((f32 v).add .rne m.neg))))

/-- Inclusive prefix sums of scores; the first is the score itself, a NaN canonical (R26, log 20). -/
def prefixSums : Option Nat → List Nat → List Nat
  | _, [] => []
  | none, v :: r => f32Rne (f32 v) :: prefixSums (some (f32Rne (f32 v))) r
  | some acc, v :: r => f32Add .rne 0 acc v :: prefixSums (some (f32Add .rne 0 acc v)) r

/-- SMP_CSCAN (R469). -/
def execSmpCscan (x : MicroFields) (s : State) : Host.Outcome State Fault Refusal :=
  micro (fun c m =>
    let a := (c.reg x.a).toNat
    let n := (c.reg x.b).toNat
    match c.badRange a n true with
    | some i => candFail i
    | none =>
      let vs := m.slots c a n
      let sc := if x.f = 1 then expScores (vs.map scoreOf) else vs.map scoreOf
      let sums := prefixSums none sc
      .ok (c.setReg x.d (BitVec.ofNat 32 (sums.getLastD 0)))
        (m.setSlots c a ((sums.zip vs).map (fun e => slotWord e.1 (idOf e.2))))) s

/-- The slot that CSEL.gt, .ge or .max selects from slot a on (R469). -/
def selectSlot (f : Nat) (d : FVal) (a : Nat) (vs : List FVal) : Nat :=
  let ps := (List.range vs.length).zip vs
  let beats (u v : FVal) (ties : Bool) : Bool :=
    match u.cmp v with
    | some c => if c = 0 then ties else decide (0 < c)
    | none => false
  if f = 2 then
    ((ps.foldl (fun (best : Option (Nat × FVal)) e =>
      if e.2.isNan then best else match best with
        | none => some e
        | some b => if beats e.2 b.2 false then some e else best) none).map (fun e => a + e.1)).getD a
  else a + ((ps.find? (fun e => beats e.2 d (decide (f = 1)))).map (·.1)).getD (vs.length - 1)

/-- SMP_CSEL (R469). -/
def execSmpCsel (x : MicroFields) (s : State) : Host.Outcome State Fault Refusal :=
  micro (fun c m =>
    let f := x.f.toNat
    let a := (c.reg x.a).toNat
    let n := if f < 3 then (c.reg x.b).toNat else 1
    match c.badRange a n true with
    | some i => candFail i
    | none =>
      let v := match f with
        | 3 => scoreOf (m.slot c a)
        | 4 => idOf (m.slot c a)
        | _ => selectSlot f (c.val x.d) a ((m.slots c a n).map (fun w => f32 (scoreOf w)))
      .ok (c.setReg x.d (BitVec.ofNat 32 v)) m) s

/-! ### The generator (R469) -/

/-- SMP_RNG (R458, R469). -/
def execSmpRng (x : MicroFields) (s : State) : Host.Outcome State Fault Refusal :=
  micro (fun c m =>
    if 2 ^ 24 - 1 ≤ c.draw then .fail 0x1C1 (BitVec.ofNat 64 c.draw)
    else
      let o := simoom c.key c.pos c.draw
      let v := if x.f = 0 then o else BitVec.ofNat 32 (f32Rne (.fin false (o.toNat / 256) (-24)))
      .ok ({ c with draw := c.draw + 1 }.setReg x.d v) m) s

/-- SMP_CTRSET (R469). -/
def execSmpCtrset (x : MicroFields) (s : State) : Host.Outcome State Fault Refusal :=
  micro (fun c m =>
    let a := c.reg x.a
    let b := c.reg x.b
    let gen : MicroGot := .fail 0x1C1 (BitVec.ofNat 64 c.draw)
    match x.f.toNat with
    | 0 => .ok { c with key := b ++ a } m
    | 1 => if 256 ≤ b.toNat then gen else .ok { c with pos := b.toNat * 2 ^ 32 + a.toNat, draw := 0 } m
    | _ => if 2 ^ 24 ≤ a.toNat then gen else .ok { c with draw := a.toNat } m) s

/-- SMP_CTRGET (R469). -/
def execSmpCtrget (x : MicroFields) (s : State) : Host.Outcome State Fault Refusal :=
  toReg x (fun c =>
    match x.f.toNat with
    | 0 => c.key.setWidth 32
    | 1 => c.key.extractLsb' 32 32
    | 2 => BitVec.ofNat 32 c.pos
    | 3 => BitVec.ofNat 32 (c.pos / 2 ^ 32)
    | _ => BitVec.ofNat 32 c.draw) s

/-! ### Entries and the commit (R465) -/

/-- SMP_EMIT (R465, R466). -/
def execSmpEmit (x : MicroFields) (s : State) : Host.Outcome State Fault Refusal :=
  micro (fun c m =>
    let i := (c.reg x.a).toNat
    match c.badRange i 1 true with
    | some j => candFail j
    | none =>
      if 16 ≤ c.emits.length then .fail 0x1C5 (BitVec.ofNat 64 (c.emits.length + 1))
      else
        let w := m.slot c i
        .ok { c with emits := c.emits ++ [(BitVec.ofNat 32 (scoreOf w), BitVec.ofNat 32 (idOf w), c.draw)] } m) s

/-- The 16 bytes of an entry (R98, R465). -/
def SmpCtx.entryBytes (c : SmpCtx) (e : Lane × Lane × Nat) : List Byte :=
  dwordBytes [e.1 ++ e.2.1, BitVec.ofNat 64 (2 ^ 56 + e.2.2 % 2 ^ 24 * 2 ^ 32 + c.stepat % 2 ^ 32)]

/-- Pieces of the entries at the addresses that `f` gives. -/
def SmpCtx.entryParts (c : SmpCtx) (f : Nat → Nat) : List (Nat × List Byte) :=
  ((List.range c.emits.length).zip c.emits).flatMap (fun e => lineParts 16 (f e.1) (c.entryBytes e.2))

/-- A committed step of a stream (R465, R473). -/
def Stream.committed (d : Stream) (c : SmpCtx) (p : Nat) : Stream :=
  let steps := (d.steps + 1) % 2 ^ 32
  { d.stamp p with qtail := (d.qtail + c.emits.length) % 2 ^ 24, steps := steps, gpos := c.pos, draw := c.draw,
                   hzn := d.hzn || (decide (d.horizon ≠ 0) && decide (d.horizon ≤ steps)) }

/-- The instance of a context is complete with P: its context and entries are free. -/
def State.smpDone (s : State) (die k : Nat) (c : SmpCtx) (p : Nat) : State := (s.freeSmp die k c).engineDone die c.ticket p

/-- Whether the stream of an instance has been pruned or retired meanwhile (R465). -/
def State.smpStale (s : State) (c : SmpCtx) (n : Nat) : Bool :=
  decide ((s.stream n).gen ≠ ((c.entry.stream.getD 0).toNat / 2 ^ 24) % 256) || decide ((s.stream n).state ≠ .running)

/-- HALT's commit with P (R464, R465): `c` has released. -/
def State.smpCommit (s : State) (die k : Nat) (c : SmpCtx) (o : EngineOp) (p : Nat) : MicroGot :=
  let write (f : Nat → Nat) (fin : State → Nat → State × Nat) : MicroGot :=
    match s.smpWrite o (some p) (c.entryParts f) with
    | (s1, .pending) => .wait { s with held := s1.held, dev := s1.dev }
    | (_, .fail cause a) => .fail cause (BitVec.ofNat 64 a)
    | (s1, .ok _ l) =>
      let r := fin s1 l
      if clockLimit ≤ r.2 then .failFree 0x0A6 else .over_ (r.1.smpDone die k { c with l := r.2 } p)
  match c.streamId with
  | none =>
    let base := (c.entry.record.kd 5).toNat
    if base = 0 ∧ c.emits ≠ [] then .fail 0x1C5 (BitVec.ofNat 64 c.emits.length)
    else write (fun e => (base + 16 * e) % 2 ^ 64) (fun s l => (s, l))
  | some n =>
    let d := s.stream n
    if s.smpStale c n then .over_ (s.smpDone die k c p)
    else if 2 ^ d.qlog < d.held + c.emits.length then .fail 0x1C5 (BitVec.ofNat 64 c.emits.length)
    else write (fun e => d.entryAddr (d.qtail + e)) (fun s l =>
      let r := s.placeDesc o.agent l n
      (r.1.onStream n (fun d => d.committed c p), r.2))

/-- SMP_HALT (R464, R465). A release past the clocks' limit fails with no address: UTVAL is free (log 24). -/
def execSmpHalt (_ : MicroFields) (s : State) : Host.Outcome State Fault Refusal :=
  micro (fun c _ =>
    if clockLimit ≤ c.l + 1 then .failFree 0x0A6
    else
      let xf := ((s.smpCtx s.smp.1 s.smp.2).map (·.xfail)).getD none
      let c1 := { c with l := c.l + 1 }
      s.smpCommit s.smp.1 s.smp.2 c1 { (c1.op s.smp.1 (s.launch c.entry.slot).rmode) with xfail := xf } c.l) s

/-- SMP_FAULT (R466, R468). -/
def execSmpFault (x : MicroFields) (s : State) : Host.Outcome State Fault Refusal :=
  micro (fun c _ => .fail 0x1C4 ((c.reg x.a).setWidth 64)) s

/-- The sampler context that takes the sampler's next slot (R467): the first after the one that issued last, of those that have a program to
run and are not late. -/
def State.nextSmp (s : State) (die : Nat) (late : List Nat) : Option Nat :=
  firstFrom ((s.sampler die).last + 1) 256 (fun k => !late.contains k && ((s.smpCtx die k).map (fun c => decide (c.words ≠ []))).getD false)

/-- A sampler context's turn (R462, R466, R467): its next word runs through `run`. A word that is no micro-instruction fails, and
so does a PC at the program's end, whose word the spec does not give (log 24). -/
def microStep (run : Instr → State → Host.Outcome State Fault Refusal) (die k : Nat) (s : State) : Host.Outcome State Fault Refusal :=
  match s.smpCtx die k with
  | none => .next (s.tick 1)
  | some c =>
    if c.words.length ≤ c.pc then
      .next (({ s with free := s.free + 1 }.smpFail die k c 0x1C2 (Config.freeValue s.free)).tick 1)
    else
      match decodeMicro (c.words.getD c.pc 0) with
      | some i => run i { s with smp := (die, k) }
      | none => .next ((s.smpFail die k c 0x1C2 ((c.words.getD c.pc 0).setWidth 64)).tick 1)

/-- A sampler's issue slot (R467): one micro-instruction per clk, round-robin. -/
def microTurn (run : Instr → State → Host.Outcome State Fault Refusal) (die : Nat) (late : List Nat) (s : State) :
    Host.Outcome State Fault Refusal :=
  match s.nextSmp die late with
  | some k => microStep run die k (s.onSampler die (fun m => { m with last := k }))
  | none => .next (s.tick 1)

end Sys2Proof.Machine
end

