-- ==== Sys2Proof/Machine/CaravanEvents.lean ====
section
/-! DEFINITION. What Caravan does by itself: successors becoming ready (R114), the overflow list (R116), selection and dispatch
(R117-R125, R132, R133, R520), gangs (R122, R126), evaluated nodes (R85, R86, R128-R130, R472) and drives (R88). -/
namespace Sys2Proof.Machine

/-! ### Successors (R114) -/

/-- The first edge of a launch is done with. -/
def State.dropEdge (s : State) (slot : Nat) : State := s.onLaunch slot (fun l => { l with edges := l.edges.drop 1 })

/-- A launch-graph node becomes ready with P (R89, R114, R115): it is read, checked and put into a pool. None while the read
waits for the host, or while its pool and overflow list are full (R116). -/
def State.nodeReady (s : State) (slot idx p : Nat) : Except State State :=
  let tmpl := (s.launch slot).graph.toNat
  match s.nodeAt slot tmpl idx false with
  | .absent va => .error (s.holdNode slot idx va)
  | .bad => .ok (s.graphUnreadable slot idx)
  | .ok (.error c) => .ok (s.graphError slot c idx)
  | .ok (.ok r) =>
    match s.placeRead slot r with
    | .absent va => .error (s.holdNode slot idx va)
    | _ =>
      let die := s.poolOf slot r none
      if (s.caravan die).full then .error s
      else .ok (s.enterPool die (poolEntry s slot idx (BitVec.ofNat 64 (tmpl + 64 * idx)) r p none) none)

/-- The header's check at a launch start, which makes the roots ready (R82, R86, R89, R110). -/
def State.startGraph (s : State) (slot p : Nat) : State :=
  match s.readHeader slot (s.launch slot).graph.toNat false with
  | .absent va => s.holdNode slot 0 va
  | .bad => s.graphUnreadable slot 0
  | .ok (.error c) => s.graphError slot c 0
  | .ok (.ok h) =>
    s.onLaunch slot (fun l => { l with
      nodes := h.n, tag := h.tag, left := [], loops := [], ps := [],
      edges := l.edges.drop 1 ++ h.roots.map (fun r => { src := 0, node := r, p := p }) })

/-- Whether an edge is a loop node's back edge, and the successor's NPRED (R86, R114). -/
def State.edgeInfo (s : State) (slot src idx : Nat) : Got (Bool × Nat) :=
  let l := s.launch slot
  (s.lookDwords l.owner (l.graph.toNat + 64 * idx) 8).andThen (fun ws =>
    let w0 := ws.getD 0 0
    let k2 := (resolveDwords l.vals w0 (ws.drop 2)).getD 2 0
    .ok (decide (field w0 0 4 = 9) && decide (field k2 0 16 ≤ src) && decide (src ≤ field k2 16 16), field w0 8 8))

/-- Count an edge at the owning die: the successor becomes ready when its count reaches 0, at once for a root or a back
edge (R82, R86, R114, R130). An edge to index 0 makes the header ready as a node, which fails its check with GRAPH.KIND (R89,
log 38). -/
def State.countEdge (s : State) (slot : Nat) (e : EdgeRel) : State :=
  let ready (s : State) (p : Nat) (fin : State → State) : State :=
    match s.nodeReady slot e.node p with
    | .error s1 => s1
    | .ok s1 => fin (s1.dropEdge slot)
  if e.src = 0 ∨ e.node = 0 then ready s e.p id
  else
    match s.edgeInfo slot e.src e.node with
    | .absent va => s.holdNode slot e.node va
    | .bad => s.graphUnreadable slot e.node
    | .ok (true, _) => ready s e.p id
    | .ok (false, npred) =>
      let l := s.launch slot
      let left := l.left.get npred e.node
      let p := max (l.ps.get 0 e.node) e.p
      if left = 0 then s.dropEdge slot
      else if left = 1 then
        ready s p (fun s => s.onLaunch slot (fun l => { l with left := l.left.set e.node 0, ps := l.ps.drop e.node }))
      else (s.dropEdge slot).onLaunch slot (fun l => { l with left := l.left.set e.node (left - 1), ps := l.ps.set e.node p })

/-- SUCCESSOR_READY (R114): the oldest edge that a completion has released is counted. -/
def execSuccessorReady (slot : Nat) (s : State) : Host.Outcome State Fault Refusal :=
  if Config.slotCount ≤ slot then .fault .noUnit
  else
    match (s.launch slot).edges with
    | [] => .next s
    | e :: _ =>
      if (s.launch slot).state ≠ .running then .next (s.dropEdge slot)
      else if e.src = 0 ∧ e.node = 0 ∧ (s.launch slot).nodes = 0 then .next (s.startGraph slot e.p)
      else .next (s.countEdge slot e)

/-- POOL_OVERFLOW_TRANSFER (R116). -/
def execPoolOverflowTransfer (die : Nat) (s : State) : Host.Outcome State Fault Refusal :=
  if 4 ≤ die then .fault .noUnit
  else
    match (s.caravan die).overflow with
    | [] => .next s
    | e :: r =>
      if (s.caravan die).size < 8192 then
        .next (((s.onCaravan die (fun c => { c with overflow := r })).closeLone die e).onCaravan die (fun c => c.enter e s.clk))
      else .next s

/-! ### Gangs (R122, R126) -/

/-- Whether an open gang closes (R122): at its maximum, 512 clk after its opening, or with no stream elsewhere on its way while no
drive takes handles. -/
def State.gangCloses (s : State) (g : Gang) (c : Caravan) : Bool :=
  decide (g.max ≤ g.members.length) || decide (g.opened + 512 ≤ s.clk) || !(g.members.any (fun m => c.awaited m || s.driving m))

/-- GANG_CLOSE (R122): the gang closes if it is due; else the entries that waited for a close join their next gangs. -/
def execGangClose (die idx : Nat) (s : State) : Host.Outcome State Fault Refusal :=
  if 4 ≤ die then .fault .noUnit
  else
    .next (s.onCaravan die (fun c =>
      match c.gangs[idx]? with
      | none => c.regroup s.clk
      | some g =>
        match g.members with
        | [] => c
        | m :: _ => if !g.closed && s.gangCloses g c then c.closeGang m s.clk else c.regroup s.clk))

/-- Whether Wadi is about to resolve the group to which a stream has returned (R482), which comes before a completion of the stream's gang
(R508). -/
def State.resolving (s : State) (n : Nat) : Bool :=
  let d := s.stream n
  let die := n % 4
  let g := s.group die d.jgroup
  decide (d.jgroup ≠ 0xFFFF) && decide (g.state = .opened) && g.complete && g.rets.any (fun r => decide (r.1 = n))
    && decide ((s.resolve die d.jgroup none).2.isSome)

/-- GANG_COMPLETION (R126): the members of a gang whose work is done advance, in row order. -/
def execGangCompletion (die gslot : Nat) (s : State) : Host.Outcome State Fault Refusal :=
  if 4 ≤ die ∨ 1024 ≤ gslot then .fault .noUnit
  else
    match (s.caravan die).insts.find? (fun i => i.finished && decide (i.gslot = some gslot)) with
    | none => .next s
    | some i => .next (if (i.rows.filterMap id).any (fun h => s.resolving (handleId h)) then s else s.completeInst die i)

/-! ### Candidates (R117, R118) -/

/-- What Caravan may dispatch: an entry by itself, or a closed gang. -/
inductive Cand where
  | one (e : PoolEntry)
  | gang (g : Gang)
  deriving DecidableEq, Repr

/-- The entries of a candidate. -/
def Cand.entries : Cand → List PoolEntry
  | .one e => [e]
  | .gang g => g.members

/-- The class of a kind; none for nodes that Caravan serves itself. -/
def classOf (kind : Nat) : Option UnitClass :=
  match kind with
  | 1 | 11 => some .cores
  | 2 => some .matrix
  | 3 => some .copy
  | 5 => some .sampler
  | 6 => some .wadi
  | 7 => some .nearMem
  | _ => none

/-- The least of the numbers that a candidate's entries give. -/
def Cand.least (c : Cand) (f : PoolEntry → Nat) : Nat := ((c.entries.map f).min?).getD 0

/-- Its effective priority is highest first, then the ready time, launch slot, node index and least stream ID (R117, R118). -/
def Cand.key (c : Cand) (clk : Nat) : List Nat :=
  let e := c.least (·.ready)
  [3 - min 3 (c.least (·.prio) + (clk - e) / 65536), e, c.least (·.slot), c.least (·.node), c.least (·.streamId)]

/-- Lexicographic order. -/
def lexLe : List Nat → List Nat → Bool
  | a :: r, b :: q => decide (a < b) || (decide (a = b) && lexLe r q)
  | _, _ => true

/-- The candidates of a class in their order (R118). A suspended launch dispatches nothing (R416). -/
def State.candidates (s : State) (die : Nat) (cls : UnitClass) : List Cand :=
  let c := s.caravan die
  let ones := (c.pool.filter (fun e => !e.gangs)).map Cand.one
  let gangs := (c.gangs.filter (·.closed)).map Cand.gang
  ((ones ++ gangs).filter (fun x => x.entries.any (fun e =>
    decide (classOf e.kind = some cls) && !(s.launch e.slot).suspended))).insertionSort (fun a b => lexLe (a.key s.clk) (b.key s.clk))

/-- Take a candidate out of its pool. -/
def Caravan.without (c : Caravan) : Cand → Caravan
  | .one e => { c with pool := c.pool.erase e }
  | .gang g => { c with gangs := c.gangs.erase g }

/-- The check of one entry at dispatch (R125). -/
def State.entryOk (s : State) (e : PoolEntry) : Bool :=
  match e.stream with
  | none => true
  | some h =>
    let d := s.stream (h.toNat % 2 ^ 24)
    decide (d.gen = h.toNat / 2 ^ 24 % 256) && decide (d.state = .ready) && decide (d.node = e.node)

/-! ### Units (R119, R124) -/

/-- Pages of streams that the Erg frames of a package cluster hold, each counted once (R124). -/
def State.ergPages (s : State) (ns : List Nat) (cl : Nat) : Nat :=
  let pages := (ns.flatMap (fun n => (s.mapped n).filterMap (fun p => s.pageAt n p))).dedup
  (pages.filter (fun p => match (s.page p).loc with
    | .erg g _ => decide (clusterOf g = cl)
    | _ => false)).length

/-- The cluster of the greatest score, the first of them at a tie. -/
def bestCluster (score : Nat → Nat × Nat) : List Nat → Option Nat
  | [] => none
  | cl :: r => some (r.foldl (fun b x =>
      if (score b).1 < (score x).1 ∨ ((score b).1 = (score x).1 ∧ (score b).2 < (score x).2) then x else b) cl)

/-- Free eligible cores of a package cluster for a node, those reserved for others left out (R119, R120). -/
def State.freeCores (s : State) (slot : Nat) (r : NodeRec) (taken : List Nat) (cl : Nat) : List Nat :=
  (clusterCores cl).filter (fun g => s.coreFree g && s.coreEligible slot r.tmode r.target g && !taken.contains g)

/-- Clusters in which a node of a die's pool may be served (R119). -/
def nodeClusters (die : Nat) (r : NodeRec) : List Nat :=
  if 2 ≤ r.tmode then [targetPlace r.target] else (List.range 128).map (fun c => die * 128 + c)

/-- Cores of a tile's fixed group (R119). -/
def fixedCores (r : NodeRec) : List Nat :=
  (List.range (field (r.kd 1) 0 7)).map (fun i => targetPlace r.target * 80 + targetCore r.target + i)

/-- The members bitmap of a domain node (R84). -/
def State.domainCores (s : State) (slot : Nat) (r : NodeRec) : Got (List Nat) :=
  (s.lookDwords (s.launch slot).owner (r.kd 2).toNat 640).andThen (fun ws => .ok (bitmapCores ws))

/-- The cores of a candidate's group in rank order, and those to be reserved while it cannot be formed (R119, R120, R124,
R383). -/
def State.coreGroup (s : State) (die : Nat) (c : Cand) (taken : List Nat) : Option (List Nat) × List Nat :=
  match c.entries with
  | [] => (none, [])
  | e :: _ =>
    let r := e.record
    let n := field (r.kd 1) 0 7
    let free (cl : Nat) : List Nat := s.freeCores e.slot r taken cl
    if e.kind = 11 then
      match s.domainCores e.slot r with
      | .ok gs =>
        let ok := gs.all (fun g => s.coreFree g && s.memberEligible e.slot r.tmode r.target g && !taken.contains g)
          && (s.domainRefusal (field (r.kd 1) 0 6) gs).isNone
        (if ok then some gs else none, gs)
      | _ => (none, [])
    else if r.tmode = 3 then
      let gs := fixedCores r
      (if gs.all (fun g => s.coreFree g && !taken.contains g) then some gs else none, gs)
    else
      let cls := nodeClusters die r
      let eligible (cl : Nat) : List Nat := (clusterCores cl).filter (fun g => s.coreEligible e.slot r.tmode r.target g)
      let most := bestCluster (fun cl => ((free cl).length, 0)) cls
      let can := cls.filter (fun cl => decide (n ≤ (free cl).length))
      let best := match c with
        | .one _ => bestCluster (fun cl => ((free cl).length, 0)) can
        | .gang g => bestCluster (fun cl => (s.ergPages (g.members.map (fun (e : PoolEntry) => e.streamId)) cl, (free cl).length)) can
      (best.map (fun cl => (free cl).take n), (most.map eligible).getD [])

/-- Node instances of a kind that are queued on a unit of a die. -/
def Caravan.queuedOn (c : Caravan) (kind unit : Nat) : Nat :=
  (c.insts.filter (fun i => decide (i.entry.kind = kind) && decide (i.unit = unit))).length

/-- A free unit of an engine class for a candidate (R119, R124). Where several are free and no rule chooses, the choice
is a free value (log 26). -/
def State.freeUnit (s : State) (die : Nat) (c : Cand) : Option Nat :=
  match c.entries with
  | [] => none
  | e :: _ =>
    let r := e.record
    let ok (cl : Nat) : Bool := !s.dev.gated.contains cl &&
      (if e.kind = 2 then (s.engine cl).node.isNone else decide ((s.caravan die).queuedOn 3 cl < 4))
    let cls := (nodeClusters die r).filter ok
    match e.kind with
    | 5 => if (s.sampler die).free (field (r.kd 2) 0 16) then some die else none
    | 6 => some die
    | 7 =>
      let st := s.nodeStack e.slot r
      if (s.caravan die).queuedOn 7 st < 8 then some st else none
    | _ =>
      match c with
      | .gang g => bestCluster (fun cl => (s.ergPages (g.members.map (fun (e : PoolEntry) => e.streamId)) cl, (s.freeCores e.slot r [] cl).length)) cls
      | .one _ => (firstFrom (Config.freeValue s.free).toNat cls.length (fun _ => true)).map (fun i => cls.getD i 0)

/-! ### Dispatch (R123, R125, R130, R132, R133, R520) -/

/-- Rows of a gang (R123): a tile gang in ascending ready time and stream ID, a matrix-tile gang by stream ID mod 32. -/
def gangRows (kind : Nat) (es : List PoolEntry) : List (Option Word) :=
  if kind = 1 then
    ((es.insertionSort (fun a b => lexLe [a.ready, a.streamId] [b.ready, b.streamId]))).map (·.stream)
  else (List.range 32).map (fun i => (es.find? (fun e => decide (e.streamId % 32 = i))).bind (·.stream))

/-- Key of a gang record (R123). -/
def gangKey (die slot : Nat) : Nat := fixedKey (0x00FC000000000000 + die * 2 ^ 24 + slot * 256)

/-- The lines of a gang record. -/
def gangLines (die slot : Nat) : List Nat := (List.range 4).map (fun i => gangKey die slot / 64 + i)

/-- Write a gang record with P: it takes its place in the order (R322) and stands in memory before a node is delivered, and no core keeps an
older copy (log 26). -/
def State.writeGang (s : State) (die slot p : Nat) (rows : List (Option Word)) : State :=
  let key := gangKey die slot
  let s := ({ s with free := s.free + 1 }.placeLines (freeAgent s.free) (p + 1) (gangLines die slot)).1
  let bytes := dwordBytes ((List.range 32).map (fun i => ((rows.getD i none)).getD 0))
  let drop (c : Core) : Core := { c with cway := c.cway.filter (fun l => !(decide (key / 64 ≤ l.line) && decide (l.line < key / 64 + 4))) }
  { s with mem := s.mem.putBytes key bytes, cores := s.cores.map (fun (e : Nat × Core) => (e.1, drop e.2)) }

/-- The instance word (R133). -/
def instanceWord (gslot : Option Nat) (slot die ticket gsize rank : Nat) : Word :=
  BitVec.ofNat 64 (gslot.getD 0xFFFF * 2 ^ 48 + slot * 2 ^ 34 + die * 2 ^ 32 + ticket * 2 ^ 16 + gsize * 2 ^ 8 + rank)

/-- Write register n of s0-s31 and g0-g15 (R58). -/
def Ctx.setReg (c : Ctx) (n : Nat) (v : Word) : Ctx := if n < 32 then c.setS n v else c.setG (n - 32) v

/-- What NWAIT leaves when it completes (R132): the pair of D and the address of the next instruction. -/
def Ctx.nwaitEnds (c : Ctx) (w : NodeWait) (v0 v1 : Word) : Ctx :=
  { (c.setReg w.d.toNat v0).setReg (w.d.toNat + 1) v1 with
    pc := w.next, nwait := none, waitFrom := none, mid := false, qFrom := none, unissued := false, xfail := none, popped := [] }

/-- A waiting NWAIT completes with a node in the step of its delivery (R132). -/
def State.nwaitDone (s : State) (g : Nat) (w : NodeWait) (n : Delivery) : State :=
  (s.takeNode g n.ticket).onCtx g 0 (fun c => { (c.nwaitEnds w n.record n.word).acquire n.p with ticket := some n.ticket })

/-- A node reaches a control context: a waiting NWAIT completes with it, and an idle context begins at the code entry (R132, R520).
Where the acquire would pass the clocks' limit the node stays with the context, whose NWAIT raises RACE.CLOCK (R361). -/
def State.deliver (s : State) (g : Nat) (n : Delivery) (entry : Word) : State :=
  let c := s.ctx g 0
  if c.idle then
    (s.takeNode g n.ticket).onCtx g 0 (fun c => { c with
      idle := false, hstate := .live, arrived := some n, pc := entry, fbuf := [], ticket := none })
  else
    match c.nwait with
    | some w => if max c.h n.p + 1 < clockLimit then s.nwaitDone g w n else s.onCtx g 0 (fun c => { c with arrived := some n })
    | none => s.onCtx g 0 (fun c => { c with arrived := some n })

/-- Deliver an instance to its cores, one rank each; the ranks of a domain instance are 0 (R133). -/
def State.deliverAll (s : State) (i : Inst) (gsize : Nat) : State :=
  let e := i.entry
  let t : Ticket := { num := i.ticket, die := i.die, slot := e.slot, epoch := e.epoch }
  ((List.range i.cores.length).zip i.cores).foldl (fun s rg =>
    let w := instanceWord i.gslot e.slot i.die i.ticket gsize (if e.kind = 11 then 0 else rg.1)
    s.deliver rg.2 { record := e.addr, word := w, p := e.p, ticket := t } (e.record.kd 0)) s

/-- Configure the domain of a domain node (R383). -/
def State.configNode (s : State) (i : Inst) : State :=
  let r := i.entry.record
  if i.entry.kind = 11 then
    s.configDomain (field (r.kd 1) 0 6) i.entry.slot i.entry.epoch i.cores (field (r.kd 1) 8 8 + 1) (16 * (field (r.kd 1) 16 8 + 1))
      (field (r.kd 3) 0 32)
  else s

/-- Start a matrix-tile node on its engine (R265): its rows are all, or those of its gang. -/
def State.startMatrix (s : State) (i : Inst) : State :=
  let e := i.entry
  let mask : BitVec 32 := if i.gslot.isNone then BitVec.allOnes 32
    else BitVec.ofNat 32 (((List.range 32).filter (fun k => (i.rows.getD k none).isSome)).foldl (fun a k => a + 2 ^ k) 0)
  s.onEngine i.unit (fun m => { m with node := some {
    die := i.die, ticket := i.ticket, slot := e.slot, epoch := e.epoch, owner := (s.launch e.slot).owner, words := e.words,
    recAddr := e.addr, rows := mask, p := e.p } })

/-- Hand an instance to its unit. -/
def State.handInst (s : State) (i : Inst) (gsize : Nat) : State :=
  match classOf i.entry.kind with
  | some .cores => (s.configNode i).deliverAll i gsize
  | some .matrix => s.startMatrix i
  | some .sampler => s.takeSample i.die i
  | _ => s

/-- Dispatch a candidate to cores or to a unit (R123, R125): its surviving members run; nothing is dispatched when none
survives. The lowest free gang slot is taken, as in R507; the number of a ticket is a free value, but for being distinct while in use
(log 26). -/
def State.dispatchCand (s : State) (die : Nat) (c : Cand) (cores : List Nat) (unit : Nat) : State :=
  let es := c.entries.filter s.entryOk
  let s0 := s.onCaravan die (fun v => v.without c)
  match es with
  | [] => s0
  | e0 :: _ =>
    let car := s0.caravan die
    let isCore := decide (classOf e0.kind = some .cores)
    let gang := match c with
      | .one _ => false
      | .gang _ => true
    let ticket := if isCore then
        (firstFrom (Config.freeValue s.free).toNat 8192 (fun t => !(car.insts.any (fun i => i.ticket = t)))).getD 0
      else 8192 + s.fresh
    let gslot := if gang then (List.range 1024).find? (fun t => !car.gslots.contains t) else none
    let rows := if gang then gangRows e0.kind es else []
    let e : PoolEntry := { e0 with
      p := es.foldl (fun p x => max p x.p) 0, stream := if gang then none else e0.stream }
    let i : Inst := { id := s.fresh, die := die, ticket := ticket, entry := e, cores := cores, done := [], p := 0, gslot := gslot,
                      rows := rows, unit := unit, dead := false }
    let run (s : State) (x : PoolEntry) : State :=
      match x.stream with
      | none => s
      | some _ => ((if gang && !(s.caravan die).spm.contains x.streamId then s.loadSpm die x.streamId else s).unitStep x.streamId x.p).onStream x.streamId (fun d => { d with state := .running })
    let s1 := es.foldl run { s0 with fresh := s.fresh + 1, free := s.free + 1 }
    let s2 := match gslot with
      | some k => s1.writeGang die k e.p rows
      | none => s1
    let t := es.foldl (fun t x => if x.stream.isSome then max t (s0.unitTime x.streamId x.p) else t)
      ((gslot.map (fun k => s1.timeLines (e.p + 1) (gangLines die k))).getD 0)
    ((s2.onCaravan die (fun v => { v with
      insts := v.insts ++ [i], gslots := (match gslot with
        | some k => k :: v.gslots
        | none => v.gslots) })).handInst i (if gang then es.length else 0)).clockStop e.slot t

/-- Whether a gang slot is free for a candidate that needs one (R123), and one of the 8,192 tickets of core instances for one that needs that
(R133; DESIGN CHOICE, log 51: while none is free, none is dispatched). -/
def Caravan.slotFree (c : Caravan) (x : Cand) : Bool :=
  (match x with
    | .one _ => true
    | .gang _ => decide (c.gslots.length < 1024))
  && (!x.entries.any (fun e => decide (classOf e.kind = some .cores)) || (List.range 8192).any (fun t => !c.insts.any (fun i => i.ticket = t)))

/-- What dispatching a candidate of the cores class reads besides its records: its launch's stage map (R108), and a domain node's
bitmap. -/
def State.groupRead (s : State) (c : Cand) : Got Unit :=
  match c.entries with
  | [] => .ok ()
  | e :: _ =>
    match s.stageMap e.slot with
    | .absent va => .absent va
    | _ => if e.kind = 11 then (s.domainCores e.slot e.record).andThen (fun _ => .ok ()) else .ok ()

/-- Pages of stage maps and bitmaps that are not present are reported to the host; a bitmap that may not be read is an error of its
node (R113, log 18). -/
def State.holdMaps (s : State) (cs : List Cand) : State :=
  cs.foldl (fun s c =>
    match c.entries.head?, s.groupRead c with
    | some e, .absent va => s.holdNode e.slot e.node va
    | some e, .bad => s.graphUnreadable e.slot e.node
    | _, _ => s) s

/-- Whether a candidate waits for a page of its stage map or bitmap. -/
def State.mapHeld (s : State) (c : Cand) : Bool :=
  match s.groupRead c with
  | .ok _ => false
  | _ => true

/-- Cores that the Caravans of other dies have reserved (R120). -/
def State.reservedElsewhere (s : State) (die : Nat) : List Nat :=
  ([0, 1, 2, 3].filter (· ≠ die)).flatMap (fun d => (s.caravan d).reserved)

/-- What names the head entry of the cores class. -/
def Cand.tag (c : Cand) : Nat × Nat × Nat × Nat := (c.least (·.slot), c.least (·.node), c.least (·.ready), c.least (·.streamId))

/-- The cores that stay reserved for a head entry (R120): a domain's members and the cores that TMODE 3 names, else the eligible cores of
the cluster chosen when the reservation was made; those of them that another die's Caravan no longer reserves are among them again (R121). -/
def State.keptCores (s : State) (die : Nat) (h : Cand) (far : List Nat) : List Nat :=
  match h.entries, (s.caravan die).reserved with
  | e :: _, g :: _ =>
    if e.kind = 11 ∨ e.record.tmode = 3 then (s.coreGroup die h far).2
    else (clusterCores (clusterOf g)).filter (fun x => s.coreEligible e.slot e.record.tmode e.record.target x)
  | _, _ => (s.coreGroup die h far).2

/-- Select and dispatch in the cores class (R118-R120): the head entry, or, with cores reserved for it, the first other
entry whose group can be formed. No core that another die's Caravan has reserved is taken or reserved (log 26). An entry whose
stage map or bitmap waits for the host is passed over. -/
def State.dispatchCores (s : State) (die : Nat) : State :=
  let all := s.candidates die .cores
  let far := s.reservedElsewhere die
  match all.filter (fun c => !s.mapHeld c) with
  | [] => (s.onCaravan die (fun v => { v with reserved := [], reservedFor := none })).holdMaps all
  | h :: rest =>
    let car := s.caravan die
    let go (c : Cand) (taken : List Nat) : Option (List Nat) :=
      if car.slotFree c then (s.coreGroup die c taken).1 else none
    match go h far with
    | some gs => (s.onCaravan die (fun v => { v with reserved := [], reservedFor := none })).dispatchCand die h gs 0
    | none =>
      let res := (if car.reservedFor = some h.tag then s.keptCores die h far else (s.coreGroup die h far).2).filter (fun g => !far.contains g)
      let s1 := s.onCaravan die (fun v => { v with reserved := res, reservedFor := some h.tag })
      match rest.findSome? (fun c => (go c (far ++ res)).map (fun gs => (c, gs))) with
      | some (c, gs) => s1.dispatchCand die c gs 0
      | none => s1.holdMaps all

/-- Select and dispatch in a class of engines (R118). -/
def State.dispatchUnit (s : State) (die : Nat) (cls : UnitClass) : State :=
  let car := s.caravan die
  match (s.candidates die cls).findSome? (fun c => if car.slotFree c then (s.freeUnit die c).map (fun u => (c, u)) else none) with
  | some (c, u) => { s with free := s.free + 1 }.dispatchCand die c [] u
  | none => s

/-- CARAVAN_DISPATCH (R118). -/
def execCaravanDispatch (die : Nat) (cls : UnitClass) (s : State) : Host.Outcome State Fault Refusal :=
  if 4 ≤ die then .fault .noUnit
  else
    match cls with
    | .cores => .next (s.dispatchCores die)
    | c => .next (s.dispatchUnit die c)

/-! ### Evaluated nodes (R85, R86, R128-R130) -/

/-- What an evaluated node's read gives: a value and the clock it acquires, a wait, or an address that may not be read. -/
inductive EvalGot where
  | ok (v : Word) (p : Nat)
  | pending
  | bad
  deriving DecidableEq, Repr

/-- Caravan's read of a word (R128, R323): an acquire at scope pkg that takes its place in the order and is not race-checked.
The spec gives Caravan no agent ID and no clock: the agent is a free value, and the read is placed with the entry's P
(log 26). -/
def State.evalRead (s : State) (e : PoolEntry) (va : Nat) : State × EvalGot :=
  match s.evalKey (s.launch e.slot).owner va with
  | .absent a => (s.holdNode e.slot e.node a, .pending)
  | .bad => (s, .bad)
  | .ok key =>
    if s.otherHolds 0 (key / 64) then (s.askHost (key / 64), .pending)
    else if s.starves (s.launch e.slot).owner (key / 64) then (s, .pending)
    else
      let s1 := { s with free := s.free + 1 }.settle none (key / 64)
      let r : Req := { agent := freeAgent s.free, l := e.p, h := e.p, epoch := e.epoch, scope := 4, atomic := true,
                       key := key, size := 8, read := true, write := false, tag := none }
      let v := BitVec.ofNat 64 (natOfBytes (s1.homeBytes key 8))
      ((s1.place326 r).1, .ok v ((s1.acquiredP r).getD 0))

/-- Remove an evaluated entry from its pool. -/
def State.unpoolEntry (s : State) (die : Nat) (e : PoolEntry) : State := s.onCaravan die (fun c => c.without (.one e))

/-- An evaluated node releases one successor with P (R85, R86, R130). A stream becomes ready there, or waits for an action at
the body entry of its loop (R472). -/
def State.evalRelease (s : State) (die : Nat) (e : PoolEntry) (succ p : Nat) (body : Bool) : State :=
  let s1 := s.unpoolEntry die e
  match e.stream with
  | none => s1.releaseEdges e.slot e.node p [succ]
  | some _ =>
    let n := e.streamId
    let s2 := (s1.unitStep n p).onStream n (fun d => { d with node := succ })
    (if body && decide ((s2.stream n).held = 0) then s2.awaitAction n else s2.streamReady n p s.clk (some die)).clockStop e.slot
      (s1.unitTime n p)

/-- Evaluate an entry with the word that it reads, if it reads one. -/
def State.evalWith (s : State) (die : Nat) (e : PoolEntry) (va : Nat) (f : State → Word → Nat → State) : State :=
  if !s.entryOk e then s.unpoolEntry die e
  else
    match s.evalRead e va with
    | (s1, .pending) => s1
    | (s1, .bad) => s1.graphUnreadable e.slot e.node
    | (s1, .ok v p) => f s1 v (max e.p p)

/-- Entries of a kind that wait for evaluation, in the order of R118 (log 26). -/
def State.evaluable (s : State) (die kind : Nat) : List PoolEntry :=
  ((s.caravan die).pool.filter (fun e => decide (e.kind = kind) && !(s.launch e.slot).suspended)).insertionSort
    (fun a b => lexLe ((Cand.one a).key s.clk) ((Cand.one b).key s.clk))

/-- CONDITION_EVAL (R85). -/
def execConditionEval (die : Nat) (s : State) : Host.Outcome State Fault Refusal :=
  if 4 ≤ die then .fault .noUnit
  else
    match s.evaluable die 8 with
    | [] => .next s
    | e :: _ =>
      let r := e.record
      .next (s.evalWith die e (r.kd 0).toNat (fun s v p =>
        s.evalRelease die e (e.succ.getD (if relHolds (field (r.kd 2) 0 3) v (r.kd 1) then 0 else 1) 0) p false))

/-- SWITCH_EVAL (R85). -/
def execSwitchEval (die : Nat) (s : State) : Host.Outcome State Fault Refusal :=
  if 4 ≤ die then .fault .noUnit
  else
    match s.evaluable die 10 with
    | [] => .next s
    | e :: _ =>
      let r := e.record
      .next (s.evalWith die e (r.kd 0).toNat (fun s v p =>
        s.evalRelease die e (e.succ.getD (min (v - r.kd 1).toNat (e.succ.length - 1)) 0) p false))

/-- Whether an instance of a node in a loop's body is ready, dispatched or executing, or is about to become ready (R129). -/
def State.bodyBusy (s : State) (e : PoolEntry) : Bool :=
  let k2 := e.record.kd 2
  let inBody (n : Nat) : Bool := decide (field k2 0 16 ≤ n) && decide (n ≤ field k2 16 16)
  [0, 1, 2, 3].any (fun d => (s.caravan d).held.any (fun x =>
    x.stream.isNone && x.task.isNone && decide (x.slot = e.slot) && inBody x.node))
  || s.drives.any (fun d => decide (d.slot = e.slot) && inBody d.node)
  || (s.launch e.slot).edges.any (fun x => inBody x.node)

/-- The loop count of an entry: the stream's POSITION, or the count of the launch (R86). -/
def State.loopCount (s : State) (e : PoolEntry) : Nat :=
  if e.stream.isSome then (s.stream e.streamId).position else (s.launch e.slot).loops.get 0 e.node

/-- Evaluate a loop node whose limit is known (R86). -/
def State.evalLoop (s : State) (die : Nat) (e : PoolEntry) (lim p : Nat) : State :=
  let i := s.loopCount e
  let k2 := e.record.kd 2
  let set (s : State) (v : Nat) : State :=
    if e.stream.isSome then s.onStream e.streamId (fun d => { d with position := v })
    else s.onLaunch e.slot (fun l => { l with loops := l.loops.set e.node v })
  let outside (x : Nat × Nat) : Bool := !(decide (field k2 0 16 ≤ x.1) && decide (x.1 ≤ field k2 16 16))
  if i < lim then
    let s1 := set s (i + 1)
    let s2 := if e.stream.isSome then s1
      else s1.onLaunch e.slot (fun l => { l with left := l.left.filter outside, ps := l.ps.filter outside })
    s2.evalRelease die e (e.succ.getD 0 0) p true
  else (if e.stream.isSome then s else set s 0).evalRelease die e (e.succ.getD 1 0) p false

/-- LOOP_EVAL (R86, R129). -/
def execLoopEval (die : Nat) (s : State) : Host.Outcome State Fault Refusal :=
  if 4 ≤ die then .fault .noUnit
  else
    match (s.evaluable die 9).find? (fun e => e.stream.isSome || !s.bodyBusy e) with
    | none => .next s
    | some e =>
      let r := e.record
      if r.kd 0 = 0 then
        .next (if s.entryOk e then s.evalLoop die e (field (r.kd 1) 0 32) e.p else s.unpoolEntry die e)
      else .next (s.evalWith die e (r.kd 0).toNat (fun s v p => s.evalLoop die e (field v 0 32) p))

/-! ### Drives (R88) -/

/-- Start the drive of a stream-step entry: its template's root and its handles are read (R87-R89). A header error of the template
names the stream-step node (log 42). -/
def State.startDrive (s : State) (die : Nat) (e : PoolEntry) : State :=
  let r := e.record
  let owner := (s.launch e.slot).owner
  match s.readHeader e.slot (r.kd 2).toNat true with
  | .absent va => s.holdNode e.slot e.node va
  | .bad => s.graphUnreadable e.slot e.node
  | .ok (.error c) => s.graphError e.slot c e.node
  | .ok (.ok hd) =>
    match s.lookDwords owner (r.kd 0).toNat (field (r.kd 1) 0 24) with
    | .absent va => s.holdNode e.slot e.node va
    | .bad => s.graphUnreadable e.slot e.node
    | .ok hs =>
      let d : Drive := { slot := e.slot, node := e.node, epoch := e.epoch, tpl := r.kd 2, tag := hd.tag, root := hd.roots.headD 0, succ := e.succ,
                         limit := field (r.kd 3) 0 32, result := r.kd 4, todo := hs, taken := [], left := 0, skipped := 0, p := e.p }
      let like : PoolEntry := { e with addr := r.kd 2, node := 0, stream := some 0 }
      { [0, 1, 2, 3].foldl (fun s die => s.closeLone die like) (s.unpoolEntry die e) with drives := s.drives ++ [d] }

/-- Change one drive. -/
def State.onDrive (s : State) (slot node : Nat) (f : Drive → Drive) : State :=
  { s with drives := s.drives.map (fun (d : Drive) => if d.slot = slot ∧ d.node = node then f d else d) }

/-- Whether a stream is under a drive. -/
def State.driven (s : State) (n : Nat) : Bool := s.drives.any (fun d => d.taken.contains n)

/-- Whether a drive skips a handle (R88, R93, R473); also one whose home is another package (DESIGN CHOICE, log 51). -/
def State.skips (s : State) (v : Drive) (h : Word) : Bool :=
  let d := s.stream (handleId h)
  !handleOk h || decide (handleHome h ≠ homeHere) || decide (d.gen ≠ handleGen h) || !(decide (d.state = .admitted) || decide (d.state = .ready))
    || s.driven (handleId h) || d.hzn || (decide (d.node ≠ 0xFFFF) && decide (d.template ≠ v.tpl))

/-- A drive takes a handle (R88): a stream that is ready under no drive leaves its old entry. The drive still takes handles while this one
becomes ready (R122, log 26). -/
def State.driveHandle (s : State) (v : Drive) (h : Word) : State :=
  let n := handleId h
  let next (s : State) : State := s.onDrive v.slot v.node (fun d => { d with todo := d.todo.drop 1 })
  if s.skips v h then (next s).onDrive v.slot v.node (fun d => { d with skipped := d.skipped + 1 })
  else
    (next (((((if (s.stream n).state = .ready then s.unpool n else s).unitStep n v.p).onStream n (fun d => { d with
        node := if d.node = 0xFFFF then v.root else d.node, template := v.tpl, state := .ready, drive := some (v.slot, v.node),
        driveSteps := 0 })).onDrive v.slot v.node (fun d => { d with taken := n :: d.taken })).streamReady n v.p s.clk none)).clockStop v.slot
      (s.unitTime n v.p)

/-- The streams of a launch that are ready and wait for their node's record or a place in the pool (R89, R116), with P and the ready
time. -/
def State.heldStreams (s : State) (slot : Nat) : List (Nat × Nat × Nat) :=
  s.streams.filterMap (fun e =>
    if decide (e.2.state = .ready) && decide (e.2.drive.map (·.1) = some slot) then e.2.heldP.map (fun p => (e.1, p, e.2.heldAt)) else none)

/-- Each stream that waits is tried again; a page that is not present is reported anew (R89, R113). -/
def State.retryHeld (s : State) (slot : Nat) : State :=
  (s.heldStreams slot).foldl (fun s h => if (s.launch slot).state = .running then s.streamReady h.1 h.2.1 h.2.2 none else s) s

/-- A drive of the launch takes its next handle, or the next stream-step node begins its drive (R88). -/
def State.driveNext (s : State) (slot : Nat) : State :=
  match s.drives.find? (fun d => decide (d.slot = slot) && decide (d.todo ≠ [])) with
  | some v => s.driveHandle v (v.todo.headD 0)
  | none =>
    match [0, 1, 2, 3].findSome? (fun die => ((s.caravan die).pool.find? (fun e => decide (e.slot = slot) && decide (e.kind = 4))).map (fun e => (die, e))) with
    | some (die, e) => s.startDrive die e
    | none => s

/-- STREAM_DRIVE (R88): the streams of the launch that waited become ready where they can; where none does, a drive of the launch goes on. A
suspended launch's entries stay as they are (R416). -/
def execStreamDrive (slot : Nat) (s : State) : Host.Outcome State Fault Refusal :=
  if Config.slotCount ≤ slot then .fault .noUnit
  else if (s.launch slot).state ≠ .running ∨ (s.launch slot).suspended then .next s
  else
    let t := s.retryHeld slot
    .next (if (t.heldStreams slot).length < (s.heldStreams slot).length then t else t.driveNext slot)

/-- Caravan's store of a drive's result, a release that carries P. The agent is a free value, and the store is placed with P
and not race-checked in precise mode (log 26). -/
def State.driveOp (s : State) (v : Drive) : EngineOp :=
  { id := 0, agent := freeAgent s.free, l := v.p + 1, h := v.p, p := v.p, epoch := v.epoch, slot := v.slot,
    owner := (s.launch v.slot).owner, cluster := v.slot % 4 * 128, racemode := 1, pc := 0, stream := 0, core := none, xfail := v.xfail,
    waiter := driveWaits }

/-- A drive is over: its node completes (R88, R114). -/
def State.endDrive (s : State) (v : Drive) : State :=
  { s with drives := s.drives.erase v }.releaseEdges v.slot v.node v.p v.succ

/-- STREAM_DRIVE_COMPLETE (R88): the result word is stored and the node completes. A result that may not be written stays
unwritten (log 26). -/
def execStreamDriveComplete (slot : Nat) (s : State) : Host.Outcome State Fault Refusal :=
  if Config.slotCount ≤ slot then .fault .noUnit
  else
    match s.drives.find? (fun d => decide (d.slot = slot) && decide (d.todo = []) && decide (d.taken = [])) with
    | none => .next s
    | some v =>
      if v.result = 0 then .next (s.endDrive v)
      else
        let w := BitVec.ofNat 64 (v.left % 2 ^ 24 + v.skipped % 2 ^ 24 * 2 ^ 24)
        match { s with free := s.free + 1 }.unitStore (s.driveOp v) v.result.toNat (dwordBytes [w]) with
        | (s1, .pending) => .next s1
        | (s1, .clock) => .next (s1.clockStop v.slot clockLimit)
        | (s1, _) => .next (s1.endDrive v)

/-! ### The end of a launch (R112) -/

/-- Whether work of a launch is left: instances, drives, edges, copies, near-memory commands, posted writes, macro-operations (R109,
R112, R410). -/
def State.workLeft (s : State) (slot : Nat) : Bool :=
  let l := s.launch slot
  let mine (o : Origin) : Bool := decide (o.slot = slot) && decide (o.epoch = l.epoch)
  let jobOf (j : CopyJob) : Bool := decide (j.slot = slot) && decide (j.epoch = l.epoch)
  (decide (l.state = .running) && decide (l.edges ≠ []))
  || [0, 1, 2, 3].any (fun d => (s.caravan d).held.any (fun e => decide (e.slot = slot)))
  || s.drives.any (fun d => decide (d.slot = slot))
  || s.cores.any (fun c => (c.2.cpq.any jobOf) || c.2.journal.any (fun e => decide (e.2.state = .pending) && mine e.2.org))
  || s.jobs.any (fun e => e.2.any jobOf) || s.moves.any (fun e => e.2.any (fun m => decide (m.launch = some (slot, l.epoch))))
  || s.near.any (fun n => match n.issuer with
    | .ctx o _ => mine o
    | .node _ _ _ => false)
  || s.matrix.any (fun m => (m.2.node.toList ++ m.2.parked.map (·.node)).any (fun n => decide (n.slot = slot))
    || (m.2.offered ++ m.2.loads ++ m.2.computes).any (fun o => decide (o.launch = some (slot, l.epoch))))

/-- The contexts of a launch, with their cores. -/
def State.launchCtxs (s : State) (slot : Nat) : List (Nat × Nat) :=
  let l := s.launch slot
  s.cores.flatMap (fun c => (ctxNumbers.filter (fun k => decide ((c.2.ctx k).launch = some (slot, l.epoch)))).map (fun k => (c.1, k)))

/-- Every queued store of a launch's contexts, those it has killed or lost among them, goes to its home (R112 step 1, as WLWAIT.sys). -/
def State.flushLaunch (s : State) (slot : Nat) : State :=
  let l := some (slot, (s.launch slot).epoch)
  s.cores.foldl (fun s c => s.flushStores c.1 (fun x => decide (x.launch = l))) s

/-- Whether a store of a launch's contexts has still to reach the array (R112 step 1, R278). -/
def State.storesLeft (s : State) (slot : Nat) : Bool :=
  let l := some (slot, (s.launch slot).epoch)
  s.array.any (fun w => !w.near && w.by_.any (fun x => decide (x.launch = l)))

/-- States as LSTAT codes them (R108). -/
def LState.code : LState → Nat
  | .idle => 0
  | .running => 1
  | .stopping => 2
  | .done => 3
  | .error => 4
  | .stopped => 5

/-- LSTAT (R108). -/
def Launch.lstat (l : Launch) : Word :=
  BitVec.ofNat 64 (l.seq % 2 ^ 24 * 2 ^ 40 + l.epoch % 256 * 2 ^ 32 + l.enode % 65536 * 2 ^ 16 + l.ecode % 256 * 2 ^ 8
    + (if l.golost then 8 else 0) + l.state.code)

/-- Steps 2 to 4 of a launch's end (R112): registers, the completion record, the vector; its domains are freed (R383), and its
cores have no stage (R19). -/
def State.endLaunch (s : State) (slot code : Nat) (st : LState) (elapsed : Nat) (comp : Word) (irqen : Bool) : State :=
  let s1 := (s.undrive slot).onLaunch slot (fun l => { l with
    ecode := code, enode := if 1 ≤ code ∧ code ≤ 7 then l.enode else 0xFFFF, state := st, lelapsed := BitVec.ofNat 64 elapsed,
    seq := (l.seq + 1) % 2 ^ 24, suspended := false })
  let l := s1.launch slot
  let s2 := if comp = 0 then s1
    else { s1 with mem := s1.mem.putBytes (hostKey comp.toNat) (dwordBytes [l.lstat, l.lelapsed]) }
  let doms := (List.range 64).filter (fun d => (s2.domainOf d).configured && decide ((s2.domainOf d).slot = slot) && decide ((s2.domainOf d).epoch = l.epoch))
  let s3 := doms.foldl (fun s d => s.freeDomain d) s2
  let rest (c : Core) : Core := if (c.ctx 0).launch = some (slot, l.epoch) then { c with stage := 0 } else c
  let s3 := { s3 with cores := s3.cores.map (fun (e : Nat × Core) => (e.1, rest e.2)) }
  if irqen then s3.send slot else s3

/-- LAUNCH_END (R112): the stores of the launch's contexts first go to their homes, and the launch ends once they are in the array.
A suspended launch ends once it is resumed (R422). -/
def execLaunchEnd (slot : Nat) (s : State) : Host.Outcome State Fault Refusal :=
  if Config.slotCount ≤ slot then .fault .noUnit
  else
    let l := s.launch slot
    let active := decide (l.state = .running) || decide (l.state = .stopping)
    if !active || l.suspended || s.workLeft slot || (s.launchCtxs slot).any (fun c => decide ((s.ctx c.1 c.2).acks ≠ 0)) then .next s
    else
      let code := if l.state = .running then 0 else l.ecode
      let st := if l.state = .running then .done else l.stopAs
      let t := s.flushLaunch slot
      .next (if t.storesLeft slot then t else t.endLaunch slot code st (s.clk - l.start) l.comp l.irqen)

end Sys2Proof.Machine
end

