-- ==== Sys2Proof/Machine/Control.lean ====
section
/-! DEFINITION. Row 2 of the opcode map: branches, calls, returns and jumps (R51, R52, R186-R201, R66). -/
namespace Sys2Proof.Machine

/-- The target of a J-format instruction (R52, R189). -/
def branchTarget (x : JFields) (pc : Word) : Word :=
  match formLit x.form with
  | some v => v
  | none => blockOf pc + x.off12.signExtend 64 <<< 6

/-- Whether a target breaks R51. -/
def targetBad (t : Word) : Bool := decide (t.toNat % 64 ≠ 0) || decide (2 ^ 56 ≤ t.toNat)

/-- A control transfer is taken: its trace record (R435). -/
def noteBranch (t : Word) : M Unit := modify (fun s => s.trace s.cur.1 s.cur.2 1 t)

/-- Transfer control (R51). -/
def goTo (t : Word) : M Unit := do
  trapIf (targetBad t) 0x021 t
  noteBranch t
  onMyCtx (fun c => { c with pc := t })

/-- Transfer control when a condition holds. -/
def goIf (b : Bool) (t : Word) : M Unit := if b then goTo t else pure ()

/-- The link record of a call at `pc` with slide n (R195). -/
def linkRecord (pc : Word) (n : Nat) : Word := BitVec.ofNat 64 ((pc.toNat % 2 ^ 56 / 64 + 1) * 64 % 2 ^ 56 + n)

/-- A call (R196): the target's check, the window stack's, the link record, the slide. -/
def callTo (t : Word) (n : Nat) (v : Env) : M Unit := do
  trapIf (targetBad t) 0x021 t
  let c ← myCtx
  trapIf (decide (Config.maxWbase < c.wbase + n)) 0x0E6 v.aval
  noteBranch t
  onMyCtx (fun c => { c with
    win := c.win.set (c.wbase + n - 1) (linkRecord v.pc n), wbase := c.wbase + n, pc := t })

/-- BR (R190). -/
def execBr (x : JFields) (s : State) : Host.Outcome State Fault Refusal :=
  issue (.br x) (fun v => goTo (branchTarget x v.pc)) s

/-- BZ (R191). -/
def execBz (x : JFields) (s : State) : Host.Outcome State Fault Refusal :=
  issue (.bz x) (fun v => do
    let a ← src x.a
    goIf (zeroCond x.fn.toNat a) (branchTarget x v.pc)) s

/-- BCMP (R192). -/
def execBcmp (x : JFields) (s : State) : Host.Outcome State Fault Refusal :=
  issue (.bcmp x) (fun v => do
    let a ← src x.a
    let c ← if v.e.f2 then pure (v.e.imm32.signExtend 64) else src v.e.c
    goIf (relHolds x.fn.toNat a c) (branchTarget x v.pc)) s

/-- CALL (R196). -/
def execCall (x : JFields) (s : State) : Host.Outcome State Fault Refusal :=
  issue (.call x) (fun v => callTo (branchTarget x v.pc) x.a.toNat v) s

/-- RET (R197). -/
def execRet (x : JFields) (s : State) : Host.Outcome State Fault Refusal :=
  issue (.ret x) (fun v => do
    let c ← myCtx
    trapIf (decide (c.wbase = 0)) 0x0E6 v.aval
    let k := c.win.get 0 (c.wbase - 1)
    let n := k.toNat % 32
    trapIf (decide (n = 0) || decide (c.wbase < n) || decide (2 ^ 56 ≤ k.toNat) || k.getLsbD 5) 0x0E6 v.aval
    noteBranch (BitVec.ofNat 64 (k.toNat / 64 * 64))
    onMyCtx (fun c => { c with wbase := c.wbase - n, pc := BitVec.ofNat 64 (k.toNat / 64 * 64) })) s

/-- JR (R199). -/
def execJr (x : RFields) (s : State) : Host.Outcome State Fault Refusal :=
  issue (.jr x) (fun _ => do
    let a ← src x.a
    goTo a) s

/-- CALLR (R196). -/
def execCallr (x : RFields) (s : State) : Host.Outcome State Fault Refusal :=
  issue (.callr x) (fun v => do
    let a ← src x.a
    callTo a x.d.toNat v) s

/-- LOOP (R193). -/
def execLoop (x : JFields) (s : State) : Host.Outcome State Fault Refusal :=
  issue (.loop x) (fun v => do
    let a ← src x.a
    let n := if a = 0 then 0 else a - 1
    dst x.a n
    goIf (n ≠ 0) (branchTarget x v.pc)) s

/-- BQ (R194). -/
def execBq (x : JFields) (s : State) : Host.Outcome State Fault Refusal :=
  issue (.bq x) (fun v => do
    let a ← src x.a
    goIf (if x.fn = 0 then a ≠ 0 else a = 0) (branchTarget x v.pc)) s

/-- JTAB (R200). -/
def execJtab (x : RFields) (s : State) : Host.Outcome State Fault Refusal :=
  issue (.jtab x) (fun _ => do
    let la ← src x.a
    let b ← src x.b
    checkLocal la
    trapIf (decide (winOf la ≠ 0)) 0x043 la
    trapIf (decide (la.toNat % 8 ≠ 0)) 0x045 la
    let h ← localDword la
    let n := h.toNat % 2 ^ 32
    let j := if b.toNat < n then b.toNat else n
    let e := la.toNat + 8 + 8 * j
    trapIf (decide (65536 < e + 8)) 0x041 (BitVec.ofNat 64 e)
    let t ← localDword (BitVec.ofNat 64 e)
    goTo t) s

/-- NOP (R66). -/
def execNop (x : RFields) (s : State) : Host.Outcome State Fault Refusal :=
  issue (.nop x) (fun _ => pure ()) s

end Sys2Proof.Machine
end

