-- ==== Sys2Proof/Machine/ContextEvents.lean ====
section
/-! DEFINITION. What contexts do outside their instructions: timeouts (R132, R156), deadlocks of queue pairs (R150), the
register cache (R144), fetch blocks (R182), and pre-emption (R226, R410, R411, R416-R422). -/
namespace Sys2Proof.Machine


/-! ### Timeouts -/

/-- NWAIT's timeout (R132): the pair reads 0. -/
def State.nwaitExpire (s : State) (g : Nat) (w : NodeWait) : State := s.onCtx g 0 (fun c => c.nwaitEnds w 0 0)

/-- NWAIT_TIMEOUT (R132). -/
def execNwaitTimeout (core : Nat) (s : State) : Host.Outcome State Fault Refusal :=
  if !hasContext core 0 then .fault .noUnit
  else
    let c := s.ctx core 0
    match c.nwait with
    | none => .next s
    | some w =>
      match w.limit with
      | none => .next s
      | some t => if t ≤ s.clk ∧ c.arrived = none ∧ c.live ∧ c.resident ∧ c.waitFrom.isSome then .next (s.nwaitExpire core w) else .next s

/-- YIELD_EXPIRE (R156). -/
def execYieldExpire (core ctx : Nat) (s : State) : Host.Outcome State Fault Refusal :=
  if !hasContext core ctx then .fault .noUnit
  else
    match (s.ctx core ctx).yieldEnd with
    | some t => .next (if t ≤ s.clk then s.onCtx core ctx (fun c => { c with yieldEnd := none }) else s)
    | none => .next s

/-! ### Queue deadlocks (R150) -/

/-- The queue for which a live, resident context waits at its PC, and the clk since when. -/
def Core.queueBlocked (c : Core) (k : Nat) : Option (BitVec 6 × Nat) :=
  let x := c.ctx k
  if !x.live || !x.resident then none
  else
    match x.atPc, x.qFrom with
    | some i, some t =>
      match queueVerdict c x i with
      | .blocked q => some (q, t)
      | _ => none
    | _, _ => none

/-- The pair of a set with what each of its contexts waits for, and the clk since when both do. -/
def Core.blockedPair (c : Core) (q : Nat) : Option ((Nat × BitVec 6) × (Nat × BitVec 6) × Nat) :=
  match c.boundHere q .a, c.boundHere q .x with
  | some j, some k =>
    match c.queueBlocked j, c.queueBlocked k with
    | some (u, t), some (v, w) => some ((j, u), (k, v), max t w)
    | _, _ => none
  | _, _ => none

/-- CPL.DEADLOCK of one context (R150, R409). -/
def State.deadlock (s : State) (g k : Nat) (q : BitVec 6) : State :=
  let c := s.ctx g k
  match c.atPc with
  | some i =>
    let v := envOf s g k i
    s.takeTrap g k 0x0E1 false false c.pc (q.setWidth 64) (BitVec.ofNat 64 (v.word0.toNat + v.word1.toNat * 2 ^ 32)) []
  | none => s

/-- Both contexts of a pair trap in the same clk (R150), that on front end A first (DESIGN CHOICE, log 51). Where the first trap discards the second's context, a trap of that which has no
handler is still counted (R415). -/
def State.deadlockPair (s : State) (g j k : Nat) (u v : BitVec 6) : State :=
  let s1 := s.deadlock g j u
  let c := s.ctx g k
  if (s1.ctx g k).live || !c.routes 0x0E1 then s1.deadlock g k v
  else s1.utrap ((c.launch.map (·.1)).getD 0) 0x0E1 false (s.place g k) c.pc (v.setWidth 64)

/-- QUEUE_DEADLOCK (R150): both contexts of the pair trap in the same clk. -/
def execQueueDeadlock (core qset : Nat) (s : State) : Host.Outcome State Fault Refusal :=
  if !hasContext core 0 || decide (6 ≤ qset) then .fault .noUnit
  else
    match (s.core core).blockedPair qset with
    | none => .next s
    | some ((j, u), (k, v), t) => .next (if t + 4096 ≤ s.clk then s.deadlockPair core j k u v else s)

/-! ### The register cache (R142-R145) -/

/-- REGCACHE_REFILL (R144, R407): an image in error routes SYS.IMAGE; a context that is not resident gets no line (R145). -/
def execRegcacheRefill (core ctx line : Nat) (s : State) : Host.Outcome State Fault Refusal :=
  if !hasContext core ctx || decide (512 ≤ line) then .fault .noUnit
  else
    let c := s.ctx core ctx
    if !c.resident || !c.live then .next s
    else if c.poisoned && !(s.core core).rcache.contains ((s.core core).cacheKey ctx, line) then .next (s.imageTrap core ctx)
    else .next (s.onCore core (fun c => c.cacheLine (c.cacheKey ctx, line)))

/-! ### Fetch blocks (R182) -/

/-- The instructions of a block in sequence, each with its address: from an offset on, as far as their LEN fields lead (R49, R50). -/
def FetchBlock.instrs (b : FetchBlock) (fuel off : Nat) : List (Word × Instr) :=
  match fuel with
  | 0 => []
  | n + 1 =>
    match lanesOf (b.bytes.drop off) with
    | [] => []
    | w :: _ =>
      let rest := b.instrs n (off + 4 * wordCount (w.extractLsb' 0 2))
      match decode (b.bytes.drop off) with
      | .ok (i, _) => (b.va + BitVec.ofNat 64 off, i) :: rest
      | .error _ => rest

/-- The block that the fetch unit fetches early for an instruction: the target of a branch with HINT 1 (R187), or the one that the value at
the head of bq chooses for a BQ (R194). -/
def earlyBlock (bq : List Word) (p : Word × Instr) : Option Word :=
  let hinted := (extOf p.2).hint = 1
  match p.2 with
  | .bq x =>
    match bq with
    | v :: _ => some (blockOf (if decide (v ≠ 0) = decide (x.fn = 0) then branchTarget x p.1 else p.1 + BitVec.ofNat 64 (instrBytes p.2)))
    | [] => if hinted then some (branchTarget x p.1) else none
  | .br x | .bz x | .bcmp x | .call x | .loop x => if hinted then some (branchTarget x p.1) else none
  | _ => none

/-- Whether the fetch unit has requested a block that control has not reached (R182): the one after a block from which the
context has issued, or one that an instruction of a held block has it fetch early. -/
def Ctx.requested (c : Ctx) (bq : List Word) (va : Word) : Bool :=
  c.fbuf.any (fun b => (b.issued && decide (b.va + 64 = va)) || (b.instrs 16 0).any (fun p => decide (earlyBlock bq p = some va)))

/-- The values in bq for a context (R58). -/
def State.bqOf (s : State) (g k : Nat) : List Word := (s.core g).queue (s.ctx g k).qset (queueIndex 55)

/-- FETCH_BLOCK_FILL (R182): a block that is requested and that control has not reached, dropped where it cannot be read. It takes the
place of the block issued from least recently. -/
def execFetchBlockFill (core ctx : Nat) (block : BitVec 64) (s : State) : Host.Outcome State Fault Refusal :=
  if !hasContext core ctx then .fault .noUnit
  else
    let c := s.ctx core ctx
    let va := blockOf block
    if !c.live || !c.resident || c.fbuf.any (fun b => b.va = va) || !c.requested (s.bqOf core ctx) va then .next s
    else
      match s.fetchBlock core ctx va with
      | .bytes bs s1 => .next (s1.onCtx core ctx (fun x => { x with fbuf := c.fbuf.take 3 ++ [{ va := va, bytes := bs }] }))
      | _ => .next s

/-! ### Pre-emption (R416-R420) -/

/-- Whether a context runs for a launch, or has been given a node of it. -/
def Ctx.serves (c : Ctx) (l : Nat × Nat) : Bool :=
  decide (c.launch = some l) || (match c.arrived with
    | some n => decide ((n.ticket.slot, n.ticket.epoch) = l)
    | none => false)

/-- Whether a context runs for a suspended launch, or has been given a node of one. -/
def State.mustPark (s : State) (g k : Nat) : Bool :=
  let c := s.ctx g k
  s.launches.any (fun e => e.2.suspended && c.serves (e.1, e.2.epoch))

/-- Whether a core's domain is in exchange (R417). -/
def State.exchanging (s : State) (g : Nat) : Bool :=
  match (s.core g).domain with
  | some d => (s.domainOf d).exchanging
  | none => false

/-- Whether a context's access is held for the host (R113). -/
def State.accessHeld (s : State) (g k : Nat) : Bool := s.held.any (fun h => h.waiters.contains (ctxAgent g k))

/-- The other context of a context's queue pair (R146). -/
def Core.partner (c : Core) (k : Nat) : Option Nat := c.boundHere (c.ctx k).qset (if (c.ctx k).fe = .a then .x else .a)

/-- The clk for which a pair's contexts have both waited for queues, as one of them parks (R150), and the clk since when its partner has;
the count that a partner took with it when it parked is kept, unless this context has issued since. -/
def Core.queueWaited (c : Core) (k clk : Nat) : Nat × Option Nat :=
  match c.blockedPair (c.ctx k).qset, c.partner k with
  | some (_, _, t), some j => (clk - t, (c.ctx j).qFrom)
  | _, some j => (if (c.ctx j).parked ∧ (c.ctx j).pairFrom = (c.ctx k).qFrom then ((c.ctx j).qFrom).getD 0 else 0, none)
  | _, none => (0, none)

/-- A context becomes non-resident (R411, R418): it stops, its held access is cancelled, its YIELD's time is dropped. -/
def State.park (s : State) (g k : Nat) : State :=
  let s := (s.unpop g k).unadmit g k
  let waited := (s.core g).queueWaited k s.clk
  let hold (w : NodeWait) : NodeWait := { w with limit := w.limit.map (fun t => t - s.clk) }
  ({ s with held := s.held.map (fun (h : HeldFault) => { h with waiters := h.waiters.filter (· ≠ ctxAgent g k) }) }).onCtx g k (fun c =>
    { c with
      resident := false, parked := true, saved := false, savedGrant := c.grant, waitFrom := none, mid := false, yieldEnd := none,
      xfail := none, nwait := c.nwait.map hold, qFrom := if c.qFrom.isSome then some waited.1 else none,
      pairFrom := waited.2 })

/-- A context at its pre-emption point (R411, R417): at a boundary, or with an access held; no trap is to be delivered first, and
its domain is not in exchange. -/
def State.takePreempt (s : State) (g k : Nat) : Option State :=
  let c := s.ctx g k
  if c.live && c.resident && s.mustPark g k && !s.exchanging g && (!c.mid || s.accessHeld g k) && (c.pend.isEmpty || c.intrap) then
    some (s.park g k)
  else none

/-- Whether an NMFENCE that waited completes before the trap of its command's stop is delivered, the two having come about together: both
orders are allowed (R455), and a free value decides (log 51). -/
def State.fenceFirst (s : State) (g k : Nat) : Bool :=
  let c := s.ctx g k
  match c.pend, c.atPc with
  | [.nmue _ v], some (.nmfence _) =>
    c.waitFrom.isSome && !c.unissued && !c.mid && !c.intrap && c.nmOpen.isEmpty && decide (v.toNat / 2 ^ 32 = c.nmDone)
      && (Config.freeValue s.free).getLsbD 0
  | _, _ => false

/-- PREEMPT_POINT (R417, R418). -/
def execPreemptPoint (core ctx : Nat) (s : State) : Host.Outcome State Fault Refusal :=
  if !hasContext core ctx then .fault .noUnit else .next ((s.takePreempt core ctx).getD s)

/-- ASYNC_TRAP_DELIVERY (R411). -/
def execAsyncTrapDelivery (core ctx : Nat) (s : State) : Host.Outcome State Fault Refusal :=
  if !hasContext core ctx then .fault .noUnit
  else if (s.ctx core ctx).live && (s.ctx core ctx).resident then .next ((s.deliverAsync core ctx).getD s)
  else .next s

/-- Whether nothing that a parked context started remains in flight (R419). -/
def State.quiet (s : State) (g k : Nat) : Bool :=
  let c := s.core g
  !(c.wlq.any (fun e => e.stores.any (fun x => x.ctx = k))) && decide ((c.ctx k).acks = 0)
    && !(c.journal.any (fun e => decide (e.2.state = .pending) && decide (e.2.org.ctx = k)))

/-- The control context of a shelf that has held no node (R420, R520); the context keeps its agent's clocks (log 27). -/
def freshShelf (c : Core) : Table Ctx :=
  ctxNumbers.foldl (fun t k => t.set k { Ctx.initial k with l := (c.ctx k).l, h := (c.ctx k).h }) []

/-- A core whose contexts are all saved is released to others where its launch was suspended with SHARE, its other shelf is
empty and it belongs to no domain (R420); else it is kept, and one released earlier stays so. -/
def Core.release (c : Core) (slot : Nat) (share : Bool) : Core :=
  let all := ctxNumbers.all (fun k => !(c.ctx k).live || (c.ctx k).saved)
  if all && share && c.other.isEmpty && c.domain.isNone && !c.shared then
    { c with other := c.ctxs, ctxs := freshShelf c, otherStage := c.stage, stage := 0, shelf := 1 - c.shelf, shared := true, parkedBy := some slot }
  else if c.shared then c
  else { c with parkedBy := some slot }

/-- The suspended launch that a parked context serves. -/
def State.parker (s : State) (c : Ctx) : Option (Nat × Bool) :=
  (s.launches.find? (fun e => e.2.suspended && c.serves (e.1, e.2.epoch))).map (fun e => (e.1, e.2.share))

/-- Save a parked context: its lanes return to the pool (R226, R419). -/
def State.saveCtx (s : State) (g k : Nat) : State :=
  let c := s.core g
  let s1 := s.onCtx g k (fun x => { x with
    saved := true, grant := 0, coreRegs := if k = 0 then some (c.wl, c.xslot) else none })
  match s.parker (s.ctx g k) with
  | some (slot, share) => s1.onCore g (fun c => c.release slot share)
  | none => s1

/-- CONTEXT_SAVED (R419, R420). -/
def execContextSaved (core ctx : Nat) (s : State) : Host.Outcome State Fault Refusal :=
  if !hasContext core ctx then .fault .noUnit
  else
    let c := s.ctx core ctx
    .next (if c.parked && !c.saved && s.quiet core ctx then s.saveCtx core ctx else s)

/-- Whether a launch is saved (R419): PRESAVED. -/
def State.launchSaved (s : State) (slot : Nat) : Bool :=
  let l := s.launch slot
  let ok (c : Ctx) : Bool := !c.live || !c.serves (slot, l.epoch) || c.saved
  l.suspended
    && s.cores.all (fun c => ctxNumbers.all (fun k => ok (c.2.ctx k)) && c.2.other.all (fun e => ok e.2))
    && s.matrix.all (fun m => match m.2.node with
      | some n => !(decide (n.slot = slot) && decide (n.epoch = l.epoch))
      | none => true)
    && [0, 1, 2, 3].all (fun d => !((s.caravan d).insts.any (fun i => decide (i.entry.slot = slot) && (decide (i.entry.kind = 5) || decide (i.entry.kind = 6)))))

/-- PRECTL_SUSPEND (R416). -/
def execPrectlSuspend (slot : Nat) (share : Bool) (s : State) : Host.Outcome State Fault Refusal :=
  if Config.slotCount ≤ slot then .fault .noUnit
  else
    let st := (s.launch slot).state
    .next (if st = .running ∨ st = .stopping then s.onLaunch slot (fun l => { l with suspended := true, share := share }) else s)

/-! ### Resumption (R421, R422) -/

/-- A context's lanes at resumption (R226). -/
def Ctx.relane (c : Ctx) (g : Nat) : Ctx :=
  { ({ c with grant := c.savedGrant }).regrant g with shrunk := c.shrunk || decide (g < c.savedGrant) }

/-- The clk for which the pair of a context that resumes has waited for queues (R150): none where its partner has issued meanwhile. -/
def Core.waitedBefore (c : Core) (k : Nat) : Nat :=
  let n := ((c.ctx k).qFrom).getD 0
  match c.partner k with
  | some j =>
    if (c.ctx j).parked then min n (((c.ctx j).qFrom).getD 0)
    else if (c.ctx j).qFrom = (c.ctx k).pairFrom then n
    else 0
  | none => 0

/-- The partner of a context that resumes, itself still parked, keeps the pair's count and knows since when the other waits (R150). -/
def Core.keepCount (c : Core) (k clk : Nat) : Core :=
  let n := c.waitedBefore k
  match c.partner k with
  | some j =>
    let x := c.ctx j
    if x.parked ∧ x.qFrom.isSome then { c with ctxs := c.ctxs.set j { x with qFrom := some n, pairFrom := some (clk - n) } } else c
  | none => c

/-- A context resumes (R421): lanes, its own L acquired, the fetch buffer empty, its waits counted on. -/
def Ctx.resumed (c : Ctx) (g waited clk : Nat) : Ctx :=
  let back (w : NodeWait) : NodeWait := { w with limit := w.limit.map (fun t => t + clk) }
  { ((if c.saved then c.relane g else c).acquire c.l) with
    resident := true, residentAt := clk, parked := false, saved := false, fbuf := [], coreRegs := none, nwait := c.nwait.map back,
    qFrom := c.qFrom.map (fun _ => clk - waited), pairFrom := none }

/-- The registers of the core that its control context's image holds (R421). -/
def Core.restore (c : Core) (x : Ctx) (clk : Nat) : Core :=
  match x.coreRegs with
  | some (w, t) => { c with wl := { w with win := clk / 2 ^ w.log, waiters := [], seen := clk }, xslot := t }
  | none => c

/-- Resume a parked context of a core; a grant that changed is traced (R435). -/
def State.resumeCtx (s : State) (g k : Nat) : State :=
  let c := s.ctx g k
  if !c.parked then s
  else
    let lanes := min c.savedGrant (s.freeLanes g)
    let waited := (s.core g).waitedBefore k
    let s1 := (s.onCore g (fun x => { (x.keepCount k s.clk).restore c s.clk with parkedBy := if x.shared then x.parkedBy else none })).onCtx g k (fun c => c.resumed lanes waited s.clk)
    if c.saved ∧ lanes < c.savedGrant then s1.traceMask g k 0 else s1

/-- The newcomer's control context holds no open ticket: the parked contexts' shelf comes back (R421). DESIGN CHOICE (log 51): the trace unit
is then as at the delivery of another launch's node (R437), so that no record is read under another owner. -/
def State.unshelve (s : State) (g : Nat) : State :=
  let c := s.core g
  let x := c.ctx 0
  if c.shared ∧ x.ticket = none ∧ x.arrived = none then
    let owner := (((c.other.get (Ctx.initial 0) 0).launch).map (fun l => (s.launch l.1).owner)).getD 0
    (ctxNumbers.foldl (fun s k => s.releaseTiles g k) s).onCore g (fun c => { c with
      ctxs := c.other, other := [], stage := c.otherStage, otherStage := 0, shelf := 1 - c.shelf, shared := false, parkedBy := none,
      trace := c.trace.newLaunch owner })
  else s

/-- CONTEXT_RESUME (R421). -/
def execContextResume (core ctx : Nat) (s : State) : Host.Outcome State Fault Refusal :=
  if !hasContext core ctx then .fault .noUnit
  else
    let s1 := if s.awaited core then s.unshelve core else s
    .next (if (s1.core core).shared || s1.mustPark core ctx then s1 else s1.resumeCtx core ctx)

/-- Cores that hold contexts of a launch on the shelf in use. -/
def State.coresServing (s : State) (l : Nat × Nat) : List Nat :=
  (s.cores.filter (fun c => ctxNumbers.any (fun k => (c.2.ctx k).serves l))).map (·.1)

/-- PRECTL_RESUME (R416, R421): contexts on reserved cores resume at once; a saved sequencer goes on at its next event (R266). -/
def execPrectlResume (slot : Nat) (s : State) : Host.Outcome State Fault Refusal :=
  if Config.slotCount ≤ slot then .fault .noUnit
  else if !(s.launch slot).suspended then .next s
  else
    let l := (slot, (s.launch slot).epoch)
    let s1 := s.onLaunch slot (fun l => { l with suspended := false, share := false })
    let go (s : State) (g : Nat) : State := ctxNumbers.foldl (fun s k => if (s.ctx g k).serves l && !s.mustPark g k then s.resumeCtx g k else s) s
    .next ((s1.coresServing l).foldl go s1)

/-- Discard the contexts of a launch that stand parked on the other shelf (R422). -/
def State.discardShelf (s : State) (l : Nat × Nat) (g : Nat) : State :=
  if (s.core g).other.any (fun e => e.2.serves l) then
    let s1 := ctxNumbers.foldl (fun s k => s.releaseTilesOn g k (1 - (s.core g).shelf)) s
    (s1.onCore g (fun c => { c with other := [], shared := false, parkedBy := none })).dropRank g l.1
  else s

end Sys2Proof.Machine
end

