-- ==== Sys2Proof/Machine/Scalar.lean ====
section
/-! DEFINITION. Rows 0 and 1 of the opcode map (R204-R221): one result function for each operation, and the meanings. -/
namespace Sys2Proof.Machine

/-! ### Results -/

/-- ADD (R207). -/
def addResult (ty : Nat) (a b : Word) : Word := putOf ty (valOf ty a + valOf ty b)
/-- SUB (R207). -/
def subResult (ty : Nat) (a b : Word) : Word := putOf ty (valOf ty a - valOf ty b)
/-- MUL (R207). -/
def mulResult (ty : Nat) (a b : Word) : Word := putOf ty (valOf ty a * valOf ty b)
/-- MULH (R207): floor division by 2^w. -/
def mulhResult (ty : Nat) (a b : Word) : Word := putOf ty (valOf ty a * valOf ty b / 2 ^ tyBits ty)

/-- Quotient and remainder (R208). -/
def divRem (ty : Nat) (x y : Int) : Int × Int :=
  if y = 0 then (2 ^ tyBits ty - 1, x)
  else if tySigned ty ∧ x = -(2 ^ (tyBits ty - 1)) ∧ y = -1 then (-(2 ^ (tyBits ty - 1)), 0)
  else (x.tdiv y, x - x.tdiv y * y)

/-- DIV (R208). -/
def divResult (ty : Nat) (a b : Word) : Word := putOf ty (divRem ty (valOf ty a) (valOf ty b)).1
/-- REM (R208). -/
def remResult (ty : Nat) (a b : Word) : Word := putOf ty (divRem ty (valOf ty a) (valOf ty b)).2
/-- AND (R207). -/
def andResult (ty : Nat) (a b : Word) : Word := putOf ty (a &&& b).toNat
/-- OR (R207). -/
def orResult (ty : Nat) (a b : Word) : Word := putOf ty (a ||| b).toNat
/-- XOR (R207). -/
def xorResult (ty : Nat) (a b : Word) : Word := putOf ty (a ^^^ b).toNat
/-- ANDN (R207). -/
def andnResult (ty : Nat) (a b : Word) : Word := putOf ty (a &&& ~~~b).toNat

/-- SHL (R209). -/
def shlResult (ty : Nat) (a n : Word) : Word :=
  if tyBits ty ≤ n.toNat then 0 else putOf ty ((uval (tyBits ty) a * 2 ^ n.toNat : Nat) : Int)

/-- SHR, logical or arithmetic (R209). -/
def shrResult (ty : Nat) (arith : Bool) (a n : Word) : Word :=
  let w := tyBits ty
  if arith then
    if w ≤ n.toNat then putOf ty (if sval w a < 0 then -1 else 0) else putOf ty (sval w a / 2 ^ n.toNat)
  else if w ≤ n.toNat then 0
  else putOf ty ((uval w a / 2 ^ n.toNat : Nat) : Int)

/-- ROT, right or left (R209). -/
def rotResult (ty : Nat) (left : Bool) (a n : Word) : Word :=
  let w := tyBits ty
  let k0 := n.toNat % w
  let k := if left then k0 else (w - k0) % w
  let u := uval w a
  putOf ty ((u * 2 ^ k % 2 ^ w + u / 2 ^ (w - k) : Nat) : Int)

/-- MIN and MAX (R207). -/
def minResult (ty : Nat) (a b : Word) : Word := putOf ty (min (valOf ty a) (valOf ty b))
/-- MAX (R207). -/
def maxResult (ty : Nat) (a b : Word) : Word := putOf ty (max (valOf ty a) (valOf ty b))

/-- Number of set bits. -/
def popCount : Nat → Nat → Nat
  | 0, _ => 0
  | n + 1, v => v % 2 + popCount n (v / 2)

/-- Number of zero bits below the lowest set bit, `w` when none is set. -/
def lowZeros : Nat → Nat → Nat
  | 0, _ => 0
  | n + 1, v => if v % 2 = 1 then 0 else lowZeros n (v / 2) + 1

/-- BCNT (R216). -/
def bcntResult (fn w : Nat) (a : Word) : Nat :=
  let u := uval w a
  match fn with
  | 0 => popCount w u
  | 1 => if u = 0 then w else w - 1 - Nat.log2 u
  | 2 => lowZeros w u
  | _ =>
    let top := u / 2 ^ (w - 1) = 1
    let x := if top then 2 ^ w - 1 - u else u
    if x = 0 then w - 1 else w - 2 - Nat.log2 x

/-- BFX (R217). -/
def bfxResult (signed : Bool) (a b : Word) : Word :=
  let pos := b.toNat % 64
  let len := b.toNat / 256 % 64 + 1
  let f := a.toNat / 2 ^ pos % 2 ^ len
  if signed then BitVec.ofInt 64 (intOf true len f) else BitVec.ofNat 64 f

/-- BFI (R217). -/
def bfiResult (d a b : Word) : Word :=
  let pos := b.toNat % 64
  let len := b.toNat / 256 % 64 + 1
  let m : Word := BitVec.ofNat 64 ((2 ^ len - 1) * 2 ^ pos)
  (d &&& ~~~m) ||| (a <<< pos &&& m)

/-- ADDR (R218). -/
def addrResult (fn : Nat) (imm32 : Lane) (a b : Word) : Word := a + b <<< fn + imm32.signExtend 64

/-- ADDS (R219). -/
def addsResult (ty : Nat) (sub : Bool) (a b : Word) : Word :=
  let v := if sub then valOf ty a - valOf ty b else valOf ty a + valOf ty b
  putOf ty (intSat (tySigned ty) (tyBits ty) v)

/-- MAD (R220). -/
def madResult (ty : Nat) (a b c : Word) : Word := putOf ty (valOf ty a * valOf ty b + valOf ty c)

/-- SEL's condition (R215). -/
def selCond (fn : Nat) (c : Word) : Bool :=
  match fn with
  | 0 => c ≠ 0
  | 1 => c = 0
  | _ => c.getLsbD 63

/-- The f32 in bits 31-0 of a register. -/
def f32Of (x : Word) : FVal := fmtF32.value (x.toNat % 2 ^ 32)

/-- Whether a FOP takes a draw under sr (R221, R29). -/
def fopRounds (fn ty : Nat) : Bool :=
  match fn with
  | 4 | 5 | 10 => false
  | 8 => !cvtExact 8 ty
  | 9 => !cvtExact ty 8
  | _ => true

/-- FOP (R221). -/
def fopResult (fn ty : Nat) (rm : RMode) (d24 : Nat) (a b c : Word) : Word :=
  let out (v : FVal) : Word := BitVec.ofNat 64 (fmtF32.ofVal rm d24 false v)
  match fn with
  | 0 => out ((f32Of a).add rm (f32Of b))
  | 1 => out ((f32Of a).add rm (f32Of b).neg)
  | 2 => out ((f32Of a).mul (f32Of b))
  | 3 => BitVec.ofNat 64 (fmtF32.divide rm d24 false (f32Of a) (f32Of b))
  | 4 => out ((f32Of a).minMax false (f32Of b))
  | 5 => out ((f32Of a).minMax true (f32Of b))
  | 6 => BitVec.ofNat 64 (fmtF32.squareRoot rm d24 (f32Of a))
  | 7 => out (((f32Of a).mul (f32Of b)).add rm (f32Of c))
  | 8 =>
    let code := convert 8 ty rm d24 false (a.toNat % 2 ^ 32)
    if tyFloat ty then BitVec.ofNat 64 code else putOf ty code
  | 9 => BitVec.ofNat 64 (convert ty 8 rm d24 false (a.toNat % 2 ^ tyBits ty))
  | _ => fcmpWord (f32Of a) (f32Of b)

/-! ### Shared bodies -/

/-- Two sources, one destination (R206). -/
def binary (x : RFields) (f : Nat → Word → Word → Word) (v : Env) : M Unit := do
  let a ← src x.a
  let b ← srcB x
  dst x.d (f v.e.ty.toNat a b)

/-- A source and the immediate (R211). -/
def binaryImm (x : IFields) (f : Nat → Word → Word → Word) (v : Env) : M Unit := do
  let a ← src x.a
  dst x.d (f v.e.ty.toNat a x.imm)

/-! ### Meanings -/

/-- ADD (R207). -/
def execAdd (x : RFields) (s : State) : Host.Outcome State Fault Refusal := issue (.add x) (binary x addResult) s
/-- SUB (R207). -/
def execSub (x : RFields) (s : State) : Host.Outcome State Fault Refusal := issue (.sub x) (binary x subResult) s
/-- MUL (R207). -/
def execMul (x : RFields) (s : State) : Host.Outcome State Fault Refusal := issue (.mul x) (binary x mulResult) s
/-- MULH (R207). -/
def execMulh (x : RFields) (s : State) : Host.Outcome State Fault Refusal := issue (.mulh x) (binary x mulhResult) s
/-- DIV (R208). -/
def execDiv (x : RFields) (s : State) : Host.Outcome State Fault Refusal := issue (.div x) (binary x divResult) s
/-- REM (R208). -/
def execRem (x : RFields) (s : State) : Host.Outcome State Fault Refusal := issue (.rem x) (binary x remResult) s
/-- AND (R207). -/
def execAnd (x : RFields) (s : State) : Host.Outcome State Fault Refusal := issue (.and x) (binary x andResult) s
/-- OR (R207). -/
def execOr (x : RFields) (s : State) : Host.Outcome State Fault Refusal := issue (.or x) (binary x orResult) s
/-- XOR (R207). -/
def execXor (x : RFields) (s : State) : Host.Outcome State Fault Refusal := issue (.xor x) (binary x xorResult) s
/-- ANDN (R207). -/
def execAndn (x : RFields) (s : State) : Host.Outcome State Fault Refusal := issue (.andn x) (binary x andnResult) s
/-- SHL (R209). -/
def execShl (x : RFields) (s : State) : Host.Outcome State Fault Refusal := issue (.shl x) (binary x shlResult) s
/-- SHR (R209): FN 1 is arithmetic. -/
def execShr (x : RFields) (s : State) : Host.Outcome State Fault Refusal :=
  issue (.shr x) (binary x (fun ty => shrResult ty (x.fn = 1))) s
/-- ROT (R209): FN 1 rotates left. -/
def execRot (x : RFields) (s : State) : Host.Outcome State Fault Refusal :=
  issue (.rot x) (binary x (fun ty => rotResult ty (x.fn = 1))) s
/-- MIN (R207). -/
def execMin (x : RFields) (s : State) : Host.Outcome State Fault Refusal := issue (.min x) (binary x minResult) s
/-- MAX (R207). -/
def execMax (x : RFields) (s : State) : Host.Outcome State Fault Refusal := issue (.max x) (binary x maxResult) s
/-- CMP (R210). -/
def execCmp (x : RFields) (s : State) : Host.Outcome State Fault Refusal :=
  issue (.cmp x) (binary x (fun ty => cmpResult x.fn.toNat (tyBits ty))) s
/-- ADDI (R211). -/
def execAddi (x : IFields) (s : State) : Host.Outcome State Fault Refusal := issue (.addi x) (binaryImm x addResult) s
/-- ANDI (R211). -/
def execAndi (x : IFields) (s : State) : Host.Outcome State Fault Refusal := issue (.andi x) (binaryImm x andResult) s
/-- ORI (R211). -/
def execOri (x : IFields) (s : State) : Host.Outcome State Fault Refusal := issue (.ori x) (binaryImm x orResult) s
/-- XORI (R211). -/
def execXori (x : IFields) (s : State) : Host.Outcome State Fault Refusal := issue (.xori x) (binaryImm x xorResult) s
/-- SHLI (R212): bits 5-0 of the immediate count. -/
def execShli (x : IFields) (s : State) : Host.Outcome State Fault Refusal :=
  issue (.shli x) (binaryImm x (fun ty a n => shlResult ty a (n &&& 63))) s
/-- SHRI (R212): bit 6 of the immediate selects the arithmetic shift. -/
def execShri (x : IFields) (s : State) : Host.Outcome State Fault Refusal :=
  issue (.shri x) (binaryImm x (fun ty a n => shrResult ty (n.getLsbD 6) a (n &&& 63))) s
/-- CMPI (R213). -/
def execCmpi (x : IFields) (s : State) : Host.Outcome State Fault Refusal :=
  issue (.cmpi x) (binaryImm x (fun ty => flagWord (tyBits ty))) s
/-- LIT (R214). -/
def execLit (x : IFields) (s : State) : Host.Outcome State Fault Refusal := issue (.lit x) (fun _ => dst x.d x.imm) s

/-- SEL (R215): both sources are read, and the destination is the condition. -/
def execSel (x : RFields) (s : State) : Host.Outcome State Fault Refusal :=
  issue (.sel x) (fun _ => do
    let c ← src x.d
    let a ← src x.a
    let b ← srcB x
    dst x.d (if selCond x.fn.toNat c then a else b)) s

/-- BCNT (R216). -/
def execBcnt (x : RFields) (s : State) : Host.Outcome State Fault Refusal :=
  issue (.bcnt x) (fun v => do
    let a ← src x.a
    dst x.d (BitVec.ofNat 64 (bcntResult x.fn.toNat (tyBits v.e.ty.toNat) a))) s

/-- BFX (R217). -/
def execBfx (x : RFields) (s : State) : Host.Outcome State Fault Refusal :=
  issue (.bfx x) (binary x (fun _ => bfxResult (x.fn = 1))) s

/-- BFI (R217). -/
def execBfi (x : RFields) (s : State) : Host.Outcome State Fault Refusal :=
  issue (.bfi x) (fun _ => do
    let d ← src x.d
    let a ← src x.a
    let b ← srcB x
    dst x.d (bfiResult d a b)) s

/-- ADDR (R218). -/
def execAddr (x : RFields) (s : State) : Host.Outcome State Fault Refusal :=
  issue (.addr x) (fun v => binary x (fun _ => addrResult x.fn.toNat v.e.imm32) v) s

/-- ADDS (R219). -/
def execAdds (x : RFields) (s : State) : Host.Outcome State Fault Refusal :=
  issue (.adds x) (binary x (fun ty => addsResult ty (x.fn = 1))) s

/-- FOP (R221). -/
def execFop (x : RFields) (s : State) : Host.Outcome State Fault Refusal :=
  issue (.fop x) (fun v => do
    let ty := v.e.ty.toNat
    let fn := x.fn.toNat
    let draw ← if fopRounds fn ty then drawsFor v.e.rm 1 v.aval else pure (fun _ => 0)
    let a ← src x.a
    let b ← srcB x
    let c ← if fn = 7 then src v.e.c else pure 0
    dst x.d (fopResult fn ty (rmOf v.e.rm) (draw 0) a b c)) s

/-- MAD (R220). -/
def execMad (x : RFields) (s : State) : Host.Outcome State Fault Refusal :=
  issue (.mad x) (fun v => do
    let a ← src x.a
    let b ← srcB x
    let c ← src v.e.c
    dst x.d (madResult v.e.ty.toNat a b c)) s

end Sys2Proof.Machine
end

