-- ==== Sys2Proof/Machine/LocalAccess.lean ====
section
/-! DEFINITION. Row 3 of the opcode map: local loads and stores (R284-R288, R245), RROT (R286), bank modes and FIFO banks
(R175, R176), and posted stores and remote adds (R319). -/
namespace Sys2Proof.Machine

/-- LDL (R284, R285). -/
def execLdl (x : IFields) (s : State) : Host.Outcome State Fault Refusal :=
  issue (.ldl x) (fun v => do
    let a ← src x.a
    let la := a + x.imm
    let ty := v.e.ty.toNat
    checkScalar la ty false v.word0
    let w := winOf la
    let code ← windowGet w (offOf la) ty (windowSize w ty) la
    dst x.d (if w = 2 ∨ w = 3 then BitVec.ofNat 64 code else extendTy ty code)) s

/-- STL (R284, R285): one draw under sr through bfw or f8d. -/
def execStl (x : IFields) (s : State) : Host.Outcome State Fault Refusal :=
  issue (.stl x) (fun v => do
    let a ← src x.a
    let b ← src x.d
    let la := a + x.imm
    let ty := v.e.ty.toNat
    checkScalar la ty true v.word0
    let w := winOf la
    let draw ← if w = 3 ∨ w = 4 then drawsFor v.e.rm 1 v.aval else pure (fun _ => 0)
    windowPut w (offOf la) ty (windowSize w ty) (rmOf v.e.rm) draw 0 b.toNat) s

/-! ### Vector accesses (R287, R288) -/

/-- The value-dependent field checks of a windowed vector access: TY is fp8 through f8d, any source type for planes, else 0;
SAT and SUB belong to planes, and F2 does not (R287). -/
def laneFieldsBad (v : Env) (win : Nat) (planes : Bool) : Bool :=
  if win = 3 then !(v.e.ty = 11 || v.e.ty = 12) || v.e.sat || v.e.sub ≠ 0
  else if planes && decide (win = 1) then v.e.f2
  else v.e.ty ≠ 0 || v.e.sat || v.e.sub ≠ 0

/-- The checks of the lanes of one access in the order of R287: each lane is a local address and a window offset. -/
def checkLanes (win : Nat) (store gather : Bool) (la : Word) (lanes : List (Word × Nat)) : M Unit := do
  let first (bad : Word × Nat → Bool) (cause : Nat) : M Unit :=
    match lanes.find? bad with
    | some l => trap cause l.1
    | none => pure ()
  first (fun l => wraps win l.2 4) 0x041
  trapIf (decide (la.toNat % 4 ≠ 0) || (store && gather && decide (win = 1))) 0x045 la
  let c ← myCore
  first (fun l => (c.notSpad (windowBytes win l.2 4)).isSome) 0x044
  trapIf (store && decide (win = 2)) 0x046 la

/-- The lanes of a contiguous or column access (R287). -/
def laneAddrs (la : Word) (col : Bool) (active : List Nat) : List (Word × Nat) :=
  let step := if col then 512 else 4
  active.map (fun i => (la + BitVec.ofNat 64 (step * i), offOf la + step * i))

/-- Read the lanes of an access into vd. -/
def loadLanes (ty : Nat) (vd : Nat) : List (Nat × Nat × Word × Nat) → M Unit
  | [] => pure ()
  | (i, win, la, off) :: r => do
    let u ← windowGet win off ty 4 la
    loadLanes ty vd r
    onMyCtx (·.setLane vd i (BitVec.ofNat 32 u))

/-- Store lanes in ascending order; `d` gives the draws from index `j`. -/
def storeLanes (ty : Nat) (rm : RMode) (d : Nat → Nat) : Nat → List (Nat × Nat × Lane) → M Unit
  | _, [] => pure ()
  | j, (win, off, x) :: r => do
    windowPut win off ty 4 rm d j x.toNat
    storeLanes ty rm d (j + windowDraws win 4) r

/-- VLDL (R287). -/
def execVldl (x : VFields) (s : State) : Host.Outcome State Fault Refusal :=
  issue (.vldl x) (fun v => do
    let a ← src v.e.c
    let la := a + v.e.imm32.signExtend 64
    checkLocal la
    let win := winOf la
    trapIf (laneFieldsBad v win false) 0x004 (v.word0.setWidth 64)
    let c ← myCtx
    let act := c.active x.m
    let lanes := laneAddrs la v.e.f2 act
    checkLanes win false false la lanes
    loadLanes v.e.ty.toNat x.vd.toNat ((act.zip lanes).map (fun p => (p.1, win, p.2)))) s

/-- One slab record (R162). -/
def slabBytes (p : Nat) (sl : Slab) : List Byte :=
  let bits (f : Nat → Bool) : Nat := (List.range 64).foldl (fun acc i => acc + (if f i then 2 ^ i else 0)) 0
  bytesOfNat 8 (intCode 8 sl.es + (p - 1) * 256) ++ bytesOfNat 8 (bits (fun i => sl.sign.getD i false))
    ++ (List.range p).flatMap (fun j => bytesOfNat 8 (bits (fun i => (sl.mag.getD i 0).testBit j)))

/-- The records of a list of elements at precision p, 64 elements each; `n` records. -/
def slabRecords (p : Nat) (satInt : Bool) : Nat → List (Bool × Nat × Int) → List Byte
  | 0, _ => []
  | n + 1, vs => slabBytes p (planeForm p satInt (vs.take 64)) ++ slabRecords p satInt n (vs.drop 64)

/-- Element n of a register that holds fp4b groups as VQUANT leaves them (R33, R237): group g in lanes 10g to 10g + 9. -/
def Ctx.groupElem (c : Ctx) (va n : Nat) : FVal :=
  let first := n / 64 * 10
  let i := n % 64
  fp4bVal (laneElem 4 (c.lane va (first + i / 8)) (i % 8)) (laneElem 8 (c.lane va (first + 8 + i / 32)) (i / 8 % 4))

/-- Elements of the lanes of a register for a plane store: inactive lanes give +0 (R287). DESIGN CHOICE (log 34): of fp4b the register holds a
group for each 64 lanes of the grant, and an element is active where the lane of its number is. -/
def planeElems (c : Ctx) (va ty : Nat) (act : List Nat) : List (Bool × Nat × Int) :=
  let w := tyBits ty
  if ty = 14 then (List.range c.grant).map (fun n => if act.contains n then planeSource ty (c.groupElem va n) else (false, 0, 0))
  else
  (List.range c.grant).flatMap (fun i => (List.range (32 / w)).map (fun j =>
    if act.contains i then planeSource ty (elemVal ty (laneElem w (c.lane va i) j)) else (false, 0, 0)))

/-- VSTL through pln (R287, R36, R37). -/
def storePlanes (x : VFields) (v : Env) (la : Word) : M Unit := do
  let c ← myCtx
  let ty := v.e.ty.toNat
  let p := v.e.sub.toNat % 16 + 1
  let elems := planeElems c x.va.toNat ty (c.active x.m)
  let n := elems.length / 64
  let size := n * (8 * (p + 2))
  trapIf (decide (65536 < offOf la + size)) 0x041 la
  trapIf (decide (la.toNat % 8 ≠ 0) || decide (n = 0) || decide (elems.length % 64 ≠ 0)) 0x045 la
  let core ← myCore
  match core.notSpad ((List.range size).map (offOf la + ·)) with
  | some o => trap 0x044 (BitVec.ofNat 64 (65536 + o))
  | none => localPut (offOf la) (slabRecords p (v.e.sat && !tyFloat ty) n elems)

/-- VSTL (R287): under sr one draw an element stored through bfw or f8d. -/
def execVstl (x : VFields) (s : State) : Host.Outcome State Fault Refusal :=
  issue (.vstl x) (fun v => do
    let a ← src v.e.c
    let la := a + v.e.imm32.signExtend 64
    checkLocal la
    let win := winOf la
    trapIf (laneFieldsBad v win true) 0x004 (v.word0.setWidth 64)
    if win = 1 then storePlanes x v la
    else do
      let c ← myCtx
      let act := c.active x.m
      let lanes := laneAddrs la v.e.f2 act
      checkLanes win true false la lanes
      let draw ← drawsFor v.e.rm (act.length * windowDraws win 4) v.aval
      storeLanes v.e.ty.toNat (rmOf v.e.rm) draw 0
        ((act.zip lanes).map (fun p => (win, p.2.2, c.lane x.va.toNat p.1)))) s

/-- The lanes of a gather or scatter: lane number and local address (R288); a literal stands for VB in every lane (R57). -/
def gatherLanes (x : VFields) (v : Env) (c : Ctx) (base : Word) : List (Nat × Word) :=
  (c.active x.m).map (fun i => (i, base + v.e.imm32.signExtend 64 + (c.laneB x (·.setWidth 32) i).setWidth 64))

/-- The checks of each lane of a gather or scatter, in ascending lane order (R288). -/
def checkGather (v : Env) (store : Bool) : List (Nat × Word) → M Unit
  | [] => pure ()
  | (_, la) :: r => do
    checkLocal la
    trapIf (laneFieldsBad v (winOf la) false) 0x004 (v.word0.setWidth 64)
    checkLanes (winOf la) store true la [(la, offOf la)]
    checkGather v store r

/-- VGATHL (R288). -/
def execVgathl (x : VFields) (s : State) : Host.Outcome State Fault Refusal :=
  issue (.vgathl x) (fun v => do
    let a ← src v.e.c
    let c ← myCtx
    let lanes := gatherLanes x v c a
    checkGather v false lanes
    loadLanes v.e.ty.toNat x.vd.toNat (lanes.map (fun l => (l.1, winOf l.2, l.2, offOf l.2)))) s

/-- VSCATL (R288). -/
def execVscatl (x : VFields) (s : State) : Host.Outcome State Fault Refusal :=
  issue (.vscatl x) (fun v => do
    let a ← src v.e.c
    let c ← myCtx
    let lanes := gatherLanes x v c a
    checkGather v true lanes
    let draw ← drawsFor v.e.rm ((lanes.map (fun l => windowDraws (winOf l.2) 4)).sum) v.aval
    storeLanes v.e.ty.toNat (rmOf v.e.rm) draw 0
      (lanes.map (fun l => (winOf l.2, offOf l.2, c.lane x.va.toNat l.1)))) s

/-- One element of LDTX as lane bits (R245). -/
def ldtxLane (win : Nat) (bs : List Byte) : Lane :=
  match win with
  | 4 => BitVec.ofNat 32 (fmtF32.ofVal .rne 0 false (fmtBf16.value (natOfBytes bs)))
  | 5 => BitVec.ofInt 32 (intOf true 8 (natOfBytes bs))
  | _ => BitVec.ofNat 32 (natOfBytes bs)

/-- Read LDTX's elements: lane, register offset and local byte offset; `div` window bytes stand for one. -/
def loadTx (win bw div vd : Nat) : List (Nat × Nat × Nat) → M Unit
  | [] => pure ()
  | (i, k, off) :: r => do
    let bs ← localGet off bw (BitVec.ofNat 64 (win * 65536 + off * div))
    loadTx win bw div vd r
    onMyCtx (·.setLane (vd + k) i (ldtxLane win bs))

/-- LDTX (R245). -/
def execLdtx (x : VFields) (s : State) : Host.Outcome State Fault Refusal :=
  issue (.ldtx x) (fun v => do
    let a ← src v.e.c
    let la := a + v.e.imm32.signExtend 64
    checkLocal la
    let win := winOf la
    trapIf (!(win = 0 || win = 4 || win = 5)) 0x043 la
    trapIf (decide (la.toNat % 4 ≠ 0)) 0x045 la
    let div := if win = 0 then 1 else if win = 4 then 2 else 4
    let bw := 4 / div
    let n := v.e.sub.toNat + 1
    let p0 := offOf la / div
    let b0 := p0 / 512
    let o := p0 % 512
    trapIf (decide (512 < o + n * bw)) 0x041 la
    let c ← myCtx
    let core ← myCore
    let off (i : Nat) : Nat := (b0 + i) % 128 * 512 + o
    let act := c.active x.m
    let elems := act.flatMap (fun i => (List.range n).map (fun k => (i, k, off i + k * bw)))
    match act.find? (fun i => core.mode ((b0 + i) % 128) ≠ 0) with
    | some i => trap 0x044 (BitVec.ofNat 64 (win * 65536 + off i * div))
    | none => loadTx win bw div x.vd.toNat elems) s

/-! ### RROT, bank modes and FIFO banks -/

/-- RROT's result (R286). -/
def rrotResult (a b : Word) : Word :=
  let r := 2 ^ (b.toNat / 65536 % 32)
  BitVec.ofNat 64 (a.toNat - a.toNat % r + (a + (b.setWidth 16).signExtend 64).toNat % r)

/-- RROT (R286). -/
def execRrot (x : RFields) (s : State) : Host.Outcome State Fault Refusal :=
  issue (.rrot x) (fun _ => do
    let a ← src x.a
    let b ← srcB x
    let n := b.toNat / 65536 % 32
    trapIf (decide (2 ^ 19 ≤ a.toNat)) 0x042 a
    trapIf (decide (2 ^ 21 ≤ b.toNat) || decide (n < 3) || decide (16 < n)) 0x048 a
    dst x.d (rrotResult a b)) s

/-- Lines leave the CWAY when it shrinks (R175): those that a free value picks, then the least recently used until the rest
fit; dirty ones are written back (log 16). -/
def State.shrinkCway (s : State) (g : Nat) (pick : Word) : State :=
  let c := s.core g
  let rest := c.cway.filter (fun l => !pick.getLsbD (l.line % 64))
  let keep := rest.drop (rest.length - c.cwayRoom)
  let out := c.cway.filter (fun l => !keep.contains l)
  let s1 := out.foldl (fun s l => if l.dirty then s.writeBack g l else s) s
  s1.onCore g (fun c => { c with cway := keep })

/-- The page of an Erg frame that leaves PAGE mode moves to HBM4E (R172, R175). -/
def State.evictFrame (s : State) (g f : Nat) : State :=
  match (s.core g).frames.get .free f with
  | .page id =>
    let s1 := (List.range 64).foldl (fun s i => s.settle none (pageKey id 0 / 64 + i)) s
    (s1.setPage id { s1.page id with loc := .hbm }).onCore g (fun c => { c with frames := c.frames.set f .free })
  | _ => s

/-- Change one bank's mode (R175). -/
def State.changeBank (s : State) (g owner m bank : Nat) (pick : Word) : State :=
  let old := (s.core g).mode bank
  if old = m then s
  else
    let s0 := s.drainBar g bank
    let s1 := if old = 3 && bank % 8 = 0 then s0.evictFrame g (bank / 8) else s0
    let s2 := (s1.onCore g (fun c => { c with modes := c.modes.set bank m, fifo := c.fifo.drop bank })).zeroBank g bank owner
    if old = 1 then s2.shrinkCway g pick else s2

/-- BANKMODE (R175). -/
def execBankmode (x : RFields) (s : State) : Host.Outcome State Fault Refusal :=
  issue (.bankmode x) (fun _ => do
    let a ← src x.a
    let b ← src x.b
    trapIf (decide (2 ^ 19 ≤ a.toNat)) 0x042 a
    trapIf (decide (a.toNat % 512 ≠ 0)) 0x045 a
    let bank0 := bankOf (offOf a)
    let n := b.toNat / 256 % 128 + 1
    let m := b.toNat % 8
    trapIf (decide (4 < m) || decide (2 ^ 15 ≤ b.toNat) || decide (b.toNat / 8 % 32 ≠ 0) || decide (128 < bank0 + n)) 0x047 a
    let banks := (List.range n).map (bank0 + ·)
    let s ← get
    let (g, k) := s.cur
    let core := s.core g
    trapIf ((decide (m = 3) || banks.any (fun i => core.mode i = 3)) && (decide (bank0 % 8 ≠ 0) || decide (n % 8 ≠ 0))) 0x047 a
    if banks.any (fun i => core.mode i ≠ m && s.bankBusy g i) then wait else pure ()
    if banks.any (fun i => decide (core.mode i = 3) && decide (m ≠ 3) && (match core.frames.get .free (i / 8) with
        | .moving _ => true
        | .page id => s.pageMoving id
        | .free => false)) then wait else pure ()
    dst x.d (BitVec.ofNat 64 (core.mode bank0))
    let pick ← if banks.any (fun i => core.mode i = 1) && decide (m ≠ 1) then freeWord else pure 0
    modify (fun s => banks.foldl (fun s i => s.changeBank g (s.ownerOf g k) m i pick) s)) s

/-- A FIFO access by a context of another owner empties and retags the bank first (R105, R160). -/
def State.retagFifo (s : State) (g owner bank : Nat) : State :=
  if (s.core g).tag bank = owner then s
  else (s.zeroBank g bank owner).onCore g (fun c => { c with fifo := c.fifo.drop bank })

/-- FPUSH or FPOP takes the bank for its owner. -/
def takeFifo (bank : Nat) (s : State) : State := s.retagFifo s.cur.1 (s.ownerOf s.cur.1 s.cur.2) bank

/-- The bank that FPUSH or FPOP names, after their checks (R176). -/
def fifoBank (a : Word) : M Nat := do
  trapIf (decide (2 ^ 19 ≤ a.toNat)) 0x042 a
  trapIf (decide (a.toNat % 512 ≠ 0)) 0x045 a
  let bank := bankOf (offOf a)
  let core ← myCore
  trapIf (decide (core.mode bank ≠ 2)) 0x044 a
  return bank

/-- FPUSH (R176). -/
def execFpush (x : RFields) (s : State) : Host.Outcome State Fault Refusal :=
  issue (.fpush x) (fun _ => do
    let a ← src x.a
    let b ← src x.b
    let bank ← fifoBank a
    modify (takeFifo bank)
    let core ← myCore
    let q := core.fifo.get [] bank
    if 64 ≤ q.length then (if x.fn = 1 then dst x.d (-1) else wait)
    else do
      onMyCore (fun c => { c with fifo := c.fifo.set bank (q ++ [b]) })
      dst x.d (BitVec.ofNat 64 (q.length + 1))) s

/-- FPOP (R176). Of an uncorrectable error in the bank (R515) the entry that it reads is taken to be the one in error (log 29). -/
def execFpop (x : RFields) (s : State) : Host.Outcome State Fault Refusal :=
  issue (.fpop x) (fun _ => do
    let a ← src x.a
    let bank ← fifoBank a
    modify (takeFifo bank)
    let core ← myCore
    match core.fifo.get [] bank with
    | [] =>
      if x.fn = 1 then do
        dst x.d 0
        dstNext x.d 0
      else waitAnd (takeFifo bank)
    | v :: r => do
      let s ← get
      trapIf (s.localBad s.cur.1 (bank * 512) 512) 0x049 (BitVec.ofNat 64 (bank * 512 + s.firstBad s.cur.1 (bank * 512) 512))
      onMyCore (fun c => { c with fifo := c.fifo.set bank r })
      dst x.d v
      if x.fn = 1 then dstNext x.d 1 else pure ()) s

/-! ### Posted remote writes (R319) -/

/-- The address checks of RSTL and RADD: PST.ADDR, GM.ALIGN. -/
def checkPosted (a : Word) (n : Nat) (aval : Word) : M Unit := do
  trapIf (decide (a.toNat < 0x00F0000000000000) || decide (0x00F00000A0000000 ≤ a.toNat)) 0x1A2 aval
  trapIf (decide (a.toNat % n ≠ 0)) 0x061 a

/-- RSTL (R319). -/
def execRstl (x : RFields) (s : State) : Host.Outcome State Fault Refusal :=
  issue (.rstl x) (fun v => do
    let a ← src x.a
    let b ← srcB x
    let ty := v.e.ty.toNat
    checkPosted a (tyBytes ty) v.aval
    admitPosted (tyBytes ty) a
    let i ← postWrite a (bytesOfNat (tyBytes ty) b.toNat) ty 1 0 .store
    dst x.d (BitVec.ofNat 64 i)) s

/-- RADD (R319): every update is numbered for its destination core (R307). -/
def execRadd (x : RFields) (s : State) : Host.Outcome State Fault Refusal :=
  issue (.radd x) (fun v => do
    let a ← src x.a
    let b ← srcB x
    let ty := v.e.ty.toNat
    checkPosted a (tyBytes ty) v.aval
    admitPosted (tyBytes ty) a
    let dest := (a.toNat - 0x00F0000000000000) / 65536
    let core ← myCore
    let n := core.seqOut.get 0 dest
    onMyCore (fun c => { c with seqOut := c.seqOut.set dest (n + 1) })
    let i ← postWrite a (bytesOfNat (tyBytes ty) b.toNat) ty 2 x.fn.toNat
      (.arith x.fn.toNat ty v.e.sat (if v.e.f2 then some n else none))
    dst x.d (BitVec.ofNat 64 i)) s

end Sys2Proof.Machine
end

