-- ==== Sys2Proof/Machine/Matrix.lean ====
section
/-! DEFINITION. The matrix engine's arithmetic and layouts: panels (R248), B block records (R249), slab terms (R247, R259),
conversions out of a tile (R42, R261) and softmax rows (R264), with the checks and queue operations that the row B
instructions and the sequencer share (R252-R254, R256). -/
namespace Sys2Proof.Machine

/-! ### Layouts -/

/-- Fields of an A panel word (R248). -/
def panelOf (a : Word) : Panel := { bank0 := field a 0 7, off := field a 9 9, p := field a 18 4 + 1 }

/-- Whether a panel word with slab j breaks R248: a reserved bit, an OFF that is not a multiple of 8, or a record that ends
after byte 512. -/
def panelBad (a : Word) (j : Nat) : Bool :=
  let p := panelOf a
  decide (field a 7 2 ≠ 0) || decide (2 ^ 22 ≤ a.toNat) || decide (p.off % 8 ≠ 0)
    || decide (512 < p.off + (j / 4 + 1) * (8 * (p.p + 2)))

/-- Offset in local memory of the record of row i of slab j (R248). -/
def Panel.offset (p : Panel) (j i : Nat) : Nat := p.bank j i * 512 + p.off + j / 4 * (8 * (p.p + 2))

/-- Bytes of a slab record at precision p (R162). -/
def slabSize (p : Nat) : Nat := 8 * (p + 2)

/-- One row of a slab from its record, read at the declared precision (R162, R247). -/
def planeRow (p : Nat) (bs : List Byte) : List Int :=
  let d (i : Nat) : Nat := natOfBytes ((bs.drop (8 * i)).take 8)
  let sign := d 1
  let planes := (List.range p).map (fun q => d (2 + q))
  (List.range 64).map (fun k =>
    let m := planes.foldr (fun w acc => 2 * acc + (if w.testBit k then 1 else 0)) 0
    if sign.testBit k then -(m : Int) else (m : Int))

/-- Bits of an element of a B block record (R249). -/
def blockQ (ty : Nat) : Nat := if ty = 1 then 16 else if ty = 13 then 4 else 8
/-- Bytes of a B block record (R249). -/
def blockSize (ty : Nat) : Nat := 64 + 512 * blockQ ty

/-- The integer n that a B block element stands for (R249). -/
def blockElem (ty code : Nat) : Int :=
  if ty = 13 then
    match fmtFp4.value code with
    | .fin neg m e => scaled neg m (e + 1) 0
    | _ => 0
  else intOf true (blockQ ty) code

/-- The elements of a B block record, by 64 x column + k (R24, R249). -/
def blockElems (ty : Nat) (bs : List Byte) : List Int :=
  let q := blockQ ty
  (List.range 64).flatMap (fun c =>
    let col := natOfBytes ((bs.drop (64 + 8 * q * c)).take (8 * q))
    (List.range 64).map (fun k => blockElem ty (col / 2 ^ (q * k) % 2 ^ q)))

/-! ### Slab terms and conversions -/

/-- Add a term to a pair of a tile (R41, R250): a term whose s is 0 is discarded; saturation sets OVF. -/
def TileImage.addTerm (t : TileImage) (i : Nat) (s e : Int) : TileImage :=
  if s = 0 then t
  else
    let r := accAdd (t.pairs.get accClear i) s e
    { t with pairs := t.pairs.set i r.1, ovf := t.ovf || r.2 }

/-- The exact sum over k of a(i,k) x n(k,c) (R39). -/
def dotTerm (row : List Int) (col : List Int) : Int := (List.zipWith (· * ·) row col).foldl (· + ·) 0

/-- One row of a slab against a B buffer (R259). -/
def TileImage.addRow (t : TileImage) (elems : List Int) (r : ScaleRec) (i : Nat) (row : List Int) : TileImage :=
  (List.range 64).foldl (fun t c =>
    t.addTerm (64 * i + c) (dotTerm row ((elems.drop (64 * c)).take 64)) (r.r.getD i 0 + r.y.getD c 0)) t

/-- V(i,c), the exact value of an output element (R42). DESIGN CHOICE (log 25): the spec gives a product that is exactly zero no sign; it is
+0, whatever the signs of S and of the band significands. -/
def TileImage.value (t : TileImage) (i c : Nat) : FVal :=
  match accVal (t.pairs.get accClear (64 * i + c)) t.sigA t.sigB with
  | .fin _ 0 e => .fin false 0 e
  | v => v

/-- An exact value as a code of an output type: rounded by rne and saturated in the integer types (R42). -/
def outCode (ty : Nat) (v : FVal) : Nat :=
  if tyFloat ty then (fmtOf ty).ofVal .rne 0 false v else intCode (tyBits ty) (v.toInt (tySigned ty) (tyBits ty) .rne 0)

/-- The bytes of row i that MREAD writes for an output type other than pln (R261). -/
def TileImage.rowBytes (t : TileImage) (ty i : Nat) : List Byte :=
  (List.range 64).flatMap (fun c => bytesOfNat (tyBits ty / 8) (outCode ty (t.value i c)))

/-- The slab record of row i that MREAD writes for pln (R261). -/
def TileImage.rowRecord (t : TileImage) (p i : Nat) : List Byte :=
  slabBytes p (planeForm p false ((List.range 64).map (fun c =>
    match t.value i c with
    | .fin neg m e => (neg, m, e)
    | _ => (false, 0, 0))))

/-- x(c) of MSOFT: tau x V(i,c), exact (R264). -/
def TileImage.softValue (t : TileImage) (tau i c : Nat) : FVal :=
  match (f32 tau).mul (t.value i c) with
  | .fin neg m e => .fin (neg && m ≠ 0) m e
  | v => v

/-- Columns that take part in row i of MSOFT (R264). -/
def softValid (keys : Word) (diag : Option Int) (i : Nat) : List Nat :=
  (List.range 64).filter (fun c => keys.getLsbD c && (match diag with
    | none => true
    | some d => decide ((c : Int) ≤ i + d)))

/-- The greatest of a list of exact values. -/
def greatest (vs : List FVal) : FVal := vs.tail.foldl (fun a b => a.minMax true b) (vs.headD .nan)

/-- Magnitude of mx - x, for x at most mx. -/
def belowMax (mx x : FVal) : Nat × Int :=
  match mx.add .rne x.neg with
  | .fin _ m e => (m, e)
  | _ => (0, 0)

/-- Row i of MSOFT (R264): the bytes of its 64 weights, its statistics dword, and whether it was all masked. -/
def TileImage.softRow (t : TileImage) (ty tau : Nat) (keys : Word) (diag : Option Int) (i : Nat) : List Byte × List Byte × Bool :=
  let w := tyBits ty / 8
  let cs := softValid keys diag i
  if cs = [] then (List.replicate (64 * w) 0, bytesOfNat 8 0xFF800000, true)
  else
    let xs := cs.map (t.softValue tau i)
    let mx := greatest xs
    let ds := xs.map (belowMax mx)
    let ys := (cs.zip ds).map (fun cd => (cd.1, softmaxWeight (fmtOf ty) ds cd.2))
    ((List.range 64).flatMap (fun c => bytesOfNat w (Table.get ys 0 c)),
     bytesOfNat 8 (softmaxSum ds * 2 ^ 32 + f32Rne mx), false)

/-! ### Operand checks -/

/-- LM.MODE of a panel: the lowest failing record (R259, R409). -/
def Core.panelMode (c : Core) (p : Panel) (j : Nat) (rows : BitVec 32) : Option Nat :=
  ((rowsOf rows).filter (fun i => c.mode (p.bank j i) ≠ 0)).foldl (fun acc i =>
    match acc with
    | none => some (p.offset j i)
    | some a => some (min a (p.offset j i))) none

/-- The lowest byte of spans (offset, bytes) that lies in a bank that is not SPAD. -/
def Core.spanMode (c : Core) (spans : List (Nat × Nat)) : Option Nat :=
  (spans.flatMap (fun s => ((bankSpan s.1 s.2).filter (fun b => c.mode b ≠ 0)).map (fun b => max s.1 (b * 512)))).foldl
    (fun acc x => match acc with
      | none => some x
      | some a => some (min a x)) none

/-- The checks of MACC's panel and of MREAD's pln form (R259, R261): the failing cause and %tval. -/
def panelCheck (c : Core) (a : Word) (j : Nat) (rows : BitVec 32) (more : Bool) (aval : Word) : Option (Nat × Word) :=
  if panelBad a j || more then some (0x121, aval)
  else (c.panelMode (panelOf a) j rows).map (fun o => (0x044, BitVec.ofNat 64 o))

/-- The address checks of MREAD and MSOFT (R261, R264): the failing cause and %tval. `more` is a further argument error,
`stats` asks for MSOFT's statistics area. -/
def outCheck (c : Core) (ty : Nat) (a : Word) (st : Nat) (stats more : Bool) (aval : Word) : Option (Nat × Word) :=
  let w := tyBits ty / 8
  let off := offOf a
  if 2 ^ 19 ≤ a.toNat then some (0x042, a)
  else if winOf a ≠ 0 then some (0x043, a)
  else if a.toNat % w ≠ 0 || st % 4 ≠ 0 || decide (st < 64 * w) || more then some (0x121, aval)
  else if 65535 < off + 31 * st + 64 * w - 1 ∨ (stats ∧ 65535 < off + 32 * st + 255) then some (0x041, a)
  else
    (c.spanMode ((List.range 32).map (fun i => (off + i * st, 64 * w)) ++ (if stats then [(off + 32 * st, 256)] else []))).map
      (fun o => (0x044, BitVec.ofNat 64 o))

/-- Raise what a check found. -/
def trapOn (r : Option (Nat × Word)) : M Unit :=
  match r with
  | some (cause, tval) => trap cause tval
  | none => pure ()

/-! ### Queues and ownership -/

/-- The engine of the issuing context's cluster. -/
def myEngine : M MatrixEngine := do
  let s ← get
  return s.engine (clusterOf s.cur.1)

/-- Change the engine of the issuing context's cluster. -/
def onMyEngine (f : MatrixEngine → MatrixEngine) : M Unit := modify (fun s => s.onEngine (clusterOf s.cur.1) f)

/-- An instruction is not ready until its queue has room (R252). -/
def needRoom (load : Bool) : M Unit := do
  let e ← myEngine
  if e.room load then pure () else wait

/-- Offer a macro-operation of the issuing context to its engine (R252). -/
def offer (kind : MacroKind) : M Unit := do
  let s ← get
  let (g, k) := s.cur
  onMyEngine (fun e => { e with offered := e.offered ++ [{
    seq := 0, core := g, ctx := k, owner := s.ownerOf g k, kind := kind, shelf := (s.core g).shelf, launch := (s.ctx g k).launch }] })

/-- Whether a tile is owned by a context of a shelf (R254, R420). -/
def Tile.ownedBy (t : Tile) (g k sh : Nat) : Bool := t.heldBy g k sh && !t.leaving

/-- MAT.OWN unless the issuing context owns the tile (R254). -/
def needTile (t : Nat) (aval : Word) : M Unit := do
  let e ← myEngine
  let (g, k) ← me
  let c ← myCore
  trapIf (!(e.tile t).ownedBy g k c.shelf) 0x123 aval

/-- The scale keeper of a cluster for a launch slot, by its number in the cluster (R251). A stage map that cannot be read
gives a free value (log 19). -/
def keeperOf (cl slot : Nat) : M Nat := do
  let s ← get
  let sts := (List.range 80).map (fun i => s.stageOf slot (cl * 80 + i))
  if sts.contains none then do
    let f ← freeWord
    return f.toNat % 80
  else return ((List.range 80).find? (fun i => sts.getD i none = some 15)).getD 79

end Sys2Proof.Machine
end

