-- ==== Sys2Proof/Machine/CopyInstr.lean ====
section
/-! DEFINITION. Row C of the opcode map: copies, batches and near-memory commands (R315-R321). -/
namespace Sys2Proof.Machine

/-- The four registers that an operand names (R315), read in ascending order. -/
def srcQuad (a : BitVec 6) : M (List Word) := do
  let w0 ← src a
  let w1 ← src (a + 1)
  let w2 ← src (a + 2)
  let w3 ← src (a + 3)
  return [w0, w1, w2, w3]

/-- A copy of the issuing context at its issue point with P (R302, R303). -/
def newCopy (s : State) (id : Nat) (ws : List Word) (p : Nat) (pc : Word) : CopyJob :=
  let (g, k) := s.cur
  let c := s.ctx g k
  { id := id, words := ws, issuer := .ctx (s.originOf g k) c.openBatch.num, owner := s.ownerOf g k,
    slot := (c.launch.map (·.1)).getD 0, epoch := c.epoch, stream := c.stream, p := p, racemode := c.racemode, pc := pc }

/-- CPQ (R316). -/
def execCpq (x : RFields) (s : State) : Host.Outcome State Fault Refusal :=
  issue (.cpq x) (fun v => do
    let ws ← srcQuad x.a
    trapOn (copyCheck ws v.aval)
    let core ← myCore
    if 8 ≤ core.cpq.length then (if x.fn = 1 then dst x.d (-1) else wait)
    else do
      let p ← release v.aval
      let id ← freshId
      modify (fun s =>
        let (g, k) := s.cur
        let (s1, j1) := s.numberCopy (clusterOf g) (newCopy s id ws p v.pc)
        let (s2, j2) := s1.placeCopy (clusterOf g) j1
        (s2.onCore g (fun c => { c with cpq := c.cpq ++ [j2] })).onCtx g k
          (fun c => { c with openBatch := { c.openBatch with ops := c.openBatch.ops ++ [id], used := true } }))
      dst x.d 0) s

/-- CPSEAL (R317). -/
def execCpseal (x : RFields) (s : State) : Host.Outcome State Fault Refusal :=
  issue (.cpseal x) (fun _ => do
    let c ← myCtx
    if 16 ≤ c.batches.length then wait
    else do
      onMyCtx (·.seal)
      dst x.d (BitVec.ofNat 64 c.openBatch.num)) s

/-- CPWAIT (R317). -/
def execCpwait (x : RFields) (s : State) : Host.Outcome State Fault Refusal :=
  issue (.cpwait x) (fun v => do
    let a ← src x.a
    let c ← myCtx
    if a.toNat < c.batches.length then wait
    else do
      if c.done = 0 then pure () else acquire c.doneP v.aval
      dst x.d (BitVec.ofNat 64 c.done)) s

/-- CPSTAT.queue's word (R318). -/
def copyQueueWord (core : Core) (c : Ctx) : Word :=
  BitVec.ofNat 64 ((32 - core.freeEntries.length) * 2 ^ 32 + c.nmOpen.length * 2 ^ 24 + c.batches.length * 2 ^ 8 + core.cpq.length)

/-- CPSTAT (R318). -/
def execCpstat (x : RFields) (s : State) : Host.Outcome State Fault Refusal :=
  issue (.cpstat x) (fun _ => do
    let core ← myCore
    let c ← myCtx
    dst x.d (match x.fn.toNat with
      | 0 => BitVec.ofNat 64 (c.sealed * 2 ^ 32 + c.done)
      | 1 => copyQueueWord core c
      | 2 => c.errWord
      | _ => c.errNum)) s

/-- How the issuing context's command translates its extents (R113, R313). -/
def nearCtxOp (s : State) (pc : Word) : EngineOp :=
  let (g, k) := s.cur
  let c := s.ctx g k
  { id := 0, agent := ctxAgent g k, l := c.l, h := c.h, p := c.l, epoch := c.epoch, slot := (c.launch.map (·.1)).getD 0,
    owner := s.ownerOf g k, cluster := clusterOf g, racemode := c.racemode, pc := pc, stream := c.stream, core := some g,
    xfail := c.xfail }

/-- A command of the issuing context at its issue point with P (R313). -/
def newNear (s : State) (id num : Nat) (ws : List Word) (wkey xkey p : Nat) (pc : Word) : NearCmd :=
  let (g, k) := s.cur
  let c := s.ctx g k
  { id := id, words := ws, issuer := .ctx (s.originOf g k) num, owner := s.ownerOf g k,
    slot := (c.launch.map (·.1)).getD 0, epoch := c.epoch, wkey := wkey, xkey := xkey, p := p, racemode := c.racemode, pc := pc,
    stream := c.stream }

/-- The issue point of the issuing context's command: its number, its lines (R313, R320). -/
def issueNear (ws : List Word) (wkey xkey p : Nat) (pc : Word) : M Nat := do
  let id ← freshId
  let c ← myCtx
  let num := nextNumber c.nmIssued
  onMyCtx (fun c => { c with nmIssued := num, nmOpen := c.nmOpen ++ [num] })
  modify (fun s =>
    let n := newNear s id num ws wkey xkey p pc
    let (s1, n1) := s.placeNear n
    { s1 with near := s1.near ++ [n1] })
  return num

/-- NMC (R320). -/
def execNmc (x : RFields) (s : State) : Host.Outcome State Fault Refusal :=
  issue (.nmc x) (fun v => do
    let ws ← srcQuad x.a
    trapOn (nearCheck ws v.aval)
    let s ← get
    match s.nearKeys (nearCtxOp s v.pc) ws v.aval with
    | (_, .pending) => waitAnd (fun s => (s.nearKeys (nearCtxOp s v.pc) ws v.aval).1)
    | (_, .fail c t) => trap c t
    | (s1, .keys wk xk) => do
      set s1
      let c ← myCtx
      if 8 ≤ c.nmOpen.length then wait
      else do
        let p ← release v.aval
        let num ← issueNear ws wk xk p v.pc
        dst x.d (BitVec.ofNat 64 num)) s

/-- NMFENCE (R321). -/
def execNmfence (x : RFields) (s : State) : Host.Outcome State Fault Refusal :=
  issue (.nmfence x) (fun v => do
    let c ← myCtx
    if c.nmOpen ≠ [] then wait
    else do
      if c.nmIssued = 0 then pure () else acquire c.nmP v.aval
      dst x.d (if c.nmStopped then 1 else 0)) s

end Sys2Proof.Machine
end

