-- ==== Sys2Proof/Machine/Debug.lean ====
section
/-! DEFINITION. Row E of the opcode map: TRACE, TRIG and WATCH (R446-R449). -/
namespace Sys2Proof.Machine

/-- Dword i of a trace buffer (R433, R447). -/
def TraceUnit.dword (t : TraceUnit) (i : Nat) : Word :=
  let r := t.recs.get (0, 0) (i / 2)
  if i % 2 = 0 then r.1 else r.2

/-- TRACE.stat's result (R447). -/
def TraceUnit.status (t : TraceUnit) : Word :=
  BitVec.ofNat 64 (t.lost.toNat * 2 ^ 32 + (if t.frozen then 2 ^ 16 else 0) + t.w)

/-- Change the trace unit of the issuing core. -/
def onMyTrace (f : TraceUnit → TraceUnit) : M Unit := onMyCore (fun c => { c with trace := f c.trace })

/-- TRACE (R447). -/
def execTrace (x : RFields) (s : State) : Host.Outcome State Fault Refusal :=
  issue (.trace x) (fun v => do
    let a ← src x.a
    let (g, k) ← me
    let t := (← myCore).trace
    match x.fn.toNat with
    | 0 => modify (fun s => s.trace g k 4 a)
    | 1 => do
      trapIf (a.getLsbD 0 || decide (2 ^ 22 ≤ a.toNat)) 0x1E4 v.aval
      onMyTrace (fun t => { t with cfg := a })
      dst x.d t.cfg
    | 2 => dst x.d t.status
    | _ => do
      trapIf (decide (512 ≤ a.toNat)) 0x1E4 v.aval
      dst x.d (t.dword a.toNat)) s

/-- A TRIG of context k reaches a core's buffer: a MARK record, then the freeze; a frozen buffer stays as it is (R435, R448). -/
def State.mark (s : State) (g k owner : Nat) (a : Word) : State :=
  if (s.core g).trace.frozen then s
  else
    let d0 : Nat := 7 * 2 ^ 60 + k * 2 ^ 56 + (s.superstep g).toNat % 65536 * 2 ^ 40 + s.clk % 2 ^ 40
    s.onCore g (fun c => { c with trace := { c.trace.append owner (BitVec.ofNat 64 d0, a) with frozen := true } })

/-- Cores that run a launch: one of their live contexts runs for it. -/
def State.coresOf (s : State) (l : Option (Nat × Nat)) : List Nat :=
  (s.cores.filter (fun e => ctxNumbers.any (fun k => (e.2.ctx k).live && decide ((e.2.ctx k).launch = l)))).map (·.1)

/-- TRIG (R448). -/
def execTrig (x : RFields) (s : State) : Host.Outcome State Fault Refusal :=
  issue (.trig x) (fun _ => do
    let a ← src x.a
    let (g, k) ← me
    match x.fn.toNat with
    | 0 => modify (fun s => s.mark g k (s.ownerOf g k) a)
    | 1 => onMyTrace (fun t => { t with frozen := false })
    | _ => modify (fun s => (s.coresOf (s.ctx g k).launch).foldl (fun t h => t.mark h k (s.ownerOf g k) a) s)) s

/-- Whether a signal watch of WATCH.set's control word is armed. -/
def WatchSlot.signals (w : WatchSlot) : Bool := w.ctl.getLsbD 4 && w.ctl.getLsbD 6

/-- Signal watches that a home port holds, but for one slot (R443); a page that is not mapped has no home port. -/
def State.portWatches (s : State) (cl g i : Nat) : Nat :=
  (s.cores.map (fun e => ([0, 1, 2, 3].filter (fun j =>
    let w := e.2.trace.watch.get {} j
    w.signals && decide (w.obj < 6 * space) && decide (s.homeCluster (w.obj / 64) = cl) && !(decide (e.1 = g) && decide (j = i)))).length)).sum

/-- The object of WATCH.set (R449): a local offset, whose bank meets R160 and is not read, a memory key, or what stands
for a word of a stream page that is not mapped. -/
def watchObject (a : Word) (sig : Bool) (v : Env) : M Nat :=
  if sig then do
    match ← locateAtomic a 8 false v.aval with
    | .mem key => return key
    | _ => do
      let s ← get
      return s.windowObj a
  else do
    let off ← barAt a
    modify (fun s => s.retag s.cur.1 (s.ownerOf s.cur.1 s.cur.2) off)
    return off

/-- WATCH (R449). -/
def execWatch (x : RFields) (s : State) : Host.Outcome State Fault Refusal :=
  issue (.watch x) (fun v => do
    let a ← src x.a
    let (g, k) ← me
    if x.fn = 0 then do
      let b ← src x.b
      let event := b.toNat / 4 % 4
      let sig := b.getLsbD 4
      trapIf (decide (2 ^ 7 ≤ b.toNat) || decide (event = 3) || (sig && decide (event ≠ 0))) 0x1E4 v.aval
      let obj ← watchObject a sig v
      let i := b.toNat % 4
      let s ← get
      let w : WatchSlot := { obj := obj, low := a.toNat % 65536, ctl := b, ctx := k, fired := 0 }
      if w.signals && decide (obj < 6 * space) && decide (64 ≤ s.portWatches (s.homeCluster (obj / 64)) g i) then dst x.d (-1)
      else do
        onMyTrace (fun t => { t with watch := t.watch.set i w })
        dst x.d ((s.core g).trace.watch.get {} i).ctl
    else do
      trapIf (decide (4 ≤ a.toNat)) 0x1E4 v.aval
      let w := (← myCore).trace.watch.get {} a.toNat
      if x.fn = 1 then do
        onMyTrace (fun t => { t with watch := t.watch.set a.toNat {} })
        dst x.d w.ctl
      else dst x.d (w.fired.setWidth 64)) s

end Sys2Proof.Machine
end

