-- ==== Sys2Proof/Machine/EngineEvents.lean ====
section
/-! DEFINITION. What the engines do by themselves: macro-operations (R252-R264), matrix-tile nodes and split-K contributions (R265,
R266, R521), copies and their batches (R297-R307), posted writes (R307-R310), near-memory commands (R313, R314), barrier objects
and domains (R375, R384-R386). -/
namespace Sys2Proof.Machine

/-- Whether the part has a package cluster. -/
def hasCluster (cl : Nat) : Bool := decide (cl < Config.clusterCount)
/-- Whether the part has a core. -/
def hasCore (g : Nat) : Bool := decide (g < Config.coreCount)

/-! ### Accepting macro-operations (R252) -/

/-- Whether an offered macro-operation comes from a lower core, or from a lower context of the same core. -/
def MacroOp.before (a b : MacroOp) : Bool := decide (a.core < b.core) || (decide (a.core = b.core) && decide (a.ctx < b.ctx))

/-- The offered macro-operation that is taken next: of the lowest core and context, the first that it offered. -/
def MatrixEngine.nextOffer (e : MatrixEngine) : Option MacroOp :=
  match e.offered with
  | [] => none
  | o :: r => some (r.foldl (fun b x => if x.before b then x else b) o)

/-- Take the next macro-operation into its queue, numbered in engine order. -/
def MatrixEngine.acceptOne (e : MatrixEngine) : MatrixEngine :=
  match e.nextOffer with
  | none => e
  | some o =>
    let n : MacroOp := { o with seq := e.seq + 1 }
    let e1 := { e with offered := e.offered.erase o, seq := e.seq + 1 }
    if o.kind.isLoad then { e1 with loads := e.loads ++ [n] } else { e1 with computes := e.computes ++ [n] }

/-- MACRO_OP_ACCEPT (R252). -/
def execMacroOpAccept (cluster : Nat) (s : State) : Host.Outcome State Fault Refusal :=
  if hasCluster cluster then .next (s.onEngine cluster (·.acceptOne)) else .fault .noUnit

/-! ### Carrying out macro-operations (R257-R264) -/

/-- The buffer that a load fills, or that a MACC names. -/
def MacroKind.buffer : MacroKind → Option Nat
  | .load b _ _ => some b
  | .macc _ b _ _ => some b
  | _ => none

/-- Whether a list holds a macro-operation on a buffer that precedes another in engine order. -/
def earlierOn (ops : List MacroOp) (seq buf : Nat) : Bool := ops.any (fun o => decide (o.seq < seq) && decide (o.kind.buffer = some buf))

/-- The load at the head of its queue fills its buffer once every earlier MACC on it has finished. -/
def MatrixEngine.runLoad (e : MatrixEngine) : MatrixEngine :=
  match e.loads with
  | [] => e
  | o :: r =>
    match o.kind with
    | .load b elems poison =>
      if earlierOn e.computes o.seq b then e
      else { e with loads := r, bufs := e.bufs.set b { e.bufs.get {} b with loaded := true, elems := elems, poison := poison } }
    | _ => e

/-- MLOADB_COMPLETE (R258). -/
def execMloadbComplete (cluster : Nat) (s : State) : Host.Outcome State Fault Refusal :=
  if hasCluster cluster then .next (s.onEngine cluster (·.runLoad)) else .fault .noUnit

/-- The engine's read of a core's banks for an owner (R160, R253): the bytes, and whether a word is in error. -/
def State.engineGet (s : State) (g owner off n : Nat) : State × List Byte × Bool :=
  let s1 := (bankSpan off n).foldl (fun s b => s.retag g owner (b * 512)) s
  (s1, s1.mem.bytes (localKey g off) n, s1.localBad g off n)

/-- The engine's write into a core's banks for an owner (R160, R253). -/
def State.enginePut (s : State) (g owner off : Nat) (bs : List Byte) : State :=
  ((bankSpan off bs.length).foldl (fun s b => s.retag g owner (b * 512)) s).localWrite g off bs

/-- The records of slab j for the rows of a mask, and whether one is in error (R247, R248, R259). -/
def State.panelRows (s : State) (g owner : Nat) (pan : Panel) (j : Nat) (rows : BitVec 32) : State × List (Nat × List Int) × Bool :=
  (rowsOf rows).foldl (fun (acc : State × List (Nat × List Int) × Bool) i =>
    let r := acc.1.engineGet g owner (pan.offset j i) (slabSize pan.p)
    (r.1, acc.2.1 ++ [(i, planeRow pan.p r.2.1)], acc.2.2 || r.2.2)) (s, [], false)

/-- Add slab j, multiplied by a buffer, to a tile with the exponents of a scale record (R259). A poisoned buffer or record adds no
term. -/
def State.addSlab (s : State) (cl t buf g owner : Nat) (pan : Panel) (j : Nat) (r : ScaleRec) : State :=
  let b := (s.engine cl).bufs.get {} buf
  let (s1, rows, bad) := s.panelRows g owner pan j ((s.engine cl).tile t).img.rows
  s1.onEngine cl (fun e => e.onTile t (fun x =>
    if b.poison || bad then { x with errc := 1 }
    else { x with img := rows.foldl (fun (img : TileImage) ir => img.addRow b.elems r ir.1 ir.2) x.img }))

/-- The macro-operation at the head of the compute queue is complete. -/
def MatrixEngine.pop (e : MatrixEngine) (t : Nat) : MatrixEngine := ({ e with computes := e.computes.drop 1 }).vacate t

/-- Replace the head of the compute queue. -/
def MatrixEngine.setHead (e : MatrixEngine) (o : MacroOp) : MatrixEngine := { e with computes := o :: e.computes.drop 1 }

/-- Run the plane-steps of a slab that have not run, a token each, unless one has to be waited for (R255). -/
def MatrixEngine.spend (e : MatrixEngine) (p clk : Nat) : Option MatrixEngine :=
  if e.bucket < 256 * (p - e.paid) then none else some { e.govStop clk with bucket := e.bucket - 256 * (p - e.paid), paid := 0 }

/-- The plane-steps for which there are tokens run; the next waits for one (R255, R263). -/
def MatrixEngine.lackTokens (e : MatrixEngine) (p clk : Nat) : MatrixEngine :=
  let n := e.bucket / 256
  { e with bucket := e.bucket - 256 * n, paid := e.paid + n, govWait := some ((e.govWait.map (·.1)).getD clk, p - e.paid - n) }

/-- A clk's tokens reach the bucket; a plane-step that waits for one runs, and the next of its slab waits from the next clk on (R255, R263). -/
def MatrixEngine.refill (e : MatrixEngine) (n clk : Nat) : MatrixEngine :=
  let e1 := { e with bucket := min 65536 (e.bucket + n) }
  match e.govWait with
  | some (t, left) =>
    if e1.bucket < 256 then e1
    else { e1 with
      bucket := e1.bucket - 256, paid := e1.paid + 1, gov := e1.gov + BitVec.ofNat 64 (clk - t),
      govWait := if left ≤ 1 then none else some (clk + 1, left - 1) }
  | none => e1

/-- The MACC at the head of the compute queue (R252, R255, R259). -/
def State.runMacc (s : State) (cl : Nat) : State :=
  let e := s.engine cl
  match e.computes with
  | [] => s
  | o :: _ =>
    match o.kind with
    | .macc t buf pan j =>
      if earlierOn e.loads o.seq buf then s
      else
        match (e.tile t).fifo with
        | [] => s.onEngine cl (fun e => e.setHead { o with since := some (o.since.getD s.clk) })
        | r :: rest =>
          match e.spend pan.p s.clk with
          | none => s.onEngine cl (fun e => e.lackTokens pan.p s.clk)
          | some e1 =>
            let s1 := s.onEngine cl (fun _ => e1.onTile t (fun x => { x with fifo := rest }))
            (s1.addSlab cl t buf o.core o.owner pan j r).onEngine cl (fun e => e.pop t)
    | _ => s

/-- MACC_EXECUTE (R259). -/
def execMaccExecute (cluster : Nat) (s : State) : Host.Outcome State Fault Refusal :=
  if hasCluster cluster then .next (s.runMacc cluster) else .fault .noUnit

/-- A MACC whose FIFO has stayed empty for 1,048,576 clk completes without a term (R259). -/
def MatrixEngine.timeout (e : MatrixEngine) (clk : Nat) : MatrixEngine :=
  match e.computes with
  | [] => e
  | o :: _ =>
    match o.kind, o.since with
    | .macc t _ _ _, some c =>
      if (e.tile t).fifo = [] ∧ c + 1048576 ≤ clk then (e.onTile t (fun x => { x with errc := 2 })).pop t else e
    | _, _ => e

/-- SCALE_FIFO_TIMEOUT (R259). -/
def execScaleFifoTimeout (cluster : Nat) (s : State) : Host.Outcome State Fault Refusal :=
  if hasCluster cluster then .next (s.onEngine cluster (fun e => e.timeout s.clk)) else .fault .noUnit

/-- Whether a later macro-operation of the queues opens the tile again. -/
def MatrixEngine.reopens (e : MatrixEngine) (t : Nat) : Bool :=
  (e.computes.drop 1 ++ e.offered).any (fun o => match o.kind with
    | .openTile u _ _ _ => decide (u = t)
    | _ => false)

/-- Close a tile (R257): its FIFO is emptied and it is unowned. A context that has already opened it again keeps it (log 25). -/
def MatrixEngine.closeTile (e : MatrixEngine) (t : Nat) : MatrixEngine :=
  e.onTile t (fun x => if e.reopens t then { x with fifo := [] } else { x with fifo := [], owner := none, leaving := false })

/-- What MREAD does to its tile with CLR and CLOSE (R261). -/
def MatrixEngine.afterRead (e : MatrixEngine) (t : Nat) (clr cls : Bool) : MatrixEngine :=
  let e1 := if clr then e.onTile t (fun x => { x with img := { x.img with pairs := [], ovf := false } }) else e
  if cls then e1.closeTile t else e1

/-- Write the rows of a tile as slab j of a panel (R261). -/
def State.writeRecords (s : State) (cl t g owner : Nat) (pan : Panel) (j : Nat) : State :=
  let img := ((s.engine cl).tile t).img
  (rowsOf img.rows).foldl (fun s i => s.enginePut g owner (pan.offset j i) (img.rowRecord pan.p i)) s

/-- Write the rows of a tile as elements of a type (R261). -/
def State.writeRows (s : State) (cl t g owner ty la stride : Nat) : State :=
  let img := ((s.engine cl).tile t).img
  (rowsOf img.rows).foldl (fun s i => s.enginePut g owner (la + i * stride) (img.rowBytes ty i)) s

/-- The MREAD at the head of the compute queue (R261). -/
def State.runMread (s : State) (cl : Nat) : State :=
  match (s.engine cl).computes with
  | [] => s
  | o :: _ =>
    match o.kind with
    | .mreadPln t pan j clr cls =>
      (s.writeRecords cl t o.core o.owner pan j).onEngine cl (fun e => (e.afterRead t clr cls).pop t)
    | .mread t ty la stride clr cls =>
      (s.writeRows cl t o.core o.owner ty la stride).onEngine cl (fun e => (e.afterRead t clr cls).pop t)
    | _ => s

/-- MREAD_EXECUTE (R261). -/
def execMreadExecute (cluster : Nat) (s : State) : Host.Outcome State Fault Refusal :=
  if hasCluster cluster then .next (s.runMread cluster) else .fault .noUnit

/-- The MSOFT at the head of the compute queue (R264). -/
def State.runMsoft (s : State) (cl : Nat) : State :=
  match (s.engine cl).computes with
  | [] => s
  | o :: _ =>
    match o.kind with
    | .msoft t ty la stride tau keys diag =>
      let img := ((s.engine cl).tile t).img
      let rows := (rowsOf img.rows).map (fun i => (i, img.softRow ty tau keys diag i))
      let put (s : State) (r : Nat × List Byte × List Byte × Bool) : State :=
        (s.enginePut o.core o.owner (la + r.1 * stride) r.2.1).enginePut o.core o.owner (la + 32 * stride + 8 * r.1) r.2.2.1
      let masked := (rows.filter (fun r => r.2.2.2)).foldl (fun a r => a + 2 ^ r.1) 0
      (rows.foldl put s).onEngine cl (fun e =>
        (e.onTile t (fun x => { x with masked := BitVec.ofNat 32 masked, smask := decide (masked ≠ 0) })).pop t)
    | _ => s

/-- MSOFT_EXECUTE (R264). -/
def execMsoftExecute (cluster : Nat) (s : State) : Host.Outcome State Fault Refusal :=
  if hasCluster cluster then .next (s.runMsoft cluster) else .fault .noUnit

/-- The MTILE macro-operation at the head of the compute queue (R257). -/
def MatrixEngine.runTile (e : MatrixEngine) : MatrixEngine :=
  match e.computes with
  | [] => e
  | o :: _ =>
    match o.kind with
    | .openTile t a b rows =>
      (e.onTile t (fun x => { x with
        fifo := [],
        img := { pairs := [], sigA := a, sigB := b, rows := rows, ovf := false }, errc := 0, smask := false, masked := 0 })).pop t
    | .save t slot tag => ({ e with slots := e.slots.set slot { img := (e.tile t).img, tag := tag, owner := o.owner } }).pop t
    | .restore t slot =>
      match e.slots.find slot with
      | some c => (e.onTile t (fun x => { x with img := c.img })).pop t
      | none => e.pop t
    | .close t => (e.closeTile t).pop t
    | _ => e

/-- MTILE_MACRO_OP (R257). -/
def execMtileMacroOp (cluster : Nat) (s : State) : Host.Outcome State Fault Refusal :=
  if hasCluster cluster then .next (s.onEngine cluster (·.runTile)) else .fault .noUnit

/-- ISSUE_GOVERNOR_TOKEN (R255): a clk's tokens reach every engine's bucket. -/
def execIssueGovernorToken (s : State) : Host.Outcome State Fault Refusal :=
  .next { s with matrix := s.matrix.map (fun (m : Nat × MatrixEngine) => (m.1, m.2.refill s.dev.mgov s.clk)) }

/-! ### Matrix-tile nodes (R265, R266, R521) -/

/-- Dword Ki of a node. -/
def SeqNode.kd (n : SeqNode) (i : Nat) : Word := n.words.getD (2 + i) 0
/-- The core that holds the panel and the output. -/
def SeqNode.core (n : SeqNode) (cl : Nat) : Nat := cl * 80 + field (n.kd 0) 32 7
/-- The A panel word. -/
def SeqNode.panelWord (n : SeqNode) : Word := BitVec.ofNat 64 (field (n.kd 0) 0 22)
/-- Number of slabs. -/
def SeqNode.slabs (n : SeqNode) : Nat := field (n.kd 3) 0 8
/-- Number of slab s. -/
def SeqNode.slab (n : SeqNode) (step : Nat) : Nat := field (n.kd 3) 8 8 + step
/-- Record TY. -/
def SeqNode.ty (n : SeqNode) : Nat := field (n.kd 3) 16 8
/-- Split tag of a reducing instance. -/
def SeqNode.tag (n : SeqNode) : Nat := field (n.kd 3) 24 8
/-- KMODE. -/
def SeqNode.kmode (n : SeqNode) : Nat := field (n.kd 5) 38 2
/-- SPLITN. -/
def SeqNode.splitn (n : SeqNode) : Nat := field (n.kd 5) 56 8
/-- Output TY. -/
def SeqNode.outTy (n : SeqNode) : Nat := field (n.kd 5) 32 6

/-- The operand checks of a node that need no access (R265, R521): the failing cause. -/
def SeqNode.check (n : SeqNode) : Option Nat :=
  let b := n.kd 1
  let stride := field (n.kd 3) 32 32
  let ctl := n.kd 5
  if b.toNat % 64 ≠ 0 ∨ (n.kd 4).toNat % 64 ≠ 0 then some 0x061
  else if 79 < field (n.kd 0) 32 7 ∨ n.slabs = 0 ∨ !([0, 1, 13].contains n.ty) ∨ stride % 64 ≠ 0 then some 0x121
  else if n.kmode < 2 ∧ (n.splitn ≠ 0 ∨ n.tag ≠ 0) then some 0x121
  else if 2 ≤ n.kmode ∧ n.splitn = 0 then some 0x121
  else if n.kmode = 1 ∧ (n.kd 2).toNat &&& (2 ^ 64 - 1 - (3 * 2 ^ 16 + 127 * 2 ^ 9 + 255 * 2 ^ 32)) ≠ 0 then some 0x121
  else if n.kmode ≠ 1 ∧ !([0, 1, 2, 8, 9, 10, 11, 12, 15].contains n.outTy) then some 0x121
  else if field ctl 7 8 = 255 ∨ field ctl 23 8 = 255 then some 0x122
  else none

/-- The sequencer's accesses (R265, R332, R333, R359). -/
def State.seqOp (s : State) (cl : Nat) (n : SeqNode) : EngineOp :=
  { id := 0, agent := clusterAgent 2 cl, l := n.p + 1, h := n.p, p := n.p, epoch := n.epoch, slot := n.slot, owner := n.owner,
    cluster := cl, racemode := 0x600 + boolWord (s.launch n.slot).rmode, pc := n.recAddr, stream := 0, core := none, xfail := n.xfail }

/-- Read one line for the sequencer; a line in error is read as it stands, with the machine check that it gives (R258, R515). -/
def State.seqLine (s : State) (o : EngineOp) (va : Nat) : State × LineGot × Option Nat :=
  let loc := (s.engineLocate o va false).2
  let base := match loc with
    | .mem key => if s.otherHolds o.id (key / 64) then s else s.settle none (key / 64)
    | _ => s
  let bad := match loc with
    | .mem key => if base.poison.contains (key / 64) then some (base.lineCheck (key / 64)) else none
    | _ => none
  match { base with poison := [] }.engineRead o va (List.range 8) with
  | (t, .fail 0x066) => ({ t with poison := base.poison }, .bytes (List.replicate 64 0), some 0x1F2)
  | (t, g) => ({ t with poison := base.poison }, g, bad)

/-- Read n lines in ascending address: the bytes, and the address and machine check of each one in error; else the state that waits for a page (what is read
again when it is present is dropped), or a failing cause. -/
def State.seqRead (s0 : State) (o : EngineOp) : Nat → Nat → State → Except (State × Option Nat) (State × List Byte × List (Nat × Nat))
  | 0, _, s => .ok (s, [], [])
  | n + 1, va, s =>
    match s.seqLine o va with
    | (s1, .bytes bs, bad) =>
      match State.seqRead s0 o n ((va + 64) % 2 ^ 64) s1 with
      | .ok (s2, r, b) => .ok (s2, bs ++ r, (bad.toList.map (fun c => (va, c))) ++ b)
      | .error x => .error x
    | (_, .pending, _) => .error ((s0.engineRead o va (List.range 8)).1, none)
    | (s1, .fail c, _) => .error (s1, some c)

/-- The tile of the sequencer becomes unowned, and no node instance runs on the engine. -/
def MatrixEngine.endNode (e : MatrixEngine) (n : SeqNode) (clk : Nat) : MatrixEngine :=
  let e := e.govStop clk
  let e1 := match n.tile with
    | some t => e.onTile t (fun x => { x with owner := none, fifo := [], leaving := false })
    | none => e
  { e1 with node := none, step := 0, out := none, paid := 0 }

/-- A node instance ends without completing (R265). -/
def State.loseNode (s : State) (cl : Nat) (n : SeqNode) : State := (s.onEngine cl (fun e => e.endNode n s.clk)).engineLost n.die n.ticket

/-- An operand check or a read of a node fails (R265). -/
def State.failNode (s : State) (cl : Nat) (n : SeqNode) (cause : Nat) : State :=
  (s.loseNode cl n).engineTrap n.slot cause false n.recAddr 0

/-- A node instance completes: its tile is closed, and it publishes its clock (R130, R265). -/
def State.endNode (s : State) (cl : Nat) (n : SeqNode) : State :=
  (s.onEngine cl (fun e => e.endNode n s.clk)).engineDone n.die n.ticket (n.p + 1)

/-- The lowest unowned tile. -/
def MatrixEngine.freeTile (e : MatrixEngine) : Option Nat := [0, 1, 2, 3].find? (fun t => (e.tile t).owner.isNone)

/-- Whether no macro-operation is under way. -/
def MatrixEngine.quiet (e : MatrixEngine) : Bool := e.loads.isEmpty && e.computes.isEmpty

/-- Begin a node instance: its checks, then the lowest unowned tile (R265). -/
def State.beginNode (s : State) (cl : Nat) (n : SeqNode) : State :=
  match n.check with
  | some c => s.failNode cl n c
  | none =>
    match (s.engine cl).freeTile with
    | none => s
    | some t =>
      let img : TileImage := { sigA := field (n.kd 5) 0 16, sigB := field (n.kd 5) 16 16, rows := n.rows }
      s.onEngine cl (fun e =>
        { e.onTile t (fun x => { x with
            img := img, owner := some .node, owned := n.slot, errc := 0, smask := false, masked := 0, fifo := [], leaving := false }) with
          node := some { n with tile := some t }, step := 0 })

/-- A scale record of 192 bytes (R265). -/
def scaleOf (bs : List Byte) : ScaleRec :=
  let h (i : Nat) : Int := intOf true 16 (natOfBytes ((bs.drop (2 * i)).take 2))
  { r := (List.range 32).map h, y := (List.range 64).map (fun c => h (32 + c)) }

/-- The machine checks of a block's lines in error (R258, R517); the syndrome of each is a free value (log 5). -/
def State.seqChecks (s : State) (cl slot : Nat) (bad : List (Nat × Nat)) : State :=
  bad.foldl (fun s b =>
    { s with free := s.free + 1 }.machineCheck (clusterAgent 2 cl) (some slot) b.2 b.1 (Config.freeValue s.free)) s

/-- One slab of a node instance (R265): the block and scale records are read, and the slab is added. -/
def State.nodeSlab (s : State) (cl : Nat) (n : SeqNode) (t : Nat) : State :=
  let e := s.engine cl
  let o := s.seqOp cl n
  let buf := e.step % 2
  let j := n.slab e.step
  let pan := panelOf n.panelWord
  let va := ((n.kd 1).toNat + e.step * field (n.kd 3) 32 32) % 2 ^ 64
  match e.spend pan.p s.clk with
  | none => s.onEngine cl (fun e => e.lackTokens pan.p s.clk)
  | some e1 =>
    match s.seqRead o (blockSize n.ty / 64) va s with
    | .error (t, none) => t
    | .error (t, some c) => t.failNode cl n c
    | .ok (s1, bs, bad) =>
      match s.seqRead o 3 (((n.kd 4).toNat + 192 * e.step) % 2 ^ 64) s1 with
      | .error (t, none) => t
      | .error (t, some c) => t.failNode cl n c
      | .ok (s2, sc, sbad) =>
        if sbad ≠ [] then s2.failNode cl n 0x066
        else
          match panelCheck (s2.core (n.core cl)) n.panelWord j n.rows false 0 with
          | some (c, _) => s2.failNode cl n c
          | none =>
            let s3 := s2.seqChecks cl n.slot bad
            let b : BBuffer := { loaded := true, elems := blockElems n.ty bs, poison := !bad.isEmpty, user := some n.owner }
            let fifo := (e.tile t).fifo ++ [scaleOf sc]
            let s4 := s3.onEngine cl (fun _ => { e1.onTile t (fun x => { x with fifo := fifo.drop 1 }) with
              bufs := e1.bufs.set buf b, step := e1.step + 1 })
            s4.addSlab cl t buf (n.core cl) n.owner pan j (fifo.headD { r := [], y := [] })

/-- The output of a node instance (R265): MREAD with CLOSE. -/
def State.nodeRead (s : State) (cl : Nat) (n : SeqNode) (t : Nat) : State :=
  let g := n.core cl
  let out := n.kd 2
  let core := s.core g
  if n.outTy = 15 then
    let j := field (n.kd 5) 40 8
    match panelCheck core out j n.rows false 0 with
    | some (c, _) => s.failNode cl n c
    | none => (s.writeRecords cl t g n.owner (panelOf out) j).endNode cl n
  else
    let st := field (n.kd 5) 40 16
    match outCheck core n.outTy out st false false 0 with
    | some (c, _) => s.failNode cl n c
    | none => (s.writeRows cl t g n.owner n.outTy (offOf out) st).endNode cl n

/-- What a contributing instance sends (R521). -/
def SeqNode.contribution (n : SeqNode) (img : TileImage) : Contribution :=
  let out := n.kd 2
  { dest := field out 16 2 * 128 + field out 9 7, tag := field out 32 8, slot := n.slot, epoch := n.epoch, rows := n.rows,
    pairs := (rowsOf n.rows).flatMap (fun i => (List.range 64).map (fun c => (64 * i + c, img.pairs.get accClear (64 * i + c)))), l := n.p + 1 }

/-- Add an arriving pair to a pair of a tile (R41). -/
def TileImage.addPair (t : TileImage) (i : Nat) (a : AccPair) : TileImage :=
  let r := accAdd (t.pairs.get accClear i) a.s a.e
  { t with pairs := t.pairs.set i r.1, ovf := t.ovf || r.2 }

/-- Add a contribution to a reducing instance's tile; rows outside its own are discarded (R521). -/
def TileImage.addPairs (t : TileImage) (c : Contribution) : TileImage :=
  (c.pairs.filter (fun p => t.rows.getLsbD (p.1 / 64))).foldl (fun t p => t.addPair p.1 p.2) t

/-- Save a node instance with its suspended launch (R266); only a contribution that was not accepted is sent again after the
resumption (R521). -/
def MatrixEngine.park (e : MatrixEngine) (n : SeqNode) (clk : Nat) : MatrixEngine :=
  let x := (n.tile.map (fun t => e.tile t)).getD {}
  let p : ParkedNode := { node := { n with sent := n.sent && e.out.isNone }, step := e.step, img := x.img, errc := x.errc, bufs := e.bufs }
  let e1 := e.endNode n clk
  { e1 with parked := e1.parked ++ [p] }

/-- Restore a saved node instance (R266): its tile is the lowest unowned one. -/
def MatrixEngine.unpark (e : MatrixEngine) (p : ParkedNode) : MatrixEngine :=
  let rest := e.parked.erase p
  match p.node.tile with
  | none => { e with node := some p.node, parked := rest, step := p.step }
  | some _ =>
    match e.freeTile with
    | none => e
    | some t =>
      { e.onTile t (fun x => { x with
          img := p.img, owner := some .node, owned := p.node.slot, errc := p.errc, smask := false, masked := 0, fifo := [],
          leaving := false }) with
        node := some { p.node with tile := some t }, parked := rest, step := p.step, bufs := p.bufs }

/-- The end of a node instance whose slabs are all added, by its KMODE (R265, R521): contributions are added in ascending package cluster
number (R44), and those of one engine in the order in which they came (DESIGN CHOICE, log 51). An instance that waits for another when its launch
has stopped ends without completing. -/
def State.nodeTail (s : State) (cl : Nat) (n : SeqNode) (t : Nat) : State :=
  let e := s.engine cl
  let running := decide ((s.launch n.slot).state = .running)
  if n.kmode = 0 then s.nodeRead cl n t
  else if n.kmode = 1 then
    if n.sent then (if e.out.isNone then s.endNode cl n else if running then s else s.loseNode cl n)
    else s.onEngine cl (fun e => { e with node := some { n with sent := true }, out := some (n.contribution (e.tile t).img) })
  else if n.held.length < n.splitn then (if running then s else s.loseNode cl n)
  else
    let cs := (n.held.insertionSort (fun a b => a.1 ≤ b.1)).map (·.2)
    (s.onEngine cl (fun e => e.onTile t (fun x => { x with img := cs.foldl (fun (i : TileImage) c => i.addPairs c) x.img }))).nodeRead cl n t

/-- The sequencer goes on (R265, R266): each event leaves it at a slab boundary. -/
def State.runNode (s : State) (cl : Nat) : State :=
  let e := s.engine cl
  if !e.quiet then s
  else
    match e.node with
    | none =>
      match e.parked.find? (fun p => !(s.launch p.node.slot).suspended) with
      | some p => s.onEngine cl (fun e => e.unpark p)
      | none => s
    | some n =>
      if (s.launch n.slot).suspended then s.onEngine cl (fun e => e.park n s.clk)
      else
        match n.tile with
        | none => s.beginNode cl n
        | some t => if e.step < n.slabs then s.nodeSlab cl n t else s.nodeTail cl n t

/-- MATRIX_NODE_RUN (R265). -/
def execMatrixNodeRun (cluster : Nat) (s : State) : Host.Outcome State Fault Refusal :=
  if hasCluster cluster then .next (s.runNode cluster) else .fault .noUnit

/-- Whether a reducing instance takes a contribution (R521). -/
def SeqNode.takes (n : SeqNode) (c : Contribution) (step : Nat) : Bool :=
  decide (2 ≤ n.kmode) && decide (n.slabs ≤ step) && n.tile.isSome && decide (n.slot = c.slot) && decide (n.epoch = c.epoch)
    && decide (n.tag = c.tag) && decide (n.held.length < n.splitn)

/-- A reducing instance accepts a contribution from a package cluster: its place in R44's order, and the contributor's clock (R521). -/
def SeqNode.accept (n : SeqNode) (src clk : Nat) (c : Contribution) : SeqNode :=
  { n with held := n.held ++ [(if n.kmode = 3 then src else clk * 512 + src, c)], p := max n.p (c.l - 1) }

/-- SPLITK_CONTRIBUTION (R521): the contribution that an engine sends reaches its destination, where it is accepted or refused. -/
def execSplitkContribution (src : Nat) (s : State) : Host.Outcome State Fault Refusal :=
  if hasCluster src then
    match (s.engine src).out with
    | none => .next s
    | some c =>
      let e := s.engine c.dest
      match e.node with
      | none => .next s
      | some n =>
        if n.takes c e.step then
          .next ((s.onEngine c.dest (fun e => { e with node := some (n.accept src s.clk c) })).onEngine src (fun e => { e with out := none }))
        else .next s
  else .fault .noUnit

/-! ### Copies (R297-R306) -/

/-- The copy engine takes the command at the head of a core's FIFO (R297). -/
def State.takeCopy (s : State) (g : Nat) : State :=
  match (s.core g).cpq with
  | [] => s
  | j :: r =>
    let s1 := s.onCore g (fun c => { c with cpq := r })
    { s1 with jobs := s1.jobs.set (clusterOf g) (s1.jobs.get [] (clusterOf g) ++ [j]) }

/-- The core of a cluster whose FIFO comes next in the rotation (R297): after the one taken from last, or from core 0 on. -/
def State.nextCopyCore (s : State) (cl : Nat) : Option Nat :=
  let last := s.rotor.get 79 cl
  ((List.range 80).map (fun i => (last + 1 + i) % 80)).find? (fun n => !(s.core (cl * 80 + n)).cpq.isEmpty)

/-- COPY_ENGINE_TAKE (R297): a request is taken from the core whose turn it is in the rotation; from another none is. -/
def execCopyEngineTake (core : Nat) (s : State) : Host.Outcome State Fault Refusal :=
  if hasCore core then
    let cl := clusterOf core
    .next (if s.nextCopyCore cl = some (core % 80) then { s.takeCopy core with rotor := s.rotor.set cl (core % 80) } else s)
  else .fault .noUnit

/-- Whether an issuer is a node instance. -/
def Issuer.isNode (i : Issuer) (die ticket : Nat) : Bool :=
  match i with
  | .node d t _ => decide (d = die) && decide (t = ticket)
  | .ctx _ _ => false

/-- The four words of a copy or near-memory node. -/
def PoolEntry.four (e : PoolEntry) : List Word := (e.words.drop 2).take 4

/-- A copy node at its issue point (R522): it acquires its entry's P and publishes the next clock, and runs under LCTL.RMODE. -/
def State.issueCopyNode (s : State) (cl : Nat) (i : Inst) : State :=
  let e := i.entry
  match copyCheck e.four 0 with
  | some (c, _) => (s.engineLost i.die i.ticket).engineTrap e.slot c false e.addr 0
  | none =>
    let l := s.launch e.slot
    let j : CopyJob := { id := s.fresh, words := e.four, issuer := .node i.die i.ticket e.addr, owner := l.owner, slot := e.slot,
                         epoch := e.epoch, stream := e.stream.getD 0, p := e.p + 1, racemode := 0x600 + boolWord l.rmode, pc := e.addr }
    let (s1, j1) := { s with fresh := s.fresh + 1 }.numberCopy cl j
    let (s2, j2) := s1.placeCopy cl j1
    { s2 with jobs := s2.jobs.set cl (s2.jobs.get [] cl ++ [j2]) }

/-- A near-memory node at its issue point (R313, R522). -/
def State.issueNearNode (s : State) (st : Nat) (i : Inst) : State :=
  let e := i.entry
  let l := s.launch e.slot
  let fail (s : State) (c : Nat) : State := (s.engineLost i.die i.ticket).engineTrap e.slot c false e.addr 0
  let mode : Word := 0x600 + boolWord l.rmode
  match nearCheck e.four 0 with
  | some (c, _) => fail s c
  | none =>
    let o : EngineOp := { id := 0, agent := unitAgent 3 st, l := e.p + 1, h := e.p, p := e.p + 1, epoch := e.epoch, slot := e.slot,
                          owner := l.owner, cluster := st * 64, racemode := mode, pc := e.addr, stream := e.stream.getD 0, core := none,
                          xfail := i.xfail }
    match s.nearKeys o e.four 0 with
    | (s1, .pending) => s1
    | (s1, .fail c _) => fail s1 c
    | (s1, .keys wk xk) =>
      let n : NearCmd := { id := s1.fresh, words := e.four, issuer := .node i.die i.ticket e.addr, owner := l.owner, slot := e.slot,
                           epoch := e.epoch, wkey := wk, xkey := xk, p := e.p + 1, racemode := mode, pc := e.addr, stream := e.stream.getD 0 }
      let (s2, n1) := { s1 with fresh := s1.fresh + 1 }.placeNear n
      { s2 with near := s2.near ++ [n1] }

/-- COPY_NODE_DISPATCH (R522): the first node instance dispatched to the unit and not yet issued. -/
def execCopyNodeDispatch (unit : NodeUnit) (s : State) : Host.Outcome State Fault Refusal :=
  match unit with
  | .copyEngine cl =>
    if !hasCluster cl then .fault .noUnit
    else
      match (s.caravan (cl / 128)).insts.find? (fun i => decide (i.entry.kind = 3) && decide (i.unit = cl)
          && !(s.jobs.get [] cl).any (fun j => j.issuer.isNode i.die i.ticket)) with
      | some i => .next (s.issueCopyNode cl i)
      | none => .next s
  | .nearMem st =>
    if 8 ≤ st then .fault .noUnit
    else
      match (s.caravan (st / 2)).insts.find? (fun i => decide (i.entry.kind = 7) && decide (i.unit = st)
          && !s.near.any (fun n => n.issuer.isNode i.die i.ticket)) with
      | some i => .next (s.issueNearNode st i)
      | none => .next s

/-- COPY_COMPLETE (R303). -/
def execCopyComplete (cluster : Nat) (s : State) : Host.Outcome State Fault Refusal :=
  if hasCluster cluster then .next (s.stepCopies cluster false) else .fault .noUnit

/-- COPY_STOP (R304). -/
def execCopyStop (cluster : Nat) (s : State) : Host.Outcome State Fault Refusal :=
  if hasCluster cluster then .next (s.stepCopies cluster true) else .fault .noUnit

/-- Whether a context's oldest sealed batch has no member left. -/
def Ctx.batchReady (c : Ctx) : Bool := (c.batches.head?.map (fun (b : Batch) => b.ops.isEmpty)).getD false

/-- The oldest sealed batch completes with the greatest P of its members and of the batch before (R305). -/
def Ctx.completeBatch (c : Ctx) : Ctx :=
  match c.batches with
  | [] => c
  | b :: r => { c with batches := r, done := b.num, doneP := max c.doneP b.p }

/-- BATCH_COMPLETE (R305), of the context or of the one parked in its place (R420). -/
def execBatchComplete (core ctx : Nat) (s : State) : Host.Outcome State Fault Refusal :=
  if !hasContext core ctx then .fault .noUnit
  else if (s.ctx core ctx).batchReady then .next (s.onCtx core ctx (·.completeBatch))
  else
    let c := (s.core core).other.get {} ctx
    .next (if c.batchReady then s.onCore core (fun x => { x with other := x.other.set ctx c.completeBatch }) else s)

/-! ### Posted writes (R307-R310) -/

/-- Apply the first posted write of a kind that has none to wait for, nor a bank of its own core that the matrix engine uses (R253). -/
def State.applyFirst (s : State) (g : Nat) (want : Posted → Bool) : State :=
  match firstReady (fun p => want p && !s.bankHeld g p) (s.heldBack g) (s.core g).inbox [] (s.core g).inbox with
  | some p => s.applyPosted g p
  | none => s

/-- DEST_ARITH_APPLY (R307). -/
def execDestArithApply (core : Nat) (s : State) : Host.Outcome State Fault Refusal :=
  if hasCore core then .next (s.applyFirst core (fun p => decide (p.kind ≠ .store))) else .fault .noUnit

/-- POSTED_WRITE_APPLY (R310). -/
def execPostedWriteApply (core : Nat) (s : State) : Host.Outcome State Fault Refusal :=
  if hasCore core then .next (s.applyFirst core (fun p => decide (p.kind = .store))) else .fault .noUnit

/-- POSTED_WRITE_ACK (R308). -/
def execPostedWriteAck (core entry : Nat) (s : State) : Host.Outcome State Fault Refusal :=
  if hasCore core && decide (entry < 32) then .next (s.ackEntry core entry) else .fault .noUnit

/-- POSTED_WRITE_REFUSAL (R309). -/
def execPostedWriteRefusal (core entry : Nat) (s : State) : Host.Outcome State Fault Refusal :=
  if hasCore core && decide (entry < 32) then .next (s.refuseEntry core entry) else .fault .noUnit

/-! ### Near-memory commands (R313, R314) -/

/-- NMC_EXECUTE (R313). -/
def execNmcExecute (stack : Nat) (s : State) : Host.Outcome State Fault Refusal :=
  if 8 ≤ stack then .fault .noUnit else .next (s.stepNear stack false)

/-- NMC_STOP (R314). -/
def execNmcStop (stack : Nat) (s : State) : Host.Outcome State Fault Refusal :=
  if 8 ≤ stack then .fault .noUnit else .next (s.stepNear stack true)

/-! ### Barrier objects and domains (R375, R384-R386) -/

/-- BARRIER_UPDATE (R375): the updates that wait at the object of the oldest one are applied in one clk, which is theirs (log 7). -/
def execBarrierUpdate (core : Nat) (s : State) : Host.Outcome State Fault Refusal :=
  if hasCore core then
    match (s.core core).barq with
    | [] => .next s
    | u :: _ => .next ((s.updateBar core u.off []).tick 1)
  else .fault .noUnit

/-- SYNC_BARRIER_COMPLETE (R384). -/
def execSyncBarrierComplete (dom : Nat) (s : State) : Host.Outcome State Fault Refusal :=
  if 64 ≤ dom then .fault .noUnit else .next (s.barrierComplete dom)

/-- EXCHANGE_SLOT_BEGIN (R384): the slot is a function of the clk since T0, so that nothing of the state changes. -/
def execExchangeSlotBegin (dom : Nat) (s : State) : Host.Outcome State Fault Refusal :=
  if 64 ≤ dom then .fault .noUnit else .next s

/-- EXCHANGE_PHASE_END (R385). -/
def execExchangePhaseEnd (dom : Nat) (s : State) : Host.Outcome State Fault Refusal :=
  if 64 ≤ dom then .fault .noUnit else .next (s.phaseEnd dom)

/-- XSEND_DELIVER (R386). -/
def execXsendDeliver (dom : Nat) (s : State) : Host.Outcome State Fault Refusal :=
  if 64 ≤ dom then .fault .noUnit
  else
    match (s.domainOf dom).sends with
    | [] => .next s
    | m :: _ => .next (s.deliverSend dom m)

end Sys2Proof.Machine
end

