-- ==== Sys2Proof/Machine/Sirocco.lean ====
section
/-! DEFINITION. Sirocco: coding trace records into frames, closing frames and writing them into the ring (R438-R440, R445), and
the link map's snapshots (R441, R442). -/
namespace Sys2Proof.Machine

/-! ### Coding a frame (R439) -/

/-- A number as a varint: 7 bits a byte, the lowest group first, in at most n bytes. -/
def varint : Nat → Nat → List Byte
  | 0, _ => []
  | n + 1, v => if v < 128 then [BitVec.ofNat 8 v] else BitVec.ofNat 8 (v % 128 + 128) :: varint n (v / 128)

/-- A 64-bit difference in zigzag form. -/
def zigzag (d : Word) : Nat := if d.msb then 2 * (2 ^ 64 - d.toNat) - 1 else 2 * d.toNat

/-- What the coder of a frame remembers: the previous TIME and core, each core's previous SSTEP, its previous payload of each
kind by core x 16 + kind, the dictionary and the literals so far. -/
structure FrameCoder where
  time : Nat
  core : Option Nat := none
  sst  : Table Nat := []
  pays : Table Word := []
  dict : Table Word := []
  lits : Nat := 0
  deriving DecidableEq, Repr

/-- The codings of a payload: PCODE and bytes; PCODE 2 needs a previous payload of the kind. -/
def FrameCoder.payloads (f : FrameCoder) (g kind : Nat) (p : Word) : List (Nat × List Byte) :=
  (if p = 0 then [(0, [])] else [])
    ++ (match (List.range 16).find? (fun i => f.dict.find i = some p) with
        | some i => [(1, [BitVec.ofNat 8 i])]
        | none => [])
    ++ (match (f.sst.find g).bind (fun _ => f.pays.find (g * 16 + kind)) with
        | some q => [(2, varint 10 (zigzag (p - q)))]
        | none => [])
    ++ [(3, bytesOfNat 8 p.toNat)]

/-- The shortest coding, the first of equal length. -/
def shortest : List (Nat × List Byte) → Nat × List Byte
  | [] => (3, [])
  | [x] => x
  | x :: r => let y := shortest r; if y.2.length < x.2.length then y else x

/-- Code one record of a core. -/
def FrameCoder.code (f : FrameCoder) (g : Nat) (d0 d1 : Word) : FrameCoder × List Byte :=
  let kind := d0.toNat / 2 ^ 60
  let sst := d0.toNat / 2 ^ 40 % 65536
  let time := d0.toNat % 2 ^ 40
  let newCore := f.core ≠ some g
  let ss := f.sst.find g ≠ some sst
  let (pc, pay) := shortest (f.payloads g kind d1)
  let lit := pc = 3
  ({ time := time, core := some g, sst := f.sst.set g sst, pays := f.pays.set (g * 16 + kind) d1,
     dict := if lit then f.dict.set (f.lits % 16) d1 else f.dict, lits := if lit then f.lits + 1 else f.lits },
   BitVec.ofNat 8 (kind * 16 + (if newCore then 8 else 0) + pc) :: (if newCore then bytesOfNat 2 g else [])
     ++ [BitVec.ofNat 8 (d0.toNat / 2 ^ 56 % 16 + if ss then 16 else 0)] ++ (if ss then bytesOfNat 2 sst else [])
     ++ varint 6 ((time + 2 ^ 40 - f.time) % 2 ^ 40) ++ pay)

/-- The coded records of a frame. -/
def codeRecords (recs : List (Nat × Word × Word)) : List Byte :=
  match recs with
  | [] => []
  | r :: _ => (recs.foldl (fun (acc : FrameCoder × List Byte) x =>
      let (f, bs) := acc.1.code x.1 x.2.1 x.2.2
      (f, acc.2 ++ bs)) ({ time := r.2.1.toNat % 2 ^ 40 }, [])).2

/-- A frame of 4 KiB. -/
def frameBytes (seq owner : Nat) (recs : List (Nat × Word × Word)) : List Byte :=
  let t0 := (recs.head?.map (fun r => r.2.1.toNat % 2 ^ 40)).getD 0
  let body := codeRecords recs
  dwordBytes [BitVec.ofNat 64 seq, BitVec.ofNat 64 t0, BitVec.ofNat 64 (recs.length % 65536 * 65536 + owner % 64), 0, 0, 0, 0, 0]
    ++ body ++ List.replicate (4032 - body.length) 0

/-! ### Frames and the ring (R438-R440) -/

/-- A die's Sirocco. -/
def State.siroccoOf (s : State) (die : Nat) : Sirocco := s.sirocco.get {} die
/-- Write a die's Sirocco. -/
def State.setSirocco (s : State) (die : Nat) (x : Sirocco) : State := { s with sirocco := s.sirocco.set die x }

/-- Ring base. -/
def Sirocco.ring (x : Sirocco) : Nat := x.base.toNat / 4096 % 2 ^ 44 * 4096
/-- Frames that the ring holds. -/
def Sirocco.frames (x : Sirocco) : Nat := 2 ^ (x.base.toNat % 16)

/-- Store whole lines of HBM4E that take no part in the order (R438, R442), under an owner's key (R104); their poison ends (R516). -/
def State.storeRaw (s : State) (owner pa : Nat) (bs : List Byte) : State :=
  let first := hbmKey pa / 64
  let n := bs.length / 64
  let s1 := (List.range n).foldl (fun s i => s.settle none (first + i)) s
  { s1 with
    mem := s1.mem.putBytes (hbmKey pa) bs, keyed := (List.range n).foldl (fun t i => t.set (first + i) [(owner, BitVec.allOnes 64)]) s1.keyed,
    poison := s1.poison.filter (fun l => !(decide (first ≤ l) && decide (l < first + n))) }

/-- The open frame of a die closes: it is written, or dropped where the ring is full (R440); a Sirocco that is disabled writes none. -/
def State.closeFrame (s : State) (die : Nat) : State :=
  let x := s.siroccoOf die
  if x.recs = [] then s
  else if x.ring = 0 then s.setSirocco die { x with recs := [] }
  else
    let y : Sirocco := { x with recs := [], seq := x.seq + 1 }
    if (x.tail + 65536 - x.head) % 65536 = x.frames then s.setSirocco die { y with drop := x.drop + 1 }
    else
      (s.setSirocco die { y with tail := (x.tail + 1) % 65536 }).storeRaw x.owner (x.ring + 4096 * (x.tail % x.frames))
        (frameBytes x.seq x.owner x.recs)

/-- Put a record into the open frame, or into a new one (R439). -/
def State.frameRecord (s : State) (die owner : Nat) (r : Nat × Word × Word) : State :=
  let x := s.siroccoOf die
  let fits := decide ((codeRecords (x.recs ++ [r])).length ≤ 4032) && decide (x.owner = owner) && decide (s.clk < x.since + 65536)
  let s1 := if fits then s else s.closeFrame die
  let y := s1.siroccoOf die
  s1.setSirocco die (if y.recs = [] then { y with owner := owner, since := s.clk, recs := [r] } else { y with recs := y.recs ++ [r] })

/-- Sirocco copies the oldest record that a core has for it (R438). A base of 0 disables it. -/
def State.copyRecord (s : State) (g : Nat) : State :=
  let t := (s.core g).trace
  if (s.siroccoOf (dieOf g)).ring = 0 then s
  else
    match t.left, t.todo with
    | (owner, d) :: rest, _ =>
      (s.onCore g (fun c => { c with trace := { c.trace with left := rest } })).frameRecord (dieOf g) owner (g, d.1, d.2)
    | [], [] => s
    | [], n :: rest =>
      let d := t.recs.get (0, 0) (n % 256)
      (s.onCore g (fun c => { c with trace := { c.trace with todo := rest } })).frameRecord (dieOf g) (t.owners.get 0 (n % 256)) (g, d.1, d.2)

/-- SIROCCO_RECORD_COPY (R438). -/
def execSiroccoRecordCopy (core : Nat) (s : State) : Host.Outcome State Fault Refusal :=
  if !hasContext core 0 then .fault .noUnit else .next (s.copyRecord core)

/-- SIROCCO_FRAME_CLOSE (R439): the frame has been open for 65,536 clk. -/
def execSiroccoFrameClose (die : Nat) (s : State) : Host.Outcome State Fault Refusal :=
  if 4 ≤ die then .fault .noUnit
  else .next (if (s.siroccoOf die).since + 65536 ≤ s.clk then s.closeFrame die else s)

/-- Drain the trace of a cluster before it is gated (R445): its cores' records are copied and the open frame is written or
dropped where it holds some. -/
def State.drainTrace (s : State) (cl : Nat) : State :=
  let copyAll (s : State) (g : Nat) : State := (List.range ((s.core g).trace.left.length + (s.core g).trace.todo.length)).foldl (fun s _ => s.copyRecord g) s
  let s1 := (clusterCores cl).foldl copyAll s
  if (s1.siroccoOf (cl / 128)).recs.any (fun r => clusterOf r.1 = cl) then s1.closeFrame (cl / 128) else s1

/-! ### The link map (R441, R442) -/

/-- Whether a router port of a package cluster has a link: ports 0-3 east, west, south and north on the 32 x 16 mesh, 4 and 5 the
cluster's own (R14, R441). -/
def portLinked (cl port : Nat) : Bool :=
  let x := cl / 128 % 2 * 16 + cl % 128 % 16
  let y := cl / 256 * 8 + cl % 128 / 16
  match port with
  | 0 => decide (x < 31)
  | 1 => decide (0 < x)
  | 2 => decide (y < 15)
  | 3 => decide (0 < y)
  | _ => true

/-- A cluster's entry of a snapshot: the counts of the linked ports are free values, the n-th on (log 7). -/
def mapEntry (cl n : Nat) : List Byte :=
  (List.range 24).flatMap (fun i =>
    bytesOfNat 8 (if portLinked cl (i / 4) then (Config.freeValue (n + i)).toNat else 0)) ++ List.replicate 64 0

/-- Base of the snapshot ring (R442). -/
def Device.mapBase (d : Device) : Nat := d.lmbase.toNat / 2 ^ 17 % 2 ^ 39 * 2 ^ 17

/-- LINK_MAP_SNAPSHOT (R441, R442): once for every 2^20 clk. -/
def execLinkMapSnapshot (s : State) : Host.Outcome State Fault Refusal :=
  if s.clk / 2 ^ 20 ≤ s.dev.lmtaken then .next s
  else
    let d := s.dev
    let s1 := { s with dev := { d with lmseq := d.lmseq + 1, lmtaken := d.lmtaken + 1 } }
    if d.mapBase = 0 ∨ !(s.owner d.lmowner).loaded then .next s1
    else
      let base := d.mapBase + 0x20000 * (d.lmseq.toNat % 2 ^ d.lmlog)
      let bytes := (List.range 512).flatMap (fun cl => mapEntry cl (s.free + 24 * cl))
      .next ({ s1 with free := s.free + 12288 }.storeRaw d.lmowner base bytes)

end Sys2Proof.Machine
end

