-- ==== Sys2Proof/Machine/PowerEvents.lean ====
section
/-! DEFINITION. Power states and gating (R511-R513), the thermal trip (R514), storage errors (R515-R517), machine checks of units
(R407) and lifetime counters (R518). -/
namespace Sys2Proof.Machine

/-! ### Gating (R513) -/

/-- A context that keeps its cluster from being gated: one that is parked or resident. An idle control context has neither PC nor registers
that are in use (R520), and is not counted (log 28). -/
def Ctx.atWork (c : Ctx) : Bool := c.parked || (c.live && c.resident)

/-- Whether a core keeps its cluster from being gated. -/
def Core.atWork (c : Core) : Bool :=
  ctxNumbers.any (fun k => (c.ctx k).atWork) || !c.other.isEmpty || !c.cpq.isEmpty || c.frames.any (fun f => f.2 ≠ .free)

/-- Whether a package cluster may not be gated (R513). -/
def State.clusterBusy (s : State) (cl : Nat) : Bool :=
  let e := s.engine cl
  (clusterCores cl).any (fun g => (s.core g).atWork)
    || e.node.isSome || !e.parked.isEmpty || !e.offered.isEmpty || !e.loads.isEmpty || !e.computes.isEmpty
    || !(s.jobs.get [] cl).isEmpty || decide (0 < (s.caravan (cl / 128)).queuedOn 3 cl) || !(s.moves.get [] cl).isEmpty

/-- Write back what a core holds for its homes. -/
def State.flushCore (s : State) (g : Nat) : State :=
  let s1 := ((s.core g).cway.filter (·.dirty)).foldl (fun s l => s.writeBack g l) s
  (s1.core g).wlq.foldl (fun s e => (s.acceptEntry g e).onCore g (fun c => { c with wlq := c.wlq.drop 1 })) s1

/-- A core as module reset leaves it; writes on their way to it, Erg frames and the context images stay (R513, log 28). -/
def Core.gatedOff (c : Core) : Core := { inbox := c.inbox, frames := c.frames, tframes := c.tframes }

/-- Gate a package cluster (R513): drain the trace, write back, discard local memory and the instruction cache. -/
def State.gateCluster (s : State) (cl : Nat) : State :=
  let s1 := (clusterCores cl).foldl (fun s g => s.flushCore g) (s.drainTrace cl)
  let lo := localKey (cl * 80) 0
  let s2 := (clusterCores cl).foldl (fun s g => s.onCore g Core.gatedOff) s1
  { s2 with
    mem := s2.mem.zero lo (80 * 65536),
    lmPoison := s2.lmPoison.filter (fun w => !(decide (lo ≤ 4 * w) && decide (4 * w < lo + 80 * 65536))),
    icache := s2.icache.drop cl, matrix := s2.matrix.drop cl, tlbs := s2.tlbs.drop cl,
    dev := { s2.dev with
      gated := if s2.dev.gated.contains cl then s2.dev.gated else cl :: s2.dev.gated,
      icBad := s2.dev.icBad.filter (fun b => b.1 ≠ cl) } }

/-- Gate every package cluster that is not gated (R512, R514). -/
def State.gateAll (s : State) : State :=
  (List.range Config.clusterCount).foldl (fun s cl => if s.dev.gated.contains cl then s else s.gateCluster cl) s

/-- The dispatch to a cluster that can be taken in this clk, which comes before a gate request (R118, R513). -/
def State.dispatchFirst (s : State) (cl : Nat) : State :=
  let die := cl / 128
  let takes (cls : UnitClass) : State := if cls = .cores then s.dispatchCores die else s.dispatchUnit die cls
  (([UnitClass.cores, .matrix, .copy].map takes).find? (fun t => t.clusterBusy cl)).getD s

/-- A CGATE bit turns to 1 or to 0 (R513). -/
def State.cgateRequest (s : State) (cl : Nat) (gate : Bool) : State :=
  let d := s.dev
  if gate then
    if d.cgate.contains cl then s
    else if !d.gated.contains cl && s.clusterBusy cl then { s with dev := { d with cgerr := true } }
    else if !d.gated.contains cl && (s.dispatchFirst cl).clusterBusy cl then
      let s1 := s.dispatchFirst cl
      { s1 with dev := { s1.dev with cgerr := true } }
    else
      let s1 := { s with dev := { d with cgate := cl :: d.cgate } }
      if d.gated.contains cl then s1 else s1.gateCluster cl
  else { s with dev := { d with cgate := d.cgate.filter (· ≠ cl) } }

/-- CGATE_REQUEST (R513). -/
def execCgateRequest (cluster : Nat) (gate : Bool) (s : State) : Host.Outcome State Fault Refusal :=
  if Config.clusterCount ≤ cluster then .fault .noUnit else .next (s.cgateRequest cluster gate)

/-- The module state in which the part behaves (R512, R514). -/
def Device.power (d : Device) : Nat := if d.tripped then 2 else d.pwrCur

/-- CLUSTER_UNGATE_DONE (R513): the cores are up in their module-reset state. -/
def execClusterUngateDone (cluster : Nat) (s : State) : Host.Outcome State Fault Refusal :=
  if Config.clusterCount ≤ cluster then .fault .noUnit
  else
    let d := s.dev
    if d.power ≠ 0 ∨ d.cgate.contains cluster then .next s
    else .next { s with dev := { d with gated := d.gated.filter (· ≠ cluster) } }

/-! ### Module states (R512) -/

/-- Whether every launch slot is idle, done, error or stopped, and none is suspended. -/
def State.quiescent (s : State) : Bool :=
  s.launches.all (fun l => !(decide (l.2.state = .running) || decide (l.2.state = .stopping)) && !l.2.suspended)

/-- Ask for a module state (R512). A refused request leaves TARGET as it was, for the spec does not say what it then reads (log 42). -/
def State.askPower (s : State) (target : Nat) : State :=
  let d := s.dev
  if target = d.pwrCur then s
  else if target = 3 ∨ (target ≠ 0 ∧ !s.quiescent) then { s with dev := { d with pwrErr := true } }
  else { s with dev := { d with pwrTarget := target, pwrBusy := true, pwrErr := false } }

/-- A write of PWRCTL.TARGET (R512, R514). -/
def State.setTarget (s : State) (target : Nat) : State :=
  let d := s.dev
  if d.tripped then
    if target = 0 ∧ d.tj ≤ (d.trip - 10) * 8 then { s with dev := { d with tripped := false } }.askPower 0 else s
  else s.askPower target

/-- PWRCTL_TARGET (R512). -/
def execPwrctlTarget (target : BitVec 2) (s : State) : Host.Outcome State Fault Refusal := .next (s.setTarget target.toNat)

/-- POWER_TRANSITION_DONE (R512): states 1 and 2 gate every cluster; a launch that started meanwhile delays them (log 28). -/
def execPowerTransitionDone (s : State) : Host.Outcome State Fault Refusal :=
  let d := s.dev
  if !d.pwrBusy || (decide (d.pwrTarget ≠ 0) && !s.quiescent) then .next s
  else
    let s1 := if d.pwrTarget = 0 then s else s.gateAll
    .next ({ s1 with dev := { s1.dev with pwrCur := d.pwrTarget, pwrBusy := false } }.send 67)

/-! ### The thermal trip (R514) -/

/-- THERMAL_WARN (R514). -/
def execThermalWarn (tj : BitVec 16) (s : State) : Host.Outcome State Fault Refusal :=
  let s1 := { s with dev := { s.dev with tj := tj.toNat } }
  .next (if s.dev.warn * 8 ≤ tj.toNat then { s1 with dev := { s1.dev with warned := true } }.send 67 else s1)

/-- End a launch at a trip (R514): its pool entries, instances and contexts are gone, its streams admitted. -/
def State.tripLaunch (s : State) (slot : Nat) : State :=
  let l := s.launch slot
  let id := (slot, l.epoch)
  let s1 := s.purge slot
  let insts := [0, 1, 2, 3].flatMap (fun d => ((s1.caravan d).insts.filter (fun i => i.entry.slot = slot)).map (fun i => (d, i)))
  let s2 := insts.foldl (fun s di => (di.2.rows.foldl (fun s r => s.readmit r) ((s.dropInst di.1 di.2.id).readmit di.2.entry.stream))) s1
  let s3 := (s2.coresServing id).foldl (fun s g => (s.discardCore g).discardShelf id g) s2
  s3.endLaunch slot 0x15 .error (s.clk - l.start) l.comp l.irqen

/-- A page whose move is cut off by a trip stays where it was (log 28). -/
def State.cutMove (s : State) (m : PageMove) : State :=
  let d := s.page m.page
  let s1 := match m.dest with
    | .erg g f => s.onCore g (fun c => { c with frames := c.frames.set f .free })
    | .xm _ => s.onOwner d.owner (fun o => { o with xmUsed := o.xmUsed - 1 })
    | _ => s
  let s2 := s1.setPage m.page { d with loc := m.src }
  if d.refcnt = 0 then s2.freePage m.page else s2

/-- Everything that units have under way is stopped, and write-lane data not yet accepted is lost (R514). -/
def State.haltUnits (s : State) : State :=
  let stop (c : Core) : Core := { c with wlq := [], cway := c.cway.filter (fun l => !l.dirty), cpq := [], barq := [], inbox := [] }
  let s := (s.moves.flatMap (·.2)).foldl (fun s m => s.cutMove m) s
  { s with
    cores := s.cores.map (fun (e : Nat × Core) => (e.1, stop e.2)),
    lines := s.lines.map (fun (e : Nat × LineHome) => (e.1, { e.2 with held := none, queue := [] })),
    jobs := [], near := [], moves := [], replay := [],
    matrix := s.matrix.map (fun (e : Nat × MatrixEngine) =>
      (e.1, ({ e.2 with node := none, parked := [], offered := [], loads := [], computes := [], out := none } : MatrixEngine))),
    samplers := s.samplers.map (fun (e : Nat × Sampler) => (e.1, { e.2 with ctxs := [] })) }

/-- Bring the lifetime counters to flash (R518). -/
def State.saveLife (s : State) : State := { s with dev := { s.dev with flash := s.dev.life } }

/-- Send vector 65 for the trip, unless its log entry did (R514, R517). -/
def State.tripVector (s : State) : State := if s.dev.mccount = 0 ∧ s.dev.mcbase.toNat / 4096 ≠ 0 then s else s.send 65

/-- The trip (R514); the part then is as in state 2, every cluster gated (R512). Its log entry's agent, address and detail are free values (log 5). -/
def State.trip (s : State) : State :=
  let active := (List.range 64).filter (fun n =>
    decide ((s.launch n).state = .running) || decide ((s.launch n).state = .stopping) || (s.launch n).suspended)
  let s1 := (active.foldl (fun s n => s.tripLaunch n) s.haltUnits).gateAll
  let s2 := { s1 with dev := { s1.dev with tripped := true, pwrBusy := false }, free := s1.free + 3 }
  ((((s2.tripVector).machineCheck (freeAgent s1.free) none 0x1F6 (Config.freeValue (s1.free + 1)).toNat
    (Config.freeValue (s1.free + 2))).send 67).countLife 70 1).saveLife

/-- THERMAL_TRIP (R514). -/
def execThermalTrip (tj : BitVec 16) (s : State) : Host.Outcome State Fault Refusal :=
  let s1 := { s with dev := { s.dev with tj := tj.toNat } }
  .next (if s.dev.trip * 8 ≤ tj.toNat ∧ !s.dev.tripped then s1.trip else s1)

/-! ### Storage errors (R515) -/

/-- Kind of a site in R518's order. -/
def siteKind : ErrorSite → Nat
  | .localWord _ _ | .regImage _ _ => 0
  | .icache _ => 1
  | .homeMeta _ => 2
  | .hbm _ => 3
  | .xm _ => 4

/-- Whether the part has the storage that a site names. -/
def siteOk : ErrorSite → Bool
  | .localWord g off => decide (g < Config.coreCount) && decide (off < 65536)
  | .regImage g k => hasContext g k
  | .icache cl => decide (cl < Config.clusterCount)
  | _ => true

/-- Count a storage error (R518). -/
def State.countSite (s : State) (site : ErrorSite) (correctable : Bool) : State :=
  let n := if correctable then 0 else 1
  let s1 := s.countLife (2 * siteKind site + n) 1
  match site with
  | .hbm line => s1.countLife (16 + 2 * (s.homeCluster line / 64) + n) 1
  | _ => s1

/-- Log a memory error of a line: the spec names no agent for it, a free value (log 5). -/
def State.logLine (s : State) (cause line : Nat) (syndrome : Word) : State :=
  { s with free := s.free + 1 }.machineCheck (freeAgent s.free) none cause (line * 64 % space) syndrome

/-- An uncorrectable error in a word of local memory (R515): in a CWAY bank it lies in the core's newest copy, in a PAGE bank in the frame's
page, whose line is poisoned (log 29). -/
def State.localError (s : State) (g off : Nat) : State :=
  let c := s.core g
  match c.mode (bankOf off) with
  | 1 =>
    match c.cway.getLast? with
    | some l => s.onCore g (fun c => { c with cway := c.cway.dropLast ++ [{ l with bad := some off }] })
    | none => s
  | 3 =>
    match c.frames.get .free (off / 4096) with
    | .page id =>
      let line := pageKey id (off % 4096) / 64
      { s with poison := if s.poison.contains line then s.poison else line :: s.poison }
    | _ => s
  | _ => if s.lmPoison.contains (localKey g off / 4) then s else { s with lmPoison := (localKey g off / 4) :: s.lmPoison }

/-- What an error does at its site (R515). The error of an instruction cache is taken to lie in its newest block (log 29). -/
def State.siteError (s : State) (site : ErrorSite) (correctable : Bool) (syndrome : Word) : State :=
  match site with
  | .icache cl =>
    match s.icache.get [] cl with
    | [] => s
    | b :: r =>
      if correctable then { s with icache := s.icache.set cl r }
      else { s with dev := { s.dev with icBad := (cl, b.owner, b.key) :: s.dev.icBad } }
  | .localWord g off => if correctable then s else s.localError g off
  | .regImage g k => if correctable then s else s.onCtx g k (fun c => { c with poisoned := true })
  | .homeMeta line =>
    if correctable then s
    else
      ({ s with
        lines := s.lines.set line { s.line line with md := none },
        metaUse := s.metaUse.filter (· ≠ line) }).logLine 0x1F2 line syndrome
  | .hbm line =>
    if correctable then s
    else ({ s with poison := if s.poison.contains line then s.poison else line :: s.poison }).logLine 0x1F0 line syndrome
  | .xm line =>
    if correctable then s
    else ({ s with poison := if s.poison.contains line then s.poison else line :: s.poison }).logLine 0x1F1 line syndrome

/-- STORAGE_ERROR (R515). -/
def execStorageError (site : ErrorSite) (correctable : Bool) (syndrome : BitVec 64) (s : State) : Host.Outcome State Fault Refusal :=
  if !siteOk site then .fault .noUnit else .next ((s.countSite site correctable).siteError site correctable syndrome)

/-! ### Machine checks of units (R407, R516) -/

/-- The agent of a unit (R21). -/
def unitId : EngineUnit → BitVec 24
  | .copyEngine cl => clusterAgent 1 cl
  | .matrix cl => clusterAgent 2 cl
  | .nearMem st => unitAgent 3 st
  | .sampler d => unitAgent 4 d
  | .wadi d => unitAgent 5 d

/-- Whether the part has a unit. -/
def unitExists : EngineUnit → Bool
  | .copyEngine cl | .matrix cl => decide (cl < Config.clusterCount)
  | .nearMem st => decide (st < 8)
  | .sampler d | .wadi d => decide (d < 4)

/-- The launch slots that a unit serves: those of the operations that it has, whatever the contexts that began them do now (R407). -/
def State.servedBy (s : State) (u : EngineUnit) : List Nat :=
  let ofOp (o : MacroOp) : List Nat := (o.launch.toList.filter (fun l => decide ((s.launch l.1).epoch = l.2))).map (·.1)
  let slots : List Nat := match u with
    | .copyEngine cl => (s.jobs.get [] cl).map (·.slot)
    | .matrix cl =>
      let e := s.engine cl
      (e.node.map (·.slot)).toList ++ (e.offered ++ e.loads ++ e.computes).flatMap ofOp
    | .nearMem st => (s.near.filter (fun n => stackOf n.wkey = st)).map (·.slot)
    | .sampler d => (s.sampler d).ctxs.map (fun c => c.2.entry.slot)
    | .wadi d => (s.groups.filter (fun g => decide (g.1 / 1024 = d) && decide (g.2.state = .opened))).map (fun g => g.2.slot)
  slots.dedup

/-- UNIT_MACHINE_CHECK (R407): the entry names the first launch that the unit serves; each of them ends. Its address is a free
value (log 5). -/
def execUnitMachineCheck (unit : EngineUnit) (detail : BitVec 64) (s : State) : Host.Outcome State Fault Refusal :=
  if !unitExists unit then .fault .noUnit
  else
    let slots := s.servedBy unit
    let s1 := { s with free := s.free + 1 }.machineCheck (unitId unit) slots.head? 0x1F4 (Config.freeValue s.free).toNat detail
    .next (slots.foldl (fun s n => s.stopLaunch n 0x15 .error) s1)

/-! ### Lifetime counters (R518) -/

/-- FLASH_COUNTER_UPDATE (R518): an hour has passed at the present TJ. -/
def execFlashCounterUpdate (s : State) : Host.Outcome State Fault Refusal :=
  let t := s.dev.tj / 8
  .next ((if 40 ≤ t then s.countLife (54 + min 15 ((t - 40) / 5)) 1 else s).saveLife)

/-- Mailbox command 0x0001 (R518). In recovery the mailbox takes only a firmware image (R103). -/
def State.readCounters (s : State) : State :=
  if s.dev.recovery then s
  else { s with dev := { s.dev with mbox := (List.range 73).map (fun i => (i, BitVec.ofNat 64 (s.dev.life.get 0 i))), mbstat := 1 } }.send 66

/-- MBCMD_READ_COUNTERS (R518). -/
def execMbcmdReadCounters (s : State) : Host.Outcome State Fault Refusal := .next s.readCounters

end Sys2Proof.Machine
end

