-- ==== Sys2Proof/Machine/HostEvents.lean ====
section
/-! DEFINITION. What the host and Ibpilith do: launch slots (R108-R110, R347), translation answers (R113), clocks (R362), slot
tables (R279), boot (R103), owners (R104), attestation (R106), registers (R100-R102) and host memory accesses (R102, R111, R334,
R353). -/
namespace Sys2Proof.Machine

/-! ### Launch slots (R109, R110) -/

/-- Whether a launch is accepted: READY and module state 0 (R109, R512). -/
def Device.accepts (d : Device) : Bool := d.ready && decide (d.power = 0)

/-- Reserved or misaligned bits of a slot's registers (R110). -/
def Launch.regsBad (l : Launch) : Bool :=
  decide (l.lgraph.toNat / 2 ^ 56 ≠ 0) || decide (l.lgraph.toNat % 64 ≠ 0) || decide (l.lcomp.toNat % 16 ≠ 0) || decide (l.lstage.toNat % 64 ≠ 0)

/-- Drop an owner's cached translations and cached code, with the errors in it, at a launch start (R174, R183). -/
def State.dropCaches (s : State) (owner : Nat) : State :=
  { s with
    tlbs := s.tlbs.map (fun (e : Nat × List Tlb) => (e.1, e.2.filter (fun t => t.owner ≠ owner))),
    icache := s.icache.map (fun (e : Nat × List CodeBlock) => (e.1, e.2.filter (fun b => b.owner ≠ owner))),
    dev := { s.dev with icBad := s.dev.icBad.filter (fun b => b.2.1 ≠ owner) } }

/-- The registers of a slot as its start latches them, with the epoch given (R110). -/
def Launch.latched (l : Launch) (epoch clk host : Nat) : Launch :=
  { l with
    graph := l.lgraph, owner := l.lctl.toNat % 64, rmode := l.lctl.getLsbD 7, irqen := l.lctl.getLsbD 6, comp := l.lcomp,
    stage := l.lstage, vals := l.params, epoch := epoch, ecode := 0, enode := 0xFFFF, state := .running, start := clk,
    hostP := host, nodes := 0, left := [], loops := [], ps := [], edges := [{ src := 0, node := 0, p := host }],
    stopAs := .stopped, suspended := false, share := false, tag := 0, waits := [], utcause := 0, utepc := 0, utval := 0 }

/-- Start a launch, or end it at once (R110): its roots carry the host clock (R347), which moves past it, so that a host write still
outstanding takes a later time (R111). Every start clears UTRAP (R415). -/
def State.startLaunch (s : State) (slot : Nat) : State :=
  let l := s.launch slot
  let owner := l.lctl.toNat % 64
  let s0 := s.onLaunch slot (fun l => { l with utcause := 0, utepc := 0, utval := 0 })
  if owner = 0 ∨ !(s.owner owner).loaded then s0.endLaunch slot 0x12 .error 0 l.lcomp (l.lctl.getLsbD 6)
  else if l.regsBad then s0.endLaunch slot 0x13 .error 0 l.lcomp (l.lctl.getLsbD 6)
  else
    let ep := (s.dev.epoch + 1) % 256
    (({ s.dropCaches owner with dev := { (s.dropCaches owner).dev with epoch := ep }, hostClk := s.hostClk + 1 }).onOwner owner
      (fun o => { o with table := s.mem })).onLaunch slot (fun l => l.latched ep s.clk s.hostClk)

/-- A GO was refused. -/
def State.goLost (s : State) (slot : Nat) : State := s.onLaunch slot (fun l => { l with golost := true })

/-- Whether a launch is running or stopping. -/
def Launch.active (l : Launch) : Bool := decide (l.state = .running) || decide (l.state = .stopping)

/-- A node on its way to a control context that begins anew (R520), unless it is a killed launch's. -/
def State.redeliver (s : State) (l : Nat × Nat) (g : Nat) (n : Delivery) : State :=
  if (n.ticket.slot, n.ticket.epoch) = l then s
  else
    match (s.caravan n.ticket.die).byTicket n.ticket.num with
    | some i => s.deliver g n (i.entry.record.kd 0)
    | none => s

/-- Kill the contexts of a launch on one core (R109): those that run for it are discarded, a helper's also where the control context runs
for another launch; a node of the launch on its way is gone; another launch's node is kept, and a control context that is discarded
begins it as an idle one (R520). -/
def State.killCore (s : State) (l : Nat × Nat) (g : Nat) : State :=
  let c := s.ctx g 0
  let s1 := s.discardCtxs g (ctxNumbers.filter (fun k => decide ((s.ctx g k).launch = some l))) l.1
  match c.arrived with
  | none => s1
  | some n =>
    if c.launch = some l then s1.redeliver l g n
    else if (n.ticket.slot, n.ticket.epoch) = l then s1.onCtx g 0 (fun c => { c with arrived := none })
    else s1

/-- KILL of an active launch (R109, R422). -/
def State.killLaunch (s : State) (slot : Nat) : State :=
  let id := (slot, (s.launch slot).epoch)
  let s1 := (s.stopLaunch slot 0x11 .stopped).onLaunch slot (fun l => { l with suspended := false, share := false })
  let s2 := (s1.coresServing id).foldl (fun s g => s.killCore id g) s1
  (s2.cores.map (·.1)).foldl (fun s g => s.discardShelf id g) s2

/-- A write of LGO with its low three bits (R109). -/
def State.lgo (s : State) (slot bits : Nat) : State :=
  let l := s.launch slot
  if bits / 4 % 2 = 1 then (if l.active then s.killLaunch slot else s)
  else if bits % 4 = 3 then s.goLost slot
  else if bits % 4 = 2 then (if l.state = .running then s.stopLaunch slot 0x10 .stopped else s)
  else if bits % 4 = 1 then (if l.active || !s.dev.accepts then s.goLost slot else s.startLaunch slot)
  else s

/-- LGO_GO (R109, R110). -/
def execLgoGo (slot : Nat) (s : State) : Host.Outcome State Fault Refusal :=
  if Config.slotCount ≤ slot then .fault .noUnit else .next (s.lgo slot 1)

/-- LGO_STOP (R109). -/
def execLgoStop (slot : Nat) (s : State) : Host.Outcome State Fault Refusal :=
  if Config.slotCount ≤ slot then .fault .noUnit else .next (s.lgo slot 2)

/-- LGO_KILL (R109). -/
def execLgoKill (slot : Nat) (s : State) : Host.Outcome State Fault Refusal :=
  if Config.slotCount ≤ slot then .fault .noUnit else .next (s.lgo slot 4)

/-! ### Translation answers (R113) -/

/-- Who waited for a page learns that the host failed it (R113): a context, an engine's operations of the owner, a node, or Caravan,
whose read is then an error of its node (log 18). -/
def State.failFor (s : State) (f : HeldFault) (w : BitVec 24) : State :=
  let page := some f.page
  let low := w.toNat % 2 ^ 20
  let job (j : CopyJob) : CopyJob := if j.owner = f.owner ∧ !j.settled then { j with xfail := page } else j
  if w = caravanWaits then s.releaseNodes f.owner f.page true
  else if w = driveWaits then
    { s with drives := s.drives.map (fun (d : Drive) =>
        if d.slot = f.slot ∧ pageOf d.result.toNat = f.page then { d with xfail := page } else d) }
  else if w = barchanWaits then
    { s with
      transfers := s.transfers.map (fun (t : Transfer) => if t.owner = f.owner then { t with xfail := page } else t),
      arrivals := s.arrivals.map (fun (a : Arrival) => if a.owner = f.owner then { a with xfail := page } else a) }
  else
    match w.toNat / 2 ^ 20 with
    | 0 =>
      let g := low / 2 ^ 18 * 10240 + low / 2 ^ 11 % 128 * 80 + low / 16 % 128
      s.onCtx g (low % 16) (fun c => { c with xfail := page })
    | 1 =>
      let cl := low / 2 ^ 11
      { s with
        jobs := s.jobs.set cl ((s.jobs.get [] cl).map job),
        cores := s.cores.map (fun (e : Nat × Core) => (e.1, if clusterOf e.1 = cl then { e.2 with cpq := e.2.cpq.map job } else e.2)) }
    | 2 => s.onEngine (low / 2 ^ 11) (fun m => { m with node := m.node.map (fun (n : SeqNode) => { n with xfail := page }) })
    | 3 =>
      let mark (i : Inst) : Inst := if i.entry.kind = 7 ∧ i.unit = low then { i with xfail := page } else i
      s.onCaravan (low / 2) (fun c => { c with insts := c.insts.map mark })
    | 4 =>
      let mark (e : Nat × SmpCtx) : Nat × SmpCtx := if e.2.owner = f.owner then (e.1, { e.2 with xfail := page }) else e
      s.onSampler low (fun x => { x with ctxs := x.ctxs.map mark })
    | 5 =>
      let mark (e : Nat × JoinGroup) : Nat × JoinGroup :=
        if e.1 / 1024 = low ∧ e.2.owner = f.owner ∧ pageOf e.2.addr.toNat = f.page then (e.1, { e.2 with xfail := page }) else e
      { s with groups := s.groups.map mark }
    | _ => s

/-- The host resolves the entry with a TAG (R113); what waits translates again, copies and the Barchan engines at once. -/
def State.xlResolve (s : State) (tag : Nat) (fail : Bool) : State :=
  match s.held.find? (fun f => f.posted && decide (f.tag = tag)) with
  | none => s
  | some f =>
    let s1 := { s with held := s.held.erase f }
    let s2 := if fail then f.waiters.foldl (fun s w => s.failFor f w) s1 else s1
    let s2 := s2.releaseNodes f.owner f.page false
    (if f.waiters.any (fun w => decide (w.toNat / 2 ^ 20 = 1)) then s2.placeCopies f.owner else s2).startSends

/-- XLRESOLVE (R113). -/
def execXlresolve (tag : BitVec 16) (fail : Bool) (s : State) : Host.Outcome State Fault Refusal := .next (s.xlResolve tag.toNat fail)

/-! ### Clocks (R362) -/

/-- A context with its clocks at 0. -/
def Ctx.clockless (c : Ctx) : Ctx := { c with l := 0, h := 0 }

/-- Reset every clock (R362); sampler contexts, Wadi and the streams' step clocks are among them (log 30). -/
def State.resetClocks (s : State) : State :=
  let core (c : Core) : Core := { c with
    ctxs := ctxNumbers.foldl (fun t k => if (c.ctxs.find k).isSome then t.set k (c.ctx k).clockless else t) c.ctxs,
    other := c.other.map (fun (e : Nat × Ctx) => (e.1, e.2.clockless)),
    cway := c.cway.map (fun (l : CLine) => { l with wts := 0, rts := 0 }) }
  { s with
    cores := s.cores.map (fun (e : Nat × Core) => (e.1, core e.2)),
    lines := s.lines.map (fun (e : Nat × LineHome) => (e.1, { e.2 with wts := 0, rts := 0, md := none })),
    sums := [], metaUse := [], hostClk := 0, imports := [], wadi := [],
    samplers := s.samplers.map (fun (e : Nat × Sampler) => (e.1, { e.2 with
      clocks := [], ctxs := e.2.ctxs.map (fun (x : Nat × SmpCtx) => (x.1, { x.2 with l := 0, h := 0 })) })),
    streams := s.streams.map (fun (e : Nat × Stream) => (e.1, { e.2 with clock := 0 })),
    dev := { s.dev with clkmax := 0 } }

/-- A CLKRST write of 1 (R362). -/
def State.clkrst (s : State) : State := if s.launches.any (fun l => l.2.active) then s else s.resetClocks

/-- CLKRST (R362). -/
def execClkrst (s : State) : Host.Outcome State Fault Refusal := .next s.clkrst

/-! ### Slot tables (R279) -/

/-- Write-class slots of a table. -/
def writeSlots (t : Table Word) : Nat := ((List.range 32).filter (fun i => slotByte t i / 64 = 1)).length

/-- COMMIT (R279). -/
def SlotTable.commit (t : SlotTable) : SlotTable :=
  let w := writeSlots t.staged
  if w < 1 ∨ 8 < w then { t with err := true } else { t with next := some t.staged, err := false }

/-- The start of a table cycle, before slot 0 is served: a committed table becomes live (R279). At another slot the cycle has not
ended. -/
def SlotTable.switch (t : SlotTable) : SlotTable :=
  match t.next with
  | some x => if t.slot = 0 then { t with live := x, next := none } else t
  | none => t

/-- SLOTCTL_COMMIT (R279). -/
def execSlotctlCommit (chan : Nat) (s : State) : Host.Outcome State Fault Refusal :=
  if Config.clusterCount ≤ chan then .fault .noUnit else .next (s.onChan chan SlotTable.commit)

/-- SLOT_TABLE_SWITCH (R279). -/
def execSlotTableSwitch (chan : Nat) (s : State) : Host.Outcome State Fault Refusal :=
  if Config.clusterCount ≤ chan then .fault .noUnit else .next (s.onChan chan SlotTable.switch)

/-! ### Boot (R103) -/

/-- The default table of firmware 2.1: write slots 3, 11, 19 and 27, the others read, in partition 0 (R279). -/
def defaultSlots : Table Word := [(0, 0x40000000), (1, 0x40000000), (2, 0x40000000), (3, 0x40000000)]

/-- Whether a firmware version is 2.1 (R101). -/
def isRelease21 (v : BitVec 32) : Bool := decide (v.toNat / 65536 = 0x0201)

/-- The slot table that a release loads (R11): that of 2.1, or another that COMMIT takes. -/
def releaseSlots (v : BitVec 32) : Table Word :=
  let t : Table Word := [0, 1, 2, 3].map (fun i => (i, BitVec.ofNat 64 (Config.releaseValue v i) &&& 0xC7C7C7C7C7C7C7C7))
  if isRelease21 v || decide (writeSlots t < 1) || decide (8 < writeSlots t) then defaultSlots else t

/-- The lease length that a release loads (R328). -/
def releaseLease (v : BitVec 32) : Nat := if isRelease21 v then 64 else 16 + Config.releaseValue v 4 % 1009
/-- The write budget that a release loads at a launch start (R275). -/
def releaseBudget (v : BitVec 32) : Nat := if isRelease21 v then 512 else Config.releaseValue v 5 % 2 ^ 24
/-- The window length that a release loads at a launch start (R275). -/
def releaseWindow (v : BitVec 32) : Nat := if isRelease21 v then 12 else 8 + Config.releaseValue v 6 % 9
/-- DONATE that a release loads (R279). -/
def releaseDonate (v : BitVec 32) : Bool := isRelease21 v || decide (Config.releaseValue v 7 % 2 = 1)

/-- The first boot step that fails, of 1 to 5 (R103). -/
def bootFails (b : BootImage) : Option Nat :=
  if !b.readable then some 1
  else if !b.ecdsaOk then some 2
  else if !b.lmsOk then some 3
  else if b.secVer < Config.fusedMinimum then some 4
  else if !b.hbmTrains then some 5
  else none

/-- What survives a module reset: host memory, flash, the attestation key, the agenda, and the model's own counters (R518, log 31). -/
def State.afterReset (s : State) : State :=
  { State.reset with
    mem := s.mem.filter (fun c => decide (2 * space ≤ c.1) && decide (c.1 < 3 * space)), agenda := s.agenda, cur := s.cur, smp := s.smp,
    free := s.free, fresh := s.fresh,
    dev := {
      lmsLeft := s.dev.lmsLeft, lmslow := decide (s.dev.lmsLeft < 65536), image := s.dev.image, life := s.dev.life, flash := s.dev.flash } }

/-- The reference sampler program (R470): its header and 30 words. -/
def referenceProgram : List Byte :=
  bytesOfNat 8 30 ++ ([
    0x130AD100, 0x0B03011A, 0x00F30000, 0x0DD02400, 0x00E20000, 0x01700000, 0x01713F80, 0x09857600, 0x02884000, 0x0B08010F,
    0x0F0D2000, 0x0B04010F, 0x09642400, 0x0B06010F, 0x00E40000, 0x106DE100, 0x09857600, 0x0B080116, 0x06856000, 0x118DE100,
    0x02E80101, 0x11680300, 0x12800100, 0x06886000, 0x118DE000, 0x0A00001C, 0x0DD02000, 0x118D2200, 0x15080000, 0x16000000] : List Lane).flatMap laneBytes

/-- The boot steps (R103): the firmware's image brings the reference sampler program with it (R470). Other services of the firmware's defaults are those of State.reset (R11). -/
def State.boot (s : State) (b : BootImage) : State :=
  match bootFails b with
  | some n => { s with dev := { s.dev with booterr := n, recovery := true } }
  | none =>
    let t : SlotTable := { staged := releaseSlots b.fwver, live := releaseSlots b.fwver, donate := releaseDonate b.fwver }
    ({ s with
      mem := s.mem.putBytes (hbmKey (Config.samplerAddress b.fwver).toNat) referenceProgram,
      chans := (List.range 512).map (fun k => (k, t)),
      dev := { s.dev with
        hbmok := true, lease := releaseLease b.fwver, budget := releaseBudget b.fwver, window := releaseWindow b.fwver,
        fwver := b.fwver, ready := true } }).countLife 72 1

/-- The image that step 1 reads (R103): the one installed last, else the one that the event names as the flash's; whether it can be read
and HBM4E trains is the event's. -/
def Device.flashImage (d : Device) (img : BootImage) : BootImage :=
  match d.image with
  | some b => { b with readable := img.readable, hbmTrains := img.hbmTrains }
  | none => img

/-- MODULE_RESET (R103). -/
def execModuleReset (img : BootImage) (s : State) : Host.Outcome State Fault Refusal :=
  .next (s.afterReset.boot (s.dev.flashImage img))

/-- POWER_LOSS (R518): the counts since the last flash update are lost; the part then stands as right after module reset. -/
def execPowerLoss (s : State) : Host.Outcome State Fault Refusal :=
  let r := s.afterReset
  .next { r with dev := { r.dev with life := s.dev.flash } }

/-- FIRMWARE_IMAGE_INSTALL (R103, R106): a verified image goes into flash, and may authorise a new attestation key. DESIGN CHOICE (log 51):
one whose security version boot would refuse is not installed. -/
def execFirmwareImageInstall (img : BootImage) (s : State) : Host.Outcome State Fault Refusal :=
  let d := s.dev
  if !img.readable || !img.ecdsaOk || !img.lmsOk || decide (img.secVer < Config.fusedMinimum) then .next { s with dev := { d with answer := 3 } }
  else if img.newLmsKey then .next { s with dev := { d with answer := 1, image := some img, lmsLeft := 1048576, lmslow := false } }
  else .next { s with dev := { d with answer := 1, image := some img } }

/-! ### Owners and attestation (R104, R106) -/

/-- OWNER_KEY_LOAD (R104, R106, R173): the root of a slot that is loaded stays until its unload, and such a load changes nothing (DESIGN CHOICE,
log 51: it is answered as one that loads). -/
def execOwnerKeyLoad (owner : Nat) (root : BitVec 64) (s : State) : Host.Outcome State Fault Refusal :=
  if 64 ≤ owner then .fault .noUnit
  else if owner = 0 ∨ s.dev.lmsLeft = 0 ∨ !s.dev.ready then .next { s with dev := { s.dev with answer := 3 } }
  else .next { s.onOwner owner (fun o => { o with loaded := true, root := if o.loaded then o.root else root }) with dev := { s.dev with answer := 1 } }

/-- The bytes of a line that stand under an owner's key. -/
def State.keyMask (s : State) (owner line : Nat) : BitVec 64 :=
  ((s.keyed.get [] line).filter (fun e => e.1 = owner)).foldl (fun m e => m ||| e.2) 0

/-- The bytes of one line under a key that is no more: what they read as from now on are free values (R104, log 8). -/
def State.scrambleLine (s : State) (owner line : Nat) : State :=
  let mask := s.keyMask owner line
  { s with
    mem := ((List.range 64).filter (fun i => mask.getLsbD i)).foldl (fun m i =>
      m.put (line * 64 + i) (BitVec.ofNat 8 ((Config.freeValue (s.free + i / 8)).toNat / 256 ^ (i % 8)))) s.mem,
    keyed := s.keyed.set line ((s.keyed.get [] line).filter (fun e => e.1 ≠ owner)), free := s.free + 8 }

/-- Data written under an owner's key is no longer readable once the key is gone (R104): clean copies of it in CWAY and the instruction caches
go with it. -/
def State.scramble (s : State) (owner : Nat) : State :=
  let lines := (s.keyed.map (·.1)).filter (fun line => s.keyMask owner line ≠ 0)
  let lost (line o : Nat) : Bool := decide (o = owner) || lines.contains line
  let core (c : Core) : Core := { c with cway := c.cway.filter (fun (l : CLine) => l.dirty || !lost l.line l.owner) }
  let t := lines.foldl (fun s line => s.scrambleLine owner line) s
  { t with
    cores := t.cores.map (fun (e : Nat × Core) => (e.1, core e.2)),
    icache := t.icache.map (fun (e : Nat × List CodeBlock) => (e.1, e.2.filter (fun b => !lost (b.key / 64) b.owner))) }

/-- OWNER_KEY_UNLOAD (R104). -/
def execOwnerKeyUnload (owner : Nat) (s : State) : Host.Outcome State Fault Refusal :=
  if 64 ≤ owner then .fault .noUnit
  else
    let busy := s.launches.any (fun l => l.2.active && (decide (l.2.owner = owner) || decide (l.2.lctl.toNat % 64 = owner)))
    if owner = 0 then .next { s with dev := { s.dev with answer := 3 } }
    else if busy ∨ (s.owner owner).resv ≠ 0 then .next { s with dev := { s.dev with answer := 2 } }
    else .next { (s.scramble owner).onOwner owner (fun o => { o with loaded := false, root := 0, table := [] }) with dev := { s.dev with answer := 1 } }

/-- ATTESTATION_REQUEST (R106): a report with both signatures and the firmware version. -/
def execAttestationRequest (s : State) : Host.Outcome State Fault Refusal :=
  let d := s.dev
  if d.lmsLeft = 0 then .next { s with dev := { d with answer := 3 } }
  else
    let r : Report := { fwver := d.fwver, ecdsa := Config.freeValue s.free, lms := Config.freeValue (s.free + 1) }
    .next { s with
      free := s.free + 2,
      dev := { d with answer := 1, report := some r, lmsLeft := d.lmsLeft - 1, lmslow := decide (d.lmsLeft - 1 < 65536) } }

/-! ### Registers (R100-R102) -/

/-- Bits of a list of numbers from 64 i on, as CGATE and CGSTAT show them. -/
def bitsOf (l : List Nat) (i : Nat) : Word := BitVec.ofNat 64 (((List.range 64).filter (fun b => l.contains (64 * i + b))).map (2 ^ ·)).sum

/-- DEVSTAT (R101). -/
def Device.status (d : Device) : Word :=
  BitVec.ofNat 64 (d.fwver.toNat * 2 ^ 32 + 0xB0 * 2 ^ 24 + d.booterr % 16 * 16 + (if d.lmslow then 8 else 0)
    + (if d.recovery then 4 else 0) + (if d.hbmok then 2 else 0) + (if d.ready then 1 else 0))

/-- PARTMAP i (R281). -/
def State.partmap (s : State) (i : Nat) : Word :=
  BitVec.ofNat 64 ((List.range 16).map (fun j => (s.owner (16 * i + j)).part % 8 * 16 ^ j)).sum

/-- The greatest clock assigned (R362): those of accesses, releases and acquires alike, without delay. -/
def State.clockMax (s : State) : Nat :=
  let of (t : Table Ctx) : List Nat := t.flatMap (fun e => [e.2.l, e.2.h])
  (s.cores.flatMap (fun e => of e.2.ctxs ++ of e.2.other)
    ++ s.samplers.flatMap (fun e => e.2.clocks.flatMap (fun c => [c.2.1, c.2.2]) ++ e.2.ctxs.flatMap (fun c => [c.2.l, c.2.h]))
    ++ s.wadi.flatMap (fun e => [e.2.1, e.2.2])).foldl max (max s.dev.clkmax s.hostClk)

/-- CLKMAX keeps the greatest clock assigned, whatever becomes of what held it (R362). -/
def State.noteClocks (s : State) : State := { s with dev := { s.dev with clkmax := s.clockMax } }

/-- A device register at an offset below 0x1000. -/
def State.devReg (s : State) (o : Nat) : Word :=
  let d := s.dev
  let b (x : Bool) (n : Nat) : Nat := if x then 2 ^ n else 0
  match o with
  | 0x00 => d.status
  | 0x08 => BitVec.ofNat 64 (d.epoch % 256)
  | 0x10 => d.hdmown
  | 0x20 => d.xlqbase
  | 0x28 => BitVec.ofNat 64 d.xlqtail
  | 0x30 => BitVec.ofNat 64 d.xlqhead
  | 0x40 => BitVec.ofNat 64 d.mgov
  | 0x48 => BitVec.ofNat 64 d.lease
  | 0x50 => BitVec.ofNat 64 s.clockMax
  | 0x68 => BitVec.ofNat 64 (((List.range 64).filter (fun n => (s.launch n).suspended)).map (2 ^ ·)).sum
  | 0x70 => BitVec.ofNat 64 (((List.range 64).filter (fun n => s.launchSaved n)).map (2 ^ ·)).sum
  | 0x80 | 0x88 | 0x90 | 0x98 => s.partmap ((o - 0x80) / 8)
  | 0xA0 => d.lmbase
  | 0xA8 => BitVec.ofNat 64 (d.lmseq.toNat * 2 ^ 32 + d.lmowner * 256 + d.lmlog)
  | 0x140 => BitVec.ofNat 64 (b d.pwrErr 17 + b d.pwrBusy 16 + d.pwrCur * 256 + d.pwrTarget)
  | 0x148 => BitVec.ofNat 64 (b d.warned 33 + b d.tripped 32 + d.trip * 2 ^ 24 + d.warn * 2 ^ 16 + d.tj)
  | 0x150 => BitVec.ofNat 64 (b d.cgerr 0)
  | 0x200 => d.mcbase
  | 0x208 => BitVec.ofNat 64 d.mctail
  | 0x210 => BitVec.ofNat 64 d.mchead
  | 0x218 => d.mclost.setWidth 64
  | _ =>
    if 0xC0 ≤ o ∧ o < 0x140 then
      let x := s.siroccoOf ((o - 0xC0) / 32)
      match (o - 0xC0) % 32 with
      | 0 => x.base
      | 8 => BitVec.ofNat 64 x.head
      | 16 => BitVec.ofNat 64 x.tail
      | _ => x.drop.setWidth 64
    else if 0x180 ≤ o ∧ o < 0x1C0 then bitsOf d.cgate ((o - 0x180) / 8)
    else if 0x1C0 ≤ o ∧ o < 0x200 then bitsOf d.gated ((o - 0x1C0) / 8)
    else 0

/-- LGRAPH without its reserved bits, which read as zero (R6, R108). -/
def graphMask : Word := 0x00FFFFFFFFFFFFC0

/-- A launch slot's register (R108). -/
def Launch.reg (l : Launch) (o : Nat) : Word :=
  match o with
  | 0x00 => l.lgraph &&& graphMask
  | 0x08 => l.lctl
  | 0x10 => l.lstat
  | 0xA0 => l.lcomp
  | 0xA8 => l.lelapsed
  | 0xB0 => l.lstage
  | _ => if 0x20 ≤ o ∧ o < 0xA0 then l.params.get 0 ((o - 0x20) / 8) else 0

/-- An owner slot's register (R107). -/
def Owner.reg (x : Owner) (o : Nat) : Word :=
  match o with
  | 0x00 => if x.loaded then 1 else 0
  | 0x08 => x.quota.setWidth 64
  | 0x10 => BitVec.ofNat 64 x.resv
  | 0x18 => x.refused.setWidth 64
  | _ => 0

/-- A pseudo-channel's register (R279). -/
def SlotTable.reg (t : SlotTable) (o : Nat) : Word :=
  if o < 0x20 then t.live.get 0 (o / 8)
  else if o = 0x20 then
    BitVec.ofNat 64 (writeSlots t.live * 2 ^ 32 + (if t.err then 4 else 0) + (if t.donate then 2 else 0))
  else 0

/-- A register of BAR0 as a 64-bit read shows it; an offset that is not a multiple of 8 is none (R100). -/
def State.reg (s : State) (o : Nat) : Word :=
  if o % 8 ≠ 0 then 0
  else if o < 0x1000 then s.devReg o
  else if o < 0x1800 then
    let l := s.launch ((o - 0x1000) / 32)
    match (o - 0x1000) % 32 with
    | 0 => l.utcause
    | 8 => l.utepc
    | 16 => l.utval
    | _ => 0
  else if 0x8000 ≤ o ∧ o < 0x10000 then (s.chan ((o - 0x8000) / 64)).reg ((o - 0x8000) % 64)
  else if 0x100000 ≤ o ∧ o < 0x104000 then (s.launch ((o - 0x100000) / 256)).reg ((o - 0x100000) % 256)
  else if 0x200000 ≤ o ∧ o < 0x201000 then
    (if (o - 0x200000) / 64 = 0 then 0 else (s.owner ((o - 0x200000) / 64)).reg ((o - 0x200000) % 64))
  else if o = 0x300010 then s.dev.mbstat
  else if 0x301000 ≤ o ∧ o < 0x301000 + 8 * 73 then s.dev.mbox.get 0 ((o - 0x301000) / 8)
  else 0

/-- What a host read of BAR0 gives (R100): 64 bits, or a 32-bit half; an access that is not naturally aligned reads zero. -/
def State.readReg (s : State) (o : Nat) (wide : Bool) : Word :=
  if wide then s.reg o
  else if o % 4 ≠ 0 then 0
  else BitVec.ofNat 64 ((s.reg (o / 8 * 8)).toNat / 2 ^ (8 * (o % 8)) % 2 ^ 32)

/-- The host masks or unmasks a vector's MSI-X entry; what was held pending is sent (R101, log 41). -/
def State.maskVector (s : State) (v : Nat) (on : Bool) : State :=
  let d := s.dev
  if on then { s with dev := { d with masked := if d.masked.contains v then d.masked else v :: d.masked } }
  else
    let s1 := { s with dev := { d with masked := d.masked.filter (· ≠ v), pending := d.pending.filter (· ≠ v) } }
    if d.pending.contains v then s1.send v else s1

/-- PRECTL (R416). -/
def State.prectl (s : State) (w : Word) : State :=
  let slot := field w 0 6
  let sus := w.getLsbD 8
  let res := w.getLsbD 9
  if sus = res then s
  else
    match (if sus then execPrectlSuspend slot (w.getLsbD 10) s else execPrectlResume slot s) with
    | .next t => t
    | _ => s

/-- The host takes n entries from a ring of m (R113, R517). -/
def taken (new old m : Nat) : Nat := (new + m - old) % m

/-- A write of XLQHEAD lets held faults be reported (R113). -/
def State.setXlqHead (s : State) (n : Nat) : State :=
  let d := s.dev
  let s1 := { s with dev := { d with xlqhead := n, xlqcount := d.xlqcount - taken n d.xlqhead 128 } }
  let (s2, h) := s1.postFaults s1.held
  { s2 with held := h }

/-- A write of a CGATE register (R513). -/
def State.setCgate (s : State) (i : Nat) (new : Word) : State :=
  let old := bitsOf s.dev.cgate i
  (List.range 64).foldl (fun s b => if new.getLsbD b = old.getLsbD b then s else s.cgateRequest (64 * i + b) (new.getLsbD b)) s

/-- A write of PARTMAP i (R281). -/
def State.setPartmap (s : State) (i : Nat) (new : Word) : State :=
  (List.range 16).foldl (fun s j => s.onOwner (16 * i + j) (fun o => { o with part := field new (4 * j) 3 })) s

/-- Write a device register: `w` holds the bits written, `m` where, `new` the register with them in place (R102). -/
def State.putDev (s : State) (o : Nat) (w m new : Word) : State :=
  let d := s.dev
  let lo := decide (m.toNat % 2 ^ 32 ≠ 0)
  match o with
  | 0x10 => { s with dev := { d with hdmown := new &&& 0x3F3F3F3F3F3F3F3F } }
  | 0x20 => { s with dev := { d with xlqbase := new &&& 0xFFFFFFFFFFFFF000 } }
  | 0x30 => if lo then s.setXlqHead (field w 0 7) else s
  | 0x38 => if lo then s.xlResolve (field w 0 16) (w.getLsbD 16) else s
  | 0x40 => if lo then { s with dev := { d with mgov := max 1 (min 256 (field w 0 9)) } } else s
  | 0x58 => if w.getLsbD 0 then s.clkrst else s
  | 0x60 => if lo then s.prectl w else s
  | 0x80 | 0x88 | 0x90 | 0x98 => s.setPartmap ((o - 0x80) / 8) new
  | 0xA0 => { s with dev := { d with lmbase := new &&& 0x00FFFFFFFFFE0000 } }
  | 0xA8 => if lo then { s with dev := { d with lmowner := field w 8 6, lmlog := min 8 (field w 0 4) } } else s
  | 0x140 =>
    if lo && (d.tripped || decide (field w 0 2 ≠ d.pwrCur)) then
      { s with dev := { d with pwrErr := d.pwrErr && !w.getLsbD 17 } }.setTarget (field w 0 2)
    else s
  | 0x148 =>
    let s1 := { s with dev := { d with warned := d.warned && !w.getLsbD 33 } }
    if lo then { s1 with dev := { s1.dev with warn := min (field w 16 8) (d.trip - 5) } } else s1
  | 0x150 => { s with dev := { d with cgerr := d.cgerr && !w.getLsbD 0 } }
  | 0x200 => { s with dev := { d with mcbase := new &&& 0xFFFFFFFFFFFFF000 } }
  | 0x210 => if lo then { s with dev := { d with mchead := field w 0 8, mccount := d.mccount - taken (field w 0 8) d.mchead 256 } } else s
  | _ =>
    if 0xC0 ≤ o ∧ o < 0x140 then
      let x := s.siroccoOf ((o - 0xC0) / 32)
      match (o - 0xC0) % 32 with
      | 0 => s.setSirocco ((o - 0xC0) / 32) { x with base := new &&& 0x00FFFFFFFFFFF00F }
      | 8 => if lo then s.setSirocco ((o - 0xC0) / 32) { x with head := field w 0 16 } else s
      | _ => s
    else if 0x180 ≤ o ∧ o < 0x1C0 then s.setCgate ((o - 0x180) / 8) new
    else s

/-- Write a pseudo-channel's register (R279): SLOTS go to the staged copy. -/
def SlotTable.put (t : SlotTable) (o : Nat) (w m : Word) : SlotTable :=
  if o < 0x20 then
    let x := t.staged.get 0 (o / 8)
    { t with staged := t.staged.set (o / 8) (((x &&& ~~~m) ||| (w &&& m)) &&& 0xC7C7C7C7C7C7C7C7) }
  else if o = 0x20 ∧ m.getLsbD 0 then
    let t1 := { t with err := t.err && !w.getLsbD 2, donate := w.getLsbD 1 }
    if w.getLsbD 0 then t1.commit else t1
  else t

/-- Write a launch slot's register (R108); LGO acts (R109). LGRAPH keeps the reserved bits last written, which read as zero (R6) and
end a start (R110, log 42). -/
def State.putLaunch (s : State) (slot o : Nat) (w m new : Word) : State :=
  match o with
  | 0x00 => s.onLaunch slot (fun l => { l with lgraph := (l.lgraph &&& ~~~m) ||| (w &&& m) })
  | 0x08 => s.onLaunch slot (fun l => { l with lctl := new &&& 0xFF })
  | 0x10 => s.onLaunch slot (fun l => { l with golost := l.golost && !w.getLsbD 3 })
  | 0x18 => if m.getLsbD 0 then s.lgo slot (field w 0 3) else s
  | 0xA0 => s.onLaunch slot (fun l => { l with lcomp := new })
  | 0xB0 => s.onLaunch slot (fun l => { l with lstage := new })
  | _ =>
    if 0x20 ≤ o ∧ o < 0xA0 then s.onLaunch slot (fun l => { l with params := l.params.set ((o - 0x20) / 8) new }) else s

/-- Write part of a register of BAR0 (R100): offsets that are not listed ignore it. -/
def State.putReg (s : State) (o : Nat) (w m : Word) : State :=
  let new := (s.reg o &&& ~~~m) ||| (w &&& m)
  if o < 0x1000 then s.putDev o w m new
  else if 0x8000 ≤ o ∧ o < 0x10000 then s.onChan ((o - 0x8000) / 64) (fun t => t.put ((o - 0x8000) % 64) w m)
  else if 0x100000 ≤ o ∧ o < 0x104000 then s.putLaunch ((o - 0x100000) / 256) ((o - 0x100000) % 256) w m new
  else if 0x200000 ≤ o ∧ o < 0x201000 then
    let n := (o - 0x200000) / 64
    if n ≠ 0 ∧ (o - 0x200000) % 64 = 8 then s.onOwner n (fun x => { x with quota := new.setWidth 32 }) else s
  else if o = 0x300000 ∧ w.toNat % 65536 = 1 ∧ m.getLsbD 0 then s.readCounters
  else s

/-- REGISTER_WRITE (R100): a naturally aligned 32-bit or 64-bit write; any other is ignored. -/
def execRegisterWrite (off : Nat) (wide : Bool) (value : BitVec 64) (s : State) : Host.Outcome State Fault Refusal :=
  if wide then .next (if off % 8 = 0 then s.putReg off value (BitVec.allOnes 64) else s)
  else if off % 4 ≠ 0 then .next s
  else
    let sh := 8 * (off % 8)
    .next (s.putReg (off / 8 * 8) ((value &&& 0xFFFFFFFF) <<< sh) ((0xFFFFFFFF : Word) <<< sh))

/-! ### Host memory accesses (R102, R111, R334, R353) -/

/-- The host's agent (R21). -/
def hostAgent : BitVec 24 := unitAgent 6 0

/-- A host access at its home port (R334, R353): its race is only logged. The spec gives the host no horizon, a free value
(log 32). None where its clock is exhausted (R361). -/
def State.hostAccess (s : State) (key size : Nat) (write : Bool) : Option State :=
  let s1 := { s.settle none (key / 64) with free := s.free + 1 }
  let r : Req := { agent := hostAgent, l := s.hostClk, h := (Config.freeValue s.free).toNat % 2 ^ 48, epoch := s.dev.epoch, scope := 4,
                   atomic := false, key := key, size := size, read := !write, write := write, tag := none }
  let t := r.time (s1.line (key / 64))
  if clockLimit ≤ t then none
  else
    let v := s1.raceCheck r
    let m := (s1.metaFor (key / 64) r.epoch).getD { epoch := r.epoch }
    let kind := if write then 1 else 0
    let s2 := match v.race with
      | some cause => s1.logEntry (raceRecord m r cause kind true false 0 (key % space) 0 0)
      | none => s1
    some { (s2.place326 r).1.recordAccess r t with hostClk := t }

/-- Whether the HDM decoders expose n bytes of HBM4E at an address (R99). -/
def hdmExposed (pa n : Nat) : Bool := decide (pa + n ≤ 64 * (Config.hdmLines + 1)) && decide (pa + n ≤ 2 ^ 56)

/-- Whether a decoder's accesses are served (R102): its owner is loaded. -/
def State.decoderOk (s : State) (dec : Nat) : Bool := (s.owner (field s.dev.hdmown (8 * dec) 6)).loaded

/-- A host access whose clock is exhausted is a machine check (R361, log 32). -/
def State.hostClockOut (s : State) (pa : Nat) : State := s.machineCheck hostAgent none 0x1F5 pa 0

/-- HOST_CXL_MEM_READ (R99, R102, R334): bytes within one line, which a decoder exposes, else nothing happens (log 32). A line that an engine holds keeps the access waiting. -/
def execHostCxlMemRead (dec pa size : Nat) (s : State) : Host.Outcome State Fault Refusal :=
  if 8 ≤ dec then .fault .noUnit
  else if size = 0 ∨ 64 < pa % 64 + size ∨ !hdmExposed pa size then .next s
  else if s.dev.power = 2 ∨ !s.decoderOk dec then .next { s with dev := { s.dev with hostData := [], hostBad := true } }
  else if s.engineHolds (hbmKey pa / 64) || s.starvesFor 0 (field s.dev.hdmown (8 * dec) 6) (hbmKey pa / 64) then .next s
  else
    match s.hostAccess (hbmKey pa) size false with
    | none => let s1 := s.hostClockOut pa; .next { s1 with dev := { s1.dev with hostData := [], hostBad := true } }
    | some t =>
      .next { t with dev := { t.dev with hostData := t.mem.bytes (hbmKey pa) size, hostBad := t.poison.contains (hbmKey pa / 64) } }

/-- HOST_CXL_MEM_WRITE (R99, R102, R334, R512): it is complete once the array has it (R278, R450). -/
def execHostCxlMemWrite (dec pa : Nat) (data : List Byte) (s : State) : Host.Outcome State Fault Refusal :=
  if 8 ≤ dec then .fault .noUnit
  else if data = [] ∨ 64 < pa % 64 + data.length ∨ !hdmExposed pa data.length then .next s
  else if s.dev.power = 2 then .next (s.countLife 71 1)
  else if !s.decoderOk dec then .next s
  else
    let line := hbmKey pa / 64
    let owner := field s.dev.hdmown (8 * dec) 6
    if s.engineHolds line || s.starvesFor 1 owner line then .next s
    else
      match s.hostAccess (hbmKey pa) data.length true with
      | none => .next (s.hostClockOut pa)
      | some t => .next ((t.engineWrite line (byteTable (hbmKey pa) data) owner false).landed line)

/-- CXL_CACHE_SNOOP (R334): the host takes back a line of its memory, for itself alone when it will write it. -/
def execCxlCacheSnoop (pa : Nat) (write : Bool) (s : State) : Host.Outcome State Fault Refusal :=
  let line := hostKey pa / 64
  if space ≤ pa ∨ s.engineHolds line then .next s
  else
    match s.hostAccess (line * 64) 64 write with
    | none => .next (s.hostClockOut pa)
    | some t =>
      .next (if write then { t with lines := t.lines.set line { t.line line with held := some .host } } else t)

/-- CXL_CACHE_RESPONSE (R99): a line of 64 bytes answers the oldest request for one that the host had taken back; an answer without
data completes the oldest write on its way to the host. -/
def execCxlCacheResponse (data : List Byte) (s : State) : Host.Outcome State Fault Refusal :=
  if data.length = 64 then
    match s.dev.hostReqs with
    | [] => .next s
    | line :: r =>
      .next { s with
        mem := s.mem.putBytes (line * 64) data, lines := s.lines.set line { s.line line with held := none },
        dev := { s.dev with hostReqs := r } }
  else
    match s.array.find? (fun w => w.chan = 516) with
    | some w => .next { s with array := s.array.erase w }
    | none => .next s

end Sys2Proof.Machine
end

