-- ==== Sys2Proof/Machine/MatrixInstr.lean ====
section
/-! DEFINITION. Row B of the opcode map: the tile instructions (R256-R264). -/
namespace Sys2Proof.Machine

/-- MTILE (R257). -/
def execMtile (x : RFields) (s : State) : Host.Outcome State Fault Refusal :=
  issue (.mtile x) (fun v => do
    needRoom false
    let a ← src x.a
    let b ← src x.b
    let (g, k) ← me
    let t := field a 0 2
    let e ← myEngine
    match x.fn.toNat with
    | 0 => do
      trapIf (decide (4 ≤ a.toNat)) 0x121 v.aval
      trapIf (decide (field b 7 8 = 255) || decide (field b 23 8 = 255)) 0x122 v.aval
      let core ← myCore
      if (e.tile t).owner.isSome && !(e.tile t).ownedBy g k core.shelf then dst x.d (-1)
      else do
        let s ← get
        let slot := ((s.ctx g k).launch.map (·.1)).getD 0
        onMyEngine (fun e => e.onTile t (fun y => { y with owner := some (.ctx g k), shelf := core.shelf, owned := slot }))
        offer (.openTile t (field b 0 16) (field b 16 16) (BitVec.ofNat 32 (field b 32 32)))
        dst x.d 0
    | 3 => do
      trapIf (decide (4 ≤ a.toNat)) 0x121 v.aval
      needTile t v.aval
      offer (.close t)
      dst x.d 0
    | fn => do
      let sl := field a 4 3
      trapIf (decide (field a 2 2 ≠ 0) || decide (128 ≤ a.toNat)) 0x121 v.aval
      needTile t v.aval
      if fn = 1 then do
        offer (.save t sl b)
        dst x.d 0
      else do
        let s ← get
        match e.slots.find sl with
        | some c =>
          if c.tag = b ∧ c.owner = s.ownerOf g k then do
            offer (.restore t sl)
            dst x.d 0
          else dst x.d (-2)
        | none => dst x.d (-2)) s

/-- Read one 64-byte line for MLOADB as a load of the context, and the machine check of an uncorrectable error in it (R258, R515):
local memory, HBM4E or XM. -/
def blockLine (va : Word) (v : Env) : M (List Byte × Option Nat) := do
  match ← locate va 64 false v.aval with
  | .zero => return (List.replicate 64 0, none)
  | .remote core off => do
    let s ← get
    let c := s.core core
    if decide (core = s.cur.1) && s.bankBusy core (bankOf off) then wait else pure ()
    trapIf (decide (c.mode (bankOf off) ≠ 0) || decide (c.tag (bankOf off) ≠ s.ownerOf s.cur.1 s.cur.2)) 0x063 va
    return (s.mem.bytes (localKey core off) 64, if s.localBad core off 64 then some 0x1F2 else none)
  | .mem key => do
    let line := key / 64
    modify (fun s => s.acceptFor s.cur.1 line (s.core s.cur.1).wlq)
    settleMine line
    let s ← get
    if (((s.core s.cur.1).cline line).map (·.dirty)).getD false then pure () else needSlot line
    let _ ← homeAccess (ctxReq s key 64 true false false 4 none) va v.pc
    let s ← get
    return (s.lineData s.cur.1 key 64, if s.poison.contains line then some (s.lineCheck line) else none)

/-- Read n lines in ascending address; each one in error is reported as a machine check (R258, R516). Its syndrome is a free
value (log 5). -/
def blockLines (v : Env) : Nat → Word → M (List Byte × Bool)
  | 0, _ => return ([], false)
  | n + 1, va => do
    let (bs, bad) ← blockLine va v
    match bad with
    | some cause => do
      let f ← freeWord
      let s ← get
      modify (fun t => t.machineCheck (ctxAgent s.cur.1 s.cur.2) ((s.ctx s.cur.1 s.cur.2).launch.map (·.1)) cause va.toNat f)
    | none => pure ()
    let (r, rbad) ← blockLines v n (va + 64)
    return (bs ++ r, bad.isSome || rbad)

/-- MLOADB (R258). -/
def execMloadb (x : RFields) (s : State) : Host.Outcome State Fault Refusal :=
  issue (.mloadb x) (fun v => do
    needRoom true
    let a ← src x.a
    let b ← src x.b
    trapIf (decide (a.toNat % 64 ≠ 0)) 0x061 a
    trapIf (decide (2 ≤ b.toNat)) 0x121 v.aval
    let ty := v.e.ty.toNat
    let (bs, bad) ← blockLines v (blockSize ty / 64) a
    let s ← get
    let buf := b.toNat % 2
    let owner := s.ownerOf s.cur.1 s.cur.2
    onMyEngine (fun e => { e with bufs := e.bufs.set buf { e.bufs.get {} buf with user := some owner } })
    offer (.load buf (blockElems ty bs) bad)) s

/-- MACC (R259). -/
def execMacc (x : RFields) (s : State) : Host.Outcome State Fault Refusal :=
  issue (.macc x) (fun v => do
    needRoom false
    let a ← src x.a
    let b ← src x.b
    let t := field b 0 2
    let buf := field b 2 1
    let j := field b 8 8
    let core ← myCore
    let e ← myEngine
    trapIf (panelBad a j || decide (field b 3 5 ≠ 0) || decide (2 ^ 16 ≤ b.toNat)) 0x121 v.aval
    needTile t v.aval
    let s ← get
    trapIf (decide ((e.bufs.get {} buf).user ≠ some (s.ownerOf s.cur.1 s.cur.2))) 0x124 v.aval
    trapOn (panelCheck core a j (e.rowsNow t) false v.aval)
    offer (.macc t buf (panelOf a) j)) s

/-- MSCALE (R260). -/
def execMscale (x : RFields) (s : State) : Host.Outcome State Fault Refusal :=
  issue (.mscale x) (fun v => do
    let c ← myCtx
    trapIf (decide (c.grant < 64)) 0x101 v.aval
    let t := x.fn.toNat
    let e ← myEngine
    let (g, _) ← me
    trapIf (e.tile t).owner.isNone 0x125 v.aval
    let keeper ← keeperOf (clusterOf g) (e.tile t).owned
    trapIf (decide (coreInCluster g ≠ keeper)) 0x125 v.aval
    let r := (List.range 32).map (fun i => (c.lane x.a.toNat i).toInt)
    let y := (List.range 64).map (fun i => (c.lane x.b.toNat i).toInt)
    trapIf ((r ++ y).any (fun z => decide (z < -32768) || decide (32767 < z))) 0x121 v.aval
    if 8 ≤ (e.tile t).fifo.length then wait
    else onMyEngine (fun e => e.onTile t (fun z => { z with fifo := z.fifo ++ [{ r := r, y := y }] }))) s

/-- MREAD (R261). -/
def execMread (x : RFields) (s : State) : Host.Outcome State Fault Refusal :=
  issue (.mread x) (fun v => do
    needRoom false
    let a ← src x.a
    let b ← src x.b
    let t := field b 0 2
    let j := field b 8 8
    let st := field b 16 16
    let ty := v.e.ty.toNat
    let bad := decide (field b 4 4 ≠ 0) || decide (2 ^ 32 ≤ b.toNat)
    let core ← myCore
    let e ← myEngine
    needTile t v.aval
    if ty = 15 then do
      trapOn (panelCheck core a j (e.rowsNow t) bad v.aval)
      offer (.mreadPln t (panelOf a) j (b.getLsbD 2) (b.getLsbD 3))
    else do
      trapOn (outCheck core ty a st false bad v.aval)
      offer (.mread t ty (offOf a) st (b.getLsbD 2) (b.getLsbD 3))) s

/-- Whether a context has macro-operations on a tile, or in the load queue, that have not completed (R262). -/
def MatrixEngine.busyFor (e : MatrixEngine) (g k sh : Nat) (want : MacroKind → Bool) : Bool :=
  (e.loads ++ e.computes ++ e.offered).any (fun o => decide (o.core = g) && decide (o.ctx = k) && decide (o.shelf = sh) && want o.kind)

/-- MWAIT (R262). -/
def execMwait (x : RFields) (s : State) : Host.Outcome State Fault Refusal :=
  issue (.mwait x) (fun v => do
    let a ← src x.a
    let (g, k) ← me
    let e ← myEngine
    trapIf (decide (32 ≤ a.toNat)) 0x121 v.aval
    let named (t : Nat) : Bool := a.getLsbD t
    let core ← myCore
    if e.busyFor g k core.shelf (fun o => match o.tile with | some t => named t | none => a.getLsbD 4) then wait
    else
      let bits (f : Nat → Bool) : Nat := ([0, 1, 2, 3].filter (fun t => named t && f t)).foldl (fun acc t => acc + 2 ^ t) 0
      dst x.d (BitVec.ofNat 64 (bits (fun t => (e.tile t).errc ≠ 0) + 16 * bits (fun t => (e.tile t).img.ovf)))) s

/-- The owner fields of a tile's status: core and context; free values for the sequencer's node, which the spec gives none
(log 5). -/
def ownerField (o : Option TileOwner) : M Nat :=
  match o with
  | none => pure 0
  | some (.ctx g k) => pure (coreInCluster g * 2 ^ 20 + k * 2 ^ 16)
  | some .node => do
    let f ← freeWord
    return f.toNat % 2 ^ 11 * 2 ^ 16

/-- A tile's status word but for its owner fields (R263). -/
def MatrixEngine.status (e : MatrixEngine) (t : Nat) : Nat :=
  let x := e.tile t
  let b (p : Bool) (n : Nat) := if p then 2 ^ n else 0
  (e.computes.filter (fun o => o.kind.tile = some t)).length * 2 ^ 32 + x.fifo.length * 2 ^ 8 + x.errc * 2 ^ 5
    + b x.smask 2 + b x.img.ovf 1 + b x.owner.isSome 0

/-- MSTAT.eng's word (R263). -/
def MatrixEngine.summary (e : MatrixEngine) : Nat :=
  let b (p : Bool) (n : Nat) := if p then 2 ^ n else 0
  e.step % 65536 + e.computes.length % 32 * 2 ^ 16 + e.loads.length % 32 * 2 ^ 21 + b (e.bufs.get {} 0).loaded 26
    + b (e.bufs.get {} 1).loaded 27 + b e.node.isSome 28

/-- MSTAT (R263). -/
def execMstat (x : RFields) (s : State) : Host.Outcome State Fault Refusal :=
  issue (.mstat x) (fun v => do
    let a ← src x.a
    let (g, k) ← me
    let e ← myEngine
    match x.fn.toNat with
    | 0 => do
      trapIf (decide (4 ≤ a.toNat)) 0x121 v.aval
      let o ← ownerField (e.tile a.toNat).owner
      dst x.d (BitVec.ofNat 64 (e.status a.toNat + o))
    | 1 => do
      trapIf (decide (4 ≤ a.toNat)) 0x121 v.aval
      dst x.d (BitVec.ofNat 64 (e.tile a.toNat).masked.toNat)
    | 2 => dst x.d (BitVec.ofNat 64 e.summary)
    | 3 => do
      let s ← get
      dst x.d (e.govAt s.clk)
    | 4 => do
      trapIf (decide (8 ≤ a.toNat)) 0x121 v.aval
      let s ← get
      dst x.d (match e.slots.find a.toNat with
        | some c => if c.owner = s.ownerOf g k then c.tag else 0
        | none => 0)
    | _ => do
      let c ← myCtx
      let n ← keeperOf (clusterOf g) ((c.launch.map (·.1)).getD 0)
      dst x.d (BitVec.ofNat 64 n)) s

/-- MSOFT (R264). -/
def execMsoft (x : RFields) (s : State) : Host.Outcome State Fault Refusal :=
  issue (.msoft x) (fun v => do
    needRoom false
    let a ← src x.a
    let b ← src x.b
    let c ← src v.e.c
    let t := field b 0 2
    let tau := field b 32 32
    let ty := v.e.ty.toNat
    let bad := decide (field b 2 14 ≠ 0) || decide (0x7F800000 ≤ tau) || decide (tau = 0)
    let core ← myCore
    needTile t v.aval
    trapOn (outCheck core ty a (field b 16 16) true bad v.aval)
    offer (.msoft t ty (offOf a) (field b 16 16) tau c (if x.fn = 1 then some v.e.imm32.toInt else none))) s

end Sys2Proof.Machine
end

