-- ==== Sys2Proof/Machine/MemoryEvents.lean ====
section
/-! DEFINITION. What home ports, write lanes, memory channels and walkers do by themselves (R172, R174, R274-R282, R326-R338), and
writes that arrive from other packages (R338, R353). -/
namespace Sys2Proof.Machine

/-! ### Accesses at a home port (R326, R349) -/

/-- A request of the agenda as the home port takes it. -/
def HomeReq.req (q : HomeReq) (write : Bool) : Req :=
  { agent := q.agent, l := q.lclk.toNat, h := q.hzn.toNat, epoch := q.epoch.toNat, scope := q.scope.toNat, atomic := q.atomic, key := q.key,
    size := q.size, read := !write, write := write, tag := none }

/-- Whether a request lies within one line of coherent memory (R324), at an address that fits its place there, and is one of an agent that the
part has (R21). -/
def HomeReq.fits (q : HomeReq) : Bool :=
  decide (0 < q.size) && decide (q.key % 64 + q.size ≤ 64) && decide (q.key / space ≠ 3) && decide (q.va.toNat % 64 = q.key % 64)
    && agentOk q.agent

/-- The context that a request names takes an exception (R356, R361, R516), by default with the address of its access. A request does not
hold the instruction's words, which are a free value (log 46); an agent that is no running context takes none. -/
def State.homeTrap (s : State) (q : HomeReq) (cause : Nat) (race : List Word) (tval : Word := q.va) : State :=
  match agentCtx q.agent with
  | none => s
  | some (g, k) =>
    if (s.ctx g k).live && (s.ctx g k).resident then
      let s1 := ({ s with free := s.free + 1 }.unpop g k).unadmit g k
      s1.takeTrap g k cause false false (s1.ctx g k).pc tval (Config.freeValue s.free) race
    else s

/-- Append a race record of a request to the log of the context that it names (R354, R356-R358). -/
def State.homeLog (s : State) (q : HomeReq) (l : Nat) (words : List Word) : State :=
  match agentCtx q.agent with
  | none => s
  | some (g, k) => s.appendLog g (s.ownerOf g k) q.agent l (s.ctx g k).racemode words

/-- A request that must first write its context's log: none where it can, else the state of its wait (the page that the log lies on is
held and reported, R113, R358) or of its exception (R361). -/
def State.homeLogWait (s : State) (q : HomeReq) : Option State :=
  match agentCtx q.agent with
  | none => none
  | some (g, k) =>
    let c := s.ctx g k
    match s.logWay (s.ownerOf g k) 0 q.agent q.lclk.toNat c.racemode with
    | .ready => none
    | .held line => some (s.askHost line)
    | .clock => some (s.homeTrap q 0x0A6 [])
    | .absent va =>
      if c.xfail = some (pageOf va) then some (s.homeTrap q 0x062 [] (BitVec.ofNat 64 va))
      else if s.stillHeld (s.ownerOf g k) va q.agent then some s
      else some (s.holdFault (s.ownerOf g k) va q.agent 1 ((c.launch.map (·.1)).getD 0))

/-- The race record of a request (R360). -/
def State.homeRecord (s : State) (q : HomeReq) (r : Req) (write : Bool) (cause : Nat) (adv rpt : Bool) : List Word :=
  let m := (s.metaFor r.line r.epoch).getD { epoch := r.epoch }
  let kind := if write then 1 else 0
  match agentCtx q.agent with
  | some (g, k) =>
    raceRecord m r cause kind adv rpt (s.ctx g k).pc.toNat q.va.toNat (s.ctx g k).stream.toNat (s.superstep g)
  | none => raceRecord m r cause kind adv rpt 0 q.va.toNat 0 0

/-- Whether the context that a request names wants advisory records (R354). -/
def State.wantsAdvice (s : State) (q : HomeReq) : Bool :=
  match agentCtx q.agent with
  | some (g, k) => (s.ctx g k).racemode.getLsbD 2
  | none => false

/-- The partition of a request's reads and writes: that of its context's owner, or 0 for a unit (R279, log 33). -/
def State.homeOwner (s : State) (q : HomeReq) : Nat :=
  match agentCtx q.agent with
  | some (g, k) => s.ownerOf g k
  | none => 0

/-- Whether a request is one to a stream page that moves, or one for which other accesses already wait (R172). -/
def State.homePageBusy (s : State) (q : HomeReq) : Bool :=
  let page := (q.key - 4 * space) / 4096
  decide (q.key / space = 4) && (s.pageMoving page || !(s.replayOf page).isEmpty)

/-- An access takes its place (R326, R330, R331): it waits for an engine or the host that holds its line, for the move of its page (R172),
and a read for a slot (R280); lines placed elsewhere are brought home first; the access is checked and the
agent's clock takes its time. It faults with RACE.CLOCK, GM.POISON or, in precise mode, a race, and is logged as R354-R358 say.
An error where it faults or waits, with the state it leaves. -/
def State.homePlace (s : State) (q : HomeReq) (write : Bool) : Except State State :=
  let line := q.key / 64
  if s.engineHolds line then .error (s.askHost line)
  else if s.homePageBusy q then .error s
  else if !write && s.starves (s.homeOwner q) line then .error s
  else
    let r := HomeReq.req q write
    let s1 := s.settle none line
    let t := r.time (s1.line line)
    let checked := keyChecked q.key write
    let v : Verdict := if checked then s1.raceCheck r else { race := none, adv := none }
    let place (s : State) : State :=
      let s2 := (s.place326 r).1
      let s3 := if checked then s2.recordAccess r t else s2
      match agentCtx q.agent with
      | some (g, k) => s3.onCtx g k (fun c => { c with l := t })
      | none => s3
    if clockLimit ≤ t then .error (s.homeTrap q 0x0A6 [])
    else if !write && s1.poison.contains line then .error (s.homeTrap q 0x066 [])
    else
      match v.race, v.adv with
      | some cause, _ =>
        let words := s1.homeRecord q r write cause false q.report
        match s.homeLogWait q with
        | some t => .error t
        | none =>
          if q.report then .ok (place (s1.homeLog q r.l words))
          else .error ((s.homeLog q r.l words).homeTrap q cause words)
      | none, some cause =>
        if s1.wantsAdvice q then
          match s.homeLogWait q with
          | some t => .error t
          | none => .ok (place (s1.homeLog q r.l (s1.homeRecord q r write cause true q.report)))
        else .ok (place s1)
      | none, none => .ok (place s1)

/-- HOME_LOAD (R326). -/
def execHomeLoad (req : HomeReq) (s : State) : Host.Outcome State Fault Refusal :=
  if !HomeReq.fits req then .next s
  else
    match s.homePlace req false with
    | .error t => .next t
    | .ok t => .next t

/-- HOME_STORE (R326): the bytes named are written at the home port. -/
def execHomeStore (req : HomeReq) (data : List Byte) (s : State) : Host.Outcome State Fault Refusal :=
  if !HomeReq.fits req || decide (data.length ≠ req.size) then .next s
  else
    match s.homePlace req true with
    | .error t => .next t
    | .ok t =>
      let (g, by_, owner) : Nat × List Storer × Nat := match agentCtx req.agent with
        | some (g, k) => (g, [{ ctx := k, launch := (s.ctx g k).launch }], s.ownerOf g k)
        | none => (0, [], 0)
      let t1 := t.homeWrite (req.key / 64) (byteTable req.key data) g by_ owner false
      .next (if 64 ≤ data.length then { t1 with poison := t1.poison.filter (· ≠ req.key / 64) } else t1)

/-- LINE_RECALL (R331): the line that a core holds is written back; one that the host took back is asked for (R99). -/
def execLineRecall (line : Nat) (s : State) : Host.Outcome State Fault Refusal :=
  if s.engineHolds line then .next (s.askHost line) else .next (s.settle none line)

/-! ### The write lane (R274, R276) -/

/-- Whether an entry may depart (R274): it is full, no longer the youngest, or 64 clk old. -/
def WlqEntry.mayDepart (e : WlqEntry) (youngest : Bool) (clk : Nat) : Bool :=
  decide (64 ≤ e.bytes.length) || !youngest || decide (e.since + 64 ≤ clk)

/-- Mark the first entry that has not departed, if it may depart. -/
def departFirst (clk : Nat) : List WlqEntry → List WlqEntry
  | [] => []
  | e :: r =>
    if e.departed then e :: departFirst clk r
    else if e.mayDepart r.isEmpty clk then { e with departed := true } :: r
    else e :: r

/-- WLQ_ENTRY_DEPART (R274). -/
def execWlqEntryDepart (core : Nat) (s : State) : Host.Outcome State Fault Refusal :=
  if hasCore core then .next (s.onCore core (fun c => { c with wlq := departFirst s.clk c.wlq })) else .fault .noUnit

/-- WLQ_ENTRY_ACCEPT (R274): the home port accepts the entry at the head, which is freed. -/
def execWlqEntryAccept (core : Nat) (s : State) : Host.Outcome State Fault Refusal :=
  if hasCore core then
    match (s.core core).wlq with
    | [] => .next s
    | e :: r => .next (if e.departed then (s.acceptEntry core e).onCore core (fun c => { c with wlq := r }) else s)
  else .fault .noUnit

/-- WRITE_WINDOW_END (R276): USED falls by BUDGET for each window that has ended. -/
def execWriteWindowEnd (core : Nat) (s : State) : Host.Outcome State Fault Refusal :=
  if hasCore core then .next (s.onCore core (fun c => { c with wl := c.wl.sync s.clk })) else .fault .noUnit

/-! ### Memory channels (R278-R282) -/

/-- Whether a write must wait for an older one: to the same bytes, or of the same near-memory command, whose lines are written in
ascending order (R313). -/
def ArrayWrite.follows (w v : ArrayWrite) : Bool :=
  v.old.any (fun b => (w.old.find b.1).isSome) || (v.near && w.near && decide (v.core = w.core))

/-- The requests of a channel that are ready, the oldest first. -/
def readyWrites (chan : Nat) : List ArrayWrite → List ArrayWrite → List ArrayWrite
  | _, [] => []
  | seen, w :: r =>
    if w.chan = chan ∧ !seen.any (w.follows ·) then w :: readyWrites chan (w :: seen) r
    else readyWrites chan (w :: seen) r

/-- The request that a slot serves (R280): the oldest of its class and partition, else, with DONATE, the oldest of any. -/
def slotServes (slot : Nat) (donate : Bool) (ws : List ArrayWrite) : Option ArrayWrite :=
  let mine (w : ArrayWrite) : Bool := decide (w.part = slot % 8) && decide (slot / 64 = if w.near then 2 else 1)
  (ws.find? mine).or (if donate then ws.head? else none)

/-- HBM_SLOT_SERVICE (R279, R280): the present slot of the table is over; a cycle starts with the table committed for it. -/
def execHbmSlotService (chan : Nat) (s : State) : Host.Outcome State Fault Refusal :=
  if Config.clusterCount ≤ chan then .fault .noUnit
  else
    let t := (s.chan chan).switch
    let served := slotServes (slotByte t.live t.slot) t.donate (readyWrites chan [] s.array)
    let s1 := s.onChan chan (fun _ => { t with slot := (t.slot + 1) % 32 })
    .next (match served with
      | some w => { s1 with array := s1.array.erase w }
      | none => s1)

/-- XM_PORT_SERVICE (R282): the oldest write at the port reaches the XM device. Reads are part of the accesses that make them
(log 11). -/
def execXmPortService (die : Nat) (s : State) : Host.Outcome State Fault Refusal :=
  if 4 ≤ die then .fault .noUnit
  else
    .next (match s.array.find? (fun w => w.chan = 512 + die) with
      | some w => { s with array := s.array.erase w }
      | none => s)

/-! ### Walkers and page moves (R172, R174) -/

/-- The cluster whose cache keeps an agent's translation; none for units that have no cluster. -/
def agentCluster (a : Nat) : Option Nat := if a < 3 * 2 ^ 20 then some (a % 2 ^ 20 / 2 ^ 11) else none

/-- PAGE_WALK (R113, R174), for an agent that the part has (R21): a page found is cached, one that is not present is reported. -/
def execPageWalk (owner : Nat) (va : BitVec 64) (agent kind slot : Nat) (s : State) : Host.Outcome State Fault Refusal :=
  if regionOf va.toNat ≠ some .translated ∨ 2 ^ 24 ≤ agent ∨ !agentOk (BitVec.ofNat 24 agent) then .next s
  else
    match s.unitWalk owner va.toNat with
    | .absent => .next (s.holdFault owner va.toNat (BitVec.ofNat 24 agent) (kind % 4) (slot % 65536))
    | .malformed => .next s
    | .page _ _ =>
      match agentCluster agent with
      | some cl => .next (s.translate cl owner va.toNat).2
      | none => .next s

/-- A page's move ends (R172): the descriptor takes the destination, what the old place held is free, and the issuing context's batch
has one member less. A page that lost its last reference meanwhile is freed (R474). -/
def State.finishMove (s : State) (m : PageMove) : State :=
  let d := s.page m.page
  let s1 := match m.src with
    | .erg g f => s.onCore g (fun c => { c with frames := c.frames.set f .free })
    | .xm _ => s.onOwner d.owner (fun o => { o with xmUsed := o.xmUsed - 1 })
    | _ => s
  let s2 := match m.dest with
    | .erg g f => s1.onCore g (fun c => { c with frames := c.frames.set f (.page m.page) })
    | _ => s1
  let s3 := s2.setPage m.page { d with loc := m.dest }
  let s4 := if d.refcnt = 0 then s3.freePage m.page else s3
  (s4.onCtx m.core m.ctx (·.finishOp m.id 0 false)).onCore m.core (fun c =>
    { c with other := c.other.map (fun (e : Nat × Ctx) => (e.1, e.2.finishOp m.id 0 false)) })

/-- PAGE_MOVE_COMPLETE (R172): the oldest move of a cluster's copy engine ends. -/
def execPageMoveComplete (cluster : Nat) (s : State) : Host.Outcome State Fault Refusal :=
  if hasCluster cluster then
    match s.moves.get [] cluster with
    | [] => .next s
    | m :: r => .next ({ s.settlePage m.page with moves := s.moves.set cluster r }.finishMove m).startSends
  else .fault .noUnit

/-! ### Writes from other packages (R338, R353) -/

/-- Record a write from another package in a line's floor (R353). -/
def MetaEntry.addImport (m : MetaEntry) (r : Req) (t : Nat) : MetaEntry :=
  { m with floor := max m.floor t, map := setMap m.map r.words 3 }

/-- A write of bytes of one line that arrives from another package at its home port (R338, R353): none while the line is held, or once the clocks
are exhausted. The spec names no owner for
it: its partition is that of owner 0 (log 33). -/
def State.importStore (s : State) (src : BitVec 16) (line : Nat) (bytes : Table Byte) : Option State :=
  let die := s.homeCluster line / 128
  if s.engineHolds line then none
  else
    let s1 := s.settle none line
    let r : Req := { agent := unitAgent 7 (src.toNat % 2 ^ 12), l := s1.imports.get 0 die, h := 0, epoch := s1.dev.epoch, scope := 5,
                     atomic := false, key := line * 64, size := 64, read := false, write := true, tag := none,
                     only := some ((List.range 8).filter (fun w => bytes.any (fun b => decide (b.1 % 64 / 8 = w)))) }
    let (s2, t) := s1.place326 r
    if clockLimit ≤ t then none else
    let m := match (s2.line line).md with
      | some m => m
      | none => (s2.metaFor line s2.dev.epoch).getD { epoch := s2.dev.epoch }
    let s3 := { s2 with
      imports := s2.imports.set die t,
      lines := s2.lines.set line { s2.line line with md := some (m.addImport r t) } }
    some ((s3.touchMeta line).engineWrite line bytes 0 false)

/-- The acknowledgement of a write from another package (R337, R490). -/
def ackFlit (dst : BitVec 16) (tag : Word) : Flit :=
  { typ := 4, flags := 0, len := 0, src := BitVec.ofNat 16 homeHere, dst := dst, tag := tag, addr := 0, info := 0, payload := [] }

/-- IMPORT_WRITE (R338): bytes within one line of HBM4E homed on the die. -/
def execImportWrite (die pa : Nat) (data : List Byte) (src : Nat) (tag : BitVec 64) (s : State) : Host.Outcome State Fault Refusal :=
  if 4 ≤ die then .fault .noUnit
  else if data = [] ∨ 64 < pa % 64 + data.length ∨ s.homeCluster (hbmKey pa / 64) / 128 ≠ die then .next s
  else
    match s.importStore (BitVec.ofNat 16 src) (hbmKey pa / 64) (byteTable (hbmKey pa) data) with
    | none => .next (s.askHost (hbmKey pa / 64))
    | some t => .next { t with flits := t.flits ++ [ackFlit (BitVec.ofNat 16 src) tag] }

/-- REMOTE_ACK (R337). -/
def execRemoteAck (core ctx : Nat) (s : State) : Host.Outcome State Fault Refusal :=
  if hasContext core ctx then .next (s.onCtx core ctx (fun c => { c with acks := c.acks - 1 })) else .fault .noUnit

/-- REMOTE_LOCAL_LOAD (R289): the bank is read when the message arrives. The value and a refusal reach the load, of which this step
is a part (log 11), and nothing else changes. -/
def execRemoteLocalLoad (core ctx : Nat) (_va : BitVec 64) (_size : Nat) (s : State) : Host.Outcome State Fault Refusal :=
  if hasContext core ctx then .next s else .fault .noUnit

end Sys2Proof.Machine
end

