-- ==== Sys2Proof/Machine/StreamEvents.lean ====
section
/-! DEFINITION. What Wadi and the Barchan engines do by themselves (R482, R486, R489, R490), and the training of links (R99, R518). -/
namespace Sys2Proof.Machine

/-! ### Wadi (R482, R486) -/

/-- WADI_RESOLVE (R482): an open group that holds its N returns, or that a node with NOW resolves. -/
def execWadiResolve (die group : Nat) (s : State) : Host.Outcome State Fault Refusal :=
  if 4 ≤ die ∨ 1024 ≤ group then .fault .noUnit
  else
    let g := s.group die group
    if g.state = .opened ∧ (g.complete ∨ g.now) then .next (s.resolve die group none).1 else .next s

/-- The join node on a die's Wadi that is next: dispatched, and not yet waiting for its group. -/
def State.nextJoin (s : State) (die : Nat) : Option Inst :=
  (s.caravan die).insts.find? (fun i => decide (i.entry.kind = 6)
    && !s.groups.any (fun g => decide (g.1 / 1024 = die) && g.2.nodes.contains i.ticket))

/-- A join node that waits for nothing completes (R130, R486): Wadi acquires its entry's P and releases; a resolved group's
resolution P is carried. Where Wadi's clock would pass its limit it is lost, and its launch ends (R361, R522). -/
def State.joinDone (s : State) (die resP : Nat) (i : Inst) : State :=
  let (l0, h0) := s.wadi.get (0, 0) die
  let h := max h0 i.entry.p
  let p := max l0 (h + 1)
  if clockLimit ≤ p + 1 then (s.engineLost die i.ticket).clockStop i.entry.slot clockLimit i.entry.addr
  else { s with wadi := s.wadi.set die (p + 1, h) }.engineDone die i.ticket (max p resP)

/-- A join node is served (R486): INIT opens the group unless it is open, NOW resolves it at once, else the instance waits for the
resolution. -/
def State.serveJoin (s : State) (die : Nat) (i : Inst) : State :=
  let e := i.entry
  let r := e.record
  let n := field (r.kd 0) 0 10
  let ctl := r.kd 1
  let g0 := s.group die n
  let opens := ctl.getLsbD 63 && decide (g0.state ≠ .opened)
  let s1 := if opens then s.openGroup die n (BitVec.ofNat 64 (field ctl 0 32)) (r.kd 2) (s.launch e.slot).owner e.slot e.epoch else s
  if (s1.group die n).state = .opened then
    let s2 := s1.onGroup die n (fun g => { g with nodes := g.nodes ++ [i.ticket], p := max g.p e.p, now := g.now || ctl.getLsbD 62 })
    if ctl.getLsbD 62 then (s2.resolve die n none).1 else s2
  else s1.joinDone die g0.resP i

/-- JOIN_NODE (R486). -/
def execJoinNode (die : Nat) (s : State) : Host.Outcome State Fault Refusal :=
  if 4 ≤ die then .fault .noUnit
  else
    match s.nextJoin die with
    | some i => .next (s.serveJoin die i)
    | none => .next s

/-! ### The destination of a transfer (R489) -/

/-- The arrival to which a flit belongs. -/
def State.arrivalOf (s : State) (f : Flit) : Option Arrival := s.arrivals.find? (fun a => decide (a.src = f.src) && decide (a.tag = f.tag))

/-- Change an arrival. -/
def State.onArrival (s : State) (a : Arrival) (f : Arrival → Arrival) : State :=
  { s with arrivals := s.arrivals.map (fun (x : Arrival) => if x.src = a.src ∧ x.tag = a.tag then f x else x) }

/-- Dword i of a flit's payload. -/
def flitDword (f : Flit) (i : Nat) : Word := BitVec.ofNat 64 (natOfBytes ((f.payload.drop (8 * i)).take 8))

/-- The destination's descriptor (R489) from the one sent (R94). -/
def arrivedStream (f : Flit) (owner : Nat) : Stream :=
  let d (i : Nat) : Word := flitDword f i
  { hzn := (d 0).getLsbD 60, roshare := false, pruned := (d 0).getLsbD 57, child := false, parent := 0, jgroup := 0xFFFF,
    prio := field (d 0) 12 4, root := 0, pagesUsed := 0, resv := field (d 2) 0 32, steps := field (d 3) 32 32, horizon := field (d 3) 0 32,
    qbase := d 4, qtail := 0, qhead := 0, qlog := field (d 5) 0 8, template := d 6, position := field (d 7) 16 40, node := field (d 7) 0 16,
    gkey := d 8, gpos := field (d 9) 24 40, draw := field (d 9) 0 24, retval := d 10, ckdie := field (d 11) 16 2, ckcl := field (d 11) 9 7,
    ckv := false, ckslot := field (d 11) 0 3, owner := owner }

/-- A descriptor step of an arriving stream takes its place in the order, after the stores imported before it (R322, R323, R334). -/
def State.importStep (s : State) (src : BitVec 16) (n : Nat) : State :=
  let die := homeDie n
  let r := s.placeDesc (unitAgent 7 (src.toNat % 2 ^ 12)) (s.imports.get 0 die) n
  { r.1 with imports := if clockLimit ≤ r.2 then r.1.imports else r.1.imports.set die r.2 }

/-- Admission (R489): owner slot loaded, reservation under OQUOTA, and the lowest free ID of the die with the index of the source's
home die; or the status that refuses it. -/
def State.admitArrival (s : State) (f : Flit) : State :=
  let owner := field f.info 0 6
  let d := arrivedStream f owner
  let a : Arrival := { src := f.src, tag := f.tag, owner := owner, waiting := decide (field (flitDword f 0) 0 4 = 4) }
  let refuse (s : State) (status : Nat) : State := { s with arrivals := s.arrivals ++ [{ a with status := status }] }
  if !(s.owner owner).loaded then refuse s 1
  else
    match s.reserve owner (poolNeed d.resv) with
    | (s1, false) => refuse s1 2
    | (s1, true) =>
      match s1.lowestId (homeDie f.tag.toNat) with
      | none => refuse s 3
      | some n =>
        let s2 := (s1.importStep f.src n).admitNew n d
        { s2 with
          mem := s2.mem.putBytes (swKey n) ((f.payload.drop 96).take 32), arrivals := s2.arrivals ++ [{ a with stream := n }] }

/-- XANWELL_OPEN (R489). -/
def execXanwellOpen (flit : Flit) (s : State) : Host.Outcome State Fault Refusal :=
  if flit.typ ≠ 5 ∨ (s.arrivalOf flit).isSome ∨ s.dev.tripped then .next s else .next (s.admitArrival flit)

/-- A flit that this package sends. -/
def outFlit (typ : Nat) (dst : BitVec 16) (tag addr info : Word) : Flit :=
  { typ := typ, flags := 0, len := 0, src := BitVec.ofNat 16 homeHere, dst := dst, tag := tag, addr := addr, info := info, payload := [] }

/-- The end of an arrival (R489): a stream that came in error is retired again (log 23); the result flit is sent. -/
def State.endArrival (s : State) (a : Arrival) : State :=
  let status := if a.status ≠ 0 then a.status else if a.bad then 5 else 0
  let n := a.stream
  let s1 :=
    if a.status ≠ 0 then s
    else if a.bad then s.retire n false
    else
      (s.importStep a.src n).onStream n (fun d => { d with
        qhead := 0, qtail := a.entries, state := if a.waiting then .waitingAction else .admitted })
  let handle : Nat := if status = 0 then (handleOf n (s.stream n).gen).toNat else 0
  { s1 with
    arrivals := s1.arrivals.filter (fun x => !(decide (x.src = a.src) && decide (x.tag = a.tag))),
    flits := s1.flits ++ [outFlit 9 a.src a.tag 0 (BitVec.ofNat 64 (status + handle * 256))] }

/-- Whether everything that a close flit counts has come. -/
def Arrival.whole (a : Arrival) : Bool :=
  match a.closing with
  | some (ps, es) => decide (a.status ≠ 0) || (decide (a.chunks.length = 32 * ps) && decide (a.entries = es))
  | none => false

/-- End the arrival of a flit once it is whole. -/
def State.tryEnd (s : State) (f : Flit) : State :=
  match s.arrivalOf f with
  | some a => if a.whole then s.endArrival a else s
  | none => s

/-- A chunk of a page (R489): the page is created unshared at its HBM4E backing by its first chunk, which is
a descriptor step (R322). -/
def State.putChunk (s : State) (a : Arrival) (f : Flit) : State :=
  let addr := f.addr.toNat
  let n := a.stream
  match s.pageForWrite n (addr / 32) with
  | none => s.onArrival a (fun x => { x with bad := true })
  | some (s1, page) =>
    let s1 := if (s1.stream n).pagesUsed = (s.stream n).pagesUsed then s1 else s1.importStep a.src n
    ({ s1 with mem := s1.mem.putBytes (pageKey page (addr % 32 * 128)) (f.payload.take 128) }).onArrival a (fun x => { x with
      chunks := if x.chunks.contains addr then x.chunks else addr :: x.chunks, bad := x.bad || f.flags.getLsbD 0 })

/-- Whether a page flit stays on the link: the part has tripped (R514), or the page that it fills moves (R172). -/
def State.chunkWaits (s : State) (a : Arrival) (f : Flit) : Bool :=
  s.dev.tripped || ((s.pageAt a.stream (f.addr.toNat / 32)).map s.pageMoving).getD false

/-- XANWELL_PAGE (R489). -/
def execXanwellPage (flit : Flit) (s : State) : Host.Outcome State Fault Refusal :=
  match s.arrivalOf flit with
  | some a => .next (if flit.typ = 6 ∧ a.status = 0 ∧ !s.chunkWaits a flit then (s.putChunk a flit).tryEnd flit else s)
  | none => .next s

/-- Write entries of a queue flit into the destination owner's space, in order; false while one waits for a page, the host or an
engine. An entry that may not be written makes the transfer fail (log 23). -/
def State.putEntries (s : State) (a : Arrival) : Nat → List Byte → Nat → State × Bool
  | 0, _, _ => (s, true)
  | m + 1, bs, i =>
    if bs = [] then (s, true)
    else
      let va := (s.stream a.stream).qbase.toNat + 16 * i
      let bad (s : State) : State × Bool := State.putEntries (s.onArrival a (fun x => { x with bad := true })) a m (bs.drop 16) (i + 1)
      if a.xfail = some (pageOf va) then bad s
      else match s.lookKey a.owner va true with
      | .absent p => ({ s with free := s.free + 1 }.holdFaultAs a.owner p (freeAgent s.free) barchanWaits 3 0, false)
      | .bad => bad s
      | .ok key =>
        match s.importStore a.src (key / 64) (byteTable key (bs.take 16)) with
        | none => (s.askHost (key / 64), false)
        | some t => State.putEntries t a m (bs.drop 16) (i + 1)

/-- XANWELL_QUEUE (R489): while its entries cannot be written it stays on the link, as if it had not come. -/
def execXanwellQueue (flit : Flit) (s : State) : Host.Outcome State Fault Refusal :=
  match s.arrivalOf flit with
  | some a =>
    if flit.typ ≠ 7 ∨ a.status ≠ 0 ∨ s.dev.tripped then .next s
    else
      let n := flit.len / 16
      let i := flit.addr.toNat
      match s.putEntries a n (flit.payload.take (16 * n)) i with
      | (t, false) => .next t
      | (t, true) =>
        .next ((t.onArrival a (fun x => { x with entries := max x.entries (i + n), bad := x.bad || flit.flags.getLsbD 0 })).tryEnd flit)
  | none => .next s

/-- Ask for the chunks that are missing of the pages of which one has come (R490). -/
def Arrival.missing (a : Arrival) : List Flit :=
  let pages := (a.chunks.map (· / 32)).dedup
  (pages.flatMap (fun p => (List.range 32).map (p * 32 + ·))).filterMap (fun c =>
    if a.chunks.contains c then none else some (outFlit 2 a.src a.tag (BitVec.ofNat 64 c) 0))

/-- XANWELL_CLOSE (R489). -/
def execXanwellClose (flit : Flit) (s : State) : Host.Outcome State Fault Refusal :=
  match s.arrivalOf flit with
  | some a =>
    if flit.typ ≠ 8 ∨ s.dev.tripped then .next s
    else
      let s1 := s.onArrival a (fun x => { x with closing := some (field flit.info 0 32, field flit.info 32 32) })
      .next ({ s1 with flits := s1.flits ++ (if a.status = 0 then a.missing else []) }.tryEnd flit)
  | none => .next s

/-! ### The source of a transfer (R489) -/

/-- The transfer that this package sends under a tag. -/
def State.transferOf (s : State) (tag : Nat) : Option Transfer := s.transfers.find? (fun t => decide (t.tag = tag) && t.begun)

/-- The store of a completion record: a release that carries SMIGR's P (R489, log 23). -/
def Transfer.recordOp (t : Transfer) : EngineOp :=
  { id := 0, agent := t.agent, l := t.p + 1, h := t.p, p := t.p, epoch := t.epoch, slot := t.slot, owner := t.owner, cluster := t.die * 128,
    racemode := 1, pc := 0, stream := 0, core := none, xfail := t.xfail, waiter := barchanWaits }

/-- The children of a stub or of a stream that is frozen no more lose ROSHARE (R489), each in a descriptor step of the transfer's (R323). -/
def State.endShare (s : State) (agent : BitVec 24) (l n : Nat) : State :=
  (s.streams.filter (fun e => e.2.child && decide (e.2.parent = n) && e.2.roshare)).foldl (fun s e =>
    (s.placeDesc agent l e.1).1.onStream e.1 (fun d => { d with roshare := false })) s

/-- What the end of a transfer makes of its stream (R471, R489): a stub, or what it was at the freeze. -/
def State.endSource (s : State) (t : Transfer) (status : Nat) (handle : Word) : State :=
  let n := t.stream
  let r := s.placeDesc t.agent (t.p + 1) n
  let s := r.1.clockStop t.slot r.2
  let s1 :=
    if status = 0 then (s.dropTable n).onStream n (fun d => { d with state := .migratedStub, fwd := some handle })
    else s.onStream n (fun d => { d with state := if d.frozenFrom = .waitingAction then .waitingAction else .admitted })
  { s1.endShare t.agent (t.p + 1) n with transfers := s1.transfers.filter (fun x => x.tag ≠ t.tag) }

/-- The end of a transfer (R489): its completion record is written first, where one is named; while that cannot be written the end
waits, and an address that may not be written is left unwritten (log 23). -/
def State.endTransfer (s : State) (t : Transfer) (status : Nat) (handle : Word) : State :=
  if t.addr = 0 then s.endSource t status handle
  else
    match s.unitStore t.recordOp t.addr.toNat (dwordBytes [if status = 0 then handle else 0, BitVec.ofNat 64 status]) with
    | (s1, .pending) => s1
    | (s1, .clock) => (s1.clockStop t.slot clockLimit).endSource t status handle
    | (s1, _) => s1.endSource t status handle

/-- XANWELL_RESULT (R489). -/
def execXanwellResult (flit : Flit) (s : State) : Host.Outcome State Fault Refusal :=
  match s.transferOf flit.tag.toNat with
  | some t =>
    .next (if flit.typ = 9 ∧ flit.src = t.dest ∧ !s.dev.tripped then s.endTransfer t (field flit.info 0 8) (BitVec.ofNat 64 (field flit.info 8 56)) else s)
  | none => .next s

/-- XANWELL_LINK_FAILURE (R489): the transfer with this tag ends with status 4. -/
def execXanwellLinkFailure (transfer : Nat) (s : State) : Host.Outcome State Fault Refusal :=
  match s.transferOf transfer with
  | some t => .next (if s.dev.tripped then s else s.endTransfer t 4 0)
  | none => .next s

/-! ### Puts and gets (R490) -/

/-- The bytes that a put writes: those of its payload whose mask bit is set, by key (R490). -/
def maskBytes (mask : Word) (bs : List Byte) (key : Nat) : Table Byte :=
  ((List.range 64).filter (fun i => mask.getLsbD i)).map (fun i => (key + i, bs.getD i 0))

/-- XANWELL_PUT (R338, R490): one store of the masked bytes. ADDR is an HBM4E address (log 33). -/
def execXanwellPut (flit : Flit) (s : State) : Host.Outcome State Fault Refusal :=
  let key := hbmKey (flit.addr.toNat / 64 * 64)
  if flit.typ ≠ 1 then .next s
  else
    match s.importStore flit.src (key / 64) (maskBytes flit.info flit.payload key) with
    | none => .next (s.askHost (key / 64))
    | some t =>
      let line := key / 64
      let t1 := if flit.flags.getLsbD 0 ∧ !t.poison.contains line then { t with poison := line :: t.poison } else t
      .next { t1 with flits := t1.flits ++ [ackFlit flit.src flit.tag] }

/-- A data flit: the line as the HBM4E array holds it (R278, R490, log 33). -/
def State.lineFlit (s : State) (f : Flit) : Flit :=
  let key := hbmKey (f.addr.toNat / 64 * 64)
  { outFlit 3 f.src f.tag f.addr 0 with
    flags := if s.poison.contains (key / 64) then 1 else 0, len := 64, payload := (List.range 64).map (fun i => s.arrayByte (key + i)) }

/-- The answer to a get (R490): the page flit again for a transfer under its tag, else a data flit. -/
def State.getAnswer (s : State) (f : Flit) : Flit :=
  match s.transferOf f.tag.toNat with
  | some t => if f.src = t.dest then s.pageFlit t (f.addr.toNat / 32) (f.addr.toNat % 32) else s.lineFlit f
  | none => s.lineFlit f

/-- XANWELL_GET (R490). -/
def execXanwellGet (flit : Flit) (s : State) : Host.Outcome State Fault Refusal :=
  .next (if flit.typ = 2 then { s with flits := s.flits ++ [s.getAnswer flit] } else s)

/-- XANWELL_DATA (R490): the part has no get of its own under way that a data flit answers (a transfer's gets are answered by page
flits), so that nothing changes. -/
def execXanwellData (_flit : Flit) (s : State) : Host.Outcome State Fault Refusal := .next s

/-- XANWELL_ACK (R490): which context a put's TAG names the spec does not say; the acknowledgement counts where REMOTE_ACK takes
it (R337, log 33). -/
def execXanwellAck (_flit : Flit) (s : State) : Host.Outcome State Fault Refusal := .next s

/-- XANWELL_UNDEFINED_FLIT (R490, R518): dropped, and counted at its Xanwell port. -/
def execXanwellUndefinedFlit (port : Nat) (flit : Flit) (s : State) : Host.Outcome State Fault Refusal :=
  if 6 ≤ port then .fault .noUnit
  else .next (if 1 ≤ flit.typ ∧ flit.typ ≤ 9 then s else s.countLife (33 + 2 * port) 1)

/-! ### Links (R99, R518) -/

/-- Whether the other end of a port offers only 68-byte flits (R99): the event's rate then has 1,024 added. -/
def smallFlits (rate : Nat) : Bool := decide (1024 ≤ rate)

/-- Whether a port may come up with what the other end offers, a width, a rate and the flit size (R99); the spec gives these for the
CXL host port alone. -/
def trains (port width rate : Nat) : Bool :=
  decide (0 < width) && (decide (port ≠ 6) || ([16, 8, 4].contains width && [128, 64, 32].contains (rate % 1024) && !smallFlits rate))

/-- LINK_TRAINING (R99): a link comes up at a width and rate, or fails to (width 0); training it again is counted (R518). -/
def execLinkTraining (port width rate : Nat) (s : State) : Host.Outcome State Fault Refusal :=
  if 11 ≤ port then .fault .noUnit
  else
    let s1 := if (s.dev.ports.find port).isSome then s.countLife (32 + 2 * port) 1 else s
    .next { s1 with dev := { s1.dev with ports := s1.dev.ports.set port (if trains port width rate then (width, rate) else (0, 0)) } }

end Sys2Proof.Machine
end

