-- ==== Sys2Proof/Machine/StreamInstr.lean ====
section
/-! DEFINITION. Row D of the opcode map: the stream instructions (R177-R181, R475-R480, R484, R485, R487). -/
namespace Sys2Proof.Machine

/-! ### Shared checks -/

/-- Check a handle in the order STR.HANDLE, STR.REMOTE, STR.GEN (R178, R480); gives the stream. -/
def checkHandle (h aval : Word) : M Nat := do
  trapIf (!handleOk h) 0x162 aval
  trapIf (decide (handleHome h ≠ homeHere)) 0x163 aval
  let s ← get
  trapIf (decide ((s.stream (handleId h)).gen ≠ handleGen h)) 0x161 aval
  return handleId h

/-- States of a stream that is no more: free, retired or migrated-stub. -/
def Stream.gone (d : Stream) : Bool := decide (d.state = .free) || decide (d.state = .retired) || decide (d.state = .migratedStub)

/-- A descriptor step of the issuing context takes its place in the order (R323, R326, R361). -/
def stepPlace (n : Nat) (aval : Word) : M Unit := do
  let s ← get
  let (g, k) := s.cur
  let (s1, t) := s.placeDesc (ctxAgent g k) (s.ctx g k).l n
  trapIf (decide (clockLimit ≤ t)) 0x0A6 aval
  set s1
  onMyCtx (fun c => { c with l := t })

/-- The place and the release of a descriptor step (R323, R480): the stream's step clock takes P. -/
def stepRelease (n : Nat) (aval : Word) : M Nat := do
  stepPlace n aval
  let p ← release aval
  modify (fun s => s.onStream n (·.stamp p))
  return p

/-- Change a descriptor. -/
def onStreamM (n : Nat) (f : Stream → Stream) : M Unit := modify (fun s => s.onStream n f)

/-- Whether JGROUP's value is one (R94). -/
def groupOk (g : Nat) : Bool := decide (g ≤ 1023) || decide (g = 0xFFFF)

/-! ### SNEW, FORK, SBIND -/

/-- Whether a creation block is in range (R177). -/
def creationOk (ws : List Word) : Bool :=
  let w2 := ws.getD 2 0
  let resv := field (ws.getD 0 0) 0 32
  decide (1 ≤ resv) && decide (resv ≤ 262144) && decide ((ws.getD 1 0).toNat % 64 = 0) && groupOk (field w2 16 16)
    && decide (2 ≤ field w2 0 8) && decide (field w2 0 8 ≤ 16) && decide (field w2 12 4 = 0) && decide (field w2 32 32 = 0)

/-- The descriptor that a creation block gives (R94, R177). -/
def newStream (ws : List Word) (owner p : Nat) : Stream :=
  let w0 := ws.getD 0 0
  let w2 := ws.getD 2 0
  { horizon := field w0 32 32, resv := field w0 0 32, qbase := ws.getD 1 0, jgroup := field w2 16 16, prio := field w2 8 4,
    qlog := field w2 0 8, gkey := ws.getD 3 0, node := 0xFFFF, owner := owner, clock := p }

/-- SNEW (R177). -/
def execSnew (x : RFields) (s : State) : Host.Outcome State Fault Refusal :=
  issue (.snew x) (fun v => do
    let a ← src x.a
    let b ← src x.b
    trapIf (decide (a.toNat % 32 ≠ 0)) 0x061 a
    let ws ← loadDwords a v 4
    trapIf (decide (2 ^ 24 ≤ b.toNat) || !creationOk ws) 0x168 v.aval
    let (g, k) ← me
    let s ← get
    match s.takeId b.toNat (dieOf g) (s.ownerOf g k) (field (ws.getD 0 0) 0 32) with
    | (s1, .error r) => do
      set s1
      dst x.d r
    | (s1, .ok n) => do
      set s1
      stepPlace n v.aval
      let p ← release v.aval
      modify (fun s => s.admitNew n (newStream ws (s.ownerOf g k) p))
      let s ← get
      dst x.d (handleOf n (s.stream n).gen)) s

/-- Whether a fork block is in range (R178). -/
def forkOk (ws : List Word) : Bool :=
  let w1 := ws.getD 1 0
  let w3 := ws.getD 3 0
  decide ((ws.getD 0 0).toNat % 64 = 0) && decide (w1.toNat < 2 ^ 26) && decide (field w3 32 32 = 0) && decide (field w3 12 4 = 0)
    && decide (field w3 0 8 = 0) && (!w1.getLsbD 25 || groupOk (field w3 16 16))

/-- The descriptor of a child (R178). -/
def childStream (parent : Stream) (id : Nat) (ws : List Word) (p : Nat) : Stream :=
  let w1 := ws.getD 1 0
  let w3 := ws.getD 3 0
  { parent with
    child := true, parent := id, pruned := false, qbase := ws.getD 0 0, qhead := 0, qtail := 0, retval := 0, ckv := false,
    gkey := if w1.getLsbD 24 then ws.getD 2 0 else parent.gkey,
    jgroup := if w1.getLsbD 25 then field w3 16 16 else parent.jgroup,
    prio := if w1.getLsbD 25 then field w3 8 4 else parent.prio,
    roshare := decide (parent.state = .frozen), clock := p, drive := none, driveSteps := 0, frozenFrom := .free }

/-- FORK (R178). DESIGN CHOICE (log 51): the fork block is checked after the handle and before the parent's STATE. -/
def execFork (x : RFields) (s : State) : Host.Outcome State Fault Refusal :=
  issue (.fork x) (fun v => do
    let a ← src x.a
    let b ← src x.b
    let n ← checkHandle a v.aval
    trapIf (decide (b.toNat % 32 ≠ 0)) 0x061 b
    let ws ← loadDwords b v 4
    trapIf (!forkOk ws) 0x168 v.aval
    let s ← get
    let d := s.stream n
    if d.gone then dst x.d (-4)
    else if (s.node d.root).refcnt = 65535 then dst x.d (-3)
    else
      match s.takeId (field (ws.getD 1 0) 0 24) (dieOf s.cur.1) d.owner d.resv with
      | (s1, .error r) => do
        set s1
        dst x.d r
      | (s1, .ok m) => do
        set s1
        stepPlace m v.aval
        let p ← release v.aval
        modify (fun s => s.admitChild m (childStream d n ws p))
        let s ← get
        dst x.d (handleOf m (s.stream m).gen)) s

/-- SBIND (R179). -/
def execSbind (x : RFields) (s : State) : Host.Outcome State Fault Refusal :=
  issue (.sbind x) (fun v => do
    let a ← src x.a
    let c ← myCtx
    if a = 0 then pure ()
    else do
      let n ← checkHandle a v.aval
      let s ← get
      trapIf (s.stream n).gone 0x164 v.aval
      modify (fun s => s.loadSpm (dieOf s.cur.1) n)
      acquire (s.stream n).clock v.aval
    onMyCtx (fun c => { c with stream := a })
    dst x.d c.stream) s

/-! ### PPLACE and SQUERY -/

/-- Whether PPLACE's operands are in range (R180). -/
def placeArgOk (a b : Word) : Bool :=
  decide (a.toNat < 2 ^ 28) && decide (field b 0 3 ≤ 3)
    && (if field b 0 3 = 3 then decide (field b 3 6 = 0) && decide (b.toNat < 2 ^ 18) else decide (b.toNat < 8))

/-- PPLACE (R180): it waits until none of the pages is moving (R172, log 50). -/
def execPplace (x : RFields) (s : State) : Host.Outcome State Fault Refusal :=
  issue (.pplace x) (fun v => do
    let a ← src x.a
    let b ← src x.b
    let c ← myCtx
    trapIf (decide (c.stream = 0)) 0x165 v.aval
    let n ← checkHandle c.stream v.aval
    let s ← get
    trapIf (s.stream n).gone 0x164 v.aval
    trapIf (decide ((s.stream n).state = .frozen)) 0x169 v.aval
    trapIf (!placeArgOk a b) 0x168 v.aval
    let (g, k) ← me
    let cl := if field b 0 3 = 3 then field b 16 2 * 128 + field b 9 7 else clusterOf g
    let dest := if field b 0 3 = 3 then 0 else field b 0 3
    let pages := (List.range (field a 18 10 + 1)).map (field a 0 18 + ·)
    if pages.any (fun p => ((s.pageAt n p).map s.pageMoving).getD false) then wait else pure ()
    let (s1, ids, why) := s.placePages n dest cl g k pages
    set s1
    onMyCtx (fun c => { c with openBatch := { c.openBatch with ops := c.openBatch.ops ++ ids, used := c.openBatch.used || !ids.isEmpty } })
    dst x.d (BitVec.ofNat 64 (ids.length + why * 2 ^ 32))) s

/-- Whether a word is a place word (R19, R20). DESIGN CHOICE (log 51): one whose bits 63-32 are not zero is none. -/
def placeOk (w : Word) : Bool :=
  decide (w.toNat < 2 ^ 32) && decide (field w 12 7 ≤ 79) && decide (field w 8 4 ≤ 12) && decide (field w 0 8 = 0)

/-- SQUERY (R181). -/
def execSquery (x : RFields) (s : State) : Host.Outcome State Fault Refusal :=
  issue (.squery x) (fun v => do
    let s ← get
    let die := dieOf s.cur.1
    match x.fn.toNat with
    | 4 => do
      let a ← src x.a
      trapIf (!placeOk a) 0x168 v.aval
      dst x.d (BitVec.ofNat 64 (((clusterCores (targetPlace a.toNat)).map (fun g => ((s.core g).freeFrames).length)).sum))
    | 5 => dst x.d ((s.caravan die).stale.setWidth 64)
    | fn => do
      let a ← src x.a
      let n ← checkHandle a v.aval
      let d := s.stream n
      match fn with
      | 0 => do
        acquire d.clock v.aval
        dst x.d (d.dword 0)
      | 1 => do
        let b ← src x.b
        acquire d.clock v.aval
        dst x.d (match (if b.toNat < 262144 then s.pageAt n b.toNat else none) with
          | some p => pageDword p (s.page p)
          | none => 0)
      | 2 => do
        acquire d.clock v.aval
        dst x.d (d.dword 2)
      | 3 => dst x.d (if (s.caravan die).spm.contains n then 1 else 0)
      | _ => do
        let b ← src x.b
        let leaf := if b.toNat < 262144 then (s.node d.root).entries.find (b.toNat / 512) else none
        dst x.d (BitVec.ofNat 64 ((s.node d.root).refcnt + ((leaf.map (fun l => (s.node l).refcnt)).getD 0) * 2 ^ 16))) s

/-! ### SSTEP -/

/-- Record a checkpoint slot (R478). -/
def recordCkpt (n : Nat) (a b aval : Word) : M Unit := do
  let e ← myEngine'
  let s ← get
  let (g, k) := s.cur
  let fits := match e.slots.find (b.toNat % 8) with
    | some c => decide (c.tag = a) && decide (c.owner = s.ownerOf g k)
    | none => false
  trapIf (decide (8 ≤ b.toNat) || !fits) 0x16B aval
  onStreamM n (fun d => { d with ckdie := dieOf g, ckcl := clusterOf g % 128, ckslot := b.toNat % 8, ckv := true })
where
  /-- The engine of the issuing context's cluster. -/
  myEngine' : M MatrixEngine := do
    let s ← get
    return s.engine (clusterOf s.cur.1)

/-- SSTEP (R477). -/
def execSstep (x : RFields) (s : State) : Host.Outcome State Fault Refusal :=
  issue (.sstep x) (fun v => do
    let a ← src x.a
    let n ← checkHandle a v.aval
    let s ← get
    let d := s.stream n
    trapIf (decide (d.state = .frozen)) 0x169 v.aval
    let old ← (match x.fn.toNat with
      | 0 => do
        let b ← src x.b
        trapIf (decide (2 ^ 32 ≤ b.toNat)) 0x168 v.aval
        onStreamM n (fun d => { d with horizon := b.toNat, hzn := decide (b ≠ 0) && decide (b.toNat ≤ d.steps) })
        return d.dword 3
      | 1 => do
        let b ← src x.b
        onStreamM n (fun d => { d with gpos := field b 24 40, draw := field b 0 24 })
        return d.dword 9
      | 2 => do
        let b ← src x.b
        recordCkpt n a b v.aval
        return d.dword 11
      | 3 => do
        onStreamM n (fun d => { d with ckv := false })
        return d.dword 11
      | _ => do
        let b ← src x.b
        trapIf (decide (2 ^ 40 ≤ b.toNat) || decide (d.state = .ready) || decide (d.state = .running)) 0x168 v.aval
        onStreamM n (fun d => { d with position := b.toNat })
        return d.dword 7)
    let _ ← stepRelease n v.aval
    dst x.d old) s

/-! ### The action queue (R479) -/

/-- The two dwords of a pushed action's entry (R98, R479). -/
def pushedEntry (d : Stream) (act : Word) : Word × Word :=
  (BitVec.ofNat 64 (act.toNat % 2 ^ 32), BitVec.ofNat 64 (d.draw % 2 ^ 24 * 2 ^ 32 + d.steps % 2 ^ 32))

/-- APUSH (R479). -/
def execApush (x : RFields) (s : State) : Host.Outcome State Fault Refusal :=
  issue (.apush x) (fun v => do
    let a ← src x.a
    let b ← src x.b
    let n ← checkHandle a v.aval
    let s ← get
    let d := s.stream n
    trapIf (decide (d.state = .frozen)) 0x169 v.aval
    trapIf d.gone 0x164 v.aval
    trapIf (decide (2 ^ 32 ≤ b.toNat)) 0x168 v.aval
    if d.full then
      if x.fn = 1 then dst x.d (-1) else trap 0x16A v.aval
    else do
      let va := BitVec.ofNat 64 (d.entryAddr d.qtail)
      let (lo, hi) := pushedEntry d b
      storeBytes va (bytesOfNat 8 lo.toNat) 6 4 [(va, bytesOfNat 8 lo.toNat)] v
      storeBytes (va + 8) (bytesOfNat 8 hi.toNat) 6 4 [(va + 8, bytesOfNat 8 hi.toNat)] v
      onStreamM n (fun d => { d with qtail := (d.qtail + 1) % 2 ^ 24 })
      let p ← stepRelease n v.aval
      if d.state = .waitingAction then modify (fun s => s.wakeStream n p) else pure ()
      dst x.d (BitVec.ofNat 64 (d.held + 1))) s

/-- APOP (R479). -/
def execApop (x : RFields) (s : State) : Host.Outcome State Fault Refusal :=
  issue (.apop x) (fun v => do
    let a ← src x.a
    let n ← checkHandle a v.aval
    let s ← get
    let d := s.stream n
    let pop := decide (x.fn = 0)
    trapIf (pop && decide (d.state = .frozen)) 0x169 v.aval
    trapIf d.gone 0x164 v.aval
    acquire d.clock v.aval
    if d.held = 0 then do
      dst x.d 0
      dstNext x.d (-1)
    else do
      let va := BitVec.ofNat 64 (d.entryAddr d.qhead)
      let lo ← loadDword va v.aval v.pc
      let hi ← loadDword (va + 8) v.aval v.pc
      if pop then do
        onStreamM n (fun d => { d with qhead := (d.qhead + 1) % 2 ^ 24 })
        let _ ← stepRelease n v.aval
        pure ()
      else pure ()
      dst x.d lo
      dstNext x.d hi) s

/-! ### STRUNC (R475, R476) -/

/-- Read a dword of the stream unit at an address of an owner's space, without a race check; a page that is not present is held for
the issuing context (R113, R476), and the read waits for a slot (R280). -/
def unitDword (owner va : Nat) : M Word := do
  let s ← get
  let (g, k) := s.cur
  trapIf (decide ((s.ctx g k).xfail = some (pageOf va))) 0x062 (BitVec.ofNat 64 va)
  if s.stillHeld owner va (ctxAgent g k) then wait else pure ()
  match s.lookDword owner va with
  | .ok w => return w
  | .bad => trap 0x063 (BitVec.ofNat 64 va)
  | .absent va =>
    if s.slotWaits owner va then wait
    else waitAnd (fun s => s.holdFault owner va (ctxAgent g k) 0 (((s.ctx g k).launch.map (·.1)).getD 0))

/-- The tail that STRUNC leaves: entries from the last backwards with STEPAT of at least c are dropped (R476). -/
def keptTail (d : Stream) (c : Nat) : Nat → Nat → M Nat
  | 0, t => return t
  | n + 1, t => do
    let last := (t + 2 ^ 24 - 1) % 2 ^ 24
    let w ← unitDword d.owner (d.entryAddr last + 8)
    if c ≤ w.toNat % 2 ^ 32 then keptTail d c n last else return t

/-- Store bytes of the issuing context in pieces that lie within a line, the first at address `va`, at scope pkg and tagged P, into the queue
entries that it has been given (R272, R274, R476). -/
def storePieces (p : Nat) (pc : Word) (va : Word) : List (Nat × List Byte) → M Unit
  | [] => pure ()
  | (key, bs) :: r => do
    settleMineFor true (key / 64)
    makeRoom (key / 64)
    putStore key bs 4 0 0 va
    let s ← get
    let _ ← homeAccess (ctxReq s key bs.length false true false 4 (some p)) va pc
    storePieces p pc (va + BitVec.ofNat 64 bs.length) r

/-- The zeros that STRUNC stores from a key on, one store of the issuing context at scope pkg (R476): its charge and its queue entries, of more
lines than there are entries the first (R276, R277, log 2), then the pieces; the lines that it writes whole are poisoned no more
(R516). -/
def storeZeros (p : Nat) (pc va : Word) (key n : Nat) : M Unit := do
  let pieces := lineParts n key (List.replicate n 0)
  let core ← myCore
  let charge := (pieces.map (fun x => storeCharge core (x.1 / 64) x.2.length 4)).sum
  takeBudget charge va
  needEntries (min 16 pieces.length) charge va
  storePieces p pc va pieces
  modify (fun s => s.storedWhole s.cur.1 ((pieces.filter (fun x => x.2.length = 64)).map (·.1 / 64)))

/-- Clear the tail of a partly kept page (R475, R476): %tval of a fault is the byte's address in the stream window. -/
def clearTail (n page off p : Nat) (pc aval : Word) : M Unit := do
  let s ← get
  match s.pageAt n page with
  | none => pure ()
  | some id => do
    needPage id
    let s ← get
    if s.copyWaits n page then wait else pure ()
    let va := BitVec.ofNat 64 (0x00FE000000000000 + page * 4096 + off)
    match s.windowWrite (ctxAgent s.cur.1 s.cur.2) (s.ctx s.cur.1 s.cur.2).l n page with
    | none => trap 0x167 aval
    | some (s1, id, t) => do
      trapIf (decide (clockLimit ≤ t)) 0x0A6 va
      set s1
      onMyCtx (fun c => { c with l := t })
      storeZeros p pc va (pageKey id off) (4096 - off)

/-- STRUNC (R476). -/
def execStrunc (x : RFields) (s : State) : Host.Outcome State Fault Refusal :=
  issue (.strunc x) (fun v => do
    let a ← src x.a
    let b ← srcB x
    let c ← src v.e.c
    let n ← checkHandle a v.aval
    let s ← get
    let d := s.stream n
    trapIf (decide (d.state = .frozen)) 0x169 v.aval
    trapIf (!(decide (d.state = .admitted) || decide (d.state = .waitingAction))) 0x164 v.aval
    trapIf (decide (2 ^ 30 ≤ b.toNat) || decide (2 ^ 32 ≤ c.toNat) || decide (d.steps < c.toNat)) 0x168 v.aval
    let kp := (b.toNat + 4095) / 4096
    let tail ← keptTail d c.toNat d.held d.qtail
    let p ← stepRelease n v.aval
    let gone := (s.mapped n).filter (fun i => decide (kp ≤ i))
    if gone.any (s.copyWaits n) then wait else pure ()
    modify (fun s => gone.foldl (fun s i => s.unmapPage n i) s)
    if b.toNat % 4096 = 0 then pure () else clearTail n (kp - 1) (b.toNat % 4096) p v.pc v.aval
    onStreamM n (fun d => { d with
      qtail := tail, steps := c.toNat, hzn := decide (d.horizon ≠ 0) && decide (d.horizon ≤ c.toNat),
      gpos := if v.e.f2 then c.toNat else d.gpos, draw := if v.e.f2 then 0 else d.draw })
    dst x.d (BitVec.ofNat 64 (gone.length + (d.qtail + 2 ^ 24 - tail) % 2 ^ 24 % 65536 * 2 ^ 32))) s

/-! ### SRET, JOIN, SMIGR -/

/-- SRET (R484). -/
def execSret (x : RFields) (s : State) : Host.Outcome State Fault Refusal :=
  issue (.sret x) (fun v => do
    let a ← src x.a
    let n ← checkHandle a v.aval
    let s ← get
    let d := s.stream n
    if x.fn = 0 then do
      let b ← src x.b
      trapIf (decide (d.state = .frozen)) 0x169 v.aval
      trapIf d.gone 0x164 v.aval
      onStreamM n (fun d => { d with retval := b })
      let p ← stepRelease n v.aval
      let s ← get
      match s.report n p with
      | some s1 => do
        set s1
        dst x.d 1
      | none => dst x.d 0
    else do
      trapIf (!(decide (d.state = .admitted) || decide (d.state = .waitingAction) || decide (d.state = .migratedStub))) 0x164 v.aval
      let before := s.pages.length
      let _ ← stepRelease n v.aval
      modify (fun s => s.retire n false)
      let s ← get
      dst x.d (BitVec.ofNat 64 (before - s.pages.length))) s

/-- JOIN (R485). -/
def execJoin (x : RFields) (s : State) : Host.Outcome State Fault Refusal :=
  issue (.join x) (fun v => do
    let a ← src x.a
    trapIf (decide (2 ^ 12 ≤ a.toNat)) 0x168 v.aval
    let die := field a 10 2
    let n := field a 0 10
    let s ← get
    let g := s.group die n
    match x.fn.toNat with
    | 0 => do
      let b ← src x.b
      trapIf (decide (b.toNat % 16 ≠ 0)) 0x061 b
      let ws ← loadDwords b v 2
      trapIf (!joinCfgOk (ws.getD 0 0)) 0x168 v.aval
      if g.state = .opened then dst x.d (-1)
      else do
        let _ ← release v.aval
        modify (fun s =>
          let l := ((s.ctx s.cur.1 s.cur.2).launch).getD (0, 0)
          s.openGroup die n (ws.getD 0 0) (ws.getD 1 0) (s.ownerOf s.cur.1 s.cur.2) l.1 l.2)
        dst x.d 0
    | 1 =>
      if g.state ≠ .opened then dst x.d (-1)
      else do
        let p ← release v.aval
        let s ← get
        trapIf (s.resolution die n (some p)).isNone 0x0A6 v.aval
        match s.resolve die n (some p) with
        | (_, none) => waitAnd (fun s => (s.resolve die n (some p)).1)
        | (s1, some pruned) => do
          set s1
          dst x.d (BitVec.ofNat 64 pruned)
    | 2 => dst x.d (BitVec.ofNat 64 (g.rets.length + joinN g.cfg * 2 ^ 16 + (match g.state with
        | .free => 0
        | .opened => 1
        | .resolved => 2) * 2 ^ 32))
    | _ =>
      if g.state = .opened then dst x.d (-1)
      else do
        let _ ← release v.aval
        modify (fun s => s.onGroup die n (fun _ => {}))
        dst x.d 0) s

/-- SMIGR (R487). A stream that is already marked takes the later destination and record (log 23). -/
def execSmigr (x : RFields) (s : State) : Host.Outcome State Fault Refusal :=
  issue (.smigr x) (fun v => do
    let a ← src x.a
    let b ← srcB x
    let c ← src v.e.c
    let n ← checkHandle a v.aval
    trapIf (decide (2 ^ 12 ≤ b.toNat) || decide (b.toNat = homeHere)) 0x168 v.aval
    trapIf (decide (c.toNat % 16 ≠ 0)) 0x061 c
    let s ← get
    let (g, k) := s.cur
    let d := s.stream n
    trapIf d.gone 0x164 v.aval
    if d.state = .frozen then dst x.d (-2)
    else if 16 ≤ (s.transfers.filter (fun t => t.die = dieOf g)).length then dst x.d (-1)
    else do
      let p ← stepRelease n v.aval
      let l := ((s.ctx g k).launch).getD (0, 0)
      modify (fun s =>
        let t : Transfer := { tag := n, die := dieOf g, stream := n, owner := s.ownerOf g k, slot := l.1, epoch := l.2,
                              agent := ctxAgent g k, dest := b.setWidth 16, addr := c, p := p }
        { s with transfers := s.transfers.filter (fun (y : Transfer) => !(decide (y.stream = n) && !y.begun)) ++ [t] }.freezeMarked n)
      dst x.d 0) s

end Sys2Proof.Machine
end

