-- ==== Sys2Proof/Machine/System.lean ====
section
/-! DEFINITION. Row E of the opcode map: special registers (R140, R408, R423-R425, R429), TRAP, ERET, BRK, HALT (R427, R428, R430,
R431) and the posted-store journal (R432). -/
namespace Sys2Proof.Machine

/-! ### Values of special registers -/

/-- %ctx (R140). -/
def Ctx.ctxWord (c : Ctx) (k : Nat) : Word :=
  BitVec.ofNat 64 (c.hlive.toNat * 2 ^ 16 + c.qset * 2 ^ 13 + (match c.fe with | .a => 0 | .x => 2 ^ 12) + k)

/-- %tstat (R408). -/
def Ctx.tstat (c : Ctx) : Word := BitVec.ofNat 64 ((if c.pend = [] then 0 else 256) + (if c.intrap then 1 else 0))

/-- %wlbud (R275). -/
def WriteLane.budWord (w : WriteLane) : Word :=
  BitVec.ofNat 64 ((if w.trap then 2 ^ 63 else 0) + w.used % 2 ^ 24 * 2 ^ 32 + w.budget)

/-- %wlwin (R275). -/
def WriteLane.winWord (w : WriteLane) : Word := BitVec.ofNat 64 (w.stallc.toNat * 2 ^ 32 + w.log)

/-- %domain (R383). -/
def State.domainWord (s : State) (g : Nat) : Word :=
  match (s.core g).domain with
  | some d => BitVec.ofNat 64 (128 + (if (s.domainOf d).exchanging then 64 else 0) + d)
  | none => 0

/-- %psj (R425): entries in use, pending entries of the context, and entries refused to it in this launch. -/
def State.psj (s : State) (g k : Nat) : Word :=
  let e (i : Nat) : JEntry := (s.core g).journal.get {} i
  let all := List.range 32
  let used := (all.filter (fun i => (e i).state ≠ .free)).length
  let pend := (all.filter (fun i => (e i).state = .pending && decide ((e i).ctx = k))).length
  let mine (i : Nat) : Bool := (e i).state = .refused && decide ((e i).ctx = k)
    && decide ((s.ctx g k).launch = some ((e i).org.slot, (e i).org.epoch))
  BitVec.ofNat 64 (used * 2 ^ 40 + pend * 2 ^ 32 + ((all.filter mine).map (fun i => 2 ^ i)).sum)

/-- Word i of %xslot: 0 in a core that has left its domain, until it joins another (R383). -/
def Core.slotWord (c : Core) (i : Nat) : Word := if c.leftDomain then 0 else c.xslot.get 0 i

/-- A special register of a context; none for a number that names no register (R423). -/
def State.sreg (s : State) (g k n : Nat) : Option Word :=
  let c := s.ctx g k
  match n with
  | 0x000 => some (BitVec.ofNat 64 s.clk)
  | 0x001 => some (s.place g k)
  | 0x002 => some ((ctxAgent g k).setWidth 64)
  | 0x003 => some (c.ctxWord k)
  | 0x004 => some (BitVec.ofNat 64 c.wbase)
  | 0x005 => some (BitVec.ofNat 64 ((Config.imageAddress g k (s.core g).shelf).toNat * 2 ^ 15))
  | 0x006 => some (BitVec.ofNat 64 (c.grant + if c.shrunk then 256 else 0))
  | 0x008 => some (BitVec.ofNat 64 c.l)
  | 0x009 => some (BitVec.ofNat 64 c.h)
  | 0x010 => some c.tvec
  | 0x011 => some c.tcause
  | 0x012 => some c.epc
  | 0x013 => some c.tval
  | 0x014 => some c.tstat
  | 0x018 => some c.racemode
  | 0x020 => some (s.lane g).budWord
  | 0x021 => some (s.lane g).winWord
  | 0x028 => some c.stream
  | 0x029 => some c.gkey
  | 0x02A => some c.gpos
  | 0x030 => some (s.superstep g)
  | 0x031 => some (s.domainWord g)
  | 0x034 => some ((s.core g).slotWord 0)
  | 0x035 => some ((s.core g).slotWord 1)
  | 0x036 => some ((s.core g).slotWord 2)
  | 0x037 => some ((s.core g).slotWord 3)
  | 0x038 => some (s.psj g k)
  | _ => if 0x100 ≤ n ∧ n < 0x120 then some (((s.core g).frame k).get 0 (n - 0x100)) else none

/-! ### Writes of special registers (R424) -/

/-- A write of %wlbud (R275, R424). -/
def WriteLane.setBud (w : WriteLane) (v : Word) : WriteLane :=
  let b := v.toNat % 2 ^ 24
  { w with trap := v.getLsbD 63, budget := if b = 0 ∨ w.cap < b then w.cap else b }

/-- A write of %wlwin at clk t (R275). -/
def WriteLane.setWin (w : WriteLane) (v : Word) (t : Nat) : WriteLane :=
  let n := max 8 (min 16 (v.toNat % 32))
  { w with log := n, win := t / 2 ^ n }

/-- %racemode as stored (R355). -/
def racemodeWord (v : Word) : Word :=
  let n := max 6 (v.toNat / 256 % 16)
  BitVec.ofNat 64 (v.toNat / 4096 % 2 ^ 44 * 4096 + n * 256 + v.toNat / 4 % 2 * 4 + v.toNat % 2)

/-- Write a special register: the cause where the write is refused (R424). -/
def writeSreg (n : Nat) (v tval : Word) : M Unit := do
  let s ← get
  let (g, k) := s.cur
  match n with
  | 0x010 => do
    trapIf (decide (v.toNat % 64 ≠ 0) || decide (2 ^ 56 ≤ v.toNat)) 0x1E4 tval
    onMyCtx (fun c => { c with tvec := v })
  | 0x011 => onMyCtx (fun c => { c with tcause := v &&& 0xDFF })
  | 0x012 => do
    trapIf (decide (v.toNat % 4 ≠ 0) || decide (2 ^ 56 ≤ v.toNat)) 0x1E4 tval
    onMyCtx (fun c => { c with epc := v })
  | 0x013 => onMyCtx (fun c => { c with tval := v })
  | 0x018 => onMyCtx (fun c => { c with racemode := racemodeWord v })
  | 0x020 => onMyCore (fun c => { c with wl := (c.wl.sync s.clk).setBud v })
  | 0x021 => onMyCore (fun c => { c with wl := (c.wl.sync s.clk).setWin v s.clk })
  | 0x029 => onMyCtx (fun c => { c with gkey := v })
  | 0x02A => onMyCtx (fun c => { c with gpos := v })
  | _ =>
    if 0x034 ≤ n ∧ n ≤ 0x037 then do
      trapIf (s.core g).domain.isNone 0x1E4 tval
      onMyCore (fun c => { c with xslot := c.xslot.set (n - 0x034) v })
    else if (s.sreg g k n).isSome then trap 0x1E3 tval
    else trap 0x1E2 tval

/-! ### Instructions -/

/-- TRAP (R427). -/
def execTrap (x : IFields) (s : State) : Host.Outcome State Fault Refusal :=
  issue (.trap x) (fun _ => do
    let a ← src x.a
    throw (.trap { cause := x.imm.toNat, tval := a, next := true })) s

/-- ERET (R428). -/
def execEret (x : RFields) (s : State) : Host.Outcome State Fault Refusal :=
  issue (.eret x) (fun v => do
    let c ← myCtx
    trapIf (!c.intrap) 0x1E5 v.aval
    let (_, k) ← me
    let core ← myCore
    onMyCtx (·.returnFromTrap ((core.frame k).get 0 3))) s

/-- SYSR (R429). -/
def execSysr (x : IFields) (s : State) : Host.Outcome State Fault Refusal :=
  issue (.sysr x) (fun v => do
    let s ← get
    match s.sreg s.cur.1 s.cur.2 x.imm.toNat with
    | some w => dst x.d w
    | none => trap 0x1E2 v.aval) s

/-- SYSW (R424, R429). -/
def execSysw (x : IFields) (s : State) : Host.Outcome State Fault Refusal :=
  issue (.sysw x) (fun v => do
    let a ← src x.a
    writeSreg x.imm.toNat a v.aval) s

/-- BRK (R430). -/
def execBrk (x : IFields) (s : State) : Host.Outcome State Fault Refusal :=
  issue (.brk x) (fun _ => throw (.trap { cause := 0x1E1, tval := x.imm, next := true })) s

/-- HALT (R431). -/
def execHalt (x : RFields) (s : State) : Host.Outcome State Fault Refusal :=
  issue (.halt x) (fun _ => do
    let a ← src x.a
    trap 0x1E6 a) s

/-- Whether a context may name a journal entry (R432). -/
def State.ownsEntry (s : State) (g k i : Nat) : Bool :=
  let e := (s.core g).journal.get {} i
  decide (i < 32) && e.state ≠ .free && decide ((s.ctx g k).launch = some (e.org.slot, e.org.epoch))

/-- Remove the pending refusal of an entry (R432). -/
def Ctx.unpend (c : Ctx) (i : Nat) : Ctx := { c with pend := c.pend.filter (fun p => p ≠ .refused i) }

/-- Free a refused entry of a core's journal (R432). -/
def Core.freeEntry (c : Core) (i : Nat) : Core :=
  { c with journal := c.journal.set i {}, ctxs := c.ctxs.map (fun (e : Nat × Ctx) => (e.1, e.2.unpend i)) }

/-- JRNL (R432). -/
def execJrnl (x : RFields) (s : State) : Host.Outcome State Fault Refusal :=
  issue (.jrnl x) (fun v => do
    let a ← src x.a
    let s ← get
    let i := a.toNat
    trapIf (!s.ownsEntry s.cur.1 s.cur.2 i) 0x1A3 v.aval
    let e := (s.core s.cur.1).journal.get {} i
    match x.fn.toNat with
    | 0 => dst x.d e.status
    | 1 => dst x.d e.addr
    | 2 => dst x.d e.value
    | _ => do
      trapIf (decide (e.state ≠ .refused)) 0x1A3 v.aval
      onMyCore (·.freeEntry i)
      dst x.d 0) s

end Sys2Proof.Machine
end

