-- ==== Sys2Proof/Machine/VectorArith.lean ====
section
/-! DEFINITION. Row 8 of the opcode map with VSFU and VQUANT (R227-R237): element-wise arithmetic, comparison, selection,
conversion, special functions and quantisation. -/
namespace Sys2Proof.Machine

/-! ### Lanes -/

/-- Active lanes with their index among the active lanes. -/
def Ctx.activeIx (c : Ctx) (m : BitVec 3) : List (Nat × Nat) := (List.range (c.active m).length).zip (c.active m)

/-- Write lanes of a register, each value computed from the registers as they stood (R227). -/
def putLanes (vd : Nat) (lanes : List (Nat × Lane)) : M Unit :=
  onMyCtx (fun c => lanes.foldl (fun c e => c.setLane vd e.1 e.2) c)

/-- Write a mask register: bits at or above ln are 0 (R227). -/
def putMask (md : BitVec 5) (bits : List Nat) : M Unit := do
  onMyCtx (fun c =>
    let m : BitVec 128 := BitVec.ofNat 128 ((bits.filter (· < c.grant)).foldl (fun acc i => acc ||| 2 ^ i) 0)
    { c with masks := c.masks.set (md.toNat % 8) m })
  modify (fun s => s.traceMask s.cur.1 s.cur.2 (md.toNat % 8))

/-- A literal as the b operand of an element-wise entry (R229): its low bits in every element. -/
def literalLane (bits : Nat) (v : Word) : Lane :=
  laneOfElems bits (List.replicate (32 / bits) (v.toNat % 2 ^ bits))

/-- One result lane: element j from the draw, the prior element of vd, and the elements of va and vb (R231). -/
def resultLane (bits : Nat) (f : Nat → Nat → Nat → Nat → Nat) (draw : Nat → Nat) (p : Nat) (z x y : Lane) : Lane :=
  let n := 32 / bits
  laneOfElems bits ((List.range n).map (fun j => f (draw (p * n + j)) (laneElem bits z j) (laneElem bits x j) (laneElem bits y j)))

/-- An element-wise instruction (R227, R231): `draws` per element. -/
def elementwise (x : VFields) (v : Env) (rounds : Bool) (f : Nat → Nat → Nat → Nat → Nat) : M Unit := do
  let c ← myCtx
  let w := tyBits v.e.ty.toNat
  let lanes := c.activeIx x.m
  let draw ← if rounds then drawsFor v.e.rm (lanes.length * (32 / w)) v.aval else pure (fun _ => 0)
  putLanes x.vd.toNat (lanes.map (fun e =>
    (e.2, resultLane w f draw e.1 (c.lane x.vd.toNat e.2) (c.lane x.va.toNat e.2) (c.laneB x (literalLane w) e.2))))

/-- An arithmetic result of a type from exact integer and exact floating results (R231). -/
def arithResult (ty : Nat) (sat : Bool) (rm : RMode) (i : Int → Int → Int → Int) (f : FVal → FVal → FVal → FVal)
    (d24 z x y : Nat) : Nat :=
  if tyFloat ty then
    (fmtOf ty).ofVal rm d24 sat (f ((fmtOf ty).value z) ((fmtOf ty).value x) ((fmtOf ty).value y))
  else
    let val (c : Nat) : Int := intOf (tySigned ty) (tyBits ty) c
    intResult (tySigned ty) (tyBits ty) sat (i (val z) (val x) (val y))

/-- The body of the arithmetic entries; floats round by RM. -/
def vectorArith (x : VFields) (v : Env) (i : Int → Int → Int → Int) (f : RMode → FVal → FVal → FVal → FVal) : M Unit :=
  elementwise x v (tyFloat v.e.ty.toNat) (arithResult v.e.ty.toNat v.e.sat (rmOf v.e.rm) i (f (rmOf v.e.rm)))

/-- The body of entries on bits (R231). -/
def vectorBits (x : VFields) (v : Env) (f : Nat → Nat → Nat) : M Unit := elementwise x v false (fun _ _ a b => f a b)

/-- The lesser or greater element (R27, R231). -/
def minMaxElem (ty : Nat) (wantMax : Bool) (x y : Nat) : Nat :=
  arithResult ty false .rne (fun _ a b => if wantMax then max a b else min a b) (fun _ a b => a.minMax wantMax b) 0 0 x y

/-! ### Arithmetic (R231) -/

/-- VADD (R231). -/
def execVadd (x : VFields) (s : State) : Host.Outcome State Fault Refusal :=
  issue (.vadd x) (fun v => vectorArith x v (fun _ a b => a + b) (fun rm _ a b => a.add rm b)) s
/-- VSUB (R231). -/
def execVsub (x : VFields) (s : State) : Host.Outcome State Fault Refusal :=
  issue (.vsub x) (fun v => vectorArith x v (fun _ a b => a - b) (fun rm _ a b => a.add rm b.neg)) s
/-- VMUL (R231). -/
def execVmul (x : VFields) (s : State) : Host.Outcome State Fault Refusal :=
  issue (.vmul x) (fun v => vectorArith x v (fun _ a b => a * b) (fun _ _ a b => a.mul b)) s
/-- VFMA (R231). -/
def execVfma (x : VFields) (s : State) : Host.Outcome State Fault Refusal :=
  issue (.vfma x) (fun v => vectorArith x v (fun z a b => a * b + z) (fun rm z a b => (a.mul b).add rm z)) s
/-- VMIN (R231). -/
def execVmin (x : VFields) (s : State) : Host.Outcome State Fault Refusal :=
  issue (.vmin x) (fun v => vectorBits x v (minMaxElem v.e.ty.toNat false)) s
/-- VMAX (R231). -/
def execVmax (x : VFields) (s : State) : Host.Outcome State Fault Refusal :=
  issue (.vmax x) (fun v => vectorBits x v (minMaxElem v.e.ty.toNat true)) s
/-- VAND (R231). -/
def execVand (x : VFields) (s : State) : Host.Outcome State Fault Refusal := issue (.vand x) (fun v => vectorBits x v (· &&& ·)) s
/-- VOR (R231). -/
def execVor (x : VFields) (s : State) : Host.Outcome State Fault Refusal := issue (.vor x) (fun v => vectorBits x v (· ||| ·)) s
/-- VXOR (R231). -/
def execVxor (x : VFields) (s : State) : Host.Outcome State Fault Refusal := issue (.vxor x) (fun v => vectorBits x v (· ^^^ ·)) s

/-- VSHL's element (R231). -/
def shlElem (w x y : Nat) : Nat := if w ≤ y then 0 else x * 2 ^ y % 2 ^ w
/-- VSHR's element, logical or arithmetic (R209, R231). -/
def shrElem (w : Nat) (arith : Bool) (x y : Nat) : Nat :=
  if arith then intCode w (intOf true w x / 2 ^ min y w) else if w ≤ y then 0 else x / 2 ^ y

/-- VSHL (R231). -/
def execVshl (x : VFields) (s : State) : Host.Outcome State Fault Refusal :=
  issue (.vshl x) (fun v => vectorBits x v (shlElem (tyBits v.e.ty.toNat))) s
/-- VSHR (R231): FN 1 is arithmetic. -/
def execVshr (x : VFields) (s : State) : Host.Outcome State Fault Refusal :=
  issue (.vshr x) (fun v => vectorBits x v (shrElem (tyBits v.e.ty.toNat) (x.fn = 1))) s

/-- VNEG (R231): FN 1 gives the absolute value; no rounding, no draw. -/
def execVneg (x : VFields) (s : State) : Host.Outcome State Fault Refusal :=
  issue (.vneg x) (fun v =>
    let abs := decide (x.fn = 1)
    vectorBits x v (fun a _ => arithResult v.e.ty.toNat v.e.sat .rne
      (fun _ a _ => if abs then |a| else -a) (fun _ a _ => if abs then a.abs else a.neg) 0 0 a 0)) s

/-! ### Comparison and selection -/

/-- A relation of VCMP between two elements (R232). -/
def relElem (ty fn x y : Nat) : Bool :=
  let c : Option Int :=
    if tyFloat ty then ((fmtOf ty).value x).cmp ((fmtOf ty).value y)
    else some (let d : Int := intOf (tySigned ty) (tyBits ty) x - intOf (tySigned ty) (tyBits ty) y
               if d < 0 then -1 else if d = 0 then 0 else 1)
  match fn, c with
  | 1, none | 6, none => true
  | 7, some _ => true
  | 0, some c => decide (c = 0)
  | 1, some c => decide (c ≠ 0)
  | 2, some c => decide (c < 0)
  | 3, some c => decide (0 ≤ c)
  | 4, some c => decide (0 < c)
  | 5, some c => decide (c ≤ 0)
  | _, _ => false

/-- Whether a lane's bit is set (R232). -/
def cmpLane (ty fn : Nat) (any : Bool) (x y : Lane) : Bool :=
  let w := tyBits ty
  let r (j : Nat) : Bool := relElem ty fn (laneElem w x j) (laneElem w y j)
  if any then (List.range (32 / w)).any r else (List.range (32 / w)).all r

/-- VCMP (R232). -/
def execVcmp (x : VFields) (s : State) : Host.Outcome State Fault Refusal :=
  issue (.vcmp x) (fun v => do
    let c ← myCtx
    let ty := v.e.ty.toNat
    putMask x.vd ((c.active x.m).filter (fun i =>
      cmpLane ty x.fn.toNat v.e.f2 (c.lane x.va.toNat i) (c.laneB x (literalLane (tyBits ty)) i)))) s

/-- VSEL (R233). -/
def execVsel (x : VFields) (s : State) : Host.Outcome State Fault Refusal :=
  issue (.vsel x) (fun _ => do
    let c ← myCtx
    putLanes x.vd.toNat ((List.range (min c.grant 128)).map (fun i =>
      (i, if (c.mask x.m.toNat).getLsbD i then c.lane x.va.toNat i else c.laneB x (·.setWidth 32) i)))) s

/-- VDOT4's lane (R48, R234). -/
def dot4Lane (fn : Nat) (z x y : Lane) : Lane :=
  let sx := decide (fn ≠ 1)
  let sy := decide (fn = 0)
  let prods : List Int := (List.range 4).map (fun j => intOf sx 8 (laneElem 8 x j) * intOf sy 8 (laneElem 8 y j))
  BitVec.ofNat 32 (intResult sx 32 true (intOf sx 32 z.toNat + prods.sum))

/-- VDOT4 (R234). -/
def execVdot4 (x : VFields) (s : State) : Host.Outcome State Fault Refusal :=
  issue (.vdot4 x) (fun _ => do
    let c ← myCtx
    putLanes x.vd.toNat ((c.active x.m).map (fun i =>
      (i, dot4Lane x.fn.toNat (c.lane x.vd.toNat i) (c.lane x.va.toNat i) (c.laneB x (·.setWidth 32) i))))) s

/-! ### Conversion -/

/-- Whether VCVT saturates between integer types: not where the destination is wider (R31, R235, log 21). -/
def cvtSat (src dst : Nat) : Bool := !tyFloat src && !tyFloat dst && decide (tyBits dst ≤ tyBits src)

/-- VCVT's result lane (R235): z the prior lane of vd; draws from index `j0`. -/
def cvtLane (src dst part : Nat) (rm : RMode) (draw : Nat → Nat) (j0 : Nat) (z x : Lane) : Lane :=
  let es := 32 / tyBits src
  let ed := 32 / tyBits dst
  let one (d24 code : Nat) : Nat := convert src dst rm d24 (cvtSat src dst) code
  if es < ed then
    laneOfElems (tyBits dst) ((List.range ed).map (fun j =>
      if part * es ≤ j ∧ j < part * es + es then one (draw (j0 + (j - part * es))) (laneElem (tyBits src) x (j - part * es))
      else laneElem (tyBits dst) z j))
  else laneOfElems (tyBits dst) ((List.range ed).map (fun j => one (draw (j0 + j)) (laneElem (tyBits src) x (part * ed + j))))

/-- VCVT (R235). -/
def execVcvt (x : VFields) (s : State) : Host.Outcome State Fault Refusal :=
  issue (.vcvt x) (fun v => do
    let c ← myCtx
    let src := v.e.ty.toNat
    let dst := v.e.sub.toNat
    let n := min (32 / tyBits src) (32 / tyBits dst)
    let lanes := c.activeIx x.m
    let draw ← if cvtExact src dst then pure (fun _ => 0) else drawsFor v.e.rm (lanes.length * n) v.aval
    putLanes x.vd.toNat (lanes.map (fun e =>
      (e.2, cvtLane src dst v.e.imm32.toNat (rmOf v.e.rm) draw (e.1 * n) (c.lane x.vd.toNat e.2) (c.lane x.va.toNat e.2))))) s

/-! ### Special functions and quantisation -/

/-- VSFU (R236). -/
def execVsfu (x : VFields) (s : State) : Host.Outcome State Fault Refusal :=
  issue (.vsfu x) (fun v =>
    let f := fmtOf v.e.ty.toNat
    elementwise x v true (fun d24 _ a _ => f.sfu x.fn.toNat (rmOf v.e.rm) d24 (f.value a))) s

/-- An element as VQUANT takes it (R237). -/
def quantSource (v : FVal) : FVal :=
  match v with
  | .nan => .fin false 0 0
  | .inf neg => match fmtF32.value 0x7F7FFFFF with
    | .fin _ m e => .fin neg m e
    | _ => v
  | .fin _ _ _ => v

/-- The value of a block scale (R32). -/
def scaleVal (code : Nat) : FVal := .fin false (blockScale code).1 (blockScale code).2

/-- The scale of a block (R237). -/
def quantScale (xs : List FVal) : Nat :=
  if xs.all (fun x => x.cmp (.fin false 0 0) = some 0) then 0
  else
    ((List.range 256).find? (fun s => xs.all (fun x => ((FVal.fin false 6 0).mul (scaleVal s)).cmp x.abs ≠ some (-1)))).getD 0xFF

/-- The code of an element of a block with a scale (R237). -/
def quantCode (rm : RMode) (s : Nat) (d24 : Nat) (x : FVal) : Nat :=
  if s = 0 then 0 else fmtFp4.divide rm d24 true x (scaleVal s)

/-- The 40 bytes of a group from its 64 element codes and 8 scales (R33). -/
def groupBytes (codes scales : List Nat) : List Byte :=
  (List.range 32).map (fun i => BitVec.ofNat 8 (codes.getD (2 * i) 0 + 16 * codes.getD (2 * i + 1) 0))
    ++ scales.map (fun s => BitVec.ofNat 8 s)

/-- The 32-bit lane of four bytes. -/
def laneOfBytes (bs : List Byte) : Lane := BitVec.ofNat 32 (natOfBytes (bs.take 4))

/-- VQUANT's group g: its 10 lanes (R237). `draw` is indexed by element number. -/
def quantGroup (c : Ctx) (x : VFields) (rm : RMode) (draw : Nat → Nat) (g : Nat) : List (Nat × Lane) :=
  let elem (i : Nat) : FVal :=
    if (c.mask x.m.toNat).getLsbD i then quantSource (fmtF32.value (c.lane x.va.toNat i).toNat) else .fin false 0 0
  let scales := (List.range 8).map (fun b => quantScale ((List.range 8).map (fun i => elem (64 * g + 8 * b + i))))
  let codes := (List.range 64).map (fun i => quantCode rm (scales.getD (i / 8) 0) (draw (64 * g + i)) (elem (64 * g + i)))
  let bs := groupBytes codes scales
  (List.range 10).map (fun i => (10 * g + i, laneOfBytes (bs.drop (4 * i))))

/-- VQUANT (R237). -/
def execVquant (x : VFields) (s : State) : Host.Outcome State Fault Refusal :=
  issue (.vquant x) (fun v => do
    let c ← myCtx
    trapIf (decide (c.grant % 64 ≠ 0)) 0x101 v.aval
    let act := c.active x.m
    let draw ← drawsFor v.e.rm act.length v.aval
    let index (i : Nat) : Nat := (act.filter (· < i)).length
    putLanes x.vd.toNat ((List.range (min c.grant 128 / 64)).flatMap (quantGroup c x (rmOf v.e.rm) (fun i => draw (index i))))) s

end Sys2Proof.Machine
end

