-- ==== Sys2Proof/Machine/VectorMove.lean ====
section
/-! DEFINITION. Rows 9 and A of the opcode map (R238-R244): moves, inserts, masks, lane movement, votes, reductions and
scans. -/
namespace Sys2Proof.Machine

/-! ### Moves and inserts (R238) -/

/-- A scalar result of an element type (R238): integers extend by signedness, floats with zeros. -/
def scalarOf (ty code : Nat) : Word := if tyFloat ty then BitVec.ofNat 64 code else putOf ty code

/-- Element e of a register, numbered over its lanes (R228). -/
def Ctx.elem (c : Ctx) (bits vd e : Nat) : Nat := laneElem bits (c.lane vd (e / (32 / bits))) (e % (32 / bits))

/-- VMOV (R238). -/
def execVmov (x : VFields) (s : State) : Host.Outcome State Fault Refusal :=
  issue (.vmov x) (fun v => do
    let w := tyBits v.e.ty.toNat
    let b ← match formLit x.form with
      | some l => pure (some l)
      | none => if x.fn = 1 then (do let c ← src v.e.c; return some c) else pure none
    let c ← myCtx
    putLanes x.vd.toNat ((c.active x.m).map (fun i =>
      (i, match b with
        | some l => literalLane w l
        | none => c.lane x.va.toNat i)))) s

/-- VIDX (R238). -/
def execVidx (x : VFields) (s : State) : Host.Outcome State Fault Refusal :=
  issue (.vidx x) (fun v => do
    let k ← src v.e.c
    let c ← myCtx
    let w := tyBits v.e.ty.toNat
    let n := 32 / w
    putLanes x.vd.toNat ((c.active x.m).map (fun i =>
      (i, laneOfElems w ((List.range n).map (fun j => (i * n + j + k.toNat) % 2 ^ w)))))) s

/-- VEXT (R238). -/
def execVext (x : VFields) (s : State) : Host.Outcome State Fault Refusal :=
  issue (.vext x) (fun v => do
    let c ← myCtx
    let w := tyBits v.e.ty.toNat
    let k := v.e.imm32.toNat
    trapIf (decide (c.grant * (32 / w) ≤ k)) 0x102 v.aval
    dst v.e.c (scalarOf v.e.ty.toNat (c.elem w x.va.toNat k))) s

/-- VINS (R238). -/
def execVins (x : VFields) (s : State) : Host.Outcome State Fault Refusal :=
  issue (.vins x) (fun v => do
    let b ← src v.e.c
    let c ← myCtx
    let w := tyBits v.e.ty.toNat
    let n := 32 / w
    let k := v.e.imm32.toNat
    trapIf (decide (c.grant * n ≤ k)) 0x102 v.aval
    let old := c.lane x.vd.toNat (k / n)
    putLanes x.vd.toNat [(k / n, laneOfElems w ((List.range n).map (fun j =>
      if j = k % n then b.toNat % 2 ^ w else laneElem w old j)))]) s

/-- VCLAMP (R238). -/
def execVclamp (x : VFields) (s : State) : Host.Outcome State Fault Refusal :=
  issue (.vclamp x) (fun v => do
    let b ← src v.e.c
    let ty := v.e.ty.toNat
    let w := tyBits ty
    let lo := b.toNat % 2 ^ w
    let hi := b.toNat / 2 ^ 32 % 2 ^ w
    vectorBits x v (fun a _ => minMaxElem ty false (minMaxElem ty true a lo) hi)) s

/-! ### Masks (R239) -/

/-- MOP (R239). -/
def execMop (x : VFields) (s : State) : Host.Outcome State Fault Refusal :=
  issue (.mop x) (fun v => do
    let k ← if x.fn = 5 then src v.e.c else pure 0
    let c ← myCtx
    let lanes := List.range c.grant
    let a (i : Nat) : Bool := (c.mask (x.va.toNat % 8)).getLsbD i
    let b (i : Nat) : Bool := (c.mask (x.vb.toNat % 8)).getLsbD i
    match x.fn.toNat with
    | 0 => putMask x.vd (lanes.filter (fun i => a i && b i))
    | 1 => putMask x.vd (lanes.filter (fun i => a i || b i))
    | 2 => putMask x.vd (lanes.filter (fun i => a i != b i))
    | 3 => putMask x.vd (lanes.filter (fun i => a i && !b i))
    | 4 => putMask x.vd (lanes.filter (fun i => !a i))
    | 5 => putMask x.vd (lanes.filter (fun i => decide (i < k.toNat)))
    | 6 => dst v.e.c (BitVec.ofNat 64 (lanes.filter a).length)
    | _ => dst v.e.c (match lanes.find? a with | some i => BitVec.ofNat 64 i | none => -1)) s

/-! ### Lane movement (R240) -/

/-- VSHUF.byte's lane (R240). -/
def shufBytes (a b : Lane) : Lane :=
  laneOfElems 8 ((List.range 4).map (fun t =>
    let k := laneElem 8 b t
    if 128 ≤ k then 0 else laneElem 8 a (k % 4)))

/-- VSHUF (R240). -/
def execVshuf (x : VFields) (s : State) : Host.Outcome State Fault Refusal :=
  issue (.vshuf x) (fun _ => do
    let c ← myCtx
    putLanes x.vd.toNat ((c.active x.m).map (fun i =>
      let b := c.laneB x (·.setWidth 32) i
      (i, if x.fn = 1 then shufBytes (c.lane x.va.toNat i) b
          else if b.toNat % 128 < c.grant then c.lane x.va.toNat (b.toNat % 128) else 0)))) s

/-- The lane that VROT takes for lane i (R240); none gives 0. -/
def rotLane (fn ln k i : Nat) : Option Nat :=
  match fn with
  | 0 => some ((i + k) % ln)
  | 1 => if i + k < ln then some (i + k) else none
  | _ => if k ≤ i then some (i - k) else none

/-- VROT (R240). -/
def execVrot (x : VFields) (s : State) : Host.Outcome State Fault Refusal :=
  issue (.vrot x) (fun v => do
    let k ← src v.e.c
    let c ← myCtx
    putLanes x.vd.toNat ((c.active x.m).map (fun i =>
      (i, ((rotLane x.fn.toNat c.grant k.toNat i).map (c.lane x.va.toNat)).getD 0)))) s

/-- VBCAST (R240). -/
def execVbcast (x : VFields) (s : State) : Host.Outcome State Fault Refusal :=
  issue (.vbcast x) (fun v => do
    let k ← src v.e.c
    let c ← myCtx
    let g := 2 ^ v.e.sub.toNat
    trapIf (decide (v.e.sub = 0) && decide (c.grant ≤ k.toNat)) 0x102 v.aval
    putLanes x.vd.toNat ((c.active x.m).map (fun i =>
      let j := if v.e.sub = 0 then k.toNat else i / g * g + k.toNat % g
      (i, if j < c.grant then c.lane x.va.toNat j else 0)))) s

/-! ### Votes, matches, compaction (R241, R242) -/

/-- VVOTE (R241). -/
def execVvote (x : VFields) (s : State) : Host.Outcome State Fault Refusal :=
  issue (.vvote x) (fun v => do
    let c ← myCtx
    let act := c.active x.m
    let a (i : Nat) : Lane := c.lane x.va.toNat i
    match x.fn.toNat with
    | 0 => dst v.e.c (boolWord (act.all (fun i => a i ≠ 0)))
    | 1 => dst v.e.c (boolWord (act.any (fun i => a i ≠ 0)))
    | 2 => dst v.e.c (boolWord (act.all (fun i => act.all (fun j => a i = a j))))
    | _ => putMask x.vd (act.filter (fun i => a i ≠ 0))) s

/-- VMATCH (R241). -/
def execVmatch (x : VFields) (s : State) : Host.Outcome State Fault Refusal :=
  issue (.vmatch x) (fun _ => do
    let c ← myCtx
    let act := c.active x.m
    let a (i : Nat) : Lane := c.lane x.va.toNat i
    match x.fn.toNat with
    | 0 => putMask x.vd (act.filter (fun i => act.any (fun j => j ≠ i && a j = a i)))
    | 1 => putMask x.vd (act.filter (fun i => act.all (fun j => i ≤ j || a j ≠ a i)))
    | _ => putLanes x.vd.toNat (act.map (fun i =>
        (i, BitVec.ofNat 32 (act.filter (fun j => decide (j < i) && decide (a j = a i))).length)))) s

/-- VCOMP (R242). -/
def execVcomp (x : VFields) (s : State) : Host.Outcome State Fault Refusal :=
  issue (.vcomp x) (fun v => do
    let c ← myCtx
    let lanes := c.activeIx x.m
    putLanes x.vd.toNat (lanes.map (fun e =>
      if x.fn = 0 then (e.1, c.lane x.va.toNat e.2) else (e.2, c.lane x.va.toNat e.1)))
    dst v.e.c (BitVec.ofNat 64 lanes.length)) s

/-! ### Reductions and scans (R243, R244) -/

/-- One level of the tree of R45 over its nodes, with draws from index j; the next index. -/
def treeLevel (add : Nat → Nat → Nat → Nat) (draw : Nat → Nat) : List (Option Nat) → Nat → List (Option Nat) × Nat
  | some a :: some b :: r, j =>
    let t := treeLevel add draw r (j + 1)
    (some (add (draw j) a b) :: t.1, t.2)
  | a :: b :: r, j =>
    let t := treeLevel add draw r j
    (a.or b :: t.1, t.2)
  | l, j => (l, j)

/-- s levels of the tree: the node left, and the next draw index. -/
def treeSum (add : Nat → Nat → Nat → Nat) (draw : Nat → Nat) : Nat → List (Option Nat) → Nat → Option Nat × Nat
  | 0, l, j => (l.headD none, j)
  | s + 1, l, j =>
    let t := treeLevel add draw l j
    treeSum add draw s t.1 t.2

/-- The result of a reduction whose order does not matter (R46, R243), over the active elements. -/
def foldResult (ty fn : Nat) (sat : Bool) (xs : List Nat) : Nat :=
  let w := 32
  let sg := tySigned ty
  let val (c : Nat) : Int := intOf sg w c
  if ty = 8 then
    let empty : FVal := .inf (fn ≠ 1)
    match xs with
    | [] => fmtF32.ofVal .rne 0 false empty
    | x :: r => f32Rne (r.foldl (fun a y => a.minMax (fn = 2) (f32 y)) (f32 x))
  else
    match fn with
    | 0 => intResult sg w sat ((xs.map val).sum)
    | 1 => intCode w (xs.foldl (fun a y => min a (val y)) (intMax sg w))
    | 2 => intCode w (xs.foldl (fun a y => max a (val y)) (intMin sg w))
    | 3 => xs.foldl (· &&& ·) (2 ^ 32 - 1)
    | 4 => xs.foldl (· ||| ·) 0
    | _ => xs.foldl (· ^^^ ·) 0

/-- The result over one aligned group of 2^s lanes from lane `lo`, and the next draw index (R45, R243). -/
def groupResult (c : Ctx) (x : VFields) (v : Env) (draw : Nat → Nat) (s lo j : Nat) : Nat × Nat :=
  let lanes := (List.range (2 ^ s)).map (lo + ·)
  let on (i : Nat) : Bool := decide (i < c.grant) && (c.mask x.m.toNat).getLsbD i
  let elem (i : Nat) : Nat := (c.lane x.va.toNat i).toNat
  if v.e.ty = 8 ∧ x.fn = 0 then
    let t := treeSum (fun d a b => f32Add (rmOf v.e.rm) d a b) draw s (lanes.map (fun i => if on i then some (elem i) else none)) j
    (t.1.getD 0, t.2)
  else (foldResult v.e.ty.toNat x.fn.toNat v.e.sat ((lanes.filter on).map elem), j)

/-- The results of the groups from the k-th on, ascending (R243). -/
def groupResults (c : Ctx) (x : VFields) (v : Env) (draw : Nat → Nat) (s : Nat) : Nat → Nat → Nat → List Nat
  | 0, _, _ => []
  | n + 1, k, j =>
    let r := groupResult c x v draw s (k * 2 ^ s) j
    r.1 :: groupResults c x v draw s n (k + 1) r.2

/-- VRED (R243). -/
def execVred (x : VFields) (s : State) : Host.Outcome State Fault Refusal :=
  issue (.vred x) (fun v => do
    let c ← myCtx
    let act := c.active x.m
    let lv := if v.e.sub = 0 then 7 else v.e.sub.toNat
    let groups := 128 / 2 ^ lv
    let sums := (((List.range groups).map (fun k => (act.filter (fun i => i / 2 ^ lv = k)).length - 1))).sum
    let draw ← if x.fn = 0 ∧ v.e.ty = 8 then drawsFor v.e.rm sums v.aval else pure (fun _ => 0)
    let rs := groupResults c x v draw lv groups 0 0
    if v.e.sub = 0 then dst v.e.c (scalarOf v.e.ty.toNat (rs.getD 0 0))
    else putLanes x.vd.toNat (act.map (fun i => (i, BitVec.ofNat 32 (rs.getD (i / 2 ^ lv) 0))))) s

/-- The inclusive f32 scan over the active elements (R47, R244): `op` with the index of its draw. -/
def scanFrom (op : Nat → Nat → Nat → Nat) : Nat → Nat → List Nat → List Nat
  | _, _, [] => []
  | j, acc, y :: r =>
    let t := op j acc y
    t :: scanFrom op (j + 1) t r

/-- The results of VSCAN over the active elements, ascending (R47, R244). -/
def scanResults (ty fn : Nat) (sat : Bool) (rm : RMode) (draw : Nat → Nat) (xs : List Nat) : List Nat :=
  if ty = 8 then
    let op (j a b : Nat) : Nat :=
      match fn with
      | 2 => f32Rne ((f32 a).minMax true (f32 b))
      | 3 => f32Rne ((f32 a).minMax false (f32 b))
      | _ => f32Add rm (draw j) a b
    match xs with
    | [] => []
    | x :: r =>
      let first := f32Rne (f32 x)
      let incl := first :: scanFrom op 1 first r
      if fn = 1 then 0 :: incl.dropLast else incl
  else
    let sg := tySigned ty
    let vs : List Int := xs.map (intOf sg 32)
    (List.range xs.length).map (fun i =>
      match fn with
      | 0 => intResult sg 32 sat (vs.take (i + 1)).sum
      | 1 => intResult sg 32 sat (vs.take i).sum
      | 2 => intCode 32 ((vs.take (i + 1)).foldl max (intMin sg 32))
      | _ => intCode 32 ((vs.take (i + 1)).foldl min (intMax sg 32)))

/-- VSCAN (R244). -/
def execVscan (x : VFields) (s : State) : Host.Outcome State Fault Refusal :=
  issue (.vscan x) (fun v => do
    let c ← myCtx
    let act := c.active x.m
    let draw ← if x.fn.toNat < 2 ∧ v.e.ty = 8 then drawsFor v.e.rm act.length v.aval else pure (fun _ => 0)
    let rs := scanResults v.e.ty.toNat x.fn.toNat v.e.sat (rmOf v.e.rm) draw (act.map (fun i => (c.lane x.va.toNat i).toNat))
    putLanes x.vd.toNat ((act.zip rs).map (fun e => (e.1, BitVec.ofNat 32 e.2)))) s

end Sys2Proof.Machine
end

