-- ==== Sys2Proof/Machine/Dispatch.lean ====
section
/-! DEFINITION. The dispatcher: one arm per constructor of `Instr`, each a call of its meaning. -/
namespace Sys2Proof.Machine

def exec (i : Instr) (s : State) : Host.Outcome State Fault Refusal :=
  match i with
  | .add x => Sys2Proof.Machine.execAdd x s
  | .sub x => Sys2Proof.Machine.execSub x s
  | .mul x => Sys2Proof.Machine.execMul x s
  | .mulh x => Sys2Proof.Machine.execMulh x s
  | .div x => Sys2Proof.Machine.execDiv x s
  | .rem x => Sys2Proof.Machine.execRem x s
  | .and x => Sys2Proof.Machine.execAnd x s
  | .or x => Sys2Proof.Machine.execOr x s
  | .xor x => Sys2Proof.Machine.execXor x s
  | .andn x => Sys2Proof.Machine.execAndn x s
  | .shl x => Sys2Proof.Machine.execShl x s
  | .shr x => Sys2Proof.Machine.execShr x s
  | .rot x => Sys2Proof.Machine.execRot x s
  | .min x => Sys2Proof.Machine.execMin x s
  | .max x => Sys2Proof.Machine.execMax x s
  | .cmp x => Sys2Proof.Machine.execCmp x s
  | .addi x => Sys2Proof.Machine.execAddi x s
  | .andi x => Sys2Proof.Machine.execAndi x s
  | .ori x => Sys2Proof.Machine.execOri x s
  | .xori x => Sys2Proof.Machine.execXori x s
  | .shli x => Sys2Proof.Machine.execShli x s
  | .shri x => Sys2Proof.Machine.execShri x s
  | .cmpi x => Sys2Proof.Machine.execCmpi x s
  | .lit x => Sys2Proof.Machine.execLit x s
  | .sel x => Sys2Proof.Machine.execSel x s
  | .bcnt x => Sys2Proof.Machine.execBcnt x s
  | .bfx x => Sys2Proof.Machine.execBfx x s
  | .bfi x => Sys2Proof.Machine.execBfi x s
  | .addr x => Sys2Proof.Machine.execAddr x s
  | .adds x => Sys2Proof.Machine.execAdds x s
  | .fop x => Sys2Proof.Machine.execFop x s
  | .mad x => Sys2Proof.Machine.execMad x s
  | .br x => Sys2Proof.Machine.execBr x s
  | .bz x => Sys2Proof.Machine.execBz x s
  | .bcmp x => Sys2Proof.Machine.execBcmp x s
  | .call x => Sys2Proof.Machine.execCall x s
  | .ret x => Sys2Proof.Machine.execRet x s
  | .jr x => Sys2Proof.Machine.execJr x s
  | .callr x => Sys2Proof.Machine.execCallr x s
  | .loop x => Sys2Proof.Machine.execLoop x s
  | .bq x => Sys2Proof.Machine.execBq x s
  | .jtab x => Sys2Proof.Machine.execJtab x s
  | .nop x => Sys2Proof.Machine.execNop x s
  | .ldl x => Sys2Proof.Machine.execLdl x s
  | .stl x => Sys2Proof.Machine.execStl x s
  | .vldl x => Sys2Proof.Machine.execVldl x s
  | .vstl x => Sys2Proof.Machine.execVstl x s
  | .vgathl x => Sys2Proof.Machine.execVgathl x s
  | .vscatl x => Sys2Proof.Machine.execVscatl x s
  | .ldtx x => Sys2Proof.Machine.execLdtx x s
  | .rrot x => Sys2Proof.Machine.execRrot x s
  | .bankmode x => Sys2Proof.Machine.execBankmode x s
  | .fpush x => Sys2Proof.Machine.execFpush x s
  | .fpop x => Sys2Proof.Machine.execFpop x s
  | .rstl x => Sys2Proof.Machine.execRstl x s
  | .radd x => Sys2Proof.Machine.execRadd x s
  | .ld x => Sys2Proof.Machine.execLd x s
  | .st x => Sys2Proof.Machine.execSt x s
  | .vld x => Sys2Proof.Machine.execVld x s
  | .vst x => Sys2Proof.Machine.execVst x s
  | .vgath x => Sys2Proof.Machine.execVgath x s
  | .vscat x => Sys2Proof.Machine.execVscat x s
  | .pref x => Sys2Proof.Machine.execPref x s
  | .wlq x => Sys2Proof.Machine.execWlq x s
  | .wlwait x => Sys2Proof.Machine.execWlwait x s
  | .amo x => Sys2Proof.Machine.execAmo x s
  | .cas x => Sys2Proof.Machine.execCas x s
  | .cas2 x => Sys2Proof.Machine.execCas2 x s
  | .lda x => Sys2Proof.Machine.execLda x s
  | .strel x => Sys2Proof.Machine.execStrel x s
  | .fence x => Sys2Proof.Machine.execFence x s
  | .afadd x => Sys2Proof.Machine.execAfadd x s
  | .lda2 x => Sys2Proof.Machine.execLda2 x s
  | .barinit x => Sys2Proof.Machine.execBarinit x s
  | .arrive x => Sys2Proof.Machine.execArrive x s
  | .waitph x => Sys2Proof.Machine.execWaitph x s
  | .testph x => Sys2Proof.Machine.execTestph x s
  | .expect x => Sys2Proof.Machine.execExpect x s
  | .signal x => Sys2Proof.Machine.execSignal x s
  | .waitsig x => Sys2Proof.Machine.execWaitsig x s
  | .domain x => Sys2Proof.Machine.execDomain x s
  | .sync x => Sys2Proof.Machine.execSync x s
  | .xsend x => Sys2Proof.Machine.execXsend x s
  | .xwait x => Sys2Proof.Machine.execXwait x s
  | .start x => Sys2Proof.Machine.execStart x s
  | .endHelper x => Sys2Proof.Machine.execEndHelper x s
  | .hwait x => Sys2Proof.Machine.execHwait x s
  | .qbind x => Sys2Proof.Machine.execQbind x s
  | .qstat x => Sys2Proof.Machine.execQstat x s
  | .vclaim x => Sys2Proof.Machine.execVclaim x s
  | .vyield x => Sys2Proof.Machine.execVyield x s
  | .yield x => Sys2Proof.Machine.execYield x s
  | .nwait x => Sys2Proof.Machine.execNwait x s
  | .ndone x => Sys2Proof.Machine.execNdone x s
  | .task x => Sys2Proof.Machine.execTask x s
  | .vadd x => Sys2Proof.Machine.execVadd x s
  | .vsub x => Sys2Proof.Machine.execVsub x s
  | .vmul x => Sys2Proof.Machine.execVmul x s
  | .vfma x => Sys2Proof.Machine.execVfma x s
  | .vmin x => Sys2Proof.Machine.execVmin x s
  | .vmax x => Sys2Proof.Machine.execVmax x s
  | .vand x => Sys2Proof.Machine.execVand x s
  | .vor x => Sys2Proof.Machine.execVor x s
  | .vxor x => Sys2Proof.Machine.execVxor x s
  | .vshl x => Sys2Proof.Machine.execVshl x s
  | .vshr x => Sys2Proof.Machine.execVshr x s
  | .vcmp x => Sys2Proof.Machine.execVcmp x s
  | .vsel x => Sys2Proof.Machine.execVsel x s
  | .vcvt x => Sys2Proof.Machine.execVcvt x s
  | .vneg x => Sys2Proof.Machine.execVneg x s
  | .vdot4 x => Sys2Proof.Machine.execVdot4 x s
  | .vsfu x => Sys2Proof.Machine.execVsfu x s
  | .vmov x => Sys2Proof.Machine.execVmov x s
  | .vidx x => Sys2Proof.Machine.execVidx x s
  | .vext x => Sys2Proof.Machine.execVext x s
  | .vins x => Sys2Proof.Machine.execVins x s
  | .vclamp x => Sys2Proof.Machine.execVclamp x s
  | .vquant x => Sys2Proof.Machine.execVquant x s
  | .mop x => Sys2Proof.Machine.execMop x s
  | .vshuf x => Sys2Proof.Machine.execVshuf x s
  | .vrot x => Sys2Proof.Machine.execVrot x s
  | .vvote x => Sys2Proof.Machine.execVvote x s
  | .vmatch x => Sys2Proof.Machine.execVmatch x s
  | .vred x => Sys2Proof.Machine.execVred x s
  | .vscan x => Sys2Proof.Machine.execVscan x s
  | .vcomp x => Sys2Proof.Machine.execVcomp x s
  | .vbcast x => Sys2Proof.Machine.execVbcast x s
  | .mtile x => Sys2Proof.Machine.execMtile x s
  | .mloadb x => Sys2Proof.Machine.execMloadb x s
  | .macc x => Sys2Proof.Machine.execMacc x s
  | .mread x => Sys2Proof.Machine.execMread x s
  | .mscale x => Sys2Proof.Machine.execMscale x s
  | .mwait x => Sys2Proof.Machine.execMwait x s
  | .mstat x => Sys2Proof.Machine.execMstat x s
  | .msoft x => Sys2Proof.Machine.execMsoft x s
  | .cpq x => Sys2Proof.Machine.execCpq x s
  | .cpseal x => Sys2Proof.Machine.execCpseal x s
  | .cpwait x => Sys2Proof.Machine.execCpwait x s
  | .cpstat x => Sys2Proof.Machine.execCpstat x s
  | .nmc x => Sys2Proof.Machine.execNmc x s
  | .nmfence x => Sys2Proof.Machine.execNmfence x s
  | .snew x => Sys2Proof.Machine.execSnew x s
  | .fork x => Sys2Proof.Machine.execFork x s
  | .sbind x => Sys2Proof.Machine.execSbind x s
  | .pplace x => Sys2Proof.Machine.execPplace x s
  | .squery x => Sys2Proof.Machine.execSquery x s
  | .sstep x => Sys2Proof.Machine.execSstep x s
  | .apush x => Sys2Proof.Machine.execApush x s
  | .apop x => Sys2Proof.Machine.execApop x s
  | .strunc x => Sys2Proof.Machine.execStrunc x s
  | .smigr x => Sys2Proof.Machine.execSmigr x s
  | .sret x => Sys2Proof.Machine.execSret x s
  | .join x => Sys2Proof.Machine.execJoin x s
  | .trap x => Sys2Proof.Machine.execTrap x s
  | .eret x => Sys2Proof.Machine.execEret x s
  | .sysr x => Sys2Proof.Machine.execSysr x s
  | .sysw x => Sys2Proof.Machine.execSysw x s
  | .brk x => Sys2Proof.Machine.execBrk x s
  | .halt x => Sys2Proof.Machine.execHalt x s
  | .jrnl x => Sys2Proof.Machine.execJrnl x s
  | .trace x => Sys2Proof.Machine.execTrace x s
  | .trig x => Sys2Proof.Machine.execTrig x s
  | .watch x => Sys2Proof.Machine.execWatch x s
  | .smpMov x => Sys2Proof.Machine.execSmpMov x s
  | .smpLdi x => Sys2Proof.Machine.execSmpLdi x s
  | .smpAdd x => Sys2Proof.Machine.execSmpAdd x s
  | .smpSub x => Sys2Proof.Machine.execSmpSub x s
  | .smpMul x => Sys2Proof.Machine.execSmpMul x s
  | .smpFadd x => Sys2Proof.Machine.execSmpFadd x s
  | .smpFmul x => Sys2Proof.Machine.execSmpFmul x s
  | .smpFexp x => Sys2Proof.Machine.execSmpFexp x s
  | .smpFmax x => Sys2Proof.Machine.execSmpFmax x s
  | .smpCmp x => Sys2Proof.Machine.execSmpCmp x s
  | .smpBr x => Sys2Proof.Machine.execSmpBr x s
  | .smpBrc x => Sys2Proof.Machine.execSmpBrc x s
  | .smpLoop x => Sys2Proof.Machine.execSmpLoop x s
  | .smpCld x => Sys2Proof.Machine.execSmpCld x s
  | .smpCst x => Sys2Proof.Machine.execSmpCst x s
  | .smpCsortk x => Sys2Proof.Machine.execSmpCsortk x s
  | .smpCscan x => Sys2Proof.Machine.execSmpCscan x s
  | .smpCsel x => Sys2Proof.Machine.execSmpCsel x s
  | .smpRng x => Sys2Proof.Machine.execSmpRng x s
  | .smpCtrset x => Sys2Proof.Machine.execSmpCtrset x s
  | .smpCtrget x => Sys2Proof.Machine.execSmpCtrget x s
  | .smpEmit x => Sys2Proof.Machine.execSmpEmit x s
  | .smpHalt x => Sys2Proof.Machine.execSmpHalt x s
  | .smpFault x => Sys2Proof.Machine.execSmpFault x s
  | .samplerDispatch die => Sys2Proof.Machine.execSamplerDispatch die s
  | .samplerTimeout die k => Sys2Proof.Machine.execSamplerTimeout die k s
  | .moduleReset img => Sys2Proof.Machine.execModuleReset img s
  | .lgoGo slot => Sys2Proof.Machine.execLgoGo slot s
  | .lgoStop slot => Sys2Proof.Machine.execLgoStop slot s
  | .lgoKill slot => Sys2Proof.Machine.execLgoKill slot s
  | .xlresolve tag fail => Sys2Proof.Machine.execXlresolve tag fail s
  | .prectlSuspend slot share => Sys2Proof.Machine.execPrectlSuspend slot share s
  | .prectlResume slot => Sys2Proof.Machine.execPrectlResume slot s
  | .clkrst => Sys2Proof.Machine.execClkrst s
  | .slotctlCommit chan => Sys2Proof.Machine.execSlotctlCommit chan s
  | .slotTableSwitch chan => Sys2Proof.Machine.execSlotTableSwitch chan s
  | .pwrctlTarget target => Sys2Proof.Machine.execPwrctlTarget target s
  | .powerTransitionDone => Sys2Proof.Machine.execPowerTransitionDone s
  | .cgateRequest cluster gate => Sys2Proof.Machine.execCgateRequest cluster gate s
  | .clusterUngateDone cluster => Sys2Proof.Machine.execClusterUngateDone cluster s
  | .mbcmdReadCounters => Sys2Proof.Machine.execMbcmdReadCounters s
  | .firmwareImageInstall img => Sys2Proof.Machine.execFirmwareImageInstall img s
  | .ownerKeyLoad owner root => Sys2Proof.Machine.execOwnerKeyLoad owner root s
  | .ownerKeyUnload owner => Sys2Proof.Machine.execOwnerKeyUnload owner s
  | .attestationRequest => Sys2Proof.Machine.execAttestationRequest s
  | .registerWrite off wide value => Sys2Proof.Machine.execRegisterWrite off wide value s
  | .hostCxlMemRead dec pa size => Sys2Proof.Machine.execHostCxlMemRead dec pa size s
  | .hostCxlMemWrite dec pa data => Sys2Proof.Machine.execHostCxlMemWrite dec pa data s
  | .cxlCacheSnoop pa write => Sys2Proof.Machine.execCxlCacheSnoop pa write s
  | .successorReady slot => Sys2Proof.Machine.execSuccessorReady slot s
  | .poolOverflowTransfer die => Sys2Proof.Machine.execPoolOverflowTransfer die s
  | .caravanDispatch die cls => Sys2Proof.Machine.execCaravanDispatch die cls s
  | .gangClose die idx => Sys2Proof.Machine.execGangClose die idx s
  | .gangCompletion die gslot => Sys2Proof.Machine.execGangCompletion die gslot s
  | .conditionEval die => Sys2Proof.Machine.execConditionEval die s
  | .switchEval die => Sys2Proof.Machine.execSwitchEval die s
  | .loopEval die => Sys2Proof.Machine.execLoopEval die s
  | .streamDrive slot => Sys2Proof.Machine.execStreamDrive slot s
  | .streamDriveComplete slot => Sys2Proof.Machine.execStreamDriveComplete slot s
  | .launchEnd slot => Sys2Proof.Machine.execLaunchEnd slot s
  | .nwaitTimeout core => Sys2Proof.Machine.execNwaitTimeout core s
  | .yieldExpire core ctx => Sys2Proof.Machine.execYieldExpire core ctx s
  | .queueDeadlock core qset => Sys2Proof.Machine.execQueueDeadlock core qset s
  | .regcacheRefill core ctx line => Sys2Proof.Machine.execRegcacheRefill core ctx line s
  | .fetchBlockFill core ctx block => Sys2Proof.Machine.execFetchBlockFill core ctx block s
  | .asyncTrapDelivery core ctx => Sys2Proof.Machine.execAsyncTrapDelivery core ctx s
  | .preemptPoint core ctx => Sys2Proof.Machine.execPreemptPoint core ctx s
  | .contextSaved core ctx => Sys2Proof.Machine.execContextSaved core ctx s
  | .contextResume core ctx => Sys2Proof.Machine.execContextResume core ctx s
  | .homeLoad req => Sys2Proof.Machine.execHomeLoad req s
  | .homeStore req data => Sys2Proof.Machine.execHomeStore req data s
  | .lineRecall line => Sys2Proof.Machine.execLineRecall line s
  | .wlqEntryDepart core => Sys2Proof.Machine.execWlqEntryDepart core s
  | .wlqEntryAccept core => Sys2Proof.Machine.execWlqEntryAccept core s
  | .writeWindowEnd core => Sys2Proof.Machine.execWriteWindowEnd core s
  | .hbmSlotService chan => Sys2Proof.Machine.execHbmSlotService chan s
  | .pageWalk owner va agent kind slot => Sys2Proof.Machine.execPageWalk owner va agent kind slot s
  | .pageMoveComplete cluster => Sys2Proof.Machine.execPageMoveComplete cluster s
  | .importWrite die pa data src tag => Sys2Proof.Machine.execImportWrite die pa data src tag s
  | .remoteAck core ctx => Sys2Proof.Machine.execRemoteAck core ctx s
  | .macroOpAccept cluster => Sys2Proof.Machine.execMacroOpAccept cluster s
  | .mloadbComplete cluster => Sys2Proof.Machine.execMloadbComplete cluster s
  | .maccExecute cluster => Sys2Proof.Machine.execMaccExecute cluster s
  | .scaleFifoTimeout cluster => Sys2Proof.Machine.execScaleFifoTimeout cluster s
  | .mreadExecute cluster => Sys2Proof.Machine.execMreadExecute cluster s
  | .msoftExecute cluster => Sys2Proof.Machine.execMsoftExecute cluster s
  | .mtileMacroOp cluster => Sys2Proof.Machine.execMtileMacroOp cluster s
  | .matrixNodeRun cluster => Sys2Proof.Machine.execMatrixNodeRun cluster s
  | .splitkContribution src => Sys2Proof.Machine.execSplitkContribution src s
  | .copyEngineTake core => Sys2Proof.Machine.execCopyEngineTake core s
  | .copyNodeDispatch unit => Sys2Proof.Machine.execCopyNodeDispatch unit s
  | .copyComplete cluster => Sys2Proof.Machine.execCopyComplete cluster s
  | .copyStop cluster => Sys2Proof.Machine.execCopyStop cluster s
  | .batchComplete core ctx => Sys2Proof.Machine.execBatchComplete core ctx s
  | .destArithApply core => Sys2Proof.Machine.execDestArithApply core s
  | .postedWriteApply core => Sys2Proof.Machine.execPostedWriteApply core s
  | .postedWriteAck core entry => Sys2Proof.Machine.execPostedWriteAck core entry s
  | .postedWriteRefusal core entry => Sys2Proof.Machine.execPostedWriteRefusal core entry s
  | .nmcExecute stack => Sys2Proof.Machine.execNmcExecute stack s
  | .nmcStop stack => Sys2Proof.Machine.execNmcStop stack s
  | .barrierUpdate core => Sys2Proof.Machine.execBarrierUpdate core s
  | .syncBarrierComplete dom => Sys2Proof.Machine.execSyncBarrierComplete dom s
  | .exchangeSlotBegin dom => Sys2Proof.Machine.execExchangeSlotBegin dom s
  | .exchangePhaseEnd dom => Sys2Proof.Machine.execExchangePhaseEnd dom s
  | .xsendDeliver dom => Sys2Proof.Machine.execXsendDeliver dom s
  | .wadiResolve die group => Sys2Proof.Machine.execWadiResolve die group s
  | .joinNode die => Sys2Proof.Machine.execJoinNode die s
  | .xanwellOpen flit => Sys2Proof.Machine.execXanwellOpen flit s
  | .xanwellPage flit => Sys2Proof.Machine.execXanwellPage flit s
  | .xanwellQueue flit => Sys2Proof.Machine.execXanwellQueue flit s
  | .xanwellClose flit => Sys2Proof.Machine.execXanwellClose flit s
  | .xanwellResult flit => Sys2Proof.Machine.execXanwellResult flit s
  | .xanwellPut flit => Sys2Proof.Machine.execXanwellPut flit s
  | .xanwellGet flit => Sys2Proof.Machine.execXanwellGet flit s
  | .xanwellData flit => Sys2Proof.Machine.execXanwellData flit s
  | .xanwellAck flit => Sys2Proof.Machine.execXanwellAck flit s
  | .xanwellUndefinedFlit port flit => Sys2Proof.Machine.execXanwellUndefinedFlit port flit s
  | .siroccoRecordCopy core => Sys2Proof.Machine.execSiroccoRecordCopy core s
  | .siroccoFrameClose die => Sys2Proof.Machine.execSiroccoFrameClose die s
  | .linkMapSnapshot => Sys2Proof.Machine.execLinkMapSnapshot s
  | .thermalWarn tj => Sys2Proof.Machine.execThermalWarn tj s
  | .thermalTrip tj => Sys2Proof.Machine.execThermalTrip tj s
  | .storageError site correctable syndrome => Sys2Proof.Machine.execStorageError site correctable syndrome s
  | .flashCounterUpdate => Sys2Proof.Machine.execFlashCounterUpdate s
  | .issueGovernorToken => Sys2Proof.Machine.execIssueGovernorToken s
  | .remoteLocalLoad core ctx va size => Sys2Proof.Machine.execRemoteLocalLoad core ctx va size s
  | .xmPortService die => Sys2Proof.Machine.execXmPortService die s
  | .cxlCacheResponse data => Sys2Proof.Machine.execCxlCacheResponse data s
  | .linkTraining port width rate => Sys2Proof.Machine.execLinkTraining port width rate s
  | .xanwellLinkFailure transfer => Sys2Proof.Machine.execXanwellLinkFailure transfer s
  | .powerLoss => Sys2Proof.Machine.execPowerLoss s
  | .unitMachineCheck unit detail => Sys2Proof.Machine.execUnitMachineCheck unit detail s

end Sys2Proof.Machine
end

