-- ==== Sys2Proof/Machine/Step.lean ====
section
/-! DEFINITION. One step of the part: the turn at the head of the agenda, or the current context's (log 1); the choice of the front ends
(R138); and the state
in which a given word is the next instruction fetched (log 10). -/
namespace Sys2Proof.Machine

/-- The state in which an instruction of a context is about to execute. -/
def State.turnOf (s : State) (g k : Nat) : State := { s with cur := (g, k) }

/-- What an instruction that has not been decoded is given: its address, and the words it begins with. -/
def bareEnv (pc : Word) (w0 w1 : Lane) : Env :=
  { pc := pc, next := pc, word0 := w0, word1 := if w0 &&& 1 = 1 then w1 else 0,
    e := extOf (.nop { fn := 0, b := 0, a := 0, d := 0, form := .word }), aval := 0 }

/-- A decode fault of a context at an address (R63, R409): FET.STRADDLE reports the address, as its row of R409 says (log 44), the others
word 0. -/
def decodeFault (s : State) (g k : Nat) (fe : FE) (pc : Word) (w0 w1 : Lane) (e : DecodeError) : State :=
  let at_ (cause : Nat) (tval : Word) : State := s.trapAt g k (bareEnv pc w0 w1) { cause := cause, tval := tval }
  let word := w0.setWidth 64
  match e with
  | .ended | .straddle => at_ 0x022 pc
  | .undef => at_ 0x001 word
  | .form _ => at_ 0x002 word
  | .rsvd f => at_ (if feAllows f fe then 0x004 else 0x003) word

/-- ERET re-executes the XSEND that trapped in its own clk (R386, R404): where its turn has led to one, that issues too. -/
def resend (g k clk : Nat) (i : Instr) (o : Host.Outcome State Fault Refusal) : Host.Outcome State Fault Refusal :=
  match i, o with
  | .eret _, .next t =>
    match t.fetch g k with
    | .bytes bs u =>
      match decode bs with
      | .ok (.xsend x, _) => exec (.xsend x) { u with clk := clk }
      | _ => o
    | _ => o
  | _, _ => o

/-- Decode and execute what fetching gave. -/
def issueFetched (s : State) (g k : Nat) (f : Fetched) : Host.Outcome State Fault Refusal :=
  let c := s.ctx g k
  match f with
  | .fault cause tval => .next (s.trapAt g k (bareEnv c.pc 0 0) { cause := cause, tval := tval })
  | .absent =>
    let slot := ((c.launch).map (·.1)).getD 0
    .next (s.waiting g k (fun s => unreadyEffect g k (s.holdFault (s.ownerOf g k) c.pc.toNat (ctxAgent g k) 2 slot)))
  | .held => .next (s.waiting g k (unreadyEffect g k))
  | .bytes bs s1 =>
    match decode bs with
    | .ok (i, _) => resend g k s.clk i (exec i (s1.turnOf g k))
    | .error e => .next (decodeFault s1 g k c.fe c.pc ((lanesOf bs).headD 0) (((lanesOf bs).drop 1).headD 0) e)

/-- Fetch, decode and execute one instruction of a context, once the register cache holds its pinned lines (R144, R182). -/
def issueAt (s : State) (g k : Nat) : Host.Outcome State Fault Refusal :=
  if (s.ctx g k).poisoned && !((s.core g).lacks k).isEmpty then .next ((s.imageTrap g k).tick 1)
  else
    let s := s.pinLines g k
    issueFetched s g k (s.fetch g k)

/-- A context's turn (R411): a pending trap, then a pre-emption, then its instruction. A context that is not live, not
resident or yields, or a part that has tripped (R514), lets a clk pass. -/
def contextTurn (s : State) (g k : Nat) : Host.Outcome State Fault Refusal :=
  let c := s.ctx g k
  if !(c.live && c.resident) || s.dev.tripped then .next (s.tick 1)
  else if s.fenceFirst g k then issueAt { s with free := s.free + 1 } g k
  else
    match (s.deliverAsync g k).or (s.takePreempt g k) with
    | some s1 => .next (s1.tick 1)
    | none =>
      match c.yieldEnd with
      | some t => if s.clk < t then .next (s.tick 1) else issueAt (s.onCtx g k (fun c => { c with yieldEnd := none })) g k
      | none => issueAt s g k

/-! ### Front ends (R138) -/

/-- A front end as the key of a table. -/
def feIndex : FE → Nat
  | .a => 0
  | .x => 1

/-- The contexts of a front end in the order of its choice (R138): the control context first on A, then the helpers round-robin after the one
that last issued there; one that yields 0 clk has just issued, and so stands behind the others (R156). -/
def Core.issueOrder (c : Core) (fe : FE) : List Nat :=
  let last := c.lastIssue.get 0 (feIndex fe)
  (if fe = .a then [0] else [])
    ++ ((List.range 12).map (fun i => (last + i) % 12 + 1)).filter (fun k => decide ((c.ctx k).fe = fe) && (c.ctx k).live)

/-- Whether a context has no issue slot to take: it is not live or resident, it yields (R156), or its instruction has issued and waits. -/
def State.slotless (s : State) (g k : Nat) : Bool :=
  let c := s.ctx g k
  !(c.live && c.resident) || (c.waitFrom.isSome && !c.unissued) || (match c.yieldEnd with
    | some t => decide (s.clk < t)
    | none => false)

/-- Whether a context's next instruction would be found not ready to issue: it is not fetched, waits for a queue or lacks room (R138). -/
def State.unready (s : State) (g k : Nat) : Bool :=
  match contextTurn s g k with
  | .next t => (t.ctx g k).waitFrom.isSome && (t.ctx g k).unissued
  | _ => false

/-- The context that takes a front end's issue slot (R138): the first that is ready. -/
def State.pick (s : State) (g : Nat) (fe : FE) (late : List Nat) : Option Nat :=
  ((s.core g).issueOrder fe).find? (fun k => !late.contains k && !s.slotless g k && !s.unready g k)

/-- A helper that issues is the last that issued on its front end. -/
def State.issuedBy (s : State) (g : Nat) (fe : FE) (k : Nat) : State :=
  if k = 0 then s else s.onCore g (fun c => { c with lastIssue := c.lastIssue.set (feIndex fe) k })

/-- A front end's issue slot (R138); no context is ready in an empty one. -/
def frontTurn (s : State) (g : Nat) (fe : FE) (late : List Nat) : Host.Outcome State Fault Refusal :=
  match s.pick g fe late with
  | some k => contextTurn (s.issuedBy g fe k) g k
  | none => .next (s.tick 1)

/-- What a context does without an issue slot: a trap or a pre-emption is taken, a waiting instruction goes on, or the next one is found
not ready. -/
def waitTurn (s : State) (g k : Nat) : Host.Outcome State Fault Refusal :=
  if s.slotless g k || s.unready g k || ((s.deliverAsync g k).or (s.takePreempt g k)).isSome then contextTurn s g k else .next (s.tick 1)

/-- A turn that is not listed: the current context goes on without a slot where it can take none, else its front end has its slot. -/
def ownTurn (s : State) (g k : Nat) : Host.Outcome State Fault Refusal :=
  if s.slotless g k || s.unready g k then contextTurn s g k else frontTurn s g (s.ctx g k).fe []

/-- One turn: that at the head of the agenda. -/
def turn (s : State) : Host.Outcome State Fault Refusal :=
  match s.agenda with
  | [] => ownTurn s s.cur.1 s.cur.2
  | t :: rest =>
    let s1 := { s with agenda := rest }
    match t with
    | .front g fe late => frontTurn s1 g fe late
    | .waits g k => waitTurn s1 g k
    | .micro die late => microTurn exec die late s1
    | .event i => if i.isEvent then exec i s1 else .next s1
    | .mask v on => .next (s1.maskVector v on)
    | .pass n => .next (s1.tick n)

/-! ### What comes about by itself -/

/-- Whether a context waits for what comes about without its doing: a SYNC, an XWAIT or a WAITSIG that has issued (R382, R384, R387). -/
def Ctx.watches (c : Ctx) : Bool :=
  c.live && c.resident && c.waitFrom.isSome && !c.unissued && (match c.atPc with
    | some (.sync _) | some (.xwait _) | some (.waitsig _) => true
    | _ => false)

/-- Such a context completes in the clk in which what it waits for comes about, unless a trap or a pre-emption is due. -/
def State.complete (s : State) (g k : Nat) : State :=
  if !(s.ctx g k).watches || ((s.deliverAsync g k).or (s.takePreempt g k)).isSome then s
  else
    match contextTurn s g k with
    | .next t => if (t.ctx g k).waitFrom.isNone then { t with clk := s.clk, cur := s.cur } else s
    | _ => s

/-- What comes about once a turn is over: superstep barriers that complete (R384), what contexts wait for, exchange phases that end
(R385); CLKMAX takes the clocks that the turn has assigned (R362). -/
def State.settleTurn (s : State) : State :=
  let ds := s.domains.map (·.1)
  let s1 := ds.foldl (fun s d => s.barrierComplete d) s
  let s2 := s1.cores.foldl (fun s c => ctxNumbers.foldl (fun s k => s.complete c.1 k) s) s1
  (ds.foldl (fun s d => s.phaseEnd d) s2).noteClocks

/-- One step: a turn, and what then comes about. -/
def step (s : State) : Host.Outcome State Fault Refusal :=
  match turn s with
  | .next t => .next t.settleTurn
  | o => o

/-- The context that fetches for an opcode's front end: the current one where it may issue there, else helper 1 on X. -/
def fetchContext (s : State) (i : Option Instr) : Nat × Nat :=
  let ok := match i.bind Instr.spec with
    | some p => feAllows p.fe (s.ctx s.cur.1 s.cur.2).fe
    | none => true
  if ok then s.cur else (s.cur.1, 1)

/-- The state whose next turn is sampler context 0 of die 0 on a program of one word (log 10). -/
def State.withMicroWord (s : State) (w : Lane) : State :=
  let e : PoolEntry := { slot := 0, epoch := 0, node := 0, addr := 0, words := [], succ := [], kind := 5, prio := 0, ready := 0, p := 0,
                         stream := none, task := none }
  let c : SmpCtx := { ticket := 0, entry := e, owner := 0, prog := 0, words := [w], w := [], key := 0, pos := 0, draw := 0, base := 0,
                      count := 64, stepat := 0, l := 0, h := 0 }
  { s with agenda := [.micro 0 []] }.setSmp 0 0 c

/-- The state in which context (g, k) is live and resident, its PC's block is translated to the start of HBM4E, and the block
holds the words. -/
def State.withCoreWord (s : State) (g k : Nat) (fe : FE) (w : Nat) : State :=
  let c := { s.ctx g k with hstate := .live, idle := false, resident := true, fe := fe, fbuf := [], pend := [], waitFrom := none,
                            yieldEnd := none, poisoned := false }
  let t : Tlb := { owner := s.ownerOf g k, page := c.pc.toNat / 65536, entry := 0xD, big := false }
  let bytes := (tableWords w).flatMap laneBytes
  let s1 := { s with
    agenda := [], cur := (g, k), tlbs := s.tlbs.set (clusterOf g) [t], icache := s.icache.set (clusterOf g) [],
    mem := s.mem.putBytes (hbmKey (c.pc.toNat % 65536)) bytes }
  s1.setCtx g k c

/-- The state whose next step fetches and runs the instruction with these bits (log 10). -/
def State.withFetchWord (s : State) (nbits w : Nat) : State :=
  let i := decodeTableWord nbits w
  match i.bind Instr.micro? with
  | some _ => s.withMicroWord (BitVec.ofNat 32 w)
  | none =>
    let (g, k) := fetchContext s i
    s.withCoreWord g k (if (g, k) = s.cur then (s.ctx g k).fe else .x) w

end Sys2Proof.Machine
end

