-- ==== Sys2Proof/Safety.lean ====
section
/-! DEFINITION. What a good state is: the registers of every context within their ranges; and the words in which statements
about instructions are written: when an instruction issues, reading and writing its operands, completing. -/
namespace Sys2Proof.Machine

/-- A context's registers lie in their ranges: WBASE at most 1,888 (R143), a binding 0-6 (R146), at
most 128 lanes (R222), %tvec a multiple of 64 below 2^56 (R424). -/
def Ctx.good (c : Ctx) : Bool :=
  decide (c.wbase ≤ 1888) && decide (c.qset ≤ 6) && decide (c.grant ≤ 128)
    && decide (c.tvec.toNat % 64 = 0) && decide (c.tvec.toNat < 2 ^ 56)

/-- So do those of every context, the parked ones of a core's other shelf included; and WBASE as each trap frame keeps it is at most 1,888
(R143, R413). -/
def State.good (s : State) : Prop :=
  ∀ e ∈ s.cores, (∀ x ∈ e.2.ctxs ++ e.2.other, x.2.good = true) ∧ ∀ f ∈ e.2.tframes, (f.2.get 0 3).toNat ≤ 1888

/-! ### One instruction of the current context -/

/-- The context whose turn it is. -/
def State.mine (s : State) : Ctx := s.ctx s.cur.1 s.cur.2

/-- The instruction passes the checks of R63 on its front end, its queues hold and take what it needs (R147), and it has not popped them
while it waited. -/
abbrev Issues (i : Instr) (s : State) : Prop :=
  decodeCause i s.mine.fe = none ∧ queueVerdict (s.core s.cur.1) s.mine i = .ready ∧ s.mine.popped = []

/-- Change the current context. -/
def State.onMine (s : State) (f : Ctx → Ctx) : State := s.onCtx s.cur.1 s.cur.2 f

/-- The state in which an instruction that issues reads its operands: its PC stands at the next instruction (R49), and the block it lies in
is the most recent of its fetch buffer (R182). -/
def State.begun (s : State) (i : Instr) : State :=
  { s with seen := none }.onMine (fun c => { c.touched with pc := s.mine.pc + BitVec.ofNat 64 (instrBytes i) })

/-- The state in which a completed instruction leaves the part: its trace record, its wait over, one clk later. -/
def State.completed (s : State) (i : Instr) : State := (s.traceMem s.cur.1 s.cur.2 i).retired s.cur.1 s.cur.2

/-- The value of a scalar source operand, and the state once it is read: a queue gives its oldest value up (R58, R59). -/
def State.pull (s : State) (code : BitVec 6) : Word × State :=
  if isQueue code then
    match (s.core s.cur.1).queue s.mine.qset (queueIndex code) with
    | [] => (0, s)
    | v :: r => (v, s.onCore s.cur.1 (fun c => c.setQueue s.mine.qset (queueIndex code) r))
  else (s.mine.peek (s.place s.cur.1 s.cur.2) code, s)

/-- Write a scalar destination operand (R58): a register, a queue's end, or z, which discards. -/
def State.give (s : State) (code : BitVec 6) (v : Word) : State :=
  if code.toNat < 32 then s.onMine (fun c => c.setS code.toNat v)
  else if code.toNat < 48 then s.onMine (fun c => c.setG (code.toNat - 32) v)
  else if isQueue code then
    s.onCore s.cur.1 (fun c => c.setQueue s.mine.qset (queueIndex code) (c.queue s.mine.qset (queueIndex code) ++ [v]))
  else s

/-- Operand b of format R: the literal, or the operand (R57). -/
def State.pullB (s : State) (x : RFields) : Word × State :=
  match formLit x.form with
  | some v => (v, s)
  | none => s.pull x.b

/-- Read a, then b, and write d (R206). -/
def State.twoOperand (s : State) (x : RFields) (f : Word → Word → Word) : State :=
  let a := s.pull x.a
  let b := a.2.pullB x
  b.2.give x.d (f a.1 b.1)

/-- Read a and write d. -/
def State.oneOperand (s : State) (a d : BitVec 6) (f : Word → Word) : State :=
  let v := s.pull a
  v.2.give d (f v.1)

/-- Control moves to an address: the BRANCH trace record, then the PC (R51, R435). -/
def State.jump (s : State) (t : Word) : State := (s.trace s.cur.1 s.cur.2 1 t).onMine (fun c => { c with pc := t })

/-- A shared step of an instruction answers a value and a state: no trap, no wait. -/
abbrev Does {α : Type} (m : M α) (s : State) (a : α) (t : State) : Prop := m.run s = .ok (a, t)

/-- The state in which an instruction has trapped: a cause and its %tval (R409), taken from the state before it (R8). -/
def State.trapped (s : State) (i : Instr) (cause : Nat) (tval : Word) : State :=
  s.trapAt s.cur.1 s.cur.2 (envOf s s.cur.1 s.cur.2 i) { cause := cause, tval := tval }

/-- The generator has n draws left (R458). -/
abbrev State.drawsLeft (s : State) (rm : BitVec 3) (n : Nat) : Prop := rm = 5 → s.mine.gpos.toNat % 2 ^ 24 + n ≤ 2 ^ 24 - 1

/-- The position once n draws are taken, which happens under sr (R29, R458). -/
def State.rolled (s : State) (rm : BitVec 3) (n : Nat) : State :=
  if rm = 5 then s.onMine (fun c =>
    { c with gpos := BitVec.ofNat 64 (s.mine.gpos.toNat / 2 ^ 24 * 2 ^ 24 + s.mine.gpos.toNat % 2 ^ 24 + n) })
  else s

/-- The j-th draw from here on: the high 24 bits (R29), or 0 where the mode takes none. -/
def State.roll (s : State) (rm : BitVec 3) (j : Nat) : Nat :=
  if rm = 5 then simoomHigh s.mine.gkey (s.mine.gpos.toNat / 2 ^ 24) (s.mine.gpos.toNat % 2 ^ 24 + j) else 0

/-- Nothing but the current context differs. -/
def OnlyMine (s t : State) : Prop :=
  t = { s with cores := t.cores } ∧ (∀ g, g ≠ s.cur.1 → t.core g = s.core g)
  ∧ t.core s.cur.1 = { s.core s.cur.1 with ctxs := (t.core s.cur.1).ctxs }
  ∧ ∀ k, k ≠ s.cur.2 → t.ctx s.cur.1 k = s.ctx s.cur.1 k

/-- Nothing differs but the lanes of a vector register that a list names, which hold the stated values (R222, R227). -/
def WritesLanes (s t : State) (vd : Nat) (lanes : List Nat) (f : Nat → Lane) : Prop :=
  OnlyMine s t ∧ t.mine = { s.mine with v := t.mine.v }
  ∧ ∀ k i, k < 32 → i < 128 → t.mine.lane k i = if k = vd ∧ i ∈ lanes then f i else s.mine.lane k i

/-- Nothing differs but the elements of the listed lanes of a register: `w` bits each, the j-th of lane i as stated. -/
def WritesElems (s t : State) (vd w : Nat) (lanes : List Nat) (f : Nat → Nat → Nat) : Prop :=
  ∃ l : Nat → Lane, WritesLanes s t vd lanes l ∧ ∀ i ∈ lanes, ∀ j, j < 32 / w → laneElem w (l i) j = f i j % 2 ^ w

/-- Write a mask register, with its MASK trace record (R227, R435). -/
def State.setMask (s : State) (n : Nat) (m : BitVec 128) : State :=
  (s.onMine (fun c => { c with masks := c.masks.set n m })).traceMask s.cur.1 s.cur.2 n

/-- Offer a macro-operation of the current context to its engine (R252). -/
def State.withOffer (s : State) (kind : MacroKind) : State :=
  s.onEngine (clusterOf s.cur.1) (fun e => { e with offered := e.offered ++ [{
    seq := 0, core := s.cur.1, ctx := s.cur.2, owner := s.ownerOf s.cur.1 s.cur.2, kind := kind,
    shelf := (s.core s.cur.1).shelf, launch := s.mine.launch }] })

/-- A handle names stream n, whose home is this package and whose generation is the handle's (R97, R480). -/
def State.Names (s : State) (h : Word) (n : Nat) : Prop :=
  handleOk h = true ∧ handleHome h = homeHere ∧ n = handleId h ∧ (s.stream n).gen = handleGen h

/-- A descriptor step by the current context takes its place in the order (R323, R326). -/
def State.descPlaced (s : State) (n : Nat) : State × Nat := s.placeDesc (ctxAgent s.cur.1 s.cur.2) s.mine.l n

/-- The release of a descriptor step that is placed at time t (R480): P is t, L one more, and the stream's step clock takes P. -/
def State.stepped (s : State) (n : Nat) : State :=
  (((s.descPlaced n).1).onMine (fun c => { c with l := (s.descPlaced n).2 + 1 })).onStream n (·.stamp (s.descPlaced n).2)

/-- An acquire of P by the current context (R342). -/
def State.acquires (s : State) (p : Nat) : State :=
  s.onMine (fun c => { c with h := max c.h p, l := max c.l (max c.h p + 1) })

/-- The sampler context whose turn it is runs instance c, which has run fewer than 2^20 micro-instructions (R466, R467). -/
def State.Samples (s : State) (c : SmpCtx) : Prop := s.smpCtx s.smp.1 s.smp.2 = some c ∧ c.ran < 2 ^ 20

/-- An instance past its current micro-instruction (R467). -/
def SmpCtx.past (c : SmpCtx) : SmpCtx := { c with pc := c.pc + 1, ran := c.ran + 1, xfail := none }

/-- A completed micro-instruction leaves its instance as `c`, one clk later. -/
def State.sampled (s : State) (c : SmpCtx) : State := (s.setSmp s.smp.1 s.smp.2 c).tick 1

/-- A failed one (R466). -/
def State.sampleFails (s : State) (c : SmpCtx) (cause : Nat) (tval : Word) : State := (s.smpFail s.smp.1 s.smp.2 c cause tval).tick 1

/-- A run of n steps that neither faults nor refuses. -/
def runsTo (n : Nat) (s t : State) : Prop :=
  match n with
  | 0 => s = t
  | m + 1 => ∃ u, step s = .next u ∧ runsTo m u t

end Sys2Proof.Machine
end

