-- ==== Sys2Proof/Certificates/Slice0/Obligations.lean ====
section
/-! DEFINITION. The statements for the provers, family by family. `Issues i s` (Safety) says that instruction i passes the
checks of R63 in state s and that its queues are ready; `begun`, `pull`, `give` and `completed` say what reading operands,
writing them and completing do. A result stated as an equation of states is its own frame: whatever the right side does not
write is as it was. -/
open Sys2Proof Sys2Proof.Machine

/-! ### Rows 0 and 1: scalar instructions (R202-R221) -/

/-- R207, R210, R218, R219: the two-operand instructions read a, then b, write d with the stated result, and change nothing
else but the PC. -/
def Sys2Proof.Machine.TwoOperandResults : Prop :=
  ∀ (s : State) (x : RFields),
    let gives (i : Instr) (f : Nat → Word → Word → Word) : Prop :=
      Issues i s → exec i s = .next (((s.begun i).twoOperand x (f (extOf i).ty.toNat)).completed i)
    gives (.add x) (fun ty a b => putOf ty (valOf ty a + valOf ty b))
    ∧ gives (.sub x) (fun ty a b => putOf ty (valOf ty a - valOf ty b))
    ∧ gives (.mul x) (fun ty a b => putOf ty (valOf ty a * valOf ty b))
    ∧ gives (.mulh x) (fun ty a b => putOf ty (valOf ty a * valOf ty b / 2 ^ tyBits ty))
    ∧ gives (.and x) (fun ty a b => putOf ty (a &&& b).toNat)
    ∧ gives (.or x) (fun ty a b => putOf ty (a ||| b).toNat)
    ∧ gives (.xor x) (fun ty a b => putOf ty (a ^^^ b).toNat)
    ∧ gives (.andn x) (fun ty a b => putOf ty (a &&& ~~~b).toNat)
    ∧ gives (.min x) (fun ty a b => putOf ty (min (valOf ty a) (valOf ty b)))
    ∧ gives (.max x) (fun ty a b => putOf ty (max (valOf ty a) (valOf ty b)))
    ∧ gives (.cmp x) (fun ty => cmpResult x.fn.toNat (tyBits ty))
    ∧ gives (.bfx x) (fun _ => bfxResult (decide (x.fn = 1)))
    ∧ gives (.addr x) (fun _ a b => a + b * BitVec.ofNat 64 (2 ^ x.fn.toNat) + (extOf (.addr x)).imm32.signExtend 64)
    ∧ gives (.adds x) (fun ty a b =>
        putOf ty (intSat (tySigned ty) (tyBits ty) (if x.fn = 1 then valOf ty a - valOf ty b else valOf ty a + valOf ty b)))

/-- R208: DIV and REM, with the defined results of division by zero and of the one overflowing case, and that
x = q · y + rem modulo 2^w. -/
def Obligations.DivisionResults : Prop :=
  (∀ (s : State) (x : RFields),
    let q (ty : Nat) (a b : Word) : Int :=
      if valOf ty b = 0 then 2 ^ tyBits ty - 1
      else if tySigned ty = true ∧ valOf ty a = -(2 ^ (tyBits ty - 1)) ∧ valOf ty b = -1 then -(2 ^ (tyBits ty - 1))
      else (valOf ty a).tdiv (valOf ty b)
    let r (ty : Nat) (a b : Word) : Int :=
      if valOf ty b = 0 then valOf ty a
      else if tySigned ty = true ∧ valOf ty a = -(2 ^ (tyBits ty - 1)) ∧ valOf ty b = -1 then 0
      else valOf ty a - (valOf ty a).tdiv (valOf ty b) * valOf ty b
    (Issues (.div x) s → exec (.div x) s = .next (((s.begun (.div x)).twoOperand x
      (fun a b => putOf (extOf (.div x)).ty.toNat (q (extOf (.div x)).ty.toNat a b))).completed (.div x)))
    ∧ (Issues (.rem x) s → exec (.rem x) s = .next (((s.begun (.rem x)).twoOperand x
      (fun a b => putOf (extOf (.rem x)).ty.toNat (r (extOf (.rem x)).ty.toNat a b))).completed (.rem x))))
  ∧ ∀ (ty : Nat), ty ∈ ints → ∀ a b : Word,
      ((valOf ty (divResult ty a b) * valOf ty b + valOf ty (remResult ty a b) - valOf ty a) % 2 ^ tyBits ty) = 0

/-- R209, R212: shifts and rotates. A count of w or more leaves no bit of the operand but its sign; a rotate moves bit
i + k (modulo w) to bit i, to the right, or the other way, to the left; the immediate forms shift by bits 5-0. -/
def Obligations.ShiftResults : Prop :=
  ∀ (s : State),
    let shl (ty : Nat) (a n : Word) : Word :=
      if tyBits ty ≤ n.toNat then putOf ty 0 else putOf ty ((uval (tyBits ty) a * 2 ^ n.toNat : Nat) : Int)
    let lg (ty : Nat) (a n : Word) : Word :=
      if tyBits ty ≤ n.toNat then putOf ty 0 else putOf ty ((uval (tyBits ty) a / 2 ^ n.toNat : Nat) : Int)
    let ar (ty : Nat) (a n : Word) : Word :=
      if tyBits ty ≤ n.toNat then putOf ty (if sval (tyBits ty) a < 0 then -1 else 0)
      else putOf ty (sval (tyBits ty) a / 2 ^ n.toNat)
    (∀ x : RFields,
      (Issues (.shl x) s → exec (.shl x) s = .next (((s.begun (.shl x)).twoOperand x
        (shl (extOf (.shl x)).ty.toNat)).completed (.shl x)))
      ∧ (Issues (.shr x) s → exec (.shr x) s = .next (((s.begun (.shr x)).twoOperand x
        (if x.fn = 1 then ar (extOf (.shr x)).ty.toNat else lg (extOf (.shr x)).ty.toNat)).completed (.shr x)))
      ∧ (Issues (.rot x) s → ∃ rot : Word → Word → Word,
        exec (.rot x) s = .next (((s.begun (.rot x)).twoOperand x (fun a n =>
          putOf (extOf (.rot x)).ty.toNat (rot a n).toNat)).completed (.rot x))
        ∧ ∀ a n : Word, ∀ i, i < tyBits (extOf (.rot x)).ty.toNat →
          let w := tyBits (extOf (.rot x)).ty.toNat
          (if x.fn = 1 then (rot a n).getLsbD ((i + n.toNat) % w) = a.getLsbD i
           else (rot a n).getLsbD i = a.getLsbD ((i + n.toNat) % w))))
    ∧ (∀ x : IFields,
      (Issues (.shli x) s → exec (.shli x) s = .next (((s.begun (.shli x)).oneOperand x.a x.d
        (fun a => shl (extOf (.shli x)).ty.toNat a (x.imm &&& 63))).completed (.shli x)))
      ∧ (Issues (.shri x) s → exec (.shri x) s = .next (((s.begun (.shri x)).oneOperand x.a x.d
        (fun a => if x.imm.getLsbD 6 then ar (extOf (.shri x)).ty.toNat a (x.imm &&& 63)
          else lg (extOf (.shri x)).ty.toNat a (x.imm &&& 63))).completed (.shri x))))

/-- R211, R213, R214: the immediate forms compute as the two-operand ones with the immediate for b; CMPI writes the flag
word, whose six bits are the stated relations; LIT writes the immediate whole. -/
def Sys2Proof.Machine.ImmediateResults : Prop :=
  (∀ ty, ty ∈ ints → ∀ a b : Word,
    let w := tyBits ty
    let f := flagWord w a b
    f.toNat < 64 ∧ f.getLsbD 0 = decide (uval w a = uval w b) ∧ f.getLsbD 1 = decide (sval w a < sval w b)
    ∧ f.getLsbD 2 = decide (uval w a < uval w b) ∧ f.getLsbD 3 = decide (sval w b < sval w a)
    ∧ f.getLsbD 4 = decide (uval w b < uval w a) ∧ f.getLsbD 5 = decide (uval w (a &&& b) ≠ 0))
  ∧ ∀ (s : State) (x : IFields),
    let gives (i : Instr) (f : Nat → Word → Word → Word) : Prop :=
      Issues i s → exec i s = .next (((s.begun i).oneOperand x.a x.d (fun a => f (extOf i).ty.toNat a x.imm)).completed i)
    gives (.addi x) (fun ty a b => putOf ty (valOf ty a + valOf ty b))
    ∧ gives (.andi x) (fun ty a b => putOf ty (a &&& b).toNat)
    ∧ gives (.ori x) (fun ty a b => putOf ty (a ||| b).toNat)
    ∧ gives (.xori x) (fun ty a b => putOf ty (a ^^^ b).toNat)
    ∧ gives (.cmpi x) (fun ty => flagWord (tyBits ty))
    ∧ (Issues (.lit x) s → exec (.lit x) s = .next (((s.begun (.lit x)).give x.d x.imm).completed (.lit x)))

/-- The two-operand and immediate scalar instructions write the stated result and nothing else: `TwoOperandResults` and
`ImmediateResults` (R207, R210, R218, R219, R211, R213, R214). -/
def Obligations.ArithmeticResults : Prop :=
  TwoOperandResults ∧ ImmediateResults

/-- R215, R216, R217, R220, R221: SEL reads its destination as the condition and both sources; BCNT; BFI writes the field
and leaves every other bit; MAD; FOP, which under sr takes one draw for a rounding function (R29, R458). -/
def Sys2Proof.Machine.MoreScalarResults : Prop :=
  ∀ (s : State) (x : RFields),
    (Issues (.sel x) s →
      let c := (s.begun (.sel x)).pull x.d
      let a := c.2.pull x.a
      let b := a.2.pullB x
      let t := if x.fn = 0 then decide (c.1 ≠ 0) else if x.fn = 1 then decide (c.1 = 0) else c.1.getLsbD 63
      exec (.sel x) s = .next ((b.2.give x.d (if t then a.1 else b.1)).completed (.sel x)))
    ∧ (Issues (.bcnt x) s →
      exec (.bcnt x) s = .next (((s.begun (.bcnt x)).oneOperand x.a x.d
        (fun a => BitVec.ofNat 64 (bcntResult x.fn.toNat (tyBits (extOf (.bcnt x)).ty.toNat) a))).completed (.bcnt x)))
    ∧ (Issues (.bfi x) s →
      let d := (s.begun (.bfi x)).pull x.d
      let a := d.2.pull x.a
      let b := a.2.pullB x
      ∃ v : Word, exec (.bfi x) s = .next ((b.2.give x.d v).completed (.bfi x))
        ∧ ∀ i, i < 64 → v.getLsbD i =
          (if b.1.toNat % 64 ≤ i ∧ i < b.1.toNat % 64 + (b.1.toNat / 256 % 64 + 1) then a.1.getLsbD (i - b.1.toNat % 64)
           else d.1.getLsbD i))
    ∧ (Issues (.mad x) s →
      let ty := (extOf (.mad x)).ty.toNat
      let a := (s.begun (.mad x)).pull x.a
      let b := a.2.pullB x
      let c := b.2.pull (extOf (.mad x)).c
      exec (.mad x) s = .next ((c.2.give x.d (putOf ty (valOf ty a.1 * valOf ty b.1 + valOf ty c.1))).completed (.mad x)))
    ∧ (Issues (.fop x) s →
      let e := extOf (.fop x)
      let fn := x.fn.toNat
      let rm := if fopRounds fn e.ty.toNat then e.rm else 0
      s.drawsLeft rm 1 →
      let a := ((s.begun (.fop x)).rolled rm 1).pull x.a
      let b := a.2.pullB x
      let c := if fn = 7 then b.2.pull e.c else (0, b.2)
      exec (.fop x) s
        = .next ((c.2.give x.d (fopResult fn e.ty.toNat (rmOf e.rm) (s.roll rm 0) a.1 b.1 c.1)).completed (.fop x)))

/-- R221: FOP's operations on the values of its f32 operands: each rounds once by RM. -/
def Sys2Proof.Machine.FopOperations : Prop :=
  ∀ (rm : RMode) (d24 ty : Nat) (a b c : Word),
    let out (v : FVal) : Word := BitVec.ofNat 64 (fmtF32.ofVal rm d24 false v)
    let va := fmtF32.value (a.toNat % 2 ^ 32)
    let vb := fmtF32.value (b.toNat % 2 ^ 32)
    let vc := fmtF32.value (c.toNat % 2 ^ 32)
    fopResult 0 ty rm d24 a b c = out (va.add rm vb)
    ∧ fopResult 1 ty rm d24 a b c = out (va.add rm vb.neg)
    ∧ fopResult 2 ty rm d24 a b c = out (va.mul vb)
    ∧ fopResult 7 ty rm d24 a b c = out ((va.mul vb).add rm vc)
    ∧ (fopResult 10 ty rm d24 a b c).toNat = (match va.cmp vb with
        | none => 8
        | some r => if r < 0 then 2 else if r = 0 then 1 else 4)

/-- SEL, BCNT, BFI, MAD and FOP: their results, reads and draws: `MoreScalarResults` and `FopOperations` (R215, R216, R217,
R220, R221, R29, R458). -/
def Obligations.BitAndFloatResults : Prop :=
  MoreScalarResults ∧ FopOperations

/-! ### Row 2: control flow (R186-R201) -/

/-- R51, R52, R189-R194, R199: the branches go where their condition holds, to the literal, or to the block OFF12 blocks on
from the branch's own; a target that is no block address below 2^56 raises FET.ALIGN and nothing happens. -/
def Sys2Proof.Machine.BranchResults : Prop :=
  ∀ (s : State),
    let branches (i : Instr) (target : Word) (taken : Bool) (t : State) : Prop :=
      exec i s = if taken then
          if target.toNat % 64 ≠ 0 ∨ 2 ^ 56 ≤ target.toNat then .next (s.trapped i 0x021 target)
          else .next ((t.jump target).completed i)
        else .next (t.completed i)
    let target (x : JFields) : Word :=
      match formLit x.form with
      | some v => v
      | none => BitVec.ofNat 64 (s.mine.pc.toNat / 64 * 64) + x.off12.signExtend 64 * 64
    (∀ x : JFields,
      (Issues (.br x) s → branches (.br x) (target x) true (s.begun (.br x)))
      ∧ (Issues (.bz x) s → let a := (s.begun (.bz x)).pull x.a
          branches (.bz x) (target x) (match x.fn.toNat with
            | 0 => decide (a.1 = 0) | 1 => decide (a.1 ≠ 0) | 2 => decide (a.1.toInt < 0) | 3 => decide (0 ≤ a.1.toInt)
            | 4 => decide (0 < a.1.toInt) | _ => decide (a.1.toInt ≤ 0)) a.2)
      ∧ (Issues (.bcmp x) s → let a := (s.begun (.bcmp x)).pull x.a
          let e := extOf (.bcmp x)
          let c := if e.f2 then (e.imm32.signExtend 64, a.2) else a.2.pull e.c
          branches (.bcmp x) (target x) (match x.fn.toNat with
            | 0 => decide (a.1 = c.1) | 1 => decide (a.1 ≠ c.1) | 2 => decide (a.1.toInt < c.1.toInt)
            | 3 => decide (c.1.toInt ≤ a.1.toInt) | 4 => decide (a.1.toNat < c.1.toNat) | 5 => decide (c.1.toNat ≤ a.1.toNat)
            | 6 => decide (a.1 &&& c.1 ≠ 0) | _ => decide (a.1 &&& c.1 = 0)) c.2)
      ∧ (Issues (.loop x) s → let a := (s.begun (.loop x)).pull x.a
          let n := if a.1 = 0 then 0 else a.1 - 1
          branches (.loop x) (target x) (decide (n ≠ 0)) (a.2.give x.a n))
      ∧ (Issues (.bq x) s → let a := (s.begun (.bq x)).pull x.a
          branches (.bq x) (target x) (if x.fn = 0 then decide (a.1 ≠ 0) else decide (a.1 = 0)) a.2))
    ∧ ∀ x : RFields,
      (Issues (.jr x) s → branches (.jr x) ((s.begun (.jr x)).pull x.a).1 true ((s.begun (.jr x)).pull x.a).2)
      ∧ (Issues (.nop x) s → exec (.nop x) s = .next ((s.begun (.nop x)).completed (.nop x)))

/-- R195-R197: CALL and CALLR write the link record above the caller's registers, move the window up by the slide and go to
the target; RET undoes it. A bad target raises FET.ALIGN, a window stack without room, or a bad link record, CPL.WSTACK. -/
def Sys2Proof.Machine.CallAndReturn : Prop :=
  ∀ (s : State),
    let calls (i : Instr) (t : Word) (n : Nat) (u : State) : Prop :=
      exec i s = if t.toNat % 64 ≠ 0 ∨ 2 ^ 56 ≤ t.toNat then .next (s.trapped i 0x021 t)
        else if 1888 < s.mine.wbase + n then .next (s.trapped i 0x0E6 (envOf s s.cur.1 s.cur.2 i).aval)
        else .next (((u.trace u.cur.1 u.cur.2 1 t).onMine (fun c => { c with
          win := c.win.set (c.wbase + n - 1) (BitVec.ofNat 64 ((s.mine.pc.toNat % 2 ^ 56 / 64 + 1) * 64 % 2 ^ 56 + n)),
          wbase := c.wbase + n, pc := t })).completed i)
    (∀ x : JFields, Issues (.call x) s → calls (.call x) (branchTarget x s.mine.pc) x.a.toNat (s.begun (.call x)))
    ∧ (∀ x : RFields, Issues (.callr x) s → calls (.callr x) ((s.begun (.callr x)).pull x.a).1 x.d.toNat ((s.begun (.callr x)).pull x.a).2)
    ∧ ∀ x : JFields, Issues (.ret x) s →
      let k := s.mine.win.get 0 (s.mine.wbase - 1)
      let n := k.toNat % 32
      let u := s.begun (.ret x)
      let back : Word := BitVec.ofNat 64 (k.toNat / 64 * 64)
      exec (.ret x) s = if s.mine.wbase = 0 ∨ n = 0 ∨ s.mine.wbase < n ∨ 2 ^ 56 ≤ k.toNat ∨ k.getLsbD 5 = true then
          .next (s.trapped (.ret x) 0x0E6 0)
        else .next (((u.trace u.cur.1 u.cur.2 1 back).onMine (fun c => { c with wbase := c.wbase - n, pc := back })).completed (.ret x))

/-- R195, R197: a RET that finds the window as a CALL left it goes to the block after the CALL's and brings the window back. -/
def Sys2Proof.Machine.ReturnUndoesCall : Prop :=
  ∀ (s t u : State) (x y : JFields), Issues (.call x) s → exec (.call x) s = .next t → s.mine.pc.toNat < 2 ^ 56 - 64 →
    (branchTarget x s.mine.pc).toNat % 64 = 0 → (branchTarget x s.mine.pc).toNat < 2 ^ 56 → s.mine.wbase + x.a.toNat ≤ 1888 →
    u.mine.win = t.mine.win → u.mine.wbase = t.mine.wbase → Issues (.ret y) u →
    ∃ w, exec (.ret y) u = .next w ∧ w.mine.wbase = s.mine.wbase
      ∧ w.mine.pc = BitVec.ofNat 64 ((s.mine.pc.toNat / 64 + 1) * 64)

/-- Calls write the link record and move the window; a return undoes its call: `CallAndReturn` and `ReturnUndoesCall` (R195,
R196, R197). -/
def Obligations.CallsAndReturns : Prop :=
  CallAndReturn ∧ ReturnUndoesCall

/-- R200: JTAB reads the table's count and one entry of local memory and goes to the entry. -/
def Sys2Proof.Machine.JumpTable : Prop :=
  ∀ (s : State) (x : RFields), Issues (.jtab x) s →
    let a := (s.begun (.jtab x)).pull x.a
    let b := a.2.pull x.b
    ∀ (h t : Word) (s1 s2 : State), a.1.toNat < 65536 → a.1.toNat % 8 = 0 → Does (localDword a.1) b.2 h s1 →
      let n := h.toNat % 2 ^ 32
      let e := a.1.toNat + 8 + 8 * min b.1.toNat n
      e + 8 ≤ 65536 → Does (localDword (BitVec.ofNat 64 e)) s1 t s2 → t.toNat % 64 = 0 → t.toNat < 2 ^ 56 → s2.cur = s.cur →
      exec (.jtab x) s = .next ((s2.jump t).completed (.jtab x))

/-- Branches, jumps and table jumps go where the spec says or trap: `BranchResults` and `JumpTable` (R51, R52, R189, R190,
R191, R192, R193, R194, R199, R200). -/
def Obligations.BranchesAndJumps : Prop :=
  BranchResults ∧ JumpTable

/-! ### Row 3: local memory (R157-R176, R284-R288, R319) -/

/-- The n bytes at an offset of the issuing core's local memory can be accessed: no macro-operation uses their banks (R253),
and the banks carry the owner's tag (R160). -/
def Sys2Proof.Machine.LocalOpen (s : State) (off n : Nat) : Prop :=
  ∀ i, i < n → s.bankBusy s.cur.1 (bankOf (off + i)) = false ∧ (s.core s.cur.1).tag (bankOf (off + i)) = s.ownerOf s.cur.1 s.cur.2

/-- R160, R161: what local memory reads through each window, and what a write leaves: through f4d, f8d, bfw and i8w the
element is widened; a bank of another owner's tag reads zero first. -/
def Sys2Proof.Machine.LocalMemory : Prop :=
  (∀ (s : State) (off n ty : Nat) (la : Word),
    let at_ (o : Nat) (k : Nat) : Nat := natOfBytes (s.mem.bytes (localKey s.cur.1 o) k)
    let clear (o k : Nat) : Prop := LocalOpen s o k ∧ s.localBad s.cur.1 o k = false
    (clear off n → Does (localGet off n la) s (s.mem.bytes (localKey s.cur.1 off) n) s)
    ∧ (clear off n → Does (windowGet 0 off ty n la) s (at_ off n) s ∧ Does (windowGet 1 off ty n la) s (at_ off n) s)
    ∧ (let e := off / 2
       clear (40 * (e / 64) + e % 64 / 2) 1 → clear (40 * (e / 64) + 32 + e % 64 / 8) 1 →
        Does (windowGet 2 off ty 2 la) s (fmtBf16.ofVal .rne 0 false (fp4bVal
          (if e % 2 = 0 then at_ (40 * (e / 64) + e % 64 / 2) 1 % 16 else at_ (40 * (e / 64) + e % 64 / 2) 1 / 16)
          (at_ (40 * (e / 64) + 32 + e % 64 / 8) 1))) s)
    ∧ (clear (off / 2) 1 → Does (windowGet 3 off ty 2 la) s (fmtBf16.ofVal .rne 0 false ((fmtOf ty).value (at_ (off / 2) 1))) s)
    ∧ (clear (off / 4 * 2) 2 → Does (windowGet 4 off ty n la) s (fmtF32.ofVal .rne 0 false (fmtBf16.value (at_ (off / 4 * 2) 2))) s)
    ∧ (clear (off / 4) 1 → Does (windowGet 5 off ty n la) s (intCode 32 (intOf true 8 (at_ (off / 4) 1))) s))
  ∧ (∀ (s : State) (off : Nat) (bs : List Byte), LocalOpen s off bs.length → s.mem.wf = true →
    ∃ t, Does (localPut off bs) s () t ∧ t = { s with mem := t.mem, lmPoison := t.lmPoison } ∧ t.mem.wf = true
      ∧ ∀ a, t.mem.byte a = if localKey s.cur.1 off ≤ a ∧ a < localKey s.cur.1 off + bs.length
          then bs.getD (a - localKey s.cur.1 off) 0 else s.mem.byte a)
  ∧ ∀ (s : State) (g owner off : Nat), (s.core g).tag (bankOf off) ≠ owner → s.mem.wf = true →
    ((s.retag g owner off).core g).tag (bankOf off) = owner
    ∧ ∀ a, (s.retag g owner off).mem.byte a
        = if localKey g (bankOf off * 512) ≤ a ∧ a < localKey g (bankOf off * 512) + 512 then 0 else s.mem.byte a

/-- R285: the address of a scalar local access passes its checks. -/
def Sys2Proof.Machine.LocalOk (c : Core) (la : Word) (ty : Nat) (store : Bool) : Prop :=
  let w := winOf la
  la.toNat < 2 ^ 19 ∧ w < 6 ∧ ty ∈ windowTypes w ∧ ¬(store = true ∧ (w = 1 ∨ w = 2))
  ∧ (∀ b ∈ windowBytes w (offOf la) (windowSize w ty), b < 65536 ∧ c.mode (bankOf b) = 0)
  ∧ offOf la % windowSize w ty = 0

/-- R284, R285, R286: LDL gives d the element at a + imm, extended; STL writes b through the window; RROT moves an address
in its ring. -/
def Sys2Proof.Machine.LocalScalarAccess : Prop :=
  ∀ (s : State),
    (∀ (x : IFields) (code : Nat) (u : State), Issues (.ldl x) s →
      let a := (s.begun (.ldl x)).pull x.a
      let la := a.1 + x.imm
      let ty := (extOf (.ldl x)).ty.toNat
      let w := winOf la
      LocalOk (a.2.core s.cur.1) la ty false → Does (windowGet w (offOf la) ty (windowSize w ty) la) a.2 code u → u.cur = s.cur →
      exec (.ldl x) s = .next ((u.give x.d (if w = 2 ∨ w = 3 then BitVec.ofNat 64 code
        else if ty < 4 then BitVec.ofInt 64 (intOf true (tyBits ty) code) else BitVec.ofNat 64 code)).completed (.ldl x)))
    ∧ (∀ (x : IFields) (u : State), Issues (.stl x) s →
      let a := (s.begun (.stl x)).pull x.a
      let b := a.2.pull x.d
      let la := a.1 + x.imm
      let e := extOf (.stl x)
      let ty := e.ty.toNat
      let w := winOf la
      let rm := if w = 3 ∨ w = 4 then e.rm else 0
      LocalOk (b.2.core s.cur.1) la ty true → s.drawsLeft rm 1 →
      Does (windowPut w (offOf la) ty (windowSize w ty) (rmOf e.rm) (fun j => s.roll rm j) 0 b.1.toNat) (b.2.rolled rm 1) () u →
      u.cur = s.cur → exec (.stl x) s = .next (u.completed (.stl x)))
    ∧ ∀ x : RFields, Issues (.rrot x) s →
      let a := (s.begun (.rrot x)).pull x.a
      let b := a.2.pullB x
      let n := b.1.toNat / 65536 % 32
      a.1.toNat < 2 ^ 19 → b.1.toNat < 2 ^ 21 → 3 ≤ n → n ≤ 16 →
      exec (.rrot x) s = .next ((b.2.give x.d (BitVec.ofNat 64 (a.1.toNat / 2 ^ n * 2 ^ n
        + (a.1 + (b.1.setWidth 16).signExtend 64).toNat % 2 ^ n))).completed (.rrot x))

/-- Local memory through its windows, and the scalar local instructions: `LocalMemory` and `LocalScalarAccess` (R160, R161,
R284, R285, R286). -/
def Obligations.LocalAccess : Prop :=
  LocalMemory ∧ LocalScalarAccess

/-- R287, R288, R245: the vector loads of local memory. Each active lane of vd receives what its window reads at the lane's
address, once every lane has passed its checks; no other lane changes. -/
def Sys2Proof.Machine.LocalVectorLoads : Prop :=
  ∀ (s : State) (x : VFields),
    (Issues (.vldl x) s →
      let e := extOf (.vldl x)
      let a := (s.begun (.vldl x)).pull e.c
      let la := a.1 + e.imm32.signExtend 64
      let w := winOf la
      let act := a.2.mine.active x.m
      let off (i : Nat) : Nat := offOf la + (if e.f2 then 512 else 4) * i
      let at_ (i : Nat) : Word := la + BitVec.ofNat 64 ((if e.f2 then 512 else 4) * i)
      ∀ u : Nat → Nat, la.toNat < 2 ^ 19 → w < 6 →
        laneFieldsBad (envOf s s.cur.1 s.cur.2 (.vldl x)) w false = false → la.toNat % 4 = 0 →
        (∀ i ∈ act, (∀ b ∈ windowBytes w (off i) 4, b < 65536 ∧ (s.core s.cur.1).mode (bankOf b) = 0)
          ∧ Does (windowGet w (off i) e.ty.toNat 4 (at_ i)) a.2 (u i) a.2) →
        ∃ t, exec (.vldl x) s = .next (t.completed (.vldl x))
          ∧ WritesLanes a.2 t x.vd.toNat act (fun i => BitVec.ofNat 32 (u i)))
    ∧ (Issues (.vgathl x) s →
      let e := extOf (.vgathl x)
      let a := (s.begun (.vgathl x)).pull e.c
      let act := a.2.mine.active x.m
      let la (i : Nat) : Word := a.1 + e.imm32.signExtend 64 + (a.2.mine.laneB x (·.setWidth 32) i).setWidth 64
      ∀ u : Nat → Nat,
        (∀ i ∈ act, (la i).toNat < 2 ^ 19 ∧ winOf (la i) < 6
          ∧ laneFieldsBad (envOf s s.cur.1 s.cur.2 (.vgathl x)) (winOf (la i)) false = false ∧ (la i).toNat % 4 = 0
          ∧ (∀ b ∈ windowBytes (winOf (la i)) (offOf (la i)) 4, b < 65536 ∧ (s.core s.cur.1).mode (bankOf b) = 0)
          ∧ Does (windowGet (winOf (la i)) (offOf (la i)) e.ty.toNat 4 (la i)) a.2 (u i) a.2) →
        ∃ t, exec (.vgathl x) s = .next (t.completed (.vgathl x))
          ∧ WritesLanes a.2 t x.vd.toNat act (fun i => BitVec.ofNat 32 (u i)))
    ∧ (Issues (.ldtx x) s →
      let e := extOf (.ldtx x)
      let a := (s.begun (.ldtx x)).pull e.c
      let la := a.1 + e.imm32.signExtend 64
      let w := winOf la
      let div := if w = 0 then 1 else if w = 4 then 2 else 4
      let n := e.sub.toNat + 1
      let act := a.2.mine.active x.m
      let off (i k : Nat) : Nat := (offOf la / div / 512 + i) % 128 * 512 + offOf la / div % 512 + k * (4 / div)
      ∀ u : Nat → Nat → List Byte, la.toNat < 2 ^ 19 → (w = 0 ∨ w = 4 ∨ w = 5) → la.toNat % 4 = 0 →
        offOf la / div % 512 + n * (4 / div) ≤ 512 →
        (∀ i ∈ act, (s.core s.cur.1).mode ((offOf la / div / 512 + i) % 128) = 0
          ∧ ∀ k, k < n → Does (localGet (off i k) (4 / div) la) a.2 (u i k) a.2) →
        ∃ t, exec (.ldtx x) s = .next (t.completed (.ldtx x)) ∧ OnlyMine a.2 t ∧ t.mine = { a.2.mine with v := t.mine.v }
          ∧ ∀ r i, r < 32 → i < 128 → t.mine.lane r i =
              if x.vd.toNat ≤ r ∧ r < x.vd.toNat + n ∧ i ∈ act then ldtxLane w (u i (r - x.vd.toNat)) else a.2.mine.lane r i)

/-- R287, R288: the vector stores of local memory, lanes in ascending order; through pln, one record for each 64 elements. -/
def Sys2Proof.Machine.LocalVectorStores : Prop :=
  ∀ (s u : State) (x : VFields), u.cur = s.cur →
    (Issues (.vstl x) s →
      let e := extOf (.vstl x)
      let a := (s.begun (.vstl x)).pull e.c
      let la := a.1 + e.imm32.signExtend 64
      let w := winOf la
      let act := a.2.mine.active x.m
      let off (i : Nat) : Nat := offOf la + (if e.f2 then 512 else 4) * i
      la.toNat < 2 ^ 19 → w < 6 → laneFieldsBad (envOf s s.cur.1 s.cur.2 (.vstl x)) w true = false →
      (w ≠ 1 → w ≠ 2 → la.toNat % 4 = 0 →
        (∀ i ∈ act, ∀ b ∈ windowBytes w (off i) 4, b < 65536 ∧ (s.core s.cur.1).mode (bankOf b) = 0) →
        s.drawsLeft e.rm (act.length * windowDraws w 4) →
        Does (storeLanes e.ty.toNat (rmOf e.rm) (fun j => s.roll e.rm j) 0 (act.map (fun i => (w, off i, a.2.mine.lane x.va.toNat i))))
          (a.2.rolled e.rm (act.length * windowDraws w 4)) () u →
        exec (.vstl x) s = .next (u.completed (.vstl x)))
      ∧ (w = 1 →
        let es := planeElems a.2.mine x.va.toNat e.ty.toNat act
        let p := e.sub.toNat % 16 + 1
        let size := es.length / 64 * (8 * (p + 2))
        offOf la + size ≤ 65536 → la.toNat % 8 = 0 → 64 ≤ es.length → es.length % 64 = 0 →
        (∀ b, b < size → (s.core s.cur.1).mode (bankOf (offOf la + b)) = 0) →
        Does (localPut (offOf la) (slabRecords p (e.sat && !tyFloat e.ty.toNat) (es.length / 64) es)) a.2 () u →
        exec (.vstl x) s = .next (u.completed (.vstl x))))
    ∧ (Issues (.vscatl x) s →
      let e := extOf (.vscatl x)
      let a := (s.begun (.vscatl x)).pull e.c
      let act := a.2.mine.active x.m
      let la (i : Nat) : Word := a.1 + e.imm32.signExtend 64 + (a.2.mine.laneB x (·.setWidth 32) i).setWidth 64
      let n := (act.map (fun i => windowDraws (winOf (la i)) 4)).sum
      (∀ i ∈ act, (la i).toNat < 2 ^ 19 ∧ winOf (la i) < 6 ∧ winOf (la i) ≠ 1 ∧ winOf (la i) ≠ 2
        ∧ laneFieldsBad (envOf s s.cur.1 s.cur.2 (.vscatl x)) (winOf (la i)) false = false ∧ (la i).toNat % 4 = 0
        ∧ (∀ b ∈ windowBytes (winOf (la i)) (offOf (la i)) 4, b < 65536 ∧ (s.core s.cur.1).mode (bankOf b) = 0)) →
      s.drawsLeft e.rm n →
      Does (storeLanes e.ty.toNat (rmOf e.rm) (fun j => s.roll e.rm j) 0
        (act.map (fun i => (winOf (la i), offOf (la i), a.2.mine.lane x.va.toNat i)))) (a.2.rolled e.rm n) () u →
      exec (.vscatl x) s = .next (u.completed (.vscatl x)))

/-- Vector loads and stores of local memory: `LocalVectorLoads` and `LocalVectorStores` (R287, R288, R245). -/
def Obligations.LocalVectors : Prop :=
  LocalVectorLoads ∧ LocalVectorStores

/-- R105, R160, R175, R176: BANKMODE gives the old mode of the first bank and changes every bank that has another mode; FPUSH appends to
a FIFO bank below 64 entries and gives their number; FPOP takes the oldest; on a full or empty bank FN 1 answers at once. A bank of another
owner's is empty, and the issuer's, before either. -/
def Sys2Proof.Machine.BankInstructions : Prop :=
  ∀ (s : State) (x : RFields),
    (Issues (.bankmode x) s →
      let a := (s.begun (.bankmode x)).pull x.a
      let b := a.2.pull x.b
      let g := s.cur.1
      let bank0 := a.1.toNat % 65536 / 512
      let banks := (List.range (b.1.toNat / 256 % 128 + 1)).map (bank0 + ·)
      let m := b.1.toNat % 8
      let leaves := banks.any (fun i => decide ((s.core g).mode i = 1)) && decide (m ≠ 1)
      a.1.toNat < 2 ^ 19 → a.1.toNat % 512 = 0 → m ≤ 4 → b.1.toNat < 2 ^ 15 → b.1.toNat / 8 % 32 = 0 → bank0 + banks.length ≤ 128 →
      ((m = 3 ∨ ∃ i ∈ banks, (s.core g).mode i = 3) → bank0 % 8 = 0 ∧ banks.length % 8 = 0) →
      (∀ i ∈ banks, (s.core g).mode i ≠ m → s.bankBusy g i = false) →
      (∀ i ∈ banks, (s.core g).mode i = 3 → m ≠ 3 → (∀ id, (s.core g).frames.get .free (i / 8) ≠ .moving id)
        ∧ ∀ id, (s.core g).frames.get .free (i / 8) = .page id → s.pageMoving id = false) →
      exec (.bankmode x) s = .next (
        let t := b.2.give x.d (BitVec.ofNat 64 ((s.core g).mode bank0))
        let t1 : State := if leaves then { t with free := t.free + 1 } else t
        (banks.foldl (fun u i => u.changeBank g (u.ownerOf g s.cur.2) m i (if leaves then Config.freeValue s.free else 0)) t1).completed
          (.bankmode x)))
    ∧ (Issues (.fpush x) s →
      let a := (s.begun (.fpush x)).pull x.a
      let b := a.2.pull x.b
      let bank := a.1.toNat % 65536 / 512
      let u := takeFifo bank b.2
      let q := (u.core s.cur.1).fifo.get [] bank
      a.1.toNat < 2 ^ 19 → a.1.toNat % 512 = 0 → (s.core s.cur.1).mode bank = 2 →
      (q.length < 64 → exec (.fpush x) s = .next (((u.onCore s.cur.1 (fun c => { c with fifo := c.fifo.set bank (q ++ [b.1]) })).give
        x.d (BitVec.ofNat 64 (q.length + 1))).completed (.fpush x)))
      ∧ (64 ≤ q.length → x.fn = 1 → exec (.fpush x) s = .next ((u.give x.d (-1)).completed (.fpush x))))
    ∧ (Issues (.fpop x) s →
      let a := (s.begun (.fpop x)).pull x.a
      let bank := a.1.toNat % 65536 / 512
      let u := takeFifo bank a.2
      let took (v : Word) (r : List Word) : State := (u.onCore s.cur.1 (fun c => { c with fifo := c.fifo.set bank r })).give x.d v
      a.1.toNat < 2 ^ 19 → a.1.toNat % 512 = 0 → (s.core s.cur.1).mode bank = 2 →
      (∀ v r, (u.core s.cur.1).fifo.get [] bank = v :: r → u.localBad s.cur.1 (bank * 512) 512 = false → exec (.fpop x) s
        = .next ((if x.fn = 1 then (took v r).give (x.d + 1) 1 else took v r).completed (.fpop x)))
      ∧ ((u.core s.cur.1).fifo.get [] bank = [] → x.fn = 1 →
        exec (.fpop x) s = .next (((u.give x.d 0).give (x.d + 1) 0).completed (.fpop x))))
    ∧ (∀ bank : Nat, bank < 128 →
      ((s.core s.cur.1).tag bank = s.ownerOf s.cur.1 s.cur.2 → takeFifo bank s = s)
      ∧ ((s.core s.cur.1).tag bank ≠ s.ownerOf s.cur.1 s.cur.2 → ((takeFifo bank s).core s.cur.1).fifo.get [] bank = []
        ∧ ((takeFifo bank s).core s.cur.1).tag bank = s.ownerOf s.cur.1 s.cur.2))

/-- R308, R319: RSTL and RADD, admitted, take the lowest free journal entry, send the update to the core that the address
names, and give the entry's index; RADD numbers it for that core (R307). -/
def Sys2Proof.Machine.PostedWrites : Prop :=
  ∀ (s t : State) (x : RFields) (i : Nat) (r : List Nat),
    let dest (a : Word) : Nat := (a.toNat - 0x00F0000000000000) / 65536
    let entry (a b : Word) (ty kind fn : Nat) (seq : Bool) : JEntry :=
      { state := .pending, addr := a, value := BitVec.ofNat 64 (b.toNat % 256 ^ tyBytes ty), ctx := s.cur.2, ty := ty, fn := fn,
        kind := kind, seq := seq, org := t.originOf s.cur.1 s.cur.2 }
    let post (a b : Word) (ty : Nat) (kind : PostedKind) : Posted :=
      { src := .journal s.cur.1 s.cur.2 i, source := .inl s.cur.1, owner := t.ownerOf s.cur.1 s.cur.2, off := a.toNat % 65536,
        bytes := bytesOfNat (tyBytes ty) b.toNat, kind := kind }
    (Issues (.rstl x) s →
      let a := (s.begun (.rstl x)).pull x.a
      let b := a.2.pullB x
      let ty := (extOf (.rstl x)).ty.toNat
      0x00F0000000000000 ≤ a.1.toNat → a.1.toNat < 0x00F00000A0000000 → a.1.toNat % tyBytes ty = 0 →
      Does (admitPosted (tyBytes ty) a.1) b.2 () t → t.cur = s.cur → (t.core s.cur.1).freeEntries = i :: r →
      exec (.rstl x) s = .next ((((t.onCore s.cur.1 (fun c => c.onEntry i (fun _ => entry a.1 b.1 ty 1 0 false))).onCore (dest a.1)
        (fun c => { c with inbox := c.inbox ++ [post a.1 b.1 ty .store] })).give x.d (BitVec.ofNat 64 i)).completed (.rstl x)))
    ∧ (Issues (.radd x) s →
      let a := (s.begun (.radd x)).pull x.a
      let b := a.2.pullB x
      let e := extOf (.radd x)
      let ty := e.ty.toNat
      let n := (t.core s.cur.1).seqOut.get 0 (dest a.1)
      0x00F0000000000000 ≤ a.1.toNat → a.1.toNat < 0x00F00000A0000000 → a.1.toNat % tyBytes ty = 0 →
      Does (admitPosted (tyBytes ty) a.1) b.2 () t → t.cur = s.cur → (t.core s.cur.1).freeEntries = i :: r →
      exec (.radd x) s = .next (((((t.onCore s.cur.1 (fun c => { c with seqOut := c.seqOut.set (dest a.1) (n + 1) })).onCore s.cur.1
        (fun c => c.onEntry i (fun _ => entry a.1 b.1 ty 2 x.fn.toNat e.f2))).onCore (dest a.1)
        (fun c => { c with inbox := c.inbox ++ [post a.1 b.1 ty (.arith x.fn.toNat ty e.sat (if e.f2 then some n else none))] })).give
          x.d (BitVec.ofNat 64 i)).completed (.radd x)))

/-- Bank modes, FIFO banks and posted writes: `BankInstructions` and `PostedWrites` (R175, R176, R308, R319, R307). -/
def Obligations.BanksAndPosts : Prop :=
  BankInstructions ∧ PostedWrites

/-! ### Row 4: global loads and stores (R267-R296) -/

/-- R289, R290: LD gives d the loaded element, extended; ST stores the low bytes of its source, or 16 bytes of a register pair;
each is the access of its address (see `GlobalLoads` and `GlobalStores`). -/
def Sys2Proof.Machine.GlobalScalarAccess : Prop :=
  ∀ (s u : State), u.cur = s.cur →
    (∀ (x : IFields) (bs : List Byte), Issues (.ld x) s →
      let a := (s.begun (.ld x)).pull x.a
      let ty := (extOf (.ld x)).ty.toNat
      let v := envOf s s.cur.1 s.cur.2 (.ld x)
      Does (loadBytes (a.1 + x.imm) (tyBits ty / 8) v.aval v.pc) a.2 bs u →
      exec (.ld x) s = .next ((u.give x.d (if ty < 4 then BitVec.ofInt 64 (intOf true (tyBits ty) (natOfBytes bs))
        else BitVec.ofNat 64 (natOfBytes bs))).completed (.ld x)))
    ∧ ∀ x : IFields, Issues (.st x) s →
      let a := (s.begun (.st x)).pull x.a
      let d := a.2.pull x.d
      let d1 := d.2.pull (x.d + 1)
      let e := extOf (.st x)
      let n := tyBits e.ty.toNat / 8
      let va := a.1 + x.imm
      let v := envOf s s.cur.1 s.cur.2 (.st x)
      (e.f2 = false → Does (storeBytes va (bytesOfNat n d.1.toNat) e.ty.toNat e.sc.toNat [(va, bytesOfNat n d.1.toNat)] v) d.2 () u →
        exec (.st x) s = .next (u.completed (.st x)))
      ∧ (e.f2 = true → Does (storeBytes va (bytesOfNat 8 d.1.toNat ++ bytesOfNat 8 d1.1.toNat) e.ty.toNat e.sc.toNat
          [(va, bytesOfNat 8 d.1.toNat), (va + 8, bytesOfNat 8 d1.1.toNat)] v) d1.2 () u →
        exec (.st x) s = .next (u.completed (.st x)))

/-- R173, R283, R289, R326: a load of an address that the cluster has translated, from a line that nobody else holds or waits for, whose
channel serves reads of the owner (R280), and that passes its race check, reads the home's bytes (in the record of the open node, the
values of its parameter references: R83) and gives the context the time of R326: the greater of its L and the line's
WTS, one later where a lower agent ties with the last writer; the line's RTS rises to that time plus the lease. It changes
no byte of memory. -/
def Sys2Proof.Machine.GlobalLoads : Prop :=
  ∀ (s : State) (va aval pc : Word) (n key : Nat) (t : Tlb),
    let g := s.cur.1
    let line := key / 64
    let r := ctxReq s key n true false false 4 none
    let time := if max s.mine.l (s.line line).wts = (s.line line).wts ∧ (ctxAgent g s.cur.2).toNat < (s.line line).wid.toNat
      then (s.line line).wts + 1 else max s.mine.l (s.line line).wts
    va.toNat < 0x00F0000000000000 → 0 < n → va.toNat % n = 0 → n ≤ 16 → (n = 1 ∨ n = 2 ∨ n = 4 ∨ n = 8 ∨ n = 16) →
    s.cached (clusterOf g) (s.ownerOf g s.cur.2) va.toNat = some t → entryKey t.entry t.big va.toNat false false = some key →
    s.poison.contains line = false → (∀ h e, e ∈ (s.core h).wlq → e.line ≠ line) → (s.core g).cway = [] → (s.core g).cwayRoom = 0 →
    (s.line line).held = none → (s.line line).queue = [] → s.starves (s.ownerOf g s.cur.2) line = false → (s.raceCheck r).race = none → (s.raceCheck r).adv = none → time < clockLimit →
    s.mine.xfail ≠ some (pageOf va.toNat) → s.stillHeld (s.ownerOf g s.cur.2) va.toNat (ctxAgent g s.cur.2) = false →
    ∃ u, Does (loadBytes va n aval pc) s (s.recordBytes va.toNat (s.mem.bytes key n)) u ∧ u.cur = s.cur ∧ (∀ a, u.mem.byte a = s.mem.byte a)
      ∧ u.mine = { s.mine with l := time } ∧ (u.line line).rts = max (s.line line).rts (time + s.dev.lease)
      ∧ (u.line line).wts = (s.line line).wts

/-- R173, R274, R290, R326: a store that goes through to the home (scope 4 or 5, or no CWAY bank) of an address that the
cluster has translated, to a line that nobody holds and that passes its race check, is charged and queued: its bytes stand in
the youngest entry of the write-lane queue, every byte of memory is as before, and the context's L is the greater of its L
and RTS + 1, which the line's WTS and RTS become. -/
def Sys2Proof.Machine.GlobalStores : Prop :=
  ∀ (s : State) (va : Word) (scope key : Nat) (bs : List Byte) (t : Tlb) (v : Env) (ty : Nat) (posts : List (Word × List Byte)),
    let g := s.cur.1
    let line := key / 64
    let n := bs.length
    let r := ctxReq s key n false true false scope none
    let w := s.lane g
    let time := max s.mine.l ((s.line line).rts + 1)
    va.toNat < 0x00F0000000000000 → va.toNat % n = 0 → (n = 1 ∨ n = 2 ∨ n = 4 ∨ n = 8 ∨ n = 16) →
    s.cached (clusterOf g) (s.ownerOf g s.cur.2) va.toNat = some t → entryKey t.entry t.big va.toNat true false = some key →
    (4 ≤ scope ∨ (s.core g).cwayRoom = 0) → (∀ h e, e ∈ (s.core h).wlq → e.line ≠ line) → (s.core g).cway = [] →
    (s.line line).held = none → (s.line line).queue = [] → (s.core g).wlq.length < 16 →
    (s.mine.admitted ≠ 0 ∨ w.budget = 0 ∨ w.used = 0 ∨ w.used + n ≤ w.budget) →
    s.mine.xfail ≠ some (pageOf va.toNat) → s.stillHeld (s.ownerOf g s.cur.2) va.toNat (ctxAgent g s.cur.2) = false →
    (s.raceCheck r).race = none → (s.raceCheck r).adv = none → time < clockLimit →
    ∃ u, Does (storeBytes va bs ty scope posts v) s () u ∧ u.cur = s.cur ∧ (∀ a, u.mem.byte a = s.mem.byte a)
      ∧ u.mine = { s.mine with l := time } ∧ (u.line line).wts = time ∧ (u.line line).rts = time
      ∧ (u.core g).wl.used = (if s.mine.admitted = 0 then w.used + n else w.used)
      ∧ (u.core g).wlq = (s.core g).wlq ++ [({
          line := line, bytes := byteTable key bs, ctx := s.cur.2, since := s.clk, departed := false,
          owner := s.ownerOf g s.cur.2, launch := s.mine.launch } : WlqEntry)]

/-- What a load and a store do at a line that nobody else holds: `GlobalLoads` and `GlobalStores` (R173, R283, R289, R326,
R274, R290). -/
def Obligations.GlobalLoadsAndStores : Prop :=
  GlobalLoads ∧ GlobalStores

/-- R291-R293: the vector accesses act on the registers of the live X context that is bound to the issuer's queue set: the
lanes are located in ascending order, then read into vd, or, once admitted together, written from va. A partner that is parked on the other
shelf has no lanes (R226, R420). -/
def Sys2Proof.Machine.GlobalVectorAccess : Prop :=
  ∀ (s t u w : State) (x : VFields) (k : Nat) (locs : List (Nat × Word × Loc)),
    t.cur = s.cur → u.cur = s.cur → w.cur = s.cur → s.mine.qset ≠ 6 → (s.core s.cur.1).bound s.mine.qset .x = some k →
    let of (i : Instr) : Ctx := ((s.begun i).core s.cur.1).partnerCtx s.mine.qset k
    let loads (i : Instr) (indexed : Bool) : Prop := Issues i s →
      let v := envOf s s.cur.1 s.cur.2 i
      let a := (s.begun i).pull v.e.c
      let lanes := vectorLanes (of i) x v a.1 indexed
      Does (locateLanes false (if indexed then none else lanes.head?.map (·.2)) v.aval lanes) a.2 locs t →
      Does (readLanes k x.vd.toNat s.mine.pc locs) t () u → exec i s = .next (u.completed i)
    let stores (i : Instr) (indexed : Bool) : Prop := Issues i s →
      let v := envOf s s.cur.1 s.cur.2 i
      let a := (s.begun i).pull v.e.c
      let lanes := vectorLanes (of i) x v a.1 indexed
      Does (locateLanes true (if indexed then none else lanes.head?.map (·.2)) v.aval lanes) a.2 locs t →
      Does (admitVector (vectorCharge (t.core s.cur.1) v.e.sc.toNat (locs.map (·.2.2))) v.e.sc.toNat locs) t () w →
      Does (writeLanes (of i) x.va.toNat v.e.sc.toNat s.mine.pc [] locs) w () u →
      exec i s = .next ((u.storedWhole s.cur.1 (wholeLines locs)).completed i)
    loads (.vld x) false ∧ loads (.vgath x) true ∧ stores (.vst x) false ∧ stores (.vscat x) true
    ∧ ((s.core s.cur.1).boundHere s.mine.qset .x = none → ∀ i, (of i).grant = 0)

/-- LD, ST and the global vector accesses: `GlobalScalarAccess` and `GlobalVectorAccess` (R289, R290, R291, R292, R293). -/
def Obligations.GlobalAccess : Prop :=
  GlobalScalarAccess ∧ GlobalVectorAccess

/-- R294, R295, R296: PREF of an address that faults or has no line changes nothing, else it brings the line to CWAY; WLQ
gives the queue's state, or goes on once the asked entries are free; WLWAIT goes on at once for scopes below 2, else once the
context's stores have departed and are visible at the scope (R278). FENCE (R339, R372) waits likewise. -/
def Obligations.WriteLaneInstructions : Prop :=
  ∀ (s : State),
    (∀ x : IFields, Issues (.pref x) s →
      let a := (s.begun (.pref x)).pull x.a
      let found := (locate (BitVec.ofNat 64 ((a.1 + x.imm).toNat / 8 * 8)) 8 false 0).run a.2
      (∀ key t, found = .ok (.mem key, t) →
        exec (.pref x) s = .next ((if (extOf (.pref x)).f2 then t else t.prefetch key).completed (.pref x)))
      ∧ ((∀ key t, found ≠ .ok (.mem key, t)) → exec (.pref x) s = .next (a.2.completed (.pref x))))
    ∧ ∀ x : RFields,
      let core := s.core s.cur.1
      (Issues (.wlq x) s → x.fn = 0 → exec (.wlq x) s = .next (((s.begun (.wlq x)).give x.d (BitVec.ofNat 64 (
        s.mine.acks % 65536 * 2 ^ 48 + (core.cway.filter (·.dirty)).length * 2 ^ 16
          + (core.wlq.filter (fun e => e.stores.any (fun w => decide (w.ctx = s.cur.2) && decide (w.launch = s.mine.launch)))).length * 2 ^ 8 + core.wlq.length))).completed (.wlq x)))
      ∧ (Issues (.wlq x) s → x.fn = 1 → let a := (s.begun (.wlq x)).pull x.a
          core.wlq.length + min a.1.toNat 16 ≤ 16 → exec (.wlq x) s = .next (a.2.completed (.wlq x)))
      ∧ (let waits (i : Instr) : Prop := Issues i s →
          let sc := (extOf i).sc.toNat
          let u := (s.begun i).flushMine s.cur.1 s.cur.2
          (sc < 2 → exec i s = .next ((s.begun i).completed i))
          ∧ (2 ≤ sc → u.visible s.cur.1 s.cur.2 sc = true → u.cur = s.cur → exec i s = .next (u.completed i))
        waits (.wlwait x) ∧ waits (.fence x))

/-! ### Row 5: atomic accesses (R364-R373) -/

/-- R367-R371, R373: the atomic instructions give d the old value and store the new one: AMO by its function, CAS and CAS2
where the old value is the compared one, AFADD the f32 sum; LDA and LDA2 load, STREL stores with a release. -/
def Sys2Proof.Machine.AtomicResults : Prop :=
  ∀ (s u : State) (old : Nat), u.cur = s.cur →
    (∀ x : RFields,
      let at_ (i : Instr) : Word × State :=
        let a := (s.begun i).pull x.a
        (a.1 + (extOf i).imm32.signExtend 64, a.2)
      let writes (i : Instr) (n : Nat) (f : Nat → Nat) (from_ : State) : Prop :=
        let e := extOf i
        Does (atomicWrite (at_ i).1 n e.sc.toNat true (e.sub.getLsbD 0) (e.sub.getLsbD 1) f (envOf s s.cur.1 s.cur.2 i)) from_ old u
      (Issues (.amo x) s →
        let ty := (extOf (.amo x)).ty.toNat
        let b := (at_ (.amo x)).2.pull x.b
        writes (.amo x) (tyBits ty / 8) (fun o => amoResult x.fn.toNat ty o b.1.toNat) b.2 →
        exec (.amo x) s = .next ((u.give x.d (putOf ty old)).completed (.amo x)))
      ∧ (Issues (.cas x) s →
        let ty := (extOf (.cas x)).ty.toNat
        let b := (at_ (.cas x)).2.pull x.b
        let c := b.2.pull (extOf (.cas x)).c
        writes (.cas x) (tyBits ty / 8) (fun o => if o = c.1.toNat % 2 ^ tyBits ty then b.1.toNat % 2 ^ tyBits ty else o) c.2 →
        exec (.cas x) s = .next ((u.give x.d (putOf ty old)).completed (.cas x)))
      ∧ (Issues (.cas2 x) s →
        let b0 := (at_ (.cas2 x)).2.pull x.b
        let b1 := b0.2.pull (x.b + 1)
        let c0 := b1.2.pull (extOf (.cas2 x)).c
        let c1 := c0.2.pull ((extOf (.cas2 x)).c + 1)
        writes (.cas2 x) 16 (fun o => if o = c0.1.toNat + c1.1.toNat * 2 ^ 64 then b0.1.toNat + b1.1.toNat * 2 ^ 64 else o) c1.2 →
        exec (.cas2 x) s
          = .next (((u.give x.d (BitVec.ofNat 64 old)).give (x.d + 1) (BitVec.ofNat 64 (old / 2 ^ 64))).completed (.cas2 x)))
      ∧ (Issues (.afadd x) s →
        let b := (at_ (.afadd x)).2.pull x.b
        writes (.afadd x) 4 (fun o => f32Add (rmOf (extOf (.afadd x)).rm) 0 o (b.1.toNat % 2 ^ 32)) b.2 →
        exec (.afadd x) s = .next ((u.give x.d (BitVec.ofNat 64 old)).completed (.afadd x))))
    ∧ ∀ x : IFields,
      (Issues (.lda x) s →
        let a := (s.begun (.lda x)).pull x.a
        let e := extOf (.lda x)
        let ty := e.ty.toNat
        Does (atomicLoad (a.1 + x.imm) (tyBits ty / 8) e.sc.toNat (envOf s s.cur.1 s.cur.2 (.lda x))) a.2 old u →
        exec (.lda x) s = .next ((u.give x.d (if ty < 4 then BitVec.ofInt 64 (intOf true (tyBits ty) old)
          else BitVec.ofNat 64 old)).completed (.lda x)))
      ∧ (Issues (.lda2 x) s →
        let a := (s.begun (.lda2 x)).pull x.a
        Does (atomicLoad (a.1 + x.imm) 16 (extOf (.lda2 x)).sc.toNat (envOf s s.cur.1 s.cur.2 (.lda2 x))) a.2 old u →
        exec (.lda2 x) s
          = .next (((u.give x.d (BitVec.ofNat 64 old)).give (x.d + 1) (BitVec.ofNat 64 (old / 2 ^ 64))).completed (.lda2 x)))
      ∧ (Issues (.strel x) s →
        let a := (s.begun (.strel x)).pull x.a
        let d := a.2.pull x.d
        let e := extOf (.strel x)
        let n := tyBits e.ty.toNat / 8
        Does (atomicWrite (a.1 + x.imm) n e.sc.toNat false false true (fun _ => d.1.toNat % 2 ^ (8 * n))
          (envOf s s.cur.1 s.cur.2 (.strel x))) d.2 old u →
        exec (.strel x) s = .next (u.completed (.strel x)))

/-- R365, R366, R345: what an atomic access does at a line that nobody else holds and whose word it may access: the old value
is what the home holds; a release form stores with the P it publishes as its tag and L + 1; an acquire form takes the P of
the atomic write that it reads; the new value joins the write-lane queue, and no byte of memory changes at once. -/
def Sys2Proof.Machine.AtomicAccess : Prop :=
  ∀ (s : State) (va : Word) (n scope key : Nat) (acq rel : Bool) (f : Nat → Nat) (v : Env) (t : Tlb),
    let g := s.cur.1
    let line := key / 64
    let w := s.lane g
    let old := natOfBytes (s.mem.bytes key n)
    let l1 := if rel then s.mine.l + 1 else s.mine.l
    let r := { ctxReq s key n true true true scope (if rel then some s.mine.l else none) with l := l1 }
    let time := max l1 ((s.line line).rts + 1)
    va.toNat < 0x00F0000000000000 → va.toNat % n = 0 → (n = 1 ∨ n = 2 ∨ n = 4 ∨ n = 8 ∨ n = 16) → scope < 5 →
    s.cached (clusterOf g) (s.ownerOf g s.cur.2) va.toNat = some t → entryKey t.entry t.big va.toNat true false = some key →
    key < 2 ^ 64 → s.poison.contains line = false → (∀ h e, e ∈ (s.core h).wlq → e.line ≠ line) → (s.core g).cway = [] →
    (s.line line).held = none → (s.line line).queue = [] → s.starves (s.ownerOf g s.cur.2) line = false → (s.core g).wlq.length < 16 →
    (s.mine.admitted ≠ 0 ∨ w.budget = 0 ∨ w.used = 0 ∨ w.used + n ≤ w.budget) →
    s.mine.xfail ≠ some (pageOf va.toNat) → s.stillHeld (s.ownerOf g s.cur.2) va.toNat (ctxAgent g s.cur.2) = false →
    (s.raceCheck r).race = none → (s.raceCheck r).adv = none → time < clockLimit → s.mine.l + 1 < clockLimit →
    (∀ p, s.acquiredP r = some p → max s.mine.h p + 1 < clockLimit) →
    ∃ u, Does (atomicWrite va n scope true acq rel f v) s old u ∧ u.cur = s.cur ∧ (∀ a, u.mem.byte a = s.mem.byte a)
      ∧ (u.core g).wlq = (s.core g).wlq ++ [({
          line := line, bytes := byteTable key (bytesOfNat n (f old)), ctx := s.cur.2, since := s.clk, departed := false,
          owner := s.ownerOf g s.cur.2, launch := s.mine.launch } : WlqEntry)]
      ∧ (u.line line).wts = time
      ∧ u.mine = (match (if acq then s.acquiredP r else none) with
        | some p => { s.mine with h := max s.mine.h p, l := max time (max s.mine.h p + 1) }
        | none => { s.mine with l := time })

/-- Atomic instructions: results, clocks and effects at the home: `AtomicResults` and `AtomicAccess` (R367, R368, R369,
R370, R371, R373, R365, R366, R345). -/
def Obligations.AtomicInstructions : Prop :=
  AtomicResults ∧ AtomicAccess

/-! ### Row 6: barriers, signals, domains (R374-R388) -/

/-- A local barrier object at an address can be used (R377): 32-byte aligned, raw window, in a SPAD bank that the owner holds,
not in use by a macro-operation and free of stored errors. -/
def Sys2Proof.Machine.BarrierOpen (s : State) (a : Word) : Prop :=
  a.toNat < 65536 ∧ a.toNat % 32 = 0 ∧ (s.core s.cur.1).mode (bankOf a.toNat) = 0 ∧ LocalOpen s a.toNat 32
  ∧ s.localBad s.cur.1 a.toNat 32 = false

/-- R378-R381: BARINIT writes a fresh object; ARRIVE releases, counts arrivals with its P and gives the phase before;
WAITPH and TESTPH acquire the published P once the phase number is satisfied; EXPECT adds expected bytes. -/
def Sys2Proof.Machine.BarrierInstructions : Prop :=
  ∀ (s : State) (x : RFields),
    let a (i : Instr) := (s.begun i).pull x.a
    let b (i : Instr) := (a i).2.pull x.b
    let g := s.cur.1
    let off (i : Instr) : Nat := (a i).1.toNat
    let obj (i : Instr) : BarObj := s.barObj g (off i)
    let up (n bytes p : Nat) (i : Instr) : BarUpdate :=
      { off := off i, arrivals := n, bytes := 0, expected := bytes, p := p, owner := s.ownerOf g s.cur.2 }
    (Issues (.barinit x) s → BarrierOpen s (a (.barinit x)).1 → (b (.barinit x)).1.toNat < 2 ^ 48 →
      exec (.barinit x) s = .next (((b (.barinit x)).2.localWrite g (off (.barinit x)) (BarObj.bytes {
        parr := 0, earr := (b (.barinit x)).1.toNat % 65536, phase := 0, pbytes := 0,
        ebytes := (b (.barinit x)).1.toNat / 65536 % 2 ^ 32, racc := 0, rpub := 0 })).completed (.barinit x)))
    ∧ (Issues (.arrive x) s → BarrierOpen s (a (.arrive x)).1 → 0 < (b (.arrive x)).1.toNat → (b (.arrive x)).1.toNat < 65536 →
      s.journalQuiet g s.cur.2 = true → s.mine.l + 1 < clockLimit →
      exec (.arrive x) s = .next ((((((b (.arrive x)).2).onMine (fun c => { c with l := c.l + 1 })).updateBar g (off (.arrive x))
        [up (b (.arrive x)).1.toNat 0 s.mine.l (.arrive x)]).give x.d (BitVec.ofNat 64 (obj (.arrive x)).phase)).completed (.arrive x)))
    ∧ (Issues (.arrive x) s → 0x00F0000000000000 ≤ (off (.arrive x)) → off (.arrive x) < 0x00F00000A0000000 →
      off (.arrive x) % 32 = 0 → 0 < (b (.arrive x)).1.toNat → (b (.arrive x)).1.toNat < 65536 →
      s.journalQuiet g s.cur.2 = true → s.mine.l + 1 < clockLimit →
      let h := (off (.arrive x) - 0x00F0000000000000) / 65536
      let u : BarUpdate := { up (b (.arrive x)).1.toNat 0 s.mine.l (.arrive x) with off := off (.arrive x) % 65536 }
      s.barFits h u = true → (h = g → s.bankBusy g (bankOf u.off) = false) →
      exec (.arrive x) s = .next ((((((b (.arrive x)).2).onMine (fun c => { c with l := c.l + 1 })).updateBar h u.off [u]).give x.d
        (BitVec.ofNat 64 (s.barObj h u.off).phase)).completed (.arrive x)))
    ∧ (let test (i : Instr) (v : Word) : Prop := Issues i s → BarrierOpen s (a i).1 →
        (obj i).satisfies ((b i).1.toNat % 2 ^ 32) = true → max s.mine.h (obj i).rpub + 1 < clockLimit →
        exec i s = .next ((((b i).2.onMine (fun c => c.acquire (obj i).rpub)).give x.d v).completed i)
      test (.waitph x) (BitVec.ofNat 64 (obj (.waitph x)).phase) ∧ test (.testph x) 1)
    ∧ (Issues (.testph x) s → BarrierOpen s (a (.testph x)).1 →
      (obj (.testph x)).satisfies ((b (.testph x)).1.toNat % 2 ^ 32) = false →
      exec (.testph x) s = .next (((b (.testph x)).2.give x.d 0).completed (.testph x)))
    ∧ (Issues (.expect x) s → BarrierOpen s (a (.expect x)).1 → (obj (.expect x)).ebytes + (b (.expect x)).1.toNat < 2 ^ 32 →
      exec (.expect x) s = .next (((b (.expect x)).2.updateBar g (off (.expect x))
        [up 0 (b (.expect x)).1.toNat 0 (.expect x)]).completed (.expect x)))

/-- R375, R376: the updates of one clk add up and are tested once. A phase ends when the arrivals and the bytes have reached
what is expected: the phase number rises, the P gathered is published and the counts return to zero. A phase number n is
satisfied once the phase has passed it, by at most 2^31. -/
def Sys2Proof.Machine.BarrierPhases : Prop :=
  ∀ (o : BarObj) (us : List BarUpdate),
    let arr := min 65535 (o.parr + (us.map (·.arrivals)).sum)
    let got := min (2 ^ 32 - 1) (o.pbytes + (us.map (·.bytes)).sum)
    let want := o.ebytes + (us.map (·.expected)).sum
    (o.earr ≤ arr → want ≤ got →
      (o.apply us).phase = (o.phase + 1) % 2 ^ 32 ∧ (o.apply us).parr = 0 ∧ (o.apply us).pbytes = 0 ∧ (o.apply us).ebytes = 0
      ∧ (o.apply us).racc = 0 ∧ (o.apply us).earr = o.earr ∧ o.rpub ≤ (o.apply us).rpub ∧ o.racc ≤ (o.apply us).rpub
      ∧ (∀ u ∈ us, u.p ≤ (o.apply us).rpub) ∧ (o.phase < 2 ^ 32 → (o.apply us).satisfies o.phase = true))
    ∧ (¬(o.earr ≤ arr ∧ want ≤ got) →
      (o.apply us).phase = o.phase ∧ (o.apply us).parr = arr ∧ (o.apply us).pbytes = got ∧ (o.apply us).rpub = o.rpub
      ∧ (∀ u ∈ us, u.p ≤ (o.apply us).racc))
    ∧ (o.phase < 2 ^ 32 → o.satisfies o.phase = false)

/-- R382: SIGNAL is a release read-modify-write that answers with the old value and fires the watch slots of its word;
WAITSIG goes on, with the value it read, once the relation holds. -/
def Sys2Proof.Machine.SignalInstructions : Prop :=
  ∀ (s u w : State) (x : RFields) (old : Nat), u.cur = s.cur → w.cur = s.cur →
    (Issues (.signal x) s →
      let a := (s.begun (.signal x)).pull x.a
      let b := a.2.pull x.b
      let e := extOf (.signal x)
      let ty := e.ty.toNat
      let va := a.1 + e.imm32.signExtend 64
      s.journalQuiet s.cur.1 s.cur.2 = true →
      Does (atomicWrite va (tyBits ty / 8) e.sc.toNat true false true (fun o => amoResult x.fn.toNat ty o b.1.toNat)
        (envOf s s.cur.1 s.cur.2 (.signal x))) b.2 old u →
      Does (signalSeen va (amoResult x.fn.toNat ty old b.1.toNat)) u () w →
      exec (.signal x) s = .next ((w.give x.d (putOf ty old)).completed (.signal x)))
    ∧ (Issues (.waitsig x) s →
      let a := (s.begun (.waitsig x)).pull x.a
      let b := a.2.pull x.b
      let e := extOf (.waitsig x)
      let ty := e.ty.toNat
      Does (atomicLoad (a.1 + e.imm32.signExtend 64) (tyBits ty / 8) e.sc.toNat (envOf s s.cur.1 s.cur.2 (.waitsig x))
        (fun o => decide (cmpResult x.fn.toNat (tyBits ty) (putOf ty o) b.1 ≠ 0))) b.2 old u →
      cmpResult x.fn.toNat (tyBits ty) (putOf ty old) b.1 ≠ 0 →
      exec (.waitsig x) s = .next ((u.give x.d (putOf ty old)).completed (.waitsig x)))

/-- Barrier objects, their phases, and signals: `BarrierInstructions` and `BarrierPhases` and `SignalInstructions` (R378,
R379, R380, R381, R375, R376, R382). -/
def Obligations.BarriersAndSignals : Prop :=
  BarrierInstructions ∧ BarrierPhases ∧ SignalInstructions

/-- R383-R388: DOMAIN configures, frees and reports a barrier domain; SYNC leaves with the superstep's number once the barrier
is complete, and with -1 at the limit; XSEND adds a send of its exchange slot; XWAIT waits for a slot or the phase's end. -/
def Obligations.DomainInstructions : Prop :=
  ∀ (s : State) (x : RFields),
    let g := s.cur.1
    let a (i : Instr) := (s.begun i).pull x.a
    (Issues (.domain x) s → x.fn = 0 → ∀ (ws : List Word) (u : State), u.cur = s.cur →
      let a := a (.domain x)
      let b := a.2.pull x.b
      let d := a.1.toNat % 64
      let members := bitmapCores ws
      let l := (u.mine.launch).getD (0, 0)
      a.1.toNat / 64 % 4 = 0 → a.1.toNat / 2 ^ 24 % 256 = 0 → a.1.toNat / 2 ^ 16 % 256 ≤ 15 → b.1.toNat % 64 = 0 →
      Does (loadDwords b.1 (envOf s s.cur.1 s.cur.2 (.domain x)) 640) b.2 ws u →
      (∀ r, u.domainRefusal d members = some r → exec (.domain x) s = .next ((u.give x.d r).completed (.domain x)))
      ∧ (u.domainRefusal d members = none → u.mine.l + 1 < clockLimit →
        exec (.domain x) s = .next ((((u.onMine (fun c => { c with l := c.l + 1 })).configDomain d l.1 l.2 members
          (a.1.toNat / 256 % 256 + 1) (16 * (a.1.toNat / 2 ^ 16 % 256 + 1)) (a.1.toNat / 2 ^ 32)).give x.d 0).completed (.domain x))))
    ∧ (Issues (.domain x) s → x.fn ≠ 0 →
      let a := a (.domain x)
      let t := s.domainOf a.1.toNat
      a.1.toNat < 64 →
      (x.fn = 1 → t.configured = false → exec (.domain x) s = .next ((a.2.give x.d (-1)).completed (.domain x)))
      ∧ (x.fn = 1 → t.configured = true → (t.exchanging = true ∨ t.arrived ≠ [] ∨ t.released ≠ []) →
        exec (.domain x) s = .next ((a.2.give x.d (-4)).completed (.domain x)))
      ∧ (x.fn = 1 → t.configured = true → t.exchanging = false → t.arrived = [] → t.released = [] → s.mine.l + 1 < clockLimit →
        exec (.domain x) s = .next ((((a.2.onMine (fun c => { c with l := c.l + 1 })).freeDomain a.1.toNat).give x.d 0).completed
          (.domain x)))
      ∧ (x.fn ≠ 1 → exec (.domain x) s = .next ((a.2.give x.d (BitVec.ofNat 64 (t.count + t.members.length * 2 ^ 32
          + (if !t.configured then 0 else if t.exchanging then 2 else 1) * 2 ^ 48))).completed (.domain x))))
    ∧ (Issues (.sync x) s → s.cur.2 = 0 → ∀ d, (s.core g).domain = some d →
      let u := (s.begun (.sync x)).barrierComplete d
      (∀ r, (u.domainOf d).released.find? (fun r => r.1 = g) = some r → max s.mine.h (u.domainOf d).dp + 1 < clockLimit →
        exec (.sync x) s = .next ((((u.onDomain d (fun t => { t with released := t.released.filter (fun a => a.1 ≠ g) })).onMine
          (fun c => c.acquire (u.domainOf d).dp)).give x.d (BitVec.ofNat 64 r.2)).completed (.sync x)))
      ∧ (let w := u.phaseEnd d
        (u.domainOf d).released.find? (fun r => r.1 = g) = none → (u.domainOf d).arrived.any (fun r => r.1 = g) = false →
        (w.domainOf d).exchanging = false → (w.domainOf d).limit ≠ 0 → (w.domainOf d).count = (w.domainOf d).limit → w.cur = s.cur →
        exec (.sync x) s = .next ((w.give x.d (-1)).completed (.sync x))))
    ∧ (Issues (.xsend x) s → ∀ (d i : Nat) (bs : List Byte), (s.core g).domain = some d →
      let a := a (.xsend x)
      let b := a.2.pull x.b
      let u := (b.2.barrierComplete d).phaseEnd d
      let t := u.domainOf d
      let n := 16 * (x.fn.toNat + 1)
      let dst := a.1.toNat / 65536 % 65536
      u.cur = s.cur → t.exchanging = true → t.slotNow u.clk = some i → ((u.core g).xslot.get 0 (i / 64)).getLsbD (i % 64) = true →
      a.1.toNat < 2 ^ 32 → dst < 40960 → dst ∈ t.members → b.1.toNat < 65536 → b.1.toNat % 16 = 0 → b.1.toNat + n ≤ 65536 →
      (∀ j, j < n → (u.core g).mode (bankOf (b.1.toNat + j)) = 0) → a.1.toNat % 65536 % 16 = 0 → a.1.toNat % 65536 + n ≤ 65536 →
      Does (localGet b.1.toNat n b.1) u bs u →
      exec (.xsend x) s = .next ((u.onDomain d (fun t => { t with sends := t.sends ++ [({
        src := g, dst := dst, off := a.1.toNat % 65536, bytes := bs, owner := u.ownerOf g s.cur.2 } : ExSend)] })).completed (.xsend x)))
    ∧ (Issues (.xwait x) s → ∀ d, (s.core g).domain = some d →
      let w := (s.begun (.xwait x)).barrierComplete d
      let u := if x.fn = 0 then w.phaseEnd d else w.finishPhase d
      let t := u.domainOf d
      u.cur = s.cur →
      (x.fn = 0 → let v := u.pull x.a
        t.exchanging = true → v.1.toNat < t.slots →
        (t.slotNow u.clk = none → exec (.xwait x) s = .next ((v.2.give x.d (BitVec.ofNat 64 t.slots)).completed (.xwait x)))
        ∧ (∀ i, t.slotNow u.clk = some i → v.1.toNat ≤ i →
          exec (.xwait x) s = .next ((v.2.give x.d (BitVec.ofNat 64 i)).completed (.xwait x))))
      ∧ (x.fn = 1 → t.exchanging = false → max u.mine.h t.dp + 1 < clockLimit →
        exec (.xwait x) s = .next (((u.onMine (fun c => c.acquire t.dp)).give x.d
          (BitVec.ofNat 64 (t.count + (if g ∈ t.dropped then 2 ^ 32 else 0)))).completed (.xwait x))))

/-! ### Row 7: contexts, queues, lanes, nodes (R132-R156, R222-R225) -/

/-- R151-R153: START takes the lowest free helper, which starts with P acquired, WBASE 0 and s0 set, or answers -1 or -2;
END publishes P and leaves the helper ended, its lanes returned and its set unbound; HWAIT acquires what the named helpers
published, frees them, and tells which ended abnormally. -/
def Sys2Proof.Machine.HelperInstructions : Prop :=
  ∀ (s : State) (x : RFields),
    let g := s.cur.1
    let k := s.cur.2
    let core := s.core g
    (Issues (.start x) s → k = 0 →
      let a := (s.begun (.start x)).pull x.a
      let b := a.2.pull x.b
      let q := x.fn.toNat / 2
      let fe : FE := if x.fn.toNat % 2 = 1 then .x else .a
      a.1.toNat % 64 = 0 → a.1.toNat < 2 ^ 56 →
      (q ≤ 5 → core.taken q fe none = true → exec (.start x) s = .next ((b.2.give x.d (-2)).completed (.start x)))
      ∧ (¬(q ≤ 5 ∧ core.taken q fe none = true) → (∀ j ∈ ctxNumbers, j ≠ 0 → (core.ctx j).hstate ≠ .free) →
        exec (.start x) s = .next ((b.2.give x.d (-1)).completed (.start x)))
      ∧ (¬(q ≤ 5 ∧ core.taken q fe none = true) → s.mine.l + 1 < clockLimit →
        ∀ j, j ∈ ctxNumbers → j ≠ 0 → (core.ctx j).hstate = .free → (∀ i ∈ ctxNumbers, i < j → i ≠ 0 → (core.ctx i).hstate ≠ .free) →
        ∃ t : State, exec (.start x) s = .next (t.completed (.start x))
          ∧ t.ctx g j = { hstate := .live, fe := fe, qset := q, pc := a.1, win := [(0, b.1)], h := s.mine.l, l := s.mine.l + 1,
                          racemode := s.mine.racemode, gkey := s.mine.gkey ^^^ BitVec.ofNat 64 j, gpos := s.mine.gpos,
                          launch := s.mine.launch, acks := (core.ctx j).acks }
          ∧ t.mine.l = s.mine.l + 1 ∧ t.mine.hlive = s.mine.hlive ||| BitVec.ofNat 13 (2 ^ j)
          ∧ ∃ u : State, t = u.give x.d (BitVec.ofNat 64 j) ∧ u = { b.2 with cores := u.cores }))
    ∧ (Issues (.endHelper x) s → k ≠ 0 → (s.mine.openBatch.used = false ∨ s.mine.batches.length < 16) → s.mine.l + 1 < clockLimit →
      ∃ t : State, exec (.endHelper x) s = .next (t.completed (.endHelper x)) ∧ t.mine.hstate = .ended ∧ t.mine.abn = false
        ∧ t.mine.endp = s.mine.l ∧ t.mine.l = s.mine.l + 1 ∧ t.mine.qset = 6 ∧ t.mine.grant = 0 ∧ t.mem = s.mem)
    ∧ (Issues (.hwait x) s → k = 0 →
      let a := (s.begun (.hwait x)).pull x.a
      let named := ctxNumbers.filter (fun j => a.1.getLsbD j)
      a.1.getLsbD 0 = false → a.1.toNat < 2 ^ 13 → (∀ j ∈ named, s.mine.hlive.getLsbD j = true) →
      (named = [] → exec (.hwait x) s = .next ((a.2.give x.d 0).completed (.hwait x)))
      ∧ (let p := named.foldl (fun p j => max p (core.ctx j).endp) 0
        named ≠ [] → (∀ j ∈ named, (core.ctx j).hstate = .ended) → max s.mine.h p + 1 < clockLimit →
        ∃ (t : State) (v : Word), exec (.hwait x) s = .next ((t.give x.d v).completed (.hwait x)) ∧ t.cur = s.cur
          ∧ (∀ j ∈ named, (t.ctx g j).hstate = .free) ∧ t.mine.h = max s.mine.h p
          ∧ t.mine.l = max s.mine.l (max s.mine.h p + 1) ∧ t.mine.hlive = s.mine.hlive &&& ~~~(a.1.setWidth 13)
          ∧ ∀ j, j < 13 → v.getLsbD j = (decide (j ∈ named) && (core.ctx j).abn)))

/-- R154-R156, R224, R225: QBIND binds the context to a set, or empties one; QSTAT reports a set; YIELD holds the context off;
VCLAIM and VYIELD change the lane grant in steps of 8 within what the octet has, and clear the lanes that come or go. -/
def Sys2Proof.Machine.QueueAndLaneInstructions : Prop :=
  ∀ (s : State) (x : RFields),
    let g := s.cur.1
    let a (i : Instr) := (s.begun i).pull x.a
    (Issues (.qbind x) s → x.fn = 0 → let a := a (.qbind x)
      a.1.toNat ≤ 6 → (a.1.toNat ≤ 5 → (a.2.core g).taken a.1.toNat .a (some s.cur.2) = false) →
      exec (.qbind x) s = .next ((a.2.onMine (fun c => { c with qset := a.1.toNat })).completed (.qbind x)))
    ∧ (Issues (.qbind x) s → x.fn = 1 → let a := a (.qbind x)
      a.1.toNat ≤ 5 → (a.2.core g).taken a.1.toNat .a (some s.cur.2) = false → (a.2.core g).taken a.1.toNat .x (some s.cur.2) = false →
      ∃ t : State, exec (.qbind x) s = .next (t.completed (.qbind x)) ∧ t = { a.2 with cores := t.cores }
        ∧ (∀ q, q < 7 → (t.core g).queue a.1.toNat q = []) ∧ (∀ j, t.ctx g j = a.2.ctx g j)
        ∧ ∀ n q, n ≠ a.1.toNat → q < 7 → (t.core g).queue n q = (a.2.core g).queue n q)
    ∧ (Issues (.qstat x) s → let a := a (.qstat x)
      let n := if a.1.toNat = 7 then s.mine.qset else a.1.toNat
      (a.1.toNat ≤ 5 ∨ a.1.toNat = 7) →
      exec (.qstat x) s = .next ((a.2.give x.d (if n = 6 then BitVec.ofNat 64 (15 * 2 ^ 36 + 15 * 2 ^ 32)
        else BitVec.ofNat 64 ((((a.2.core g).bound n .x).getD 15) * 2 ^ 36 + (((a.2.core g).bound n .a).getD 15) * 2 ^ 32
          + ([0, 1, 2, 3, 4, 5, 6].map (fun q => ((a.2.core g).queue n q).length * 16 ^ q)).sum))).completed (.qstat x)))
    ∧ (Issues (.yield x) s → let a := a (.yield x)
      exec (.yield x) s = .next ((a.2.onMine (fun c => { c with
        yieldEnd := if a.1 = 0 then none else some (s.clk + 1 + min a.1.toNat 65535) })).completed (.yield x)))
    ∧ (let changes (i : Instr) (n : Nat) : Prop :=
        let c := s.mine
        let keep := min c.grant n
        ∃ t : State, exec i s = .next ((t.give x.d (BitVec.ofNat 64 (n + if c.shrunk then 256 else 0))).completed i) ∧ t.cur = s.cur
          ∧ t.mine.grant = n ∧ t.mine.shrunk = false
          ∧ (∀ r j, r < 32 → j < 128 → t.mine.lane r j = if j < keep then c.lane r j else 0)
          ∧ ∀ m j, 0 < m → m < 8 → j < 128 → (t.mine.mask m).getLsbD j = ((c.mask m).getLsbD j && decide (j < keep))
      (Issues (.vclaim x) s → let a := a (.vclaim x)
        let want := min 128 (8 * ((a.1.toNat + 7) / 8))
        changes (.vclaim x) (if s.mine.grant < want then s.mine.grant + min (want - s.mine.grant) (s.freeLanes g) else s.mine.grant))
      ∧ (Issues (.vyield x) s → let a := a (.vyield x)
        changes (.vyield x) (min s.mine.grant (8 * (a.1.toNat / 8)))))

/-- Helpers, queue sets, YIELD and lane grants: `HelperInstructions` and `QueueAndLaneInstructions` (R151, R152, R153, R154,
R155, R156, R224, R225). -/
def Obligations.HelpersAndQueues : Prop :=
  HelperInstructions ∧ QueueAndLaneInstructions

/-- R132, R134, R135: NWAIT gives the delivered node's record and word and acquires its P, or zeros at its timeout; NDONE
publishes P and reports its rank complete; TASK puts a node of eight dwords into the pool, or tells why not. -/
def Obligations.NodeInstructions : Prop :=
  ∀ (s : State) (x : RFields),
    let g := s.cur.1
    let a (i : Instr) := (s.begun i).pull x.a
    (Issues (.nwait x) s → s.cur.2 = 0 → s.mine.ticket = none →
      (∀ n, s.mine.arrived = some n →
        let u := (((a (.nwait x)).2.takeNode g n.ticket).give x.d n.record).give (x.d + 1) n.word
        u.cur = s.cur → max u.mine.h n.p + 1 < clockLimit →
        exec (.nwait x) s = .next (((u.onMine (fun c => c.acquire n.p)).onMine
          (fun c => { c with ticket := some n.ticket, arrived := none })).completed (.nwait x)))
      ∧ (∀ w t, s.mine.arrived = none → s.mine.nwait = some w → w.limit = some t → t ≤ s.clk →
        exec (.nwait x) s = .next ((((a (.nwait x)).2.give x.d 0).give (x.d + 1) 0).completed (.nwait x))))
    ∧ (Issues (.ndone x) s → s.cur.2 = 0 → ∀ t, s.mine.ticket = some t → let a := a (.ndone x)
      field a.1 32 2 = t.die → field a.1 16 13 = t.num → s.mine.hlive = 0 → s.mine.l + 1 < clockLimit →
      let u := ((a.2.onMine (fun c => { c with l := c.l + 1 })).onMine (fun c => { c with ticket := none })).rankDone g t s.mine.l
      u.cur = s.cur → exec (.ndone x) s = .next (u.completed (.ndone x)))
    ∧ (Issues (.task x) s → ∀ (ws : List Word) (u : State), u.cur = s.cur → let a := a (.task x)
      let b := a.2.pull x.b
      let slot := (u.mine.launch.map (·.1)).getD 0
      let r : NodeRec := {
        w0 := ws.getD 0 0, w1 := ws.getD 1 0, k := resolveDwords (u.launch slot).vals (ws.getD 0 0) (ws.drop 2), succ := [], succOk := true }
      a.1.toNat % 64 = 0 → (b.1 = 0 ∨ b.1.toNat < 65536 ∧ b.1.toNat % 32 = 0) →
      Does (loadDwords a.1 (envOf s s.cur.1 s.cur.2 (.task x)) 8) b.2 ws u →
      (∀ code, u.checkNode r false true 0 = some code →
        exec (.task x) s = .next ((u.give x.d (BitVec.ofInt 64 (-(0x10 + code)))).completed (.task x)))
      ∧ (u.checkNode r false true 0 = none →
        ((u.launch slot).state ≠ .running → exec (.task x) s = .next ((u.give x.d (-2)).completed (.task x)))
        ∧ ((u.launch slot).state = .running → (u.caravan (u.poolOf slot r none)).full = true →
          exec (.task x) s = .next ((u.give x.d (-1)).completed (.task x)))
        ∧ ((u.launch slot).state = .running → (u.caravan (u.poolOf slot r none)).full = false → u.mine.l + 1 < clockLimit →
          let w := (u.onMine (fun c => { c with l := c.l + 1 })).enqueueTask slot a.1 r u.mine.l g b.1.toNat
          w.cur = s.cur → exec (.task x) s = .next ((w.give x.d 0).completed (.task x)))))

/-! ### Rows 8, 9 and A: vector lanes (R222-R245) -/

/-- The index of lane i among the lanes that a mask makes active. -/
def Sys2Proof.Machine.Ctx.rankOf (c : Ctx) (m : BitVec 3) (i : Nat) : Nat := ((c.active m).filter (fun j => decide (j < i))).length

/-- R227, R231, R232, R233: the element-wise instructions write every element of vd in the active lanes, from the elements
of vd, va and vb (or the literal's low bits in every element), and nothing else; floats round by RM, under sr with one draw
an element in ascending order. -/
def Obligations.VectorArithmetic : Prop :=
  ∀ (s : State) (x : VFields),
    let c := s.mine
    let act := c.active x.m
    let writes (i : Instr) (rm : BitVec 3) (f : Nat → Nat → Nat → Nat → Nat) : Prop := Issues i s →
      let w := tyBits (extOf i).ty.toNat
      s.drawsLeft rm (act.length * (32 / w)) →
      ∃ t : State, exec i s = .next (t.completed i)
        ∧ WritesElems ((s.begun i).rolled rm (act.length * (32 / w))) t x.vd.toNat w act (fun l j =>
            f (s.roll rm (c.rankOf x.m l * (32 / w) + j)) (laneElem w (c.lane x.vd.toNat l) j) (laneElem w (c.lane x.va.toNat l) j)
              (match formLit x.form with
                | some v => v.toNat % 2 ^ w
                | none => laneElem w (c.lane x.vb.toNat l) j))
    let arith (i : Instr) (fi : Int → Int → Int → Int) (ff : RMode → FVal → FVal → FVal → FVal) : Prop :=
      let e := extOf i
      let ty := e.ty.toNat
      let val (k : Nat) : Int := intOf (tySigned ty) (tyBits ty) k
      writes i (if tyFloat ty then e.rm else 0) (fun d z a b =>
        if tyFloat ty then (fmtOf ty).ofVal (rmOf e.rm) d e.sat (ff (rmOf e.rm) ((fmtOf ty).value z) ((fmtOf ty).value a) ((fmtOf ty).value b))
        else intResult (tySigned ty) (tyBits ty) e.sat (fi (val z) (val a) (val b)))
    let w (i : Instr) : Nat := tyBits (extOf i).ty.toNat
    arith (.vadd x) (fun _ a b => a + b) (fun rm _ a b => a.add rm b)
    ∧ arith (.vsub x) (fun _ a b => a - b) (fun rm _ a b => a.add rm b.neg)
    ∧ arith (.vmul x) (fun _ a b => a * b) (fun _ _ a b => a.mul b)
    ∧ arith (.vfma x) (fun z a b => a * b + z) (fun rm z a b => (a.mul b).add rm z)
    ∧ writes (.vmin x) 0 (fun _ _ a b => minMaxElem (extOf (.vmin x)).ty.toNat false a b)
    ∧ writes (.vmax x) 0 (fun _ _ a b => minMaxElem (extOf (.vmax x)).ty.toNat true a b)
    ∧ writes (.vand x) 0 (fun _ _ a b => a &&& b)
    ∧ writes (.vor x) 0 (fun _ _ a b => a ||| b)
    ∧ writes (.vxor x) 0 (fun _ _ a b => a ^^^ b)
    ∧ writes (.vshl x) 0 (fun _ _ a b => if w (.vshl x) ≤ b then 0 else a * 2 ^ b)
    ∧ writes (.vshr x) 0 (fun _ _ a b =>
        if x.fn = 1 then intCode (w (.vshr x)) (intOf true (w (.vshr x)) a / 2 ^ min b (w (.vshr x)))
        else if w (.vshr x) ≤ b then 0 else a / 2 ^ b)
    ∧ (let e := extOf (.vneg x)
       let ty := e.ty.toNat
       let val (k : Nat) : Int := intOf (tySigned ty) (tyBits ty) k
       writes (.vneg x) 0 (fun _ _ a _ =>
        if tyFloat ty then (fmtOf ty).ofVal .rne 0 e.sat (if x.fn = 1 then ((fmtOf ty).value a).abs else ((fmtOf ty).value a).neg)
        else intResult (tySigned ty) (tyBits ty) e.sat (if x.fn = 1 then |val a| else -(val a))))
    ∧ (let e := extOf (.vsfu x)
       let f := fmtOf e.ty.toNat
       writes (.vsfu x) e.rm (fun d _ a _ => f.sfu x.fn.toNat (rmOf e.rm) d (f.value a)))

/-- R234, R235, R237, R238, R240-R242: the instructions that make whole lanes. Every active lane of vd (every granted lane for
VSEL, the first ten of each 64 for VQUANT) receives the stated value; no other lane changes. -/
def Obligations.VectorLanes : Prop :=
  ∀ (s : State) (x : VFields),
    let c := s.mine
    let act := c.active x.m
    let lane (i : Nat) : Lane := c.lane x.va.toNat i
    let b (i : Nat) : Lane := match formLit x.form with
      | some v => v.setWidth 32
      | none => c.lane x.vb.toNat i
    let writes (i : Instr) (from_ : State) (lanes : List Nat) (f : Nat → Lane) : Prop :=
      ∃ t : State, exec i s = .next (t.completed i) ∧ WritesLanes from_ t x.vd.toNat lanes f
    (Issues (.vsel x) s → writes (.vsel x) (s.begun (.vsel x)) (List.range (min c.grant 128))
      (fun i => if (c.mask x.m.toNat).getLsbD i then lane i else b i))
    ∧ (Issues (.vdot4 x) s → writes (.vdot4 x) (s.begun (.vdot4 x)) act (fun i =>
        let sa := decide (x.fn ≠ 1)
        let sb := decide (x.fn = 0)
        BitVec.ofNat 32 (intResult sa 32 true (intOf sa 32 (c.lane x.vd.toNat i).toNat
          + (intOf sa 8 (laneElem 8 (lane i) 0) * intOf sb 8 (laneElem 8 (b i) 0)
            + intOf sa 8 (laneElem 8 (lane i) 1) * intOf sb 8 (laneElem 8 (b i) 1)
            + intOf sa 8 (laneElem 8 (lane i) 2) * intOf sb 8 (laneElem 8 (b i) 2)
            + intOf sa 8 (laneElem 8 (lane i) 3) * intOf sb 8 (laneElem 8 (b i) 3))))))
    ∧ (Issues (.vcvt x) s →
      let e := extOf (.vcvt x)
      let rm := if cvtExact e.ty.toNat e.sub.toNat then 0 else e.rm
      let n := min (32 / tyBits e.ty.toNat) (32 / tyBits e.sub.toNat)
      s.drawsLeft rm (act.length * n) →
      writes (.vcvt x) ((s.begun (.vcvt x)).rolled rm (act.length * n)) act (fun i =>
        cvtLane e.ty.toNat e.sub.toNat e.imm32.toNat (rmOf e.rm) (fun j => s.roll rm j) (c.rankOf x.m i * n) (c.lane x.vd.toNat i) (lane i)))
    ∧ (Issues (.vquant x) s →
      let e := extOf (.vquant x)
      let groups := min c.grant 128 / 64
      c.grant % 64 = 0 → s.drawsLeft e.rm act.length →
      writes (.vquant x) ((s.begun (.vquant x)).rolled e.rm act.length) (List.range (10 * groups)) (fun i =>
        ((quantGroup c x (rmOf e.rm) (fun k => s.roll e.rm (c.rankOf x.m k)) (i / 10)).getD (i % 10) (0, 0)).2))
    ∧ (Issues (.vmov x) s →
      let e := extOf (.vmov x)
      let w := tyBits e.ty.toNat
      (∀ v, formLit x.form = some v → writes (.vmov x) (s.begun (.vmov x)) act (fun _ => literalLane w v))
      ∧ (formLit x.form = none → x.fn = 1 →
        writes (.vmov x) ((s.begun (.vmov x)).pull e.c).2 act (fun _ => literalLane w ((s.begun (.vmov x)).pull e.c).1))
      ∧ (formLit x.form = none → x.fn ≠ 1 → writes (.vmov x) (s.begun (.vmov x)) act lane))
    ∧ (Issues (.vidx x) s →
      let e := extOf (.vidx x)
      let w := tyBits e.ty.toNat
      let k := (s.begun (.vidx x)).pull e.c
      ∃ l : Nat → Lane, writes (.vidx x) k.2 act l
        ∧ ∀ i ∈ act, ∀ j, j < 32 / w → laneElem w (l i) j = (i * (32 / w) + j + k.1.toNat) % 2 ^ w)
    ∧ (Issues (.vins x) s →
      let e := extOf (.vins x)
      let w := tyBits e.ty.toNat
      let k := e.imm32.toNat
      let a := (s.begun (.vins x)).pull e.c
      k < c.grant * (32 / w) → c.grant ≤ 128 →
      ∃ l : Nat → Lane, writes (.vins x) a.2 [k / (32 / w)] l
        ∧ ∀ j, j < 32 / w → laneElem w (l (k / (32 / w))) j =
          (if j = k % (32 / w) then a.1.toNat % 2 ^ w else laneElem w (c.lane x.vd.toNat (k / (32 / w))) j))
    ∧ (Issues (.vclamp x) s →
      let e := extOf (.vclamp x)
      let ty := e.ty.toNat
      let w := tyBits ty
      let a := (s.begun (.vclamp x)).pull e.c
      ∃ t : State, exec (.vclamp x) s = .next (t.completed (.vclamp x)) ∧ WritesElems a.2 t x.vd.toNat w act (fun i j =>
        minMaxElem ty false (minMaxElem ty true (laneElem w (lane i) j) (a.1.toNat % 2 ^ w)) (a.1.toNat / 2 ^ 32 % 2 ^ w)))
    ∧ (Issues (.vshuf x) s → ∃ l : Nat → Lane, writes (.vshuf x) (s.begun (.vshuf x)) act l
        ∧ (x.fn ≠ 1 → ∀ i, l i = if (b i).toNat % 128 < c.grant then lane ((b i).toNat % 128) else 0)
        ∧ (x.fn = 1 → ∀ i t, t < 4 → laneElem 8 (l i) t =
            if 128 ≤ laneElem 8 (b i) t then 0 else laneElem 8 (lane i) (laneElem 8 (b i) t % 4)))
    ∧ (Issues (.vrot x) s →
      let a := (s.begun (.vrot x)).pull (extOf (.vrot x)).c
      let k := a.1.toNat
      writes (.vrot x) a.2 act (fun i =>
        if x.fn = 0 then lane ((i + k) % c.grant)
        else if x.fn = 1 then (if i + k < c.grant then lane (i + k) else 0)
        else (if k ≤ i then lane (i - k) else 0)))
    ∧ (Issues (.vbcast x) s →
      let e := extOf (.vbcast x)
      let a := (s.begun (.vbcast x)).pull e.c
      let k := a.1.toNat
      (e.sub = 0 → k < c.grant → writes (.vbcast x) a.2 act (fun _ => lane k))
      ∧ (e.sub ≠ 0 → writes (.vbcast x) a.2 act (fun i =>
          let j := i / 2 ^ e.sub.toNat * 2 ^ e.sub.toNat + k % 2 ^ e.sub.toNat
          if j < c.grant then lane j else 0)))
    ∧ (Issues (.vmatch x) s → x.fn = 2 → writes (.vmatch x) (s.begun (.vmatch x)) act (fun i =>
        BitVec.ofNat 32 (act.filter (fun j => decide (j < i) && decide (lane j = lane i))).length))
    ∧ (Issues (.vcomp x) s → ∃ t : State,
        exec (.vcomp x) s = .next ((t.give (extOf (.vcomp x)).c (BitVec.ofNat 64 act.length)).completed (.vcomp x))
        ∧ (x.fn = 0 → WritesLanes (s.begun (.vcomp x)) t x.vd.toNat (List.range act.length) (fun p => lane (act.getD p 0)))
        ∧ (x.fn ≠ 0 → WritesLanes (s.begun (.vcomp x)) t x.vd.toNat act (fun i => lane (c.rankOf x.m i))))

/-- R232, R239, R241: the instructions that make masks and flags. VCMP sets the bit of an active lane where every element (or
with F2 any) is in the relation; MOP combines masks, counts and finds; VVOTE and VMATCH vote. -/
def Sys2Proof.Machine.VectorMasks : Prop :=
  ∀ (s : State) (x : VFields),
    let c := s.mine
    let act := c.active x.m
    let lane (i : Nat) : Lane := c.lane x.va.toNat i
    let sets (i : Instr) (from_ : State) (p : Nat → Bool) : Prop :=
      ∃ m : BitVec 128, exec i s = .next ((from_.setMask (x.vd.toNat % 8) m).completed i)
        ∧ ∀ j, j < 128 → m.getLsbD j = (p j && decide (j < c.grant))
    let gives (i : Instr) (v : Word) : Prop := exec i s = .next (((s.begun i).give (extOf i).c v).completed i)
    (Issues (.vcmp x) s →
      let e := extOf (.vcmp x)
      let w := tyBits e.ty.toNat
      let y (i : Nat) : Lane := match formLit x.form with
        | some v => literalLane w v
        | none => c.lane x.vb.toNat i
      let rel (i j : Nat) : Bool := relElem e.ty.toNat x.fn.toNat (laneElem w (lane i) j) (laneElem w (y i) j)
      sets (.vcmp x) (s.begun (.vcmp x)) (fun i => decide (i ∈ act) &&
        (if e.f2 then (List.range (32 / w)).any (rel i) else (List.range (32 / w)).all (rel i))))
    ∧ (Issues (.mop x) s →
      let a (i : Nat) : Bool := (c.mask (x.va.toNat % 8)).getLsbD i
      let b (i : Nat) : Bool := (c.mask (x.vb.toNat % 8)).getLsbD i
      let k := (s.begun (.mop x)).pull (extOf (.mop x)).c
      (x.fn = 0 → sets (.mop x) (s.begun (.mop x)) (fun i => a i && b i))
      ∧ (x.fn = 1 → sets (.mop x) (s.begun (.mop x)) (fun i => a i || b i))
      ∧ (x.fn = 2 → sets (.mop x) (s.begun (.mop x)) (fun i => a i != b i))
      ∧ (x.fn = 3 → sets (.mop x) (s.begun (.mop x)) (fun i => a i && !b i))
      ∧ (x.fn = 4 → sets (.mop x) (s.begun (.mop x)) (fun i => !a i))
      ∧ (x.fn = 5 → sets (.mop x) k.2 (fun i => decide (i < k.1.toNat)))
      ∧ (x.fn = 6 → gives (.mop x) (BitVec.ofNat 64 ((List.range c.grant).filter a).length))
      ∧ (x.fn = 7 → gives (.mop x) (match (List.range c.grant).find? a with | some i => BitVec.ofNat 64 i | none => -1)))
    ∧ (Issues (.vvote x) s →
      (x.fn = 0 → gives (.vvote x) (if ∀ i ∈ act, lane i ≠ 0 then 1 else 0))
      ∧ (x.fn = 1 → gives (.vvote x) (if ∃ i ∈ act, lane i ≠ 0 then 1 else 0))
      ∧ (x.fn = 2 → gives (.vvote x) (if ∀ i ∈ act, ∀ j ∈ act, lane i = lane j then 1 else 0))
      ∧ (x.fn = 3 → sets (.vvote x) (s.begun (.vvote x)) (fun i => decide (i ∈ act) && decide (lane i ≠ 0))))
    ∧ (Issues (.vmatch x) s →
      (x.fn = 0 → sets (.vmatch x) (s.begun (.vmatch x)) (fun i => decide (i ∈ act) && act.any (fun j => decide (j ≠ i) && decide (lane j = lane i))))
      ∧ (x.fn = 1 → sets (.vmatch x) (s.begun (.vmatch x)) (fun i => decide (i ∈ act) && act.all (fun j => decide (i ≤ j) || decide (lane j ≠ lane i)))))
    ∧ (Issues (.vext x) s →
      let e := extOf (.vext x)
      let w := tyBits e.ty.toNat
      let k := e.imm32.toNat
      let code := laneElem w (lane (k / (32 / w))) (k % (32 / w))
      k < c.grant * (32 / w) →
      gives (.vext x) (if tyFloat e.ty.toNat then BitVec.ofNat 64 code else putOf e.ty.toNat code))

/-- R243, R244 (R45-R47): VRED gives the result over the active lanes of each aligned group of 2^SUB lanes, or of all lanes, to
a scalar; VSCAN the running results over the active lanes. Integers: the sums and bounds, in no order; f32 sums: the tree of
R45, or ascending, with one draw each under sr. -/
def Sys2Proof.Machine.VectorReductions : Prop :=
  ∀ (s : State) (x : VFields),
    let c := s.mine
    let act := c.active x.m
    (Issues (.vred x) s →
      let i : Instr := .vred x
      let e := extOf i
      let lv := if e.sub = 0 then 7 else e.sub.toNat
      let n := (((List.range (128 / 2 ^ lv)).map (fun k => (act.filter (fun i => i / 2 ^ lv = k)).length - 1))).sum
      let rm := if x.fn = 0 ∧ e.ty = 8 then e.rm else 0
      let rs := groupResults c x (envOf s s.cur.1 s.cur.2 i) (fun j => s.roll rm j) lv (128 / 2 ^ lv) 0 0
      s.drawsLeft rm n →
      (e.sub = 0 → exec i s = .next ((((s.begun i).rolled rm n).give e.c (scalarOf e.ty.toNat (rs.getD 0 0))).completed i))
      ∧ (e.sub ≠ 0 → ∃ t : State, exec i s = .next (t.completed i)
        ∧ WritesLanes ((s.begun i).rolled rm n) t x.vd.toNat act (fun k => BitVec.ofNat 32 (rs.getD (k / 2 ^ lv) 0))))
    ∧ (Issues (.vred x) s → (extOf (.vred x)).sub = 0 → (extOf (.vred x)).ty ≠ 8 → x.fn = 0 → c.grant ≤ 128 →
      let e := extOf (.vred x)
      let val (i : Nat) : Int := intOf (tySigned e.ty.toNat) 32 (c.lane x.va.toNat i).toNat
      exec (.vred x) s = .next (((s.begun (.vred x)).give e.c
        (putOf e.ty.toNat (intResult (tySigned e.ty.toNat) 32 e.sat (act.map val).sum))).completed (.vred x)))
    ∧ (Issues (.vscan x) s →
      let i : Instr := .vscan x
      let e := extOf i
      let rm := if x.fn.toNat < 2 ∧ e.ty = 8 then e.rm else 0
      let xs := act.map (fun i => (c.lane x.va.toNat i).toNat)
      let rs := scanResults e.ty.toNat x.fn.toNat e.sat (rmOf e.rm) (fun j => s.roll rm j) xs
      s.drawsLeft rm act.length →
      ∃ t : State, exec i s = .next (t.completed i)
        ∧ WritesLanes ((s.begun i).rolled rm act.length) t x.vd.toNat act (fun k => BitVec.ofNat 32 (rs.getD (c.rankOf x.m k) 0))
        ∧ (e.ty ≠ 8 → ∀ p, p < act.length → ∀ v : Nat → Int, (∀ q, v q = intOf (tySigned e.ty.toNat) 32 (xs.getD q 0)) →
            (x.fn = 0 → rs.getD p 0 = intResult (tySigned e.ty.toNat) 32 e.sat ((List.range (p + 1)).map v).sum)
            ∧ (x.fn = 1 → rs.getD p 0 = intResult (tySigned e.ty.toNat) 32 e.sat ((List.range p).map v).sum)))

/-- Vector masks, votes, reductions and scans: `VectorMasks` and `VectorReductions` (R232, R239, R241, R243, R244, R45, R46,
R47). -/
def Obligations.MasksAndReductions : Prop :=
  VectorMasks ∧ VectorReductions

/-! ### Row B: the matrix engine's instructions (R252-R264) -/

/-- R254, R257: MTILE. Open claims a tile that is free or its own and offers the macro-operation, and answers -1 where another
holds the tile; save, restore and close act on a tile of the context; restore answers -2 where the slot holds no image with the
tag and owner. -/
def Sys2Proof.Machine.TileInstructions : Prop :=
  ∀ (s : State) (x : RFields),
    let i := Instr.mtile x
    let a := (s.begun i).pull x.a
    let b := a.2.pull x.b
    let e := s.engine (clusterOf s.cur.1)
    let t := a.1.toNat % 4
    let sl := a.1.toNat / 16 % 8
    let owned : Prop := (e.tile t).owner = some (.ctx s.cur.1 s.cur.2) ∧ (e.tile t).shelf = (s.core s.cur.1).shelf ∧ (e.tile t).leaving = false
    Issues i s → e.room false = true →
    (x.fn = 0 → a.1.toNat < 4 → b.1.toNat / 2 ^ 7 % 256 ≠ 255 → b.1.toNat / 2 ^ 23 % 256 ≠ 255 →
      ((e.tile t).owner = none ∨ owned) →
      exec i s = .next (((((b.2.onEngine (clusterOf s.cur.1) (fun e => e.onTile t (fun y => { y with
        owner := some (.ctx s.cur.1 s.cur.2), shelf := (s.core s.cur.1).shelf, owned := (s.mine.launch.map (·.1)).getD 0 }))).withOffer
          (.openTile t (b.1.toNat % 2 ^ 16) (b.1.toNat / 2 ^ 16 % 2 ^ 16) (BitVec.ofNat 32 (b.1.toNat / 2 ^ 32)))).give x.d 0)).completed i))
    ∧ (x.fn = 0 → a.1.toNat < 4 → b.1.toNat / 2 ^ 7 % 256 ≠ 255 → b.1.toNat / 2 ^ 23 % 256 ≠ 255 →
      (e.tile t).owner ≠ none → ¬ owned → exec i s = .next ((b.2.give x.d (-1)).completed i))
    ∧ (x.fn = 1 → a.1.toNat < 128 → a.1.toNat / 4 % 4 = 0 → owned →
      exec i s = .next (((b.2.withOffer (.save t sl b.1)).give x.d 0).completed i))
    ∧ (x.fn = 2 → a.1.toNat < 128 → a.1.toNat / 4 % 4 = 0 → owned → ∀ c, e.slots.find sl = some c →
      c.tag = b.1 → c.owner = s.ownerOf s.cur.1 s.cur.2 →
      exec i s = .next (((b.2.withOffer (.restore t sl)).give x.d 0).completed i))
    ∧ (x.fn = 2 → a.1.toNat < 128 → a.1.toNat / 4 % 4 = 0 → owned →
      (∀ c, e.slots.find sl = some c → c.tag ≠ b.1 ∨ c.owner ≠ s.ownerOf s.cur.1 s.cur.2) →
      exec i s = .next ((b.2.give x.d (-2)).completed i))
    ∧ (x.fn = 3 → a.1.toNat < 4 → owned → exec i s = .next (((b.2.withOffer (.close t)).give x.d 0).completed i))

/-- R258, R259, R261, R264: MLOADB reads its block record and offers the load into a B buffer, which its owner then uses; MACC,
MREAD and MSOFT offer a macro-operation on a tile of the context once their operands pass the checks. They change nothing
else: what the macro-operation does is the engine's. -/
def Sys2Proof.Machine.MacroInstructions : Prop :=
  ∀ (s : State) (x : RFields),
    let read (i : Instr) := ((s.begun i).pull x.a).2.pull x.b
    let first (i : Instr) := ((s.begun i).pull x.a).1
    let core := s.core s.cur.1
    let e := s.engine (clusterOf s.cur.1)
    let mine (t : Nat) : Prop := (e.tile t).owner = some (.ctx s.cur.1 s.cur.2) ∧ (e.tile t).shelf = core.shelf ∧ (e.tile t).leaving = false
    (∀ (u : State) (bs : List Byte) (bad : Bool), u.cur = s.cur →
      let i := Instr.mloadb x
      let ty := (extOf i).ty.toNat
      let buf := (read i).1.toNat
      Issues i s → e.room true = true → (first i).toNat % 64 = 0 → buf < 2 →
      Does (blockLines (envOf s s.cur.1 s.cur.2 i) (blockSize ty / 64) (first i)) (read i).2 (bs, bad) u →
      exec i s = .next (((u.onEngine (clusterOf s.cur.1) (fun e => { e with bufs := e.bufs.set buf {
        e.bufs.get {} buf with user := some (u.ownerOf s.cur.1 s.cur.2) } })).withOffer (.load buf (blockElems ty bs) bad)).completed i))
    ∧ (let i := Instr.macc x
      let b := (read i).1.toNat
      Issues i s → e.room false = true → b < 2 ^ 16 → b / 8 % 32 = 0 → mine (b % 4) →
      (e.bufs.get {} (b / 4 % 2)).user = some (s.ownerOf s.cur.1 s.cur.2) →
      panelBad (first i) (b / 256 % 256) = false →
      (∀ r ∈ rowsOf (e.rowsNow (b % 4)), core.mode ((panelOf (first i)).bank (b / 256 % 256) r) = 0) →
      exec i s = .next (((read i).2.withOffer (.macc (b % 4) (b / 4 % 2) (panelOf (first i)) (b / 256 % 256))).completed i))
    ∧ (let i := Instr.mread x
      let ty := (extOf i).ty.toNat
      let b := (read i).1
      Issues i s → e.room false = true → b.toNat < 2 ^ 32 → b.toNat / 16 % 16 = 0 → mine (b.toNat % 4) →
      (ty ≠ 15 → outCheck core ty (first i) (b.toNat / 2 ^ 16 % 2 ^ 16) false false 0 = none →
        exec i s = .next (((read i).2.withOffer (.mread (b.toNat % 4) ty (offOf (first i)) (b.toNat / 2 ^ 16 % 2 ^ 16)
          (b.getLsbD 2) (b.getLsbD 3))).completed i))
      ∧ (ty = 15 → panelCheck core (first i) (b.toNat / 256 % 256) (e.rowsNow (b.toNat % 4)) false 0 = none →
        exec i s = .next (((read i).2.withOffer (.mreadPln (b.toNat % 4) (panelOf (first i)) (b.toNat / 256 % 256)
          (b.getLsbD 2) (b.getLsbD 3))).completed i)))
    ∧ (let i := Instr.msoft x
      let ty := (extOf i).ty.toNat
      let b := (read i).1.toNat
      let tau := b / 2 ^ 32 % 2 ^ 32
      let c := (read i).2.pull (extOf i).c
      Issues i s → e.room false = true → b / 4 % 2 ^ 14 = 0 → 0 < tau → tau < 0x7F800000 → mine (b % 4) →
      outCheck core ty (first i) (b / 2 ^ 16 % 2 ^ 16) true false 0 = none →
      exec i s = .next ((c.2.withOffer (.msoft (b % 4) ty (offOf (first i)) (b / 2 ^ 16 % 2 ^ 16) tau c.1
        (if x.fn = 1 then some (extOf i).imm32.toInt else none))).completed i))

/-- R251, R260, R262, R263: MSCALE, issued by the scale keeper, appends a record of 32 row and 64 column exponents to a tile's
FIFO; MWAIT answers, once no macro-operation of the context on the named tiles is left, their error and overflow bits; MSTAT
reads a tile's status, its masked elements, the engine's summary, its governor counter, or a slot's tag. -/
def Sys2Proof.Machine.MatrixStateInstructions : Prop :=
  ∀ (s : State) (x : RFields),
    let e := s.engine (clusterOf s.cur.1)
    (let i := Instr.mscale x
      let t := x.fn.toNat
      let row := (List.range 32).map (fun n => (s.mine.lane x.a.toNat n).toInt)
      let col := (List.range 64).map (fun n => (s.mine.lane x.b.toNat n).toInt)
      Issues i s → 64 ≤ s.mine.grant → (e.tile t).owner ≠ none →
      Does (keeperOf (clusterOf s.cur.1) (e.tile t).owned) (s.begun i) (coreInCluster s.cur.1) (s.begun i) →
      (∀ z ∈ row ++ col, -32768 ≤ z ∧ z ≤ 32767) → (e.tile t).fifo.length < 8 →
      exec i s = .next (((s.begun i).onEngine (clusterOf s.cur.1) (fun e => e.onTile t (fun y => { y with
        fifo := y.fifo ++ [{ r := row, y := col }] }))).completed i))
    ∧ (let i := Instr.mwait x
      let a := (s.begun i).pull x.a
      let bits (f : Nat → Bool) : Nat :=
        ([0, 1, 2, 3].map (fun t => if a.1.getLsbD t = true ∧ f t = true then 2 ^ t else 0)).sum
      Issues i s → a.1.toNat < 32 →
      (∀ o ∈ e.loads ++ e.computes ++ e.offered, o.core = s.cur.1 → o.ctx = s.cur.2 → o.shelf = (s.core s.cur.1).shelf →
        (match o.kind.tile with
          | some t => a.1.getLsbD t
          | none => a.1.getLsbD 4) = false) →
      exec i s = .next ((a.2.give x.d (BitVec.ofNat 64
        (bits (fun t => (e.tile t).errc ≠ 0) + 16 * bits (fun t => (e.tile t).img.ovf)))).completed i))
    ∧ (let i := Instr.mstat x
      let a := (s.begun i).pull x.a
      let gives (v : Word) : Prop := exec i s = .next ((a.2.give x.d v).completed i)
      Issues i s →
      (x.fn = 0 → a.1.toNat < 4 → (e.tile a.1.toNat).owner ≠ some .node →
        gives (BitVec.ofNat 64 (e.status a.1.toNat + (match (e.tile a.1.toNat).owner with
          | some (.ctx g k) => coreInCluster g * 2 ^ 20 + k * 2 ^ 16
          | _ => 0))))
      ∧ (x.fn = 1 → a.1.toNat < 4 → gives (BitVec.ofNat 64 (e.tile a.1.toNat).masked.toNat))
      ∧ (x.fn = 2 → gives (BitVec.ofNat 64 e.summary))
      ∧ (x.fn = 3 → gives (match e.govWait with
        | some w => e.gov + BitVec.ofNat 64 (s.clk - w.1)
        | none => e.gov))
      ∧ (x.fn = 4 → a.1.toNat < 8 → gives (match e.slots.find a.1.toNat with
        | some c => if c.owner = s.ownerOf s.cur.1 s.cur.2 then c.tag else 0
        | none => 0))
      ∧ (x.fn = 5 → ∀ (n : Nat) (u : State), u.cur = s.cur →
        Does (keeperOf (clusterOf s.cur.1) ((s.mine.launch.map (·.1)).getD 0)) a.2 n u →
        exec i s = .next ((u.give x.d (BitVec.ofNat 64 n)).completed i)))

/-- Tile, macro-operation and matrix-state instructions: `TileInstructions` and `MacroInstructions` and
`MatrixStateInstructions` (R254, R257, R258, R259, R261, R264, R251, R260, R262, R263). -/
def Obligations.MatrixInstructions : Prop :=
  TileInstructions ∧ MacroInstructions ∧ MatrixStateInstructions
/-! ### Row C: copies, batches and near-memory commands (R303, R305, R313, R315-R321) -/

/-- R303, R305, R315, R316: CPQ whose operation passes its checks while fewer than eight are queued: L rises by one, the copy
is released with the old L as its P, joins the core's queue and the open batch, and d is 0. CPQ.try with eight queued gives
-1 and queues nothing. -/
def Sys2Proof.Machine.CopyIssue : Prop :=
  ∀ (s : State) (x : RFields),
    let i := Instr.cpq x
    let w0 := (s.begun i).pull x.a
    let w1 := w0.2.pull (x.a + 1)
    let w2 := w1.2.pull (x.a + 2)
    let w3 := w2.2.pull (x.a + 3)
    let ws := [w0.1, w1.1, w2.1, w3.1]
    let v := envOf s s.cur.1 s.cur.2 i
    Issues i s → copyCheck ws v.aval = none →
    ((s.core s.cur.1).cpq.length < 8 → s.mine.l + 1 < clockLimit →
      let u0 := w3.2.onMine (fun c => { c with l := s.mine.l + 1 })
      let u := { u0 with fresh := s.fresh + 1 }
      let n := u.numberCopy (clusterOf s.cur.1) (newCopy u s.fresh ws s.mine.l s.mine.pc)
      let m := n.1.placeCopy (clusterOf s.cur.1) n.2
      m.1.cur = s.cur →
      exec i s = .next ((((m.1.onCore s.cur.1 (fun c => { c with cpq := c.cpq ++ [m.2] })).onMine (fun c => { c with
        openBatch := { c.openBatch with ops := c.openBatch.ops ++ [s.fresh], used := true } })).give x.d 0).completed i))
    ∧ (8 ≤ (s.core s.cur.1).cpq.length → x.fn = 1 → exec i s = .next ((w3.2.give x.d (-1)).completed i))

/-- R305, R317, R318, R342: CPSEAL seals the open batch and gives its number; CPWAIT, once at most a batches are left, acquires the P
of the last finished one and gives its number; CPSTAT reads the batch numbers, the queue's counts, the first error and its
batch. -/
def Sys2Proof.Machine.BatchInstructions : Prop :=
  ∀ (s : State) (x : RFields),
    (let i := Instr.cpseal x;
      Issues i s → s.mine.batches.length < 16 →
      exec i s = .next ((((s.begun i).onMine (fun c => { c with
        batches := c.batches ++ [c.openBatch], sealed := c.openBatch.num, openBatch := {
          num := if c.openBatch.num = 2 ^ 32 - 1 then 1 else c.openBatch.num + 1, ops := [], p := 0, failed := false } })).give x.d
        (BitVec.ofNat 64 s.mine.openBatch.num)).completed i))
    ∧ (let i := Instr.cpwait x
      let a := (s.begun i).pull x.a
      let h := max s.mine.h s.mine.doneP
      Issues i s → s.mine.batches.length ≤ a.1.toNat →
      (s.mine.done = 0 → exec i s = .next ((a.2.give x.d 0).completed i))
      ∧ (s.mine.done ≠ 0 → h + 1 < clockLimit → exec i s = .next (((a.2.onMine (fun c => { c with
        h := h, l := max c.l (h + 1) })).give x.d (BitVec.ofNat 64 s.mine.done)).completed i)))
    ∧ (let i := Instr.cpstat x
      Issues i s → exec i s = .next (((s.begun i).give x.d (
        if x.fn = 0 then BitVec.ofNat 64 (s.mine.sealed * 2 ^ 32 + s.mine.done)
        else if x.fn = 1 then BitVec.ofNat 64 ((32 - (s.core s.cur.1).freeEntries.length) * 2 ^ 32
          + s.mine.nmOpen.length * 2 ^ 24 + s.mine.batches.length * 2 ^ 8 + (s.core s.cur.1).cpq.length)
        else if x.fn = 2 then s.mine.errWord
        else s.mine.errNum)).completed i))

/-- R313, R320, R321, R342: NMC of a command that passes its checks and whose extents are translated: it takes the context's
next command number, releases with the old L, holds its lines, and gives the number; NMFENCE, once no command is left,
acquires the greatest P of the launch's commands and says whether one stopped. -/
def Sys2Proof.Machine.NearMemoryInstructions : Prop :=
  ∀ (s s1 : State) (x : RFields) (wk xk : Nat),
    (let i := Instr.nmc x;
      let w0 := (s.begun i).pull x.a
      let w1 := w0.2.pull (x.a + 1)
      let w2 := w1.2.pull (x.a + 2)
      let w3 := w2.2.pull (x.a + 3)
      let ws := [w0.1, w1.1, w2.1, w3.1]
      let v := envOf s s.cur.1 s.cur.2 i
      let num := if s1.mine.nmIssued = 2 ^ 32 - 1 then 1 else s1.mine.nmIssued + 1
      let u0 := s1.onMine (fun c => { c with l := s1.mine.l + 1, nmIssued := num, nmOpen := c.nmOpen ++ [num] })
      let u := { u0 with fresh := s1.fresh + 1 }
      let n := u.placeNear (newNear u s1.fresh num ws wk xk s1.mine.l s.mine.pc)
      Issues i s → nearCheck ws v.aval = none →
      w3.2.nearKeys (nearCtxOp w3.2 s.mine.pc) ws v.aval = (s1, .keys wk xk) → s1.cur = s.cur →
      s1.mine.nmOpen.length < 8 → s1.mine.l + 1 < clockLimit → n.1.cur = s.cur →
      exec i s = .next ((State.give { n.1 with near := n.1.near ++ [n.2] } x.d (BitVec.ofNat 64 num)).completed i))
    ∧ (let i := Instr.nmfence x
      let h := max s.mine.h s.mine.nmP
      let stopped : Word := if s.mine.nmStopped then 1 else 0
      Issues i s → s.mine.nmOpen = [] →
      (s.mine.nmIssued = 0 → exec i s = .next (((s.begun i).give x.d stopped).completed i))
      ∧ (s.mine.nmIssued ≠ 0 → h + 1 < clockLimit → exec i s = .next ((((s.begun i).onMine (fun c => { c with
        h := h, l := max c.l (h + 1) })).give x.d stopped).completed i)))

/-- Copies, batches and near-memory commands: `CopyIssue` and `BatchInstructions` and `NearMemoryInstructions` (R303, R305,
R315, R316, R317, R318, R342, R313, R320, R321). -/
def Obligations.CopyInstructions : Prop :=
  CopyIssue ∧ BatchInstructions ∧ NearMemoryInstructions
/-! ### Row D: streams (R177-R181, R475-R480, R484, R485, R487) -/

/-- R97, R177, R178: SNEW with a creation block in range and an identity and a reservation to be had admits a stream, gives
its handle, and the new descriptor holds the block's fields, with the time at which the step is placed (R323, R326) as its step clock and L one
later; FORK does so for a child, which shares its parent's table. Without an identity or a reservation they give the negative reason. -/
def Sys2Proof.Machine.StreamCreation : Prop :=
  ∀ (s u s1 t : State) (x : RFields) (ws : List Word) (n m : Nat) (r : Word),
    u.cur = s.cur → s1.cur = s.cur → t.cur = s.cur →
    (let i := Instr.snew x;
      let a := (s.begun i).pull x.a
      let b := a.2.pull x.b
      let take := u.takeId b.1.toNat (dieOf s.cur.1) (u.ownerOf s.cur.1 s.cur.2) ((ws.getD 0 0).toNat % 2 ^ 32)
      Issues i s → a.1.toNat % 32 = 0 → Does (loadDwords a.1 (envOf s s.cur.1 s.cur.2 i) 4) b.2 ws u →
      b.1.toNat < 2 ^ 24 → creationOk ws = true →
      (take = (s1, .error r) → exec i s = .next ((s1.give x.d r).completed i))
      ∧ (take = (s1, .ok n) → (s1.descPlaced n).2 + 1 < clockLimit →
        t = ((s1.descPlaced n).1.onMine (fun c => { c with l := (s1.descPlaced n).2 + 1 })).admitNew n {
          horizon := (ws.getD 0 0).toNat / 2 ^ 32, resv := (ws.getD 0 0).toNat % 2 ^ 32, qbase := ws.getD 1 0,
          qlog := (ws.getD 2 0).toNat % 256, prio := (ws.getD 2 0).toNat / 256 % 16, jgroup := (ws.getD 2 0).toNat / 2 ^ 16 % 2 ^ 16,
          gkey := ws.getD 3 0, node := 0xFFFF, owner := s1.ownerOf s.cur.1 s.cur.2, clock := (s1.descPlaced n).2 } →
        exec i s = .next ((t.give x.d (handleOf n (t.stream n).gen)).completed i)))
    ∧ (let i := Instr.fork x
      let a := (s.begun i).pull x.a
      let b := a.2.pull x.b
      let d := u.stream n
      let take := u.takeId ((ws.getD 1 0).toNat % 2 ^ 24) (dieOf s.cur.1) d.owner d.resv
      Issues i s → b.2.Names a.1 n → b.1.toNat % 32 = 0 → Does (loadDwords b.1 (envOf s s.cur.1 s.cur.2 i) 4) b.2 ws u →
      forkOk ws = true →
      (d.gone = true → exec i s = .next ((u.give x.d (-4)).completed i))
      ∧ (d.gone = false → (u.node d.root).refcnt = 65535 → exec i s = .next ((u.give x.d (-3)).completed i))
      ∧ (d.gone = false → (u.node d.root).refcnt ≠ 65535 → take = (s1, .error r) → exec i s = .next ((s1.give x.d r).completed i))
      ∧ (d.gone = false → (u.node d.root).refcnt ≠ 65535 → take = (s1, .ok m) → (s1.descPlaced m).2 + 1 < clockLimit →
        t = ((s1.descPlaced m).1.onMine (fun c => { c with l := (s1.descPlaced m).2 + 1 })).admitChild m
          (childStream d n ws (s1.descPlaced m).2) →
        exec i s = .next ((t.give x.d (handleOf m (t.stream m).gen)).completed i)))

/-- R179, R180, R181: SBIND acquires the stream's step clock, puts its table in the die's page map, sets %stream and gives its old
value (0 binds none); PPLACE queues the moves of the bound stream's pages into the open batch and gives their number and why
it stopped; SQUERY reads the descriptor, a page, the map's residence, reference counts, free frames and stale writes. -/
def Sys2Proof.Machine.StreamBindingAndPlaces : Prop :=
  ∀ (s : State) (x : RFields) (n : Nat),
    (let i := Instr.sbind x;
      let a := (s.begun i).pull x.a
      Issues i s →
      (a.1 = 0 → exec i s = .next (((a.2.onMine (fun c => { c with stream := 0 })).give x.d s.mine.stream).completed i))
      ∧ (a.1 ≠ 0 → a.2.Names a.1 n → (s.stream n).gone = false → max s.mine.h (s.stream n).clock + 1 < clockLimit →
        exec i s = .next (((((a.2.loadSpm (dieOf s.cur.1) n).acquires (s.stream n).clock).onMine (fun c => { c with
          stream := a.1 })).give x.d s.mine.stream).completed i)))
    ∧ (let i := Instr.pplace x
      let a := (s.begun i).pull x.a
      let b := a.2.pull x.b
      let w := b.1.toNat
      let cl := if w % 8 = 3 then w / 2 ^ 16 % 4 * 128 + w / 2 ^ 9 % 128 else clusterOf s.cur.1
      let pages := (List.range (a.1.toNat / 2 ^ 18 % 2 ^ 10 + 1)).map (a.1.toNat % 2 ^ 18 + ·)
      let moved := b.2.placePages n (if w % 8 = 3 then 0 else w % 8) cl s.cur.1 s.cur.2 pages
      Issues i s → s.mine.stream ≠ 0 → b.2.Names s.mine.stream n → (s.stream n).gone = false → (s.stream n).state ≠ .frozen →
      placeArgOk a.1 b.1 = true → (∀ p ∈ pages, ∀ id, s.pageAt n p = some id → s.pageMoving id = false) → moved.1.cur = s.cur →
      exec i s = .next (((moved.1.onMine (fun c => { c with openBatch := { c.openBatch with
        ops := c.openBatch.ops ++ moved.2.1, used := c.openBatch.used || !moved.2.1.isEmpty } })).give x.d (BitVec.ofNat 64 (moved.2.1.length + moved.2.2 * 2 ^ 32))).completed i))
    ∧ (let i := Instr.squery x
      let a := (s.begun i).pull x.a
      let b := a.2.pull x.b
      let d := s.stream n
      let page := if b.1.toNat < 262144 then s.pageAt n b.1.toNat else none
      let leaf := if b.1.toNat < 262144 then (s.node d.root).entries.find (b.1.toNat / 512) else none
      Issues i s →
      (x.fn = 4 → placeOk a.1 = true → exec i s = .next ((a.2.give x.d (BitVec.ofNat 64
        (((clusterCores (targetPlace a.1.toNat)).map (fun g => ((s.core g).freeFrames).length)).sum))).completed i))
      ∧ (x.fn = 5 → exec i s = .next (((s.begun i).give x.d ((s.caravan (dieOf s.cur.1)).stale.setWidth 64)).completed i))
      ∧ (a.2.Names a.1 n → max s.mine.h d.clock + 1 < clockLimit →
        (x.fn = 0 → exec i s = .next (((a.2.acquires d.clock).give x.d (d.dword 0)).completed i))
        ∧ (x.fn = 1 → exec i s = .next (((b.2.acquires d.clock).give x.d (match page with
          | some p => pageDword p (s.page p)
          | none => 0)).completed i))
        ∧ (x.fn = 2 → exec i s = .next (((a.2.acquires d.clock).give x.d (d.dword 2)).completed i)))
      ∧ (a.2.Names a.1 n → x.fn = 3 →
        exec i s = .next ((a.2.give x.d (if (s.caravan (dieOf s.cur.1)).spm.contains n then 1 else 0)).completed i))
      ∧ (a.2.Names a.1 n → x.fn = 6 → exec i s = .next ((b.2.give x.d (BitVec.ofNat 64
        ((s.node d.root).refcnt + ((leaf.map (fun l => (s.node l).refcnt)).getD 0) * 2 ^ 16))).completed i)))

/-- Creating, binding, placing and querying streams: `StreamCreation` and `StreamBindingAndPlaces` (R97, R177, R178, R179,
R180, R181). -/
def Obligations.StreamsAndPlaces : Prop :=
  StreamCreation ∧ StreamBindingAndPlaces

/-- R98, R477, R479, R480: SSTEP writes one field of a descriptor that is not frozen and gives the dword it changes as it was;
APUSH stores the entry of QTAIL, advances QTAIL and gives the entries held, waking a stream that waits for an action; APOP gives the
entry of QHEAD and advances QHEAD, or 0 and -1 where the queue is empty. The step clock takes each release. -/
def Obligations.StreamStepAndQueue : Prop :=
  ∀ (s : State) (x : RFields) (n : Nat),
    (let i := Instr.sstep x;
      let a := (s.begun i).pull x.a
      let b := a.2.pull x.b
      let d := s.stream n
      let v := b.1.toNat
      let writes (w : State) (f : Stream → Stream) (old : Word) : Prop :=
        exec i s = .next ((((w.onStream n f).stepped n).give x.d old).completed i)
      Issues i s → a.2.Names a.1 n → d.state ≠ .frozen → (s.descPlaced n).2 + 1 < clockLimit →
      (x.fn = 0 → v < 2 ^ 32 → writes b.2 (fun d => { d with horizon := v, hzn := decide (b.1 ≠ 0) && decide (v ≤ d.steps) }) (d.dword 3))
      ∧ (x.fn = 1 → writes b.2 (fun d => { d with gpos := v / 2 ^ 24, draw := v % 2 ^ 24 }) (d.dword 9))
      ∧ (x.fn = 2 → v < 8 → (∀ c, (s.engine (clusterOf s.cur.1)).slots.find v = some c → c.tag = a.1 ∧ c.owner = s.ownerOf s.cur.1 s.cur.2) →
        ((s.engine (clusterOf s.cur.1)).slots.find v).isSome = true →
        writes b.2 (fun d => { d with ckdie := dieOf s.cur.1, ckcl := clusterOf s.cur.1 % 128, ckslot := v, ckv := true }) (d.dword 11))
      ∧ (x.fn = 3 → writes a.2 (fun d => { d with ckv := false }) (d.dword 11))
      ∧ (x.fn = 4 → v < 2 ^ 40 → d.state ≠ .ready → d.state ≠ .running → writes b.2 (fun d => { d with position := v }) (d.dword 7)))
    ∧ (∀ t u : State, t.cur = s.cur → u.cur = s.cur →
      let i := Instr.apush x
      let a := (s.begun i).pull x.a
      let b := a.2.pull x.b
      let d := s.stream n
      let va := BitVec.ofNat 64 (d.entryAddr d.qtail)
      let lo := bytesOfNat 8 (b.1.toNat % 2 ^ 32)
      let hi := bytesOfNat 8 (d.draw % 2 ^ 24 * 2 ^ 32 + d.steps % 2 ^ 32)
      let v := envOf s s.cur.1 s.cur.2 i
      Issues i s → b.2.Names a.1 n → d.state ≠ .frozen → d.gone = false → b.1.toNat < 2 ^ 32 →
      (2 ^ d.qlog ≤ d.held → x.fn = 1 → exec i s = .next ((b.2.give x.d (-1)).completed i))
      ∧ (d.held < 2 ^ d.qlog → Does (storeBytes va lo 6 4 [(va, lo)] v) b.2 () t →
        Does (storeBytes (va + 8) hi 6 4 [(va + 8, hi)] v) t () u → (u.descPlaced n).2 + 1 < clockLimit →
        let w := (u.onStream n (fun e => { e with qtail := (e.qtail + 1) % 2 ^ 24 })).stepped n
        let z := if d.state = .waitingAction then w.wakeStream n (u.descPlaced n).2 else w
        z.cur = s.cur → exec i s = .next ((z.give x.d (BitVec.ofNat 64 (d.held + 1))).completed i)))
    ∧ (∀ (t u : State) (lo hi : Word), t.cur = s.cur → u.cur = s.cur →
      let i := Instr.apop x
      let a := (s.begun i).pull x.a
      let d := s.stream n
      let va := BitVec.ofNat 64 (d.entryAddr d.qhead)
      let v := envOf s s.cur.1 s.cur.2 i
      Issues i s → a.2.Names a.1 n → (x.fn = 0 → d.state ≠ .frozen) → d.gone = false → max s.mine.h d.clock + 1 < clockLimit →
      (d.held = 0 → exec i s = .next ((((a.2.acquires d.clock).give x.d 0).give (x.d + 1) (-1)).completed i))
      ∧ (d.held ≠ 0 → Does (loadDword va v.aval v.pc) (a.2.acquires d.clock) lo t →
        Does (loadDword (va + 8) v.aval v.pc) t hi u → (x.fn = 0 → (u.descPlaced n).2 + 1 < clockLimit) →
        exec i s = .next ((((if x.fn = 0 then (u.onStream n (fun e => { e with qhead := (e.qhead + 1) % 2 ^ 24 })).stepped n
          else u).give x.d lo).give (x.d + 1) hi).completed i)))

/-- R480, R476: STRUNC of an admitted or waiting stream releases in one descriptor step, whose time P the step clock takes; drops, from the
queue's end backwards, the entries whose STEPAT is at least c; invalidates the entries of the mapped pages from byte b on, in ascending
order; clears the rest of a partly kept page that is mapped; sets STEPS, HZN and, with F2, the generator's position; and gives both counts. A
page whose copy must wait for a move holds it up (R167). -/
def Sys2Proof.Machine.TruncateStream : Prop :=
  ∀ (s u : State) (x : RFields) (n m : Nat) (e : Nat → Word), u.cur = s.cur →
    let i := Instr.strunc x
    let a := (s.begun i).pull x.a
    let b := a.2.pullB x
    let c := b.2.pull (extOf i).c
    let d := s.stream n
    let p := (s.descPlaced n).2
    let kp := (b.1.toNat + 4095) / 4096
    let gone := ((c.2.stepped n).mapped n).filter (fun j => decide (kp ≤ j))
    let tail := (d.qhead + m) % 2 ^ 24
    let t := gone.foldl (fun s j => s.unmapPage n j) (c.2.stepped n)
    let v := envOf s s.cur.1 s.cur.2 i
    let ends (z : State) : Prop := exec i s = .next (((z.onStream n (fun e => { e with
      qtail := tail, steps := c.1.toNat, hzn := decide (e.horizon ≠ 0) && decide (e.horizon ≤ c.1.toNat),
      gpos := if (extOf i).f2 then c.1.toNat else e.gpos, draw := if (extOf i).f2 then 0 else e.draw })).give x.d
        (BitVec.ofNat 64 (gone.length + (d.held - m) % 65536 * 2 ^ 32))).completed i)
    Issues i s → c.2.Names a.1 n → (d.state = .admitted ∨ d.state = .waitingAction) →
    b.1.toNat < 2 ^ 30 → c.1.toNat < 2 ^ 32 → c.1.toNat ≤ d.steps → p + 1 < clockLimit →
    d.qhead < 2 ^ 24 → d.qtail < 2 ^ 24 → m ≤ d.held → s.mine.xfail = none →
    (∀ j, m ≤ j + 1 → j < d.held →
      let va := d.entryAddr ((d.qhead + j) % 2 ^ 24) + 8
      c.2.lookDword d.owner va = .ok (e j) ∧ c.2.stillHeld d.owner va (ctxAgent s.cur.1 s.cur.2) = false) →
    (∀ j, m ≤ j → j < d.held → c.1.toNat ≤ (e j).toNat % 2 ^ 32) → (m ≠ 0 → (e (m - 1)).toNat % 2 ^ 32 < c.1.toNat) →
    (∀ j ∈ gone, (c.2.stepped n).copyWaits n j = false) → t.cur = s.cur →
    ((b.1.toNat % 4096 = 0 ∨ t.pageAt n (kp - 1) = none) → ends t)
    ∧ (b.1.toNat % 4096 ≠ 0 → Does (clearTail n (kp - 1) (b.1.toNat % 4096) p v.pc v.aval) t () u → ends u)

/-- R480, R484, R474: SRET.ret of a stream that is live and not frozen stores RETVAL, releases, and reports to an open group that its JGROUP
names and that has not all its returns: the group keeps generation and value, and the greatest P; d tells. SRET.retire of a stream that is
admitted, waiting for an action, or a stub releases and retires it, and gives the pages freed. A retired stream's queue is empty, its
checkpoint void and no drive walks it. A frozen stream raises STR.FROZEN at SRET.ret, one that is gone STR.STATE; one that is
ready, running, frozen, free or retired raises STR.STATE at SRET.retire. -/
def Sys2Proof.Machine.ReturnAndRetire : Prop :=
  (∀ (s : State) (x : RFields) (n : Nat),
    let i := Instr.sret x
    let a := (s.begun i).pull x.a
    let b := a.2.pull x.b
    let d := s.stream n
    let p := (s.descPlaced n).2
    let w := (b.2.onStream n (fun e => { e with retval := b.1 })).stepped n
    let grp := s.group (n % 4) d.jgroup
    let takes : Prop := d.jgroup ≠ 0xFFFF ∧ grp.state = .opened ∧ grp.rets.length < grp.cfg.toNat % 2 ^ 16
    let z := (a.2.stepped n).retire n false
    let traps (cause : Nat) : Prop := exec i s = .next (s.trapped i cause (envOf s s.cur.1 s.cur.2 i).aval)
    Issues i s → a.2.Names a.1 n →
    (x.fn = 0 → d.state ≠ .frozen → d.gone = false → p + 1 < clockLimit → ¬ takes → exec i s = .next ((w.give x.d 0).completed i))
    ∧ (x.fn = 0 → d.state ≠ .frozen → d.gone = false → p + 1 < clockLimit → takes →
      exec i s = .next (((w.onGroup (n % 4) d.jgroup (fun g => { g with rets := g.rets.set n (d.gen, b.1), p := max g.p p })).give x.d
        1).completed i))
    ∧ (x.fn ≠ 0 → (d.state = .admitted ∨ d.state = .waitingAction ∨ d.state = .migratedStub) → p + 1 < clockLimit → z.cur = s.cur →
      exec i s = .next ((z.give x.d (BitVec.ofNat 64 (s.pages.length - z.pages.length))).completed i))
    ∧ (x.fn = 0 → d.state = .frozen → traps 0x169)
    ∧ (x.fn = 0 → d.gone = true → traps 0x164)
    ∧ (x.fn ≠ 0 → (d.state = .ready ∨ d.state = .running ∨ d.state = .frozen ∨ d.state = .free ∨ d.state = .retired) → traps 0x164))
  ∧ ∀ (s : State) (n : Nat) (pruned : Bool),
    let d := (s.retire n pruned).stream n
    d.state = .retired ∧ d.qhead = d.qtail ∧ d.ckv = false ∧ d.drive = none ∧ (pruned = true → d.pruned = true)

/-- R485, R481: JOIN.init of a group that is not open reads its two dwords, releases and opens the group empty, for the issuer's owner and
launch, and gives 0; on an open group it gives -1 and changes nothing. JOIN.prune of an open group releases and resolves it at once with
the P as Wadi's acquire, and gives the members pruned; JOIN.stat gives count, N and state; JOIN.free releases and frees a group that is
not open. Where they do not apply prune and free give -1. A group number of more than twelve bits, or a configuration out of range, raises
STR.ARG. -/
def Sys2Proof.Machine.JoinInstruction : Prop :=
  ∀ (s u : State) (x : RFields) (ws : List Word), u.cur = s.cur →
    let i := Instr.join x
    let a := (s.begun i).pull x.a
    let b := a.2.pull x.b
    let die := a.1.toNat / 2 ^ 10 % 4
    let gn := a.1.toNat % 2 ^ 10
    let grp := s.group die gn
    let l := (u.mine.launch).getD (0, 0)
    let v := envOf s s.cur.1 s.cur.2 i
    let cfg := (ws.getD 0 0).toNat
    let ok : Prop := cfg < 2 ^ 29 ∧ cfg % 2 ^ 16 ≠ 0 ∧ cfg / 2 ^ 16 % 16 ≤ 5
    let released (z : State) : State := z.onMine (fun c => { c with l := z.mine.l + 1 })
    Issues i s →
    (2 ^ 12 ≤ a.1.toNat → exec i s = .next (s.trapped i 0x168 v.aval))
    ∧ (a.1.toNat < 2 ^ 12 →
      (x.fn = 0 → b.1.toNat % 16 = 0 → Does (loadDwords b.1 v 2) b.2 ws u →
        (¬ ok → exec i s = .next (s.trapped i 0x168 v.aval))
        ∧ (ok → grp.state = .opened → exec i s = .next ((u.give x.d (-1)).completed i))
        ∧ (ok → grp.state ≠ .opened → u.mine.l + 1 < clockLimit → exec i s = .next ((((released u).onGroup die gn (fun _ =>
            { state := .opened, cfg := ws.getD 0 0, addr := ws.getD 1 0, owner := u.ownerOf s.cur.1 s.cur.2, slot := l.1, epoch := l.2 })).give
              x.d 0).completed i)))
      ∧ (x.fn = 1 → grp.state = .opened → s.mine.l + 1 < clockLimit → ∀ k, (released a.2).resolve die gn (some s.mine.l) = (u, some k) →
        exec i s = .next ((u.give x.d (BitVec.ofNat 64 k)).completed i))
      ∧ (x.fn = 1 → grp.state ≠ .opened → exec i s = .next ((a.2.give x.d (-1)).completed i))
      ∧ (x.fn = 2 → exec i s = .next ((a.2.give x.d (BitVec.ofNat 64 (grp.rets.length + grp.cfg.toNat % 2 ^ 16 * 2 ^ 16
          + (match grp.state with
            | .free => 0
            | .opened => 1
            | .resolved => 2) * 2 ^ 32))).completed i))
      ∧ (x.fn = 3 → grp.state ≠ .opened → s.mine.l + 1 < clockLimit → exec i s = .next (
        (((released a.2).onGroup die gn (fun _ => {})).give x.d 0).completed i))
      ∧ (x.fn = 3 → grp.state = .opened → exec i s = .next ((a.2.give x.d (-1)).completed i)))

/-- R480, R487: SMIGR checks its operands; a stream that is frozen gives -2, sixteen transfers of the die under way -1; else
it releases and queues the transfer with P in place of one that only marks the stream (log 23), gives 0, and marks a running stream, or freezes
one that is admitted, ready or waiting for an action. -/
def Sys2Proof.Machine.MigrateStream : Prop :=
  ∀ (s : State) (x : RFields) (n : Nat),
    let i := Instr.smigr x
    let a := (s.begun i).pull x.a
    let b := a.2.pullB x
    let c := b.2.pull (extOf i).c
    let d := s.stream n
    let l := (s.mine.launch).getD (0, 0)
    let p := (s.descPlaced n).2
    let w := c.2.stepped n
    let z : State := { w with transfers := w.transfers.filter (fun (y : Transfer) => !(decide (y.stream = n) && !y.begun)) ++ [{
      tag := n, die := dieOf s.cur.1, stream := n, owner := w.ownerOf s.cur.1 s.cur.2, slot := l.1, epoch := l.2,
      agent := ctxAgent s.cur.1 s.cur.2, dest := b.1.setWidth 16, addr := c.1, p := p }] }
    let busy := (s.transfers.filter (fun y => y.die = dieOf s.cur.1)).length
    let traps (cause : Nat) (t : Word) : Prop := exec i s = .next (s.trapped i cause t)
    let aval := (envOf s s.cur.1 s.cur.2 i).aval
    Issues i s → c.2.Names a.1 n →
    ((2 ^ 12 ≤ b.1.toNat ∨ b.1.toNat = homeHere) → traps 0x168 aval)
    ∧ (b.1.toNat < 2 ^ 12 → b.1.toNat ≠ homeHere → c.1.toNat % 16 ≠ 0 → traps 0x061 c.1)
    ∧ (b.1.toNat < 2 ^ 12 → b.1.toNat ≠ homeHere → c.1.toNat % 16 = 0 →
      (d.gone = true → traps 0x164 aval)
      ∧ (d.gone = false → d.state = .frozen → exec i s = .next ((c.2.give x.d (-2)).completed i))
      ∧ (d.gone = false → d.state ≠ .frozen → 16 ≤ busy → exec i s = .next ((c.2.give x.d (-1)).completed i))
      ∧ (d.gone = false → busy < 16 → p + 1 < clockLimit →
        (d.state = .running → exec i s = .next ((z.give x.d 0).completed i))
        ∧ ((d.state = .admitted ∨ d.state = .ready ∨ d.state = .waitingAction) → (z.freeze n).cur = s.cur →
          exec i s = .next (((z.freeze n).give x.d 0).completed i))))

/-- Truncating, retiring, joining and migrating streams: `TruncateStream` and `ReturnAndRetire` and `JoinInstruction` and `MigrateStream`
(R474, R476, R480, R481, R484, R485, R487). -/
def Obligations.StreamEnds : Prop :=
  TruncateStream ∧ ReturnAndRetire ∧ JoinInstruction ∧ MigrateStream

/-! ### Row E: traps, special registers, the journal, debug (R408-R432, R446-R449) -/

/-- R409, R412, R413: entering a trap: where no handler runs, %tvec is not 0, the window stack has room and the cause is one of those
that a handler takes, the frame is written, %tcause, %epc and %tval are set, WBASE rises by 32, INTRAP is set and the PC
takes %tvec; L, H, every register, every other context and every byte of memory stay. In every other case the trap is
routed. -/
def Sys2Proof.Machine.TrapEntry : Prop :=
  ∀ (s : State) (g k cause : Nat) (async more : Bool) (epc tval words : Word) (race : List Word),
    let c := s.ctx g k
    let t := s.takeTrap g k cause async more epc tval words race
    let tc := BitVec.ofNat 64 (cause + (if async then 2 ^ 10 else 0) + (if more then 2 ^ 11 else 0))
    race.length ≤ 8 →
    (c.intrap = false → c.tvec ≠ 0 → c.wbase + 32 ≤ 1888 → cause ≠ 0x1E6 → cause ≠ 0x1E7 →
      (t.ctx g k).pc = c.tvec ∧ (t.ctx g k).intrap = true ∧ (t.ctx g k).wbase = c.wbase + 32
      ∧ (t.ctx g k).tcause = tc ∧ (t.ctx g k).epc = epc ∧ (t.ctx g k).tval = tval
      ∧ (t.ctx g k).l = c.l ∧ (t.ctx g k).h = c.h ∧ (t.ctx g k).win = c.win ∧ (t.ctx g k).g = c.g ∧ (t.ctx g k).v = c.v
      ∧ (t.ctx g k).masks = c.masks ∧ (t.ctx g k).grant = c.grant ∧ (t.ctx g k).qset = c.qset
      ∧ (t.ctx g k).racemode = c.racemode ∧ (t.ctx g k).stream = c.stream ∧ (t.ctx g k).pend = c.pend
      ∧ (∀ n, ((t.core g).frame k).get 0 n =
          (if n = 0 then tc else if n = 1 then epc else if n = 2 then tval else if n = 3 then BitVec.ofNat 64 c.wbase
           else if n = 4 then BitVec.ofNat 64 c.l else if n = 5 then BitVec.ofNat 64 c.h
           else if n = 6 then BitVec.ofNat 64 s.clk else if n = 7 then words
           else if n < 16 then race.getD (n - 8) 0
           else if n = 16 then c.stream else if n = 17 then s.superstep g else 0))
      ∧ (∀ h j, (h, j) ≠ (g, k) → t.ctx h j = s.ctx h j ∧ (t.core h).frame j = (s.core h).frame j) ∧ t.mem = s.mem ∧ t.lines = s.lines)
    ∧ ((c.intrap = true ∨ c.tvec = 0 ∨ 1888 < c.wbase + 32 ∨ cause = 0x1E6 ∨ cause = 0x1E7) →
      t = s.routeTrap g k cause async epc tval)

/-- R408, R415: routing a trap: the first of a launch leaves its cause, place, %epc and %tval in the UTRAP record, each further
one only counts, to 255; a helper's, other than a HALT, ends the helper, which publishes its L as ENDP, has L one later, no
lanes and no queue set; a control context's, and any HALT, stops the launch with code 0x14. -/
def Sys2Proof.Machine.TrapRouting : Prop :=
  (∀ (s : State) (slot cause : Nat) (async : Bool) (place epc tval : Word), cause < 512 →
    let l := s.launch slot
    let t := (s.utrap slot cause async place epc tval).launch slot
    let count (w : Word) : Nat := w.toNat / 2 ^ 24 % 256
    count t.utcause = min 255 (count l.utcause + 1)
    ∧ (count l.utcause = 0 → t.utepc = epc ∧ t.utval = tval ∧ t.utcause.toNat % 512 = cause
        ∧ t.utcause.getLsbD 9 = async ∧ t.utcause.toNat / 2 ^ 32 = place.toNat % 2 ^ 32)
    ∧ (count l.utcause ≠ 0 → t.utepc = l.utepc ∧ t.utval = l.utval ∧ t.utcause.toNat % 2 ^ 24 = l.utcause.toNat % 2 ^ 24))
  ∧ ∀ (s : State) (g k cause : Nat) (async : Bool) (epc tval : Word),
    let slot := ((s.ctx g k).launch.map (·.1)).getD 0
    let s1 := (s.trace g k 5 (trapPayload cause async epc)).utrap slot cause async (s.place g k) epc tval
    (k = 0 → s.routeTrap g k cause async epc tval = (s1.stopLaunch slot 0x14 .error).discardCore g)
    ∧ (k ≠ 0 → cause = 0x1E6 → s.routeTrap g k cause async epc tval = (s1.stopLaunch slot 0x14 .error).endAbnormal g k)
    ∧ (k ≠ 0 → cause ≠ 0x1E6 → s.routeTrap g k cause async epc tval = s1.endAbnormal g k)
    ∧ ∀ c : Ctx, c.endAbnormally.hstate = .ended ∧ c.endAbnormally.abn = true ∧ c.endAbnormally.endp = c.l
        ∧ c.endAbnormally.l = c.l + 1 ∧ c.endAbnormally.grant = 0 ∧ c.endAbnormally.qset = 6

/-- Entering a trap saves and goes where the spec says; else it is routed: `TrapEntry` and `TrapRouting` (R409, R412, R413,
R408, R415). -/
def Obligations.TrapEntries : Prop :=
  TrapEntry ∧ TrapRouting

/-- R427, R430, R431: TRAP and BRK enter their trap with %epc at the next instruction and %tval operand a, or the immediate; HALT
always routes SYS.HALT with operand a. R8: operands named in queues are not popped, and what a waiting store was admitted with goes back
(R276). -/
def Sys2Proof.Machine.SoftwareTraps : Prop :=
  ∀ (s : State),
    let s0 := s.unadmit s.cur.1 s.cur.2
    let words (i : Instr) : Word :=
      let v := envOf s s.cur.1 s.cur.2 i
      BitVec.ofNat 64 (v.word0.toNat + v.word1.toNat * 2 ^ 32)
    (∀ x : IFields,
      (let i := Instr.trap x;
        Issues i s → exec i s = .next ((s0.takeTrap s.cur.1 s.cur.2 x.imm.toNat false false
          (s.mine.pc + BitVec.ofNat 64 (instrBytes i)) ((s.begun i).pull x.a).1 (words i) []).tick 1))
      ∧ (let i := Instr.brk x
        Issues i s → exec i s = .next ((s0.takeTrap s.cur.1 s.cur.2 0x1E1 false false
          (s.mine.pc + BitVec.ofNat 64 (instrBytes i)) x.imm (words i) []).tick 1)))
    ∧ ∀ x : RFields,
      let i := Instr.halt x
      Issues i s → exec i s
        = .next ((s0.routeTrap s.cur.1 s.cur.2 0x1E6 false s.mine.pc ((s.begun i).pull x.a).1).tick 1)

/-- R428: ERET in a handler takes WBASE from frame dword 3, clears INTRAP and goes to %epc, and restores nothing else; outside one it
traps with SYS.ERET. -/
def Sys2Proof.Machine.ReturnFromTrap : Prop :=
  ∀ (s : State) (x : RFields),
    let i := Instr.eret x
    Issues i s →
    (s.mine.intrap = true → exec i s = .next (((s.begun i).onMine (fun c => { c with
      wbase := (((s.core s.cur.1).frame s.cur.2).get 0 3).toNat % 2 ^ 11, intrap := false, pc := c.epc })).completed i))
    ∧ (s.mine.intrap = false → ∃ a : Word, exec i s = .next (s.trapped i 0x1E5 a))

/-- R142, R412, R413, R428: ERET straight after a trap entry gives back the PC's %epc, WBASE and INTRAP, with which the
s registers are the interrupted code's again. -/
def Sys2Proof.Machine.EretUndoesEntry : Prop :=
  ∀ (s : State) (g k cause : Nat) (async more : Bool) (epc tval words : Word) (race : List Word),
    let c := s.ctx g k
    let u := s.takeTrap g k cause async more epc tval words race
    let t := (u.ctx g k).returnFromTrap (((u.core g).frame k).get 0 3)
    race.length ≤ 8 →
    c.intrap = false → c.tvec ≠ 0 → c.wbase + 32 ≤ 1888 → cause ≠ 0x1E6 → cause ≠ 0x1E7 →
    t.pc = epc ∧ t.wbase = c.wbase ∧ t.intrap = false ∧ ∀ n, t.s n = c.s n

/-- TRAP, BRK, HALT and ERET; a return undoes an entry: `SoftwareTraps` and `ReturnFromTrap` and `EretUndoesEntry` (R427,
R430, R431, R8, R428, R142, R412, R413). -/
def Obligations.TrapInstructions : Prop :=
  SoftwareTraps ∧ ReturnFromTrap ∧ EretUndoesEntry

/-- The special registers of the context whose turn it is (R423): number and value, as SYSR zero-extends it (R19, R21, R140, R223, R275,
R341, R355, R383, R408, R413, R425). -/
def Sys2Proof.Machine.specialRegisters (s : State) : List (Nat × Word) :=
  let g := s.cur.1
  let k := s.cur.2
  let c := s.mine
  let w := s.lane g
  let core := s.core g
  let e (i : Nat) : JEntry := core.journal.get {} i
  let count (p : JEntry → Bool) : Nat := ((List.range 32).filter (fun i => p (e i))).length
  [ (0x000, BitVec.ofNat 64 s.clk), (0x001, s.place g k), (0x002, (ctxAgent g k).setWidth 64),
    (0x003, BitVec.ofNat 64 (c.hlive.toNat * 2 ^ 16 + c.qset * 2 ^ 13 + (if c.fe = .x then 2 ^ 12 else 0) + k)),
    (0x004, BitVec.ofNat 64 c.wbase), (0x005, BitVec.ofNat 64 ((Config.imageAddress g k core.shelf).toNat * 2 ^ 15)),
    (0x006, BitVec.ofNat 64 (c.grant + (if c.shrunk then 2 ^ 8 else 0))), (0x008, BitVec.ofNat 64 c.l), (0x009, BitVec.ofNat 64 c.h),
    (0x010, c.tvec), (0x011, c.tcause), (0x012, c.epc), (0x013, c.tval),
    (0x014, BitVec.ofNat 64 ((if c.pend = [] then 0 else 2 ^ 8) + (if c.intrap then 1 else 0))), (0x018, c.racemode),
    (0x020, BitVec.ofNat 64 ((if w.trap then 2 ^ 63 else 0) + w.used % 2 ^ 24 * 2 ^ 32 + w.budget)),
    (0x021, BitVec.ofNat 64 (w.stallc.toNat * 2 ^ 32 + w.log)), (0x028, c.stream), (0x029, c.gkey), (0x02A, c.gpos),
    (0x030, match core.domain with
      | some d => BitVec.ofNat 64 (s.domainOf d).count
      | none => 0),
    (0x031, match core.domain with
      | some d => BitVec.ofNat 64 (2 ^ 7 + (if (s.domainOf d).exchanging then 2 ^ 6 else 0) + d)
      | none => 0),
    (0x038, BitVec.ofNat 64 (count (fun y => y.state ≠ .free) * 2 ^ 40 + count (fun y => y.state = .pending && decide (y.ctx = k)) * 2 ^ 32
      + (((List.range 32).filter (fun i => (e i).state = .refused && decide ((e i).ctx = k)
          && decide (c.launch = some ((e i).org.slot, (e i).org.epoch)))).map (fun i => 2 ^ i)).sum)) ]
  ++ (List.range 4).map (fun n => (0x034 + n, if core.leftDomain then 0 else core.xslot.get 0 n))
  ++ (List.range 32).map (fun n => (0x100 + n, (core.frame k).get 0 n))

/-- R423, R424, R429: SYSR gives d the value of the register that its immediate numbers, and a number that names none raises SYS.SREG. SYSW
writes what R424 says of the value to a register that may be written; a value out of its limits raises SYS.ARG and changes nothing, a
register that may only be read SYS.RO, a number that names none SYS.SREG. -/
def Obligations.SpecialRegisters : Prop :=
  ∀ (s : State) (x : IFields),
    let n := x.imm.toNat
    let known : Prop := ∃ e ∈ specialRegisters s, n = e.1
    let traps (i : Instr) (cause : Nat) : Prop := exec i s = .next (s.trapped i cause (envOf s s.cur.1 s.cur.2 i).aval)
    (let i := Instr.sysr x;
      Issues i s →
      (∀ e ∈ specialRegisters s, n = e.1 → exec i s = .next (((s.begun i).give x.d e.2).completed i))
      ∧ (¬ known → traps i 0x1E2))
    ∧ (let i := Instr.sysw x
      let a := (s.begun i).pull x.a
      let v := a.1.toNat
      let writes (f : Ctx → Ctx) : Prop := exec i s = .next ((a.2.onMine f).completed i)
      let writesCore (f : Core → Core) : Prop := exec i s = .next ((a.2.onCore s.cur.1 f).completed i)
      let log := max 8 (min 16 (v % 2 ^ 5))
      let mode : Word :=
        BitVec.ofNat 64 (v / 2 ^ 12 % 2 ^ 44 * 2 ^ 12 + max 6 (v / 2 ^ 8 % 2 ^ 4) * 2 ^ 8 + v / 2 ^ 2 % 2 * 2 ^ 2 + v % 2)
      let inDomain : Prop := (s.core s.cur.1).domain ≠ none
      let slot : Prop := 0x034 ≤ n ∧ n ≤ 0x037
      Issues i s →
      (n = 0x010 → v % 64 = 0 → v < 2 ^ 56 → writes (fun c => { c with tvec := a.1 }))
      ∧ (n = 0x011 → writes (fun c => { c with tcause := a.1 &&& 0xDFF }))
      ∧ (n = 0x012 → v % 4 = 0 → v < 2 ^ 56 → writes (fun c => { c with epc := a.1 }))
      ∧ (n = 0x013 → writes (fun c => { c with tval := a.1 }))
      ∧ (n = 0x018 → writes (fun c => { c with racemode := mode }))
      ∧ (n = 0x020 → writesCore (fun c => { c with wl := { c.wl.sync s.clk with
          trap := a.1.getLsbD 63,
          budget := if v % 2 ^ 24 = 0 ∨ (c.wl.sync s.clk).cap < v % 2 ^ 24 then (c.wl.sync s.clk).cap else v % 2 ^ 24 } }))
      ∧ (n = 0x021 → writesCore (fun c => { c with wl := { c.wl.sync s.clk with log := log, win := s.clk / 2 ^ log } }))
      ∧ (n = 0x029 → writes (fun c => { c with gkey := a.1 }))
      ∧ (n = 0x02A → writes (fun c => { c with gpos := a.1 }))
      ∧ (slot → inDomain → writesCore (fun c => { c with xslot := c.xslot.set (n - 0x034) a.1 }))
      ∧ ((n = 0x010 ∧ (v % 64 ≠ 0 ∨ 2 ^ 56 ≤ v) ∨ n = 0x012 ∧ (v % 4 ≠ 0 ∨ 2 ^ 56 ≤ v) ∨ slot ∧ ¬ inDomain) → traps i 0x1E4)
      ∧ (known → n ∉ [0x010, 0x011, 0x012, 0x013, 0x018, 0x020, 0x021, 0x029, 0x02A, 0x034, 0x035, 0x036, 0x037] → traps i 0x1E3)
      ∧ (¬ known → traps i 0x1E2))


/-- R308, R432: JRNL reads a journal entry of the context's launch, or frees a refused one, which drops its pending refusal;
it traps with PST.ENTRY on an entry that is not the launch's. -/
def Sys2Proof.Machine.JournalInstructions : Prop :=
  ∀ (s : State) (x : RFields),
    let i := Instr.jrnl x
    let a := (s.begun i).pull x.a
    let n := a.1.toNat
    let e := (s.core s.cur.1).journal.get {} n
    let mine : Prop := n < 32 ∧ e.state ≠ .free ∧ s.mine.launch = some (e.org.slot, e.org.epoch)
    Issues i s →
    (mine → x.fn = 0 → exec i s = .next ((a.2.give x.d e.status).completed i))
    ∧ (mine → x.fn = 1 → exec i s = .next ((a.2.give x.d e.addr).completed i))
    ∧ (mine → x.fn = 2 → exec i s = .next ((a.2.give x.d e.value).completed i))
    ∧ (mine → x.fn = 3 → e.state = .refused → exec i s = .next (((a.2.onCore s.cur.1 (fun c => { c with
        journal := c.journal.set n {}, ctxs := c.ctxs.map (fun p => (p.1, { p.2 with
          pend := p.2.pend.filter (fun q => q ≠ .refused n) })) })).give x.d 0).completed i))
    ∧ (¬ mine → ∃ w, exec i s = .next (s.trapped i 0x1A3 w))

/-- R434, R435, R447-R449: TRACE appends its USER record, sets the configuration and gives the old one, or reads the status or a
dword; TRIG freezes or resumes the buffer; WATCH arms, disarms and reads a watch slot. -/
def Sys2Proof.Machine.DebugInstructions : Prop :=
  ∀ (s : State) (x : RFields),
    let t := (s.core s.cur.1).trace
    (let i := Instr.trace x;
      let a := (s.begun i).pull x.a
      Issues i s →
      (x.fn = 0 → exec i s = .next ((a.2.trace s.cur.1 s.cur.2 4 a.1).completed i))
      ∧ (x.fn = 1 → a.1.getLsbD 0 = false → a.1.toNat < 2 ^ 22 → exec i s = .next (((a.2.onCore s.cur.1 (fun c => { c with
          trace := { c.trace with cfg := a.1 } })).give x.d t.cfg).completed i))
      ∧ (x.fn = 2 → exec i s = .next ((a.2.give x.d (BitVec.ofNat 64 (t.lost.toNat * 2 ^ 32 + (if t.frozen then 2 ^ 16 else 0)
          + t.w))).completed i))
      ∧ (x.fn = 3 → a.1.toNat < 512 → exec i s = .next ((a.2.give x.d (if a.1.toNat % 2 = 0
          then (t.recs.get (0, 0) (a.1.toNat / 2)).1 else (t.recs.get (0, 0) (a.1.toNat / 2)).2)).completed i)))
    ∧ (let i := Instr.trig x
      let a := (s.begun i).pull x.a
      Issues i s →
      (x.fn = 0 → exec i s = .next ((a.2.mark s.cur.1 s.cur.2 (s.ownerOf s.cur.1 s.cur.2) a.1).completed i))
      ∧ (x.fn = 1 → exec i s = .next ((a.2.onCore s.cur.1 (fun c => { c with
          trace := { c.trace with frozen := false } })).completed i))
      ∧ (x.fn = 2 → let z := (a.2.coresOf s.mine.launch).foldl (fun u h => u.mark h s.cur.2 (s.ownerOf s.cur.1 s.cur.2) a.1) a.2
          z.cur = s.cur → exec i s = .next (z.completed i)))
    ∧ (∀ (obj : Nat) (u : State), u.cur = s.cur →
      let i := Instr.watch x
      let a := (s.begun i).pull x.a
      let b := a.2.pull x.b
      let slot (n : Nat) : WatchSlot := t.watch.get {} n
      let w : WatchSlot := { obj := obj, low := a.1.toNat % 2 ^ 16, ctl := b.1, ctx := s.cur.2, fired := 0 }
      let puts (v : State) (n : Nat) (y : WatchSlot) : State :=
        v.onCore s.cur.1 (fun c => { c with trace := { c.trace with watch := c.trace.watch.set n y } })
      Issues i s →
      (x.fn = 0 → b.1.toNat < 2 ^ 7 → b.1.toNat / 4 % 4 ≠ 3 → (b.1.getLsbD 4 = true → b.1.toNat / 4 % 4 = 0) →
        Does (watchObject a.1 (b.1.getLsbD 4) (envOf s s.cur.1 s.cur.2 i)) b.2 obj u →
        ((w.signals = false ∨ 6 * space ≤ obj ∨ u.portWatches (u.homeCluster (obj / 64)) s.cur.1 (b.1.toNat % 4) < 64) →
          exec i s = .next (((puts u (b.1.toNat % 4) w).give x.d (((u.core s.cur.1).trace.watch.get {} (b.1.toNat % 4)).ctl)).completed i))
        ∧ (w.signals = true → obj < 6 * space → 64 ≤ u.portWatches (u.homeCluster (obj / 64)) s.cur.1 (b.1.toNat % 4) →
          exec i s = .next ((u.give x.d (-1)).completed i)))
      ∧ (x.fn = 1 → a.1.toNat < 4 →
        exec i s = .next (((puts a.2 a.1.toNat {}).give x.d (slot a.1.toNat).ctl).completed i))
      ∧ (x.fn = 2 → a.1.toNat < 4 → exec i s = .next ((a.2.give x.d ((slot a.1.toNat).fired.setWidth 64)).completed i)))

/-- JRNL, TRACE, TRIG and WATCH: `JournalInstructions` and `DebugInstructions` (R308, R432, R434, R435, R447, R448, R449). -/
def Obligations.JournalAndDebug : Prop :=
  JournalInstructions ∧ DebugInstructions
/-! ### The sampler's micro-instructions and events (R458-R469) -/

/-- R467, R468, R469: the register micro-instructions write d of the instance whose turn it is with the stated result, and
move its pc on. -/
def Sys2Proof.Machine.MicroRegisterResults : Prop :=
  ∀ (s : State) (c : SmpCtx) (x : MicroFields), s.Samples c →
    let writes (i : Instr) (v : Lane) : Prop := exec i s = .next (s.sampled (c.past.setReg x.d v))
    let a := c.reg x.a
    let b := c.reg x.b
    let b8 := if x.f = 1 then x.imm8.signExtend 32 else b
    let imm : BitVec 16 := x.b ++ x.f ++ x.imm8
    let rounds (v : FVal) : Lane := BitVec.ofNat 32 (fmtF32.ofVal .rne 0 false v)
    let va := fmtF32.value a.toNat
    let vb := fmtF32.value b.toNat
    writes (.smpMov x) a
    ∧ (x.a = 0 → writes (.smpLdi x) (imm.setWidth 32))
    ∧ (x.a ≠ 0 → writes (.smpLdi x) (imm ++ (c.reg x.d).setWidth 16))
    ∧ writes (.smpAdd x) (a + b8) ∧ writes (.smpSub x) (a - b8) ∧ writes (.smpMul x) (a * b8)
    ∧ writes (.smpFadd x) (rounds (va.add .rne vb)) ∧ writes (.smpFmul x) (rounds (va.mul vb))
    ∧ writes (.smpFexp x) (BitVec.ofNat 32 (fmtF32.exp .rne 0 va)) ∧ writes (.smpFmax x) (rounds (va.minMax true vb))
    ∧ writes (.smpCmp x) (
        let flt := match va.cmp vb with
          | some o => decide (o < 0)
          | none => false
        let fge := match va.cmp vb with
          | some o => decide (0 ≤ o)
          | none => false
        let holds : Bool :=
          if x.f = 0 then decide (a = b) else if x.f = 1 then decide (a ≠ b)
          else if x.f = 2 then decide (a.toInt < b.toInt) else if x.f = 3 then decide (b.toInt ≤ a.toInt)
          else if x.f = 4 then decide (a.toNat < b.toNat) else if x.f = 5 then decide (b.toNat ≤ a.toNat)
          else if x.f = 6 then flt else fge
        if holds then 1 else 0)
    ∧ writes (.smpCtrget x) (
        if x.f = 0 then c.key.setWidth 32 else if x.f = 1 then c.key.extractLsb' 32 32
        else if x.f = 2 then BitVec.ofNat 32 c.pos else if x.f = 3 then BitVec.ofNat 32 (c.pos / 2 ^ 32)
        else BitVec.ofNat 32 c.draw)

/-- R193, R466, R467, R468: BR, BRC and LOOP go to IMM8 or to the next micro-instruction; a target beyond the program fails with
SMP.PROG. -/
def Sys2Proof.Machine.MicroBranchResults : Prop :=
  ∀ (s : State) (c : SmpCtx) (x : MicroFields), s.Samples c →
    let t := x.imm8.toNat
    let a := c.reg x.a
    let fewer : Lane := if a = 0 then 0 else a - 1
    (t < c.words.length →
      exec (.smpBr x) s = .next (s.sampled { c.past with pc := t })
      ∧ exec (.smpBrc x) s
        = .next (s.sampled (if (if x.f = 1 then a = 0 else a ≠ 0) then { c.past with pc := t } else c.past))
      ∧ exec (.smpLoop x) s
        = .next (s.sampled (if fewer ≠ 0 then { c.past.setReg x.a fewer with pc := t } else c.past.setReg x.a fewer)))
    ∧ (c.words.length ≤ t → ∀ i ∈ [Instr.smpBr x, .smpBrc x, .smpLoop x], ∃ w, exec i s = .next (s.sampleFails c 0x1C2 w))

/-- Register and branch micro-instructions of the sampler: `MicroRegisterResults` and `MicroBranchResults` (R467, R468,
R469, R193, R466). -/
def Obligations.MicroResults : Prop :=
  MicroRegisterResults ∧ MicroBranchResults

/-- R464, R466, R469: CLD loads b candidates, each element an access of its own, and CST stores b whole candidates; a count of 0 does
nothing. A range beyond the entries fails with SMP.CAND and its first slot beyond before any effect; an address in no region fails with
GM.UNMAP, a misaligned one with GM.ALIGN, and a failing access with its own cause and address. An access that waits leaves the
micro-instruction to its next turn. -/
def Sys2Proof.Machine.MicroCandidateMemory : Prop :=
  ∀ (s : State) (c : SmpCtx) (x : MicroFields), s.Samples c →
    let die := s.smp.1
    let k := s.smp.2
    let b := (c.reg x.b).toNat
    let first := (c.reg x.d).toNat
    let va := (c.reg x.a).toNat + (c.reg (x.a + 1)).toNat * 2 ^ 32
    let o := { (c.past.op die (s.launch c.entry.slot).rmode) with xfail := c.xfail }
    let fails (i : Instr) (cause a : Nat) : Prop := exec i s = .next (s.sampleFails c cause (BitVec.ofNat 64 a))
    let waits (i : Instr) (u : State) : Prop := exec i s = .next ({ s with held := u.held, dev := u.dev }.tick 1)
    let ends (i : Instr) (u : State) (l : Nat) : Prop := exec i s = .next ((u.setSmp die k { c.past with l := l }).tick 1)
    (∀ i ∈ [Instr.smpCld x, .smpCst x],
      (b = 0 → exec i s = .next (s.sampled c.past)) ∧ (0 < b → c.count < first + b → fails i 0x1C3 (max first c.count)))
    ∧ (0 < b → first + b ≤ c.count → x.f.toNat % 4 ≠ 3 →
      let n := if x.f.toNat % 4 = 0 then 4 else if x.f.toNat % 4 = 1 then 2 else 8
      (regionOf va = none → fails (.smpCld x) 0x064 va)
      ∧ (regionOf va ≠ none → va % n ≠ 0 → fails (.smpCld x) 0x061 va)
      ∧ (regionOf va ≠ none → va % n = 0 → ∀ u : State,
        (∀ bs l, s.smpRead o ((List.range b).map (fun i => (va + n * i, n))) = (u, .ok bs l) →
          ends (.smpCld x) (u.onSampler die (fun m => m.setSlots c first ((List.range b).map (fun i =>
            candOf x.f.toNat (c.val 15) i (natOfBytes ((bs.drop (n * i)).take n)))))) l)
        ∧ (s.smpRead o ((List.range b).map (fun i => (va + n * i, n))) = (u, .pending) → waits (.smpCld x) u)
        ∧ (∀ cause a, s.smpRead o ((List.range b).map (fun i => (va + n * i, n))) = (u, .fail cause a) →
          fails (.smpCld x) cause a)))
    ∧ (0 < b → first + b ≤ c.count →
      let w (i : Nat) : Word := (s.sampler die).slot c (first + i)
      let parts := (List.range b).map (fun i => (va + 8 * i, bytesOfNat 8 (w i).toNat))
      (regionOf va = none → fails (.smpCst x) 0x064 va)
      ∧ (regionOf va ≠ none → va % 8 ≠ 0 → fails (.smpCst x) 0x061 va)
      ∧ (regionOf va ≠ none → va % 8 = 0 → ∀ u : State,
        (∀ l, s.smpWrite o none parts = (u, .ok () l) → ends (.smpCst x) u l)
        ∧ (s.smpWrite o none parts = (u, .pending) → waits (.smpCst x) u)
        ∧ (∀ cause a, s.smpWrite o none parts = (u, .fail cause a) → fails (.smpCst x) cause a)))

/-- R465, R466, R469: CSORTK orders a range by score, greatest first and NaN last, ties by ID and then by former slot; CSCAN makes
its prefix sums and writes the last one to d; CSEL writes the slot it selects, or a slot's score or ID; EMIT records a slot and the draw
index. An empty range, or one beyond the entries, fails with SMP.CAND, and a 17th EMIT with SMP.QUEUE. -/
def Sys2Proof.Machine.MicroCandidateRanges : Prop :=
  ∀ (s : State) (c : SmpCtx) (x : MicroFields), s.Samples c →
    let m := s.sampler s.smp.1
    let a := (c.reg x.a).toNat
    let b := (c.reg x.b).toNat
    let vs := (List.range b).map (fun j => m.slot c (a + j))
    let score (w : Word) : FVal := fmtF32.value (w.toNat / 2 ^ 32)
    let puts (c1 : SmpCtx) (ws : List Word) : State := State.sampled (s.onSampler s.smp.1 (fun m => m.setSlots c a ws)) c1
    let sets (i : Instr) (v : Nat) : Prop := exec i s = .next (s.sampled (c.past.setReg x.d (BitVec.ofNat 32 v)))
    let fails (i : Instr) (cause n : Nat) : Prop := exec i s = .next (s.sampleFails c cause (BitVec.ofNat 64 n))
    let before (p q : Nat × Word) : Prop :=
      ((score p.2).isNan = false ∧ (score q.2).isNan = true) ∨ (∃ r, (score p.2).cmp (score q.2) = some r ∧ 0 < r)
      ∨ (((score p.2).cmp (score q.2) = some 0 ∨ ((score p.2).isNan = true ∧ (score q.2).isNan = true))
        ∧ (p.2.toNat % 2 ^ 32 < q.2.toNat % 2 ^ 32 ∨ (p.2.toNat % 2 ^ 32 = q.2.toNat % 2 ^ 32 ∧ p.1 ≤ q.1)))
    (∀ i ∈ [Instr.smpCsortk x, .smpCscan x],
      (b = 0 → fails i 0x1C3 a) ∧ (0 < b → c.count < a + b → fails i 0x1C3 (max a c.count)))
    ∧ (0 < b → a + b ≤ c.count →
      (∃ order : List (Nat × Word), exec (.smpCsortk x) s = .next (puts c.past (order.map (·.2)))
        ∧ order.Perm ((List.range b).zip vs) ∧ order.Pairwise before)
      ∧ (let raw := vs.map (fun w => w.toNat / 2 ^ 32)
        let sums := prefixSums none (if x.f = 1 then expScores raw else raw)
        exec (.smpCscan x) s = .next (puts (c.past.setReg x.d (BitVec.ofNat 32 (sums.getLastD 0)))
          ((sums.zip vs).map (fun e => BitVec.ofNat 64 (e.1 % 2 ^ 32 * 2 ^ 32 + e.2.toNat % 2 ^ 32))))))
    ∧ (x.f.toNat < 3 → b = 0 → fails (.smpCsel x) 0x1C3 a)
    ∧ (x.f.toNat < 3 → 0 < b → c.count < a + b → fails (.smpCsel x) 0x1C3 (max a c.count))
    ∧ (x.f.toNat < 3 → 0 < b → a + b ≤ c.count → sets (.smpCsel x) (selectSlot x.f.toNat (c.val x.d) a (vs.map score)))
    ∧ (x.f = 3 ∨ x.f = 4 → c.count ≤ a → fails (.smpCsel x) 0x1C3 a)
    ∧ (x.f = 3 → a < c.count → sets (.smpCsel x) ((m.slot c a).toNat / 2 ^ 32))
    ∧ (x.f = 4 → a < c.count → sets (.smpCsel x) ((m.slot c a).toNat % 2 ^ 32))
    ∧ (c.count ≤ a → fails (.smpEmit x) 0x1C3 a)
    ∧ (a < c.count → 16 ≤ c.emits.length → fails (.smpEmit x) 0x1C5 (c.emits.length + 1))
    ∧ (a < c.count → c.emits.length < 16 → exec (.smpEmit x) s = .next (s.sampled { c.past with emits := c.emits ++ [(
        BitVec.ofNat 32 ((m.slot c a).toNat / 2 ^ 32), BitVec.ofNat 32 ((m.slot c a).toNat % 2 ^ 32), c.draw)] }))

/-- Candidate micro-instructions of the sampler: `MicroCandidateMemory` and `MicroCandidateRanges` (R464, R465, R466, R469). -/
def Obligations.MicroCandidateResults : Prop :=
  MicroCandidateMemory ∧ MicroCandidateRanges


/-- R458, R466, R469: RNG takes one draw of the instance's generator, whole or as a fraction, and fails with SMP.GEN where none is left;
CTRSET sets the key, the position or the draw index, and fails with SMP.GEN on a value out of range; FAULT fails with register a. -/
def Sys2Proof.Machine.MicroGenerator : Prop :=
  ∀ (s : State) (c : SmpCtx) (x : MicroFields), s.Samples c →
    let out := simoom c.key c.pos c.draw
    let a := c.reg x.a
    let b := c.reg x.b
    let genFails (i : Instr) : Prop := exec i s = .next (s.sampleFails c 0x1C1 (BitVec.ofNat 64 c.draw))
    (c.draw < 2 ^ 24 - 1 →
      (x.f = 0 → exec (.smpRng x) s = .next (s.sampled ({ c.past with draw := c.draw + 1 }.setReg x.d out)))
      ∧ (x.f ≠ 0 → exec (.smpRng x) s = .next (s.sampled ({ c.past with draw := c.draw + 1 }.setReg x.d
          (BitVec.ofNat 32 (fmtF32.ofVal .rne 0 false (.fin false (out.toNat / 256) (-24))))))))
    ∧ (2 ^ 24 - 1 ≤ c.draw → genFails (.smpRng x))
    ∧ (x.f = 0 → exec (.smpCtrset x) s = .next (s.sampled { c.past with key := b ++ a }))
    ∧ (x.f = 1 → b.toNat < 256 →
      exec (.smpCtrset x) s = .next (s.sampled { c.past with pos := b.toNat * 2 ^ 32 + a.toNat, draw := 0 }))
    ∧ (x.f = 1 → 256 ≤ b.toNat → genFails (.smpCtrset x))
    ∧ (x.f = 2 → a.toNat < 2 ^ 24 → exec (.smpCtrset x) s = .next (s.sampled { c.past with draw := a.toNat }))
    ∧ (x.f = 2 → 2 ^ 24 ≤ a.toNat → genFails (.smpCtrset x))
    ∧ exec (.smpFault x) s = .next (s.sampleFails c 0x1C4 (a.setWidth 64))

/-- R464, R465, R466: HALT releases and completes its instance with P. One without a stream writes its entries from arg2 on (none may
be recorded where arg2 is 0); one whose stream runs on writes them behind the queue's tail, and STEPS, GPOS and DRAW move on in one
descriptor step; one whose stream was pruned or retired writes nothing. Entries that do not fit fail with SMP.QUEUE, a clock past
the limit with RACE.CLOCK, a failing write with its own cause; a write that waits leaves HALT to its next turn. -/
def Sys2Proof.Machine.MicroHalt : Prop :=
  ∀ (s : State) (c : SmpCtx) (x : MicroFields), s.Samples c →
    let die := s.smp.1
    let k := s.smp.2
    let c1 := { c.past with l := c.l + 1 }
    let o := { (c1.op die (s.launch c.entry.slot).rmode) with xfail := c.xfail }
    let halts (t : State) : Prop := exec (.smpHalt x) s = .next (t.tick 1)
    let fails (cause : Nat) (w : Word) : Prop := exec (.smpHalt x) s = .next (s.sampleFails c cause w)
    let clockFails : Prop := ∃ w, exec (.smpHalt x) s = .next ({ s with free := s.free + 1 }.sampleFails c 0x0A6 w)
    let completes (t : State) (l : Nat) : Prop := halts ((t.freeSmp die k { c1 with l := l }).engineDone die c.ticket c.l)
    let writes (f : Nat → Nat) (fin : State → Nat → State × Nat) : Prop := ∀ u : State,
      (∀ l, s.smpWrite o (some c.l) (c1.entryParts f) = (u, .ok () l) →
        ((fin u l).2 < clockLimit → completes (fin u l).1 (fin u l).2) ∧ (clockLimit ≤ (fin u l).2 → clockFails))
      ∧ (s.smpWrite o (some c.l) (c1.entryParts f) = (u, .pending) → halts { s with held := u.held, dev := u.dev })
      ∧ (∀ cause a, s.smpWrite o (some c.l) (c1.entryParts f) = (u, .fail cause a) → fails cause (BitVec.ofNat 64 a))
    let base := (c.entry.record.kd 5).toNat
    (clockLimit ≤ c.l + 1 → clockFails)
    ∧ (c.l + 1 < clockLimit → c.entry.stream = none →
      (base = 0 → c.emits ≠ [] → fails 0x1C5 (BitVec.ofNat 64 c.emits.length))
      ∧ (base ≠ 0 ∨ c.emits = [] → writes (fun e => (base + 16 * e) % 2 ^ 64) (fun t l => (t, l))))
    ∧ (c.l + 1 < clockLimit → ∀ h : Word, c.entry.stream = some h →
      let n := h.toNat % 2 ^ 24
      let d := s.stream n
      let lives : Prop := d.gen = h.toNat / 2 ^ 24 % 256 ∧ d.state = .running
      (¬ lives → completes s (c.l + 1))
      ∧ (lives → 2 ^ d.qlog < d.held + c.emits.length → fails 0x1C5 (BitVec.ofNat 64 c.emits.length))
      ∧ (lives → d.held + c.emits.length ≤ 2 ^ d.qlog → writes (fun e => d.entryAddr (d.qtail + e)) (fun t l =>
        ((t.placeDesc (unitAgent 4 die) l n).1.onStream n (fun d => { d.stamp c.l with
          qtail := (d.qtail + c.emits.length) % 2 ^ 24, steps := (d.steps + 1) % 2 ^ 32, gpos := c.pos, draw := c.draw,
          hzn := d.hzn || (decide (d.horizon ≠ 0) && decide (d.horizon ≤ (d.steps + 1) % 2 ^ 32)) }),
         (t.placeDesc (unitAgent 4 die) l n).2))))


/-- R461, R462, R463, R466: SAMPLER_DISPATCH reads the program of the lowest context that has read none, and gives it its words and
registers; an instance of no candidates fails with SMP.CAND, one whose program is misaligned or whose header is none with SMP.PROG, a
failing read with its own cause and address; a read that waits leaves the rest to the next dispatch, and with no such context
nothing happens. SAMPLER_TIMEOUT fails an instance that has run 2^20 micro-instructions, and leaves any other. -/
def Sys2Proof.Machine.SamplerEvents : Prop :=
  ∀ (s : State) (die k : Nat), die < 4 → k < 256 →
    ((∀ j c, j < 256 → s.smpCtx die j = some c → c.words ≠ []) → exec (.samplerDispatch die) s = .next s)
    ∧ (∀ c : SmpCtx, s.smpCtx die k = some c → c.words = [] → (∀ j, j < k → ∀ d, s.smpCtx die j = some d → d.words ≠ []) →
      let does (t : State) : Prop := exec (.samplerDispatch die) s = .next t
      let o := c.op die (s.launch c.entry.slot).rmode
      let ncand := field (c.entry.record.kd 2) 0 16
      let hd := s.smpRead o [(c.prog.toNat, 8)]
      (ncand = 0 → does (s.smpFail die k c 0x1C3 0))
      ∧ (ncand ≠ 0 → c.prog.toNat % 8 ≠ 0 → ∃ w, does ({ s with free := s.free + 1 }.smpFail die k c 0x1C2 w))
      ∧ (ncand ≠ 0 → c.prog.toNat % 8 = 0 → ∀ u : State,
        (hd = (u, .pending) → does u)
        ∧ (∀ cause a, hd = (u, .fail cause a) → does (u.smpFail die k c cause (BitVec.ofNat 64 a)))
        ∧ ∀ bs l, hd = (u, .ok bs l) →
          let v := natOfBytes bs
          let code := u.smpRead { o with l := l } ((List.range v).map (fun i => (c.prog.toNat + 8 + 4 * i, 4)))
          (v = 0 ∨ 256 < v → does (u.smpFail die k { c with l := l } 0x1C2 (BitVec.ofNat 64 v)))
          ∧ (0 < v → v ≤ 256 → ∀ t : State,
            (code = (t, .pending) → does { s with held := t.held, dev := t.dev })
            ∧ (∀ cause a, code = (t, .fail cause a) → does (t.smpFail die k { c with l := l } cause (BitVec.ofNat 64 a)))
            ∧ ∀ ws l2, code = (t, .ok ws l2) → does (t.setSmp die k (t.smpStarted c (lanesOf ws) l2)))))
    ∧ (∀ c : SmpCtx, s.smpCtx die k = some c → 2 ^ 20 ≤ c.ran →
      exec (.samplerTimeout die k) s = .next (s.smpFail die k c 0x1C6 0))
    ∧ (∀ c : SmpCtx, s.smpCtx die k = some c → c.ran < 2 ^ 20 → exec (.samplerTimeout die k) s = .next s)
    ∧ (s.smpCtx die k = none → exec (.samplerTimeout die k) s = .next s)


/-- The sampler: its generator, HALT, dispatch and timeout: `MicroGenerator`, `MicroHalt` and `SamplerEvents` (R458, R461, R462, R463,
R464, R465, R466, R469). -/
def Obligations.SamplerRuns : Prop :=
  MicroGenerator ∧ MicroHalt ∧ SamplerEvents

/-! ### What the host does (R100-R113, R279, R334, R353, R362) -/

/-- R109, R110, R111, R347, R415: GO of a slot that is not active, with READY and module state 0, an owner whose key is loaded and legal
registers, starts the launch: the next epoch, the registers latched, its roots carrying the host clock, which moves past it, and the
owner's table as memory then holds it; else GOLOST, or an end at once with code 0x12 or 0x13; either clears UTRAP (R415). STOP of a running launch stops it with code 0x10; KILL of an active one with 0x11. -/
def Sys2Proof.Machine.LaunchControl : Prop :=
  ∀ (s : State) (slot : Nat), slot < 64 →
    let l := s.launch slot
    let active : Prop := l.state = .running ∨ l.state = .stopping
    let owner := l.lctl.toNat % 64
    let ready : Prop := s.dev.ready = true ∧ s.dev.tripped = false ∧ s.dev.pwrCur = 0
    let s0 := s.onLaunch slot (fun l => { l with utcause := 0, utepc := 0, utval := 0 })
    ((active ∨ ¬ ready) → exec (.lgoGo slot) s = .next (s.onLaunch slot (fun l => { l with golost := true })))
    ∧ (¬ active → ready → (owner = 0 ∨ (s.owner owner).loaded = false) →
      exec (.lgoGo slot) s = .next (s0.endLaunch slot 0x12 .error 0 l.lcomp (l.lctl.getLsbD 6)))
    ∧ (¬ active → ready → owner ≠ 0 → (s.owner owner).loaded = true → l.regsBad = true →
      exec (.lgoGo slot) s = .next (s0.endLaunch slot 0x13 .error 0 l.lcomp (l.lctl.getLsbD 6)))
    ∧ (¬ active → ready → owner ≠ 0 → (s.owner owner).loaded = true → l.regsBad = false → ∃ t : State,
      exec (.lgoGo slot) s = .next t ∧ t.dev.epoch = (s.dev.epoch + 1) % 256 ∧ t.mem = s.mem ∧ t.cores = s.cores
      ∧ (∀ n, n ≠ slot → t.launch n = s.launch n) ∧ (t.launch slot).state = .running ∧ (t.launch slot).epoch = t.dev.epoch
      ∧ (t.launch slot).graph = l.lgraph ∧ (t.launch slot).owner = owner ∧ (t.launch slot).rmode = l.lctl.getLsbD 7
      ∧ (t.launch slot).comp = l.lcomp ∧ (t.launch slot).stage = l.lstage ∧ (t.launch slot).vals = l.params
      ∧ (t.launch slot).start = s.clk ∧ (t.launch slot).hostP = s.hostClk ∧ t.hostClk = s.hostClk + 1 ∧ (t.owner owner).table = s.mem
      ∧ (t.launch slot).edges = [{ src := 0, node := 0, p := s.hostClk }] ∧ (t.launch slot).utcause = 0)
    ∧ exec (.lgoStop slot) s = .next (if l.state = .running then s.stopLaunch slot 0x10 .stopped else s)
    ∧ (active → exec (.lgoKill slot) s = .next (s.killLaunch slot))
    ∧ (¬ active → exec (.lgoKill slot) s = .next s)

/-- R109: stopping a running launch sets its state, code and end state and leaves every other launch and all of memory as they
were; while it stops, a kill replaces the code (R109), and an end in error one that was to leave it stopped (R415, R407); nothing else does. -/
def Sys2Proof.Machine.StoppingLaunches : Prop :=
  ∀ (s : State) (slot code : Nat) (as_ : LState),
    let t := s.stopLaunch slot code as_
    ((s.launch slot).state = .running →
      (t.launch slot).state = .stopping ∧ (t.launch slot).ecode = code ∧ (t.launch slot).stopAs = as_)
    ∧ ((s.launch slot).state = .stopping → code ≠ 0x11 → as_ = .error → (s.launch slot).stopAs ≠ .error →
      t = s.onLaunch slot (fun l => { l with ecode := code, stopAs := .error }))
    ∧ ((s.launch slot).state = .stopping → code ≠ 0x11 → as_ ≠ .error ∨ (s.launch slot).stopAs = .error → t = s)
    ∧ ((s.launch slot).state = .stopping → code = 0x11 → (t.launch slot).ecode = 0x11 ∧ (t.launch slot).stopAs = as_)
    ∧ ((s.launch slot).state ≠ .running → (s.launch slot).state ≠ .stopping → t = s)
    ∧ t.mem = s.mem ∧ ∀ n, n ≠ slot → t.launch n = s.launch n

/-- R100, R102, R107-R109, R279: every register write completes. A naturally aligned one writes the bits it covers: the launch registers
and parameters take them, whole or a half; LGO acts; an owner's quota takes its low half; a slot of a table is staged; the matrix
governor and the link map's base keep what they can hold. A misaligned write, or one to an offset beyond the registers, is ignored. -/
def Sys2Proof.Machine.RegisterWrites : Prop :=
  ∀ (s : State) (v : BitVec 64),
    let wide (off : Nat) (t : State) : Prop := exec (.registerWrite off true v) s = .next t
    let half (off : Nat) (t : State) : Prop := exec (.registerWrite off false v) s = .next t
    (∀ off w, ∃ t, exec (.registerWrite off w v) s = .next t)
    ∧ (∀ slot, slot < 64 →
      let base := 0x100000 + 256 * slot
      wide base (s.onLaunch slot (fun l => { l with lgraph := v }))
      ∧ wide (base + 8) (s.onLaunch slot (fun l => { l with lctl := v &&& 0xFF }))
      ∧ wide (base + 0x18) (s.lgo slot (v.toNat % 8))
      ∧ wide (base + 0xA0) (s.onLaunch slot (fun l => { l with lcomp := v }))
      ∧ wide (base + 0xB0) (s.onLaunch slot (fun l => { l with lstage := v }))
      ∧ ∀ i, i < 16 →
        let old := ((s.launch slot).params.get 0 i).toNat
        wide (base + 0x20 + 8 * i) (s.onLaunch slot (fun l => { l with params := l.params.set i v }))
        ∧ half (base + 0x20 + 8 * i) (s.onLaunch slot (fun l => { l with
          params := l.params.set i (BitVec.ofNat 64 (old / 2 ^ 32 * 2 ^ 32 + v.toNat % 2 ^ 32)) }))
        ∧ half (base + 0x24 + 8 * i) (s.onLaunch slot (fun l => { l with
          params := l.params.set i (BitVec.ofNat 64 (v.toNat % 2 ^ 32 * 2 ^ 32 + old % 2 ^ 32)) })))
    ∧ (∀ n, 0 < n → n < 64 → wide (0x200000 + 64 * n + 8) (s.onOwner n (fun x => { x with quota := v.setWidth 32 })))
    ∧ (∀ c i, c < 512 → i < 4 → wide (0x8000 + 64 * c + 8 * i) (s.onChan c (fun t => { t with
        staged := t.staged.set i (v &&& 0xC7C7C7C7C7C7C7C7) })))
    ∧ wide 0x40 { s with dev := { s.dev with mgov := max 1 (min 256 (v.toNat % 512)) } }
    ∧ wide 0xA0 { s with dev := { s.dev with lmbase := v &&& 0x00FFFFFFFFFE0000 } }
    ∧ (∀ off, off % 8 ≠ 0 → wide off s) ∧ (∀ off, off % 4 ≠ 0 → half off s)
    ∧ (∀ off, 0x400000 ≤ off → wide off s ∧ half off s)


/-- R113, R279, R362: CLKRST with no active launch sets every clock and the home clocks of every line to 0, and does nothing
while one is active; COMMIT stages a table of 1 to 8 write slots, or sets ERR; the switch at a cycle's start, slot 0, makes a committed table
live, and changes nothing where none is committed or the cycle has not ended. XLRESOLVE of a fault that was not reported changes
nothing; of a reported one it takes the fault from the list, tells each waiter if the host failed it, and lets the transfers go on. -/
def Sys2Proof.Machine.HostConfiguration : Prop :=
  ∀ (s : State),
    ((∀ e ∈ s.launches, e.2.state ≠ .running ∧ e.2.state ≠ .stopping) →
      ∃ t : State, exec .clkrst s = .next t ∧ t.hostClk = 0 ∧ t.dev.clkmax = 0 ∧ t.mem = s.mem
        ∧ (∀ n, (t.line n).wts = 0 ∧ (t.line n).rts = 0) ∧ (∀ n, (t.stream n).clock = 0)
        ∧ ∀ g k, k < 13 → (t.ctx g k).l = 0 ∧ (t.ctx g k).h = 0)
    ∧ ((∃ e ∈ s.launches, e.2.state = .running ∨ e.2.state = .stopping) → exec .clkrst s = .next s)
    ∧ (∀ c, c < 512 →
      let t := s.chan c
      let w := ((List.range 32).filter (fun i => (t.staged.get 0 (i / 8)).toNat / 2 ^ (8 * (i % 8)) % 256 / 64 = 1)).length
      let commits (u : SlotTable) : Prop := exec (.slotctlCommit c) s = .next (s.onChan c (fun _ => u))
      let switches (u : SlotTable) : Prop := exec (.slotTableSwitch c) s = .next (s.onChan c (fun _ => u))
      (1 ≤ w → w ≤ 8 → commits { t with next := some t.staged, err := false })
      ∧ (w < 1 ∨ 8 < w → commits { t with err := true })
      ∧ (∀ x, t.next = some x → t.slot = 0 → switches { t with live := x, next := none })
      ∧ (t.next = none ∨ t.slot ≠ 0 → switches t))
    ∧ (∀ (tag : BitVec 16) (fail : Bool),
      ((∀ f ∈ s.held, f.posted = true → f.tag ≠ tag.toNat) → exec (.xlresolve tag fail) s = .next s)
      ∧ ∀ f, s.held.find? (fun f => f.posted && decide (f.tag = tag.toNat)) = some f →
        let t := { s with held := s.held.erase f }
        let again (u : State) : State :=
          let v := u.releaseNodes f.owner f.page false
          (if f.waiters.any (fun w => decide (w.toNat / 2 ^ 20 = 1)) then v.placeCopies f.owner else v).startSends
        exec (.xlresolve tag false) s = .next (again t)
        ∧ exec (.xlresolve tag true) s = .next (again (f.waiters.foldl (fun t w => t.failFor f w) t)))


/-- Register writes of the host, clock reset, slot tables, translation answers: `RegisterWrites` and `HostConfiguration`
(R100, R102, R107, R108, R109, R279, R113, R362). -/
def Obligations.HostWrites : Prop :=
  RegisterWrites ∧ HostConfiguration

/-- R11, R103, R470, R275, R279, R328, R518: module reset boots the image that flash holds, or the event's: a good one sets READY and HBMOK, a
lease of 16 to 1,024 (64 with firmware 2.1) and tables of 1 to 8 write slots (4 with it), with no core or launch holding anything and the
reference sampler program at the address that its release gives (log 6); a
failing step leaves its number in BOOTERR, and recovery. After power loss the part is not ready, and its counters are those of flash. An
image that verifies goes into flash and may bring a new attestation key; any other is refused. -/
def Sys2Proof.Machine.BootEvents : Prop :=
  ∀ (s : State) (img : BootImage),
    let b : BootImage := match s.dev.image with
      | some x => { x with readable := img.readable, hbmTrains := img.hbmTrains }
      | none => img
    let answers (n : Nat) : State := { s with dev := { s.dev with answer := n } }
    (b.readable = true → b.ecdsaOk = true → b.lmsOk = true → Config.fusedMinimum ≤ b.secVer → b.hbmTrains = true →
      ∃ t : State, exec (.moduleReset img) s = .next t ∧ t.dev.ready = true ∧ t.dev.hbmok = true ∧ t.dev.recovery = false
        ∧ 16 ≤ t.dev.lease ∧ t.dev.lease ≤ 1024 ∧ t.dev.fwver = b.fwver ∧ t.dev.image = s.dev.image
        ∧ t.cores = [] ∧ t.launches = [] ∧ t.lines = []
        ∧ (s.mem.wf = true → t.mem.bytes (hbmKey (Config.samplerAddress b.fwver).toNat) 128 = referenceProgram)
        ∧ (∀ c, c < 512 → 1 ≤ writeSlots (t.chan c).live ∧ writeSlots (t.chan c).live ≤ 8)
        ∧ (b.fwver.toNat / 65536 = 0x0201 → t.dev.lease = 64 ∧ ∀ c, c < 512 → writeSlots (t.chan c).live = 4))
    ∧ (∀ n, bootFails b = some n → ∃ t : State, exec (.moduleReset img) s = .next t ∧ t.dev.ready = false ∧ t.dev.recovery = true
        ∧ t.dev.booterr = n ∧ t.cores = [] ∧ t.launches = [])
    ∧ (∃ t : State, exec .powerLoss s = .next t ∧ t.dev.life = s.dev.flash ∧ t.dev.ready = false ∧ t.cores = [] ∧ t.launches = [])
    ∧ (let verifies : Prop := img.readable = true ∧ img.ecdsaOk = true ∧ img.lmsOk = true ∧ Config.fusedMinimum ≤ img.secVer
      (verifies → exec (.firmwareImageInstall img) s = .next { s with dev := { s.dev with
        answer := 1, image := some img, lmsLeft := if img.newLmsKey then 1048576 else s.dev.lmsLeft,
        lmslow := if img.newLmsKey then false else s.dev.lmslow } })
      ∧ (¬ verifies → exec (.firmwareImageInstall img) s = .next (answers 3)))

/-- R104, R106: a key loads for owners 1 to 63 once READY, while attestations are left, else the service refuses; it unloads when no
launch and no reservation needs it, else the service is busy, and then every byte outside the lines written under it is as before. Each
attestation takes one of the key's and makes a report of the firmware version with both signatures; with none left the service
refuses. -/
def Sys2Proof.Machine.OwnerServices : Prop :=
  ∀ (s : State), s.mem.wf = true →
    let answers (n : Nat) : State := { s with dev := { s.dev with answer := n } }
    (∀ (o : Nat) (root : BitVec 64), o < 64 →
      let busy : Prop := ∃ e ∈ s.launches, (e.2.state = .running ∨ e.2.state = .stopping) ∧ (e.2.owner = o ∨ e.2.lctl.toNat % 64 = o)
      (o ≠ 0 → s.dev.ready = true → s.dev.lmsLeft ≠ 0 →
        exec (.ownerKeyLoad o root) s = .next { (s.onOwner o (fun x => { x with loaded := true, root := if x.loaded then x.root else root })) with
          dev := { s.dev with answer := 1 } })
      ∧ (o = 0 ∨ s.dev.ready = false ∨ s.dev.lmsLeft = 0 → exec (.ownerKeyLoad o root) s = .next (answers 3))
      ∧ (o = 0 → exec (.ownerKeyUnload o) s = .next (answers 3))
      ∧ (o ≠ 0 → busy ∨ (s.owner o).resv ≠ 0 → exec (.ownerKeyUnload o) s = .next (answers 2))
      ∧ (o ≠ 0 → ¬ busy → (s.owner o).resv = 0 → ∃ t : State, exec (.ownerKeyUnload o) s = .next t
        ∧ t.dev = { s.dev with answer := 1 } ∧ (t.owner o).loaded = false ∧ (t.owner o).root = 0 ∧ (∀ g k, t.ctx g k = s.ctx g k)
        ∧ t.launches = s.launches ∧ (∀ n, n ≠ o → t.owner n = s.owner n)
        ∧ ∀ a, (s.keyMask o (a / 64)).getLsbD (a % 64) = false → t.mem.byte a = s.mem.byte a))
    ∧ (s.dev.lmsLeft ≠ 0 → ∃ e l : Word, exec .attestationRequest s = .next { s with free := s.free + 2, dev := { s.dev with
        answer := 1, report := some { fwver := s.dev.fwver, ecdsa := e, lms := l }, lmsLeft := s.dev.lmsLeft - 1,
        lmslow := decide (s.dev.lmsLeft - 1 < 65536) } })
    ∧ (s.dev.lmsLeft = 0 → exec .attestationRequest s = .next (answers 3))


/-- R99, R102, R334, R353, R361, R512: a host access of 1 to 64 bytes within a line that the decoders expose, through a decoder whose
owner is loaded, to a line that no engine holds, is an access of the host at the line's home; a read gives the line's bytes, a write stores
them. One not exposed does nothing; state 2 and an owner not loaded answer a read with an error and drop a write, which counter 71
counts in state 2; a held line keeps the access waiting, and so does a channel that has no slot for it; a write is complete once the array
has it; an exhausted clock is a machine check. -/
def Sys2Proof.Machine.HostMemoryAccesses : Prop :=
  ∀ (s : State) (dec pa n : Nat) (bs : List Byte), dec < 8 →
    let key := hbmKey pa
    let owner := s.dev.hdmown.toNat / 2 ^ (8 * dec) % 64
    let off : Prop := s.dev.tripped = true ∨ s.dev.pwrCur = 2
    let loaded : Prop := (s.owner owner).loaded = true
    let within (n : Nat) : Prop := 0 < n ∧ pa % 64 + n ≤ 64 ∧ hdmExposed pa n = true
    let line := key / 64
    let held (cls : Nat) : Prop := s.engineHolds line = true ∨ s.starvesFor cls owner line = true
    let reads (t : State) : Prop := exec (.hostCxlMemRead dec pa n) s = .next t
    let writes (t : State) : Prop := exec (.hostCxlMemWrite dec pa bs) s = .next t
    let bad (t : State) : State := { t with dev := { t.dev with hostData := [], hostBad := true } }
    (¬ within n → reads s) ∧ (¬ within bs.length → writes s)
    ∧ (within n → off ∨ ¬ loaded → reads (bad s))
    ∧ (within bs.length → off → writes (s.countLife 71 1)) ∧ (within bs.length → ¬ off → ¬ loaded → writes s)
    ∧ (within n → ¬ off → loaded → held 0 → reads s) ∧ (within bs.length → ¬ off → loaded → held 1 → writes s)
    ∧ (within n → ¬ off → loaded → ¬ held 0 →
      (s.hostAccess key n false = none → reads (bad (s.hostClockOut pa)))
      ∧ ∀ t, s.hostAccess key n false = some t → reads { t with dev := { t.dev with
        hostData := t.mem.bytes key n, hostBad := t.poison.contains (key / 64) } })
    ∧ (within bs.length → ¬ off → loaded → ¬ held 1 →
      (s.hostAccess key bs.length true = none → writes (s.hostClockOut pa))
      ∧ ∀ t, s.hostAccess key bs.length true = some t → (
        let u := t.engineWrite line (byteTable key bs) owner false
        writes { u with array := u.array.filter (fun w => !w.old.any (fun b => decide (b.1 / 64 = line))) }))

/-- R99, R334, R361: a snoop is a host access to a whole line of host memory, and leaves it with the host when the host will write it; a
line an engine holds keeps it waiting. A response of 64 bytes brings back the oldest line asked for; one without data completes
the oldest write on its way to the host; a response to nothing does nothing. -/
def Sys2Proof.Machine.HostCacheEvents : Prop :=
  ∀ (s : State),
    (∀ (pa : Nat) (write : Bool),
      let line := hostKey pa / 64
      let snoops (t : State) : Prop := exec (.cxlCacheSnoop pa write) s = .next t
      (2 ^ 64 ≤ pa ∨ s.engineHolds line = true → snoops s)
      ∧ (pa < 2 ^ 64 → s.engineHolds line = false →
        (s.hostAccess (line * 64) 64 write = none → snoops (s.hostClockOut pa))
        ∧ ∀ t, s.hostAccess (line * 64) 64 write = some t →
          snoops (if write then { t with lines := t.lines.set line { t.line line with held := some .host } } else t)))
    ∧ ∀ (bs : List Byte),
      let answers (t : State) : Prop := exec (.cxlCacheResponse bs) s = .next t
      (bs.length = 64 →
        (s.dev.hostReqs = [] → answers s)
        ∧ ∀ line r, s.dev.hostReqs = line :: r → answers { s with
          mem := s.mem.putBytes (line * 64) bs, lines := s.lines.set line { s.line line with held := none },
          dev := { s.dev with hostReqs := r } })
      ∧ (bs.length ≠ 64 →
        ((∀ w ∈ s.array, w.chan ≠ 516) → answers s)
        ∧ ∀ w, s.array.find? (fun w => w.chan = 516) = some w → answers { s with array := s.array.erase w })


/-- Boot, owners, attestation, and host accesses to memory: `BootEvents`, `OwnerServices`, `HostMemoryAccesses` and `HostCacheEvents`. -/
def Obligations.BootAndHostMemory : Prop :=
  BootEvents ∧ OwnerServices ∧ HostMemoryAccesses ∧ HostCacheEvents

/-! ### Power, temperature, errors (R407, R511-R518) -/

/-- R512, R513: CGATE with a cluster at work, or to which a dispatch can be taken in the same clk, which then comes first, clears its bit
and sets ERR; else it gates the cluster, whose cores lose their state and
local memory; a cluster that is gated or asked for already only keeps its bit. A bit that is cleared lets the cluster come up once that is
done, in state 0. -/
def Sys2Proof.Machine.ClusterGating : Prop :=
  ∀ (s : State) (cl : Nat), cl < 512 →
    let asked : Prop := s.dev.cgate.contains cl = true
    let gated : Prop := s.dev.gated.contains cl = true
    (asked → exec (.cgateRequest cl true) s = .next s)
    ∧ (¬ asked → gated → exec (.cgateRequest cl true) s = .next { s with dev := { s.dev with cgate := cl :: s.dev.cgate } })
    ∧ (¬ asked → ¬ gated → s.clusterBusy cl = true →
      exec (.cgateRequest cl true) s = .next { s with dev := { s.dev with cgerr := true } })
    ∧ (¬ asked → ¬ gated → s.clusterBusy cl = false → (s.dispatchFirst cl).clusterBusy cl = true →
      exec (.cgateRequest cl true) s = .next { s.dispatchFirst cl with dev := { (s.dispatchFirst cl).dev with cgerr := true } })
    ∧ (¬ asked → ¬ gated → s.clusterBusy cl = false → (s.dispatchFirst cl).clusterBusy cl = false → ∃ t : State,
      exec (.cgateRequest cl true) s = .next t ∧ t.dev.cgate.contains cl = true ∧ t.dev.gated.contains cl = true
      ∧ (∀ g, clusterOf g = cl → g < 40960 → (t.core g).ctxs = [] ∧ (t.core g).wlq = [] ∧ (t.core g).cway = [])
      ∧ t.engine cl = {} ∧ ∀ i, i < 80 * 65536 → t.mem.byte (localKey (cl * 80) 0 + i) = 0)
    ∧ exec (.cgateRequest cl false) s = .next { s with dev := { s.dev with cgate := s.dev.cgate.filter (· ≠ cl) } }
    ∧ (s.dev.tripped = false → s.dev.pwrCur = 0 → ¬ asked →
      exec (.clusterUngateDone cl) s = .next { s with dev := { s.dev with gated := s.dev.gated.filter (· ≠ cl) } })
    ∧ (s.dev.tripped = true ∨ s.dev.pwrCur ≠ 0 ∨ asked → exec (.clusterUngateDone cl) s = .next s)

/-- R511, R512, R514: a request for the current state is ignored; one for another makes the part busy and clears ERR, but 3, and 1 or 2 while a launch is
under way or suspended, are refused with ERR. A tripped part takes only 0, and only once it has cooled by 10 degrees. A transition that is
done sets CURRENT and sends vector 67; in states 1 and 2 every cluster is gated. A launch that has started meanwhile delays it. -/
def Sys2Proof.Machine.PowerRequests : Prop :=
  ∀ (s : State) (target : BitVec 2),
    let takes (x : State) (t : State) : Prop :=
      (target.toNat = x.dev.pwrCur → t = x)
      ∧ (target.toNat ≠ x.dev.pwrCur → target ≠ 3 → (target = 0 ∨ x.quiescent = true) →
        t = { x with dev := { x.dev with pwrTarget := target.toNat, pwrBusy := true, pwrErr := false } })
      ∧ (target.toNat ≠ x.dev.pwrCur → (target = 3 ∨ (target ≠ 0 ∧ x.quiescent = false)) →
        t = { x with dev := { x.dev with pwrErr := true } })
    let cool : Prop := target = 0 ∧ s.dev.tj ≤ (s.dev.trip - 10) * 8
    let asks (x : State) : Prop := ∃ t, exec (.pwrctlTarget target) s = .next t ∧ takes x t
    (s.dev.tripped = false → asks s)
    ∧ (s.dev.tripped = true → cool → asks { s with dev := { s.dev with tripped := false } })
    ∧ (s.dev.tripped = true → ¬ cool → exec (.pwrctlTarget target) s = .next s)
    ∧ (s.dev.pwrBusy = true → s.dev.pwrTarget = 0 →
      exec .powerTransitionDone s = .next (State.send { s with dev := { s.dev with pwrCur := 0, pwrBusy := false } } 67))
    ∧ (s.dev.pwrBusy = true → s.dev.pwrTarget ≠ 0 → s.quiescent = true → ∃ t : State,
      exec .powerTransitionDone s = .next t ∧ t.dev.pwrCur = s.dev.pwrTarget ∧ t.dev.pwrBusy = false
      ∧ ∀ cl, cl < 512 → t.dev.gated.contains cl = true)
    ∧ (s.dev.pwrBusy = false ∨ (s.dev.pwrTarget ≠ 0 ∧ s.quiescent = false) → exec .powerTransitionDone s = .next s)


/-- R407, R514-R518: a temperature at the warning level is noted and sends vector 67; one at the trip level trips the
part: every running, stopping or suspended launch ends with code 0x15, every cluster is gated, TRIPPED is set and the counters go to flash.
Storage errors are counted, and an uncorrectable one poisons its word, image, block or line, or makes its metadata absent; a unit's
machine check ends the launches that it serves. An hour's update counts the temperature's bin, and the mailbox reads all 73 counters,
but not in recovery. -/
def Sys2Proof.Machine.Reliability : Prop :=
  ∀ (s : State),
    (∀ tj : BitVec 16,
      let s1 := { s with dev := { s.dev with tj := tj.toNat } }
      (s.dev.warn * 8 ≤ tj.toNat → exec (.thermalWarn tj) s = .next (State.send { s1 with dev := { s1.dev with warned := true } } 67))
      ∧ (tj.toNat < s.dev.warn * 8 → exec (.thermalWarn tj) s = .next s1)
      ∧ (s.dev.trip * 8 ≤ tj.toNat → s.dev.tripped = false → ∃ t : State, exec (.thermalTrip tj) s = .next t ∧ t.dev.tripped = true
        ∧ t.dev.flash = t.dev.life ∧ (∀ cl, cl < 512 → t.dev.gated.contains cl = true)
        ∧ ∀ n, n < 64 → ((s.launch n).state = .running ∨ (s.launch n).state = .stopping ∨ (s.launch n).suspended = true) →
          (t.launch n).state = .error ∧ (t.launch n).ecode = 0x15)
      ∧ ((tj.toNat < s.dev.trip * 8 ∨ s.dev.tripped = true) → exec (.thermalTrip tj) s = .next s1))
    ∧ (∀ (site : ErrorSite) (correctable : Bool) (syn : BitVec 64), siteOk site = true →
      exec (.storageError site correctable syn) s = .next ((s.countSite site correctable).siteError site correctable syn))
    ∧ (∀ (g k off line : Nat) (syn : Word),
      let mode := (s.core g).mode (bankOf off)
      (mode ≠ 1 → mode ≠ 3 → s.lmPoison.contains (localKey g off / 4) = false →
        s.siteError (.localWord g off) false syn = { s with lmPoison := (localKey g off / 4) :: s.lmPoison })
      ∧ (∀ ls l, mode = 1 → (s.core g).cway = ls ++ [l] →
        s.siteError (.localWord g off) false syn = s.onCore g (fun c => { c with cway := ls ++ [{ l with bad := some off }] }))
      ∧ (∀ id, mode = 3 → (s.core g).frames.get .free (off / 4096) = .page id →
        (s.siteError (.localWord g off) false syn).poison.contains (pageKey id (off % 4096) / 64) = true)
      ∧ s.siteError (.localWord g off) true syn = s
      ∧ s.siteError (.regImage g k) false syn = s.onCtx g k (fun c => { c with poisoned := true })
      ∧ s.siteError (.regImage g k) true syn = s
      ∧ (∀ b r, s.icache.get [] g = b :: r →
        s.siteError (.icache g) true syn = { s with icache := s.icache.set g r }
        ∧ s.siteError (.icache g) false syn = { s with dev := { s.dev with icBad := (g, b.owner, b.key) :: s.dev.icBad } })
      ∧ ((s.siteError (.homeMeta line) false syn).line line).md = none ∧ s.siteError (.homeMeta line) true syn = s
      ∧ ∀ site ∈ [ErrorSite.hbm line, .xm line],
        (s.siteError site false syn).poison.contains line = true ∧ s.siteError site true syn = s)
    ∧ (∀ (u : EngineUnit) (d : BitVec 64), unitExists u = true → ∃ t : State, exec (.unitMachineCheck u d) s = .next t
      ∧ ∀ n ∈ s.servedBy u, (s.launch n).state = .running → (t.launch n).state = .stopping ∧ (t.launch n).ecode = 0x15)
    ∧ (∃ t : State, exec .flashCounterUpdate s = .next t ∧ t.dev.flash = t.dev.life
      ∧ (320 ≤ s.dev.tj → s.dev.life.get 0 (54 + min 15 ((s.dev.tj / 8 - 40) / 5)) < 2 ^ 64 - 1 →
        t.dev.life.get 0 (54 + min 15 ((s.dev.tj / 8 - 40) / 5)) = s.dev.life.get 0 (54 + min 15 ((s.dev.tj / 8 - 40) / 5)) + 1))
    ∧ (s.dev.recovery = false → ∃ t : State, exec .mbcmdReadCounters s = .next t ∧ t.dev.mbstat = 1
      ∧ ∀ i, i < 73 → t.dev.mbox.get 0 i = BitVec.ofNat 64 (s.dev.life.get 0 i))
    ∧ (s.dev.recovery = true → exec .mbcmdReadCounters s = .next s)

/-- Power states, gating, temperature, errors and lifetime counters: `ClusterGating`, `PowerRequests` and `Reliability`. -/
def Obligations.PowerAndErrors : Prop :=
  ClusterGating ∧ PowerRequests ∧ Reliability

/-! ### Caravan (R85, R86, R88, R112-R130) -/

/-- R82, R86, R110, R114, R115, R116, R130: the oldest released edge of a running launch is counted. That of the launch's start reads the
header; one from the start to a root, and a loop's back edge, make their node ready at once; any other lowers its successor's count and keeps
the greatest P, and the last one makes the node ready with it. A node that becomes ready enters its pool, or the end of the overflow
list when the pool is full or others wait. A launch that does not run drops its edges. What waits for the host keeps the edge. -/
def Sys2Proof.Machine.CaravanEdges : Prop :=
  ∀ (s : State) (slot : Nat), slot < 64 →
    let l := s.launch slot
    let does (t : State) : Prop := exec (.successorReady slot) s = .next t
    let readies (idx p : Nat) (fin : State → State) : Prop :=
      (∀ t, s.nodeReady slot idx p = .ok t → does (fin (t.dropEdge slot))) ∧ (∀ t, s.nodeReady slot idx p = .error t → does t)
    (l.edges = [] → does s)
    ∧ (∀ (e : EdgeRel) (r : List EdgeRel), l.edges = e :: r →
      let p := max (l.ps.get 0 e.node) e.p
      let start : Prop := e.src = 0 ∧ e.node = 0 ∧ l.nodes = 0
      (l.state ≠ .running → does (s.onLaunch slot (fun l => { l with edges := l.edges.drop 1 })))
      ∧ (l.state = .running → start → does (s.startGraph slot e.p))
      ∧ (l.state = .running → ¬ start → e.src = 0 ∨ e.node = 0 → readies e.node e.p id)
      ∧ (l.state = .running → e.src ≠ 0 → e.node ≠ 0 →
        (∀ va, s.edgeInfo slot e.src e.node = .absent va → does (s.holdNode slot e.node va))
        ∧ (s.edgeInfo slot e.src e.node = .bad → does (s.graphUnreadable slot e.node))
        ∧ (∀ npred, s.edgeInfo slot e.src e.node = .ok (true, npred) → readies e.node e.p id)
        ∧ (∀ npred, s.edgeInfo slot e.src e.node = .ok (false, npred) →
          let left := l.left.get npred e.node
          (left = 0 → does (s.dropEdge slot))
          ∧ (left = 1 → readies e.node p (fun t => t.onLaunch slot (fun l => { l with
              left := l.left.set e.node 0, ps := l.ps.drop e.node })))
          ∧ (1 < left → does (s.onLaunch slot (fun l => { l with
              edges := l.edges.drop 1, left := l.left.set e.node (left - 1), ps := l.ps.set e.node p }))))))
    ∧ (∀ (idx p : Nat) (r : NodeRec), s.nodeAt slot l.graph.toNat idx false = .ok (.ok r) → s.placeRead slot r = .ok () →
      let die := s.poolOf slot r none
      let e := poolEntry s slot idx (BitVec.ofNat 64 (l.graph.toNat + 64 * idx)) r p none
      let c := s.caravan die
      (65536 ≤ c.overflow.length → s.nodeReady slot idx p = .error s)
      ∧ (c.overflow.length < 65536 → 8192 ≤ c.size ∨ c.overflow ≠ [] →
        s.nodeReady slot idx p = .ok (s.onCaravan die (fun c => { c with overflow := c.overflow ++ [e] })))
      ∧ (c.size < 8192 → c.overflow = [] → s.nodeReady slot idx p = .ok (s.onCaravan die (fun c => c.enter e s.clk))))

/-- R116, R122, R126: the oldest entry of an overflow list enters its pool while that holds fewer than 8,192. A gang that is due closes;
else the entries that waited for a close join their gangs. A finished gang completes. -/
def Sys2Proof.Machine.CaravanPools : Prop :=
  ∀ (s : State) (die : Nat), die < 4 →
    let c := s.caravan die
    let puts (i : Instr) (v : Caravan) : Prop := exec i s = .next (s.onCaravan die (fun _ => v))
    (∀ (e : PoolEntry) (r : List PoolEntry), c.overflow = e :: r → c.size < 8192 →
      exec (.poolOverflowTransfer die) s
        = .next (((s.onCaravan die (fun c => { c with overflow := r })).closeLone die e).onCaravan die (fun c => c.enter e s.clk)))
    ∧ (c.overflow = [] ∨ 8192 ≤ c.size → exec (.poolOverflowTransfer die) s = .next s)
    ∧ (∀ idx : Nat,
      (c.gangs[idx]? = none → puts (.gangClose die idx) (c.regroup s.clk))
      ∧ ∀ (g : Gang) (m : PoolEntry) (r : List PoolEntry), c.gangs[idx]? = some g → g.members = m :: r →
        (g.closed = false → s.gangCloses g c = true → puts (.gangClose die idx) (c.closeGang m s.clk))
        ∧ (g.closed = true ∨ s.gangCloses g c = false → puts (.gangClose die idx) (c.regroup s.clk)))
    ∧ (∀ gslot : Nat, gslot < 1024 →
      let done := c.insts.find? (fun i => i.finished && decide (i.gslot = some gslot))
      (done = none → exec (.gangCompletion die gslot) s = .next s)
      ∧ ∀ i, done = some i →
        let waits : Prop := ∃ h ∈ i.rows.filterMap id, s.resolving (handleId h) = true
        (waits → exec (.gangCompletion die gslot) s = .next s) ∧ (¬ waits → exec (.gangCompletion die gslot) s = .next (s.completeInst die i)))

/-- R113, R118, R119, R120: CARAVAN_DISPATCH serves the first candidate of its class, in the order of R118, that has a free group of cores, or
a free unit. In the class of cores the head candidate reserves the cores it waits for, from which and from those reserved
elsewhere no other candidate takes any; with nothing to dispatch, the pages that candidates wait for are asked of the host. -/
def Sys2Proof.Machine.CaravanDispatches : Prop :=
  ∀ (s : State) (die : Nat), die < 4 →
    let car := s.caravan die
    let all := s.candidates die .cores
    let far := s.reservedElsewhere die
    let does (cls : UnitClass) (t : State) : Prop := exec (.caravanDispatch die cls) s = .next t
    let reserving (res : List Nat) (tag : Option (Nat × Nat × Nat × Nat)) : State :=
      s.onCaravan die (fun v => { v with reserved := res, reservedFor := tag })
    let fits (c : Cand) (taken gs : List Nat) : Prop := car.slotFree c = true ∧ (s.coreGroup die c taken).1 = some gs
    (all.filter (fun c => !s.mapHeld c) = [] → does .cores ((reserving [] none).holdMaps all))
    ∧ (∀ (h : Cand) (rest : List Cand), all.filter (fun c => !s.mapHeld c) = h :: rest →
      let res := (if car.reservedFor = some h.tag then s.keptCores die h far else (s.coreGroup die h far).2).filter (fun g => !far.contains g)
      (∀ gs, fits h far gs → does .cores ((reserving [] none).dispatchCand die h gs 0))
      ∧ ((∀ gs, ¬ fits h far gs) →
        (∀ (c : Cand) (gs : List Nat) (before after : List Cand), rest = before ++ c :: after →
          (∀ b ∈ before, ∀ gs, ¬ fits b (far ++ res) gs) → fits c (far ++ res) gs →
          does .cores ((reserving res (some h.tag)).dispatchCand die c gs 0))
        ∧ ((∀ c ∈ rest, ∀ gs, ¬ fits c (far ++ res) gs) → does .cores ((reserving res (some h.tag)).holdMaps all))))
    ∧ (∀ cls : UnitClass, cls ≠ .cores →
      let serves (c : Cand) (u : Nat) : Prop := car.slotFree c = true ∧ s.freeUnit die c = some u
      (∀ (c : Cand) (u : Nat) (before after : List Cand), s.candidates die cls = before ++ c :: after →
        (∀ b ∈ before, ∀ u, ¬ serves b u) → serves c u →
        does cls (State.dispatchCand { s with free := s.free + 1 } die c [] u))
      ∧ ((∀ c ∈ s.candidates die cls, ∀ u, ¬ serves c u) → does cls s))

/-- R112, R422: a launch that has work left, is suspended or not active, or has a context with an unanswered write does not end; else the
stores of its contexts go to their homes, and once none has still to reach the array it ends with its code: 0 and done if it ran. -/
def Sys2Proof.Machine.CaravanEnds : Prop :=
  ∀ (s : State) (slot : Nat), slot < 64 →
    let l := s.launch slot
    let t := s.flushLaunch slot
    let may : Prop := (l.state = .running ∨ l.state = .stopping) ∧ l.suspended = false ∧ s.workLeft slot = false
      ∧ ∀ c ∈ s.launchCtxs slot, (s.ctx c.1 c.2).acks = 0
    (¬ may → exec (.launchEnd slot) s = .next s)
    ∧ (may → t.storesLeft slot = true → exec (.launchEnd slot) s = .next t)
    ∧ (may → t.storesLeft slot = false → exec (.launchEnd slot) s = .next (t.endLaunch slot (if l.state = .running then 0 else l.ecode)
        (if l.state = .running then .done else l.stopAs) (s.clk - l.start) l.comp l.irqen))

/-- Caravan: edges, pools, dispatch, gangs and completion: `CaravanEdges`, `CaravanPools`, `CaravanDispatches` and `CaravanEnds`. -/
def Obligations.CaravanEvents : Prop :=
  CaravanEdges ∧ CaravanPools ∧ CaravanDispatches ∧ CaravanEnds


/-- R85, R86, R125, R128-R130: a condition releases its first successor where its relation holds of the word that it reads, else the
second; a switch releases the successor that the word, less the base, selects, the last one at most. A loop node below its limit, which
stands in the node or is read, counts and releases its body's entry, else its exit; in a launch graph the body's counts start anew.
An entry that no longer matches its stream leaves the pool; a word that may not be read is an error of the node, and one whose page or
line waits keeps the entry. With nothing to evaluate nothing happens. -/
def Sys2Proof.Machine.EvaluatedValues : Prop :=
  ∀ (s : State) (die : Nat), die < 4 →
    let reads (i : Instr) (e : PoolEntry) (f : State → Word → Nat → State) : Prop :=
      (s.entryOk e = false → exec i s = .next (s.unpoolEntry die e))
      ∧ (s.entryOk e = true → ∀ t : State,
        (∀ v p, s.evalRead e (e.record.kd 0).toNat = (t, .ok v p) → exec i s = .next (f t v (max e.p p)))
        ∧ (s.evalRead e (e.record.kd 0).toNat = (t, .pending) → exec i s = .next t)
        ∧ (s.evalRead e (e.record.kd 0).toNat = (t, .bad) → exec i s = .next (t.graphUnreadable e.slot e.node)))
    let loop (t : State) (e : PoolEntry) (lim p : Nat) : State :=
      let inBody (n : Nat) : Bool := decide ((e.record.kd 2).toNat % 2 ^ 16 ≤ n) && decide (n ≤ (e.record.kd 2).toNat / 2 ^ 16 % 2 ^ 16)
      if e.stream.isSome then
        let i := (t.stream e.streamId).position
        if i < lim then (t.onStream e.streamId (fun d => { d with position := i + 1 })).evalRelease die e (e.succ.getD 0 0) p true
        else t.evalRelease die e (e.succ.getD 1 0) p false
      else
        let i := (t.launch e.slot).loops.get 0 e.node
        if i < lim then (t.onLaunch e.slot (fun l => { l with
            loops := l.loops.set e.node (i + 1), left := l.left.filter (fun x => !inBody x.1), ps := l.ps.filter (fun x => !inBody x.1)
            })).evalRelease die e (e.succ.getD 0 0) p true
        else (t.onLaunch e.slot (fun l => { l with loops := l.loops.set e.node 0 })).evalRelease die e (e.succ.getD 1 0) p false
    let free (e : PoolEntry) : Bool := e.stream.isSome || !s.bodyBusy e
    (s.evaluable die 8 = [] → exec (.conditionEval die) s = .next s)
    ∧ (∀ (e : PoolEntry) (r : List PoolEntry), s.evaluable die 8 = e :: r → reads (.conditionEval die) e (fun t v p =>
      t.evalRelease die e (e.succ.getD (if relHolds ((e.record.kd 2).toNat % 8) v (e.record.kd 1) then 0 else 1) 0) p false))
    ∧ (s.evaluable die 10 = [] → exec (.switchEval die) s = .next s)
    ∧ (∀ (e : PoolEntry) (r : List PoolEntry), s.evaluable die 10 = e :: r → reads (.switchEval die) e (fun t v p =>
      t.evalRelease die e (e.succ.getD (min (v - e.record.kd 1).toNat (e.succ.length - 1)) 0) p false))
    ∧ ((s.evaluable die 9).find? free = none → exec (.loopEval die) s = .next s)
    ∧ (∀ e : PoolEntry, (s.evaluable die 9).find? free = some e →
      (e.record.kd 0 = 0 → exec (.loopEval die) s
        = .next (if s.entryOk e then loop s e ((e.record.kd 1).toNat % 2 ^ 32) e.p else s.unpoolEntry die e))
      ∧ (e.record.kd 0 ≠ 0 → reads (.loopEval die) e (fun t v p => loop t e (v.toNat % 2 ^ 32) p)))

/-- R88, R89, R116, R416: in a running launch that is not suspended the streams that waited become ready where they can; where none does, a
drive takes or skips its next handle, or else the next stream-step node begins its drive. A drive with no handle left and no stream under way completes, once its result word is stored
where it has one; a store that waits keeps it. -/
def Sys2Proof.Machine.DriveEvents : Prop :=
  ∀ (s : State) (slot : Nat), slot < 64 →
    let does (t : State) : Prop := exec (.streamDrive slot) s = .next t
    let ends (t : State) : Prop := exec (.streamDriveComplete slot) s = .next t
    let u := s.retryHeld slot
    let next := u.drives.find? (fun d => decide (d.slot = slot) && decide (d.todo ≠ []))
    let last := s.drives.find? (fun d => decide (d.slot = slot) && decide (d.todo = []) && decide (d.taken = []))
    let steps (die : Nat) : Option PoolEntry := (u.caravan die).pool.find? (fun e => decide (e.slot = slot) && decide (e.kind = 4))
    let runs : Prop := (s.launch slot).state = .running ∧ (s.launch slot).suspended = false
    let woke : Prop := (u.heldStreams slot).length < (s.heldStreams slot).length
    (¬ runs → does s)
    ∧ (runs → woke → does u)
    ∧ (runs → ¬ woke → ∀ v, next = some v → does (u.driveHandle v (v.todo.headD 0)))
    ∧ (runs → ¬ woke → next = none → ∀ die e, die < 4 → (∀ d, d < die → steps d = none) → steps die = some e →
      does (u.startDrive die e))
    ∧ (runs → ¬ woke → next = none → (∀ d, d < 4 → steps d = none) → does u)
    ∧ (last = none → ends s)
    ∧ (∀ v : Drive, last = some v →
      (v.result = 0 → ends (s.endDrive v))
      ∧ (v.result ≠ 0 → ∀ (t : State) (a : UnitGot), State.unitStore { s with free := s.free + 1 } (s.driveOp v) v.result.toNat
          (bytesOfNat 8 (v.left % 2 ^ 24 + v.skipped % 2 ^ 24 * 2 ^ 24)) = (t, a) →
        (a = .pending → ends t) ∧ (a = .clock → ends (t.clockStop v.slot clockLimit)) ∧ (a ≠ .pending → a ≠ .clock → ends (t.endDrive v))))

/-- Evaluated nodes and drives: `EvaluatedValues` and `DriveEvents`. -/
def Obligations.EvaluatedNodes : Prop :=
  EvaluatedValues ∧ DriveEvents


/-- R112, R108: a launch's end sets its state, code, elapsed time and sequence number, keeps ENODE for codes 1 to 7 alone, and leaves the
completion record, STAT and ELAPSED, at its address; the completion vector is sent where it asked for it and is not masked. -/
def Sys2Proof.Machine.LaunchEndRecord : Prop :=
  ∀ (s : State) (slot code elapsed : Nat) (st : LState) (comp : Word) (irqen : Bool),
    let t := s.endLaunch slot code st elapsed comp irqen
    (t.launch slot).state = st ∧ (t.launch slot).ecode = code ∧ (t.launch slot).lelapsed = BitVec.ofNat 64 elapsed
    ∧ (t.launch slot).enode = (if 1 ≤ code ∧ code ≤ 7 then (s.launch slot).enode else 0xFFFF)
    ∧ (irqen = true → s.dev.masked.contains slot = false → t.dev.sent = slot :: s.dev.sent) ∧ (irqen = false → t.dev = s.dev)
    ∧ (t.launch slot).seq = ((s.launch slot).seq + 1) % 2 ^ 24 ∧ (∀ n, n ≠ slot → t.launch n = s.launch n)
    ∧ (comp = 0 → t.mem = s.mem)
    ∧ (comp ≠ 0 → t.mem = s.mem.putBytes (hostKey comp.toNat)
        (bytesOfNat 8 (t.launch slot).lstat.toNat ++ bytesOfNat 8 (t.launch slot).lelapsed.toNat))

/-- Starting, stopping and ending launches: `LaunchControl` and `StoppingLaunches` and `LaunchEndRecord` (R109, R110, R347,
R112, R108). -/
def Obligations.LaunchSlots : Prop :=
  LaunchControl ∧ StoppingLaunches ∧ LaunchEndRecord
/-! ### Contexts outside their instructions (R132, R144, R150, R156, R182, R410-R422) -/

/-- R132, R150, R156: NWAIT's time is up with no node: its pair reads 0 and it completes; a YIELD's time is up: the context goes on;
both contexts of a queue pair have waited for queues for 4,096 clk: both trap with CPL.DEADLOCK, or, where the first trap has ended the
second context, that one's trap is counted. Before the time is up, or with nothing that waits, nothing happens. -/
def Sys2Proof.Machine.ContextTimeouts : Prop :=
  ∀ (s : State) (g k q : Nat), g < 40960 → k < 13 → q < 6 →
    let c := s.ctx g 0
    let waits (w : NodeWait) (t : Nat) : Prop := c.nwait = some w ∧ w.limit = some t ∧ c.arrived = none ∧ c.live = true
      ∧ c.resident = true ∧ c.waitFrom.isSome = true
    (∀ (w : NodeWait) (t : Nat), waits w t → t ≤ s.clk →
      exec (.nwaitTimeout g) s = .next (s.onCtx g 0 (fun c => { (c.setReg w.d.toNat 0).setReg (w.d.toNat + 1) 0 with
        pc := w.next, nwait := none, waitFrom := none, mid := false, qFrom := none, unissued := false, xfail := none, popped := [] })))
    ∧ ((∀ w t, waits w t → s.clk < t) → exec (.nwaitTimeout g) s = .next s)
    ∧ (∀ t, (s.ctx g k).yieldEnd = some t → t ≤ s.clk →
      exec (.yieldExpire g k) s = .next (s.onCtx g k (fun c => { c with yieldEnd := none })))
    ∧ ((∀ t, (s.ctx g k).yieldEnd = some t → s.clk < t) → exec (.yieldExpire g k) s = .next s)
    ∧ (∀ (i j t : Nat) (u v : BitVec 6), (s.core g).blockedPair q = some ((i, u), (j, v), t) →
      let s1 := s.deadlock g i u
      let d := s.ctx g j
      (s.clk < t + 4096 → exec (.queueDeadlock g q) s = .next s)
      ∧ (t + 4096 ≤ s.clk → (s1.ctx g j).live = true ∨ d.routes 0x0E1 = false →
        exec (.queueDeadlock g q) s = .next (s1.deadlock g j v))
      ∧ (t + 4096 ≤ s.clk → (s1.ctx g j).live = false → d.routes 0x0E1 = true →
        exec (.queueDeadlock g q) s
          = .next (s1.utrap ((d.launch.map (·.1)).getD 0) 0x0E1 false (s.place g j) d.pc (v.setWidth 64))))
    ∧ ((s.core g).blockedPair q = none → exec (.queueDeadlock g q) s = .next s)


/-- R144, R145, R182, R407: for a live and resident context, a line enters the register cache as its newest, which holds at most 96; an image
in error from which a line is read routes SYS.IMAGE, with %tval operand a of the instruction at the PC, where the fetch buffer holds it; a
block that the fetch unit has requested enters the fetch buffer behind the three newest, without any effect
of a fault: the one after a block from which the context has issued, or the one that an instruction of a held block has fetched early. A
context that is not resident, and a block that is held or not requested, change nothing. -/
def Sys2Proof.Machine.CachesOfContexts : Prop :=
  ∀ (s : State) (g k line : Nat) (va : Word), g < 40960 → k < 13 → line < 512 →
    let c := s.ctx g k
    let up : Prop := c.live = true ∧ c.resident = true
    let refills (t : State) : Prop := exec (.regcacheRefill g k line) s = .next t
    let fills (t : State) : Prop := exec (.fetchBlockFill g k va) s = .next t
    let wanted : Prop := (∀ b ∈ c.fbuf, b.va ≠ blockOf va) ∧ c.requested (s.bqOf g k) (blockOf va) = true
    let there : Prop := ((s.core g).shelf * 16 + k, line) ∈ (s.core g).rcache
    let tval : Word := match c.atPc with
      | some i => (envOf s g k i).aval
      | none => 0
    (¬ up → refills s ∧ fills s)
    ∧ (up → c.poisoned = false ∨ there → refills (s.onCore g (fun x => x.cacheLine (x.cacheKey k, line))))
    ∧ (up → c.poisoned = true → ¬ there →
      refills ((s.onCtx g k (fun c => { c with poisoned := false })).takeTrap g k 0x1E7 false false c.pc tval 0 []))
    ∧ (∀ va : Word, c.requested (s.bqOf g k) va = true ↔ ∃ b ∈ c.fbuf, (b.issued = true ∧ b.va + 64 = va)
      ∨ ∃ p ∈ b.instrs 16 0, earlyBlock (s.bqOf g k) p = some va)
    ∧ (∀ (x : Core) (e : Nat × Nat), (x.cacheLine e).rcache.head? = some e ∧ (x.cacheLine e).rcache.length ≤ 96)
    ∧ (up → ¬ wanted → fills s)
    ∧ (up → wanted →
      (∀ (bs : List Byte) (t : State), s.fetchBlock g k (blockOf va) = .bytes bs t →
        fills (t.onCtx g k (fun x => { x with fbuf := c.fbuf.take 3 ++ [{ va := blockOf va, bytes := bs }] })))
      ∧ (∀ cause tval, s.fetchBlock g k (blockOf va) = .fault cause tval → fills s)
      ∧ (s.fetchBlock g k (blockOf va) = .absent → fills s))


/-- R147, R410, R411: the oldest pending trap of a live, resident context at an instruction boundary, outside a handler, is delivered and
leaves the pending set, and what its waiting instruction has popped goes back; within a handler, or during an instruction, it
stays pending; with no trap pending nothing happens. -/
def Sys2Proof.Machine.AsynchronousTraps : Prop :=
  ∀ (s : State) (g k : Nat), g < 40960 → k < 13 →
    let c := s.ctx g k
    let takes : Prop := c.live = true ∧ c.resident = true ∧ c.intrap = false ∧ c.mid = false
    (¬ takes ∨ c.pend = [] → exec (.asyncTrapDelivery g k) s = .next s)
    ∧ (takes → ∀ (p : Pend) (r : List Pend), c.pend = p :: r → exec (.asyncTrapDelivery g k) s
      = .next (((s.unpop g k).onCtx g k (fun c => { c with pend := r })).takeTrap g k p.cause true p.more c.pc p.tval 0 []))


/-- Timeouts, cache fills and asynchronous traps of contexts: `ContextTimeouts`, `CachesOfContexts` and `AsynchronousTraps`. -/
def Obligations.ContextEvents : Prop :=
  ContextTimeouts ∧ CachesOfContexts ∧ AsynchronousTraps

/-- R411, R416-R422: suspension of an active launch is recorded, and its resumption, which resumes its parked contexts. A context of a
suspended launch parks at its pre-emption point, with its PC, window base and L as they are; it is saved once nothing of it is in flight,
with its lanes returned and, of a control context, the core's write lane and table kept, and a core all of whose contexts are saved is
released; it resumes with what lanes there are, up to those it had. What is not due changes nothing. -/
def Obligations.Preemption : Prop :=
  ∀ (s : State) (slot g k : Nat), slot < 64 → g < 40960 → k < 13 →
    let l := s.launch slot
    let c := s.ctx g k
    let active : Prop := l.state = .running ∨ l.state = .stopping
    let id := (slot, l.epoch)
    let awake := s.onLaunch slot (fun l => { l with suspended := false, share := false })
    let point : Prop := c.live = true ∧ c.resident = true ∧ s.mustPark g k = true ∧ s.exchanging g = false
      ∧ (c.mid = false ∨ s.accessHeld g k = true) ∧ (c.pend = [] ∨ c.intrap = true)
    let saves : Prop := c.parked = true ∧ c.saved = false ∧ s.quiet g k = true
    let image := s.onCtx g k (fun x => { x with
      saved := true, grant := 0, coreRegs := if k = 0 then some ((s.core g).wl, (s.core g).xslot) else none })
    (∀ share : Bool,
      (active → exec (.prectlSuspend slot share) s = .next (s.onLaunch slot (fun l => { l with suspended := true, share := share })))
      ∧ (¬ active → exec (.prectlSuspend slot share) s = .next s))
    ∧ (l.suspended = false → exec (.prectlResume slot) s = .next s)
    ∧ (l.suspended = true → ∃ t : State, exec (.prectlResume slot) s = .next t
      ∧ (t.launch slot).suspended = false ∧ t.mem = s.mem
      ∧ (c.parked = true → c.serves id = true → awake.mustPark g k = false → (t.ctx g k).parked = false ∧ (t.ctx g k).resident = true))
    ∧ (point → ∃ t : State, exec (.preemptPoint g k) s = .next t ∧ (t.ctx g k).resident = false
      ∧ (t.ctx g k).parked = true ∧ (t.ctx g k).pc = c.pc ∧ (t.ctx g k).l = c.l ∧ (t.ctx g k).wbase = c.wbase ∧ t.mem = s.mem)
    ∧ (¬ point → exec (.preemptPoint g k) s = .next s)
    ∧ (saves → s.parker c = none → exec (.contextSaved g k) s = .next image)
    ∧ (saves → ∀ n share, s.parker c = some (n, share) → exec (.contextSaved g k) s = .next (image.onCore g (fun x => x.release n share)))
    ∧ (¬ saves → exec (.contextSaved g k) s = .next s)
    ∧ ((s.core g).shared = false → s.mustPark g k = false → c.parked = true → ∃ t : State,
      exec (.contextResume g k) s = .next t ∧ (t.ctx g k).resident = true ∧ (t.ctx g k).parked = false
      ∧ (t.ctx g k).pc = c.pc ∧ (t.ctx g k).fbuf = [] ∧ (t.ctx g k).win = c.win ∧ t.mem = s.mem
      ∧ (t.ctx g k).grant = (if c.saved = true then min c.savedGrant (s.freeLanes g) else c.grant))
    ∧ ((s.core g).shared = false → s.mustPark g k = true ∨ c.parked = false → exec (.contextResume g k) s = .next s)
    ∧ ((s.core g).shared = true → s.awaited g = false → exec (.contextResume g k) s = .next s)

/-! ### Home ports, write lanes, channels, walkers (R172, R174, R274-R282, R326-R338) -/

/-- R326, R331, R357, R358: an access at the home port within one line takes its place there, or leaves the state of its fault or wait; a
store then writes its bytes at the home, which ends the poison of a whole line. At a line that nobody holds, with nothing
queued for it, an access that is not race-checked and meets no poison takes its time there, which its agent's clock becomes, and leaves memory as it is. An access that is no
part of a line, or of an agent that no party is (R21), does nothing. Recalling a line brings it home; one that an engine or the host holds is asked for. -/
def Sys2Proof.Machine.HomeEvents : Prop :=
  ∀ (s t : State) (q : HomeReq) (bs : List Byte),
    let line := q.key / 64
    let stores : Prop := HomeReq.fits q = true ∧ bs.length = q.size
    (agentOk q.agent = false → HomeReq.fits q = false) ∧ (8 ≤ q.agent.toNat / 2 ^ 20 → agentOk q.agent = false)
    ∧ (HomeReq.fits q = false → exec (.homeLoad q) s = .next s) ∧ (¬ stores → exec (.homeStore q bs) s = .next s)
    ∧ (HomeReq.fits q = true → s.homePlace q false = .ok t ∨ s.homePlace q false = .error t → exec (.homeLoad q) s = .next t)
    ∧ (stores → s.homePlace q true = .error t → exec (.homeStore q bs) s = .next t)
    ∧ (stores → s.homePlace q true = .ok t →
      let u := match agentCtx q.agent with
        | some (g, k) => t.homeWrite line (byteTable q.key bs) g [{ ctx := k, launch := (s.ctx g k).launch }] (s.ownerOf g k) false
        | none => t.homeWrite line (byteTable q.key bs) 0 [] 0 false
      exec (.homeStore q bs) s = .next (if bs.length = 64 then { u with poison := u.poison.filter (· ≠ line) } else u))
    ∧ (∀ n, s.engineHolds n = false → exec (.lineRecall n) s = .next (s.settle none n))
    ∧ (∀ n, s.engineHolds n = true → exec (.lineRecall n) s = .next (s.askHost n))
    ∧ (∀ write : Bool,
      let r := HomeReq.req q write
      let time := r.time (s.line line)
      s.engineHolds line = false → (s.line line).held = none → (∀ g e, e ∈ (s.core g).wlq → e.line ≠ line) → keyChecked q.key write = false →
      s.homePageBusy q = false → (write = false → s.starves (s.homeOwner q) line = false) → time < clockLimit → (write = false → s.poison.contains line = false) →
      ∃ u, s.homePlace q write = .ok u ∧ u.mem = s.mem
        ∧ ∀ g k, agentCtx q.agent = some (g, k) → (u.ctx g k).l = time)


/-- R274-R276, R278-R280, R282, R289, R337: the first entry that has not departed departs when it is full, not the youngest, or 64 clk
old; a departed entry at the head is accepted by its home and freed; the windows that have ended take BUDGET each off USED. A slot serves
the oldest ready request of its class and partition, or, with DONATE, the oldest ready one, and the table moves on, a committed one from
slot 0 on; the expansion port serves its oldest write; an acknowledgement lowers its context's count; the arrival of a remote load, which
is part of the load's own step, changes nothing. What is not due changes nothing. -/
def Sys2Proof.Machine.WriteLaneEvents : Prop :=
  ∀ (s : State) (g k chan die : Nat), g < 40960 → k < 13 → chan < 512 → die < 4 →
    let departs (q : List WlqEntry) : Prop := exec (.wlqEntryDepart g) s = .next (s.onCore g (fun c => { c with wlq := q }))
    (∀ (b r : List WlqEntry) (e : WlqEntry), (s.core g).wlq = b ++ e :: r → (∀ x ∈ b, x.departed = true) → e.departed = false →
      let due : Prop := 64 ≤ e.bytes.length ∨ r ≠ [] ∨ e.since + 64 ≤ s.clk
      (due → departs (b ++ { e with departed := true } :: r)) ∧ (¬ due → departs (b ++ e :: r)))
    ∧ ((∀ x ∈ (s.core g).wlq, x.departed = true) → departs (s.core g).wlq)
    ∧ ((s.core g).wlq = [] → exec (.wlqEntryAccept g) s = .next s)
    ∧ (∀ (e : WlqEntry) (r : List WlqEntry), (s.core g).wlq = e :: r →
      (e.departed = true → exec (.wlqEntryAccept g) s = .next ((s.acceptEntry g e).onCore g (fun c => { c with wlq := r })))
      ∧ (e.departed = false → exec (.wlqEntryAccept g) s = .next s))
    ∧ exec (.writeWindowEnd g) s = .next (s.onCore g (fun c => { c with wl := c.wl.sync s.clk }))
    ∧ (∀ (w : WriteLane) (clk : Nat), w.win < clk / 2 ^ w.log →
      (w.sync clk).used = w.used - (clk / 2 ^ w.log - w.win) * w.budget ∧ (w.sync clk).win = clk / 2 ^ w.log)
    ∧ (let t := match (s.chan chan).next with
        | some x => if (s.chan chan).slot = 0 then { s.chan chan with live := x, next := none } else s.chan chan
        | none => s.chan chan
      let slot := (t.live.get 0 (t.slot / 8)).toNat / 2 ^ (8 * (t.slot % 8)) % 256
      let ready := readyWrites chan [] s.array
      let mine := ready.find? (fun w => decide (w.part = slot % 8) && decide (slot / 64 = if w.near then 2 else 1))
      let u := s.onChan chan (fun _ => { t with slot := (t.slot + 1) % 32 })
      let serves (v : State) : Prop := exec (.hbmSlotService chan) s = .next v
      (∀ w, mine = some w → serves { u with array := s.array.erase w })
      ∧ (mine = none → t.donate = false ∨ ready = [] → serves u)
      ∧ (mine = none → t.donate = true → ∀ w r, ready = w :: r → serves { u with array := s.array.erase w }))
    ∧ (∀ w, s.array.find? (fun w => w.chan = 512 + die) = some w →
      exec (.xmPortService die) s = .next { s with array := s.array.erase w })
    ∧ ((∀ w ∈ s.array, w.chan ≠ 512 + die) → exec (.xmPortService die) s = .next s)
    ∧ exec (.remoteAck g k) s = .next (s.onCtx g k (fun c => { c with acks := c.acks - 1 }))
    ∧ ∀ (va : BitVec 64) (n : Nat), exec (.remoteLocalLoad g k va n) s = .next s


/-- Home accesses, recalls, write lanes and channels: `HomeEvents` and `WriteLaneEvents`. -/
def Obligations.MemoryEvents : Prop :=
  HomeEvents ∧ WriteLaneEvents


/-- R113, R172, R174, R337, R338: a walk that finds its page caches it for the agent's cluster, and one that finds none is reported to the
host; a malformed entry, an address in no translated region, an agent that no party is (R21) and one without a cluster leave no trace. A cluster's oldest page move
ends at its destination. A write from another package within a line homed on the die is stored at its home and acknowledged; one to a line
that is held waits, and any other does nothing. -/
def Sys2Proof.Machine.WalksMovesImports : Prop :=
  ∀ (s : State) (owner : Nat) (va : BitVec 64) (agent kind slot cl die : Nat), cl < 512 → die < 4 →
    let walks (t : State) : Prop := exec (.pageWalk owner va agent kind slot) s = .next t
    let mapped : Prop := regionOf va.toNat = some .translated ∧ agent < 2 ^ 24 ∧ agentOk (BitVec.ofNat 24 agent) = true
    (¬ mapped → walks s) ∧ (mapped → s.unitWalk owner va.toNat = .malformed → walks s)
    ∧ (mapped → s.unitWalk owner va.toNat = .absent →
      walks (s.holdFault owner va.toNat (BitVec.ofNat 24 agent) (kind % 4) (slot % 65536)))
    ∧ (mapped → ∀ pte big, s.unitWalk owner va.toNat = .page pte big →
      (agent < 3 * 2 ^ 20 → walks (s.translate (agent % 2 ^ 20 / 2 ^ 11) owner va.toNat).2) ∧ (3 * 2 ^ 20 ≤ agent → walks s))
    ∧ (s.moves.get [] cl = [] → exec (.pageMoveComplete cl) s = .next s)
    ∧ (∀ (m : PageMove) (r : List PageMove), s.moves.get [] cl = m :: r →
      exec (.pageMoveComplete cl) s = .next (State.finishMove { s.settlePage m.page with moves := s.moves.set cl r } m).startSends)
    ∧ (∀ (m : PageMove), (s.page m.page).refcnt ≠ 0 → ((s.finishMove m).page m.page).loc = m.dest)
    ∧ (∀ (pa src : Nat) (bs : List Byte) (tag : BitVec 64),
      let line := hbmKey pa / 64
      let lands : Prop := bs ≠ [] ∧ pa % 64 + bs.length ≤ 64 ∧ s.homeCluster line / 128 = die
      let arrives (t : State) : Prop := exec (.importWrite die pa bs src tag) s = .next t
      let stored := s.importStore (BitVec.ofNat 16 src) line (byteTable (hbmKey pa) bs)
      (¬ lands → arrives s) ∧ (lands → stored = none → arrives (s.askHost line))
      ∧ (lands → ∀ t, stored = some t → arrives { t with flits := t.flits ++ [ackFlit (BitVec.ofNat 16 src) tag] }))

/-- R104, R338, R353: the write of a package to a line that nobody holds, with nothing queued for it, has a time one past the line's
last lease, which becomes the line's and the receiving die's clock for that package, and its bytes stand at the home. -/
def Sys2Proof.Machine.ImportedStores : Prop :=
  ∀ (s : State) (src : BitVec 16) (line : Nat) (b : Byte) (i : Nat), i < 64 → line < 2 ^ 50 → s.mem.wf = true →
    let die := s.homeCluster line / 128
    let time := max (s.imports.get 0 die) ((s.line line).rts + 1)
    (s.line line).held = none → (s.line line).queue = [] → (∀ g e, e ∈ (s.core g).wlq → e.line ≠ line) → time < clockLimit →
    ∃ t, s.importStore src line [(line * 64 + i, b)] = some t ∧ (t.line line).wts = time ∧ (t.line line).rts = time
      ∧ t.imports.get 0 die = time ∧ t.mem.byte (line * 64 + i) = b
      ∧ ∀ a, a ≠ line * 64 + i → t.mem.byte a = s.mem.byte a


/-- R437-R442: Sirocco copies a core's oldest waiting record, one of an earlier launch first, into the die's frame, unless its base of 0 disables it; a frame that has been
open for 65,536 clk closes: it is written at the ring's tail under its owner's key, or dropped where the ring is full or disabled. Once for every
2^20 clk a snapshot of the link map is numbered, and stored where it has a base and its owner's key is loaded. -/
def Sys2Proof.Machine.TraceDrain : Prop :=
  ∀ (s : State) (g die : Nat), g < 40960 → die < 4 →
    let tr := (s.core g).trace
    let x := s.siroccoOf die
    let closes (t : State) : Prop := exec (.siroccoFrameClose die) s = .next t
    ((tr.left = [] ∧ tr.todo = []) ∨ (s.siroccoOf (dieOf g)).ring = 0 → exec (.siroccoRecordCopy g) s = .next s)
    ∧ (∀ owner d r, tr.left = (owner, d) :: r → (s.siroccoOf (dieOf g)).ring ≠ 0 →
      exec (.siroccoRecordCopy g) s = .next ((s.onCore g (fun c => { c with trace := { c.trace with left := r } })).frameRecord (dieOf g)
        owner (g, d)))
    ∧ (∀ n r, tr.left = [] → tr.todo = n :: r → (s.siroccoOf (dieOf g)).ring ≠ 0 →
      exec (.siroccoRecordCopy g) s = .next ((s.onCore g (fun c => { c with trace := { c.trace with todo := r } })).frameRecord (dieOf g)
        (tr.owners.get 0 (n % 256)) (g, tr.recs.get (0, 0) (n % 256))))
    ∧ (x.recs = [] ∨ s.clk < x.since + 65536 → closes s)
    ∧ (x.recs ≠ [] → x.since + 65536 ≤ s.clk →
      let y : Sirocco := { x with recs := [], seq := x.seq + 1 }
      let held := (x.tail + 65536 - x.head) % 65536
      (x.ring = 0 → closes (s.setSirocco die { x with recs := [] }))
      ∧ (x.ring ≠ 0 → held = x.frames → closes (s.setSirocco die { y with drop := x.drop + 1 }))
      ∧ (x.ring ≠ 0 → held ≠ x.frames → closes ((s.setSirocco die { y with tail := (x.tail + 1) % 65536 }).storeRaw x.owner
          (x.ring + 4096 * (x.tail % x.frames)) (frameBytes x.seq x.owner x.recs))))
    ∧ (let due : Prop := s.dev.lmtaken < s.clk / 2 ^ 20
      let stored : Prop := s.dev.mapBase ≠ 0 ∧ (s.owner s.dev.lmowner).loaded = true
      let t := { s with dev := { s.dev with lmseq := s.dev.lmseq + 1, lmtaken := s.dev.lmtaken + 1 } }
      (¬ due → exec .linkMapSnapshot s = .next s) ∧ (due → ¬ stored → exec .linkMapSnapshot s = .next t)
      ∧ (due → stored → exec .linkMapSnapshot s = .next (State.storeRaw { t with free := s.free + 12288 } s.dev.lmowner
          (s.dev.mapBase + 0x20000 * (s.dev.lmseq.toNat % 2 ^ s.dev.lmlog))
          ((List.range 512).flatMap (fun cl => mapEntry cl (s.free + 24 * cl))))))


/-- Walks, page moves, imports, and the trace drain: `WalksMovesImports`, `ImportedStores` and `TraceDrain`. -/
def Obligations.WalksAndTrace : Prop :=
  WalksMovesImports ∧ ImportedStores ∧ TraceDrain

/-! ### Engines: macro-operations, nodes, copies, posted writes, barriers (R252-R266, R297-R314, R375, R384-R386, R521) -/

/-- R252, R255, R258: an engine takes the offered macro-operation of the lowest core and context, each context's in order, into its
queue, numbered; the load at the head fills its buffer once no earlier MACC needs it; each clk's tokens reach every bucket, up to 65,536. With nothing
to take or to fill the engine stays as it is. -/
def Sys2Proof.Machine.MatrixQueues : Prop :=
  ∀ (s : State) (cl : Nat), cl < 512 →
    let e := s.engine cl
    let leaves (i : Instr) (x : MatrixEngine) : Prop := exec i s = .next (s.onEngine cl (fun _ => x))
    (e.offered = [] → leaves (.macroOpAccept cl) e)
    ∧ (∀ (before after : List MacroOp) (o : MacroOp), e.offered = before ++ o :: after →
      (∀ x ∈ before, o.core < x.core ∨ (o.core = x.core ∧ o.ctx < x.ctx)) →
      (∀ x ∈ after, o.core < x.core ∨ (o.core = x.core ∧ o.ctx ≤ x.ctx)) →
      let n : MacroOp := { o with seq := e.seq + 1 }
      let e1 := { e with offered := before ++ after, seq := e.seq + 1 }
      (o.kind.isLoad = true → leaves (.macroOpAccept cl) { e1 with loads := e.loads ++ [n] })
      ∧ (o.kind.isLoad = false → leaves (.macroOpAccept cl) { e1 with computes := e.computes ++ [n] }))
    ∧ (e.loads = [] → leaves (.mloadbComplete cl) e)
    ∧ (∀ (o : MacroOp) (r : List MacroOp) (b : Nat) (elems : List Int) (bad : Bool), e.loads = o :: r → o.kind = .load b elems bad →
      let needed : Prop := ∃ c ∈ e.computes, c.seq < o.seq ∧ c.kind.buffer = some b
      (needed → leaves (.mloadbComplete cl) e)
      ∧ (¬ needed → leaves (.mloadbComplete cl) { e with
        loads := r, bufs := e.bufs.set b { e.bufs.get {} b with loaded := true, elems := elems, poison := bad } }))
    ∧ (∃ t : State, exec .issueGovernorToken s = .next t ∧ t = { s with matrix := t.matrix }
      ∧ (s.matrix.find cl = none → t.matrix.find cl = none)
      ∧ ∀ x : MatrixEngine, s.matrix.find cl = some x →
        let y := { x with bucket := min 65536 (x.bucket + s.dev.mgov) }
        (x.govWait = none → t.matrix.find cl = some y)
        ∧ (∀ c left, x.govWait = some (c, left) →
          (y.bucket < 256 → t.matrix.find cl = some y)
          ∧ (256 ≤ y.bucket → t.matrix.find cl = some { y with
            bucket := y.bucket - 256, paid := y.paid + 1, gov := y.gov + BitVec.ofNat 64 (s.clk - c),
            govWait := if left ≤ 1 then none else some (s.clk + 1, left - 1) })))

/-- R252, R255, R257, R259, R261, R264: the macro-operation at the head of the compute queue. A MACC waits for the loads of its buffer
before it, then for a scale record, then for a token per plane; then it takes its tile's oldest record and adds its slab; one that has had
no record for 1,048,576 clk completes with ERRC 2. A tile is opened with no terms, saved, restored or closed; MREAD and MSOFT write
the tile's rows. With no operation at the head none of these events changes anything. -/
def Sys2Proof.Machine.MatrixOperations : Prop :=
  ∀ (s : State) (cl : Nat), cl < 512 →
    let e := s.engine cl
    let leaves (i : Instr) (x : MatrixEngine) : Prop := exec i s = .next (s.onEngine cl (fun _ => x))
    (e.computes = [] → leaves (.mtileMacroOp cl) e ∧ leaves (.scaleFifoTimeout cl) e
      ∧ ∀ i ∈ [Instr.maccExecute cl, .mreadExecute cl, .msoftExecute cl], exec i s = .next s)
    ∧ (∀ (o : MacroOp) (r : List MacroOp), e.computes = o :: r →
      (∀ (t buf j : Nat) (pan : Panel), o.kind = .macc t buf pan j →
        let loading : Prop := ∃ c ∈ e.loads, c.seq < o.seq ∧ c.kind.buffer = some buf
        (loading → exec (.maccExecute cl) s = .next s)
        ∧ (¬ loading → (e.tile t).fifo = [] →
          leaves (.maccExecute cl) { e with computes := { o with since := some (o.since.getD s.clk) } :: r })
        ∧ (∀ (x : ScaleRec) (xs : List ScaleRec), ¬ loading → (e.tile t).fifo = x :: xs →
          let left := pan.p - e.paid
          (e.bucket < 256 * left → leaves (.maccExecute cl) { e with
            bucket := e.bucket % 256, paid := e.paid + e.bucket / 256,
            govWait := some ((e.govWait.map (·.1)).getD s.clk, left - e.bucket / 256) })
          ∧ (256 * left ≤ e.bucket →
            let e1 := ({ e.govStop s.clk with bucket := e.bucket - 256 * left, paid := 0 } : MatrixEngine).onTile t (fun y => { y with fifo := xs })
            exec (.maccExecute cl) s
              = .next (((s.onEngine cl (fun _ => e1)).addSlab cl t buf o.core o.owner pan j x).onEngine cl (fun e => e.pop t))))
        ∧ (∀ c : Nat, o.since = some c →
          ((e.tile t).fifo = [] → c + 1048576 ≤ s.clk →
            leaves (.scaleFifoTimeout cl) ((e.onTile t (fun y => { y with errc := 2 })).pop t))
          ∧ ((e.tile t).fifo ≠ [] ∨ s.clk < c + 1048576 → leaves (.scaleFifoTimeout cl) e))
        ∧ (o.since = none → leaves (.scaleFifoTimeout cl) e))
      ∧ (∀ (t a b : Nat) (rows : BitVec 32), o.kind = .openTile t a b rows →
        leaves (.mtileMacroOp cl) ((e.onTile t (fun y => { y with
          fifo := [],
          img := { pairs := [], sigA := a, sigB := b, rows := rows, ovf := false }, errc := 0, smask := false, masked := 0 })).pop t))
      ∧ (∀ (t slot : Nat) (tag : Word), o.kind = .save t slot tag →
        leaves (.mtileMacroOp cl) (({ e with
          slots := e.slots.set slot { img := (e.tile t).img, tag := tag, owner := o.owner } } : MatrixEngine).pop t))
      ∧ (∀ (t slot : Nat), o.kind = .restore t slot →
        (∀ c : CkSlot, e.slots.find slot = some c →
          leaves (.mtileMacroOp cl) ((e.onTile t (fun y => { y with img := c.img })).pop t))
        ∧ (e.slots.find slot = none → leaves (.mtileMacroOp cl) (e.pop t)))
      ∧ (∀ t : Nat, o.kind = .close t → leaves (.mtileMacroOp cl) ((e.closeTile t).pop t))
      ∧ (∀ (t j : Nat) (pan : Panel) (clr cls : Bool), o.kind = .mreadPln t pan j clr cls →
        exec (.mreadExecute cl) s
          = .next ((s.writeRecords cl t o.core o.owner pan j).onEngine cl (fun e => (e.afterRead t clr cls).pop t)))
      ∧ (∀ (t ty la st : Nat) (clr cls : Bool), o.kind = .mread t ty la st clr cls →
        exec (.mreadExecute cl) s
          = .next ((s.writeRows cl t o.core o.owner ty la st).onEngine cl (fun e => (e.afterRead t clr cls).pop t)))
      ∧ (∀ (t ty la st tau : Nat) (keys : Word) (diag : Option Int), o.kind = .msoft t ty la st tau keys diag →
        let img := (e.tile t).img
        let rows := (rowsOf img.rows).map (fun i => (i, img.softRow ty tau keys diag i))
        let masked := (rows.filter (fun r => r.2.2.2)).foldl (fun a r => a + 2 ^ r.1) 0
        exec (.msoftExecute cl) s = .next ((rows.foldl (fun (u : State) r =>
          (u.enginePut o.core o.owner (la + r.1 * st) r.2.1).enginePut o.core o.owner (la + 32 * st + 8 * r.1) r.2.2.1) s).onEngine cl
            (fun e => (e.onTile t (fun y => { y with masked := BitVec.ofNat 32 masked, smask := decide (masked ≠ 0) })).pop t))))


/-- R39, R41, R259: adding row i of a slab gives each of its 64 elements the exact sum of the products over k as one term at the
sum of its row's and its column's exponents, discarded where it is 0, and touches no other row. -/
def Sys2Proof.Machine.SlabTerms : Prop :=
  ∀ (img : TileImage) (elems row : List Int) (r : ScaleRec) (i : Nat), elems.length = 4096 → row.length = 64 →
    let after_ := img.addRow elems r i row
    (∀ c, c < 64 →
      let term := ((List.range 64).map (fun k => row.getD k 0 * elems.getD (64 * c + k) 0)).sum
      let old := img.pairs.get accClear (64 * i + c)
      after_.pairs.get accClear (64 * i + c)
        = if term = 0 then old else (accAdd old term (r.r.getD i 0 + r.y.getD c 0)).1)
    ∧ (∀ n, (n < 64 * i ∨ 64 * i + 64 ≤ n) → after_.pairs.get accClear n = img.pairs.get accClear n)
    ∧ after_.sigA = img.sigA ∧ after_.sigB = img.sigB ∧ after_.rows = img.rows

/-- The matrix engine executes macro-operations, each slab term by term: `MatrixQueues`, `MatrixOperations` and `SlabTerms`. -/
def Obligations.EngineEvents : Prop :=
  MatrixQueues ∧ MatrixOperations ∧ SlabTerms


/-- R265, R266, R521: while macro-operations are under way the sequencer waits. It begins a node that passes its checks on the lowest
unowned tile and fails one that does not; it waits for a token per plane, and then reads the slab's block and scale records and adds the slab. A
node whose slabs are done ends by its KMODE: it is read out, or sends its contribution and ends once that is accepted, or waits for
the contributions of its launch and tag and is read out with them added. A suspended launch's node is parked, and taken up again after
the resumption. -/
def Sys2Proof.Machine.SequencerSteps : Prop :=
  ∀ (s : State) (cl : Nat), cl < 512 →
    let e := s.engine cl
    let does (t : State) : Prop := exec (.matrixNodeRun cl) s = .next t
    let quiet : Prop := e.loads = [] ∧ e.computes = []
    let parked := e.parked.find? (fun p => !(s.launch p.node.slot).suspended)
    (¬ quiet → does s)
    ∧ (quiet → e.node = none → (∀ p, parked = some p → does (s.onEngine cl (fun e => e.unpark p))) ∧ (parked = none → does s))
    ∧ (∀ n : SeqNode, quiet → e.node = some n →
      let waits : Prop := (s.launch n.slot).state = .running
      ((s.launch n.slot).suspended = true → does (s.onEngine cl (fun e => e.park n s.clk)))
      ∧ ((s.launch n.slot).suspended = false →
        (n.tile = none → ∀ c, n.check = some c → does (s.failNode cl n c))
        ∧ (n.tile = none → n.check = none → (∀ t, t < 4 → (e.tile t).owner ≠ none) → does s)
        ∧ (n.tile = none → n.check = none → ∀ t, t < 4 → (e.tile t).owner = none → (∀ j, j < t → (e.tile j).owner ≠ none) →
          ∃ u : State, does u ∧ ((u.engine cl).tile t).owner = some .node
          ∧ ((u.engine cl).tile t).img.pairs = [] ∧ ((u.engine cl).tile t).img.rows = n.rows ∧ (u.engine cl).step = 0
          ∧ (u.engine cl).node = some { n with tile := some t } ∧ u.mem = s.mem)
        ∧ (∀ t, n.tile = some t → n.slabs ≤ e.step →
          (n.kmode = 0 → does (s.nodeRead cl n t))
          ∧ (n.kmode = 1 → n.sent = false → does (s.onEngine cl (fun e => { e with
            node := some { n with sent := true }, out := some (n.contribution (e.tile t).img) })))
          ∧ (n.kmode = 1 → n.sent = true → e.out = none → does (s.endNode cl n))
          ∧ (n.kmode = 1 → n.sent = true → e.out ≠ none → waits → does s)
          ∧ (n.kmode = 1 → n.sent = true → e.out ≠ none → ¬ waits → does (s.loseNode cl n))
          ∧ (2 ≤ n.kmode → n.held.length < n.splitn → waits → does s)
          ∧ (2 ≤ n.kmode → n.held.length < n.splitn → ¬ waits → does (s.loseNode cl n))
          ∧ (2 ≤ n.kmode → n.splitn ≤ n.held.length →
            let cs := (n.held.insertionSort (fun a b => a.1 ≤ b.1)).map (·.2)
            does ((s.onEngine cl (fun e => e.onTile t (fun x => { x with
              img := cs.foldl (fun (i : TileImage) c => i.addPairs c) x.img }))).nodeRead cl n t)))))

/-- R255, R258, R259, R265: a slab of a sequencer's node waits for its tokens; a read that waits leaves what it asked for; a read that
fails, a scale record in error and a panel in a bank that is no SPAD fail the node; else the slab is added with its scale record, and the
next slab is due. Each line of a block that is in error is reported, and poisons the buffer. -/
def Sys2Proof.Machine.SequencerSlabs : Prop :=
  ∀ (s : State) (cl t : Nat) (n : SeqNode), cl < 512 →
    let e := s.engine cl
    let o := s.seqOp cl n
    let does (u : State) : Prop := exec (.matrixNodeRun cl) s = .next u
    let pan := panelOf n.panelWord
    let j := n.slab e.step
    let block := s.seqRead o (blockSize n.ty / 64) (((n.kd 1).toNat + e.step * field (n.kd 3) 32 32) % 2 ^ 64) s
    let scale (u : State) := s.seqRead o 3 (((n.kd 4).toNat + 192 * e.step) % 2 ^ 64) u
    e.loads = [] → e.computes = [] → e.node = some n → (s.launch n.slot).suspended = false → n.tile = some t → e.step < n.slabs →
    (e.bucket < 256 * (pan.p - e.paid) → does (s.onEngine cl (fun e => e.lackTokens pan.p s.clk)))
    ∧ (256 * (pan.p - e.paid) ≤ e.bucket →
      (∀ u, block = .error (u, none) → does u) ∧ (∀ u c, block = .error (u, some c) → does (u.failNode cl n c))
      ∧ ∀ (u : State) (bs : List Byte) (bad : List (Nat × Nat)), block = .ok (u, bs, bad) →
        (∀ v, scale u = .error (v, none) → does v) ∧ (∀ v c, scale u = .error (v, some c) → does (v.failNode cl n c))
        ∧ ∀ (v : State) (sc : List Byte) (sbad : List (Nat × Nat)), scale u = .ok (v, sc, sbad) →
          (sbad ≠ [] → does (v.failNode cl n 0x066))
          ∧ (sbad = [] → ∀ c a, panelCheck (v.core (n.core cl)) n.panelWord j n.rows false 0 = some (c, a) → does (v.failNode cl n c))
          ∧ (sbad = [] → panelCheck (v.core (n.core cl)) n.panelWord j n.rows false 0 = none →
            let w := bad.foldl (fun (x : State) b =>
              { x with free := x.free + 1 }.machineCheck (clusterAgent 2 cl) (some n.slot) b.2 b.1 (Config.freeValue x.free)) v
            let recs := (e.tile t).fifo ++ [scaleOf sc]
            let e1 : MatrixEngine := { e.govStop s.clk with bucket := e.bucket - 256 * (pan.p - e.paid), paid := 0 }
            does ((w.onEngine cl (fun _ => { e1.onTile t (fun x => { x with fifo := recs.drop 1 }) with
              bufs := e1.bufs.set (e.step % 2) { loaded := true, elems := blockElems n.ty bs, poison := !bad.isEmpty, user := some n.owner },
              step := e.step + 1 })).addSlab cl t (e.step % 2) (n.core cl) n.owner pan j (recs.headD { r := [], y := [] }))))

/-- R44, R521: an engine's contribution is accepted by the instance that reduces for its launch and tag, once that has done its slabs and lacks
one; it is placed by cluster or by arrival. A contribution with no such instance stays, and with none nothing happens. -/
def Sys2Proof.Machine.Contributions : Prop :=
  ∀ (s : State) (cl : Nat), cl < 512 →
    let does (t : State) : Prop := exec (.splitkContribution cl) s = .next t
    ((s.engine cl).out = none → does s)
    ∧ (∀ c : Contribution, (s.engine cl).out = some c →
      let e := s.engine c.dest
      (e.node = none → does s)
      ∧ ∀ n : SeqNode, e.node = some n →
        let takes : Prop := 2 ≤ n.kmode ∧ n.slabs ≤ e.step ∧ n.tile ≠ none ∧ n.slot = c.slot ∧ n.epoch = c.epoch ∧ n.tag = c.tag
          ∧ n.held.length < n.splitn
        (¬ takes → does s)
        ∧ (takes → does ((s.onEngine c.dest (fun e => { e with node := some { n with
            held := n.held ++ [(if n.kmode = 3 then cl else s.clk * 512 + cl, c)], p := max n.p (c.l - 1) } })).onEngine cl
              (fun e => { e with out := none }))))

/-- The matrix sequencer and split-k contributions: `SequencerSteps`, `SequencerSlabs` and `Contributions`. -/
def Obligations.SequencerEvents : Prop :=
  SequencerSteps ∧ SequencerSlabs ∧ Contributions


/-- R297, R303, R304, R522: the copy engine takes the oldest copy of the core whose turn it is, the first after the one taken from last that
has any; a core that is not on turn keeps its own. A copy or near-memory node that is dispatched and not yet issued is issued on its unit. The
copies go on, and the first that has so reached its end completes or stops. -/
def Sys2Proof.Machine.CopyEngineEvents : Prop :=
  ∀ (s : State) (g cl st : Nat), g < 40960 → cl < 512 → st < 8 →
    let mine := clusterOf g
    let last := s.rotor.get 79 mine
    let turn : Prop := (s.core g).cpq ≠ [] ∧ ∀ i, i < 80 → (last + 1 + i) % 80 = g % 80 →
      ∀ j, j < i → (s.core (mine * 80 + (last + 1 + j) % 80)).cpq = []
    let copyNode := (s.caravan (cl / 128)).insts.find? (fun i => decide (i.entry.kind = 3) && decide (i.unit = cl)
      && !(s.jobs.get [] cl).any (fun j => j.issuer.isNode i.die i.ticket))
    let nearNode := (s.caravan (st / 2)).insts.find? (fun i => decide (i.entry.kind = 7) && decide (i.unit = st)
      && !s.near.any (fun n => n.issuer.isNode i.die i.ticket))
    let u := s.advanceCopies cl
    (turn → ∃ t : State, exec (.copyEngineTake g) s = .next t ∧ (t.core g).cpq = (s.core g).cpq.drop 1
      ∧ t.jobs.get [] mine = s.jobs.get [] mine ++ (s.core g).cpq.take 1 ∧ t.rotor.get 79 mine = g % 80 ∧ t.mem = s.mem)
    ∧ (¬ turn → exec (.copyEngineTake g) s = .next s)
    ∧ (∀ i, copyNode = some i → exec (.copyNodeDispatch (.copyEngine cl)) s = .next (s.issueCopyNode cl i))
    ∧ (copyNode = none → exec (.copyNodeDispatch (.copyEngine cl)) s = .next s)
    ∧ (∀ i, nearNode = some i → exec (.copyNodeDispatch (.nearMem st)) s = .next (s.issueNearNode st i))
    ∧ (nearNode = none → exec (.copyNodeDispatch (.nearMem st)) s = .next s)
    ∧ (∀ t, u.firstEnd cl false = some t → exec (.copyComplete cl) s = .next t)
    ∧ (u.firstEnd cl false = none → exec (.copyComplete cl) s = .next u)
    ∧ (∀ t, u.firstEnd cl true = some t → exec (.copyStop cl) s = .next t)
    ∧ (u.firstEnd cl true = none → exec (.copyStop cl) s = .next u)

/-- R305, R313, R314, R420: the near-memory commands of a stack go on, and the first whose writes are in the arrays completes or stops. The
oldest sealed batch of a context, or of the one parked in its place, completes once it has no member left, with the greatest P. -/
def Sys2Proof.Machine.NearAndBatchEvents : Prop :=
  ∀ (s : State) (g k st : Nat), g < 40960 → k < 13 → st < 8 →
    let u := (s.near.filter (fun n => stackOf n.wkey = st)).foldl (fun s n => s.advanceNear n) s
    let ends (stops : Bool) := u.near.find? (fun n => decide (stackOf n.wkey = st) && u.nearWritten n && n.fail.isSome = stops)
    let x := (s.core g).other.get {} k
    let ended (c : Ctx) (b : Batch) (r : List Batch) : Prop := c.batches = b :: r ∧ b.ops = []
    let done (c : Ctx) (b : Batch) (r : List Batch) : Ctx := { c with batches := r, done := b.num, doneP := max c.doneP b.p }
    (∀ n, ends false = some n → exec (.nmcExecute st) s = .next (u.endNear n))
    ∧ (ends false = none → exec (.nmcExecute st) s = .next u)
    ∧ (∀ n, ends true = some n → exec (.nmcStop st) s = .next (u.endNear n))
    ∧ (ends true = none → exec (.nmcStop st) s = .next u)
    ∧ (∀ b r, ended (s.ctx g k) b r → exec (.batchComplete g k) s = .next (s.onCtx g k (fun c => done c b r)))
    ∧ ((∀ b r, ¬ ended (s.ctx g k) b r) → ∀ b r, ended x b r →
      exec (.batchComplete g k) s = .next (s.onCore g (fun c => { c with other := c.other.set k (done x b r) })))
    ∧ ((∀ b r, ¬ ended (s.ctx g k) b r ∧ ¬ ended x b r) → exec (.batchComplete g k) s = .next s)

/-- Copy engine, near-memory commands and batches: `CopyEngineEvents` and `NearAndBatchEvents`. -/
def Obligations.CopyEvents : Prop :=
  CopyEngineEvents ∧ NearAndBatchEvents


/-- R253, R307-R310: a posted write that has none before it and no bank of its own core's that the matrix engine uses is applied at its
destination, or refused there without effect, with a reason; so is a destination arithmetic update. An acknowledgement frees the journal entry; a
refusal marks it with the reason, and is pending at its context. What is not due changes nothing. -/
def Sys2Proof.Machine.PostedEvents : Prop :=
  ∀ (s : State) (g i : Nat), g < 40960 → i < 32 →
    let inbox := (s.core g).inbox
    let first (want : Posted → Bool) := firstReady (fun p => want p && !s.bankHeld g p) (s.heldBack g) inbox [] inbox
    let store (p : Posted) : Bool := decide (p.kind = .store)
    let e := (s.core g).journal.get {} i
    (∀ p, first (fun p => !store p) = some p → exec (.destArithApply g) s = .next (s.applyPosted g p))
    ∧ (first (fun p => !store p) = none → exec (.destArithApply g) s = .next s)
    ∧ (∀ p, first store = some p → exec (.postedWriteApply g) s = .next (s.applyPosted g p))
    ∧ (first store = none → exec (.postedWriteApply g) s = .next s)
    ∧ (∀ p : Posted, inbox = [p] → s.bankHeld g p = false → s.heldBack g p = false → first (fun _ => true) = some p)
    ∧ (∀ p : Posted,
      (s.postedReason g p = none → p.kind = .store → (s.applyPosted g p).mem = s.mem.putBytes (localKey g p.off) p.bytes)
      ∧ (∀ r, s.postedReason g p = some r → (s.applyPosted g p).mem = s.mem)
      ∧ ((s.core g).mode (bankOf p.off) ≠ 0 → s.dev.gated.contains (clusterOf g) = false → s.postedReason g p = some 1))
    ∧ (e.state = .pending → e.reply = some 0 →
      exec (.postedWriteAck g i) s = .next (s.onCore g (fun c => { c with journal := c.journal.set i {} })))
    ∧ (e.state ≠ .pending ∨ e.reply ≠ some 0 → exec (.postedWriteAck g i) s = .next s)
    ∧ (∀ r, e.state = .pending → e.reply = some r → r ≠ 0 →
      exec (.postedWriteRefusal g i) s = .next ((s.onCore g (fun c => { c with
        journal := c.journal.set i { e with state := .refused, reason := r, reply := none } })).post e.org (.refused i)))
    ∧ (e.state ≠ .pending ∨ e.reply = none ∨ e.reply = some 0 → exec (.postedWriteRefusal g i) s = .next s)

/-- R375, R384-R386: the updates that wait at a barrier object apply in one clk, in no order; one that finds its bank not SPAD, or of another
owner, changes nothing. A domain's barrier
completes at T0, 64 clk after the last arrival and once every member has been resident, and releases its members; a slot's beginning
follows from the clk alone. The exchange ends once its slots are over and every send is written; a send is written at its destination, bank
by bank, and what comes to a bank that is not its owner's is dropped. What is not due changes nothing. -/
def Sys2Proof.Machine.BarrierEvents : Prop :=
  ∀ (s : State) (g d : Nat), g < 40960 → d < 64 →
    let x := s.domainOf d
    let t0 := x.members.foldl (fun t m => max t (s.ctx m 0).residentAt) (x.last + 64)
    let meets : Prop := x.configured = true ∧ x.exchanging = false ∧ x.arrived.length = x.members.length ∧ t0 ≤ s.clk
      ∧ ∀ m ∈ x.members, (s.ctx m 0).resident = true
    let ended : Prop := x.configured = true ∧ x.exchanging = true ∧ x.t0 + x.slots * x.slotLen ≤ s.clk ∧ x.sends = []
    (∀ (b : BarObj) (us vs : List BarUpdate), us.Perm vs → b.apply us = b.apply vs)
    ∧ ((s.core g).barq = [] → exec (.barrierUpdate g) s = .next s)
    ∧ (∀ u r, (s.core g).barq = u :: r → exec (.barrierUpdate g) s = .next ((s.updateBar g u.off []).tick 1))
    ∧ (∀ (off : Nat) (us : List BarUpdate),
      let all := ((s.core g).barq.filter (fun u => decide (u.off = off)) ++ us).filter (fun u =>
        decide ((s.core g).mode (bankOf u.off) = 0) && decide ((s.core g).tag (bankOf u.off) = u.owner))
      let v := s.updateBar g off us
      ((v.core g).barq = (s.core g).barq.filter (fun u => decide (u.off ≠ off)))
      ∧ (all = [] → v.mem = s.mem) ∧ (all ≠ [] → v.mem = s.mem.putBytes (localKey g off) ((s.barObj g off).apply all).bytes))
    ∧ (meets → exec (.syncBarrierComplete d) s = .next (s.onDomain d (fun x => { x with
        exchanging := true, t0 := t0, dp := x.arrived.foldl (fun m a => max m a.2) 0, sends := [], dropped := [], arrived := [],
        released := x.arrived.map (fun a => (a.1, x.count)) })))
    ∧ (¬ meets → exec (.syncBarrierComplete d) s = .next s)
    ∧ exec (.exchangeSlotBegin d) s = .next s
    ∧ (ended → exec (.exchangePhaseEnd d) s = .next (s.onDomain d (fun x => { x with exchanging := false, count := (x.count + 1) % 2 ^ 32 })))
    ∧ (¬ ended → exec (.exchangePhaseEnd d) s = .next s)
    ∧ (x.sends = [] → exec (.xsendDeliver d) s = .next s)
    ∧ (∀ m r, x.sends = m :: r →
      let u := s.onDomain d (fun x => { x with sends := r })
      let fits (b : Nat) : Bool := decide ((s.core m.dst).mode b = 0) && decide ((s.core m.dst).tag b = m.owner)
      let n := 512 - m.off % 512
      let part (off : Nat) (bs : List Byte) (v : State) : State :=
        if bs = [] then v else if fits (bankOf off) then v.localWrite m.dst off bs else v.onDomain d (fun x => { x with dropped := m.src :: x.dropped })
      exec (.xsendDeliver d) s = .next (part (m.off + n) (m.bytes.drop n) (part m.off (m.bytes.take n) u)))

/-- Posted writes, barrier updates and exchange phases: `PostedEvents` and `BarrierEvents`. -/
def Obligations.PostedAndBarrierEvents : Prop :=
  PostedEvents ∧ BarrierEvents

/-! ### Wadi, Barchan and the links (R99, R338, R482, R486, R489, R490, R518) -/

/-- R130, R482, R486: an open group that holds its returns, or is asked to, resolves, and any other stays. A join node opens its group with
INIT unless it is open; on a group that is not open it completes at once, with a P no less than the group's resolution; else it waits
in the group, which it resolves with NOW. A node whose completion would pass the clocks' limit is lost, and its launch ends (R361). With no join node nothing happens. -/
def Sys2Proof.Machine.JoinNodes : Prop :=
  ∀ (s : State) (die n : Nat), die < 4 → n < 1024 →
    let g := s.group die n
    let due : Prop := g.state = .opened ∧ (joinN g.cfg ≤ g.rets.length ∨ g.now = true)
    (due → exec (.wadiResolve die n) s = .next (s.resolve die n none).1)
    ∧ (¬ due → exec (.wadiResolve die n) s = .next s)
    ∧ (s.nextJoin die = none → exec (.joinNode die) s = .next s)
    ∧ (∀ i : Inst, s.nextJoin die = some i →
      let ctl := i.entry.record.kd 1
      let gn := (i.entry.record.kd 0).toNat % 2 ^ 10
      let g := s.group die gn
      let opens : Prop := ctl.getLsbD 63 = true ∧ g.state ≠ .opened
      let does (t : State) : Prop := exec (.joinNode die) s = .next t
      let joined (u : State) : State := u.onGroup die gn (fun g => { g with
        nodes := g.nodes ++ [i.ticket], p := max g.p i.entry.p, now := g.now || ctl.getLsbD 62 })
      let serves (u : State) : Prop :=
        (ctl.getLsbD 62 = false → does (joined u)) ∧ (ctl.getLsbD 62 = true → does ((joined u).resolve die gn none).1)
      (opens → serves (s.openGroup die gn (BitVec.ofNat 64 (ctl.toNat % 2 ^ 32)) (i.entry.record.kd 2)
        (s.launch i.entry.slot).owner i.entry.slot i.entry.epoch))
      ∧ (g.state = .opened → serves s)
      ∧ (ctl.getLsbD 63 = false → g.state ≠ .opened →
        let w := s.wadi.get (0, 0) die
        let h := max w.2 i.entry.p
        let p := max w.1 (h + 1)
        (p + 1 < clockLimit → does ({ s with wadi := s.wadi.set die (p + 1, h) }.engineDone die i.ticket (max p g.resP)))
        ∧ (clockLimit ≤ p + 1 → does ((s.engineLost die i.ticket).clockStop i.entry.slot clockLimit i.entry.addr))))

/-- R482: the ranking of returns is a total preorder in which, of equal returns, the lower ID is first. -/
def Sys2Proof.Machine.ReturnRanking : Prop :=
  ∀ (cfg : Word) (a b c : Ret),
    (ranksBefore cfg a b = true ∨ ranksBefore cfg b a = true)
    ∧ (ranksBefore cfg a b = true → ranksBefore cfg b c = true → ranksBefore cfg a c = true)
    ∧ (a.2.2 = b.2.2 → a.1 < b.1 → ranksBefore cfg a b = true ∧ ranksBefore cfg b a = false)

/-- Join groups resolve; the ranking is a total preorder: `JoinNodes` and `ReturnRanking`. -/
def Obligations.WadiEvents : Prop :=
  JoinNodes ∧ ReturnRanking


/-- R489: at the destination an open flit admits the stream of a new transfer or notes why not; page and queue flits of an admitted one
are stored; a close flit says how much there is, and asks for what is missing; once all of it has come the arrival ends. A queue flit whose
entries wait stays. A flit of another type, or of no transfer, changes nothing. -/
def Sys2Proof.Machine.ArrivingTransfers : Prop :=
  ∀ (s : State) (f : Flit),
    let does (i : Instr) (t : State) : Prop := exec i s = .next t
    (s.dev.tripped = true → ∀ i ∈ [Instr.xanwellOpen f, .xanwellPage f, .xanwellQueue f, .xanwellClose f], does i s)
    ∧ (f.typ = 5 → s.arrivalOf f = none → s.dev.tripped = false → does (.xanwellOpen f) (s.admitArrival f))
    ∧ (f.typ ≠ 5 ∨ s.arrivalOf f ≠ none → does (.xanwellOpen f) s)
    ∧ (s.arrivalOf f = none → ∀ i ∈ [Instr.xanwellPage f, .xanwellQueue f, .xanwellClose f], does i s)
    ∧ (let owner := f.info.toNat % 2 ^ 6
      let a : Arrival := { src := f.src, tag := f.tag, owner := owner, waiting := decide ((flitDword f 0).toNat % 2 ^ 4 = 4) }
      (s.owner owner).loaded = false → s.admitArrival f = { s with arrivals := s.arrivals ++ [{ a with status := 1 }] })
    ∧ (∀ a : Arrival, s.arrivalOf f = some a →
      (f.typ ≠ 6 ∨ a.status ≠ 0 → does (.xanwellPage f) s)
      ∧ (f.typ = 6 → a.status = 0 → s.chunkWaits a f = false → does (.xanwellPage f) ((s.putChunk a f).tryEnd f))
      ∧ (s.chunkWaits a f = true → does (.xanwellPage f) s)
      ∧ (f.typ ≠ 7 ∨ a.status ≠ 0 → does (.xanwellQueue f) s)
      ∧ (f.typ = 7 → a.status = 0 → s.dev.tripped = false → ∀ t done,
        s.putEntries a (f.len / 16) (f.payload.take (16 * (f.len / 16))) f.addr.toNat = (t, done) →
        (done = false → does (.xanwellQueue f) t)
        ∧ (done = true → does (.xanwellQueue f) ((t.onArrival a (fun x => { x with
          entries := max x.entries (f.addr.toNat + f.len / 16), bad := x.bad || f.flags.getLsbD 0 })).tryEnd f)))
      ∧ (f.typ ≠ 8 → does (.xanwellClose f) s)
      ∧ (f.typ = 8 → s.dev.tripped = false →
        let u := s.onArrival a (fun x => { x with closing := some (f.info.toNat % 2 ^ 32, f.info.toNat / 2 ^ 32) })
        does (.xanwellClose f) (State.tryEnd { u with flits := u.flits ++ (if a.status = 0 then a.missing else []) } f)))

/-- R471, R489: at the source the result flit of a transfer, from its destination, ends it with its status and handle, and a link failure with
status 4: its completion record is written first, where one is named, and while that waits so does the end. A stream that has gone is a stub
that forwards its handle. A result of another type, source or tag changes nothing. -/
def Sys2Proof.Machine.DepartingTransfers : Prop :=
  ∀ (s : State) (f : Flit) (n : Nat),
    let results (t : State) : Prop := exec (.xanwellResult f) s = .next t
    let fails (t : State) : Prop := exec (.xanwellLinkFailure n) s = .next t
    let ends (does : State → Prop) (t : Transfer) (status : Nat) (h : Word) : Prop :=
      (t.addr = 0 → does (s.endSource t status h))
      ∧ (t.addr ≠ 0 → ∀ (u : State) (a : UnitGot),
        s.unitStore t.recordOp t.addr.toNat (bytesOfNat 8 (if status = 0 then h else 0).toNat ++ bytesOfNat 8 (BitVec.ofNat 64 status).toNat) = (u, a) →
        (a = .pending → does u) ∧ (a = .clock → does ((u.clockStop t.slot clockLimit).endSource t status h))
        ∧ (a ≠ .pending → a ≠ .clock → does (u.endSource t status h)))
    (s.dev.tripped = true → results s ∧ fails s)
    ∧ (s.transferOf f.tag.toNat = none → results s)
    ∧ (∀ t : Transfer, s.transferOf f.tag.toNat = some t →
      (f.typ ≠ 9 ∨ f.src ≠ t.dest → results s)
      ∧ (f.typ = 9 → f.src = t.dest → s.dev.tripped = false → ends results t (f.info.toNat % 256) (BitVec.ofNat 64 (f.info.toNat / 256))))
    ∧ (s.transferOf n = none → fails s)
    ∧ (∀ t : Transfer, s.transferOf n = some t → s.dev.tripped = false → ends fails t 4 0)
    ∧ (∀ (t : Transfer) (status : Nat) (h : Word),
      let u := s.endSource t status h
      (status = 0 → (u.stream t.stream).fwd = some h ∧ (u.stream t.stream).state = .migratedStub)
      ∧ (∀ x ∈ u.transfers, x.tag ≠ t.tag))


/-- R99, R338, R490, R518: a put stores its masked bytes as one store of its sender, poisons the line where the flit says so, and is
acknowledged; one to a line that is held waits. A get is answered; a data flit and an acknowledgement change nothing of the part; a flit of an
undefined type is dropped and counted at its port. A link that trains has its width and rate, one that fails none, such as
a host port's whose other end offers only 68-byte flits, and training again is
counted. A flit of another type than the event's changes nothing. -/
def Sys2Proof.Machine.LinkEvents : Prop :=
  ∀ (s : State) (f : Flit),
    let line := f.addr.toNat / 64
    let bytes : Table Byte := ((List.range 64).filter (fun i => f.info.getLsbD i)).map (fun i => (64 * line + i, f.payload.getD i 0))
    let puts (t : State) : Prop := exec (.xanwellPut f) s = .next t
    (f.typ ≠ 1 → puts s)
    ∧ (f.typ = 1 → s.importStore f.src line bytes = none → puts (s.askHost line))
    ∧ (f.typ = 1 → ∀ t, s.importStore f.src line bytes = some t →
      let acked (u : State) : State := { u with flits := t.flits ++ [ackFlit f.src f.tag] }
      (f.flags.getLsbD 0 = false ∨ t.poison.contains line = true → puts (acked t))
      ∧ (f.flags.getLsbD 0 = true → t.poison.contains line = false → puts (acked { t with poison := line :: t.poison })))
    ∧ (f.typ = 2 → exec (.xanwellGet f) s = .next { s with flits := s.flits ++ [s.getAnswer f] })
    ∧ (f.typ ≠ 2 → exec (.xanwellGet f) s = .next s)
    ∧ exec (.xanwellData f) s = .next s ∧ exec (.xanwellAck f) s = .next s
    ∧ (∀ port, port < 6 →
      (f.typ = 0 ∨ 9 < f.typ → exec (.xanwellUndefinedFlit port f) s = .next (s.countLife (33 + 2 * port) 1))
      ∧ (1 ≤ f.typ → f.typ ≤ 9 → exec (.xanwellUndefinedFlit port f) s = .next s))
    ∧ (∀ port width rate, port < 11 →
      let up : Prop := 0 < width ∧ (port ≠ 6 ∨
        ((width = 16 ∨ width = 8 ∨ width = 4) ∧ (rate = 128 ∨ rate = 64 ∨ rate = 32)))
      let u := if (s.dev.ports.find port).isSome then s.countLife (32 + 2 * port) 1 else s
      let trains (t : State) : Prop := exec (.linkTraining port width rate) s = .next t
      (up → trains { u with dev := { u.dev with ports := u.dev.ports.set port (width, rate) } })
      ∧ (¬ up → trains { u with dev := { u.dev with ports := u.dev.ports.set port (0, 0) } }))


/-- Stream transfers and link flits: `ArrivingTransfers`, `DepartingTransfers` and `LinkEvents`. -/
def Obligations.LinksAndTransfers : Prop :=
  ArrivingTransfers ∧ DepartingTransfers ∧ LinkEvents

/-! ### The whole machine -/

/-- R362, R382, R384, R385, R387: what comes about once a turn is over. With no context that waits in a SYNC, an XWAIT or a WAITSIG, every superstep
barrier that is complete begins its exchange, and every exchange that is over ends. Such a context goes on, in the same clk, where its
instruction then completes; where it does not, where a trap or a pre-emption of it is due, or where it waits for something else, nothing
changes. CLKMAX is then no less than the clocks of any context. -/
def Sys2Proof.Machine.TurnsSettle : Prop :=
  ∀ (s : State) (g k : Nat),
    let ds := s.domains.map (·.1)
    let c := s.ctx g k
    let waits : Prop := c.live = true ∧ c.resident = true ∧ c.waitFrom ≠ none ∧ c.unissued = false
      ∧ ((∃ x, c.atPc = some (.sync x)) ∨ (∃ x, c.atPc = some (.xwait x)) ∨ ∃ x, c.atPc = some (.waitsig x))
    let calm : Prop := s.deliverAsync g k = none ∧ s.takePreempt g k = none
    (∀ t, turn s = .next t → step s = .next t.settleTurn)
    ∧ ((∀ e ∈ s.cores, ∀ k, k < 13 → ((ds.foldl (fun s d => s.barrierComplete d) s).ctx e.1 k).watches = false) →
      s.settleTurn = (ds.foldl (fun s d => s.phaseEnd d) (ds.foldl (fun s d => s.barrierComplete d) s)).noteClocks)
    ∧ ((s.settleTurn.ctx g k).l ≤ s.settleTurn.dev.clkmax ∧ (s.settleTurn.ctx g k).h ≤ s.settleTurn.dev.clkmax)
    ∧ (c.watches = true ↔ waits) ∧ (¬ waits ∨ ¬ calm → s.complete g k = s)
    ∧ (waits → calm → ∀ t, contextTurn s g k = .next t →
      ((t.ctx g k).waitFrom = none → s.complete g k = { t with clk := s.clk, cur := s.cur })
      ∧ ((t.ctx g k).waitFrom ≠ none → s.complete g k = s))
    ∧ ((∀ e ∈ s.cores, ∀ k, k < 13 → (s.ctx e.1 k).waitFrom = none) → (∀ e ∈ s.domains, e.2.configured = false) → s.settleTurn = s.noteClocks)

/-- R138, R144, R386, R404, R411, R455, R467, R514, log 1, log 41: a step takes a turn, after which what is due comes about (`TurnsSettle`). It takes the turn at the head of the agenda; where none is listed, the current context goes on
if it can take no slot, and otherwise its front end has its slot. A front end's issue slot goes to the context that the order of R138 chooses, which from then on is the last helper to issue there; where none is
ready a clk passes. In its slot a context for which no trap waits and no pre-emption is due runs the instruction that the bytes at its PC
decode to, once the register cache holds its pinned lines; an ERET that leads to an XSEND re-executes that too, in its own clk. Without a slot, an instruction that has issued and waits, or that is found not
ready to issue, is tried again, a pending trap or
pre-emption is taken, and otherwise a clk passes; of an NMFENCE and the trap of the stop that ends its wait, either may come first (R455, log 51). A sampler's slot runs the next word of the context whose turn comes next. An event's turn is the
event, and a row of words that stands for none is passed over. The host's mask of a vector's MSI-X entry stands from its turn on, and its
end sends the vector where it is pending (R101). A turn in which nothing happens lets clks pass. A context that is not live, not resident or yields, and every context of a part that
has tripped, lets a clk pass. -/
def Obligations.StepRunsDecoded : Prop :=
  ∀ (s : State) (rest : List Turn) (g k : Nat),
    let r := { s with agenda := rest }
    let able (u : State) : Prop := (u.ctx g k).live = true ∧ (u.ctx g k).resident = true ∧ u.dev.tripped = false
    let calm (u : State) : Prop := u.deliverAsync g k = none ∧ u.takePreempt g k = none
    let issues (u : State) : Prop := (u.ctx g k).poisoned = false → ∀ (bs : List Byte) (f : State) (i : Instr) (n : Nat),
      (u.pinLines g k).fetch g k = .bytes bs f → decode bs = .ok (i, n) →
      ((∀ x, i ≠ .eret x) → turn s = exec i { f with cur := (g, k) })
      ∧ (∀ t, exec i { f with cur := (g, k) } = .next t → (∀ x, i ≠ .eret x) ∨ (∀ (bs : List Byte) (y : RFields) (u : State) (n : Nat),
        t.fetch g k = .bytes bs u → decode bs ≠ .ok (.xsend y, n)) → turn s = .next t)
      ∧ (∀ t, exec i { f with cur := (g, k) } = .next t → (∃ x, i = .eret x) → ∀ (bs : List Byte) (y : RFields) (v : State) (n : Nat),
        t.fetch g k = .bytes bs v → decode bs = .ok (.xsend y, n) → turn s = exec (.xsend y) { v with clk := u.clk })
    let runs (u : State) : Prop := able u → calm u →
      ((u.ctx g k).yieldEnd = none → issues u)
      ∧ (∀ e, (u.ctx g k).yieldEnd = some e → e ≤ u.clk → issues (u.onCtx g k (fun c => { c with yieldEnd := none })))
      ∧ (∀ e, (u.ctx g k).yieldEnd = some e → u.clk < e → turn s = .next { u with clk := u.clk + 1 })
    let takes (u : State) : Prop := runs u ∧ (¬ able u → turn s = .next { u with clk := u.clk + 1 })
      ∧ (able u → u.fenceFirst g k = true → issues { u with free := u.free + 1 })
      ∧ (able u → u.fenceFirst g k = false → ∀ t, u.deliverAsync g k = some t → turn s = .next { t with clk := t.clk + 1 })
      ∧ (able u → u.deliverAsync g k = none → ∀ t, u.takePreempt g k = some t → turn s = .next { t with clk := t.clk + 1 })
    let free (u : State) (j : Nat) : Prop := u.slotless g j = false ∧ u.unready g j = false
    (∀ u : State, u.fenceFirst g k = true → (u.deliverAsync g k).isSome = true ∧ ∃ x, (u.ctx g k).atPc = some (.nmfence x))
    ∧ (s.agenda = [] → s.cur = (g, k) → ¬ free s k → takes s)
    ∧ (∀ j, s.agenda = [] → s.cur = (g, j) → free s j →
      (s.pick g (s.ctx g j).fe [] = some k → takes (s.issuedBy g (s.ctx g j).fe k))
      ∧ (s.pick g (s.ctx g j).fe [] = none → turn s = .next { s with clk := s.clk + 1 }))
    ∧ (∀ (fe : FE) (late : List Nat), s.agenda = .front g fe late :: rest →
      (r.pick g fe late = some k → takes (r.issuedBy g fe k))
      ∧ (r.pick g fe late = none → turn s = .next { r with clk := s.clk + 1 }))
    ∧ (s.agenda = .waits g k :: rest →
      (¬ free r k ∨ ¬ calm r → takes r)
      ∧ (free r k → calm r → turn s = .next { r with clk := s.clk + 1 }))
    ∧ (∀ late : List Nat, s.agenda = .micro g late :: rest →
      (r.nextSmp g late = none → turn s = .next { r with clk := s.clk + 1 })
      ∧ (r.nextSmp g late = some k → ∀ (c : SmpCtx) (i : Instr), r.smpCtx g k = some c → c.pc < c.words.length →
        decodeMicro (c.words.getD c.pc 0) = some i →
        turn s = exec i { r.onSampler g (fun m => { m with last := k }) with smp := (g, k) }))
    ∧ (∀ i : Instr, s.agenda = .event i :: rest → turn s = if i.isEvent then exec i r else .next r)
    ∧ (∀ v : Nat, s.agenda = .mask v true :: rest → s.dev.masked.contains v = false →
      turn s = .next { r with dev := { s.dev with masked := v :: s.dev.masked } })
    ∧ (∀ v : Nat, s.agenda = .mask v false :: rest → s.dev.pending.contains v = true →
      turn s = .next { r with dev := { s.dev with
        masked := s.dev.masked.filter (· ≠ v), pending := s.dev.pending.filter (· ≠ v), sent := v :: s.dev.sent } })
    ∧ (∀ n : Nat, s.agenda = .pass n :: rest → turn s = .next { r with clk := s.clk + n })
    ∧ TurnsSettle

/-- R138, R139, R147, R156, R252, R308: which context takes a front end's issue slot: of those that are ready, on A the control context before the helpers,
and of the helpers of the front end the first after the one that issued there last, in the order of their numbers round. A context is not ready
that is not live, not resident, late (R139, log 7), yields, waits, or whose next instruction is not fetched, waits for a queue or lacks room. -/
def Sys2Proof.Machine.IssueSlots : Prop :=
  ∀ (s : State) (g : Nat) (fe : FE) (late : List Nat),
    let ready (k : Nat) : Prop := k ∉ late ∧ s.slotless g k = false ∧ s.unready g k = false
    let here (k : Nat) : Prop := 1 ≤ k ∧ k ≤ 12 ∧ (s.ctx g k).fe = fe
    let last := (s.core g).lastIssue.get 0 (feIndex fe)
    let after (k : Nat) : Nat := (k + 11 - last % 12) % 12
    (fe = .a → ready 0 → s.pick g fe late = some 0)
    ∧ (¬ (fe = .a ∧ ready 0) → ∀ k, here k → ready k → (∀ j, here j → ready j → after k ≤ after j) → s.pick g fe late = some k)
    ∧ (¬ (fe = .a ∧ ready 0) → (∀ k, ¬ (here k ∧ ready k)) → s.pick g fe late = none)
    ∧ (∀ k, s.slotless g k = true ↔ (s.ctx g k).live = false ∨ (s.ctx g k).resident = false
      ∨ ((s.ctx g k).waitFrom ≠ none ∧ (s.ctx g k).unissued = false) ∨ ∃ e, (s.ctx g k).yieldEnd = some e ∧ s.clk < e)
    ∧ (∀ k, s.unready g k = true ↔ ∃ t, contextTurn s g k = .next t ∧ (t.ctx g k).waitFrom ≠ none ∧ (t.ctx g k).unissued = true)


/-- R182, R183, R185, R280, R113: what fetching gives. A block in the context's fetch buffer is read from there;
another one comes through the cluster's instruction cache, where a block that the owner's cache holds is as it was when it was read, and
becomes the most recently used, and another is read from memory and takes the place of the least recently used of a full set; the buffer of four
takes it as its newest. No region gives GM.HOLE, a page that may not be fetched from or a region that is not
translated GM.PROT, a page that the host has refused GM.XLATE, an uncorrectable error of the cache's block, or of the line where it is
read, FET.POISON; the error of a block that gives way leaves the cache with it. A page that is absent, one whose entry the host has not
yet resolved, and a read that finds no slot give no bytes. -/
def Sys2Proof.Machine.FetchValues : Prop :=
  ∀ (s : State) (g k : Nat),
    let c := s.ctx g k
    let cl := clusterOf g
    let a := (blockOf c.pc).toNat
    let own := s.ownerOf g k
    let w := s.translate cl own a
    let u := w.2
    let blocks := u.icache.get [] cl
    let rest (bs : List Byte) : List Byte := bs.drop (c.pc.toNat % 64)
    let miss : Prop := ∀ b ∈ c.fbuf, b.va ≠ blockOf c.pc
    (∀ b : FetchBlock, c.fbuf.find? (fun b => b.va = blockOf c.pc) = some b →
      s.fetch g k = .bytes (rest b.bytes) s)
    ∧ (miss → regionOf a = none → s.fetch g k = .fault 0x064 c.pc)
    ∧ (miss → regionOf a ≠ none → regionOf a ≠ some .translated → s.fetch g k = .fault 0x063 c.pc)
    ∧ (miss → regionOf a = some .translated → c.xfail = some (pageOf a) → s.fetch g k = .fault 0x062 c.pc)
    ∧ (miss → regionOf a = some .translated → c.xfail ≠ some (pageOf a) → s.stillHeld own a (ctxAgent g k) = true → s.fetch g k = .held)
    ∧ (miss → regionOf a = some .translated → c.xfail ≠ some (pageOf a) → s.stillHeld own a (ctxAgent g k) = false →
      (w.1 = .absent → s.fetch g k = .absent) ∧ (w.1 = .malformed → s.fetch g k = .fault 0x063 c.pc)
      ∧ ∀ (e : Word) (big : Bool), w.1 = .page e big →
        (entryKey e big a false true = none → s.fetch g k = .fault 0x063 c.pc)
        ∧ ∀ key : Nat, entryKey e big a false true = some key →
          let mine (b : CodeBlock) : Bool := decide (b.key = key) && decide (b.owner = own)
          let home := u.settle none (key / 64)
          let new : CodeBlock := { key := key, owner := own, bytes := home.mem.bytes key 64 }
          let gives (bs : List Byte) (t : State) : Prop := s.fetch g k = .bytes (rest bs) (t.onCtx g k (fun c => { c with
            fbuf := ({ va := blockOf (s.ctx g k).pc, bytes := bs } :: c.fbuf.filter (fun b => b.va ≠ blockOf (s.ctx g k).pc)).take 4 }))
          let bad : Prop := u.dev.icBad.contains (cl, own, key) = true
          let filled := insertCode new (home.icache.get [] cl)
          (∀ b, blocks.find? mine = some b → bad → s.fetch g k = .fault 0x023 c.pc)
          ∧ (∀ b, blocks.find? mine = some b → ¬ bad → gives b.bytes { u with icache := u.icache.set cl (b :: blocks.erase b) })
          ∧ (blocks.find? mine = none → u.starves own (key / 64) = true → s.fetch g k = .held)
          ∧ (blocks.find? mine = none → u.starves own (key / 64) = false →
            (home.poison.contains (key / 64) = true → s.fetch g k = .fault 0x023 c.pc)
            ∧ (home.poison.contains (key / 64) = false → gives new.bytes { home with
              icache := home.icache.set cl filled,
              dev := { home.dev with icBad :=
                home.dev.icBad.filter (fun e => decide (e.1 ≠ cl) || filled.any (fun x => decide ((x.owner, x.key) = e.2))) } })))
    ∧ (∀ (new : CodeBlock) (blocks : List CodeBlock),
      let same := blocks.filter (fun x => x.key / 64 % 256 = new.key / 64 % 256)
      (same.length < 16 → insertCode new blocks = new :: blocks)
      ∧ (16 ≤ same.length → ∀ v, same.getLast? = some v → insertCode new blocks = new :: blocks.erase v))

/-- What a context that fetches does with what fetching gives (R63, R113, R144, R407, R409): a trap, a wait for the page or for a slot, a decode
fault; and, where the register cache lacks a pinned line and the image is in error, SYS.IMAGE, routed, before anything is fetched. -/
def Sys2Proof.Machine.FetchTraps : Prop :=
  ∀ (s : State) (g k : Nat),
    let c := s.ctx g k
    let trap (f : State) (cause : Nat) (tval : Word) : Prop :=
      ∃ w0 w1 : Lane, issueAt s g k = .next (f.trapAt g k (bareEnv c.pc w0 w1) { cause := cause, tval := tval })
    let u := s.pinLines g k
    let waits (f : State → State) : Prop := issueAt s g k = .next (u.waiting g k (fun s => (f s).onCtx g k (fun c =>
      { c with mid := false, qFrom := none, unissued := true })))
    let pinned : List Nat := 8 :: 9 :: ((List.range 5).map ((0x4400 + 8 * c.wbase) / 64 + ·)).filter (· ≤ (0x4400 + 8 * c.wbase + 255) / 64)
    let lacks : Prop := ∃ l ∈ pinned, ((s.core g).shelf * 16 + k, l) ∉ (s.core g).rcache
    (¬ lacks → u = s)
    ∧ (c.poisoned = true → lacks → ∀ tval : Word, (tval = match c.atPc with
      | some i => (envOf s g k i).aval
      | none => 0) → issueAt s g k = .next
        (((s.onCtx g k (fun c => { c with poisoned := false })).takeTrap g k 0x1E7 false false c.pc tval 0 []).tick 1))
    ∧ (c.poisoned = false ∨ ¬ lacks →
    (∀ (cause : Nat) (tval : Word), u.fetch g k = .fault cause tval → trap u cause tval)
    ∧ (u.fetch g k = .absent → waits (fun s => s.holdFault (s.ownerOf g k) c.pc.toNat (ctxAgent g k) 2 (((c.launch).map (·.1)).getD 0)))
    ∧ (u.fetch g k = .held → waits id)
    ∧ (∀ (bs : List Byte) (f : State) (e : DecodeError), u.fetch g k = .bytes bs f → decode bs = .error e →
      trap f (match e with
          | .ended | .straddle => 0x022
          | .undef => 0x001
          | .form _ => 0x002
          | .rsvd fe => if feAllows fe c.fe then 0x004 else 0x003)
        (match e with
          | .ended | .straddle => c.pc
          | _ => ((lanesOf bs).headD 0).setWidth 64)))

/-- Fetching: `FetchValues`, `FetchTraps` and `IssueSlots`. -/
def Obligations.FetchResults : Prop :=
  FetchValues ∧ FetchTraps ∧ IssueSlots


/-- R63, R147, R149, R150: before an instruction of the cores executes, a failed check of its front end, form, fields or queue
directions traps with the cause of the first, and %tval word 0; an operand in a queue of a context with no set traps with
CPL.QSET; a queue that is empty, or full, makes it wait, since when the clk of R150 count, or traps with CPL.QEND and the operand's code where
no context can serve it. An instruction that has issued and waits has popped its queue sources, which its next attempt finds again, so that the
attempt is as in the state in which nothing was popped; a macro-operation that finds no room in its queue has not issued. Every instruction of
the cores answers a next state. -/
def Obligations.ChecksBeforeExecution : Prop :=
  ∀ (i : Instr) (s : State), (i.spec).isSome = true →
    let g := s.cur.1
    let k := s.cur.2
    let u := s.unpop g k
    let v := envOf s g k i
    exec i s = exec i u ∧ u.mine.popped = [] ∧ (s.mine.popped = [] → u = s)
    ∧ (∀ cause : Nat, decodeCause i s.mine.fe = some cause →
      exec i s = .next (s.trapped i cause (((encode i).headD 0).setWidth 64)))
    ∧ (decodeCause i s.mine.fe = none →
      (queueVerdict (u.core g) u.mine i = .noSet → exec i s = .next (u.trapAt g k v { cause := 0x0E7, tval := v.aval }))
      ∧ (∀ q : BitVec 6, queueVerdict (u.core g) u.mine i = .ended q →
        exec i s = .next (u.trapAt g k v { cause := 0x0E8, tval := q.setWidth 64 }))
      ∧ (∀ q : BitVec 6, queueVerdict (u.core g) u.mine i = .blocked q → ∃ t : State, exec i s = .next t
        ∧ t = { u with clk := s.clk + 1, cores := t.cores } ∧ (∀ h, h ≠ g → t.core h = u.core h)
        ∧ t.core g = { u.core g with ctxs := (t.core g).ctxs } ∧ (∀ j, j ≠ k → t.ctx g j = u.ctx g j)
        ∧ t.ctx g k = { u.mine with
          mid := false, waitFrom := some (s.mine.waitFrom.getD s.clk), qFrom := some (s.mine.qFrom.getD s.clk), unissued := true }))
    ∧ (queueVerdict (s.core g) s.mine i = .ready → s.mine.popped = [] →
      let t := s.takePops g k i
      let uses (n : Nat) : Nat := ((operandSources i).filter (fun q => isQueue q && decide (queueIndex q = n))).length
      (s.lacksRoom g i = true → t = s)
      ∧ (s.lacksRoom g i = false → ∀ n, (t.core g).queue s.mine.qset n = ((s.core g).queue s.mine.qset n).drop (uses n))
      ∧ (∀ n, ((t.unpop g k).core g).queue s.mine.qset n = (s.core g).queue s.mine.qset n))
    ∧ ∃ t : State, exec i s = .next t


/-- R8, R59, R276, R412: when an instruction of the cores traps into its context's handler, in a mode with no race log, nothing that it could
change has changed: all of memory and every unit is as before, and of its core only the trace unit and the context's trap frame, and in its context the trap registers,
WBASE, INTRAP and the PC, are written; what it popped and what it was charged while it waited are given back. -/
def Obligations.TrapsWithholdEffects : Prop :=
  ∀ (i : Instr) (s t : State), (i.spec).isSome = true → logBase s.mine.racemode = 0 → s.mine.intrap = false →
    exec i s = .next t → (t.ctx s.cur.1 s.cur.2).intrap = true →
    let c := t.ctx s.cur.1 s.cur.2
    let u := (s.unpop s.cur.1 s.cur.2).unadmit s.cur.1 s.cur.2
    t = { s with clk := s.clk + 1, cores := t.cores } ∧ (∀ h, h ≠ s.cur.1 → t.core h = s.core h)
    ∧ t.core s.cur.1 = { u.core s.cur.1 with
        ctxs := (t.core s.cur.1).ctxs, trace := (t.core s.cur.1).trace, tframes := (t.core s.cur.1).tframes }
    ∧ (∀ j, j ≠ s.cur.2 → (t.core s.cur.1).frame j = (s.core s.cur.1).frame j)
    ∧ (s.mine.popped = [] → s.mine.admitted = 0 → s.cur.2 ∉ (s.core s.cur.1).wl.waiters → u = s)
    ∧ (∀ j, j ≠ s.cur.2 → t.ctx s.cur.1 j = s.ctx s.cur.1 j)
    ∧ c = { s.mine with
        tcause := c.tcause, epc := c.epc, tval := c.tval, wbase := s.mine.wbase + 32, intrap := true,
        pc := s.mine.tvec, waitFrom := none, mid := false, qFrom := none, unissued := false, yieldEnd := none, nwait := none, xfail := none,
        popped := [], admitted := 0 }
    ∧ (c.epc = s.mine.pc ∨ c.epc = s.mine.pc + BitVec.ofNat 64 (instrBytes i))


/-- R13: no step is refused, and the only stop is that of an event of the agenda which names a unit that the part does not have: one
that stops, stops whatever the part's state is. -/
def Obligations.StepsNeverStop : Prop :=
  ∀ s : State, (∀ r : Refusal, step s ≠ .refused r)
    ∧ ((∀ i : Instr, s.agenda.head? ≠ some (.event i)) → ∃ t : State, step s = .next t)
    ∧ ∀ (i : Instr) (f : Fault), exec i s = .fault f → (i.spec).isSome = false ∧ (i.micro?).isSome = false ∧ ∀ t : State, exec i t = .fault f


/-- R49, R53, R54: decoding the words of a well-formed instruction of the cores gives it back, with how many words it has, whatever
follows it; so with its bytes; and a word of the sampler's store gives back its micro-instruction (R467). -/
def Obligations.DecodeOfEncode : Prop :=
  (∀ (i : Instr) (rest : List Lane), (i.spec).isSome = true → i.formOk = true → i.rsvdOk = true →
    decodeWords (encode i ++ rest) = .ok (i, (encode i).length))
  ∧ (∀ (i : Instr) (rest : List Byte), (i.spec).isSome = true → i.formOk = true → i.rsvdOk = true →
    decode (encodeBytes i ++ rest) = .ok (i, (encode i).length))
  ∧ ∀ i : Instr, (i.micro?).isSome = true → i.microOk = true → (encode i).map decodeMicro = [some i]

/-- R49, R53, R54, R467: the other direction: what decodes to an instruction is that instruction's words, so no two sequences of words
mean the same and no bit of one is ignored. -/
def Obligations.EncodeOfDecode : Prop :=
  (∀ (ws : List Lane) (i : Instr) (n : Nat), decodeWords ws = .ok (i, n) → encode i = ws.take n ∧ i.formOk = true ∧ i.rsvdOk = true)
  ∧ ∀ (w : Lane) (i : Instr), decodeMicro w = some i → encode i = [w] ∧ i.microOk = true

/-- The worked encodings of R204 and of R202-R220's examples decode to the instructions they stand for, and words that no opcode, no
format or no field value allows are refused as R63 says. -/
def Obligations.WorkedWords : Prop :=
  decodeWords [0x01440C01, 0x00000080, 0] = .ok (.add { fn := 0, b := 5, a := 4, d := 3, form := .ext {
      sub := 0, f2 := false, sat := false, hint := 0, sc := 0, rm := 0, ty := 2, c := 0, imm32 := 0 } }, 3)
  ∧ decodeWords [0x01492428] = .ok (.shl { fn := 0, b := 5, a := 9, d := 9, form := .word }, 1)
  ∧ decodeWords [0x10C20854] = .ok (.shri { imm10 := 0x43, a := 2, d := 2, form := .word }, 1)
  ∧ decodeWords [0x0000305E, 0xFFFF0000, 0x00007FFF] = .ok (.lit { imm10 := 0, a := 0, d := 12, form := .lit 0x00007FFFFFFF0000 }, 3)
  ∧ decodeWords [0x31C61470] = .ok (.addr { fn := 3, b := 7, a := 6, d := 5, form := .word }, 1)
  ∧ decodeWords [] = .error .ended ∧ decodeWords [0x01440C01, 0x00000080] = .error .straddle
  ∧ decodeWords [0x000003FC] = .error .undef

/-- R3, log 3: every step keeps memory in its canonical form, so that equal memories are equal data. -/
def Obligations.MemoryStaysCanonical : Prop :=
  ∀ s t : State, s.mem.wf = true → step s = .next t → t.mem.wf = true

/-- R143, R146, R222, R424: every step keeps the registers of every context within their ranges: WBASE, now and in the trap frame, at most
1,888, a queue set 0-6, at most 128 lanes, %tvec a multiple of 64 below 2^56. -/
def Obligations.ContextsStayGood : Prop :=
  ∀ s t : State, s.good → step s = .next t → t.good

/-- R143, R355, R520 and the model's own choices for what the spec gives no reset value (log 3, log 4): after module reset memory lists
nothing, every control context is idle, every helper free, WBASE 0, no queue set bound, the race mode is the default, no launch
is active, and the state meets both invariants. -/
def Obligations.ResetState : Prop :=
  State.reset.mem = [] ∧ State.reset.mem.wf = true ∧ State.reset.good
  ∧ (∀ g k, (State.reset.ctx g k).wbase = 0 ∧ (State.reset.ctx g k).qset = 6 ∧ (State.reset.ctx g k).grant = 0
      ∧ (State.reset.ctx g k).racemode = 0x600 ∧ (State.reset.ctx g k).tvec = 0 ∧ (State.reset.ctx g k).intrap = false
      ∧ (∀ n, (State.reset.ctx g k).s n = 0 ∧ (State.reset.ctx g k).gr n = 0))
  ∧ (∀ g, (State.reset.ctx g 0).hstate = .live ∧ (State.reset.ctx g 0).idle = true)
  ∧ (∀ g k, k ≠ 0 → (State.reset.ctx g k).hstate = .free)
  ∧ (∀ n, (State.reset.launch n).state = .idle) ∧ State.reset.dev.ready = false
end

