-- ==== Sys2Proof/Laws/Memory.lean ====
section
/-! SUPPORT. Memory: what a write is read back as, what it leaves alone, and that every operation keeps the canonical form. -/
namespace Sys2Proof.Machine

theorem Memory.wfFrom_le {lo lo' : Nat} {m : Memory} (h : lo' ≤ lo) (hm : m.wfFrom lo = true) : m.wfFrom lo' = true := by
  cases m with
  | nil => rfl
  | cons c r =>
    simp only [Memory.wfFrom, Bool.and_eq_true, decide_eq_true_eq] at hm ⊢
    exact ⟨⟨by omega, hm.1.2⟩, hm.2⟩

theorem Memory.byte_below {lo : Nat} {m : Memory} {a : Nat} (hm : m.wfFrom lo = true) (h : a < lo) : m.byte a = 0 := by
  cases m with
  | nil => rfl
  | cons c r =>
    simp only [Memory.wfFrom, Bool.and_eq_true, decide_eq_true_eq] at hm
    simp only [Memory.byte]
    rw [if_neg (by omega), if_pos (by omega)]

theorem Memory.byte_put_same {lo : Nat} (m : Memory) (a : Nat) (b : Byte) (hm : m.wfFrom lo = true) : (m.put a b).byte a = b := by
  induction m generalizing lo with
  | nil =>
    simp only [Memory.put]
    split <;> simp [Memory.byte, *]
  | cons c r ih =>
    obtain ⟨k, v⟩ := c
    simp only [Memory.wfFrom, Bool.and_eq_true, decide_eq_true_eq] at hm
    simp only [Memory.put]
    split
    · rename_i hk
      split
      · simp [Memory.byte, show ¬ a = k by omega, *]
      · simp [Memory.byte]
    · split
      · rename_i hk; subst hk
        split
        · rename_i hb; rw [Memory.byte_below hm.2 (by omega), hb]
        · simp [Memory.byte]
      · simp only [Memory.byte]
        rw [if_neg (by omega), if_neg (by omega)]
        exact ih hm.2

theorem Memory.byte_put_other {lo : Nat} (m : Memory) {a a' : Nat} (b : Byte) (h : a' ≠ a) (hm : m.wfFrom lo = true) :
    (m.put a b).byte a' = m.byte a' := by
  induction m generalizing lo with
  | nil =>
    simp only [Memory.put]
    split
    · rfl
    · simp [Memory.byte, h]
  | cons c r ih =>
    obtain ⟨k, v⟩ := c
    simp only [Memory.wfFrom, Bool.and_eq_true, decide_eq_true_eq] at hm
    simp only [Memory.put]
    split
    · rename_i hk
      split
      · rfl
      · simp only [Memory.byte, if_neg h]
        split
        · rw [if_neg (by omega), if_pos (by omega)]
        · rfl
    · split
      · rename_i hk; subst hk
        split
        · simp only [Memory.byte, if_neg h]
          split
          · exact Memory.byte_below hm.2 (by omega)
          · rfl
        · simp only [Memory.byte, if_neg h]
      · simp only [Memory.byte]
        split
        · rfl
        · split
          · rfl
          · exact ih hm.2

theorem Memory.wfFrom_put {lo : Nat} (m : Memory) (a : Nat) (b : Byte) (ha : lo ≤ a) (hm : m.wfFrom lo = true) :
    (m.put a b).wfFrom lo = true := by
  induction m generalizing lo with
  | nil =>
    simp only [Memory.put]
    split
    · rfl
    · rename_i hb
      simp [Memory.wfFrom, ha]
      exact hb
  | cons c r ih =>
    obtain ⟨k, v⟩ := c
    have hm' := hm
    simp only [Memory.wfFrom, Bool.and_eq_true, decide_eq_true_eq] at hm
    simp only [Memory.put]
    split
    · split
      · exact hm'
      · simp only [Memory.wfFrom, Bool.and_eq_true, decide_eq_true_eq]
        exact ⟨⟨ha, by simpa using ‹¬b = 0›⟩, ⟨by omega, hm.1.2⟩, hm.2⟩
    · split
      · rename_i hk; subst hk
        split
        · exact Memory.wfFrom_le (by omega) hm.2
        · simp only [Memory.wfFrom, Bool.and_eq_true, decide_eq_true_eq]
          exact ⟨⟨ha, by simpa using ‹¬b = 0›⟩, hm.2⟩
      · simp only [Memory.wfFrom, Bool.and_eq_true, decide_eq_true_eq]
        exact ⟨hm.1, ih (by omega) hm.2⟩

/-- Writing a byte keeps the canonical form. -/
theorem Memory.wf_put (m : Memory) (a : Nat) (b : Byte) (hm : m.wf = true) : (m.put a b).wf = true :=
  Memory.wfFrom_put m a b (Nat.zero_le a) hm

/-- Writing bytes keeps the canonical form. -/
theorem Memory.wf_putBytes (m : Memory) (a : Nat) (bs : List Byte) (hm : m.wf = true) : (m.putBytes a bs).wf = true := by
  induction bs generalizing m a with
  | nil => exact hm
  | cons b r ih => exact ih _ _ (Memory.wf_put m a b hm)

/-- Writing a word keeps the canonical form. -/
theorem Memory.wf_putDword (m : Memory) (a : Nat) (v : Word) (hm : m.wf = true) : (m.putDword a v).wf = true :=
  Memory.wf_putBytes m a _ hm

theorem Memory.wfFrom_filter {lo : Nat} (m : Memory) (p : Host.Cell → Bool) (hm : m.wfFrom lo = true) :
    Memory.wfFrom lo (m.filter p) = true := by
  induction m generalizing lo with
  | nil => rfl
  | cons c r ih =>
    obtain ⟨k, v⟩ := c
    simp only [Memory.wfFrom, Bool.and_eq_true, decide_eq_true_eq] at hm
    simp only [List.filter_cons]
    split
    · simp only [Memory.wfFrom, Bool.and_eq_true, decide_eq_true_eq]
      exact ⟨hm.1, ih hm.2⟩
    · exact Memory.wfFrom_le (by omega) (ih hm.2)

/-- Making bytes zero keeps the canonical form. -/
theorem Memory.wf_zero (m : Memory) (a n : Nat) (hm : m.wf = true) : (m.zero a n).wf = true :=
  Memory.wfFrom_filter m _ hm

/-- Bytes written are read back; every other byte reads as before. -/
theorem Memory.byte_putBytes (m : Memory) (a : Nat) (bs : List Byte) (x : Nat) (hm : m.wf = true) :
    (m.putBytes a bs).byte x = if a ≤ x ∧ x < a + bs.length then bs.getD (x - a) 0 else m.byte x := by
  induction bs generalizing m a with
  | nil => simp only [Memory.putBytes, List.length_nil]; rw [if_neg (by omega)]
  | cons b r ih =>
    simp only [Memory.putBytes]
    rw [ih _ _ (Memory.wf_put m a b hm)]
    simp only [List.length_cons]
    by_cases hx : x = a
    · subst hx
      rw [if_neg (by omega), if_pos (by omega), Memory.byte_put_same m x b hm]
      simp
    · rw [Memory.byte_put_other m b hx hm]
      by_cases h1 : a ≤ x ∧ x < a + (r.length + 1)
      · rw [if_pos (by omega), if_pos h1]
        obtain ⟨n, hn⟩ : ∃ n, x - a = n + 1 := ⟨x - a - 1, by omega⟩
        rw [hn, show x - (a + 1) = n by omega]
        simp
      · rw [if_neg (by omega), if_neg h1]

/-- Two canonical memories that read alike are the same list. -/
theorem Memory.ext_of_byte {lo : Nat} (m n : Memory) (hm : m.wfFrom lo = true) (hn : n.wfFrom lo = true)
    (h : ∀ a, m.byte a = n.byte a) : m = n := by
  induction m generalizing lo n with
  | nil =>
    cases n with
    | nil => rfl
    | cons d r =>
      simp only [Memory.wfFrom, Bool.and_eq_true, decide_eq_true_eq] at hn
      have := h d.1
      simp only [Memory.byte, if_true] at this
      exact absurd this.symm (by simpa using hn.1.2)
  | cons c m ih =>
    have hm' := hm
    simp only [Memory.wfFrom, Bool.and_eq_true, decide_eq_true_eq] at hm
    cases n with
    | nil =>
      have := h c.1
      simp only [Memory.byte, if_true] at this
      exact absurd this (by simpa using hm.1.2)
    | cons d n =>
      have hn' := hn
      simp only [Memory.wfFrom, Bool.and_eq_true, decide_eq_true_eq] at hn
      obtain ⟨k, v⟩ := c
      obtain ⟨j, w⟩ := d
      have hk : k = j := by
        rcases Nat.lt_trichotomy k j with hlt | heq | hgt
        · have := h k
          simp only [Memory.byte, if_true] at this
          rw [if_neg (by omega), if_pos hlt] at this
          exact absurd this (by simpa using hm.1.2)
        · exact heq
        · have := h j
          simp only [Memory.byte, if_true] at this
          rw [if_neg (by omega), if_pos hgt] at this
          exact absurd this.symm (by simpa using hn.1.2)
      subst hk
      have hv : v = w := by simpa [Memory.byte] using h k
      subst hv
      have : m = n := ih n hm.2 hn.2 (fun a => by
        have := h a
        simp only [Memory.byte] at this
        by_cases h1 : a = k
        · rw [Memory.byte_below hm.2 (by omega), Memory.byte_below hn.2 (by omega)]
        · rw [if_neg h1, if_neg h1] at this
          by_cases h2 : a < k
          · rw [Memory.byte_below hm.2 (by omega), Memory.byte_below hn.2 (by omega)]
          · rwa [if_neg h2, if_neg h2] at this)
      rw [this]

theorem bytesOfNat_length (n v : Nat) : (bytesOfNat n v).length = n := by
  induction n generalizing v with
  | zero => rfl
  | succ n ih => simp [bytesOfNat, ih]

theorem natOfBytes_bytesOfNat (n v : Nat) : natOfBytes (bytesOfNat n v) = v % 256 ^ n := by
  induction n generalizing v with
  | zero => simp [bytesOfNat, natOfBytes, Nat.mod_one]
  | succ n ih =>
    simp only [bytesOfNat, natOfBytes, ih, BitVec.toNat_ofNat]
    rw [show (256 : Nat) ^ (n + 1) = 256 * 256 ^ n from Nat.pow_succ', Nat.mod_mul]

theorem Memory.bytes_putBytes (m : Memory) (a : Nat) (bs : List Byte) (hm : m.wf = true) : (m.putBytes a bs).bytes a bs.length = bs := by
  have key : ∀ (n i : Nat), i + n = bs.length → (m.putBytes a bs).bytes (a + i) n = bs.drop i := by
    intro n
    induction n with
    | zero =>
      intro i hi
      rw [List.drop_eq_nil_of_le (by omega)]
      rfl
    | succ n ih =>
      intro i hi
      simp only [Memory.bytes]
      rw [Memory.byte_putBytes m a bs (a + i) hm, if_pos (by omega), show a + i - a = i by omega,
        show a + i + 1 = a + (i + 1) by omega, ih (i + 1) (by omega),
        List.drop_eq_getElem_cons (by omega : i < bs.length)]
      congr 1
      simp [List.getD, show i < bs.length by omega]
  simpa using key bs.length 0 (by simp)

/-- A stored word is loaded as it was stored. -/
theorem Memory.dword_putDword (m : Memory) (a : Nat) (v : Word) (hm : m.wf = true) : (m.putDword a v).dword a = v := by
  unfold Memory.dword Memory.putDword
  have h := Memory.bytes_putBytes m a (bytesOfNat 8 v.toNat) hm
  rw [bytesOfNat_length] at h
  rw [h, natOfBytes_bytesOfNat, show (256 : Nat) ^ 8 = 2 ^ 64 by norm_num, Nat.mod_eq_of_lt v.isLt]
  simp

end Sys2Proof.Machine
end

