-- ==== Sys2Proof/Laws/Table.lean ====
section
/-! SUPPORT. Sparse tables: a write is read back, and leaves every other key alone. -/
namespace Sys2Proof.Machine

theorem Table.find_set_same {α : Type} (t : Table α) (i : Nat) (v : α) : Table.find (t.set i v) i = some v := by
  induction t with
  | nil => simp [Table.set, Table.find]
  | cons e r ih =>
    obtain ⟨k, w⟩ := e
    simp only [Table.set]
    split
    · simp [Table.find]
    · simp [Table.find, *]

theorem Table.find_set_other {α : Type} (t : Table α) {i j : Nat} (v : α) (h : j ≠ i) :
    Table.find (t.set i v) j = Table.find t j := by
  induction t with
  | nil => simp [Table.set, Table.find, Ne.symm h]
  | cons e r ih =>
    obtain ⟨k, w⟩ := e
    simp only [Table.set]
    split
    · rename_i hk; subst hk; simp [Table.find, Ne.symm h]
    · simp only [Table.find]; split <;> simp [ih]

theorem Table.get_set_same {α : Type} (t : Table α) (d : α) (i : Nat) (v : α) : Table.get (t.set i v) d i = v := by
  simp [Table.get, Table.find_set_same]

theorem Table.get_set_other {α : Type} (t : Table α) (d : α) {i j : Nat} (v : α) (h : j ≠ i) :
    Table.get (t.set i v) d j = Table.get t d j := by
  simp [Table.get, Table.find_set_other t v h]

theorem Table.find_drop_same {α : Type} (t : Table α) (i : Nat) : Table.find (t.drop i) i = none := by
  induction t with
  | nil => rfl
  | cons e r ih =>
    obtain ⟨k, w⟩ := e
    by_cases hk : k = i
    · simpa [Table.drop, hk] using ih
    · simp only [Table.drop, ne_eq, hk, not_false_eq_true, decide_true, List.filter_cons_of_pos, Table.find, if_false]
      exact ih

theorem Table.find_drop_other {α : Type} (t : Table α) {i j : Nat} (h : j ≠ i) :
    Table.find (t.drop i) j = Table.find t j := by
  induction t with
  | nil => rfl
  | cons e r ih =>
    obtain ⟨k, w⟩ := e
    by_cases hk : k = i
    · subst hk
      have : Table.find r j = Table.find ((k, w) :: r) j := by simp [Table.find, Ne.symm h]
      rw [← this, ← ih]
      simp [Table.drop]
    · by_cases hj : k = j
      · simp [Table.drop, Table.find, hj, h]
      · simp only [Table.drop, ne_eq, hk, not_false_eq_true, decide_true, List.filter_cons_of_pos, Table.find, hj, if_false]
        exact ih

end Sys2Proof.Machine
end

