-- ==== Sys2Proof/Laws/State.lean ====
section
/-! SUPPORT. What each update of the state leaves alone, field by field, and what the register accessors give back. -/
namespace Sys2Proof.Machine

/-! ### State.setCore -/

@[simp] theorem State.setCore_clk (s : State) (g : Nat) (c : Core) : (s.setCore g c).clk = s.clk := rfl
@[simp] theorem State.setCore_agenda (s : State) (g : Nat) (c : Core) : (s.setCore g c).agenda = s.agenda := rfl
@[simp] theorem State.setCore_cur (s : State) (g : Nat) (c : Core) : (s.setCore g c).cur = s.cur := rfl
@[simp] theorem State.setCore_smp (s : State) (g : Nat) (c : Core) : (s.setCore g c).smp = s.smp := rfl
@[simp] theorem State.setCore_mem (s : State) (g : Nat) (c : Core) : (s.setCore g c).mem = s.mem := rfl
@[simp] theorem State.setCore_poison (s : State) (g : Nat) (c : Core) : (s.setCore g c).poison = s.poison := rfl
@[simp] theorem State.setCore_lmPoison (s : State) (g : Nat) (c : Core) : (s.setCore g c).lmPoison = s.lmPoison := rfl
@[simp] theorem State.setCore_keyed (s : State) (g : Nat) (c : Core) : (s.setCore g c).keyed = s.keyed := rfl
@[simp] theorem State.setCore_lines (s : State) (g : Nat) (c : Core) : (s.setCore g c).lines = s.lines := rfl
@[simp] theorem State.setCore_sums (s : State) (g : Nat) (c : Core) : (s.setCore g c).sums = s.sums := rfl
@[simp] theorem State.setCore_metaUse (s : State) (g : Nat) (c : Core) : (s.setCore g c).metaUse = s.metaUse := rfl
@[simp] theorem State.setCore_hostClk (s : State) (g : Nat) (c : Core) : (s.setCore g c).hostClk = s.hostClk := rfl
@[simp] theorem State.setCore_imports (s : State) (g : Nat) (c : Core) : (s.setCore g c).imports = s.imports := rfl
@[simp] theorem State.setCore_launches (s : State) (g : Nat) (c : Core) : (s.setCore g c).launches = s.launches := rfl
@[simp] theorem State.setCore_caravans (s : State) (g : Nat) (c : Core) : (s.setCore g c).caravans = s.caravans := rfl
@[simp] theorem State.setCore_drives (s : State) (g : Nat) (c : Core) : (s.setCore g c).drives = s.drives := rfl
@[simp] theorem State.setCore_domains (s : State) (g : Nat) (c : Core) : (s.setCore g c).domains = s.domains := rfl
@[simp] theorem State.setCore_owners (s : State) (g : Nat) (c : Core) : (s.setCore g c).owners = s.owners := rfl
@[simp] theorem State.setCore_streams (s : State) (g : Nat) (c : Core) : (s.setCore g c).streams = s.streams := rfl
@[simp] theorem State.setCore_nodes (s : State) (g : Nat) (c : Core) : (s.setCore g c).nodes = s.nodes := rfl
@[simp] theorem State.setCore_pages (s : State) (g : Nat) (c : Core) : (s.setCore g c).pages = s.pages := rfl
@[simp] theorem State.setCore_gone (s : State) (g : Nat) (c : Core) : (s.setCore g c).gone = s.gone := rfl
@[simp] theorem State.setCore_replay (s : State) (g : Nat) (c : Core) : (s.setCore g c).replay = s.replay := rfl
@[simp] theorem State.setCore_poolUsed (s : State) (g : Nat) (c : Core) : (s.setCore g c).poolUsed = s.poolUsed := rfl
@[simp] theorem State.setCore_tlbs (s : State) (g : Nat) (c : Core) : (s.setCore g c).tlbs = s.tlbs := rfl
@[simp] theorem State.setCore_icache (s : State) (g : Nat) (c : Core) : (s.setCore g c).icache = s.icache := rfl
@[simp] theorem State.setCore_held (s : State) (g : Nat) (c : Core) : (s.setCore g c).held = s.held := rfl
@[simp] theorem State.setCore_matrix (s : State) (g : Nat) (c : Core) : (s.setCore g c).matrix = s.matrix := rfl
@[simp] theorem State.setCore_jobs (s : State) (g : Nat) (c : Core) : (s.setCore g c).jobs = s.jobs := rfl
@[simp] theorem State.setCore_rotor (s : State) (g : Nat) (c : Core) : (s.setCore g c).rotor = s.rotor := rfl
@[simp] theorem State.setCore_moves (s : State) (g : Nat) (c : Core) : (s.setCore g c).moves = s.moves := rfl
@[simp] theorem State.setCore_engSeq (s : State) (g : Nat) (c : Core) : (s.setCore g c).engSeq = s.engSeq := rfl
@[simp] theorem State.setCore_near (s : State) (g : Nat) (c : Core) : (s.setCore g c).near = s.near := rfl
@[simp] theorem State.setCore_chans (s : State) (g : Nat) (c : Core) : (s.setCore g c).chans = s.chans := rfl
@[simp] theorem State.setCore_array (s : State) (g : Nat) (c : Core) : (s.setCore g c).array = s.array := rfl
@[simp] theorem State.setCore_samplers (s : State) (g : Nat) (c : Core) : (s.setCore g c).samplers = s.samplers := rfl
@[simp] theorem State.setCore_groups (s : State) (g : Nat) (c : Core) : (s.setCore g c).groups = s.groups := rfl
@[simp] theorem State.setCore_wadi (s : State) (g : Nat) (c : Core) : (s.setCore g c).wadi = s.wadi := rfl
@[simp] theorem State.setCore_transfers (s : State) (g : Nat) (c : Core) : (s.setCore g c).transfers = s.transfers := rfl
@[simp] theorem State.setCore_arrivals (s : State) (g : Nat) (c : Core) : (s.setCore g c).arrivals = s.arrivals := rfl
@[simp] theorem State.setCore_flits (s : State) (g : Nat) (c : Core) : (s.setCore g c).flits = s.flits := rfl
@[simp] theorem State.setCore_sirocco (s : State) (g : Nat) (c : Core) : (s.setCore g c).sirocco = s.sirocco := rfl
@[simp] theorem State.setCore_dev (s : State) (g : Nat) (c : Core) : (s.setCore g c).dev = s.dev := rfl
@[simp] theorem State.setCore_seen (s : State) (g : Nat) (c : Core) : (s.setCore g c).seen = s.seen := rfl
@[simp] theorem State.setCore_free (s : State) (g : Nat) (c : Core) : (s.setCore g c).free = s.free := rfl
@[simp] theorem State.setCore_fresh (s : State) (g : Nat) (c : Core) : (s.setCore g c).fresh = s.fresh := rfl

/-! ### State.setCtx -/

@[simp] theorem State.setCtx_clk (s : State) (g k : Nat) (c : Ctx) : (s.setCtx g k c).clk = s.clk := rfl
@[simp] theorem State.setCtx_agenda (s : State) (g k : Nat) (c : Ctx) : (s.setCtx g k c).agenda = s.agenda := rfl
@[simp] theorem State.setCtx_cur (s : State) (g k : Nat) (c : Ctx) : (s.setCtx g k c).cur = s.cur := rfl
@[simp] theorem State.setCtx_smp (s : State) (g k : Nat) (c : Ctx) : (s.setCtx g k c).smp = s.smp := rfl
@[simp] theorem State.setCtx_mem (s : State) (g k : Nat) (c : Ctx) : (s.setCtx g k c).mem = s.mem := rfl
@[simp] theorem State.setCtx_poison (s : State) (g k : Nat) (c : Ctx) : (s.setCtx g k c).poison = s.poison := rfl
@[simp] theorem State.setCtx_lmPoison (s : State) (g k : Nat) (c : Ctx) : (s.setCtx g k c).lmPoison = s.lmPoison := rfl
@[simp] theorem State.setCtx_keyed (s : State) (g k : Nat) (c : Ctx) : (s.setCtx g k c).keyed = s.keyed := rfl
@[simp] theorem State.setCtx_lines (s : State) (g k : Nat) (c : Ctx) : (s.setCtx g k c).lines = s.lines := rfl
@[simp] theorem State.setCtx_sums (s : State) (g k : Nat) (c : Ctx) : (s.setCtx g k c).sums = s.sums := rfl
@[simp] theorem State.setCtx_metaUse (s : State) (g k : Nat) (c : Ctx) : (s.setCtx g k c).metaUse = s.metaUse := rfl
@[simp] theorem State.setCtx_hostClk (s : State) (g k : Nat) (c : Ctx) : (s.setCtx g k c).hostClk = s.hostClk := rfl
@[simp] theorem State.setCtx_imports (s : State) (g k : Nat) (c : Ctx) : (s.setCtx g k c).imports = s.imports := rfl
@[simp] theorem State.setCtx_launches (s : State) (g k : Nat) (c : Ctx) : (s.setCtx g k c).launches = s.launches := rfl
@[simp] theorem State.setCtx_caravans (s : State) (g k : Nat) (c : Ctx) : (s.setCtx g k c).caravans = s.caravans := rfl
@[simp] theorem State.setCtx_drives (s : State) (g k : Nat) (c : Ctx) : (s.setCtx g k c).drives = s.drives := rfl
@[simp] theorem State.setCtx_domains (s : State) (g k : Nat) (c : Ctx) : (s.setCtx g k c).domains = s.domains := rfl
@[simp] theorem State.setCtx_owners (s : State) (g k : Nat) (c : Ctx) : (s.setCtx g k c).owners = s.owners := rfl
@[simp] theorem State.setCtx_streams (s : State) (g k : Nat) (c : Ctx) : (s.setCtx g k c).streams = s.streams := rfl
@[simp] theorem State.setCtx_nodes (s : State) (g k : Nat) (c : Ctx) : (s.setCtx g k c).nodes = s.nodes := rfl
@[simp] theorem State.setCtx_pages (s : State) (g k : Nat) (c : Ctx) : (s.setCtx g k c).pages = s.pages := rfl
@[simp] theorem State.setCtx_gone (s : State) (g k : Nat) (c : Ctx) : (s.setCtx g k c).gone = s.gone := rfl
@[simp] theorem State.setCtx_replay (s : State) (g k : Nat) (c : Ctx) : (s.setCtx g k c).replay = s.replay := rfl
@[simp] theorem State.setCtx_poolUsed (s : State) (g k : Nat) (c : Ctx) : (s.setCtx g k c).poolUsed = s.poolUsed := rfl
@[simp] theorem State.setCtx_tlbs (s : State) (g k : Nat) (c : Ctx) : (s.setCtx g k c).tlbs = s.tlbs := rfl
@[simp] theorem State.setCtx_icache (s : State) (g k : Nat) (c : Ctx) : (s.setCtx g k c).icache = s.icache := rfl
@[simp] theorem State.setCtx_held (s : State) (g k : Nat) (c : Ctx) : (s.setCtx g k c).held = s.held := rfl
@[simp] theorem State.setCtx_matrix (s : State) (g k : Nat) (c : Ctx) : (s.setCtx g k c).matrix = s.matrix := rfl
@[simp] theorem State.setCtx_jobs (s : State) (g k : Nat) (c : Ctx) : (s.setCtx g k c).jobs = s.jobs := rfl
@[simp] theorem State.setCtx_rotor (s : State) (g k : Nat) (c : Ctx) : (s.setCtx g k c).rotor = s.rotor := rfl
@[simp] theorem State.setCtx_moves (s : State) (g k : Nat) (c : Ctx) : (s.setCtx g k c).moves = s.moves := rfl
@[simp] theorem State.setCtx_engSeq (s : State) (g k : Nat) (c : Ctx) : (s.setCtx g k c).engSeq = s.engSeq := rfl
@[simp] theorem State.setCtx_near (s : State) (g k : Nat) (c : Ctx) : (s.setCtx g k c).near = s.near := rfl
@[simp] theorem State.setCtx_chans (s : State) (g k : Nat) (c : Ctx) : (s.setCtx g k c).chans = s.chans := rfl
@[simp] theorem State.setCtx_array (s : State) (g k : Nat) (c : Ctx) : (s.setCtx g k c).array = s.array := rfl
@[simp] theorem State.setCtx_samplers (s : State) (g k : Nat) (c : Ctx) : (s.setCtx g k c).samplers = s.samplers := rfl
@[simp] theorem State.setCtx_groups (s : State) (g k : Nat) (c : Ctx) : (s.setCtx g k c).groups = s.groups := rfl
@[simp] theorem State.setCtx_wadi (s : State) (g k : Nat) (c : Ctx) : (s.setCtx g k c).wadi = s.wadi := rfl
@[simp] theorem State.setCtx_transfers (s : State) (g k : Nat) (c : Ctx) : (s.setCtx g k c).transfers = s.transfers := rfl
@[simp] theorem State.setCtx_arrivals (s : State) (g k : Nat) (c : Ctx) : (s.setCtx g k c).arrivals = s.arrivals := rfl
@[simp] theorem State.setCtx_flits (s : State) (g k : Nat) (c : Ctx) : (s.setCtx g k c).flits = s.flits := rfl
@[simp] theorem State.setCtx_sirocco (s : State) (g k : Nat) (c : Ctx) : (s.setCtx g k c).sirocco = s.sirocco := rfl
@[simp] theorem State.setCtx_dev (s : State) (g k : Nat) (c : Ctx) : (s.setCtx g k c).dev = s.dev := rfl
@[simp] theorem State.setCtx_seen (s : State) (g k : Nat) (c : Ctx) : (s.setCtx g k c).seen = s.seen := rfl
@[simp] theorem State.setCtx_free (s : State) (g k : Nat) (c : Ctx) : (s.setCtx g k c).free = s.free := rfl
@[simp] theorem State.setCtx_fresh (s : State) (g k : Nat) (c : Ctx) : (s.setCtx g k c).fresh = s.fresh := rfl

/-! ### State.onCtx -/

@[simp] theorem State.onCtx_clk (s : State) (g k : Nat) (f : Ctx → Ctx) : (s.onCtx g k f).clk = s.clk := rfl
@[simp] theorem State.onCtx_agenda (s : State) (g k : Nat) (f : Ctx → Ctx) : (s.onCtx g k f).agenda = s.agenda := rfl
@[simp] theorem State.onCtx_cur (s : State) (g k : Nat) (f : Ctx → Ctx) : (s.onCtx g k f).cur = s.cur := rfl
@[simp] theorem State.onCtx_smp (s : State) (g k : Nat) (f : Ctx → Ctx) : (s.onCtx g k f).smp = s.smp := rfl
@[simp] theorem State.onCtx_mem (s : State) (g k : Nat) (f : Ctx → Ctx) : (s.onCtx g k f).mem = s.mem := rfl
@[simp] theorem State.onCtx_poison (s : State) (g k : Nat) (f : Ctx → Ctx) : (s.onCtx g k f).poison = s.poison := rfl
@[simp] theorem State.onCtx_lmPoison (s : State) (g k : Nat) (f : Ctx → Ctx) : (s.onCtx g k f).lmPoison = s.lmPoison := rfl
@[simp] theorem State.onCtx_keyed (s : State) (g k : Nat) (f : Ctx → Ctx) : (s.onCtx g k f).keyed = s.keyed := rfl
@[simp] theorem State.onCtx_lines (s : State) (g k : Nat) (f : Ctx → Ctx) : (s.onCtx g k f).lines = s.lines := rfl
@[simp] theorem State.onCtx_sums (s : State) (g k : Nat) (f : Ctx → Ctx) : (s.onCtx g k f).sums = s.sums := rfl
@[simp] theorem State.onCtx_metaUse (s : State) (g k : Nat) (f : Ctx → Ctx) : (s.onCtx g k f).metaUse = s.metaUse := rfl
@[simp] theorem State.onCtx_hostClk (s : State) (g k : Nat) (f : Ctx → Ctx) : (s.onCtx g k f).hostClk = s.hostClk := rfl
@[simp] theorem State.onCtx_imports (s : State) (g k : Nat) (f : Ctx → Ctx) : (s.onCtx g k f).imports = s.imports := rfl
@[simp] theorem State.onCtx_launches (s : State) (g k : Nat) (f : Ctx → Ctx) : (s.onCtx g k f).launches = s.launches := rfl
@[simp] theorem State.onCtx_caravans (s : State) (g k : Nat) (f : Ctx → Ctx) : (s.onCtx g k f).caravans = s.caravans := rfl
@[simp] theorem State.onCtx_drives (s : State) (g k : Nat) (f : Ctx → Ctx) : (s.onCtx g k f).drives = s.drives := rfl
@[simp] theorem State.onCtx_domains (s : State) (g k : Nat) (f : Ctx → Ctx) : (s.onCtx g k f).domains = s.domains := rfl
@[simp] theorem State.onCtx_owners (s : State) (g k : Nat) (f : Ctx → Ctx) : (s.onCtx g k f).owners = s.owners := rfl
@[simp] theorem State.onCtx_streams (s : State) (g k : Nat) (f : Ctx → Ctx) : (s.onCtx g k f).streams = s.streams := rfl
@[simp] theorem State.onCtx_nodes (s : State) (g k : Nat) (f : Ctx → Ctx) : (s.onCtx g k f).nodes = s.nodes := rfl
@[simp] theorem State.onCtx_pages (s : State) (g k : Nat) (f : Ctx → Ctx) : (s.onCtx g k f).pages = s.pages := rfl
@[simp] theorem State.onCtx_gone (s : State) (g k : Nat) (f : Ctx → Ctx) : (s.onCtx g k f).gone = s.gone := rfl
@[simp] theorem State.onCtx_replay (s : State) (g k : Nat) (f : Ctx → Ctx) : (s.onCtx g k f).replay = s.replay := rfl
@[simp] theorem State.onCtx_poolUsed (s : State) (g k : Nat) (f : Ctx → Ctx) : (s.onCtx g k f).poolUsed = s.poolUsed := rfl
@[simp] theorem State.onCtx_tlbs (s : State) (g k : Nat) (f : Ctx → Ctx) : (s.onCtx g k f).tlbs = s.tlbs := rfl
@[simp] theorem State.onCtx_icache (s : State) (g k : Nat) (f : Ctx → Ctx) : (s.onCtx g k f).icache = s.icache := rfl
@[simp] theorem State.onCtx_held (s : State) (g k : Nat) (f : Ctx → Ctx) : (s.onCtx g k f).held = s.held := rfl
@[simp] theorem State.onCtx_matrix (s : State) (g k : Nat) (f : Ctx → Ctx) : (s.onCtx g k f).matrix = s.matrix := rfl
@[simp] theorem State.onCtx_jobs (s : State) (g k : Nat) (f : Ctx → Ctx) : (s.onCtx g k f).jobs = s.jobs := rfl
@[simp] theorem State.onCtx_rotor (s : State) (g k : Nat) (f : Ctx → Ctx) : (s.onCtx g k f).rotor = s.rotor := rfl
@[simp] theorem State.onCtx_moves (s : State) (g k : Nat) (f : Ctx → Ctx) : (s.onCtx g k f).moves = s.moves := rfl
@[simp] theorem State.onCtx_engSeq (s : State) (g k : Nat) (f : Ctx → Ctx) : (s.onCtx g k f).engSeq = s.engSeq := rfl
@[simp] theorem State.onCtx_near (s : State) (g k : Nat) (f : Ctx → Ctx) : (s.onCtx g k f).near = s.near := rfl
@[simp] theorem State.onCtx_chans (s : State) (g k : Nat) (f : Ctx → Ctx) : (s.onCtx g k f).chans = s.chans := rfl
@[simp] theorem State.onCtx_array (s : State) (g k : Nat) (f : Ctx → Ctx) : (s.onCtx g k f).array = s.array := rfl
@[simp] theorem State.onCtx_samplers (s : State) (g k : Nat) (f : Ctx → Ctx) : (s.onCtx g k f).samplers = s.samplers := rfl
@[simp] theorem State.onCtx_groups (s : State) (g k : Nat) (f : Ctx → Ctx) : (s.onCtx g k f).groups = s.groups := rfl
@[simp] theorem State.onCtx_wadi (s : State) (g k : Nat) (f : Ctx → Ctx) : (s.onCtx g k f).wadi = s.wadi := rfl
@[simp] theorem State.onCtx_transfers (s : State) (g k : Nat) (f : Ctx → Ctx) : (s.onCtx g k f).transfers = s.transfers := rfl
@[simp] theorem State.onCtx_arrivals (s : State) (g k : Nat) (f : Ctx → Ctx) : (s.onCtx g k f).arrivals = s.arrivals := rfl
@[simp] theorem State.onCtx_flits (s : State) (g k : Nat) (f : Ctx → Ctx) : (s.onCtx g k f).flits = s.flits := rfl
@[simp] theorem State.onCtx_sirocco (s : State) (g k : Nat) (f : Ctx → Ctx) : (s.onCtx g k f).sirocco = s.sirocco := rfl
@[simp] theorem State.onCtx_dev (s : State) (g k : Nat) (f : Ctx → Ctx) : (s.onCtx g k f).dev = s.dev := rfl
@[simp] theorem State.onCtx_seen (s : State) (g k : Nat) (f : Ctx → Ctx) : (s.onCtx g k f).seen = s.seen := rfl
@[simp] theorem State.onCtx_free (s : State) (g k : Nat) (f : Ctx → Ctx) : (s.onCtx g k f).free = s.free := rfl
@[simp] theorem State.onCtx_fresh (s : State) (g k : Nat) (f : Ctx → Ctx) : (s.onCtx g k f).fresh = s.fresh := rfl

/-! ### State.onCore -/

@[simp] theorem State.onCore_clk (s : State) (g : Nat) (f : Core → Core) : (s.onCore g f).clk = s.clk := rfl
@[simp] theorem State.onCore_agenda (s : State) (g : Nat) (f : Core → Core) : (s.onCore g f).agenda = s.agenda := rfl
@[simp] theorem State.onCore_cur (s : State) (g : Nat) (f : Core → Core) : (s.onCore g f).cur = s.cur := rfl
@[simp] theorem State.onCore_smp (s : State) (g : Nat) (f : Core → Core) : (s.onCore g f).smp = s.smp := rfl
@[simp] theorem State.onCore_mem (s : State) (g : Nat) (f : Core → Core) : (s.onCore g f).mem = s.mem := rfl
@[simp] theorem State.onCore_poison (s : State) (g : Nat) (f : Core → Core) : (s.onCore g f).poison = s.poison := rfl
@[simp] theorem State.onCore_lmPoison (s : State) (g : Nat) (f : Core → Core) : (s.onCore g f).lmPoison = s.lmPoison := rfl
@[simp] theorem State.onCore_keyed (s : State) (g : Nat) (f : Core → Core) : (s.onCore g f).keyed = s.keyed := rfl
@[simp] theorem State.onCore_lines (s : State) (g : Nat) (f : Core → Core) : (s.onCore g f).lines = s.lines := rfl
@[simp] theorem State.onCore_sums (s : State) (g : Nat) (f : Core → Core) : (s.onCore g f).sums = s.sums := rfl
@[simp] theorem State.onCore_metaUse (s : State) (g : Nat) (f : Core → Core) : (s.onCore g f).metaUse = s.metaUse := rfl
@[simp] theorem State.onCore_hostClk (s : State) (g : Nat) (f : Core → Core) : (s.onCore g f).hostClk = s.hostClk := rfl
@[simp] theorem State.onCore_imports (s : State) (g : Nat) (f : Core → Core) : (s.onCore g f).imports = s.imports := rfl
@[simp] theorem State.onCore_launches (s : State) (g : Nat) (f : Core → Core) : (s.onCore g f).launches = s.launches := rfl
@[simp] theorem State.onCore_caravans (s : State) (g : Nat) (f : Core → Core) : (s.onCore g f).caravans = s.caravans := rfl
@[simp] theorem State.onCore_drives (s : State) (g : Nat) (f : Core → Core) : (s.onCore g f).drives = s.drives := rfl
@[simp] theorem State.onCore_domains (s : State) (g : Nat) (f : Core → Core) : (s.onCore g f).domains = s.domains := rfl
@[simp] theorem State.onCore_owners (s : State) (g : Nat) (f : Core → Core) : (s.onCore g f).owners = s.owners := rfl
@[simp] theorem State.onCore_streams (s : State) (g : Nat) (f : Core → Core) : (s.onCore g f).streams = s.streams := rfl
@[simp] theorem State.onCore_nodes (s : State) (g : Nat) (f : Core → Core) : (s.onCore g f).nodes = s.nodes := rfl
@[simp] theorem State.onCore_pages (s : State) (g : Nat) (f : Core → Core) : (s.onCore g f).pages = s.pages := rfl
@[simp] theorem State.onCore_gone (s : State) (g : Nat) (f : Core → Core) : (s.onCore g f).gone = s.gone := rfl
@[simp] theorem State.onCore_replay (s : State) (g : Nat) (f : Core → Core) : (s.onCore g f).replay = s.replay := rfl
@[simp] theorem State.onCore_poolUsed (s : State) (g : Nat) (f : Core → Core) : (s.onCore g f).poolUsed = s.poolUsed := rfl
@[simp] theorem State.onCore_tlbs (s : State) (g : Nat) (f : Core → Core) : (s.onCore g f).tlbs = s.tlbs := rfl
@[simp] theorem State.onCore_icache (s : State) (g : Nat) (f : Core → Core) : (s.onCore g f).icache = s.icache := rfl
@[simp] theorem State.onCore_held (s : State) (g : Nat) (f : Core → Core) : (s.onCore g f).held = s.held := rfl
@[simp] theorem State.onCore_matrix (s : State) (g : Nat) (f : Core → Core) : (s.onCore g f).matrix = s.matrix := rfl
@[simp] theorem State.onCore_jobs (s : State) (g : Nat) (f : Core → Core) : (s.onCore g f).jobs = s.jobs := rfl
@[simp] theorem State.onCore_rotor (s : State) (g : Nat) (f : Core → Core) : (s.onCore g f).rotor = s.rotor := rfl
@[simp] theorem State.onCore_moves (s : State) (g : Nat) (f : Core → Core) : (s.onCore g f).moves = s.moves := rfl
@[simp] theorem State.onCore_engSeq (s : State) (g : Nat) (f : Core → Core) : (s.onCore g f).engSeq = s.engSeq := rfl
@[simp] theorem State.onCore_near (s : State) (g : Nat) (f : Core → Core) : (s.onCore g f).near = s.near := rfl
@[simp] theorem State.onCore_chans (s : State) (g : Nat) (f : Core → Core) : (s.onCore g f).chans = s.chans := rfl
@[simp] theorem State.onCore_array (s : State) (g : Nat) (f : Core → Core) : (s.onCore g f).array = s.array := rfl
@[simp] theorem State.onCore_samplers (s : State) (g : Nat) (f : Core → Core) : (s.onCore g f).samplers = s.samplers := rfl
@[simp] theorem State.onCore_groups (s : State) (g : Nat) (f : Core → Core) : (s.onCore g f).groups = s.groups := rfl
@[simp] theorem State.onCore_wadi (s : State) (g : Nat) (f : Core → Core) : (s.onCore g f).wadi = s.wadi := rfl
@[simp] theorem State.onCore_transfers (s : State) (g : Nat) (f : Core → Core) : (s.onCore g f).transfers = s.transfers := rfl
@[simp] theorem State.onCore_arrivals (s : State) (g : Nat) (f : Core → Core) : (s.onCore g f).arrivals = s.arrivals := rfl
@[simp] theorem State.onCore_flits (s : State) (g : Nat) (f : Core → Core) : (s.onCore g f).flits = s.flits := rfl
@[simp] theorem State.onCore_sirocco (s : State) (g : Nat) (f : Core → Core) : (s.onCore g f).sirocco = s.sirocco := rfl
@[simp] theorem State.onCore_dev (s : State) (g : Nat) (f : Core → Core) : (s.onCore g f).dev = s.dev := rfl
@[simp] theorem State.onCore_seen (s : State) (g : Nat) (f : Core → Core) : (s.onCore g f).seen = s.seen := rfl
@[simp] theorem State.onCore_free (s : State) (g : Nat) (f : Core → Core) : (s.onCore g f).free = s.free := rfl
@[simp] theorem State.onCore_fresh (s : State) (g : Nat) (f : Core → Core) : (s.onCore g f).fresh = s.fresh := rfl

/-! ### State.onLaunch -/

@[simp] theorem State.onLaunch_clk (s : State) (i : Nat) (f : Launch → Launch) : (s.onLaunch i f).clk = s.clk := rfl
@[simp] theorem State.onLaunch_agenda (s : State) (i : Nat) (f : Launch → Launch) : (s.onLaunch i f).agenda = s.agenda := rfl
@[simp] theorem State.onLaunch_cur (s : State) (i : Nat) (f : Launch → Launch) : (s.onLaunch i f).cur = s.cur := rfl
@[simp] theorem State.onLaunch_smp (s : State) (i : Nat) (f : Launch → Launch) : (s.onLaunch i f).smp = s.smp := rfl
@[simp] theorem State.onLaunch_mem (s : State) (i : Nat) (f : Launch → Launch) : (s.onLaunch i f).mem = s.mem := rfl
@[simp] theorem State.onLaunch_poison (s : State) (i : Nat) (f : Launch → Launch) : (s.onLaunch i f).poison = s.poison := rfl
@[simp] theorem State.onLaunch_lmPoison (s : State) (i : Nat) (f : Launch → Launch) : (s.onLaunch i f).lmPoison = s.lmPoison := rfl
@[simp] theorem State.onLaunch_keyed (s : State) (i : Nat) (f : Launch → Launch) : (s.onLaunch i f).keyed = s.keyed := rfl
@[simp] theorem State.onLaunch_lines (s : State) (i : Nat) (f : Launch → Launch) : (s.onLaunch i f).lines = s.lines := rfl
@[simp] theorem State.onLaunch_sums (s : State) (i : Nat) (f : Launch → Launch) : (s.onLaunch i f).sums = s.sums := rfl
@[simp] theorem State.onLaunch_metaUse (s : State) (i : Nat) (f : Launch → Launch) : (s.onLaunch i f).metaUse = s.metaUse := rfl
@[simp] theorem State.onLaunch_hostClk (s : State) (i : Nat) (f : Launch → Launch) : (s.onLaunch i f).hostClk = s.hostClk := rfl
@[simp] theorem State.onLaunch_imports (s : State) (i : Nat) (f : Launch → Launch) : (s.onLaunch i f).imports = s.imports := rfl
@[simp] theorem State.onLaunch_cores (s : State) (i : Nat) (f : Launch → Launch) : (s.onLaunch i f).cores = s.cores := rfl
@[simp] theorem State.onLaunch_caravans (s : State) (i : Nat) (f : Launch → Launch) : (s.onLaunch i f).caravans = s.caravans := rfl
@[simp] theorem State.onLaunch_drives (s : State) (i : Nat) (f : Launch → Launch) : (s.onLaunch i f).drives = s.drives := rfl
@[simp] theorem State.onLaunch_domains (s : State) (i : Nat) (f : Launch → Launch) : (s.onLaunch i f).domains = s.domains := rfl
@[simp] theorem State.onLaunch_owners (s : State) (i : Nat) (f : Launch → Launch) : (s.onLaunch i f).owners = s.owners := rfl
@[simp] theorem State.onLaunch_streams (s : State) (i : Nat) (f : Launch → Launch) : (s.onLaunch i f).streams = s.streams := rfl
@[simp] theorem State.onLaunch_nodes (s : State) (i : Nat) (f : Launch → Launch) : (s.onLaunch i f).nodes = s.nodes := rfl
@[simp] theorem State.onLaunch_pages (s : State) (i : Nat) (f : Launch → Launch) : (s.onLaunch i f).pages = s.pages := rfl
@[simp] theorem State.onLaunch_gone (s : State) (i : Nat) (f : Launch → Launch) : (s.onLaunch i f).gone = s.gone := rfl
@[simp] theorem State.onLaunch_replay (s : State) (i : Nat) (f : Launch → Launch) : (s.onLaunch i f).replay = s.replay := rfl
@[simp] theorem State.onLaunch_poolUsed (s : State) (i : Nat) (f : Launch → Launch) : (s.onLaunch i f).poolUsed = s.poolUsed := rfl
@[simp] theorem State.onLaunch_tlbs (s : State) (i : Nat) (f : Launch → Launch) : (s.onLaunch i f).tlbs = s.tlbs := rfl
@[simp] theorem State.onLaunch_icache (s : State) (i : Nat) (f : Launch → Launch) : (s.onLaunch i f).icache = s.icache := rfl
@[simp] theorem State.onLaunch_held (s : State) (i : Nat) (f : Launch → Launch) : (s.onLaunch i f).held = s.held := rfl
@[simp] theorem State.onLaunch_matrix (s : State) (i : Nat) (f : Launch → Launch) : (s.onLaunch i f).matrix = s.matrix := rfl
@[simp] theorem State.onLaunch_jobs (s : State) (i : Nat) (f : Launch → Launch) : (s.onLaunch i f).jobs = s.jobs := rfl
@[simp] theorem State.onLaunch_rotor (s : State) (i : Nat) (f : Launch → Launch) : (s.onLaunch i f).rotor = s.rotor := rfl
@[simp] theorem State.onLaunch_moves (s : State) (i : Nat) (f : Launch → Launch) : (s.onLaunch i f).moves = s.moves := rfl
@[simp] theorem State.onLaunch_engSeq (s : State) (i : Nat) (f : Launch → Launch) : (s.onLaunch i f).engSeq = s.engSeq := rfl
@[simp] theorem State.onLaunch_near (s : State) (i : Nat) (f : Launch → Launch) : (s.onLaunch i f).near = s.near := rfl
@[simp] theorem State.onLaunch_chans (s : State) (i : Nat) (f : Launch → Launch) : (s.onLaunch i f).chans = s.chans := rfl
@[simp] theorem State.onLaunch_array (s : State) (i : Nat) (f : Launch → Launch) : (s.onLaunch i f).array = s.array := rfl
@[simp] theorem State.onLaunch_samplers (s : State) (i : Nat) (f : Launch → Launch) : (s.onLaunch i f).samplers = s.samplers := rfl
@[simp] theorem State.onLaunch_groups (s : State) (i : Nat) (f : Launch → Launch) : (s.onLaunch i f).groups = s.groups := rfl
@[simp] theorem State.onLaunch_wadi (s : State) (i : Nat) (f : Launch → Launch) : (s.onLaunch i f).wadi = s.wadi := rfl
@[simp] theorem State.onLaunch_transfers (s : State) (i : Nat) (f : Launch → Launch) : (s.onLaunch i f).transfers = s.transfers := rfl
@[simp] theorem State.onLaunch_arrivals (s : State) (i : Nat) (f : Launch → Launch) : (s.onLaunch i f).arrivals = s.arrivals := rfl
@[simp] theorem State.onLaunch_flits (s : State) (i : Nat) (f : Launch → Launch) : (s.onLaunch i f).flits = s.flits := rfl
@[simp] theorem State.onLaunch_sirocco (s : State) (i : Nat) (f : Launch → Launch) : (s.onLaunch i f).sirocco = s.sirocco := rfl
@[simp] theorem State.onLaunch_dev (s : State) (i : Nat) (f : Launch → Launch) : (s.onLaunch i f).dev = s.dev := rfl
@[simp] theorem State.onLaunch_seen (s : State) (i : Nat) (f : Launch → Launch) : (s.onLaunch i f).seen = s.seen := rfl
@[simp] theorem State.onLaunch_free (s : State) (i : Nat) (f : Launch → Launch) : (s.onLaunch i f).free = s.free := rfl
@[simp] theorem State.onLaunch_fresh (s : State) (i : Nat) (f : Launch → Launch) : (s.onLaunch i f).fresh = s.fresh := rfl

/-! ### State.onCaravan -/

@[simp] theorem State.onCaravan_clk (s : State) (d : Nat) (f : Caravan → Caravan) : (s.onCaravan d f).clk = s.clk := rfl
@[simp] theorem State.onCaravan_agenda (s : State) (d : Nat) (f : Caravan → Caravan) : (s.onCaravan d f).agenda = s.agenda := rfl
@[simp] theorem State.onCaravan_cur (s : State) (d : Nat) (f : Caravan → Caravan) : (s.onCaravan d f).cur = s.cur := rfl
@[simp] theorem State.onCaravan_smp (s : State) (d : Nat) (f : Caravan → Caravan) : (s.onCaravan d f).smp = s.smp := rfl
@[simp] theorem State.onCaravan_mem (s : State) (d : Nat) (f : Caravan → Caravan) : (s.onCaravan d f).mem = s.mem := rfl
@[simp] theorem State.onCaravan_poison (s : State) (d : Nat) (f : Caravan → Caravan) : (s.onCaravan d f).poison = s.poison := rfl
@[simp] theorem State.onCaravan_lmPoison (s : State) (d : Nat) (f : Caravan → Caravan) : (s.onCaravan d f).lmPoison = s.lmPoison := rfl
@[simp] theorem State.onCaravan_keyed (s : State) (d : Nat) (f : Caravan → Caravan) : (s.onCaravan d f).keyed = s.keyed := rfl
@[simp] theorem State.onCaravan_lines (s : State) (d : Nat) (f : Caravan → Caravan) : (s.onCaravan d f).lines = s.lines := rfl
@[simp] theorem State.onCaravan_sums (s : State) (d : Nat) (f : Caravan → Caravan) : (s.onCaravan d f).sums = s.sums := rfl
@[simp] theorem State.onCaravan_metaUse (s : State) (d : Nat) (f : Caravan → Caravan) : (s.onCaravan d f).metaUse = s.metaUse := rfl
@[simp] theorem State.onCaravan_hostClk (s : State) (d : Nat) (f : Caravan → Caravan) : (s.onCaravan d f).hostClk = s.hostClk := rfl
@[simp] theorem State.onCaravan_imports (s : State) (d : Nat) (f : Caravan → Caravan) : (s.onCaravan d f).imports = s.imports := rfl
@[simp] theorem State.onCaravan_cores (s : State) (d : Nat) (f : Caravan → Caravan) : (s.onCaravan d f).cores = s.cores := rfl
@[simp] theorem State.onCaravan_launches (s : State) (d : Nat) (f : Caravan → Caravan) : (s.onCaravan d f).launches = s.launches := rfl
@[simp] theorem State.onCaravan_drives (s : State) (d : Nat) (f : Caravan → Caravan) : (s.onCaravan d f).drives = s.drives := rfl
@[simp] theorem State.onCaravan_domains (s : State) (d : Nat) (f : Caravan → Caravan) : (s.onCaravan d f).domains = s.domains := rfl
@[simp] theorem State.onCaravan_owners (s : State) (d : Nat) (f : Caravan → Caravan) : (s.onCaravan d f).owners = s.owners := rfl
@[simp] theorem State.onCaravan_streams (s : State) (d : Nat) (f : Caravan → Caravan) : (s.onCaravan d f).streams = s.streams := rfl
@[simp] theorem State.onCaravan_nodes (s : State) (d : Nat) (f : Caravan → Caravan) : (s.onCaravan d f).nodes = s.nodes := rfl
@[simp] theorem State.onCaravan_pages (s : State) (d : Nat) (f : Caravan → Caravan) : (s.onCaravan d f).pages = s.pages := rfl
@[simp] theorem State.onCaravan_gone (s : State) (d : Nat) (f : Caravan → Caravan) : (s.onCaravan d f).gone = s.gone := rfl
@[simp] theorem State.onCaravan_replay (s : State) (d : Nat) (f : Caravan → Caravan) : (s.onCaravan d f).replay = s.replay := rfl
@[simp] theorem State.onCaravan_poolUsed (s : State) (d : Nat) (f : Caravan → Caravan) : (s.onCaravan d f).poolUsed = s.poolUsed := rfl
@[simp] theorem State.onCaravan_tlbs (s : State) (d : Nat) (f : Caravan → Caravan) : (s.onCaravan d f).tlbs = s.tlbs := rfl
@[simp] theorem State.onCaravan_icache (s : State) (d : Nat) (f : Caravan → Caravan) : (s.onCaravan d f).icache = s.icache := rfl
@[simp] theorem State.onCaravan_held (s : State) (d : Nat) (f : Caravan → Caravan) : (s.onCaravan d f).held = s.held := rfl
@[simp] theorem State.onCaravan_matrix (s : State) (d : Nat) (f : Caravan → Caravan) : (s.onCaravan d f).matrix = s.matrix := rfl
@[simp] theorem State.onCaravan_jobs (s : State) (d : Nat) (f : Caravan → Caravan) : (s.onCaravan d f).jobs = s.jobs := rfl
@[simp] theorem State.onCaravan_rotor (s : State) (d : Nat) (f : Caravan → Caravan) : (s.onCaravan d f).rotor = s.rotor := rfl
@[simp] theorem State.onCaravan_moves (s : State) (d : Nat) (f : Caravan → Caravan) : (s.onCaravan d f).moves = s.moves := rfl
@[simp] theorem State.onCaravan_engSeq (s : State) (d : Nat) (f : Caravan → Caravan) : (s.onCaravan d f).engSeq = s.engSeq := rfl
@[simp] theorem State.onCaravan_near (s : State) (d : Nat) (f : Caravan → Caravan) : (s.onCaravan d f).near = s.near := rfl
@[simp] theorem State.onCaravan_chans (s : State) (d : Nat) (f : Caravan → Caravan) : (s.onCaravan d f).chans = s.chans := rfl
@[simp] theorem State.onCaravan_array (s : State) (d : Nat) (f : Caravan → Caravan) : (s.onCaravan d f).array = s.array := rfl
@[simp] theorem State.onCaravan_samplers (s : State) (d : Nat) (f : Caravan → Caravan) : (s.onCaravan d f).samplers = s.samplers := rfl
@[simp] theorem State.onCaravan_groups (s : State) (d : Nat) (f : Caravan → Caravan) : (s.onCaravan d f).groups = s.groups := rfl
@[simp] theorem State.onCaravan_wadi (s : State) (d : Nat) (f : Caravan → Caravan) : (s.onCaravan d f).wadi = s.wadi := rfl
@[simp] theorem State.onCaravan_transfers (s : State) (d : Nat) (f : Caravan → Caravan) : (s.onCaravan d f).transfers = s.transfers := rfl
@[simp] theorem State.onCaravan_arrivals (s : State) (d : Nat) (f : Caravan → Caravan) : (s.onCaravan d f).arrivals = s.arrivals := rfl
@[simp] theorem State.onCaravan_flits (s : State) (d : Nat) (f : Caravan → Caravan) : (s.onCaravan d f).flits = s.flits := rfl
@[simp] theorem State.onCaravan_sirocco (s : State) (d : Nat) (f : Caravan → Caravan) : (s.onCaravan d f).sirocco = s.sirocco := rfl
@[simp] theorem State.onCaravan_dev (s : State) (d : Nat) (f : Caravan → Caravan) : (s.onCaravan d f).dev = s.dev := rfl
@[simp] theorem State.onCaravan_seen (s : State) (d : Nat) (f : Caravan → Caravan) : (s.onCaravan d f).seen = s.seen := rfl
@[simp] theorem State.onCaravan_free (s : State) (d : Nat) (f : Caravan → Caravan) : (s.onCaravan d f).free = s.free := rfl
@[simp] theorem State.onCaravan_fresh (s : State) (d : Nat) (f : Caravan → Caravan) : (s.onCaravan d f).fresh = s.fresh := rfl

/-! ### State.onOwner -/

@[simp] theorem State.onOwner_clk (s : State) (o : Nat) (f : Owner → Owner) : (s.onOwner o f).clk = s.clk := rfl
@[simp] theorem State.onOwner_agenda (s : State) (o : Nat) (f : Owner → Owner) : (s.onOwner o f).agenda = s.agenda := rfl
@[simp] theorem State.onOwner_cur (s : State) (o : Nat) (f : Owner → Owner) : (s.onOwner o f).cur = s.cur := rfl
@[simp] theorem State.onOwner_smp (s : State) (o : Nat) (f : Owner → Owner) : (s.onOwner o f).smp = s.smp := rfl
@[simp] theorem State.onOwner_mem (s : State) (o : Nat) (f : Owner → Owner) : (s.onOwner o f).mem = s.mem := rfl
@[simp] theorem State.onOwner_poison (s : State) (o : Nat) (f : Owner → Owner) : (s.onOwner o f).poison = s.poison := rfl
@[simp] theorem State.onOwner_lmPoison (s : State) (o : Nat) (f : Owner → Owner) : (s.onOwner o f).lmPoison = s.lmPoison := rfl
@[simp] theorem State.onOwner_keyed (s : State) (o : Nat) (f : Owner → Owner) : (s.onOwner o f).keyed = s.keyed := rfl
@[simp] theorem State.onOwner_lines (s : State) (o : Nat) (f : Owner → Owner) : (s.onOwner o f).lines = s.lines := rfl
@[simp] theorem State.onOwner_sums (s : State) (o : Nat) (f : Owner → Owner) : (s.onOwner o f).sums = s.sums := rfl
@[simp] theorem State.onOwner_metaUse (s : State) (o : Nat) (f : Owner → Owner) : (s.onOwner o f).metaUse = s.metaUse := rfl
@[simp] theorem State.onOwner_hostClk (s : State) (o : Nat) (f : Owner → Owner) : (s.onOwner o f).hostClk = s.hostClk := rfl
@[simp] theorem State.onOwner_imports (s : State) (o : Nat) (f : Owner → Owner) : (s.onOwner o f).imports = s.imports := rfl
@[simp] theorem State.onOwner_cores (s : State) (o : Nat) (f : Owner → Owner) : (s.onOwner o f).cores = s.cores := rfl
@[simp] theorem State.onOwner_launches (s : State) (o : Nat) (f : Owner → Owner) : (s.onOwner o f).launches = s.launches := rfl
@[simp] theorem State.onOwner_caravans (s : State) (o : Nat) (f : Owner → Owner) : (s.onOwner o f).caravans = s.caravans := rfl
@[simp] theorem State.onOwner_drives (s : State) (o : Nat) (f : Owner → Owner) : (s.onOwner o f).drives = s.drives := rfl
@[simp] theorem State.onOwner_domains (s : State) (o : Nat) (f : Owner → Owner) : (s.onOwner o f).domains = s.domains := rfl
@[simp] theorem State.onOwner_streams (s : State) (o : Nat) (f : Owner → Owner) : (s.onOwner o f).streams = s.streams := rfl
@[simp] theorem State.onOwner_nodes (s : State) (o : Nat) (f : Owner → Owner) : (s.onOwner o f).nodes = s.nodes := rfl
@[simp] theorem State.onOwner_pages (s : State) (o : Nat) (f : Owner → Owner) : (s.onOwner o f).pages = s.pages := rfl
@[simp] theorem State.onOwner_gone (s : State) (o : Nat) (f : Owner → Owner) : (s.onOwner o f).gone = s.gone := rfl
@[simp] theorem State.onOwner_replay (s : State) (o : Nat) (f : Owner → Owner) : (s.onOwner o f).replay = s.replay := rfl
@[simp] theorem State.onOwner_poolUsed (s : State) (o : Nat) (f : Owner → Owner) : (s.onOwner o f).poolUsed = s.poolUsed := rfl
@[simp] theorem State.onOwner_tlbs (s : State) (o : Nat) (f : Owner → Owner) : (s.onOwner o f).tlbs = s.tlbs := rfl
@[simp] theorem State.onOwner_icache (s : State) (o : Nat) (f : Owner → Owner) : (s.onOwner o f).icache = s.icache := rfl
@[simp] theorem State.onOwner_held (s : State) (o : Nat) (f : Owner → Owner) : (s.onOwner o f).held = s.held := rfl
@[simp] theorem State.onOwner_matrix (s : State) (o : Nat) (f : Owner → Owner) : (s.onOwner o f).matrix = s.matrix := rfl
@[simp] theorem State.onOwner_jobs (s : State) (o : Nat) (f : Owner → Owner) : (s.onOwner o f).jobs = s.jobs := rfl
@[simp] theorem State.onOwner_rotor (s : State) (o : Nat) (f : Owner → Owner) : (s.onOwner o f).rotor = s.rotor := rfl
@[simp] theorem State.onOwner_moves (s : State) (o : Nat) (f : Owner → Owner) : (s.onOwner o f).moves = s.moves := rfl
@[simp] theorem State.onOwner_engSeq (s : State) (o : Nat) (f : Owner → Owner) : (s.onOwner o f).engSeq = s.engSeq := rfl
@[simp] theorem State.onOwner_near (s : State) (o : Nat) (f : Owner → Owner) : (s.onOwner o f).near = s.near := rfl
@[simp] theorem State.onOwner_chans (s : State) (o : Nat) (f : Owner → Owner) : (s.onOwner o f).chans = s.chans := rfl
@[simp] theorem State.onOwner_array (s : State) (o : Nat) (f : Owner → Owner) : (s.onOwner o f).array = s.array := rfl
@[simp] theorem State.onOwner_samplers (s : State) (o : Nat) (f : Owner → Owner) : (s.onOwner o f).samplers = s.samplers := rfl
@[simp] theorem State.onOwner_groups (s : State) (o : Nat) (f : Owner → Owner) : (s.onOwner o f).groups = s.groups := rfl
@[simp] theorem State.onOwner_wadi (s : State) (o : Nat) (f : Owner → Owner) : (s.onOwner o f).wadi = s.wadi := rfl
@[simp] theorem State.onOwner_transfers (s : State) (o : Nat) (f : Owner → Owner) : (s.onOwner o f).transfers = s.transfers := rfl
@[simp] theorem State.onOwner_arrivals (s : State) (o : Nat) (f : Owner → Owner) : (s.onOwner o f).arrivals = s.arrivals := rfl
@[simp] theorem State.onOwner_flits (s : State) (o : Nat) (f : Owner → Owner) : (s.onOwner o f).flits = s.flits := rfl
@[simp] theorem State.onOwner_sirocco (s : State) (o : Nat) (f : Owner → Owner) : (s.onOwner o f).sirocco = s.sirocco := rfl
@[simp] theorem State.onOwner_dev (s : State) (o : Nat) (f : Owner → Owner) : (s.onOwner o f).dev = s.dev := rfl
@[simp] theorem State.onOwner_seen (s : State) (o : Nat) (f : Owner → Owner) : (s.onOwner o f).seen = s.seen := rfl
@[simp] theorem State.onOwner_free (s : State) (o : Nat) (f : Owner → Owner) : (s.onOwner o f).free = s.free := rfl
@[simp] theorem State.onOwner_fresh (s : State) (o : Nat) (f : Owner → Owner) : (s.onOwner o f).fresh = s.fresh := rfl

/-! ### State.onStream -/

@[simp] theorem State.onStream_clk (s : State) (n : Nat) (f : Stream → Stream) : (s.onStream n f).clk = s.clk := rfl
@[simp] theorem State.onStream_agenda (s : State) (n : Nat) (f : Stream → Stream) : (s.onStream n f).agenda = s.agenda := rfl
@[simp] theorem State.onStream_cur (s : State) (n : Nat) (f : Stream → Stream) : (s.onStream n f).cur = s.cur := rfl
@[simp] theorem State.onStream_smp (s : State) (n : Nat) (f : Stream → Stream) : (s.onStream n f).smp = s.smp := rfl
@[simp] theorem State.onStream_mem (s : State) (n : Nat) (f : Stream → Stream) : (s.onStream n f).mem = s.mem := rfl
@[simp] theorem State.onStream_poison (s : State) (n : Nat) (f : Stream → Stream) : (s.onStream n f).poison = s.poison := rfl
@[simp] theorem State.onStream_lmPoison (s : State) (n : Nat) (f : Stream → Stream) : (s.onStream n f).lmPoison = s.lmPoison := rfl
@[simp] theorem State.onStream_keyed (s : State) (n : Nat) (f : Stream → Stream) : (s.onStream n f).keyed = s.keyed := rfl
@[simp] theorem State.onStream_lines (s : State) (n : Nat) (f : Stream → Stream) : (s.onStream n f).lines = s.lines := rfl
@[simp] theorem State.onStream_sums (s : State) (n : Nat) (f : Stream → Stream) : (s.onStream n f).sums = s.sums := rfl
@[simp] theorem State.onStream_metaUse (s : State) (n : Nat) (f : Stream → Stream) : (s.onStream n f).metaUse = s.metaUse := rfl
@[simp] theorem State.onStream_hostClk (s : State) (n : Nat) (f : Stream → Stream) : (s.onStream n f).hostClk = s.hostClk := rfl
@[simp] theorem State.onStream_imports (s : State) (n : Nat) (f : Stream → Stream) : (s.onStream n f).imports = s.imports := rfl
@[simp] theorem State.onStream_cores (s : State) (n : Nat) (f : Stream → Stream) : (s.onStream n f).cores = s.cores := rfl
@[simp] theorem State.onStream_launches (s : State) (n : Nat) (f : Stream → Stream) : (s.onStream n f).launches = s.launches := rfl
@[simp] theorem State.onStream_caravans (s : State) (n : Nat) (f : Stream → Stream) : (s.onStream n f).caravans = s.caravans := rfl
@[simp] theorem State.onStream_drives (s : State) (n : Nat) (f : Stream → Stream) : (s.onStream n f).drives = s.drives := rfl
@[simp] theorem State.onStream_domains (s : State) (n : Nat) (f : Stream → Stream) : (s.onStream n f).domains = s.domains := rfl
@[simp] theorem State.onStream_owners (s : State) (n : Nat) (f : Stream → Stream) : (s.onStream n f).owners = s.owners := rfl
@[simp] theorem State.onStream_nodes (s : State) (n : Nat) (f : Stream → Stream) : (s.onStream n f).nodes = s.nodes := rfl
@[simp] theorem State.onStream_pages (s : State) (n : Nat) (f : Stream → Stream) : (s.onStream n f).pages = s.pages := rfl
@[simp] theorem State.onStream_gone (s : State) (n : Nat) (f : Stream → Stream) : (s.onStream n f).gone = s.gone := rfl
@[simp] theorem State.onStream_replay (s : State) (n : Nat) (f : Stream → Stream) : (s.onStream n f).replay = s.replay := rfl
@[simp] theorem State.onStream_poolUsed (s : State) (n : Nat) (f : Stream → Stream) : (s.onStream n f).poolUsed = s.poolUsed := rfl
@[simp] theorem State.onStream_tlbs (s : State) (n : Nat) (f : Stream → Stream) : (s.onStream n f).tlbs = s.tlbs := rfl
@[simp] theorem State.onStream_icache (s : State) (n : Nat) (f : Stream → Stream) : (s.onStream n f).icache = s.icache := rfl
@[simp] theorem State.onStream_held (s : State) (n : Nat) (f : Stream → Stream) : (s.onStream n f).held = s.held := rfl
@[simp] theorem State.onStream_matrix (s : State) (n : Nat) (f : Stream → Stream) : (s.onStream n f).matrix = s.matrix := rfl
@[simp] theorem State.onStream_jobs (s : State) (n : Nat) (f : Stream → Stream) : (s.onStream n f).jobs = s.jobs := rfl
@[simp] theorem State.onStream_rotor (s : State) (n : Nat) (f : Stream → Stream) : (s.onStream n f).rotor = s.rotor := rfl
@[simp] theorem State.onStream_moves (s : State) (n : Nat) (f : Stream → Stream) : (s.onStream n f).moves = s.moves := rfl
@[simp] theorem State.onStream_engSeq (s : State) (n : Nat) (f : Stream → Stream) : (s.onStream n f).engSeq = s.engSeq := rfl
@[simp] theorem State.onStream_near (s : State) (n : Nat) (f : Stream → Stream) : (s.onStream n f).near = s.near := rfl
@[simp] theorem State.onStream_chans (s : State) (n : Nat) (f : Stream → Stream) : (s.onStream n f).chans = s.chans := rfl
@[simp] theorem State.onStream_array (s : State) (n : Nat) (f : Stream → Stream) : (s.onStream n f).array = s.array := rfl
@[simp] theorem State.onStream_samplers (s : State) (n : Nat) (f : Stream → Stream) : (s.onStream n f).samplers = s.samplers := rfl
@[simp] theorem State.onStream_groups (s : State) (n : Nat) (f : Stream → Stream) : (s.onStream n f).groups = s.groups := rfl
@[simp] theorem State.onStream_wadi (s : State) (n : Nat) (f : Stream → Stream) : (s.onStream n f).wadi = s.wadi := rfl
@[simp] theorem State.onStream_transfers (s : State) (n : Nat) (f : Stream → Stream) : (s.onStream n f).transfers = s.transfers := rfl
@[simp] theorem State.onStream_arrivals (s : State) (n : Nat) (f : Stream → Stream) : (s.onStream n f).arrivals = s.arrivals := rfl
@[simp] theorem State.onStream_flits (s : State) (n : Nat) (f : Stream → Stream) : (s.onStream n f).flits = s.flits := rfl
@[simp] theorem State.onStream_sirocco (s : State) (n : Nat) (f : Stream → Stream) : (s.onStream n f).sirocco = s.sirocco := rfl
@[simp] theorem State.onStream_dev (s : State) (n : Nat) (f : Stream → Stream) : (s.onStream n f).dev = s.dev := rfl
@[simp] theorem State.onStream_seen (s : State) (n : Nat) (f : Stream → Stream) : (s.onStream n f).seen = s.seen := rfl
@[simp] theorem State.onStream_free (s : State) (n : Nat) (f : Stream → Stream) : (s.onStream n f).free = s.free := rfl
@[simp] theorem State.onStream_fresh (s : State) (n : Nat) (f : Stream → Stream) : (s.onStream n f).fresh = s.fresh := rfl

/-! ### State.onDomain -/

@[simp] theorem State.onDomain_clk (s : State) (n : Nat) (f : Domain → Domain) : (s.onDomain n f).clk = s.clk := rfl
@[simp] theorem State.onDomain_agenda (s : State) (n : Nat) (f : Domain → Domain) : (s.onDomain n f).agenda = s.agenda := rfl
@[simp] theorem State.onDomain_cur (s : State) (n : Nat) (f : Domain → Domain) : (s.onDomain n f).cur = s.cur := rfl
@[simp] theorem State.onDomain_smp (s : State) (n : Nat) (f : Domain → Domain) : (s.onDomain n f).smp = s.smp := rfl
@[simp] theorem State.onDomain_mem (s : State) (n : Nat) (f : Domain → Domain) : (s.onDomain n f).mem = s.mem := rfl
@[simp] theorem State.onDomain_poison (s : State) (n : Nat) (f : Domain → Domain) : (s.onDomain n f).poison = s.poison := rfl
@[simp] theorem State.onDomain_lmPoison (s : State) (n : Nat) (f : Domain → Domain) : (s.onDomain n f).lmPoison = s.lmPoison := rfl
@[simp] theorem State.onDomain_keyed (s : State) (n : Nat) (f : Domain → Domain) : (s.onDomain n f).keyed = s.keyed := rfl
@[simp] theorem State.onDomain_lines (s : State) (n : Nat) (f : Domain → Domain) : (s.onDomain n f).lines = s.lines := rfl
@[simp] theorem State.onDomain_sums (s : State) (n : Nat) (f : Domain → Domain) : (s.onDomain n f).sums = s.sums := rfl
@[simp] theorem State.onDomain_metaUse (s : State) (n : Nat) (f : Domain → Domain) : (s.onDomain n f).metaUse = s.metaUse := rfl
@[simp] theorem State.onDomain_hostClk (s : State) (n : Nat) (f : Domain → Domain) : (s.onDomain n f).hostClk = s.hostClk := rfl
@[simp] theorem State.onDomain_imports (s : State) (n : Nat) (f : Domain → Domain) : (s.onDomain n f).imports = s.imports := rfl
@[simp] theorem State.onDomain_cores (s : State) (n : Nat) (f : Domain → Domain) : (s.onDomain n f).cores = s.cores := rfl
@[simp] theorem State.onDomain_launches (s : State) (n : Nat) (f : Domain → Domain) : (s.onDomain n f).launches = s.launches := rfl
@[simp] theorem State.onDomain_caravans (s : State) (n : Nat) (f : Domain → Domain) : (s.onDomain n f).caravans = s.caravans := rfl
@[simp] theorem State.onDomain_drives (s : State) (n : Nat) (f : Domain → Domain) : (s.onDomain n f).drives = s.drives := rfl
@[simp] theorem State.onDomain_owners (s : State) (n : Nat) (f : Domain → Domain) : (s.onDomain n f).owners = s.owners := rfl
@[simp] theorem State.onDomain_streams (s : State) (n : Nat) (f : Domain → Domain) : (s.onDomain n f).streams = s.streams := rfl
@[simp] theorem State.onDomain_nodes (s : State) (n : Nat) (f : Domain → Domain) : (s.onDomain n f).nodes = s.nodes := rfl
@[simp] theorem State.onDomain_pages (s : State) (n : Nat) (f : Domain → Domain) : (s.onDomain n f).pages = s.pages := rfl
@[simp] theorem State.onDomain_gone (s : State) (n : Nat) (f : Domain → Domain) : (s.onDomain n f).gone = s.gone := rfl
@[simp] theorem State.onDomain_replay (s : State) (n : Nat) (f : Domain → Domain) : (s.onDomain n f).replay = s.replay := rfl
@[simp] theorem State.onDomain_poolUsed (s : State) (n : Nat) (f : Domain → Domain) : (s.onDomain n f).poolUsed = s.poolUsed := rfl
@[simp] theorem State.onDomain_tlbs (s : State) (n : Nat) (f : Domain → Domain) : (s.onDomain n f).tlbs = s.tlbs := rfl
@[simp] theorem State.onDomain_icache (s : State) (n : Nat) (f : Domain → Domain) : (s.onDomain n f).icache = s.icache := rfl
@[simp] theorem State.onDomain_held (s : State) (n : Nat) (f : Domain → Domain) : (s.onDomain n f).held = s.held := rfl
@[simp] theorem State.onDomain_matrix (s : State) (n : Nat) (f : Domain → Domain) : (s.onDomain n f).matrix = s.matrix := rfl
@[simp] theorem State.onDomain_jobs (s : State) (n : Nat) (f : Domain → Domain) : (s.onDomain n f).jobs = s.jobs := rfl
@[simp] theorem State.onDomain_rotor (s : State) (n : Nat) (f : Domain → Domain) : (s.onDomain n f).rotor = s.rotor := rfl
@[simp] theorem State.onDomain_moves (s : State) (n : Nat) (f : Domain → Domain) : (s.onDomain n f).moves = s.moves := rfl
@[simp] theorem State.onDomain_engSeq (s : State) (n : Nat) (f : Domain → Domain) : (s.onDomain n f).engSeq = s.engSeq := rfl
@[simp] theorem State.onDomain_near (s : State) (n : Nat) (f : Domain → Domain) : (s.onDomain n f).near = s.near := rfl
@[simp] theorem State.onDomain_chans (s : State) (n : Nat) (f : Domain → Domain) : (s.onDomain n f).chans = s.chans := rfl
@[simp] theorem State.onDomain_array (s : State) (n : Nat) (f : Domain → Domain) : (s.onDomain n f).array = s.array := rfl
@[simp] theorem State.onDomain_samplers (s : State) (n : Nat) (f : Domain → Domain) : (s.onDomain n f).samplers = s.samplers := rfl
@[simp] theorem State.onDomain_groups (s : State) (n : Nat) (f : Domain → Domain) : (s.onDomain n f).groups = s.groups := rfl
@[simp] theorem State.onDomain_wadi (s : State) (n : Nat) (f : Domain → Domain) : (s.onDomain n f).wadi = s.wadi := rfl
@[simp] theorem State.onDomain_transfers (s : State) (n : Nat) (f : Domain → Domain) : (s.onDomain n f).transfers = s.transfers := rfl
@[simp] theorem State.onDomain_arrivals (s : State) (n : Nat) (f : Domain → Domain) : (s.onDomain n f).arrivals = s.arrivals := rfl
@[simp] theorem State.onDomain_flits (s : State) (n : Nat) (f : Domain → Domain) : (s.onDomain n f).flits = s.flits := rfl
@[simp] theorem State.onDomain_sirocco (s : State) (n : Nat) (f : Domain → Domain) : (s.onDomain n f).sirocco = s.sirocco := rfl
@[simp] theorem State.onDomain_dev (s : State) (n : Nat) (f : Domain → Domain) : (s.onDomain n f).dev = s.dev := rfl
@[simp] theorem State.onDomain_seen (s : State) (n : Nat) (f : Domain → Domain) : (s.onDomain n f).seen = s.seen := rfl
@[simp] theorem State.onDomain_free (s : State) (n : Nat) (f : Domain → Domain) : (s.onDomain n f).free = s.free := rfl
@[simp] theorem State.onDomain_fresh (s : State) (n : Nat) (f : Domain → Domain) : (s.onDomain n f).fresh = s.fresh := rfl

/-! ### State.onEngine -/

@[simp] theorem State.onEngine_clk (s : State) (c : Nat) (f : MatrixEngine → MatrixEngine) : (s.onEngine c f).clk = s.clk := rfl
@[simp] theorem State.onEngine_agenda (s : State) (c : Nat) (f : MatrixEngine → MatrixEngine) : (s.onEngine c f).agenda = s.agenda := rfl
@[simp] theorem State.onEngine_cur (s : State) (c : Nat) (f : MatrixEngine → MatrixEngine) : (s.onEngine c f).cur = s.cur := rfl
@[simp] theorem State.onEngine_smp (s : State) (c : Nat) (f : MatrixEngine → MatrixEngine) : (s.onEngine c f).smp = s.smp := rfl
@[simp] theorem State.onEngine_mem (s : State) (c : Nat) (f : MatrixEngine → MatrixEngine) : (s.onEngine c f).mem = s.mem := rfl
@[simp] theorem State.onEngine_poison (s : State) (c : Nat) (f : MatrixEngine → MatrixEngine) : (s.onEngine c f).poison = s.poison := rfl
@[simp] theorem State.onEngine_lmPoison (s : State) (c : Nat) (f : MatrixEngine → MatrixEngine) : (s.onEngine c f).lmPoison = s.lmPoison := rfl
@[simp] theorem State.onEngine_keyed (s : State) (c : Nat) (f : MatrixEngine → MatrixEngine) : (s.onEngine c f).keyed = s.keyed := rfl
@[simp] theorem State.onEngine_lines (s : State) (c : Nat) (f : MatrixEngine → MatrixEngine) : (s.onEngine c f).lines = s.lines := rfl
@[simp] theorem State.onEngine_sums (s : State) (c : Nat) (f : MatrixEngine → MatrixEngine) : (s.onEngine c f).sums = s.sums := rfl
@[simp] theorem State.onEngine_metaUse (s : State) (c : Nat) (f : MatrixEngine → MatrixEngine) : (s.onEngine c f).metaUse = s.metaUse := rfl
@[simp] theorem State.onEngine_hostClk (s : State) (c : Nat) (f : MatrixEngine → MatrixEngine) : (s.onEngine c f).hostClk = s.hostClk := rfl
@[simp] theorem State.onEngine_imports (s : State) (c : Nat) (f : MatrixEngine → MatrixEngine) : (s.onEngine c f).imports = s.imports := rfl
@[simp] theorem State.onEngine_cores (s : State) (c : Nat) (f : MatrixEngine → MatrixEngine) : (s.onEngine c f).cores = s.cores := rfl
@[simp] theorem State.onEngine_launches (s : State) (c : Nat) (f : MatrixEngine → MatrixEngine) : (s.onEngine c f).launches = s.launches := rfl
@[simp] theorem State.onEngine_caravans (s : State) (c : Nat) (f : MatrixEngine → MatrixEngine) : (s.onEngine c f).caravans = s.caravans := rfl
@[simp] theorem State.onEngine_drives (s : State) (c : Nat) (f : MatrixEngine → MatrixEngine) : (s.onEngine c f).drives = s.drives := rfl
@[simp] theorem State.onEngine_domains (s : State) (c : Nat) (f : MatrixEngine → MatrixEngine) : (s.onEngine c f).domains = s.domains := rfl
@[simp] theorem State.onEngine_owners (s : State) (c : Nat) (f : MatrixEngine → MatrixEngine) : (s.onEngine c f).owners = s.owners := rfl
@[simp] theorem State.onEngine_streams (s : State) (c : Nat) (f : MatrixEngine → MatrixEngine) : (s.onEngine c f).streams = s.streams := rfl
@[simp] theorem State.onEngine_nodes (s : State) (c : Nat) (f : MatrixEngine → MatrixEngine) : (s.onEngine c f).nodes = s.nodes := rfl
@[simp] theorem State.onEngine_pages (s : State) (c : Nat) (f : MatrixEngine → MatrixEngine) : (s.onEngine c f).pages = s.pages := rfl
@[simp] theorem State.onEngine_gone (s : State) (c : Nat) (f : MatrixEngine → MatrixEngine) : (s.onEngine c f).gone = s.gone := rfl
@[simp] theorem State.onEngine_replay (s : State) (c : Nat) (f : MatrixEngine → MatrixEngine) : (s.onEngine c f).replay = s.replay := rfl
@[simp] theorem State.onEngine_poolUsed (s : State) (c : Nat) (f : MatrixEngine → MatrixEngine) : (s.onEngine c f).poolUsed = s.poolUsed := rfl
@[simp] theorem State.onEngine_tlbs (s : State) (c : Nat) (f : MatrixEngine → MatrixEngine) : (s.onEngine c f).tlbs = s.tlbs := rfl
@[simp] theorem State.onEngine_icache (s : State) (c : Nat) (f : MatrixEngine → MatrixEngine) : (s.onEngine c f).icache = s.icache := rfl
@[simp] theorem State.onEngine_held (s : State) (c : Nat) (f : MatrixEngine → MatrixEngine) : (s.onEngine c f).held = s.held := rfl
@[simp] theorem State.onEngine_jobs (s : State) (c : Nat) (f : MatrixEngine → MatrixEngine) : (s.onEngine c f).jobs = s.jobs := rfl
@[simp] theorem State.onEngine_rotor (s : State) (c : Nat) (f : MatrixEngine → MatrixEngine) : (s.onEngine c f).rotor = s.rotor := rfl
@[simp] theorem State.onEngine_moves (s : State) (c : Nat) (f : MatrixEngine → MatrixEngine) : (s.onEngine c f).moves = s.moves := rfl
@[simp] theorem State.onEngine_engSeq (s : State) (c : Nat) (f : MatrixEngine → MatrixEngine) : (s.onEngine c f).engSeq = s.engSeq := rfl
@[simp] theorem State.onEngine_near (s : State) (c : Nat) (f : MatrixEngine → MatrixEngine) : (s.onEngine c f).near = s.near := rfl
@[simp] theorem State.onEngine_chans (s : State) (c : Nat) (f : MatrixEngine → MatrixEngine) : (s.onEngine c f).chans = s.chans := rfl
@[simp] theorem State.onEngine_array (s : State) (c : Nat) (f : MatrixEngine → MatrixEngine) : (s.onEngine c f).array = s.array := rfl
@[simp] theorem State.onEngine_samplers (s : State) (c : Nat) (f : MatrixEngine → MatrixEngine) : (s.onEngine c f).samplers = s.samplers := rfl
@[simp] theorem State.onEngine_groups (s : State) (c : Nat) (f : MatrixEngine → MatrixEngine) : (s.onEngine c f).groups = s.groups := rfl
@[simp] theorem State.onEngine_wadi (s : State) (c : Nat) (f : MatrixEngine → MatrixEngine) : (s.onEngine c f).wadi = s.wadi := rfl
@[simp] theorem State.onEngine_transfers (s : State) (c : Nat) (f : MatrixEngine → MatrixEngine) : (s.onEngine c f).transfers = s.transfers := rfl
@[simp] theorem State.onEngine_arrivals (s : State) (c : Nat) (f : MatrixEngine → MatrixEngine) : (s.onEngine c f).arrivals = s.arrivals := rfl
@[simp] theorem State.onEngine_flits (s : State) (c : Nat) (f : MatrixEngine → MatrixEngine) : (s.onEngine c f).flits = s.flits := rfl
@[simp] theorem State.onEngine_sirocco (s : State) (c : Nat) (f : MatrixEngine → MatrixEngine) : (s.onEngine c f).sirocco = s.sirocco := rfl
@[simp] theorem State.onEngine_dev (s : State) (c : Nat) (f : MatrixEngine → MatrixEngine) : (s.onEngine c f).dev = s.dev := rfl
@[simp] theorem State.onEngine_seen (s : State) (c : Nat) (f : MatrixEngine → MatrixEngine) : (s.onEngine c f).seen = s.seen := rfl
@[simp] theorem State.onEngine_free (s : State) (c : Nat) (f : MatrixEngine → MatrixEngine) : (s.onEngine c f).free = s.free := rfl
@[simp] theorem State.onEngine_fresh (s : State) (c : Nat) (f : MatrixEngine → MatrixEngine) : (s.onEngine c f).fresh = s.fresh := rfl

/-! ### State.tick -/

@[simp] theorem State.tick_agenda (s : State) (n : Nat) : (s.tick n).agenda = s.agenda := rfl
@[simp] theorem State.tick_cur (s : State) (n : Nat) : (s.tick n).cur = s.cur := rfl
@[simp] theorem State.tick_smp (s : State) (n : Nat) : (s.tick n).smp = s.smp := rfl
@[simp] theorem State.tick_mem (s : State) (n : Nat) : (s.tick n).mem = s.mem := rfl
@[simp] theorem State.tick_poison (s : State) (n : Nat) : (s.tick n).poison = s.poison := rfl
@[simp] theorem State.tick_lmPoison (s : State) (n : Nat) : (s.tick n).lmPoison = s.lmPoison := rfl
@[simp] theorem State.tick_keyed (s : State) (n : Nat) : (s.tick n).keyed = s.keyed := rfl
@[simp] theorem State.tick_lines (s : State) (n : Nat) : (s.tick n).lines = s.lines := rfl
@[simp] theorem State.tick_sums (s : State) (n : Nat) : (s.tick n).sums = s.sums := rfl
@[simp] theorem State.tick_metaUse (s : State) (n : Nat) : (s.tick n).metaUse = s.metaUse := rfl
@[simp] theorem State.tick_hostClk (s : State) (n : Nat) : (s.tick n).hostClk = s.hostClk := rfl
@[simp] theorem State.tick_imports (s : State) (n : Nat) : (s.tick n).imports = s.imports := rfl
@[simp] theorem State.tick_cores (s : State) (n : Nat) : (s.tick n).cores = s.cores := rfl
@[simp] theorem State.tick_launches (s : State) (n : Nat) : (s.tick n).launches = s.launches := rfl
@[simp] theorem State.tick_caravans (s : State) (n : Nat) : (s.tick n).caravans = s.caravans := rfl
@[simp] theorem State.tick_drives (s : State) (n : Nat) : (s.tick n).drives = s.drives := rfl
@[simp] theorem State.tick_domains (s : State) (n : Nat) : (s.tick n).domains = s.domains := rfl
@[simp] theorem State.tick_owners (s : State) (n : Nat) : (s.tick n).owners = s.owners := rfl
@[simp] theorem State.tick_streams (s : State) (n : Nat) : (s.tick n).streams = s.streams := rfl
@[simp] theorem State.tick_nodes (s : State) (n : Nat) : (s.tick n).nodes = s.nodes := rfl
@[simp] theorem State.tick_pages (s : State) (n : Nat) : (s.tick n).pages = s.pages := rfl
@[simp] theorem State.tick_gone (s : State) (n : Nat) : (s.tick n).gone = s.gone := rfl
@[simp] theorem State.tick_replay (s : State) (n : Nat) : (s.tick n).replay = s.replay := rfl
@[simp] theorem State.tick_poolUsed (s : State) (n : Nat) : (s.tick n).poolUsed = s.poolUsed := rfl
@[simp] theorem State.tick_tlbs (s : State) (n : Nat) : (s.tick n).tlbs = s.tlbs := rfl
@[simp] theorem State.tick_icache (s : State) (n : Nat) : (s.tick n).icache = s.icache := rfl
@[simp] theorem State.tick_held (s : State) (n : Nat) : (s.tick n).held = s.held := rfl
@[simp] theorem State.tick_matrix (s : State) (n : Nat) : (s.tick n).matrix = s.matrix := rfl
@[simp] theorem State.tick_jobs (s : State) (n : Nat) : (s.tick n).jobs = s.jobs := rfl
@[simp] theorem State.tick_rotor (s : State) (n : Nat) : (s.tick n).rotor = s.rotor := rfl
@[simp] theorem State.tick_moves (s : State) (n : Nat) : (s.tick n).moves = s.moves := rfl
@[simp] theorem State.tick_engSeq (s : State) (n : Nat) : (s.tick n).engSeq = s.engSeq := rfl
@[simp] theorem State.tick_near (s : State) (n : Nat) : (s.tick n).near = s.near := rfl
@[simp] theorem State.tick_chans (s : State) (n : Nat) : (s.tick n).chans = s.chans := rfl
@[simp] theorem State.tick_array (s : State) (n : Nat) : (s.tick n).array = s.array := rfl
@[simp] theorem State.tick_samplers (s : State) (n : Nat) : (s.tick n).samplers = s.samplers := rfl
@[simp] theorem State.tick_groups (s : State) (n : Nat) : (s.tick n).groups = s.groups := rfl
@[simp] theorem State.tick_wadi (s : State) (n : Nat) : (s.tick n).wadi = s.wadi := rfl
@[simp] theorem State.tick_transfers (s : State) (n : Nat) : (s.tick n).transfers = s.transfers := rfl
@[simp] theorem State.tick_arrivals (s : State) (n : Nat) : (s.tick n).arrivals = s.arrivals := rfl
@[simp] theorem State.tick_flits (s : State) (n : Nat) : (s.tick n).flits = s.flits := rfl
@[simp] theorem State.tick_sirocco (s : State) (n : Nat) : (s.tick n).sirocco = s.sirocco := rfl
@[simp] theorem State.tick_dev (s : State) (n : Nat) : (s.tick n).dev = s.dev := rfl
@[simp] theorem State.tick_seen (s : State) (n : Nat) : (s.tick n).seen = s.seen := rfl
@[simp] theorem State.tick_free (s : State) (n : Nat) : (s.tick n).free = s.free := rfl
@[simp] theorem State.tick_fresh (s : State) (n : Nat) : (s.tick n).fresh = s.fresh := rfl

/-! ### State.countLife -/

@[simp] theorem State.countLife_clk (s : State) (i n : Nat) : (s.countLife i n).clk = s.clk := rfl
@[simp] theorem State.countLife_agenda (s : State) (i n : Nat) : (s.countLife i n).agenda = s.agenda := rfl
@[simp] theorem State.countLife_cur (s : State) (i n : Nat) : (s.countLife i n).cur = s.cur := rfl
@[simp] theorem State.countLife_smp (s : State) (i n : Nat) : (s.countLife i n).smp = s.smp := rfl
@[simp] theorem State.countLife_mem (s : State) (i n : Nat) : (s.countLife i n).mem = s.mem := rfl
@[simp] theorem State.countLife_poison (s : State) (i n : Nat) : (s.countLife i n).poison = s.poison := rfl
@[simp] theorem State.countLife_lmPoison (s : State) (i n : Nat) : (s.countLife i n).lmPoison = s.lmPoison := rfl
@[simp] theorem State.countLife_keyed (s : State) (i n : Nat) : (s.countLife i n).keyed = s.keyed := rfl
@[simp] theorem State.countLife_lines (s : State) (i n : Nat) : (s.countLife i n).lines = s.lines := rfl
@[simp] theorem State.countLife_sums (s : State) (i n : Nat) : (s.countLife i n).sums = s.sums := rfl
@[simp] theorem State.countLife_metaUse (s : State) (i n : Nat) : (s.countLife i n).metaUse = s.metaUse := rfl
@[simp] theorem State.countLife_hostClk (s : State) (i n : Nat) : (s.countLife i n).hostClk = s.hostClk := rfl
@[simp] theorem State.countLife_imports (s : State) (i n : Nat) : (s.countLife i n).imports = s.imports := rfl
@[simp] theorem State.countLife_cores (s : State) (i n : Nat) : (s.countLife i n).cores = s.cores := rfl
@[simp] theorem State.countLife_launches (s : State) (i n : Nat) : (s.countLife i n).launches = s.launches := rfl
@[simp] theorem State.countLife_caravans (s : State) (i n : Nat) : (s.countLife i n).caravans = s.caravans := rfl
@[simp] theorem State.countLife_drives (s : State) (i n : Nat) : (s.countLife i n).drives = s.drives := rfl
@[simp] theorem State.countLife_domains (s : State) (i n : Nat) : (s.countLife i n).domains = s.domains := rfl
@[simp] theorem State.countLife_owners (s : State) (i n : Nat) : (s.countLife i n).owners = s.owners := rfl
@[simp] theorem State.countLife_streams (s : State) (i n : Nat) : (s.countLife i n).streams = s.streams := rfl
@[simp] theorem State.countLife_nodes (s : State) (i n : Nat) : (s.countLife i n).nodes = s.nodes := rfl
@[simp] theorem State.countLife_pages (s : State) (i n : Nat) : (s.countLife i n).pages = s.pages := rfl
@[simp] theorem State.countLife_gone (s : State) (i n : Nat) : (s.countLife i n).gone = s.gone := rfl
@[simp] theorem State.countLife_replay (s : State) (i n : Nat) : (s.countLife i n).replay = s.replay := rfl
@[simp] theorem State.countLife_poolUsed (s : State) (i n : Nat) : (s.countLife i n).poolUsed = s.poolUsed := rfl
@[simp] theorem State.countLife_tlbs (s : State) (i n : Nat) : (s.countLife i n).tlbs = s.tlbs := rfl
@[simp] theorem State.countLife_icache (s : State) (i n : Nat) : (s.countLife i n).icache = s.icache := rfl
@[simp] theorem State.countLife_held (s : State) (i n : Nat) : (s.countLife i n).held = s.held := rfl
@[simp] theorem State.countLife_matrix (s : State) (i n : Nat) : (s.countLife i n).matrix = s.matrix := rfl
@[simp] theorem State.countLife_jobs (s : State) (i n : Nat) : (s.countLife i n).jobs = s.jobs := rfl
@[simp] theorem State.countLife_rotor (s : State) (i n : Nat) : (s.countLife i n).rotor = s.rotor := rfl
@[simp] theorem State.countLife_moves (s : State) (i n : Nat) : (s.countLife i n).moves = s.moves := rfl
@[simp] theorem State.countLife_engSeq (s : State) (i n : Nat) : (s.countLife i n).engSeq = s.engSeq := rfl
@[simp] theorem State.countLife_near (s : State) (i n : Nat) : (s.countLife i n).near = s.near := rfl
@[simp] theorem State.countLife_chans (s : State) (i n : Nat) : (s.countLife i n).chans = s.chans := rfl
@[simp] theorem State.countLife_array (s : State) (i n : Nat) : (s.countLife i n).array = s.array := rfl
@[simp] theorem State.countLife_samplers (s : State) (i n : Nat) : (s.countLife i n).samplers = s.samplers := rfl
@[simp] theorem State.countLife_groups (s : State) (i n : Nat) : (s.countLife i n).groups = s.groups := rfl
@[simp] theorem State.countLife_wadi (s : State) (i n : Nat) : (s.countLife i n).wadi = s.wadi := rfl
@[simp] theorem State.countLife_transfers (s : State) (i n : Nat) : (s.countLife i n).transfers = s.transfers := rfl
@[simp] theorem State.countLife_arrivals (s : State) (i n : Nat) : (s.countLife i n).arrivals = s.arrivals := rfl
@[simp] theorem State.countLife_flits (s : State) (i n : Nat) : (s.countLife i n).flits = s.flits := rfl
@[simp] theorem State.countLife_sirocco (s : State) (i n : Nat) : (s.countLife i n).sirocco = s.sirocco := rfl
@[simp] theorem State.countLife_seen (s : State) (i n : Nat) : (s.countLife i n).seen = s.seen := rfl
@[simp] theorem State.countLife_free (s : State) (i n : Nat) : (s.countLife i n).free = s.free := rfl
@[simp] theorem State.countLife_fresh (s : State) (i n : Nat) : (s.countLife i n).fresh = s.fresh := rfl

@[simp] theorem State.tick_clk (s : State) (n : Nat) : (s.tick n).clk = s.clk + n := rfl

/-! ### Ctx.setS -/

@[simp] theorem Ctx.setS_hstate (c : Ctx) (k : Nat) (v : Word) : (c.setS k v).hstate = c.hstate := rfl
@[simp] theorem Ctx.setS_idle (c : Ctx) (k : Nat) (v : Word) : (c.setS k v).idle = c.idle := rfl
@[simp] theorem Ctx.setS_fe (c : Ctx) (k : Nat) (v : Word) : (c.setS k v).fe = c.fe := rfl
@[simp] theorem Ctx.setS_resident (c : Ctx) (k : Nat) (v : Word) : (c.setS k v).resident = c.resident := rfl
@[simp] theorem Ctx.setS_residentAt (c : Ctx) (k : Nat) (v : Word) : (c.setS k v).residentAt = c.residentAt := rfl
@[simp] theorem Ctx.setS_parked (c : Ctx) (k : Nat) (v : Word) : (c.setS k v).parked = c.parked := rfl
@[simp] theorem Ctx.setS_saved (c : Ctx) (k : Nat) (v : Word) : (c.setS k v).saved = c.saved := rfl
@[simp] theorem Ctx.setS_pc (c : Ctx) (k : Nat) (v : Word) : (c.setS k v).pc = c.pc := rfl
@[simp] theorem Ctx.setS_g (c : Ctx) (k : Nat) (v : Word) : (c.setS k v).g = c.g := rfl
@[simp] theorem Ctx.setS_wbase (c : Ctx) (k : Nat) (v : Word) : (c.setS k v).wbase = c.wbase := rfl
@[simp] theorem Ctx.setS_v (c : Ctx) (k : Nat) (v : Word) : (c.setS k v).v = c.v := rfl
@[simp] theorem Ctx.setS_masks (c : Ctx) (k : Nat) (v : Word) : (c.setS k v).masks = c.masks := rfl
@[simp] theorem Ctx.setS_grant (c : Ctx) (k : Nat) (v : Word) : (c.setS k v).grant = c.grant := rfl
@[simp] theorem Ctx.setS_savedGrant (c : Ctx) (k : Nat) (v : Word) : (c.setS k v).savedGrant = c.savedGrant := rfl
@[simp] theorem Ctx.setS_shrunk (c : Ctx) (k : Nat) (v : Word) : (c.setS k v).shrunk = c.shrunk := rfl
@[simp] theorem Ctx.setS_qset (c : Ctx) (k : Nat) (v : Word) : (c.setS k v).qset = c.qset := rfl
@[simp] theorem Ctx.setS_hlive (c : Ctx) (k : Nat) (v : Word) : (c.setS k v).hlive = c.hlive := rfl
@[simp] theorem Ctx.setS_abn (c : Ctx) (k : Nat) (v : Word) : (c.setS k v).abn = c.abn := rfl
@[simp] theorem Ctx.setS_endp (c : Ctx) (k : Nat) (v : Word) : (c.setS k v).endp = c.endp := rfl
@[simp] theorem Ctx.setS_l (c : Ctx) (k : Nat) (v : Word) : (c.setS k v).l = c.l := rfl
@[simp] theorem Ctx.setS_h (c : Ctx) (k : Nat) (v : Word) : (c.setS k v).h = c.h := rfl
@[simp] theorem Ctx.setS_tvec (c : Ctx) (k : Nat) (v : Word) : (c.setS k v).tvec = c.tvec := rfl
@[simp] theorem Ctx.setS_tcause (c : Ctx) (k : Nat) (v : Word) : (c.setS k v).tcause = c.tcause := rfl
@[simp] theorem Ctx.setS_epc (c : Ctx) (k : Nat) (v : Word) : (c.setS k v).epc = c.epc := rfl
@[simp] theorem Ctx.setS_tval (c : Ctx) (k : Nat) (v : Word) : (c.setS k v).tval = c.tval := rfl
@[simp] theorem Ctx.setS_intrap (c : Ctx) (k : Nat) (v : Word) : (c.setS k v).intrap = c.intrap := rfl
@[simp] theorem Ctx.setS_racemode (c : Ctx) (k : Nat) (v : Word) : (c.setS k v).racemode = c.racemode := rfl
@[simp] theorem Ctx.setS_gkey (c : Ctx) (k : Nat) (v : Word) : (c.setS k v).gkey = c.gkey := rfl
@[simp] theorem Ctx.setS_gpos (c : Ctx) (k : Nat) (v : Word) : (c.setS k v).gpos = c.gpos := rfl
@[simp] theorem Ctx.setS_stream (c : Ctx) (k : Nat) (v : Word) : (c.setS k v).stream = c.stream := rfl
@[simp] theorem Ctx.setS_ticket (c : Ctx) (k : Nat) (v : Word) : (c.setS k v).ticket = c.ticket := rfl
@[simp] theorem Ctx.setS_arrived (c : Ctx) (k : Nat) (v : Word) : (c.setS k v).arrived = c.arrived := rfl
@[simp] theorem Ctx.setS_launch (c : Ctx) (k : Nat) (v : Word) : (c.setS k v).launch = c.launch := rfl
@[simp] theorem Ctx.setS_sealed (c : Ctx) (k : Nat) (v : Word) : (c.setS k v).sealed = c.sealed := rfl
@[simp] theorem Ctx.setS_done (c : Ctx) (k : Nat) (v : Word) : (c.setS k v).done = c.done := rfl
@[simp] theorem Ctx.setS_openBatch (c : Ctx) (k : Nat) (v : Word) : (c.setS k v).openBatch = c.openBatch := rfl
@[simp] theorem Ctx.setS_batches (c : Ctx) (k : Nat) (v : Word) : (c.setS k v).batches = c.batches := rfl
@[simp] theorem Ctx.setS_doneP (c : Ctx) (k : Nat) (v : Word) : (c.setS k v).doneP = c.doneP := rfl
@[simp] theorem Ctx.setS_nmIssued (c : Ctx) (k : Nat) (v : Word) : (c.setS k v).nmIssued = c.nmIssued := rfl
@[simp] theorem Ctx.setS_nmDone (c : Ctx) (k : Nat) (v : Word) : (c.setS k v).nmDone = c.nmDone := rfl
@[simp] theorem Ctx.setS_nmOpen (c : Ctx) (k : Nat) (v : Word) : (c.setS k v).nmOpen = c.nmOpen := rfl
@[simp] theorem Ctx.setS_nmP (c : Ctx) (k : Nat) (v : Word) : (c.setS k v).nmP = c.nmP := rfl
@[simp] theorem Ctx.setS_nmStopped (c : Ctx) (k : Nat) (v : Word) : (c.setS k v).nmStopped = c.nmStopped := rfl
@[simp] theorem Ctx.setS_errWord (c : Ctx) (k : Nat) (v : Word) : (c.setS k v).errWord = c.errWord := rfl
@[simp] theorem Ctx.setS_errNum (c : Ctx) (k : Nat) (v : Word) : (c.setS k v).errNum = c.errNum := rfl
@[simp] theorem Ctx.setS_pend (c : Ctx) (k : Nat) (v : Word) : (c.setS k v).pend = c.pend := rfl
@[simp] theorem Ctx.setS_fbuf (c : Ctx) (k : Nat) (v : Word) : (c.setS k v).fbuf = c.fbuf := rfl
@[simp] theorem Ctx.setS_acks (c : Ctx) (k : Nat) (v : Word) : (c.setS k v).acks = c.acks := rfl
@[simp] theorem Ctx.setS_yieldEnd (c : Ctx) (k : Nat) (v : Word) : (c.setS k v).yieldEnd = c.yieldEnd := rfl
@[simp] theorem Ctx.setS_nwait (c : Ctx) (k : Nat) (v : Word) : (c.setS k v).nwait = c.nwait := rfl
@[simp] theorem Ctx.setS_xfail (c : Ctx) (k : Nat) (v : Word) : (c.setS k v).xfail = c.xfail := rfl
@[simp] theorem Ctx.setS_waitFrom (c : Ctx) (k : Nat) (v : Word) : (c.setS k v).waitFrom = c.waitFrom := rfl
@[simp] theorem Ctx.setS_mid (c : Ctx) (k : Nat) (v : Word) : (c.setS k v).mid = c.mid := rfl
@[simp] theorem Ctx.setS_qFrom (c : Ctx) (k : Nat) (v : Word) : (c.setS k v).qFrom = c.qFrom := rfl
@[simp] theorem Ctx.setS_pairFrom (c : Ctx) (k : Nat) (v : Word) : (c.setS k v).pairFrom = c.pairFrom := rfl
@[simp] theorem Ctx.setS_coreRegs (c : Ctx) (k : Nat) (v : Word) : (c.setS k v).coreRegs = c.coreRegs := rfl
@[simp] theorem Ctx.setS_poisoned (c : Ctx) (k : Nat) (v : Word) : (c.setS k v).poisoned = c.poisoned := rfl
@[simp] theorem Ctx.setS_unissued (c : Ctx) (k : Nat) (v : Word) : (c.setS k v).unissued = c.unissued := rfl
@[simp] theorem Ctx.setS_admitted (c : Ctx) (k : Nat) (v : Word) : (c.setS k v).admitted = c.admitted := rfl
@[simp] theorem Ctx.setS_popped (c : Ctx) (k : Nat) (v : Word) : (c.setS k v).popped = c.popped := rfl

/-! ### Ctx.setG -/

@[simp] theorem Ctx.setG_hstate (c : Ctx) (k : Nat) (v : Word) : (c.setG k v).hstate = c.hstate := rfl
@[simp] theorem Ctx.setG_idle (c : Ctx) (k : Nat) (v : Word) : (c.setG k v).idle = c.idle := rfl
@[simp] theorem Ctx.setG_fe (c : Ctx) (k : Nat) (v : Word) : (c.setG k v).fe = c.fe := rfl
@[simp] theorem Ctx.setG_resident (c : Ctx) (k : Nat) (v : Word) : (c.setG k v).resident = c.resident := rfl
@[simp] theorem Ctx.setG_residentAt (c : Ctx) (k : Nat) (v : Word) : (c.setG k v).residentAt = c.residentAt := rfl
@[simp] theorem Ctx.setG_parked (c : Ctx) (k : Nat) (v : Word) : (c.setG k v).parked = c.parked := rfl
@[simp] theorem Ctx.setG_saved (c : Ctx) (k : Nat) (v : Word) : (c.setG k v).saved = c.saved := rfl
@[simp] theorem Ctx.setG_pc (c : Ctx) (k : Nat) (v : Word) : (c.setG k v).pc = c.pc := rfl
@[simp] theorem Ctx.setG_win (c : Ctx) (k : Nat) (v : Word) : (c.setG k v).win = c.win := rfl
@[simp] theorem Ctx.setG_wbase (c : Ctx) (k : Nat) (v : Word) : (c.setG k v).wbase = c.wbase := rfl
@[simp] theorem Ctx.setG_v (c : Ctx) (k : Nat) (v : Word) : (c.setG k v).v = c.v := rfl
@[simp] theorem Ctx.setG_masks (c : Ctx) (k : Nat) (v : Word) : (c.setG k v).masks = c.masks := rfl
@[simp] theorem Ctx.setG_grant (c : Ctx) (k : Nat) (v : Word) : (c.setG k v).grant = c.grant := rfl
@[simp] theorem Ctx.setG_savedGrant (c : Ctx) (k : Nat) (v : Word) : (c.setG k v).savedGrant = c.savedGrant := rfl
@[simp] theorem Ctx.setG_shrunk (c : Ctx) (k : Nat) (v : Word) : (c.setG k v).shrunk = c.shrunk := rfl
@[simp] theorem Ctx.setG_qset (c : Ctx) (k : Nat) (v : Word) : (c.setG k v).qset = c.qset := rfl
@[simp] theorem Ctx.setG_hlive (c : Ctx) (k : Nat) (v : Word) : (c.setG k v).hlive = c.hlive := rfl
@[simp] theorem Ctx.setG_abn (c : Ctx) (k : Nat) (v : Word) : (c.setG k v).abn = c.abn := rfl
@[simp] theorem Ctx.setG_endp (c : Ctx) (k : Nat) (v : Word) : (c.setG k v).endp = c.endp := rfl
@[simp] theorem Ctx.setG_l (c : Ctx) (k : Nat) (v : Word) : (c.setG k v).l = c.l := rfl
@[simp] theorem Ctx.setG_h (c : Ctx) (k : Nat) (v : Word) : (c.setG k v).h = c.h := rfl
@[simp] theorem Ctx.setG_tvec (c : Ctx) (k : Nat) (v : Word) : (c.setG k v).tvec = c.tvec := rfl
@[simp] theorem Ctx.setG_tcause (c : Ctx) (k : Nat) (v : Word) : (c.setG k v).tcause = c.tcause := rfl
@[simp] theorem Ctx.setG_epc (c : Ctx) (k : Nat) (v : Word) : (c.setG k v).epc = c.epc := rfl
@[simp] theorem Ctx.setG_tval (c : Ctx) (k : Nat) (v : Word) : (c.setG k v).tval = c.tval := rfl
@[simp] theorem Ctx.setG_intrap (c : Ctx) (k : Nat) (v : Word) : (c.setG k v).intrap = c.intrap := rfl
@[simp] theorem Ctx.setG_racemode (c : Ctx) (k : Nat) (v : Word) : (c.setG k v).racemode = c.racemode := rfl
@[simp] theorem Ctx.setG_gkey (c : Ctx) (k : Nat) (v : Word) : (c.setG k v).gkey = c.gkey := rfl
@[simp] theorem Ctx.setG_gpos (c : Ctx) (k : Nat) (v : Word) : (c.setG k v).gpos = c.gpos := rfl
@[simp] theorem Ctx.setG_stream (c : Ctx) (k : Nat) (v : Word) : (c.setG k v).stream = c.stream := rfl
@[simp] theorem Ctx.setG_ticket (c : Ctx) (k : Nat) (v : Word) : (c.setG k v).ticket = c.ticket := rfl
@[simp] theorem Ctx.setG_arrived (c : Ctx) (k : Nat) (v : Word) : (c.setG k v).arrived = c.arrived := rfl
@[simp] theorem Ctx.setG_launch (c : Ctx) (k : Nat) (v : Word) : (c.setG k v).launch = c.launch := rfl
@[simp] theorem Ctx.setG_sealed (c : Ctx) (k : Nat) (v : Word) : (c.setG k v).sealed = c.sealed := rfl
@[simp] theorem Ctx.setG_done (c : Ctx) (k : Nat) (v : Word) : (c.setG k v).done = c.done := rfl
@[simp] theorem Ctx.setG_openBatch (c : Ctx) (k : Nat) (v : Word) : (c.setG k v).openBatch = c.openBatch := rfl
@[simp] theorem Ctx.setG_batches (c : Ctx) (k : Nat) (v : Word) : (c.setG k v).batches = c.batches := rfl
@[simp] theorem Ctx.setG_doneP (c : Ctx) (k : Nat) (v : Word) : (c.setG k v).doneP = c.doneP := rfl
@[simp] theorem Ctx.setG_nmIssued (c : Ctx) (k : Nat) (v : Word) : (c.setG k v).nmIssued = c.nmIssued := rfl
@[simp] theorem Ctx.setG_nmDone (c : Ctx) (k : Nat) (v : Word) : (c.setG k v).nmDone = c.nmDone := rfl
@[simp] theorem Ctx.setG_nmOpen (c : Ctx) (k : Nat) (v : Word) : (c.setG k v).nmOpen = c.nmOpen := rfl
@[simp] theorem Ctx.setG_nmP (c : Ctx) (k : Nat) (v : Word) : (c.setG k v).nmP = c.nmP := rfl
@[simp] theorem Ctx.setG_nmStopped (c : Ctx) (k : Nat) (v : Word) : (c.setG k v).nmStopped = c.nmStopped := rfl
@[simp] theorem Ctx.setG_errWord (c : Ctx) (k : Nat) (v : Word) : (c.setG k v).errWord = c.errWord := rfl
@[simp] theorem Ctx.setG_errNum (c : Ctx) (k : Nat) (v : Word) : (c.setG k v).errNum = c.errNum := rfl
@[simp] theorem Ctx.setG_pend (c : Ctx) (k : Nat) (v : Word) : (c.setG k v).pend = c.pend := rfl
@[simp] theorem Ctx.setG_fbuf (c : Ctx) (k : Nat) (v : Word) : (c.setG k v).fbuf = c.fbuf := rfl
@[simp] theorem Ctx.setG_acks (c : Ctx) (k : Nat) (v : Word) : (c.setG k v).acks = c.acks := rfl
@[simp] theorem Ctx.setG_yieldEnd (c : Ctx) (k : Nat) (v : Word) : (c.setG k v).yieldEnd = c.yieldEnd := rfl
@[simp] theorem Ctx.setG_nwait (c : Ctx) (k : Nat) (v : Word) : (c.setG k v).nwait = c.nwait := rfl
@[simp] theorem Ctx.setG_xfail (c : Ctx) (k : Nat) (v : Word) : (c.setG k v).xfail = c.xfail := rfl
@[simp] theorem Ctx.setG_waitFrom (c : Ctx) (k : Nat) (v : Word) : (c.setG k v).waitFrom = c.waitFrom := rfl
@[simp] theorem Ctx.setG_mid (c : Ctx) (k : Nat) (v : Word) : (c.setG k v).mid = c.mid := rfl
@[simp] theorem Ctx.setG_qFrom (c : Ctx) (k : Nat) (v : Word) : (c.setG k v).qFrom = c.qFrom := rfl
@[simp] theorem Ctx.setG_pairFrom (c : Ctx) (k : Nat) (v : Word) : (c.setG k v).pairFrom = c.pairFrom := rfl
@[simp] theorem Ctx.setG_coreRegs (c : Ctx) (k : Nat) (v : Word) : (c.setG k v).coreRegs = c.coreRegs := rfl
@[simp] theorem Ctx.setG_poisoned (c : Ctx) (k : Nat) (v : Word) : (c.setG k v).poisoned = c.poisoned := rfl
@[simp] theorem Ctx.setG_unissued (c : Ctx) (k : Nat) (v : Word) : (c.setG k v).unissued = c.unissued := rfl
@[simp] theorem Ctx.setG_admitted (c : Ctx) (k : Nat) (v : Word) : (c.setG k v).admitted = c.admitted := rfl
@[simp] theorem Ctx.setG_popped (c : Ctx) (k : Nat) (v : Word) : (c.setG k v).popped = c.popped := rfl

/-! ### Ctx.setLane -/

@[simp] theorem Ctx.setLane_hstate (c : Ctx) (k i : Nat) (v : Lane) : (c.setLane k i v).hstate = c.hstate := rfl
@[simp] theorem Ctx.setLane_idle (c : Ctx) (k i : Nat) (v : Lane) : (c.setLane k i v).idle = c.idle := rfl
@[simp] theorem Ctx.setLane_fe (c : Ctx) (k i : Nat) (v : Lane) : (c.setLane k i v).fe = c.fe := rfl
@[simp] theorem Ctx.setLane_resident (c : Ctx) (k i : Nat) (v : Lane) : (c.setLane k i v).resident = c.resident := rfl
@[simp] theorem Ctx.setLane_residentAt (c : Ctx) (k i : Nat) (v : Lane) : (c.setLane k i v).residentAt = c.residentAt := rfl
@[simp] theorem Ctx.setLane_parked (c : Ctx) (k i : Nat) (v : Lane) : (c.setLane k i v).parked = c.parked := rfl
@[simp] theorem Ctx.setLane_saved (c : Ctx) (k i : Nat) (v : Lane) : (c.setLane k i v).saved = c.saved := rfl
@[simp] theorem Ctx.setLane_pc (c : Ctx) (k i : Nat) (v : Lane) : (c.setLane k i v).pc = c.pc := rfl
@[simp] theorem Ctx.setLane_win (c : Ctx) (k i : Nat) (v : Lane) : (c.setLane k i v).win = c.win := rfl
@[simp] theorem Ctx.setLane_g (c : Ctx) (k i : Nat) (v : Lane) : (c.setLane k i v).g = c.g := rfl
@[simp] theorem Ctx.setLane_wbase (c : Ctx) (k i : Nat) (v : Lane) : (c.setLane k i v).wbase = c.wbase := rfl
@[simp] theorem Ctx.setLane_masks (c : Ctx) (k i : Nat) (v : Lane) : (c.setLane k i v).masks = c.masks := rfl
@[simp] theorem Ctx.setLane_grant (c : Ctx) (k i : Nat) (v : Lane) : (c.setLane k i v).grant = c.grant := rfl
@[simp] theorem Ctx.setLane_savedGrant (c : Ctx) (k i : Nat) (v : Lane) : (c.setLane k i v).savedGrant = c.savedGrant := rfl
@[simp] theorem Ctx.setLane_shrunk (c : Ctx) (k i : Nat) (v : Lane) : (c.setLane k i v).shrunk = c.shrunk := rfl
@[simp] theorem Ctx.setLane_qset (c : Ctx) (k i : Nat) (v : Lane) : (c.setLane k i v).qset = c.qset := rfl
@[simp] theorem Ctx.setLane_hlive (c : Ctx) (k i : Nat) (v : Lane) : (c.setLane k i v).hlive = c.hlive := rfl
@[simp] theorem Ctx.setLane_abn (c : Ctx) (k i : Nat) (v : Lane) : (c.setLane k i v).abn = c.abn := rfl
@[simp] theorem Ctx.setLane_endp (c : Ctx) (k i : Nat) (v : Lane) : (c.setLane k i v).endp = c.endp := rfl
@[simp] theorem Ctx.setLane_l (c : Ctx) (k i : Nat) (v : Lane) : (c.setLane k i v).l = c.l := rfl
@[simp] theorem Ctx.setLane_h (c : Ctx) (k i : Nat) (v : Lane) : (c.setLane k i v).h = c.h := rfl
@[simp] theorem Ctx.setLane_tvec (c : Ctx) (k i : Nat) (v : Lane) : (c.setLane k i v).tvec = c.tvec := rfl
@[simp] theorem Ctx.setLane_tcause (c : Ctx) (k i : Nat) (v : Lane) : (c.setLane k i v).tcause = c.tcause := rfl
@[simp] theorem Ctx.setLane_epc (c : Ctx) (k i : Nat) (v : Lane) : (c.setLane k i v).epc = c.epc := rfl
@[simp] theorem Ctx.setLane_tval (c : Ctx) (k i : Nat) (v : Lane) : (c.setLane k i v).tval = c.tval := rfl
@[simp] theorem Ctx.setLane_intrap (c : Ctx) (k i : Nat) (v : Lane) : (c.setLane k i v).intrap = c.intrap := rfl
@[simp] theorem Ctx.setLane_racemode (c : Ctx) (k i : Nat) (v : Lane) : (c.setLane k i v).racemode = c.racemode := rfl
@[simp] theorem Ctx.setLane_gkey (c : Ctx) (k i : Nat) (v : Lane) : (c.setLane k i v).gkey = c.gkey := rfl
@[simp] theorem Ctx.setLane_gpos (c : Ctx) (k i : Nat) (v : Lane) : (c.setLane k i v).gpos = c.gpos := rfl
@[simp] theorem Ctx.setLane_stream (c : Ctx) (k i : Nat) (v : Lane) : (c.setLane k i v).stream = c.stream := rfl
@[simp] theorem Ctx.setLane_ticket (c : Ctx) (k i : Nat) (v : Lane) : (c.setLane k i v).ticket = c.ticket := rfl
@[simp] theorem Ctx.setLane_arrived (c : Ctx) (k i : Nat) (v : Lane) : (c.setLane k i v).arrived = c.arrived := rfl
@[simp] theorem Ctx.setLane_launch (c : Ctx) (k i : Nat) (v : Lane) : (c.setLane k i v).launch = c.launch := rfl
@[simp] theorem Ctx.setLane_sealed (c : Ctx) (k i : Nat) (v : Lane) : (c.setLane k i v).sealed = c.sealed := rfl
@[simp] theorem Ctx.setLane_done (c : Ctx) (k i : Nat) (v : Lane) : (c.setLane k i v).done = c.done := rfl
@[simp] theorem Ctx.setLane_openBatch (c : Ctx) (k i : Nat) (v : Lane) : (c.setLane k i v).openBatch = c.openBatch := rfl
@[simp] theorem Ctx.setLane_batches (c : Ctx) (k i : Nat) (v : Lane) : (c.setLane k i v).batches = c.batches := rfl
@[simp] theorem Ctx.setLane_doneP (c : Ctx) (k i : Nat) (v : Lane) : (c.setLane k i v).doneP = c.doneP := rfl
@[simp] theorem Ctx.setLane_nmIssued (c : Ctx) (k i : Nat) (v : Lane) : (c.setLane k i v).nmIssued = c.nmIssued := rfl
@[simp] theorem Ctx.setLane_nmDone (c : Ctx) (k i : Nat) (v : Lane) : (c.setLane k i v).nmDone = c.nmDone := rfl
@[simp] theorem Ctx.setLane_nmOpen (c : Ctx) (k i : Nat) (v : Lane) : (c.setLane k i v).nmOpen = c.nmOpen := rfl
@[simp] theorem Ctx.setLane_nmP (c : Ctx) (k i : Nat) (v : Lane) : (c.setLane k i v).nmP = c.nmP := rfl
@[simp] theorem Ctx.setLane_nmStopped (c : Ctx) (k i : Nat) (v : Lane) : (c.setLane k i v).nmStopped = c.nmStopped := rfl
@[simp] theorem Ctx.setLane_errWord (c : Ctx) (k i : Nat) (v : Lane) : (c.setLane k i v).errWord = c.errWord := rfl
@[simp] theorem Ctx.setLane_errNum (c : Ctx) (k i : Nat) (v : Lane) : (c.setLane k i v).errNum = c.errNum := rfl
@[simp] theorem Ctx.setLane_pend (c : Ctx) (k i : Nat) (v : Lane) : (c.setLane k i v).pend = c.pend := rfl
@[simp] theorem Ctx.setLane_fbuf (c : Ctx) (k i : Nat) (v : Lane) : (c.setLane k i v).fbuf = c.fbuf := rfl
@[simp] theorem Ctx.setLane_acks (c : Ctx) (k i : Nat) (v : Lane) : (c.setLane k i v).acks = c.acks := rfl
@[simp] theorem Ctx.setLane_yieldEnd (c : Ctx) (k i : Nat) (v : Lane) : (c.setLane k i v).yieldEnd = c.yieldEnd := rfl
@[simp] theorem Ctx.setLane_nwait (c : Ctx) (k i : Nat) (v : Lane) : (c.setLane k i v).nwait = c.nwait := rfl
@[simp] theorem Ctx.setLane_xfail (c : Ctx) (k i : Nat) (v : Lane) : (c.setLane k i v).xfail = c.xfail := rfl
@[simp] theorem Ctx.setLane_waitFrom (c : Ctx) (k i : Nat) (v : Lane) : (c.setLane k i v).waitFrom = c.waitFrom := rfl
@[simp] theorem Ctx.setLane_mid (c : Ctx) (k i : Nat) (v : Lane) : (c.setLane k i v).mid = c.mid := rfl
@[simp] theorem Ctx.setLane_qFrom (c : Ctx) (k i : Nat) (v : Lane) : (c.setLane k i v).qFrom = c.qFrom := rfl
@[simp] theorem Ctx.setLane_pairFrom (c : Ctx) (k i : Nat) (v : Lane) : (c.setLane k i v).pairFrom = c.pairFrom := rfl
@[simp] theorem Ctx.setLane_coreRegs (c : Ctx) (k i : Nat) (v : Lane) : (c.setLane k i v).coreRegs = c.coreRegs := rfl
@[simp] theorem Ctx.setLane_poisoned (c : Ctx) (k i : Nat) (v : Lane) : (c.setLane k i v).poisoned = c.poisoned := rfl
@[simp] theorem Ctx.setLane_unissued (c : Ctx) (k i : Nat) (v : Lane) : (c.setLane k i v).unissued = c.unissued := rfl
@[simp] theorem Ctx.setLane_admitted (c : Ctx) (k i : Nat) (v : Lane) : (c.setLane k i v).admitted = c.admitted := rfl
@[simp] theorem Ctx.setLane_popped (c : Ctx) (k i : Nat) (v : Lane) : (c.setLane k i v).popped = c.popped := rfl

/-! ### Core.setQueue -/

@[simp] theorem Core.setQueue_ctxs (c : Core) (n q : Nat) (l : List Word) : (c.setQueue n q l).ctxs = c.ctxs := rfl
@[simp] theorem Core.setQueue_modes (c : Core) (n q : Nat) (l : List Word) : (c.setQueue n q l).modes = c.modes := rfl
@[simp] theorem Core.setQueue_tags (c : Core) (n q : Nat) (l : List Word) : (c.setQueue n q l).tags = c.tags := rfl
@[simp] theorem Core.setQueue_fifo (c : Core) (n q : Nat) (l : List Word) : (c.setQueue n q l).fifo = c.fifo := rfl
@[simp] theorem Core.setQueue_frames (c : Core) (n q : Nat) (l : List Word) : (c.setQueue n q l).frames = c.frames := rfl
@[simp] theorem Core.setQueue_rcache (c : Core) (n q : Nat) (l : List Word) : (c.setQueue n q l).rcache = c.rcache := rfl
@[simp] theorem Core.setQueue_cway (c : Core) (n q : Nat) (l : List Word) : (c.setQueue n q l).cway = c.cway := rfl
@[simp] theorem Core.setQueue_wlq (c : Core) (n q : Nat) (l : List Word) : (c.setQueue n q l).wlq = c.wlq := rfl
@[simp] theorem Core.setQueue_wl (c : Core) (n q : Nat) (l : List Word) : (c.setQueue n q l).wl = c.wl := rfl
@[simp] theorem Core.setQueue_cpq (c : Core) (n q : Nat) (l : List Word) : (c.setQueue n q l).cpq = c.cpq := rfl
@[simp] theorem Core.setQueue_inbox (c : Core) (n q : Nat) (l : List Word) : (c.setQueue n q l).inbox = c.inbox := rfl
@[simp] theorem Core.setQueue_tframes (c : Core) (n q : Nat) (l : List Word) : (c.setQueue n q l).tframes = c.tframes := rfl
@[simp] theorem Core.setQueue_journal (c : Core) (n q : Nat) (l : List Word) : (c.setQueue n q l).journal = c.journal := rfl
@[simp] theorem Core.setQueue_seqOut (c : Core) (n q : Nat) (l : List Word) : (c.setQueue n q l).seqOut = c.seqOut := rfl
@[simp] theorem Core.setQueue_barq (c : Core) (n q : Nat) (l : List Word) : (c.setQueue n q l).barq = c.barq := rfl
@[simp] theorem Core.setQueue_trace (c : Core) (n q : Nat) (l : List Word) : (c.setQueue n q l).trace = c.trace := rfl
@[simp] theorem Core.setQueue_lastIssue (c : Core) (n q : Nat) (l : List Word) : (c.setQueue n q l).lastIssue = c.lastIssue := rfl
@[simp] theorem Core.setQueue_xslot (c : Core) (n q : Nat) (l : List Word) : (c.setQueue n q l).xslot = c.xslot := rfl
@[simp] theorem Core.setQueue_domain (c : Core) (n q : Nat) (l : List Word) : (c.setQueue n q l).domain = c.domain := rfl
@[simp] theorem Core.setQueue_leftDomain (c : Core) (n q : Nat) (l : List Word) : (c.setQueue n q l).leftDomain = c.leftDomain := rfl
@[simp] theorem Core.setQueue_stage (c : Core) (n q : Nat) (l : List Word) : (c.setQueue n q l).stage = c.stage := rfl
@[simp] theorem Core.setQueue_otherStage (c : Core) (n q : Nat) (l : List Word) : (c.setQueue n q l).otherStage = c.otherStage := rfl
@[simp] theorem Core.setQueue_shelf (c : Core) (n q : Nat) (l : List Word) : (c.setQueue n q l).shelf = c.shelf := rfl
@[simp] theorem Core.setQueue_parkedBy (c : Core) (n q : Nat) (l : List Word) : (c.setQueue n q l).parkedBy = c.parkedBy := rfl
@[simp] theorem Core.setQueue_shared (c : Core) (n q : Nat) (l : List Word) : (c.setQueue n q l).shared = c.shared := rfl
@[simp] theorem Core.setQueue_other (c : Core) (n q : Nat) (l : List Word) : (c.setQueue n q l).other = c.other := rfl

/-! ### Reading back -/

@[simp] theorem State.core_setCore (s : State) (g : Nat) (c : Core) : (s.setCore g c).core g = c := Table.get_set_same _ _ _ _

theorem State.core_setCore_other (s : State) {g g' : Nat} (c : Core) (h : g' ≠ g) : (s.setCore g c).core g' = s.core g' :=
  Table.get_set_other _ _ _ h

@[simp] theorem State.ctx_setCtx (s : State) (g k : Nat) (c : Ctx) : (s.setCtx g k c).ctx g k = c := by
  simp [State.ctx, State.setCtx, Core.ctx, Table.get_set_same]

theorem State.ctx_setCtx_other (s : State) {g k g' k' : Nat} (c : Ctx) (h : ¬(g' = g ∧ k' = k)) :
    (s.setCtx g k c).ctx g' k' = s.ctx g' k' := by
  by_cases hg : g' = g
  · subst hg
    have hk : k' ≠ k := fun e => h ⟨rfl, e⟩
    simp [State.ctx, State.setCtx, Core.ctx, Table.get_set_other _ _ _ hk]
  · simp [State.ctx, State.setCtx, State.core_setCore_other _ _ hg]

@[simp] theorem State.ctx_onCtx (s : State) (g k : Nat) (f : Ctx → Ctx) : (s.onCtx g k f).ctx g k = f (s.ctx g k) := by
  simp [State.onCtx]

theorem State.ctx_onCtx_other (s : State) {g k g' k' : Nat} (f : Ctx → Ctx) (h : ¬(g' = g ∧ k' = k)) :
    (s.onCtx g k f).ctx g' k' = s.ctx g' k' := State.ctx_setCtx_other s _ h

@[simp] theorem State.core_onCore (s : State) (g : Nat) (f : Core → Core) : (s.onCore g f).core g = f (s.core g) := by
  simp [State.onCore]

theorem State.core_onCore_other (s : State) {g g' : Nat} (f : Core → Core) (h : g' ≠ g) :
    (s.onCore g f).core g' = s.core g' := State.core_setCore_other s _ h

theorem State.core_onCtx_other (s : State) {g g' : Nat} (k : Nat) (f : Ctx → Ctx) (h : g' ≠ g) :
    (s.onCtx g k f).core g' = s.core g' := State.core_setCore_other s _ h

@[simp] theorem State.launch_onLaunch (s : State) (i : Nat) (f : Launch → Launch) :
    (s.onLaunch i f).launch i = f (s.launch i) := Table.get_set_same _ _ _ _

theorem State.launch_onLaunch_other (s : State) {i j : Nat} (f : Launch → Launch) (h : j ≠ i) :
    (s.onLaunch i f).launch j = s.launch j := Table.get_set_other _ _ _ h

@[simp] theorem State.caravan_onCaravan (s : State) (d : Nat) (f : Caravan → Caravan) :
    (s.onCaravan d f).caravan d = f (s.caravan d) := Table.get_set_same _ _ _ _

@[simp] theorem State.stream_onStream (s : State) (n : Nat) (f : Stream → Stream) :
    (s.onStream n f).stream n = f (s.stream n) := Table.get_set_same _ _ _ _

theorem State.stream_onStream_other (s : State) {n m : Nat} (f : Stream → Stream) (h : m ≠ n) :
    (s.onStream n f).stream m = s.stream m := Table.get_set_other _ _ _ h

@[simp] theorem State.domainOf_onDomain (s : State) (n : Nat) (f : Domain → Domain) :
    (s.onDomain n f).domainOf n = f (s.domainOf n) := Table.get_set_same _ _ _ _

@[simp] theorem State.engine_onEngine (s : State) (c : Nat) (f : MatrixEngine → MatrixEngine) :
    (s.onEngine c f).engine c = f (s.engine c) := Table.get_set_same _ _ _ _

@[simp] theorem State.owner_onOwner (s : State) (o : Nat) (f : Owner → Owner) :
    (s.onOwner o f).owner o = f (s.owner o) := Table.get_set_same _ _ _ _

@[simp] theorem Ctx.s_setS (c : Ctx) (k : Nat) (v : Word) : (c.setS k v).s k = v := Table.get_set_same _ _ _ _

theorem Ctx.s_setS_other (c : Ctx) {k j : Nat} (v : Word) (h : j ≠ k) : (c.setS k v).s j = c.s j :=
  Table.get_set_other c.win 0 v (i := c.wbase + k) (j := c.wbase + j) (by omega)

@[simp] theorem Ctx.s_setG (c : Ctx) (k j : Nat) (v : Word) : (c.setG k v).s j = c.s j := rfl

@[simp] theorem Ctx.gr_setG (c : Ctx) (k : Nat) (v : Word) : (c.setG k v).gr k = v := Table.get_set_same _ _ _ _

theorem Ctx.gr_setG_other (c : Ctx) {k j : Nat} (v : Word) (h : j ≠ k) : (c.setG k v).gr j = c.gr j :=
  Table.get_set_other _ _ _ h

@[simp] theorem Ctx.gr_setS (c : Ctx) (k j : Nat) (v : Word) : (c.setS k v).gr j = c.gr j := rfl

@[simp] theorem Ctx.lane_setLane (c : Ctx) (k i : Nat) (x : Lane) : (c.setLane k i x).lane k i = x :=
  Table.get_set_same _ _ _ _

theorem Ctx.lane_setLane_other (c : Ctx) {k i k' i' : Nat} (x : Lane) (hi : i < 128) (hi' : i' < 128) (h : ¬(k' = k ∧ i' = i)) :
    (c.setLane k i x).lane k' i' = c.lane k' i' :=
  Table.get_set_other _ _ _ (by omega)

@[simp] theorem Core.queue_setQueue (c : Core) (n q : Nat) (l : List Word) : (c.setQueue n q l).queue n q = l :=
  Table.get_set_same _ _ _ _

theorem Core.queue_setQueue_other (c : Core) {n q n' q' : Nat} (l : List Word) (hq : q < 7) (hq' : q' < 7)
    (h : ¬(n' = n ∧ q' = q)) : (c.setQueue n q l).queue n' q' = c.queue n' q' :=
  Table.get_set_other _ _ _ (by omega)

end Sys2Proof.Machine
end

