-- ==== Sys2Proof/Laws/Run.lean ====
section
/-! SUPPORT. What the shared steps of a core instruction do: reading and writing operands, the checks, and issuing. -/
namespace Sys2Proof.Machine

theorem bind_run {α β : Type} (m : M α) (f : α → M β) (s : State) :
    (m >>= f).run s = match m.run s with
      | .ok (a, t) => (f a).run t
      | .error e => .error e := by
  have h : (m >>= f).run s = (do let p ← m s; f p.1 p.2) := rfl
  rw [h]
  show _ = match m s with | .ok (a, t) => (f a).run t | .error e => .error e
  cases m s <;> rfl

theorem bind_run_ok {α β : Type} {m : M α} {f : α → M β} {s t : State} {a : α} (h : m.run s = .ok (a, t)) :
    (m >>= f).run s = (f a).run t := by rw [bind_run, h]

theorem pure_run {α : Type} (a : α) (s : State) : (pure a : M α).run s = .ok (a, s) := rfl

theorem get_run (s : State) : (get : M State).run s = .ok (s, s) := rfl

theorem onMyCtx_run (f : Ctx → Ctx) (s : State) : (onMyCtx f).run s = .ok ((), s.onMine f) := rfl

theorem onMyCore_run (f : Core → Core) (s : State) : (onMyCore f).run s = .ok ((), s.onCore s.cur.1 f) := rfl

theorem myCtx_run (s : State) : myCtx.run s = .ok (s.mine, s) := rfl

theorem myCore_run (s : State) : myCore.run s = .ok (s.core s.cur.1, s) := rfl

theorem me_run (s : State) : me.run s = .ok (s.cur, s) := rfl

theorem trapIf_run_false {c : Bool} (h : c = false) (cause : Nat) (tval : Word) (s : State) :
    (trapIf c cause tval).run s = .ok ((), s) := by subst h; rfl

theorem trapIf_run_true {c : Bool} (h : c = true) (cause : Nat) (tval : Word) (s : State) :
    (trapIf c cause tval).run s = .error (.trap { cause := cause, tval := tval }) := by subst h; rfl

theorem trapIf_run (c : Bool) (cause : Nat) (tval : Word) (s : State) :
    (trapIf c cause tval).run s = if c then .error (.trap { cause := cause, tval := tval }) else .ok ((), s) := by
  cases c <;> rfl

theorem modify_run (f : State → State) (s : State) : (modify f : M Unit).run s = .ok ((), f s) := rfl

/-- Reading a scalar operand. -/
theorem src_run (code : BitVec 6) (s : State) : (src code).run s = .ok (s.pull code) := by
  unfold src State.pull
  rw [bind_run, get_run]
  dsimp only [State.mine]
  split
  · split
    · rename_i h; simp only [h]; rfl
    · rename_i h; simp only [h]; rfl
  · rfl

/-- Writing a scalar operand. -/
theorem dst_run (code : BitVec 6) (v : Word) (s : State) : (dst code v).run s = .ok ((), s.give code v) := by
  unfold dst State.give
  dsimp only
  split
  · rfl
  · split
    · rfl
    · split
      · rfl
      · rfl

theorem srcB_run (x : RFields) (s : State) : (srcB x).run s = .ok (s.pullB x) := by
  unfold srcB State.pullB
  cases formLit x.form with
  | none => exact src_run _ _
  | some v => rfl

theorem binary_run (x : RFields) (f : Nat → Word → Word → Word) (v : Env) (s : State) :
    (binary x f v).run s = .ok ((), s.twoOperand x (f v.e.ty.toNat)) := by
  unfold binary
  rw [bind_run_ok (src_run _ _), bind_run_ok (srcB_run _ _), dst_run]
  rfl

theorem binaryImm_run (x : IFields) (f : Nat → Word → Word → Word) (v : Env) (s : State) :
    (binaryImm x f v).run s = .ok ((), s.oneOperand x.a x.d (fun a => f v.e.ty.toNat a x.imm)) := by
  unfold binaryImm
  rw [bind_run_ok (src_run _ _), dst_run]
  rfl

theorem goTo_run {t : Word} (h : targetBad t = false) (s : State) : (goTo t).run s = .ok ((), s.jump t) := by
  unfold goTo
  rw [bind_run_ok (trapIf_run_false h _ _ _)]
  rfl

/-- Reading an operand leaves whose turn it is. -/
@[simp] theorem State.pull_cur (s : State) (c : BitVec 6) : (s.pull c).2.cur = s.cur := by
  unfold State.pull
  split
  · split <;> rfl
  · rfl

@[simp] theorem State.pullB_cur (s : State) (x : RFields) : (s.pullB x).2.cur = s.cur := by
  unfold State.pullB
  split
  · rfl
  · simp

@[simp] theorem State.give_cur (s : State) (c : BitVec 6) (v : Word) : (s.give c v).cur = s.cur := by
  unfold State.give
  split
  · rfl
  · split
    · rfl
    · split <;> rfl

@[simp] theorem State.pull_mem (s : State) (c : BitVec 6) : (s.pull c).2.mem = s.mem := by
  unfold State.pull
  split
  · split <;> rfl
  · rfl

@[simp] theorem State.pullB_mem (s : State) (x : RFields) : (s.pullB x).2.mem = s.mem := by
  unfold State.pullB
  split
  · rfl
  · simp

@[simp] theorem State.give_mem (s : State) (c : BitVec 6) (v : Word) : (s.give c v).mem = s.mem := by
  unfold State.give
  split
  · rfl
  · split
    · rfl
    · split <;> rfl

@[simp] theorem State.trace_cur (s : State) (g k kind : Nat) (p : Word) : (s.trace g k kind p).cur = s.cur := by
  unfold State.trace State.traceFor; split <;> rfl

@[simp] theorem State.trace_mem (s : State) (g k kind : Nat) (p : Word) : (s.trace g k kind p).mem = s.mem := by
  unfold State.trace State.traceFor; split <;> rfl

@[simp] theorem State.traceMem_mem (s : State) (g k : Nat) (i : Instr) : (s.traceMem g k i).mem = s.mem := by
  unfold State.traceMem; split <;> simp

@[simp] theorem State.completed_mem (s : State) (i : Instr) : (s.completed i).mem = s.mem := by
  simp [State.completed, State.retired]

@[simp] theorem State.begun_mem (s : State) (i : Instr) : (s.begun i).mem = s.mem := rfl

@[simp] theorem State.begun_cur (s : State) (i : Instr) : (s.begun i).cur = s.cur := rfl

/-- An instruction of rows other than 4 and 5 leaves no MEM record. -/
theorem State.traceMem_none {i : Instr} (h : memKind i = none) (s : State) (g k : Nat) : s.traceMem g k i = s := by
  unfold State.traceMem; rw [h]

theorem runBody_ok {i : Instr} {s t : State} {body : Env → M Unit}
    (h : (body (envOf s s.cur.1 s.cur.2 i)).run (s.begun i) = .ok ((), t)) (hc : t.cur = s.cur) :
    runBody i s s.cur.1 s.cur.2 (envOf s s.cur.1 s.cur.2 i) body = t.completed i := by
  have h' : (body (envOf s s.cur.1 s.cur.2 i)).run ({ s with seen := none }.onCtx s.cur.1 s.cur.2
      (fun c => { c.touched with pc := (envOf s s.cur.1 s.cur.2 i).next })) = .ok ((), t) := h
  unfold runBody
  rw [h']
  simp only [State.completed, hc]

/-- A context that has popped nothing while it waited keeps its queues as they are. -/
theorem State.unpop_of_none {s : State} {g k : Nat} (h : (s.ctx g k).popped = []) : s.unpop g k = s := by
  simp [State.unpop, h]

/-- An instruction that issues and whose body completes: the part is left as the body leaves it. -/
theorem issue_ok {i : Instr} {s t : State} {body : Env → M Unit} (hi : Issues i s)
    (h : (body (envOf s s.cur.1 s.cur.2 i)).run (s.begun i) = .ok ((), t)) (hc : t.cur = s.cur) :
    issue i body s = .next (t.completed i) := by
  have h1 : decodeCause i (s.ctx s.cur.1 s.cur.2).fe = none := hi.1
  have h2 : queueVerdict (s.core s.cur.1) (s.ctx s.cur.1 s.cur.2) i = .ready := hi.2.1
  have h3 : s.unpop s.cur.1 s.cur.2 = s := State.unpop_of_none hi.2.2
  unfold issue
  simp only [h1, h3, h2]
  rw [runBody_ok h hc]

/-- An instruction that issues and whose body traps: the trap is taken from the state before it (R8). -/
theorem issue_trap {i : Instr} {s : State} {info : TrapInfo} {body : Env → M Unit} (hi : Issues i s)
    (h : (body (envOf s s.cur.1 s.cur.2 i)).run (s.begun i) = .error (.trap info)) :
    issue i body s = .next (s.trapAt s.cur.1 s.cur.2 (envOf s s.cur.1 s.cur.2 i) info) := by
  have h' : (body (envOf s s.cur.1 s.cur.2 i)).run ({ s with seen := none }.onCtx s.cur.1 s.cur.2
      (fun c => { c.touched with pc := (envOf s s.cur.1 s.cur.2 i).next })) = .error (.trap info) := h
  have h1 : decodeCause i (s.ctx s.cur.1 s.cur.2).fe = none := hi.1
  have h2 : queueVerdict (s.core s.cur.1) (s.ctx s.cur.1 s.cur.2) i = .ready := hi.2.1
  have h3 : s.unpop s.cur.1 s.cur.2 = s := State.unpop_of_none hi.2.2
  unfold issue
  simp only [h1, h3, h2]
  unfold runBody
  rw [h']

/-- An instruction that issues and whose body waits. -/
theorem issue_wait {i : Instr} {s : State} {f : State → State} {body : Env → M Unit} (hi : Issues i s)
    (h : (body (envOf s s.cur.1 s.cur.2 i)).run (s.begun i) = .error (.wait f)) :
    issue i body s = .next ((s.waiting s.cur.1 s.cur.2 (waitEffect i s.cur.1 s.cur.2 f)).takePops s.cur.1 s.cur.2 i) := by
  have h' : (body (envOf s s.cur.1 s.cur.2 i)).run ({ s with seen := none }.onCtx s.cur.1 s.cur.2
      (fun c => { c.touched with pc := (envOf s s.cur.1 s.cur.2 i).next })) = .error (.wait f) := h
  have h1 : decodeCause i (s.ctx s.cur.1 s.cur.2).fe = none := hi.1
  have h2 : queueVerdict (s.core s.cur.1) (s.ctx s.cur.1 s.cur.2) i = .ready := hi.2.1
  have h3 : s.unpop s.cur.1 s.cur.2 = s := State.unpop_of_none hi.2.2
  unfold issue
  simp only [h1, h3, h2]
  unfold runBody
  rw [h']

@[simp] theorem envOf_e (s : State) (g k : Nat) (i : Instr) : (envOf s g k i).e = extOf i := rfl

@[simp] theorem State.twoOperand_cur (s : State) (x : RFields) (f : Word → Word → Word) : (s.twoOperand x f).cur = s.cur := by
  simp [State.twoOperand]

@[simp] theorem State.oneOperand_cur (s : State) (a d : BitVec 6) (f : Word → Word) : (s.oneOperand a d f).cur = s.cur := by
  simp [State.oneOperand]

/-- A two-operand instruction that issues. -/
theorem issue_binary (i : Instr) (x : RFields) (f : Nat → Word → Word → Word) (s : State) (h : Issues i s) :
    issue i (binary x f) s = .next (((s.begun i).twoOperand x (f (extOf i).ty.toNat)).completed i) := by
  refine issue_ok h ?_ (by rw [State.twoOperand_cur, State.begun_cur])
  rw [binary_run, envOf_e]

/-- An immediate instruction that issues. -/
theorem issue_binaryImm (i : Instr) (x : IFields) (f : Nat → Word → Word → Word) (s : State) (h : Issues i s) :
    issue i (binaryImm x f) s
      = .next (((s.begun i).oneOperand x.a x.d (fun a => f (extOf i).ty.toNat a x.imm)).completed i) := by
  refine issue_ok h ?_ (by rw [State.oneOperand_cur, State.begun_cur])
  rw [binaryImm_run, envOf_e]

/-- Every core instruction answers a next state: it completes, traps or waits. -/
theorem issue_next (i : Instr) (body : Env → M Unit) (s : State) : ∃ t, issue i body s = .next t := by
  unfold issue
  dsimp only
  split
  · exact ⟨_, rfl⟩
  · split <;> exact ⟨_, rfl⟩

end Sys2Proof.Machine
end

