-- ==== Sys2Proof/Tests/Slice0.lean ====
section
/-! SUPPORT. Tests of the model's own: words of every opcode, ill-formed terms that the checks refuse, the manual's worked
results, single steps, and for each statement with hypotheses a state and operands that meet them (`test_witness_…`). -/
set_option Elab.async false
namespace Sys2Proof.Tests
open Sys2Proof Sys2Proof.Machine

/-! ### Decoding (R49, R53, R54, R64). Each word is laid out by hand of a script from R53's fields and R64's opcode. -/

/-- Extended words with a sub-operation, rounding mode, type, third operand and IMM32 (R54). -/
def xw (sub : BitVec 8) (rm : BitVec 3) (ty c : BitVec 6) (imm32 : Lane) : Ext :=
  { sub := sub, f2 := false, sat := false, hint := 0, sc := 0, rm := rm, ty := ty, c := c, imm32 := imm32 }

/-- Every listed sequence of words decodes to its instruction. -/
def decodes (l : List (List Lane × Instr)) : Bool :=
  l.all (fun p => decide (decodeWords p.1 = .ok (p.2, p.1.length)))

theorem test_decode_row_0 : decodes [
    ([0x02890C00], .add ⟨0, 10, 9, 3, .word⟩),
    ([0x02890C04], .sub ⟨0, 10, 9, 3, .word⟩),
    ([0x02890C08], .mul ⟨0, 10, 9, 3, .word⟩),
    ([0x02890C0C], .mulh ⟨0, 10, 9, 3, .word⟩),
    ([0x02890C10], .div ⟨0, 10, 9, 3, .word⟩),
    ([0x02890C14], .rem ⟨0, 10, 9, 3, .word⟩),
    ([0x02890C18], .and ⟨0, 10, 9, 3, .word⟩),
    ([0x02890C1C], .or ⟨0, 10, 9, 3, .word⟩),
    ([0x02890C20], .xor ⟨0, 10, 9, 3, .word⟩),
    ([0x02890C24], .andn ⟨0, 10, 9, 3, .word⟩),
    ([0x02890C28], .shl ⟨0, 10, 9, 3, .word⟩),
    ([0x12890C2C], .shr ⟨1, 10, 9, 3, .word⟩),
    ([0x12890C30], .rot ⟨1, 10, 9, 3, .word⟩),
    ([0x02890C34], .min ⟨0, 10, 9, 3, .word⟩),
    ([0x02890C38], .max ⟨0, 10, 9, 3, .word⟩),
    ([0x42890C3C], .cmp ⟨4, 10, 9, 3, .word⟩)] = true := by decide +kernel

theorem test_decode_row_1 : decodes [
    ([0xA9490C40], .addi ⟨0x2a5, 9, 3, .word⟩),
    ([0xA9490C44], .andi ⟨0x2a5, 9, 3, .word⟩),
    ([0xA9490C48], .ori ⟨0x2a5, 9, 3, .word⟩),
    ([0xA9490C4C], .xori ⟨0x2a5, 9, 3, .word⟩),
    ([0x01490C50], .shli ⟨0x5, 9, 3, .word⟩),
    ([0x10C90C54], .shri ⟨0x43, 9, 3, .word⟩),
    ([0xA9490C58], .cmpi ⟨0x2a5, 9, 3, .word⟩),
    ([0x55400C5C], .lit ⟨0x155, 0, 3, .word⟩),
    ([0x22891460], .sel ⟨2, 10, 9, 5, .word⟩),
    ([0x20090C64], .bcnt ⟨2, 0, 9, 3, .word⟩),
    ([0x12890C68], .bfx ⟨1, 10, 9, 3, .word⟩),
    ([0x0289146C], .bfi ⟨0, 10, 9, 5, .word⟩),
    ([0x32890C70], .addr ⟨3, 10, 9, 3, .word⟩),
    ([0x12890C74], .adds ⟨1, 10, 9, 3, .word⟩),
    ([0x22890C78], .fop ⟨2, 10, 9, 3, .word⟩),
    ([0x02890C7C], .mad ⟨0, 10, 9, 3, .word⟩)] = true := by decide +kernel

theorem test_decode_row_2 : decodes [
    ([0x9A700080], .br ⟨0x9a7, 0, 0, .word⟩),
    ([0x9A724484], .bz ⟨0x9a7, 9, 1, .word⟩),
    ([0x9A724489, 0x0000000B, 0x00000000], .bcmp ⟨0x9a7, 9, 1, (.ext (xw 0 0 0 11 0x0))⟩),
    ([0x9A71008C], .call ⟨0x9a7, 4, 0, .word⟩),
    ([0x00000090], .ret ⟨0x0, 0, 0, .word⟩),
    ([0x00090094], .jr ⟨0, 0, 9, 0, .word⟩),
    ([0x00091098], .callr ⟨0, 0, 9, 4, .word⟩),
    ([0x9A71409C], .loop ⟨0x9a7, 5, 0, .word⟩),
    ([0x9A7DC4A0], .bq ⟨0x9a7, 55, 1, .word⟩),
    ([0x028900A4], .jtab ⟨0, 10, 9, 0, .word⟩),
    ([0x000000A8], .nop ⟨0, 0, 0, 0, .word⟩)] = true := by decide +kernel

theorem test_decode_row_3 : decodes [
    ([0xA9490CC0], .ldl ⟨0x2a5, 9, 3, .word⟩),
    ([0xA9490CC4], .stl ⟨0x2a5, 9, 3, .word⟩),
    ([0x0A0048C9, 0x0000030B, 0x00000024], .vldl ⟨0, 5, 0, 0, 18, (.ext (xw 0 0 12 11 0x24))⟩),
    ([0x0A0580CD, 0x0300100B, 0x00000024], .vstl ⟨0, 5, 0, 11, 0, (.ext (xw 3 1 0 11 0x24))⟩),
    ([0x0B5048D1, 0x0000030B, 0x00000024], .vgathl ⟨0, 5, 21, 0, 18, (.ext (xw 0 0 12 11 0x24))⟩),
    ([0x0B5580D5, 0x0000130B, 0x00000024], .vscatl ⟨0, 5, 21, 11, 0, (.ext (xw 0 1 12 11 0x24))⟩),
    ([0x0A0048D9, 0x0300000B, 0x00000024], .ldtx ⟨0, 5, 0, 0, 18, (.ext (xw 3 0 0 11 0x24))⟩),
    ([0x02890CDC], .rrot ⟨0, 10, 9, 3, .word⟩),
    ([0x02890CE0], .bankmode ⟨0, 10, 9, 3, .word⟩),
    ([0x12890CE4], .fpush ⟨1, 10, 9, 3, .word⟩),
    ([0x00090CE8], .fpop ⟨0, 0, 9, 3, .word⟩),
    ([0x02890CEC], .rstl ⟨0, 10, 9, 3, .word⟩),
    ([0x12890CF0], .radd ⟨1, 10, 9, 3, .word⟩)] = true := by decide +kernel

theorem test_decode_row_4 : decodes [
    ([0xA9490D00], .ld ⟨0x2a5, 9, 3, .word⟩),
    ([0xA9490D04], .st ⟨0x2a5, 9, 3, .word⟩),
    ([0x0A004909, 0x0000000B, 0x00000024], .vld ⟨0, 5, 0, 0, 18, (.ext (xw 0 0 0 11 0x24))⟩),
    ([0x0A05810D, 0x0000000B, 0x00000024], .vst ⟨0, 5, 0, 11, 0, (.ext (xw 0 0 0 11 0x24))⟩),
    ([0x0B504911, 0x0000000B, 0x00000024], .vgath ⟨0, 5, 21, 0, 18, (.ext (xw 0 0 0 11 0x24))⟩),
    ([0x0B558115, 0x0000000B, 0x00000024], .vscat ⟨0, 5, 21, 11, 0, (.ext (xw 0 0 0 11 0x24))⟩),
    ([0xA9490118], .pref ⟨0x2a5, 9, 0, .word⟩),
    ([0x1009011C], .wlq ⟨1, 0, 9, 0, .word⟩),
    ([0x00000120], .wlwait ⟨0, 0, 0, 0, .word⟩)] = true := by decide +kernel

theorem test_decode_row_5 : decodes [
    ([0x12890D40], .amo ⟨1, 10, 9, 3, .word⟩),
    ([0x02890D44], .cas ⟨0, 10, 9, 3, .word⟩),
    ([0x01891949, 0x0000000C, 0x00000040], .cas2 ⟨0, 6, 9, 6, (.ext (xw 0 0 0 12 0x40))⟩),
    ([0xA949114C], .lda ⟨0x2a5, 9, 4, .word⟩),
    ([0xA9491150], .strel ⟨0x2a5, 9, 4, .word⟩),
    ([0x00000154], .fence ⟨0, 0, 0, 0, .word⟩),
    ([0x02890D58], .afadd ⟨0, 10, 9, 3, .word⟩),
    ([0xA949195C], .lda2 ⟨0x2a5, 9, 6, .word⟩)] = true := by decide +kernel

theorem test_decode_row_6 : decodes [
    ([0x02890180], .barinit ⟨0, 10, 9, 0, .word⟩),
    ([0x02890D84], .arrive ⟨0, 10, 9, 3, .word⟩),
    ([0x02890D88], .waitph ⟨0, 10, 9, 3, .word⟩),
    ([0x02890D8C], .testph ⟨0, 10, 9, 3, .word⟩),
    ([0x02890190], .expect ⟨0, 10, 9, 0, .word⟩),
    ([0x12890D94], .signal ⟨1, 10, 9, 3, .word⟩),
    ([0x12890D98], .waitsig ⟨1, 10, 9, 3, .word⟩),
    ([0x02890D9C], .domain ⟨0, 10, 9, 3, .word⟩),
    ([0x00000DA0], .sync ⟨0, 0, 0, 3, .word⟩),
    ([0x928901A4], .xsend ⟨9, 10, 9, 0, .word⟩),
    ([0x00090DA8], .xwait ⟨0, 0, 9, 3, .word⟩)] = true := by decide +kernel

theorem test_decode_row_7 : decodes [
    ([0x72890DC0], .start ⟨7, 10, 9, 3, .word⟩),
    ([0x000001C4], .endHelper ⟨0, 0, 0, 0, .word⟩),
    ([0x00090DC8], .hwait ⟨0, 0, 9, 3, .word⟩),
    ([0x100901CC], .qbind ⟨1, 0, 9, 0, .word⟩),
    ([0x00090DD0], .qstat ⟨0, 0, 9, 3, .word⟩),
    ([0x00090DD4], .vclaim ⟨0, 0, 9, 3, .word⟩),
    ([0x00090DD8], .vyield ⟨0, 0, 9, 3, .word⟩),
    ([0x000901DC], .yield ⟨0, 0, 9, 0, .word⟩),
    ([0x000919E0], .nwait ⟨0, 0, 9, 6, .word⟩),
    ([0x000901E4], .ndone ⟨0, 0, 9, 0, .word⟩),
    ([0x02890DE8], .task ⟨0, 10, 9, 3, .word⟩)] = true := by decide +kernel

theorem test_decode_row_8 : decodes [
    ([0x0B55CA00], .vadd ⟨0, 5, 21, 11, 18, .word⟩),
    ([0x0B55CA04], .vsub ⟨0, 5, 21, 11, 18, .word⟩),
    ([0x0B55CA08], .vmul ⟨0, 5, 21, 11, 18, .word⟩),
    ([0x0B55CA0C], .vfma ⟨0, 5, 21, 11, 18, .word⟩),
    ([0x0B55CA10], .vmin ⟨0, 5, 21, 11, 18, .word⟩),
    ([0x0B55CA14], .vmax ⟨0, 5, 21, 11, 18, .word⟩),
    ([0x0B55CA18], .vand ⟨0, 5, 21, 11, 18, .word⟩),
    ([0x0B55CA1C], .vor ⟨0, 5, 21, 11, 18, .word⟩),
    ([0x0B55CA20], .vxor ⟨0, 5, 21, 11, 18, .word⟩),
    ([0x0B55CA24], .vshl ⟨0, 5, 21, 11, 18, .word⟩),
    ([0x1B55CA28], .vshr ⟨1, 5, 21, 11, 18, .word⟩),
    ([0x3B558A2C], .vcmp ⟨3, 5, 21, 11, 2, .word⟩),
    ([0x0B55CA30], .vsel ⟨0, 5, 21, 11, 18, .word⟩),
    ([0x0A05CA35, 0x09001200, 0x00000001], .vcvt ⟨0, 5, 0, 11, 18, (.ext (xw 9 1 8 0 0x1))⟩),
    ([0x1A05CA38], .vneg ⟨1, 5, 0, 11, 18, .word⟩),
    ([0x1B55CA3C], .vdot4 ⟨1, 5, 21, 11, 18, .word⟩)] = true := by decide +kernel

theorem test_decode_row_9 : decodes [
    ([0x1A05CA40], .vsfu ⟨1, 5, 0, 11, 18, .word⟩),
    ([0x0A05CA44], .vmov ⟨0, 5, 0, 11, 18, .word⟩),
    ([0x0A004A48], .vidx ⟨0, 5, 0, 0, 18, .word⟩),
    ([0x0005824D, 0x00000203, 0x00000024], .vext ⟨0, 0, 0, 11, 0, (.ext (xw 0 0 8 3 0x24))⟩),
    ([0x00004A51, 0x0000020B, 0x00000024], .vins ⟨0, 0, 0, 0, 18, (.ext (xw 0 0 8 11 0x24))⟩),
    ([0x0A05CA54], .vclamp ⟨0, 5, 0, 11, 18, .word⟩),
    ([0x0A05CA58], .vquant ⟨0, 5, 0, 11, 18, .word⟩),
    ([0x10418A5C], .mop ⟨1, 0, 4, 3, 2, .word⟩)] = true := by decide +kernel

theorem test_decode_row_A : decodes [
    ([0x1B55CA80], .vshuf ⟨1, 5, 21, 11, 18, .word⟩),
    ([0x1A05CA84], .vrot ⟨1, 5, 0, 11, 18, .word⟩),
    ([0x1A058288], .vvote ⟨1, 5, 0, 11, 0, .word⟩),
    ([0x1A058A8C], .vmatch ⟨1, 5, 0, 11, 2, .word⟩),
    ([0x1A058290], .vred ⟨1, 5, 0, 11, 0, .word⟩),
    ([0x1A05CA94], .vscan ⟨1, 5, 0, 11, 18, .word⟩),
    ([0x1A05CA98], .vcomp ⟨1, 5, 0, 11, 18, .word⟩),
    ([0x0A05CA9C], .vbcast ⟨0, 5, 0, 11, 18, .word⟩)] = true := by decide +kernel

theorem test_decode_row_B : decodes [
    ([0x12890EC0], .mtile ⟨1, 10, 9, 3, .word⟩),
    ([0x028902C4], .mloadb ⟨0, 10, 9, 0, .word⟩),
    ([0x028902C8], .macc ⟨0, 10, 9, 0, .word⟩),
    ([0x028902CC], .mread ⟨0, 10, 9, 0, .word⟩),
    ([0x128902D0], .mscale ⟨1, 10, 9, 0, .word⟩),
    ([0x00090ED4], .mwait ⟨0, 0, 9, 3, .word⟩),
    ([0x00090ED8], .mstat ⟨0, 0, 9, 3, .word⟩),
    ([0x128902DD, 0x0000124B, 0x00000020], .msoft ⟨1, 10, 9, 0, (.ext (xw 0 1 9 11 0x20))⟩)] = true := by decide +kernel

theorem test_decode_row_C : decodes [
    ([0x10080F00], .cpq ⟨1, 0, 8, 3, .word⟩),
    ([0x00000F04], .cpseal ⟨0, 0, 0, 3, .word⟩),
    ([0x00090F08], .cpwait ⟨0, 0, 9, 3, .word⟩),
    ([0x10000F0C], .cpstat ⟨1, 0, 0, 3, .word⟩),
    ([0x00080F10], .nmc ⟨0, 0, 8, 3, .word⟩),
    ([0x00000F14], .nmfence ⟨0, 0, 0, 3, .word⟩)] = true := by decide +kernel

theorem test_decode_row_D : decodes [
    ([0x02890F40], .snew ⟨0, 10, 9, 3, .word⟩),
    ([0x02890F44], .fork ⟨0, 10, 9, 3, .word⟩),
    ([0x00090F48], .sbind ⟨0, 0, 9, 3, .word⟩),
    ([0x02890F4C], .pplace ⟨0, 10, 9, 3, .word⟩),
    ([0x12890F50], .squery ⟨1, 10, 9, 3, .word⟩),
    ([0x12890F54], .sstep ⟨1, 10, 9, 3, .word⟩),
    ([0x12890F58], .apush ⟨1, 10, 9, 3, .word⟩),
    ([0x10091B5C], .apop ⟨1, 0, 9, 6, .word⟩),
    ([0x02890F61, 0x0000000B, 0x00000000], .strunc ⟨0, 10, 9, 3, (.ext (xw 0 0 0 11 0x0))⟩),
    ([0x02890F65, 0x0000000B, 0x00000000], .smigr ⟨0, 10, 9, 3, (.ext (xw 0 0 0 11 0x0))⟩),
    ([0x02890F68], .sret ⟨0, 10, 9, 3, .word⟩),
    ([0x02890F6C], .join ⟨0, 10, 9, 3, .word⟩)] = true := by decide +kernel

theorem test_decode_row_E : decodes [
    ([0x0E090380], .trap ⟨0x38, 9, 0, .word⟩),
    ([0x00000384], .eret ⟨0, 0, 0, 0, .word⟩),
    ([0xA9400F88], .sysr ⟨0x2a5, 0, 3, .word⟩),
    ([0xA949038C], .sysw ⟨0x2a5, 9, 0, .word⟩),
    ([0xA9400390], .brk ⟨0x2a5, 0, 0, .word⟩),
    ([0x00090394], .halt ⟨0, 0, 9, 0, .word⟩),
    ([0x10090F98], .jrnl ⟨1, 0, 9, 3, .word⟩),
    ([0x10090F9C], .trace ⟨1, 0, 9, 3, .word⟩),
    ([0x000903A0], .trig ⟨0, 0, 9, 0, .word⟩),
    ([0x02890FA4], .watch ⟨0, 10, 9, 3, .word⟩)] = true := by decide +kernel

/-- The sampler's words, laid out by R467 and R468. -/
theorem test_decode_micro : [
    ((0x00350000 : Lane), Instr.smpMov ⟨3, 5, 0, 0, 0x0⟩),
    ((0x0131BCDE : Lane), Instr.smpLdi ⟨3, 1, 11, 12, 0xde⟩),
    ((0x02357000 : Lane), Instr.smpAdd ⟨3, 5, 7, 0, 0x0⟩),
    ((0x033501F3 : Lane), Instr.smpSub ⟨3, 5, 0, 1, 0xf3⟩),
    ((0x04357000 : Lane), Instr.smpMul ⟨3, 5, 7, 0, 0x0⟩),
    ((0x05357000 : Lane), Instr.smpFadd ⟨3, 5, 7, 0, 0x0⟩),
    ((0x06357000 : Lane), Instr.smpFmul ⟨3, 5, 7, 0, 0x0⟩),
    ((0x07350000 : Lane), Instr.smpFexp ⟨3, 5, 0, 0, 0x0⟩),
    ((0x08357000 : Lane), Instr.smpFmax ⟨3, 5, 7, 0, 0x0⟩),
    ((0x09357600 : Lane), Instr.smpCmp ⟨3, 5, 7, 6, 0x0⟩),
    ((0x0A000021 : Lane), Instr.smpBr ⟨0, 0, 0, 0, 0x21⟩),
    ((0x0B050121 : Lane), Instr.smpBrc ⟨0, 5, 0, 1, 0x21⟩),
    ((0x0C050021 : Lane), Instr.smpLoop ⟨0, 5, 0, 0, 0x21⟩),
    ((0x0D367500 : Lane), Instr.smpCld ⟨3, 6, 7, 5, 0x0⟩),
    ((0x0E367000 : Lane), Instr.smpCst ⟨3, 6, 7, 0, 0x0⟩),
    ((0x0F057000 : Lane), Instr.smpCsortk ⟨0, 5, 7, 0, 0x0⟩),
    ((0x10357100 : Lane), Instr.smpCscan ⟨3, 5, 7, 1, 0x0⟩),
    ((0x11357200 : Lane), Instr.smpCsel ⟨3, 5, 7, 2, 0x0⟩),
    ((0x12300100 : Lane), Instr.smpRng ⟨3, 0, 0, 1, 0x0⟩),
    ((0x13057000 : Lane), Instr.smpCtrset ⟨0, 5, 7, 0, 0x0⟩),
    ((0x14300400 : Lane), Instr.smpCtrget ⟨3, 0, 0, 4, 0x0⟩),
    ((0x15050000 : Lane), Instr.smpEmit ⟨0, 5, 0, 0, 0x0⟩),
    ((0x16000000 : Lane), Instr.smpHalt ⟨0, 0, 0, 0, 0x0⟩),
    ((0x17050000 : Lane), Instr.smpFault ⟨0, 5, 0, 0, 0x0⟩)].all (fun p => decide (decodeMicro p.1 = some p.2)) = true := by decide +kernel

/-- Worked encodings of section 03 of the manual. -/
theorem test_decode_worked_03 : decodes [
    ([0x01440C00], .add ⟨0, 5, 4, 3, .word⟩),
    ([0x0C040C02, 0x00010000, 0x00000000], .add ⟨0, 48, 4, 3, (.lit 0x10000)⟩),
    ([0xFF421C40], .addi ⟨0x3fd, 2, 7, .word⟩),
    ([0x02418A01, 0x00000240, 0x00000000], .vadd ⟨0, 1, 4, 3, 2, (.ext (xw 0 0 9 0 0x0))⟩),
    ([0x000000A8], .nop ⟨0, 0, 0, 0, .word⟩)] = true := by decide +kernel

/-- Worked encodings of section 06 of the manual. -/
theorem test_decode_worked_06 : decodes [
    ([0x003009E0], .nwait ⟨0, 0, 48, 2, .word⟩),
    ([0x000301E4], .ndone ⟨0, 0, 3, 0, .word⟩),
    ([0x01C615E8], .task ⟨0, 7, 6, 5, .word⟩)] = true := by decide +kernel

/-- Worked encodings of section 09 of the manual. -/
theorem test_decode_worked_09 : decodes [
    ([0x00009089, 0x00000003, 0x00000000], .bcmp ⟨0x0, 2, 4, (.ext (xw 0 0 0 3 0x0))⟩),
    ([0x00008889, 0x00800030, 0xFFFFFFFB], .bcmp ⟨0x0, 2, 2, (.ext { (xw 0 0 0 48 0xfffffffb) with f2 := true })⟩),
    ([0x001DC4A0], .bq ⟨0x1, 55, 1, .word⟩),
    ([0x00070094], .jr ⟨0, 0, 7, 0, .word⟩),
    ([0x00091898], .callr ⟨0, 0, 9, 6, .word⟩),
    ([0x00C200A4], .jtab ⟨0, 3, 2, 0, .word⟩),
    ([0x00000090], .ret ⟨0x0, 0, 0, .word⟩)] = true := by decide +kernel

/-- Worked encodings of section 10 of the manual. -/
theorem test_decode_worked_10 : decodes [
    ([0x01440C01, 0x00000080, 0x00000000], .add ⟨0, 5, 4, 3, (.ext (xw 0 0 2 0 0x0))⟩),
    ([0x02071811, 0x00000180, 0x00000000], .div ⟨0, 8, 7, 6, (.ext (xw 0 0 6 0 0x0))⟩),
    ([0x01492428], .shl ⟨0, 5, 9, 9, .word⟩),
    ([0x42CA243C], .cmp ⟨4, 11, 10, 9, .word⟩),
    ([0x10C20854], .shri ⟨0x43, 2, 2, .word⟩),
    ([0x0000305E, 0xFFFF0000, 0x00007FFF], .lit ⟨0x0, 0, 12, (.lit 0x7fffffff0000)⟩),
    ([0x12481C60], .sel ⟨1, 9, 8, 7, .word⟩),
    ([0x11440C68], .bfx ⟨1, 5, 4, 3, .word⟩),
    ([0x31C61470], .addr ⟨3, 7, 6, 5, .word⟩),
    ([0x70C20479, 0x00001204, 0x00000000], .fop ⟨7, 3, 2, 1, (.ext (xw 0 1 8 4 0x0))⟩),
    ([0x00C2047D, 0x000000C4, 0x00000000], .mad ⟨0, 3, 2, 1, (.ext (xw 0 0 3 4 0x0))⟩)] = true := by decide +kernel

/-- Worked encodings of section 11 of the manual. -/
theorem test_decode_worked_11 : decodes [
    ([0x0062920C], .vfma ⟨0, 0, 6, 5, 4, .word⟩),
    ([0x0431063C], .vdot4 ⟨0, 2, 3, 2, 1, .word⟩),
    ([0x00310680], .vshuf ⟨0, 0, 3, 2, 1, .word⟩),
    ([0x00018A35, 0x09000200, 0x00000001], .vcvt ⟨0, 0, 0, 3, 2, (.ext (xw 9 0 8 0 0x1))⟩),
    ([0x02010291, 0x00000203, 0x00000000], .vred ⟨0, 1, 0, 2, 0, (.ext (xw 0 0 8 3 0x0))⟩),
    ([0x5000065D, 0x00000006, 0x00000000], .mop ⟨5, 0, 0, 0, 1, (.ext (xw 0 0 0 6 0x0))⟩),
    ([0x020000D9, 0x01000000, 0x00000000], .ldtx ⟨0, 1, 0, 0, 0, (.ext (xw 1 0 0 0 0x0))⟩),
    ([0x000109D4], .vclaim ⟨0, 0, 1, 2, .word⟩),
    ([0x00300DD8], .vyield ⟨0, 0, 48, 3, .word⟩)] = true := by decide +kernel

/-- Worked encodings of section 13 of the manual. -/
theorem test_decode_worked_13 : decodes [
    ([0x020218C0], .ldl ⟨0x8, 2, 6, .word⟩),
    ([0x00021CC5, 0x00000080, 0x00000004], .stl ⟨0x0, 2, 7, (.ext (xw 0 0 2 0 0x4))⟩),
    ([0x01030CDC], .rrot ⟨0, 4, 3, 3, .word⟩),
    ([0x000004C9, 0x00000002, 0x00040000], .vldl ⟨0, 0, 0, 0, 1, (.ext (xw 0 0 0 2 0x40000))⟩),
    ([0x08021100], .ld ⟨0x20, 2, 4, .word⟩),
    ([0x00041504], .st ⟨0x0, 4, 5, .word⟩),
    ([0x00041505, 0x00020080, 0x00000008], .st ⟨0x0, 4, 5, (.ext { (xw 0 0 2 0 0x8) with sc := 4 })⟩),
    ([0x00061D05, 0x000080C0, 0x00000000], .st ⟨0x0, 6, 7, (.ext { (xw 0 0 3 0 0x0) with sc := 1 })⟩),
    ([0x02000909, 0x00000005, 0x00000100], .vld ⟨0, 1, 0, 0, 2, (.ext (xw 0 0 0 5 0x100))⟩),
    ([0x10080118], .pref ⟨0x40, 8, 0, .word⟩),
    ([0x00000D1C], .wlq ⟨0, 0, 0, 3, .word⟩),
    ([0x00000120], .wlwait ⟨0, 0, 0, 0, .word⟩),
    ([0x00000121, 0x00028000, 0x00000000], .wlwait ⟨0, 0, 0, 0, (.ext { (xw 0 0 0 0 0x0) with sc := 5 })⟩)] = true := by decide +kernel

/-- Worked encodings of section 17 of the manual. -/
theorem test_decode_worked_17 : decodes [
    ([0x11440D40], .amo ⟨1, 5, 4, 3, .word⟩),
    ([0x01821149, 0x03020008, 0x00000000], .cas2 ⟨0, 6, 2, 4, (.ext { (xw 3 0 0 8 0x0) with sc := 4 })⟩),
    ([0x0402154C], .lda ⟨0x10, 2, 5, .word⟩),
    ([0x00021D50], .strel ⟨0x0, 2, 7, .word⟩),
    ([0x00000155, 0x00028000, 0x00000000], .fence ⟨0, 0, 0, 0, (.ext { (xw 0 0 0 0 0x0) with sc := 5 })⟩),
    ([0x01440D84], .arrive ⟨0, 5, 4, 3, .word⟩),
    ([0x01C41988], .waitph ⟨0, 7, 4, 6, .word⟩),
    ([0x11030994], .signal ⟨1, 4, 3, 2, .word⟩),
    ([0x000009A0], .sync ⟨0, 0, 0, 2, .word⟩),
    ([0x314401A4], .xsend ⟨3, 5, 4, 0, .word⟩),
    ([0x10000DA8], .xwait ⟨1, 0, 0, 3, .word⟩)] = true := by decide +kernel

/-- Worked encodings of section 19 of the manual. -/
theorem test_decode_worked_19 : decodes [
    ([0x053004E0], .bankmode ⟨0, 20, 48, 1, .word⟩),
    ([0x000061A0], .sync ⟨0, 0, 0, 24, .word⟩),
    ([0x001C75A8], .xwait ⟨0, 0, 28, 29, .word⟩),
    ([0x771D01A4], .xsend ⟨7, 28, 29, 0, .word⟩),
    ([0x100061A8], .xwait ⟨1, 0, 0, 24, .word⟩),
    ([0x000615D4], .vclaim ⟨0, 0, 6, 5, .word⟩),
    ([0x000004C9, 0x0000000C, 0x00000000], .vldl ⟨0, 0, 0, 0, 1, (.ext (xw 0 0 0 12 0x0))⟩),
    ([0x00110A01, 0x00000240, 0x00000000], .vadd ⟨0, 0, 1, 2, 2, (.ext (xw 0 0 9 0 0x0))⟩),
    ([0x000100CD, 0x0000000D, 0x00000000], .vstl ⟨0, 0, 0, 2, 0, (.ext (xw 0 0 0 13 0x0))⟩)] = true := by decide +kernel

/-- Worked encodings of section 20 of the manual. -/
theorem test_decode_worked_20 : decodes [
    ([0x7E030380], .trap ⟨0x1f8, 3, 0, .word⟩),
    ([0x00000384], .eret ⟨0, 0, 0, 0, .word⟩),
    ([0x04801788], .sysr ⟨0x12, 0, 5, .word⟩),
    ([0x42001788], .sysr ⟨0x108, 0, 5, .word⟩),
    ([0x0D16038C], .sysw ⟨0x34, 22, 0, .word⟩),
    ([0x01C00390], .brk ⟨0x7, 0, 0, .word⟩),
    ([0x00040394], .halt ⟨0, 0, 4, 0, .word⟩),
    ([0x30020798], .jrnl ⟨3, 0, 2, 1, .word⟩)] = true := by decide +kernel

/-! ### Ill-formed terms (R55-R63, R467) -/

/-- Format R in one word. -/
def rw (fn : BitVec 4) (b a d : BitVec 6) : RFields := ⟨fn, b, a, d, .word⟩

/-- A form that an opcode does not accept (R57); NOP and END have one word, LDTX has extended words. -/
theorem test_formOk_refuses :
    ((Instr.nop ⟨0, 0, 0, 0, .lit 0⟩).formOk || (Instr.bcnt ⟨0, 0, 9, 3, .lit 0⟩).formOk || (Instr.ldtx ⟨0, 0, 0, 0, 0, .word⟩).formOk
      || (Instr.fop ⟨6, 48, 9, 3, .lit 0⟩).formOk) = false := by decide
/-- FN beyond the entry's, a used field at an undefined operand code, an unused field that is not 0 (R53, R58, R62). -/
theorem test_regsOk_refuses :
    ((Instr.add (rw 1 10 9 3)).rsvdOk || (Instr.add (rw 0 10 58 3)).rsvdOk || (Instr.add (rw 0 10 9 56)).rsvdOk
      || (Instr.jr (rw 0 10 9 0)).rsvdOk || (Instr.sel (rw 0 10 9 50)).rsvdOk || (Instr.nwait (rw 0 0 9 3)).rsvdOk
      || (Instr.nmc (rw 0 0 9 3)).rsvdOk || (Instr.callr (rw 0 0 9 25)).rsvdOk || (Instr.callr (rw 0 0 9 0)).rsvdOk) = false := by decide
/-- A slot that a literal replaces holds 48, 0 or 0 (R56, R57). -/
theorem test_slotOk_refuses :
    ((Instr.add ⟨0, 10, 9, 3, .lit 5⟩).rsvdOk || (Instr.addi ⟨1, 9, 3, .lit 5⟩).rsvdOk || (Instr.br ⟨1, 0, 0, .lit 64⟩).rsvdOk
      || (Instr.vadd ⟨0, 0, 1, 0, 0, .lit 5⟩).rsvdOk) = false := by decide
/-- Extended fields that an entry gives no role (R54-R56, R60-R62). -/
theorem test_extOk_refuses :
    ((Instr.add ⟨0, 10, 9, 3, .ext (xw 1 0 3 0 0)⟩).rsvdOk || (Instr.add ⟨0, 10, 9, 3, .ext (xw 0 1 3 0 0)⟩).rsvdOk
      || (Instr.add ⟨0, 10, 9, 3, .ext (xw 0 0 8 0 0)⟩).rsvdOk || (Instr.add ⟨0, 10, 9, 3, .ext (xw 0 0 3 9 0)⟩).rsvdOk
      || (Instr.add ⟨0, 10, 9, 3, .ext (xw 0 0 3 0 1)⟩).rsvdOk || (Instr.add ⟨0, 10, 9, 3, .ext { xw 0 0 3 0 0 with sc := 4 }⟩).rsvdOk
      || (Instr.add ⟨0, 10, 9, 3, .ext { xw 0 0 3 0 0 with f2 := true }⟩).rsvdOk
      || (Instr.add ⟨0, 10, 9, 3, .ext { xw 0 0 3 0 0 with sat := true }⟩).rsvdOk
      || (Instr.fop ⟨0, 10, 9, 3, .ext (xw 0 6 8 0 0)⟩).rsvdOk) = false := by decide
/-- What single entries ask beyond their row. -/
theorem test_extraOk_refuses :
    ((Instr.shli ⟨64, 9, 3, .word⟩).rsvdOk || (Instr.trap ⟨5, 9, 0, .word⟩).rsvdOk || (Instr.afadd ⟨0, 10, 9, 3, .ext { xw 0 5 8 0 0 with sc := 4 }⟩).rsvdOk
      || (Instr.vvote ⟨3, 0, 0, 1, 9, .word⟩).rsvdOk || (Instr.vcvt ⟨0, 0, 0, 1, 2, .ext (xw 9 0 8 0 2)⟩).rsvdOk
      || (Instr.ldtx ⟨0, 0, 0, 0, 28, .ext (xw 4 0 0 0 0)⟩).rsvdOk) = false := by decide
/-- Micro-instructions with an undefined F or a field that they do not use. -/
theorem test_microOk_refuses :
    ((Instr.smpMov ⟨3, 5, 1, 0, 0⟩).microOk || (Instr.smpCmp ⟨3, 5, 7, 8, 0⟩).microOk || (Instr.smpCld ⟨3, 5, 7, 0, 0⟩).microOk
      || (Instr.smpHalt ⟨0, 0, 0, 0, 1⟩).microOk || (Instr.smpLdi ⟨3, 2, 0, 0, 0⟩).microOk) = false := by decide
/-- Words of an instruction that ends before its last word, of no opcode, and of no micro-instruction (R49, R63, R466). -/
theorem test_decode_refuses :
    decodeWords [0x01440C01, 0x80] = .error .straddle ∧ decodeWords [] = .error .ended ∧ decodeWords [0x000003FC] = .error .undef
      ∧ decodeWords [0x000000AA, 0, 0] = .error (.form .both) ∧ decodeMicro 0x18000000 = none := by decide +kernel

/-! ### Worked results of the manual (section 10, "Worked cases") -/

/-- DIV and REM: the wrapping quotient, division by zero, n32 and i32. -/
theorem test_div : divResult 3 0x8000000000000000 0xFFFFFFFFFFFFFFFF = 0x8000000000000000
    ∧ divResult 3 0x8000000000000000 0 = 0xFFFFFFFFFFFFFFFF ∧ divResult 6 0xFFFFFFFFFFFFFFFF 7 = 0x24924924 := by decide +kernel
theorem test_rem : remResult 3 0x8000000000000000 0xFFFFFFFFFFFFFFFF = 0 ∧ remResult 3 0x8000000000000000 0 = 0x8000000000000000
    ∧ remResult 2 0xFFFFFFFFFFFFFFFF 7 = 0xFFFFFFFFFFFFFFFF := by decide +kernel
theorem test_mulh : mulhResult 7 0xFFFFFFFFFFFFFFFF 0xFFFFFFFFFFFFFFFF = 0xFFFFFFFFFFFFFFFE
    ∧ mulhResult 3 0xFFFFFFFFFFFFFFFF 0xFFFFFFFFFFFFFFFF = 0 := by decide +kernel
theorem test_shr : shrResult 2 true 0xFFFFFFFFFFFFFFFF 40 = 0xFFFFFFFFFFFFFFFF := by decide +kernel
theorem test_cmp : cmpResult 2 64 0x8000000000000000 0xFFFFFFFFFFFFFFFF = 1 := by decide +kernel
theorem test_bfx : bfxResult true 0x0F0F 0x0704 = 0xFFFFFFFFFFFFFFF0 := by decide +kernel
theorem test_adds_saturates : addsResult 0 false 100 100 = 0x7F := by decide +kernel
theorem test_add_wraps : addResult 0 100 100 = 0xFFFFFFFFFFFFFFC8 := by decide +kernel
theorem test_fop_add : fopResult 0 8 .rne 0 0x3F800000 0x33800000 0 = 0x3F800000
    ∧ fopResult 0 8 .rup 0 0x3F800000 0x33800000 0 = 0x3F800001 := by decide +kernel
theorem test_fop_to : fopResult 8 2 .rna 0 0x40200000 0 0 = 3 ∧ fopResult 8 2 .rne 0 0x40200000 0 0 = 2 := by decide +kernel

/-! ### States for the witnesses -/

/-- A live context of a front end with its first registers. -/
def ctxOf (fe : FE) (regs : Table Word) : Ctx := { hstate := .live, fe := fe, win := regs }
/-- The part after reset with given contexts, the second of which issues where there is one. -/
def withCtxs (cs : List Ctx) : State :=
  { State.reset with cur := (0, cs.length - 1), cores := [(0, { ctxs := (List.range cs.length).zip cs })] }
/-- A context with another field. -/
def onQ (c : Ctx) (q : Nat) : Ctx := { c with qset := q }
def onGrant (c : Ctx) (n : Nat) : Ctx := { c with grant := n }
def onHandler (c : Ctx) (v : Word) : Ctx := { c with tvec := v }
/-- The part after reset with the control context of core 0 live. -/
def stA (regs : Table Word) : State := { State.reset with cores := [(0, { ctxs := [(0, ctxOf .a regs)] })] }
/-- The part after reset with helper 1 of core 0 live on X, with 4 lanes. -/
def stX (regs : Table Word) : State :=
  { State.reset with cur := (0, 1), cores := [(0, { ctxs := [(0, ctxOf .a []), (1, onGrant (ctxOf .x regs) 4)] })] }
/-- The same with a page of HBM4E translated for owner 0 at address 0. -/
def mapped (s : State) : State := { s with tlbs := [(0, [{ owner := s.ownerOf 0 s.cur.2, page := 0, entry := 0xD, big := false }])] }
/-- The state and value that a step of an instruction gives. -/
def ran {α : Type} (m : M α) (s : State) : State := match m.run s with | .ok (_, t) => t | .error _ => s
def got {α : Type} [Inhabited α] (m : M α) (s : State) : α := match m.run s with | .ok (a, _) => a | .error _ => default
/-- A shared step that completes, completes with its own value and state. -/
def completes {α : Type} (m : M α) (s : State) : Bool := match m.run s with | .ok _ => true | .error _ => false
theorem does_of {α : Type} [Inhabited α] {m : M α} {s : State} (h : completes m s = true) : Does m s (got m s) (ran m s) := by
  unfold completes at h; unfold Does got ran
  split at h
  · rename_i p hp; rw [hp]
  · cases h
/-- Two shared steps, the second of the first one's value, that complete and leave whose turn it is. -/
def completes2 {α β : Type} (m : M α) (f : α → M β) (s : State) (c : Nat × Nat) : Bool :=
  match m.run s with
  | .ok (a, t) => decide (t.cur = c) && (match (f a).run t with | .ok (_, u) => decide (u.cur = c) | .error _ => false)
  | .error _ => false
theorem does2_of {α β : Type} {m : M α} {f : α → M β} {s : State} {c : Nat × Nat} (h : completes2 m f s c = true) :
    ∃ a t b u, Does m s a t ∧ t.cur = c ∧ Does (f a) t b u ∧ u.cur = c := by
  unfold completes2 at h
  split at h
  · rename_i a t hm
    split at h
    · rename_i b u hf
      simp only [Bool.and_eq_true, decide_eq_true_eq] at h
      exact ⟨a, t, b, u, hm, h.1, hf, h.2⟩
    · simp at h
  · cases h
/-- A step of the machine is a next state with a property. -/
def steps (o : Host.Outcome State Fault Refusal) (p : State → Bool) : Bool := match o with | .next t => p t | _ => false

/-! ### Witnesses and single steps: rows 0 to 2 -/

theorem test_witness_ArithmeticResults : (∀ i ∈ [Instr.add (rw 0 1 0 2), .sub (rw 0 1 0 2), .mul (rw 0 1 0 2), .mulh (rw 0 1 0 2), .and (rw 0 1 0 2),
      .or (rw 0 1 0 2), .xor (rw 0 1 0 2), .andn (rw 0 1 0 2), .min (rw 0 1 0 2), .max (rw 0 1 0 2), .cmp (rw 10 1 0 2), .bfx (rw 1 1 0 2),
      .addr (rw 7 1 0 2), .adds (rw 1 1 0 48)], Issues i (stA [(0, 5)]))
    ∧ (∀ i ∈ [Instr.addi ⟨0x3FF, 0, 31, .word⟩, .andi ⟨0x3FF, 0, 48, .word⟩, .ori ⟨1, 0, 2, .word⟩, .xori ⟨1, 0, 2, .word⟩, .cmpi ⟨1, 0, 2, .word⟩,
      .lit ⟨5, 0, 2, .word⟩], Issues i (stX [(0, 5)])) := by decide +kernel
theorem test_witness_DivisionResults : (∀ i ∈ [Instr.div (rw 0 48 0 2), .rem (rw 0 48 0 2)], Issues i (stA [(0, 5)])) := by decide +kernel
theorem test_witness_ShiftResults : (∀ i ∈ [Instr.shl (rw 0 1 0 2), .shr (rw 1 1 0 2), .rot (rw 1 1 0 2), .shli ⟨63, 0, 2, .word⟩, .shri ⟨127, 0, 2, .word⟩],
    Issues i (stA [(0, 5), (1, 64)])) := by decide +kernel
theorem test_witness_BitAndFloatResults : (∀ i ∈ [Instr.sel (rw 2 1 0 2), .bcnt (rw 3 0 0 2), .bfi (rw 0 1 0 2), .mad ⟨0, 1, 0, 2, .ext (xw 0 0 3 4 0)⟩,
      .fop ⟨7, 1, 0, 2, .ext (xw 0 5 8 4 0)⟩], Issues i (stX [])) ∧ (stX []).drawsLeft 5 1 := by decide +kernel
theorem test_witness_BranchesAndJumps : (∀ i ∈ [Instr.br ⟨1, 0, 0, .word⟩, .bz ⟨1, 9, 5, .word⟩, .bcmp ⟨1, 9, 7, .ext (xw 0 0 0 3 0)⟩, .loop ⟨1, 9, 0, .word⟩,
      .jr (rw 0 0 9 0), .nop (rw 0 0 0 0)], Issues i (stA []))
    ∧ (let s := (withCtxs [onQ (ctxOf .a []) 0, onQ (ctxOf .x []) 0]).onCore 0 (fun c => c.setQueue 0 6 [1])
       Issues (.bq ⟨1, 55, 0, .word⟩) s) := by decide +kernel
theorem test_witness_BranchesAndJumps_jtab :
    let s := stA [(0, 0x100)]
    let x := rw 0 1 0 0
    let b := (((s.begun (.jtab x)).pull x.a).2.pull x.b).2
    let b1 := ran (localDword 0x100) b
    let b2 := ran (localDword 0x108) b1
    (Issues (.jtab x) s ∧ b2.cur = s.cur ∧ (got (localDword 0x108) b1).toNat % 64 = 0) ∧ Does (localDword 0x100) b (got (localDword 0x100) b) b1
      ∧ Does (localDword 0x108) b1 (got (localDword 0x108) b1) b2 :=
  ⟨by decide +kernel, does_of (by decide +kernel), does_of (by decide +kernel)⟩
theorem test_witness_CallsAndReturns :
    let s := stA []
    let x : JFields := ⟨1, 24, 0, .word⟩
    let y : JFields := ⟨0, 0, 0, .word⟩
    Issues (.call x) s ∧ Issues (.callr (rw 0 0 9 24)) s ∧ branchTarget x s.mine.pc = 64
      ∧ steps (exec (.call x) s) (fun t => decide (Issues (.ret y) t) && decide (t.mine.wbase = 24)) = true := by decide +kernel

/-- The manual's own CALL, at block 0x40 of the kernel, with slide 4 (section 9). -/
theorem test_call_link : linkRecord 0x4100020008 4 = 0x0000004100020044 := by decide +kernel
/-- A source that is the destination too: s2 := s2 + s2 (R207). -/
theorem test_step_add : steps (exec (.add (rw 0 2 2 2)) (stA [(2, 0x8000000000000001)])) (fun t => decide (t.mine.s 2 = 2) && decide (t.mine.pc = 4))
    = true := by decide +kernel
/-- A LOOP that counts down to 0 falls through (R193). -/
theorem test_step_loop : steps (exec (.loop ⟨1, 9, 0, .word⟩) (stA [(9, 1)])) (fun t => decide (t.mine.pc = 4) && decide (t.mine.s 9 = 0)) = true := by
  decide +kernel
/-- An instruction of X on A traps with INS.UNIT: with no handler the launch's record takes it (R65, R415). -/
theorem test_step_unit : steps (exec (.vadd ⟨0, 0, 0, 0, 0, .word⟩) (withCtxs [onHandler (ctxOf .a []) 0x40]))
    (fun t => decide (t.mine.tcause = 3) && decide (t.mine.pc = 0x40) && decide (t.mine.wbase = 32)) = true := by decide +kernel

/-! ### Witnesses and single steps: row 3, local memory -/

theorem test_witness_LocalMemory :
    let s := stA []
    (∀ o n, (o, n) ∈ [(0, 8), (65528, 8), (0, 40), (65535, 1)] → LocalOpen s o n ∧ s.localBad s.cur.1 o n = false)
      ∧ s.mem.wf = true ∧ (s.core 0).tag (bankOf 65535) ≠ 1 := by
  refine ⟨?_, by decide +kernel, by decide +kernel⟩
  intro o n h
  simp only [List.mem_cons, Prod.mk.injEq, List.not_mem_nil, or_false] at h
  rcases h with ⟨rfl, rfl⟩ | ⟨rfl, rfl⟩ | ⟨rfl, rfl⟩ | ⟨rfl, rfl⟩ <;> exact ⟨by unfold LocalOpen; decide +kernel, by decide +kernel⟩
/-- Windows f4d, f8d, bfw and i8w (R161): a clear plane of fp4b reads 0, and bf16 1.0 reads f32 1.0. -/
theorem test_windows : ∀ w ∈ [0, 1, 2, 3, 4, 5], completes (windowGet w 64 0 (if w = 2 ∨ w = 3 then 2 else 4) 0) (stA []) = true := by decide +kernel
theorem test_window_bfw : got (windowGet 4 128 2 4 0) { stA [] with mem := [(localKey 0 64, 0x80), (localKey 0 65, 0x3F)] } = 0x3F800000 := by
  decide +kernel
theorem test_witness_LocalScalarAccess :
    let s := stA [(0, 0x40), (1, 0x40003)]
    let l : IFields := ⟨8, 0, 2, .word⟩
    let r := rw 0 1 0 2
    let a := (s.begun (.ldl l)).pull l.a
    let b := ((s.begun (.stl l)).pull l.a).2.pull l.d
    let b1 := ((((s.begun (.rrot r)).pull r.a).2.pullB r).1).toNat / 65536 % 32
    (Issues (.ldl l) s ∧ Issues (.stl l) s ∧ Issues (.rrot r) s ∧ 3 ≤ b1 ∧ b1 ≤ 16
      ∧ (ran (windowGet 0 0x48 3 8 0x48) a.2).cur = s.cur)
    ∧ (LocalOk (a.2.core 0) 0x48 3 false ∧ LocalOk (b.2.core 0) 0xFFF8 3 true)
    ∧ Does (windowGet 0 0x48 3 8 0x48) a.2 (got (windowGet 0 0x48 3 8 0x48) a.2) (ran (windowGet 0 0x48 3 8 0x48) a.2)
    ∧ Does (windowPut 0 0x48 3 8 .rne (fun j => s.roll 0 j) 0 b.1.toNat) b.2 () (ran (windowPut 0 0x48 3 8 .rne (fun j => s.roll 0 j) 0 b.1.toNat) b.2) :=
  ⟨by decide +kernel, ⟨by unfold LocalOk; decide +kernel, by unfold LocalOk; decide +kernel⟩, does_of (by decide +kernel), does_of (by decide +kernel)⟩
theorem test_step_stl : steps (exec (.stl ⟨8, 0, 2, .word⟩) (stA [(0, 0x40), (2, 0x0102030405060708)])) (fun t => decide (t.mem.bytes (localKey 0 0x48) 8
    = [8, 7, 6, 5, 4, 3, 2, 1])) = true := by decide +kernel
/-- LDL.i8 extends the sign (R284). -/
theorem test_step_ldl_sign : steps (exec (.ldl ⟨0, 0, 2, .ext (xw 0 0 0 0 0xFFFFFFF8)⟩) { stA [(0, 0x40)] with mem := [(localKey 0 0x38, 0x80)] }) (fun t =>
    decide (t.mine.s 2 = 0xFFFFFFFFFFFFFF80)) = true := by decide +kernel

theorem test_witness_LocalVectorLoads :
    let s := stX [(0, 0x100)]
    let x : VFields := ⟨0, 0, 0, 0, 3, .ext (xw 0 0 0 0 0)⟩
    let y : VFields := ⟨0, 0, 5, 0, 3, .ext (xw 0 0 0 0 0)⟩
    let z : VFields := ⟨0, 0, 0, 0, 3, .ext (xw 7 0 0 0 0)⟩
    let a := (s.begun (.vldl x)).pull (extOf (.vldl x)).c
    (Issues (.vldl x) s ∧ Issues (.vgathl y) s ∧ Issues (.ldtx z) s ∧ a.1 = 0x100 ∧ a.2.mine.active 0 = [0, 1, 2, 3]
      ∧ laneFieldsBad (envOf s 0 1 (.vldl x)) 0 false = false ∧ laneFieldsBad (envOf s 0 1 (.vgathl y)) 0 false = false
      ∧ (∀ i ∈ a.2.mine.active 0, ∀ b ∈ windowBytes 0 (0x100 + 4 * i) 4, b < 65536 ∧ (s.core 0).mode (bankOf b) = 0)
      ∧ (∀ i ∈ a.2.mine.active 0, ran (windowGet 0 (0x100 + 4 * i) 0 4 0) a.2 = a.2))
    ∧ (∀ i, Does (windowGet 0 (0x100 + 4 * 3) 0 4 i) a.2 (got (windowGet 0 (0x100 + 4 * 3) 0 4 i) a.2) (ran (windowGet 0 (0x100 + 4 * 3) 0 4 i) a.2))
    ∧ Does (localGet 0x100 4 0x100) a.2 (got (localGet 0x100 4 0x100) a.2) (ran (localGet 0x100 4 0x100) a.2) :=
  ⟨by decide +kernel, fun i => does_of (by rfl), does_of (by decide +kernel)⟩
theorem test_witness_LocalVectorStores :
    let s := stX [(0, 0x100)]
    let x : VFields := ⟨0, 0, 0, 4, 0, .ext (xw 0 0 0 0 0)⟩
    let y : VFields := ⟨0, 0, 5, 4, 0, .ext (xw 0 0 0 0 0)⟩
    let p : VFields := ⟨0, 0, 0, 4, 0, .ext (xw 3 0 0 0 0x10000)⟩
    let w := (withCtxs [ctxOf .a [], onGrant (ctxOf .x [(0, 0x100)]) 16])
    let a := (s.begun (.vstl x)).pull (extOf (.vstl x)).c
    let ap := (w.begun (.vstl p)).pull (extOf (.vstl p)).c
    let bytes := slabRecords 4 false 1 (planeElems ap.2.mine 4 0 (ap.2.mine.active 0))
    let l := (a.2.mine.active 0).map (fun i => (0, 0x100 + 4 * i, a.2.mine.lane 4 i))
    (Issues (.vstl x) s ∧ Issues (.vscatl y) s ∧ Issues (.vstl p) w ∧ laneFieldsBad (envOf s 0 1 (.vstl x)) 0 true = false
      ∧ laneFieldsBad (envOf w 0 1 (.vstl p)) 1 true = false ∧ winOf (ap.1 + 0x10000) = 1
      ∧ (planeElems ap.2.mine 4 0 (ap.2.mine.active 0)).length = 64
      ∧ (ran (storeLanes 0 .rne (fun j => s.roll 0 j) 0 l) a.2).cur = s.cur)
    ∧ Does (storeLanes 0 .rne (fun j => s.roll 0 j) 0 l) a.2 () (ran (storeLanes 0 .rne (fun j => s.roll 0 j) 0 l) a.2)
    ∧ Does (localPut 0x100 bytes) ap.2 () (ran (localPut 0x100 bytes) ap.2) :=
  ⟨by decide +kernel, does_of (by decide +kernel), does_of (by decide +kernel)⟩
/-- Banks 0 and 1 of core 0 in a mode. -/
def inMode (s : State) (m : Nat) : State := s.onCore 0 (fun c => { c with modes := [(0, m), (1, m)] })
theorem test_witness_BankInstructions :
    let s := stA [(0, 0), (1, 2 + 256)]
    let f := inMode (stA [(0, 512), (1, 7)]) 2
    let full := f.onCore 0 (fun c => { c with fifo := [(1, List.replicate 64 9)] })
    Issues (.bankmode (rw 0 1 0 2)) s ∧ (∀ i ∈ [0, 1], (s.core 0).mode i ≠ 2 ∧ (s.core 0).mode i ≠ 3 ∧ s.bankBusy 0 i = false)
      ∧ Issues (.fpush (rw 0 1 0 2)) f ∧ Issues (.fpush (rw 1 1 0 2)) full ∧ Issues (.fpop (rw 1 0 0 2)) full ∧ Issues (.fpop (rw 1 0 0 2)) f
      ∧ (f.core 0).mode 1 = 2 ∧ (full.core 0).mode 1 = 2 ∧ (full.core 0).fifo.get [] 1 = 9 :: List.replicate 63 9 := by decide +kernel
theorem test_step_bankmode : steps (exec (.bankmode (rw 0 1 0 2)) (stA [(0, 0), (1, 2 + 256)])) (fun t => decide (t.mine.s 2 = 0)
    && decide ((t.core 0).mode 0 = 2) && decide ((t.core 0).mode 1 = 2) && decide ((t.core 0).mode 2 = 0)) = true := by decide +kernel
theorem test_step_fpush : steps (exec (.fpush (rw 0 1 0 2)) (inMode (stA [(0, 512), (1, 7)]) 2)) (fun t => decide (t.mine.s 2 = 1)
    && decide ((t.core 0).fifo.get [] 1 = [7])) = true := by decide +kernel
theorem test_witness_PostedWrites :
    let s := stA [(0, 0x00F0000000050008), (1, 7)]
    let x := rw 0 1 0 2
    let b := ((s.begun (.rstl x)).pull x.a).2.pullB x
    let c := ((s.begun (.radd x)).pull x.a).2.pullB x
    let t := ran (admitPosted 8 0x00F0000000050008) b.2
    (Issues (.rstl x) s ∧ Issues (.radd x) s ∧ t.cur = s.cur ∧ ((t.core 0).freeEntries.head? = some 0))
    ∧ Does (admitPosted 8 0x00F0000000050008) b.2 () t ∧ Does (admitPosted 8 0x00F0000000050008) c.2 () (ran (admitPosted 8 0x00F0000000050008) c.2) :=
  ⟨by decide +kernel, does_of (by decide +kernel), does_of (by decide +kernel)⟩

/-! ### Witnesses and single steps: rows 4 to 6 -/

/-- The control context of core 0 with a translated page. -/
def stM (regs : Table Word) : State := mapped (stA regs)
/-- An A context and the X context bound to the same queue set, which issues for it. -/
def stAX (regs : Table Word) : State :=
  { mapped (withCtxs [onQ (ctxOf .a regs) 0, onGrant (onQ (ctxOf .x []) 0) 4]) with cur := (0, 0) }
/-- What a load or store at byte 0x40 of HBM4E asks of the part. -/
def quiet40 (s : State) (n : Nat) (store atomic : Bool) : Bool :=
  let r := ctxReq s 0x40 n (!store) store atomic 4 none
  let k := entryKey 0xD false 0x40 store false
  decide (k = some 0x40) && decide (s.cached 0 (s.ownerOf 0 s.cur.2) 0x40 = some { owner := s.ownerOf 0 s.cur.2, page := 0, entry := 0xD, big := false })
    && !s.poison.contains 1 && decide ((s.core 0).wlq = []) && decide ((s.core 0).cway = []) && decide ((s.core 0).cwayRoom = 0)
    && decide ((s.line 1).held = none) && decide ((s.line 1).queue = []) && !s.starves (s.ownerOf 0 s.cur.2) 1 && decide ((s.raceCheck r).race = none) && decide ((s.raceCheck r).adv = none)
    && decide (s.mine.l + 2 < clockLimit)
theorem test_witness_GlobalLoadsAndStores : quiet40 (stM []) 8 false false = true ∧ quiet40 (stM []) 16 true false = true
    ∧ ((stM []).lane 0).used + 16 ≤ ((stM []).lane 0).budget ∧ ctxReq (stM []) 0x40 8 true false false 4 none = ctxReq (stM []) 0x40 8 true false false 4 none
    ∧ (∀ h, ((stM []).core (h + 1)).wlq = []) := ⟨by decide +kernel, by decide +kernel, by decide +kernel, rfl, fun _ => rfl⟩
theorem test_witness_GlobalScalarAccess :
    let s := stM [(0, 0x40), (2, 7), (3, 8)]
    let x : IFields := ⟨0, 0, 2, .word⟩
    let p : IFields := ⟨0, 0, 2, .ext { xw 0 0 3 0 0 with sc := 4, f2 := true }⟩
    let a := (s.begun (.ld x)).pull x.a
    let d := (((s.begun (.st x)).pull x.a).2.pull x.d).2
    let d1 := ((((s.begun (.st p)).pull x.a).2.pull x.d).2.pull 3).2
    let v := envOf s 0 0 (.st x)
    let ld := loadBytes 0x40 8 (envOf s 0 0 (.ld x)).aval (envOf s 0 0 (.ld x)).pc
    let st := storeBytes 0x40 (bytesOfNat 8 7) 3 4 [(0x40, bytesOfNat 8 7)] v
    let sp := storeBytes 0x40 (bytesOfNat 8 7 ++ bytesOfNat 8 8) 3 4 [(0x40, bytesOfNat 8 7), (0x48, bytesOfNat 8 8)] (envOf s 0 0 (.st p))
    (Issues (.ld x) s ∧ Issues (.st x) s ∧ Issues (.st p) s ∧ (ran ld a.2).cur = s.cur ∧ (ran st d).cur = s.cur ∧ (ran sp d1).cur = s.cur)
      ∧ Does ld a.2 (got ld a.2) (ran ld a.2) ∧ Does st d () (ran st d) ∧ Does sp d1 () (ran sp d1) :=
  ⟨by decide +kernel, does_of (by decide +kernel), does_of (by decide +kernel), does_of (by decide +kernel)⟩
theorem test_witness_GlobalVectorAccess_issues :
    let s := stAX [(0, 0x40)]
    Issues (.vld ⟨0, 0, 0, 0, 3, .ext (xw 0 0 0 0 0)⟩) s ∧ Issues (.vst ⟨0, 0, 0, 4, 0, .ext { xw 0 0 0 0 0 with sc := 4 }⟩) s
      ∧ Issues (.vgath ⟨0, 0, 5, 0, 3, .ext (xw 0 0 0 0 0)⟩) s ∧ Issues (.vscat ⟨0, 0, 5, 4, 0, .ext { xw 0 0 0 0 0 with sc := 4 }⟩) s
      ∧ s.mine.qset ≠ 6 ∧ (s.core 0).bound 0 .x = some 1 := by decide +kernel
/-- A partner that is parked on the other shelf is bound, and has no lanes. -/
theorem test_witness_GlobalVectorAccess_parked :
    let s := (stA []).onCore 0 (fun c => { c with other := [(1, onGrant (onQ (ctxOf .x []) 0) 4)] })
    (s.core 0).bound 0 .x = some 1 ∧ (s.core 0).boundHere 0 .x = none ∧ ((s.core 0).partnerCtx 0 1).grant = 0 := by decide +kernel
theorem test_witness_GlobalVectorAccess_loads :
    let s := stAX [(0, 0x40)]
    let x : VFields := ⟨0, 0, 0, 0, 3, .ext (xw 0 0 0 0 0)⟩
    let v := envOf s 0 0 (.vld x)
    let a := ((s.begun (.vld x)).pull 0).2
    let lanes := vectorLanes (a.ctx 0 1) x v 0x40 false
    ∃ locs t b u, Does (locateLanes false (lanes.head?.map (·.2)) v.aval lanes) a locs t ∧ t.cur = (0, 0)
      ∧ Does (readLanes 1 3 s.mine.pc locs) t b u ∧ u.cur = (0, 0) :=
  does2_of (f := fun locs => readLanes 1 3 (stAX [(0, 0x40)]).mine.pc locs) (by decide +kernel)
/-- The state in which VST has its operand, and the X context whose lanes it stores. -/
def vstState : State := ((stAX [(0, 0x40)]).begun (.vst ⟨0, 0, 0, 4, 0, .ext { xw 0 0 0 0 0 with sc := 4 }⟩)).pull 0 |>.2
def vstEnv : Env := envOf (stAX [(0, 0x40)]) 0 0 (.vst ⟨0, 0, 0, 4, 0, .ext { xw 0 0 0 0 0 with sc := 4 }⟩)
def vstLanes : List (Nat × Word) :=
  vectorLanes (vstState.ctx 0 1) ⟨0, 0, 0, 4, 0, .ext { xw 0 0 0 0 0 with sc := 4 }⟩ vstEnv 0x40 false
def vstWrite (locs : List (Nat × Word × Loc)) : M Unit := do
  let s ← get
  admitVector (vectorCharge (s.core 0) 4 (locs.map (·.2.2))) 4 locs
  writeLanes (vstState.ctx 0 1) 4 4 0 [] locs
theorem test_witness_GlobalVectorAccess_stores : ∃ locs t b u,
    Does (locateLanes true (vstLanes.head?.map (·.2)) vstEnv.aval vstLanes) vstState locs t ∧ t.cur = (0, 0) ∧ Does (vstWrite locs) t b u ∧ u.cur = (0, 0) :=
  does2_of (by decide +kernel)
theorem test_step_ld : steps (exec (.ld ⟨0, 0, 2, .word⟩) { stM [(0, 0x40)] with mem := [(0x40, 1), (0x47, 0x80)] }) (fun t =>
    decide (t.mine.s 2 = 0x8000000000000001)) = true := by decide +kernel
theorem test_step_st : steps (exec (.st ⟨0, 0, 2, .word⟩) (stM [(0, 0x40), (2, 7)])) (fun t => decide (((t.core 0).wlq.map (·.line)) = [1])
    && decide (t.mem = []) && decide ((t.core 0).wl.used = 8)) = true := by decide +kernel
theorem test_witness_WriteLaneInstructions :
    let s := stM [(0, 0x40), (1, 16)]
    let u := (s.begun (.fence ⟨0, 0, 0, 0, .word⟩)).flushMine 0 0
    (∀ i ∈ [Instr.pref ⟨0, 0, 0, .word⟩, .wlq (rw 0 0 0 2), .wlq (rw 1 0 1 0), .wlwait (rw 0 0 0 0), .fence (rw 0 0 0 0)], Issues i s)
      ∧ u.visible 0 0 4 = true ∧ u.cur = s.cur
      ∧ completes (locate 0x40 8 false 0) ((s.begun (.pref ⟨0, 0, 0, .word⟩)).pull 0).2 = true ∧ completes (locate 0x100000 8 false 0) s = false := by
  decide +kernel
theorem test_step_wlq_stat : steps (exec (.wlq (rw 0 0 0 2)) (stM [])) (fun t => decide (t.mine.s 2 = 0)) = true := by decide +kernel
theorem test_witness_AtomicResults :
    let s := stM [(0, 0x40), (2, 7), (3, 8), (4, 1)]
    let x : RFields := ⟨0, 2, 0, 6, .ext { xw 0 0 3 4 0 with sc := 4 }⟩
    let p : RFields := ⟨0, 2, 0, 6, .ext { xw 0 0 0 4 0 with sc := 4 }⟩
    let q : RFields := ⟨0, 2, 0, 6, .ext { xw 0 0 8 0 0 with sc := 4 }⟩
    let w (i : Instr) (n : Nat) (f : Nat → Nat) (acq rel : Bool) : M Nat := atomicWrite 0x40 n 4 true acq rel f (envOf s 0 0 i)
    let b := (((s.begun (.amo x)).pull 0).2.pull 2).2
    let l := atomicLoad 0x40 8 4 (envOf s 0 0 (.lda ⟨0, 0, 6, .word⟩))
    (∀ i ∈ [Instr.amo ⟨1, 2, 0, 6, .word⟩, .cas x, .cas2 p, .afadd q, .lda ⟨0, 0, 6, .word⟩, .lda2 ⟨0, 0, 6, .word⟩, .strel ⟨0, 0, 2, .word⟩], Issues i s)
      ∧ Does (w (.amo x) 8 (· + 1) false false) b (got (w (.amo x) 8 (· + 1) false false) b) (ran (w (.amo x) 8 (· + 1) false false) b)
      ∧ Does (w (.cas2 p) 16 (· + 1) true true) b (got (w (.cas2 p) 16 (· + 1) true true) b) (ran (w (.cas2 p) 16 (· + 1) true true) b)
      ∧ Does l b (got l b) (ran l b) ∧ (ran l b).cur = s.cur ∧ (ran (w (.amo x) 8 (· + 1) false false) b).cur = s.cur :=
  ⟨by decide +kernel, does_of (by decide +kernel), does_of (by decide +kernel), does_of (by decide +kernel), by decide +kernel, by decide +kernel⟩
theorem test_witness_AtomicAccess : quiet40 (stM []) 8 true true = true ∧ (∀ p, (stM []).acquiredP (ctxReq (stM []) 0x40 8 true true true 4 none) = some p →
    max (stM []).mine.h p + 1 < clockLimit) := ⟨by decide +kernel, by
  intro p h
  have : (stM []).acquiredP (ctxReq (stM []) 0x40 8 true true true 4 none) = none := by decide +kernel
  rw [this] at h; cases h⟩
theorem test_step_amo : steps (exec (.amo ⟨1, 2, 0, 6, .word⟩) { stM [(0, 0x40), (2, 7)] with mem := [(0x40, 5)] }) (fun t =>
    decide (t.mine.s 6 = 5) && decide ((t.core 0).wlq.map (fun e => Table.get e.bytes 0 0x40) = [12])) = true := by decide +kernel
theorem test_step_cas_fails : steps (exec (.cas ⟨0, 2, 0, 6, .ext { xw 0 0 3 4 0 with sc := 4 }⟩) { stM [(0, 0x40), (2, 7), (4, 6)] with mem := [(0x40, 5)] })
    (fun t => decide (t.mine.s 6 = 5) && decide ((t.core 0).wlq.map (fun e => Table.get e.bytes 0 0x40) = [5])) = true := by decide +kernel
theorem test_witness_BarrierInstructions :
    let s := stA [(0, 0x40), (1, 1), (2, 0x00F0000000000040)]
    let n := stA [(0, 0x40), (1, 0xFFFFFFFF), (2, 0x00F0000000000040)]
    ((∀ i ∈ [Instr.barinit (rw 0 1 0 0), .arrive (rw 0 1 0 3), .arrive (rw 0 1 2 3), .waitph (rw 0 1 0 3), .testph (rw 0 1 0 3), .expect (rw 0 1 0 0)], Issues i s)
      ∧ s.journalQuiet 0 0 = true ∧ s.mine.l + 1 < clockLimit
      ∧ s.barFits 0 { off := 0x40, arrivals := 1, bytes := 0, expected := 0, p := 0, owner := s.ownerOf 0 0 } = true
      ∧ (s.barObj 0 0x40).satisfies 0xFFFFFFFF = true ∧ (s.barObj 0 0x40).satisfies 0 = false ∧ (n.barObj 0 0x40).rpub = 0)
    ∧ BarrierOpen s 0x40 :=
  ⟨by decide +kernel, by decide +kernel, by decide +kernel, by decide +kernel, by unfold LocalOpen; decide +kernel, by decide +kernel⟩
/-- An object for 2 arrivals after 2: phase 1, which a waiter on phase 0 sees (R375, R376). -/
theorem test_barrier_phase :
    let o : BarObj := { parr := 1, earr := 2, phase := 0, pbytes := 0, ebytes := 0, racc := 5, rpub := 0 }
    let u : BarUpdate := { off := 0, arrivals := 1, bytes := 0, expected := 0, p := 9, owner := 0 }
    (o.apply [u]).phase = 1 ∧ (o.apply [u]).rpub = 9 ∧ (o.apply [u]).satisfies 0 = true ∧ (o.apply []).phase = 0 := by decide +kernel
theorem test_step_barinit : steps (exec (.barinit (rw 0 1 0 0)) (stA [(0, 0x40), (1, 3)])) (fun t => decide ((t.barObj 0 0x40).earr = 3)) = true := by
  decide +kernel
theorem test_witness_SignalInstructions :
    let s := stM [(0, 0x40), (2, 7)]
    let x : RFields := ⟨0, 2, 0, 6, .ext { xw 0 0 3 0 0 with sc := 4 }⟩
    let b := (((s.begun (.signal x)).pull 0).2.pull 2).2
    let m := atomicWrite 0x40 8 4 true false true (fun o => amoResult 0 3 o 7) (envOf s 0 0 (.signal x))
    let w := signalSeen 0x40 (amoResult 0 3 (got m b) 7)
    let l := atomicLoad 0x40 8 4 (envOf s 0 0 (.waitsig ⟨1, 2, 0, 6, .ext { xw 0 0 3 0 0 with sc := 4 }⟩))
      (fun o => decide (cmpResult 1 64 (putOf 3 o) 7 ≠ 0))
    (Issues (.signal x) s ∧ Issues (.waitsig ⟨1, 2, 0, 6, .ext { xw 0 0 3 0 0 with sc := 4 }⟩) s ∧ s.journalQuiet 0 0 = true
      ∧ (ran w (ran m b)).cur = s.cur ∧ cmpResult 1 64 (putOf 3 (got l b)) 7 ≠ 0)
    ∧ Does m b (got m b) (ran m b) ∧ Does w (ran m b) () (ran w (ran m b)) ∧ Does l b (got l b) (ran l b) :=
  ⟨by decide +kernel, does_of (by decide +kernel), does_of (by decide +kernel), does_of (by decide +kernel)⟩

/-! ### Witnesses and single steps: rows 6 and 7 -/

/-- The control context of core 0 in domain 0 with its members. -/
def stD (regs : Table Word) (d : Domain) : State :=
  { State.reset with cores := [(0, { ctxs := [(0, ctxOf .a regs)], domain := some 0, xslot := [(0, 1)] })], domains := [(0, { d with configured := true, members := [0] })] }
theorem test_witness_DomainInstructions :
    (∀ n ∈ [(1 : BitVec 4), 2], Issues (.domain ⟨n, 0, 0, 2, .word⟩) (stA [(0, 1)])) ∧ Issues (.domain (rw 0 1 0 2)) (stM [(0, 0), (1, 0x40)])
      ∧ (let s := stD [] { released := [(0, 7)], dp := 3 }
         Issues (.sync (rw 0 0 0 2)) s ∧ (s.core 0).domain = some 0 ∧ (((s.begun (.sync (rw 0 0 0 2))).barrierComplete 0).domainOf 0).released = [(0, 7)]
          ∧ max s.mine.h 3 + 1 < clockLimit)
      ∧ (let s := stD [] { limit := 5, count := 5 }
         let w := ((s.begun (.sync (rw 0 0 0 2))).barrierComplete 0).phaseEnd 0
         Issues (.sync (rw 0 0 0 2)) s ∧ (w.domainOf 0).exchanging = false ∧ (w.domainOf 0).count = (w.domainOf 0).limit ∧ w.cur = s.cur)
      ∧ (let s := stD [(0, 0x100), (1, 0x40)] { exchanging := true }
         let x := rw 0 1 0 0
         let u := ((((s.begun (.xsend x)).pull x.a).2.pull x.b).2.barrierComplete 0).phaseEnd 0
         Issues (.xsend x) s ∧ u.cur = s.cur ∧ (u.domainOf 0).slotNow u.clk = some 0 ∧ ((u.core 0).xslot.get 0 0).getLsbD 0 = true
          ∧ (∀ j, j < 16 → (u.core 0).mode (bankOf (0x40 + j)) = 0) ∧ completes (localGet 0x40 16 0x40) u = true ∧ ran (localGet 0x40 16 0x40) u = u)
      ∧ (let s := stD [] { exchanging := true }
         let u := ((s.begun (.xwait (rw 0 0 0 2))).barrierComplete 0).phaseEnd 0
         Issues (.xwait (rw 0 0 0 2)) s ∧ u.cur = s.cur ∧ (u.domainOf 0).exchanging = true ∧ (u.pull 0).1.toNat < (u.domainOf 0).slots
          ∧ (u.domainOf 0).slotNow u.clk = some 0)
      ∧ (let s := stD [] {}
         let u := ((s.begun (.xwait (rw 1 0 0 2))).barrierComplete 0).finishPhase 0
         Issues (.xwait (rw 1 0 0 2)) s ∧ u.cur = s.cur ∧ (u.domainOf 0).exchanging = false) := by decide +kernel
theorem does_with {α : Type} {m : M α} {s : State} {p : α → State → Bool}
    (h : (match m.run s with | .ok (a, t) => p a t | .error _ => false) = true) : ∃ a t, Does m s a t ∧ p a t = true := by
  split at h
  · rename_i a u hq; exact ⟨a, u, hq, h⟩
  · cases h
theorem domainRefusal_free {u : State} {ws : List Word} (hd : u.domains = []) (hc : u.cores.all (fun e => e.2.domain.isNone) = true)
    (hg : u.dev.gated = []) (h : (ws.getD 0 0).getLsbD 0 = true) : u.domainRefusal 0 (bitmapCores ws) = none := by
  have hw : ws ≠ [] := by rintro rfl; simp at h
  have hm : 0 ∈ bitmapCores ws := by
    simp only [bitmapCores, List.mem_flatMap, List.mem_range, List.mem_map, List.mem_filter]
    exact ⟨0, List.length_pos_iff.2 hw, 0, ⟨by decide, h⟩, rfl⟩
  have hn : ∀ (g : Nat) (l : Table Core), l.all (fun e => e.2.domain.isNone) = true → (l.get {} g).domain = none := by
    intro g l
    induction l with
    | nil => intro _; rfl
    | cons e r ih =>
      intro ha
      simp only [List.all_cons, Bool.and_eq_true, Option.isNone_iff_eq_none] at ha
      simp only [Table.get, Table.find] at ih ⊢
      split
      · exact ha.1
      · exact ih ha.2
  simp [State.domainRefusal, State.domainOf, State.core, hd, hg, List.ne_nil_of_mem hm, Table.get, Table.find]
  exact fun x _ => hn x _ hc
/-- DOMAIN.configure reads its bitmap, here from local memory, which names core 0, and finds the domain and the core free. -/
theorem test_witness_DomainInstructions_configure :
    let s := { stA [(0, 0), (1, 0x00F0000000000040)] with mem := [(localKey 0 0x40, 1)] }
    ∃ ws u, Does (loadDwords 0x00F0000000000040 (envOf s 0 0 (.domain (rw 0 1 0 2))) 640) ((s.begun (.domain (rw 0 1 0 2))).pull 0).2 ws u
      ∧ u.cur = s.cur ∧ u.domainRefusal 0 (bitmapCores ws) = none := by
  intro s
  obtain ⟨ws, u, h, hp⟩ := does_with (m := loadDwords 0x00F0000000000040 (envOf s 0 0 (.domain (rw 0 1 0 2))) 640)
    (s := ((s.begun (.domain (rw 0 1 0 2))).pull 0).2) (p := fun ws u => decide (u.cur = s.cur) && (ws.getD 0 0).getLsbD 0
      && decide (u.domains = []) && decide (u.dev.gated = []) && u.cores.all (fun e => e.2.domain.isNone)) (by decide +kernel)
  simp only [Bool.and_eq_true, decide_eq_true_eq] at hp
  exact ⟨ws, u, h, hp.1.1.1.1, domainRefusal_free hp.1.1.2 hp.2 hp.1.2 hp.1.1.1.2⟩
theorem test_witness_DomainInstructions_refused : (stD [] {}).domainRefusal 0 [1] = some (-1) ∧ (stD [] {}).domainRefusal 1 [0] = some (-2)
    ∧ (stD [] {}).domainRefusal 1 [] = some (-3) := by decide +kernel
theorem test_step_domain : steps (exec (.domain (rw 2 0 0 2)) { stA [(0, 1)] with domains := [(1, { configured := true, members := [3, 4], count := 9 })] })
    (fun t => decide (t.mine.s 2 = 0x0001000200000009)) = true := by decide +kernel
theorem test_step_xwait : steps (exec (.xwait (rw 1 0 0 2)) (stD [] { count := 4, dropped := [0], dp := 6 })) (fun t =>
    decide (t.mine.s 2 = 0x100000004) && decide (t.mine.h = 6) && decide (t.mine.l = 7)) = true := by decide +kernel
/-- The control context of core 0 and helper 1 in another state, its control context's turn. -/
def stH (h : HState) (regs : Table Word) : State :=
  { State.reset with cores := [(0, { ctxs := [(0, { ctxOf .a regs with hlive := 2 }), (1, { ctxOf .x [] with hstate := h, endp := 5, abn := true })] })] }
theorem test_witness_HelperInstructions :
    (let s := stH .free [(0, 0x40), (1, 9)]
     Issues (.start (rw 1 1 0 2)) s ∧ (s.core 0).taken 0 .x none = false ∧ ((s.core 0).ctx 1).hstate = .free ∧ s.mine.l + 1 < clockLimit
      ∧ (s.core 0).taken 6 .x none = false)
    ∧ (let s := stH .live [(0, 0x40)]
       let t := s.onCtx 0 1 (fun c => { c with qset := 2 })
       Issues (.start (rw 5 1 0 2)) t ∧ (t.core 0).taken 2 .x none = true)
    ∧ (let s := withCtxs ((List.range 13).map (fun _ => ctxOf .a []))
       let t := { s with cur := (0, 0) }
       Issues (.start (rw 12 1 0 2)) t ∧ ∀ j ∈ ctxNumbers, j ≠ 0 → ((t.core 0).ctx j).hstate ≠ .free)
    ∧ (let s := { stH .live [] with cur := (0, 1) }
       Issues (.endHelper (rw 0 0 0 0)) s ∧ s.mine.openBatch.used = false ∧ s.mine.l + 1 < clockLimit)
    ∧ (let s := stH .ended [(0, 2)]
       Issues (.hwait (rw 0 0 0 2)) s ∧ ctxNumbers.filter (fun j => (2 : Word).getLsbD j) = [1] ∧ s.mine.hlive.getLsbD 1 = true
        ∧ ((s.core 0).ctx 1).hstate = .ended)
    ∧ Issues (.hwait (rw 0 0 0 2)) (stH .ended []) := by decide +kernel
/-- HWAIT acquires what the ended helper published, frees it, and tells that it ended abnormally (R153). -/
theorem test_step_hwait : steps (exec (.hwait (rw 0 0 0 2)) (stH .ended [(0, 2)])) (fun t =>
    decide (t.mine.s 2 = 2) && decide (t.mine.h = 5) && decide (t.mine.l = 6) && decide (t.mine.hlive = 0) && decide ((t.ctx 0 1).hstate = .free)) = true := by
  decide +kernel
theorem test_step_start : steps (exec (.start (rw 1 1 0 2)) (stH .free [(0, 0x40), (1, 9)])) (fun t =>
    decide (t.mine.s 2 = 1) && decide ((t.ctx 0 1).pc = 0x40) && decide ((t.ctx 0 1).s 0 = 9) && decide ((t.ctx 0 1).fe = .x) && decide ((t.ctx 0 1).qset = 0))
    = true := by decide +kernel
theorem test_witness_QueueAndLaneInstructions :
    (∀ i ∈ [Instr.qbind (rw 0 0 0 0), .qbind (rw 1 0 0 0), .qstat (rw 0 0 0 2), .yield (rw 0 0 0 0)], Issues i (stA [(0, 5)]))
      ∧ ((stA []).core 0).taken 5 .a (some 0) = false ∧ ((stA []).core 0).taken 5 .x (some 0) = false
      ∧ (∀ i ∈ [Instr.vclaim (rw 0 0 0 2), .vyield (rw 0 0 0 2)], Issues i (stX [(0, 128)])) := by decide +kernel
theorem test_step_vclaim : steps (exec (.vclaim (rw 0 0 0 2)) (stX [(0, 5)])) (fun t => decide (t.mine.grant = 8) && decide (t.mine.s 2 = 8)) = true := by
  decide +kernel
theorem test_step_qstat : steps (exec (.qstat (rw 0 0 0 2)) (stA [(0, 7)])) (fun t => decide (t.mine.s 2 = 0x00000FF00000000)) = true := by decide +kernel
def onLaunch3 (c : Ctx) : Ctx := { c with launch := some (3, 1) }
/-- The control context of core 0 with a ticket, of launch 3, that runs. -/
def stN (f : Ctx → Ctx) : State :=
  { mapped (stA [(0, 0x40)]) with
    cores := [(0, { ctxs := [(0, f (onLaunch3 (ctxOf .a [(0, 0x40)])))] })]
    launches := [(3, { state := .running, epoch := 1, owner := 0 })] }
theorem test_witness_NodeInstructions :
    let x := rw 0 1 0 2
    (let s := stN (fun c => { c with arrived := some { record := 0x80, word := 7, p := 4, ticket := { num := 0, die := 0, slot := 3, epoch := 1 } } })
     let u := ((((s.begun (.nwait (rw 0 0 0 2))).pull 0).2.takeNode 0 { num := 0, die := 0, slot := 3, epoch := 1 }).give 2 0x80).give 3 7
     Issues (.nwait (rw 0 0 0 2)) s ∧ s.mine.ticket = none ∧ u.cur = s.cur ∧ max u.mine.h 4 + 1 < clockLimit)
    ∧ (let s := stN (fun c => { c with nwait := some { d := 2, limit := some 0, next := 4 } })
       Issues (.nwait (rw 0 0 0 2)) s ∧ s.mine.arrived = none)
    ∧ (let s := stN (fun c => { c with ticket := some { num := 0, die := 0, slot := 3, epoch := 1 }, win := [] })
       let u := (((((s.begun (.ndone (rw 0 0 0 0))).pull 0).2.onMine (fun c => { c with l := c.l + 1 })).onMine (fun c => { c with ticket := none })).rankDone 0
         { num := 0, die := 0, slot := 3, epoch := 1 } s.mine.l)
       Issues (.ndone (rw 0 0 0 0)) s ∧ u.cur = s.cur ∧ s.mine.hlive = 0)
    ∧ (let s := stN id
       let l := loadDwords 0x40 (envOf s 0 0 (.task x)) 8
       let b := (((s.begun (.task x)).pull 0).2.pull 1).2
       let task : NodeRec := { w0 := 0x80000001, w1 := 0xFFFFFFFFFFFFFFFF, k := [0x1000, 1, 0, 0, 0, 0], succ := [], succOk := true }
       Issues (.task x) s ∧ completes l b = true ∧ (ran l b).cur = s.cur ∧ s.checkNode task false true 0 = none
        ∧ s.checkNode { task with w0 := 0 } false true 0 = some 1 ∧ (s.launch 3).state = .running ∧ (s.caravan (s.poolOf 3 task none)).full = false
        ∧ ((s.onMine (fun c => { c with l := c.l + 1 })).enqueueTask 3 0x40 task 1 0 0).cur = s.cur) := by decide +kernel

/-! ### Witnesses and single steps: rows 8 to B -/

/-- A vector instruction in one word, and one with an extension. -/
def vw (fn : BitVec 4) (b a d : BitVec 5) : VFields := ⟨fn, 0, b, a, d, .word⟩
def ve (fn : BitVec 4) (b a d : BitVec 5) (ty c : BitVec 6) (imm : BitVec 32) : VFields := ⟨fn, 0, b, a, d, .ext (xw 0 0 ty c imm)⟩
theorem test_witness_VectorArithmetic : (∀ i ∈ [Instr.vadd (vw 0 2 1 3), .vsub (vw 0 2 1 3), .vmul (vw 0 2 1 3), .vfma (vw 0 2 1 3), .vmin (vw 0 2 1 3),
      .vmax (vw 0 2 1 3), .vand (vw 0 2 1 3), .vor (vw 0 2 1 3), .vxor (vw 0 2 1 3), .vshl (vw 0 2 1 3), .vshr (vw 1 2 1 3), .vneg (vw 1 0 1 3),
      .vsfu (vw 8 0 1 3), .vadd ⟨0, 0, 2, 1, 3, .ext (xw 0 5 8 0 0)⟩], Issues i (stX [])) ∧ (stX []).drawsLeft 5 4 := by decide +kernel
theorem test_witness_VectorLanes : (∀ i ∈ [Instr.vsel (vw 0 2 1 3), .vdot4 (vw 2 2 1 3), .vcvt (ve 0 0 1 3 8 0 0), .vmov (vw 0 0 1 3), .vmov (ve 1 0 0 3 8 0 0),
      .vidx (ve 0 0 0 3 2 0 0), .vins (ve 0 0 0 3 2 0 3), .vclamp (vw 0 0 1 3), .vshuf (vw 1 2 1 3), .vrot (vw 2 0 1 3), .vbcast (vw 0 0 1 3),
      .vbcast ⟨0, 0, 0, 1, 3, .ext (xw 7 0 0 0 0)⟩, .vmatch (ve 2 0 1 3 0 48 0), .vcomp (ve 1 0 1 3 0 2 0)], Issues i (stX [(0, 3)]))
    ∧ (let s := { stX [] with cores := [(0, { ctxs := [(0, ctxOf .a []), (1, onGrant (ctxOf .x []) 64)] })] }
       Issues (.vquant (vw 0 0 1 3)) s ∧ s.mine.grant % 64 = 0 ∧ s.drawsLeft 5 64) := by decide +kernel
theorem test_witness_VectorMasks : (∀ i ∈ [Instr.vcmp (vw 5 2 1 3), .mop (vw 0 3 2 1), .mop (vw 1 3 2 1), .mop (vw 2 3 2 1), .mop (vw 3 3 2 1), .mop (vw 4 0 2 1),
      .mop (ve 5 0 0 1 0 0 0), .mop (ve 6 0 2 0 0 2 0), .mop (ve 7 0 2 0 0 2 0), .vvote (ve 0 0 1 0 0 2 0), .vvote (ve 1 0 1 0 0 2 0), .vvote (ve 2 0 1 0 0 2 0),
      .vvote (ve 3 0 1 1 0 48 0), .vmatch (ve 0 0 1 1 0 48 0), .vmatch (ve 1 0 1 1 0 48 0), .vext (ve 0 0 1 0 2 2 3)], Issues i (stX [])) := by decide +kernel
theorem test_witness_VectorReductions : (∀ i ∈ [Instr.vred (ve 0 0 1 0 8 2 0), .vred (ve 0 0 1 0 2 2 0), .vred ⟨0, 0, 0, 1, 3, .ext (xw 1 0 2 48 0)⟩,
      .vscan (vw 0 0 1 3), .vscan (ve 1 0 1 3 2 0 0)], Issues i (stX [])) ∧ (stX []).mine.grant ≤ 128 ∧ (stX []).drawsLeft 5 3 := by decide +kernel
/-- The helper of core 0 on X with 4 lanes, v1 holding 1, 2, 3, 0xFFFFFFFF and v2 holding 5, 6, 7, 1. -/
def stV : State :=
  { stX [] with cores := [(0, { ctxs := [(0, ctxOf .a []), (1, { onGrant (ctxOf .x []) 4 with
    v := [(128, 1), (129, 2), (130, 3), (131, 0xFFFFFFFF), (256, 5), (257, 6), (258, 7), (259, 1)] })] })] }
theorem test_step_vadd : steps (exec (.vadd (ve 0 2 1 3 2 0 0)) stV) (fun t =>
    decide ((List.range 5).map (t.mine.lane 3) = [6, 8, 10, 0, 0])) = true := by decide +kernel
theorem test_step_vscan : steps (exec (.vscan (ve 0 0 1 3 2 0 0)) stV) (fun t =>
    decide ((List.range 4).map (t.mine.lane 3) = [1, 3, 6, 5])) = true := by decide +kernel
theorem test_step_vred : steps (exec (.vred (ve 0 0 1 0 2 2 0)) stV) (fun t => decide (t.mine.s 2 = 5)) = true := by decide +kernel
/-- The six lanes of R241's example. -/
def stM6 : State :=
  { stX [] with cores := [(0, { ctxs := [(0, ctxOf .a []), (1, { onGrant (ctxOf .x []) 6 with
    v := [(0, 7), (1, 3), (2, 7), (3, 7), (4, 9), (5, 3)] })] })] }
/-- The manual's VMATCH.rank and VMATCH.lead (R241). -/
theorem test_step_vmatch : steps (exec (.vmatch (ve 2 0 0 3 0 48 0)) stM6) (fun t => decide ((List.range 6).map (t.mine.lane 3) = [0, 0, 1, 2, 0, 1]))
    && steps (exec (.vmatch (ve 1 0 0 1 0 48 0)) stM6) (fun t => decide (t.mine.mask 1 = 0b010011))
    && steps (exec (.vmatch (ve 0 0 0 1 0 48 0)) stM6) (fun t => decide (t.mine.mask 1 = 0b101111)) = true := by decide +kernel
/-- The helper of core 0 on X with 64 lanes, which owns tile 0 and B buffer 0 of its engine. -/
def stMx (regs : Table Word) : State :=
  { mapped (stX regs) with
    cores := [(0, { ctxs := [(0, ctxOf .a []), (1, onGrant (ctxOf .x regs) 64)] })]
    matrix := [(0, { tiles := [(0, { owner := some (.ctx 0 1) }), (1, { owner := some (.ctx 0 2) })], bufs := [(0, { user := some 0 })],
                     slots := [(1, { img := {}, tag := 9, owner := 0 })] })] }
theorem test_witness_TileInstructions :
    let r := rw 0 1 0 2
    let own (regs : Table Word) := stMx regs
    let e (regs : Table Word) := (own regs).engine 0
    (Issues (.mtile r) (own [(0, 0), (1, 0xFFFFFFFF00000000)]) ∧ (e []).room false = true ∧ ((e []).tile 2).owner = none
      ∧ ((e []).tile 0).owner = some (.ctx 0 1) ∧ ((e []).tile 0).leaving = false ∧ ((e []).tile 1).owner ≠ none ∧ ((e []).tile 1).owner ≠ some (.ctx 0 1))
    ∧ (Issues (.mtile (rw 1 1 0 2)) (own [(0, 0x70)]) ∧ Issues (.mtile (rw 2 1 0 2)) (own [(0, 0x10), (1, 9)])
      ∧ Issues (.mtile (rw 3 0 0 2)) (own []) ∧ ((e []).slots.find 1).isSome = true ∧ (own []).ownerOf 0 1 = 0) := by decide +kernel
theorem test_witness_MacroInstructions :
    let s (a b : Word) := stMx [(0, a), (1, b)]
    let ok (i : Instr) (s : State) := Issues i s ∧ (s.engine 0).room false = true ∧ (s.engine 0).room true = true
    (ok (.macc (rw 0 1 0 0)) (s 0 0) ∧ panelBad 0 0 = false ∧ ((s 0 0).engine 0).bufs.get {} 0 = { user := some ((s 0 0).ownerOf 0 1) }
      ∧ (∀ r ∈ rowsOf (((s 0 0).engine 0).rowsNow 0), ((s 0 0).core 0).mode ((panelOf 0).bank 0 r) = 0))
    ∧ (ok (.mread (rw 0 1 0 0)) (s 0 0x1000000) ∧ outCheck ((s 0 0).core 0) 8 0 256 false false 0 = none)
    ∧ (ok (.mread ⟨0, 1, 0, 0, .ext (xw 0 0 15 0 0)⟩) (s 0 0) ∧ panelCheck ((s 0 0).core 0) 0 0 (((s 0 0).engine 0).rowsNow 0) false 0 = none)
    ∧ (ok (.msoft ⟨0, 1, 0, 0, .ext (xw 0 0 8 3 0)⟩) (s 0 0x3F80000001000000) ∧ outCheck ((s 0 0).core 0) 8 0 256 true false 0 = none)
    ∧ ok (.mloadb (rw 0 1 0 0)) (s 0x40 1) := by decide +kernel
theorem test_witness_MacroInstructions_mloadb :
    let s := stMx [(0, 0x40), (1, 1)]
    let i := Instr.mloadb (rw 0 1 0 0)
    let b := ((s.begun i).pull 0).2.pull 1
    let m := blockLines (envOf s 0 1 i) (blockSize (extOf i).ty.toNat / 64) 0x40
    Does m b.2 (got m b.2) (ran m b.2) ∧ (ran m b.2).cur = s.cur :=
  ⟨does_of (by decide +kernel), by decide +kernel⟩
theorem test_witness_MatrixStateInstructions :
    let s := { stMx [] with cur := (0, 1) }
    let k := keeperOf 0 0
    (Issues (.mscale (rw 0 2 1 0)) s ∧ 64 ≤ s.mine.grant ∧ ((s.engine 0).tile 0).owner ≠ none ∧ ((s.engine 0).tile 0).fifo.length < 8
      ∧ (s.launch 0).stage = 0)
    ∧ (Issues (.mwait (rw 0 0 0 2)) s ∧ (∀ n ∈ [(0 : BitVec 4), 1, 2, 3, 4, 5], Issues (.mstat ⟨n, 0, 0, 2, .word⟩) s))
    ∧ completes k s = true ∧ (ran k s).cur = s.cur := by decide +kernel
theorem test_step_mstat : steps (exec (.mstat (rw 4 0 0 2)) (stMx [(0, 1)])) (fun t => decide (t.mine.s 2 = 9)) = true := by decide +kernel
theorem test_step_mtile_held : steps (exec (.mtile (rw 0 1 0 2)) (stMx [(0, 1)])) (fun t => decide (t.mine.s 2 = -1)) = true := by decide +kernel

/-! ### Witnesses and single steps: rows C and D -/

/-- Words of a copy of one f32 row of 4 from HBM4E address 0x100 to 0x200. -/
def cpWords : Table Word := [(4, 0x100), (5, 0x200), (6, 0x4001), (7, 0x80)]
/-- Words of a near-memory scale of 16 f32 at 0x100. -/
def nmWords : Table Word := [(4, 0x3F80000000000F01), (6, 0x100)]
theorem test_witness_CopyIssue :
    let s := stM cpWords
    let i := Instr.cpq (rw 1 0 4 2)
    let ws : List Word := [0x100, 0x200, 0x4001, 0x80]
    let w := ((((s.begun i).pull 4).2.pull 5).2.pull 6).2.pull 7
    let u0 := w.2.onMine (fun c => { c with l := s.mine.l + 1 })
    let u := { u0 with fresh := s.fresh + 1 }
    let n := u.numberCopy 0 (newCopy u s.fresh ws s.mine.l s.mine.pc)
    (Issues i s ∧ copyCheck ws (envOf s 0 0 i).aval = none ∧ (s.core 0).cpq.length < 8 ∧ s.mine.l + 1 < clockLimit ∧ (n.1.placeCopy 0 n.2).1.cur = s.cur)
      ∧ copyCheck ws 0 = none := by decide +kernel
theorem test_step_cpq : steps (exec (.cpq (rw 0 0 4 2)) (stM cpWords)) (fun t => decide (t.mine.s 2 = 0) && decide ((t.core 0).cpq.length = 1)
    && decide (t.mine.openBatch.ops = [1]) && decide (t.mine.l = 1)) = true := by decide +kernel
/-- The control context of core 0 with other copy state. -/
def stC (f : Ctx → Ctx) (regs : Table Word) : State := { State.reset with cores := [(0, { ctxs := [(0, f (ctxOf .a regs))] })] }
theorem test_witness_BatchInstructions :
    (Issues (.cpseal (rw 0 0 0 2)) (stC id []) ∧ (stC id []).mine.batches.length < 16)
    ∧ (Issues (.cpwait (rw 0 0 0 2)) (stC id []) ∧ (stC id []).mine.batches.length ≤ 0 ∧ (stC id []).mine.done = 0)
    ∧ (let s := stC (fun c => { c with done := 3, doneP := 9 }) []
       Issues (.cpwait (rw 0 0 0 2)) s ∧ s.mine.done ≠ 0 ∧ max s.mine.h s.mine.doneP + 1 < clockLimit)
    ∧ (∀ n ∈ [(0 : BitVec 4), 1, 2, 3], Issues (.cpstat ⟨n, 0, 0, 2, .word⟩) (stC id [])) := by decide +kernel
theorem test_step_cpwait : steps (exec (.cpwait (rw 0 0 0 2)) (stC (fun c => { c with done := 3, doneP := 9 }) [])) (fun t =>
    decide (t.mine.s 2 = 3) && decide (t.mine.h = 9) && decide (t.mine.l = 10)) = true := by decide +kernel
theorem test_witness_NearMemoryInstructions :
    let s := stM nmWords
    let i := Instr.nmc (rw 0 0 4 2)
    let ws : List Word := [0x3F80000000000F01, 0, 0x100, 0]
    let w := ((((s.begun i).pull 4).2.pull 5).2.pull 6).2.pull 7
    let k := w.2.nearKeys (nearCtxOp w.2 s.mine.pc) ws (envOf s 0 0 i).aval
    (Issues i s ∧ nearCheck ws (envOf s 0 0 i).aval = none ∧ (match k.2 with | .keys wk _ => decide (wk = 0x100) | _ => false) = true ∧ k.1.cur = s.cur
      ∧ k.1.mine.nmOpen.length < 8 ∧ k.1.mine.l + 1 < clockLimit)
    ∧ (Issues (.nmfence (rw 0 0 0 2)) (stC id []) ∧ (stC id []).mine.nmOpen = [] ∧ (stC id []).mine.nmIssued = 0)
    ∧ (let s := stC (fun c => { c with nmIssued := 3, nmP := 8 }) []
       Issues (.nmfence (rw 0 0 0 2)) s ∧ s.mine.nmIssued ≠ 0 ∧ max s.mine.h s.mine.nmP + 1 < clockLimit) := by decide +kernel
theorem test_step_nmc : steps (exec (.nmc (rw 0 0 4 2)) (stM nmWords)) (fun t => decide (t.mine.s 2 = 1) && decide (t.near.length = 1)
    && decide (t.mine.nmOpen = [1])) = true := by decide +kernel
theorem test_step_nmfence : steps (exec (.nmfence (rw 0 0 0 2)) (stC (fun c => { c with nmIssued := 3, nmP := 8, nmStopped := true }) [])) (fun t =>
    decide (t.mine.s 2 = 1) && decide (t.mine.h = 8) && decide (t.mine.l = 9)) = true := by decide +kernel
/-- The control context of core 0 with stream 4 in a state, of generation 1, owner 0, whose queue is at 0x400 of HBM4E, and its handle in
s0. -/
def stS (regs : Table Word) (st : SState) (f : Stream → Stream) : State :=
  { mapped (stA ((0, handleOf 4 1) :: regs)) with
    streams := [(4, f { gen := 1, used := true, state := st, root := 1, resv := 8, steps := 5, qbase := 0x400, qlog := 2, clock := 3 })]
    nodes := [(1, { refcnt := 1, owner := 0, leaf := false, entries := [] })]
    poolUsed := 100, fresh := 2 }
/-- Memory with dwords at addresses of HBM4E. -/
def memOf (l : List (Nat × Nat)) : Memory := l.foldl (fun m e => m.putBytes (hbmKey e.1) (bytesOfNat 8 e.2)) []
/-- A page table at 0x1000 that maps the 2 MiB page at address 0 to itself. -/
def pageTable : List (Nat × Nat) := [(0x1000, 0x2001), (0x2000, 0x3001), (0x3000, 0x4001), (0x4000, 0xF)]
theorem homeHere_lt : homeHere < 2 ^ 12 := by unfold homeHere; omega
theorem handle_fields (k : Nat) (h : k < 2 ^ 12) : handleOk (BitVec.ofNat 64 (k * 2 ^ 32 + 1 * 2 ^ 24 + 4)) = true
    ∧ handleHome (BitVec.ofNat 64 (k * 2 ^ 32 + 1 * 2 ^ 24 + 4)) = k ∧ 4 = handleId (BitVec.ofNat 64 (k * 2 ^ 32 + 1 * 2 ^ 24 + 4))
    ∧ 1 = handleGen (BitVec.ofNat 64 (k * 2 ^ 32 + 1 * 2 ^ 24 + 4)) := by
  have hn : (BitVec.ofNat 64 (k * 2 ^ 32 + 1 * 2 ^ 24 + 4)).toNat = k * 2 ^ 32 + 1 * 2 ^ 24 + 4 := by
    rw [BitVec.toNat_ofNat]; exact Nat.mod_eq_of_lt (by omega)
  simp only [handleOk, handleHome, handleId, handleGen, hn, decide_eq_true_eq]
  omega
/-- The handle of a stream of this package names it, whichever coordinates the package has. -/
theorem test_handle_names (s : State) (h : (s.stream 4).gen = 1) : s.Names (handleOf 4 1) 4 :=
  have hf := handle_fields homeHere homeHere_lt
  ⟨hf.1, hf.2.1, hf.2.2.1, h.trans hf.2.2.2⟩
theorem test_witness_StreamCreation :
    let i := Instr.snew (rw 0 1 0 2)
    let block : List Word := [8, 0x400, 0xFFFF0002, 7]
    let bytes : Memory := (block.flatMap (fun w => bytesOfNat 8 w.toNat)).zipIdx.filterMap (fun p => if p.1 = 0 then none else some (0x40 + p.2, p.1))
    let s : State := { mapped (stA [(0, 0x40), (1, 0xFFFFFF)]) with mem := bytes, owners := [(0, { quota := 1000 })] }
    let b := ((s.begun i).pull 0).2.pull 1
    let m := loadDwords 0x40 (envOf s 0 0 i) 4
    (Issues i s ∧ creationOk (got m b.2) = true ∧ (ran m b.2).cur = s.cur) ∧ Does m b.2 (got m b.2) (ran m b.2) :=
  ⟨by decide +kernel, does_of (by decide +kernel)⟩
theorem test_witness_StreamCreation_fork :
    let i := Instr.fork (rw 0 1 0 2)
    let s := stS [(1, 0x80)] .admitted id
    let b := ((s.begun i).pull 0).2.pull 1
    let m := loadDwords 0x80 (envOf s 0 0 i) 4
    b.2.Names (handleOf 4 1) 4 ∧ (Issues i s ∧ forkOk (got m b.2) = true ∧ (ran m b.2).cur = s.cur ∧ ((ran m b.2).node 1).refcnt ≠ 65535)
      ∧ Does m b.2 (got m b.2) (ran m b.2) :=
  ⟨test_handle_names _ (by decide +kernel), by decide +kernel, does_of (by decide +kernel)⟩
/-- The part with stream 4 and a quota of owner 0. -/
def stQ (q : Nat) : State := { stS [] .admitted id with owners := [(0, { quota := q })] }
theorem takeId_of_room (s : State) (want resv : Nat) (hw : want ≠ 0xFFFFFF) (hf : s.idFree want = true)
    (hr : (s.owner 0).resv + poolNeed resv ≤ (s.owner 0).quota.toNat) (hp : s.poolUsed + poolNeed resv ≤ Config.poolPages s.dev.fwver) :
    s.takeId want 0 0 resv = ({ s with poolUsed := s.poolUsed + poolNeed resv }.onOwner 0 (fun o => { o with resv := o.resv + poolNeed resv }), .ok want) := by
  simp [State.takeId, State.reserve, hw, hf, hr, hp]
/-- With a pool of at least 110 pages (its size is free, log 6) an identity and a reservation are had. -/
theorem test_witness_StreamCreation_takes (h : 110 ≤ Config.poolPages (stQ 1000).dev.fwver) :
    ∃ t, (stQ 1000).takeId 5 0 0 8 = (t, .ok 5) ∧ (t.descPlaced 5).2 + 1 < clockLimit :=
  ⟨_, takeId_of_room _ 5 8 (by decide) (by decide +kernel) (by decide +kernel) (le_trans (by decide +kernel) h), by decide +kernel⟩
theorem test_witness_StreamCreation_refused :
    let refused (want q : Nat) : Option Word := match ((stQ q).takeId want 0 0 8).2 with
      | .ok _ => none
      | .error r => some r
    refused 5 1 = some (-1) ∧ refused 4 1000 = some (-2)
      ∧ ((stS [] .retired id).stream 4).gone = true ∧ ((stS [] .admitted id).stream 4).gone = false
      ∧ (({ stS [] .admitted id with nodes := [(1, { refcnt := 65535, owner := 0, leaf := false, entries := [] })] } : State).node 1).refcnt = 65535 := by
  decide +kernel
theorem test_witness_StreamBindingAndPlaces :
    let s := stS [(1, 1)] .admitted id
    s.Names (handleOf 4 1) 4 ∧ (Issues (.sbind (rw 0 0 0 2)) s ∧ (s.stream 4).gone = false ∧ max s.mine.h 3 + 1 < clockLimit)
    ∧ Issues (.sbind (rw 0 0 5 2)) s
    ∧ (let t := s.onMine (fun c => { c with stream := handleOf 4 1 })
       Issues (.pplace (rw 0 1 5 2)) t ∧ placeArgOk 0 1 = true ∧ (t.stream 4).state ≠ .frozen)
    ∧ (∀ n ∈ [(0 : BitVec 4), 2, 3], Issues (.squery ⟨n, 0, 0, 2, .word⟩) s) ∧ (∀ n ∈ [(1 : BitVec 4), 6], Issues (.squery ⟨n, 1, 0, 2, .word⟩) s)
    ∧ Issues (.squery (rw 4 0 5 2)) s ∧ Issues (.squery (rw 5 0 0 2)) (stA []) ∧ placeOk 0 = true :=
  ⟨test_handle_names _ (by decide +kernel), by decide +kernel⟩
theorem test_witness_StreamStepAndQueue :
    let s := stS [(1, 5)] .admitted id
    s.Names (handleOf 4 1) 4 ∧ (∀ n ∈ [(0 : BitVec 4), 1, 2, 4], Issues (.sstep ⟨n, 1, 0, 2, .word⟩) s) ∧ Issues (.sstep (rw 3 0 0 2)) s
      ∧ (s.stream 4).state ≠ .frozen ∧ s.mine.l + 1 < clockLimit
    ∧ (Issues (.apush (rw 1 1 0 2)) s ∧ (s.stream 4).held < 2 ^ (s.stream 4).qlog)
    ∧ (let t := stS [(1, 5)] .admitted (fun d => { d with qtail := 4 })
       Issues (.apush (rw 1 1 0 2)) t ∧ 2 ^ (t.stream 4).qlog ≤ (t.stream 4).held ∧ Issues (.apop (rw 0 0 0 2)) t ∧ (t.stream 4).held ≠ 0)
    ∧ (Issues (.apop (rw 1 0 0 2)) s ∧ (s.stream 4).held = 0 ∧ max s.mine.h 3 + 1 < clockLimit) :=
  ⟨test_handle_names _ (by decide +kernel), by decide +kernel⟩
theorem test_witness_TruncateStream :
    let q (d : Stream) : Stream := { d with qtail := 2 }
    let s := { stS [(1, 0), (3, 3)] .admitted q with
      mem := memOf (pageTable ++ [(0x408, 1), (0x418, 5)]), owners := [(0, { root := 0x1000 })] }
    s.Names (handleOf 4 1) 4 ∧ (let i := Instr.strunc ⟨0, 1, 0, 2, .ext (xw 0 0 0 3 0)⟩
     let c := (((s.begun i).pull 0).2.pull 1).2.pull 3
     let t := c.2.stepped 4
     Issues i s ∧ (s.stream 4).state = .admitted ∧ c.1.toNat = 3 ∧ c.1.toNat ≤ (s.stream 4).steps ∧ (s.stream 4).held = 2 ∧ (s.descPlaced 4).2 + 1 < clockLimit
      ∧ c.2.lookDword 0 ((s.stream 4).entryAddr ((0 + 0) % 2 ^ 24) + 8) = .ok 1 ∧ c.2.lookDword 0 ((s.stream 4).entryAddr ((0 + 1) % 2 ^ 24) + 8) = .ok 5
      ∧ t.mapped 4 = [] ∧ t.cur = s.cur ∧ t.pageAt 4 0 = none) :=
  ⟨test_handle_names _ (by decide +kernel), by decide +kernel⟩
theorem test_witness_TruncateStream_tail :
    let p (s : State) : State := { s with
      nodes := [(1, { refcnt := 1, owner := 0, leaf := false, entries := [(0, 2)] }), (2, { refcnt := 1, owner := 0, leaf := true, entries := [(0, 3), (7, 5)] })]
      pages := [(3, { refcnt := 1, loc := .hbm, owner := 0 }), (5, { refcnt := 1, loc := .hbm, owner := 0 })] }
    let s := p (stS [(1, 4095)] .admitted id)
    let m := clearTail 4 0 4095 3 0 0
    (s.mapped 4 = [0, 7] ∧ s.pageAt 4 0 = some 3 ∧ s.copyWaits 4 7 = false ∧ (ran m s).cur = s.cur) ∧ Does m s () (ran m s) :=
  ⟨by decide +kernel, does_of (by decide +kernel)⟩
theorem test_witness_StreamEnds :
    let s := stS [(1, 0), (3, 0)] .admitted id
    s.Names (handleOf 4 1) 4
    ∧ (Issues (.sret (rw 0 1 0 2)) s ∧ (s.stream 4).gone = false ∧ (s.descPlaced 4).2 + 1 < clockLimit ∧ (s.group (4 % 4) (s.stream 4).jgroup).state ≠ .opened)
    ∧ (let g := { stS [(1, 0)] .running (fun d => { d with jgroup := 6 }) with groups := [(6, { state := .opened, cfg := 1 })] }
       Issues (.sret (rw 0 1 0 2)) g ∧ (g.group (4 % 4) 6).state = .opened ∧ (g.group (4 % 4) 6).rets.length < (g.group (4 % 4) 6).cfg.toNat % 2 ^ 16)
    ∧ (let z := ((((s.begun (.sret (rw 1 0 0 2))).pull 0).2.stepped 4).retire 4 false)
       Issues (.sret (rw 1 0 0 2)) s ∧ z.cur = s.cur)
    ∧ (let g := { stA [(0, 6), (1, 0x40)] with groups := [(6, { state := .opened })] }
       Issues (.join (rw 0 1 0 2)) g ∧ Issues (.join (rw 1 0 0 2)) g ∧ Issues (.join (rw 2 0 0 2)) g ∧ Issues (.join (rw 3 0 0 2)) (stA [(0, 6)])
        ∧ (g.group 0 6).state = .opened ∧ ((stA [(0, 6)]).group 0 6).state = .free
        ∧ (let z := { g with mem := memOf pageTable, owners := [(0, { root := 0x1000 })] }.onMine (fun c => { c with l := 1 })
           (z.resolve 0 6 (some 0)).2.isSome = true))
    ∧ (let m := stS [(1, 5), (3, 0)] .admitted id
       let f := stS [(1, 5), (3, 0)] .frozen id
       let i := Instr.smigr ⟨0, 1, 0, 2, .ext (xw 0 0 0 3 0)⟩
       Issues i m ∧ m.transfers = [] ∧ Issues i f ∧ (f.stream 4).state = .frozen ∧ ((stS [] .running id).stream 4).state = .running
        ∧ (m.freeze 4).cur = m.cur) :=
  ⟨test_handle_names _ (by decide +kernel), by decide +kernel⟩
/-- The block of two dwords that JOIN.init reads: a configuration in range. -/
theorem test_witness_JoinInstruction :
    let s := { stM [(0, 6), (1, 0x40)] with mem := [(0x40, 2)] }
    let i := Instr.join (rw 0 1 0 2)
    let b := ((s.begun i).pull 0).2.pull 1
    let m := loadDwords 0x40 (envOf s 0 0 i) 2
    (Issues i s ∧ (got m b.2).headD 0 = 2 ∧ (ran m b.2).cur = s.cur ∧ (ran m b.2).mine.l + 1 < clockLimit) ∧ Does m b.2 (got m b.2) (ran m b.2) :=
  ⟨by decide +kernel, does_of (by decide +kernel)⟩
theorem test_step_join : steps (exec (.join (rw 2 0 0 2)) { stA [(0, 6)] with groups := [(6, { state := .opened, cfg := 3, rets := [(1, (1, 5))] })] })
    (fun t => decide (t.mine.s 2 = 0x100030001)) = true := by decide +kernel

/-! ### Witnesses and single steps: row E and the sampler -/

theorem test_witness_TrapEntries :
    let c := (stC (fun c => { c with tvec := 0x40, wbase := 1856 }) []).ctx 0 0
    (c.intrap = false ∧ c.tvec ≠ 0 ∧ c.wbase + 32 ≤ 1888) ∧ 1888 < ((stC (fun c => { c with tvec := 0x40, wbase := 1888 }) []).ctx 0 0).wbase + 32
      ∧ ((stA []).ctx 0 0).tvec = 0 ∧ ((stC (fun c => { c with intrap := true }) []).ctx 0 0).intrap = true := by decide +kernel
/-- A TRAP into a handler: the frame, the registers and the window (R412, R413, R427). -/
theorem test_step_trap : steps (exec (.trap ⟨0x1F8, 0, 0, .word⟩) (stC (fun c => { c with tvec := 0x40, h := 6, l := 9, wbase := 3 }) [(3, 0x55)])) (fun t =>
    decide (t.mine.pc = 0x40) && decide (t.mine.tcause = 0x1F8) && decide (t.mine.epc = 4) && decide (t.mine.tval = 0x55) && decide (t.mine.wbase = 35)
      && t.mine.intrap && decide ((List.range 6).map (((t.core 0).frame 0).get 0) = [0x1F8, 4, 0x55, 3, 9, 6])) = true := by decide +kernel
theorem test_step_brk : steps (exec (.brk ⟨7, 0, 0, .word⟩) (stC (fun c => { c with tvec := 0x40 }) [])) (fun t => decide (t.mine.tcause = 0x1E1)
    && decide (t.mine.tval = 7) && decide (t.mine.epc = 4)) = true := by decide +kernel
/-- HALT goes to the launch's record even where a handler is set (R415, R431). -/
theorem test_step_halt : steps (exec (.halt (rw 0 0 0 0)) { stN (fun c => { c with tvec := 0x40 }) with launches := [(3, { state := .running, epoch := 1 })] })
    (fun t => decide ((t.launch 3).state = .stopping) && decide ((t.launch 3).ecode = 0x14) && decide ((t.launch 3).utcause.toNat % 512 = 0x1E6)
      && decide ((t.launch 3).utval = 0x40)) = true := by decide +kernel
theorem test_witness_TrapInstructions :
    Issues (.trap ⟨0x1F8, 0, 0, .word⟩) (stA []) ∧ Issues (.brk ⟨7, 0, 0, .word⟩) (stA []) ∧ Issues (.halt (rw 0 0 0 0)) (stA [])
      ∧ Issues (.eret (rw 0 0 0 0)) (stA []) ∧ (stA []).mine.intrap = false
      ∧ (let s := stC (fun c => { c with intrap := true }) []
         Issues (.eret (rw 0 0 0 0)) s ∧ s.mine.intrap = true) := by decide +kernel
theorem test_step_eret : steps (exec (.eret (rw 0 0 0 0)) ((stC (fun c => { c with intrap := true, epc := 0x84, wbase := 35 }) []).putFrame 0 0 [(3, 3)])) (fun t =>
    decide (t.mine.pc = 0x84) && decide (t.mine.wbase = 3) && !t.mine.intrap) = true := by decide +kernel
theorem test_witness_SpecialRegisters :
    (Issues (.sysr ⟨8, 0, 2, .word⟩) (stA []) ∧ (((stA []).begun (.sysr ⟨8, 0, 2, .word⟩)).sreg 0 0 8).isSome = true)
    ∧ (∀ n ∈ [(0x010 : BitVec 10), 0x011, 0x012, 0x013, 0x018, 0x020, 0x021, 0x029, 0x02A, 0x034, 0x037, 0, 0x014, 0x11F],
        Issues (.sysw ⟨n, 0, 0, .word⟩) (stA [(0, 0x40)]))
    ∧ (stA [(0, 0x40)]).mine.s 0 = 0x40 ∧ (stA []).mine.s 0 = 0 ∧ (stA [(0, 0x41)]).mine.s 0 = 0x41 ∧ ((stA []).core 0).domain = none
    ∧ ((stD [] {}).core 0).domain ≠ none ∧ Issues (.sysw ⟨0x010, 0, 0, .word⟩) (stA [(0, 0x41)]) := by decide +kernel
theorem test_step_sysr : steps (exec (.sysr ⟨8, 0, 2, .word⟩) (stC (fun c => { c with l := 77 }) [])) (fun t => decide (t.mine.s 2 = 77)) = true := by
  decide +kernel
theorem test_step_sysw : steps (exec (.sysw ⟨0x018, 0, 0, .word⟩) (stA [(0, 0x305)])) (fun t => decide (t.mine.racemode = 0x605)) = true := by decide +kernel
theorem test_witness_JournalAndDebug :
    let j (e : JEntry) : State :=
      { State.reset with cores := [(0, { ctxs := [(0, onLaunch3 (ctxOf .a [(0, 1)]))], journal := [(1, { e with org := { slot := 3, epoch := 1 } })] })] }
    let p := j { state := .pending }
    let r := j { state := .refused }
    (∀ n ∈ [(0 : BitVec 4), 1, 2], Issues (.jrnl ⟨n, 0, 0, 2, .word⟩) p) ∧ p.mine.launch = some (3, 1)
    ∧ ((p.core 0).journal.get {} 1).state ≠ .free ∧ Issues (.jrnl (rw 3 0 0 2)) r ∧ ((r.core 0).journal.get {} 1).state = .refused
    ∧ (Issues (.jrnl (rw 0 0 0 2)) (stA [(0, 32)]))
    ∧ (Issues (.trace (rw 0 0 0 0)) (stA []) ∧ Issues (.trace (rw 1 0 0 2)) (stA []) ∧ Issues (.trace (rw 2 0 0 2)) (stA []) ∧ Issues (.trace (rw 3 0 0 2)) (stA [(0, 511)]))
    ∧ (∀ n ∈ [(0 : BitVec 4), 1, 2], Issues (.trig ⟨n, 0, 0, 0, .word⟩) (stA [])) ∧ ((stA []).coresOf (stA []).mine.launch) = [0]
    ∧ (Issues (.watch (rw 0 1 0 2)) (stA [(0, 0x40)]) ∧ completes (watchObject 0x40 false (envOf (stA [(0, 0x40)]) 0 0 (.watch (rw 0 1 0 2)))) (stA [(0, 0x40)]) = true)
    ∧ (Issues (.watch (rw 1 0 0 2)) (stA [(0, 3)]) ∧ Issues (.watch (rw 2 0 0 2)) (stA [(0, 3)])) := by decide +kernel
theorem test_step_jrnl : steps (exec (.jrnl (rw 2 0 0 2))
      { State.reset with cores := [(0, { ctxs := [(0, onLaunch3 (ctxOf .a [(0, 1)]))], journal := [(1, { state := .refused, value := 9, org := { slot := 3, epoch := 1 } })] })] })
    (fun t => decide (t.mine.s 2 = 9)) = true := by decide +kernel

/-- Die 0's sampler with an instance of launch 0 in context 0: 8 entries, a program of 8 words. -/
def smpC (w : Table Lane) : SmpCtx :=
  { ticket := 5, owner := 0, prog := 0x400, words := List.replicate 8 0, w := w, key := 0x123456789ABCDEF0, pos := 0x1234567890, draw := 0xABCDEF, base := 16,
    count := 8, stepat := 0, l := 4, h := 2
    entry := { slot := 0, epoch := 1, node := 1, addr := 0, words := [6, 0, 0, 0, 8], succ := [], kind := 6, prio := 0, ready := 0, p := 0, stream := none } }
def stSmp (w : Table Lane) (cands : List Word) : State :=
  { mapped (stA []) with samplers := [(0, { ctxs := [(0, smpC w)], cands := cands.zipIdx.filterMap (fun p => if p.1 = 0 then none else some (16 + p.2, p.1)) })] }
theorem test_witness_MicroResults : (stSmp [] []).Samples (smpC []) ∧ 7 < (smpC []).words.length ∧ (smpC []).words.length ≤ 8 := by
  unfold State.Samples; decide +kernel
/-- RNG of the counter 0x1234567890, 0xABCDEF under the key 0x123456789ABCDEF0, by a separate calculation of R457. -/
theorem test_step_smp_rng : steps (exec (.smpRng ⟨2, 0, 0, 0, 0⟩) (stSmp [] [])) (fun t =>
    decide (((t.smpCtx 0 0).map (fun c => (c.reg 2, c.draw, c.pc))) = some (0xA33AC553, 0xABCDF0, 1))) = true := by decide +kernel
theorem test_step_smp_loop : steps (exec (.smpLoop ⟨0, 2, 0, 0, 7⟩) (stSmp [(2, 2)] [])) (fun t =>
    decide (((t.smpCtx 0 0).map (fun c => (c.reg 2, c.pc))) = some (1, 7))) = true := by decide +kernel
theorem test_step_smp_csortk : steps (exec (.smpCsortk ⟨0, 2, 3, 0, 0⟩) (stSmp [(3, 3)] [0x3F80000000000001, 0x4000000000000002, 0x3F80000000000000])) (fun t =>
    decide ((t.sampler 0).slots (smpC []) 0 3 = [0x4000000000000002, 0x3F80000000000000, 0x3F80000000000001])) = true := by decide +kernel
theorem test_step_smp_emit : steps (exec (.smpEmit ⟨0, 2, 0, 0, 0⟩) (stSmp [] [0x3F80000000000001])) (fun t =>
    decide (((t.smpCtx 0 0).map (·.emits)) = some [(0x3F800000, 1, 0xABCDEF)])) = true := by decide +kernel
theorem test_step_smp_cand : steps (exec (.smpEmit ⟨0, 2, 0, 0, 0⟩) (stSmp [(2, 8)] [])) (fun t => decide ((t.smpCtx 0 0) = none)) = true := by decide +kernel
/-- Whether accesses of the sampler went through, wait, or failed. -/
def smpKind {α : Type} (r : State × SmpGot α) : Nat :=
  match r.2 with
  | .ok _ _ => 0
  | .pending => 1
  | .fail _ _ => 2
theorem test_witness_MicroCandidateMemory :
    let s := stSmp [(2, 0x40), (3, 2)] [1, 2]
    let c := smpC [(2, 0x40), (3, 2)]
    let o := { c.past.op 0 false with xfail := c.xfail }
    let rd := (List.range 2).map (fun i => (0x40 + 4 * i, 4))
    let wr := (List.range 2).map (fun i => (0x40 + 8 * i, bytesOfNat 8 ((s.sampler 0).slot c (0 + i)).toNat))
    s.Samples c ∧ (s.launch 0).rmode = false ∧ (c.reg 3).toNat = 2 ∧ (c.reg 2).toNat = 0x40 ∧ (c.reg 0).toNat = 0 ∧ c.count = 8
      ∧ regionOf 0x40 ≠ none ∧ regionOf 0x00FF000000000000 = none
      ∧ smpKind (s.smpRead o rd) = 0 ∧ smpKind ({ s with tlbs := [] }.smpRead o rd) = 1 ∧ smpKind ({ s with poison := [1] }.smpRead o rd) = 2
      ∧ smpKind (s.smpWrite o none wr) = 0 ∧ smpKind ({ s with tlbs := [] }.smpWrite o none wr) = 1
      ∧ smpKind (s.smpWrite o none [(0x00F0000000000000, bytesOfNat 8 0)]) = 2 := by
  unfold State.Samples; decide +kernel
theorem test_witness_MicroCandidateRanges :
    let w : Table Lane := [(1, 8), (2, 6), (3, 2)]
    let full : SmpCtx := { smpC w with emits := List.replicate 16 (0, 0, 0) }
    (stSmp w [1, 2]).Samples (smpC w) ∧ (smpC w).count = 8 ∧ (smpC w).reg 1 = 8 ∧ (smpC w).reg 2 = 6 ∧ (smpC w).reg 3 = 2
      ∧ (smpC w).emits.length < 16 ∧ State.Samples { stSmp w [] with samplers := [(0, { ctxs := [(0, full)] })] } full ∧ 16 ≤ full.emits.length := by
  unfold State.Samples; decide +kernel
theorem test_witness_MicroGenerator :
    let spent : SmpCtx := { smpC [(2, 256)] with draw := 2 ^ 24 - 1 }
    (stSmp [(2, 255), (3, 0xFFFFFF)] []).Samples (smpC [(2, 255), (3, 0xFFFFFF)]) ∧ (smpC [(3, 0xFFFFFF)]).draw < 2 ^ 24 - 1
      ∧ State.Samples { stSmp [] [] with samplers := [(0, { ctxs := [(0, spent)] })] } spent ∧ 2 ^ 24 - 1 ≤ spent.draw
      ∧ 256 ≤ (spent.reg 2).toNat ∧ ((smpC [(3, 0xFFFFFF)]).reg 3).toNat < 2 ^ 24 := by
  unfold State.Samples; decide +kernel
/-- The sampler with an instance that HALT ends, and another state of its streams. -/
def stHalts (f : SmpCtx → SmpCtx) (m : State → State) : State := m { stSmp [] [] with samplers := [(0, { ctxs := [(0, f (smpC []))] })] }
theorem test_witness_MicroHalt :
    let c := smpC []
    let e : SmpCtx := { c with emits := [(1, 2, 3)] }
    let o (c : SmpCtx) := { ({ c.past with l := c.l + 1 }.op 0 false) with xfail := c.xfail }
    let parts (c : SmpCtx) (f : Nat → Nat) := { c.past with l := c.l + 1 }.entryParts f
    let onStream (c : SmpCtx) : SmpCtx := { c with entry := { c.entry with stream := some (0x1000004) } }
    let lives (held : Nat) (s : State) : State :=
      { s with streams := [(4, { gen := 1, used := true, state := .running, qbase := 0x200, qlog := 1, qtail := held })] }
    (0x1000004 : Word).toNat % 2 ^ 24 = 4 ∧ (0x1000004 : Word).toNat / 2 ^ 24 % 256 = 1 ∧ (stSmp [] []).Samples c ∧ c.l + 1 < clockLimit ∧ c.entry.stream = none ∧ (c.entry.record.kd 5).toNat = 0 ∧ c.emits = []
      ∧ smpKind ((stSmp [] []).smpWrite (o c) (some c.l) (parts c (fun e => 16 * e))) = 0
      ∧ (let b : SmpCtx := { e with entry := { e.entry with words := [6, 0, 0, 0, 8, 0, 0, 0x200] } }
         (stHalts (fun _ => b) id).Samples b ∧ (b.entry.record.kd 5).toNat = 0x200
          ∧ smpKind ((stHalts (fun _ => b) id).smpWrite (o b) (some b.l) (parts b (fun e => (0x200 + 16 * e) % 2 ^ 64))) = 0
          ∧ smpKind ((stHalts (fun _ => b) (fun s => { s with tlbs := [] })).smpWrite (o b) (some b.l) (parts b (fun e => (0x200 + 16 * e) % 2 ^ 64))) = 1)
      ∧ (stHalts (fun _ => e) id).Samples e ∧ e.emits ≠ []
      ∧ clockLimit ≤ ({ c with l := clockLimit - 1 } : SmpCtx).l + 1
      ∧ (let t := stHalts (fun _ => onStream e) (lives 1)
         let n := stHalts (fun _ => onStream e) (lives 2)
         t.Samples (onStream e) ∧ n.Samples (onStream e) ∧ (t.stream 4).state = .running
          ∧ (t.stream 4).held + 1 ≤ 2 ^ (t.stream 4).qlog ∧ 2 ^ (n.stream 4).qlog < (n.stream 4).held + 1
          ∧ smpKind (t.smpWrite (o (onStream e)) (some e.l) (parts (onStream e) (fun i => (t.stream 4).entryAddr ((t.stream 4).qtail + i)))) = 0)
      ∧ ((stHalts (fun _ => onStream e) id).stream 4).state ≠ .running := by
  unfold State.Samples; decide +kernel
theorem test_witness_SamplerEvents :
    let c : SmpCtx := { smpC [(2, 0x40)] with words := [] }
    let s (f : SmpCtx → SmpCtx) (v : Byte) : State :=
      { stSmp [] [] with samplers := [(0, { ctxs := [(0, f c)] })], mem := if v = 0 then [] else [(0x400, v)] }
    let o := c.op 0 false
    let z := s id 1
    z.smpCtx 0 0 = some c ∧ field (c.entry.record.kd 2) 0 16 ≠ 0 ∧ c.prog.toNat % 8 = 0 ∧ c.ran < 2 ^ 20 ∧ z.smpCtx 0 1 = none
      ∧ smpKind ({ z with tlbs := [] }.smpRead o [(0x400, 8)]) = 1 ∧ smpKind ({ z with poison := [16] }.smpRead o [(0x400, 8)]) = 2
      ∧ (match z.smpRead o [(0x400, 8)] with
          | (u, .ok b l) => decide (natOfBytes b = 1) && decide (smpKind (u.smpRead { o with l := l } [(0x408, 4)]) = 0)
          | _ => false) = true
      ∧ (match (s id 0).smpRead o [(0x400, 8)] with | (_, .ok b _) => decide (natOfBytes b = 0) | _ => false) = true
      ∧ field ((({ c with entry := { c.entry with words := [6] } } : SmpCtx)).entry.record.kd 2) 0 16 = 0
      ∧ (({ c with prog := 4 } : SmpCtx)).prog.toNat % 8 ≠ 0 ∧ 2 ^ 20 ≤ (({ c with ran := 2 ^ 20 } : SmpCtx)).ran := by decide +kernel
/-! ### Witnesses and single steps: the host, power and errors -/

/-- READY, with owner 5 loaded and its launch slot 3 set up. -/
def stHost (f : Launch → Launch) : State :=
  { State.reset with dev := { ready := true }, owners := [(5, { loaded := true, quota := 100 })], launches := [(3, f { lctl := 5, lgraph := 0x4000 })] }
theorem test_witness_LaunchSlots :
    let s := stHost id
    let r := stHost (fun l => { l with state := .running })
    let t := stHost (fun l => { l with state := .stopping })
    ((s.launch 3).state = .idle ∧ s.dev.ready = true ∧ s.dev.tripped = false ∧ s.dev.pwrCur = 0 ∧ (s.launch 3).lctl.toNat % 64 = 5
      ∧ (s.owner 5).loaded = true ∧ (s.launch 3).regsBad = false)
    ∧ ((stHost (fun l => { l with lctl := 4 })).owner 4).loaded = false ∧ ((stHost (fun l => { l with lgraph := 1 })).launch 3).regsBad = true
    ∧ (r.launch 3).state = .running ∧ (t.launch 3).state = .stopping ∧ State.reset.dev.ready = false := by decide +kernel
theorem test_step_go : steps (exec (.lgoGo 3) (stHost id)) (fun t => decide ((t.launch 3).state = .running) && decide ((t.launch 3).epoch = 1)
    && decide (t.dev.epoch = 1)) = true := by decide +kernel
theorem test_step_go_early : steps (exec (.lgoGo 3) State.reset) (fun t => (t.launch 3).golost) = true := by decide +kernel
theorem test_step_stop : steps (exec (.lgoStop 3) (stHost (fun l => { l with state := .running }))) (fun t => decide ((t.launch 3).state = .stopping)
    && decide ((t.launch 3).ecode = 0x10)) = true := by decide +kernel
theorem test_witness_HostWrites :
    let s := stHost id
    let c (n : Nat) : State := { s with chans := [(7, { staged := [(0, BitVec.ofNat 64 n)], next := some [(0, 1)] })] }
    let w (n : Nat) := ((List.range 32).filter (fun i => (((c n).chan 7).staged.get 0 (i / 8)).toNat / 2 ^ (8 * (i % 8)) % 256 / 64 = 1)).length
    (∀ e ∈ s.launches, s.launch e.1 = e.2) ∧ (∃ e ∈ (stHost (fun l => { l with state := .running })).launches, e.2.state = .running)
      ∧ w 0x40 = 1 ∧ w 0x4040404040404040 = 8 ∧ w 0 = 0 ∧ ((c 0).chan 7).next = some [(0, 1)]
      ∧ (let f : HeldFault := { page := 1, owner := 5, va := 0x10000, agent := 0, kind := 0, slot := 3, tag := 9, posted := true, waiters := [] }
         let h := { s with held := [f] }
         h.held.find? (fun f => f.posted && decide (f.tag = 9)) = some f ∧ h.transfers = [] ∧ s.held = []) := by decide +kernel
theorem test_step_registerWrite : steps (exec (.registerWrite 0x100300 true 0x4040) State.reset) (fun t => decide ((t.launch 3).lgraph = 0x4040)) = true := by
  decide +kernel
/-- 32 staged slots of which none writes: COMMIT sets ERR (R279). -/
theorem test_step_commit : steps (exec (.slotctlCommit 7) State.reset) (fun t => (t.chan 7).err) = true := by decide +kernel
theorem test_witness_BootAndHostMemory :
    let img : BootImage := { readable := true, ecdsaOk := true, lmsOk := true, secVer := Config.fusedMinimum, hbmTrains := true, fwver := 0x02010000, newLmsKey := false }
    State.reset.dev.image = none ∧ (img.readable = true ∧ img.ecdsaOk = true ∧ img.lmsOk = true ∧ Config.fusedMinimum ≤ img.secVer ∧ img.hbmTrains = true)
    ∧ img.fwver.toNat / 65536 = 0x0201 ∧ (bootFails { img with readable := false }).isSome = true :=
  ⟨rfl, ⟨rfl, rfl, rfl, Nat.le_refl _, rfl⟩, by decide +kernel, rfl⟩
theorem test_witness_BootAndHostMemory_access :
    let s := { stHost id with dev := { ready := true, hdmown := 0x500, lmsLeft := 9 } }
    let late : State := { s with hostClk := clockLimit }
    let held : State := { s with lines := [(hbmKey 0x38 / 64, { held := some (.engine 4) })] }
    (s.mem.wf = true ∧ s.dev.tripped = false ∧ s.dev.pwrCur ≠ 2 ∧ (s.owner (s.dev.hdmown.toNat / 2 ^ (8 * 1) % 64)).loaded = true
      ∧ hdmExposed 0x38 8 = true ∧ s.engineHolds (hbmKey 0x38 / 64) = false
      ∧ (s.hostAccess (hbmKey 0x38) 8 false).isSome = true ∧ (s.hostAccess (hbmKey 0x38) 8 true).isSome = true
      ∧ (s.owner (s.dev.hdmown.toNat % 64)).loaded = false ∧ late.hostAccess (hbmKey 0x38) 8 false = none ∧ held.engineHolds (hbmKey 0x38 / 64) = true)
    ∧ (s.engineHolds (hostKey 0x40 / 64) = false ∧ (s.hostAccess (hostKey 0x40 / 64 * 64) 64 true).isSome = true
      ∧ late.hostAccess (hostKey 0x40 / 64 * 64) 64 true = none ∧ ({ s.dev with hostReqs := [3] } : Device).hostReqs = 3 :: [])
    ∧ s.dev.lmsLeft ≠ 0 ∧ ({ s.dev with lmsLeft := 0 } : Device).lmsLeft = 0
    ∧ (s.owner 5).resv = 0 ∧ (∀ e ∈ s.launches, e.2.state ≠ .running ∧ e.2.state ≠ .stopping)
    ∧ (∃ e ∈ (stHost (fun l => { l with state := .running })).launches, (e.2.state = .running ∨ e.2.state = .stopping) ∧ (e.2.owner = 5 ∨ e.2.lctl.toNat % 64 = 5)) := by
  decide +kernel
/-- No address of 2^56 or more is exposed, however much memory there is (R99). -/
theorem test_hdmExposed_limit : hdmExposed (2 ^ 56) 1 = false := by
  simp only [hdmExposed, Bool.and_eq_false_iff, decide_eq_false_iff_not]; omega
theorem test_step_hostRead : steps (exec (.hostCxlMemRead 1 0x38 8) { stHost id with
      dev := { ready := true, hdmown := 0x500 }, mem := Memory.putBytes [] (hbmKey 0x38) [1, 2, 3, 4, 5, 6, 7, 8] }) (fun t =>
    decide (t.dev.hostData = [1, 2, 3, 4, 5, 6, 7, 8]) && !t.dev.hostBad) = true := by decide +kernel
theorem test_step_ownerKeyLoad : steps (exec (.ownerKeyLoad 9 7) (stHost id)) (fun t => (t.owner 9).loaded && decide (t.dev.answer = 1)) = true := by
  decide +kernel
theorem test_witness_PowerAndErrors :
    let s := stHost id
    let p (f : Device → Device) : State := { s with dev := f s.dev }
    (s.dev.cgate.contains 9 = false ∧ s.dev.gated.contains 9 = false ∧ s.clusterBusy 9 = false ∧ (s.dispatchFirst 9).clusterBusy 9 = false ∧ s.quiescent = true ∧ s.dev.pwrBusy = false)
    ∧ (p (fun d => { d with cgate := [9], gated := [9] })).dev.cgate.contains 9 = true
    ∧ (let b := { s with cores := [(0, { ctxs := [(0, ctxOf .a [])] })] }
       b.clusterBusy 0 = true ∧ (stHost (fun l => { l with state := .running })).quiescent = false)
    ∧ (let t := p (fun d => { d with tripped := true, tj := 800 })
       t.dev.tripped = true ∧ t.dev.tj ≤ (t.dev.trip - 10) * 8 ∧ ¬ (p (fun d => { d with tj := 801 })).dev.tj ≤ (s.dev.trip - 10) * 8)
    ∧ (let b := p (fun d => { d with pwrBusy := true, pwrTarget := 2 })
       b.dev.pwrBusy = true ∧ b.dev.pwrTarget ≠ 0 ∧ b.quiescent = true)
    ∧ siteOk (.localWord 3 8) = true ∧ siteOk (.hbm 5) = true ∧ s.lmPoison.contains (localKey 3 8 / 4) = false
    ∧ s.dev.warn * 8 ≤ (BitVec.ofNat 16 760).toNat ∧ s.dev.trip * 8 ≤ (BitVec.ofNat 16 880).toNat
    ∧ (stHost (fun l => { l with state := .running })).launch 3 = { lctl := 5, lgraph := 0x4000, state := .running }
    ∧ unitExists (.copyEngine 511) = true ∧ 3 ∈ ({ s with jobs := [(511, [{ id := 4, words := [], issuer := .node 3 1 0, owner := 5, slot := 3, epoch := 0, stream := 0, p := 2, racemode := 0, pc := 0 }])] } : State).servedBy (.copyEngine 511)
    ∧ s.dev.life.get 0 54 < 2 ^ 64 - 1 ∧ s.dev.recovery = false := by decide +kernel
/-- One below the trip level of 110 degrees the part goes on (R514). -/
theorem test_step_thermalTrip : steps (exec (.thermalTrip 879) State.reset) (fun t => !t.dev.tripped && decide (t.dev.tj = 879)) = true := by decide +kernel
theorem test_step_thermalWarn : steps (exec (.thermalWarn 760) State.reset) (fun t => t.dev.warned && decide (t.dev.sent = [67])) = true := by decide +kernel
theorem test_step_pwrctl : steps (exec (.pwrctlTarget 1) State.reset) (fun t => t.dev.pwrBusy && decide (t.dev.pwrTarget = 1)) = true := by decide +kernel

/-! ### Witnesses and single steps: Caravan -/

/-- A graph at 0x8000 of two nodes: the header and a tile node with one predecessor. -/
def graph1 : List (Nat × Nat) := [(0x8000, 0x10000), (0x8008, 0xFFFFFFFFFFFF0001), (0x8010, 2), (0x8040, 0x80000101), (0x8048, 0xFFFFFFFFFFFFFFFF), (0x8050, 0x1000), (0x8058, 1)]
/-- Launch 3 of owner 5 runs that graph. -/
def stG (f : Launch → Launch) (m : List (Nat × Nat)) : State :=
  { State.reset with
    dev := { ready := true }, owners := [(5, { loaded := true, root := 0x1000 })], mem := memOf (pageTable ++ graph1 ++ m)
    launches := [(3, f { state := .running, epoch := 1, owner := 5, graph := 0x8000, nodes := 2 })] }
/-- A tile node's entry of launch 3. -/
def tileEntry (n : Nat) : PoolEntry :=
  { slot := 3, epoch := 1, node := n, addr := 0x8040, words := [0x80000101, 0xFFFFFFFFFFFFFFFF, 0x1000, 1], succ := [], kind := 1, prio := 0, ready := 0, p := 6, stream := none }
theorem test_step_walk : (stG id []).walk 5 0x8040 = .page 0xF true ∧ (stG id []).walk 5 0x200000 = .absent := by decide +kernel
theorem test_witness_CaravanEdges :
    let g (e : List EdgeRel) := stG (fun l => { l with edges := e, left := [(1, 2)] }) []
    let s := g [{ src := 0, node := 1, p := 9 }]
    (match s.nodeReady 3 1 9 with | .ok t => decide (((t.caravan 0).pool ++ (t.caravan 1).pool ++ (t.caravan 2).pool ++ (t.caravan 3).pool).length = 1) | .error _ => false) = true
    ∧ s.edgeInfo 3 2 1 = .ok (false, 1) ∧ (s.launch 3).state = .running ∧ (s.launch 3).nodes ≠ 0
    ∧ (match State.edgeInfo { s with mem := [] } 3 2 1 with | .absent _ => true | _ => false) = true
    ∧ (match s.nodeAt 3 0x8000 1 false with | .ok (.ok r) => (match s.placeRead 3 r with | .ok () => true | _ => false) | _ => false) = true
    ∧ 1 < (s.launch 3).left.get 1 1 ∧ ((stG id []).launch 3).left.get 1 1 = 1
    ∧ (stG (fun l => { l with state := .stopping, edges := [{ src := 0, node := 0, p := 9 }], nodes := 0 }) []).launch 3
      = { state := .stopping, epoch := 1, owner := 5, graph := 0x8000, nodes := 0, edges := [{ src := 0, node := 0, p := 9 }] } := by decide +kernel
theorem test_witness_CaravanEdges_full (e : PoolEntry) : 65536 ≤ ({ overflow := List.replicate 65536 e } : Caravan).overflow.length := by
  rw [List.length_replicate]
theorem test_witness_CaravanPools :
    let m := { tileEntry 1 with stream := some 5 }
    let g : Gang := { opened := 0, closed := false, max := 1, members := [m] }
    let c : Caravan := { gangs := [g], overflow := [tileEntry 2] }
    let s := { stG id [] with caravans := [(0, c)] }
    let i : Inst := { id := 1, die := 0, ticket := 1, entry := tileEntry 1, cores := [0], done := [0], p := 9, gslot := some 7, rows := [], unit := 0, dead := false, finished := true }
    (s.caravan 0).overflow = tileEntry 2 :: [] ∧ (s.caravan 0).size < 8192 ∧ c.gangs[0]? = some g ∧ g.members = m :: [] ∧ s.gangCloses g c = true
      ∧ c.gangs[1]? = none
      ∧ s.gangCloses { g with max := 2 } { c with pool := [{ m with node := 2, addr := 0x8080, kind := 8 }] } = false
      ∧ { c with insts := [i] }.insts.find? (fun i => i.finished && decide (i.gslot = some 7)) = some i := by decide +kernel
theorem test_witness_CaravanDispatches :
    let s := { stG id [] with caravans := [(0, { pool := [tileEntry 1], overflow := [tileEntry 2] })] }
    let t := { s with caravans := [(0, { pool := [{ tileEntry 1 with kind := 5, words := [5, 0, 0, 0, 8] }] })] }
    let h := { tileEntry 1 with words := [0x80000101, 0xFFFFFFFFFFFFFFFF, 0x1000, 80] }
    let w := { s with caravans := [(0, { pool := [h, { tileEntry 2 with ready := 1 }] })], dev := { s.dev with gated := [0] } }
    s.candidates 0 .cores = [.one (tileEntry 1)] ∧ (s.candidates 0 .cores).filter (fun c => !s.mapHeld c) = [.one (tileEntry 1)]
    ∧ (s.coreGroup 0 (.one (tileEntry 1)) (s.reservedElsewhere 0)).1.isSome = true ∧ (s.caravan 0).slotFree (.one (tileEntry 1)) = true
    ∧ (w.candidates 0 .cores).length = 2
    ∧ (t.candidates 0 .sampler).map (fun c => ((t.caravan 0).slotFree c, t.freeUnit 0 c)) = [(true, some 0)] ∧ t.candidates 0 .cores = [] := by decide +kernel
theorem test_witness_PowerAndErrors_dispatch :
    let s := { stG id [] with caravans := [(0, { pool := [tileEntry 1] })] }
    s.dev.cgate.contains 0 = false ∧ s.dev.gated.contains 0 = false ∧ s.clusterBusy 0 = false ∧ (s.dispatchFirst 0).clusterBusy 0 = true := by decide +kernel
theorem test_witness_CaravanEnds :
    let e := stG id []
    let w := stG (fun l => { l with edges := [{ src := 2, node := 1, p := 9 }] }) []
    e.workLeft 3 = false ∧ e.launchCtxs 3 = [] ∧ (e.launch 3).suspended = false ∧ (e.launch 3).state = .running ∧ w.workLeft 3 = true
      ∧ (e.flushLaunch 3).storesLeft 3 = false
      ∧ (let x := { e with array := [{ chan := 9, old := [], part := 0, near := false, core := 0, by_ := [{ ctx := 0, launch := some (3, 1), handle := none }] }] }
         x.workLeft 3 = false ∧ (x.flushLaunch 3).storesLeft 3 = true) := by decide +kernel
/-- The last edge of a node makes it ready with the greatest P of its edges (R114, R130). -/
theorem test_step_successorReady : steps (exec (.successorReady 3) (stG (fun l => { l with edges := [{ src := 2, node := 1, p := 4 }], left := [(1, 1)], ps := [(1, 9)] }) []))
    (fun t => decide ((([0, 1, 2, 3].flatMap (fun d => (t.caravan d).pool)).map (fun e => (e.node, e.p, e.kind))) = [(1, 9, 1)]) && decide ((t.launch 3).edges = []))
    = true := by decide +kernel
/-- A launch with no work left ends as done, with its completion record at its address (R112). -/
theorem test_step_launchEnd : steps (exec (.launchEnd 3) (stG (fun l => { l with comp := 0x80 }) [])) (fun t => decide ((t.launch 3).state = .done)
    && decide ((t.launch 3).ecode = 0) && decide ((t.launch 3).seq = 1)) = true := by decide +kernel
/-- A drive of launch 3. -/
def drive3 : Drive := { slot := 3, node := 1, epoch := 1, tpl := 0, tag := 0, root := 1, succ := [], limit := 0, result := 0, todo := [], taken := [], left := 2, skipped := 0, p := 4 }
theorem test_witness_EvaluatedNodes :
    let s := stG id [(0x200, 7)]
    let e (kind : Nat) (ks : List Word) : PoolEntry := { tileEntry 1 with kind := kind, words := [BitVec.ofNat 64 kind, 0] ++ ks, succ := [1, 1] }
    let p (x : PoolEntry) : State := { s with caravans := [(0, { pool := [x] })] }
    let reads (x : PoolEntry) : Nat :=
      match (p x).evalRead x 0x200 with
      | (_, .ok v _) => if v = 7 then 0 else 9
      | (_, .pending) => 1
      | _ => 2
    let c := e 8 [0x200, 7, 0]
    let w := e 10 [0x200, 7, 0]
    let l := { e 9 [0, 3, 0x00020002] with node := 1 }
    ((p c).evaluable 0 8 = [c] ∧ (p c).entryOk c = true ∧ reads c = 0 ∧ relHolds 0 7 7 = true ∧ (p { c with stream := some 0x1000004 }).entryOk { c with stream := some 0x1000004 } = false)
    ∧ (match ({ p c with mem := [] } : State).evalRead c 0x200 with | (_, .pending) => true | _ => false) = true
    ∧ ((p w).evaluable 0 10 = [w] ∧ reads w = 0)
    ∧ (((p l).evaluable 0 9).find? (fun e => e.stream.isSome || !(p l).bodyBusy e) = some l ∧ l.record.kd 0 = 0 ∧ ((p l).launch 3).loops.get 0 1 < 3
      ∧ ((p c).evaluable 0 9).find? (fun e => e.stream.isSome || !(p l).bodyBusy e) = none) := by decide +kernel
theorem test_witness_DriveEvents :
    let s := stG id []
    let n := { tileEntry 1 with kind := 4 }
    let held : State := { s with streams := [(4, { gen := 1, used := true, state := .ready, heldP := some 6, drive := some (3, 1), root := 1 })] }
    (s.launch 3).state = .running ∧ (s.launch 3).suspended = false ∧ ¬ ((s.retryHeld 3).heldStreams 3).length < (s.heldStreams 3).length
    ∧ ((({ s with drives := [{ drive3 with todo := [5] }] } : State)).retryHeld 3).drives.find? (fun d => decide (d.slot = 3) && decide (d.todo ≠ [])) = some { drive3 with todo := [5] }
    ∧ ({ s with drives := [drive3] }).drives.find? (fun d => decide (d.slot = 3) && decide (d.todo = []) && decide (d.taken = [])) = some drive3
    ∧ ((({ s with caravans := [(1, { pool := [n] })] } : State).retryHeld 3).caravan 1).pool.find? (fun e => decide (e.slot = 3) && decide (e.kind = 4)) = some n
    ∧ (match State.unitStore { s with free := s.free + 1 } (s.driveOp drive3) 0x200 (bytesOfNat 8 2) with | (_, .done _) => true | _ => false) = true
    ∧ (match State.unitStore { s with free := s.free + 1 } (s.driveOp { drive3 with p := clockLimit }) 0x200 (bytesOfNat 8 2) with | (_, .clock) => true | _ => false) = true
    ∧ ((held.retryHeld 3).heldStreams 3).length < (held.heldStreams 3).length := by
  decide +kernel
/-- A condition whose relation holds releases its first successor (R85, R128). -/
theorem test_step_conditionEval : steps (exec (.conditionEval 0) { stG id [(0x200, 7)] with
      caravans := [(0, { pool := [{ tileEntry 5 with kind := 8, words := [8, 0, 0x200, 7, 0], succ := [1, 2] }] })] }) (fun t =>
    decide ((t.launch 3).edges.map (fun e => (e.src, e.node)) = [(5, 1)]) && decide ((t.caravan 0).pool = [])) = true := by decide +kernel

/-! ### Witnesses and single steps: contexts and the memory system -/

theorem test_witness_ContextTimeouts :
    let w : NodeWait := { d := 2, limit := some 0, next := 4 }
    let s := stC (fun c => { c with nwait := some w, waitFrom := some 0 }) []
    let f (q : BitVec 6) : FetchBlock := { va := 0, bytes := encodeBytes (.add (rw 0 1 q 2)) ++ List.replicate 60 0 }
    let blocks (c : Ctx) (q : BitVec 6) : Ctx := { onHandler c 0x40 with fbuf := [f q], qFrom := some 0, waitFrom := some 0 }
    let d := { withCtxs [blocks (onQ (ctxOf .a []) 0) 54, blocks (onQ (ctxOf .x []) 0) 50] with clk := 4096 }
    let bare (c : Ctx) : Ctx := { c with tvec := 0 }
    let n := { withCtxs [bare (blocks (onQ (ctxOf .a []) 0) 54), bare (blocks (onQ (ctxOf .x []) 0) 50)] with clk := 4096 }
    (s.ctx 0 0).nwait = some w ∧ w.limit = some 0 ∧ (s.ctx 0 0).arrived = none ∧ (s.ctx 0 0).live = true ∧ (s.ctx 0 0).resident = true
      ∧ (s.ctx 0 0).waitFrom.isSome = true
    ∧ ((stC (fun c => { c with yieldEnd := some 0 }) []).ctx 0 0).yieldEnd = some 0
    ∧ (match (d.core 0).blockedPair 0 with
        | some ((i, u), (j, _), t) => decide (t + 4096 ≤ d.clk) && ((d.deadlock 0 i u).ctx 0 j).live
        | none => false) = true
    ∧ (match (n.core 0).blockedPair 0 with
        | some ((i, u), (j, _), _) => !((n.deadlock 0 i u).ctx 0 j).live && (n.ctx 0 j).routes 0x0E1
        | none => false) = true := by decide +kernel
theorem test_witness_CachesOfContexts :
    let asks (c : Ctx) : Ctx := { c with fbuf := [{ va := 0, bytes := List.replicate 64 0, issued := true }], pc := 0 }
    let s := stC asks []
    let m := mapped s
    let e := stC (fun c => { c with poisoned := true }) []
    (s.ctx 0 0).live = true ∧ (s.ctx 0 0).resident = true ∧ (s.ctx 0 0).poisoned = false ∧ (e.ctx 0 0).poisoned = true
    ∧ (∀ b ∈ (s.ctx 0 0).fbuf, b.va ≠ blockOf 0x44) ∧ (s.ctx 0 0).requested (s.bqOf 0 0) (blockOf 0x44) = true
    ∧ (match m.fetchBlock 0 0 (blockOf 0x44) with | .bytes bs _ => decide (bs.length = 64) | _ => false) = true
    ∧ (match s.fetchBlock 0 0 (blockOf 0x00FF000000000044) with | .fault c _ => decide (c = 0x064) | _ => false) = true
    ∧ (match s.fetchBlock 0 0 (blockOf 0x44) with | .absent => true | _ => false) = true := by decide +kernel
theorem test_witness_AsynchronousTraps :
    let s := stC (fun c => { c with pend := [.copy false 9] }) []
    (s.ctx 0 0).pend = .copy false 9 :: [] ∧ (s.ctx 0 0).live = true ∧ (s.ctx 0 0).resident = true ∧ (s.ctx 0 0).intrap = false ∧ (s.ctx 0 0).mid = false
    ∧ ((stC (fun c => { c with pend := [.copy false 9], intrap := true }) []).ctx 0 0).intrap = true := by decide +kernel
/-- A pending copy error is taken with ASYNC set, and leaves the pending set (R410). -/
theorem test_step_async : steps (exec (.asyncTrapDelivery 0 0) (stC (fun c => { c with pend := [.copy true 9], tvec := 0x40 }) [])) (fun t =>
    decide (t.mine.tcause.toNat / 2 ^ 10 = 3) && decide (t.mine.tval = 9) && decide (t.mine.pend = []) && decide (t.mine.pc = 0x40)) = true := by decide +kernel
theorem test_step_yieldExpire : steps (exec (.yieldExpire 0 0) (stC (fun c => { c with yieldEnd := some 0 }) [])) (fun t => decide (t.mine.yieldEnd = none)) = true := by
  decide +kernel
theorem test_witness_Preemption :
    let s := { stN id with launches := [(3, { state := .running, epoch := 1, suspended := true })] }
    (s.launch 3).suspended = true ∧ (s.ctx 0 0).live = true ∧ (s.ctx 0 0).resident = true ∧ s.mustPark 0 0 = true ∧ s.exchanging 0 = false
      ∧ (s.ctx 0 0).mid = false ∧ (s.ctx 0 0).pend = []
    ∧ (let t := { stN (fun c => { c with parked := true, resident := false }) with launches := [(3, { state := .running, epoch := 1 })] }
       (t.ctx 0 0).parked = true ∧ (t.ctx 0 0).saved = false ∧ t.quiet 0 0 = true ∧ t.parker (t.ctx 0 0) = none ∧ (t.core 0).shared = false
        ∧ t.mustPark 0 0 = false ∧ (t.ctx 0 0).serves (3, (t.launch 3).epoch) = true)
    ∧ (let t := { stN (fun c => { c with parked := true, resident := false }) with launches := [(3, { state := .running, epoch := 1, suspended := true, share := true })] }
       t.quiet 0 0 = true ∧ t.parker (t.ctx 0 0) = some (3, true)
        ∧ (let u := t.onLaunch 3 (fun l => { l with suspended := false, share := false })
           u.mustPark 0 0 = false)
        ∧ (let u := t.onCore 0 (fun c => { c with shared := true }); (u.core 0).shared = true ∧ u.awaited 0 = false)) := by decide +kernel
theorem test_step_preemptPoint : steps (exec (.preemptPoint 0 0) { stN id with launches := [(3, { state := .running, epoch := 1, suspended := true })] }) (fun t =>
    !t.mine.resident && t.mine.parked) = true := by decide +kernel
theorem test_witness_HomeEvents :
    let q : HomeReq := { agent := 0, key := 0x40, va := 0x40, size := 8, lclk := 5, hzn := 3, epoch := 1, scope := 4, atomic := false, report := false }
    let p : HomeReq := { q with key := 5 * space }
    let s := State.reset
    let held : State := { s with lines := [(1, { held := some (.engine 4) })] }
    HomeReq.fits q = true ∧ HomeReq.fits { q with size := 0 } = false ∧ agentOk 0x020 = true ∧ agentOk 0x00D = false
      ∧ (match s.homePlace q false with | .ok _ => true | .error _ => false) = true
      ∧ (match s.homePlace q true with | .ok _ => true | .error _ => false) = true
      ∧ (match held.homePlace q true with | .ok _ => false | .error _ => true) = true
      ∧ (match State.homePlace { s with poison := [1] } q false with | .ok _ => false | .error _ => true) = true
      ∧ s.engineHolds 1 = false ∧ held.engineHolds 1 = true
      ∧ s.engineHolds (5 * space / 64) = false ∧ (s.line (5 * space / 64)).held = none ∧ keyChecked p.key false = false ∧ HomeReq.fits p = true
      ∧ s.homePageBusy p = false ∧ s.starves (s.homeOwner p) (5 * space / 64) = false ∧ (HomeReq.req p false).time (s.line (5 * space / 64)) < clockLimit ∧ s.poison.contains (5 * space / 64) = false
      ∧ agentCtx p.agent = some (0, 0) := by decide +kernel
theorem test_witness_WriteLaneEvents :
    let e : WlqEntry := { line := 1, bytes := [(0x40, 7)], ctx := 0, since := 0, departed := true, owner := 0 }
    let s (clk : Nat) (l : List WlqEntry) : State := { State.reset with clk := clk, cores := [(0, { wlq := l })] }
    let x : ArrayWrite := { chan := 9, old := [], part := 0, near := false, core := 0, by_ := [] }
    let h (a : List ArrayWrite) : State := { State.reset with array := a, chans := [(9, { next := some [(0, 0x40)] })] }
    ((s 64 [{ e with departed := false }]).core 0).wlq = [] ++ { e with departed := false } :: [] ∧ ((s 64 [e]).core 0).wlq = [e]
      ∧ e.since + 64 ≤ (s 64 [e]).clk ∧ ¬ e.since + 64 ≤ (s 63 [e]).clk
    ∧ ({ budget := 512, used := 600, log := 12, win := 0 : WriteLane }).win < 4096 / 2 ^ 12
    ∧ readyWrites 9 [] (h [x]).array = [x] ∧ ((h []).chan 9).slot = 0 ∧ ((h []).chan 9).donate = false
    ∧ (readyWrites 9 [] (h [x]).array).find? (fun w => decide (w.part = 0x40 % 8) && decide (0x40 / 64 = if w.near then 2 else 1)) = some x
    ∧ (readyWrites 9 [] (h [x]).array).find? (fun w => decide (w.part = 0x41 % 8) && decide (0x41 / 64 = if w.near then 2 else 1)) = none
    ∧ (h [{ x with chan := 513 }]).array.find? (fun w => w.chan = 512 + 1) = some { x with chan := 513 } := by decide +kernel
/-- A load by the writer's own agent at time 5 of a line written at 9 takes place at 9, under a lease of 64 (R326). -/
theorem test_step_homeLoad : steps (exec (.homeLoad { agent := 0, key := 0x40, va := 0x40, size := 8, lclk := 5, hzn := 3, epoch := 1, scope := 4, atomic := false, report := false })
    { stC (fun c => { c with l := 5 }) [] with lines := [(1, { wts := 9, rts := 9 })] }) (fun t => decide (t.mine.l = 9) && decide ((t.line 1).rts = 73) && decide ((t.line 1).wts = 9)) = true := by decide +kernel
/-- The window's end takes BUDGET off USED for each window (R275). -/
theorem test_writeWindow : (({ budget := 512, used := 600, log := 12, win := 0 : WriteLane }).sync 4096).used = 88
    ∧ (({ budget := 512, used := 600, log := 12, win := 0 : WriteLane }).sync 8192).used = 0 := by decide +kernel
theorem test_witness_WalksMovesImports :
    let s := stG id []
    regionOf 0x8040 = some .translated ∧ s.walk 5 0x8040 = .page 0xF true ∧ s.walk 5 0x200000 = .absent
      ∧ (stG id [(0x3000, 0x4031)]).walk 5 0x8040 = .malformed
    ∧ (let m : PageMove := { id := 1, page := 2, core := 0, ctx := 0, src := .hbm, dest := .erg 0 3, launch := none }
       let t := { State.reset with moves := [(0, [m])], pages := [(2, { refcnt := 1, loc := .moving 0, owner := 0 })] }
       t.moves.get [] 0 = m :: [] ∧ (t.page 2).refcnt ≠ 0)
    ∧ (State.reset.importStore 7 (hbmKey 0x40 / 64) (byteTable (hbmKey 0x40) [1, 2])).isSome = true
    ∧ State.importStore { State.reset with lines := [(hbmKey 0x40 / 64, { held := some (.engine 4) })] } 7 (hbmKey 0x40 / 64) (byteTable (hbmKey 0x40) [1, 2]) = none
    ∧ State.reset.homeCluster (hbmKey 0x40 / 64) / 128 < 4 := by decide +kernel
theorem test_witness_ImportedStores :
    State.reset.mem.wf = true ∧ (State.reset.line 1).held = none ∧ (State.reset.line 1).queue = [] ∧ (∀ g, (State.reset.core g).wlq = [])
      ∧ max (State.reset.imports.get 0 (State.reset.homeCluster 1 / 128)) ((State.reset.line 1).rts + 1) < clockLimit :=
  ⟨by decide +kernel, by decide +kernel, by decide +kernel, fun _ => rfl, by decide +kernel⟩
theorem test_witness_TraceDrain :
    let t : State := { State.reset with cores := [(0, { trace := { todo := [3] } })], sirocco := [(0, { base := 0x1000 })] }
    let f (n : Nat) : State := { State.reset with clk := 65536, sirocco := [(0, { base := 0x1000, tail := n, recs := [(0, (1, 2))] })] }
    (t.core 0).trace.todo = [3] ∧ (t.siroccoOf (dieOf 0)).ring ≠ 0
    ∧ ((f 0).siroccoOf 0).recs ≠ [] ∧ ((f 0).siroccoOf 0).since + 65536 ≤ (f 0).clk
    ∧ (((f 0).siroccoOf 0).tail + 65536 - ((f 0).siroccoOf 0).head) % 65536 ≠ ((f 0).siroccoOf 0).frames
    ∧ (((f 1).siroccoOf 0).tail + 65536 - ((f 1).siroccoOf 0).head) % 65536 = ((f 1).siroccoOf 0).frames
    ∧ ((f 0).siroccoOf 0).ring ≠ 0
    ∧ (let o : State := { State.reset with clk := 65536, sirocco := [(0, { recs := [(0, (1, 2))] })] }
       (o.siroccoOf 0).ring = 0 ∧ (o.siroccoOf 0).recs ≠ [] ∧ (o.siroccoOf 0).since + 65536 ≤ o.clk)
    ∧ State.reset.dev.lmtaken < 2 ^ 20 / 2 ^ 20 ∧ State.reset.dev.mapBase = 0
    ∧ (let m := { stHost id with clk := 2 ^ 20, dev := { lmbase := 0x20000, lmowner := 5 } }
       m.dev.mapBase ≠ 0 ∧ (m.owner m.dev.lmowner).loaded = true) := by decide +kernel
/-! ### Witnesses and single steps: the engines, the streams' units and the links -/

/-- An engine whose next macro-operation is given. -/
def engineWith (k : MacroKind) (f : MatrixEngine → MatrixEngine) : State :=
  { State.reset with matrix := [(0, f { computes := [{ seq := 2, core := 0, ctx := 1, owner := 0, kind := k }] })] }
theorem test_witness_EngineEvents :
    let o (k : MacroKind) : MacroOp := { seq := 2, core := 0, ctx := 1, owner := 0, kind := k }
    let load : MacroOp := { o (.load 0 [1] false) with seq := 3 }
    let macc (s : MatrixEngine → MatrixEngine) : State := engineWith (.macc 0 0 { bank0 := 0, off := 0, p := 1 } 0) s
    let late : State := { macc (fun e => { e with computes := e.computes.map (fun o => { o with since := some 0 }) }) with clk := 1048576 }
    let scaled (n : Nat) (e : MatrixEngine) : MatrixEngine := { e with tiles := [(0, { fifo := [{ r := [], y := [] }] })], bucket := n }
    (({ offered := [o (.close 1)] : MatrixEngine }).offered = [] ++ o (.close 1) :: [] ∧ (MacroKind.load 0 [] false).isLoad = true ∧ (MacroKind.close 1).isLoad = false)
    ∧ (({ loads := [load] : MatrixEngine }).loads = load :: []
      ∧ ∃ c ∈ [o (.macc 0 0 { bank0 := 0, off := 0, p := 1 } 0)], c.seq < load.seq ∧ c.kind.buffer = some 0)
    ∧ (∃ c ∈ ((macc (fun e => { e with loads := [{ load with seq := 1 }] })).engine 0).loads, c.seq < 2 ∧ c.kind.buffer = some 0)
    ∧ (let s := macc (scaled 256)
       (s.engine 0).computes = o (.macc 0 0 { bank0 := 0, off := 0, p := 1 } 0) :: [] ∧ ((s.engine 0).tile 0).fifo ≠ [] ∧ 256 * 1 ≤ (s.engine 0).bucket
        ∧ ((macc (scaled 255)).engine 0).bucket < 256 * 1)
    ∧ ((late.engine 0).tile 0).fifo = [] ∧ (late.engine 0).computes.map (·.since) = [some 0] ∧ 0 + 1048576 ≤ late.clk
    ∧ (let s := engineWith (.restore 0 1) (fun e => { e with slots := [(1, { img := {}, tag := 9, owner := 0 })] })
       ((s.engine 0).slots.find 1).isSome = true)
    ∧ (let s := { State.reset with matrix := [(0, { bucket := 100, govWait := some (0, 228) })] }
       s.matrix.find 0 = some { bucket := 100, govWait := some (0, 228) } ∧ min 65536 (100 + s.dev.mgov) = 228) := by decide +kernel
theorem test_witness_SlabTerms : (List.replicate 4096 (1 : Int)).length = 4096 ∧ (List.replicate 64 (1 : Int)).length = 64 := by
  simp only [List.length_replicate, and_self]
/-- SIGA and SIGB come from the open, and the tile has no terms (R257). -/
theorem test_step_openTile : steps (exec (.mtileMacroOp 0) (engineWith (.openTile 0 5 7 0xF) (fun e => { e with tiles := [(0, { errc := 3, img := { ovf := true } })] })))
    (fun t => decide (((t.engine 0).tile 0).img = { pairs := [], sigA := 5, sigB := 7, rows := 0xF, ovf := false }) && decide (((t.engine 0).tile 0).errc = 0)
      && decide ((t.engine 0).computes = [])) = true := by decide +kernel
theorem test_step_governor : steps (exec .issueGovernorToken { State.reset with matrix := [(0, { bucket := 100 })] }) (fun t => decide ((t.engine 0).bucket = 228))
    = true := by decide +kernel
/-- A matrix-tile node instance of launch 3 in an engine: one slab of i8 blocks, output f32, and the KMODE. -/
def seqNode (kmode : Nat) : SeqNode :=
  { die := 0, ticket := 1, slot := 3, epoch := 1, owner := 5, recAddr := 0x8040, rows := 0xFFFFFFFF, p := 4,
    words := [2, 0, 0, 0, 0, 1 + (if kmode < 2 then 0 else 7) * 2 ^ 24, 0,
      BitVec.ofNat 64 (8 * 2 ^ 32 + kmode * 2 ^ 38 + (if kmode < 2 then 0 else 2) * 2 ^ 56)] }
def stSeq (n : SeqNode) (f : MatrixEngine → MatrixEngine) : State :=
  { State.reset with launches := [(3, { state := .running, epoch := 1, owner := 5 })], matrix := [(0, f { node := some n })] }
theorem test_witness_SequencerSteps :
    (let s := stSeq (seqNode 0) id
     (seqNode 0).check = none ∧ (seqNode 0).slabs = 1 ∧ (s.engine 0).node = some (seqNode 0) ∧ (s.launch 3).suspended = false
      ∧ ((s.engine 0).tile 0).owner = none ∧ (s.engine 0).loads = [] ∧ (s.engine 0).computes = [])
    ∧ ({ seqNode 0 with words := [] }).check.isSome = true
    ∧ (let s := stSeq { seqNode 1 with tile := some 0 } (fun e => { e with step := 1 })
       (seqNode 1).kmode = 1 ∧ ({ seqNode 1 with tile := some 0 }).slabs ≤ (s.engine 0).step ∧ (seqNode 1).sent = false ∧ (s.engine 0).out = none
        ∧ (s.launch 3).state = .running)
    ∧ (seqNode 0).kmode = 0 ∧ (seqNode 2).kmode = 2 ∧ (seqNode 2).held.length < (seqNode 2).splitn ∧ (seqNode 2).splitn = 2
    ∧ (let p : ParkedNode := { node := seqNode 0, step := 0, img := {}, errc := 0, bufs := [] }
       let s := { stSeq (seqNode 0) id with matrix := [(0, { parked := [p] })] }
       (s.engine 0).node = none ∧ (s.engine 0).parked.find? (fun p => !(s.launch p.node.slot).suspended) = some p) := by decide +kernel
/-- A node with a slab to do: its tokens, a page that is cached or not, and a line in error. -/
theorem test_witness_SequencerSlabs :
    let at_ (n : Nat) (t : Table (List Tlb)) (p : List Nat) : State :=
      { stSeq { seqNode 0 with tile := some 0 } (fun e => { e with bucket := n }) with tlbs := t, poison := p }
    let page : Table (List Tlb) := [(0, [{ owner := 5, page := 0, entry := 0xD, big := false }])]
    let m := { seqNode 0 with tile := some 0 }
    let reads (s : State) (k at0 : Nat) : Nat := match s.seqRead (s.seqOp 0 m) k at0 s with
      | .ok (_, _, b) => if b = [] then 0 else 3
      | .error (_, none) => 1
      | _ => 2
    (m.tile = some 0 ∧ ((at_ 256 page []).engine 0).step < m.slabs)
    ∧ reads (at_ 256 page []) 1 0 = 0 ∧ reads (at_ 256 page []) 3 0 = 0 ∧ reads (at_ 256 [] []) 1 0 = 1 ∧ reads (at_ 256 page [0]) 1 0 = 3
    ∧ reads (at_ 256 page []) 1 0x00FF000000000000 = 2
    ∧ 256 * (panelOf m.panelWord).p ≤ ((at_ 4096 page []).engine 0).bucket ∧ ((at_ 0 page []).engine 0).bucket < 256 * (panelOf m.panelWord).p
    ∧ panelCheck ((at_ 256 page []).core (m.core 0)) m.panelWord (m.slab 0) m.rows false 0 = none
    ∧ (panelCheck ((inMode (at_ 256 page []) 2).core (m.core 0)) m.panelWord (m.slab 0) m.rows false 0).isSome = true := by decide +kernel
theorem test_witness_Contributions :
    let n := { seqNode 2 with tile := some 0 }
    let c : Contribution := { dest := 0, tag := 7, slot := 3, epoch := 1, rows := 0, pairs := [], l := 9 }
    let s := { stSeq n (fun e => { e with step := 1 }) with matrix := [(0, { node := some n, step := 1 }), (1, { out := some c })] }
    (s.engine 1).out = some c ∧ (s.engine c.dest).node = some n ∧ n.kmode = 2 ∧ n.slabs ≤ (s.engine 0).step ∧ n.tag = c.tag ∧ n.slot = c.slot
      ∧ n.epoch = c.epoch ∧ n.held.length < n.splitn ∧ (stSeq { seqNode 2 with tile := some 0 } id).engine 1 = {} := by decide +kernel
theorem test_witness_CopyEvents :
    let j : CopyJob := { id := 4, words := [0x100, 0x200, 0x4001, 0x80], issuer := .node 0 1 0, owner := 0, slot := 3, epoch := 1, stream := 0, p := 2, racemode := 0, pc := 0 }
    let node (k u : Nat) : Inst := { id := 1, die := 0, ticket := 1, entry := { tileEntry 1 with kind := k }, cores := [], done := [], p := 9, gslot := none, rows := [], unit := u, dead := false }
    (let s := { State.reset with cores := [(0, { cpq := [j] })] }
     (s.core 0).cpq = j :: [] ∧ s.rotor.get 79 (clusterOf 0) = 79 ∧ (79 + 1 + 0) % 80 = 0 % 80)
    ∧ (let s := { State.reset with caravans := [(0, { insts := [node 3 2] })] }
       (s.caravan 0).insts.find? (fun i => decide (i.entry.kind = 3) && decide (i.unit = 2) && !(s.jobs.get [] 2).any (fun j => j.issuer.isNode i.die i.ticket)) = some (node 3 2))
    ∧ (let s := { State.reset with caravans := [(0, { insts := [node 7 1] })] }
       (s.caravan 0).insts.find? (fun i => decide (i.entry.kind = 7) && decide (i.unit = 1) && !s.near.any (fun n => n.issuer.isNode i.die i.ticket)) = some (node 7 1))
    ∧ (let b : Batch := { num := 1, ops := [], p := 6, failed := false }
       let s := stC (fun c => { c with batches := [b] }) []
       let t := s.onCore 0 (fun c => { c with ctxs := [], other := [(0, { batches := [b] })] })
       (s.ctx 0 0).batches = b :: [] ∧ b.ops = [] ∧ (t.ctx 0 0).batches = [] ∧ ((t.core 0).other.get {} 0).batches = b :: [])
    ∧ (let s := { stM cpWords with jobs := [(0, [{ j with issuer := .ctx { core := 0, slot := 3, epoch := 1 } 1 }])] }
       ((s.advanceCopies 0).firstEnd 0 false).isSome = true ∧ (s.advanceCopies 0).firstEnd 0 true = none) := by
  decide +kernel
theorem test_step_batchComplete : steps (exec (.batchComplete 0 0) (stC (fun c => { c with batches := [{ num := 3, ops := [], p := 6, failed := false }] }) [])) (fun t =>
    decide (t.mine.done = 3) && decide (t.mine.doneP = 6) && decide (t.mine.batches = [])) = true := by decide +kernel
theorem test_witness_PostedEvents :
    let p (k : PostedKind) : Posted := { src := .journal 1 0 2, source := .inl 1, owner := 0, off := 0x40, bytes := [1, 2, 3, 4], kind := k }
    let s (k : PostedKind) : State := { State.reset with cores := [(0, { inbox := [p k] })] }
    let first (s : State) (want : Posted → Bool) := firstReady (fun p => want p && !s.bankHeld 0 p) (s.heldBack 0) (s.core 0).inbox [] (s.core 0).inbox
    let a := PostedKind.arith 0 2 false none
    let j (r : Nat) : State := { State.reset with cores := [(0, { journal := [(2, { state := .pending, reply := some r })] })] }
    first (s .store) (fun q => decide (q.kind = .store)) = some (p .store) ∧ first (s .store) (fun q => !decide (q.kind = .store)) = none
    ∧ first (s a) (fun q => !decide (q.kind = .store)) = some (p a)
    ∧ (s .store).bankHeld 0 (p .store) = false ∧ (s .store).heldBack 0 (p .store) = false ∧ (s .store).postedReason 0 (p .store) = none
    ∧ ((inMode (s .store) 2).core 0).mode (bankOf 0x40) ≠ 0 ∧ (s .store).dev.gated.contains 0 = false
    ∧ ((j 0).core 0).journal.get {} 2 = { state := .pending, reply := some 0 } ∧ ((j 1).core 0).journal.get {} 2 = { state := .pending, reply := some 1 } := by
  decide +kernel
theorem test_witness_BarrierEvents :
    (let d := { stD [] { arrived := [(0, 4)] } with clk := 64 }
     let x := d.domainOf 0
     x.configured = true ∧ x.exchanging = false ∧ x.arrived.length = x.members.length ∧ (∀ m ∈ x.members, (d.ctx m 0).resident = true)
      ∧ x.members.foldl (fun t m => max t (d.ctx m 0).residentAt) (x.last + 64) ≤ d.clk)
    ∧ (let m : ExSend := { src := 0, dst := 0, off := 0x40, bytes := List.replicate 16 1, owner := 0 }
       let d := { stD [] { exchanging := true, sends := [m] } with clk := 16 }
       (d.domainOf 0).sends = m :: [] ∧ (d.core m.dst).mode (bankOf m.off) = 0 ∧ (d.core m.dst).tag (bankOf m.off) = m.owner)
    ∧ (let d := { stD [] { exchanging := true } with clk := 16 }
       (d.domainOf 0).exchanging = true ∧ (d.domainOf 0).t0 + (d.domainOf 0).slots * (d.domainOf 0).slotLen ≤ d.clk ∧ (d.domainOf 0).sends = [])
    ∧ (let u : BarUpdate := { off := 0x40, arrivals := 1, bytes := 0, expected := 0, p := 3, owner := 0 }
       ({ barq := [u] : Core }).barq = u :: []) := by
  decide +kernel
/-- A barrier completes with the greatest P of its members' arrivals (R384). -/
theorem test_step_syncComplete : steps (exec (.syncBarrierComplete 0) { stD [] { arrived := [(0, 4)], count := 2 } with clk := 64 }) (fun t =>
    decide ((t.domainOf 0).dp = 4) && decide ((t.domainOf 0).released = [(0, 2)]) && (t.domainOf 0).exchanging && decide ((t.domainOf 0).t0 = 64)) = true := by
  decide +kernel
theorem test_witness_WadiEvents :
    (let s := { State.reset with groups := [(6, { state := .opened, cfg := 1, rets := [(9, (1, 4))] })] }
     (s.group 0 6).state = .opened ∧ joinN (s.group 0 6).cfg ≤ (s.group 0 6).rets.length)
    ∧ (let i (w : Word) : Inst := { id := 1, die := 0, ticket := 1, entry := { tileEntry 1 with kind := 6, words := [6, 0, 6, w, 0x80] }, cores := [], done := [], p := 9, gslot := none, rows := [], unit := 0, dead := false }
       let s (w : Word) (g : JoinGroup) : State := { stG id [] with caravans := [(0, { insts := [i w] })], groups := [(6, g)] }
       (s 0 {}).nextJoin 0 = some (i 0) ∧ ((s 0 {}).group 0 6).state ≠ .opened ∧ ((s 0 { state := .opened }).nextJoin 0) = some (i 0)
        ∧ ((s 0x8000000000000001 {}).nextJoin 0) = some (i 0x8000000000000001) ∧ ((i 0x8000000000000001).entry.record.kd 1).getLsbD 63 = true
        ∧ ((i 0x4000000000000001).entry.record.kd 1).getLsbD 62 = true ∧ max ((s 0 {}).wadi.get (0, 0) 0).1 (max ((s 0 {}).wadi.get (0, 0) 0).2 9 + 1) + 1 < clockLimit
        ∧ (let w := { s 0 {} with wadi := [(0, (clockLimit, 0))] }
           w.nextJoin 0 = some (i 0) ∧ clockLimit ≤ max (w.wadi.get (0, 0) 0).1 (max (w.wadi.get (0, 0) 0).2 9 + 1) + 1)) := by
  decide +kernel
theorem test_join_rank : ranksBefore 0 (3, (1, 5)) (7, (1, 5)) = true ∧ ranksBefore 0 (7, (1, 5)) (3, (1, 5)) = false := by decide +kernel
def flitOf (typ : Nat) (tag info : Word) (payload : List Byte) : Flit :=
  { typ := typ, flags := 0, len := payload.length, src := 7, dst := 0, tag := tag, addr := 0x40, info := info, payload := payload }
theorem test_witness_ArrivingTransfers :
    let a : Arrival := { src := 7, tag := 9, stream := 4 }
    let s := { State.reset with arrivals := [a], streams := [(4, { gen := 1, used := true, state := .admitted, root := 1, resv := 8, qlog := 2 })] }
    let f := { flitOf 7 9 0 [] with len := 0 }
    s.arrivalOf (flitOf 6 9 0 []) = some a ∧ a.status = 0 ∧ State.reset.arrivalOf (flitOf 5 9 0 []) = none
    ∧ (s.putEntries a (f.len / 16) (f.payload.take (16 * (f.len / 16))) f.addr.toNat).2 = true
    ∧ s.chunkWaits a (flitOf 6 9 0 []) = false ∧ ({ s with dev := { s.dev with tripped := true } } : State).chunkWaits a (flitOf 6 9 0 []) = true
    ∧ (s.putEntries a 1 (List.replicate 16 1) 0).2 = false ∧ (s.owner 0).loaded = false := by decide +kernel
theorem test_witness_DepartingTransfers :
    let t : Transfer := { tag := 4, die := 0, stream := 4, owner := 0, slot := 0, epoch := 0, agent := 0, dest := 7, addr := 0, p := 0, begun := true }
    let r : Transfer := { t with addr := 0x40 }
    let u (t : Transfer) : State := { mapped State.reset with transfers := [t] }
    let kind (s : State) (t : Transfer) : Nat := match s.unitStore t.recordOp t.addr.toNat (bytesOfNat 8 0 ++ bytesOfNat 8 4) with
      | (_, .pending) => 1
      | (_, .clock) => 2
      | _ => 0
    (u t).transferOf 4 = some t ∧ (flitOf 9 4 0 []).src = t.dest ∧ t.addr = 0 ∧ r.addr ≠ 0 ∧ (u t).transferOf 5 = none
      ∧ kind { stG id [] with transfers := [r] } { r with owner := 5 } = 0 ∧ kind { stG id [] with mem := [] } { r with owner := 5 } = 1
      ∧ kind { stG id [] with transfers := [r] } { r with owner := 5, p := clockLimit } = 2 := by decide +kernel
theorem test_witness_LinkEvents :
    let f := flitOf 1 0 0xF [1, 2, 3, 4]
    let bytes : Table Byte := ((List.range 64).filter (fun i => f.info.getLsbD i)).map (fun i => (64 * 1 + i, f.payload.getD i 0))
    f.addr.toNat / 64 = 1 ∧ (State.reset.importStore 7 1 bytes).isSome = true
    ∧ State.importStore { State.reset with lines := [(1, { held := some (.engine 4) })] } 7 1 bytes = none
    ∧ f.flags.getLsbD 0 = false ∧ ({ f with flags := 1 } : Flit).flags.getLsbD 0 = true ∧ (State.reset.dev.ports.find 0).isSome = false := by decide +kernel
theorem test_step_put : steps (exec (.xanwellPut (flitOf 1 3 0x5 [1, 2, 3, 4])) State.reset) (fun t => decide (t.mem = [(0x40, 1), (0x42, 3)]) && decide (t.flits.length = 1))
    = true := by decide +kernel

/-! ### Witnesses: the whole machine -/

/-- The control context of core 0 with an instruction in its fetch buffer. -/
def stF (bytes : List Byte) (regs : Table Word) : State := stC (fun c => { c with fbuf := [{ va := 0, bytes := bytes ++ List.replicate (64 - bytes.length) 0 }] }) regs
def addBytes : List Byte := encodeBytes (.add (rw 0 1 0 2))
theorem test_witness_StepRunsDecoded :
    let s := stF addBytes [(0, 5), (1, 6)]
    let yields (e : Nat) := s.onCtx 0 0 (fun c => { c with yieldEnd := some e })
    let front (s : State) := { s with agenda := [.front 0 .a []] }
    let runs (s : State) : Bool := match s.fetch 0 0 with
      | .bytes bs _ => (match decode bs with | .ok (i, _) => decide (i = .add (rw 0 1 0 2)) | .error _ => false)
      | _ => false
    ((s.ctx 0 0).live = true ∧ (s.ctx 0 0).resident = true ∧ s.dev.tripped = false ∧ s.deliverAsync 0 0 = none ∧ s.takePreempt 0 0 = none ∧ (s.ctx 0 0).yieldEnd = none)
    ∧ runs s = true ∧ ((yields 0).ctx 0 0).yieldEnd = some 0 ∧ 0 ≤ s.clk ∧ s.clk < 1
    ∧ ({ front s with agenda := [] } : State).pick 0 .a [] = some 0 ∧ runs (({ front s with agenda := [] } : State).issuedBy 0 .a 0) = true
    ∧ (yields 1).pick 0 .a [] = none ∧ (yields 1).slotless 0 0 = true ∧ s.slotless 0 0 = false ∧ s.unready 0 0 = false
    ∧ ((s.onCtx 0 0 (fun c => { c with pend := [.copy false 9] })).deliverAsync 0 0).isSome = true
    ∧ (({ s with launches := [(3, { state := .running, epoch := 1, suspended := true })] }.onCtx 0 0 onLaunch3).takePreempt 0 0).isSome = true
    ∧ (let c : SmpCtx := { smpC [] with words := [0x17050000] }
       let t := { stSmp [] [] with samplers := [(0, { ctxs := [(0, c)] })] }
       t.nextSmp 0 [] = some 0 ∧ t.smpCtx 0 0 = some c ∧ c.pc < c.words.length ∧ (decodeMicro (c.words.getD c.pc 0)).isSome = true
        ∧ t.nextSmp 0 [0] = none) := by decide +kernel
/-- A context that waits in a SYNC whose barrier completes, and one whose limit of supersteps stops the wait; both orders of an NMFENCE and its trap. -/
theorem test_witness_StepRunsDecoded_waits :
    let held (c : Ctx) : Ctx := { c with waitFrom := some 0, fbuf := [{ va := 0, bytes := encodeBytes (.sync (rw 0 0 0 2)) ++ List.replicate 60 0 }] }
    let d (x : Domain) : State := (stD [] x).onCtx 0 0 held
    let waits (s : State) : Bool := (s.ctx 0 0).watches && (s.deliverAsync 0 0).isNone && (s.takePreempt 0 0).isNone
    let goes (s : State) (b : Bool) : Bool := steps (contextTurn s 0 0) (fun t => decide ((t.ctx 0 0).waitFrom.isNone = b))
    waits (d { released := [(0, 7)], dp := 3 }) = true ∧ goes (d { released := [(0, 7)], dp := 3 }) true = true
    ∧ (let s := { d {} with domains := [(0, { configured := true, members := [0, 1] })] }
       waits s = true ∧ goes s false = true)
    ∧ (stD [] {}).settleTurn.domains = (((stD [] {}).barrierComplete 0).phaseEnd 0).domains := by decide +kernel
def fenced : State :=
  (stF (encodeBytes (.nmfence (rw 0 0 0 2))) []).onCtx 0 0 (fun c => { c with waitFrom := some 0, nmDone := 1, pend := [.nmue 9 0x100000000] })
theorem test_witness_StepRunsDecoded_fence (n : Nat) (hn : (Config.freeValue n).getLsbD 0 = true) :
    ({ fenced with free := n } : State).fenceFirst 0 0 = true ∧ fenced.dev.tripped = false := by
  have ha : (({ fenced with free := n } : State).ctx 0 0).atPc = some (.nmfence (rw 0 0 0 2)) :=
    (by decide +kernel : (fenced.ctx 0 0).atPc = some (.nmfence (rw 0 0 0 2)))
  have hp : (({ fenced with free := n } : State).ctx 0 0).pend = [.nmue 9 0x100000000] := (by decide +kernel : (fenced.ctx 0 0).pend = _)
  have hc : (let c := fenced.ctx 0 0; c.waitFrom.isSome && !c.unissued && !c.mid && !c.intrap && c.nmOpen.isEmpty && decide (1 = c.nmDone)) = true := by
    decide +kernel
  refine ⟨?_, by decide +kernel⟩
  simp only [State.fenceFirst, ha, hp]
  exact Bool.and_eq_true_iff.2 ⟨hc, hn⟩
theorem test_witness_IssueSlots :
    let c : Ctx := { ctxOf .a [] with fbuf := [{ va := 0, bytes := addBytes ++ List.replicate 60 0 }] }
    let s := withCtxs [c, c, c]
    let t := s.onCtx 0 0 (fun c => { c with yieldEnd := some 9 })
    s.slotless 0 0 = false ∧ s.unready 0 0 = false ∧ (s.ctx 0 1).fe = .a ∧ s.slotless 0 2 = false ∧ s.unready 0 2 = false
      ∧ t.slotless 0 0 = true ∧ t.pick 0 .a [] = some 1 ∧ (t.onCore 0 (fun c => { c with lastIssue := [(0, 1)] })).pick 0 .a [] = some 2
      ∧ t.pick 0 .a [1, 2] = none := by decide +kernel
/-- One step runs the ADD at the PC (R207, R411). -/
theorem test_step_add_fetched : steps (step (stF addBytes [(0, 5), (1, 6)])) (fun t => decide (t.mine.s 2 = 11) && decide (t.mine.pc = 4)) = true := by
  decide +kernel
/-- The host masks vector 3 and unmasks it while it is pending (R101). -/
theorem test_step_mask :
    steps (step { State.reset with agenda := [.mask 3 true] }) (fun t => t.dev.masked.contains 3) = true
    ∧ steps (step { State.reset with agenda := [.mask 3 false], dev := { State.reset.dev with masked := [3], pending := [3] } })
        (fun t => decide (t.dev.sent = [3]) && decide (t.dev.pending = []) && decide (t.dev.masked = [])) = true := by decide +kernel
theorem test_step_event : steps (step { State.reset with agenda := [.event (.lgoGo 3), .pass 5] }) (fun t => (t.launch 3).golost && decide (t.agenda = [.pass 5])) = true := by
  decide +kernel
theorem test_step_pass : steps (step { State.reset with agenda := [.pass 5] }) (fun t => decide (t.clk = 5) && decide (t.agenda = [])) = true := by decide +kernel
theorem test_witness_FetchValues :
    let s := stF addBytes []
    let m := stM []
    let code (n : Nat) : List CodeBlock := (List.range n).map (fun i => { key := 64 * 256 * (i + 1), owner := 0, bytes := [] })
    ((s.ctx 0 0).fbuf.find? (fun b => b.va = blockOf (s.ctx 0 0).pc)).isSome = true ∧ (∀ b ∈ (m.ctx 0 0).fbuf, b.va ≠ blockOf (m.ctx 0 0).pc)
    ∧ regionOf 0x00FF000000000000 = none ∧ regionOf 0x00FE000000000000 ≠ none ∧ regionOf 0x00FE000000000000 ≠ some .translated
    ∧ regionOf 0 = some .translated ∧ (m.translate 0 0 0).1 = .page 0xD false ∧ ((stA []).translate 0 0 0).1 = .absent
      ∧ entryKey 0xD false 0 false true = some 0 ∧ entryKey 0x5 false 0 false true = none
      ∧ m.poison.contains 0 = false ∧ m.dev.icBad.contains (0, 0, 0) = false
      ∧ ({ m with poison := [0] } : State).poison.contains 0 = true
      ∧ ({ m with icache := [(0, [{ key := 0, owner := 0, bytes := [] }])] } : State).icache.get [] 0 = [{ key := 0, owner := 0, bytes := [] }]
    ∧ ((code 15).filter (fun x => x.key / 64 % 256 = 0)).length < 16 ∧ 16 ≤ ((code 16).filter (fun x => x.key / 64 % 256 = 0)).length
      ∧ ((code 16).filter (fun x => x.key / 64 % 256 = 0)).getLast?.isSome = true := by decide +kernel
theorem test_witness_FetchTraps :
    let bad (bytes : List Byte) : Option DecodeError := match (stF bytes []).fetch 0 0 with
      | .bytes bs _ => (match decode bs with | .error e => some e | _ => none)
      | _ => none
    (match (stA []).fetch 0 0 with | .absent => true | _ => false) = true ∧ ((stA []).ctx 0 0).xfail ≠ some (pageOf 0)
    ∧ (match (stC (fun c => { c with xfail := some (pageOf 0) }) []).fetch 0 0 with | .fault c _ => decide (c = 0x062) | _ => false) = true
    ∧ (match (stC (fun c => { c with pc := 0x00FF000000000000 }) []).fetch 0 0 with | .fault c _ => decide (c = 0x064) | _ => false) = true
    ∧ bad [0xFC, 3, 0, 0] = some .undef := by decide +kernel
/-- An undefined opcode enters the handler with INS.UNDEF and its word 0 (R63). -/
theorem test_step_undef : steps (step { stF [0xFC, 3, 0, 0] [] with
      cores := [(0, { ctxs := [(0, { ((stF [0xFC, 3, 0, 0] []).ctx 0 0) with tvec := 0x40 })] })] }) (fun t =>
    decide (t.mine.tcause = 1) && decide (t.mine.tval = 0x3FC) && decide (t.mine.pc = 0x40)) = true := by decide +kernel
theorem test_witness_ChecksBeforeExecution :
    let s := stA []
    ((Instr.add (rw 0 1 0 2)).spec).isSome = true ∧ decodeCause (.vadd ⟨0, 0, 0, 0, 0, .word⟩) s.mine.fe = some 3
      ∧ decodeCause (.add (rw 0 1 54 2)) s.mine.fe = none ∧ queueVerdict (s.core 0) s.mine (.add (rw 0 1 54 2)) = .noSet ∧ s.mine.popped = []
    ∧ (let t := { withCtxs [onQ (ctxOf .a []) 0, onQ (ctxOf .x []) 0] with cur := (0, 0) }
       let u := stC (fun c => onQ c 0) []
       let f := t.onCore 0 (fun c => c.setQueue 0 6 [5, 6])
       queueVerdict (t.core 0) t.mine (.add (rw 0 1 54 2)) = .blocked 54 ∧ queueVerdict (u.core 0) u.mine (.add (rw 0 1 54 2)) = .ended 54
        ∧ queueVerdict (f.core 0) f.mine (.add (rw 0 1 55 2)) = .ready ∧ f.lacksRoom 0 (.add (rw 0 1 55 2)) = false
        ∧ ((f.takePops 0 0 (.add (rw 0 1 55 2))).core 0).queue 0 6 = [6]) := by decide +kernel
theorem test_witness_TrapsWithholdEffects :
    let s := withCtxs [onHandler (ctxOf .a []) 0x40]
    logBase s.mine.racemode = 0 ∧ s.mine.intrap = false
      ∧ steps (exec (.vadd ⟨0, 0, 0, 0, 0, .word⟩) s) (fun t => (t.ctx s.cur.1 s.cur.2).intrap) = true := by decide +kernel
theorem test_witness_DecodeOfEncode :
    let i := Instr.add (rw 0 1 0 2)
    let m := Instr.smpRng ⟨2, 0, 0, 0, 0⟩
    (i.spec).isSome = true ∧ i.formOk = true ∧ i.rsvdOk = true ∧ (m.micro?).isSome = true ∧ m.microOk = true := by decide +kernel
theorem test_witness_EncodeOfDecode : (match decodeWords (encode (.add (rw 0 1 0 2))) with | .ok (i, n) => decide (i = .add (rw 0 1 0 2)) && decide (n = 1) | .error _ => false) = true
    ∧ (decodeMicro 0).isSome = true := by decide +kernel
theorem test_witness_StepRunsDecoded_events : (Instr.lgoGo 3).isEvent = true ∧ (Instr.add (rw 0 1 0 2)).isEvent = false
    ∧ State.reset.dev.masked.contains 3 = false ∧ ({ State.reset.dev with pending := [3] } : Device).pending.contains 3 = true := by decide +kernel
theorem test_witness_StepsNeverStop : ∀ i : Instr, (stA []).agenda.head? ≠ some (.event i) := by intro i; exact nofun
theorem test_witness_MemoryStaysCanonical : (stF addBytes []).mem.wf = true ∧ steps (step (stF addBytes [])) (fun _ => true) = true := by decide +kernel
theorem test_witness_ContextsStayGood : State.reset.good ∧ steps (step State.reset) (fun _ => true) = true :=
  ⟨(by unfold State.good; intro e he; cases he), by decide +kernel⟩

end Sys2Proof.Tests
end

section
/-! Memory stays canonical, and no instruction of the cores enters a handler but through its own trap: one relation between states, and one
lemma for each function of the model that gives a state. -/
namespace Sys2Proof.Machine
-- Many short lemmas: elaborated one after another, so that threads that wait for one another do not use up the memory.
set_option Elab.async false
variable {C : Prop} {σ τ υ : State}

/-! ### The relation and its rules -/

/-- What every step of the part keeps of the state before it: memory stays canonical (R3, log 3) and, where `C` holds, no context has
entered a handler (R412). -/
structure Keeps (C : Prop) (σ τ : State) : Prop where
  mem : σ.mem.wf = true → τ.mem.wf = true
  intrap : C → ∀ g k, (τ.ctx g k).intrap = true → (σ.ctx g k).intrap = true

theorem Keeps.refl (σ : State) : Keeps C σ σ := ⟨id, fun _ _ _ h => h⟩

theorem Keeps.trans (hk : Keeps C σ τ) (hk' : Keeps C τ υ) : Keeps C σ υ :=
  ⟨hk'.mem ∘ hk.mem, fun c g k h => hk.intrap c g k (hk'.intrap c g k h)⟩

/-- A new memory is canonical where the old one is; every field but the cores is free, so that the lemma unifies with any record update. -/
theorem Keeps.memory {clk agenda cur smp poison lmPoison keyed lines sums metaUse hostClk imports launches caravans drives domains
  owners streams nodes pages gone replay poolUsed tlbs icache held matrix jobs rotor moves engSeq near chans array samplers groups
  wadi transfers arrivals flits sirocco dev seen free fresh} {mem : Memory} (hk : Keeps C σ τ) (hm : τ.mem.wf = true → mem.wf = true)
  : Keeps C σ ⟨clk, agenda, cur, smp, mem, poison, lmPoison, keyed, lines, sums, metaUse, hostClk, imports, τ.cores, launches,
  caravans, drives, domains, owners, streams, nodes, pages, gone, replay, poolUsed, tlbs, icache, held, matrix, jobs, rotor, moves,
  engSeq, near, chans, array, samplers, groups, wadi, transfers, arrivals, flits, sirocco, dev, seen, free, fresh⟩ :=
  hk.trans ⟨hm, fun _ _ _ h => h⟩

/-- Every field but memory and the cores is free. -/
theorem Keeps.fields {clk agenda cur smp poison lmPoison keyed lines sums metaUse hostClk imports launches caravans drives domains
  owners streams nodes pages gone replay poolUsed tlbs icache held matrix jobs rotor moves engSeq near chans array samplers groups
  wadi transfers arrivals flits sirocco dev seen free fresh} (hk : Keeps C σ τ) : Keeps C σ ⟨clk, agenda, cur, smp, τ.mem, poison,
  lmPoison, keyed, lines, sums, metaUse, hostClk, imports, τ.cores, launches, caravans, drives, domains, owners, streams, nodes,
  pages, gone, replay, poolUsed, tlbs, icache, held, matrix, jobs, rotor, moves, engSeq, near, chans, array, samplers, groups, wadi,
  transfers, arrivals, flits, sirocco, dev, seen, free, fresh⟩ :=
  hk.memory id

/-- Where the contexts' handlers do not matter, memory is all that is kept. -/
theorem Keeps.cores (hk : Keeps False σ τ) (hm : τ.mem.wf = true → υ.mem.wf = true := by exact id) : Keeps False σ υ :=
  hk.trans ⟨hm, nofun⟩

theorem Memory.wf_foldl {α : Type} {f : Memory → α → Memory} (hf : ∀ m a, m.wf = true → (f m a).wf = true) (l : List α) (m : Memory)
    (hm : m.wf = true) : (l.foldl f m).wf = true := by
  induction l generalizing m with
  | nil => exact hm
  | cons a l ih => exact ih _ (hf m a hm)

theorem Keeps.ite {c : Prop} [Decidable c] (h1 : Keeps C σ τ) (h2 : Keeps C σ υ) : Keeps C σ (if c then τ else υ) := by
  split <;> assumption

theorem Keeps.foldl {α : Type} {f : State → α → State} {l : List α} (hk : Keeps C σ τ) (hf : ∀ υ a, Keeps C υ (f υ a)) :
    Keeps C σ (l.foldl f τ) := by
  induction l generalizing τ with
  | nil => exact hk
  | cons a l ih => exact ih (hk.trans (hf τ a))

/-- The part `st` of what a fold carries is kept where every turn of the fold keeps it. -/
theorem Keeps.foldl_part {α β : Type} {st : α → State} {f : α → β → α} {l : List β} {x : α} (hk : Keeps C σ (st x))
    (hf : ∀ y b, Keeps C (st y) (st (f y b))) : Keeps C σ (st (l.foldl f x)) := by
  induction l generalizing x with
  | nil => exact hk
  | cons b l ih => exact ih (hk.trans (hf x b))

theorem Keeps.foldl_fst {α β : Type} {f : State × α → β → State × α} {l : List β} {x : State × α} (hk : Keeps C σ x.1)
    (hf : ∀ y b, Keeps C y.1 (f y b).1) : Keeps C σ (l.foldl f x).1 :=
  hk.foldl_part hf

theorem Keeps.ite_fst {α : Type} {c : Prop} [Decidable c] {x y : State × α} (hx : Keeps C σ x.1) (hy : Keeps C σ y.1) :
    Keeps C σ (if c then x else y).1 := by
  split <;> assumption

theorem Keeps.fst_eq {α : Type} {x : State × α} {a : α} (hk : Keeps C σ x.1) (e : x = (τ, a)) : Keeps C σ τ := by
  subst e; exact hk

theorem Keeps.snd_eq {α : Type} {x : α × State} {a : α} (hk : Keeps C σ x.2) (e : x = (a, τ)) : Keeps C σ τ := by
  subst e; exact hk

theorem Keeps.setCtx {g k : Nat} {x : Ctx} (hk : Keeps C σ τ) (hx : C → x.intrap = true → (τ.ctx g k).intrap = true) :
    Keeps C σ (τ.setCtx g k x) := by
  refine hk.trans ⟨id, fun c g' k' h => ?_⟩
  by_cases e : g' = g ∧ k' = k
  · obtain ⟨rfl, rfl⟩ := e
    exact hx c (by simpa using h)
  · rwa [State.ctx_setCtx_other _ _ e] at h

theorem Keeps.onCtx {g k : Nat} {f : Ctx → Ctx} (hk : Keeps C σ τ)
    (hf : C → ∀ c, (f c).intrap = true → c.intrap = true := by exact fun _ _ h => h) : Keeps C σ (τ.onCtx g k f) :=
  hk.setCtx fun c => hf c _

theorem Keeps.setCore {g : Nat} {x : Core} (hk : Keeps C σ τ)
    (hx : C → ∀ k, (x.ctx k).intrap = true → (τ.ctx g k).intrap = true) : Keeps C σ (τ.setCore g x) := by
  refine hk.trans ⟨id, fun c g' k h => ?_⟩
  by_cases e : g' = g
  · subst e
    exact hx c k (by simpa [State.ctx] using h)
  · simpa [State.ctx, State.core_setCore_other _ _ e] using h

theorem Keeps.onCore {g : Nat} {f : Core → Core} (hk : Keeps C σ τ)
    (hf : C → ∀ c k, ((f c).ctx k).intrap = true → (c.ctx k).intrap = true := by exact fun _ _ _ h => h) : Keeps C σ (τ.onCore g f) :=
  hk.setCore fun c => hf c _

/-- What a function that may answer nothing keeps where it answers. -/
def KeepsSome (C : Prop) (σ : State) {α : Type} (st : α → State) (o : Option α) : Prop := ∀ x, o = some x → Keeps C σ (st x)

theorem KeepsSome.none {α : Type} {st : α → State} : KeepsSome C σ st none := nofun

theorem KeepsSome.some {α : Type} {st : α → State} {x : α} (h : Keeps C σ (st x)) : KeepsSome C σ st (some x) := by
  intro y e
  cases e
  exact h

theorem KeepsSome.ite {α : Type} {st : α → State} {o o' : Option α} {c : Prop} [Decidable c] (h : KeepsSome C σ st o)
    (h' : KeepsSome C σ st o') : KeepsSome C σ st (if c then o else o') := by
  split <;> assumption

theorem KeepsSome.or {o o' : Option State} (h : KeepsSome C σ id o) (h' : KeepsSome C σ id o') : KeepsSome C σ id (o.or o') := by
  cases o
  · exact h'
  · exact h

theorem Keeps.getD {o : Option State} (hk : Keeps C σ τ) (h : KeepsSome C σ id o) : Keeps C σ (o.getD τ) := by
  cases o
  · exact hk
  · exact h _ rfl

theorem Keeps.getD_fst {α : Type} {x : State × α} {o : Option (State × α)} (hk : Keeps C σ x.1) (h : KeepsSome C σ Prod.fst o) :
    Keeps C σ (o.getD x).1 := by
  cases o
  · exact hk
  · exact h _ rfl

theorem KeepsSome.findSome {α β : Type} {st : β → State} {f : α → Option β} {l : List α} (hf : ∀ a, KeepsSome C σ st (f a)) :
    KeepsSome C σ st (l.findSome? f) := by
  intro x e
  obtain ⟨a, -, ha⟩ := List.exists_of_findSome?_eq_some e
  exact hf a x ha

/-! ### Bodies of core instructions -/

/-- What a stop leaves behind is kept: a wait leaves the effect of waiting, in any state. -/
def Stop.Keeps (C : Prop) : Stop → Prop
  | .wait f => ∀ υ, Machine.Keeps C υ (f υ)
  | .trap _ | .unready => True

/-- A body keeps the state from which it runs. -/
def M.SteadyAt (C : Prop) (σ : State) {α : Type} (m : M α) : Prop :=
  match m.run σ with
  | .ok r => Keeps C σ r.2
  | .error e => e.Keeps C

/-- A body keeps whatever state it runs from. -/
def M.Steady (C : Prop) {α : Type} (m : M α) : Prop := ∀ σ, m.SteadyAt C σ

variable {α β : Type} {m m' : M α} {k : α → M β}

theorem M.Steady.run {a : α} (hm : m.Steady C) (e : m.run σ = .ok (a, τ)) : Keeps C σ τ := by
  have h := hm σ
  unfold M.SteadyAt at h
  rw [e] at h
  exact h

theorem M.SteadyAt.bind (hm : m.SteadyAt C σ) (hk : ∀ a, (k a).Steady C) : (m >>= k).SteadyAt C σ := by
  unfold M.SteadyAt at hm ⊢
  rw [bind_run]
  cases e : m.run σ with
  | error x => rw [e] at hm; exact hm
  | ok r =>
    obtain ⟨a, τ⟩ := r
    rw [e] at hm
    have hr := hk a τ
    unfold M.SteadyAt at hr
    dsimp only at hr ⊢
    cases e' : (k a).run τ with
    | error x => rw [e'] at hr; exact hr
    | ok r => rw [e'] at hr; exact hm.trans hr

theorem M.Steady.bind (hm : m.Steady C) (hk : ∀ a, (k a).Steady C) : (m >>= k).Steady C := fun σ => (hm σ).bind hk

theorem M.Steady.ite {c : Prop} [Decidable c] (h1 : m.Steady C) (h2 : m'.Steady C) : (if c then m else m').Steady C := by
  split <;> assumption

theorem pure_steady {a : α} : (pure a : M α).Steady C := fun σ => Keeps.refl σ

theorem get_steady : (get : M State).Steady C := fun σ => Keeps.refl σ

theorem modify_steady {f : State → State} (hf : ∀ υ, Keeps C υ (f υ)) : (modify f : M Unit).Steady C := hf

theorem set_steadyAt (h : Keeps C σ τ) : (set τ : M Unit).SteadyAt C σ := h

/-- What follows a read of the state runs from the state that was read. -/
theorem get_bind_steady {k : State → M β} (hk : ∀ σ, (k σ).SteadyAt C σ) : ((get : M State) >>= k).Steady C := fun σ => hk σ

theorem M.SteadyAt.ite {c : Prop} [Decidable c] (h1 : m.SteadyAt C σ) (h2 : m'.SteadyAt C σ) : (if c then m else m').SteadyAt C σ := by
  split <;> assumption

theorem throw_steady {e : Stop} (he : e.Keeps C) : (throw e : M α).Steady C := fun _ => he

theorem throw_trap_steady {t} : (throw (.trap t) : M α).Steady C := throw_steady trivial

theorem trap_steady {cause tval} : (trap cause tval : M α).Steady C := throw_trap_steady

theorem wait_steady : (wait : M α).Steady C := throw_steady Keeps.refl

theorem unready_steady : (unready : M α).Steady C := throw_steady trivial

theorem waitAnd_steady {f : State → State} (hf : ∀ υ, Keeps C υ (f υ)) : (waitAnd f : M α).Steady C := throw_steady hf

theorem wait_bind_steadyAt {k : α → M β} : (wait >>= k).SteadyAt C σ := Keeps.refl

theorem trap_bind_steadyAt {k : α → M β} {cause tval} : (trap cause tval >>= k).SteadyAt C σ := trivial

theorem trapIf_bind_steadyAt {k : Unit → M β} {c cause tval} (hk : (k ()).SteadyAt C σ) :
    (trapIf c cause tval >>= k).SteadyAt C σ := by
  cases c
  · exact hk
  · trivial

/-- A core instruction whose body is steady. -/
def IssuesSteady (C : Prop) (i : Instr) (σ : State) (o : Host.Outcome State Fault Refusal) : Prop :=
  ∃ body, o = issue i body σ ∧ ∀ v, (body v).Steady C

/-! ### Outcomes -/

/-- What an event or a turn keeps where it answers a state. -/
def KeepsO (σ : State) : Host.Outcome State Fault Refusal → Prop
  | .next τ => Keeps False σ τ
  | .fault _ | .refused _ => True

/-- What an event keeps whether it goes on or stops. -/
def KeepsExcept (σ : State) : Except State State → Prop
  | .ok τ | .error τ => Keeps False σ τ

theorem KeepsExcept.ok_eq {x : Except State State} (h : KeepsExcept σ x) (e : x = .ok τ) : Keeps False σ τ := by subst e; exact h

theorem KeepsExcept.error_eq {x : Except State State} (h : KeepsExcept σ x) (e : x = .error τ) : Keeps False σ τ := by subst e; exact h

theorem KeepsO.next_eq {o} (h : KeepsO σ o) (e : o = .next τ) : Keeps False σ τ := by subst e; exact h

/-! ### State -/

/-! ### Ops -/

theorem Keeps.onLaunch {i f} (hk : Keeps C σ τ) : Keeps C σ (τ.onLaunch i f) := hk.fields

theorem Keeps.onCaravan {d f} (hk : Keeps C σ τ) : Keeps C σ (τ.onCaravan d f) := hk.fields

theorem Keeps.onOwner {o f} (hk : Keeps C σ τ) : Keeps C σ (τ.onOwner o f) := hk.fields

theorem Keeps.onStream {n f} (hk : Keeps C σ τ) : Keeps C σ (τ.onStream n f) := hk.fields

theorem Keeps.onDomain {n f} (hk : Keeps C σ τ) : Keeps C σ (τ.onDomain n f) := hk.fields

/-- Values that return to their queues leave the contexts of the core. -/
theorem Core.ctx_foldr_setQueue (c : Core) (l : List (Nat × Word)) (n k : Nat) :
    (l.foldr (fun e x => x.setQueue n e.1 (e.2 :: x.queue n e.1)) c).ctx k = c.ctx k := by
  induction l with
  | nil => rfl
  | cons e l ih => exact ih

theorem Keeps.unpop {g k} (hk : Keeps C σ τ) : Keeps C σ (τ.unpop g k) :=
  .ite hk (hk.onCore (fun _ c j h => by rwa [Core.ctx_foldr_setQueue] at h)).onCtx

theorem trapIf_steady {c cause tval} : (trapIf c cause tval).Steady C := .ite trap_steady pure_steady

theorem me_steady : me.Steady C := get_steady.bind fun _ => pure_steady

theorem myCore_steady : myCore.Steady C := get_steady.bind fun _ => pure_steady

theorem myCtx_steady : myCtx.Steady C := get_steady.bind fun _ => pure_steady

theorem onMyCtx_steady {f} (hf : C → ∀ c, (f c).intrap = true → c.intrap = true := by exact fun _ _ h => h) : (onMyCtx f).Steady C :=
  modify_steady fun _ => (Keeps.refl _).onCtx hf

theorem onMyCore_steady {f} (hf : C → ∀ c k, ((f c).ctx k).intrap = true → (c.ctx k).intrap = true := by exact fun _ _ _ h => h) :
    (onMyCore f).Steady C :=
  modify_steady fun _ => (Keeps.refl _).onCore hf

theorem release_steady {tval} : (release tval).Steady C :=
  myCtx_steady.bind fun _ => trapIf_steady.bind fun _ => (onMyCtx_steady).bind fun _ => pure_steady

theorem acquire_steady {p tval} : (acquire p tval).Steady C := myCtx_steady.bind fun _ => trapIf_steady.bind fun _ => (onMyCtx_steady)

theorem freeWord_steady : freeWord.Steady C := get_bind_steady fun _ => (set_steadyAt (Keeps.refl _).fields).bind fun _ => pure_steady

theorem noteAccess_steady {va size} : (noteAccess va size).Steady C := modify_steady fun _ => (Keeps.refl _).fields

theorem freshId_steady : freshId.Steady C := get_bind_steady fun _ => (set_steadyAt (Keeps.refl _).fields).bind fun _ => pure_steady

theorem Keeps.onEngine {cl f} (hk : Keeps C σ τ) : Keeps C σ (τ.onEngine cl f) := hk.fields

theorem Keeps.unadmit {g k} (hk : Keeps C σ τ) : Keeps C σ (τ.unadmit g k) := by
  unfold State.unadmit
  dsimp only
  exact .ite hk hk.onCore.onCtx

theorem Keeps.releaseTilesOn {g k sh} (hk : Keeps C σ τ) : Keeps C σ (τ.releaseTilesOn g k sh) := .ite hk.onEngine hk

theorem Keeps.releaseTiles {g k} (hk : Keeps C σ τ) : Keeps C σ (τ.releaseTiles g k) := hk.releaseTilesOn

theorem Keeps.orphan {g k} (hk : Keeps C σ τ) : Keeps C σ (τ.orphan g k) := by
  unfold State.orphan
  dsimp only
  exact hk.fields.onCore

theorem Keeps.onOrigin {o k f} (hk : Keeps C σ τ)
    (hf : C → ∀ c, (f c).intrap = true → c.intrap = true := by exact fun _ _ h => h) : Keeps C σ (τ.onOrigin o k f) :=
  .ite (hk.onCtx hf) (.ite hk.onCore hk)

theorem Keeps.sawClock {t} (hk : Keeps C σ τ) : Keeps C σ (τ.sawClock t) := by
  unfold State.sawClock
  dsimp only
  exact hk.fields

theorem Keeps.placeLines {agent l lines} (hk : Keeps C σ τ) : Keeps C σ (τ.placeLines agent l lines).1 := by
  unfold State.placeLines
  dsimp only
  split
  · exact hk
  · exact hk.fields.sawClock

theorem Keeps.placeDesc {agent l n} (hk : Keeps C σ τ) : Keeps C σ (τ.placeDesc agent l n).1 := hk.placeLines

theorem Keeps.unitStep {n p} (hk : Keeps C σ τ) : Keeps C σ (τ.unitStep n p) := hk.fields.placeDesc

theorem Keeps.readmit {h} (hk : Keeps C σ τ) : Keeps C σ (τ.readmit h) := by
  unfold State.readmit
  dsimp only
  split
  · exact hk
  · exact .ite hk.fields.unitStep.onStream hk

theorem Keeps.readmitAll {es} (hk : Keeps C σ τ) : Keeps C σ (readmitAll τ es) := hk.foldl (fun _ _ => (Keeps.refl _).readmit)

theorem Keeps.purgeDie {slot d} (hk : Keeps C σ τ) : Keeps C σ (τ.purgeDie slot d) := by
  unfold State.purgeDie
  dsimp only
  exact hk.onCaravan.readmitAll

theorem Keeps.undrive {slot} (hk : Keeps C σ τ) : Keeps C σ (τ.undrive slot) :=
  hk.foldl (fun _ _ => (Keeps.ite (Keeps.refl _).unitStep (Keeps.refl _)).onStream)

theorem Keeps.purge {slot} (hk : Keeps C σ τ) : Keeps C σ (τ.purge slot) := by
  unfold State.purge
  dsimp only
  exact (hk.foldl (fun _ _ => (Keeps.refl _).purgeDie)).undrive.fields.onLaunch

theorem Keeps.stopLaunch {slot code endState} (hk : Keeps C σ τ) : Keeps C σ (τ.stopLaunch slot code endState) := by
  unfold State.stopLaunch
  dsimp only
  exact .ite hk.purge.onLaunch (.ite hk.onLaunch (.ite hk.onLaunch hk))

theorem Keeps.utrap {slot cause async place epc tval} (hk : Keeps C σ τ) : Keeps C σ (τ.utrap slot cause async place epc tval) := by
  unfold State.utrap
  dsimp only
  exact hk.onLaunch

theorem Keeps.clockStop {slot t recAddr} (hk : Keeps C σ τ) : Keeps C σ (τ.clockStop slot t recAddr) := .ite hk hk.fields.utrap.stopLaunch

theorem Keeps.traceFor {owner g k kind payload} (hk : Keeps C σ τ) : Keeps C σ (τ.traceFor owner g k kind payload) := by
  unfold State.traceFor
  dsimp only
  exact .ite hk.onCore hk

theorem Keeps.trace {g k kind payload} (hk : Keeps C σ τ) : Keeps C σ (τ.trace g k kind payload) := hk.traceFor

theorem Keeps.traceMask {g k n} (hk : Keeps C σ τ) : Keeps C σ (τ.traceMask g k n) := by
  unfold State.traceMask
  dsimp only
  exact hk.trace

theorem Keeps.unhandled {o p} (hk : Keeps C σ τ) : Keeps C σ (τ.unhandled o p) := by
  unfold State.unhandled
  dsimp only
  exact hk.trace.utrap

theorem Keeps.post {o p} (hk : Keeps C σ τ) : Keeps C σ (τ.post o p) := by
  unfold State.post
  split
  · exact hk.onOrigin
  · exact hk.unhandled.stopLaunch

theorem Keeps.passPend {g k} (hk : Keeps C σ τ) : Keeps C σ (τ.passPend g k) := by
  unfold State.passPend
  dsimp only
  exact hk.onCtx.foldl (fun _ _ => (Keeps.refl _).post)

theorem Keeps.recordPend {g k} (hk : Keeps C σ τ) : Keeps C σ (τ.recordPend g k) := hk.foldl (fun _ _ => (Keeps.refl _).unhandled)

theorem Keeps.dropRank {g slot} (hk : Keeps C σ τ) : Keeps C σ (τ.dropRank g slot) := by
  unfold State.dropRank
  dsimp only
  exact hk.foldl (fun _ _ => (Keeps.refl _).onCaravan.foldl (fun _ _ => ((Keeps.refl _).foldl (fun _ _ =>
    (Keeps.refl _).readmit)).readmit))

theorem Ctx.intrap_initial (k : Nat) : (Ctx.initial k).intrap = false := by unfold Ctx.initial; split <;> rfl

theorem Ctx.intrap_discard (k : Nat) (c : Ctx) : (c.discard k).intrap = false := Ctx.intrap_initial k

/-- Contexts that are discarded are in no handler. -/
theorem intrap_foldl_set {f : Nat → Ctx} (hf : ∀ k, (f k).intrap = false) (ks : List Nat) (t : Table Ctx) (d : Ctx) (j : Nat)
    (h : ((ks.foldl (fun t k => t.set k (f k)) t).get d j).intrap = true) : (t.get d j).intrap = true := by
  induction ks generalizing t with
  | nil => exact h
  | cons k ks ih =>
    have hs := ih _ h
    by_cases e : j = k
    · subst e
      rw [Table.get_set_same, hf] at hs
      cases hs
    · rwa [Table.get_set_other _ _ _ e] at hs

theorem Keeps.discardCtxs {g ks slot} (hk : Keeps C σ τ) : Keeps C σ (τ.discardCtxs g ks slot) := by
  unfold State.discardCtxs
  dsimp only
  exact ((hk.foldl (fun _ _ => (Keeps.refl _).recordPend.unadmit.orphan)).onCore (by
    exact fun _ c j h => intrap_foldl_set (fun k => Ctx.intrap_discard k (c.ctx k)) ks c.ctxs _ j h)).onCtx.dropRank.foldl
      (fun _ _ => (Keeps.refl _).releaseTiles)

theorem Keeps.discardCore {g} (hk : Keeps C σ τ) : Keeps C σ (τ.discardCore g) := hk.discardCtxs

theorem Keeps.send {v} (hk : Keeps C σ τ) : Keeps C σ (τ.send v) := by
  unfold State.send
  dsimp only
  exact .ite hk.fields hk.fields

theorem Keeps.logEntry {ws} (hk : Keeps C σ τ) : Keeps C σ (τ.logEntry ws) := by
  unfold State.logEntry
  dsimp only
  exact .ite hk (.ite hk.fields (.ite (hk.memory (Memory.wf_putBytes _ _ _)).send (hk.memory (Memory.wf_putBytes _ _ _))))

theorem Keeps.machineCheck {agent slot cause addr detail} (hk : Keeps C σ τ) : Keeps C σ (τ.machineCheck agent slot cause addr detail) :=
  hk.logEntry

theorem Keeps.countLife {i n} (hk : Keeps False σ τ) : Keeps False σ (τ.countLife i n) := by
  unfold State.countLife
  dsimp only
  exact hk.fields

theorem Keeps.endAbnormal {g k} (hk : Keeps C σ τ) : Keeps C σ (τ.endAbnormal g k) :=
  (hk.unadmit.onCtx (fun _ _ h => absurd h Bool.false_ne_true)).releaseTiles.orphan.passPend

theorem Keeps.routeTrap {g k cause async epc tval} (hk : Keeps C σ τ) : Keeps C σ (τ.routeTrap g k cause async epc tval) := by
  unfold State.routeTrap
  dsimp only
  exact .ite (.ite hk.trace.utrap.stopLaunch.discardCore hk.trace.utrap.stopLaunch.endAbnormal) (.ite
    hk.trace.utrap.stopLaunch.discardCore hk.trace.utrap.endAbnormal)

theorem Keeps.putFrame {g k f} (hk : Keeps C σ τ) : Keeps C σ (τ.putFrame g k f) := hk.onCore

theorem Keeps.takeTrap {g k cause async more epc tval words race} (hk : Keeps False σ τ) : Keeps False σ (τ.takeTrap g k cause async more
    epc tval words race) := by
  unfold State.takeTrap
  dsimp only
  exact .ite hk.routeTrap (hk.trace.putFrame.setCtx nofun)

theorem Keeps.deliverAsync {g k} (hk : Keeps False σ τ) : KeepsSome False σ id (τ.deliverAsync g k) := by
  unfold State.deliverAsync
  dsimp only
  split
  · exact .none
  · exact .ite .none (.some (hk.unpop.onCtx nofun).takeTrap)

theorem Keeps.tick {n} (hk : Keeps C σ τ) : Keeps C σ (τ.tick n) := hk.fields

theorem Keeps.retired {g k} (hk : Keeps C σ τ) : Keeps C σ (τ.retired g k) := hk.onCtx.tick

theorem Keeps.waiting {g k f} (hk : Keeps C σ τ) (hf : ∀ υ, Keeps C υ (f υ)) : Keeps C σ (τ.waiting g k f) :=
  (hk.trans (hf τ)).onCtx.tick

/-! ### Operands -/

theorem src_steady {code} : (src code).Steady C := by
  unfold src
  refine get_steady.bind fun _ => ?_
  split
  extract_lets -underBinder +onlyGivenNames c
  split
  · split
    · exact pure_steady
    · exact (onMyCore_steady).bind fun _ => pure_steady
  · exact pure_steady

theorem dst_steady {code v} : (dst code v).Steady C :=
  (.ite (onMyCtx_steady) (.ite (onMyCtx_steady) (.ite (myCtx_steady.bind fun _ => (onMyCore_steady)) pure_steady)))

theorem dstNext_steady {code v} : (dstNext code v).Steady C := dst_steady

theorem srcB_steady {x} : (srcB x).Steady C := by
  unfold srcB
  split
  · exact pure_steady
  · exact src_steady

theorem takeDraws_steady {n tval} : (takeDraws n tval).Steady C :=
  myCtx_steady.bind fun _ => trapIf_steady.bind fun _ => (onMyCtx_steady).bind fun _ => pure_steady

theorem drawsFor_steady {rm n tval} : (drawsFor rm n tval).Steady C := .ite takeDraws_steady pure_steady

/-! ### Local -/

theorem Keeps.zeroBank {g bank owner} (hk : Keeps C σ τ) : Keeps C σ (τ.zeroBank g bank owner) :=
    (hk.memory (Memory.wf_zero _ _ _)).onCore

theorem Keeps.localWrite {g off bs} (hk : Keeps C σ τ) : Keeps C σ (τ.localWrite g off bs) := by
  unfold State.localWrite
  dsimp only
  exact hk.memory (Memory.wf_putBytes _ _ _)

theorem Keeps.retag {g owner off} (hk : Keeps C σ τ) : Keeps C σ (τ.retag g owner off) := .ite hk hk.zeroBank

theorem checkSpad_steady {offs la} : (checkSpad offs la).Steady C := myCore_steady.bind fun _ => trapIf_steady

theorem checkLocal_steady {la} : (checkLocal la).Steady C := trapIf_steady.bind fun _ => trapIf_steady

theorem Keeps.retagAll {g owner off n} (hk : Keeps C σ τ) : Keeps C σ (τ.retagAll g owner off n) :=
  hk.foldl (fun _ _ => (Keeps.refl _).retag)

theorem localGet_steady {off n la} : (localGet off n la).Steady C := by
  unfold localGet
  refine get_bind_steady fun s => ?_
  split
  extract_lets -underBinder +onlyGivenNames owner j0
  have hj0 : (j0 ()).SteadyAt C s := trapIf_bind_steadyAt ((set_steadyAt (Keeps.refl _).retagAll).bind fun _ => pure_steady)
  exact .ite wait_bind_steadyAt hj0

theorem localPut_steady {off bs} : (localPut off bs).Steady C := by
  unfold localPut
  refine get_bind_steady fun s => ?_
  split
  extract_lets -underBinder +onlyGivenNames owner j0
  have hj0 : (j0 ()).SteadyAt C s := set_steadyAt (Keeps.refl _).retagAll.localWrite
  exact .ite wait_bind_steadyAt hj0

theorem f4dElem_steady {e la} : (f4dElem e la).Steady C := localGet_steady.bind fun _ => localGet_steady.bind fun _ => pure_steady

theorem f8dElem_steady {ty e la} : (f8dElem ty e la).Steady C := localGet_steady.bind fun _ => pure_steady

theorem windowGet_steady {win off ty n la} : (windowGet win off ty n la).Steady C := by
  unfold windowGet
  split
  · exact f4dElem_steady.bind fun _ => (.ite (f4dElem_steady.bind fun _ => pure_steady) pure_steady)
  · exact f8dElem_steady.bind fun _ => (.ite (f8dElem_steady.bind fun _ => pure_steady) pure_steady)
  · exact localGet_steady.bind fun _ => pure_steady
  · exact localGet_steady.bind fun _ => pure_steady
  · exact localGet_steady.bind fun _ => pure_steady

theorem windowPut_steady {win off ty n rm d j v} : (windowPut win off ty n rm d j v).Steady C := by
  unfold windowPut
  split
  · exact localPut_steady
  · exact localPut_steady
  · exact localPut_steady
  · exact localPut_steady

theorem checkScalar_steady {la ty store word0} : (checkScalar la ty store word0).Steady C :=
  checkLocal_steady.bind fun _ => trapIf_steady.bind fun _ => trapIf_steady.bind fun _ => trapIf_steady.bind fun _ =>
    trapIf_steady.bind fun _ => checkSpad_steady

theorem localDword_steady {la} : (localDword la).Steady C :=
  trapIf_steady.bind fun _ => checkSpad_steady.bind fun _ => localGet_steady.bind fun _ => pure_steady

/-! ### WriteLane -/

theorem Keeps.onChan {k f} (hk : Keeps False σ τ) : Keeps False σ (τ.onChan k f) := hk.fields

theorem Keeps.charge {g n} (hk : Keeps C σ τ) : Keeps C σ (τ.charge g n) := by
  unfold State.charge
  dsimp only
  exact hk.onCore

theorem Keeps.stall {g k} (hk : Keeps C σ τ) : Keeps C σ (τ.stall g k) := by
  unfold State.stall
  dsimp only
  exact hk.onCore

theorem Keeps.stallAdmitted {g k n} (hk : Keeps C σ τ) : Keeps C σ (τ.stallAdmitted g k n) := by
  unfold State.stallAdmitted
  dsimp only
  exact hk.onCore.onCtx

theorem Keeps.landed {line} (hk : Keeps False σ τ) : Keeps False σ (τ.landed line) := hk.fields

theorem Keeps.homeWrite {line bytes core by_ owner near made} (hk : Keeps C σ τ) :
    Keeps C σ (τ.homeWrite line bytes core by_ owner near made) := by
  unfold State.homeWrite
  dsimp only
  have hm := Memory.wf_foldl (fun m (b : Nat × Byte) => Memory.wf_put m b.1 b.2) bytes
  refine .ite hk.onCaravan (.ite hk ?_)
  split
  · exact hk.memory (hm _)
  · exact hk.memory (hm _)

theorem Keeps.acceptEntry {g e} (hk : Keeps C σ τ) : Keeps C σ (τ.acceptEntry g e) := by
  unfold State.acceptEntry
  dsimp only
  exact .ite hk.homeWrite.fields hk.homeWrite

theorem Keeps.acceptFor {g line q} (hk : Keeps C σ τ) : Keeps C σ (τ.acceptFor g line q) := by
  induction q generalizing τ with
  | nil => exact hk
  | cons e r ih => exact .ite (ih hk.acceptEntry.onCore) hk

theorem Keeps.acceptLine {but line} (hk : Keeps C σ τ) : Keeps C σ (τ.acceptLine but line) :=
  hk.foldl (fun _ _ => .ite (Keeps.refl _) (Keeps.refl _).acceptFor)

theorem Keeps.makeRoom {g} (hk : Keeps C σ τ) : Keeps C σ (τ.makeRoom g) := by
  unfold State.makeRoom
  split
  · exact .ite hk hk.acceptEntry.onCore
  · exact hk

theorem Keeps.writeBack {g l} (hk : Keeps C σ τ) : Keeps C σ (τ.writeBack g l) := by
  unfold State.writeBack
  dsimp only
  exact hk.charge.makeRoom.onCore.fields

theorem Keeps.settleFor {g mine line} (hk : Keeps C σ τ) : Keeps C σ (τ.settleFor g mine line) := by
  unfold State.settleFor
  dsimp only
  split
  · split
    · exact hk.acceptLine
    · split
      · exact hk.acceptLine.writeBack.acceptFor
      · exact hk.acceptLine.fields
  · exact hk.acceptLine

theorem Keeps.settle {g line} (hk : Keeps C σ τ) : Keeps C σ (τ.settle g line) := hk.settleFor

theorem Keeps.askHost {line} (hk : Keeps C σ τ) : Keeps C σ (τ.askHost line) := by
  unfold State.askHost
  dsimp only
  exact .ite hk.fields hk

theorem Keeps.queueFor {id line} (hk : Keeps C σ τ) : Keeps C σ (τ.queueFor id line) := by
  unfold State.queueFor
  dsimp only
  exact .ite hk hk.fields

theorem Keeps.unqueue {id line} (hk : Keeps C σ τ) : Keeps C σ (τ.unqueue id line) := by
  unfold State.unqueue
  dsimp only
  exact .ite hk.fields hk

theorem Keeps.unqueueAll {id} (hk : Keeps False σ τ) : Keeps False σ (τ.unqueueAll id) := hk.foldl (fun _ _ => (Keeps.refl _).unqueue)

theorem Keeps.cwayPut {g l} (hk : Keeps C σ τ) : Keeps C σ (τ.cwayPut g l) := by
  unfold State.cwayPut
  dsimp only
  split
  · exact hk.setCore fun _ _ h => h
  · split
    · exact hk
    · exact (Keeps.ite hk.writeBack hk).onCore

theorem takeBudget_steady {n va f} (hf : ∀ υ, Keeps C υ (f υ) := by exact Keeps.refl) : (takeBudget n va f).Steady C := by
  unfold takeBudget
  refine get_steady.bind fun s => ?_
  split
  exact .ite (.ite trap_steady (waitAnd_steady fun υ => (hf υ).stall)) onMyCore_steady

theorem needEntries_steady {m n va f} (hf : ∀ υ, Keeps C υ (f υ) := by exact Keeps.refl) : (needEntries m n va f).Steady C := by
  unfold needEntries
  refine get_steady.bind fun s => ?_
  split
  exact .ite pure_steady (.ite trap_steady (waitAnd_steady fun υ => (hf υ).stallAdmitted))

theorem needEntry_steady {n va f} (hf : ∀ υ, Keeps C υ (f υ) := by exact Keeps.refl) : (needEntry n va f).Steady C :=
    needEntries_steady hf

theorem Keeps.enqueue {line bytes merged also whole} (hk : Keeps C σ τ) : Keeps C σ (τ.enqueue line bytes merged also whole) := by
  unfold State.enqueue
  dsimp only
  exact .ite hk.onCore hk.onCore

theorem enqueue_steady {line bytes merged also n va f whole} (hf : ∀ υ, Keeps C υ (f υ) := by exact Keeps.refl) :
    (enqueue line bytes merged also n va f whole).Steady C :=
  have h := modify_steady fun υ => (Keeps.refl υ).enqueue
  get_steady.bind fun _ => .ite h ((needEntry_steady hf).bind fun _ => h)

/-! ### Pages -/

theorem Keeps.setNode {n t} (hk : Keeps C σ τ) : Keeps C σ (τ.setNode n t) := hk.fields

theorem Keeps.setPage {n p} (hk : Keeps C σ τ) : Keeps C σ (τ.setPage n p) := hk.fields

theorem Keeps.loadSpm {die n} (hk : Keeps C σ τ) : Keeps C σ (τ.loadSpm die n) := .ite hk hk.onCaravan

theorem Keeps.leaveSpm {n} (hk : Keeps C σ τ) : Keeps C σ (τ.leaveSpm n) := by
  unfold State.leaveSpm
  dsimp only
  exact hk.fields

theorem Keeps.growSpm {n} (hk : Keeps C σ τ) : Keeps C σ (τ.growSpm n) := by
  unfold State.growSpm
  dsimp only
  exact .ite hk.leaveSpm hk.fields

theorem Keeps.newId (hk : Keeps C σ τ) : Keeps C σ (τ.newId).1 := hk.fields

theorem Keeps.copyPage {src dst} (hk : Keeps C σ τ) : Keeps C σ (τ.copyPage src dst) := by
  unfold State.copyPage
  dsimp only
  exact (hk.foldl (fun _ _ => (Keeps.refl _).settle)).memory
    (Memory.wf_foldl (fun m (c : Host.Cell) => Memory.wf_put m (pageKey dst 0 + (c.1 - pageKey src 0)) c.2) _ _)

theorem Keeps.dupPage {page} (hk : Keeps C σ τ) : Keeps C σ (τ.dupPage page).1 := hk.newId.setPage.copyPage

theorem Keeps.sharePage {page} (hk : Keeps C σ τ) : Keeps C σ (τ.sharePage page).1 := by
  unfold State.sharePage
  dsimp only
  split
  · exact hk.setPage
  · exact hk.dupPage

theorem Keeps.copyLeaf {leaf} (hk : Keeps C σ τ) : Keeps C σ (τ.copyLeaf leaf).1 := by
  unfold State.copyLeaf
  dsimp only
  refine (Keeps.newId ?_).setNode.setNode
  refine Keeps.foldl_fst ?_ fun _ _ => (Keeps.refl _).sharePage
  exact hk

theorem Keeps.copyRoot {root} (hk : Keeps C σ τ) : Keeps C σ (τ.copyRoot root).1 := by
  unfold State.copyRoot
  dsimp only
  exact (hk.foldl (fun _ _ => (Keeps.refl _).setNode)).newId.setNode.setNode

theorem Keeps.privateRoot {stream} (hk : Keeps C σ τ) : Keeps C σ (τ.privateRoot stream) := by
  unfold State.privateRoot
  dsimp only
  exact .ite hk.copyRoot.onStream hk

theorem Keeps.privateLeaf {stream p} (hk : Keeps C σ τ) : Keeps C σ (τ.privateLeaf stream p).1 := by
  unfold State.privateLeaf
  dsimp only
  split
  · exact hk.privateRoot.newId.setNode.setNode
  · split
    · exact hk.privateRoot.copyLeaf.setNode
    · exact hk.privateRoot

theorem Keeps.pageForWrite {stream p} (hk : Keeps C σ τ) : KeepsSome C σ Prod.fst (τ.pageForWrite stream p) := by
  unfold State.pageForWrite
  split
  rename_i s2 leaf e
  have h2 := hk.privateLeaf.fst_eq e
  extract_lets +onlyGivenNames d setPage
  have hp {υ : State} {page : Nat} (h : Keeps C σ υ) : Keeps C σ (setPage υ page) := h.setNode
  clear_value setPage
  split
  · refine .ite .none ?_
    split
    rename_i e1
    refine .some ?_
    exact (hp (h2.newId.fst_eq e1).setPage).onStream.growSpm
  · exact .ite (.some (hp h2.dupPage.setPage)) (.some h2)

theorem Keeps.joinReplay {page w} (hk : Keeps C σ τ) : Keeps C σ (τ.joinReplay page w) := .ite hk hk.fields

theorem Keeps.leaveReplay {page w} (hk : Keeps C σ τ) : Keeps C σ (τ.leaveReplay page w) := by
  unfold State.leaveReplay
  split
  · exact hk.fields
  · exact hk.fields

theorem Keeps.passReplay {w} (hk : Keeps C σ τ) : Keeps C σ (τ.passReplay w) :=
  hk.foldl (fun _ _ => .ite (Keeps.refl _).leaveReplay (Keeps.refl _))

theorem Keeps.freeFrame {page} (hk : Keeps C σ τ) : Keeps C σ (τ.freeFrame page) := by
  unfold State.freeFrame
  split
  · exact hk.onCore
  · exact hk.onOwner
  · exact hk

theorem Keeps.freePage {page} (hk : Keeps C σ τ) : Keeps C σ (τ.freePage page) := by
  unfold State.freePage
  dsimp only
  exact hk.freeFrame.memory (Memory.wf_zero _ _ _)

theorem Keeps.unrefPage {page} (hk : Keeps C σ τ) : Keeps C σ (τ.unrefPage page) := by
  unfold State.unrefPage
  dsimp only
  exact .ite (.ite hk.setPage hk.freePage) hk.setPage

theorem Keeps.unrefLeaf {leaf} (hk : Keeps C σ τ) : Keeps C σ (τ.unrefLeaf leaf) := by
  unfold State.unrefLeaf
  dsimp only
  exact .ite (hk.foldl (fun _ _ => (Keeps.refl _).unrefPage)).fields hk.setNode

theorem Keeps.unrefRoot {root} (hk : Keeps C σ τ) : Keeps C σ (τ.unrefRoot root) := by
  unfold State.unrefRoot
  dsimp only
  exact .ite (hk.foldl (fun _ _ => (Keeps.refl _).unrefLeaf)).fields hk.setNode

theorem Keeps.reserve {owner k} (hk : Keeps C σ τ) : Keeps C σ (τ.reserve owner k).1 := by
  unfold State.reserve
  dsimp only
  split
  · dsimp only
    exact hk.fields.onOwner
  · dsimp only
    exact hk.onOwner

theorem Keeps.unreserve {owner k} (hk : Keeps C σ τ) : Keeps C σ (τ.unreserve owner k) := hk.fields.onOwner

/-! ### Translate -/

theorem Keeps.translate {cl owner va} (hk : Keeps C σ τ) : Keeps C σ (τ.translate cl owner va).2 := by
  unfold State.translate
  dsimp only
  split
  · exact hk
  · split
    · exact hk.fields
    · exact hk

theorem Keeps.postFault {f} (hk : Keeps C σ τ) : Keeps C σ (τ.postFault f).1 := by
  unfold State.postFault
  dsimp only
  split
  · exact hk
  · exact .ite (hk.memory (Memory.wf_putBytes _ _ _)).send (hk.memory (Memory.wf_putBytes _ _ _))

theorem Keeps.postFaults {fs} (hk : Keeps C σ τ) : Keeps C σ (τ.postFaults fs).1 := by
  induction fs generalizing τ with
  | nil => exact hk
  | cons f r ih => exact ih hk.postFault

theorem Keeps.holdFaultAs {owner va agent waiter kind slot} (hk : Keeps C σ τ) : Keeps C σ (τ.holdFaultAs owner va agent waiter kind
    slot) := by
  unfold State.holdFaultAs
  dsimp only
  exact hk.fields.postFaults.fields

theorem Keeps.holdFault {owner va agent kind slot} (hk : Keeps C σ τ) : Keeps C σ (τ.holdFault owner va agent kind slot) := hk.holdFaultAs

theorem translateFor_steady {va write fetch} : (translateFor va write fetch).Steady C := by
  unfold translateFor
  refine get_bind_steady fun s => ?_
  split
  extract_lets -underBinder +onlyGivenNames owner addr
  refine trapIf_bind_steadyAt ?_
  extract_lets -underBinder +onlyGivenNames j0
  have hj0 : (j0 ()).SteadyAt C s := by
    unfold j0
    split
    rename_i e
    split
    · exact trap_steady _
    · split
      · exact trap_steady _
      · exact (set_steadyAt ((Keeps.refl _).translate.snd_eq e)).bind fun _ => pure_steady
    · exact (waitAnd_steady fun _ => (Keeps.refl _).holdFault) _
  exact .ite wait_bind_steadyAt hj0

theorem needPage_steady {page} : (needPage page).Steady C :=
  get_steady.bind fun _ => (.ite (modify_steady fun _ => (Keeps.refl _).leaveReplay) (waitAnd_steady fun _ => (Keeps.refl _).joinReplay))

theorem Keeps.windowWrite {agent l n p} (hk : Keeps C σ τ) : KeepsSome C σ Prod.fst (τ.windowWrite agent l n p) := by
  unfold State.windowWrite
  split
  · exact .none
  · rename_i e
    exact .ite (.some (hk.pageForWrite _ e)) (.some (hk.pageForWrite _ e).placeDesc)

theorem locate_steady {va size write aval} : (locate va size write aval).Steady C := by
  unfold locate
  refine noteAccess_steady.bind fun _ => ?_
  extract_lets -underBinder +onlyGivenNames a
  split
  · exact trap_steady
  · exact trap_steady
  · refine trapIf_steady.bind fun _ => ?_
    split
    · exact translateFor_steady.bind fun _ => pure_steady
    · exact pure_steady
    · exact trapIf_steady.bind fun _ => pure_steady
    · exact trapIf_steady.bind fun _ => pure_steady
    · refine get_steady.bind fun _ => ?_
      split
      · exact throw_trap_steady
      · split
        · refine trapIf_steady.bind fun _ => ?_
          extract_lets -underBinder +onlyGivenNames j0
          have hj0 : (j0 ()).Steady C := by
            unfold j0
            refine get_bind_steady fun s => ?_
            extract_lets -underBinder +onlyGivenNames j0
            have hj0 : (j0 ()).SteadyAt C s := by
              unfold j0
              split
              · exact trap_steady _
              · rename_i e
                exact trapIf_bind_steadyAt ((set_steadyAt ((Keeps.refl _).windowWrite _ e)).bind fun _ => (onMyCtx_steady).bind fun _ =>
                  pure_steady)
            exact .ite wait_bind_steadyAt hj0
          split
          · exact needPage_steady.bind fun _ => hj0
          · exact hj0
        · split
          · exact pure_steady
          · exact needPage_steady.bind fun _ => pure_steady

/-! ### Home -/

theorem Keeps.evictMeta {line} (hk : Keeps C σ τ) : Keeps C σ (τ.evictMeta line) := by
  unfold State.evictMeta
  dsimp only
  split
  · exact hk
  · exact hk.fields

theorem Keeps.touchMeta {line} (hk : Keeps C σ τ) : Keeps C σ (τ.touchMeta line) := by
  unfold State.touchMeta
  dsimp only
  split
  · exact hk.fields
  · split
    · exact hk.fields
    · split
      · exact hk.fields.evictMeta
      · exact hk.fields

theorem Keeps.recordAccess {r t} (hk : Keeps C σ τ) : Keeps C σ (τ.recordAccess r t) := by
  unfold State.recordAccess
  dsimp only
  exact hk.fields.touchMeta

theorem Keeps.place326 {r} (hk : Keeps C σ τ) : Keeps C σ (τ.place326 r).1 := by
  unfold State.place326
  dsimp only
  exact hk.fields.sawClock

theorem Keeps.logWrite {g owner agent l key bytes} (hk : Keeps C σ τ) : Keeps C σ (τ.logWrite g owner agent l key bytes) := by
  unfold State.logWrite
  dsimp only
  exact .ite hk.settle.place326.homeWrite.onCore hk.settle.place326.homeWrite

theorem Keeps.appendLog {g owner agent l racemode rec8} (hk : Keeps C σ τ) : Keeps C σ (τ.appendLog g owner agent l racemode rec8) := by
  unfold State.appendLog
  dsimp only
  split
  · exact hk
  · split
    · split
      · exact hk
      · split
        · split
          · exact hk.settle.logWrite.logWrite
          · exact hk.settle.logWrite
        · exact hk.settle.logWrite
    · exact hk

theorem needLog_steady {va} : (needLog va).Steady C := by
  unfold needLog
  refine myCtx_steady.bind fun _ => get_steady.bind fun _ => ?_
  split
  · exact trap_steady
  · exact translateFor_steady.bind fun _ => pure_steady
  · exact waitAnd_steady fun _ => (Keeps.refl _).askHost
  · exact pure_steady

theorem homeAccess_steady {r va pc} : (homeAccess r va pc).Steady C := by
  unfold homeAccess
  refine get_steady.bind fun _ => ?_
  split
  extract_lets -underBinder +onlyGivenNames c t
  refine trapIf_steady.bind fun _ => ?_
  extract_lets -underBinder +onlyGivenNames v m kind record report j0
  have hj0 : (j0 ()).Steady C := (modify_steady fun _ => (Keeps.ite (Keeps.refl _).recordAccess (Keeps.refl _)).sawClock).bind fun _ =>
    (modify_steady fun _ => (Keeps.refl _).fields).bind fun _ => (onMyCtx_steady).bind fun _ => pure_steady
  split
  · exact needLog_steady.bind fun _ => (.ite ((modify_steady fun _ => (Keeps.refl _).appendLog).bind fun _ =>
      hj0) (throw_trap_steady.bind fun _ => hj0))
  · split
    · exact .ite (needLog_steady.bind fun _ => (modify_steady fun _ => (Keeps.refl _).appendLog).bind fun _ => hj0) hj0
    · exact hj0

theorem settleMineFor_steady {mine line} : (settleMineFor mine line).Steady C := by
  unfold settleMineFor
  refine get_steady.bind fun _ => ?_
  extract_lets -underBinder +onlyGivenNames j0
  have hj0 : (j0 ()).Steady C := modify_steady fun _ => (Keeps.refl _).settleFor
  exact .ite ((waitAnd_steady fun _ => (Keeps.refl _).askHost).bind fun _ => hj0) hj0

theorem settleMine_steady {line} : (settleMine line).Steady C := settleMineFor_steady

theorem needSlot_steady {line} : (needSlot line).Steady C := get_steady.bind fun _ => .ite wait_steady pure_steady

theorem loadKey_steady {key size va pc plain atomic scope} : (loadKey key size va pc plain atomic scope).Steady C := by
  unfold loadKey
  refine get_steady.bind fun _ => ?_
  extract_lets -underBinder +onlyGivenNames g line j0
  have hj0 : (j0 ()).Steady C := by
    unfold j0
    refine get_steady.bind fun _ => ?_
    extract_lets -underBinder +onlyGivenNames r hit
    clear_value hit
    extract_lets -underBinder +onlyGivenNames j0
    have hj0 : (j0 ()).Steady C := by
      unfold j0
      split
      · exact trapIf_steady.bind fun _ => trapIf_steady.bind fun _ => (onMyCtx_steady).bind fun _ => (modify_steady fun _ =>
          (Keeps.refl _).cwayPut).bind fun _ => pure_steady
      · refine settleMine_steady.bind fun _ => get_steady.bind fun _ => trapIf_steady.bind fun _ => ?_
        extract_lets -underBinder +onlyGivenNames j0
        have hj0 : (j0 ()).Steady C := homeAccess_steady.bind fun _ => get_steady.bind fun _ => (.ite ((modify_steady fun _ =>
          (Keeps.refl _).onCore).bind fun _ => pure_steady) (.ite ((modify_steady fun _ => (Keeps.refl _).cwayPut).bind fun _ =>
          pure_steady) pure_steady))
        exact .ite hj0 (needSlot_steady.bind fun _ => hj0)
    split
    · exact trap_steady.bind fun _ => hj0
    · exact hj0
  exact .ite ((modify_steady fun _ => (Keeps.refl _).acceptFor).bind fun _ => hj0) hj0

theorem remoteLoad_steady {core off size va} : (remoteLoad core off size va).Steady C := by
  unfold remoteLoad
  refine get_steady.bind fun _ => ?_
  extract_lets -underBinder +onlyGivenNames j0
  have hj0 : (j0 ()).Steady C := trapIf_steady.bind fun _ => trapIf_steady.bind fun _ => pure_steady
  exact .ite (wait_steady.bind fun _ => hj0) hj0

theorem loadBytes_steady {va size aval pc} : (loadBytes va size aval pc).Steady C := by
  unfold loadBytes
  refine locate_steady.bind fun _ => ?_
  split
  · exact pure_steady
  · exact remoteLoad_steady
  · exact loadKey_steady

theorem loadDword_steady {va aval pc} : (loadDword va aval pc).Steady C := loadBytes_steady.bind fun _ => pure_steady

theorem putStore_steady {key bs scope t n va} : (putStore key bs scope t n va).Steady C := by
  unfold putStore
  extract_lets -underBinder +onlyGivenNames line
  refine myCore_steady.bind fun _ => ?_
  extract_lets -underBinder +onlyGivenNames j0
  have hj0 : (j0 ()).Steady C := by
    unfold j0
    refine get_steady.bind fun _ => ?_
    split
    exact .ite ((modify_steady fun _ => (Keeps.refl _).cwayPut).bind fun _ => (modify_steady fun _ =>
      (Keeps.refl _).fields)) (.ite ((onMyCore_steady).bind fun _ => (modify_steady fun _ => (Keeps.refl _).fields).bind fun _ =>
      (enqueue_steady)) (enqueue_steady))
  exact .ite ((modify_steady fun _ => (Keeps.refl _).acceptFor).bind fun _ => (.ite hj0 (needSlot_steady.bind fun _ => hj0))) hj0

theorem storeKey_steady {key bs va pc scope atomic tag} : (storeKey key bs va pc scope atomic tag).Steady C := by
  unfold storeKey
  extract_lets -underBinder +onlyGivenNames line
  refine settleMineFor_steady.bind fun _ => myCore_steady.bind fun _ => ?_
  extract_lets -underBinder +onlyGivenNames n j0
  have hj0 : (j0 ()).Steady C := putStore_steady.bind fun _ => get_steady.bind fun _ => homeAccess_steady.bind fun _ => (onMyCore_steady)
  exact .ite hj0 ((takeBudget_steady).bind fun _ => hj0)

/-! ### Issue -/

theorem Keeps.trapAt {g k v t} (hk : Keeps False σ τ) : Keeps False σ (τ.trapAt g k v t) := by
  unfold State.trapAt
  dsimp only
  exact (Keeps.ite hk.unpop.unadmit hk.unpop.unadmit.appendLog).takeTrap.tick

theorem Keeps.traceMem {g k i} (hk : Keeps C σ τ) : Keeps C σ (τ.traceMem g k i) := by
  unfold State.traceMem
  split
  · exact hk
  · exact hk.trace
  · exact hk.fields.trace

theorem Ctx.intrap_touched (c : Ctx) : c.touched.intrap = c.intrap := by unfold Ctx.touched; split <;> rfl

theorem Keeps.waitEffect {i g k f} (hk : Keeps C σ τ) (hf : ∀ υ, Keeps C υ (f υ)) : Keeps C σ (waitEffect i g k f τ) := by
  unfold Machine.waitEffect
  dsimp only
  refine (hk.trans (hf τ)).passReplay.onCtx fun _ c h => ?_
  dsimp only at h
  split at h
  · rwa [Ctx.intrap_touched] at h
  · exact h

theorem Keeps.unreadyEffect {g k} (hk : Keeps C σ τ) : Keeps C σ (unreadyEffect g k τ) := hk.onCtx

theorem Keeps.takePops {g k i} (hk : Keeps C σ τ) : Keeps C σ (τ.takePops g k i) := by
  unfold State.takePops
  dsimp only
  refine .ite hk (hk.foldl fun _ _ => ?_)
  split
  · exact .refl _
  · exact (Keeps.refl _).onCore.onCtx

theorem Keeps.queueWait {g k} (hk : Keeps C σ τ) : Keeps C σ (queueWait g k τ) := hk.onCtx

/-- A body that does not trap keeps the state; one that traps leaves nothing but its trap (R8). -/
theorem runBody_cases {i g k v body} (hb : ∀ v, (body v).Steady C) :
    Keeps C τ (runBody i τ g k v body) ∨ ∃ info, runBody i τ g k v body = τ.trapAt g k v info := by
  have h := hb v ({ τ with seen := none }.onCtx g k (fun c => { c.touched with pc := v.next }))
  unfold M.SteadyAt at h
  unfold Machine.runBody
  split
  · rename_i e
    rw [e] at h
    have h0 : Keeps C τ ({ τ with seen := none }.onCtx g k (fun c => { c.touched with pc := v.next })) :=
      (Keeps.refl τ).fields.onCtx fun _ c hc => by rwa [← Ctx.intrap_touched]
    exact .inl (h0.trans h).traceMem.retired
  · exact .inr ⟨_, rfl⟩
  · rename_i e
    rw [e] at h
    exact .inl ((Keeps.refl τ).waiting fun υ => (Keeps.refl υ).waitEffect h).takePops
  · exact .inl ((Keeps.refl τ).waiting fun υ => (Keeps.refl υ).unreadyEffect)

theorem State.unpop_unpop (s : State) (g k : Nat) : (s.unpop g k).unpop g k = s.unpop g k := by
  refine State.unpop_of_none ?_
  unfold State.unpop
  dsimp only
  split
  · assumption
  · rw [State.ctx_onCtx]

/-- A trap gives back what was popped, and so does not tell whether it has been given back before. -/
theorem State.trapAt_unpop (s : State) (g k : Nat) (v : Env) (info : TrapInfo) : (s.unpop g k).trapAt g k v info = s.trapAt g k v info :=
    by
  unfold State.trapAt
  rw [State.unpop_unpop]

/-- An instruction of the cores keeps the state, or traps with nothing else done. -/
theorem IssuesSteady.cases {i o} (h : IssuesSteady C i τ o) : ∃ t, o = .next t ∧
    (Keeps C τ t ∨ ∃ info, t = τ.trapAt τ.cur.1 τ.cur.2 (envOf τ τ.cur.1 τ.cur.2 i) info) := by
  obtain ⟨body, rfl, hb⟩ := h
  unfold issue
  dsimp only
  split
  · exact ⟨_, rfl, .inr ⟨_, rfl⟩⟩
  · split
    · exact ⟨_, rfl, .inr ⟨_, State.trapAt_unpop ..⟩⟩
    · exact ⟨_, rfl, .inr ⟨_, State.trapAt_unpop ..⟩⟩
    · exact ⟨_, rfl, .inl ((Keeps.refl τ).unpop.waiting fun υ => (Keeps.refl υ).queueWait)⟩
    · refine ⟨_, rfl, ?_⟩
      obtain hr | ⟨info, hr⟩ := runBody_cases hb
      · exact .inl ((Keeps.refl τ).unpop.trans hr)
      · exact .inr ⟨info, hr.trans (State.trapAt_unpop ..)⟩

theorem IssuesSteady.keeps {i o} (h : IssuesSteady False i τ o) (hk : Keeps False σ τ) : KeepsO σ o := by
  obtain ⟨t, rfl, ht | ⟨info, rfl⟩⟩ := h.cases
  · exact hk.trans ht
  · exact hk.trapAt

theorem Keeps.cacheCode {cl b} (hk : Keeps False σ τ) : Keeps False σ (τ.cacheCode cl b) := by
  unfold State.cacheCode
  dsimp only
  exact hk.fields

theorem Keeps.fillBlock {g k va bs} (hk : Keeps False σ τ) : Keeps False σ (τ.fillBlock g k va bs) := hk.onCtx nofun

theorem Keeps.pinLines {g k} (hk : Keeps False σ τ) : Keeps False σ (τ.pinLines g k) := by
  unfold State.pinLines
  split
  · exact hk
  · exact hk.onCore nofun

theorem Keeps.imageTrap {g k} (hk : Keeps False σ τ) : Keeps False σ (τ.imageTrap g k) := by
  unfold State.imageTrap
  dsimp only
  exact (hk.onCtx nofun).takeTrap

/-! ### Posted -/

theorem Keeps.fireWatch {g i val} (hk : Keeps C σ τ) : Keeps C σ (τ.fireWatch g i val) := by
  unfold State.fireWatch
  dsimp only
  exact hk.traceFor.onCore

theorem Keeps.fireBar {g off n b b2} (hk : Keeps C σ τ) : Keeps C σ (τ.fireBar g off n b b2) := by
  unfold State.fireBar
  dsimp only
  exact hk.foldl (fun _ _ => (Keeps.refl _).fireWatch)

theorem Keeps.fireSignal {key val} (hk : Keeps C σ τ) : Keeps C σ (τ.fireSignal key val) :=
  hk.foldl (fun _ _ => (Keeps.refl _).foldl (fun _ _ => (Keeps.refl _).fireWatch))

theorem Keeps.updateBar {g off us} (hk : Keeps C σ τ) : Keeps C σ (τ.updateBar g off us) := by
  unfold State.updateBar
  dsimp only
  exact .ite hk.onCore hk.onCore.localWrite.fireBar

theorem Keeps.drainBar {g bank} (hk : Keeps C σ τ) : Keeps C σ (τ.drainBar g bank) := hk.foldl (fun _ _ => (Keeps.refl _).updateBar)

theorem admitPosted_steady {n va} : (admitPosted n va).Steady C := (takeBudget_steady).bind fun _ => (needEntry_steady)

theorem postWrite_steady {va bs ty jkind fn kind} : (postWrite va bs ty jkind fn kind).Steady C := by
  unfold postWrite
  refine get_steady.bind fun _ => ?_
  split
  split
  · exact unready_steady
  · exact (modify_steady fun _ => (Keeps.refl _).onCore.onCore).bind fun _ => pure_steady

theorem Keeps.answer {g p reason} (hk : Keeps C σ τ) : Keeps C σ (τ.answer g p reason) := by
  unfold State.answer
  dsimp only
  split
  · exact hk.onCore
  · split
    · exact hk.fields
    · exact hk.fields.onCore

theorem Keeps.applyPosted {g p} (hk : Keeps C σ τ) : Keeps C σ (τ.applyPosted g p) := by
  unfold State.applyPosted
  dsimp only
  split
  · exact hk.onCore.answer
  · exact hk.onCore.localWrite.answer

theorem Keeps.ackEntry {g i} (hk : Keeps C σ τ) : Keeps C σ (τ.ackEntry g i) := by
  unfold State.ackEntry
  dsimp only
  exact .ite hk.onCore hk

theorem Keeps.refuseEntry {g i} (hk : Keeps False σ τ) : Keeps False σ (τ.refuseEntry g i) := by
  unfold State.refuseEntry
  dsimp only
  split
  · exact .ite (hk.onCore nofun).post hk
  · exact hk

theorem Keeps.finishEntry {g i} (hk : Keeps C σ τ) : Keeps C σ (τ.finishEntry g i) := by
  unfold State.finishEntry
  dsimp only
  split
  · exact hk.applyPosted.ackEntry
  · exact hk.ackEntry

theorem postLane_steady {va x sent} : (postLane va x sent).Steady C := by
  unfold postLane
  refine get_bind_steady fun s => ?_
  extract_lets -underBinder +onlyGivenNames g j0
  have hj0 : (j0 ()).SteadyAt C s := (set_steadyAt ((Keeps.refl _).foldl (fun _ _ =>
    .ite (Keeps.refl _) (Keeps.refl _).finishEntry))).bind fun _ => postWrite_steady.bind fun _ => pure_steady
  exact .ite wait_bind_steadyAt hj0

/-! ### GlobalAccess -/

theorem execLd_steady {x} : IssuesSteady C (.ld x) τ (execLd x τ) :=
  ⟨_, rfl, fun _ => src_steady.bind fun _ => loadBytes_steady.bind fun _ => dst_steady⟩

theorem postAll_steady {ty ps} : (postAll ty ps).Steady C := by
  induction ps with
  | nil => exact pure_steady
  | cons p r ih => exact postWrite_steady.bind fun _ => ih

theorem storeBytes_steady {va bs ty scope posts v} : (storeBytes va bs ty scope posts v).Steady C := by
  unfold storeBytes
  refine locate_steady.bind fun _ => ?_
  split
  · exact pure_steady
  · exact admitPosted_steady.bind fun _ => postAll_steady
  · exact storeKey_steady

theorem execSt_steady {x} : IssuesSteady C (.st x) τ (execSt x τ) :=
  ⟨_, rfl, fun _ => src_steady.bind fun _ => src_steady.bind fun _ => (.ite (src_steady.bind fun _ =>
    storeBytes_steady) storeBytes_steady)⟩

theorem partner_steady {v} : (partner v).Steady C := by
  unfold partner
  refine myCtx_steady.bind fun _ => trapIf_steady.bind fun _ => myCore_steady.bind fun _ => ?_
  split
  · exact pure_steady
  · exact trap_steady

theorem locateLanes_steady {write first aval ls} : (locateLanes write first aval ls).Steady C := by
  induction ls with
  | nil => exact pure_steady
  | cons l r ih =>
    unfold locateLanes
    refine trapIf_steady.bind fun _ => ?_
    extract_lets -underBinder +onlyGivenNames j0
    have hj0 : (j0 ()).Steady C := locate_steady.bind fun _ => ih.bind fun _ => pure_steady
    split
    · exact trapIf_steady.bind fun _ => hj0
    · exact hj0

theorem readLanes_steady {k vd pc ls} : (readLanes k vd pc ls).Steady C := by
  induction ls with
  | nil => exact pure_steady
  | cons l r ih =>
    have h (bs : List Byte) : (do
        modify (fun (s : State) => s.onCtx s.cur.1 k (·.setLane vd l.1 (BitVec.ofNat 32 (natOfBytes bs))))
        readLanes k vd pc r).Steady C :=
      (modify_steady fun _ => (Keeps.refl _).onCtx).bind fun _ => ih
    unfold readLanes
    split
    · exact pure_steady.bind h
    · exact remoteLoad_steady.bind h
    · exact loadKey_steady.bind h

theorem admitVector_steady {n scope locs} : (admitVector n scope locs).Steady C := by
  unfold admitVector
  refine get_steady.bind fun _ => myCore_steady.bind fun _ => ?_
  extract_lets -underBinder +onlyGivenNames j0
  have hj0 : (j0 ()).Steady C := .ite pure_steady ((takeBudget_steady).bind fun _ => (needEntries_steady))
  exact .ite (unready_steady.bind fun _ => hj0) hj0

theorem makeRoom_steady {line} : (makeRoom line).Steady C := modify_steady fun _ => .ite (Keeps.refl _) (Keeps.refl _).makeRoom

theorem writeLanes_steady {p va0 scope pc sent ls} : (writeLanes p va0 scope pc sent ls).Steady C := by
  induction ls generalizing sent with
  | nil => exact pure_steady
  | cons l r ih =>
    unfold writeLanes
    dsimp only
    split
    · exact ih
    · exact postLane_steady.bind fun _ => ih
    · exact settleMineFor_steady.bind fun _ => makeRoom_steady.bind fun _ => putStore_steady.bind fun _ => get_steady.bind fun _ =>
        homeAccess_steady.bind fun _ => (onMyCore_steady).bind fun _ => ih

theorem Keeps.storedWhole {g lines} (hk : Keeps C σ τ) : Keeps C σ (τ.storedWhole g lines) := by
  unfold State.storedWhole
  dsimp only
  exact hk.onCore.fields

theorem vectorLoad_steady {x v indexed} : (vectorLoad x v indexed).Steady C := by
  unfold vectorLoad
  refine partner_steady.bind fun _ => ?_
  split
  exact src_steady.bind fun _ => locateLanes_steady.bind fun _ => readLanes_steady

theorem vectorStore_steady {x v indexed} : (vectorStore x v indexed).Steady C := by
  unfold vectorStore
  refine partner_steady.bind fun _ => ?_
  split
  exact src_steady.bind fun _ => locateLanes_steady.bind fun _ => myCore_steady.bind fun _ => admitVector_steady.bind fun _ =>
    writeLanes_steady.bind fun _ => (modify_steady fun _ => (Keeps.refl _).storedWhole)

theorem execVld_steady {x} : IssuesSteady C (.vld x) τ (execVld x τ) :=
  ⟨_, rfl, fun _ => vectorLoad_steady⟩

theorem execVst_steady {x} : IssuesSteady C (.vst x) τ (execVst x τ) :=
  ⟨_, rfl, fun _ => vectorStore_steady⟩

theorem execVgath_steady {x} : IssuesSteady C (.vgath x) τ (execVgath x τ) :=
  ⟨_, rfl, fun _ => vectorLoad_steady⟩

theorem execVscat_steady {x} : IssuesSteady C (.vscat x) τ (execVscat x τ) :=
  ⟨_, rfl, fun _ => vectorStore_steady⟩

theorem Keeps.prefetch {key} (hk : Keeps C σ τ) : Keeps C σ (τ.prefetch key) := by
  unfold State.prefetch
  dsimp only
  exact .ite hk hk.settle.cwayPut

theorem execPref_steady {x} : IssuesSteady C (.pref x) τ (execPref x τ) := by
  refine ⟨_, rfl, fun _ => src_steady.bind fun _ => ?_⟩
  refine get_bind_steady fun s => ?_
  split
  · rename_i e
    exact (set_steadyAt (locate_steady.run e)).bind fun _ => .ite pure_steady (modify_steady fun _ => (Keeps.refl _).prefetch)
  · exact Keeps.refl _

theorem execWlq_steady {x} : IssuesSteady C (.wlq x) τ (execWlq x τ) := by
  refine ⟨_, rfl, fun _ => myCore_steady.bind fun _ => myCtx_steady.bind fun _ => me_steady.bind fun _ => ?_⟩
  split
  exact .ite dst_steady (src_steady.bind fun _ => (.ite pure_steady wait_steady))

theorem Keeps.flushStores {g who} (hk : Keeps C σ τ) : Keeps C σ (τ.flushStores g who) := by
  unfold State.flushStores
  dsimp only
  exact (hk.foldl (fun _ _ => (Keeps.refl _).writeBack)).foldl (fun _ _ => .ite (Keeps.refl _).acceptEntry.onCore (Keeps.refl _))

theorem Keeps.flushMine {g k} (hk : Keeps C σ τ) : Keeps C σ (τ.flushMine g k) := hk.flushStores

theorem execWlwait_steady {x} : IssuesSteady C (.wlwait x) τ (execWlwait x τ) := by
  refine ⟨_, rfl, fun _ => me_steady.bind fun _ => ?_⟩
  split
  exact .ite pure_steady ((modify_steady fun _ => (Keeps.refl _).flushMine).bind fun _ => get_steady.bind fun _ =>
    (.ite pure_steady (waitAnd_steady fun _ => (Keeps.refl _).flushMine)))

/-! ### Atomics -/

theorem acquireForm_steady {p scope va} : (acquireForm p scope va).Steady C := by
  unfold acquireForm
  extract_lets -underBinder +onlyGivenNames j0
  have hj0 : (j0 ()).Steady C := .ite (get_steady.bind fun _ => acquire_steady) pure_steady
  split
  · exact acquire_steady.bind fun _ => hj0
  · exact hj0

theorem releaseForm_steady {scope va} : (releaseForm scope va).Steady C :=
  myCtx_steady.bind fun _ => (.ite (wait_steady.bind fun _ => release_steady) release_steady)

theorem locateAtomic_steady {va size write aval} : (locateAtomic va size write aval).Steady C := trapIf_steady.bind fun _ => locate_steady

theorem Keeps.settleAtomic {line} (hk : Keeps C σ τ) : Keeps C σ (τ.settleAtomic line) := by
  unfold State.settleAtomic
  dsimp only
  split
  · exact .ite hk.settle.writeBack.acceptFor hk.settle
  · exact hk.settle

theorem settleAtomic_steady {line} : (settleAtomic line).Steady C :=
  settleMine_steady.bind fun _ => (modify_steady fun _ => (Keeps.refl _).settleAtomic)

theorem atomicLoad_steady {va size scope v ready} : (atomicLoad va size scope v ready).Steady C := by
  unfold atomicLoad
  refine locateAtomic_steady.bind fun _ => ?_
  split
  · exact pure_steady
  · exact pure_steady
  · refine settleAtomic_steady.bind fun _ => needSlot_steady.bind fun _ => get_steady.bind fun _ => trapIf_steady.bind fun _ => ?_
    extract_lets -underBinder +onlyGivenNames j0
    have hj0 : (j0 ()).Steady C := homeAccess_steady.bind fun _ => get_steady.bind fun _ => acquireForm_steady.bind fun _ => pure_steady
    exact .ite hj0 (wait_steady.bind fun _ => hj0)

theorem atomicWrite_steady {va size scope reads acq rel f v} : (atomicWrite va size scope reads acq rel f v).Steady C := by
  have hs {l} (υ : State) : Keeps C υ (υ.settleAtomic l) := (Keeps.refl υ).settleAtomic
  unfold atomicWrite
  refine locateAtomic_steady.bind fun _ => ?_
  split
  · exact pure_steady
  · exact pure_steady
  · extract_lets -underBinder +onlyGivenNames j0
    have hj0 : ∀ a0, (j0 a0).Steady C := by
      intro _
      unfold j0
      refine settleAtomic_steady.bind fun _ => ?_
      extract_lets -underBinder +onlyGivenNames j0
      have hj0 : (j0 ()).Steady C :=
        get_steady.bind fun _ => trapIf_steady.bind fun _ => (takeBudget_steady hs).bind fun _ => (enqueue_steady hs).bind fun _ =>
          get_steady.bind fun _ => homeAccess_steady.bind fun _ => (onMyCore_steady).bind fun _ =>
          .ite (acquireForm_steady.bind fun _ => pure_steady) pure_steady
      exact .ite (needSlot_steady.bind fun _ => hj0) hj0
    exact .ite ((releaseForm_steady.bind fun _ => pure_steady).bind fun _ => hj0 _) (pure_steady.bind fun _ => hj0 _)

theorem atomicAddr_steady {x v} : (atomicAddr x v).Steady C := src_steady.bind fun _ => pure_steady

theorem execAmo_steady {x} : IssuesSteady C (.amo x) τ (execAmo x τ) :=
  ⟨_, rfl, fun _ => atomicAddr_steady.bind fun _ => src_steady.bind fun _ => atomicWrite_steady.bind fun _ => dst_steady⟩

theorem execCas_steady {x} : IssuesSteady C (.cas x) τ (execCas x τ) :=
  ⟨_, rfl, fun _ => atomicAddr_steady.bind fun _ => src_steady.bind fun _ => src_steady.bind fun _ => atomicWrite_steady.bind fun _ =>
    dst_steady⟩

theorem srcPair_steady {code} : (srcPair code).Steady C := src_steady.bind fun _ => src_steady.bind fun _ => pure_steady

theorem dstPair_steady {code v} : (dstPair code v).Steady C := dst_steady.bind fun _ => dstNext_steady

theorem execCas2_steady {x} : IssuesSteady C (.cas2 x) τ (execCas2 x τ) :=
  ⟨_, rfl, fun _ => atomicAddr_steady.bind fun _ => srcPair_steady.bind fun _ => srcPair_steady.bind fun _ =>
    atomicWrite_steady.bind fun _ => dstPair_steady⟩

theorem execLda_steady {x} : IssuesSteady C (.lda x) τ (execLda x τ) :=
  ⟨_, rfl, fun _ => src_steady.bind fun _ => atomicLoad_steady.bind fun _ => dst_steady⟩

theorem execLda2_steady {x} : IssuesSteady C (.lda2 x) τ (execLda2 x τ) :=
  ⟨_, rfl, fun _ => src_steady.bind fun _ => atomicLoad_steady.bind fun _ => dstPair_steady⟩

theorem execStrel_steady {x} : IssuesSteady C (.strel x) τ (execStrel x τ) :=
  ⟨_, rfl, fun _ => src_steady.bind fun _ => src_steady.bind fun _ => atomicWrite_steady.bind fun _ => pure_steady⟩

theorem execFence_steady {x} : IssuesSteady C (.fence x) τ (execFence x τ) := by
  refine ⟨_, rfl, fun _ => me_steady.bind fun _ => ?_⟩
  split
  exact .ite pure_steady ((modify_steady fun _ => (Keeps.refl _).flushMine).bind fun _ => get_steady.bind fun _ =>
    (.ite pure_steady (waitAnd_steady fun _ => (Keeps.refl _).flushMine)))

theorem execAfadd_steady {x} : IssuesSteady C (.afadd x) τ (execAfadd x τ) :=
  ⟨_, rfl, fun _ => atomicAddr_steady.bind fun _ => src_steady.bind fun _ => atomicWrite_steady.bind fun _ => dst_steady⟩

/-! ### Barriers -/

theorem barAt_steady {a} : (barAt a).Steady C :=
  trapIf_steady.bind fun _ => trapIf_steady.bind fun _ => trapIf_steady.bind fun _ => checkSpad_steady.bind fun _ => pure_steady

theorem barOperand_steady {a} : (barOperand a).Steady C := barAt_steady.bind fun _ => localGet_steady.bind fun _ => pure_steady

theorem updateMine_steady {off arrivals expected p} : (updateMine off arrivals expected p).Steady C :=
  (modify_steady fun _ => (Keeps.refl _).updateBar)

theorem awaitJournal_steady : awaitJournal.Steady C := get_steady.bind fun _ => .ite pure_steady wait_steady

theorem execBarinit_steady {x} : IssuesSteady C (.barinit x) τ (execBarinit x τ) :=
  ⟨_, rfl, fun _ => src_steady.bind fun _ => src_steady.bind fun _ => barAt_steady.bind fun _ => trapIf_steady.bind fun _ =>
    localPut_steady⟩

theorem execArrive_steady {x} : IssuesSteady C (.arrive x) τ (execArrive x τ) := by
  refine ⟨_, rfl, fun _ => src_steady.bind fun _ => src_steady.bind fun _ => ?_⟩
  extract_lets -underBinder +onlyGivenNames bad
  split
  · refine trapIf_steady.bind fun _ => trapIf_steady.bind fun _ => awaitJournal_steady.bind fun _ => release_steady.bind fun _ => ?_
    refine get_bind_steady fun s => ?_
    extract_lets -underBinder +onlyGivenNames h u j0
    have hj0 : (j0 ()).SteadyAt C s := trapIf_bind_steadyAt ((set_steadyAt (Keeps.refl _).updateBar).bind fun _ => dst_steady)
    exact .ite wait_bind_steadyAt hj0
  · exact barOperand_steady.bind fun _ => trapIf_steady.bind fun _ => awaitJournal_steady.bind fun _ => release_steady.bind fun _ =>
      get_steady.bind fun _ => updateMine_steady.bind fun _ => dst_steady

theorem execWaitph_steady {x} : IssuesSteady C (.waitph x) τ (execWaitph x τ) :=
  ⟨_, rfl, fun _ => src_steady.bind fun _ => src_steady.bind fun _ => barOperand_steady.bind fun _ => get_steady.bind fun _ =>
    (.ite (acquire_steady.bind fun _ => dst_steady) (waitAnd_steady fun _ => (Keeps.refl _).retagAll))⟩

theorem execTestph_steady {x} : IssuesSteady C (.testph x) τ (execTestph x τ) :=
  ⟨_, rfl, fun _ => src_steady.bind fun _ => src_steady.bind fun _ => barOperand_steady.bind fun _ => get_steady.bind fun _ =>
    (.ite (acquire_steady.bind fun _ => dst_steady) dst_steady)⟩

theorem execExpect_steady {x} : IssuesSteady C (.expect x) τ (execExpect x τ) :=
  ⟨_, rfl, fun _ => src_steady.bind fun _ => src_steady.bind fun _ => barOperand_steady.bind fun _ => get_steady.bind fun _ =>
    trapIf_steady.bind fun _ => updateMine_steady⟩

theorem signalSeen_steady {va val} : (signalSeen va val).Steady C := by
  unfold signalSeen
  refine locate_steady.bind fun _ => ?_
  split
  · exact modify_steady fun _ => (Keeps.refl _).fireSignal.fireSignal
  · exact pure_steady

theorem execSignal_steady {x} : IssuesSteady C (.signal x) τ (execSignal x τ) :=
  ⟨_, rfl, fun _ => atomicAddr_steady.bind fun _ => src_steady.bind fun _ => awaitJournal_steady.bind fun _ =>
    atomicWrite_steady.bind fun _ => signalSeen_steady.bind fun _ => dst_steady⟩

theorem execWaitsig_steady {x} : IssuesSteady C (.waitsig x) τ (execWaitsig x τ) :=
  ⟨_, rfl, fun _ => atomicAddr_steady.bind fun _ => src_steady.bind fun _ => atomicLoad_steady.bind fun _ =>
    (.ite dst_steady wait_steady)⟩

theorem Keeps.configDomain {d slot epoch members slots len limit} (hk : Keeps C σ τ) : Keeps C σ (τ.configDomain d slot epoch members
    slots len limit) := by
  unfold State.configDomain
  dsimp only
  exact hk.onDomain.foldl (fun _ _ => (Keeps.refl _).onCore)

theorem Keeps.freeDomain {d} (hk : Keeps C σ τ) : Keeps C σ (τ.freeDomain d) := by
  unfold State.freeDomain
  dsimp only
  exact (hk.foldl (fun _ _ => (Keeps.refl _).onCore)).onDomain

theorem loadDwords_steady {va v n} : (loadDwords va v n).Steady C := by
  induction n generalizing va with
  | zero => exact pure_steady
  | succ n ih => exact loadDword_steady.bind fun _ => ih.bind fun _ => pure_steady

theorem Keeps.barrierComplete {d} (hk : Keeps C σ τ) : Keeps C σ (τ.barrierComplete d) := by
  unfold State.barrierComplete
  dsimp only
  exact .ite hk.onDomain hk

theorem Keeps.deliverPart {d m off bs} (hk : Keeps C σ τ) : Keeps C σ (τ.deliverPart d m off bs) :=
    .ite hk (.ite hk.onDomain hk.localWrite)

theorem Keeps.deliverSend {d m} (hk : Keeps C σ τ) : Keeps C σ (τ.deliverSend d m) := by
  unfold State.deliverSend
  dsimp only
  exact hk.onDomain.deliverPart.deliverPart

theorem Keeps.phaseEnd {d} (hk : Keeps C σ τ) : Keeps C σ (τ.phaseEnd d) := by
  unfold State.phaseEnd
  dsimp only
  exact .ite hk.onDomain hk

theorem Keeps.finishPhase {d} (hk : Keeps C σ τ) : Keeps C σ (τ.finishPhase d) := by
  unfold State.finishPhase
  dsimp only
  exact .ite (hk.foldl (fun _ _ => (Keeps.refl _).deliverSend)).phaseEnd hk

theorem myDomain_steady {aval} : (myDomain aval).Steady C := by
  unfold myDomain
  refine myCore_steady.bind fun _ => ?_
  split
  · exact pure_steady
  · exact trap_steady

theorem execDomain_steady {x} : IssuesSteady C (.domain x) τ (execDomain x τ) := by
  refine ⟨_, rfl, fun _ => src_steady.bind fun _ => ?_⟩
  extract_lets -underBinder +onlyGivenNames d
  split
  · refine src_steady.bind fun _ => trapIf_steady.bind fun _ => trapIf_steady.bind fun _ => loadDwords_steady.bind fun _ =>
      get_steady.bind fun _ => ?_
    extract_lets -underBinder +onlyGivenNames members
    split
    · exact dst_steady
    · exact release_steady.bind fun _ => (modify_steady fun _ => (Keeps.refl _).configDomain).bind fun _ => dst_steady
  · exact trapIf_steady.bind fun _ => get_steady.bind fun _ => (.ite (.ite dst_steady (.ite dst_steady (release_steady.bind fun _ =>
      (modify_steady fun _ => (Keeps.refl _).freeDomain).bind fun _ => dst_steady))) dst_steady)

theorem execSync_steady {x} : IssuesSteady C (.sync x) τ (execSync x τ) := by
  refine ⟨_, rfl, fun _ => me_steady.bind fun _ => ?_⟩
  split
  refine trapIf_steady.bind fun _ => myDomain_steady.bind fun _ => (modify_steady fun _ => (Keeps.refl _).barrierComplete).bind fun _ =>
    get_steady.bind fun _ => ?_
  split
  · exact (modify_steady fun _ => (Keeps.refl _).onDomain).bind fun _ => acquire_steady.bind fun _ => dst_steady
  · exact .ite wait_steady ((modify_steady fun _ => (Keeps.refl _).phaseEnd).bind fun _ => get_steady.bind fun _ =>
      trapIf_steady.bind fun _ => (.ite dst_steady (awaitJournal_steady.bind fun _ => release_steady.bind fun _ =>
      (waitAnd_steady fun _ => (Keeps.refl _).phaseEnd.onDomain.onCtx))))

theorem execXsend_steady {x} : IssuesSteady C (.xsend x) τ (execXsend x τ) := by
  refine ⟨_, rfl, fun _ => src_steady.bind fun _ => src_steady.bind fun _ => me_steady.bind fun _ => ?_⟩
  split
  refine myDomain_steady.bind fun _ => (modify_steady fun _ => (Keeps.refl _).barrierComplete.phaseEnd).bind fun _ =>
    get_steady.bind fun _ => ?_
  extract_lets -underBinder +onlyGivenNames t
  refine trapIf_steady.bind fun _ => ?_
  extract_lets -underBinder +onlyGivenNames core j0
  have hj0 : (j0 ()).Steady C := by
    unfold j0
    extract_lets -underBinder +onlyGivenNames to_
    refine trapIf_steady.bind fun _ => ?_
    extract_lets -underBinder +onlyGivenNames n
    refine checkLocal_steady.bind fun _ => trapIf_steady.bind fun _ => trapIf_steady.bind fun _ => trapIf_steady.bind fun _ => ?_
    extract_lets -underBinder +onlyGivenNames j0
    have hj0 : (j0 ()).Steady C := trapIf_steady.bind fun _ => localGet_steady.bind fun _ => (modify_steady fun _ =>
      (Keeps.refl _).onDomain)
    split
    · exact trap_steady.bind fun _ => hj0
    · exact hj0
  split
  · exact trap_steady.bind fun _ => hj0
  · exact trapIf_steady.bind fun _ => hj0

theorem execXwait_steady {x} : IssuesSteady C (.xwait x) τ (execXwait x τ) := by
  refine ⟨_, rfl, fun _ => me_steady.bind fun _ => ?_⟩
  split
  refine myDomain_steady.bind fun _ => (modify_steady fun _ => .ite (Keeps.refl _).barrierComplete.phaseEnd (Keeps.refl
    _).barrierComplete.finishPhase).bind fun _ => get_steady.bind fun _ => ?_
  extract_lets -underBinder +onlyGivenNames t
  split
  · refine src_steady.bind fun _ => trapIf_steady.bind fun _ => trapIf_steady.bind fun _ => ?_
    extract_lets -underBinder +onlyGivenNames waited
    split
    · exact dst_steady
    · exact .ite dst_steady wait_steady
  · exact .ite wait_steady (acquire_steady.bind fun _ => dst_steady)

/-! ### Barchan -/

theorem Keeps.settlePage {page} (hk : Keeps C σ τ) : Keeps C σ (τ.settlePage page) := hk.foldl (fun _ _ => (Keeps.refl _).settle)

theorem Keeps.sendStream {t} (hk : Keeps C σ τ) : Keeps C σ (τ.sendStream t) := by
  unfold State.sendStream
  refine .ite hk (.ite hk ?_)
  split
  · exact .ite hk hk.fields.holdFaultAs
  · exact hk
  · exact (hk.foldl (fun _ _ => (Keeps.refl _).settlePage)).fields

theorem Keeps.startSends (hk : Keeps C σ τ) : Keeps C σ (τ.startSends) := hk.foldl (fun _ _ => (Keeps.refl _).sendStream)

/-! ### Caravan -/

theorem Keeps.graphError {slot code idx} (hk : Keeps C σ τ) : Keeps C σ (τ.graphError slot code idx) := .ite hk.stopLaunch.onLaunch hk

theorem Keeps.graphUnreadable {slot idx} (hk : Keeps C σ τ) : Keeps C σ (τ.graphUnreadable slot idx) := hk.fields.graphError

theorem Keeps.holdNode {slot idx va} (hk : Keeps C σ τ) : Keeps C σ (τ.holdNode slot idx va) := .ite hk hk.fields.holdFaultAs.onLaunch

theorem Keeps.releaseNodes {owner page fail} (hk : Keeps False σ τ) : Keeps False σ (τ.releaseNodes owner page fail) := by
  unfold State.releaseNodes
  dsimp only
  refine hk.foldl (fun _ _ => ?_)
  split
  · exact .ite (.ite (Keeps.refl _).onLaunch.graphUnreadable (Keeps.refl _).onLaunch) (Keeps.refl _)
  · exact Keeps.refl _

theorem Keeps.withGot {α : Type} {slot idx : Nat} {g : Got (Except Nat α)} {f : α → State} (hk : Keeps C σ τ)
    (hf : ∀ a, Keeps C σ (f a)) : Keeps C σ (τ.withGot slot idx g f) := by
  unfold State.withGot
  split
  · exact hk.holdNode
  · exact hk.graphUnreadable
  · exact hk.graphError
  · exact hf _

theorem Keeps.closeLone {die e} (hk : Keeps C σ τ) : Keeps C σ (τ.closeLone die e) := by
  unfold State.closeLone
  dsimp only
  exact .ite hk.onCaravan hk

theorem Keeps.enterPool {die e src} (hk : Keeps C σ τ) : Keeps C σ (τ.enterPool die e src) := (Keeps.ite hk hk.closeLone).onCaravan

theorem Keeps.partDrive {n} (hk : Keeps C σ τ) : Keeps C σ (τ.partDrive n) := hk.fields

theorem Keeps.leaveDrive {n} (hk : Keeps C σ τ) : Keeps C σ (τ.leaveDrive n) := hk.partDrive.onStream

theorem Keeps.unpool {n} (hk : Keeps C σ τ) : Keeps C σ (τ.unpool n) := by
  unfold State.unpool
  dsimp only
  exact hk.fields

theorem Keeps.freeze {n} (hk : Keeps C σ τ) : Keeps C σ (τ.freeze n) := by
  unfold State.freeze
  dsimp only
  exact (Keeps.ite hk.unpool hk).leaveDrive.onStream.startSends

theorem Keeps.freezeMarked {n} (hk : Keeps C σ τ) : Keeps C σ (τ.freezeMarked n) := .ite hk.freeze hk

theorem Keeps.streamReady {n p clk src} (hk : Keeps C σ τ) : Keeps C σ (τ.streamReady n p clk src) := by
  unfold State.streamReady
  dsimp only
  split
  · exact hk.onStream
  · refine hk.onStream.withGot fun r => ?_
    split
    · exact hk.onStream.holdNode
    · exact .ite hk.onStream hk.onStream.onStream.enterPool

theorem Keeps.streamAdvance {die n succ stop p} (hk : Keeps C σ τ) : Keeps C σ (τ.streamAdvance die n succ stop p) := by
  unfold State.streamAdvance
  dsimp only
  exact (Keeps.ite hk.unitStep.onStream.leaveDrive.onStream hk.unitStep.onStream.streamReady).freezeMarked.clockStop

theorem Keeps.countStep {n} (hk : Keeps C σ τ) : Keeps C σ (τ.countStep n) := hk.onStream

theorem Keeps.releaseEdges {slot idx p succ} (hk : Keeps C σ τ) : Keeps C σ (τ.releaseEdges slot idx p succ) := hk.onLaunch

theorem Keeps.completeEntry {die e p} (hk : Keeps C σ τ) : Keeps C σ (τ.completeEntry die e p) := by
  unfold State.completeEntry
  dsimp only
  split
  · exact .ite hk hk.releaseEdges
  · exact .ite hk (.ite hk.countStep.streamAdvance hk.streamAdvance)

theorem Keeps.taskArrive {e p} (hk : Keeps C σ τ) : Keeps C σ (τ.taskArrive e p) := by
  unfold State.taskArrive
  dsimp only
  split
  · exact .ite hk hk.onCore
  · exact hk

theorem Keeps.dropInst {die id} (hk : Keeps C σ τ) : Keeps C σ (τ.dropInst die id) := hk.onCaravan

theorem Keeps.completeInst {die i} (hk : Keeps C σ τ) : Keeps C σ (τ.completeInst die i) := by
  unfold State.completeInst
  dsimp only
  split
  · exact hk.dropInst
  · split
    · refine hk.dropInst.foldl (fun _ _ => ?_)
      split
      · exact (Keeps.refl _).completeEntry
      · exact Keeps.refl _
    · exact .ite hk.dropInst.taskArrive hk.dropInst.completeEntry

theorem Keeps.takeNode {g t} (hk : Keeps C σ τ) : Keeps C σ (τ.takeNode g t) := by
  unfold State.takeNode
  dsimp only
  refine .ite ?_ (Keeps.onCore (Keeps.onCtx ?_ fun _ _ h => absurd h Bool.false_ne_true))
  · exact hk.fields.onCore
  · exact hk.fields.onCore

theorem Keeps.finishInst {die i} (hk : Keeps C σ τ) : Keeps C σ (τ.finishInst die i) := .ite hk.onCaravan hk.completeInst

/-! ### Contexts -/

theorem execStart_steady {x} : IssuesSteady C (.start x) τ (execStart x τ) := by
  refine ⟨_, rfl, fun _ => src_steady.bind fun _ => src_steady.bind fun _ => me_steady.bind fun _ => ?_⟩
  split
  refine trapIf_steady.bind fun _ => trapIf_steady.bind fun _ => ?_
  extract_lets
  refine myCore_steady.bind fun _ => .ite dst_steady ?_
  split
  · exact dst_steady
  · refine release_steady.bind fun _ => myCtx_steady.bind fun _ => M.Steady.bind (modify_steady fun _ => ?_) fun _ =>
      (onMyCtx_steady).bind fun _ => dst_steady
    exact (Keeps.refl _).onCtx fun _ _ h => absurd h Bool.false_ne_true

theorem execEndHelper_steady {x} : IssuesSteady C (.endHelper x) τ (execEndHelper x τ) := by
  refine ⟨_, rfl, fun _ => me_steady.bind fun _ => ?_⟩
  split
  refine trapIf_steady.bind fun _ => myCtx_steady.bind fun _ => ?_
  extract_lets -underBinder +onlyGivenNames j0
  have hj0 : (j0 ()).Steady C := release_steady.bind fun _ => (onMyCtx_steady).bind fun _ => (modify_steady fun _ =>
    (Keeps.refl _).releaseTiles.orphan.passPend.onCore)
  exact .ite hj0 (.ite (wait_steady.bind fun _ => hj0) ((onMyCtx_steady).bind fun _ => hj0))

theorem execHwait_steady {x} : IssuesSteady C (.hwait x) τ (execHwait x τ) := by
  refine ⟨_, rfl, fun _ => src_steady.bind fun _ => me_steady.bind fun _ => ?_⟩
  split
  refine trapIf_steady.bind fun _ => myCtx_steady.bind fun _ => ?_
  extract_lets
  refine trapIf_steady.bind fun _ => .ite dst_steady ?_
  refine myCore_steady.bind fun _ => ?_
  extract_lets -underBinder +onlyGivenNames j0
  have hj0 : (j0 ()).Steady C := by
    refine acquire_steady.bind fun _ => M.Steady.bind (modify_steady fun υ => ?_) fun _ => (onMyCtx_steady).bind fun _ => dst_steady
    refine (Keeps.refl υ).foldl fun _ j => (Keeps.refl _).onCtx fun _ _ h => ?_
    rw [show _ = false from Ctx.intrap_initial j] at h
    exact absurd h Bool.false_ne_true
  exact .ite (wait_steady.bind fun _ => hj0) hj0

/-- Emptying queues leaves the contexts of the core. -/
theorem Core.ctx_foldl_setQueue (c : Core) (l : List Nat) (n k : Nat) : (l.foldl (fun c i => c.setQueue n i []) c).ctx k = c.ctx k := by
  induction l generalizing c with
  | nil => rfl
  | cons i l ih => exact ih _

theorem execQbind_steady {x} : IssuesSteady C (.qbind x) τ (execQbind x τ) := by
  refine ⟨_, rfl, fun _ => src_steady.bind fun _ => me_steady.bind fun _ => ?_⟩
  split
  refine trapIf_steady.bind fun _ => myCore_steady.bind fun _ => .ite (trapIf_steady.bind fun _ => onMyCore_steady ?_)
    (trapIf_steady.bind fun _ => onMyCtx_steady)
  intro _ c k h
  rwa [Core.ctx_foldl_setQueue] at h

theorem execQstat_steady {x} : IssuesSteady C (.qstat x) τ (execQstat x τ) :=
  ⟨_, rfl, fun _ => src_steady.bind fun _ => myCtx_steady.bind fun _ => trapIf_steady.bind fun _ => myCore_steady.bind fun _ =>
    dst_steady⟩

theorem execYield_steady {x} : IssuesSteady C (.yield x) τ (execYield x τ) :=
  ⟨_, rfl, fun _ => src_steady.bind fun _ => get_steady.bind fun _ => (onMyCtx_steady)⟩

theorem setGrant_steady {g} : (setGrant g).Steady C :=
  myCtx_steady.bind fun _ => (onMyCtx_steady).bind fun _ => (.ite pure_steady (modify_steady fun _ => (Keeps.refl _).traceMask))

theorem execVclaim_steady {x} : IssuesSteady C (.vclaim x) τ (execVclaim x τ) :=
  ⟨_, rfl, fun _ => src_steady.bind fun _ => get_steady.bind fun _ => myCtx_steady.bind fun _ => setGrant_steady.bind fun _ => dst_steady⟩

theorem execVyield_steady {x} : IssuesSteady C (.vyield x) τ (execVyield x τ) :=
  ⟨_, rfl, fun _ => src_steady.bind fun _ => myCtx_steady.bind fun _ => setGrant_steady.bind fun _ => dst_steady⟩

theorem execNwait_steady {x} : IssuesSteady C (.nwait x) τ (execNwait x τ) := by
  refine ⟨_, rfl, fun _ => src_steady.bind fun _ => me_steady.bind fun _ => ?_⟩
  split
  refine trapIf_steady.bind fun _ => myCtx_steady.bind fun _ => trapIf_steady.bind fun _ => ?_
  split
  · exact (modify_steady fun _ => (Keeps.refl _).takeNode).bind fun _ => dst_steady.bind fun _ => dstNext_steady.bind fun _ =>
      acquire_steady.bind fun _ => (onMyCtx_steady)
  · refine get_steady.bind fun _ => ?_
    extract_lets -underBinder +onlyGivenNames w
    split
    · exact .ite (dst_steady.bind fun _ => dstNext_steady) (waitAnd_steady fun _ => (Keeps.refl _).onCtx)
    · exact waitAnd_steady fun _ => (Keeps.refl _).onCtx

theorem Keeps.freeNodeDomain {i} (hk : Keeps C σ τ) : Keeps C σ (τ.freeNodeDomain i) := .ite hk.freeDomain hk

theorem Keeps.rankDone {g t p} (hk : Keeps C σ τ) : Keeps C σ (τ.rankDone g t p) := by
  unfold State.rankDone
  dsimp only
  split
  · exact hk
  · exact .ite hk.freeNodeDomain.finishInst hk.onCaravan

theorem execNdone_steady {x} : IssuesSteady C (.ndone x) τ (execNdone x τ) := by
  refine ⟨_, rfl, fun _ => src_steady.bind fun _ => me_steady.bind fun _ => ?_⟩
  split
  refine trapIf_steady.bind fun _ => myCtx_steady.bind fun _ => ?_
  split
  · exact trap_steady
  · exact trapIf_steady.bind fun _ => trapIf_steady.bind fun _ => release_steady.bind fun _ => (onMyCtx_steady).bind fun _ =>
      (modify_steady fun _ => (Keeps.refl _).rankDone)

theorem Keeps.enqueueTask {slot addr r p g off} (hk : Keeps C σ τ) : Keeps C σ (τ.enqueueTask slot addr r p g off) := by
  unfold State.enqueueTask
  dsimp only
  exact hk.enterPool

theorem execTask_steady {x} : IssuesSteady C (.task x) τ (execTask x τ) := by
  refine ⟨_, rfl, fun _ => src_steady.bind fun _ => src_steady.bind fun _ => trapIf_steady.bind fun _ => ?_⟩
  extract_lets -underBinder +onlyGivenNames j0
  have hj0 : (j0 ()).Steady C := by
    unfold j0
    refine loadDwords_steady.bind fun _ => get_steady.bind fun _ => ?_
    split
    extract_lets -underBinder +onlyGivenNames slot w0 r
    split
    · exact dst_steady
    · exact .ite dst_steady (.ite dst_steady (release_steady.bind fun _ => (modify_steady fun _ =>
        (Keeps.refl _).enqueueTask).bind fun _ => dst_steady))
  exact .ite hj0 (trapIf_steady.bind fun _ => trapIf_steady.bind fun _ => trapIf_steady.bind fun _ => hj0)

/-! ### EngineAccess -/

theorem Keeps.engineTranslate {o va write} (hk : Keeps C σ τ) : Keeps C σ (τ.engineTranslate o va write).1 := by
  unfold State.engineTranslate
  split
  · exact hk
  · split
    · exact hk
    · split
      · exact hk
      · rename_i e
        split
        · exact hk
        · exact hk.translate.snd_eq e
      · exact hk.holdFaultAs

theorem Keeps.enginePage {id page} (hk : Keeps C σ τ) : Keeps C σ (τ.enginePage id page).1 := by
  unfold State.enginePage
  split
  · exact hk
  · split
    · exact hk.leaveReplay
    · exact hk.joinReplay

theorem Keeps.engineLocate {o va write} (hk : Keeps C σ τ) : Keeps C σ (τ.engineLocate o va write).1 := by
  unfold State.engineLocate
  split
  · exact hk
  · exact hk.engineTranslate
  · exact hk
  · exact hk
  · exact hk
  · split
    · exact hk
    · refine .ite_fst hk ?_
      split
      rename_i s0 ready e
      have h : Keeps C σ s0 := by
        split at e
        · exact hk.enginePage.fst_eq e
        · cases e
          exact hk
      refine .ite_fst h (.ite_fst ?_ ?_)
      · split
        · exact h
        · rename_i e1
          exact .ite_fst h (h.windowWrite _ e1)
      · split
        · exact h
        · exact h

theorem Keeps.logWait {o} (hk : Keeps C σ τ) : KeepsSome C σ Prod.fst (τ.logWait o) := by
  unfold State.logWait
  split
  · exact .some hk
  · exact .none
  · exact .some hk.askHost
  · exact .ite (.some hk) (.ite (.some hk) (.some hk.holdFaultAs))

theorem Keeps.engineAccess {o key va ws write} (hk : Keeps C σ τ) : Keeps C σ (τ.engineAccess o key va ws write).1 := by
  unfold State.engineAccess
  refine .ite_fst hk.askHost.queueFor (.ite_fst hk.queueFor (.ite_fst hk.unqueue.settle ?_))
  extract_lets s s1 r t checked v m report step record log go
  have hs : Keeps C σ s := hk.unqueue
  have hl {υ : State} {cause adv} (h : Keeps C σ υ) : Keeps C σ (log υ cause adv) := h.appendLog
  have hg {υ : State} (h : Keeps C σ υ) : Keeps C σ (go υ) := by
    have hp : Keeps C σ (υ.place326 r).1 := h.place326
    change Keeps C σ (if checked then (υ.place326 r).1.recordAccess r t else (υ.place326 r).1)
    split
    · exact hp.recordAccess
    · exact hp
  have hs1 : Keeps C σ s1 := hs.settle
  clear_value log go
  refine .ite_fst hs ?_
  split
  · exact .getD_fst (.ite_fst (hg (hl hs1)) (hl hs)) hs.logWait
  · exact .ite_fst (.getD_fst (hg (hl hs1)) hs.logWait) (hg hs1)
  · exact hg hs1

theorem Keeps.engineRead {o va ws} (hk : Keeps C σ τ) : Keeps C σ (τ.engineRead o va ws).1 := by
  unfold State.engineRead
  dsimp only
  split
  · rename_i e
    exact hk.engineLocate.fst_eq e
  · rename_i e
    split
    · exact hk
    · split
      · exact hk
      · exact hk.engineLocate.fst_eq e
  · rename_i e
    split
    · rename_i e1
      exact (hk.engineLocate.fst_eq e).engineAccess.fst_eq e1
    · rename_i e1
      exact (hk.engineLocate.fst_eq e).engineAccess.fst_eq e1
    · rename_i e1
      exact (hk.engineLocate.fst_eq e).engineAccess.fst_eq e1
  · rename_i e
    exact hk.engineLocate.fst_eq e
  · rename_i e
    exact hk.engineLocate.fst_eq e

theorem Keeps.engineHold {o va ws} (hk : Keeps C σ τ) : Keeps C σ (τ.engineHold o va ws).1 := by
  unfold State.engineHold
  dsimp only
  split
  · rename_i e
    split
    · rename_i e1
      exact ((hk.engineLocate.fst_eq e).engineAccess.fst_eq e1).fields
    · exact (hk.engineLocate.fst_eq e).engineAccess
  · exact hk.engineLocate

theorem Keeps.reserveLine {o line} (hk : Keeps C σ τ) : Keeps C σ (τ.reserveLine o line).1 := by
  unfold State.reserveLine
  dsimp only
  split
  · exact hk.askHost.queueFor
  · split
    · exact hk
    · exact hk.unqueue.settle.place326.fields

theorem Keeps.timeRead {o va} (hk : Keeps C σ τ) : Keeps C σ (τ.timeRead o va).1 := by
  unfold State.timeRead
  dsimp only
  split
  · rename_i e
    split
    · exact (hk.engineLocate.fst_eq e).askHost.queueFor
    · split
      · exact hk
      · exact (hk.engineLocate.fst_eq e).unqueue.settle.place326
  · rename_i e
    exact hk.engineLocate.fst_eq e
  · rename_i e
    exact hk.engineLocate.fst_eq e
  · rename_i e
    exact hk.engineLocate.fst_eq e
  · rename_i e
    exact hk.engineLocate.fst_eq e

theorem Keeps.engineReserve {o va} (hk : Keeps C σ τ) : Keeps C σ (τ.engineReserve o va).1 := by
  unfold State.engineReserve
  split
  · rename_i e
    exact (hk.engineLocate.fst_eq e).reserveLine
  · exact hk.engineLocate

theorem Keeps.letGo {id line} (hk : Keeps False σ τ) : Keeps False σ (τ.letGo id line) := by
  unfold State.letGo
  dsimp only
  exact .ite hk.fields hk

theorem Keeps.engineWrite {line bs owner near stream} (hk : Keeps C σ τ) : Keeps C σ (τ.engineWrite line bs owner near stream) := by
  unfold State.engineWrite
  dsimp only
  exact .ite hk.homeWrite.fields hk.homeWrite

theorem Keeps.engineDone {die ticket p} (hk : Keeps C σ τ) : Keeps C σ (τ.engineDone die ticket p) := by
  unfold State.engineDone
  split
  · exact hk.finishInst
  · exact hk

theorem Keeps.engineTrap {slot cause async recAddr tval} (hk : Keeps False σ τ) : Keeps False σ (τ.engineTrap slot cause async recAddr
    tval) :=
  hk.utrap.stopLaunch

theorem Keeps.engineLost {die ticket} (hk : Keeps False σ τ) : Keeps False σ (τ.engineLost die ticket) := by
  unfold State.engineLost
  split
  · exact hk.dropInst.readmit.foldl (fun _ _ => (Keeps.refl _).readmit)
  · exact hk

/-! ### Copies -/

theorem Keeps.readLine {x cl va ws row col} (hk : Keeps C σ x.s) : Keeps C σ (CopyPass.readLine x cl va ws row col).s := by
  have h {c : Prop} [Decidable c] {o v w u} : Keeps C σ (if c then x.s.engineRead o v w else x.s.timeRead o u).1 :=
    .ite_fst hk.engineRead hk.timeRead
  unfold CopyPass.readLine
  split
  · exact hk
  · split
    · rename_i e
      exact h.fst_eq e
    · rename_i e
      exact h.fst_eq e
    · rename_i e
      exact h.fst_eq e

theorem Keeps.readIndex {x cl} (hk : Keeps C σ x.s) : Keeps C σ (CopyPass.readIndex x cl).s := by
  unfold CopyPass.readIndex
  dsimp only
  split
  · exact hk
  · exact hk.foldl_part fun _ _ => (Keeps.refl _).readLine

theorem Keeps.readSources {x cl} (hk : Keeps C σ x.s) : Keeps C σ (CopyPass.readSources x cl).s := by
  unfold CopyPass.readSources
  refine hk.foldl_part fun y e => ?_
  split
  · exact .refl _
  · split
    · exact .refl _
    · exact (Keeps.refl _).readLine

theorem Keeps.holdDests {x cl} (hk : Keeps C σ x.s) : Keeps C σ (CopyPass.holdDests x cl).s := by
  unfold CopyPass.holdDests
  refine hk.foldl_part fun y e => ?_
  have h {c : Prop} [Decidable c] {o v w u z} : Keeps C y.s (if c then y.s.engineHold o v w else y.s.engineReserve u z).1 :=
    .ite_fst (Keeps.refl _).engineHold (Keeps.refl _).engineReserve
  split
  · exact .refl _
  · split
    · exact .refl _
    · split
      · split
        · exact .refl _
        · exact .refl _
      · split
        · rename_i e
          exact h.fst_eq e
        · rename_i e
          dsimp only
          split
          · rename_i e1
            exact (h.fst_eq e).engineReserve.fst_eq e1
          · rename_i e1
            exact (h.fst_eq e).engineReserve.fst_eq e1
          · rename_i e1
            exact (h.fst_eq e).engineReserve.fst_eq e1
        · rename_i e
          exact h.fst_eq e
        · exact .refl _

theorem Keeps.placeCopy {cl j} (hk : Keeps C σ τ) : Keeps C σ (τ.placeCopy cl j).1 := by
  have h : Keeps C σ (CopyPass.mk τ j false).s := hk
  unfold State.placeCopy
  dsimp only
  split
  · exact hk
  · exact h.readIndex.readSources.holdDests

theorem Keeps.numberCopy {cl j} (hk : Keeps C σ τ) : Keeps C σ (τ.numberCopy cl j).1 := by
  unfold State.numberCopy
  refine .ite_fst hk ?_
  split
  · dsimp only
    exact hk.onCore
  · exact hk.fields

theorem Keeps.sendUpdates {cl j} (hk : Keeps False σ τ) : Keeps False σ (τ.sendUpdates cl j).1 := by
  unfold State.sendUpdates
  dsimp only
  split
  · exact hk
  · exact hk.foldl (fun _ _ => (Keeps.refl _).onCore nofun)

theorem Keeps.writeElems {j n t es} (hk : Keeps False σ τ) : Keeps False σ (τ.writeElems j n t es).1 := by
  induction es generalizing τ t with
  | nil => exact hk
  | cons e r ih =>
    unfold State.writeElems
    dsimp only
    split
    · split
      · exact hk.fields
      · exact ih hk.localWrite
    · exact ih hk

theorem Keeps.countCopy {j} (hk : Keeps False σ τ) : Keeps False σ (τ.countCopy j).1 := by
  unfold State.countCopy
  dsimp only
  split
  · refine .ite_fst hk (.ite_fst hk.fields ?_)
    dsimp only
    exact hk.onCore nofun
  · exact hk

theorem Keeps.carryOut {j} (hk : Keeps False σ τ) : KeepsSome False σ Prod.fst (τ.carryOut j) := by
  unfold State.carryOut
  refine .ite .none ?_
  split
  rename_i s1 t f e
  have h1 : Keeps False σ s1 := by
    split at e
    · cases e
      exact hk
    · exact hk.writeElems.fst_eq e
  extract_lets s2 s3
  have h2 : Keeps False σ s2 := h1.foldl fun _ _ => (Keeps.refl _).engineWrite
  have h3 : Keeps False σ s3 := h2.foldl fun _ _ => (Keeps.refl _).letGo
  split
  · exact .some h3
  · exact .some h3.countCopy

theorem Keeps.endCopy {cl j stop} (hk : Keeps False σ τ) : Keeps False σ (τ.endCopy cl j stop) := by
  unfold State.endCopy
  dsimp only
  split
  · exact hk.fields.unqueueAll.onOrigin nofun
  · exact (Keeps.ite (hk.fields.unqueueAll.onOrigin nofun) ((hk.fields.unqueueAll.onOrigin nofun).onOrigin nofun)).post
  · exact hk.fields.unqueueAll.engineDone
  · exact hk.fields.unqueueAll.engineLost.engineTrap

theorem Keeps.advanceCopy {cl j} (hk : Keeps False σ τ) : Keeps False σ (τ.advanceCopy cl j).1 := hk.placeCopy.sendUpdates

theorem Keeps.advanceCopies {cl} (hk : Keeps False σ τ) : Keeps False σ (τ.advanceCopies cl) := by
  have h {js} : Keeps False σ (List.foldl (fun (acc : State × List CopyJob) j =>
      ((acc.1.advanceCopy cl j).1, acc.2 ++ [(acc.1.advanceCopy cl j).2])) (τ, []) js).1 :=
    Keeps.foldl_fst hk fun _ _ => (Keeps.refl _).advanceCopy
  exact h.fields

theorem Keeps.placeCopies {owner} (hk : Keeps False σ τ) : Keeps False σ (τ.placeCopies owner) := by
  have h {cl : Nat} (υ : State) (js : List CopyJob) : Keeps False υ (js.foldl (fun (acc : State × List CopyJob) j =>
      ((if j.owner = owner then acc.1.placeCopy cl j else (acc.1, j)).1,
        acc.2 ++ [(if j.owner = owner then acc.1.placeCopy cl j else (acc.1, j)).2])) (υ, [])).1 :=
    Keeps.foldl_fst (.refl υ) fun y _ => .ite_fst (Keeps.refl _).placeCopy (.refl y.1)
  unfold State.placeCopies
  dsimp only
  refine Keeps.foldl (hk.foldl fun υ e => ?_) fun υ e => ?_
  · exact (h υ e.2).fields
  · exact (h υ e.2.cpq).onCore nofun

theorem Keeps.firstEnd {cl stops} (hk : Keeps False σ τ) : KeepsSome False σ id (τ.firstEnd cl stops) := by
  unfold State.firstEnd
  refine .findSome fun j => ?_
  split
  · rename_i e
    exact .ite (.some (hk.carryOut _ e).endCopy) .none
  · exact .none

theorem Keeps.stepCopies {cl stops} (hk : Keeps False σ τ) : Keeps False σ (τ.stepCopies cl stops) := by
  unfold State.stepCopies
  dsimp only
  exact hk.advanceCopies.getD hk.advanceCopies.firstEnd

/-! ### NearMem -/

theorem Keeps.nearExtent {o va n write} (hk : Keeps C σ τ) : Keeps C σ (τ.nearExtent o va n write).1 := by
  unfold State.nearExtent
  dsimp only
  split
  · split
    · rename_i e
      exact .ite_fst hk (hk.engineTranslate.fst_eq e)
    · exact hk.engineTranslate
  · exact hk.engineTranslate

theorem Keeps.nearKeys {o ws aval} (hk : Keeps C σ τ) : Keeps C σ (τ.nearKeys o ws aval).1 := by
  unfold State.nearKeys
  dsimp only
  split
  · rename_i e
    split
    · split
      · rename_i e1
        split
        · exact hk
        · exact (hk.nearExtent.fst_eq e).nearExtent.fst_eq e1
      · rename_i e1
        exact (hk.nearExtent.fst_eq e).nearExtent.fst_eq e1
      · rename_i e1
        exact (hk.nearExtent.fst_eq e).nearExtent.fst_eq e1
    · exact hk.nearExtent.fst_eq e
  · rename_i e
    exact hk.nearExtent.fst_eq e
  · rename_i e
    exact hk.nearExtent.fst_eq e

theorem Keeps.holdLine {x : State × NearCmd × Bool} {line} (hk : Keeps C σ x.1) : Keeps C σ (State.holdLine x line).1 := by
  unfold State.holdLine
  split
  rename_i s n late
  refine .ite_fst hk ?_
  split
  rename_i r m e
  have h : Keeps C σ r.1 := by
    split at e
    · split at e
      · rename_i e'
        cases e
        exact (hk.engineAccess.fst_eq e').reserveLine
      · cases e
        exact hk.engineAccess
    · cases e
      exact hk.reserveLine
  split
  · exact h.fields
  · exact h
  · exact h

theorem Keeps.placeNear {n} (hk : Keeps C σ τ) : Keeps C σ (τ.placeNear n).1 := by
  unfold State.placeNear
  refine .ite_fst hk ?_
  exact Keeps.foldl_fst (x := (τ, n, false)) hk fun _ _ => (Keeps.refl _).holdLine

theorem Keeps.runNear {n} (hk : Keeps False σ τ) : Keeps False σ (τ.runNear n).1 := by
  unfold State.runNear
  dsimp only
  split
  · exact hk
  · split
    · exact (hk.foldl (fun _ _ => .ite (Keeps.refl _).homeWrite.fields (Keeps.refl _).homeWrite)).fields
    · exact hk.foldl (fun _ _ => .ite (Keeps.refl _).homeWrite.fields (Keeps.refl _).homeWrite)

theorem Keeps.countNear {n} (hk : Keeps False σ τ) : Keeps False σ (τ.countNear n) := by
  unfold State.countNear
  dsimp only
  split
  · exact .ite hk (hk.onCore nofun)
  · exact hk

theorem Keeps.endNear {n} (hk : Keeps False σ τ) : Keeps False σ (τ.endNear n) := by
  unfold State.endNear
  dsimp only
  split
  · exact .ite (hk.fields.unqueueAll.foldl (fun _ _ => (Keeps.refl _).letGo)).countNear ((hk.fields.unqueueAll.foldl (fun _ _ =>
      (Keeps.refl _).letGo)).countNear.onOrigin nofun)
  · exact (Keeps.ite (hk.fields.unqueueAll.foldl (fun _ _ => (Keeps.refl _).letGo)) ((hk.fields.unqueueAll.foldl (fun _ _ =>
      (Keeps.refl _).letGo)).onOrigin nofun)).post
  · exact (hk.fields.unqueueAll.foldl (fun _ _ => (Keeps.refl _).letGo)).engineDone
  · exact (hk.fields.unqueueAll.foldl (fun _ _ => (Keeps.refl _).letGo)).engineLost.engineTrap

theorem Keeps.advanceNear {n} (hk : Keeps False σ τ) : Keeps False σ (τ.advanceNear n) := hk.placeNear.runNear.fields

theorem Keeps.stepNear {stack stops} (hk : Keeps False σ τ) : Keeps False σ (τ.stepNear stack stops) := by
  unfold State.stepNear
  dsimp only
  split
  · exact (hk.foldl (fun _ _ => (Keeps.refl _).advanceNear)).endNear
  · exact hk.foldl (fun _ _ => (Keeps.refl _).advanceNear)

/-! ### Streams -/

theorem Keeps.unitPrepare {o ps} (hk : Keeps C σ τ) : Keeps C σ (τ.unitPrepare o ps).1 := by
  induction ps generalizing τ o with
  | nil => exact hk
  | cons p r ih =>
    unfold State.unitPrepare
    split
    · rename_i e
      exact hk.engineLocate.fst_eq e
    · rename_i e
      exact hk.engineLocate.fst_eq e
    · rename_i e
      have h := hk.engineLocate.fst_eq e
      refine .ite_fst hk (.ite_fst ?_ ?_)
      · dsimp only
        split
        · exact h.askHost
        · exact h
      · split
        · rename_i e1
          exact (ih h).fst_eq e1
        · exact ih h

theorem Keeps.unitPieces {o ps} (hk : Keeps C σ τ) : Keeps C σ (τ.unitPieces o ps).1 := by
  induction ps generalizing τ o with
  | nil => exact hk
  | cons p r ih =>
    unfold State.unitPieces
    split
    · exact ih hk.engineAccess.engineWrite
    · exact ih (.ite hk.localWrite hk)
    · exact ih hk

theorem Keeps.unitStore {o va bs} (hk : Keeps C σ τ) : Keeps C σ (τ.unitStore o va bs).1 := by
  unfold State.unitStore
  split
  · rename_i e
    exact hk.unitPrepare.fst_eq e
  · rename_i e
    exact (hk.unitPrepare.fst_eq e).unitPieces

theorem Keeps.takeId {want die owner resv} (hk : Keeps C σ τ) : Keeps C σ (τ.takeId want die owner resv).1 := by
  unfold State.takeId
  split
  · exact hk
  · split
    · rename_i e
      exact hk.reserve.fst_eq e
    · rename_i e
      split
      · exact hk.reserve.fst_eq e
      · split
        · exact hk.reserve.fst_eq e
        · exact hk

theorem Keeps.clearSw {n} (hk : Keeps C σ τ) : Keeps C σ (τ.clearSw n) := by
  unfold State.clearSw
  dsimp only
  exact hk.settle.memory (Memory.wf_zero _ _ _)

theorem Keeps.admitNew {n d} (hk : Keeps C σ τ) : Keeps C σ (τ.admitNew n d) := by
  unfold State.admitNew
  dsimp only
  exact hk.newId.setNode.onStream.clearSw

theorem Keeps.admitChild {n d} (hk : Keeps C σ τ) : Keeps C σ (τ.admitChild n d) := by
  unfold State.admitChild
  dsimp only
  exact hk.setNode.onStream.clearSw

theorem Keeps.unmapPage {n p} (hk : Keeps C σ τ) : Keeps C σ (τ.unmapPage n p) := by
  unfold State.unmapPage
  dsimp only
  exact .ite hk (.ite hk.privateLeaf.setNode.unrefPage.onStream.setNode.unrefLeaf hk.privateLeaf.setNode.unrefPage.onStream)

theorem Keeps.beginMove {cl id page core ctx dest} (hk : Keeps C σ τ) : Keeps C σ (τ.beginMove cl id page core ctx dest) := by
  unfold State.beginMove
  dsimp only
  split
  · exact hk.fields.setPage.onCore
  · exact hk.fields.setPage.onOwner
  · exact hk.fields.setPage

theorem Keeps.placePages {n dest cl core ctx ps} (hk : Keeps C σ τ) : Keeps C σ (τ.placePages n dest cl core ctx ps).1 := by
  induction ps generalizing τ with
  | nil => exact hk
  | cons p r ih =>
    unfold State.placePages
    split
    · exact ih hk
    · split
      · exact ih hk
      · split
        · exact hk
        · exact ih hk.fields.beginMove

theorem Keeps.dropTable {n} (hk : Keeps C σ τ) : Keeps C σ (τ.dropTable n) := by
  unfold State.dropTable
  dsimp only
  exact hk.unrefRoot.leaveSpm.unreserve.onStream

theorem Keeps.retire {n pruned} (hk : Keeps C σ τ) : Keeps C σ (τ.retire n pruned) := by
  unfold State.retire
  dsimp only
  exact (Keeps.ite (Keeps.ite hk hk.dropTable).unpool (.ite hk hk.dropTable)).fields.leaveDrive.onStream

theorem Keeps.awaitAction {n} (hk : Keeps False σ τ) : Keeps False σ (τ.awaitAction n) := hk.partDrive.onStream

theorem Keeps.wakeStream {n p} (hk : Keeps C σ τ) : Keeps C σ (τ.wakeStream n p) := by
  unfold State.wakeStream
  split
  · exact .ite hk.streamReady hk.onStream
  · exact hk.onStream

theorem Keeps.onGroup {die n f} (hk : Keeps C σ τ) : Keeps C σ (τ.onGroup die n f) := hk.fields

theorem Keeps.openGroup {die n cfg addr owner slot epoch} (hk : Keeps C σ τ) : Keeps C σ (τ.openGroup die n cfg addr owner slot epoch) :=
  hk.onGroup

theorem Keeps.report {n p} (hk : Keeps C σ τ) : KeepsSome C σ id (τ.report n p) := by
  unfold State.report
  dsimp only
  exact .ite .none (.some hk.onGroup)

theorem Keeps.prune {die p r l} (hk : Keeps C σ τ) : Keeps C σ (τ.prune die p r l).1 := by
  unfold State.prune
  refine .ite_fst ?_ hk
  split
  rename_i e
  dsimp only
  exact (hk.placeDesc.fst_eq e).retire.onStream

theorem Keeps.resolution {die n prune} (hk : Keeps C σ τ) : KeepsSome C σ Prod.fst (τ.resolution die n prune) := by
  unfold State.resolution
  dsimp only
  split
  · exact .none
  · split
    · rename_i e
      exact .some (hk.unitStore.fst_eq e)
    · exact .none
    · rename_i e
      exact .ite .none (.some (((hk.unitStore.fst_eq e).foldl_fst (fun _ _ => (Keeps.refl _).prune)).fields.onGroup.foldl (fun _ _ =>
        (Keeps.refl _).engineDone)))

theorem Keeps.resolve {die n prune} (hk : Keeps C σ τ) : Keeps C σ (τ.resolve die n prune).1 := hk.clockStop.getD_fst hk.resolution

/-! ### SamplerOps -/

theorem Keeps.onSampler {die f} (hk : Keeps False σ τ) : Keeps False σ (τ.onSampler die f) := hk.fields

theorem Keeps.setSmp {die k c} (hk : Keeps False σ τ) : Keeps False σ (τ.setSmp die k c) := hk.onSampler

theorem Keeps.freeSmp {die k c} (hk : Keeps False σ τ) : Keeps False σ (τ.freeSmp die k c) := hk.onSampler

theorem Keeps.smpFail {die k c cause tval} (hk : Keeps False σ τ) : Keeps False σ (τ.smpFail die k c cause tval) := by
  unfold State.smpFail
  dsimp only
  exact hk.freeSmp.engineLost.engineTrap

theorem Keeps.takeSample {die i} (hk : Keeps False σ τ) : Keeps False σ (τ.takeSample die i) := by
  unfold State.takeSample
  dsimp only
  split
  · exact hk.fields.setSmp.onSampler
  · exact hk

theorem Keeps.smpRead {o ps} (hk : Keeps False σ τ) : Keeps False σ (τ.smpRead o ps).1 := by
  induction ps generalizing τ o with
  | nil => exact hk
  | cons p r ih =>
    have more {υ : State} {o' : EngineOp} {bs : List Byte} (h : Keeps False σ υ) : Keeps False σ
        (match State.smpRead υ o' r with
          | (s1, .ok rest l) => (s1, SmpGot.ok (bs ++ rest) l)
          | e => e).1 := by
      split
      · rename_i e
        exact (ih h).fst_eq e
      · exact ih h
    unfold State.smpRead
    dsimp only
    split
    · rename_i e
      exact more (hk.engineLocate.fst_eq e)
    · rename_i e
      exact hk.engineLocate.fst_eq e
    · exact hk
    · rename_i e
      split
      · exact hk
      · split
        · exact hk
        · exact more (hk.engineLocate.fst_eq e)
    · rename_i e
      have h := hk.engineLocate.fst_eq e
      split
      · rename_i e1
        exact more (h.engineAccess.fst_eq e1)
      · exact hk
      · rename_i e1
        exact h.engineAccess.fst_eq e1

theorem Keeps.smpWrite {o tag ps} (hk : Keeps False σ τ) : Keeps False σ (τ.smpWrite o tag ps).1 := by
  induction ps generalizing τ o with
  | nil => exact hk
  | cons p r ih =>
    unfold State.smpWrite
    split
    · rename_i e
      exact hk.engineLocate.fst_eq e
    · exact hk
    · rename_i e
      dsimp only
      split
      · rename_i e1
        exact ih ((hk.engineLocate.fst_eq e).engineAccess.fst_eq e1).engineWrite
      · exact hk
      · rename_i e1
        exact (hk.engineLocate.fst_eq e).engineAccess.fst_eq e1
    · exact hk

theorem Keeps.smpLoad {die k c} (hk : Keeps False σ τ) : Keeps False σ (τ.smpLoad die k c) := by
  unfold State.smpLoad
  dsimp only
  split
  · exact hk.smpFail
  · split
    · exact hk.fields.smpFail
    · split
      · rename_i e
        exact hk.smpRead.fst_eq e
      · rename_i e
        exact (hk.smpRead.fst_eq e).smpFail
      · rename_i e
        split
        · exact (hk.smpRead.fst_eq e).smpFail
        · split
          · rename_i e1
            exact hk.fields
          · rename_i e1
            exact ((hk.smpRead.fst_eq e).smpRead.fst_eq e1).smpFail
          · rename_i e1
            exact ((hk.smpRead.fst_eq e).smpRead.fst_eq e1).setSmp

theorem Keeps.execSamplerDispatch {die} (hk : Keeps False σ τ) : KeepsO σ (execSamplerDispatch die τ) := by
  unfold Machine.execSamplerDispatch
  split
  · trivial
  · split
    · exact hk
    · split
      · exact hk
      · exact hk.smpLoad

theorem Keeps.execSamplerTimeout {die k} (hk : Keeps False σ τ) : KeepsO σ (execSamplerTimeout die k τ) := by
  unfold Machine.execSamplerTimeout
  split
  · trivial
  · split
    · exact hk
    · exact .ite hk.smpFail hk

/-- A body of a micro-instruction keeps the states that it gives. -/
def MicroGot.Keeps (σ : State) : MicroGot → Prop
  | .placed _ υ | .wait υ | .over_ υ => Machine.Keeps False σ υ
  | .ok _ _ | .fail _ _ | .failFree _ => True

theorem Keeps.micro {body} (hk : Keeps False σ τ) (hb : ∀ c m, (body c m).Keeps σ) : KeepsO σ (micro body τ) := by
  unfold Machine.micro
  dsimp only
  split
  · exact hk.tick
  · split
    · exact hk.smpFail.tick
    · rename_i c _ _
      have h := hb { c with pc := c.pc + 1, ran := c.ran + 1, xfail := none } (τ.sampler τ.smp.1)
      split
      · exact hk.fields.setSmp.tick
      · rename_i e
        rw [e] at h
        exact (show Keeps False σ _ from h).setSmp.tick
      · exact hk.smpFail.tick
      · exact hk.fields.smpFail.tick
      · rename_i e
        rw [e] at h
        exact (show Keeps False σ _ from h).tick
      · rename_i e
        rw [e] at h
        exact (show Keeps False σ _ from h).tick

theorem Keeps.toReg {x v} (hk : Keeps False σ τ) : KeepsO σ (toReg x v τ) := hk.micro fun _ _ => trivial

theorem Keeps.execSmpMov {x} (hk : Keeps False σ τ) : KeepsO σ (execSmpMov x τ) := hk.toReg

theorem Keeps.execSmpLdi {x} (hk : Keeps False σ τ) : KeepsO σ (execSmpLdi x τ) := by
  unfold Machine.execSmpLdi
  dsimp only
  exact hk.toReg

theorem Keeps.execSmpAdd {x} (hk : Keeps False σ τ) : KeepsO σ (execSmpAdd x τ) := hk.toReg

theorem Keeps.execSmpSub {x} (hk : Keeps False σ τ) : KeepsO σ (execSmpSub x τ) := hk.toReg

theorem Keeps.execSmpMul {x} (hk : Keeps False σ τ) : KeepsO σ (execSmpMul x τ) := hk.toReg

theorem Keeps.execSmpFadd {x} (hk : Keeps False σ τ) : KeepsO σ (execSmpFadd x τ) := hk.toReg

theorem Keeps.execSmpFmul {x} (hk : Keeps False σ τ) : KeepsO σ (execSmpFmul x τ) := hk.toReg

theorem Keeps.execSmpFexp {x} (hk : Keeps False σ τ) : KeepsO σ (execSmpFexp x τ) := hk.toReg

theorem Keeps.execSmpFmax {x} (hk : Keeps False σ τ) : KeepsO σ (execSmpFmax x τ) := hk.toReg

theorem Keeps.execSmpCmp {x} (hk : Keeps False σ τ) : KeepsO σ (execSmpCmp x τ) := hk.toReg

theorem Keeps.microBranch {opc x go} (hk : Keeps False σ τ) : KeepsO σ (microBranch opc x go τ) := hk.micro fun c _ => by
  split
  · trivial
  · split
    trivial

theorem Keeps.execSmpBr {x} (hk : Keeps False σ τ) : KeepsO σ (execSmpBr x τ) := hk.microBranch

theorem Keeps.execSmpBrc {x} (hk : Keeps False σ τ) : KeepsO σ (execSmpBrc x τ) := hk.microBranch

theorem Keeps.execSmpLoop {x} (hk : Keeps False σ τ) : KeepsO σ (execSmpLoop x τ) := by
  unfold Machine.execSmpLoop
  dsimp only
  exact hk.microBranch

theorem Keeps.execSmpCld {x} (hk : Keeps False σ τ) : KeepsO σ (execSmpCld x τ) := hk.micro fun _ _ => by
  extract_lets +onlyGivenNames f n first va es
  split
  · trivial
  · split
    · trivial
    · split
      · trivial
      · extract_lets
        split
        · exact hk.fields
        · trivial
        · rename_i e
          exact (hk.smpRead.fst_eq e).onSampler

theorem Keeps.execSmpCst {x} (hk : Keeps False σ τ) : KeepsO σ (execSmpCst x τ) := hk.micro fun _ _ => by
  extract_lets +onlyGivenNames n first va
  split
  · trivial
  · split
    · trivial
    · split
      · trivial
      · extract_lets
        split
        · exact hk.fields
        · trivial
        · rename_i e
          exact hk.smpWrite.fst_eq e

theorem Keeps.execSmpCsortk {x} (hk : Keeps False σ τ) : KeepsO σ (execSmpCsortk x τ) := hk.micro fun _ _ => by
  extract_lets
  split
  · trivial
  · trivial

theorem Keeps.execSmpCscan {x} (hk : Keeps False σ τ) : KeepsO σ (execSmpCscan x τ) := hk.micro fun _ _ => by
  extract_lets
  split
  · trivial
  · trivial

theorem Keeps.execSmpCsel {x} (hk : Keeps False σ τ) : KeepsO σ (execSmpCsel x τ) := hk.micro fun _ _ => by
  extract_lets
  split
  · trivial
  · trivial

theorem Keeps.execSmpRng {x} (hk : Keeps False σ τ) : KeepsO σ (execSmpRng x τ) := hk.micro fun _ _ => by split <;> trivial

theorem Keeps.execSmpCtrset {x} (hk : Keeps False σ τ) : KeepsO σ (execSmpCtrset x τ) := hk.micro fun _ _ => by
  extract_lets
  split
  · trivial
  · split
    · trivial
    · trivial
  · split
    · trivial
    · trivial

theorem Keeps.execSmpCtrget {x} (hk : Keeps False σ τ) : KeepsO σ (execSmpCtrget x τ) := hk.toReg

theorem Keeps.execSmpEmit {x} (hk : Keeps False σ τ) : KeepsO σ (execSmpEmit x τ) := hk.micro fun _ _ => by
  extract_lets
  split
  · trivial
  · split
    · trivial
    · trivial

theorem Keeps.smpDone {die k c p} (hk : Keeps False σ τ) : Keeps False σ (τ.smpDone die k c p) := hk.freeSmp.engineDone

theorem Keeps.smpCommit {die k c o p} (hk : Keeps False σ τ) : (τ.smpCommit die k c o p).Keeps σ := by
  unfold State.smpCommit
  dsimp only
  split
  · split
    · trivial
    · split
      · exact hk.fields
      · trivial
      · split
        · trivial
        · rename_i e _
          exact (hk.smpWrite.fst_eq e).smpDone
  · split
    · exact hk.smpDone
    · split
      · trivial
      · split
        · exact hk.fields
        · trivial
        · split
          · trivial
          · rename_i e _
            exact (hk.smpWrite.fst_eq e).placeDesc.onStream.smpDone

theorem Keeps.execSmpHalt (x) (hk : Keeps False σ τ) : KeepsO σ (execSmpHalt x τ) := hk.micro fun _ _ => by
  split
  · trivial
  · exact hk.smpCommit

theorem Keeps.execSmpFault {x} (hk : Keeps False σ τ) : KeepsO σ (execSmpFault x τ) := hk.micro fun _ _ => trivial

theorem Keeps.microStep {run die k} (hr : ∀ i υ, Keeps False σ υ → KeepsO σ (run i υ)) (hk : Keeps False σ τ) :
    KeepsO σ (microStep run die k τ) := by
  unfold Machine.microStep
  split
  · exact hk.tick
  · split
    · exact hk.fields.smpFail.tick
    · split
      · exact hr _ _ hk.fields
      · exact hk.smpFail.tick

theorem Keeps.microTurn {run die late} (hr : ∀ i υ, Keeps False σ υ → KeepsO σ (run i υ)) (hk : Keeps False σ τ) :
    KeepsO σ (microTurn run die late τ) := by
  unfold Machine.microTurn
  split
  · exact hk.onSampler.microStep hr
  · exact hk.tick

/-! ### CaravanEvents -/

theorem Keeps.dropEdge {slot} (hk : Keeps False σ τ) : Keeps False σ (τ.dropEdge slot) := hk.onLaunch

theorem Keeps.nodeReady {slot idx p} (hk : Keeps False σ τ) : KeepsExcept σ (τ.nodeReady slot idx p) := by
  unfold State.nodeReady
  dsimp only
  split
  · exact hk.holdNode
  · exact hk.graphUnreadable
  · exact hk.graphError
  · split
    · exact hk.holdNode
    · split
      · exact hk
      · exact hk.enterPool

theorem Keeps.startGraph {slot p} (hk : Keeps False σ τ) : Keeps False σ (τ.startGraph slot p) := by
  unfold State.startGraph
  split
  · exact hk.holdNode
  · exact hk.graphUnreadable
  · exact hk.graphError
  · exact hk.onLaunch

theorem Keeps.countEdge {slot e} (hk : Keeps False σ τ) : Keeps False σ (τ.countEdge slot e) := by
  unfold State.countEdge
  extract_lets ready
  have h {p fin} (hf : ∀ υ, Keeps False υ (fin υ)) : Keeps False σ (ready τ p fin) := by
    dsimp only [ready]
    split
    · rename_i e
      exact hk.nodeReady.error_eq e
    · rename_i e
      exact (hk.nodeReady.ok_eq e).dropEdge.trans (hf _)
  clear_value ready
  split
  · exact h .refl
  · split
    · exact hk.holdNode
    · exact hk.graphUnreadable
    · exact h .refl
    · dsimp only
      split
      · exact hk.dropEdge
      · split
        · exact h fun υ => (Keeps.refl υ).onLaunch
        · exact hk.dropEdge.onLaunch

theorem Keeps.execSuccessorReady {slot} (hk : Keeps False σ τ) : KeepsO σ (execSuccessorReady slot τ) := by
  unfold Machine.execSuccessorReady
  split
  · trivial
  · split
    · exact hk
    · split
      · exact hk.dropEdge
      · split
        · exact hk.startGraph
        · exact hk.countEdge

theorem Keeps.execPoolOverflowTransfer {die} (hk : Keeps False σ τ) : KeepsO σ (execPoolOverflowTransfer die τ) := by
  unfold Machine.execPoolOverflowTransfer
  split
  · trivial
  · split
    · exact hk
    · split
      · exact hk.onCaravan.closeLone.onCaravan
      · exact hk

theorem Keeps.execGangClose {die idx} (hk : Keeps False σ τ) : KeepsO σ (execGangClose die idx τ) := by
  unfold Machine.execGangClose
  split
  · trivial
  · exact hk.onCaravan

theorem Keeps.execGangCompletion {die gslot} (hk : Keeps False σ τ) : KeepsO σ (execGangCompletion die gslot τ) := by
  unfold Machine.execGangCompletion
  split
  · trivial
  · split
    · exact hk
    · exact .ite hk hk.completeInst

theorem Keeps.writeGang {die slot p rows} (hk : Keeps False σ τ) : Keeps False σ (τ.writeGang die slot p rows) := by
  have h : Keeps False σ ({ τ with free := τ.free + 1 }.placeLines (freeAgent τ.free) (p + 1) (gangLines die slot)).1 :=
    hk.fields.placeLines
  unfold State.writeGang
  extract_lets key s bytes drop
  have h : Keeps False σ s := h
  clear_value s bytes
  exact h.cores (Memory.wf_putBytes s.mem key bytes)

theorem Keeps.nwaitDone {g w n} (hk : Keeps False σ τ) : Keeps False σ (τ.nwaitDone g w n) := by
  unfold State.nwaitDone
  dsimp only
  exact hk.takeNode.onCtx nofun

theorem Keeps.deliver {g n entry} (hk : Keeps False σ τ) : Keeps False σ (τ.deliver g n entry) := by
  unfold State.deliver
  dsimp only
  split
  · exact hk.takeNode.onCtx nofun
  · split
    · exact .ite hk.nwaitDone (hk.onCtx nofun)
    · exact hk.onCtx nofun

theorem Keeps.deliverAll {i gsize} (hk : Keeps False σ τ) : Keeps False σ (τ.deliverAll i gsize) := by
  unfold State.deliverAll
  dsimp only
  exact hk.foldl (fun _ _ => (Keeps.refl _).deliver)

theorem Keeps.configNode {i} (hk : Keeps False σ τ) : Keeps False σ (τ.configNode i) := by
  unfold State.configNode
  dsimp only
  exact .ite hk.configDomain hk

theorem Keeps.startMatrix {i} (hk : Keeps False σ τ) : Keeps False σ (τ.startMatrix i) := by
  unfold State.startMatrix
  dsimp only
  exact hk.onEngine

theorem Keeps.handInst {i gsize} (hk : Keeps False σ τ) : Keeps False σ (τ.handInst i gsize) := by
  unfold State.handInst
  split
  · exact hk.configNode.deliverAll
  · exact hk.startMatrix
  · exact hk.takeSample
  · exact hk

theorem Keeps.dispatchCand {die c cores unit} (hk : Keeps False σ τ) : Keeps False σ (τ.dispatchCand die c cores unit) := by
  unfold State.dispatchCand
  dsimp only
  split
  · exact hk.onCaravan
  · refine Keeps.clockStop ?_
    refine Keeps.handInst ?_
    refine Keeps.onCaravan ?_
    split
    · refine Keeps.writeGang ?_
      refine hk.onCaravan.fields.foldl (fun _ _ => ?_)
      split
      · exact Keeps.refl _
      · exact (Keeps.ite (Keeps.refl _).loadSpm (Keeps.refl _)).unitStep.onStream
    · refine hk.onCaravan.fields.foldl (fun _ _ => ?_)
      split
      · exact Keeps.refl _
      · exact (Keeps.ite (Keeps.refl _).loadSpm (Keeps.refl _)).unitStep.onStream

theorem Keeps.holdMaps {cs} (hk : Keeps False σ τ) : Keeps False σ (τ.holdMaps cs) := by
  unfold State.holdMaps
  refine hk.foldl (fun _ _ => ?_)
  split
  · exact (Keeps.refl _).holdNode
  · exact (Keeps.refl _).graphUnreadable
  · exact Keeps.refl _

theorem Keeps.dispatchCores {die} (hk : Keeps False σ τ) : Keeps False σ (τ.dispatchCores die) := by
  unfold State.dispatchCores
  dsimp only
  split
  · exact hk.onCaravan.holdMaps
  · split
    · exact hk.onCaravan.dispatchCand
    · split
      · exact hk.onCaravan.dispatchCand
      · exact hk.onCaravan.holdMaps

theorem Keeps.dispatchUnit {die cls} (hk : Keeps False σ τ) : Keeps False σ (τ.dispatchUnit die cls) := by
  unfold State.dispatchUnit
  dsimp only
  split
  · exact hk.fields.dispatchCand
  · exact hk

theorem Keeps.execCaravanDispatch {die cls} (hk : Keeps False σ τ) : KeepsO σ (execCaravanDispatch die cls τ) := by
  unfold Machine.execCaravanDispatch
  split
  · trivial
  · split
    · exact hk.dispatchCores
    · exact hk.dispatchUnit

theorem Keeps.evalRead {e va} (hk : Keeps False σ τ) : Keeps False σ (τ.evalRead e va).1 := by
  unfold State.evalRead
  split
  · dsimp only
    exact hk.holdNode
  · exact hk
  · refine .ite_fst hk.askHost (.ite_fst hk ?_)
    exact hk.fields.settle.place326

theorem Keeps.unpoolEntry {die e} (hk : Keeps False σ τ) : Keeps False σ (τ.unpoolEntry die e) := hk.onCaravan

theorem Keeps.evalRelease {die e succ p body} (hk : Keeps False σ τ) : Keeps False σ (τ.evalRelease die e succ p body) := by
  unfold State.evalRelease
  dsimp only
  split
  · exact hk.unpoolEntry.releaseEdges
  · exact (Keeps.ite hk.unpoolEntry.unitStep.onStream.awaitAction hk.unpoolEntry.unitStep.onStream.streamReady).clockStop

theorem Keeps.evalWith {die e va f} (hf : ∀ υ v p, Keeps False υ (f υ v p)) (hk : Keeps False σ τ) :
    Keeps False σ (τ.evalWith die e va f) := by
  unfold State.evalWith
  split
  · exact hk.unpoolEntry
  · split
    · rename_i e
      exact hk.evalRead.fst_eq e
    · rename_i e
      exact (hk.evalRead.fst_eq e).graphUnreadable
    · rename_i e
      exact (hk.evalRead.fst_eq e).trans (hf ..)

theorem Keeps.execConditionEval {die} (hk : Keeps False σ τ) : KeepsO σ (execConditionEval die τ) := by
  unfold Machine.execConditionEval
  dsimp only
  split
  · trivial
  · split
    · exact hk
    · exact hk.evalWith fun υ _ _ => (Keeps.refl υ).evalRelease

theorem Keeps.execSwitchEval {die} (hk : Keeps False σ τ) : KeepsO σ (execSwitchEval die τ) := by
  unfold Machine.execSwitchEval
  dsimp only
  split
  · trivial
  · split
    · exact hk
    · exact hk.evalWith fun υ _ _ => (Keeps.refl υ).evalRelease

theorem Keeps.evalLoop {die e lim p} (hk : Keeps False σ τ) : Keeps False σ (τ.evalLoop die e lim p) := by
  unfold State.evalLoop
  dsimp only
  exact .ite (Keeps.ite (.ite hk.onStream hk.onLaunch) (Keeps.ite hk.onStream hk.onLaunch).onLaunch).evalRelease (Keeps.ite hk (.ite
    hk.onStream hk.onLaunch)).evalRelease

theorem Keeps.execLoopEval {die} (hk : Keeps False σ τ) : KeepsO σ (execLoopEval die τ) := by
  unfold Machine.execLoopEval
  dsimp only
  split
  · trivial
  · split
    · exact hk
    · split
      · exact .ite hk.evalLoop hk.unpoolEntry
      · exact hk.evalWith fun υ _ _ => (Keeps.refl υ).evalLoop

theorem Keeps.startDrive {die e} (hk : Keeps False σ τ) : Keeps False σ (τ.startDrive die e) := by
  unfold State.startDrive
  dsimp only
  split
  · exact hk.holdNode
  · exact hk.graphUnreadable
  · exact hk.graphError
  · split
    · exact hk.holdNode
    · exact hk.graphUnreadable
    · exact (hk.unpoolEntry.foldl (fun _ _ => (Keeps.refl _).closeLone)).fields

theorem Keeps.onDrive {slot node f} (hk : Keeps False σ τ) : Keeps False σ (τ.onDrive slot node f) := hk.fields

theorem Keeps.driveHandle {v h} (hk : Keeps False σ τ) : Keeps False σ (τ.driveHandle v h) := by
  unfold State.driveHandle
  dsimp only
  exact .ite hk.onDrive.onDrive (Keeps.ite hk.unpool hk).unitStep.onStream.onDrive.streamReady.onDrive.clockStop

theorem Keeps.retryHeld {slot} (hk : Keeps False σ τ) : Keeps False σ (τ.retryHeld slot) :=
  hk.foldl (fun _ _ => .ite (Keeps.refl _).streamReady (Keeps.refl _))

theorem Keeps.driveNext {slot} (hk : Keeps False σ τ) : Keeps False σ (τ.driveNext slot) := by
  unfold State.driveNext
  split
  · exact hk.driveHandle
  · split
    · exact hk.startDrive
    · exact hk

theorem Keeps.execStreamDrive {slot} (hk : Keeps False σ τ) : KeepsO σ (execStreamDrive slot τ) := by
  unfold Machine.execStreamDrive
  dsimp only
  split
  · trivial
  · split
    · exact hk
    · exact .ite hk.retryHeld hk.retryHeld.driveNext

theorem Keeps.endDrive {v} (hk : Keeps False σ τ) : Keeps False σ (τ.endDrive v) := hk.fields.releaseEdges

theorem Keeps.execStreamDriveComplete {slot} (hk : Keeps False σ τ) : KeepsO σ (execStreamDriveComplete slot τ) := by
  unfold Machine.execStreamDriveComplete
  dsimp only
  split
  · trivial
  · split
    · exact hk
    · split
      · exact hk.endDrive
      · split
        · rename_i e
          exact hk.fields.unitStore.fst_eq e
        · rename_i e
          exact (hk.fields.unitStore.fst_eq e).clockStop
        · rename_i e
          exact (hk.fields.unitStore.fst_eq e).endDrive

theorem Keeps.flushLaunch {slot} (hk : Keeps False σ τ) : Keeps False σ (τ.flushLaunch slot) := by
  unfold State.flushLaunch
  dsimp only
  exact hk.foldl (fun _ _ => (Keeps.refl _).flushStores)

theorem Keeps.endLaunch {slot code st elapsed comp irqen} (hk : Keeps False σ τ) : Keeps False σ (τ.endLaunch slot code st elapsed comp
    irqen) := by
  unfold State.endLaunch
  dsimp only
  exact .ite ((Keeps.ite hk.undrive.onLaunch (hk.undrive.onLaunch.memory (Memory.wf_putBytes _ _ _))).foldl (fun _ _ =>
    (Keeps.refl _).freeDomain)).cores.send ((Keeps.ite hk.undrive.onLaunch (hk.undrive.onLaunch.memory (Memory.wf_putBytes _ _ _))).foldl
    (fun _ _ => (Keeps.refl _).freeDomain)).cores

theorem Keeps.execLaunchEnd {slot} (hk : Keeps False σ τ) : KeepsO σ (execLaunchEnd slot τ) := by
  unfold Machine.execLaunchEnd
  dsimp only
  split
  · trivial
  · split
    · exact hk
    · exact .ite hk.flushLaunch hk.flushLaunch.endLaunch

/-! ### Control -/

theorem noteBranch_steady {t} : (noteBranch t).Steady C := modify_steady fun _ => (Keeps.refl _).trace

theorem goTo_steady {t} : (goTo t).Steady C := trapIf_steady.bind fun _ => noteBranch_steady.bind fun _ => (onMyCtx_steady)

theorem goIf_steady {b t} : (goIf b t).Steady C := .ite goTo_steady pure_steady

theorem callTo_steady {t n v} : (callTo t n v).Steady C :=
  trapIf_steady.bind fun _ => myCtx_steady.bind fun _ => trapIf_steady.bind fun _ => noteBranch_steady.bind fun _ => (onMyCtx_steady)

theorem execBr_steady {x} : IssuesSteady C (.br x) τ (execBr x τ) :=
  ⟨_, rfl, fun _ => goTo_steady⟩

theorem execBz_steady {x} : IssuesSteady C (.bz x) τ (execBz x τ) :=
  ⟨_, rfl, fun _ => src_steady.bind fun _ => goIf_steady⟩

theorem execBcmp_steady {x} : IssuesSteady C (.bcmp x) τ (execBcmp x τ) :=
  ⟨_, rfl, fun _ => src_steady.bind fun _ => (.ite (pure_steady.bind fun _ => goIf_steady) (src_steady.bind fun _ => goIf_steady))⟩

theorem execCall_steady {x} : IssuesSteady C (.call x) τ (execCall x τ) :=
  ⟨_, rfl, fun _ => callTo_steady⟩

theorem execRet_steady {x} : IssuesSteady C (.ret x) τ (execRet x τ) :=
  ⟨_, rfl, fun _ => myCtx_steady.bind fun _ => trapIf_steady.bind fun _ => trapIf_steady.bind fun _ => noteBranch_steady.bind fun _ =>
    (onMyCtx_steady)⟩

theorem execJr_steady {x} : IssuesSteady C (.jr x) τ (execJr x τ) :=
  ⟨_, rfl, fun _ => src_steady.bind fun _ => goTo_steady⟩

theorem execCallr_steady {x} : IssuesSteady C (.callr x) τ (execCallr x τ) :=
  ⟨_, rfl, fun _ => src_steady.bind fun _ => callTo_steady⟩

theorem execLoop_steady {x} : IssuesSteady C (.loop x) τ (execLoop x τ) :=
  ⟨_, rfl, fun _ => src_steady.bind fun _ => dst_steady.bind fun _ => goIf_steady⟩

theorem execBq_steady {x} : IssuesSteady C (.bq x) τ (execBq x τ) :=
  ⟨_, rfl, fun _ => src_steady.bind fun _ => goIf_steady⟩

theorem execJtab_steady {x} : IssuesSteady C (.jtab x) τ (execJtab x τ) :=
  ⟨_, rfl, fun _ => src_steady.bind fun _ => src_steady.bind fun _ => checkLocal_steady.bind fun _ => trapIf_steady.bind fun _ =>
    trapIf_steady.bind fun _ => localDword_steady.bind fun _ => trapIf_steady.bind fun _ => localDword_steady.bind fun _ => goTo_steady⟩

theorem execNop_steady {x} : IssuesSteady C (.nop x) τ (execNop x τ) :=
  ⟨_, rfl, fun _ => pure_steady⟩

/-! ### ContextEvents -/

theorem Keeps.nwaitExpire {g w} (hk : Keeps False σ τ) : Keeps False σ (τ.nwaitExpire g w) := hk.onCtx nofun

theorem Keeps.execNwaitTimeout {core} (hk : Keeps False σ τ) : KeepsO σ (execNwaitTimeout core τ) := by
  unfold Machine.execNwaitTimeout
  dsimp only
  split
  · trivial
  · split
    · exact hk
    · split
      · exact hk
      · split
        · exact hk.nwaitExpire
        · exact hk

theorem Keeps.execYieldExpire {core ctx} (hk : Keeps False σ τ) : KeepsO σ (execYieldExpire core ctx τ) := by
  unfold Machine.execYieldExpire
  split
  · trivial
  · split
    · exact .ite (hk.onCtx nofun) hk
    · exact hk

theorem Keeps.deadlock {g k q} (hk : Keeps False σ τ) : Keeps False σ (τ.deadlock g k q) := by
  unfold State.deadlock
  dsimp only
  split
  · exact hk.takeTrap
  · exact hk

theorem Keeps.deadlockPair {g j k u v} (hk : Keeps False σ τ) : Keeps False σ (τ.deadlockPair g j k u v) := by
  unfold State.deadlockPair
  dsimp only
  exact .ite hk.deadlock.deadlock hk.deadlock.utrap

theorem Keeps.execQueueDeadlock {core qset} (hk : Keeps False σ τ) : KeepsO σ (execQueueDeadlock core qset τ) := by
  unfold Machine.execQueueDeadlock
  split
  · trivial
  · split
    · exact hk
    · exact .ite hk.deadlockPair hk

theorem Keeps.execRegcacheRefill {core ctx line} (hk : Keeps False σ τ) : KeepsO σ (execRegcacheRefill core ctx line τ) := by
  unfold Machine.execRegcacheRefill
  dsimp only
  split
  · trivial
  · split
    · exact hk
    · split
      · exact hk.imageTrap
      · exact hk.onCore nofun

/-- A fetch keeps the state that it gives. -/
def Fetched.Keeps (σ : State) : Fetched → Prop
  | .bytes _ υ => Machine.Keeps False σ υ
  | .fault _ _ | .absent | .held => True

theorem Keeps.icacheBlock {cl owner key va} (hk : Keeps False σ τ) : (τ.icacheBlock cl owner key va).Keeps σ := by
  unfold State.icacheBlock
  dsimp only
  split
  · split
    · trivial
    · exact hk.fields
  · split
    · trivial
    · split
      · trivial
      · exact hk.settle.cacheCode

theorem Keeps.fetchBlock {g k va} (hk : Keeps False σ τ) : (τ.fetchBlock g k va).Keeps σ := by
  unfold State.fetchBlock
  extract_lets a
  split
  · trivial
  · split
    · trivial
    · split
      · trivial
      · split
        rename_i e
        split
        · trivial
        · trivial
        · split
          · trivial
          · exact (hk.translate.snd_eq e).icacheBlock
  · trivial

theorem Fetched.Keeps.bytes_eq {x : Fetched} {bs} (h : x.Keeps σ) (e : x = .bytes bs τ) : Machine.Keeps False σ τ := by
  subst e
  exact h

theorem Keeps.execFetchBlockFill {core ctx block} (hk : Keeps False σ τ) : KeepsO σ (execFetchBlockFill core ctx block τ) := by
  unfold Machine.execFetchBlockFill
  split
  · trivial
  · dsimp only
    split
    · exact hk
    · split
      · rename_i e
        exact (hk.fetchBlock.bytes_eq e).onCtx nofun
      · exact hk

theorem Keeps.park {g k} (hk : Keeps False σ τ) : Keeps False σ (τ.park g k) := by
  unfold State.park
  dsimp only
  exact hk.unpop.unadmit.fields.onCtx nofun

theorem Keeps.takePreempt {g k} (hk : Keeps False σ τ) : KeepsSome False σ id (τ.takePreempt g k) := by
  unfold State.takePreempt
  dsimp only
  exact .ite (.some hk.park) .none

theorem Keeps.execPreemptPoint {core ctx} (hk : Keeps False σ τ) : KeepsO σ (execPreemptPoint core ctx τ) := by
  unfold Machine.execPreemptPoint
  split
  · trivial
  · exact hk.getD hk.takePreempt

theorem Keeps.execAsyncTrapDelivery {core ctx} (hk : Keeps False σ τ) : KeepsO σ (execAsyncTrapDelivery core ctx τ) := by
  unfold Machine.execAsyncTrapDelivery
  split
  · trivial
  · split
    · exact hk.getD hk.deliverAsync
    · exact hk

theorem Keeps.saveCtx {g k} (hk : Keeps False σ τ) : Keeps False σ (τ.saveCtx g k) := by
  unfold State.saveCtx
  dsimp only
  split
  · exact (hk.onCtx nofun).onCore nofun
  · exact hk.onCtx nofun

theorem Keeps.execContextSaved {core ctx} (hk : Keeps False σ τ) : KeepsO σ (execContextSaved core ctx τ) := by
  unfold Machine.execContextSaved
  dsimp only
  split
  · trivial
  · exact .ite hk.saveCtx hk

theorem Keeps.execPrectlSuspend {slot share} (hk : Keeps False σ τ) : KeepsO σ (execPrectlSuspend slot share τ) := by
  unfold Machine.execPrectlSuspend
  dsimp only
  split
  · trivial
  · exact .ite hk.onLaunch hk

theorem Keeps.resumeCtx {g k} (hk : Keeps False σ τ) : Keeps False σ (τ.resumeCtx g k) := by
  unfold State.resumeCtx
  dsimp only
  exact .ite hk (.ite ((hk.onCore nofun).onCtx nofun).traceMask ((hk.onCore nofun).onCtx nofun))

theorem Keeps.unshelve {g} (hk : Keeps False σ τ) : Keeps False σ (τ.unshelve g) := by
  unfold State.unshelve
  dsimp only
  exact .ite ((hk.foldl (fun _ _ => (Keeps.refl _).releaseTiles)).onCore nofun) hk

theorem Keeps.execContextResume {core ctx} (hk : Keeps False σ τ) : KeepsO σ (execContextResume core ctx τ) := by
  unfold Machine.execContextResume
  dsimp only
  split
  · trivial
  · exact .ite (.ite hk.unshelve hk) (Keeps.ite hk.unshelve hk).resumeCtx

theorem Keeps.execPrectlResume {slot} (hk : Keeps False σ τ) : KeepsO σ (execPrectlResume slot τ) := by
  unfold Machine.execPrectlResume
  dsimp only
  split
  · trivial
  · split
    · exact hk
    · exact hk.onLaunch.foldl (fun _ _ => (Keeps.refl _).foldl (fun _ _ => .ite (Keeps.refl _).resumeCtx (Keeps.refl _)))

theorem Keeps.discardShelf {l g} (hk : Keeps False σ τ) : Keeps False σ (τ.discardShelf l g) := by
  unfold State.discardShelf
  dsimp only
  exact .ite ((hk.foldl (fun _ _ => (Keeps.refl _).releaseTilesOn)).onCore nofun).dropRank hk

/-! ### Scalar -/

theorem binary_steady {x f v} : (binary x f v).Steady C := src_steady.bind fun _ => srcB_steady.bind fun _ => dst_steady

theorem binaryImm_steady {x f v} : (binaryImm x f v).Steady C := src_steady.bind fun _ => dst_steady

theorem execAdd_steady {x} : IssuesSteady C (.add x) τ (execAdd x τ) :=
  ⟨_, rfl, fun _ => binary_steady⟩

theorem execSub_steady {x} : IssuesSteady C (.sub x) τ (execSub x τ) :=
  ⟨_, rfl, fun _ => binary_steady⟩

theorem execMul_steady {x} : IssuesSteady C (.mul x) τ (execMul x τ) :=
  ⟨_, rfl, fun _ => binary_steady⟩

theorem execMulh_steady {x} : IssuesSteady C (.mulh x) τ (execMulh x τ) :=
  ⟨_, rfl, fun _ => binary_steady⟩

theorem execDiv_steady {x} : IssuesSteady C (.div x) τ (execDiv x τ) :=
  ⟨_, rfl, fun _ => binary_steady⟩

theorem execRem_steady {x} : IssuesSteady C (.rem x) τ (execRem x τ) :=
  ⟨_, rfl, fun _ => binary_steady⟩

theorem execAnd_steady {x} : IssuesSteady C (.and x) τ (execAnd x τ) :=
  ⟨_, rfl, fun _ => binary_steady⟩

theorem execOr_steady {x} : IssuesSteady C (.or x) τ (execOr x τ) :=
  ⟨_, rfl, fun _ => binary_steady⟩

theorem execXor_steady {x} : IssuesSteady C (.xor x) τ (execXor x τ) :=
  ⟨_, rfl, fun _ => binary_steady⟩

theorem execAndn_steady {x} : IssuesSteady C (.andn x) τ (execAndn x τ) :=
  ⟨_, rfl, fun _ => binary_steady⟩

theorem execShl_steady {x} : IssuesSteady C (.shl x) τ (execShl x τ) :=
  ⟨_, rfl, fun _ => binary_steady⟩

theorem execShr_steady {x} : IssuesSteady C (.shr x) τ (execShr x τ) :=
  ⟨_, rfl, fun _ => binary_steady⟩

theorem execRot_steady {x} : IssuesSteady C (.rot x) τ (execRot x τ) :=
  ⟨_, rfl, fun _ => binary_steady⟩

theorem execMin_steady {x} : IssuesSteady C (.min x) τ (execMin x τ) :=
  ⟨_, rfl, fun _ => binary_steady⟩

theorem execMax_steady {x} : IssuesSteady C (.max x) τ (execMax x τ) :=
  ⟨_, rfl, fun _ => binary_steady⟩

theorem execCmp_steady {x} : IssuesSteady C (.cmp x) τ (execCmp x τ) :=
  ⟨_, rfl, fun _ => binary_steady⟩

theorem execAddi_steady {x} : IssuesSteady C (.addi x) τ (execAddi x τ) :=
  ⟨_, rfl, fun _ => binaryImm_steady⟩

theorem execAndi_steady {x} : IssuesSteady C (.andi x) τ (execAndi x τ) :=
  ⟨_, rfl, fun _ => binaryImm_steady⟩

theorem execOri_steady {x} : IssuesSteady C (.ori x) τ (execOri x τ) :=
  ⟨_, rfl, fun _ => binaryImm_steady⟩

theorem execXori_steady {x} : IssuesSteady C (.xori x) τ (execXori x τ) :=
  ⟨_, rfl, fun _ => binaryImm_steady⟩

theorem execShli_steady {x} : IssuesSteady C (.shli x) τ (execShli x τ) :=
  ⟨_, rfl, fun _ => binaryImm_steady⟩

theorem execShri_steady {x} : IssuesSteady C (.shri x) τ (execShri x τ) :=
  ⟨_, rfl, fun _ => binaryImm_steady⟩

theorem execCmpi_steady {x} : IssuesSteady C (.cmpi x) τ (execCmpi x τ) :=
  ⟨_, rfl, fun _ => binaryImm_steady⟩

theorem execLit_steady {x} : IssuesSteady C (.lit x) τ (execLit x τ) :=
  ⟨_, rfl, fun _ => dst_steady⟩

theorem execSel_steady {x} : IssuesSteady C (.sel x) τ (execSel x τ) :=
  ⟨_, rfl, fun _ => src_steady.bind fun _ => src_steady.bind fun _ => srcB_steady.bind fun _ => dst_steady⟩

theorem execBcnt_steady {x} : IssuesSteady C (.bcnt x) τ (execBcnt x τ) :=
  ⟨_, rfl, fun _ => src_steady.bind fun _ => dst_steady⟩

theorem execBfx_steady {x} : IssuesSteady C (.bfx x) τ (execBfx x τ) :=
  ⟨_, rfl, fun _ => binary_steady⟩

theorem execBfi_steady {x} : IssuesSteady C (.bfi x) τ (execBfi x τ) :=
  ⟨_, rfl, fun _ => src_steady.bind fun _ => src_steady.bind fun _ => srcB_steady.bind fun _ => dst_steady⟩

theorem execAddr_steady {x} : IssuesSteady C (.addr x) τ (execAddr x τ) :=
  ⟨_, rfl, fun _ => binary_steady⟩

theorem execAdds_steady {x} : IssuesSteady C (.adds x) τ (execAdds x τ) :=
  ⟨_, rfl, fun _ => binary_steady⟩

theorem execFop_steady {x} : IssuesSteady C (.fop x) τ (execFop x τ) := by
  refine ⟨_, rfl, fun _ => ?_⟩
  extract_lets -underBinder +onlyGivenNames ty fn j0
  have hj0 : ∀ a0, (j0 a0).Steady C := fun _ => src_steady.bind fun _ => srcB_steady.bind fun _ => (.ite (src_steady.bind fun _ =>
    dst_steady) (pure_steady.bind fun _ => dst_steady))
  exact .ite (drawsFor_steady.bind fun _ => (hj0 _)) (pure_steady.bind fun _ => (hj0 _))

theorem execMad_steady {x} : IssuesSteady C (.mad x) τ (execMad x τ) :=
  ⟨_, rfl, fun _ => src_steady.bind fun _ => srcB_steady.bind fun _ => src_steady.bind fun _ => dst_steady⟩

/-! ### LocalAccess -/

theorem execLdl_steady {x} : IssuesSteady C (.ldl x) τ (execLdl x τ) :=
  ⟨_, rfl, fun _ => src_steady.bind fun _ => checkScalar_steady.bind fun _ => windowGet_steady.bind fun _ => dst_steady⟩

theorem execStl_steady {x} : IssuesSteady C (.stl x) τ (execStl x τ) :=
  ⟨_, rfl, fun _ => src_steady.bind fun _ => src_steady.bind fun _ => checkScalar_steady.bind fun _ =>
    (.ite (drawsFor_steady.bind fun _ => windowPut_steady) (pure_steady.bind fun _ => windowPut_steady))⟩

theorem checkLanes_steady {win store gather la lanes} : (checkLanes win store gather la lanes).Steady C := by
  unfold checkLanes
  extract_lets -underBinder +onlyGivenNames j0
  have hj0 : ∀ a0 a1, (j0 a0 a1).Steady C := by
    intro _ _
    unfold j0
    split
    · exact trap_steady
    · exact pure_steady
  exact (hj0 _ _).bind fun _ => trapIf_steady.bind fun _ => myCore_steady.bind fun _ => (hj0 _ _).bind fun _ => trapIf_steady

theorem loadLanes_steady {ty vd ls} : (loadLanes ty vd ls).Steady C := by
  induction ls with
  | nil => exact pure_steady
  | cons l r ih => exact windowGet_steady.bind fun _ => ih.bind fun _ => onMyCtx_steady

theorem storeLanes_steady {ty rm d j ls} : (storeLanes ty rm d j ls).Steady C := by
  induction ls generalizing j with
  | nil => exact pure_steady
  | cons l r ih => exact windowPut_steady.bind fun _ => ih

theorem execVldl_steady {x} : IssuesSteady C (.vldl x) τ (execVldl x τ) :=
  ⟨_, rfl, fun _ => src_steady.bind fun _ => checkLocal_steady.bind fun _ => trapIf_steady.bind fun _ => myCtx_steady.bind fun _ =>
    checkLanes_steady.bind fun _ => loadLanes_steady⟩

theorem storePlanes_steady {x v la} : (storePlanes x v la).Steady C := by
  unfold storePlanes
  refine myCtx_steady.bind fun _ => ?_
  extract_lets -underBinder +onlyGivenNames ty p elems n size
  refine trapIf_steady.bind fun _ => trapIf_steady.bind fun _ => myCore_steady.bind fun _ => ?_
  split
  · exact trap_steady
  · exact localPut_steady

theorem execVstl_steady {x} : IssuesSteady C (.vstl x) τ (execVstl x τ) :=
  ⟨_, rfl, fun _ => src_steady.bind fun _ => checkLocal_steady.bind fun _ => trapIf_steady.bind fun _ =>
    (.ite storePlanes_steady (myCtx_steady.bind fun _ => checkLanes_steady.bind fun _ => drawsFor_steady.bind fun _ =>
    storeLanes_steady))⟩

theorem checkGather_steady {v store ls} : (checkGather v store ls).Steady C := by
  induction ls with
  | nil => exact pure_steady
  | cons l r ih => exact checkLocal_steady.bind fun _ => trapIf_steady.bind fun _ => checkLanes_steady.bind fun _ => ih

theorem execVgathl_steady {x} : IssuesSteady C (.vgathl x) τ (execVgathl x τ) :=
  ⟨_, rfl, fun _ => src_steady.bind fun _ => myCtx_steady.bind fun _ => checkGather_steady.bind fun _ => loadLanes_steady⟩

theorem execVscatl_steady {x} : IssuesSteady C (.vscatl x) τ (execVscatl x τ) :=
  ⟨_, rfl, fun _ => src_steady.bind fun _ => myCtx_steady.bind fun _ => checkGather_steady.bind fun _ => drawsFor_steady.bind fun _ =>
    storeLanes_steady⟩

theorem loadTx_steady {win bw div vd ls} : (loadTx win bw div vd ls).Steady C := by
  induction ls with
  | nil => exact pure_steady
  | cons l r ih => exact localGet_steady.bind fun _ => ih.bind fun _ => onMyCtx_steady

theorem execLdtx_steady {x} : IssuesSteady C (.ldtx x) τ (execLdtx x τ) := by
  refine ⟨_, rfl, fun _ => src_steady.bind fun _ => ?_⟩
  extract_lets -underBinder +onlyGivenNames la
  refine checkLocal_steady.bind fun _ => ?_
  extract_lets -underBinder +onlyGivenNames win
  refine trapIf_steady.bind fun _ => trapIf_steady.bind fun _ => ?_
  extract_lets -underBinder +onlyGivenNames div bw n p0 b0 o
  refine trapIf_steady.bind fun _ => myCtx_steady.bind fun _ => myCore_steady.bind fun _ => ?_
  extract_lets -underBinder +onlyGivenNames off act elems
  split
  · exact trap_steady
  · exact loadTx_steady

theorem execRrot_steady {x} : IssuesSteady C (.rrot x) τ (execRrot x τ) :=
  ⟨_, rfl, fun _ => src_steady.bind fun _ => srcB_steady.bind fun _ => trapIf_steady.bind fun _ => trapIf_steady.bind fun _ => dst_steady⟩

theorem Keeps.shrinkCway {g pick} (hk : Keeps C σ τ) : Keeps C σ (τ.shrinkCway g pick) := by
  unfold State.shrinkCway
  dsimp only
  exact (hk.foldl (fun _ _ => .ite (Keeps.refl _).writeBack (Keeps.refl _))).onCore

theorem Keeps.evictFrame {g f} (hk : Keeps C σ τ) : Keeps C σ (τ.evictFrame g f) := by
  unfold State.evictFrame
  dsimp only
  split
  · exact (hk.foldl (fun _ _ => (Keeps.refl _).settle)).setPage.onCore
  · exact hk

theorem Keeps.changeBank {g owner m bank pick} (hk : Keeps C σ τ) : Keeps C σ (τ.changeBank g owner m bank pick) := by
  unfold State.changeBank
  dsimp only
  exact .ite hk (.ite (Keeps.ite hk.drainBar.evictFrame hk.drainBar).onCore.zeroBank.shrinkCway (Keeps.ite hk.drainBar.evictFrame
    hk.drainBar).onCore.zeroBank)

theorem execBankmode_steady {x} : IssuesSteady C (.bankmode x) τ (execBankmode x τ) := by
  refine ⟨_, rfl, fun _ => src_steady.bind fun _ => src_steady.bind fun _ => trapIf_steady.bind fun _ => trapIf_steady.bind fun _ => ?_⟩
  extract_lets -underBinder +onlyGivenNames bank0 n m
  refine trapIf_steady.bind fun _ => ?_
  extract_lets -underBinder +onlyGivenNames banks
  refine get_steady.bind fun _ => ?_
  split
  extract_lets -underBinder +onlyGivenNames core
  refine trapIf_steady.bind fun _ => ?_
  extract_lets -underBinder +onlyGivenNames j0
  have hj0 : (j0 ()).Steady C := by
    unfold j0
    extract_lets -underBinder +onlyGivenNames j0
    have hj0 : (j0 ()).Steady C := by
      unfold j0
      refine dst_steady.bind fun _ => ?_
      extract_lets -underBinder +onlyGivenNames j0
      have hj0 : ∀ a0, (j0 a0).Steady C := fun _ => (modify_steady fun _ => (Keeps.refl _).foldl (fun _ _ => (Keeps.refl _).changeBank))
      exact .ite (freeWord_steady.bind fun _ => (hj0 _)) (pure_steady.bind fun _ => (hj0 _))
    exact .ite (wait_steady.bind fun _ => hj0) hj0
  exact .ite (wait_steady.bind fun _ => hj0) hj0

theorem Keeps.retagFifo {g owner bank} (hk : Keeps C σ τ) : Keeps C σ (τ.retagFifo g owner bank) := .ite hk hk.zeroBank.onCore

theorem Keeps.takeFifo {bank} (hk : Keeps C σ τ) : Keeps C σ (takeFifo bank τ) := hk.retagFifo

theorem fifoBank_steady {a} : (fifoBank a).Steady C :=
  trapIf_steady.bind fun _ => trapIf_steady.bind fun _ => myCore_steady.bind fun _ => trapIf_steady.bind fun _ => pure_steady

theorem execFpush_steady {x} : IssuesSteady C (.fpush x) τ (execFpush x τ) :=
  ⟨_, rfl, fun _ => src_steady.bind fun _ => src_steady.bind fun _ => fifoBank_steady.bind fun _ => (modify_steady fun _ =>
    (Keeps.refl _).takeFifo).bind fun _ => myCore_steady.bind fun _ =>
    (.ite (.ite dst_steady wait_steady) ((onMyCore_steady).bind fun _ => dst_steady))⟩

theorem execFpop_steady {x} : IssuesSteady C (.fpop x) τ (execFpop x τ) := by
  refine ⟨_, rfl, fun _ => src_steady.bind fun _ => fifoBank_steady.bind fun _ => (modify_steady fun _ =>
    (Keeps.refl _).takeFifo).bind fun _ => myCore_steady.bind fun _ => ?_⟩
  split
  · exact .ite (dst_steady.bind fun _ => dstNext_steady) (waitAnd_steady fun _ => (Keeps.refl _).takeFifo)
  · exact get_steady.bind fun _ => trapIf_steady.bind fun _ => (onMyCore_steady).bind fun _ => dst_steady.bind fun _ =>
      .ite dstNext_steady pure_steady

theorem checkPosted_steady {a n aval} : (checkPosted a n aval).Steady C := trapIf_steady.bind fun _ => trapIf_steady

theorem execRstl_steady {x} : IssuesSteady C (.rstl x) τ (execRstl x τ) :=
  ⟨_, rfl, fun _ => src_steady.bind fun _ => srcB_steady.bind fun _ => checkPosted_steady.bind fun _ => admitPosted_steady.bind fun _ =>
    postWrite_steady.bind fun _ => dst_steady⟩

theorem execRadd_steady {x} : IssuesSteady C (.radd x) τ (execRadd x τ) :=
  ⟨_, rfl, fun _ => src_steady.bind fun _ => srcB_steady.bind fun _ => checkPosted_steady.bind fun _ => admitPosted_steady.bind fun _ =>
    myCore_steady.bind fun _ => (onMyCore_steady).bind fun _ => postWrite_steady.bind fun _ => dst_steady⟩

/-! ### Matrix -/

theorem trapOn_steady {r} : (trapOn r).Steady C := by
  unfold trapOn
  split
  · exact trap_steady
  · exact pure_steady

theorem myEngine_steady : myEngine.Steady C := get_steady.bind fun _ => pure_steady

theorem onMyEngine_steady {f} : (onMyEngine f).Steady C := modify_steady fun _ => (Keeps.refl _).onEngine

theorem needRoom_steady {load} : (needRoom load).Steady C := myEngine_steady.bind fun _ => .ite pure_steady wait_steady

theorem offer_steady {kind} : (offer kind).Steady C := by
  unfold offer
  refine get_steady.bind fun _ => ?_
  split
  exact onMyEngine_steady

theorem needTile_steady {t aval} : (needTile t aval).Steady C := by
  unfold needTile
  refine myEngine_steady.bind fun _ => me_steady.bind fun _ => ?_
  split
  exact myCore_steady.bind fun _ => trapIf_steady

theorem keeperOf_steady {cl slot} : (keeperOf cl slot).Steady C :=
  get_steady.bind fun _ => (.ite (freeWord_steady.bind fun _ => pure_steady) pure_steady)

/-! ### CopyInstr -/

theorem srcQuad_steady {a} : (srcQuad a).Steady C :=
  src_steady.bind fun _ => src_steady.bind fun _ => src_steady.bind fun _ => src_steady.bind fun _ => pure_steady

theorem execCpq_steady {x} : IssuesSteady C (.cpq x) τ (execCpq x τ) := by
  refine ⟨_, rfl, fun _ => srcQuad_steady.bind fun _ => trapOn_steady.bind fun _ => myCore_steady.bind fun _ =>
    .ite (.ite dst_steady wait_steady) ?_⟩
  refine release_steady.bind fun _ => freshId_steady.bind fun _ => M.Steady.bind (modify_steady fun υ => ?_) fun _ => dst_steady
  dsimp only
  exact (Keeps.refl υ).numberCopy.placeCopy.onCore.onCtx

theorem execCpseal_steady {x} : IssuesSteady C (.cpseal x) τ (execCpseal x τ) :=
  ⟨_, rfl, fun _ => myCtx_steady.bind fun _ => (.ite wait_steady ((onMyCtx_steady).bind fun _ => dst_steady))⟩

theorem execCpwait_steady {x} : IssuesSteady C (.cpwait x) τ (execCpwait x τ) :=
  ⟨_, rfl, fun _ => src_steady.bind fun _ => myCtx_steady.bind fun _ => (.ite wait_steady (.ite dst_steady (acquire_steady.bind fun _ =>
    dst_steady)))⟩

theorem execCpstat_steady {x} : IssuesSteady C (.cpstat x) τ (execCpstat x τ) :=
  ⟨_, rfl, fun _ => myCore_steady.bind fun _ => myCtx_steady.bind fun _ => dst_steady⟩

theorem issueNear_steady {ws wkey xkey p pc} : (issueNear ws wkey xkey p pc).Steady C := by
  refine freshId_steady.bind fun _ => myCtx_steady.bind fun _ => ?_
  extract_lets num
  refine M.Steady.bind onMyCtx_steady fun _ => M.Steady.bind (modify_steady fun υ => ?_) fun _ => pure_steady
  dsimp only
  exact (Keeps.refl υ).placeNear.fields

theorem execNmc_steady {x} : IssuesSteady C (.nmc x) τ (execNmc x τ) := by
  refine ⟨_, rfl, fun _ => srcQuad_steady.bind fun _ => trapOn_steady.bind fun _ => ?_⟩
  refine get_bind_steady fun s => ?_
  split
  · exact (waitAnd_steady fun _ => (Keeps.refl _).nearKeys) _
  · exact trap_steady _
  · rename_i e
    exact (set_steadyAt ((Keeps.refl _).nearKeys.fst_eq e)).bind fun _ => myCtx_steady.bind fun _ =>
      (.ite wait_steady (release_steady.bind fun _ => issueNear_steady.bind fun _ => dst_steady))

theorem execNmfence_steady {x} : IssuesSteady C (.nmfence x) τ (execNmfence x τ) :=
  ⟨_, rfl, fun _ => myCtx_steady.bind fun _ => (.ite wait_steady (.ite dst_steady (acquire_steady.bind fun _ => dst_steady)))⟩

/-! ### Debug -/

theorem onMyTrace_steady {f} : (onMyTrace f).Steady C := onMyCore_steady

theorem execTrace_steady {x} : IssuesSteady C (.trace x) τ (execTrace x τ) := by
  refine ⟨_, rfl, fun _ => src_steady.bind fun _ => me_steady.bind fun _ => ?_⟩
  split
  refine myCore_steady.bind fun _ => ?_
  extract_lets -underBinder +onlyGivenNames t
  split
  · exact modify_steady fun _ => (Keeps.refl _).trace
  · exact trapIf_steady.bind fun _ => onMyTrace_steady.bind fun _ => dst_steady
  · exact dst_steady
  · exact trapIf_steady.bind fun _ => dst_steady

theorem Keeps.mark {g k owner a} (hk : Keeps C σ τ) : Keeps C σ (τ.mark g k owner a) := by
  unfold State.mark
  dsimp only
  exact .ite hk hk.onCore

theorem execTrig_steady {x} : IssuesSteady C (.trig x) τ (execTrig x τ) := by
  refine ⟨_, rfl, fun _ => src_steady.bind fun _ => me_steady.bind fun _ => ?_⟩
  split
  split
  · exact modify_steady fun _ => (Keeps.refl _).mark
  · exact onMyTrace_steady
  · exact modify_steady fun _ => (Keeps.refl _).foldl (fun _ _ => (Keeps.refl _).mark)

theorem watchObject_steady {a sig v} : (watchObject a sig v).Steady C := by
  unfold watchObject
  split
  · refine locateAtomic_steady.bind fun _ => ?_
    split
    · exact pure_steady
    · exact get_steady.bind fun _ => pure_steady
  · exact barAt_steady.bind fun _ => (modify_steady fun _ => (Keeps.refl _).retag).bind fun _ => pure_steady

theorem execWatch_steady {x} : IssuesSteady C (.watch x) τ (execWatch x τ) := by
  refine ⟨_, rfl, fun _ => src_steady.bind fun _ => me_steady.bind fun _ => ?_⟩
  split
  exact .ite (src_steady.bind fun _ => trapIf_steady.bind fun _ => watchObject_steady.bind fun _ => get_steady.bind fun _ =>
    (.ite dst_steady (onMyTrace_steady.bind fun _ => dst_steady))) (trapIf_steady.bind fun _ => myCore_steady.bind fun _ =>
    (.ite (onMyTrace_steady.bind fun _ => dst_steady) dst_steady))

/-! ### EngineEvents -/

theorem Keeps.execMacroOpAccept {cluster} (hk : Keeps False σ τ) : KeepsO σ (execMacroOpAccept cluster τ) := by
  unfold Machine.execMacroOpAccept
  split
  · exact hk.onEngine
  · trivial

theorem Keeps.execMloadbComplete {cluster} (hk : Keeps False σ τ) : KeepsO σ (execMloadbComplete cluster τ) := by
  unfold Machine.execMloadbComplete
  split
  · exact hk.onEngine
  · trivial

theorem Keeps.engineGet {g owner off n} (hk : Keeps False σ τ) : Keeps False σ (τ.engineGet g owner off n).1 := by
  unfold State.engineGet
  dsimp only
  exact hk.foldl (fun _ _ => (Keeps.refl _).retag)

theorem Keeps.enginePut {g owner off bs} (hk : Keeps False σ τ) : Keeps False σ (τ.enginePut g owner off bs) :=
  (hk.foldl (fun _ _ => (Keeps.refl _).retag)).localWrite

theorem Keeps.panelRows {g owner pan j rows} (hk : Keeps False σ τ) : Keeps False σ (τ.panelRows g owner pan j rows).1 := by
  unfold State.panelRows
  dsimp only
  exact hk.foldl_fst (fun _ _ => (Keeps.refl _).engineGet)

theorem Keeps.addSlab {cl t buf g owner pan j r} (hk : Keeps False σ τ) : Keeps False σ (τ.addSlab cl t buf g owner pan j r) := by
  unfold State.addSlab
  dsimp only
  exact hk.panelRows.onEngine

theorem Keeps.runMacc {cl} (hk : Keeps False σ τ) : Keeps False σ (τ.runMacc cl) := by
  unfold State.runMacc
  dsimp only
  split
  · exact hk
  · split
    · split
      · exact hk
      · split
        · exact hk.onEngine
        · split
          · exact hk.onEngine
          · exact hk.onEngine.addSlab.onEngine
    · exact hk

theorem Keeps.execMaccExecute {cluster} (hk : Keeps False σ τ) : KeepsO σ (execMaccExecute cluster τ) := by
  unfold Machine.execMaccExecute
  split
  · exact hk.runMacc
  · trivial

theorem Keeps.execScaleFifoTimeout {cluster} (hk : Keeps False σ τ) : KeepsO σ (execScaleFifoTimeout cluster τ) := by
  unfold Machine.execScaleFifoTimeout
  split
  · exact hk.onEngine
  · trivial

theorem Keeps.writeRecords {cl t g owner pan j} (hk : Keeps False σ τ) : Keeps False σ (τ.writeRecords cl t g owner pan j) := by
  unfold State.writeRecords
  dsimp only
  exact hk.foldl (fun _ _ => (Keeps.refl _).enginePut)

theorem Keeps.writeRows {cl t g owner ty la stride} (hk : Keeps False σ τ) : Keeps False σ (τ.writeRows cl t g owner ty la stride) := by
  unfold State.writeRows
  dsimp only
  exact hk.foldl (fun _ _ => (Keeps.refl _).enginePut)

theorem Keeps.runMread {cl} (hk : Keeps False σ τ) : Keeps False σ (τ.runMread cl) := by
  unfold State.runMread
  split
  · exact hk
  · split
    · exact hk.writeRecords.onEngine
    · exact hk.writeRows.onEngine
    · exact hk

theorem Keeps.execMreadExecute {cluster} (hk : Keeps False σ τ) : KeepsO σ (execMreadExecute cluster τ) := by
  unfold Machine.execMreadExecute
  split
  · exact hk.runMread
  · trivial

theorem Keeps.runMsoft {cl} (hk : Keeps False σ τ) : Keeps False σ (τ.runMsoft cl) := by
  unfold State.runMsoft
  dsimp only
  split
  · exact hk
  · split
    · exact (hk.foldl (fun _ _ => (Keeps.refl _).enginePut.enginePut)).onEngine
    · exact hk

theorem Keeps.execMsoftExecute {cluster} (hk : Keeps False σ τ) : KeepsO σ (execMsoftExecute cluster τ) := by
  unfold Machine.execMsoftExecute
  split
  · exact hk.runMsoft
  · trivial

theorem Keeps.execMtileMacroOp {cluster} (hk : Keeps False σ τ) : KeepsO σ (execMtileMacroOp cluster τ) := by
  unfold Machine.execMtileMacroOp
  split
  · exact hk.onEngine
  · trivial

theorem Keeps.execIssueGovernorToken (hk : Keeps False σ τ) : KeepsO σ (execIssueGovernorToken τ) := hk.fields

theorem Keeps.seqLine {o va} (hk : Keeps False σ τ) : Keeps False σ (τ.seqLine o va).1 := by
  unfold State.seqLine
  extract_lets loc base bad
  have hb : Keeps False σ base := by
    clear_value loc
    unfold base
    split
    · exact .ite hk hk.settle
    · exact hk
  clear_value base
  split
  · rename_i e
    exact (hb.fields.engineRead.fst_eq e).fields
  · rename_i e
    exact (hb.fields.engineRead.fst_eq e).fields

/-- What a sequencer's read keeps, whether it gives the bytes or stops. -/
def KeepsRead (σ : State) {α β : Type} : Except (State × α) (State × β) → Prop
  | .ok x => Keeps False σ x.1
  | .error x => Keeps False σ x.1

theorem KeepsRead.ok_eq {α β : Type} {x : Except (State × α) (State × β)} {b : β} (h : KeepsRead σ x) (e : x = .ok (τ, b)) :
    Keeps False σ τ := by
  subst e
  exact h

theorem KeepsRead.error_eq {α β : Type} {x : Except (State × α) (State × β)} {a : α} (h : KeepsRead σ x) (e : x = .error (τ, a)) :
    Keeps False σ τ := by
  subst e
  exact h

theorem Keeps.seqRead {s0 o n va} (hk : Keeps False σ τ) (h0 : Keeps False σ s0) : KeepsRead σ (State.seqRead s0 o n va τ) := by
  induction n generalizing τ va with
  | zero => exact hk
  | succ n ih =>
    unfold State.seqRead
    split
    · rename_i e
      have h := ih (va := (va + 64) % 2 ^ 64) (hk.seqLine.fst_eq e)
      split
      · rename_i e1
        exact h.ok_eq e1
      · rename_i e1
        exact h.error_eq e1
    · exact h0.engineRead
    · rename_i e
      exact hk.seqLine.fst_eq e

theorem Keeps.loseNode {cl n} (hk : Keeps False σ τ) : Keeps False σ (τ.loseNode cl n) := hk.onEngine.engineLost

theorem Keeps.failNode {cl n cause} (hk : Keeps False σ τ) : Keeps False σ (τ.failNode cl n cause) := hk.loseNode.engineTrap

theorem Keeps.endNode {cl n} (hk : Keeps False σ τ) : Keeps False σ (τ.endNode cl n) := hk.onEngine.engineDone

theorem Keeps.beginNode {cl n} (hk : Keeps False σ τ) : Keeps False σ (τ.beginNode cl n) := by
  unfold State.beginNode
  dsimp only
  split
  · exact hk.failNode
  · split
    · exact hk
    · exact hk.onEngine

theorem Keeps.seqChecks {cl slot bad} (hk : Keeps False σ τ) : Keeps False σ (τ.seqChecks cl slot bad) :=
  hk.foldl (fun _ _ => (Keeps.refl _).fields.machineCheck)

theorem Keeps.nodeSlab {cl n t} (hk : Keeps False σ τ) : Keeps False σ (τ.nodeSlab cl n t) := by
  unfold State.nodeSlab
  dsimp only
  split
  · exact hk.onEngine
  · split
    · rename_i e
      exact (hk.seqRead hk).error_eq e
    · rename_i e
      exact ((hk.seqRead hk).error_eq e).failNode
    · rename_i e
      have h1 := (hk.seqRead hk).ok_eq e
      split
      · rename_i e1
        exact (h1.seqRead hk).error_eq e1
      · rename_i e1
        exact ((h1.seqRead hk).error_eq e1).failNode
      · rename_i e1
        have h2 := (h1.seqRead hk).ok_eq e1
        split
        · exact h2.failNode
        · split
          · exact h2.failNode
          · exact h2.seqChecks.onEngine.addSlab

theorem Keeps.nodeRead {cl n t} (hk : Keeps False σ τ) : Keeps False σ (τ.nodeRead cl n t) := by
  unfold State.nodeRead
  dsimp only
  split
  · split
    · exact hk.failNode
    · exact hk.writeRecords.endNode
  · split
    · exact hk.failNode
    · exact hk.writeRows.endNode

theorem Keeps.nodeTail {cl n t} (hk : Keeps False σ τ) : Keeps False σ (τ.nodeTail cl n t) := by
  unfold State.nodeTail
  dsimp only
  exact .ite hk.nodeRead (.ite (.ite (.ite hk.endNode (.ite hk hk.loseNode)) hk.onEngine) (.ite (.ite hk hk.loseNode)
    hk.onEngine.nodeRead))

theorem Keeps.runNode {cl} (hk : Keeps False σ τ) : Keeps False σ (τ.runNode cl) := by
  unfold State.runNode
  dsimp only
  split
  · exact hk
  · split
    · split
      · exact hk.onEngine
      · exact hk
    · split
      · exact hk.onEngine
      · split
        · exact hk.beginNode
        · exact .ite hk.nodeSlab hk.nodeTail

theorem Keeps.execMatrixNodeRun {cluster} (hk : Keeps False σ τ) : KeepsO σ (execMatrixNodeRun cluster τ) := by
  unfold Machine.execMatrixNodeRun
  split
  · exact hk.runNode
  · trivial

theorem Keeps.execSplitkContribution {src} (hk : Keeps False σ τ) : KeepsO σ (execSplitkContribution src τ) := by
  unfold Machine.execSplitkContribution
  dsimp only
  split
  · split
    · exact hk
    · split
      · exact hk
      · split
        · exact hk.onEngine.onEngine
        · exact hk
  · trivial

theorem Keeps.takeCopy {g} (hk : Keeps False σ τ) : Keeps False σ (τ.takeCopy g) := by
  unfold State.takeCopy
  dsimp only
  split
  · exact hk
  · exact (hk.onCore nofun).fields

theorem Keeps.execCopyEngineTake {core} (hk : Keeps False σ τ) : KeepsO σ (execCopyEngineTake core τ) := by
  unfold Machine.execCopyEngineTake
  dsimp only
  split
  · exact .ite hk.takeCopy.fields hk
  · trivial

theorem Keeps.issueCopyNode {cl i} (hk : Keeps False σ τ) : Keeps False σ (τ.issueCopyNode cl i) := by
  unfold State.issueCopyNode
  dsimp only
  split
  · exact hk.engineLost.engineTrap
  · exact hk.fields.numberCopy.placeCopy.fields

theorem Keeps.issueNearNode {st i} (hk : Keeps False σ τ) : Keeps False σ (τ.issueNearNode st i) := by
  unfold State.issueNearNode
  dsimp only
  split
  · exact hk.engineLost.engineTrap
  · split
    · rename_i e
      exact hk.nearKeys.fst_eq e
    · rename_i e
      exact (hk.nearKeys.fst_eq e).engineLost.engineTrap
    · rename_i e
      exact (hk.nearKeys.fst_eq e).fields.placeNear.fields

theorem Keeps.execCopyNodeDispatch {unit} (hk : Keeps False σ τ) : KeepsO σ (execCopyNodeDispatch unit τ) := by
  unfold Machine.execCopyNodeDispatch
  split
  · split
    · trivial
    · split
      · exact hk.issueCopyNode
      · exact hk
  · split
    · trivial
    · split
      · exact hk.issueNearNode
      · exact hk

theorem Keeps.execCopyComplete {cluster} (hk : Keeps False σ τ) : KeepsO σ (execCopyComplete cluster τ) := by
  unfold Machine.execCopyComplete
  split
  · exact hk.stepCopies
  · trivial

theorem Keeps.execCopyStop {cluster} (hk : Keeps False σ τ) : KeepsO σ (execCopyStop cluster τ) := by
  unfold Machine.execCopyStop
  split
  · exact hk.stepCopies
  · trivial

theorem Keeps.execBatchComplete {core ctx} (hk : Keeps False σ τ) : KeepsO σ (execBatchComplete core ctx τ) := by
  unfold Machine.execBatchComplete
  dsimp only
  split
  · trivial
  · split
    · exact hk.onCtx nofun
    · exact .ite (hk.onCore nofun) hk

theorem Keeps.applyFirst {g want} (hk : Keeps False σ τ) : Keeps False σ (τ.applyFirst g want) := by
  unfold State.applyFirst
  split
  · exact hk.applyPosted
  · exact hk

theorem Keeps.execDestArithApply {core} (hk : Keeps False σ τ) : KeepsO σ (execDestArithApply core τ) := by
  unfold Machine.execDestArithApply
  split
  · exact hk.applyFirst
  · trivial

theorem Keeps.execPostedWriteApply {core} (hk : Keeps False σ τ) : KeepsO σ (execPostedWriteApply core τ) := by
  unfold Machine.execPostedWriteApply
  split
  · exact hk.applyFirst
  · trivial

theorem Keeps.execPostedWriteAck {core entry} (hk : Keeps False σ τ) : KeepsO σ (execPostedWriteAck core entry τ) := by
  unfold Machine.execPostedWriteAck
  split
  · exact hk.ackEntry
  · trivial

theorem Keeps.execPostedWriteRefusal {core entry} (hk : Keeps False σ τ) : KeepsO σ (execPostedWriteRefusal core entry τ) := by
  unfold Machine.execPostedWriteRefusal
  split
  · exact hk.refuseEntry
  · trivial

theorem Keeps.execNmcExecute {stack} (hk : Keeps False σ τ) : KeepsO σ (execNmcExecute stack τ) := by
  unfold Machine.execNmcExecute
  split
  · trivial
  · exact hk.stepNear

theorem Keeps.execNmcStop {stack} (hk : Keeps False σ τ) : KeepsO σ (execNmcStop stack τ) := by
  unfold Machine.execNmcStop
  split
  · trivial
  · exact hk.stepNear

theorem Keeps.execBarrierUpdate {core} (hk : Keeps False σ τ) : KeepsO σ (execBarrierUpdate core τ) := by
  unfold Machine.execBarrierUpdate
  split
  · split
    · exact hk
    · exact hk.updateBar.tick
  · trivial

theorem Keeps.execSyncBarrierComplete {dom} (hk : Keeps False σ τ) : KeepsO σ (execSyncBarrierComplete dom τ) := by
  unfold Machine.execSyncBarrierComplete
  split
  · trivial
  · exact hk.barrierComplete

theorem Keeps.execExchangeSlotBegin {dom} (hk : Keeps False σ τ) : KeepsO σ (execExchangeSlotBegin dom τ) := by
  unfold Machine.execExchangeSlotBegin
  split
  · trivial
  · exact hk

theorem Keeps.execExchangePhaseEnd {dom} (hk : Keeps False σ τ) : KeepsO σ (execExchangePhaseEnd dom τ) := by
  unfold Machine.execExchangePhaseEnd
  split
  · trivial
  · exact hk.phaseEnd

theorem Keeps.execXsendDeliver {dom} (hk : Keeps False σ τ) : KeepsO σ (execXsendDeliver dom τ) := by
  unfold Machine.execXsendDeliver
  split
  · trivial
  · split
    · exact hk
    · exact hk.deliverSend

/-! ### Sirocco -/

theorem Keeps.setSirocco {die x} (hk : Keeps False σ τ) : Keeps False σ (τ.setSirocco die x) := hk.fields

theorem Keeps.storeRaw {owner pa bs} (hk : Keeps False σ τ) : Keeps False σ (τ.storeRaw owner pa bs) := by
  unfold State.storeRaw
  dsimp only
  exact (hk.foldl (fun _ _ => (Keeps.refl _).settle)).memory (Memory.wf_putBytes _ _ _)

theorem Keeps.closeFrame {die} (hk : Keeps False σ τ) : Keeps False σ (τ.closeFrame die) := by
  unfold State.closeFrame
  dsimp only
  exact .ite hk (.ite hk.setSirocco (.ite hk.setSirocco hk.setSirocco.storeRaw))

theorem Keeps.frameRecord {die owner r} (hk : Keeps False σ τ) : Keeps False σ (τ.frameRecord die owner r) := by
  unfold State.frameRecord
  dsimp only
  exact (Keeps.ite hk hk.closeFrame).setSirocco

theorem Keeps.copyRecord {g} (hk : Keeps False σ τ) : Keeps False σ (τ.copyRecord g) := by
  unfold State.copyRecord
  dsimp only
  split
  · exact hk
  · split
    · exact (hk.onCore nofun).frameRecord
    · exact hk
    · exact (hk.onCore nofun).frameRecord

theorem Keeps.execSiroccoRecordCopy {core} (hk : Keeps False σ τ) : KeepsO σ (execSiroccoRecordCopy core τ) := by
  unfold Machine.execSiroccoRecordCopy
  split
  · trivial
  · exact hk.copyRecord

theorem Keeps.execSiroccoFrameClose {die} (hk : Keeps False σ τ) : KeepsO σ (execSiroccoFrameClose die τ) := by
  unfold Machine.execSiroccoFrameClose
  split
  · trivial
  · exact .ite hk.closeFrame hk

theorem Keeps.drainTrace {cl} (hk : Keeps False σ τ) : Keeps False σ (τ.drainTrace cl) := by
  unfold State.drainTrace
  dsimp only
  exact .ite (hk.foldl (fun _ _ => (Keeps.refl _).foldl (fun _ _ => (Keeps.refl _).copyRecord))).closeFrame (hk.foldl (fun _ _ =>
    (Keeps.refl _).foldl (fun _ _ => (Keeps.refl _).copyRecord)))

theorem Keeps.execLinkMapSnapshot (hk : Keeps False σ τ) : KeepsO σ (execLinkMapSnapshot τ) := by
  unfold Machine.execLinkMapSnapshot
  dsimp only
  split
  · exact hk
  · split
    · exact hk.fields
    · exact hk.fields.fields.storeRaw

/-! ### PowerEvents -/

theorem Keeps.flushCore {g} (hk : Keeps False σ τ) : Keeps False σ (τ.flushCore g) := by
  unfold State.flushCore
  dsimp only
  exact (hk.foldl (fun _ _ => (Keeps.refl _).writeBack)).foldl (fun _ _ => (Keeps.refl _).acceptEntry.onCore nofun)

theorem Keeps.gateCluster {cl} (hk : Keeps False σ τ) : Keeps False σ (τ.gateCluster cl) := by
  unfold State.gateCluster
  dsimp only
  exact ((hk.drainTrace.foldl (fun _ _ => (Keeps.refl _).flushCore)).foldl (fun _ _ =>
    (Keeps.refl _).onCore nofun)).memory (Memory.wf_zero _ _ _)

theorem Keeps.gateAll (hk : Keeps False σ τ) : Keeps False σ (τ.gateAll) :=
  hk.foldl (fun _ _ => .ite (Keeps.refl _) (Keeps.refl _).gateCluster)

theorem Keeps.dispatchFirst {cl} (hk : Keeps False σ τ) : Keeps False σ (τ.dispatchFirst cl) := by
  unfold State.dispatchFirst
  refine hk.getD fun υ e => ?_
  obtain ⟨cls, -, h⟩ := List.mem_map.1 (List.mem_of_find?_eq_some e)
  rw [← h]
  exact .ite hk.dispatchCores hk.dispatchUnit

theorem Keeps.cgateRequest {cl gate} (hk : Keeps False σ τ) : Keeps False σ (τ.cgateRequest cl gate) := by
  unfold State.cgateRequest
  dsimp only
  exact .ite (.ite hk (.ite hk.fields (.ite hk.dispatchFirst.fields (.ite hk.fields hk.fields.gateCluster)))) hk.fields

theorem Keeps.execCgateRequest {cluster gate} (hk : Keeps False σ τ) : KeepsO σ (execCgateRequest cluster gate τ) := by
  unfold Machine.execCgateRequest
  split
  · trivial
  · exact hk.cgateRequest

theorem Keeps.execClusterUngateDone {cluster} (hk : Keeps False σ τ) : KeepsO σ (execClusterUngateDone cluster τ) := by
  unfold Machine.execClusterUngateDone
  dsimp only
  split
  · trivial
  · split
    · exact hk
    · exact hk.fields

theorem Keeps.askPower {target} (hk : Keeps False σ τ) : Keeps False σ (τ.askPower target) := by
  unfold State.askPower
  dsimp only
  exact .ite hk (.ite hk.fields hk.fields)

theorem Keeps.setTarget {target} (hk : Keeps False σ τ) : Keeps False σ (τ.setTarget target) := by
  unfold State.setTarget
  dsimp only
  exact .ite (.ite hk.fields.askPower hk) hk.askPower

theorem Keeps.execPwrctlTarget {target} (hk : Keeps False σ τ) : KeepsO σ (execPwrctlTarget target τ) := hk.setTarget

theorem Keeps.execPowerTransitionDone (hk : Keeps False σ τ) : KeepsO σ (execPowerTransitionDone τ) := by
  unfold Machine.execPowerTransitionDone
  dsimp only
  split
  · exact hk
  · exact (Keeps.ite hk hk.gateAll).fields.send

theorem Keeps.execThermalWarn {tj} (hk : Keeps False σ τ) : KeepsO σ (execThermalWarn tj τ) := by
  unfold Machine.execThermalWarn
  dsimp only
  exact .ite hk.fields.fields.send hk.fields

theorem Keeps.tripLaunch {slot} (hk : Keeps False σ τ) : Keeps False σ (τ.tripLaunch slot) := by
  unfold State.tripLaunch
  dsimp only
  exact ((hk.purge.foldl (fun _ _ => (Keeps.refl _).dropInst.readmit.foldl (fun _ _ => (Keeps.refl _).readmit))).foldl (fun _ _ =>
    (Keeps.refl _).discardCore.discardShelf)).endLaunch

theorem Keeps.cutMove {m} (hk : Keeps False σ τ) : Keeps False σ (τ.cutMove m) := by
  unfold State.cutMove
  dsimp only
  split
  · refine Keeps.freePage ?_
    refine Keeps.setPage ?_
    split
    · exact hk.onCore nofun
    · exact hk.onOwner
    · exact hk
  · refine Keeps.setPage ?_
    split
    · exact hk.onCore nofun
    · exact hk.onOwner
    · exact hk

theorem Keeps.haltUnits (hk : Keeps False σ τ) : Keeps False σ (τ.haltUnits) := by
  unfold State.haltUnits
  dsimp only
  exact (hk.foldl (fun _ _ => (Keeps.refl _).cutMove)).cores

theorem Keeps.saveLife (hk : Keeps False σ τ) : Keeps False σ (τ.saveLife) := by
  unfold State.saveLife
  dsimp only
  exact hk.fields

theorem Keeps.tripVector (hk : Keeps False σ τ) : Keeps False σ (τ.tripVector) := .ite hk hk.send

theorem Keeps.trip (hk : Keeps False σ τ) : Keeps False σ (τ.trip) := by
  unfold State.trip
  dsimp only
  exact (hk.haltUnits.foldl (fun _ _ => (Keeps.refl _).tripLaunch)).gateAll.fields.tripVector.machineCheck.send.countLife.saveLife

theorem Keeps.execThermalTrip {tj} (hk : Keeps False σ τ) : KeepsO σ (execThermalTrip tj τ) := by
  unfold Machine.execThermalTrip
  dsimp only
  exact .ite hk.fields.trip hk.fields

theorem Keeps.countSite {site correctable} (hk : Keeps False σ τ) : Keeps False σ (τ.countSite site correctable) := by
  unfold State.countSite
  dsimp only
  split
  · exact hk.countLife.countLife
  · exact hk.countLife

theorem Keeps.logLine {cause line syndrome} (hk : Keeps False σ τ) : Keeps False σ (τ.logLine cause line syndrome) :=
    hk.fields.machineCheck

theorem Keeps.localError {g off} (hk : Keeps False σ τ) : Keeps False σ (τ.localError g off) := by
  unfold State.localError
  dsimp only
  split
  · split
    · exact hk.onCore nofun
    · exact hk
  · split
    · exact hk.fields
    · exact hk
  · exact .ite hk hk.fields

theorem Keeps.siteError {site correctable syndrome} (hk : Keeps False σ τ) : Keeps False σ (τ.siteError site correctable syndrome) := by
  unfold State.siteError
  dsimp only
  split
  · split
    · exact hk
    · exact .ite hk.fields hk.fields
  · exact .ite hk hk.localError
  · exact .ite hk (hk.onCtx nofun)
  · exact .ite hk hk.fields.logLine
  · exact .ite hk hk.fields.logLine
  · exact .ite hk hk.fields.logLine

theorem Keeps.execStorageError {site correctable syndrome} (hk : Keeps False σ τ) : KeepsO σ (execStorageError site correctable syndrome
    τ) := by
  unfold Machine.execStorageError
  split
  · trivial
  · exact hk.countSite.siteError

theorem Keeps.execUnitMachineCheck {unit detail} (hk : Keeps False σ τ) : KeepsO σ (execUnitMachineCheck unit detail τ) := by
  unfold Machine.execUnitMachineCheck
  dsimp only
  split
  · trivial
  · exact hk.fields.machineCheck.foldl (fun _ _ => (Keeps.refl _).stopLaunch)

theorem Keeps.execFlashCounterUpdate (hk : Keeps False σ τ) : KeepsO σ (execFlashCounterUpdate τ) := by
  unfold Machine.execFlashCounterUpdate
  dsimp only
  exact (Keeps.ite hk.countLife hk).saveLife

theorem Keeps.readCounters (hk : Keeps False σ τ) : Keeps False σ (τ.readCounters) := by
  unfold State.readCounters
  dsimp only
  exact .ite hk hk.fields.send

theorem Keeps.execMbcmdReadCounters (hk : Keeps False σ τ) : KeepsO σ (execMbcmdReadCounters τ) := hk.readCounters

/-! ### HostEvents -/

theorem Keeps.dropCaches {owner} (hk : Keeps False σ τ) : Keeps False σ (τ.dropCaches owner) := by
  unfold State.dropCaches
  dsimp only
  exact hk.fields

theorem Keeps.startLaunch {slot} (hk : Keeps False σ τ) : Keeps False σ (τ.startLaunch slot) := by
  unfold State.startLaunch
  dsimp only
  exact .ite hk.onLaunch.endLaunch (.ite hk.onLaunch.endLaunch hk.dropCaches.fields.onOwner.onLaunch)

theorem Keeps.goLost {slot} (hk : Keeps False σ τ) : Keeps False σ (τ.goLost slot) := hk.onLaunch

theorem Keeps.redeliver {l g n} (hk : Keeps False σ τ) : Keeps False σ (τ.redeliver l g n) := by
  unfold State.redeliver
  split
  · exact hk
  · split
    · exact hk.deliver
    · exact hk

theorem Keeps.killCore {l g} (hk : Keeps False σ τ) : Keeps False σ (τ.killCore l g) := by
  unfold State.killCore
  dsimp only
  split
  · exact hk.discardCtxs
  · exact .ite hk.discardCtxs.redeliver (.ite (hk.discardCtxs.onCtx nofun) hk.discardCtxs)

theorem Keeps.killLaunch {slot} (hk : Keeps False σ τ) : Keeps False σ (τ.killLaunch slot) := by
  unfold State.killLaunch
  dsimp only
  exact (hk.stopLaunch.onLaunch.foldl (fun _ _ => (Keeps.refl _).killCore)).foldl (fun _ _ => (Keeps.refl _).discardShelf)

theorem Keeps.lgo {slot bits} (hk : Keeps False σ τ) : Keeps False σ (τ.lgo slot bits) := by
  unfold State.lgo
  dsimp only
  exact .ite (.ite hk.killLaunch hk) (.ite hk.goLost (.ite (.ite hk.stopLaunch hk) (.ite (.ite hk.goLost hk.startLaunch) hk)))

theorem Keeps.execLgoGo {slot} (hk : Keeps False σ τ) : KeepsO σ (execLgoGo slot τ) := by
  unfold Machine.execLgoGo
  split
  · trivial
  · exact hk.lgo

theorem Keeps.execLgoStop {slot} (hk : Keeps False σ τ) : KeepsO σ (execLgoStop slot τ) := by
  unfold Machine.execLgoStop
  split
  · trivial
  · exact hk.lgo

theorem Keeps.execLgoKill {slot} (hk : Keeps False σ τ) : KeepsO σ (execLgoKill slot τ) := by
  unfold Machine.execLgoKill
  split
  · trivial
  · exact hk.lgo

theorem Keeps.failFor {f w} (hk : Keeps False σ τ) : Keeps False σ (τ.failFor f w) := by
  unfold State.failFor
  dsimp only
  split
  · exact hk.releaseNodes
  · split
    · exact hk.fields
    · split
      · exact hk.fields
      · split
        · exact hk.onCtx nofun
        · exact hk.cores
        · exact hk.onEngine
        · exact hk.onCaravan
        · exact hk.onSampler
        · exact hk.fields
        · exact hk

theorem Keeps.xlResolve {tag fail} (hk : Keeps False σ τ) : Keeps False σ (τ.xlResolve tag fail) := by
  unfold State.xlResolve
  dsimp only
  split
  · exact hk
  · exact (Keeps.ite (Keeps.ite (hk.fields.foldl (fun _ _ => (Keeps.refl _).failFor)) hk.fields).releaseNodes.placeCopies (Keeps.ite
      (hk.fields.foldl (fun _ _ => (Keeps.refl _).failFor)) hk.fields).releaseNodes).startSends

theorem Keeps.execXlresolve {tag fail} (hk : Keeps False σ τ) : KeepsO σ (execXlresolve tag fail τ) := hk.xlResolve

theorem Keeps.resetClocks (hk : Keeps False σ τ) : Keeps False σ (τ.resetClocks) := by
  unfold State.resetClocks
  dsimp only
  exact hk.cores

theorem Keeps.clkrst (hk : Keeps False σ τ) : Keeps False σ (τ.clkrst) := .ite hk hk.resetClocks

theorem Keeps.execClkrst (hk : Keeps False σ τ) : KeepsO σ (execClkrst τ) := hk.clkrst

theorem Keeps.execSlotctlCommit {chan} (hk : Keeps False σ τ) : KeepsO σ (execSlotctlCommit chan τ) := by
  unfold Machine.execSlotctlCommit
  split
  · trivial
  · exact hk.onChan

theorem Keeps.execSlotTableSwitch {chan} (hk : Keeps False σ τ) : KeepsO σ (execSlotTableSwitch chan τ) := by
  unfold Machine.execSlotTableSwitch
  split
  · trivial
  · exact hk.onChan

theorem Keeps.afterReset (hk : Keeps False σ τ) : Keeps False σ τ.afterReset := hk.cores (Memory.wfFrom_filter _ _)

theorem Keeps.boot {b} (hk : Keeps False σ τ) : Keeps False σ (τ.boot b) := by
  unfold State.boot
  dsimp only
  split
  · exact hk.fields
  · exact (hk.memory (Memory.wf_putBytes _ _ _)).countLife

theorem Keeps.execModuleReset {img} (hk : Keeps False σ τ) : KeepsO σ (execModuleReset img τ) := hk.afterReset.boot

theorem Keeps.execPowerLoss (hk : Keeps False σ τ) : KeepsO σ (execPowerLoss τ) := by
  unfold Machine.execPowerLoss
  dsimp only
  exact hk.afterReset.fields

theorem Keeps.execFirmwareImageInstall {img} (hk : Keeps False σ τ) : KeepsO σ (execFirmwareImageInstall img τ) := by
  unfold Machine.execFirmwareImageInstall
  dsimp only
  split
  · exact hk.fields
  · split
    · exact hk.fields
    · exact hk.fields

theorem Keeps.execOwnerKeyLoad {owner root} (hk : Keeps False σ τ) : KeepsO σ (execOwnerKeyLoad owner root τ) := by
  unfold Machine.execOwnerKeyLoad
  dsimp only
  split
  · trivial
  · split
    · exact hk.fields
    · exact hk.onOwner.fields

theorem Keeps.scrambleLine {owner line} (hk : Keeps False σ τ) : Keeps False σ (τ.scrambleLine owner line) :=
  hk.memory (Memory.wf_foldl (fun m _ => Memory.wf_put m _ _) _ _)

theorem Keeps.scramble {owner} (hk : Keeps False σ τ) : Keeps False σ (τ.scramble owner) := by
  unfold State.scramble
  dsimp only
  exact (hk.foldl (fun _ _ => (Keeps.refl _).scrambleLine)).cores

theorem Keeps.execOwnerKeyUnload {owner} (hk : Keeps False σ τ) : KeepsO σ (execOwnerKeyUnload owner τ) := by
  unfold Machine.execOwnerKeyUnload
  dsimp only
  split
  · trivial
  · split
    · exact hk.fields
    · split
      · exact hk.fields
      · exact hk.scramble.onOwner.fields

theorem Keeps.execAttestationRequest (hk : Keeps False σ τ) : KeepsO σ (execAttestationRequest τ) := by
  unfold Machine.execAttestationRequest
  dsimp only
  split
  · exact hk.fields
  · exact hk.fields

theorem Keeps.noteClocks (hk : Keeps False σ τ) : Keeps False σ (τ.noteClocks) := by
  unfold State.noteClocks
  dsimp only
  exact hk.fields

theorem Keeps.maskVector {v on} (hk : Keeps False σ τ) : Keeps False σ (τ.maskVector v on) := by
  unfold State.maskVector
  dsimp only
  exact .ite hk.fields (.ite hk.fields.send hk.fields)

theorem Keeps.prectl {w} (hk : Keeps False σ τ) : Keeps False σ (τ.prectl w) := by
  unfold State.prectl
  dsimp only
  split
  · exact hk
  · split
    · rename_i e
      split at e
      · exact hk.execPrectlSuspend.next_eq e
      · exact hk.execPrectlResume.next_eq e
    · exact hk

theorem Keeps.setXlqHead {n} (hk : Keeps False σ τ) : Keeps False σ (τ.setXlqHead n) := by
  unfold State.setXlqHead
  dsimp only
  exact hk.fields.postFaults.fields

theorem Keeps.setCgate {i new} (hk : Keeps False σ τ) : Keeps False σ (τ.setCgate i new) := by
  unfold State.setCgate
  dsimp only
  exact hk.foldl (fun _ _ => .ite (Keeps.refl _) (Keeps.refl _).cgateRequest)

theorem Keeps.setPartmap {i new} (hk : Keeps False σ τ) : Keeps False σ (τ.setPartmap i new) := hk.foldl (fun _ _ =>
    (Keeps.refl _).onOwner)

theorem Keeps.putDev {o w m new} (hk : Keeps False σ τ) : Keeps False σ (τ.putDev o w m new) := by
  unfold State.putDev
  dsimp only
  split
  · exact hk.fields
  · exact hk.fields
  · exact .ite hk.setXlqHead hk
  · exact .ite hk.xlResolve hk
  · exact .ite hk.fields hk
  · exact .ite hk.clkrst hk
  · exact .ite hk.prectl hk
  · exact hk.setPartmap
  · exact hk.setPartmap
  · exact hk.setPartmap
  · exact hk.setPartmap
  · exact hk.fields
  · exact .ite hk.fields hk
  · exact .ite hk.fields.setTarget hk
  · exact .ite hk.fields.fields hk.fields
  · exact hk.fields
  · exact hk.fields
  · exact .ite hk.fields hk
  · split
    · split
      · exact hk.setSirocco
      · exact .ite hk.setSirocco hk
      · exact hk
    · exact .ite hk.setCgate hk

theorem Keeps.putLaunch {slot o w m new} (hk : Keeps False σ τ) : Keeps False σ (τ.putLaunch slot o w m new) := by
  unfold State.putLaunch
  split
  · exact hk.onLaunch
  · exact hk.onLaunch
  · exact hk.onLaunch
  · exact .ite hk.lgo hk
  · exact hk.onLaunch
  · exact hk.onLaunch
  · exact .ite hk.onLaunch hk

theorem Keeps.putReg {o w m} (hk : Keeps False σ τ) : Keeps False σ (τ.putReg o w m) := by
  unfold State.putReg
  dsimp only
  exact .ite hk.putDev (.ite hk.onChan (.ite hk.putLaunch (.ite (.ite hk.onOwner hk) (.ite hk.readCounters hk))))

theorem Keeps.execRegisterWrite {off wide value} (hk : Keeps False σ τ) : KeepsO σ (execRegisterWrite off wide value τ) := by
  unfold Machine.execRegisterWrite
  dsimp only
  split
  · exact .ite hk.putReg hk
  · split
    · exact hk
    · exact hk.putReg

theorem Keeps.hostAccess {key size write} (hk : Keeps False σ τ) : KeepsSome False σ id (τ.hostAccess key size write) := by
  unfold State.hostAccess
  dsimp only
  split
  · exact .none
  · refine .some ?_
    refine Keeps.fields ?_
    refine Keeps.recordAccess ?_
    refine Keeps.place326 ?_
    split
    · exact hk.settle.fields.logEntry
    · exact hk.settle.fields

theorem Keeps.hostClockOut {pa} (hk : Keeps False σ τ) : Keeps False σ (τ.hostClockOut pa) := hk.machineCheck

theorem Keeps.execHostCxlMemRead {dec pa size} (hk : Keeps False σ τ) : KeepsO σ (execHostCxlMemRead dec pa size τ) := by
  unfold Machine.execHostCxlMemRead
  dsimp only
  split
  · trivial
  · split
    · exact hk
    · split
      · exact hk.fields
      · split
        · exact hk
        · split
          · exact hk.hostClockOut.fields
          · rename_i e
            exact (hk.hostAccess _ e).fields

theorem Keeps.execHostCxlMemWrite {dec pa data} (hk : Keeps False σ τ) : KeepsO σ (execHostCxlMemWrite dec pa data τ) := by
  unfold Machine.execHostCxlMemWrite
  dsimp only
  split
  · trivial
  · split
    · exact hk
    · split
      · exact hk.countLife
      · split
        · exact hk
        · split
          · exact hk
          · split
            · exact hk.hostClockOut
            · rename_i e
              exact (hk.hostAccess _ e).engineWrite.landed

theorem Keeps.execCxlCacheSnoop {pa write} (hk : Keeps False σ τ) : KeepsO σ (execCxlCacheSnoop pa write τ) := by
  unfold Machine.execCxlCacheSnoop
  dsimp only
  split
  · exact hk
  · split
    · exact hk.hostClockOut
    · rename_i e
      exact .ite (hk.hostAccess _ e).fields (hk.hostAccess _ e)

theorem Keeps.execCxlCacheResponse {data} (hk : Keeps False σ τ) : KeepsO σ (execCxlCacheResponse data τ) := by
  unfold Machine.execCxlCacheResponse
  dsimp only
  split
  · split
    · exact hk
    · exact hk.memory (Memory.wf_putBytes _ _ _)
  · split
    · exact hk.fields
    · exact hk

/-! ### MatrixInstr -/

theorem execMtile_steady {x} : IssuesSteady C (.mtile x) τ (execMtile x τ) := by
  refine ⟨_, rfl, fun _ => needRoom_steady.bind fun _ => src_steady.bind fun _ => src_steady.bind fun _ => me_steady.bind fun _ => ?_⟩
  split
  extract_lets -underBinder +onlyGivenNames t
  refine myEngine_steady.bind fun _ => ?_
  split
  · exact trapIf_steady.bind fun _ => trapIf_steady.bind fun _ => myCore_steady.bind fun _ => (.ite dst_steady (get_steady.bind fun _ =>
      onMyEngine_steady.bind fun _ => offer_steady.bind fun _ => dst_steady))
  · exact trapIf_steady.bind fun _ => needTile_steady.bind fun _ => offer_steady.bind fun _ => dst_steady
  · extract_lets -underBinder +onlyGivenNames sl
    refine trapIf_steady.bind fun _ => needTile_steady.bind fun _ => ?_
    split
    · exact offer_steady.bind fun _ => dst_steady
    · refine get_steady.bind fun _ => ?_
      split
      · exact .ite (offer_steady.bind fun _ => dst_steady) dst_steady
      · exact dst_steady

theorem blockLine_steady {va v} : (blockLine va v).Steady C := by
  unfold blockLine
  refine locate_steady.bind fun _ => ?_
  split
  · exact pure_steady
  · exact get_steady.bind fun _ => (.ite (wait_steady.bind fun _ => trapIf_steady.bind fun _ => pure_steady) (trapIf_steady.bind fun _ =>
      pure_steady))
  · extract_lets -underBinder +onlyGivenNames line
    refine (modify_steady fun _ => (Keeps.refl _).acceptFor).bind fun _ => settleMine_steady.bind fun _ => get_steady.bind fun _ => ?_
    extract_lets -underBinder +onlyGivenNames j0
    have hj0 : (j0 ()).Steady C := homeAccess_steady.bind fun _ => get_steady.bind fun _ => pure_steady
    exact .ite hj0 (needSlot_steady.bind fun _ => hj0)

theorem blockLines_steady {v n va} : (blockLines v n va).Steady C := by
  induction n generalizing va with
  | zero => exact pure_steady
  | succ n ih =>
    unfold blockLines
    refine blockLine_steady.bind fun x => ?_
    obtain ⟨bs, bad⟩ := x
    have h : (do
        let (r, rbad) ← blockLines v n (va + 64)
        pure (bs ++ r, bad.isSome || rbad) : M (List Byte × Bool)).Steady C := ih.bind fun _ => pure_steady
    cases bad with
    | none => exact h
    | some cause =>
      exact freeWord_steady.bind fun _ => get_steady.bind fun _ => (modify_steady fun υ => (Keeps.refl υ).machineCheck).bind fun _ => h

theorem execMloadb_steady {x} : IssuesSteady C (.mloadb x) τ (execMloadb x τ) := by
  refine ⟨_, rfl, fun _ => needRoom_steady.bind fun _ => src_steady.bind fun _ => src_steady.bind fun _ => trapIf_steady.bind fun _ =>
    trapIf_steady.bind fun _ => ?_⟩
  extract_lets -underBinder +onlyGivenNames ty
  refine blockLines_steady.bind fun _ => ?_
  split
  exact get_steady.bind fun _ => onMyEngine_steady.bind fun _ => offer_steady

theorem execMacc_steady {x} : IssuesSteady C (.macc x) τ (execMacc x τ) :=
  ⟨_, rfl, fun _ => needRoom_steady.bind fun _ => src_steady.bind fun _ => src_steady.bind fun _ => myCore_steady.bind fun _ =>
    myEngine_steady.bind fun _ => trapIf_steady.bind fun _ => needTile_steady.bind fun _ => get_steady.bind fun _ =>
    trapIf_steady.bind fun _ => trapOn_steady.bind fun _ => offer_steady⟩

theorem execMscale_steady {x} : IssuesSteady C (.mscale x) τ (execMscale x τ) := by
  refine ⟨_, rfl, fun _ => myCtx_steady.bind fun _ => trapIf_steady.bind fun _ => ?_⟩
  extract_lets -underBinder +onlyGivenNames t
  refine myEngine_steady.bind fun _ => me_steady.bind fun _ => ?_
  split
  exact trapIf_steady.bind fun _ => keeperOf_steady.bind fun _ => trapIf_steady.bind fun _ => trapIf_steady.bind fun _ =>
    .ite wait_steady onMyEngine_steady

theorem execMread_steady {x} : IssuesSteady C (.mread x) τ (execMread x τ) :=
  ⟨_, rfl, fun _ => needRoom_steady.bind fun _ => src_steady.bind fun _ => src_steady.bind fun _ => myCore_steady.bind fun _ =>
    myEngine_steady.bind fun _ => needTile_steady.bind fun _ => (.ite (trapOn_steady.bind fun _ =>
    offer_steady) (trapOn_steady.bind fun _ => offer_steady))⟩

theorem execMwait_steady {x} : IssuesSteady C (.mwait x) τ (execMwait x τ) := by
  refine ⟨_, rfl, fun _ => src_steady.bind fun _ => me_steady.bind fun _ => ?_⟩
  split
  exact myEngine_steady.bind fun _ => trapIf_steady.bind fun _ => myCore_steady.bind fun _ => .ite wait_steady dst_steady

theorem ownerField_steady {o} : (ownerField o).Steady C := by
  unfold ownerField
  split
  · exact pure_steady
  · exact pure_steady
  · exact freeWord_steady.bind fun _ => pure_steady

theorem execMstat_steady {x} : IssuesSteady C (.mstat x) τ (execMstat x τ) := by
  refine ⟨_, rfl, fun _ => src_steady.bind fun _ => me_steady.bind fun _ => ?_⟩
  split
  refine myEngine_steady.bind fun _ => ?_
  split
  · exact trapIf_steady.bind fun _ => ownerField_steady.bind fun _ => dst_steady
  · exact trapIf_steady.bind fun _ => dst_steady
  · exact dst_steady
  · exact get_steady.bind fun _ => dst_steady
  · exact trapIf_steady.bind fun _ => get_steady.bind fun _ => dst_steady
  · exact myCtx_steady.bind fun _ => keeperOf_steady.bind fun _ => dst_steady

theorem execMsoft_steady {x} : IssuesSteady C (.msoft x) τ (execMsoft x τ) :=
  ⟨_, rfl, fun _ => needRoom_steady.bind fun _ => src_steady.bind fun _ => src_steady.bind fun _ => src_steady.bind fun _ =>
    myCore_steady.bind fun _ => needTile_steady.bind fun _ => trapOn_steady.bind fun _ => offer_steady⟩

/-! ### MemoryEvents -/

theorem Keeps.homeTrap {q cause race tval} (hk : Keeps False σ τ) : Keeps False σ (τ.homeTrap q cause race tval) := by
  unfold State.homeTrap
  dsimp only
  split
  · exact hk
  · exact .ite hk.fields.unpop.unadmit.takeTrap hk

theorem Keeps.homeLog {q l words} (hk : Keeps False σ τ) : Keeps False σ (τ.homeLog q l words) := by
  unfold State.homeLog
  split
  · exact hk
  · exact hk.appendLog

theorem Keeps.homeLogWait {q} (hk : Keeps False σ τ) : KeepsSome False σ id (τ.homeLogWait q) := by
  unfold State.homeLogWait
  dsimp only
  split
  · exact .none
  · split
    · exact .none
    · exact .some hk.askHost
    · exact .some hk.homeTrap
    · exact .ite (.some hk.homeTrap) (.ite (.some hk) (.some hk.holdFault))

theorem Keeps.homePlace {q write} (hk : Keeps False σ τ) : KeepsExcept σ (τ.homePlace q write) := by
  have hs {line} : Keeps False σ (τ.settle none line) := hk.settle
  unfold State.homePlace
  extract_lets line r s1 t checked v place
  have hs1 : Keeps False σ s1 := hs
  have hp {υ : State} (h : Keeps False σ υ) : Keeps False σ (place υ) := by
    have h2 : Keeps False σ (if checked then (υ.place326 r).1.recordAccess r t else (υ.place326 r).1) :=
      .ite h.place326.recordAccess h.place326
    dsimp only [place]
    split
    · exact h2.onCtx nofun
    · exact h2
  clear_value s1 place
  split
  · exact hk.askHost
  · split
    · exact hk
    · split
      · exact hk
      · split
        · exact hk.homeTrap
        · split
          · exact hk.homeTrap
          · split
            · split
              · rename_i e
                exact hk.homeLogWait _ e
              · split
                · exact hp hs1.homeLog
                · exact hk.homeLog.homeTrap
            · split
              · split
                · rename_i e
                  exact hk.homeLogWait _ e
                · exact hp hs1.homeLog
              · exact hp hs1
            · exact hp hs1

theorem Keeps.execHomeLoad {req} (hk : Keeps False σ τ) : KeepsO σ (execHomeLoad req τ) := by
  unfold Machine.execHomeLoad
  split
  · exact hk
  · split
    · rename_i e
      exact hk.homePlace.error_eq e
    · rename_i e
      exact hk.homePlace.ok_eq e

theorem Keeps.execHomeStore {req data} (hk : Keeps False σ τ) : KeepsO σ (execHomeStore req data τ) := by
  unfold Machine.execHomeStore
  dsimp only
  split
  · exact hk
  · split
    · rename_i e
      exact hk.homePlace.error_eq e
    · rename_i e
      have h := hk.homePlace.ok_eq e
      exact .ite h.homeWrite.fields h.homeWrite

theorem Keeps.execLineRecall {line} (hk : Keeps False σ τ) : KeepsO σ (execLineRecall line τ) := by
  unfold Machine.execLineRecall
  split
  · exact hk.askHost
  · exact hk.settle

theorem Keeps.execWlqEntryDepart {core} (hk : Keeps False σ τ) : KeepsO σ (execWlqEntryDepart core τ) := by
  unfold Machine.execWlqEntryDepart
  split
  · exact hk.onCore nofun
  · trivial

theorem Keeps.execWlqEntryAccept {core} (hk : Keeps False σ τ) : KeepsO σ (execWlqEntryAccept core τ) := by
  unfold Machine.execWlqEntryAccept
  split
  · split
    · exact hk
    · exact .ite (hk.acceptEntry.onCore nofun) hk
  · trivial

theorem Keeps.execWriteWindowEnd {core} (hk : Keeps False σ τ) : KeepsO σ (execWriteWindowEnd core τ) := by
  unfold Machine.execWriteWindowEnd
  split
  · exact hk.onCore nofun
  · trivial

theorem Keeps.execHbmSlotService {chan} (hk : Keeps False σ τ) : KeepsO σ (execHbmSlotService chan τ) := by
  unfold Machine.execHbmSlotService
  dsimp only
  split
  · trivial
  · split
    · exact hk.onChan.fields
    · exact hk.onChan

theorem Keeps.execXmPortService {die} (hk : Keeps False σ τ) : KeepsO σ (execXmPortService die τ) := by
  unfold Machine.execXmPortService
  split
  · trivial
  · split
    · exact hk.fields
    · exact hk

theorem Keeps.execPageWalk {owner va agent kind slot} (hk : Keeps False σ τ) : KeepsO σ (execPageWalk owner va agent kind slot τ) := by
  unfold Machine.execPageWalk
  split
  · exact hk
  · split
    · exact hk.holdFault
    · exact hk
    · split
      · exact hk.translate
      · exact hk

theorem Keeps.finishMove {m} (hk : Keeps False σ τ) : Keeps False σ (τ.finishMove m) := by
  unfold State.finishMove
  dsimp only
  refine Keeps.onCore ?_ nofun
  refine Keeps.onCtx ?_ nofun
  split
  · refine Keeps.freePage ?_
    refine Keeps.setPage ?_
    split
    · refine Keeps.onCore ?_ nofun
      split
      · exact hk.onCore nofun
      · exact hk.onOwner
      · exact hk
    · split
      · exact hk.onCore nofun
      · exact hk.onOwner
      · exact hk
  · refine Keeps.setPage ?_
    split
    · refine Keeps.onCore ?_ nofun
      split
      · exact hk.onCore nofun
      · exact hk.onOwner
      · exact hk
    · split
      · exact hk.onCore nofun
      · exact hk.onOwner
      · exact hk

theorem Keeps.execPageMoveComplete {cluster} (hk : Keeps False σ τ) : KeepsO σ (execPageMoveComplete cluster τ) := by
  unfold Machine.execPageMoveComplete
  dsimp only
  split
  · split
    · exact hk
    · exact hk.settlePage.fields.finishMove.startSends
  · trivial

theorem Keeps.importStore {src line bytes} (hk : Keeps False σ τ) : KeepsSome False σ id (τ.importStore src line bytes) := by
  unfold State.importStore
  dsimp only
  exact .ite .none (.ite .none (.some hk.settle.place326.fields.touchMeta.engineWrite))

theorem Keeps.execImportWrite {die pa data src tag} (hk : Keeps False σ τ) : KeepsO σ (execImportWrite die pa data src tag τ) := by
  unfold Machine.execImportWrite
  split
  · trivial
  · split
    · exact hk
    · split
      · exact hk.askHost
      · rename_i e
        exact (hk.importStore _ e).fields

theorem Keeps.execRemoteAck {core ctx} (hk : Keeps False σ τ) : KeepsO σ (execRemoteAck core ctx τ) := by
  unfold Machine.execRemoteAck
  split
  · exact hk.onCtx nofun
  · trivial

theorem Keeps.execRemoteLocalLoad {core ctx} (va size) (hk : Keeps False σ τ) : KeepsO σ (execRemoteLocalLoad core ctx va size τ) := by
  unfold Machine.execRemoteLocalLoad
  split
  · exact hk
  · trivial

/-! ### StreamEvents -/

theorem Keeps.execWadiResolve {die group} (hk : Keeps False σ τ) : KeepsO σ (execWadiResolve die group τ) := by
  unfold Machine.execWadiResolve
  dsimp only
  split
  · trivial
  · split
    · exact hk.resolve
    · exact hk

theorem Keeps.joinDone {die resP i} (hk : Keeps False σ τ) : Keeps False σ (τ.joinDone die resP i) := by
  unfold State.joinDone
  dsimp only
  exact .ite hk.engineLost.clockStop hk.fields.engineDone

theorem Keeps.serveJoin {die i} (hk : Keeps False σ τ) : Keeps False σ (τ.serveJoin die i) := by
  unfold State.serveJoin
  dsimp only
  exact .ite (.ite (Keeps.ite hk.openGroup hk).onGroup.resolve (Keeps.ite hk.openGroup hk).onGroup) (Keeps.ite hk.openGroup hk).joinDone

theorem Keeps.execJoinNode {die} (hk : Keeps False σ τ) : KeepsO σ (execJoinNode die τ) := by
  unfold Machine.execJoinNode
  split
  · trivial
  · split
    · exact hk.serveJoin
    · exact hk

theorem Keeps.onArrival {a f} (hk : Keeps False σ τ) : Keeps False σ (τ.onArrival a f) := hk.fields

theorem Keeps.importStep {src n} (hk : Keeps False σ τ) : Keeps False σ (τ.importStep src n) := by
  unfold State.importStep
  dsimp only
  exact hk.placeDesc.fields

theorem Keeps.admitArrival {f} (hk : Keeps False σ τ) : Keeps False σ (τ.admitArrival f) := by
  unfold State.admitArrival
  dsimp only
  split
  · exact hk.fields
  · split
    · rename_i e
      exact (hk.reserve.fst_eq e).fields
    · rename_i e
      split
      · exact hk.fields
      · exact (hk.reserve.fst_eq e).importStep.admitNew.memory (Memory.wf_putBytes _ _ _)

theorem Keeps.execXanwellOpen {flit} (hk : Keeps False σ τ) : KeepsO σ (execXanwellOpen flit τ) := by
  unfold Machine.execXanwellOpen
  split
  · exact hk
  · exact hk.admitArrival

theorem Keeps.endArrival {a} (hk : Keeps False σ τ) : Keeps False σ (τ.endArrival a) := by
  unfold State.endArrival
  dsimp only
  exact (Keeps.ite hk (.ite hk.retire hk.importStep.onStream)).fields

theorem Keeps.tryEnd {f} (hk : Keeps False σ τ) : Keeps False σ (τ.tryEnd f) := by
  unfold State.tryEnd
  split
  · exact .ite hk.endArrival hk
  · exact hk

theorem Keeps.putChunk {a f} (hk : Keeps False σ τ) : Keeps False σ (τ.putChunk a f) := by
  unfold State.putChunk
  dsimp only
  split
  · exact hk.onArrival
  · rename_i e
    exact ((Keeps.ite (hk.pageForWrite _ e) (hk.pageForWrite _ e).importStep).memory (Memory.wf_putBytes _ _ _)).onArrival

theorem Keeps.execXanwellPage {flit} (hk : Keeps False σ τ) : KeepsO σ (execXanwellPage flit τ) := by
  unfold Machine.execXanwellPage
  split
  · exact .ite hk.putChunk.tryEnd hk
  · exact hk

theorem Keeps.putEntries {a m bs i} (hk : Keeps False σ τ) : Keeps False σ (τ.putEntries a m bs i).1 := by
  induction m generalizing τ bs i with
  | zero => exact hk
  | succ m ih =>
    unfold State.putEntries
    split
    · exact hk
    · extract_lets va bad
      have hb : Keeps False σ (bad τ).1 := ih hk.onArrival
      clear_value bad
      split
      · exact hb
      · split
        · dsimp only
          exact hk.fields.holdFaultAs
        · exact hb
        · split
          · exact hk.askHost
          · rename_i e
            exact ih (hk.importStore _ e)

theorem Keeps.execXanwellQueue {flit} (hk : Keeps False σ τ) : KeepsO σ (execXanwellQueue flit τ) := by
  unfold Machine.execXanwellQueue
  dsimp only
  split
  · split
    · exact hk
    · split
      · rename_i e
        exact hk.putEntries.fst_eq e
      · rename_i e
        exact (hk.putEntries.fst_eq e).onArrival.tryEnd
  · exact hk

theorem Keeps.execXanwellClose {flit} (hk : Keeps False σ τ) : KeepsO σ (execXanwellClose flit τ) := by
  unfold Machine.execXanwellClose
  dsimp only
  split
  · split
    · exact hk
    · exact hk.onArrival.fields.tryEnd
  · exact hk

theorem Keeps.endShare {agent l n} (hk : Keeps False σ τ) : Keeps False σ (τ.endShare agent l n) :=
  hk.foldl (fun _ _ => (Keeps.refl _).placeDesc.onStream)

theorem Keeps.endSource {t status handle} (hk : Keeps False σ τ) : Keeps False σ (τ.endSource t status handle) := by
  unfold State.endSource
  dsimp only
  exact (Keeps.ite hk.placeDesc.clockStop.dropTable.onStream hk.placeDesc.clockStop.onStream).endShare.fields

theorem Keeps.endTransfer {t status handle} (hk : Keeps False σ τ) : Keeps False σ (τ.endTransfer t status handle) := by
  unfold State.endTransfer
  split
  · exact hk.endSource
  · split
    · rename_i e
      exact hk.unitStore.fst_eq e
    · rename_i e
      exact (hk.unitStore.fst_eq e).clockStop.endSource
    · rename_i e
      exact (hk.unitStore.fst_eq e).endSource

theorem Keeps.execXanwellResult {flit} (hk : Keeps False σ τ) : KeepsO σ (execXanwellResult flit τ) := by
  unfold Machine.execXanwellResult
  split
  · exact .ite hk.endTransfer hk
  · exact hk

theorem Keeps.execXanwellLinkFailure {transfer} (hk : Keeps False σ τ) : KeepsO σ (execXanwellLinkFailure transfer τ) := by
  unfold Machine.execXanwellLinkFailure
  split
  · exact .ite hk hk.endTransfer
  · exact hk

theorem Keeps.execXanwellPut {flit} (hk : Keeps False σ τ) : KeepsO σ (execXanwellPut flit τ) := by
  unfold Machine.execXanwellPut
  dsimp only
  split
  · exact hk
  · split
    · exact hk.askHost
    · rename_i e
      exact (Keeps.ite (hk.importStore _ e).fields (hk.importStore _ e)).fields

theorem Keeps.execXanwellGet {flit} (hk : Keeps False σ τ) : KeepsO σ (execXanwellGet flit τ) := .ite hk.fields hk

theorem Keeps.execXanwellUndefinedFlit {port flit} (hk : Keeps False σ τ) : KeepsO σ (execXanwellUndefinedFlit port flit τ) := by
  unfold Machine.execXanwellUndefinedFlit
  split
  · trivial
  · exact .ite hk hk.countLife

theorem Keeps.execLinkTraining {port width rate} (hk : Keeps False σ τ) : KeepsO σ (execLinkTraining port width rate τ) := by
  unfold Machine.execLinkTraining
  dsimp only
  split
  · trivial
  · exact (Keeps.ite hk.countLife hk).fields

/-! ### StreamInstr -/

theorem checkHandle_steady {h aval} : (checkHandle h aval).Steady C :=
  trapIf_steady.bind fun _ => trapIf_steady.bind fun _ => get_steady.bind fun _ => trapIf_steady.bind fun _ => pure_steady

theorem stepPlace_steady {n aval} : (stepPlace n aval).Steady C := by
  unfold stepPlace
  refine get_bind_steady fun s => ?_
  split
  split
  rename_i e
  exact trapIf_bind_steadyAt ((set_steadyAt ((Keeps.refl _).placeDesc.fst_eq e)).bind fun _ => (onMyCtx_steady))

theorem stepRelease_steady {n aval} : (stepRelease n aval).Steady C :=
  stepPlace_steady.bind fun _ => release_steady.bind fun _ => (modify_steady fun _ => (Keeps.refl _).onStream).bind fun _ => pure_steady

theorem onStreamM_steady {n f} : (onStreamM n f).Steady C := modify_steady fun _ => (Keeps.refl _).onStream

theorem execSnew_steady {x} : IssuesSteady C (.snew x) τ (execSnew x τ) := by
  refine ⟨_, rfl, fun _ => src_steady.bind fun _ => src_steady.bind fun _ => trapIf_steady.bind fun _ => loadDwords_steady.bind fun _ =>
    trapIf_steady.bind fun _ => me_steady.bind fun _ => ?_⟩
  split
  refine get_bind_steady fun s => ?_
  split
  · rename_i e
    exact (set_steadyAt ((Keeps.refl _).takeId.fst_eq e)).bind fun _ => dst_steady
  · rename_i e
    exact (set_steadyAt ((Keeps.refl _).takeId.fst_eq e)).bind fun _ => stepPlace_steady.bind fun _ => release_steady.bind fun _ =>
      (modify_steady fun _ => (Keeps.refl _).admitNew).bind fun _ => get_steady.bind fun _ => dst_steady

theorem execFork_steady {x} : IssuesSteady C (.fork x) τ (execFork x τ) := by
  refine ⟨_, rfl, fun _ => src_steady.bind fun _ => src_steady.bind fun _ => checkHandle_steady.bind fun _ => trapIf_steady.bind fun _ =>
    loadDwords_steady.bind fun _ => trapIf_steady.bind fun _ => ?_⟩
  refine get_bind_steady fun s => ?_
  extract_lets -underBinder +onlyGivenNames d
  split
  · exact dst_steady _
  · split
    · exact dst_steady _
    · split
      · rename_i e
        exact (set_steadyAt ((Keeps.refl _).takeId.fst_eq e)).bind fun _ => dst_steady
      · rename_i e
        exact (set_steadyAt ((Keeps.refl _).takeId.fst_eq e)).bind fun _ => stepPlace_steady.bind fun _ => release_steady.bind fun _ =>
          (modify_steady fun _ => (Keeps.refl _).admitChild).bind fun _ => get_steady.bind fun _ => dst_steady

theorem execSbind_steady {x} : IssuesSteady C (.sbind x) τ (execSbind x τ) := by
  refine ⟨_, rfl, fun _ => src_steady.bind fun _ => myCtx_steady.bind fun _ => ?_⟩
  extract_lets -underBinder +onlyGivenNames j0
  have hj0 : (j0 ()).Steady C := (onMyCtx_steady).bind fun _ => dst_steady
  exact .ite hj0 (checkHandle_steady.bind fun _ => get_steady.bind fun _ => trapIf_steady.bind fun _ => (modify_steady fun _ =>
    (Keeps.refl _).loadSpm).bind fun _ => acquire_steady.bind fun _ => hj0)

theorem me_bind_steadyAt {β : Type} {k : Nat × Nat → M β} (h : (k σ.cur).SteadyAt C σ) : (me >>= k).SteadyAt C σ := h

theorem execPplace_steady {x} : IssuesSteady C (.pplace x) τ (execPplace x τ) := by
  refine ⟨_, rfl, fun _ => src_steady.bind fun _ => src_steady.bind fun _ => myCtx_steady.bind fun _ => trapIf_steady.bind fun _ =>
    checkHandle_steady.bind fun _ => get_bind_steady fun s => trapIf_bind_steadyAt <| trapIf_bind_steadyAt <|
    trapIf_bind_steadyAt <| me_bind_steadyAt ?_⟩
  split
  extract_lets -underBinder +onlyGivenNames cl dest pages j0
  have hj0 : (j0 ()).SteadyAt C s := by
    unfold j0
    split
    rename_i e
    exact (set_steadyAt ((Keeps.refl s).placePages.fst_eq e)).bind fun _ => M.Steady.bind onMyCtx_steady fun _ => dst_steady
  exact .ite wait_bind_steadyAt hj0

theorem execSquery_steady {x} : IssuesSteady C (.squery x) τ (execSquery x τ) := by
  refine ⟨_, rfl, fun _ => get_steady.bind fun _ => ?_⟩
  extract_lets -underBinder +onlyGivenNames die
  split
  · exact src_steady.bind fun _ => trapIf_steady.bind fun _ => dst_steady
  · exact dst_steady
  · refine src_steady.bind fun _ => checkHandle_steady.bind fun _ => ?_
    extract_lets -underBinder +onlyGivenNames d
    split
    · exact acquire_steady.bind fun _ => dst_steady
    · exact src_steady.bind fun _ => acquire_steady.bind fun _ => dst_steady
    · exact acquire_steady.bind fun _ => dst_steady
    · exact dst_steady
    · exact src_steady.bind fun _ => dst_steady

theorem recordCkpt_steady {n a b aval} : (recordCkpt n a b aval).Steady C := by
  unfold recordCkpt
  refine M.Steady.bind (get_steady.bind fun _ => pure_steady) fun _ => get_steady.bind fun _ => ?_
  split
  exact trapIf_steady.bind fun _ => onStreamM_steady

theorem myEngine'_steady : recordCkpt.myEngine'.Steady C := get_steady.bind fun _ => pure_steady

theorem execSstep_steady {x} : IssuesSteady C (.sstep x) τ (execSstep x τ) := by
  refine ⟨_, rfl, fun _ => src_steady.bind fun _ => checkHandle_steady.bind fun _ => get_steady.bind fun _ => ?_⟩
  extract_lets -underBinder +onlyGivenNames d
  refine trapIf_steady.bind fun _ => ?_
  refine M.Steady.bind ?_ fun _ => stepRelease_steady.bind fun _ => dst_steady
  split
  · exact src_steady.bind fun _ => trapIf_steady.bind fun _ => onStreamM_steady.bind fun _ => pure_steady
  · exact src_steady.bind fun _ => onStreamM_steady.bind fun _ => pure_steady
  · exact src_steady.bind fun _ => recordCkpt_steady.bind fun _ => pure_steady
  · exact onStreamM_steady.bind fun _ => pure_steady
  · exact src_steady.bind fun _ => trapIf_steady.bind fun _ => onStreamM_steady.bind fun _ => pure_steady

theorem execApush_steady {x} : IssuesSteady C (.apush x) τ (execApush x τ) := by
  refine ⟨_, rfl, fun _ => src_steady.bind fun _ => src_steady.bind fun _ => checkHandle_steady.bind fun _ => get_steady.bind fun _ => ?_⟩
  extract_lets -underBinder +onlyGivenNames d
  refine trapIf_steady.bind fun _ => trapIf_steady.bind fun _ => trapIf_steady.bind fun _ => ?_
  split
  · exact .ite dst_steady trap_steady
  · extract_lets -underBinder +onlyGivenNames va
    split
    exact storeBytes_steady.bind fun _ => storeBytes_steady.bind fun _ => onStreamM_steady.bind fun _ => stepRelease_steady.bind fun _ =>
      (.ite ((modify_steady fun _ => (Keeps.refl _).wakeStream).bind fun _ => dst_steady) dst_steady)

theorem execApop_steady {x} : IssuesSteady C (.apop x) τ (execApop x τ) :=
  ⟨_, rfl, fun _ => src_steady.bind fun _ => checkHandle_steady.bind fun _ => get_steady.bind fun _ => trapIf_steady.bind fun _ =>
    trapIf_steady.bind fun _ => acquire_steady.bind fun _ => (.ite (dst_steady.bind fun _ =>
    dstNext_steady) (loadDword_steady.bind fun _ => loadDword_steady.bind fun _ => (.ite (onStreamM_steady.bind fun _ =>
    stepRelease_steady.bind fun _ => dst_steady.bind fun _ => dstNext_steady) (dst_steady.bind fun _ => dstNext_steady))))⟩

theorem unitDword_steady {owner va} : (unitDword owner va).Steady C := by
  unfold unitDword
  refine get_steady.bind fun s => ?_
  split
  refine trapIf_steady.bind fun _ => ?_
  extract_lets -underBinder +onlyGivenNames j0
  have hj0 : (j0 ()).Steady C := by
    unfold j0
    split
    · exact pure_steady
    · exact trap_steady
    · split
      · exact wait_steady
      · exact waitAnd_steady fun υ => (Keeps.refl υ).holdFault
  exact .ite (wait_steady.bind fun _ => hj0) hj0

theorem keptTail_steady {d c n t} : (keptTail d c n t).Steady C := by
  induction n generalizing t with
  | zero => exact pure_steady
  | succ n ih => exact unitDword_steady.bind fun _ => .ite ih pure_steady

theorem storePieces_steady {p pc va ps} : (storePieces p pc va ps).Steady C := by
  induction ps generalizing va with
  | nil => exact pure_steady
  | cons e r ih =>
    exact settleMineFor_steady.bind fun _ => makeRoom_steady.bind fun _ => putStore_steady.bind fun _ => get_steady.bind fun _ =>
      homeAccess_steady.bind fun _ => ih

theorem storeZeros_steady {p pc va key n} : (storeZeros p pc va key n).Steady C :=
  myCore_steady.bind fun _ => (takeBudget_steady).bind fun _ => (needEntries_steady).bind fun _ => storePieces_steady.bind fun _ =>
    (modify_steady fun _ => (Keeps.refl _).storedWhole)

theorem clearTail_steady {n page off p pc aval} : (clearTail n page off p pc aval).Steady C := by
  unfold clearTail
  refine get_steady.bind fun _ => ?_
  split
  · exact pure_steady
  · refine needPage_steady.bind fun _ => ?_
    refine get_bind_steady fun s => ?_
    extract_lets -underBinder +onlyGivenNames j0
    have hj0 : (j0 ()).SteadyAt C s := by
      unfold j0
      extract_lets -underBinder +onlyGivenNames va
      split
      · exact trap_steady _
      · rename_i e
        exact trapIf_bind_steadyAt ((set_steadyAt ((Keeps.refl _).windowWrite _ e)).bind fun _ => (onMyCtx_steady).bind fun _ =>
          storeZeros_steady)
    exact .ite wait_bind_steadyAt hj0

theorem execStrunc_steady {x} : IssuesSteady C (.strunc x) τ (execStrunc x τ) := by
  refine ⟨_, rfl, fun _ => src_steady.bind fun _ => srcB_steady.bind fun _ => src_steady.bind fun _ => checkHandle_steady.bind fun _ =>
    get_steady.bind fun _ => ?_⟩
  extract_lets -underBinder +onlyGivenNames d
  refine trapIf_steady.bind fun _ => trapIf_steady.bind fun _ => trapIf_steady.bind fun _ => ?_
  extract_lets -underBinder +onlyGivenNames kp
  refine keptTail_steady.bind fun _ => stepRelease_steady.bind fun _ => ?_
  extract_lets -underBinder +onlyGivenNames gone j0
  have hj0 : (j0 ()).Steady C := by
    unfold j0
    refine (modify_steady fun _ => (Keeps.refl _).foldl (fun _ _ => (Keeps.refl _).unmapPage)).bind fun _ => ?_
    extract_lets -underBinder +onlyGivenNames j0
    have hj0 : (j0 ()).Steady C := onStreamM_steady.bind fun _ => dst_steady
    exact .ite hj0 (clearTail_steady.bind fun _ => hj0)
  exact .ite (wait_steady.bind fun _ => hj0) hj0

theorem execSret_steady {x} : IssuesSteady C (.sret x) τ (execSret x τ) := by
  refine ⟨_, rfl, fun _ => src_steady.bind fun _ => checkHandle_steady.bind fun _ => get_steady.bind fun _ => ?_⟩
  extract_lets -underBinder +onlyGivenNames d
  split
  · refine src_steady.bind fun _ => trapIf_steady.bind fun _ => trapIf_steady.bind fun _ => onStreamM_steady.bind fun _ =>
      stepRelease_steady.bind fun _ => ?_
    refine get_bind_steady fun s => ?_
    split
    · rename_i e
      exact (set_steadyAt ((Keeps.refl _).report _ e)).bind fun _ => dst_steady
    · exact dst_steady _
  · exact trapIf_steady.bind fun _ => stepRelease_steady.bind fun _ => (modify_steady fun _ => (Keeps.refl _).retire).bind fun _ =>
      get_steady.bind fun _ => dst_steady

theorem execJoin_steady {x} : IssuesSteady C (.join x) τ (execJoin x τ) := by
  refine ⟨_, rfl, fun _ => src_steady.bind fun _ => trapIf_steady.bind fun _ => ?_⟩
  extract_lets -underBinder +onlyGivenNames die n
  refine get_steady.bind fun _ => ?_
  extract_lets -underBinder +onlyGivenNames g
  split
  · exact src_steady.bind fun _ => trapIf_steady.bind fun _ => loadDwords_steady.bind fun _ => trapIf_steady.bind fun _ =>
      (.ite dst_steady (release_steady.bind fun _ => (modify_steady fun _ => (Keeps.refl _).openGroup).bind fun _ => dst_steady))
  · split
    · exact dst_steady
    · refine release_steady.bind fun _ => ?_
      refine get_bind_steady fun s => ?_
      refine trapIf_bind_steadyAt ?_
      split
      · exact (waitAnd_steady fun _ => (Keeps.refl _).resolve) _
      · rename_i e
        exact (set_steadyAt ((Keeps.refl _).resolve.fst_eq e)).bind fun _ => dst_steady
  · exact dst_steady
  · exact .ite dst_steady (release_steady.bind fun _ => (modify_steady fun _ => (Keeps.refl _).onGroup).bind fun _ => dst_steady)

theorem execSmigr_steady {x} : IssuesSteady C (.smigr x) τ (execSmigr x τ) := by
  refine ⟨_, rfl, fun _ => src_steady.bind fun _ => srcB_steady.bind fun _ => src_steady.bind fun _ => checkHandle_steady.bind fun _ =>
    trapIf_steady.bind fun _ => trapIf_steady.bind fun _ => get_steady.bind fun _ => ?_⟩
  split
  exact trapIf_steady.bind fun _ => (.ite dst_steady (.ite dst_steady (stepRelease_steady.bind fun _ => (modify_steady fun _ =>
    (Keeps.refl _).fields.freezeMarked).bind fun _ => dst_steady)))

/-! ### System -/

theorem writeSreg_steady {n v tval} : (writeSreg n v tval).Steady C := by
  unfold writeSreg
  refine get_steady.bind fun _ => ?_
  split
  split
  · exact trapIf_steady.bind fun _ => (onMyCtx_steady)
  · exact onMyCtx_steady
  · exact trapIf_steady.bind fun _ => (onMyCtx_steady)
  · exact onMyCtx_steady
  · exact onMyCtx_steady
  · exact onMyCore_steady
  · exact onMyCore_steady
  · exact onMyCtx_steady
  · exact onMyCtx_steady
  · exact .ite (trapIf_steady.bind fun _ => (onMyCore_steady)) (.ite trap_steady trap_steady)

theorem execTrap_steady {x} : IssuesSteady C (.trap x) τ (execTrap x τ) :=
  ⟨_, rfl, fun _ => src_steady.bind fun _ => throw_trap_steady⟩

theorem execEret_steady {x} : IssuesSteady C (.eret x) τ (execEret x τ) := by
  refine ⟨_, rfl, fun _ => myCtx_steady.bind fun _ => trapIf_steady.bind fun _ => me_steady.bind fun _ => ?_⟩
  split
  exact myCore_steady.bind fun _ => onMyCtx_steady fun _ _ h => absurd h Bool.false_ne_true

theorem execSysr_steady {x} : IssuesSteady C (.sysr x) τ (execSysr x τ) := by
  refine ⟨_, rfl, fun _ => get_steady.bind fun _ => ?_⟩
  split
  · exact dst_steady
  · exact trap_steady

theorem execSysw_steady {x} : IssuesSteady C (.sysw x) τ (execSysw x τ) :=
  ⟨_, rfl, fun _ => src_steady.bind fun _ => writeSreg_steady⟩

theorem execBrk_steady {x} : IssuesSteady C (.brk x) τ (execBrk x τ) :=
  ⟨_, rfl, fun _ => throw_trap_steady⟩

theorem execHalt_steady {x} : IssuesSteady C (.halt x) τ (execHalt x τ) :=
  ⟨_, rfl, fun _ => src_steady.bind fun _ => trap_steady⟩

/-- Freeing a journal entry leaves INTRAP of the core's contexts. -/
theorem Core.intrap_freeEntry (c : Core) (i k : Nat) : ((c.freeEntry i).ctx k).intrap = (c.ctx k).intrap := by
  have h (t : Table Ctx) (d : Ctx) : (Table.get (t.map fun (e : Nat × Ctx) => (e.1, e.2.unpend i)) d k).intrap = (t.get d k).intrap := by
    unfold Table.get
    induction t with
    | nil => rfl
    | cons e t ih =>
      simp only [List.map_cons, Table.find]
      split
      · rfl
      · exact ih
  exact h c.ctxs (Ctx.initial k)

theorem execJrnl_steady {x} : IssuesSteady C (.jrnl x) τ (execJrnl x τ) := by
  refine ⟨_, rfl, fun _ => src_steady.bind fun _ => get_steady.bind fun _ => ?_⟩
  extract_lets -underBinder +onlyGivenNames i
  refine trapIf_steady.bind fun _ => ?_
  extract_lets -underBinder +onlyGivenNames e
  split
  · exact dst_steady
  · exact dst_steady
  · exact dst_steady
  · refine trapIf_steady.bind fun _ => M.Steady.bind (onMyCore_steady fun _ c k h => ?_) fun _ => dst_steady
    rwa [Core.intrap_freeEntry] at h

/-! ### VectorArith -/

theorem Ctx.intrap_foldl_setLane (c : Ctx) (vd : Nat) (ls : List (Nat × Lane)) :
    (ls.foldl (fun c e => c.setLane vd e.1 e.2) c).intrap = c.intrap := by
  induction ls generalizing c with
  | nil => rfl
  | cons e r ih => exact ih _

theorem putLanes_steady {vd lanes} : (putLanes vd lanes).Steady C :=
  onMyCtx_steady fun _ c h => by rwa [Ctx.intrap_foldl_setLane] at h

theorem putMask_steady {md bits} : (putMask md bits).Steady C :=
  (onMyCtx_steady).bind fun _ => (modify_steady fun _ => (Keeps.refl _).traceMask)

theorem elementwise_steady {x v rounds f} : (elementwise x v rounds f).Steady C :=
  myCtx_steady.bind fun _ => (.ite (drawsFor_steady.bind fun _ => putLanes_steady) (pure_steady.bind fun _ => putLanes_steady))

theorem vectorArith_steady {x v i f} : (vectorArith x v i f).Steady C := elementwise_steady

theorem vectorBits_steady {x v f} : (vectorBits x v f).Steady C := elementwise_steady

theorem execVadd_steady {x} : IssuesSteady C (.vadd x) τ (execVadd x τ) :=
  ⟨_, rfl, fun _ => vectorArith_steady⟩

theorem execVsub_steady {x} : IssuesSteady C (.vsub x) τ (execVsub x τ) :=
  ⟨_, rfl, fun _ => vectorArith_steady⟩

theorem execVmul_steady {x} : IssuesSteady C (.vmul x) τ (execVmul x τ) :=
  ⟨_, rfl, fun _ => vectorArith_steady⟩

theorem execVfma_steady {x} : IssuesSteady C (.vfma x) τ (execVfma x τ) :=
  ⟨_, rfl, fun _ => vectorArith_steady⟩

theorem execVmin_steady {x} : IssuesSteady C (.vmin x) τ (execVmin x τ) :=
  ⟨_, rfl, fun _ => vectorBits_steady⟩

theorem execVmax_steady {x} : IssuesSteady C (.vmax x) τ (execVmax x τ) :=
  ⟨_, rfl, fun _ => vectorBits_steady⟩

theorem execVand_steady {x} : IssuesSteady C (.vand x) τ (execVand x τ) :=
  ⟨_, rfl, fun _ => vectorBits_steady⟩

theorem execVor_steady {x} : IssuesSteady C (.vor x) τ (execVor x τ) :=
  ⟨_, rfl, fun _ => vectorBits_steady⟩

theorem execVxor_steady {x} : IssuesSteady C (.vxor x) τ (execVxor x τ) :=
  ⟨_, rfl, fun _ => vectorBits_steady⟩

theorem execVshl_steady {x} : IssuesSteady C (.vshl x) τ (execVshl x τ) :=
  ⟨_, rfl, fun _ => vectorBits_steady⟩

theorem execVshr_steady {x} : IssuesSteady C (.vshr x) τ (execVshr x τ) :=
  ⟨_, rfl, fun _ => vectorBits_steady⟩

theorem execVneg_steady {x} : IssuesSteady C (.vneg x) τ (execVneg x τ) :=
  ⟨_, rfl, fun _ => vectorBits_steady⟩

theorem execVcmp_steady {x} : IssuesSteady C (.vcmp x) τ (execVcmp x τ) :=
  ⟨_, rfl, fun _ => myCtx_steady.bind fun _ => putMask_steady⟩

theorem execVsel_steady {x} : IssuesSteady C (.vsel x) τ (execVsel x τ) :=
  ⟨_, rfl, fun _ => myCtx_steady.bind fun _ => putLanes_steady⟩

theorem execVdot4_steady {x} : IssuesSteady C (.vdot4 x) τ (execVdot4 x τ) :=
  ⟨_, rfl, fun _ => myCtx_steady.bind fun _ => putLanes_steady⟩

theorem execVcvt_steady {x} : IssuesSteady C (.vcvt x) τ (execVcvt x τ) :=
  ⟨_, rfl, fun _ => myCtx_steady.bind fun _ => (.ite (pure_steady.bind fun _ => putLanes_steady) (drawsFor_steady.bind fun _ =>
    putLanes_steady))⟩

theorem execVsfu_steady {x} : IssuesSteady C (.vsfu x) τ (execVsfu x τ) :=
  ⟨_, rfl, fun _ => elementwise_steady⟩

theorem execVquant_steady {x} : IssuesSteady C (.vquant x) τ (execVquant x τ) :=
  ⟨_, rfl, fun _ => myCtx_steady.bind fun _ => trapIf_steady.bind fun _ => drawsFor_steady.bind fun _ => putLanes_steady⟩

/-! ### VectorMove -/

theorem execVmov_steady {x} : IssuesSteady C (.vmov x) τ (execVmov x τ) := by
  refine ⟨_, rfl, fun _ => ?_⟩
  extract_lets -underBinder +onlyGivenNames w j0
  have hj0 : ∀ a0, (j0 a0).Steady C := fun _ => myCtx_steady.bind fun _ => putLanes_steady
  split
  · exact pure_steady.bind fun _ => (hj0 _)
  · exact .ite ((src_steady.bind fun _ => pure_steady).bind fun _ => (hj0 _)) (pure_steady.bind fun _ => (hj0 _))

theorem execVidx_steady {x} : IssuesSteady C (.vidx x) τ (execVidx x τ) :=
  ⟨_, rfl, fun _ => src_steady.bind fun _ => myCtx_steady.bind fun _ => putLanes_steady⟩

theorem execVext_steady {x} : IssuesSteady C (.vext x) τ (execVext x τ) :=
  ⟨_, rfl, fun _ => myCtx_steady.bind fun _ => trapIf_steady.bind fun _ => dst_steady⟩

theorem execVins_steady {x} : IssuesSteady C (.vins x) τ (execVins x τ) :=
  ⟨_, rfl, fun _ => src_steady.bind fun _ => myCtx_steady.bind fun _ => trapIf_steady.bind fun _ => putLanes_steady⟩

theorem execVclamp_steady {x} : IssuesSteady C (.vclamp x) τ (execVclamp x τ) :=
  ⟨_, rfl, fun _ => src_steady.bind fun _ => vectorBits_steady⟩

theorem execMop_steady {x} : IssuesSteady C (.mop x) τ (execMop x τ) := by
  refine ⟨_, rfl, fun _ => ?_⟩
  extract_lets -underBinder +onlyGivenNames j0
  have hj0 : ∀ a0, (j0 a0).Steady C := by
    intro _
    unfold j0
    refine myCtx_steady.bind fun _ => ?_
    extract_lets -underBinder +onlyGivenNames lanes a b
    split
    · exact putMask_steady
    · exact putMask_steady
    · exact putMask_steady
    · exact putMask_steady
    · exact putMask_steady
    · exact putMask_steady
    · exact dst_steady
    · exact dst_steady
  exact .ite (src_steady.bind fun _ => (hj0 _)) (pure_steady.bind fun _ => (hj0 _))

theorem execVshuf_steady {x} : IssuesSteady C (.vshuf x) τ (execVshuf x τ) :=
  ⟨_, rfl, fun _ => myCtx_steady.bind fun _ => putLanes_steady⟩

theorem execVrot_steady {x} : IssuesSteady C (.vrot x) τ (execVrot x τ) :=
  ⟨_, rfl, fun _ => src_steady.bind fun _ => myCtx_steady.bind fun _ => putLanes_steady⟩

theorem execVbcast_steady {x} : IssuesSteady C (.vbcast x) τ (execVbcast x τ) :=
  ⟨_, rfl, fun _ => src_steady.bind fun _ => myCtx_steady.bind fun _ => trapIf_steady.bind fun _ => putLanes_steady⟩

theorem execVvote_steady {x} : IssuesSteady C (.vvote x) τ (execVvote x τ) := by
  refine ⟨_, rfl, fun _ => myCtx_steady.bind fun _ => ?_⟩
  extract_lets -underBinder +onlyGivenNames act a
  split
  · exact dst_steady
  · exact dst_steady
  · exact dst_steady
  · exact putMask_steady

theorem execVmatch_steady {x} : IssuesSteady C (.vmatch x) τ (execVmatch x τ) := by
  refine ⟨_, rfl, fun _ => myCtx_steady.bind fun _ => ?_⟩
  extract_lets -underBinder +onlyGivenNames act a
  split
  · exact putMask_steady
  · exact putMask_steady
  · exact putLanes_steady

theorem execVcomp_steady {x} : IssuesSteady C (.vcomp x) τ (execVcomp x τ) :=
  ⟨_, rfl, fun _ => myCtx_steady.bind fun _ => putLanes_steady.bind fun _ => dst_steady⟩

theorem execVred_steady {x} : IssuesSteady C (.vred x) τ (execVred x τ) :=
  ⟨_, rfl, fun _ => myCtx_steady.bind fun _ => (.ite (drawsFor_steady.bind fun _ =>
    (.ite dst_steady putLanes_steady)) (pure_steady.bind fun _ => (.ite dst_steady putLanes_steady)))⟩

theorem execVscan_steady {x} : IssuesSteady C (.vscan x) τ (execVscan x τ) :=
  ⟨_, rfl, fun _ => myCtx_steady.bind fun _ => (.ite (drawsFor_steady.bind fun _ => putLanes_steady) (pure_steady.bind fun _ =>
    putLanes_steady))⟩

/-! ### Dispatch -/

/-- Every instruction of the cores issues a steady body. -/
theorem exec_steady {i} (h : (i.spec).isSome = true) : IssuesSteady C i τ (exec i τ) := by
  cases i with
  | add => exact execAdd_steady
  | sub => exact execSub_steady
  | mul => exact execMul_steady
  | mulh => exact execMulh_steady
  | div => exact execDiv_steady
  | rem => exact execRem_steady
  | and => exact execAnd_steady
  | or => exact execOr_steady
  | xor => exact execXor_steady
  | andn => exact execAndn_steady
  | shl => exact execShl_steady
  | shr => exact execShr_steady
  | rot => exact execRot_steady
  | min => exact execMin_steady
  | max => exact execMax_steady
  | cmp => exact execCmp_steady
  | addi => exact execAddi_steady
  | andi => exact execAndi_steady
  | ori => exact execOri_steady
  | xori => exact execXori_steady
  | shli => exact execShli_steady
  | shri => exact execShri_steady
  | cmpi => exact execCmpi_steady
  | lit => exact execLit_steady
  | sel => exact execSel_steady
  | bcnt => exact execBcnt_steady
  | bfx => exact execBfx_steady
  | bfi => exact execBfi_steady
  | addr => exact execAddr_steady
  | adds => exact execAdds_steady
  | fop => exact execFop_steady
  | mad => exact execMad_steady
  | br => exact execBr_steady
  | bz => exact execBz_steady
  | bcmp => exact execBcmp_steady
  | call => exact execCall_steady
  | ret => exact execRet_steady
  | jr => exact execJr_steady
  | callr => exact execCallr_steady
  | loop => exact execLoop_steady
  | bq => exact execBq_steady
  | jtab => exact execJtab_steady
  | nop => exact execNop_steady
  | ldl => exact execLdl_steady
  | stl => exact execStl_steady
  | vldl => exact execVldl_steady
  | vstl => exact execVstl_steady
  | vgathl => exact execVgathl_steady
  | vscatl => exact execVscatl_steady
  | ldtx => exact execLdtx_steady
  | rrot => exact execRrot_steady
  | bankmode => exact execBankmode_steady
  | fpush => exact execFpush_steady
  | fpop => exact execFpop_steady
  | rstl => exact execRstl_steady
  | radd => exact execRadd_steady
  | ld => exact execLd_steady
  | st => exact execSt_steady
  | vld => exact execVld_steady
  | vst => exact execVst_steady
  | vgath => exact execVgath_steady
  | vscat => exact execVscat_steady
  | pref => exact execPref_steady
  | wlq => exact execWlq_steady
  | wlwait => exact execWlwait_steady
  | amo => exact execAmo_steady
  | cas => exact execCas_steady
  | cas2 => exact execCas2_steady
  | lda => exact execLda_steady
  | strel => exact execStrel_steady
  | fence => exact execFence_steady
  | afadd => exact execAfadd_steady
  | lda2 => exact execLda2_steady
  | barinit => exact execBarinit_steady
  | arrive => exact execArrive_steady
  | waitph => exact execWaitph_steady
  | testph => exact execTestph_steady
  | expect => exact execExpect_steady
  | signal => exact execSignal_steady
  | waitsig => exact execWaitsig_steady
  | domain => exact execDomain_steady
  | sync => exact execSync_steady
  | xsend => exact execXsend_steady
  | xwait => exact execXwait_steady
  | start => exact execStart_steady
  | endHelper => exact execEndHelper_steady
  | hwait => exact execHwait_steady
  | qbind => exact execQbind_steady
  | qstat => exact execQstat_steady
  | vclaim => exact execVclaim_steady
  | vyield => exact execVyield_steady
  | yield => exact execYield_steady
  | nwait => exact execNwait_steady
  | ndone => exact execNdone_steady
  | task => exact execTask_steady
  | vadd => exact execVadd_steady
  | vsub => exact execVsub_steady
  | vmul => exact execVmul_steady
  | vfma => exact execVfma_steady
  | vmin => exact execVmin_steady
  | vmax => exact execVmax_steady
  | vand => exact execVand_steady
  | vor => exact execVor_steady
  | vxor => exact execVxor_steady
  | vshl => exact execVshl_steady
  | vshr => exact execVshr_steady
  | vcmp => exact execVcmp_steady
  | vsel => exact execVsel_steady
  | vcvt => exact execVcvt_steady
  | vneg => exact execVneg_steady
  | vdot4 => exact execVdot4_steady
  | vsfu => exact execVsfu_steady
  | vmov => exact execVmov_steady
  | vidx => exact execVidx_steady
  | vext => exact execVext_steady
  | vins => exact execVins_steady
  | vclamp => exact execVclamp_steady
  | vquant => exact execVquant_steady
  | mop => exact execMop_steady
  | vshuf => exact execVshuf_steady
  | vrot => exact execVrot_steady
  | vvote => exact execVvote_steady
  | vmatch => exact execVmatch_steady
  | vred => exact execVred_steady
  | vscan => exact execVscan_steady
  | vcomp => exact execVcomp_steady
  | vbcast => exact execVbcast_steady
  | mtile => exact execMtile_steady
  | mloadb => exact execMloadb_steady
  | macc => exact execMacc_steady
  | mread => exact execMread_steady
  | mscale => exact execMscale_steady
  | mwait => exact execMwait_steady
  | mstat => exact execMstat_steady
  | msoft => exact execMsoft_steady
  | cpq => exact execCpq_steady
  | cpseal => exact execCpseal_steady
  | cpwait => exact execCpwait_steady
  | cpstat => exact execCpstat_steady
  | nmc => exact execNmc_steady
  | nmfence => exact execNmfence_steady
  | snew => exact execSnew_steady
  | fork => exact execFork_steady
  | sbind => exact execSbind_steady
  | pplace => exact execPplace_steady
  | squery => exact execSquery_steady
  | sstep => exact execSstep_steady
  | apush => exact execApush_steady
  | apop => exact execApop_steady
  | strunc => exact execStrunc_steady
  | smigr => exact execSmigr_steady
  | sret => exact execSret_steady
  | join => exact execJoin_steady
  | trap => exact execTrap_steady
  | eret => exact execEret_steady
  | sysr => exact execSysr_steady
  | sysw => exact execSysw_steady
  | brk => exact execBrk_steady
  | halt => exact execHalt_steady
  | jrnl => exact execJrnl_steady
  | trace => exact execTrace_steady
  | trig => exact execTrig_steady
  | watch => exact execWatch_steady
  | _ => cases h

theorem Keeps.execMicro {i} (hk : Keeps False σ τ) (h : (i.micro?).isSome = true) : KeepsO σ (exec i τ) := by
  cases i with
  | smpMov => exact hk.execSmpMov
  | smpLdi => exact hk.execSmpLdi
  | smpAdd => exact hk.execSmpAdd
  | smpSub => exact hk.execSmpSub
  | smpMul => exact hk.execSmpMul
  | smpFadd => exact hk.execSmpFadd
  | smpFmul => exact hk.execSmpFmul
  | smpFexp => exact hk.execSmpFexp
  | smpFmax => exact hk.execSmpFmax
  | smpCmp => exact hk.execSmpCmp
  | smpBr => exact hk.execSmpBr
  | smpBrc => exact hk.execSmpBrc
  | smpLoop => exact hk.execSmpLoop
  | smpCld => exact hk.execSmpCld
  | smpCst => exact hk.execSmpCst
  | smpCsortk => exact hk.execSmpCsortk
  | smpCscan => exact hk.execSmpCscan
  | smpCsel => exact hk.execSmpCsel
  | smpRng => exact hk.execSmpRng
  | smpCtrset => exact hk.execSmpCtrset
  | smpCtrget => exact hk.execSmpCtrget
  | smpEmit => exact hk.execSmpEmit
  | smpHalt x => exact hk.execSmpHalt x
  | smpFault => exact hk.execSmpFault
  | _ => cases h

theorem Keeps.execEvent {i} (hk : Keeps False σ τ) (h : i.isEvent = true) : KeepsO σ (exec i τ) := by
  cases i with
  | samplerDispatch => exact hk.execSamplerDispatch
  | samplerTimeout => exact hk.execSamplerTimeout
  | moduleReset => exact hk.execModuleReset
  | lgoGo => exact hk.execLgoGo
  | lgoStop => exact hk.execLgoStop
  | lgoKill => exact hk.execLgoKill
  | xlresolve => exact hk.execXlresolve
  | prectlSuspend => exact hk.execPrectlSuspend
  | prectlResume => exact hk.execPrectlResume
  | clkrst => exact hk.execClkrst
  | slotctlCommit => exact hk.execSlotctlCommit
  | slotTableSwitch => exact hk.execSlotTableSwitch
  | pwrctlTarget => exact hk.execPwrctlTarget
  | powerTransitionDone => exact hk.execPowerTransitionDone
  | cgateRequest => exact hk.execCgateRequest
  | clusterUngateDone => exact hk.execClusterUngateDone
  | mbcmdReadCounters => exact hk.execMbcmdReadCounters
  | firmwareImageInstall => exact hk.execFirmwareImageInstall
  | ownerKeyLoad => exact hk.execOwnerKeyLoad
  | ownerKeyUnload => exact hk.execOwnerKeyUnload
  | attestationRequest => exact hk.execAttestationRequest
  | registerWrite => exact hk.execRegisterWrite
  | hostCxlMemRead => exact hk.execHostCxlMemRead
  | hostCxlMemWrite => exact hk.execHostCxlMemWrite
  | cxlCacheSnoop => exact hk.execCxlCacheSnoop
  | successorReady => exact hk.execSuccessorReady
  | poolOverflowTransfer => exact hk.execPoolOverflowTransfer
  | caravanDispatch => exact hk.execCaravanDispatch
  | gangClose => exact hk.execGangClose
  | gangCompletion => exact hk.execGangCompletion
  | conditionEval => exact hk.execConditionEval
  | switchEval => exact hk.execSwitchEval
  | loopEval => exact hk.execLoopEval
  | streamDrive => exact hk.execStreamDrive
  | streamDriveComplete => exact hk.execStreamDriveComplete
  | launchEnd => exact hk.execLaunchEnd
  | nwaitTimeout => exact hk.execNwaitTimeout
  | yieldExpire => exact hk.execYieldExpire
  | queueDeadlock => exact hk.execQueueDeadlock
  | regcacheRefill => exact hk.execRegcacheRefill
  | fetchBlockFill => exact hk.execFetchBlockFill
  | asyncTrapDelivery => exact hk.execAsyncTrapDelivery
  | preemptPoint => exact hk.execPreemptPoint
  | contextSaved => exact hk.execContextSaved
  | contextResume => exact hk.execContextResume
  | homeLoad => exact hk.execHomeLoad
  | homeStore => exact hk.execHomeStore
  | lineRecall => exact hk.execLineRecall
  | wlqEntryDepart => exact hk.execWlqEntryDepart
  | wlqEntryAccept => exact hk.execWlqEntryAccept
  | writeWindowEnd => exact hk.execWriteWindowEnd
  | hbmSlotService => exact hk.execHbmSlotService
  | pageWalk owner va agent kind slot =>
    change KeepsO σ (Machine.execPageWalk owner va agent kind slot τ)
    exact hk.execPageWalk
  | pageMoveComplete => exact hk.execPageMoveComplete
  | importWrite => exact hk.execImportWrite
  | remoteAck => exact hk.execRemoteAck
  | macroOpAccept => exact hk.execMacroOpAccept
  | mloadbComplete => exact hk.execMloadbComplete
  | maccExecute => exact hk.execMaccExecute
  | scaleFifoTimeout => exact hk.execScaleFifoTimeout
  | mreadExecute => exact hk.execMreadExecute
  | msoftExecute => exact hk.execMsoftExecute
  | mtileMacroOp => exact hk.execMtileMacroOp
  | matrixNodeRun => exact hk.execMatrixNodeRun
  | splitkContribution => exact hk.execSplitkContribution
  | copyEngineTake => exact hk.execCopyEngineTake
  | copyNodeDispatch => exact hk.execCopyNodeDispatch
  | copyComplete => exact hk.execCopyComplete
  | copyStop => exact hk.execCopyStop
  | batchComplete => exact hk.execBatchComplete
  | destArithApply => exact hk.execDestArithApply
  | postedWriteApply => exact hk.execPostedWriteApply
  | postedWriteAck => exact hk.execPostedWriteAck
  | postedWriteRefusal => exact hk.execPostedWriteRefusal
  | nmcExecute => exact hk.execNmcExecute
  | nmcStop => exact hk.execNmcStop
  | barrierUpdate => exact hk.execBarrierUpdate
  | syncBarrierComplete => exact hk.execSyncBarrierComplete
  | exchangeSlotBegin => exact hk.execExchangeSlotBegin
  | exchangePhaseEnd => exact hk.execExchangePhaseEnd
  | xsendDeliver => exact hk.execXsendDeliver
  | wadiResolve => exact hk.execWadiResolve
  | joinNode => exact hk.execJoinNode
  | xanwellOpen => exact hk.execXanwellOpen
  | xanwellPage => exact hk.execXanwellPage
  | xanwellQueue => exact hk.execXanwellQueue
  | xanwellClose => exact hk.execXanwellClose
  | xanwellResult => exact hk.execXanwellResult
  | xanwellPut => exact hk.execXanwellPut
  | xanwellGet => exact hk.execXanwellGet
  | xanwellData => exact hk
  | xanwellAck => exact hk
  | xanwellUndefinedFlit => exact hk.execXanwellUndefinedFlit
  | siroccoRecordCopy => exact hk.execSiroccoRecordCopy
  | siroccoFrameClose => exact hk.execSiroccoFrameClose
  | linkMapSnapshot => exact hk.execLinkMapSnapshot
  | thermalWarn => exact hk.execThermalWarn
  | thermalTrip => exact hk.execThermalTrip
  | storageError => exact hk.execStorageError
  | flashCounterUpdate => exact hk.execFlashCounterUpdate
  | issueGovernorToken => exact hk.execIssueGovernorToken
  | remoteLocalLoad core ctx va size => exact hk.execRemoteLocalLoad va size
  | xmPortService => exact hk.execXmPortService
  | cxlCacheResponse => exact hk.execCxlCacheResponse
  | linkTraining => exact hk.execLinkTraining
  | xanwellLinkFailure => exact hk.execXanwellLinkFailure
  | powerLoss => exact hk.execPowerLoss
  | unitMachineCheck => exact hk.execUnitMachineCheck
  | _ => cases h

theorem Keeps.exec {i} (hk : Keeps False σ τ) : KeepsO σ (exec i τ) := by
  by_cases hs : (i.spec).isSome = true
  · exact (exec_steady hs).keeps hk
  · by_cases hm : (i.micro?).isSome = true
    · exact hk.execMicro hm
    · refine hk.execEvent ?_
      simp_all [Instr.isEvent]

/-! ### Step -/

theorem Keeps.turnOf {g k} (hk : Keeps False σ τ) : Keeps False σ (τ.turnOf g k) := hk.fields

theorem Keeps.decodeFault {g k fe pc w0 w1 e} (hk : Keeps False σ τ) : Keeps False σ (decodeFault τ g k fe pc w0 w1 e) := by
  unfold Machine.decodeFault
  dsimp only
  split
  · exact hk.trapAt
  · exact hk.trapAt
  · exact hk.trapAt
  · exact hk.trapAt
  · exact hk.trapAt

theorem Keeps.fetch {g k} (hk : Keeps False σ τ) : (τ.fetch g k).Keeps σ := by
  unfold State.fetch
  dsimp only
  split
  · exact hk
  · split
    · rename_i e
      exact (hk.fetchBlock.bytes_eq e).fillBlock
    · exact hk.fetchBlock

theorem KeepsO.resend {g k clk i o} (h : KeepsO σ o) : KeepsO σ (resend g k clk i o) := by
  unfold Machine.resend
  split
  · split
    · rename_i e
      split
      · exact (Keeps.fields (Keeps.fetch h |>.bytes_eq e)).exec
      · exact h
    · exact h
  · exact h

theorem Keeps.issueFetched {g k f} (hk : Keeps False σ τ) (hf : f.Keeps σ) : KeepsO σ (issueFetched τ g k f) := by
  unfold Machine.issueFetched
  dsimp only
  split
  · exact hk.trapAt
  · exact hk.waiting fun υ => (Keeps.refl υ).holdFault.unreadyEffect
  · exact hk.waiting fun υ => (Keeps.refl υ).unreadyEffect
  · split
    · exact hf.bytes_eq rfl |>.turnOf.exec.resend
    · exact (hf.bytes_eq rfl).decodeFault

theorem Keeps.issueAt {g k} (hk : Keeps False σ τ) : KeepsO σ (issueAt τ g k) := by
  unfold Machine.issueAt
  split
  · exact hk.imageTrap.tick
  · exact hk.pinLines.issueFetched hk.pinLines.fetch

theorem Keeps.contextTurn {g k} (hk : Keeps False σ τ) : KeepsO σ (contextTurn τ g k) := by
  unfold Machine.contextTurn
  dsimp only
  split
  · exact hk.tick
  · split
    · exact hk.fields.issueAt
    · split
      · rename_i e
        exact (hk.deliverAsync.or hk.takePreempt _ e).tick
      · split
        · split
          · exact hk.tick
          · exact (hk.onCtx nofun).issueAt
        · exact hk.issueAt

theorem Keeps.issuedBy {g fe k} (hk : Keeps False σ τ) : Keeps False σ (τ.issuedBy g fe k) := .ite hk (hk.onCore nofun)

theorem Keeps.frontTurn {g fe late} (hk : Keeps False σ τ) : KeepsO σ (frontTurn τ g fe late) := by
  unfold Machine.frontTurn
  split
  · exact hk.issuedBy.contextTurn
  · exact hk.tick

theorem Keeps.waitTurn {g k} (hk : Keeps False σ τ) : KeepsO σ (waitTurn τ g k) := by
  unfold Machine.waitTurn
  split
  · exact hk.contextTurn
  · exact hk.tick

theorem Keeps.ownTurn {g k} (hk : Keeps False σ τ) : KeepsO σ (ownTurn τ g k) := by
  unfold Machine.ownTurn
  split
  · exact hk.contextTurn
  · exact hk.frontTurn

theorem Keeps.turn (hk : Keeps False σ τ) : KeepsO σ (turn τ) := by
  unfold Machine.turn
  dsimp only
  split
  · exact hk.ownTurn
  · split
    · exact hk.fields.frontTurn
    · exact hk.fields.waitTurn
    · exact hk.fields.microTurn fun _ _ h => h.exec
    · split
      · exact hk.fields.exec
      · exact hk.fields
    · exact hk.fields.maskVector
    · exact hk.fields.tick

theorem Keeps.complete {g k} (hk : Keeps False σ τ) : Keeps False σ (τ.complete g k) := by
  unfold State.complete
  split
  · exact hk
  · split
    · rename_i e
      exact .ite (hk.contextTurn.next_eq e).fields hk
    · exact hk

theorem Keeps.settleTurn (hk : Keeps False σ τ) : Keeps False σ (τ.settleTurn) := by
  unfold State.settleTurn
  dsimp only
  exact (((hk.foldl (fun _ _ => (Keeps.refl _).barrierComplete)).foldl (fun _ _ => (Keeps.refl _).foldl (fun _ _ =>
    (Keeps.refl _).complete))).foldl (fun _ _ => (Keeps.refl _).phaseEnd)).noteClocks

theorem Keeps.step (hk : Keeps False σ τ) : KeepsO σ (step τ) := by
  unfold Machine.step
  split
  · rename_i e
    exact (hk.turn.next_eq e).settleTurn
  · exact hk.turn

/-! ### Canonical memory -/

/-- Settles O57: the step lemma `Keeps.step`, of which canonical memory is one half. -/
theorem memoryStaysCanonical : Obligations.MemoryStaysCanonical := by
  intro s t hm e
  exact ((Keeps.refl s).step.next_eq e).mem hm

end Sys2Proof.Machine
end

section
/-! A trap withholds the effects of its instruction. -/
namespace Sys2Proof.Machine

/-- Two states differ in the clk, and of one core in what is its own and one of its contexts', and in that context's trap frame. -/
structure Aside (g k : Nat) (s t : State) : Prop where
  units : { t with clk := s.clk, cores := s.cores } = s
  core : ∀ h, h ≠ g → t.core h = s.core h
  shelf : (t.core g).shelf = (s.core g).shelf
  frame : ∀ j, j ≠ k → (t.core g).frame j = (s.core g).frame j
  ctx : ∀ j, j ≠ k → t.ctx g j = s.ctx g j

section Rules
variable {g k : Nat} {s t u : State}

theorem Aside.refl (s : State) : Aside g k s s := ⟨rfl, fun _ _ => rfl, rfl, fun _ _ => rfl, fun _ _ => rfl⟩

theorem Aside.trans (h : Aside g k s t) (h' : Aside g k t u) : Aside g k s u where
  units := (congrArg (fun (x : State) => { x with clk := s.clk, cores := s.cores }) h'.units).trans h.units
  core j hj := (h'.core j hj).trans (h.core j hj)
  shelf := h'.shelf.trans h.shelf
  frame j hj := (h'.frame j hj).trans (h.frame j hj)
  ctx j hj := (h'.ctx j hj).trans (h.ctx j hj)

theorem Aside.result (h : Aside g k s t) {n : Nat} (hn : t.clk = n) : t = { s with clk := n, cores := t.cores } := by
  subst hn
  exact congrArg (fun (x : State) => { x with clk := t.clk, cores := t.cores }) h.units

theorem Aside.tick {n} (h : Aside g k s t) : Aside g k s (t.tick n) :=
  h.trans ⟨rfl, fun _ _ => rfl, rfl, fun _ _ => rfl, fun _ _ => rfl⟩

theorem Aside.onCore {f : Core → Core} (h : Aside g k s t) (hs : ∀ c, (f c).shelf = c.shelf := by exact fun _ => rfl)
    (hf : ∀ c j, j ≠ k → (f c).frame j = c.frame j := by exact fun _ _ _ => rfl)
    (hc : ∀ c j, j ≠ k → (f c).ctx j = c.ctx j := by exact fun _ _ _ => rfl) : Aside g k s (t.onCore g f) := by
  refine h.trans ⟨rfl, fun _ => State.core_onCore_other t f, ?_, fun j hj => ?_, fun j hj => ?_⟩
  · rw [State.core_onCore, hs]
  · rw [State.core_onCore, hf _ _ hj]
  · unfold State.ctx
    rw [State.core_onCore, hc _ _ hj]

theorem Aside.setCtx {x} (h : Aside g k s t) : Aside g k s (t.setCtx g k x) := by
  have hc : (t.setCtx g k x).core g = { t.core g with ctxs := (t.core g).ctxs.set k x } := State.core_setCore ..
  refine h.trans ⟨rfl, fun _ => State.core_setCore_other t _, ?_, fun j hj => ?_, fun j hj => ?_⟩
  · rw [hc]
  · rw [hc]
    rfl
  · exact State.ctx_setCtx_other t x fun e => hj e.2

theorem Aside.trace {kind p} (h : Aside g k s t) : Aside g k s (t.trace g k kind p) := by
  unfold State.trace State.traceFor
  split
  · exact h.onCore
  · exact h

theorem Aside.putFrame {f} (h : Aside g k s t) : Aside g k s (t.putFrame g k f) := by
  refine h.onCore (fun _ => rfl) fun c j hj => ?_
  exact Table.get_set_other _ _ _ (show c.shelf * 16 + j ≠ c.shelf * 16 + k by omega)

theorem Core.foldr_setQueue (c : Core) (l : List (Nat × Word)) (n : Nat) :
    l.foldr (fun e x => x.setQueue n e.1 (e.2 :: x.queue n e.1)) c
      = { c with queues := (l.foldr (fun e x => x.setQueue n e.1 (e.2 :: x.queue n e.1)) c).queues } := by
  induction l with
  | nil => rfl
  | cons e l ih =>
    rw [List.foldr_cons]
    unfold Core.setQueue at ih ⊢
    rw [ih]

theorem Aside.unpop (h : Aside g k s t) : Aside g k s (t.unpop g k) := by
  unfold State.unpop
  dsimp only
  split
  · exact h
  · refine Aside.setCtx (h.onCore (fun c => ?_) (fun c j _ => ?_) fun c j _ => ?_)
    · rw [Core.foldr_setQueue]
    · rw [Core.foldr_setQueue]
      rfl
    · rw [Core.foldr_setQueue]
      rfl

theorem Aside.unadmit (h : Aside g k s t) : Aside g k s (t.unadmit g k) := by
  unfold State.unadmit
  split
  · exact h
  · exact h.onCore.setCtx

end Rules

/-! ### What a trap gives back -/

theorem State.ctx_unpop (s : State) (g k : Nat) : (s.unpop g k).ctx g k = { s.ctx g k with popped := [] } := by
  unfold State.unpop
  dsimp only
  split
  · rename_i h
    rw [← h]
  · rw [State.ctx_onCtx]
    unfold State.ctx
    rw [State.core_onCore, Core.ctx_foldr_setQueue]

theorem State.ctx_unadmit (s : State) (g k : Nat) : (s.unadmit g k).ctx g k = { s.ctx g k with admitted := 0 } := by
  unfold State.unadmit
  split
  · rename_i h
    rw [← h.1]
  · rw [State.ctx_onCtx]
    unfold State.ctx
    rw [State.core_onCore]
    rfl

theorem State.clk_unpop (s : State) (g k : Nat) : (s.unpop g k).clk = s.clk := by
  unfold State.unpop
  dsimp only
  split
  · rfl
  · rfl

theorem State.clk_unadmit (s : State) (g k : Nat) : (s.unadmit g k).clk = s.clk := by
  unfold State.unadmit
  split
  · rfl
  · rfl

theorem State.unadmit_of_none {s : State} {g k : Nat} (ha : (s.ctx g k).admitted = 0) (hw : k ∉ (s.core g).wl.waiters) :
    s.unadmit g k = s := by
  unfold State.unadmit
  rw [if_pos ⟨ha, by simpa using hw⟩]

/-! ### Taking a trap -/

theorem State.core_trace (s : State) (g k kind : Nat) (p : Word) :
    (s.trace g k kind p).core g = { s.core g with trace := ((s.trace g k kind p).core g).trace } := by
  unfold State.trace State.traceFor
  split
  · rw [State.core_onCore]
  · rfl

/-- A trap that no handler takes leaves its context out of any. -/
theorem State.intrap_takeTrap_of_routes {s : State} {g k cause : Nat} {async more : Bool} {epc tval words : Word} {race : List Word}
    (hr : (s.ctx g k).routes cause = true) (h : ((s.takeTrap g k cause async more epc tval words race).ctx g k).intrap = true) :
    (s.ctx g k).intrap = true := by
  unfold State.takeTrap at h
  rw [if_pos hr] at h
  exact ((Keeps.refl (C := True) s).routeTrap).intrap trivial g k h

section Handler
variable {s : State} {g k cause : Nat} {async more : Bool} {epc tval words : Word} {race : List Word}
  (hr : (s.ctx g k).routes cause = false)
include hr

theorem Aside.takeTrap : Aside g k s (s.takeTrap g k cause async more epc tval words race) := by
  unfold State.takeTrap
  rw [if_neg (by simp [hr])]
  exact (Aside.refl s).trace.putFrame.setCtx

theorem State.clk_takeTrap : (s.takeTrap g k cause async more epc tval words race).clk = s.clk := by
  unfold State.takeTrap State.trace State.traceFor
  rw [if_neg (by simp [hr])]
  dsimp only
  split
  · rfl
  · rfl

/-- A trap into a handler writes the trace unit and the trap frames of its core. -/
theorem State.core_takeTrap : (s.takeTrap g k cause async more epc tval words race).core g = { s.core g with
    ctxs := ((s.takeTrap g k cause async more epc tval words race).core g).ctxs
    trace := ((s.takeTrap g k cause async more epc tval words race).core g).trace
    tframes := ((s.takeTrap g k cause async more epc tval words race).core g).tframes } := by
  unfold State.takeTrap State.setCtx State.putFrame
  rw [if_neg (by simp [hr])]
  dsimp only
  rw [State.core_setCore, State.core_onCore, State.core_trace]

/-- The context enters its handler (R412). -/
theorem State.ctx_takeTrap : (s.takeTrap g k cause async more epc tval words race).ctx g k = { s.ctx g k with
    tcause := tcauseWord cause async more, epc := epc, tval := tval, wbase := (s.ctx g k).wbase + 32, intrap := true,
    pc := (s.ctx g k).tvec, waitFrom := none, mid := false, qFrom := none, unissued := false, yieldEnd := none, nwait := none,
    xfail := none } := by
  unfold State.takeTrap
  rw [if_neg (by simp [hr])]
  dsimp only
  rw [State.ctx_setCtx]

end Handler

/-- With no race log, a trap of an instruction is taken from the state to which everything is given back. -/
theorem State.trapAt_of_noLog {s : State} {g k : Nat} (hl : logBase (s.ctx g k).racemode = 0) (v : Env) (info : TrapInfo) :
    ∃ epc words, (epc = v.pc ∨ epc = v.next) ∧ s.trapAt g k v info
      = (((s.unpop g k).unadmit g k).takeTrap g k info.cause false false epc info.tval words info.race).tick 1 := by
  refine ⟨if info.next then v.next else v.pc, BitVec.ofNat 64 (v.word0.toNat + v.word1.toNat * 2 ^ 32), ?_, ?_⟩
  · cases info.next
    · exact .inl rfl
    · exact .inr rfl
  · have hu : logBase (((s.unpop g k).unadmit g k).ctx g k).racemode = 0 := by rwa [State.ctx_unadmit, State.ctx_unpop]
    unfold State.trapAt
    dsimp only
    split
    · rfl
    · unfold State.appendLog
      rw [if_pos hu]

/-- Of an instruction of the cores, only its own trap leads into a handler. -/
theorem exec_enters {i : Instr} {s t : State} (hi : (i.spec).isSome = true) (hn : s.mine.intrap = false) (he : exec i s = .next t)
    (ht : (t.ctx s.cur.1 s.cur.2).intrap = true) : ∃ info, t = s.trapAt s.cur.1 s.cur.2 (envOf s s.cur.1 s.cur.2 i) info := by
  obtain ⟨t', e, hk⟩ := (exec_steady (C := True) (τ := s) hi).cases
  rw [he] at e
  cases e
  obtain hk | hk := hk
  · exact absurd ((hk.intrap trivial _ _ ht).symm.trans hn) (by decide)
  · exact hk

/-- Settles O52: a body that traps leaves nothing but its trap (`runBody_cases`), and only a trap sets INTRAP (`exec_enters`). -/
theorem trapsWithholdEffects : Obligations.TrapsWithholdEffects := by
  intro i s t hi hl hn he ht c u
  obtain ⟨info, e⟩ := exec_enters hi hn he ht
  obtain ⟨epc, words, hepc, e'⟩ := State.trapAt_of_noLog hl (envOf s s.cur.1 s.cur.2 i) info
  obtain rfl := e.trans e'
  have hm : u.ctx s.cur.1 s.cur.2 = { s.mine with popped := [], admitted := 0 } := by
    rw [State.ctx_unadmit, State.ctx_unpop]
    rfl
  have hr : (u.ctx s.cur.1 s.cur.2).routes info.cause = false := by
    refine Bool.eq_false_iff.2 fun hr => ?_
    have h := State.intrap_takeTrap_of_routes hr ht
    rw [hm] at h
    exact absurd (h.symm.trans hn) (by decide)
  have hu : Aside s.cur.1 s.cur.2 s u := (Aside.refl s).unpop.unadmit
  have ha : Aside s.cur.1 s.cur.2 s
      ((u.takeTrap s.cur.1 s.cur.2 info.cause false false epc info.tval words info.race).tick 1) :=
    (hu.trans (Aside.takeTrap hr)).tick
  have hc : c = _ := State.ctx_takeTrap hr
  refine ⟨ha.result ?_, ha.core, State.core_takeTrap hr, ha.frame, fun hp hd hw => ?_, ha.ctx, ?_, ?_⟩
  · exact congrArg (· + 1) ((State.clk_takeTrap hr).trans ((State.clk_unadmit ..).trans (State.clk_unpop ..)))
  · have h1 : s.unpop s.cur.1 s.cur.2 = s := State.unpop_of_none hp
    dsimp only [u]
    rw [h1, State.unadmit_of_none hd hw]
  · rw [hc, hm]
  · rw [hc]
    exact hepc

end Sys2Proof.Machine
end

section
/-! Boot and recovery, the owner services, and the host's accesses to memory. -/
namespace Sys2Proof.Machine

/-! ### Tables -/

theorem Table.find_map {α β : Type} (f : α → β) (t : Table α) (i : Nat) :
    Table.find (t.map fun (e : Nat × α) => (e.1, f e.2)) i = (Table.find t i).map f := by
  induction t with
  | nil => rfl
  | cons e t ih =>
    simp only [List.map_cons, Table.find]
    split
    · rfl
    · exact ih

theorem Table.find_mapKeys {α : Type} {f : Nat → α} {l : List Nat} {i : Nat} (h : i ∈ l) :
    Table.find (l.map fun k => (k, f k)) i = some (f i) := by
  induction l with
  | nil => cases h
  | cons k l ih =>
    simp only [List.map_cons, Table.find]
    split
    · rename_i e
      rw [e]
    · rename_i e
      exact ih ((List.mem_cons.1 h).resolve_left (Ne.symm e))

/-! ### Boot (R103) -/

theorem bootFails_eq_none {b : BootImage} (hr : b.readable = true) (he : b.ecdsaOk = true) (hl : b.lmsOk = true)
    (hv : Config.fusedMinimum ≤ b.secVer) (ht : b.hbmTrains = true) : bootFails b = none := by
  simp [bootFails, hr, he, hl, ht, Nat.not_lt.2 hv]

theorem referenceProgram_length : referenceProgram.length = 128 := by
  unfold referenceProgram
  rw [List.length_append, bytesOfNat_length]
  rfl

theorem writeSlots_defaultSlots : writeSlots defaultSlots = 4 := by decide

/-- A release's table is one that COMMIT takes (R11, R279). -/
theorem writeSlots_releaseSlots (v : BitVec 32) : 1 ≤ writeSlots (releaseSlots v) ∧ writeSlots (releaseSlots v) ≤ 8 := by
  unfold releaseSlots
  dsimp only
  split
  · rw [writeSlots_defaultSlots]
    decide
  · rename_i h
    simp only [Bool.or_eq_true, decide_eq_true_eq, not_or, Nat.not_lt] at h
    obtain ⟨⟨-, h1⟩, h8⟩ := h
    exact ⟨h1, h8⟩

theorem releaseLease_bounds (v : BitVec 32) : 16 ≤ releaseLease v ∧ releaseLease v ≤ 1024 := by
  unfold releaseLease
  split
  · decide
  · omega

theorem isRelease21_iff {v : BitVec 32} : isRelease21 v = true ↔ v.toNat / 65536 = 0x0201 := by simp [isRelease21]

theorem releaseSlots_of_release21 {v : BitVec 32} (h : isRelease21 v = true) : releaseSlots v = defaultSlots := by simp [releaseSlots, h]

/-- The tables that a boot loads. -/
def bootTable (v : BitVec 32) : SlotTable := { staged := releaseSlots v, live := releaseSlots v, donate := releaseDonate v }

theorem State.boot_good {s : State} {b : BootImage} (h : bootFails b = none) : s.boot b = State.countLife { s with
    mem := s.mem.putBytes (hbmKey (Config.samplerAddress b.fwver).toNat) referenceProgram,
    chans := (List.range 512).map (fun k => (k, bootTable b.fwver)),
    dev := { s.dev with
      hbmok := true, lease := releaseLease b.fwver, budget := releaseBudget b.fwver, window := releaseWindow b.fwver,
      fwver := b.fwver, ready := true } } 72 1 := by
  unfold State.boot
  rw [h]
  dsimp only [bootTable]

theorem State.chan_boot {s : State} {b : BootImage} (h : bootFails b = none) {c : Nat} (hc : c < 512) :
    (s.boot b).chan c = bootTable b.fwver := by
  rw [State.boot_good h]
  unfold State.countLife State.chan Table.get
  dsimp only
  rw [Table.find_mapKeys (f := fun _ => bootTable b.fwver) (List.mem_range.2 hc), Option.getD_some]

theorem State.mem_boot {s : State} {b : BootImage} (h : bootFails b = none) :
    (s.boot b).mem = s.mem.putBytes (hbmKey (Config.samplerAddress b.fwver).toNat) referenceProgram := by
  rw [State.boot_good h]
  unfold State.countLife
  dsimp only

/-- What a boot that succeeds sets of the device, and what it leaves. -/
theorem State.fields_boot {s : State} {b : BootImage} (h : bootFails b = none) :
    let t := s.boot b
    t.dev.ready = true ∧ t.dev.hbmok = true ∧ t.dev.recovery = s.dev.recovery ∧ t.dev.lease = releaseLease b.fwver
      ∧ t.dev.fwver = b.fwver ∧ t.dev.image = s.dev.image ∧ t.cores = s.cores ∧ t.launches = s.launches ∧ t.lines = s.lines := by
  rw [State.boot_good h]
  unfold State.countLife
  dsimp only
  simp only [and_self]

theorem imageRefused_iff (img : BootImage) :
    (!img.readable || !img.ecdsaOk || !img.lmsOk || decide (img.secVer < Config.fusedMinimum)) = true
      ↔ ¬(img.readable = true ∧ img.ecdsaOk = true ∧ img.lmsOk = true ∧ Config.fusedMinimum ≤ img.secVer) := by
  simp only [Bool.or_eq_true, Bool.not_eq_true', decide_eq_true_eq, not_and_or, Bool.not_eq_true, Nat.not_le, or_assoc]

theorem bootEvents : BootEvents := by
  intro s img b answers
  refine ⟨fun hr he hl hv ht => ?_, fun n hn => ?_, ?_, fun hv => ?_, fun hv => ?_⟩
  · have hb : bootFails b = none := bootFails_eq_none hr he hl hv ht
    have hc : ∀ c, c < 512 → ((s.afterReset.boot b).chan c).live = releaseSlots b.fwver :=
      fun c hc => congrArg SlotTable.live (State.chan_boot hb hc)
    obtain ⟨h1, h2, h3, h4, h5, h6, h7, h8, h9⟩ := State.fields_boot (s := s.afterReset) hb
    refine ⟨s.afterReset.boot b, rfl, h1, h2, h3, ?_, ?_, h5, h6, h7, h8, h9, fun hw => ?_, fun c h => ?_, fun h => ⟨?_, fun c h' => ?_⟩⟩
    · rw [h4]
      exact (releaseLease_bounds _).1
    · rw [h4]
      exact (releaseLease_bounds _).2
    · rw [State.mem_boot hb, ← referenceProgram_length]
      exact Memory.bytes_putBytes _ _ _ (Memory.wfFrom_filter _ _ hw)
    · rw [hc c h]
      exact writeSlots_releaseSlots _
    · rw [h4, releaseLease, if_pos (isRelease21_iff.2 h)]
    · rw [hc c h', releaseSlots_of_release21 (isRelease21_iff.2 h), writeSlots_defaultSlots]
  · have e : s.afterReset.boot b = { s.afterReset with dev := { s.afterReset.dev with booterr := n, recovery := true } } := by
      unfold State.boot
      rw [hn]
    exact ⟨_, congrArg Host.Outcome.next e, rfl, rfl, rfl, rfl, rfl⟩
  · exact ⟨_, rfl, rfl, rfl, rfl, rfl⟩
  · have e := (imageRefused_iff img).not.2 (not_not.2 hv)
    show execFirmwareImageInstall img s = _
    unfold execFirmwareImageInstall
    dsimp only
    rw [if_neg e]
    by_cases hk : img.newLmsKey = true
    · simp only [hk, if_true]
    · simp only [hk, if_false, Bool.false_eq_true]
  · exact if_pos ((imageRefused_iff img).2 hv)


/-! ### Owners and attestation (R104, R106) -/

theorem Memory.byte_foldl_put {f : Nat → Byte} {b a : Nat} (l : List Nat) (hl : ∀ i ∈ l, a ≠ b + i) (m : Memory) (hm : m.wf = true) :
    (l.foldl (fun m i => m.put (b + i) (f i)) m).wf = true
      ∧ (l.foldl (fun m i => m.put (b + i) (f i)) m).byte a = m.byte a := by
  induction l generalizing m with
  | nil => exact ⟨hm, rfl⟩
  | cons i l ih =>
    obtain ⟨hw, he⟩ := ih (fun j hj => hl j (List.mem_cons_of_mem i hj)) (m.put (b + i) (f i)) (Memory.wf_put m _ _ hm)
    exact ⟨hw, he.trans (Memory.byte_put_other m (f i) (hl i List.mem_cons_self) hm)⟩

/-- What the loss of an owner's key leaves, of a byte that did not stand under the key. -/
structure State.KeyLost (o a : Nat) (s t : State) : Prop where
  wf : t.mem.wf = true
  mask : (t.keyMask o (a / 64)).getLsbD (a % 64) = false
  byte : t.mem.byte a = s.mem.byte a

theorem State.keyMask_scrambleLine_same (s : State) (o line : Nat) : (s.scrambleLine o line).keyMask o line = 0 := by
  have h : ((s.keyed.get [] line).filter (fun e => e.1 ≠ o)).filter (fun e => e.1 = o) = [] := by
    simp [List.filter_filter]
  unfold State.scrambleLine State.keyMask
  dsimp only
  rw [Table.get_set_same, h, List.foldl_nil]

theorem State.keyMask_scrambleLine_other (s : State) (o : Nat) {line k : Nat} (h : k ≠ line) :
    (s.scrambleLine o line).keyMask o k = s.keyMask o k := by
  unfold State.scrambleLine State.keyMask
  dsimp only
  rw [Table.get_set_other _ _ _ h]

theorem State.KeyLost.scrambleLine {s t : State} {o a line : Nat} (h : State.KeyLost o a s t) : State.KeyLost o a s (t.scrambleLine o line) := by
  have hb : ∀ i ∈ (List.range 64).filter (fun i => (t.keyMask o line).getLsbD i), a ≠ line * 64 + i := by
    intro i hi e
    obtain ⟨hr, hm⟩ := List.mem_filter.1 hi
    have h64 := List.mem_range.1 hr
    have hq : a / 64 = line := by omega
    have hi' : a % 64 = i := by omega
    rw [← hq, ← hi', h.mask] at hm
    exact Bool.false_ne_true hm
  obtain ⟨hw, he⟩ := Memory.byte_foldl_put
    (f := fun i => BitVec.ofNat 8 ((Config.freeValue (t.free + i / 8)).toNat / 256 ^ (i % 8))) _ hb t.mem h.wf
  refine ⟨hw, ?_, he.trans h.byte⟩
  by_cases hq : a / 64 = line
  · rw [hq, State.keyMask_scrambleLine_same]
    exact BitVec.getLsbD_zero
  · rw [State.keyMask_scrambleLine_other t o hq]
    exact h.mask

theorem State.KeyLost.foldl {s : State} {o a : Nat} (lines : List Nat) {t : State} (h : State.KeyLost o a s t) :
    State.KeyLost o a s (lines.foldl (fun s line => s.scrambleLine o line) t) := by
  induction lines generalizing t with
  | nil => exact h
  | cons line lines ih => exact ih h.scrambleLine

/-- The lines that a key's loss takes (R104). -/
def State.linesUnder (s : State) (o : Nat) : List Nat := (s.keyed.map (·.1)).filter (fun line => s.keyMask o line ≠ 0)

/-- The state once those lines are lost. -/
def State.linesLost (s : State) (o : Nat) : State := (s.linesUnder o).foldl (fun s line => s.scrambleLine o line) s

/-- A core without the clean copies that go with the key. -/
def State.dropClean (s : State) (o : Nat) (c : Core) : Core :=
  { c with cway := c.cway.filter (fun (l : CLine) => l.dirty || !(decide (l.owner = o) || (s.linesUnder o).contains l.line)) }

theorem State.scramble_fields (s : State) (o : Nat) :
    (s.scramble o).mem = (s.linesLost o).mem ∧ (s.scramble o).launches = (s.linesLost o).launches
      ∧ (s.scramble o).owners = (s.linesLost o).owners
      ∧ (s.scramble o).cores = (s.linesLost o).cores.map (fun (e : Nat × Core) => (e.1, s.dropClean o e.2)) := by
  unfold State.scramble State.linesLost State.dropClean State.linesUnder
  exact ⟨rfl, rfl, rfl, rfl⟩

theorem State.keyLost_linesLost {s : State} {o a : Nat} (hw : s.mem.wf = true)
    (ha : (s.keyMask o (a / 64)).getLsbD (a % 64) = false) : State.KeyLost o a s (s.linesLost o) :=
  State.KeyLost.foldl _ ⟨hw, ha, rfl⟩

theorem State.linesLost_tables (s : State) (o : Nat) :
    (s.linesLost o).cores = s.cores ∧ (s.linesLost o).launches = s.launches ∧ (s.linesLost o).owners = s.owners := by
  unfold State.linesLost
  generalize s.linesUnder o = lines
  suffices h : ∀ t : State, let u := lines.foldl (fun s line => s.scrambleLine o line) t
      u.cores = t.cores ∧ u.launches = t.launches ∧ u.owners = t.owners from h s
  induction lines with
  | nil => exact fun t => ⟨rfl, rfl, rfl⟩
  | cons line lines ih => exact fun t => ih (t.scrambleLine o line)

/-- A core's contexts are not of its caches. -/
theorem State.ctx_scramble (s : State) (o g k : Nat) : (s.scramble o).ctx g k = s.ctx g k := by
  obtain ⟨-, -, -, hc⟩ := State.scramble_fields s o
  unfold State.ctx State.core Table.get
  rw [hc, (State.linesLost_tables s o).1, Table.find_map]
  cases Table.find s.cores g with
  | none => rfl
  | some c => rfl

/-- A launch is under way for an owner: it runs or stops, and it is the owner's or its gang's home is. -/
theorem launchBusy_iff (s : State) (o : Nat) :
    (s.launches.any fun l => l.2.active && (decide (l.2.owner = o) || decide (l.2.lctl.toNat % 64 = o))) = true
      ↔ ∃ e ∈ s.launches, (e.2.state = .running ∨ e.2.state = .stopping) ∧ (e.2.owner = o ∨ e.2.lctl.toNat % 64 = o) := by
  simp only [List.any_eq_true, Launch.active, Bool.and_eq_true, Bool.or_eq_true, decide_eq_true_eq]

theorem ownerServices : OwnerServices := by
  intro s hw
  refine ⟨fun o root ho => ⟨fun h0 hr hl => ?_, fun h => ?_, fun h => ?_, fun h0 hb => ?_, fun h0 hb hv => ?_⟩, fun h => ?_, fun h => ?_⟩
  · show execOwnerKeyLoad o root s = _
    unfold execOwnerKeyLoad
    rw [if_neg (Nat.not_le.2 ho), if_neg (by simp [h0, hr, hl])]
  · show execOwnerKeyLoad o root s = _
    unfold execOwnerKeyLoad
    rw [if_neg (Nat.not_le.2 ho), if_pos]
    obtain h | h | h := h <;> simp [h]
  · show execOwnerKeyUnload o s = _
    unfold execOwnerKeyUnload
    dsimp only
    rw [if_neg (Nat.not_le.2 ho), if_pos h]
  · show execOwnerKeyUnload o s = _
    unfold execOwnerKeyUnload
    dsimp only
    rw [if_neg (Nat.not_le.2 ho), if_neg h0, if_pos (hb.imp_left (launchBusy_iff s o).2)]
  · obtain ⟨hm, hl, hs, -⟩ := State.scramble_fields s o
    obtain ⟨-, hl', hs'⟩ := State.linesLost_tables s o
    have ho' (n : Nat) : (s.scramble o).owner n = s.owner n := congrArg (fun t => Table.get t ({} : Owner) n) (hs.trans hs')
    refine ⟨{ (s.scramble o).onOwner o (fun x => { x with loaded := false, root := 0, table := [] }) with
      dev := { s.dev with answer := 1 } }, ?_, rfl, ?_, ?_, State.ctx_scramble s o, hl.trans hl', fun n hn => ?_, fun a ha => ?_⟩
    · show execOwnerKeyUnload o s = _
      unfold execOwnerKeyUnload
      dsimp only
      rw [if_neg (Nat.not_le.2 ho), if_neg h0, if_neg (not_or.2 ⟨(launchBusy_iff s o).not.2 hb, not_not.2 hv⟩)]
    · exact congrArg Owner.loaded (Table.get_set_same _ _ _ _)
    · exact congrArg Owner.root (Table.get_set_same _ _ _ _)
    · exact (Table.get_set_other _ _ _ hn).trans (ho' n)
    · exact (congrArg (Memory.byte · a) hm).trans (State.keyLost_linesLost hw ha).byte
  · refine ⟨Config.freeValue s.free, Config.freeValue (s.free + 1), ?_⟩
    exact if_neg h
  · exact if_pos h

/-! ### The host's accesses (R99, R334) -/

theorem power_eq_two_iff (d : Device) : d.power = 2 ↔ d.tripped = true ∨ d.pwrCur = 2 := by
  unfold Device.power
  cases d.tripped <;> simp

/-- The accesses that the decoders do not expose, as the instructions test for them. -/
theorem not_within_iff (pa n : Nat) :
    (n = 0 ∨ 64 < pa % 64 + n ∨ (!hdmExposed pa n) = true) ↔ ¬(0 < n ∧ pa % 64 + n ≤ 64 ∧ hdmExposed pa n = true) := by
  rw [Bool.not_eq_true', not_and_or, not_and_or, Nat.pos_iff_ne_zero, not_not, Nat.not_le, Bool.not_eq_true]

/-- A line that an engine holds, or whose channel has no slot for the access, keeps it waiting. -/
theorem held_iff (s : State) (cls owner line : Nat) :
    (s.engineHolds line || s.starvesFor cls owner line) = true ↔ s.engineHolds line = true ∨ s.starvesFor cls owner line = true :=
  Bool.or_eq_true_iff

/-- A read of the host, case by case. -/
theorem hostReads {s : State} {dec pa n : Nat} (hdec : dec < 8) :
    let owner := field s.dev.hdmown (8 * dec) 6
    let within : Prop := 0 < n ∧ pa % 64 + n ≤ 64 ∧ hdmExposed pa n = true
    let off : Prop := s.dev.tripped = true ∨ s.dev.pwrCur = 2
    let loaded : Prop := (s.owner owner).loaded = true
    let held : Prop := s.engineHolds (hbmKey pa / 64) = true ∨ s.starvesFor 0 owner (hbmKey pa / 64) = true
    let bad (t : State) : State := { t with dev := { t.dev with hostData := [], hostBad := true } }
    let reads (t : State) : Prop := execHostCxlMemRead dec pa n s = .next t
    (¬ within → reads s) ∧ (within → off ∨ ¬ loaded → reads (bad s)) ∧ (within → ¬ off → loaded → held → reads s)
      ∧ (within → ¬ off → loaded → ¬ held → (s.hostAccess (hbmKey pa) n false = none → reads (bad (s.hostClockOut pa)))
        ∧ ∀ t, s.hostAccess (hbmKey pa) n false = some t → reads { t with dev := { t.dev with
          hostData := t.mem.bytes (hbmKey pa) n, hostBad := t.poison.contains (hbmKey pa / 64) } }) := by
  intro owner within off loaded held bad reads
  have hw : _ ↔ ¬ within := not_within_iff pa n
  have hs : s.dev.power = 2 ∨ (!s.decoderOk dec) = true ↔ off ∨ ¬ loaded := by
    rw [power_eq_two_iff, Bool.not_eq_true', ← Bool.not_eq_true]
    rfl
  have hh : _ ↔ held := held_iff s 0 owner (hbmKey pa / 64)
  show _ ∧ _ ∧ _ ∧ _
  unfold reads execHostCxlMemRead
  rw [if_neg (Nat.not_le.2 hdec)]
  refine ⟨fun h => if_pos (hw.2 h), fun h h' => ?_, fun h ho hl h' => ?_, fun h ho hl h' => ⟨fun e => ?_, fun t e => ?_⟩⟩
  · rw [if_neg (hw.not.2 (not_not.2 h)), if_pos (hs.2 h')]
  · rw [if_neg (hw.not.2 (not_not.2 h)), if_neg (hs.not.2 (not_or.2 ⟨ho, not_not.2 hl⟩)), if_pos (hh.2 h')]
  all_goals rw [if_neg (hw.not.2 (not_not.2 h)), if_neg (hs.not.2 (not_or.2 ⟨ho, not_not.2 hl⟩)), if_neg (hh.not.2 h'), e]

/-- A write of the host, case by case. -/
theorem hostWrites {s : State} {dec pa : Nat} {bs : List Byte} (hdec : dec < 8) :
    let owner := field s.dev.hdmown (8 * dec) 6
    let line := hbmKey pa / 64
    let within : Prop := 0 < bs.length ∧ pa % 64 + bs.length ≤ 64 ∧ hdmExposed pa bs.length = true
    let off : Prop := s.dev.tripped = true ∨ s.dev.pwrCur = 2
    let loaded : Prop := (s.owner owner).loaded = true
    let held : Prop := s.engineHolds line = true ∨ s.starvesFor 1 owner line = true
    let writes (t : State) : Prop := execHostCxlMemWrite dec pa bs s = .next t
    (¬ within → writes s) ∧ (within → off → writes (s.countLife 71 1)) ∧ (within → ¬ off → ¬ loaded → writes s)
      ∧ (within → ¬ off → loaded → held → writes s)
      ∧ (within → ¬ off → loaded → ¬ held → (s.hostAccess (hbmKey pa) bs.length true = none → writes (s.hostClockOut pa))
        ∧ ∀ t, s.hostAccess (hbmKey pa) bs.length true = some t →
          writes ((t.engineWrite line (byteTable (hbmKey pa) bs) owner false).landed line)) := by
  intro owner line within off loaded held writes
  have hw : _ ↔ ¬ within := not_within_iff pa bs.length
  rw [List.length_eq_zero_iff] at hw
  have hp : s.dev.power = 2 ↔ off := power_eq_two_iff s.dev
  have hs : (!s.decoderOk dec) = true ↔ ¬ loaded := by
    rw [Bool.not_eq_true', ← Bool.not_eq_true]
    rfl
  have hh : _ ↔ held := held_iff s 1 owner line
  show _ ∧ _ ∧ _ ∧ _ ∧ _
  unfold writes execHostCxlMemWrite
  rw [if_neg (Nat.not_le.2 hdec)]
  refine ⟨fun h => if_pos (hw.2 h), fun h h' => ?_, fun h ho h' => ?_, fun h ho hl h' => ?_, fun h ho hl h' => ⟨fun e => ?_, fun t e => ?_⟩⟩
  all_goals rw [if_neg (hw.not.2 (not_not.2 h))]
  · rw [if_pos (hp.2 h')]
  · rw [if_neg (hp.not.2 ho), if_pos (hs.2 h')]
  all_goals rw [if_neg (hp.not.2 ho), if_neg (hs.not.2 (not_not.2 hl))]
  · exact if_pos (hh.2 h')
  all_goals exact (if_neg (hh.not.2 h')).trans (by rw [e])

theorem hostMemoryAccesses : HostMemoryAccesses := by
  intro s dec pa n bs hdec key owner off loaded within line held reads writes bad
  obtain ⟨hr1, hr2, hr3, hr4⟩ := hostReads (s := s) (pa := pa) (n := n) hdec
  obtain ⟨hw1, hw2, hw3, hw4, hw5⟩ := hostWrites (s := s) (pa := pa) (bs := bs) hdec
  exact ⟨hr1, hw1, hr2, hw2, hw3, hr3, hw4, hr4, hw5⟩

theorem hostCacheEvents : HostCacheEvents := by
  intro s
  refine ⟨fun pa write => ⟨fun h => if_pos h, fun hpa hl => ?_⟩, fun bs => ⟨fun h => ?_, fun h => ⟨fun hw => ?_, fun w e => ?_⟩⟩⟩
  · have hn : ¬ (space ≤ pa ∨ s.engineHolds (hostKey pa / 64) = true) :=
      not_or.2 ⟨Nat.not_le.2 hpa, Bool.not_eq_true _ ▸ hl⟩
    exact ⟨fun e => (if_neg hn).trans (by rw [e]), fun t e => (if_neg hn).trans (by rw [e])⟩
  · exact ⟨fun e => (if_pos h).trans (by rw [e]), fun line r e => (if_pos h).trans (by rw [e])⟩
  · have e : s.array.find? (fun w => w.chan = 516) = none := List.find?_eq_none.2 fun w hm => by simpa using hw w hm
    exact (if_neg h).trans (by rw [e])
  · exact (if_neg h).trans (by rw [e])

/-- Settles O34: its four parts, boot, the owner services, the host's accesses to memory, and the events of its cache. -/
theorem bootAndHostMemory : Obligations.BootAndHostMemory :=
  ⟨bootEvents, ownerServices, hostMemoryAccesses, hostCacheEvents⟩

end Sys2Proof.Machine
end

section
/-! What stops the part: the events whose operand names a unit that it does not have (R13, log 41). Every other instruction answers a state,
and so does every step whose turn is no event. -/
namespace Sys2Proof.Machine

variable {i : Instr} {s : State} {o o' : Host.Outcome State Fault Refusal} {m c : Prop}

/-! ### Outcomes -/

/-- An outcome that is a state. -/
def Answers (o : Host.Outcome State Fault Refusal) : Prop := ∃ t : State, o = .next t

theorem Answers.next (t : State) : Answers (.next t) := ⟨t, rfl⟩

theorem Answers.ite [Decidable c] (h : Answers o) (h' : Answers o') : Answers (if c then o else o') := by split <;> assumption

/-- An outcome that is the fault `noUnit` where `m` holds, and a state elsewhere. -/
structure StopsIff (m : Prop) (o : Host.Outcome State Fault Refusal) : Prop where
  stops : m → o = .fault .noUnit
  answers : ¬ m → Answers o

theorem StopsIff.never (h : Answers o) (hm : ¬ m := by exact id) : StopsIff m o := ⟨fun h' => absurd h' hm, fun _ => h⟩

theorem StopsIff.guard [Decidable c] (h : Answers o) (hm : m ↔ c := by exact Iff.rfl) : StopsIff m (if c then .fault .noUnit else o) :=
  ⟨fun h' => if_pos (hm.1 h'), fun h' => by rwa [if_neg (hm.not.1 h')]⟩

theorem StopsIff.guardElse {b : Bool} (h : Answers o) (hm : m ↔ (!b) = true := by exact Iff.rfl) :
    StopsIff m (if b then o else .fault .noUnit) := by
  cases b
  · exact ⟨fun _ => rfl, fun h' => absurd (hm.2 rfl) h'⟩
  · exact never h fun h' => Bool.noConfusion (hm.1 h')

/-! ### Events that name a unit which the part does not have -/

/-- Whether an instruction is an event that names a unit which the part does not have (R13). -/
def namesMissing : Instr → Prop
  | .samplerDispatch die | .poolOverflowTransfer die | .caravanDispatch die _ | .gangClose die _ | .conditionEval die | .switchEval die
  | .loopEval die | .importWrite die _ _ _ _ | .joinNode die | .siroccoFrameClose die | .xmPortService die => 4 ≤ die
  | .samplerTimeout die k => 4 ≤ die ∨ 256 ≤ k
  | .gangCompletion die n | .wadiResolve die n => 4 ≤ die ∨ 1024 ≤ n
  | .lgoGo slot | .lgoStop slot | .lgoKill slot | .prectlSuspend slot _ | .prectlResume slot | .successorReady slot | .streamDrive slot
  | .streamDriveComplete slot | .launchEnd slot => Config.slotCount ≤ slot
  | .slotctlCommit n | .slotTableSwitch n | .cgateRequest n _ | .clusterUngateDone n | .hbmSlotService n => Config.clusterCount ≤ n
  | .macroOpAccept cl | .mloadbComplete cl | .maccExecute cl | .scaleFifoTimeout cl | .mreadExecute cl | .msoftExecute cl
  | .mtileMacroOp cl | .matrixNodeRun cl | .splitkContribution cl | .copyNodeDispatch (.copyEngine cl) | .copyComplete cl | .copyStop cl
  | .pageMoveComplete cl => !hasCluster cl
  | .copyEngineTake g | .destArithApply g | .postedWriteApply g | .barrierUpdate g | .wlqEntryDepart g | .wlqEntryAccept g
  | .writeWindowEnd g => !hasCore g
  | .postedWriteAck g n | .postedWriteRefusal g n => !(hasCore g && decide (n < 32))
  | .nwaitTimeout g | .siroccoRecordCopy g => !hasContext g 0
  | .yieldExpire g k | .fetchBlockFill g k _ | .asyncTrapDelivery g k | .preemptPoint g k | .contextSaved g k | .contextResume g k
  | .batchComplete g k | .remoteAck g k | .remoteLocalLoad g k _ _ => !hasContext g k
  | .queueDeadlock g n => !hasContext g 0 || decide (6 ≤ n)
  | .regcacheRefill g k n => !hasContext g k || decide (512 ≤ n)
  | .hostCxlMemRead dec _ _ | .hostCxlMemWrite dec _ _ => 8 ≤ dec
  | .ownerKeyLoad n _ | .ownerKeyUnload n | .syncBarrierComplete n | .exchangeSlotBegin n | .exchangePhaseEnd n | .xsendDeliver n => 64 ≤ n
  | .nmcExecute st | .nmcStop st | .copyNodeDispatch (.nearMem st) => 8 ≤ st
  | .xanwellUndefinedFlit port _ => 6 ≤ port
  | .linkTraining port _ _ => 11 ≤ port
  | .storageError site _ _ => !siteOk site
  | .unitMachineCheck unit _ => !unitExists unit
  | _ => False

/-- No instruction of the cores or the sampler names a unit. -/
theorem spec_micro_of_namesMissing (h : namesMissing i) : i.spec = none ∧ i.micro? = none := by
  unfold namesMissing at h
  split at h
  pick_goal -1
  · exact h.elim
  all_goals exact ⟨rfl, rfl⟩

/-! ### Instructions of the cores and the sampler -/

theorem exec_answers_of_spec (h : i.spec.isSome = true) : Answers (exec i s) :=
  let ⟨t, e, _⟩ := (exec_steady (C := True) (τ := s) h).cases
  ⟨t, e⟩

theorem micro_answers {body : SmpCtx → Sampler → MicroGot} : Answers (micro body s) := by
  unfold micro
  dsimp only
  split
  · exact .next _
  · refine .ite (.next _) ?_
    split <;> exact .next _

theorem toReg_answers {x : MicroFields} {v : SmpCtx → Lane} : Answers (toReg x v s) := micro_answers

theorem microBranch_answers {opc : BitVec 8} {x : MicroFields} {go : SmpCtx → SmpCtx × Bool} : Answers (microBranch opc x go s) :=
  micro_answers

theorem exec_answers_of_micro (h : i.micro?.isSome = true) : Answers (exec i s) := by
  cases i with
  | smpMov x => exact (toReg_answers : Answers (execSmpMov x s))
  | smpLdi x => exact (toReg_answers : Answers (execSmpLdi x s))
  | smpAdd x => exact (toReg_answers : Answers (execSmpAdd x s))
  | smpSub x => exact (toReg_answers : Answers (execSmpSub x s))
  | smpMul x => exact (toReg_answers : Answers (execSmpMul x s))
  | smpFadd x => exact (toReg_answers : Answers (execSmpFadd x s))
  | smpFmul x => exact (toReg_answers : Answers (execSmpFmul x s))
  | smpFexp x => exact (toReg_answers : Answers (execSmpFexp x s))
  | smpFmax x => exact (toReg_answers : Answers (execSmpFmax x s))
  | smpCmp x => exact (toReg_answers : Answers (execSmpCmp x s))
  | smpBr x => exact (microBranch_answers : Answers (execSmpBr x s))
  | smpBrc x => exact (microBranch_answers : Answers (execSmpBrc x s))
  | smpLoop x => exact (microBranch_answers : Answers (execSmpLoop x s))
  | smpCld x => exact (micro_answers : Answers (execSmpCld x s))
  | smpCst x => exact (micro_answers : Answers (execSmpCst x s))
  | smpCsortk x => exact (micro_answers : Answers (execSmpCsortk x s))
  | smpCscan x => exact (micro_answers : Answers (execSmpCscan x s))
  | smpCsel x => exact (micro_answers : Answers (execSmpCsel x s))
  | smpRng x => exact (micro_answers : Answers (execSmpRng x s))
  | smpCtrset x => exact (micro_answers : Answers (execSmpCtrset x s))
  | smpCtrget x => exact (toReg_answers : Answers (execSmpCtrget x s))
  | smpEmit x => exact (micro_answers : Answers (execSmpEmit x s))
  | smpHalt x => exact (micro_answers : Answers (execSmpHalt x s))
  | smpFault x => exact (micro_answers : Answers (execSmpFault x s))
  | _ => cases h

/-! ### Events -/

theorem execEvent_stopsIff (h : i.isEvent = true) : StopsIff (namesMissing i) (exec i s) := by
  cases i with
  | lgoGo | lgoStop | lgoKill | prectlSuspend | slotctlCommit | slotTableSwitch | cgateRequest | gangClose | preemptPoint
  | contextSaved | contextResume | hbmSlotService | nmcExecute | nmcStop | syncBarrierComplete | exchangeSlotBegin | exchangePhaseEnd
  | xanwellUndefinedFlit | siroccoRecordCopy | siroccoFrameClose | storageError | xmPortService | linkTraining | unitMachineCheck =>
    exact .guard (.next _)
  | prectlResume | clusterUngateDone | ownerKeyLoad | streamDrive | launchEnd | asyncTrapDelivery | batchComplete | wadiResolve =>
    exact .guard (.ite (.next _) (.next _))
  | samplerTimeout | caravanDispatch | gangCompletion | conditionEval | switchEval | yieldExpire | queueDeadlock | xsendDeliver
  | joinNode => exact .guard (by split <;> exact .next _)
  | ownerKeyUnload | regcacheRefill => exact .guard (.ite (.next _) (.ite (.next _) (.next _)))
  | wlqEntryDepart | writeWindowEnd | remoteAck | macroOpAccept | mloadbComplete | maccExecute | scaleFifoTimeout | mreadExecute
  | msoftExecute | mtileMacroOp | matrixNodeRun | copyEngineTake | copyComplete | copyStop | destArithApply | postedWriteApply
  | postedWriteAck | postedWriteRefusal | remoteLocalLoad => exact .guardElse (.next _)
  | wlqEntryAccept | pageMoveComplete | barrierUpdate => exact .guardElse (by split <;> exact .next _)
  | moduleReset | xlresolve | clkrst | pwrctlTarget | mbcmdReadCounters | xanwellGet | xanwellData | xanwellAck | thermalWarn
  | thermalTrip | flashCounterUpdate | issueGovernorToken | powerLoss => exact .never (.next _)
  | powerTransitionDone | attestationRequest | lineRecall | xanwellOpen => exact .never (.ite (.next _) (.next _))
  | firmwareImageInstall | registerWrite | linkMapSnapshot => exact .never (.ite (.next _) (.ite (.next _) (.next _)))
  | fetchBlockFill | importWrite =>
    refine .guard (.ite (.next _) ?_)
    split <;> exact .next _
  | hostCxlMemRead =>
    refine .guard (.ite (.next _) (.ite (.next _) (.ite (.next _) ?_)))
    split <;> exact .next _
  | hostCxlMemWrite =>
    refine .guard (.ite (.next _) (.ite (.next _) (.ite (.next _) (.ite (.next _) ?_))))
    split <;> exact .next _
  | splitkContribution =>
    refine .guardElse ?_
    split
    · exact .next _
    · dsimp only
      split
      · exact .next _
      · exact .ite (.next _) (.next _)
  | cxlCacheSnoop | homeLoad | homeStore | xanwellPut =>
    refine .never (.ite (.next _) ?_)
    split <;> exact .next _
  | samplerDispatch =>
    refine .guard ?_
    split
    · exact .next _
    · split <;> exact .next _
  | poolOverflowTransfer | loopEval =>
    refine .guard ?_
    split
    · exact .next _
    · exact .ite (.next _) (.next _)
  | cxlCacheResponse =>
    refine .never (.ite ?_ ?_)
    · split <;> exact .next _
    · split <;> exact .next _
  | successorReady =>
    refine .guard ?_
    split
    · exact .next _
    · exact .ite (.next _) (.ite (.next _) (.next _))
  | pageWalk =>
    refine .never (.ite (.next _) ?_)
    split
    · exact .next _
    · exact .next _
    · split <;> exact .next _
  | nwaitTimeout =>
    refine .guard ?_
    split
    · exact .next _
    · split
      · exact .next _
      · exact .ite (.next _) (.next _)
  | streamDriveComplete =>
    refine .guard ?_
    split
    · exact .next _
    · refine .ite (.next _) ?_
      dsimp only
      split <;> exact .next _
  | copyNodeDispatch unit =>
    cases unit with
    | copyEngine => exact .guard (by split <;> exact .next _)
    | nearMem => exact .guard (by split <;> exact .next _)
  | xanwellPage flit =>
    refine .never (o := execXanwellPage flit s) ?_
    unfold execXanwellPage
    split <;> exact .next _
  | xanwellQueue flit =>
    refine .never (o := execXanwellQueue flit s) ?_
    unfold execXanwellQueue
    split
    · refine .ite (.next _) ?_
      dsimp only
      split <;> exact .next _
    · exact .next _
  | xanwellClose flit =>
    refine .never (o := execXanwellClose flit s) ?_
    unfold execXanwellClose
    split
    · exact .ite (.next _) (.next _)
    · exact .next _
  | xanwellResult flit =>
    refine .never (o := execXanwellResult flit s) ?_
    unfold execXanwellResult
    split <;> exact .next _
  | xanwellLinkFailure transfer =>
    refine .never (o := execXanwellLinkFailure transfer s) ?_
    unfold execXanwellLinkFailure
    split <;> exact .next _
  | _ => cases h

/-- An instruction stops exactly where it names a unit that the part does not have, whatever the part's state is. -/
theorem exec_stopsIff : StopsIff (namesMissing i) (exec i s) := by
  by_cases hs : i.spec.isSome = true
  · exact .never (exec_answers_of_spec hs) fun h => by rw [(spec_micro_of_namesMissing h).1] at hs; cases hs
  · by_cases hm : i.micro?.isSome = true
    · exact .never (exec_answers_of_micro hm) fun h => by rw [(spec_micro_of_namesMissing h).2] at hm; cases hm
    · exact execEvent_stopsIff (by simp_all [Instr.isEvent])

/-! ### Steps -/

/-- Only instructions of the cores decode. -/
theorem spec_of_decode {bs : List Byte} {n : Nat} (h : decode bs = .ok (i, n)) : i.spec.isSome = true := by
  unfold decode decodeWords at h
  split at h
  · cases h
  · dsimp only at h
    split at h
    · cases h
    · split at h
      · cases h
      · split at h
        · cases h
        · rename_i hs
          split at h
          · split at h
            · cases h
              exact hs ▸ rfl
            · cases h
          · cases h

theorem micro_of_microOf {opc : BitVec 8} {x : MicroFields} (h : microOf opc x = some i) : i.micro?.isSome = true := by
  unfold microOf at h
  split at h
  all_goals cases h
  all_goals rfl

/-- Only micro-instructions decode for a sampler. -/
theorem micro_of_decodeMicro {w : Lane} (h : decodeMicro w = some i) : i.micro?.isSome = true := by
  unfold decodeMicro at h
  split at h
  · rename_i hi
    split at h
    · cases h
      exact micro_of_microOf hi
    · cases h
  · cases h

theorem resend_answers {g k clk : Nat} (h : Answers o) : Answers (resend g k clk i o) := by
  unfold resend
  split
  · split
    · split
      · exact exec_answers_of_spec rfl
      · exact h
    · exact h
  · exact h

theorem issueFetched_answers {g k : Nat} {f : Fetched} : Answers (issueFetched s g k f) := by
  unfold issueFetched
  dsimp only
  split
  · exact .next _
  · exact .next _
  · exact .next _
  · split
    · rename_i h
      exact resend_answers (exec_answers_of_spec (spec_of_decode h))
    · exact .next _

theorem issueAt_answers {g k : Nat} : Answers (issueAt s g k) := .ite (.next _) issueFetched_answers

theorem contextTurn_answers {g k : Nat} : Answers (contextTurn s g k) := by
  refine .ite (.next _) (.ite issueAt_answers ?_)
  split
  · exact .next _
  · split
    · exact .ite (.next _) issueAt_answers
    · exact issueAt_answers

theorem frontTurn_answers {g : Nat} {fe : FE} {late : List Nat} : Answers (frontTurn s g fe late) := by
  unfold frontTurn
  split
  · exact contextTurn_answers
  · exact .next _

theorem waitTurn_answers {g k : Nat} : Answers (waitTurn s g k) := .ite contextTurn_answers (.next _)

theorem ownTurn_answers {g k : Nat} : Answers (ownTurn s g k) := .ite contextTurn_answers frontTurn_answers

theorem microTurn_answers {die : Nat} {late : List Nat} : Answers (microTurn exec die late s) := by
  unfold microTurn
  split
  · unfold microStep
    split
    · exact .next _
    · refine .ite (.next _) ?_
      split
      · rename_i h
        exact exec_answers_of_micro (micro_of_decodeMicro h)
      · exact .next _
  · exact .next _

/-- A turn answers a state, or it is that of an event which names a missing unit. -/
theorem turn_cases (s : State) : Answers (turn s) ∨
    turn s = .fault .noUnit ∧ ∃ i : Instr, s.agenda.head? = some (.event i) ∧ namesMissing i := by
  unfold turn
  split
  · exact .inl ownTurn_answers
  · rename_i ha
    dsimp only
    split
    · exact .inl frontTurn_answers
    · exact .inl waitTurn_answers
    · exact .inl microTurn_answers
    · rename_i i
      split
      · by_cases hm : namesMissing i
        · exact .inr ⟨exec_stopsIff.stops hm, i, by rw [ha]; rfl, hm⟩
        · exact .inl (exec_stopsIff.answers hm)
      · exact .inl (.next _)
    · exact .inl (.next _)
    · exact .inl (.next _)

/-- A step answers a state, or its turn is that of an event which names a missing unit. -/
theorem step_cases (s : State) : Answers (step s) ∨
    step s = .fault .noUnit ∧ ∃ i : Instr, s.agenda.head? = some (.event i) ∧ namesMissing i := by
  unfold step
  obtain ⟨t, e⟩ | ⟨e, hi⟩ := turn_cases s
  · exact .inl ⟨t.settleTurn, by rw [e]⟩
  · exact .inr ⟨by rw [e], hi⟩

/-- An instruction that stops names a missing unit, and `noUnit` is the fault. -/
theorem namesMissing_of_exec_fault {f : Fault} (h : exec i s = .fault f) : namesMissing i ∧ f = .noUnit := by
  by_cases hm : namesMissing i
  · cases h.symm.trans (exec_stopsIff.stops hm)
    exact ⟨hm, rfl⟩
  · obtain ⟨t, e⟩ := (exec_stopsIff (s := s)).answers hm
    cases h.symm.trans e

/-- Settles O53: what a step can do is `step_cases`, and where an instruction stops is `exec_stopsIff`, whose condition names no state. R13
gives the numbers of the units; that an event past them stops the part is the model's choice (log 41). -/
theorem stepsNeverStop : Obligations.StepsNeverStop := by
  intro s
  refine ⟨fun r h => ?_, fun hn => ?_, fun i f h => ?_⟩
  · obtain ⟨t, e⟩ | ⟨e, -⟩ := step_cases s
    · cases h.symm.trans e
    · cases h.symm.trans e
  · obtain ha | ⟨-, i, hi, -⟩ := step_cases s
    · exact ha
    · exact absurd hi (hn i)
  · obtain ⟨hm, rfl⟩ := namesMissing_of_exec_fault h
    obtain ⟨hs, hu⟩ := spec_micro_of_namesMissing hm
    exact ⟨by rw [hs]; rfl, by rw [hu]; rfl, fun t => exec_stopsIff.stops hm⟩

end Sys2Proof.Machine
end

section
/-! The matrix engine's events: its queues and its buckets, the operation at the head of its compute queue, and what a slab adds to a
tile. -/
namespace Sys2Proof.Machine

/-! ### Events that name a cluster -/

theorem hasCluster_of_lt {cl : Nat} (h : cl < 512) : hasCluster cl = true := decide_eq_true h

section Events
variable {cl : Nat} (h : cl < 512) (s : State)
include h

theorem exec_macroOpAccept : exec (.macroOpAccept cl) s = .next (s.onEngine cl (·.acceptOne)) := if_pos (hasCluster_of_lt h)

theorem exec_mloadbComplete : exec (.mloadbComplete cl) s = .next (s.onEngine cl (·.runLoad)) := if_pos (hasCluster_of_lt h)

theorem exec_maccExecute : exec (.maccExecute cl) s = .next (s.runMacc cl) := if_pos (hasCluster_of_lt h)

theorem exec_scaleFifoTimeout : exec (.scaleFifoTimeout cl) s = .next (s.onEngine cl (·.timeout s.clk)) := if_pos (hasCluster_of_lt h)

theorem exec_mreadExecute : exec (.mreadExecute cl) s = .next (s.runMread cl) := if_pos (hasCluster_of_lt h)

theorem exec_msoftExecute : exec (.msoftExecute cl) s = .next (s.runMsoft cl) := if_pos (hasCluster_of_lt h)

theorem exec_mtileMacroOp : exec (.mtileMacroOp cl) s = .next (s.onEngine cl (·.runTile)) := if_pos (hasCluster_of_lt h)

end Events

/-- What a change of an engine gives depends on it at the engine's present state only. -/
theorem State.next_onEngine {s : State} {cl : Nat} {f : MatrixEngine → MatrixEngine} {x : MatrixEngine} (h : f (s.engine cl) = x) :
    (Host.Outcome.next (s.onEngine cl f) : Host.Outcome State Fault Refusal) = .next (s.onEngine cl fun _ => x) := by
  unfold State.onEngine
  rw [h]

section Engine
variable {e : MatrixEngine} {o : MacroOp} {r : List MacroOp}

/-! ### The queues (R252, R258) -/

theorem MacroOp.before_iff {a b : MacroOp} : a.before b = true ↔ a.core < b.core ∨ (a.core = b.core ∧ a.ctx < b.ctx) := by
  simp [MacroOp.before]

/-- The next offer is the first of the lowest core and context. -/
theorem MatrixEngine.nextOffer_eq {pre post : List MacroOp} (h : e.offered = pre ++ o :: post)
    (hpre : ∀ x ∈ pre, o.before x = true) (hpost : ∀ x ∈ post, ¬ x.before o = true) : e.nextOffer = some o := by
  have keep : post.foldl (fun b x => if x.before b then x else b) o = o :=
    List.foldlRecOn (motive := (· = o)) post _ rfl fun b hb x hx => by rw [hb, if_neg (hpost x hx)]
  unfold MatrixEngine.nextOffer
  rw [h]
  cases pre with
  | nil => exact congrArg some keep
  | cons x xs =>
    have lower : o.before (xs.foldl (fun b x => if x.before b then x else b) x) = true := by
      refine List.foldlRecOn (motive := fun y => o.before y = true) xs _ (hpre x List.mem_cons_self) fun b hb y hy => ?_
      split
      · exact hpre y (List.mem_cons_of_mem x hy)
      · exact hb
    dsimp only [List.cons_append]
    rw [List.foldl_append, List.foldl_cons, if_pos lower, keep]

theorem MatrixEngine.acceptOne_nil (h : e.offered = []) : e.acceptOne = e := by
  unfold MatrixEngine.acceptOne MatrixEngine.nextOffer
  rw [h]

theorem MatrixEngine.acceptOne_eq {pre post : List MacroOp} (h : e.offered = pre ++ o :: post)
    (hpre : ∀ x ∈ pre, o.before x = true) (hpost : ∀ x ∈ post, ¬ x.before o = true) :
    let n : MacroOp := { o with seq := e.seq + 1 }
    let e1 := { e with offered := pre ++ post, seq := e.seq + 1 }
    e.acceptOne = if o.kind.isLoad then { e1 with loads := e.loads ++ [n] } else { e1 with computes := e.computes ++ [n] } := by
  have hnot : o ∉ pre := fun hm => by
    have := MacroOp.before_iff.1 (hpre o hm)
    omega
  have herase : e.offered.erase o = pre ++ post := by
    rw [h, List.erase_append_right _ hnot, List.erase_cons_head]
  unfold MatrixEngine.acceptOne
  rw [MatrixEngine.nextOffer_eq h hpre hpost]
  dsimp only
  rw [herase]

theorem earlierOn_iff {ops : List MacroOp} {seq buf : Nat} :
    earlierOn ops seq buf = true ↔ ∃ c ∈ ops, c.seq < seq ∧ c.kind.buffer = some buf := by
  simp [earlierOn]

theorem MatrixEngine.runLoad_nil (h : e.loads = []) : e.runLoad = e := by
  unfold MatrixEngine.runLoad
  rw [h]

theorem MatrixEngine.runLoad_load {b : Nat} {elems : List Int} {bad : Bool} (h : e.loads = o :: r) (hk : o.kind = .load b elems bad) :
    e.runLoad = if earlierOn e.computes o.seq b then e
      else { e with loads := r, bufs := e.bufs.set b { e.bufs.get {} b with loaded := true, elems := elems, poison := bad } } := by
  unfold MatrixEngine.runLoad
  rw [h]
  dsimp only
  rw [hk]

/-! ### The buckets (R255, R263) -/

theorem MatrixEngine.refill_of_idle {n clk : Nat} (h : e.govWait = none) :
    e.refill n clk = { e with bucket := min 65536 (e.bucket + n) } := by
  unfold MatrixEngine.refill
  dsimp only
  rw [h]

theorem MatrixEngine.refill_of_waiting {n clk c left : Nat} (h : e.govWait = some (c, left)) :
    let y := { e with bucket := min 65536 (e.bucket + n) }
    e.refill n clk = if y.bucket < 256 then y else { y with
      bucket := y.bucket - 256, paid := y.paid + 1, gov := y.gov + BitVec.ofNat 64 (clk - c),
      govWait := if left ≤ 1 then none else some (clk + 1, left - 1) } := by
  unfold MatrixEngine.refill
  dsimp only
  rw [h]

theorem find_refilled (m : Table MatrixEngine) (cl n clk : Nat) :
    Table.find (m.map fun (x : Nat × MatrixEngine) => (x.1, x.2.refill n clk)) cl = (Table.find m cl).map (·.refill n clk) :=
  Table.find_map (·.refill n clk) m cl

theorem matrixQueues : MatrixQueues := by
  intro s cl hcl e leaves
  refine ⟨fun h => ?_, fun pre post o h hpre hpost => ?_, fun h => ?_, fun o r b elems bad h hk => ?_, ?_⟩
  · exact (exec_macroOpAccept hcl s).trans (State.next_onEngine (MatrixEngine.acceptOne_nil h))
  · have hx := MatrixEngine.acceptOne_eq h (fun x hx => MacroOp.before_iff.2 (hpre x hx)) fun x hx hb => by
      have := hpost x hx
      have := MacroOp.before_iff.1 hb
      omega
    refine ⟨fun hl => ?_, fun hl => ?_⟩
    · exact (exec_macroOpAccept hcl s).trans (State.next_onEngine (hx.trans (if_pos hl)))
    · exact (exec_macroOpAccept hcl s).trans (State.next_onEngine (hx.trans (if_neg (by simp [hl]))))
  · exact (exec_mloadbComplete hcl s).trans (State.next_onEngine (MatrixEngine.runLoad_nil h))
  · have hx := MatrixEngine.runLoad_load h hk
    refine ⟨fun hn => ?_, fun hn => ?_⟩
    · exact (exec_mloadbComplete hcl s).trans (State.next_onEngine (hx.trans (if_pos (earlierOn_iff.2 hn))))
    · exact (exec_mloadbComplete hcl s).trans (State.next_onEngine (hx.trans (if_neg (mt earlierOn_iff.1 hn))))
  · refine ⟨_, rfl, rfl, fun h => ?_, fun x hx => ⟨fun hw => ?_, fun c left hw => ⟨fun hb => ?_, fun hb => ?_⟩⟩⟩
    · exact (find_refilled ..).trans (by rw [h]; rfl)
    · exact (find_refilled ..).trans (by rw [hx, Option.map_some, MatrixEngine.refill_of_idle hw])
    · exact (find_refilled ..).trans (by rw [hx, Option.map_some, MatrixEngine.refill_of_waiting hw, if_pos hb])
    · exact (find_refilled ..).trans (by rw [hx, Option.map_some, MatrixEngine.refill_of_waiting hw, if_neg (Nat.not_lt.2 hb)])

/-! ### Operations of tiles (R257, R259) -/

theorem MatrixEngine.runTile_nil (h : e.computes = []) : e.runTile = e := by
  unfold MatrixEngine.runTile
  rw [h]

theorem MatrixEngine.runTile_openTile {t a b : Nat} {rows : BitVec 32} (h : e.computes = o :: r) (hk : o.kind = .openTile t a b rows) :
    e.runTile = (e.onTile t (fun y => { y with
      fifo := [],
      img := { pairs := [], sigA := a, sigB := b, rows := rows, ovf := false }, errc := 0, smask := false, masked := 0 })).pop t := by
  simp only [MatrixEngine.runTile, h, hk]

theorem MatrixEngine.runTile_save {t slot : Nat} {tag : Word} (h : e.computes = o :: r) (hk : o.kind = .save t slot tag) :
    e.runTile = ({ e with slots := e.slots.set slot { img := (e.tile t).img, tag := tag, owner := o.owner } } : MatrixEngine).pop t := by
  simp only [MatrixEngine.runTile, h, hk]

theorem MatrixEngine.runTile_restore_some {t slot : Nat} {c : CkSlot} (h : e.computes = o :: r) (hk : o.kind = .restore t slot)
    (hc : e.slots.find slot = some c) : e.runTile = (e.onTile t (fun y => { y with img := c.img })).pop t := by
  simp only [MatrixEngine.runTile, h, hk, hc]

theorem MatrixEngine.runTile_restore_none {t slot : Nat} (h : e.computes = o :: r) (hk : o.kind = .restore t slot)
    (hc : e.slots.find slot = none) : e.runTile = e.pop t := by
  simp only [MatrixEngine.runTile, h, hk, hc]

theorem MatrixEngine.runTile_close {t : Nat} (h : e.computes = o :: r) (hk : o.kind = .close t) : e.runTile = (e.closeTile t).pop t := by
  simp only [MatrixEngine.runTile, h, hk]

theorem MatrixEngine.timeout_nil {clk : Nat} (h : e.computes = []) : e.timeout clk = e := by
  unfold MatrixEngine.timeout
  rw [h]

section Macc
variable {t buf j : Nat} {pan : Panel} (h : e.computes = o :: r) (hk : o.kind = .macc t buf pan j)
include h hk

theorem MatrixEngine.timeout_of_fresh {clk : Nat} (hs : o.since = none) : e.timeout clk = e := by
  simp only [MatrixEngine.timeout, h, hk, hs]

theorem MatrixEngine.timeout_of_since {clk c : Nat} (hs : o.since = some c) :
    e.timeout clk = if (e.tile t).fifo = [] ∧ c + 1048576 ≤ clk then (e.onTile t (fun y => { y with errc := 2 })).pop t else e := by
  simp only [MatrixEngine.timeout, h, hk, hs]

end Macc

/-- An engine that lacks tokens spends all whole ones. -/
theorem MatrixEngine.lackTokens_eq (p clk : Nat) : e.lackTokens p clk = { e with
    bucket := e.bucket % 256, paid := e.paid + e.bucket / 256,
    govWait := some ((e.govWait.map (·.1)).getD clk, p - e.paid - e.bucket / 256) } := by
  unfold MatrixEngine.lackTokens
  rw [Nat.mod_eq_sub]

theorem MatrixEngine.spend_of_lt {p clk : Nat} (hb : e.bucket < 256 * (p - e.paid)) : e.spend p clk = none := if_pos hb

theorem MatrixEngine.spend_of_le {p clk : Nat} (hb : 256 * (p - e.paid) ≤ e.bucket) :
    e.spend p clk = some { e.govStop clk with bucket := e.bucket - 256 * (p - e.paid), paid := 0 } := if_neg (Nat.not_lt.2 hb)

end Engine

/-! ### The MACC, MREAD and MSOFT at the head of the queue (R259, R261, R264) -/

section Head
variable {s : State} {cl : Nat} {o : MacroOp} {r : List MacroOp}

theorem State.runMacc_nil (h : (s.engine cl).computes = []) : s.runMacc cl = s := by
  unfold State.runMacc
  dsimp only
  rw [h]

theorem State.runMread_nil (h : (s.engine cl).computes = []) : s.runMread cl = s := by
  unfold State.runMread
  rw [h]

theorem State.runMsoft_nil (h : (s.engine cl).computes = []) : s.runMsoft cl = s := by
  unfold State.runMsoft
  rw [h]

variable (h : (s.engine cl).computes = o :: r)
include h

theorem State.runMread_pln {t j : Nat} {pan : Panel} {clr cls : Bool} (hk : o.kind = .mreadPln t pan j clr cls) :
    s.runMread cl = (s.writeRecords cl t o.core o.owner pan j).onEngine cl (fun e => (e.afterRead t clr cls).pop t) := by
  unfold State.runMread
  rw [h]
  dsimp only
  rw [hk]

theorem State.runMread_rows {t ty la st : Nat} {clr cls : Bool} (hk : o.kind = .mread t ty la st clr cls) :
    s.runMread cl = (s.writeRows cl t o.core o.owner ty la st).onEngine cl (fun e => (e.afterRead t clr cls).pop t) := by
  unfold State.runMread
  rw [h]
  dsimp only
  rw [hk]

theorem State.runMsoft_eq {t ty la st tau : Nat} {keys : Word} {diag : Option Int} (hk : o.kind = .msoft t ty la st tau keys diag) :
    let rows := (rowsOf ((s.engine cl).tile t).img.rows).map (fun i => (i, ((s.engine cl).tile t).img.softRow ty tau keys diag i))
    let masked := (rows.filter (fun r => r.2.2.2)).foldl (fun a r => a + 2 ^ r.1) 0
    s.runMsoft cl = (rows.foldl (fun (u : State) r =>
      (u.enginePut o.core o.owner (la + r.1 * st) r.2.1).enginePut o.core o.owner (la + 32 * st + 8 * r.1) r.2.2.1) s).onEngine cl
        (fun e => (e.onTile t (fun y => { y with masked := BitVec.ofNat 32 masked, smask := decide (masked ≠ 0) })).pop t) := by
  unfold State.runMsoft
  rw [h]
  dsimp only
  rw [hk]

section Macc
variable {t buf j : Nat} {pan : Panel} (hk : o.kind = .macc t buf pan j)
include hk

theorem State.runMacc_of_loading (hl : earlierOn (s.engine cl).loads o.seq buf = true) : s.runMacc cl = s := by
  simp only [State.runMacc, h, hk, hl, if_true]

variable (hl : ¬ earlierOn (s.engine cl).loads o.seq buf = true)
include hl

theorem State.runMacc_of_noRecord (hf : ((s.engine cl).tile t).fifo = []) :
    s.runMacc cl = s.onEngine cl (·.setHead { o with since := some (o.since.getD s.clk) }) := by
  simp only [State.runMacc, h, hk, if_neg hl, hf]

variable {x : ScaleRec} {xs : List ScaleRec} (hf : ((s.engine cl).tile t).fifo = x :: xs)
include hf

theorem State.runMacc_of_lacking (hb : (s.engine cl).bucket < 256 * (pan.p - (s.engine cl).paid)) :
    s.runMacc cl = s.onEngine cl (·.lackTokens pan.p s.clk) := by
  simp only [State.runMacc, h, hk, if_neg hl, hf, MatrixEngine.spend_of_lt hb]

theorem State.runMacc_of_paid (hb : 256 * (pan.p - (s.engine cl).paid) ≤ (s.engine cl).bucket) :
    let e := s.engine cl
    let e1 := ({ e.govStop s.clk with bucket := e.bucket - 256 * (pan.p - e.paid), paid := 0 } : MatrixEngine).onTile t
      (fun y => { y with fifo := xs })
    s.runMacc cl = ((s.onEngine cl (fun _ => e1)).addSlab cl t buf o.core o.owner pan j x).onEngine cl (·.pop t) := by
  simp only [State.runMacc, h, hk, if_neg hl, hf, MatrixEngine.spend_of_le hb]

end Macc
end Head

theorem MatrixEngine.setHead_cons {e : MatrixEngine} {o : MacroOp} {r : List MacroOp} (h : e.computes = o :: r) (n : MacroOp) :
    e.setHead n = { e with computes := n :: r } := by
  unfold MatrixEngine.setHead
  rw [h]
  rfl

theorem matrixOperations : MatrixOperations := by
  intro s cl hcl e leaves
  have tile {x : MatrixEngine} (hx : e.runTile = x) : leaves (.mtileMacroOp cl) x :=
    (exec_mtileMacroOp hcl s).trans (State.next_onEngine hx)
  have timeout {x : MatrixEngine} (hx : e.timeout s.clk = x) : leaves (.scaleFifoTimeout cl) x :=
    (exec_scaleFifoTimeout hcl s).trans (State.next_onEngine (f := (·.timeout s.clk)) hx)
  have macc {u : State} (hu : s.runMacc cl = u) : exec (.maccExecute cl) s = .next u := hu ▸ exec_maccExecute hcl s
  have mread {u : State} (hu : s.runMread cl = u) : exec (.mreadExecute cl) s = .next u := hu ▸ exec_mreadExecute hcl s
  have msoft {u : State} (hu : s.runMsoft cl = u) : exec (.msoftExecute cl) s = .next u := hu ▸ exec_msoftExecute hcl s
  refine ⟨fun h => ⟨tile (MatrixEngine.runTile_nil h), timeout (MatrixEngine.timeout_nil h), fun i hi => ?_⟩, fun o r h =>
    ⟨fun t buf j pan hk => ⟨fun hl => ?_, fun hl hf => ?_, fun x xs hl hf => ⟨fun hb => ?_, fun hb => ?_⟩,
        fun c hs => ⟨fun hf hc => ?_, fun hn => ?_⟩, fun hs => timeout (MatrixEngine.timeout_of_fresh h hk hs)⟩,
      fun t a b rows hk => tile (MatrixEngine.runTile_openTile h hk),
      fun t slot tag hk => tile (MatrixEngine.runTile_save h hk),
      fun t slot hk => ⟨fun c hc => tile (MatrixEngine.runTile_restore_some h hk hc),
        fun hc => tile (MatrixEngine.runTile_restore_none h hk hc)⟩,
      fun t hk => tile (MatrixEngine.runTile_close h hk),
      fun t j pan clr cls hk => mread (State.runMread_pln h hk),
      fun t ty la st clr cls hk => mread (State.runMread_rows h hk),
      fun t ty la st tau keys diag hk => msoft (State.runMsoft_eq h hk)⟩⟩
  · simp only [List.mem_cons, List.not_mem_nil, or_false] at hi
    obtain rfl | rfl | rfl := hi
    · exact macc (State.runMacc_nil h)
    · exact mread (State.runMread_nil h)
    · exact msoft (State.runMsoft_nil h)
  · exact macc (State.runMacc_of_loading h hk (earlierOn_iff.2 hl))
  · exact (macc (State.runMacc_of_noRecord h hk (mt earlierOn_iff.1 hl) hf)).trans
      (State.next_onEngine (MatrixEngine.setHead_cons h _))
  · exact (macc (State.runMacc_of_lacking h hk (mt earlierOn_iff.1 hl) hf hb)).trans
      (State.next_onEngine (MatrixEngine.lackTokens_eq ..))
  · exact macc (State.runMacc_of_paid h hk (mt earlierOn_iff.1 hl) hf hb)
  · exact timeout ((MatrixEngine.timeout_of_since h hk hs).trans (if_pos ⟨hf, hc⟩))
  · exact timeout ((MatrixEngine.timeout_of_since h hk hs).trans (if_neg fun hc => hn.elim (absurd hc.1) (Nat.not_lt.2 hc.2)))

/-! ### The terms of a slab (R39, R41, R259) -/

/-- A term of a column: the sum over k of the row's element and the column's (R39). -/
theorem dotTerm_column {row elems : List Int} {c : Nat} (hr : row.length = 64) (he : elems.length = 4096) (hc : c < 64) :
    dotTerm row ((elems.drop (64 * c)).take 64)
      = ((List.range 64).map (fun k => row.getD k 0 * elems.getD (64 * c + k) 0)).sum := by
  unfold dotTerm
  rw [← List.sum_eq_foldl]
  refine congrArg List.sum (List.ext_getElem ?_ fun k h1 h2 => ?_)
  · simp only [List.length_zipWith, List.length_take, List.length_drop, List.length_map, List.length_range]
    omega
  · rw [List.length_map, List.length_range] at h2
    rw [List.getElem_zipWith, List.getElem_take, List.getElem_drop, List.getElem_map, List.getElem_range,
      List.getD_eq_getElem row 0 (by omega), List.getD_eq_getElem elems 0 (by omega)]

section Terms
variable (t : TileImage) {i n : Nat} {x y : Int}

theorem TileImage.get_addTerm_same : (t.addTerm i x y).pairs.get accClear i
    = if x = 0 then t.pairs.get accClear i else (accAdd (t.pairs.get accClear i) x y).1 := by
  unfold TileImage.addTerm
  split
  · rfl
  · exact Table.get_set_same ..

theorem TileImage.get_addTerm_other (h : n ≠ i) : (t.addTerm i x y).pairs.get accClear n = t.pairs.get accClear n := by
  unfold TileImage.addTerm
  split
  · rfl
  · exact Table.get_set_other _ _ _ h

/-- A term leaves the band scales and the row mask. -/
theorem TileImage.frame_addTerm : (t.addTerm i x y).sigA = t.sigA ∧ (t.addTerm i x y).sigB = t.sigB ∧ (t.addTerm i x y).rows = t.rows := by
  unfold TileImage.addTerm
  split
  · exact ⟨rfl, rfl, rfl⟩
  · exact ⟨rfl, rfl, rfl⟩

variable {b : Nat} {f g : Nat → Int} (l : List Nat)

theorem TileImage.get_foldl_addTerm_other (h : ∀ c ∈ l, n ≠ b + c) :
    (l.foldl (fun t c => t.addTerm (b + c) (f c) (g c)) t).pairs.get accClear n = t.pairs.get accClear n :=
  List.foldlRecOn (motive := fun u : TileImage => u.pairs.get accClear n = t.pairs.get accClear n) l _ rfl
    fun u hu c hc => (u.get_addTerm_other (h c hc)).trans hu

/-- Of the terms of different columns each element takes its own. -/
theorem TileImage.get_foldl_addTerm_same {c : Nat} (hl : l.Nodup) (hc : c ∈ l) :
    (l.foldl (fun t c => t.addTerm (b + c) (f c) (g c)) t).pairs.get accClear (b + c)
      = if f c = 0 then t.pairs.get accClear (b + c) else (accAdd (t.pairs.get accClear (b + c)) (f c) (g c)).1 := by
  induction l generalizing t with
  | nil => cases hc
  | cons d l ih =>
    obtain ⟨hd, hl⟩ := List.nodup_cons.1 hl
    rw [List.foldl_cons]
    obtain rfl | hc := List.mem_cons.1 hc
    · rw [TileImage.get_foldl_addTerm_other _ _ fun k hk e => hd (by rwa [Nat.add_left_cancel e]), TileImage.get_addTerm_same]
    · have hcd : b + c ≠ b + d := fun e => hd (by rwa [← Nat.add_left_cancel e])
      rw [ih _ hl hc, TileImage.get_addTerm_other _ hcd]

theorem TileImage.frame_foldl_addTerm :
    let u := l.foldl (fun t c => t.addTerm (b + c) (f c) (g c)) t
    u.sigA = t.sigA ∧ u.sigB = t.sigB ∧ u.rows = t.rows := by
  refine List.foldlRecOn (motive := fun u : TileImage => u.sigA = t.sigA ∧ u.sigB = t.sigB ∧ u.rows = t.rows) l _ ⟨rfl, rfl, rfl⟩ ?_
  intro u ⟨ha, hb, hr⟩ c _
  obtain ⟨ha', hb', hr'⟩ := u.frame_addTerm (i := b + c) (x := f c) (y := g c)
  exact ⟨ha'.trans ha, hb'.trans hb, hr'.trans hr⟩

end Terms

theorem slabTerms : SlabTerms := by
  intro img elems row r i he hr after_
  refine ⟨fun c hc => ?_, fun n hn => ?_, img.frame_foldl_addTerm (List.range 64)⟩
  · refine (img.get_foldl_addTerm_same (List.range 64) List.nodup_range (List.mem_range.2 hc)).trans ?_
    rw [dotTerm_column hr he hc]
  · refine img.get_foldl_addTerm_other (List.range 64) fun c hc => ?_
    have := List.mem_range.1 hc
    omega

/-- Settles O43: an engine's queues and buckets (`matrixQueues`), the operation at the head of its compute queue (`matrixOperations`), and
what a row of a slab adds to a tile (`slabTerms`). -/
theorem engineEvents : Obligations.EngineEvents := ⟨matrixQueues, matrixOperations, slabTerms⟩

end Sys2Proof.Machine
end

section
/-! The matrix sequencer's events: where a node goes on, its slabs, its end by KMODE, and the contributions between engines. -/
namespace Sys2Proof.Machine

section Engine
variable {e : MatrixEngine} {t : Nat}

theorem MatrixEngine.quiet_iff : e.quiet = true ↔ e.loads = [] ∧ e.computes = [] := by
  simp [MatrixEngine.quiet]

theorem MatrixEngine.freeTile_eq_none (h : ∀ j, j < 4 → (e.tile j).owner ≠ none) : e.freeTile = none :=
  (List.find?_range_eq_none (n := 4)).2 fun j hj => by simpa [Option.isSome_iff_ne_none] using h j hj

theorem MatrixEngine.freeTile_eq_some (ht : t < 4) (h : (e.tile t).owner = none) (hlow : ∀ j, j < t → (e.tile j).owner ≠ none) :
    e.freeTile = some t :=
  List.find?_range_eq_some.2 ⟨by simpa using h, List.mem_range.2 ht, fun j hj => by simpa [Option.isSome_iff_ne_none] using hlow j hj⟩

end Engine

section Node
variable {s : State} {cl t : Nat} {n : SeqNode}

theorem exec_matrixNodeRun (h : cl < 512) (s : State) : exec (.matrixNodeRun cl) s = .next (s.runNode cl) := if_pos (hasCluster_of_lt h)

/-! ### Where the sequencer goes on (R265, R266) -/

theorem State.runNode_of_busy (h : ¬ ((s.engine cl).loads = [] ∧ (s.engine cl).computes = [])) : s.runNode cl = s := by
  have hq : (s.engine cl).quiet = false := Bool.eq_false_iff.2 (mt MatrixEngine.quiet_iff.1 h)
  simp only [State.runNode, hq, Bool.not_false, if_true]

section Quiet
variable (hq : (s.engine cl).loads = [] ∧ (s.engine cl).computes = [])
include hq

theorem State.runNode_of_parked {p : ParkedNode} (hn : (s.engine cl).node = none)
    (hp : (s.engine cl).parked.find? (fun p => !(s.launch p.node.slot).suspended) = some p) :
    s.runNode cl = s.onEngine cl (·.unpark p) := by
  simp only [State.runNode, MatrixEngine.quiet_iff.2 hq, Bool.not_true, Bool.false_eq_true, if_false, hn, hp]

theorem State.runNode_of_idle (hn : (s.engine cl).node = none)
    (hp : (s.engine cl).parked.find? (fun p => !(s.launch p.node.slot).suspended) = none) : s.runNode cl = s := by
  simp only [State.runNode, MatrixEngine.quiet_iff.2 hq, Bool.not_true, Bool.false_eq_true, if_false, hn, hp]

variable (hn : (s.engine cl).node = some n)
include hn

theorem State.runNode_of_suspended (h : (s.launch n.slot).suspended = true) : s.runNode cl = s.onEngine cl (·.park n s.clk) := by
  simp only [State.runNode, MatrixEngine.quiet_iff.2 hq, Bool.not_true, Bool.false_eq_true, if_false, hn, h, if_true]

variable (h : (s.launch n.slot).suspended = false)
include h

theorem State.runNode_of_noTile (ht : n.tile = none) : s.runNode cl = s.beginNode cl n := by
  simp only [State.runNode, MatrixEngine.quiet_iff.2 hq, Bool.not_true, Bool.false_eq_true, if_false, hn, h, ht]

theorem State.runNode_of_tile (ht : n.tile = some t) :
    s.runNode cl = if (s.engine cl).step < n.slabs then s.nodeSlab cl n t else s.nodeTail cl n t := by
  simp only [State.runNode, MatrixEngine.quiet_iff.2 hq, Bool.not_true, Bool.false_eq_true, if_false, hn, h, ht]

end Quiet

/-! ### The beginning of a node (R265) -/

theorem State.beginNode_of_check {c : Nat} (hc : n.check = some c) : s.beginNode cl n = s.failNode cl n c := by
  simp only [State.beginNode, hc]

theorem State.beginNode_of_full (hc : n.check = none) (ht : (s.engine cl).freeTile = none) : s.beginNode cl n = s := by
  simp only [State.beginNode, hc, ht]

/-- A node that begins owns a cleared tile with its row mask, at its first slab. -/
theorem State.beginNode_of_free (hc : n.check = none) (ht : (s.engine cl).freeTile = some t) :
    let u := s.beginNode cl n
    ((u.engine cl).tile t).owner = some .node ∧ ((u.engine cl).tile t).img.pairs = [] ∧ ((u.engine cl).tile t).img.rows = n.rows
      ∧ (u.engine cl).step = 0 ∧ (u.engine cl).node = some { n with tile := some t } ∧ u.mem = s.mem := by
  simp only [State.beginNode, hc, ht, State.engine_onEngine, State.onEngine_mem, MatrixEngine.tile, MatrixEngine.onTile, Table.get_set_same,
    and_self]

/-! ### The end of a node by its KMODE (R265, R521) -/

theorem State.nodeTail_of_alone (hk : n.kmode = 0) : s.nodeTail cl n t = s.nodeRead cl n t := if_pos hk

section Sends
variable (hk : n.kmode = 1)
include hk

theorem State.nodeTail_of_unsent (hs : n.sent = false) : s.nodeTail cl n t = s.onEngine cl (fun e => { e with
    node := some { n with sent := true }, out := some (n.contribution ((s.engine cl).tile t).img) }) := by
  simp only [State.nodeTail, hk, Nat.one_ne_zero, if_false, if_true, hs, Bool.false_eq_true]
  rfl

theorem State.nodeTail_of_accepted (hs : n.sent = true) (ho : (s.engine cl).out = none) : s.nodeTail cl n t = s.endNode cl n := by
  simp only [State.nodeTail, hk, Nat.one_ne_zero, if_false, if_true, hs, ho, Option.isNone_none]

theorem State.nodeTail_of_sent (hs : n.sent = true) (ho : (s.engine cl).out ≠ none) :
    s.nodeTail cl n t = if (s.launch n.slot).state = .running then s else s.loseNode cl n := by
  have ho' : (s.engine cl).out.isNone = false := by simpa [Option.isSome_iff_ne_none] using ho
  simp only [State.nodeTail, hk, Nat.one_ne_zero, if_false, if_true, hs, ho', Bool.false_eq_true, decide_eq_true_eq]

end Sends

section Reduces
variable (hk : 2 ≤ n.kmode)
include hk

theorem State.nodeTail_of_lacking (hl : n.held.length < n.splitn) :
    s.nodeTail cl n t = if (s.launch n.slot).state = .running then s else s.loseNode cl n := by
  have h0 : n.kmode ≠ 0 := by omega
  have h1 : n.kmode ≠ 1 := by omega
  simp only [State.nodeTail, h0, h1, if_false, hl, if_true, decide_eq_true_eq]

theorem State.nodeTail_of_held (hl : n.splitn ≤ n.held.length) :
    let cs := (n.held.insertionSort (fun a b => a.1 ≤ b.1)).map (·.2)
    s.nodeTail cl n t = (s.onEngine cl (fun e => e.onTile t (fun x => { x with
      img := cs.foldl (fun (i : TileImage) c => i.addPairs c) x.img }))).nodeRead cl n t := by
  have h0 : n.kmode ≠ 0 := by omega
  have h1 : n.kmode ≠ 1 := by omega
  simp only [State.nodeTail, h0, h1, if_false, Nat.not_lt.2 hl]

end Reduces

theorem sequencerSteps : SequencerSteps := by
  intro s cl hcl e does quiet parked
  have run {u : State} (hu : s.runNode cl = u) : does u := hu ▸ exec_matrixNodeRun hcl s
  refine ⟨fun hq => run (State.runNode_of_busy hq), fun hq hn => ⟨fun p hp => run (State.runNode_of_parked hq hn hp),
    fun hp => run (State.runNode_of_idle hq hn hp)⟩, fun n hq hn => ⟨fun h => run (State.runNode_of_suspended hq hn h), fun h => ?_⟩⟩
  · have begins {u : State} (ht : n.tile = none) (hu : s.beginNode cl n = u) : does u :=
      run ((State.runNode_of_noTile hq hn h ht).trans hu)
    refine ⟨fun ht c hc => begins ht (State.beginNode_of_check hc),
      fun ht hc hf => begins ht (State.beginNode_of_full hc (MatrixEngine.freeTile_eq_none hf)),
      fun ht hc t ht4 hf hlow => ⟨_, begins ht rfl, State.beginNode_of_free hc (MatrixEngine.freeTile_eq_some ht4 hf hlow)⟩,
      fun t ht hstep => ?_⟩
    have ends {u : State} (hu : s.nodeTail cl n t = u) : does u :=
      run ((State.runNode_of_tile hq hn h ht).trans ((if_neg (Nat.not_lt.2 hstep)).trans hu))
    exact ⟨fun hk => ends (State.nodeTail_of_alone hk),
      fun hk hs => ends (State.nodeTail_of_unsent hk hs),
      fun hk hs ho => ends (State.nodeTail_of_accepted hk hs ho),
      fun hk hs ho hw => ends ((State.nodeTail_of_sent hk hs ho).trans (if_pos hw)),
      fun hk hs ho hw => ends ((State.nodeTail_of_sent hk hs ho).trans (if_neg hw)),
      fun hk hl hw => ends ((State.nodeTail_of_lacking hk hl).trans (if_pos hw)),
      fun hk hl hw => ends ((State.nodeTail_of_lacking hk hl).trans (if_neg hw)),
      fun hk hl => ends (State.nodeTail_of_held hk hl)⟩

/-! ### A slab of a node (R255, R258, R259, R265) -/

/-- The read of the block record of the slab that is due. -/
abbrev State.slabBlock (s : State) (cl : Nat) (n : SeqNode) : Except (State × Option Nat) (State × List Byte × List (Nat × Nat)) :=
  s.seqRead (s.seqOp cl n) (blockSize n.ty / 64) (((n.kd 1).toNat + (s.engine cl).step * field (n.kd 3) 32 32) % 2 ^ 64) s

/-- The read of its scale record, from the state `u` that the read of the block leaves. -/
abbrev State.slabScale (s : State) (cl : Nat) (n : SeqNode) (u : State) : Except (State × Option Nat) (State × List Byte × List (Nat × Nat)) :=
  s.seqRead (s.seqOp cl n) 3 (((n.kd 4).toNat + 192 * (s.engine cl).step) % 2 ^ 64) u

theorem State.nodeSlab_of_lacking (hb : (s.engine cl).bucket < 256 * ((panelOf n.panelWord).p - (s.engine cl).paid)) :
    s.nodeSlab cl n t = s.onEngine cl (·.lackTokens (panelOf n.panelWord).p s.clk) := by
  simp only [State.nodeSlab, MatrixEngine.spend_of_lt hb]

section Paid
variable (hb : 256 * ((panelOf n.panelWord).p - (s.engine cl).paid) ≤ (s.engine cl).bucket) {u v : State} {bs sc : List Byte}
  {bad sbad : List (Nat × Nat)} {c : Nat}
include hb

theorem State.nodeSlab_of_block_waits (hr : s.slabBlock cl n = .error (u, none)) : s.nodeSlab cl n t = u := by
  simp only [State.nodeSlab, MatrixEngine.spend_of_le hb, hr]

theorem State.nodeSlab_of_block_fails (hr : s.slabBlock cl n = .error (u, some c)) : s.nodeSlab cl n t = u.failNode cl n c := by
  simp only [State.nodeSlab, MatrixEngine.spend_of_le hb, hr]

variable (hr : s.slabBlock cl n = .ok (u, bs, bad))
include hr

theorem State.nodeSlab_of_scale_waits (hs : s.slabScale cl n u = .error (v, none)) : s.nodeSlab cl n t = v := by
  simp only [State.nodeSlab, MatrixEngine.spend_of_le hb, hr, hs]

theorem State.nodeSlab_of_scale_fails (hs : s.slabScale cl n u = .error (v, some c)) : s.nodeSlab cl n t = v.failNode cl n c := by
  simp only [State.nodeSlab, MatrixEngine.spend_of_le hb, hr, hs]

variable (hs : s.slabScale cl n u = .ok (v, sc, sbad))
include hs

theorem State.nodeSlab_of_scale_bad (hbad : sbad ≠ []) : s.nodeSlab cl n t = v.failNode cl n 0x066 := by
  simp only [State.nodeSlab, MatrixEngine.spend_of_le hb, hr, hs, if_pos hbad]

variable (hbad : sbad = [])
include hbad

theorem State.nodeSlab_of_panel_fails {a : Word}
    (hp : panelCheck (v.core (n.core cl)) n.panelWord (n.slab (s.engine cl).step) n.rows false 0 = some (c, a)) :
    s.nodeSlab cl n t = v.failNode cl n c := by
  simp only [State.nodeSlab, MatrixEngine.spend_of_le hb, hr, hs, if_neg (not_not.2 hbad), hp]

theorem State.nodeSlab_of_good (hp : panelCheck (v.core (n.core cl)) n.panelWord (n.slab (s.engine cl).step) n.rows false 0 = none) :
    let e := s.engine cl
    let pan := panelOf n.panelWord
    let recs := (e.tile t).fifo ++ [scaleOf sc]
    let e1 : MatrixEngine := { e.govStop s.clk with bucket := e.bucket - 256 * (pan.p - e.paid), paid := 0 }
    s.nodeSlab cl n t = ((v.seqChecks cl n.slot bad).onEngine cl (fun _ => { e1.onTile t (fun x => { x with fifo := recs.drop 1 }) with
        bufs := e1.bufs.set (e.step % 2) { loaded := true, elems := blockElems n.ty bs, poison := !bad.isEmpty, user := some n.owner },
        step := e.step + 1 })).addSlab cl t (e.step % 2) (n.core cl) n.owner pan (n.slab e.step) (recs.headD { r := [], y := [] }) := by
  simp only [State.nodeSlab, MatrixEngine.spend_of_le hb, hr, hs, if_neg (not_not.2 hbad), hp]
  rfl

end Paid
end Node

theorem sequencerSlabs : SequencerSlabs := by
  intro s cl t n hcl e o does pan j block scale hl hcm hn hsus ht hstep
  have slab {u : State} (hu : s.nodeSlab cl n t = u) : does u :=
    hu ▸ (exec_matrixNodeRun hcl s).trans (congrArg _ ((State.runNode_of_tile ⟨hl, hcm⟩ hn hsus ht).trans (if_pos hstep)))
  exact ⟨fun hb => slab (State.nodeSlab_of_lacking hb), fun hb =>
    ⟨fun u hr => slab (State.nodeSlab_of_block_waits hb hr), fun u c hr => slab (State.nodeSlab_of_block_fails hb hr), fun u bs bad hr =>
      ⟨fun v hs => slab (State.nodeSlab_of_scale_waits hb hr hs), fun v c hs => slab (State.nodeSlab_of_scale_fails hb hr hs),
        fun v sc sbad hs =>
        ⟨fun hbad => slab (State.nodeSlab_of_scale_bad hb hr hs hbad),
          fun hbad c a hp => slab (State.nodeSlab_of_panel_fails hb hr hs hbad hp),
          fun hbad hp => slab (State.nodeSlab_of_good hb hr hs hbad hp)⟩⟩⟩⟩

/-! ### Contributions (R44, R521) -/

theorem SeqNode.takes_iff {n : SeqNode} {c : Contribution} {step : Nat} : n.takes c step = true ↔
    2 ≤ n.kmode ∧ n.slabs ≤ step ∧ n.tile ≠ none ∧ n.slot = c.slot ∧ n.epoch = c.epoch ∧ n.tag = c.tag ∧ n.held.length < n.splitn := by
  simp only [SeqNode.takes, Bool.and_eq_true, decide_eq_true_eq, Option.isSome_iff_ne_none, and_assoc]

section Sent
variable {s : State} {src : Nat} (h : src < 512)
include h

theorem exec_splitkContribution_none (ho : (s.engine src).out = none) : exec (.splitkContribution src) s = .next s := by
  refine (if_pos (hasCluster_of_lt h)).trans ?_
  rw [ho]

variable {c : Contribution} (ho : (s.engine src).out = some c)
include ho

theorem exec_splitkContribution_noNode (hn : (s.engine c.dest).node = none) : exec (.splitkContribution src) s = .next s := by
  refine (if_pos (hasCluster_of_lt h)).trans ?_
  simp only [ho, hn]

theorem exec_splitkContribution_node {n : SeqNode} (hn : (s.engine c.dest).node = some n) : exec (.splitkContribution src) s =
    if n.takes c (s.engine c.dest).step then .next ((s.onEngine c.dest (fun e => { e with node := some (n.accept src s.clk c) })).onEngine src
      (fun e => { e with out := none }))
    else .next s := by
  refine (if_pos (hasCluster_of_lt h)).trans ?_
  simp only [ho, hn]

end Sent

theorem contributions : Contributions := by
  intro s cl hcl does
  refine ⟨fun ho => exec_splitkContribution_none hcl ho, fun c ho => ⟨fun hn => exec_splitkContribution_noNode hcl ho hn, fun n hn =>
    ⟨fun ht => ?_, fun ht => ?_⟩⟩⟩
  · exact (exec_splitkContribution_node hcl ho hn).trans (if_neg (mt SeqNode.takes_iff.1 ht))
  · exact (exec_splitkContribution_node hcl ho hn).trans (if_pos (SeqNode.takes_iff.2 ht))

/-- Settles O44: where the sequencer goes on (`sequencerSteps`), a slab of its node (`sequencerSlabs`), and the contributions between engines
(`contributions`). Beyond the rules, the causes of a failed node, the cause GM.POISON (0x066) of a scale record in error, and the engine free
for others while a node is parked are the model's choices (log 25). -/
theorem sequencerEvents : Obligations.SequencerEvents := ⟨sequencerSteps, sequencerSlabs, contributions⟩

end Sys2Proof.Machine
end

section
/-! Encoding and decoding: a format's fields in word 0, what follows it, the opcode map, and the two directions. -/
namespace Sys2Proof

/-! ### Fields of a word -/

theorem ofBool_eq_one (b : Bool) : (BitVec.ofBool b == 1#1) = b := by cases b <;> rfl

theorem ofBool_getLsbD {n : Nat} (x : BitVec n) (i : Nat) : BitVec.ofBool (x.getLsbD i) = x.extractLsb' i 1 := by
  rw [BitVec.getLsbD_eq_extractLsb']
  generalize x.extractLsb' i 1 = y
  revert y
  decide

/-- The opcode's format read from a word, with what follows it (R53). -/
def Fields.read (w : Lane) (f : Form) : Fields → Fields
  | .r _ => .r (rFields w f)
  | .i _ => .i (iFields w f)
  | .j _ => .j (jFields w f)
  | .v _ => .v (vFields w f)

theorem Fields.form_read (w : Lane) (f : Form) (fl : Fields) : (fl.read w f).form = f := by cases fl <;> rfl

theorem Fields.len_word0 (op : BitVec 8) (fl : Fields) : (fl.word0 op).extractLsb' 0 2 = fl.form.len := by
  cases fl <;> exact BitVec.extractLsb'_append_eq_right

theorem Fields.op_word0 (op : BitVec 8) (fl : Fields) : (fl.word0 op).extractLsb' 2 8 = op := by
  cases fl <;> simp +ground only [Fields.word0, BitVec.extractLsb'_append_eq_of_le, BitVec.extractLsb'_append_eq_of_add_le,
    BitVec.extractLsb'_eq_self]

theorem Fields.read_word0 (op : BitVec 8) (fl : Fields) : fl.read (fl.word0 op) fl.form = fl := by
  cases fl <;> simp +ground only [Fields.word0, Fields.read, Fields.form, rFields, iFields, jFields, vFields,
    BitVec.extractLsb'_append_eq_of_le, BitVec.extractLsb'_append_eq_of_add_le, BitVec.extractLsb'_eq_self]

/-- The formats leave out no bit of word 0. -/
theorem Fields.word0_read {w : Lane} {f : Form} (h : f.len = w.extractLsb' 0 2) (fl : Fields) :
    (fl.read w f).word0 (w.extractLsb' 2 8) = w := by
  cases fl <;> simp +ground only [Fields.read, Fields.word0, h, rFields, iFields, jFields, vFields,
    BitVec.extractLsb'_append_extractLsb'_eq_extractLsb', BitVec.extractLsb'_eq_self]

/-! ### What follows word 0 (R49, R54, R57) -/

theorem extFields_word1 (e : Ext) : extFields e.word1 e.imm32 = e := by
  simp +ground only [extFields, Ext.word1, BitVec.getLsbD_eq_extractLsb', BitVec.extractLsb'_append_eq_of_le,
    BitVec.extractLsb'_append_eq_of_add_le, BitVec.extractLsb'_eq_self, ofBool_eq_one]

theorem word1_extFields (w1 w2 : Lane) : (extFields w1 w2).word1 = w1 := by
  simp +ground only [extFields, Ext.word1, ofBool_getLsbD, BitVec.extractLsb'_append_extractLsb'_eq_extractLsb',
    BitVec.extractLsb'_eq_self]

theorem literalOf_halves (v : Word) : literalOf (v.extractLsb' 0 32) (v.extractLsb' 32 32) = v :=
  BitVec.extractLsb'_append_extractLsb'

theorem lo_literalOf (lo hi : Lane) : (literalOf lo hi).extractLsb' 0 32 = lo := BitVec.extractLsb'_append_eq_right

theorem hi_literalOf (lo hi : Lane) : (literalOf lo hi).extractLsb' 32 32 = hi := BitVec.extractLsb'_append_eq_left

theorem wordCount_len (f : Form) : wordCount f.len = f.words.length + 1 := by cases f <;> rfl

theorem formOf_words (f : Form) (rest : List Lane) : formOf f.len (f.words ++ rest) = some f := by
  cases f with
  | word => rfl
  | ext e => exact congrArg (fun e => some (Form.ext e)) (extFields_word1 e)
  | lit v => exact congrArg (fun v => some (Form.lit v)) (literalOf_halves v)
  | extLit e v => exact congrArg₂ (fun e v => some (Form.extLit e v)) (extFields_word1 e) (literalOf_halves v)

/-- What a LEN takes from the words that follow word 0 is the words of its form. -/
theorem formOf_eq_some {len : BitVec 2} {rest : List Lane} {f : Form} (h : formOf len rest = some f) :
    f.len = len ∧ f.words = rest.take (wordCount len - 1) := by
  have hlen : ∀ l : BitVec 2, l = 0 ∨ l = 1 ∨ l = 2 ∨ l = 3 := by decide
  obtain rfl | rfl | rfl | rfl := hlen len
  · cases h
    exact ⟨rfl, rfl⟩
  · match rest, h with
    | w1 :: w2 :: _, h =>
      cases h
      exact ⟨rfl, congrArg (· :: [w2]) (word1_extFields w1 w2)⟩
  · match rest, h with
    | w1 :: w2 :: _, h =>
      cases h
      exact ⟨rfl, congrArg₂ (fun lo hi => [lo, hi]) (lo_literalOf w1 w2) (hi_literalOf w1 w2)⟩
  · match rest, h with
    | w1 :: w2 :: w3 :: w4 :: _, h =>
      cases h
      exact ⟨rfl, congrArg₂ List.cons (word1_extFields w1 w2)
        (congrArg₂ (fun lo hi => [w2, lo, hi]) (lo_literalOf w3 w4) (hi_literalOf w3 w4))⟩

/-! ### The opcode map (R64) -/

/-- A core instruction has fields. -/
theorem Instr.fields_of_spec {i : Instr} {p : OpSpec} (h : i.spec = some p) : ∃ fl, i.fields = some fl := by
  cases i
  all_goals cases h
  all_goals exact ⟨_, rfl⟩

theorem instrOf_of_read {i : Instr} {p : OpSpec} {fl : Fields} {w : Lane} {f : Form} (hs : i.spec = some p) (hf : i.fields = some fl)
    (h : fl = fl.read w f) : instrOf p.op w f = some i := by
  cases i
  all_goals cases hs
  all_goals cases hf
  all_goals cases h
  all_goals rfl

theorem read_of_instrOf {op : BitVec 8} {w : Lane} {f : Form} {i : Instr} (h : instrOf op w f = some i) :
    ∃ p fl, i.spec = some p ∧ i.fields = some fl ∧ p.op = op ∧ fl.read w f = fl := by
  unfold instrOf at h
  split at h
  all_goals cases h
  all_goals exact ⟨_, _, rfl, rfl, rfl, rfl⟩

theorem encode_of_fields {i : Instr} {p : OpSpec} {fl : Fields} (hs : i.spec = some p) (hf : i.fields = some fl) :
    encode i = fl.word0 p.op :: fl.form.words := by
  unfold encode
  rw [hs, hf]

/-! ### Words of the cores -/

/-- What decodes: the form is there, the opcode has an entry, and the entry accepts the form and the fields (R63). -/
theorem decodeWords_eq_ok_iff {w : Lane} {rest : List Lane} {i : Instr} {n : Nat} :
    decodeWords (w :: rest) = .ok (i, n) ↔ ∃ f p, formOf (w.extractLsb' 0 2) rest = some f ∧ instrOf (w.extractLsb' 2 8) w f = some i
      ∧ i.spec = some p ∧ i.formOk = true ∧ i.rsvdOk = true ∧ wordCount (w.extractLsb' 0 2) = n := by
  constructor
  · intro h
    unfold decodeWords at h
    dsimp only at h
    split at h
    · cases h
    · split at h
      · cases h
      · split at h
        · cases h
        · split at h
          · split at h
            · cases h
              exact ⟨_, _, ‹_›, ‹_›, ‹_›, ‹_›, ‹_›, rfl⟩
            · cases h
          · cases h
  · rintro ⟨f, p, hform, hi, hs, hf, hr, rfl⟩
    simp only [decodeWords, hform, hi, hs, hf, hr, if_true]

theorem decodeWords_encode {i : Instr} {p : OpSpec} (hs : i.spec = some p) (hf : i.formOk = true) (hr : i.rsvdOk = true)
    (rest : List Lane) : decodeWords (encode i ++ rest) = .ok (i, (encode i).length) := by
  obtain ⟨fl, hfl⟩ := Instr.fields_of_spec hs
  rw [encode_of_fields hs hfl]
  refine decodeWords_eq_ok_iff.2 ⟨fl.form, p, ?_, ?_, hs, hf, hr, ?_⟩
  · rw [Fields.len_word0]
    exact formOf_words _ _
  · rw [Fields.op_word0]
    exact instrOf_of_read hs hfl (Fields.read_word0 ..).symm
  · rw [Fields.len_word0]
    exact wordCount_len _

theorem encode_of_decodeWords {ws : List Lane} {i : Instr} {n : Nat} (h : decodeWords ws = .ok (i, n)) :
    encode i = ws.take n ∧ i.formOk = true ∧ i.rsvdOk = true := by
  cases ws with
  | nil => cases h
  | cons w rest =>
    obtain ⟨f, p, hform, hi, -, hf, hr, rfl⟩ := decodeWords_eq_ok_iff.1 h
    obtain ⟨hlen, hwords⟩ := formOf_eq_some hform
    obtain ⟨p, fl, hs, hfl, hop, hread⟩ := read_of_instrOf hi
    have hw : fl.word0 p.op = w := by
      rw [hop, ← hread]
      exact Fields.word0_read hlen fl
    have hform' : fl.form = f := by
      rw [← hread]
      exact Fields.form_read w f fl
    refine ⟨?_, hf, hr⟩
    rw [encode_of_fields hs hfl, hw, hform', hwords, ← hlen, wordCount_len]
    rfl

/-! ### Bytes -/

theorem laneOf_laneBytes (w : Lane) : laneOf (w.extractLsb' 0 8) (w.extractLsb' 8 8) (w.extractLsb' 16 8) (w.extractLsb' 24 8) = w := by
  simp +ground only [laneOf, BitVec.extractLsb'_append_extractLsb'_eq_extractLsb', BitVec.extractLsb'_eq_self]

theorem lanesOf_laneBytes (ws : List Lane) (rest : List Byte) : lanesOf (ws.flatMap laneBytes ++ rest) = ws ++ lanesOf rest := by
  induction ws with
  | nil => rfl
  | cons w ws ih => exact congrArg₂ List.cons (laneOf_laneBytes w) ih

/-! ### Words of the sampler (R467, R468) -/

theorem microFields_microWord (opc : BitVec 8) (x : MicroFields) : microFields (microWord opc x) = x := by
  simp +ground only [microFields, microWord, BitVec.extractLsb'_append_eq_of_le, BitVec.extractLsb'_append_eq_of_add_le,
    BitVec.extractLsb'_eq_self]

theorem opc_microWord (opc : BitVec 8) (x : MicroFields) : (microWord opc x).extractLsb' 24 8 = opc := by
  simp +ground only [microWord, BitVec.extractLsb'_append_eq_of_le, BitVec.extractLsb'_eq_self]

/-- The micro-instructions leave out no bit of their word. -/
theorem microWord_microFields (w : Lane) : microWord (w.extractLsb' 24 8) (microFields w) = w := by
  simp +ground only [microFields, microWord, BitVec.extractLsb'_append_extractLsb'_eq_extractLsb', BitVec.extractLsb'_eq_self]

theorem microOf_eq_some_iff {opc : BitVec 8} {x : MicroFields} {i : Instr} : microOf opc x = some i ↔ i.micro? = some (opc, x) := by
  constructor
  · intro h
    unfold microOf at h
    split at h
    all_goals cases h
    all_goals rfl
  · intro h
    cases i
    all_goals cases h
    all_goals rfl

theorem encode_of_micro {i : Instr} {opc : BitVec 8} {x : MicroFields} (h : i.micro? = some (opc, x)) : encode i = [microWord opc x] := by
  cases i
  all_goals cases h
  all_goals rfl

theorem decodeMicro_eq_some_iff {w : Lane} {i : Instr} :
    decodeMicro w = some i ↔ i.micro? = some (w.extractLsb' 24 8, microFields w) ∧ i.microOk = true := by
  rw [← microOf_eq_some_iff]
  constructor
  · intro h
    unfold decodeMicro at h
    split at h
    · split at h
      · cases h
        exact ⟨‹_›, ‹_›⟩
      · cases h
    · cases h
  · rintro ⟨hi, ho⟩
    simp only [decodeMicro, hi, ho, if_true]

/-- Settles O54: the encoder and the decoder go by one table of formats and opcodes (`Fields.read_word0`, `instrOf_of_read`). -/
theorem decodeOfEncode : Obligations.DecodeOfEncode := by
  refine ⟨fun i rest hs hf hr => ?_, fun i rest hs hf hr => ?_, fun i hm ho => ?_⟩
  · obtain ⟨p, hs⟩ := Option.isSome_iff_exists.1 hs
    exact decodeWords_encode hs hf hr rest
  · obtain ⟨p, hs⟩ := Option.isSome_iff_exists.1 hs
    unfold decode encodeBytes
    rw [lanesOf_laneBytes]
    exact decodeWords_encode hs hf hr _
  · obtain ⟨⟨opc, x⟩, hm⟩ := Option.isSome_iff_exists.1 hm
    rw [encode_of_micro hm]
    refine congrArg (fun o => [o]) (decodeMicro_eq_some_iff.2 ⟨?_, ho⟩)
    rw [opc_microWord, microFields_microWord, hm]

/-- Settles O55: what the decoder read, the encoder writes (`Fields.word0_read`, `microWord_microFields`). -/
theorem encodeOfDecode : Obligations.EncodeOfDecode := by
  refine ⟨fun ws i n h => encode_of_decodeWords h, fun w i h => ?_⟩
  obtain ⟨hm, ho⟩ := decodeMicro_eq_some_iff.1 h
  refine ⟨?_, ho⟩
  rw [encode_of_micro hm, microWord_microFields]

/-- The words of a well-formed instruction, written out. -/
theorem decodeWords_of_encode {ws : List Lane} {i : Instr} (he : encode i = ws) {p : OpSpec} (hs : i.spec = some p)
    (hf : i.formOk = true) (hr : i.rsvdOk = true) : decodeWords ws = .ok (i, ws.length) := by
  subst he
  simpa using decodeWords_encode hs hf hr []

/-- Settles O56: the worked words are those of well-formed instructions (`decodeWords_of_encode`); what is refused has
no form or no opcode. -/
theorem workedWords : Obligations.WorkedWords :=
  ⟨decodeWords_of_encode rfl rfl rfl rfl, decodeWords_of_encode rfl rfl rfl rfl, decodeWords_of_encode rfl rfl rfl rfl,
    decodeWords_of_encode rfl rfl rfl rfl, decodeWords_of_encode rfl rfl rfl rfl, rfl, rfl, rfl⟩

end Sys2Proof
end

section
/-! Fetching: the fetch buffer, the caches below it, what a context does with what fetching gives, and which context has an issue slot. -/
namespace Sys2Proof.Machine

/-! ### Fetching (R182, R183, R185) -/

section Fetch
variable {s : State} {g k : Nat}

/-- The fetch buffer takes the block that was read. -/
def Fetched.filling (g k : Nat) (pc : Word) : Fetched → Fetched
  | .bytes bs s => .bytes (bs.drop (pc.toNat % 64)) (s.fillBlock g k (blockOf pc) bs)
  | f => f

theorem State.fetch_of_hit {b : FetchBlock} (h : (s.ctx g k).fbuf.find? (fun b => b.va = blockOf (s.ctx g k).pc) = some b) :
    s.fetch g k = .bytes (b.bytes.drop ((s.ctx g k).pc.toNat % 64)) s := by
  unfold State.fetch
  dsimp only
  rw [h]

theorem State.fetch_of_miss (h : ∀ b ∈ (s.ctx g k).fbuf, b.va ≠ blockOf (s.ctx g k).pc) :
    s.fetch g k = (s.fetchBlock g k (s.ctx g k).pc).filling g k (s.ctx g k).pc := by
  have hn : (s.ctx g k).fbuf.find? (fun b => b.va = blockOf (s.ctx g k).pc) = none := by simpa using h
  unfold State.fetch
  dsimp only
  rw [hn]
  dsimp only
  cases s.fetchBlock g k (s.ctx g k).pc <;> rfl

variable {va : Word}

theorem State.fetchBlock_of_hole (h : regionOf (blockOf va).toNat = none) : s.fetchBlock g k va = .fault 0x064 va := by
  unfold State.fetchBlock
  dsimp only
  rw [h]

theorem State.fetchBlock_of_untranslated (h : regionOf (blockOf va).toNat ≠ none)
    (h' : regionOf (blockOf va).toNat ≠ some .translated) : s.fetchBlock g k va = .fault 0x063 va := by
  unfold State.fetchBlock
  dsimp only
  split
  · exact absurd ‹_› h
  · exact absurd ‹_› h'
  · rfl

variable (ht : regionOf (blockOf va).toNat = some .translated)
include ht

theorem State.fetchBlock_of_refused (hx : (s.ctx g k).xfail = some (pageOf (blockOf va).toNat)) :
    s.fetchBlock g k va = .fault 0x062 va := by
  simp only [State.fetchBlock, ht, hx, if_true]

variable (hx : (s.ctx g k).xfail ≠ some (pageOf (blockOf va).toNat))
include hx

theorem State.fetchBlock_of_stillHeld (hh : s.stillHeld (s.ownerOf g k) (blockOf va).toNat (ctxAgent g k) = true) :
    s.fetchBlock g k va = .held := by
  simp only [State.fetchBlock, ht, hx, hh, if_true, if_false]

variable (hh : s.stillHeld (s.ownerOf g k) (blockOf va).toNat (ctxAgent g k) = false)
include hh

theorem State.fetchBlock_of_absent (hw : (s.translate (clusterOf g) (s.ownerOf g k) (blockOf va).toNat).1 = .absent) :
    s.fetchBlock g k va = .absent := by
  simp [State.fetchBlock, ht, hx, hh, hw]

theorem State.fetchBlock_of_malformed (hw : (s.translate (clusterOf g) (s.ownerOf g k) (blockOf va).toNat).1 = .malformed) :
    s.fetchBlock g k va = .fault 0x063 va := by
  simp [State.fetchBlock, ht, hx, hh, hw]

variable {e : Word} {big : Bool} (hw : (s.translate (clusterOf g) (s.ownerOf g k) (blockOf va).toNat).1 = .page e big)
include hw

theorem State.fetchBlock_of_forbidden (he : entryKey e big (blockOf va).toNat false true = none) :
    s.fetchBlock g k va = .fault 0x063 va := by
  simp [State.fetchBlock, ht, hx, hh, hw, he]

theorem State.fetchBlock_of_page {key : Nat} (he : entryKey e big (blockOf va).toNat false true = some key) : s.fetchBlock g k va =
    (s.translate (clusterOf g) (s.ownerOf g k) (blockOf va).toNat).2.icacheBlock (clusterOf g) (s.ownerOf g k) key va := by
  simp [State.fetchBlock, ht, hx, hh, hw, he]

end Fetch

section Cache
variable {s : State} {cl owner key : Nat} {va : Word}

section Hit
variable {b : CodeBlock} (h : (s.icache.get [] cl).find? (fun b => decide (b.key = key) && decide (b.owner = owner)) = some b)
include h

theorem State.icacheBlock_of_bad (hb : s.dev.icBad.contains (cl, owner, key) = true) : s.icacheBlock cl owner key va = .fault 0x023 va := by
  simp only [State.icacheBlock, h, hb, if_true]

theorem State.icacheBlock_of_hit (hb : ¬ s.dev.icBad.contains (cl, owner, key) = true) :
    s.icacheBlock cl owner key va = .bytes b.bytes { s with icache := s.icache.set cl (b :: (s.icache.get [] cl).erase b) } := by
  simp only [State.icacheBlock, h, hb]
  rfl

end Hit

variable (h : (s.icache.get [] cl).find? (fun b => decide (b.key = key) && decide (b.owner = owner)) = none)
include h

theorem State.icacheBlock_of_starves (hs : s.starves owner (key / 64) = true) : s.icacheBlock cl owner key va = .held := by
  simp only [State.icacheBlock, h, hs, if_true]

variable (hs : s.starves owner (key / 64) = false)
include hs

theorem State.icacheBlock_of_poison (hp : (s.settle none (key / 64)).poison.contains (key / 64) = true) :
    s.icacheBlock cl owner key va = .fault 0x023 va := by
  simp only [State.icacheBlock, h, hs, hp, if_true]
  rfl

theorem State.icacheBlock_of_read (hp : (s.settle none (key / 64)).poison.contains (key / 64) = false) :
    s.icacheBlock cl owner key va = .bytes ((s.settle none (key / 64)).mem.bytes key 64) ((s.settle none (key / 64)).cacheCode cl
      { key := key, owner := owner, bytes := (s.settle none (key / 64)).mem.bytes key 64 }) := by
  simp only [State.icacheBlock, h, hs, hp]
  rfl

end Cache

theorem insertCode_of_room {b : CodeBlock} {blocks : List CodeBlock}
    (h : (blocks.filter (fun x => x.key / 64 % 256 = b.key / 64 % 256)).length < 16) : insertCode b blocks = b :: blocks := by
  unfold insertCode codeSet
  dsimp only
  rw [if_pos h]

theorem insertCode_of_full {b v : CodeBlock} {blocks : List CodeBlock}
    (h : 16 ≤ (blocks.filter (fun x => x.key / 64 % 256 = b.key / 64 % 256)).length)
    (hv : (blocks.filter (fun x => x.key / 64 % 256 = b.key / 64 % 256)).getLast? = some v) :
    insertCode b blocks = b :: blocks.erase v := by
  unfold insertCode codeSet
  dsimp only
  rw [if_neg (Nat.not_lt.2 h), hv]

theorem fetchValues : FetchValues := by
  intro s g k c cl a own w u blocks rest miss
  refine ⟨fun b hb => State.fetch_of_hit hb, fun hm h => ?_, fun hm h h' => ?_, fun hm ht hx => ?_, fun hm ht hx hh => ?_,
    fun hm ht hx hh => ⟨fun hw => ?_, fun hw => ?_, fun e big hw => ⟨fun he => ?_, fun key he => ?_⟩⟩,
    fun new blocks => ⟨fun h => insertCode_of_room h, fun h v hv => insertCode_of_full h hv⟩⟩
  · rw [State.fetch_of_miss hm, State.fetchBlock_of_hole h]
    rfl
  · rw [State.fetch_of_miss hm, State.fetchBlock_of_untranslated h h']
    rfl
  · rw [State.fetch_of_miss hm, State.fetchBlock_of_refused ht hx]
    rfl
  · rw [State.fetch_of_miss hm, State.fetchBlock_of_stillHeld ht hx hh]
    rfl
  · rw [State.fetch_of_miss hm, State.fetchBlock_of_absent ht hx hh hw]
    rfl
  · rw [State.fetch_of_miss hm, State.fetchBlock_of_malformed ht hx hh hw]
    rfl
  · rw [State.fetch_of_miss hm, State.fetchBlock_of_forbidden ht hx hh hw he]
    rfl
  · intro mine home new gives bad filled
    have hf : s.fetch g k = (u.icacheBlock cl own key c.pc).filling g k c.pc := by
      rw [State.fetch_of_miss hm, State.fetchBlock_of_page ht hx hh hw he]
    refine ⟨fun b hb hbad => ?_, fun b hb hbad => ?_, fun hb hs => ?_, fun hb hs => ⟨fun hp => ?_, fun hp => ?_⟩⟩
    · rw [hf, State.icacheBlock_of_bad hb hbad]
      rfl
    · dsimp only [gives]
      rw [hf, State.icacheBlock_of_hit hb hbad]
      rfl
    · rw [hf, State.icacheBlock_of_starves hb hs]
      rfl
    · rw [hf, State.icacheBlock_of_poison hb hs hp]
      rfl
    · dsimp only [gives]
      rw [hf, State.icacheBlock_of_read hb hs hp]
      rfl

/-! ### The register cache (R144) -/

theorem Core.ctx_cacheLine (c : Core) (e : Nat × Nat) (k : Nat) : (c.cacheLine e).ctx k = c.ctx k := rfl

theorem Core.ctx_foldl_cacheLine (c : Core) (ls : List Nat) (j k : Nat) :
    (ls.foldl (fun c l => c.cacheLine (c.cacheKey j, l)) c).ctx k = c.ctx k := by
  induction ls generalizing c with
  | nil => rfl
  | cons l ls ih => exact (ih _).trans (c.ctx_cacheLine _ k)

theorem State.ctx_pinLines (s : State) (g k : Nat) : (s.pinLines g k).ctx g k = s.ctx g k := by
  unfold State.pinLines
  split
  · rfl
  · unfold State.ctx
    rw [State.core_onCore, Core.ctx_foldl_cacheLine]

theorem State.pinLines_of_full {s : State} {g k : Nat} (h : (s.core g).lacks k = []) : s.pinLines g k = s := by
  unfold State.pinLines
  rw [h]

theorem Core.lacks_eq_nil_iff {c : Core} {k : Nat} :
    c.lacks k = [] ↔ ¬ ∃ l ∈ (c.ctx k).pinLines, (c.shelf * 16 + k, l) ∉ c.rcache := by
  simp [Core.lacks, Core.cacheKey]

/-! ### What a context does with what fetching gives -/

theorem issueAt_of_lacking {s : State} {g k : Nat} (hp : (s.ctx g k).poisoned = true) (hl : (s.core g).lacks k ≠ []) :
    issueAt s g k = .next ((s.imageTrap g k).tick 1) := by
  unfold issueAt
  rw [if_pos (by simpa [hp] using hl)]

theorem issueAt_of_pinned {s : State} {g k : Nat} (h : (s.ctx g k).poisoned = false ∨ (s.core g).lacks k = []) :
    issueAt s g k = issueFetched (s.pinLines g k) g k ((s.pinLines g k).fetch g k) := by
  unfold issueAt
  rw [if_neg]
  obtain h | h := h <;> simp [h]

/-- The cause and %tval of a decode fault (R63, R409). -/
theorem decodeFault_eq_trapAt (s : State) (g k : Nat) (fe : FE) (pc : Word) (w0 w1 : Lane) (e : DecodeError) :
    decodeFault s g k fe pc w0 w1 e = s.trapAt g k (bareEnv pc w0 w1) {
      cause := match e with
        | .ended | .straddle => 0x022
        | .undef => 0x001
        | .form _ => 0x002
        | .rsvd f => if feAllows f fe then 0x004 else 0x003
      tval := match e with
        | .ended | .straddle => pc
        | _ => w0.setWidth 64 } := by
  cases e <;> rfl

theorem fetchTraps : FetchTraps := by
  intro s g k c trap u waits pinned lacks
  have hlacks : (s.core g).lacks k = [] ↔ ¬ lacks := Core.lacks_eq_nil_iff
  have hc : u.ctx g k = c := State.ctx_pinLines s g k
  refine ⟨fun h => State.pinLines_of_full (hlacks.2 h), fun hp hl tval htval => ?_, fun h => ?_⟩
  · subst htval
    exact issueAt_of_lacking hp fun hn => hlacks.1 hn hl
  · have hi : issueAt s g k = issueFetched u g k (u.fetch g k) := issueAt_of_pinned (h.imp id hlacks.2)
    refine ⟨fun cause tval hf => ⟨0, 0, ?_⟩, fun hf => ?_, fun hf => ?_, fun bs f e hf hd =>
      ⟨(lanesOf bs).headD 0, ((lanesOf bs).drop 1).headD 0, ?_⟩⟩
    · rw [hi, hf, ← hc]
      rfl
    · dsimp only [waits]
      rw [hi, hf, ← hc]
      rfl
    · dsimp only [waits]
      rw [hi, hf]
      rfl
    · rw [hi, hf]
      unfold issueFetched
      dsimp only
      rw [hd, hc]
      exact congrArg Host.Outcome.next (decodeFault_eq_trapAt ..)

/-! ### Issue slots (R138) -/

theorem State.slotless_iff {s : State} {g k : Nat} : s.slotless g k = true ↔
    (s.ctx g k).live = false ∨ (s.ctx g k).resident = false ∨ ((s.ctx g k).waitFrom ≠ none ∧ (s.ctx g k).unissued = false)
      ∨ ∃ e, (s.ctx g k).yieldEnd = some e ∧ s.clk < e := by
  unfold State.slotless
  dsimp only
  cases (s.ctx g k).yieldEnd <;> simp [Option.isSome_iff_ne_none, or_assoc]

theorem State.unready_iff {s : State} {g k : Nat} : s.unready g k = true ↔
    ∃ t, contextTurn s g k = .next t ∧ (t.ctx g k).waitFrom ≠ none ∧ (t.ctx g k).unissued = true := by
  unfold State.unready
  cases contextTurn s g k <;> simp [Option.isSome_iff_ne_none]

/-- The test by which a front end's choice passes a context. -/
def State.canIssue (s : State) (g : Nat) (late : List Nat) (k : Nat) : Bool := !late.contains k && !s.slotless g k && !s.unready g k

theorem State.canIssue_iff {s : State} {g k : Nat} {late : List Nat} : s.canIssue g late k = true ↔
    k ∉ late ∧ s.slotless g k = false ∧ s.unready g k = false := by
  simp [State.canIssue, and_assoc]

theorem State.live_of_canIssue {s : State} {g k : Nat} {late : List Nat} (h : s.canIssue g late k = true) : (s.ctx g k).live = true := by
  by_contra hl
  have hs : s.slotless g k = true := State.slotless_iff.2 (.inl (by simpa using hl))
  exact absurd (hs.symm.trans (State.canIssue_iff.1 h).2.1) (by decide)

/-- The helper that stands at place i of the round after the one that last issued. -/
def helperAfter (last i : Nat) : Nat := (last + i) % 12 + 1

/-- The place of a helper in that round. -/
def placeAfter (last k : Nat) : Nat := (k + 11 - last % 12) % 12

theorem helperAfter_placeAfter {last k : Nat} (h1 : 1 ≤ k) (h12 : k ≤ 12) : helperAfter last (placeAfter last k) = k := by
  unfold helperAfter placeAfter
  omega

theorem placeAfter_helperAfter {last i : Nat} (h : i < 12) : placeAfter last (helperAfter last i) = i := by
  unfold helperAfter placeAfter
  omega

theorem helperAfter_bounds (last i : Nat) : 1 ≤ helperAfter last i ∧ helperAfter last i ≤ 12 := by
  unfold helperAfter
  omega

/-- Whether a front end's choice passes the helper at place i of the round. -/
def State.passesAt (s : State) (g : Nat) (fe : FE) (late : List Nat) (last i : Nat) : Bool :=
  decide ((s.ctx g (helperAfter last i)).fe = fe) && s.canIssue g late (helperAfter last i)

/-- A front end's choice: the control context on A, else the helper at the first place of the round that passes. -/
theorem State.pick_eq {s : State} {g last : Nat} {fe : FE} (hl : (s.core g).lastIssue.get 0 (feIndex fe) = last) (late : List Nat) :
    s.pick g fe late = (if fe = .a ∧ s.canIssue g late 0 = true then some 0 else none).or
      (((List.range 12).find? (s.passesAt g fe late last)).map (helperAfter last)) := by
  subst hl
  unfold State.pick Core.issueOrder
  dsimp only
  rw [List.find?_append, List.find?_filter, List.find?_map]
  congr 1
  · by_cases hfe : fe = .a
    · simp only [hfe, if_true, true_and, List.find?_singleton]
      rfl
    · simp [hfe]
  · refine congrArg (fun o => Option.map _ o) (congrArg (fun p => List.find? p _) (funext fun i => ?_))
    refine Bool.eq_iff_iff.2 ?_
    have hlive := State.live_of_canIssue (s := s) (g := g) (k := helperAfter ((s.core g).lastIssue.get 0 (feIndex fe)) i) (late := late)
    simp only [State.passesAt, State.canIssue, Function.comp_apply, decide_eq_true_eq, Bool.and_eq_true] at hlive ⊢
    exact ⟨fun h => ⟨h.1.1, h.2⟩, fun h => ⟨⟨h.1, hlive h.2⟩, h.2⟩⟩

theorem State.passesAt_placeAfter {s : State} {g k last : Nat} {fe : FE} {late : List Nat} (h1 : 1 ≤ k) (h12 : k ≤ 12) :
    s.passesAt g fe late last (placeAfter last k) = true ↔ (s.ctx g k).fe = fe ∧ s.canIssue g late k = true := by
  simp [State.passesAt, helperAfter_placeAfter h1 h12]

theorem issueSlots : IssueSlots := by
  intro s g fe late ready here last after
  have hready (k : Nat) : s.canIssue g late k = true ↔ ready k := State.canIssue_iff
  have hplace {i : Nat} (hp : s.passesAt g fe late last i = true) : here (helperAfter last i) ∧ ready (helperAfter last i) := by
    obtain ⟨hfe, hi⟩ := Bool.and_eq_true_iff.1 hp
    obtain ⟨h1, h12⟩ := helperAfter_bounds last i
    exact ⟨⟨h1, h12, of_decide_eq_true hfe⟩, (hready _).1 hi⟩
  have hpick : s.pick g fe late = _ := State.pick_eq rfl late
  refine ⟨fun hfe h0 => ?_, fun hn k hk hr hmin => ?_, fun hn hk => ?_, fun k => State.slotless_iff, fun k => State.unready_iff⟩
  · rw [hpick, if_pos ⟨hfe, (hready 0).2 h0⟩]
    rfl
  · obtain ⟨h1, h12, hfe⟩ := hk
    have hlt : after k < 12 := Nat.mod_lt _ (by decide)
    have hfirst : (List.range 12).find? (s.passesAt g fe late last) = some (after k) := by
      refine List.find?_range_eq_some.2
        ⟨(State.passesAt_placeAfter h1 h12).2 ⟨hfe, (hready k).2 hr⟩, List.mem_range.2 hlt, fun j hj => ?_⟩
      rw [Bool.not_eq_true', Bool.eq_false_iff]
      intro hp
      obtain ⟨hh, hr⟩ := hplace hp
      have hle : after k ≤ placeAfter last (helperAfter last j) := hmin _ hh hr
      rw [placeAfter_helperAfter (hj.trans hlt)] at hle
      exact absurd hj (Nat.not_lt.2 hle)
    rw [hpick, if_neg (by rwa [hready]), Option.none_or, hfirst]
    exact congrArg some (helperAfter_placeAfter h1 h12)
  · have hnone : (List.range 12).find? (s.passesAt g fe late last) = none :=
      List.find?_eq_none.2 fun i _ hp => hk _ (hplace hp)
    rw [hpick, if_neg (by rwa [hready]), hnone]
    rfl

/-- Settles O50: what fetching gives (`fetchValues`), what a context does with it (`fetchTraps`), and the issue slots (`issueSlots`). Beyond
the rules, that the caches keep what they read until they drop it (log 12), the %tval of FET.STRADDLE, where R63 and R409 differ (log 44),
and the contexts that are late (log 7) are the model's readings. -/
theorem fetchResults : Obligations.FetchResults := ⟨fetchValues, fetchTraps, issueSlots⟩

end Sys2Proof.Machine
end

section
/-! What comes before the execution of an instruction of the cores: its checks, its queues, and what it pops while it waits. -/
namespace Sys2Proof.Machine

/-! ### Instructions of the cores issue -/

/-- Every instruction of the cores issues one body, the same in every state. -/
theorem exec_eq_issue {i : Instr} (h : i.spec.isSome = true) : ∃ body, ∀ s, exec i s = issue i body s := by
  cases i
  -- events and micro-instructions have no row
  all_goals cases h
  all_goals exact ⟨_, fun _ => rfl⟩

/-! ### Queues of a set (R146, R147) -/

theorem Core.queue_setQueue_ne (c : Core) {n p q : Nat} (l : List Word) (h : q ≠ p) : (c.setQueue n p l).queue n q = c.queue n q :=
  Table.get_set_other _ _ _ (by omega)

/-- The values popped from one queue, the oldest first. -/
def poppedOf (q : Nat) (es : List (Nat × Word)) : List Word := (es.filter (fun e => e.1 = q)).map (·.2)

/-- Values that return stand at the head of their queue, the oldest first (R59). -/
theorem Core.queue_foldr_setQueue (c : Core) (es : List (Nat × Word)) (n q : Nat) :
    (es.foldr (fun e x => x.setQueue n e.1 (e.2 :: x.queue n e.1)) c).queue n q = poppedOf q es ++ c.queue n q := by
  induction es with
  | nil => rfl
  | cons e es ih =>
    rw [List.foldr_cons]
    by_cases h : e.1 = q
    · subst h
      rw [Core.queue_setQueue, ih]
      simp [poppedOf]
    · rw [Core.queue_setQueue_ne _ _ (Ne.symm h), ih]
      simp [poppedOf, h]

/-! ### Giving back what was popped -/

theorem State.core_onCtx (s : State) (g k : Nat) (f : Ctx → Ctx) :
    (s.onCtx g k f).core g = { s.core g with ctxs := (s.core g).ctxs.set k (f (s.ctx g k)) } := State.core_setCore ..

theorem State.cur_unpop (s : State) (g k : Nat) : (s.unpop g k).cur = s.cur := by
  unfold State.unpop
  dsimp only
  split <;> rfl

theorem State.mine_unpop (s : State) : (s.unpop s.cur.1 s.cur.2).mine = (s.unpop s.cur.1 s.cur.2).ctx s.cur.1 s.cur.2 := by
  unfold State.mine
  rw [State.cur_unpop]

theorem State.place_unpop (s : State) (g k : Nat) : (s.unpop g k).place g k = s.place g k := by
  have h : ((s.unpop g k).core g).stage = (s.core g).stage := by
    unfold State.unpop
    dsimp only
    split
    · rfl
    · rw [State.core_onCtx, State.core_onCore, Core.foldr_setQueue]
  unfold State.place
  rw [h]

theorem State.queue_unpop (s : State) (g k q : Nat) : ((s.unpop g k).core g).queue (s.ctx g k).qset q =
    poppedOf q (s.ctx g k).popped ++ (s.core g).queue (s.ctx g k).qset q := by
  unfold State.unpop
  dsimp only
  split
  · rename_i h
    rw [h]
    rfl
  · rw [State.core_onCtx, State.core_onCore]
    exact Core.queue_foldr_setQueue ..

theorem envOf_unpop (s : State) (g k : Nat) (i : Instr) : envOf (s.unpop g k) g k i = envOf s g k i := by
  unfold envOf
  rw [State.ctx_unpop, State.place_unpop]
  rfl

/-- An attempt does as in the state in which nothing was popped (R59, log 43). -/
theorem issue_unpop (i : Instr) (body : Env → M Unit) (s : State) : issue i body (s.unpop s.cur.1 s.cur.2) = issue i body s := by
  unfold issue
  simp only [State.cur_unpop, State.unpop_unpop, State.trapAt_unpop, envOf_unpop, State.ctx_unpop]

/-! ### The checks, and the queues that come after them (R63, R147, R149) -/

section Issuing
variable {i : Instr} {body : Env → M Unit} {s : State}

theorem issue_of_decodeCause {cause : Nat} (h : decodeCause i s.mine.fe = some cause) :
    issue i body s = .next (s.trapped i cause (((encode i).headD 0).setWidth 64)) := by
  have h' : decodeCause i (s.ctx s.cur.1 s.cur.2).fe = some cause := h
  unfold issue
  dsimp only
  rw [h']
  rfl

variable {u : State} (hd : decodeCause i s.mine.fe = none) (hu : s.unpop s.cur.1 s.cur.2 = u)
include hd hu

theorem issue_of_noSet (hq : queueVerdict (u.core s.cur.1) u.mine i = .noSet) : issue i body s = .next
    (u.trapAt s.cur.1 s.cur.2 (envOf s s.cur.1 s.cur.2 i) { cause := 0x0E7, tval := (envOf s s.cur.1 s.cur.2 i).aval }) := by
  have hd' : decodeCause i (s.ctx s.cur.1 s.cur.2).fe = none := hd
  subst hu
  rw [State.mine_unpop] at hq
  unfold issue
  simp only [hd', hq]

theorem issue_of_ended {q : BitVec 6} (hq : queueVerdict (u.core s.cur.1) u.mine i = .ended q) : issue i body s = .next
    (u.trapAt s.cur.1 s.cur.2 (envOf s s.cur.1 s.cur.2 i) { cause := 0x0E8, tval := q.setWidth 64 }) := by
  have hd' : decodeCause i (s.ctx s.cur.1 s.cur.2).fe = none := hd
  subst hu
  rw [State.mine_unpop] at hq
  unfold issue
  simp only [hd', hq]

theorem issue_of_blocked {q : BitVec 6} (hq : queueVerdict (u.core s.cur.1) u.mine i = .blocked q) :
    issue i body s = .next (u.waiting s.cur.1 s.cur.2 (queueWait s.cur.1 s.cur.2)) := by
  have hd' : decodeCause i (s.ctx s.cur.1 s.cur.2).fe = none := hd
  subst hu
  rw [State.mine_unpop] at hq
  unfold issue
  simp only [hd', hq]

end Issuing

/-! ### Popping while it waits -/

/-- A waiting instruction pops one of its queue sources (R147). -/
def State.popSource (g k n : Nat) (s : State) (q : BitVec 6) : State :=
  match (s.core g).queue n (queueIndex q) with
  | [] => s
  | v :: r =>
    (s.onCore g (fun x => x.setQueue n (queueIndex q) r)).onCtx g k (fun c => { c with popped := c.popped ++ [(queueIndex q, v)] })

theorem State.takePops_of_lacking {s : State} {g : Nat} {i : Instr} (h : s.lacksRoom g i = true) (k : Nat) : s.takePops g k i = s :=
  if_pos h

theorem State.takePops_of_room {s : State} {g : Nat} {i : Instr} (h : s.lacksRoom g i = false) (k : Nat) :
    s.takePops g k i = ((operandSources i).filter isQueue).foldl (State.popSource g k (s.ctx g k).qset) s :=
  if_neg (by simp [h])

section Pops
variable {g k n : Nat} (s : State)

theorem State.queue_popSource (q : BitVec 6) (j : Nat) : ((s.popSource g k n q).core g).queue n j =
    ((s.core g).queue n j).drop (if queueIndex q = j then 1 else 0) := by
  unfold State.popSource
  split
  · rename_i h
    split
    · rename_i hj
      rw [← hj, h]
      rfl
    · rfl
  · rename_i v r h
    rw [State.core_onCtx, State.core_onCore]
    split
    · rename_i hj
      rw [← hj, h]
      exact Core.queue_setQueue ..
    · rename_i hj
      exact Core.queue_setQueue_ne _ _ (Ne.symm hj)

theorem State.qset_popSource (q : BitVec 6) : ((s.popSource g k n q).ctx g k).qset = (s.ctx g k).qset := by
  unfold State.popSource
  split
  · rfl
  · rw [State.ctx_onCtx]
    unfold State.ctx
    rw [State.core_onCore]
    rfl

/-- What has been popped, before what the queue still holds: a pop moves one value across. -/
theorem State.popped_popSource (q : BitVec 6) (j : Nat) :
    poppedOf j ((s.popSource g k n q).ctx g k).popped ++ ((s.popSource g k n q).core g).queue n j
      = poppedOf j (s.ctx g k).popped ++ (s.core g).queue n j := by
  rw [State.queue_popSource]
  unfold State.popSource
  split
  · rename_i h
    split
    · rename_i hj
      rw [← hj, h]
      rfl
    · rfl
  · rename_i v r h
    have hc : ((s.onCore g (fun x => x.setQueue n (queueIndex q) r)).ctx g k) = s.ctx g k := by
      unfold State.ctx
      rw [State.core_onCore]
      rfl
    rw [State.ctx_onCtx, hc]
    by_cases hj : queueIndex q = j
    · subst hj
      simp [poppedOf, h]
    · simp [poppedOf, hj]

variable (qs : List (BitVec 6))

theorem State.queue_foldl_popSource (j : Nat) : ((qs.foldl (State.popSource g k n) s).core g).queue n j =
    ((s.core g).queue n j).drop (qs.filter (fun q => decide (queueIndex q = j))).length := by
  induction qs generalizing s with
  | nil => rfl
  | cons q qs ih =>
    rw [List.foldl_cons, ih, State.queue_popSource, List.drop_drop, List.filter_cons]
    by_cases h : queueIndex q = j
    · simp [h, Nat.add_comm]
    · simp [h]

theorem State.qset_foldl_popSource : ((qs.foldl (State.popSource g k n) s).ctx g k).qset = (s.ctx g k).qset := by
  induction qs generalizing s with
  | nil => rfl
  | cons q qs ih => exact (ih _).trans (s.qset_popSource q)

theorem State.popped_foldl_popSource (j : Nat) :
    poppedOf j ((qs.foldl (State.popSource g k n) s).ctx g k).popped ++ ((qs.foldl (State.popSource g k n) s).core g).queue n j
      = poppedOf j (s.ctx g k).popped ++ (s.core g).queue n j := by
  induction qs generalizing s with
  | nil => rfl
  | cons q qs ih => exact (ih _).trans (s.popped_popSource q j)

end Pops

/-- What an instruction pops while it waits, its next attempt finds again (R59, R147). -/
theorem State.queue_unpop_takePops {s : State} {g k : Nat} (i : Instr) (hp : (s.ctx g k).popped = []) (j : Nat) :
    (((s.takePops g k i).unpop g k).core g).queue (s.ctx g k).qset j = (s.core g).queue (s.ctx g k).qset j := by
  cases hl : s.lacksRoom g i with
  | true => rw [State.takePops_of_lacking hl, State.unpop_of_none hp]
  | false =>
    have hq := (s.takePops g k i).queue_unpop g k j
    rw [State.takePops_of_room hl, State.qset_foldl_popSource, State.popped_foldl_popSource, hp] at hq
    rw [State.takePops_of_room hl, hq]
    rfl

theorem State.queue_takePops {s : State} {g : Nat} {i : Instr} (hl : s.lacksRoom g i = false) (k j : Nat) :
    ((s.takePops g k i).core g).queue (s.ctx g k).qset j = ((s.core g).queue (s.ctx g k).qset j).drop
      ((operandSources i).filter (fun q => isQueue q && decide (queueIndex q = j))).length := by
  rw [State.takePops_of_room hl, State.queue_foldl_popSource, List.filter_filter]
  simp only [Bool.and_comm]

/-! ### Waiting for a queue (R150) -/

section Waiting
variable (s : State) (g k : Nat)

theorem Aside.waiting_queueWait : Aside g k s (s.waiting g k (queueWait g k)) := (Aside.refl s).setCtx.setCtx.tick

theorem State.core_waiting (f : State → State) : (s.waiting g k f).core g = { (f s).core g with
    ctxs := ((f s).core g).ctxs.set k { (f s).ctx g k with waitFrom := some (((f s).ctx g k).waitFrom.getD s.clk) } } :=
  State.core_onCtx (f s) g k (fun c => { c with waitFrom := some (c.waitFrom.getD s.clk) })

theorem State.ctx_waiting (f : State → State) : (s.waiting g k f).ctx g k =
    { (f s).ctx g k with waitFrom := some (((f s).ctx g k).waitFrom.getD s.clk) } :=
  State.ctx_onCtx (f s) g k (fun c => { c with waitFrom := some (c.waitFrom.getD s.clk) })

theorem State.core_waiting_queueWait : (s.waiting g k (queueWait g k)).core g =
    { s.core g with ctxs := ((s.waiting g k (queueWait g k)).core g).ctxs } := by
  unfold queueWait
  rw [State.core_waiting, State.core_onCtx]

theorem State.ctx_waiting_queueWait : (s.waiting g k (queueWait g k)).ctx g k = { s.ctx g k with
    mid := false, waitFrom := some ((s.ctx g k).waitFrom.getD s.clk), qFrom := some ((s.ctx g k).qFrom.getD s.clk), unissued := true } := by
  unfold queueWait
  rw [State.ctx_waiting, State.ctx_onCtx]

end Waiting

/-- Settles O51: an instruction of the cores issues one body in every state (`exec_eq_issue`), which the checks and the queues come before;
what it pops while it waits stands before what its queues still hold (`State.popped_popSource`). The words say CPL.QSET where the cause
0x0E7 is R146's CPL.NOQ. That a waiting instruction finds again what it popped is the model's reading (log 43). -/
theorem checksBeforeExecution : Obligations.ChecksBeforeExecution := by
  intro i s hi g k u v
  obtain ⟨body, hexec⟩ := exec_eq_issue hi
  have hmine : u.mine = { s.mine with popped := [] } := s.mine_unpop.trans (s.ctx_unpop g k)
  refine ⟨?_, ?_, fun hp => State.unpop_of_none hp, fun cause hd => ?_, fun hd => ⟨fun hq => ?_, fun q hq => ?_, fun q hq => ?_⟩,
    fun _ hp => ⟨fun hl => State.takePops_of_lacking hl k, fun hl => State.queue_takePops hl k, State.queue_unpop_takePops i hp⟩,
    exec_answers_of_spec hi⟩
  · rw [hexec, hexec]
    exact (issue_unpop i body s).symm
  · rw [hmine]
  · rw [hexec]
    exact issue_of_decodeCause hd
  · rw [hexec]
    exact issue_of_noSet hd rfl hq
  · rw [hexec]
    exact issue_of_ended hd rfl hq
  · refine ⟨_, (hexec s).trans (issue_of_blocked hd rfl hq), ?_⟩
    have ha : Aside g k u (u.waiting g k (queueWait g k)) := .waiting_queueWait u g k
    have hclk : u.clk = s.clk := s.clk_unpop g k
    refine ⟨ha.result (congrArg (· + 1) hclk), ha.core, u.core_waiting_queueWait g k, ha.ctx, ?_⟩
    rw [State.ctx_waiting_queueWait, ← s.mine_unpop, hmine, hclk]

end Sys2Proof.Machine
end

section
/-! Stream instructions (row D): what reading operands leaves of a state, how a descriptor step of the issuing context is placed and released,
the steps of a descriptor, its action queue, and creating, binding, placing and querying streams. -/
namespace Sys2Proof.Machine

/-! ### Fields of a word -/

theorem field_mod (w : Word) (n : Nat) : field w 0 n = w.toNat % 2 ^ n := by rw [field, pow_zero, Nat.div_one]

/-- A field that reaches the end of its word. -/
theorem field_div {w : Word} {lo n : Nat} (h : 64 ≤ lo + n) : field w lo n = w.toNat / 2 ^ lo := by
  have hw : w.toNat < 2 ^ lo * 2 ^ n := by
    rw [← pow_add]
    exact w.isLt.trans_le (Nat.pow_le_pow_right (by decide) h)
  exact Nat.mod_eq_of_lt (Nat.div_lt_of_lt_mul hw)

/-- The number of an instruction's function. -/
theorem code_toNat {fn k : BitVec 4} (hx : fn = k) : fn.toNat = k.toNat := congrArg BitVec.toNat hx

/-! ### Updates of the current context -/

theorem Table.set_set {α : Type} (t : Table α) (i : Nat) (v w : α) : Table.set (t.set i v) i w = t.set i w := by
  induction t with
  | nil => simp [Table.set]
  | cons e t ih =>
    by_cases h : e.1 = i
    · simp [Table.set, h]
    · simp [Table.set, h, ih]

section Mine
variable (s : State) (f h : Ctx → Ctx)

theorem State.onCtx_onCtx (g k : Nat) : (s.onCtx g k f).onCtx g k h = s.onCtx g k (fun c => h (f c)) := by
  unfold State.onCtx
  rw [State.ctx_setCtx]
  unfold State.setCtx
  rw [State.core_setCore]
  unfold State.setCore
  dsimp only
  rw [Table.set_set, Table.set_set]

theorem State.onMine_onMine : (s.onMine f).onMine h = s.onMine (fun c => h (f c)) := s.onCtx_onCtx f h s.cur.1 s.cur.2

theorem State.mine_onMine : (s.onMine f).mine = f s.mine := s.ctx_onCtx s.cur.1 s.cur.2 f

@[simp] theorem State.onMine_cur : (s.onMine f).cur = s.cur := rfl

end Mine

/-! ### Reading operands -/

/-- State t is what reading operands leaves of s: the current context has its PC and its fetch buffer changed, and the queues have lost
entries. -/
structure Reads (s t : State) : Prop where
  units : t = { s with cores := t.cores, seen := t.seen }
  mine : t.mine = { s.mine with pc := t.mine.pc, fbuf := t.mine.fbuf }

theorem Ctx.touched_eq (c : Ctx) : c.touched = { c with fbuf := c.touched.fbuf } := by
  unfold Ctx.touched
  split
  · rfl
  · rfl

theorem State.mine_pull (s : State) (c : BitVec 6) : (s.pull c).2.mine = s.mine := by
  unfold State.pull
  split
  · split
    · rfl
    · unfold State.mine State.ctx
      rw [State.onCore_cur, State.core_onCore]
      rfl
  · rfl

theorem State.pull_eq (s : State) (c : BitVec 6) : (s.pull c).2 = { s with cores := (s.pull c).2.cores } := by
  unfold State.pull
  split
  · split
    · rfl
    · rfl
  · rfl

namespace Reads
variable {s t : State}

theorem begun (s : State) (i : Instr) : Reads s (s.begun i) where
  units := rfl
  mine := by
    have h : (s.begun i).mine = { s.mine.touched with pc := s.mine.pc + BitVec.ofNat 64 (instrBytes i) } := State.mine_onMine _ _
    rw [h, Ctx.touched_eq]

theorem pull (h : Reads s t) (c : BitVec 6) : Reads s (t.pull c).2 where
  units := by rw [State.pull_eq, h.units]
  mine := by rw [State.mine_pull, h.mine]

theorem of_pull {u : State} {c : BitVec 6} {v : Word} (h : Reads s t) (hp : t.pull c = (v, u)) : Reads s u := by
  have hu := h.pull c
  rwa [hp] at hu

variable (h : Reads s t)
include h

theorem congr {α : Type} (f : State → α) (hf : ∀ x y, f { s with cores := x, seen := y } = f s := by exact fun _ _ => rfl) :
    f t = f s := by rw [h.units, hf]

theorem congr_mine {α : Type} (f : Ctx → α) (hf : ∀ x y, f { s.mine with pc := x, fbuf := y } = f s.mine := by exact fun _ _ => rfl) :
    f t.mine = f s.mine := by rw [h.mine, hf]

theorem cur : t.cur = s.cur := h.congr State.cur

theorem stream (n : Nat) : t.stream n = s.stream n := h.congr (·.stream n)

theorem ownerOf : t.ownerOf s.cur.1 s.cur.2 = s.ownerOf s.cur.1 s.cur.2 := by
  have hl : (t.ctx s.cur.1 s.cur.2).launch = s.mine.launch := by
    rw [← h.cur]
    exact h.congr_mine Ctx.launch
  have hs : t.launch = s.launch := h.congr State.launch
  unfold State.ownerOf
  rw [hl, hs]
  rfl

end Reads

/-! ### Placing and releasing a descriptor step (R323, R326, R342, R480) -/

section Step
variable {s : State} {n : Nat} {aval : Word}

theorem State.placeLines_time (s : State) (agent : BitVec 24) (l : Nat) (lines : List Nat) :
    (s.placeLines agent l lines).2 = s.timeLines l lines := by
  unfold State.placeLines
  dsimp only
  split
  · rfl
  · rfl

theorem State.placeLines_eq (s : State) (agent : BitVec 24) (l : Nat) (lines : List Nat) : (s.placeLines agent l lines).1 =
    { s with lines := (s.placeLines agent l lines).1.lines, dev := (s.placeLines agent l lines).1.dev } := by
  unfold State.placeLines
  dsimp only
  split
  · rfl
  · rfl

theorem State.descPlaced_time (s : State) (n : Nat) : (s.descPlaced n).2 = s.timeLines s.mine.l [descLine n, descLine n + 1] :=
  State.placeLines_time ..

theorem State.descPlaced_eq (s : State) (n : Nat) : (s.descPlaced n).1 =
    { s with lines := (s.descPlaced n).1.lines, dev := (s.descPlaced n).1.dev } := State.placeLines_eq ..

@[simp] theorem State.descPlaced_cur (s : State) (n : Nat) : (s.descPlaced n).1.cur = s.cur := by rw [s.descPlaced_eq n]

/-- The state in which the issuing context has placed a descriptor step and released its time. -/
def State.released (s : State) (n : Nat) : State := (s.descPlaced n).1.onMine fun c => { c with l := (s.descPlaced n).2 + 1 }

theorem State.stepped_eq (s : State) (n : Nat) : s.stepped n = (s.released n).onStream n (·.stamp (s.descPlaced n).2) := rfl

theorem State.released_cur (s : State) (n : Nat) : (s.released n).cur = s.cur := s.descPlaced_cur n

@[simp] theorem State.stepped_cur (s : State) (n : Nat) : (s.stepped n).cur = s.cur := by
  rw [State.stepped_eq, State.onStream_cur, State.released_cur]

theorem State.ownerOf_released {s : State} {g k : Nat} (h : s.cur = (g, k)) (n : Nat) : (s.released n).ownerOf g k = s.ownerOf g k := by
  have hl : ((s.released n).ctx g k).launch = (s.ctx g k).launch := by
    have hm : (s.released n).mine = { (s.descPlaced n).1.mine with l := (s.descPlaced n).2 + 1 } := State.mine_onMine _ _
    unfold State.mine at hm
    rw [State.released_cur, State.descPlaced_cur, h] at hm
    rw [hm, State.descPlaced_eq]
    rfl
  have hs : (s.released n).launch = s.launch := by
    unfold State.released
    rw [State.descPlaced_eq]
    rfl
  unfold State.ownerOf
  rw [hl, hs]

/-- A step is given the same time after a change of descriptors. -/
theorem State.descPlaced_time_onStream (s : State) (f : Stream → Stream) (m n : Nat) :
    ((s.onStream m f).descPlaced n).2 = (s.descPlaced n).2 := by
  rw [State.descPlaced_time, State.descPlaced_time]
  rfl

theorem Reads.descPlaced_time {t : State} (h : Reads s t) : (t.descPlaced n).2 = (s.descPlaced n).2 := by
  have hl : t.timeLines = s.timeLines := h.congr State.timeLines
  rw [State.descPlaced_time, State.descPlaced_time, hl, h.congr_mine Ctx.l]

end Step

/-! ### Running the shared steps of a body -/

section Run
variable {α β : Type} {s t : State} {n : Nat} {aval : Word}

theorem bind_run_of {m : M α} {f : α → M β} {a : α} {r : Except Stop (β × State)} (h : m.run s = .ok (a, t)) (h' : (f a).run t = r) :
    (m >>= f).run s = r := (bind_run_ok h).trans h'

theorem ite_run_pos {c : Prop} [Decidable c] {m m' : M α} {r : Except Stop (α × State)} (hc : c) (h : m.run s = r) :
    (if c then m else m').run s = r := by rwa [if_pos hc]

theorem ite_run_neg {c : Prop} [Decidable c] {m m' : M α} {r : Except Stop (α × State)} (hc : ¬c) (h : m'.run s = r) :
    (if c then m else m').run s = r := by rwa [if_neg hc]

theorem src_run_of {c : BitVec 6} {v : Word} (h : s.pull c = (v, t)) : (src c).run s = .ok (v, t) := by rw [src_run, h]

theorem me_run_of {c : Nat × Nat} (h : s.cur = c) : me.run s = .ok (c, s) := by rw [me_run, h]

theorem set_run (t s : State) : (set t : M Unit).run s = .ok ((), t) := rfl

theorem onStreamM_run (n : Nat) (f : Stream → Stream) (s : State) : (onStreamM n f).run s = .ok ((), s.onStream n f) := rfl

theorem checkHandle_run {w : Word} (h : s.Names w n) : (checkHandle w aval).run s = .ok (n, s) := by
  obtain ⟨hok, hhome, rfl, hgen⟩ := h
  exact bind_run_of (trapIf_run_false (by rw [hok]; rfl) ..) <| bind_run_of (trapIf_run_false (decide_eq_false (not_not.2 hhome)) ..) <|
    bind_run_of (get_run s) <| bind_run_of (trapIf_run_false (decide_eq_false (not_not.2 hgen)) ..) <| rfl

theorem acquire_run {p : Nat} (h : max s.mine.h p + 1 < clockLimit) : (acquire p aval).run s = .ok ((), s.acquires p) :=
  bind_run_of (myCtx_run s) <| bind_run_of (trapIf_run_false (decide_eq_false (by omega)) ..) <| onMyCtx_run _ s

theorem release_run (h : s.mine.l + 1 < clockLimit) :
    (release aval).run s = .ok (s.mine.l, s.onMine fun c => { c with l := c.l + 1 }) :=
  bind_run_of (myCtx_run s) <| bind_run_of (trapIf_run_false (decide_eq_false (by omega)) ..) <| bind_run_of (onMyCtx_run _ s) rfl

theorem stepPlace_run (h : (s.descPlaced n).2 < clockLimit) :
    (stepPlace n aval).run s = .ok ((), (s.descPlaced n).1.onMine fun c => { c with l := (s.descPlaced n).2 }) :=
  bind_run_of (get_run s) <| bind_run_of (trapIf_run_false (decide_eq_false (by exact Nat.not_le.2 h)) ..) <| bind_run_of (set_run ..) <|
    onMyCtx_run ..

/-- A placed step releases its time (R342, R480). -/
theorem release_run_placed (h : (s.descPlaced n).2 + 1 < clockLimit) :
    (release aval).run ((s.descPlaced n).1.onMine fun c => { c with l := (s.descPlaced n).2 })
      = .ok ((s.descPlaced n).2, s.released n) := by
  rw [release_run (by rwa [State.mine_onMine]), State.mine_onMine, State.onMine_onMine]
  rfl

theorem stepRelease_run (h : (s.descPlaced n).2 + 1 < clockLimit) :
    (stepRelease n aval).run s = .ok ((s.descPlaced n).2, s.stepped n) :=
  bind_run_of (stepPlace_run (by omega)) <| bind_run_of (release_run_placed h) <| bind_run_of (modify_run ..) rfl

end Run

/-! ### SSTEP (R477) -/

theorem recordCkpt_run {s : State} {a b aval : Word} {n : Nat} (hb : b.toNat < 8)
    (hc : ∀ c, (s.engine (clusterOf s.cur.1)).slots.find b.toNat = some c → c.tag = a ∧ c.owner = s.ownerOf s.cur.1 s.cur.2)
    (hs : ((s.engine (clusterOf s.cur.1)).slots.find b.toNat).isSome = true) :
    (recordCkpt n a b aval).run s = .ok ((), s.onStream n (fun d =>
      { d with ckdie := dieOf s.cur.1, ckcl := clusterOf s.cur.1 % 128, ckslot := b.toNat, ckv := true })) := by
  obtain ⟨c, hfind⟩ := Option.isSome_iff_exists.1 hs
  obtain ⟨htag, howner⟩ := hc c hfind
  refine bind_run_of (bind_run_of (get_run s) rfl) <| bind_run_of (get_run s) ?_
  simp only [Nat.mod_eq_of_lt hb, hfind, htag, howner, decide_true, Bool.and_self, Bool.not_true, Bool.or_false]
  exact bind_run_of (trapIf_run_false (decide_eq_false (Nat.not_le.2 hb)) ..) <| onStreamM_run ..

section Step
variable {s sa w : State} {n : Nat} {a : Word}

/-- An instruction that writes a field of a descriptor that is not frozen, and gives an old value. -/
theorem issue_step {i : Instr} {c d : BitVec 6} {m : Env → Word → Nat → State → M Word} {f : Stream → Stream} {old : Word}
    (hi : Issues i s) (ha : (s.begun i).pull c = (a, sa)) (hn : sa.Names a n) (hf : (s.stream n).state ≠ SState.frozen)
    (hl : (s.descPlaced n).2 + 1 < clockLimit) (hw : Reads s w)
    (hm : (m (envOf s s.cur.1 s.cur.2 i) a n sa).run sa = .ok (old, w.onStream n f)) :
    issue i (fun v => do
      let a ← src c
      let n ← checkHandle a v.aval
      let s ← get
      trapIf (decide ((s.stream n).state = SState.frozen)) 0x169 v.aval
      let old ← m v a n s
      let _ ← stepRelease n v.aval
      dst d old) s = .next ((((w.onStream n f).stepped n).give d old).completed i) := by
  have hf' : (sa.stream n).state ≠ SState.frozen := by rwa [((Reads.begun s i).of_pull ha).stream]
  refine issue_ok hi ?_ (by rw [State.give_cur, State.stepped_cur, State.onStream_cur, hw.cur])
  exact bind_run_of (src_run_of ha) <| bind_run_of (checkHandle_run hn) <| bind_run_of (get_run _) <|
    bind_run_of (trapIf_run_false (decide_eq_false hf') ..) <| bind_run_of hm <|
    bind_run_of (stepRelease_run (by rwa [State.descPlaced_time_onStream, hw.descPlaced_time])) <| dst_run ..

variable {x : RFields} {b : Word} {sb : State} (hi : Issues (.sstep x) s) (ha : (s.begun (.sstep x)).pull x.a = (a, sa)) (hb : sa.pull x.b = (b, sb))
  (hn : sa.Names a n) (hf : (s.stream n).state ≠ .frozen) (hl : (s.descPlaced n).2 + 1 < clockLimit)

include hi ha hn hf hl

theorem exec_sstep_checkpointDrop (hx : x.fn = 3) : exec (.sstep x) s
    = .next ((((sa.onStream n fun d => { d with ckv := false }).stepped n).give x.d ((s.stream n).dword 11)).completed (.sstep x)) := by
  have hr := (Reads.begun s (.sstep x)).of_pull ha
  refine issue_step hi ha hn hf hl hr ?_
  simp only [code_toNat hx]
  refine bind_run_of (onStreamM_run ..) ?_
  rw [hr.stream]
  rfl

include hb

theorem exec_sstep_horizon (hx : x.fn = 0) (hv : b.toNat < 2 ^ 32) : exec (.sstep x) s = .next ((((sb.onStream n fun d =>
      { d with horizon := b.toNat, hzn := decide (b ≠ 0) && decide (b.toNat ≤ d.steps) }).stepped n).give x.d
        ((s.stream n).dword 3)).completed (.sstep x)) := by
  have hr := (Reads.begun s (.sstep x)).of_pull ha
  refine issue_step hi ha hn hf hl (hr.of_pull hb) ?_
  simp only [code_toNat hx]
  refine bind_run_of (src_run_of hb) <| bind_run_of (trapIf_run_false (decide_eq_false (Nat.not_le.2 hv)) ..) <| bind_run_of (onStreamM_run ..) ?_
  rw [hr.stream]
  rfl

theorem exec_sstep_draw (hx : x.fn = 1) : exec (.sstep x) s = .next ((((sb.onStream n fun d =>
      { d with gpos := b.toNat / 2 ^ 24, draw := b.toNat % 2 ^ 24 }).stepped n).give x.d ((s.stream n).dword 9)).completed (.sstep x)) := by
  have hr := (Reads.begun s (.sstep x)).of_pull ha
  refine issue_step hi ha hn hf hl (hr.of_pull hb) ?_
  simp only [code_toNat hx]
  refine bind_run_of (src_run_of hb) <| bind_run_of (onStreamM_run ..) ?_
  rw [hr.stream, field_mod, field_div (by decide)]
  rfl

theorem exec_sstep_position (hx : x.fn = 4) (hv : b.toNat < 2 ^ 40) (h1 : (s.stream n).state ≠ .ready) (h2 : (s.stream n).state ≠ .running) :
    exec (.sstep x) s
      = .next ((((sb.onStream n fun d => { d with position := b.toNat }).stepped n).give x.d ((s.stream n).dword 7)).completed (.sstep x)) := by
  have hr := (Reads.begun s (.sstep x)).of_pull ha
  refine issue_step hi ha hn hf hl (hr.of_pull hb) ?_
  simp only [code_toNat hx]
  refine bind_run_of (src_run_of hb) <| bind_run_of (trapIf_run_false ?_ ..) <| bind_run_of (onStreamM_run ..) ?_
  · simp only [hr.stream, decide_eq_false h1, decide_eq_false h2, decide_eq_false (Nat.not_le.2 hv), Bool.or_false]
  · rw [hr.stream]
    rfl

theorem exec_sstep_checkpoint (hx : x.fn = 2) (hv : b.toNat < 8)
    (hc : ∀ c, (s.engine (clusterOf s.cur.1)).slots.find b.toNat = some c → c.tag = a ∧ c.owner = s.ownerOf s.cur.1 s.cur.2)
    (hs : ((s.engine (clusterOf s.cur.1)).slots.find b.toNat).isSome = true) : exec (.sstep x) s = .next ((((sb.onStream n fun d =>
      { d with ckdie := dieOf s.cur.1, ckcl := clusterOf s.cur.1 % 128, ckslot := b.toNat, ckv := true }).stepped n).give x.d
        ((s.stream n).dword 11)).completed (.sstep x)) := by
  have hr := (Reads.begun s (.sstep x)).of_pull ha
  have hr' := hr.of_pull hb
  have he : sb.engine = s.engine := hr'.congr State.engine
  refine issue_step hi ha hn hf hl hr' ?_
  simp only [code_toNat hx]
  rw [← hr'.cur]
  refine bind_run_of (src_run_of hb) <| bind_run_of (recordCkpt_run hv ?_ ?_) ?_
  · rwa [he, hr'.cur, hr'.ownerOf]
  · rwa [he, hr'.cur]
  · rw [hr.stream]
    rfl

end Step

/-! ### The action queue (R98, R479) -/

/-- The dwords of an entry that APUSH stores (R98). -/
theorem pushedEntry_toNat (d : Stream) (b : Word) : (pushedEntry d b).1.toNat = b.toNat % 2 ^ 32
    ∧ (pushedEntry d b).2.toNat = d.draw % 2 ^ 24 * 2 ^ 32 + d.steps % 2 ^ 32 := by
  unfold pushedEntry
  refine ⟨?_, ?_⟩
  · rw [BitVec.toNat_ofNat]
    omega
  · rw [BitVec.toNat_ofNat]
    omega

section Push
variable {s sa sb t u : State} {x : RFields} {n : Nat} {a b : Word} (hi : Issues (.apush x) s)
  (ha : (s.begun (.apush x)).pull x.a = (a, sa)) (hb : sa.pull x.b = (b, sb)) (hn : sb.Names a n)
  (hf : (s.stream n).state ≠ SState.frozen) (hg : (s.stream n).gone = false) (hv : b.toNat < 2 ^ 32)
include hi ha hb hn hf hg hv

/-- The checks of APUSH, and what comes once they are passed. -/
theorem issue_apush {k : Env → Word → Nat → State → M Unit} (hk : (k (envOf s s.cur.1 s.cur.2 (.apush x)) b n sb).run sb = .ok ((), t))
    (ht : t.cur = s.cur) : issue (.apush x) (fun v => do
      let a ← src x.a
      let b ← src x.b
      let n ← checkHandle a v.aval
      let s ← get
      trapIf (decide ((s.stream n).state = SState.frozen)) 0x169 v.aval
      trapIf (s.stream n).gone 0x164 v.aval
      trapIf (decide (2 ^ 32 ≤ b.toNat)) 0x168 v.aval
      k v b n s) s = .next (t.completed (.apush x)) := by
  have hs : sb.stream n = s.stream n := (((Reads.begun s (.apush x)).of_pull ha).of_pull hb).stream n
  refine issue_ok hi ?_ ht
  refine bind_run_of (src_run_of ha) <| bind_run_of (src_run_of hb) <| bind_run_of (checkHandle_run hn) <| bind_run_of (get_run _) ?_
  rw [hs]
  exact bind_run_of (trapIf_run_false (decide_eq_false hf) ..) <| bind_run_of (trapIf_run_false hg ..) <|
    bind_run_of (trapIf_run_false (decide_eq_false (Nat.not_le.2 hv)) ..) hk

theorem exec_apush_full (hq : 2 ^ (s.stream n).qlog ≤ (s.stream n).held) (hx : x.fn = 1) :
    exec (.apush x) s = .next ((sb.give x.d (-1)).completed (.apush x)) := by
  have hr := ((Reads.begun s (.apush x)).of_pull ha).of_pull hb
  refine issue_apush hi ha hb hn hf hg hv ?_ ((State.give_cur ..).trans hr.cur)
  rw [hr.stream]
  exact ite_run_pos (decide_eq_true hq) <| ite_run_pos hx <| dst_run ..

theorem exec_apush (hq : (s.stream n).held < 2 ^ (s.stream n).qlog) :
    let d := s.stream n
    let va := BitVec.ofNat 64 (d.entryAddr d.qtail)
    let lo := bytesOfNat 8 (b.toNat % 2 ^ 32)
    let hi := bytesOfNat 8 (d.draw % 2 ^ 24 * 2 ^ 32 + d.steps % 2 ^ 32)
    let v := envOf s s.cur.1 s.cur.2 (.apush x)
    Does (storeBytes va lo 6 4 [(va, lo)] v) sb () t → Does (storeBytes (va + 8) hi 6 4 [(va + 8, hi)] v) t () u →
    (u.descPlaced n).2 + 1 < clockLimit →
    let w := (u.onStream n (fun e => { e with qtail := (e.qtail + 1) % 2 ^ 24 })).stepped n
    let z := if d.state = .waitingAction then w.wakeStream n (u.descPlaced n).2 else w
    z.cur = s.cur → exec (.apush x) s = .next ((z.give x.d (BitVec.ofNat 64 (d.held + 1))).completed (.apush x)) := by
  intro d va lo hi' v hlo hhi hl w z hz
  obtain ⟨elo, ehi⟩ := pushedEntry_toNat d b
  have hr := ((Reads.begun s (.apush x)).of_pull ha).of_pull hb
  refine issue_apush hi ha hb hn hf hg hv ?_ ((State.give_cur ..).trans hz)
  rw [hr.stream]
  refine ite_run_neg (by simpa [Stream.full] using hq) ?_
  dsimp only
  rw [elo, ehi]
  refine bind_run_of hlo <| bind_run_of hhi <| bind_run_of (onStreamM_run ..) <|
    bind_run_of (stepRelease_run (by rwa [State.descPlaced_time_onStream])) ?_
  rw [State.descPlaced_time_onStream]
  by_cases hw : d.state = .waitingAction
  · have hz' : z = w.wakeStream n (u.descPlaced n).2 := if_pos hw
    rw [hz']
    exact ite_run_pos hw <| bind_run_of (modify_run ..) <| dst_run ..
  · have hz' : z = w := if_neg hw
    rw [hz']
    exact ite_run_neg hw <| dst_run ..

end Push

section Pop
variable {s sa t u : State} {x : RFields} {n : Nat} {a : Word} (hi : Issues (.apop x) s)
  (ha : (s.begun (.apop x)).pull x.a = (a, sa)) (hn : sa.Names a n)
  (hf : x.fn = 0 → (s.stream n).state ≠ SState.frozen) (hg : (s.stream n).gone = false)
  (hl : max s.mine.h (s.stream n).clock + 1 < clockLimit)
include hi ha hn hf hg hl

/-- The checks of APOP and its acquire, and what comes then. -/
theorem issue_apop {k : Env → Nat → State → M Unit}
    (hk : (k (envOf s s.cur.1 s.cur.2 (.apop x)) n sa).run (sa.acquires (s.stream n).clock) = .ok ((), t))
    (ht : t.cur = s.cur) : issue (.apop x) (fun v => do
      let a ← src x.a
      let n ← checkHandle a v.aval
      let s ← get
      trapIf (decide (x.fn = 0) && decide ((s.stream n).state = SState.frozen)) 0x169 v.aval
      trapIf (s.stream n).gone 0x164 v.aval
      acquire (s.stream n).clock v.aval
      k v n s) s = .next (t.completed (.apop x)) := by
  have hr := (Reads.begun s (.apop x)).of_pull ha
  have hc : (decide (x.fn = 0) && decide ((s.stream n).state = SState.frozen)) = false := by simpa using hf
  have hl' : max sa.mine.h (s.stream n).clock + 1 < clockLimit := by rwa [hr.congr_mine Ctx.h]
  refine issue_ok hi ?_ ht
  refine bind_run_of (src_run_of ha) <| bind_run_of (checkHandle_run hn) <| bind_run_of (get_run _) ?_
  rw [hr.stream]
  exact bind_run_of (trapIf_run_false hc ..) <| bind_run_of (trapIf_run_false hg ..) <| bind_run_of (acquire_run hl') hk

theorem exec_apop_empty (hq : (s.stream n).held = 0) :
    exec (.apop x) s = .next ((((sa.acquires (s.stream n).clock).give x.d 0).give (x.d + 1) (-1)).completed (.apop x)) := by
  have hr := (Reads.begun s (.apop x)).of_pull ha
  refine issue_apop hi ha hn hf hg hl ?_ ?_
  · rw [hr.stream]
    exact ite_run_pos hq <| bind_run_of (dst_run ..) <| dst_run ..
  · rw [State.give_cur, State.give_cur]
    exact hr.cur

theorem exec_apop {lo hi' : Word} (hu : u.cur = s.cur) (hq : (s.stream n).held ≠ 0) :
    let d := s.stream n
    let va := BitVec.ofNat 64 (d.entryAddr d.qhead)
    let v := envOf s s.cur.1 s.cur.2 (.apop x)
    Does (loadDword va v.aval v.pc) (sa.acquires d.clock) lo t → Does (loadDword (va + 8) v.aval v.pc) t hi' u →
    (x.fn = 0 → (u.descPlaced n).2 + 1 < clockLimit) →
    exec (.apop x) s = .next ((((if x.fn = 0 then (u.onStream n (fun e => { e with qhead := (e.qhead + 1) % 2 ^ 24 })).stepped n
      else u).give x.d lo).give (x.d + 1) hi').completed (.apop x)) := by
  intro d va v hlo hhi hst
  have hr := (Reads.begun s (.apop x)).of_pull ha
  refine issue_apop hi ha hn hf hg hl ?_ ?_
  · rw [hr.stream]
    refine ite_run_neg hq <| bind_run_of hlo <| bind_run_of hhi ?_
    by_cases hx : x.fn = 0
    · rw [if_pos hx]
      exact ite_run_pos (decide_eq_true hx) <| bind_run_of (onStreamM_run ..) <|
        bind_run_of (stepRelease_run (by rw [State.descPlaced_time_onStream]; exact hst hx)) <| bind_run_of (dst_run ..) <| dst_run ..
    · rw [if_neg hx]
      exact ite_run_neg (by simpa using hx) <| bind_run_of (dst_run ..) <| dst_run ..
  · rw [State.give_cur, State.give_cur]
    split
    · rw [State.stepped_cur, State.onStream_cur, hu]
    · exact hu

end Pop

/-- Settles O24: each field of SSTEP is a descriptor step (`issue_step`), and APUSH and APOP are checked, then store or load an entry of the
queue (`issue_apush`, `issue_apop`). -/
theorem streamStepAndQueue : Obligations.StreamStepAndQueue := by
  intro s x n
  refine ⟨?_, fun t u _ _ => ?_, fun t u lo hi _ hu => ?_⟩
  · intro i a b d v writes hi hn hf hl
    exact ⟨fun hx hv => exec_sstep_horizon hi rfl rfl hn hf hl hx hv, fun hx => exec_sstep_draw hi rfl rfl hn hf hl hx,
      fun hx hv hc hs => exec_sstep_checkpoint hi rfl rfl hn hf hl hx hv hc hs, fun hx => exec_sstep_checkpointDrop hi rfl hn hf hl hx,
      fun hx hv h1 h2 => exec_sstep_position hi rfl rfl hn hf hl hx hv h1 h2⟩
  · intro i a b d va lo hi v hissues hn hf hg hv
    exact ⟨fun hq hx => exec_apush_full hissues rfl rfl hn hf hg hv hq hx, fun hq => exec_apush hissues rfl rfl hn hf hg hv hq⟩
  · intro i a d va v hissues hn hf hg hl
    exact ⟨fun hq => exec_apop_empty hissues rfl hn hf hg hl hq, fun hq => exec_apop hissues rfl hn hf hg hl hu hq⟩

/-! ### SNEW and FORK (R177, R178) -/

theorem newStream_eq (ws : List Word) (owner p : Nat) : newStream ws owner p = {
    horizon := (ws.getD 0 0).toNat / 2 ^ 32, resv := (ws.getD 0 0).toNat % 2 ^ 32, qbase := ws.getD 1 0,
    qlog := (ws.getD 2 0).toNat % 256, prio := (ws.getD 2 0).toNat / 256 % 16, jgroup := (ws.getD 2 0).toNat / 2 ^ 16 % 2 ^ 16,
    gkey := ws.getD 3 0, node := 0xFFFF, owner := owner, clock := p } := by
  unfold newStream
  dsimp only
  rw [field_div (w := ws.getD 0 0) (lo := 32) (by decide), field_mod, field_mod]
  rfl

section Create
variable {s u s1 t : State} {x : RFields} {ws : List Word} {n m : Nat} {r : Word}

theorem snewAdmits {sa sb : State} {a b : Word} (hi : Issues (.snew x) s) (ha : (s.begun (.snew x)).pull x.a = (a, sa)) (hb : sa.pull x.b = (b, sb))
    (hal : a.toNat % 32 = 0) (hws : Does (loadDwords a (envOf s s.cur.1 s.cur.2 (.snew x)) 4) sb ws u) (hid : b.toNat < 2 ^ 24)
    (hok : creationOk ws = true) (hu : u.cur = s.cur) :
    let take := u.takeId b.toNat (dieOf s.cur.1) (u.ownerOf s.cur.1 s.cur.2) ((ws.getD 0 0).toNat % 2 ^ 32)
    (take = (s1, .error r) → s1.cur = s.cur → exec (.snew x) s = .next ((s1.give x.d r).completed (.snew x)))
    ∧ (take = (s1, .ok n) → s1.cur = s.cur → (s1.descPlaced n).2 + 1 < clockLimit →
      t = (s1.released n).admitNew n
        (newStream ws (s1.ownerOf s.cur.1 s.cur.2) (s1.descPlaced n).2) → t.cur = s.cur →
      exec (.snew x) s = .next ((t.give x.d (handleOf n (t.stream n).gen)).completed (.snew x))) := by
  intro take
  have run := fun {t : State} h (ht : t.cur = s.cur) => show execSnew x s = .next (t.completed (.snew x)) from
    issue_ok hi (bind_run_of (src_run_of ha) <| bind_run_of (src_run_of hb) <| bind_run_of (trapIf_run_false (by simpa using hal) ..) <|
      bind_run_of hws <| bind_run_of (trapIf_run_false (by simpa [hok] using hid) ..) <| bind_run_of (me_run_of hu) <| bind_run_of (get_run u) h) ht
  refine ⟨fun htake h1 => run ?_ (by rw [State.give_cur, h1]), fun htake h1 hl ht htc => run ?_ (by rw [State.give_cur, htc])⟩
  · rw [field_mod, show u.takeId b.toNat _ _ _ = (s1, .error r) from htake]
    exact bind_run_of (set_run ..) <| dst_run ..
  · rw [field_mod, show u.takeId b.toNat _ _ _ = (s1, .ok n) from htake]
    refine bind_run_of (set_run ..) <| bind_run_of (stepPlace_run (by omega)) <| bind_run_of (release_run_placed hl) <|
      bind_run_of (modify_run ..) <| bind_run_of (get_run _) ?_
    rw [State.ownerOf_released h1, ← ht]
    exact dst_run ..

theorem forkAdmits {sa sb : State} {a b : Word} (hi : Issues (.fork x) s) (ha : (s.begun (.fork x)).pull x.a = (a, sa)) (hb : sa.pull x.b = (b, sb))
    (hn : sb.Names a n) (hal : b.toNat % 32 = 0) (hws : Does (loadDwords b (envOf s s.cur.1 s.cur.2 (.fork x)) 4) sb ws u)
    (hok : forkOk ws = true) (hu : u.cur = s.cur) :
    let d := u.stream n
    let take := u.takeId ((ws.getD 1 0).toNat % 2 ^ 24) (dieOf s.cur.1) d.owner d.resv
    (d.gone = true → exec (.fork x) s = .next ((u.give x.d (-4)).completed (.fork x)))
    ∧ (d.gone = false → (u.node d.root).refcnt = 65535 → exec (.fork x) s = .next ((u.give x.d (-3)).completed (.fork x)))
    ∧ (d.gone = false → (u.node d.root).refcnt ≠ 65535 → take = (s1, .error r) → s1.cur = s.cur →
      exec (.fork x) s = .next ((s1.give x.d r).completed (.fork x)))
    ∧ (d.gone = false → (u.node d.root).refcnt ≠ 65535 → take = (s1, .ok m) → (s1.descPlaced m).2 + 1 < clockLimit →
      t = (s1.released m).admitChild m (childStream d n ws (s1.descPlaced m).2) → t.cur = s.cur →
      exec (.fork x) s = .next ((t.give x.d (handleOf m (t.stream m).gen)).completed (.fork x))) := by
  intro d take
  have run := fun {t : State} h (ht : t.cur = s.cur) => show execFork x s = .next (t.completed (.fork x)) from
    issue_ok hi (bind_run_of (src_run_of ha) <| bind_run_of (src_run_of hb) <| bind_run_of (checkHandle_run hn) <|
      bind_run_of (trapIf_run_false (by simpa using hal) ..) <| bind_run_of hws <| bind_run_of (trapIf_run_false (by simp [hok]) ..) <|
      bind_run_of (get_run u) h) ht
  refine ⟨fun hg => run (ite_run_pos hg <| dst_run ..) (by rw [State.give_cur, hu]),
    fun hg hr => run (ite_run_neg (by simpa using hg) <| ite_run_pos hr <| dst_run ..) (by rw [State.give_cur, hu]),
    fun hg hr htake h1 => run (ite_run_neg (by simpa using hg) <| ite_run_neg hr ?_) (by rw [State.give_cur, h1]),
    fun hg hr htake hl ht htc => run (ite_run_neg (by simpa using hg) <| ite_run_neg hr ?_) (by rw [State.give_cur, htc])⟩
  · rw [field_mod, hu, show u.takeId _ _ _ _ = (s1, .error r) from htake]
    exact bind_run_of (set_run ..) <| dst_run ..
  · rw [field_mod, hu, show u.takeId _ _ _ _ = (s1, .ok m) from htake]
    refine bind_run_of (set_run ..) <| bind_run_of (stepPlace_run (by omega)) <| bind_run_of (release_run_placed hl) <|
      bind_run_of (modify_run ..) <| bind_run_of (get_run _) ?_
    rw [← ht]
    exact dst_run ..

end Create

theorem streamCreation : StreamCreation := by
  intro s u s1 t x ws n m r hu h1 ht
  refine ⟨fun hi hal hws hid hok => ?_, fun hi hn hal hws hok => ?_⟩
  · obtain ⟨refused, admitted⟩ := snewAdmits (s1 := s1) (t := t) (n := n) (r := r) hi rfl rfl hal hws hid hok hu
    exact ⟨fun htake => refused htake h1, fun htake hl ht' => admitted htake h1 hl (ht'.trans (by rw [newStream_eq]; rfl)) ht⟩
  · obtain ⟨gone, shared, refused, admitted⟩ := forkAdmits (s1 := s1) (t := t) (m := m) (r := r) hi rfl rfl hn hal hws hok hu
    exact ⟨gone, shared, fun hg hr htake => refused hg hr htake h1, fun hg hr htake hl ht' => admitted hg hr htake hl ht' ht⟩

/-! ### SBIND, PPLACE and SQUERY (R179-R181) -/

@[simp] theorem State.acquires_cur (s : State) (p : Nat) : (s.acquires p).cur = s.cur := rfl

theorem State.loadSpm_cur (s : State) (die n : Nat) : (s.loadSpm die n).cur = s.cur := by
  unfold State.loadSpm
  split
  · rfl
  · rfl

theorem State.mine_loadSpm (s : State) (die n : Nat) : (s.loadSpm die n).mine = s.mine := by
  unfold State.loadSpm
  split
  · rfl
  · rfl

section Bind
variable {s sa : State} {x : RFields} {n : Nat} {a : Word} (hi : Issues (.sbind x) s) (ha : (s.begun (.sbind x)).pull x.a = (a, sa))
include hi ha

theorem exec_sbind_none (hz : a = 0) :
    exec (.sbind x) s = .next (((sa.onMine fun c => { c with stream := 0 }).give x.d s.mine.stream).completed (.sbind x)) := by
  have hr := (Reads.begun s (.sbind x)).of_pull ha
  subst hz
  refine issue_ok hi (bind_run_of (src_run_of ha) <| bind_run_of (myCtx_run _) ?_) (by rw [State.give_cur, State.onMine_cur, hr.cur])
  refine ite_run_pos rfl <| bind_run_of (onMyCtx_run ..) ?_
  rw [hr.congr_mine Ctx.stream]
  exact dst_run ..

theorem exec_sbind (hz : a ≠ 0) (hn : sa.Names a n) (hg : (s.stream n).gone = false) (hl : max s.mine.h (s.stream n).clock + 1 < clockLimit) :
    exec (.sbind x) s = .next (((((sa.loadSpm (dieOf s.cur.1) n).acquires (s.stream n).clock).onMine (fun c => { c with
      stream := a })).give x.d s.mine.stream).completed (.sbind x)) := by
  have hr := (Reads.begun s (.sbind x)).of_pull ha
  refine issue_ok hi (bind_run_of (src_run_of ha) <| bind_run_of (myCtx_run _) <| ite_run_neg hz <| bind_run_of (checkHandle_run hn) <|
    bind_run_of (get_run _) ?_) (by rw [State.give_cur, State.onMine_cur, State.acquires_cur, State.loadSpm_cur, hr.cur])
  rw [hr.stream, ← hr.cur]
  refine bind_run_of (trapIf_run_false hg ..) <| bind_run_of (modify_run ..) <| bind_run_of (acquire_run ?_) <|
    bind_run_of (onMyCtx_run ..) ?_
  · rwa [State.mine_loadSpm, hr.congr_mine Ctx.h]
  · rw [hr.congr_mine Ctx.stream]
    exact dst_run ..

end Bind

section Place
variable {s sa sb : State} {x : RFields} {n : Nat} {a b : Word}

theorem exec_pplace (hi : Issues (.pplace x) s) (ha : (s.begun (.pplace x)).pull x.a = (a, sa)) (hb : sa.pull x.b = (b, sb)) :
    let w := b.toNat
    let cl := if w % 8 = 3 then w / 2 ^ 16 % 4 * 128 + w / 2 ^ 9 % 128 else clusterOf s.cur.1
    let pages := (List.range (a.toNat / 2 ^ 18 % 2 ^ 10 + 1)).map (a.toNat % 2 ^ 18 + ·)
    let moved := sb.placePages n (if w % 8 = 3 then 0 else w % 8) cl s.cur.1 s.cur.2 pages
    s.mine.stream ≠ 0 → sb.Names s.mine.stream n → (s.stream n).gone = false → (s.stream n).state ≠ .frozen →
    placeArgOk a b = true → (∀ p ∈ pages, ∀ id, s.pageAt n p = some id → s.pageMoving id = false) → moved.1.cur = s.cur →
    exec (.pplace x) s = .next (((moved.1.onMine (fun c => { c with openBatch := { c.openBatch with
      ops := c.openBatch.ops ++ moved.2.1, used := c.openBatch.used || !moved.2.1.isEmpty } })).give x.d
        (BitVec.ofNat 64 (moved.2.1.length + moved.2.2 * 2 ^ 32))).completed (.pplace x)) := by
  intro w cl pages moved hz hn hg hf hok hmove hcur
  have hr := ((Reads.begun s (.pplace x)).of_pull ha).of_pull hb
  have hm : sb.mine.stream = s.mine.stream := hr.congr_mine Ctx.stream
  have hstill : ¬pages.any (fun p => ((sb.pageAt n p).map sb.pageMoving).getD false) = true := by
    have hp : sb.pageAt = s.pageAt := hr.congr State.pageAt
    have hq : sb.pageMoving = s.pageMoving := hr.congr State.pageMoving
    rw [hp, hq, List.any_eq_true]
    rintro ⟨p, hmem, h⟩
    cases hid : s.pageAt n p with
    | none => simp [hid] at h
    | some id => simp [hid, hmove p hmem id hid] at h
  refine issue_ok hi (bind_run_of (src_run_of ha) <| bind_run_of (src_run_of hb) <| bind_run_of (myCtx_run _) ?_)
    (by rw [State.give_cur, State.onMine_cur, hcur])
  rw [hm]
  refine bind_run_of (trapIf_run_false (decide_eq_false hz) ..) <| bind_run_of (checkHandle_run hn) <| bind_run_of (get_run _) ?_
  rw [hr.stream]
  refine bind_run_of (trapIf_run_false hg ..) <| bind_run_of (trapIf_run_false (decide_eq_false hf) ..) <|
    bind_run_of (trapIf_run_false (by rw [hok]; rfl) ..) <| bind_run_of (me_run_of hr.cur) ?_
  rw [field_mod, field_mod]
  exact ite_run_neg hstill <| bind_run_of (set_run ..) <| bind_run_of (onMyCtx_run ..) <| dst_run ..

end Place

section Query
variable {s sa sb : State} {x : RFields} {n : Nat} {a b : Word} (hi : Issues (.squery x) s)
include hi

theorem exec_squery_stale (hx : x.fn = 5) :
    exec (.squery x) s = .next (((s.begun (.squery x)).give x.d ((s.caravan (dieOf s.cur.1)).stale.setWidth 64)).completed (.squery x)) := by
  refine issue_ok hi (bind_run_of (get_run _) ?_) (by rw [State.give_cur, State.begun_cur])
  simp only [code_toNat hx]
  exact dst_run ..

variable (ha : (s.begun (.squery x)).pull x.a = (a, sa))
include ha

theorem exec_squery_frames (hx : x.fn = 4) (hok : placeOk a = true) : exec (.squery x) s = .next ((sa.give x.d (BitVec.ofNat 64
    (((clusterCores (targetPlace a.toNat)).map (fun g => ((s.core g).freeFrames).length)).sum))).completed (.squery x)) := by
  have hr := (Reads.begun s (.squery x)).of_pull ha
  have hframes (g : Nat) : ((s.begun (.squery x)).core g).freeFrames = (s.core g).freeFrames := by
    by_cases hg : g = s.cur.1
    · subst hg
      unfold State.begun
      rw [State.onMine, State.core_onCtx]
      rfl
    · exact congrArg Core.freeFrames (State.core_onCtx_other _ _ _ hg)
  refine issue_ok hi (bind_run_of (get_run _) ?_) (by rw [State.give_cur, hr.cur])
  simp only [code_toNat hx]
  refine bind_run_of (src_run_of ha) <| bind_run_of (trapIf_run_false (by rw [hok]; rfl) ..) ?_
  simp only [hframes]
  exact dst_run ..

variable (hn : sa.Names a n)
include hn

theorem exec_squery_resident (hx : x.fn = 3) : exec (.squery x) s =
    .next ((sa.give x.d (if (s.caravan (dieOf s.cur.1)).spm.contains n then 1 else 0)).completed (.squery x)) := by
  have hr := (Reads.begun s (.squery x)).of_pull ha
  refine issue_ok hi (bind_run_of (get_run _) ?_) (by rw [State.give_cur, hr.cur])
  simp only [code_toNat hx]
  exact bind_run_of (src_run_of ha) <| bind_run_of (checkHandle_run hn) <| dst_run ..

section Acquire
variable (hl : max s.mine.h (s.stream n).clock + 1 < clockLimit)
include hl

theorem exec_squery_dword {k : Nat} (hx : x.fn.toNat = k) (hk : k = 0 ∨ k = 2) :
    exec (.squery x) s = .next (((sa.acquires (s.stream n).clock).give x.d ((s.stream n).dword k)).completed (.squery x)) := by
  have hr := (Reads.begun s (.squery x)).of_pull ha
  have hl' : max sa.mine.h (s.stream n).clock + 1 < clockLimit := by rwa [hr.congr_mine Ctx.h]
  refine issue_ok hi (bind_run_of (get_run _) ?_) (by rw [State.give_cur, State.acquires_cur, hr.cur])
  obtain rfl | rfl := hk
  · simp only [hx]
    exact bind_run_of (src_run_of ha) <| bind_run_of (checkHandle_run hn) <| bind_run_of (acquire_run hl') <| dst_run ..
  · simp only [hx]
    exact bind_run_of (src_run_of ha) <| bind_run_of (checkHandle_run hn) <| bind_run_of (acquire_run hl') <| dst_run ..

theorem exec_squery_page (hb : sa.pull x.b = (b, sb)) (hx : x.fn = 1) :
    exec (.squery x) s = .next (((sb.acquires (s.stream n).clock).give x.d
      (match (if b.toNat < 262144 then s.pageAt n b.toNat else none) with
        | some p => pageDword p (s.page p)
        | none => 0)).completed (.squery x)) := by
  have hr := ((Reads.begun s (.squery x)).of_pull ha).of_pull hb
  refine issue_ok hi (bind_run_of (get_run _) ?_) (by rw [State.give_cur, State.acquires_cur, hr.cur])
  simp only [code_toNat hx]
  exact bind_run_of (src_run_of ha) <| bind_run_of (checkHandle_run hn) <| bind_run_of (src_run_of hb) <|
    bind_run_of (acquire_run (by rwa [hr.congr_mine Ctx.h])) <| dst_run ..

end Acquire

theorem exec_squery_references (hb : sa.pull x.b = (b, sb)) (hx : x.fn = 6) :
    exec (.squery x) s = .next ((sb.give x.d (BitVec.ofNat 64 ((s.node (s.stream n).root).refcnt
      + (((if b.toNat < 262144 then (s.node (s.stream n).root).entries.find (b.toNat / 512) else none).map
        (fun l => (s.node l).refcnt)).getD 0) * 2 ^ 16))).completed (.squery x)) := by
  have hr := ((Reads.begun s (.squery x)).of_pull ha).of_pull hb
  refine issue_ok hi (bind_run_of (get_run _) ?_) (by rw [State.give_cur, hr.cur])
  simp only [code_toNat hx]
  exact bind_run_of (src_run_of ha) <| bind_run_of (checkHandle_run hn) <| bind_run_of (src_run_of hb) <| dst_run ..

end Query

theorem streamBindingAndPlaces : StreamBindingAndPlaces := by
  intro s x n
  refine ⟨fun hi => ⟨exec_sbind_none hi rfl, exec_sbind hi rfl⟩, fun hi => exec_pplace hi rfl rfl, fun hi => ?_⟩
  exact ⟨exec_squery_frames hi rfl, exec_squery_stale hi,
    fun hn hl => ⟨fun hx => exec_squery_dword hi rfl hn hl (code_toNat hx) (.inl rfl), exec_squery_page hi rfl hn hl rfl,
      fun hx => exec_squery_dword hi rfl hn hl (code_toNat hx) (.inr rfl)⟩,
    exec_squery_resident hi rfl, fun hn => exec_squery_references hi rfl hn rfl⟩

/-- Settles O23: SNEW and FORK admit what `State.takeId` gives (`snewAdmits`, `forkAdmits`), and SBIND, PPLACE and SQUERY pass their checks and
read their operands (`streamBindingAndPlaces`). That FORK checks its block after the handle is the model's choice (log 51). -/
theorem streamsAndPlaces : Obligations.StreamsAndPlaces := ⟨streamCreation, streamBindingAndPlaces⟩

end Sys2Proof.Machine
end

section
/-! Caravan's events: edges and the nodes that they make ready, pools and gangs, dispatch, and the end of a launch. -/
namespace Sys2Proof.Machine

/-! ### Updates of a launch and of a Caravan -/

theorem State.onLaunch_onLaunch (s : State) (i : Nat) (f h : Launch → Launch) :
    (s.onLaunch i f).onLaunch i h = s.onLaunch i (fun l => h (f l)) := by
  unfold State.onLaunch State.launch
  dsimp only
  rw [Table.get_set_same, Table.set_set]

/-- What a change of a Caravan gives depends on it at the Caravan's present state only. -/
theorem State.onCaravan_congr {s : State} {d : Nat} {f h : Caravan → Caravan} (e : f (s.caravan d) = h (s.caravan d)) :
    s.onCaravan d f = s.onCaravan d h := by
  unfold State.onCaravan
  rw [e]

/-! ### Edges (R114) -/

/-- What an edge leaves that makes its node ready with P: `fin` once the node is in its pool; a node that waits keeps the edge. -/
def State.edgeReadies (s : State) (slot idx p : Nat) (fin : State → State) : State :=
  match s.nodeReady slot idx p with
  | .error t => t
  | .ok t => fin (t.dropEdge slot)

theorem State.edgeReadies_of_ok {s t : State} {slot idx p : Nat} (fin : State → State) (h : s.nodeReady slot idx p = .ok t) :
    s.edgeReadies slot idx p fin = fin (t.dropEdge slot) := by
  unfold State.edgeReadies
  rw [h]

theorem State.edgeReadies_of_error {s t : State} {slot idx p : Nat} (fin : State → State) (h : s.nodeReady slot idx p = .error t) :
    s.edgeReadies slot idx p fin = t := by
  unfold State.edgeReadies
  rw [h]

section Count
variable {s : State} {slot : Nat} {e : EdgeRel}

theorem State.countEdge_root (h : e.src = 0 ∨ e.node = 0) : s.countEdge slot e = s.edgeReadies slot e.node e.p id := if_pos h

variable (hsrc : e.src ≠ 0) (hnode : e.node ≠ 0)
include hsrc hnode

theorem State.countEdge_absent {va : Nat} (h : s.edgeInfo slot e.src e.node = .absent va) : s.countEdge slot e = s.holdNode slot e.node va := by
  unfold State.countEdge
  simp only [hsrc, hnode, or_self, if_false, h]

theorem State.countEdge_bad (h : s.edgeInfo slot e.src e.node = .bad) : s.countEdge slot e = s.graphUnreadable slot e.node := by
  unfold State.countEdge
  simp only [hsrc, hnode, or_self, if_false, h]

variable {npred : Nat}

theorem State.countEdge_back (h : s.edgeInfo slot e.src e.node = .ok (true, npred)) :
    s.countEdge slot e = s.edgeReadies slot e.node e.p id := by
  unfold State.countEdge
  simp only [hsrc, hnode, or_self, if_false, h]
  rfl

variable (h : s.edgeInfo slot e.src e.node = .ok (false, npred))
include h

theorem State.countEdge_spent (hleft : (s.launch slot).left.get npred e.node = 0) : s.countEdge slot e = s.dropEdge slot := by
  unfold State.countEdge
  simp only [hsrc, hnode, or_self, if_false, h, hleft, if_true]

theorem State.countEdge_last (hleft : (s.launch slot).left.get npred e.node = 1) : s.countEdge slot e =
    s.edgeReadies slot e.node (max ((s.launch slot).ps.get 0 e.node) e.p)
      (fun t => t.onLaunch slot (fun l => { l with left := l.left.set e.node 0, ps := l.ps.drop e.node })) := by
  unfold State.countEdge
  simp only [hsrc, hnode, or_self, if_false, h, hleft, Nat.one_ne_zero, if_true]
  rfl

theorem State.countEdge_lowers (hleft : 1 < (s.launch slot).left.get npred e.node) : s.countEdge slot e =
    s.onLaunch slot (fun l => { l with
      edges := l.edges.drop 1, left := l.left.set e.node ((s.launch slot).left.get npred e.node - 1),
      ps := l.ps.set e.node (max ((s.launch slot).ps.get 0 e.node) e.p) }) := by
  unfold State.countEdge
  simp only [hsrc, hnode, or_self, if_false, h, show (s.launch slot).left.get npred e.node ≠ 0 by omega,
    show (s.launch slot).left.get npred e.node ≠ 1 by omega]
  exact State.onLaunch_onLaunch ..

end Count

theorem not_slotCount_le {slot : Nat} (h : slot < 64) : ¬Config.slotCount ≤ slot := Nat.not_le.2 h

section Edge
variable {s : State} {slot : Nat} (h : slot < 64)
include h

theorem exec_successorReady_none (he : (s.launch slot).edges = []) : exec (.successorReady slot) s = .next s := by
  refine (if_neg (not_slotCount_le h)).trans ?_
  rw [he]

variable {e : EdgeRel} {r : List EdgeRel} (he : (s.launch slot).edges = e :: r)
include he

theorem exec_successorReady_stopped (hl : (s.launch slot).state ≠ .running) : exec (.successorReady slot) s = .next (s.dropEdge slot) := by
  refine (if_neg (not_slotCount_le h)).trans ?_
  rw [he]
  exact if_pos hl

variable (hl : (s.launch slot).state = .running)
include hl

theorem exec_successorReady_start (hs : e.src = 0 ∧ e.node = 0 ∧ (s.launch slot).nodes = 0) :
    exec (.successorReady slot) s = .next (s.startGraph slot e.p) := by
  refine (if_neg (not_slotCount_le h)).trans ?_
  rw [he]
  exact (if_neg (not_not.2 hl)).trans (if_pos hs)

theorem exec_successorReady_counts (hs : ¬(e.src = 0 ∧ e.node = 0 ∧ (s.launch slot).nodes = 0)) :
    exec (.successorReady slot) s = .next (s.countEdge slot e) := by
  refine (if_neg (not_slotCount_le h)).trans ?_
  rw [he]
  exact (if_neg (not_not.2 hl)).trans (if_neg hs)

end Edge

/-! ### A node that becomes ready (R115, R116) -/

theorem State.enterPool_of_noStream {s : State} {e : PoolEntry} (he : e.stream = none) (die : Nat) : s.enterPool die e none =
    s.onCaravan die (fun c => if c.size < 8192 ∧ c.overflow = [] then c.enter e s.clk else { c with overflow := c.overflow ++ [e] }) := by
  unfold State.enterPool State.closeLone
  simp only [he, reduceCtorEq, if_false, Option.isSome_none, Bool.false_eq_true]

/-- The pool entry of a launch-graph node that becomes ready with P. -/
def State.readyEntry (s : State) (slot idx : Nat) (r : NodeRec) (p : Nat) : PoolEntry :=
  poolEntry s slot idx (BitVec.ofNat 64 ((s.launch slot).graph.toNat + 64 * idx)) r p none

section Ready
variable {s : State} {slot idx : Nat} {r : NodeRec} (hr : s.nodeAt slot (s.launch slot).graph.toNat idx false = .ok (.ok r))
  (hp : s.placeRead slot r = .ok ()) (p : Nat)
include hr hp

theorem State.nodeReady_eq : s.nodeReady slot idx p =
    if (s.caravan (s.poolOf slot r none)).full then .error s
    else .ok (s.enterPool (s.poolOf slot r none) (s.readyEntry slot idx r p) none) := by
  unfold State.nodeReady
  simp only [hr, hp]
  rfl

theorem State.nodeReady_full (hfull : 65536 ≤ (s.caravan (s.poolOf slot r none)).overflow.length) : s.nodeReady slot idx p = .error s :=
  (State.nodeReady_eq hr hp p).trans (if_pos (decide_eq_true hfull))

variable (hroom : (s.caravan (s.poolOf slot r none)).overflow.length < 65536)
include hroom

theorem State.nodeReady_room : s.nodeReady slot idx p = .ok (s.onCaravan (s.poolOf slot r none) (fun c =>
    if c.size < 8192 ∧ c.overflow = [] then c.enter (s.readyEntry slot idx r p) s.clk
    else { c with overflow := c.overflow ++ [s.readyEntry slot idx r p] })) := by
  have hfull : ¬(s.caravan (s.poolOf slot r none)).full = true := by simpa [Caravan.full] using hroom
  rw [State.nodeReady_eq hr hp p, if_neg hfull, State.enterPool_of_noStream rfl]

end Ready

theorem caravanEdges : CaravanEdges := by
  intro s slot hslot l does readies
  have ready {idx p : Nat} {fin : State → State} (h : does (s.edgeReadies slot idx p fin)) : readies idx p fin :=
    ⟨fun t ht => State.edgeReadies_of_ok fin ht ▸ h, fun t ht => State.edgeReadies_of_error fin ht ▸ h⟩
  refine ⟨exec_successorReady_none hslot, fun e r he => ?_, fun idx p r hr hp => ?_⟩
  · intro p start
    refine ⟨exec_successorReady_stopped hslot he, exec_successorReady_start hslot he, fun hl hs hroot => ready ?_, fun hl hsrc hnode => ?_⟩
    · exact State.countEdge_root hroot ▸ exec_successorReady_counts hslot he hl hs
    · have counts {t : State} (ht : s.countEdge slot e = t) : does t := ht ▸ exec_successorReady_counts hslot he hl fun hs => hsrc hs.1
      exact ⟨fun va h => counts (State.countEdge_absent hsrc hnode h), fun h => counts (State.countEdge_bad hsrc hnode h),
        fun npred h => ready (counts (State.countEdge_back hsrc hnode h)), fun npred h => ⟨fun h0 => counts (State.countEdge_spent hsrc hnode h h0),
          fun h1 => ready (counts (State.countEdge_last hsrc hnode h h1)), fun hmore => counts (State.countEdge_lowers hsrc hnode h hmore)⟩⟩
  · intro die e c
    refine ⟨State.nodeReady_full hr hp p, fun hroom hwait => ?_, fun hsize hnone => ?_⟩
    · rw [State.nodeReady_room hr hp p hroom]
      exact congrArg _ (State.onCaravan_congr (if_neg fun h => hwait.elim (Nat.not_le.2 h.1) fun hne => hne h.2))
    · rw [State.nodeReady_room hr hp p (show c.overflow.length < 65536 by rw [hnone]; decide)]
      exact congrArg _ (State.onCaravan_congr (if_pos ⟨hsize, hnone⟩))

/-! ### Pools and gangs (R116, R122, R126) -/

section Pool
variable {s : State} {die : Nat} (h : die < 4)
include h

theorem exec_poolOverflowTransfer_none (ho : (s.caravan die).overflow = []) : exec (.poolOverflowTransfer die) s = .next s := by
  refine (if_neg (Nat.not_le.2 h)).trans ?_
  rw [ho]

theorem exec_poolOverflowTransfer_some {e : PoolEntry} {r : List PoolEntry} (ho : (s.caravan die).overflow = e :: r) :
    exec (.poolOverflowTransfer die) s = if (s.caravan die).size < 8192 then
      .next (((s.onCaravan die (fun c => { c with overflow := r })).closeLone die e).onCaravan die (fun c => c.enter e s.clk)) else .next s := by
  refine (if_neg (Nat.not_le.2 h)).trans ?_
  rw [ho]

theorem exec_poolOverflowTransfer_full (hf : 8192 ≤ (s.caravan die).size) : exec (.poolOverflowTransfer die) s = .next s := by
  cases ho : (s.caravan die).overflow with
  | nil => exact exec_poolOverflowTransfer_none h ho
  | cons e r => exact (exec_poolOverflowTransfer_some h ho).trans (if_neg (Nat.not_lt.2 hf))

variable {idx : Nat}

theorem exec_gangClose_none (hg : (s.caravan die).gangs[idx]? = none) :
    exec (.gangClose die idx) s = .next (s.onCaravan die (fun _ => (s.caravan die).regroup s.clk)) := by
  refine (if_neg (Nat.not_le.2 h)).trans (congrArg _ (State.onCaravan_congr ?_))
  rw [hg]

theorem exec_gangClose_some {g : Gang} {m : PoolEntry} {r : List PoolEntry} (hg : (s.caravan die).gangs[idx]? = some g) (hm : g.members = m :: r) :
    exec (.gangClose die idx) s = .next (s.onCaravan die (fun _ =>
      if !g.closed && s.gangCloses g (s.caravan die) then (s.caravan die).closeGang m s.clk else (s.caravan die).regroup s.clk)) := by
  refine (if_neg (Nat.not_le.2 h)).trans (congrArg _ (State.onCaravan_congr ?_))
  simp only [hg, hm]

variable {gslot : Nat} (hslot : gslot < 1024)
include hslot

theorem exec_gangCompletion_none (hi : (s.caravan die).insts.find? (fun i => i.finished && decide (i.gslot = some gslot)) = none) :
    exec (.gangCompletion die gslot) s = .next s := by
  refine (if_neg (by omega)).trans ?_
  rw [hi]

theorem exec_gangCompletion_some {i : Inst} (hi : (s.caravan die).insts.find? (fun i => i.finished && decide (i.gslot = some gslot)) = some i) :
    exec (.gangCompletion die gslot) s
      = .next (if (i.rows.filterMap id).any (fun h => s.resolving (handleId h)) then s else s.completeInst die i) := by
  refine (if_neg (by omega)).trans ?_
  rw [hi]

end Pool

theorem caravanPools : CaravanPools := by
  intro s die hdie c puts
  refine ⟨fun e r ho hsize => (exec_poolOverflowTransfer_some hdie ho).trans (if_pos hsize),
    fun hstay => hstay.elim (exec_poolOverflowTransfer_none hdie) (exec_poolOverflowTransfer_full hdie),
    fun idx => ⟨exec_gangClose_none hdie, ?_⟩, ?_⟩
  · intro g m r hg hm
    have hexec := exec_gangClose_some hdie hg hm
    refine ⟨fun hopen hdue => ?_, fun hstay => ?_⟩
    · rwa [if_pos (by rw [hopen, hdue]; rfl)] at hexec
    · rwa [if_neg (by simpa using fun ho => hstay.resolve_left (by simp [ho]))] at hexec
  · intro gslot hslot done
    refine ⟨exec_gangCompletion_none hdie hslot, fun i hi => ?_⟩
    have hexec := exec_gangCompletion_some hdie hslot hi
    intro waits
    have hany : (i.rows.filterMap id).any (fun h => s.resolving (handleId h)) = true ↔ waits := List.any_eq_true
    exact ⟨fun hw => by rwa [if_pos (hany.2 hw)] at hexec, fun hw => by rwa [if_neg (mt hany.1 hw)] at hexec⟩

/-! ### Dispatch (R118-R120) -/

/-- The cores that a candidate takes where it can be dispatched beside those that are taken. -/
def State.groupFor (s : State) (die : Nat) (c : Cand) (taken : List Nat) : Option (List Nat) :=
  if (s.caravan die).slotFree c then (s.coreGroup die c taken).1 else none

/-- The unit that serves a candidate of a class of engines. -/
def State.unitFor (s : State) (die : Nat) (c : Cand) : Option Nat := if (s.caravan die).slotFree c then s.freeUnit die c else none

theorem ite_none_eq_some {α : Type} {c : Prop} [Decidable c] {o : Option α} {a : α} : (if c then o else none) = some a ↔ c ∧ o = some a := by
  split
  · simp [*]
  · simp [*]

theorem State.groupFor_eq_some {s : State} {die : Nat} {c : Cand} {taken gs : List Nat} :
    s.groupFor die c taken = some gs ↔ (s.caravan die).slotFree c = true ∧ (s.coreGroup die c taken).1 = some gs := ite_none_eq_some

theorem State.unitFor_eq_some {s : State} {die u : Nat} {c : Cand} :
    s.unitFor die c = some u ↔ (s.caravan die).slotFree c = true ∧ s.freeUnit die c = some u := ite_none_eq_some

/-- The first element for which there is a value, with that value. -/
theorem findSome_pair {α β : Type} {f : α → Option β} {l before after : List α} {c : α} {b : β} (hl : l = before ++ c :: after)
    (hb : ∀ x ∈ before, ∀ y, f x ≠ some y) (hc : f c = some b) : l.findSome? (fun x => (f x).map (fun y => (x, y))) = some (c, b) :=
  List.findSome?_eq_some_iff.2 ⟨before, c, after, hl, by rw [hc]; rfl, fun x hx => by
    rw [Option.eq_none_iff_forall_ne_some.2 (hb x hx)]
    rfl⟩

theorem findSome_pair_none {α β : Type} {f : α → Option β} {l : List α} (h : ∀ x ∈ l, ∀ y, f x ≠ some y) :
    l.findSome? (fun x => (f x).map (fun y => (x, y))) = none :=
  List.findSome?_eq_none_iff.2 fun x hx => by
    rw [Option.eq_none_iff_forall_ne_some.2 (h x hx)]
    rfl

/-- The state in which a Caravan has reserved cores for a candidate. -/
def State.reserving (s : State) (die : Nat) (res : List Nat) (tag : Option (Nat × Nat × Nat × Nat)) : State :=
  s.onCaravan die (fun v => { v with reserved := res, reservedFor := tag })

/-- The cores that the head candidate reserves while its group cannot be formed. -/
def State.headCores (s : State) (die : Nat) (h : Cand) : List Nat :=
  (if (s.caravan die).reservedFor = some h.tag then s.keptCores die h (s.reservedElsewhere die)
    else (s.coreGroup die h (s.reservedElsewhere die)).2).filter (fun g => !(s.reservedElsewhere die).contains g)

section Cores
variable {s : State} {die : Nat}

theorem State.dispatchCores_none (hc : (s.candidates die .cores).filter (fun c => !s.mapHeld c) = []) :
    s.dispatchCores die = (s.reserving die [] none).holdMaps (s.candidates die .cores) := by
  unfold State.dispatchCores
  simp only [hc]
  rfl

variable {h : Cand} {rest : List Cand} (hc : (s.candidates die .cores).filter (fun c => !s.mapHeld c) = h :: rest)
include hc

theorem State.dispatchCores_head {gs : List Nat} (hg : s.groupFor die h (s.reservedElsewhere die) = some gs) :
    s.dispatchCores die = (s.reserving die [] none).dispatchCand die h gs 0 := by
  unfold State.groupFor at hg
  unfold State.dispatchCores
  simp only [hc, hg]
  rfl

variable (hg : s.groupFor die h (s.reservedElsewhere die) = none)
include hg

theorem State.dispatchCores_other {c : Cand} {gs : List Nat} (hf : rest.findSome? (fun c =>
      (s.groupFor die c (s.reservedElsewhere die ++ s.headCores die h)).map (fun gs => (c, gs))) = some (c, gs)) :
    s.dispatchCores die = (s.reserving die (s.headCores die h) (some h.tag)).dispatchCand die c gs 0 := by
  unfold State.groupFor State.headCores at hf
  unfold State.groupFor at hg
  unfold State.dispatchCores
  simp only [hc, hg, hf]
  rfl

theorem State.dispatchCores_reserves (hf : rest.findSome? (fun c =>
      (s.groupFor die c (s.reservedElsewhere die ++ s.headCores die h)).map (fun gs => (c, gs))) = none) :
    s.dispatchCores die = (s.reserving die (s.headCores die h) (some h.tag)).holdMaps (s.candidates die .cores) := by
  unfold State.groupFor State.headCores at hf
  unfold State.groupFor at hg
  unfold State.dispatchCores
  simp only [hc, hg, hf]
  rfl

end Cores

section Units
variable {s : State} {die : Nat} {cls : UnitClass}

theorem State.map_unitFor (s : State) (die : Nat) (c : Cand) : (s.unitFor die c).map (fun u => (c, u)) =
    if (s.caravan die).slotFree c then (s.freeUnit die c).map (fun u => (c, u)) else none := by
  unfold State.unitFor
  split
  · rfl
  · rfl

theorem State.dispatchUnit_some {c : Cand} {u : Nat}
    (hf : (s.candidates die cls).findSome? (fun c => (s.unitFor die c).map (fun u => (c, u))) = some (c, u)) :
    s.dispatchUnit die cls = State.dispatchCand { s with free := s.free + 1 } die c [] u := by
  simp only [State.map_unitFor] at hf
  unfold State.dispatchUnit
  simp only [hf]

theorem State.dispatchUnit_none
    (hf : (s.candidates die cls).findSome? (fun c => (s.unitFor die c).map (fun u => (c, u))) = none) : s.dispatchUnit die cls = s := by
  simp only [State.map_unitFor] at hf
  unfold State.dispatchUnit
  simp only [hf]

end Units

theorem exec_caravanDispatch_cores {die : Nat} (h : die < 4) (s : State) : exec (.caravanDispatch die .cores) s = .next (s.dispatchCores die) :=
  if_neg (Nat.not_le.2 h)

theorem exec_caravanDispatch_unit {die : Nat} (h : die < 4) {cls : UnitClass} (hc : cls ≠ .cores) (s : State) :
    exec (.caravanDispatch die cls) s = .next (s.dispatchUnit die cls) := by
  refine (if_neg (Nat.not_le.2 h)).trans ?_
  split
  · exact absurd rfl hc
  · rfl

theorem caravanDispatches : CaravanDispatches := by
  intro s die hdie car all far does reserving fits
  have cores {t : State} (ht : s.dispatchCores die = t) : does .cores t := ht ▸ exec_caravanDispatch_cores hdie s
  refine ⟨fun hc => cores (State.dispatchCores_none hc), fun h rest hc => ?_, fun cls hcls => ?_⟩
  · intro res
    refine ⟨fun gs hg => cores (State.dispatchCores_head hc (State.groupFor_eq_some.2 hg)), fun hno => ?_⟩
    have hnone : s.groupFor die h far = none := Option.eq_none_iff_forall_ne_some.2 fun gs hg => hno gs (State.groupFor_eq_some.1 hg)
    refine ⟨fun c gs before after hrest hb hg => cores (State.dispatchCores_other hc hnone ?_),
      fun hr => cores (State.dispatchCores_reserves hc hnone ?_)⟩
    · exact findSome_pair hrest (fun b hm gs hg => hb b hm gs (State.groupFor_eq_some.1 hg)) (State.groupFor_eq_some.2 hg)
    · exact findSome_pair_none fun c hm gs hg => hr c hm gs (State.groupFor_eq_some.1 hg)
  · intro serves
    have unit {t : State} (ht : s.dispatchUnit die cls = t) : does cls t := ht ▸ exec_caravanDispatch_unit hdie hcls s
    refine ⟨fun c u before after hl hb hu => unit (State.dispatchUnit_some ?_), fun hno => unit (State.dispatchUnit_none ?_)⟩
    · exact findSome_pair hl (fun b hm u hu => hb b hm u (State.unitFor_eq_some.1 hu)) (State.unitFor_eq_some.2 hu)
    · exact findSome_pair_none fun c hm u hu => hno c hm u (State.unitFor_eq_some.1 hu)

/-! ### The end of a launch (R112) -/

/-- Whether a launch may end: it is active and not suspended, none of its work is left, and no write of its contexts is unanswered. -/
def State.mayEnd (s : State) (slot : Nat) : Prop :=
  ((s.launch slot).state = .running ∨ (s.launch slot).state = .stopping) ∧ (s.launch slot).suspended = false ∧ s.workLeft slot = false
    ∧ ∀ c ∈ s.launchCtxs slot, (s.ctx c.1 c.2).acks = 0

theorem State.mayEnd_iff {s : State} {slot : Nat} : s.mayEnd slot ↔
    (!(decide ((s.launch slot).state = .running) || decide ((s.launch slot).state = .stopping)) || (s.launch slot).suspended || s.workLeft slot
      || (s.launchCtxs slot).any (fun c => decide ((s.ctx c.1 c.2).acks ≠ 0))) = false := by
  simp only [State.mayEnd, Bool.or_eq_false_iff, Bool.not_eq_false', Bool.or_eq_true, decide_eq_true_eq, List.any_eq_false, and_assoc, not_not]

section Ends
variable {s : State} {slot : Nat} (h : slot < 64)
include h

theorem exec_launchEnd_stays (hm : ¬s.mayEnd slot) : exec (.launchEnd slot) s = .next s := by
  rw [State.mayEnd_iff, Bool.not_eq_false] at hm
  exact (if_neg (not_slotCount_le h)).trans (if_pos hm)

theorem exec_launchEnd (hm : s.mayEnd slot) : exec (.launchEnd slot) s = .next (if (s.flushLaunch slot).storesLeft slot then s.flushLaunch slot
    else (s.flushLaunch slot).endLaunch slot (if (s.launch slot).state = .running then 0 else (s.launch slot).ecode)
      (if (s.launch slot).state = .running then .done else (s.launch slot).stopAs) (s.clk - (s.launch slot).start) (s.launch slot).comp
      (s.launch slot).irqen) := by
  rw [State.mayEnd_iff, ← Bool.not_eq_true] at hm
  exact (if_neg (not_slotCount_le h)).trans (if_neg hm)

end Ends

theorem caravanEnds : CaravanEnds := by
  intro s slot hslot l t may
  refine ⟨fun hno => exec_launchEnd_stays hslot hno, fun hm hleft => ?_, fun hm hleft => ?_⟩
  · exact (exec_launchEnd hslot hm).trans (congrArg _ (if_pos hleft))
  · exact (exec_launchEnd hslot hm).trans (congrArg _ (if_neg (Bool.eq_false_iff.1 hleft)))

/-- Settles O36: edges (`caravanEdges`), pools and gangs (`caravanPools`), dispatch (`caravanDispatches`), and the end of a launch
(`caravanEnds`). Beyond the rules, the model's choices are the reservations against other dies and the conventions of gangs (log 26), that
a suspended launch does not end (log 35), and that a launch's end sends its contexts' stores to their homes (log 2). -/
theorem caravanEvents : Obligations.CaravanEvents := ⟨caravanEdges, caravanPools, caravanDispatches, caravanEnds⟩

end Sys2Proof.Machine
end

section
/-! What Caravan evaluates itself: condition, switch and loop nodes, and the drives of stream-step nodes. -/
namespace Sys2Proof.Machine

/-! ### Reading a node's word (R85, R128) -/

section Read
variable {s t : State} {die va : Nat} {e : PoolEntry} {f : State → Word → Nat → State}

theorem State.evalWith_gone (h : s.entryOk e = false) : s.evalWith die e va f = s.unpoolEntry die e := by
  unfold State.evalWith
  simp only [h, Bool.not_false, if_true]

variable (h : s.entryOk e = true)
include h

theorem State.evalWith_ok {v : Word} {p : Nat} (hr : s.evalRead e va = (t, .ok v p)) : s.evalWith die e va f = f t v (max e.p p) := by
  unfold State.evalWith
  simp only [h, Bool.not_true, Bool.false_eq_true, if_false, hr]

theorem State.evalWith_pending (hr : s.evalRead e va = (t, .pending)) : s.evalWith die e va f = t := by
  unfold State.evalWith
  simp only [h, Bool.not_true, Bool.false_eq_true, if_false, hr]

theorem State.evalWith_bad (hr : s.evalRead e va = (t, .bad)) : s.evalWith die e va f = t.graphUnreadable e.slot e.node := by
  unfold State.evalWith
  simp only [h, Bool.not_true, Bool.false_eq_true, if_false, hr]

end Read

/-! ### Conditions, switches and loops (R85, R86, R129) -/

section Eval
variable {s : State} {die : Nat} (h : die < 4) {e : PoolEntry} {r : List PoolEntry}
include h

theorem exec_conditionEval_none (he : s.evaluable die 8 = []) : exec (.conditionEval die) s = .next s := by
  refine (if_neg (Nat.not_le.2 h)).trans ?_
  rw [he]

theorem exec_conditionEval (he : s.evaluable die 8 = e :: r) : exec (.conditionEval die) s =
    .next (s.evalWith die e (e.record.kd 0).toNat (fun t v p =>
      t.evalRelease die e (e.succ.getD (if relHolds ((e.record.kd 2).toNat % 8) v (e.record.kd 1) then 0 else 1) 0) p false)) := by
  refine (if_neg (Nat.not_le.2 h)).trans ?_
  rw [he]
  dsimp only
  rw [field_mod]
  rfl

theorem exec_switchEval_none (he : s.evaluable die 10 = []) : exec (.switchEval die) s = .next s := by
  refine (if_neg (Nat.not_le.2 h)).trans ?_
  rw [he]

theorem exec_switchEval (he : s.evaluable die 10 = e :: r) : exec (.switchEval die) s =
    .next (s.evalWith die e (e.record.kd 0).toNat (fun t v p =>
      t.evalRelease die e (e.succ.getD (min (v - e.record.kd 1).toNat (e.succ.length - 1)) 0) p false)) := by
  refine (if_neg (Nat.not_le.2 h)).trans ?_
  rw [he]

theorem exec_loopEval_none (he : (s.evaluable die 9).find? (fun e => e.stream.isSome || !s.bodyBusy e) = none) :
    exec (.loopEval die) s = .next s := by
  refine (if_neg (Nat.not_le.2 h)).trans ?_
  rw [he]

variable (he : (s.evaluable die 9).find? (fun e => e.stream.isSome || !s.bodyBusy e) = some e)
include he

theorem exec_loopEval_constant (hk : e.record.kd 0 = 0) : exec (.loopEval die) s =
    .next (if s.entryOk e then s.evalLoop die e ((e.record.kd 1).toNat % 2 ^ 32) e.p else s.unpoolEntry die e) := by
  refine (if_neg (Nat.not_le.2 h)).trans ?_
  rw [he, ← field_mod]
  exact if_pos hk

theorem exec_loopEval_read (hk : e.record.kd 0 ≠ 0) : exec (.loopEval die) s =
    .next (s.evalWith die e (e.record.kd 0).toNat (fun t v p => t.evalLoop die e (v.toNat % 2 ^ 32) p)) := by
  refine (if_neg (Nat.not_le.2 h)).trans ?_
  simp only [he, ← field_mod]
  exact if_neg hk

end Eval

section Loop
variable {s : State} {e : PoolEntry} (die lim p : Nat)

theorem State.evalLoop_stream (h : e.stream.isSome = true) : s.evalLoop die e lim p =
    if (s.stream e.streamId).position < lim then
      (s.onStream e.streamId (fun d => { d with position := (s.stream e.streamId).position + 1 })).evalRelease die e (e.succ.getD 0 0) p true
    else s.evalRelease die e (e.succ.getD 1 0) p false := by
  unfold State.evalLoop State.loopCount
  simp only [h, if_true]

/-- In a launch graph a loop that goes on counts, and its body's counts start anew. -/
theorem State.evalLoop_graph (h : ¬e.stream.isSome = true) : s.evalLoop die e lim p =
    if (s.launch e.slot).loops.get 0 e.node < lim then
      (s.onLaunch e.slot (fun l => { l with
        loops := l.loops.set e.node ((s.launch e.slot).loops.get 0 e.node + 1),
        left := l.left.filter (fun x => !(decide (field (e.record.kd 2) 0 16 ≤ x.1) && decide (x.1 ≤ field (e.record.kd 2) 16 16))),
        ps := l.ps.filter (fun x => !(decide (field (e.record.kd 2) 0 16 ≤ x.1) && decide (x.1 ≤ field (e.record.kd 2) 16 16)))
        })).evalRelease die e (e.succ.getD 0 0) p true
    else (s.onLaunch e.slot (fun l => { l with loops := l.loops.set e.node 0 })).evalRelease die e (e.succ.getD 1 0) p false := by
  unfold State.evalLoop State.loopCount
  simp only [h, Bool.false_eq_true, if_false, State.onLaunch_onLaunch]

end Loop

theorem evaluatedValues : EvaluatedValues := by
  intro s die hdie reads loop free
  have eval {i : Instr} {e : PoolEntry} {f : State → Word → Nat → State} (h : exec i s = .next (s.evalWith die e (e.record.kd 0).toNat f)) :
      reads i e f := by
    refine ⟨fun hg => State.evalWith_gone hg ▸ h, fun hok t => ⟨fun v p hr => ?_, fun hr => ?_, fun hr => ?_⟩⟩
    · exact State.evalWith_ok (die := die) (f := f) hok hr ▸ h
    · exact State.evalWith_pending (die := die) (f := f) hok hr ▸ h
    · exact State.evalWith_bad (die := die) (f := f) hok hr ▸ h
  have hloop (t : State) (e : PoolEntry) (lim p : Nat) : t.evalLoop die e lim p = loop t e lim p := by
    by_cases hs : e.stream.isSome = true
    · exact (State.evalLoop_stream die lim p hs).trans (if_pos hs).symm
    · rw [State.evalLoop_graph die lim p hs, field_mod]
      exact (if_neg hs).symm
  refine ⟨exec_conditionEval_none hdie, fun e r he => eval (exec_conditionEval hdie he), exec_switchEval_none hdie,
    fun e r he => eval (exec_switchEval hdie he), exec_loopEval_none hdie, fun e he => ⟨fun hk => ?_, fun hk => eval ?_⟩⟩
  · rw [← hloop]
    exact exec_loopEval_constant hdie he hk
  · have hread := exec_loopEval_read hdie he hk
    simp only [hloop] at hread
    exact hread

/-! ### Drives (R88) -/

theorem dies_eq {die : Nat} (h : die < 4) : ∃ after, [0, 1, 2, 3] = List.range die ++ die :: after := by
  interval_cases die
  · exact ⟨[1, 2, 3], rfl⟩
  · exact ⟨[2, 3], rfl⟩
  · exact ⟨[3], rfl⟩
  · exact ⟨[], rfl⟩

/-- The bytes of a drive's result word (R88). -/
theorem dwordBytes_result (left skipped : Nat) : dwordBytes [BitVec.ofNat 64 (left % 2 ^ 24 + skipped % 2 ^ 24 * 2 ^ 24)]
    = bytesOfNat 8 (left % 2 ^ 24 + skipped % 2 ^ 24 * 2 ^ 24) := by
  unfold dwordBytes
  rw [List.flatMap_singleton, BitVec.toNat_ofNat, Nat.mod_eq_of_lt (by omega)]

section Next
variable {s : State} {slot : Nat}

theorem State.driveNext_handle {v : Drive} (hv : s.drives.find? (fun d => decide (d.slot = slot) && decide (d.todo ≠ [])) = some v) :
    s.driveNext slot = s.driveHandle v (v.todo.headD 0) := by
  unfold State.driveNext
  rw [hv]

variable (hv : s.drives.find? (fun d => decide (d.slot = slot) && decide (d.todo ≠ [])) = none)
include hv

theorem State.driveNext_start {die : Nat} {e : PoolEntry} (hdie : die < 4)
    (hb : ∀ d, d < die → (s.caravan d).pool.find? (fun e => decide (e.slot = slot) && decide (e.kind = 4)) = none)
    (he : (s.caravan die).pool.find? (fun e => decide (e.slot = slot) && decide (e.kind = 4)) = some e) :
    s.driveNext slot = s.startDrive die e := by
  obtain ⟨after, hdies⟩ := dies_eq hdie
  have hf := findSome_pair (f := fun d => (s.caravan d).pool.find? (fun e => decide (e.slot = slot) && decide (e.kind = 4))) hdies
    (fun d hd => Option.eq_none_iff_forall_ne_some.1 (hb d (List.mem_range.1 hd))) he
  unfold State.driveNext
  simp only [hv, hf]

theorem State.driveNext_none (hb : ∀ d, d < 4 → (s.caravan d).pool.find? (fun e => decide (e.slot = slot) && decide (e.kind = 4)) = none) :
    s.driveNext slot = s := by
  have hf := findSome_pair_none (f := fun d => (s.caravan d).pool.find? (fun e => decide (e.slot = slot) && decide (e.kind = 4)))
    (l := [0, 1, 2, 3]) fun d hd => Option.eq_none_iff_forall_ne_some.1 (hb d (List.mem_range.1 (show d ∈ List.range 4 from hd)))
  unfold State.driveNext
  simp only [hv, hf]

end Next

section Drive
variable {s : State} {slot : Nat} (h : slot < 64)
include h

theorem exec_streamDrive_stopped (hr : ¬((s.launch slot).state = .running ∧ (s.launch slot).suspended = false)) :
    exec (.streamDrive slot) s = .next s := by
  refine (if_neg (not_slotCount_le h)).trans (if_pos ?_)
  rwa [not_and_or, Bool.not_eq_false] at hr

theorem exec_streamDrive (hr : (s.launch slot).state = .running ∧ (s.launch slot).suspended = false) : exec (.streamDrive slot) s =
    .next (if ((s.retryHeld slot).heldStreams slot).length < (s.heldStreams slot).length then s.retryHeld slot
      else (s.retryHeld slot).driveNext slot) := by
  refine (if_neg (not_slotCount_le h)).trans (if_neg ?_)
  rw [not_or, not_not, Bool.not_eq_true]
  exact hr

theorem exec_streamDriveComplete_none
    (hd : s.drives.find? (fun d => decide (d.slot = slot) && decide (d.todo = []) && decide (d.taken = [])) = none) :
    exec (.streamDriveComplete slot) s = .next s := by
  refine (if_neg (not_slotCount_le h)).trans ?_
  rw [hd]

variable {v : Drive} (hd : s.drives.find? (fun d => decide (d.slot = slot) && decide (d.todo = []) && decide (d.taken = [])) = some v)
include hd

theorem exec_streamDriveComplete_noResult (hv : v.result = 0) : exec (.streamDriveComplete slot) s = .next (s.endDrive v) := by
  refine (if_neg (not_slotCount_le h)).trans ?_
  rw [hd]
  exact if_pos hv

section Store
variable (hv : v.result ≠ 0) {t : State}
include hv

/-- What completing a drive leaves once its result word is stored. -/
theorem exec_streamDriveComplete_store {a : UnitGot} (ht : State.unitStore { s with free := s.free + 1 } (s.driveOp v) v.result.toNat
    (bytesOfNat 8 (v.left % 2 ^ 24 + v.skipped % 2 ^ 24 * 2 ^ 24)) = (t, a)) : exec (.streamDriveComplete slot) s =
      .next (if a = .pending then t else if a = .clock then t.clockStop v.slot clockLimit else t.endDrive v) := by
  refine (if_neg (not_slotCount_le h)).trans ?_
  rw [← dwordBytes_result] at ht
  simp only [hd]
  rw [if_neg hv, ht]
  cases a with
  | pending => rfl
  | clock => rfl
  | done l => rfl
  | bad => rfl

end Store

end Drive

theorem driveEvents : DriveEvents := by
  intro s slot hslot does ends u next last steps runs woke
  have go {t : State} (hr : runs) (hw : ¬woke) (ht : u.driveNext slot = t) : does t :=
    (exec_streamDrive hslot hr).trans (congrArg _ ((if_neg hw).trans ht))
  refine ⟨exec_streamDrive_stopped hslot, fun hr hw => (exec_streamDrive hslot hr).trans (congrArg _ (if_pos hw)),
    fun hr hw v hv => go hr hw (State.driveNext_handle hv),
    fun hr hw hv die e hdie hb he => go hr hw (State.driveNext_start hv hdie hb he),
    fun hr hw hv hb => go hr hw (State.driveNext_none hv hb), exec_streamDriveComplete_none hslot, fun v hv => ?_⟩
  refine ⟨exec_streamDriveComplete_noResult hslot hv, fun hres t a ht => ?_⟩
  have hstore : ends _ := exec_streamDriveComplete_store hslot hv hres ht
  refine ⟨fun ha => ?_, fun ha => ?_, fun hp hc => ?_⟩
  · rwa [if_pos ha] at hstore
  · rwa [if_neg (by rw [ha]; exact nofun), if_pos ha] at hstore
  · rwa [if_neg hp, if_neg hc] at hstore

/-- Settles O37: a node that is evaluated releases what its word chooses (`evaluatedValues`), and a drive takes its handles and completes
(`driveEvents`). Beyond the rules, the graph error of a word that may not be read, the free agent of Caravan's accesses and a drive's result
that is left unwritten are the model's choices (log 26). -/
theorem evaluatedNodes : Obligations.EvaluatedNodes := ⟨evaluatedValues, driveEvents⟩

end Sys2Proof.Machine
end

section
/-! A step of the part: a context's turn, which instruction it issues, the front ends' and the samplers' slots, and what comes about once a
turn is over. -/
namespace Sys2Proof.Machine

/-! ### Issuing the instruction at the PC (R138, R144, R386) -/

section Issue
variable {s t : State} {g k : Nat}

theorem State.pinLines_clk (s : State) (g k : Nat) : (s.pinLines g k).clk = s.clk := by
  unfold State.pinLines
  split <;> rfl

theorem issueAt_of_decoded {f : State} {bs : List Byte} {i : Instr} {n : Nat} (hp : (s.ctx g k).poisoned = false)
    (hf : (s.pinLines g k).fetch g k = .bytes bs f) (hd : decode bs = .ok (i, n)) :
    issueAt s g k = resend g k s.clk i (exec i { f with cur := (g, k) }) := by
  rw [issueAt_of_pinned (.inl hp), hf]
  simp only [issueFetched, hd, State.pinLines_clk]
  rfl

theorem resend_of_not_eret {clk : Nat} {i : Instr} (o : Host.Outcome State Fault Refusal) (h : ∀ x, i ≠ .eret x) :
    resend g k clk i o = o := by
  unfold resend
  split
  · exact absurd rfl (h _)
  · rfl

theorem resend_of_no_xsend (clk : Nat) (x : RFields) (h : ∀ (bs : List Byte) (y : RFields) (u : State) (n : Nat),
    t.fetch g k = .bytes bs u → decode bs ≠ .ok (.xsend y, n)) : resend g k clk (.eret x) (.next t) = .next t := by
  simp only [resend]
  split
  · rename_i bs u hf
    split
    · exact absurd ‹_› (h _ _ _ _ hf)
    · rfl
  · rfl

theorem resend_of_xsend {clk n : Nat} {x y : RFields} {bs : List Byte} {u : State} (hf : t.fetch g k = .bytes bs u)
    (hd : decode bs = .ok (.xsend y, n)) : resend g k clk (.eret x) (.next t) = exec (.xsend y) { u with clk := clk } := by
  simp only [resend, hf, hd]

end Issue

/-! ### A context's turn (R411, R455, R514) -/

section Turn
variable {s t : State} {g k : Nat}

/-- Whether a context that has the turn does anything with it. -/
def State.mayRun (s : State) (g k : Nat) : Prop := (s.ctx g k).live = true ∧ (s.ctx g k).resident = true ∧ s.dev.tripped = false

theorem State.mayRun_iff : s.mayRun g k ↔ (!((s.ctx g k).live && (s.ctx g k).resident) || s.dev.tripped) = false := by
  simp [State.mayRun, and_assoc]

theorem contextTurn_of_idle (h : ¬ s.mayRun g k) : contextTurn s g k = .next { s with clk := s.clk + 1 } := by
  rw [State.mayRun_iff, Bool.not_eq_false] at h
  exact if_pos h

theorem State.fenceFirst_waits (h : s.fenceFirst g k = true) :
    (s.deliverAsync g k).isSome = true ∧ ∃ x, (s.ctx g k).atPc = some (.nmfence x) := by
  unfold State.fenceFirst at h
  dsimp only at h
  split at h
  · rename_i hpend hpc
    simp only [Bool.and_eq_true, Bool.not_eq_true'] at h
    obtain ⟨⟨⟨⟨⟨-, hmid⟩, htrap⟩, -⟩, -⟩, -⟩ := h
    exact ⟨by simp [State.deliverAsync, hpend, hmid, htrap], _, hpc⟩
  · cases h

variable (h : s.mayRun g k)
include h

theorem contextTurn_of_fence (hf : s.fenceFirst g k = true) : contextTurn s g k = issueAt { s with free := s.free + 1 } g k := by
  rw [State.mayRun_iff, ← Bool.not_eq_true] at h
  exact (if_neg h).trans (if_pos hf)

theorem contextTurn_of_takes (hf : s.fenceFirst g k = false) (ht : (s.deliverAsync g k).or (s.takePreempt g k) = some t) :
    contextTurn s g k = .next { t with clk := t.clk + 1 } := by
  rw [State.mayRun_iff, ← Bool.not_eq_true] at h
  rw [← Bool.not_eq_true] at hf
  refine (if_neg h).trans ((if_neg hf).trans ?_)
  rw [ht]
  rfl

variable (hd : s.deliverAsync g k = none)
include hd

omit h in
theorem State.fenceFirst_of_no_trap : s.fenceFirst g k = false := by
  rw [← Bool.not_eq_true]
  intro hf
  have hs := (State.fenceFirst_waits hf).1
  rw [hd] at hs
  cases hs

variable (hp : s.takePreempt g k = none)
include hp

theorem contextTurn_of_calm : contextTurn s g k = match (s.ctx g k).yieldEnd with
    | some t => if s.clk < t then .next (s.tick 1) else issueAt (s.onCtx g k (fun c => { c with yieldEnd := none })) g k
    | none => issueAt s g k := by
  have hf := State.fenceFirst_of_no_trap hd
  rw [State.mayRun_iff, ← Bool.not_eq_true] at h
  rw [← Bool.not_eq_true] at hf
  refine (if_neg h).trans ((if_neg hf).trans ?_)
  rw [hd, hp]
  rfl

theorem contextTurn_of_ready (hy : (s.ctx g k).yieldEnd = none) : contextTurn s g k = issueAt s g k := by
  rw [contextTurn_of_calm h hd hp, hy]

theorem contextTurn_of_yielded {e : Nat} (hy : (s.ctx g k).yieldEnd = some e) (he : e ≤ s.clk) :
    contextTurn s g k = issueAt (s.onCtx g k (fun c => { c with yieldEnd := none })) g k := by
  rw [contextTurn_of_calm h hd hp, hy]
  exact if_neg (Nat.not_lt.2 he)

theorem contextTurn_of_yielding {e : Nat} (hy : (s.ctx g k).yieldEnd = some e) (he : s.clk < e) :
    contextTurn s g k = .next { s with clk := s.clk + 1 } := by
  rw [contextTurn_of_calm h hd hp, hy]
  exact if_pos he

end Turn

/-! ### Slots of front ends and samplers (R138, R467) -/

section Slots
variable {s : State} {g k : Nat} {fe : FE} {late : List Nat}

theorem frontTurn_of_pick (h : s.pick g fe late = some k) : frontTurn s g fe late = contextTurn (s.issuedBy g fe k) g k := by
  simp only [frontTurn, h]

theorem frontTurn_of_none (h : s.pick g fe late = none) : frontTurn s g fe late = .next { s with clk := s.clk + 1 } := by
  simp only [frontTurn, h]
  rfl

/-- Whether a context could take an issue slot. -/
def State.takesSlot (s : State) (g k : Nat) : Prop := s.slotless g k = false ∧ s.unready g k = false

theorem State.takesSlot_iff : s.takesSlot g k ↔ (s.slotless g k || s.unready g k) = false := by
  simp [State.takesSlot]

theorem ownTurn_of_waiting (h : ¬ s.takesSlot g k) : ownTurn s g k = contextTurn s g k := by
  rw [State.takesSlot_iff, Bool.not_eq_false] at h
  exact if_pos h

theorem ownTurn_of_free (h : s.takesSlot g k) : ownTurn s g k = frontTurn s g (s.ctx g k).fe [] := by
  rw [State.takesSlot_iff, ← Bool.not_eq_true] at h
  exact if_neg h

/-- Neither a trap nor a pre-emption of a context is due. -/
def State.calm (s : State) (g k : Nat) : Prop := s.deliverAsync g k = none ∧ s.takePreempt g k = none

theorem State.calm_iff : s.calm g k ↔ ((s.deliverAsync g k).or (s.takePreempt g k)).isSome = false := by
  simp [State.calm]

theorem waitTurn_of_waiting (h : ¬ s.takesSlot g k ∨ ¬ s.calm g k) : waitTurn s g k = contextTurn s g k := by
  rw [State.takesSlot_iff, State.calm_iff, Bool.not_eq_false, Bool.not_eq_false, ← Bool.or_eq_true] at h
  exact if_pos h

theorem waitTurn_of_free (h : s.takesSlot g k) (hc : s.calm g k) : waitTurn s g k = .next { s with clk := s.clk + 1 } := by
  rw [State.takesSlot_iff] at h
  rw [State.calm_iff] at hc
  exact if_neg (by rw [h, hc]; decide)

theorem State.smpCtx_onSampler {f : Sampler → Sampler} (h : (f (s.sampler g)).ctxs = (s.sampler g).ctxs) :
    (s.onSampler g f).smpCtx g k = s.smpCtx g k := by
  have hs : (s.onSampler g f).sampler g = f (s.sampler g) := Table.get_set_same _ _ _ _
  rw [State.smpCtx, hs, h]
  rfl

variable {run : Instr → State → Host.Outcome State Fault Refusal}

theorem microTurn_of_none (h : s.nextSmp g late = none) : microTurn run g late s = .next { s with clk := s.clk + 1 } := by
  simp only [microTurn, h]
  rfl

theorem microTurn_of_word {c : SmpCtx} {i : Instr} (h : s.nextSmp g late = some k) (hc : s.smpCtx g k = some c)
    (hpc : c.pc < c.words.length) (hi : decodeMicro (c.words.getD c.pc 0) = some i) :
    microTurn run g late s = run i { s.onSampler g (fun m => { m with last := k }) with smp := (g, k) } := by
  have hc' : (s.onSampler g (fun m => { m with last := k })).smpCtx g k = some c := (State.smpCtx_onSampler rfl).trans hc
  simp only [microTurn, h, microStep, hc']
  rw [if_neg (Nat.not_le.2 hpc), hi]

end Slots

/-! ### The host's mask of a vector (R101) -/

theorem State.send_of_unmasked {s : State} {v : Nat} (h : s.dev.masked.contains v = false) :
    s.send v = { s with dev := { s.dev with sent := v :: s.dev.sent } } :=
  if_neg (by rw [h]; decide)

theorem State.maskVector_on {s : State} {v : Nat} (h : s.dev.masked.contains v = false) :
    s.maskVector v true = { s with dev := { s.dev with masked := v :: s.dev.masked } } := by
  simp only [State.maskVector, h, if_true]
  rfl

theorem State.maskVector_off_pending {s : State} {v : Nat} (h : s.dev.pending.contains v = true) :
    s.maskVector v false = { s with dev := { s.dev with
      masked := s.dev.masked.filter (· ≠ v), pending := s.dev.pending.filter (· ≠ v), sent := v :: s.dev.sent } } := by
  simp only [State.maskVector, h, if_true]
  rw [State.send_of_unmasked (by simp)]
  rfl

/-! ### Turns of the agenda -/

section Agenda
variable {s : State} {rest : List Turn}

theorem turn_of_empty {g k : Nat} (h : s.agenda = []) (hc : s.cur = (g, k)) : turn s = ownTurn s g k := by
  simp only [turn, h, hc]

theorem turn_of_front {g : Nat} {fe : FE} {late : List Nat} (h : s.agenda = .front g fe late :: rest) :
    turn s = frontTurn { s with agenda := rest } g fe late := by
  simp only [turn, h]

theorem turn_of_waits {g k : Nat} (h : s.agenda = .waits g k :: rest) : turn s = waitTurn { s with agenda := rest } g k := by
  simp only [turn, h]

theorem turn_of_micro {die : Nat} {late : List Nat} (h : s.agenda = .micro die late :: rest) :
    turn s = microTurn exec die late { s with agenda := rest } := by
  simp only [turn, h]

theorem turn_of_event {i : Instr} (h : s.agenda = .event i :: rest) :
    turn s = if i.isEvent then exec i { s with agenda := rest } else .next { s with agenda := rest } := by
  simp only [turn, h]

theorem turn_of_mask {v : Nat} {on : Bool} (h : s.agenda = .mask v on :: rest) :
    turn s = .next (State.maskVector { s with agenda := rest } v on) := by
  simp only [turn, h]

theorem turn_of_pass {n : Nat} (h : s.agenda = .pass n :: rest) : turn s = .next { s with agenda := rest, clk := s.clk + n } := by
  simp only [turn, h]
  rfl

end Agenda

/-! ### What comes about by itself (R362, R382, R384, R385, R387) -/

section Settle
variable {s t : State} {g k : Nat}

theorem Ctx.watches_iff {c : Ctx} : c.watches = true ↔ c.live = true ∧ c.resident = true ∧ c.waitFrom ≠ none ∧ c.unissued = false
    ∧ ((∃ x, c.atPc = some (.sync x)) ∨ (∃ x, c.atPc = some (.xwait x)) ∨ ∃ x, c.atPc = some (.waitsig x)) := by
  unfold Ctx.watches
  simp only [Bool.and_eq_true, Bool.not_eq_true', Option.isSome_iff_ne_none, and_assoc]
  refine and_congr_right fun _ => and_congr_right fun _ => and_congr_right fun _ => and_congr_right fun _ => ?_
  split
  · rename_i x h
    simp [h]
  · rename_i x h
    simp [h]
  · rename_i x h
    simp [h]
  · rename_i h1 h2 h3
    exact iff_of_false (by decide) fun h => h.elim (fun h => h1 _ h.choose_spec) fun h =>
      h.elim (fun h => h2 _ h.choose_spec) fun h => h3 _ h.choose_spec

theorem State.complete_stays (h : ¬ (s.ctx g k).watches = true ∨ ¬ s.calm g k) : s.complete g k = s := by
  rw [State.calm_iff, Bool.not_eq_true, Bool.not_eq_false, ← Bool.not_eq_true', ← Bool.or_eq_true] at h
  exact if_pos h

section Watching
variable (hw : (s.ctx g k).watches = true) (hc : s.calm g k) (ht : contextTurn s g k = .next t)
include hw hc ht

theorem State.complete_of_turn : s.complete g k = if (t.ctx g k).waitFrom = none then { t with clk := s.clk, cur := s.cur } else s := by
  rw [State.calm_iff] at hc
  unfold State.complete
  rw [if_neg (by rw [hw, hc]; decide), ht]
  simp only [Option.isNone_iff_eq_none]

end Watching

theorem State.barrierComplete_cores (s : State) (d : Nat) : (s.barrierComplete d).cores = s.cores := by
  unfold State.barrierComplete
  dsimp only
  split <;> rfl

theorem State.foldl_barrierComplete_cores (ds : List Nat) (s : State) : (ds.foldl (fun s d => s.barrierComplete d) s).cores = s.cores := by
  induction ds generalizing s with
  | nil => rfl
  | cons d ds ih => exact (ih _).trans (s.barrierComplete_cores d)

theorem foldl_eq_self {α β : Type} {f : α → β → α} {a : α} {l : List β} (h : ∀ b ∈ l, f a b = a) : l.foldl f a = a :=
  List.foldlRecOn (motive := (· = a)) l f rfl fun _ hb x hx => by rw [hb, h x hx]

theorem mem_ctxNumbers {k : Nat} : k ∈ ctxNumbers ↔ k < 13 := List.mem_range (n := 13)

/-- A pass over the contexts of which none watches leaves the state as it is. -/
theorem State.foldl_complete_stays (h : ∀ e ∈ s.cores, ∀ k, k < 13 → (s.ctx e.1 k).watches = false) :
    s.cores.foldl (fun s c => ctxNumbers.foldl (fun s k => s.complete c.1 k) s) s = s :=
  foldl_eq_self fun e he => foldl_eq_self fun k hk => State.complete_stays (.inl (by rw [h e he k (mem_ctxNumbers.1 hk)]; decide))

theorem State.settleTurn_of_unwatched
    (h : ∀ e ∈ s.cores, ∀ k, k < 13 → (((s.domains.map (·.1)).foldl (fun s d => s.barrierComplete d) s).ctx e.1 k).watches = false) :
    s.settleTurn = ((s.domains.map (·.1)).foldl (fun s d => s.phaseEnd d)
      ((s.domains.map (·.1)).foldl (fun s d => s.barrierComplete d) s)).noteClocks := by
  have hs := State.foldl_complete_stays (s := (s.domains.map (·.1)).foldl (fun s d => s.barrierComplete d) s)
    (by rwa [State.foldl_barrierComplete_cores])
  exact congrArg (fun u => State.noteClocks ((s.domains.map (·.1)).foldl (fun s d => s.phaseEnd d) u)) hs

end Settle

/-! ### CLKMAX (R362) -/

theorem le_foldl_max {l : List Nat} {b x : Nat} (h : x ≤ b ∨ x ∈ l) : x ≤ l.foldl max b := by
  induction l generalizing b with
  | nil => exact h.resolve_right List.not_mem_nil
  | cons y l ih =>
    refine ih ?_
    rw [List.mem_cons, ← or_assoc] at h
    exact h.imp_left fun h => le_max_iff.2 (h.imp_right Eq.le)

theorem Table.mem_of_find {α : Type} {t : Table α} {i : Nat} {v : α} (h : Table.find t i = some v) : (i, v) ∈ t := by
  induction t with
  | nil => cases h
  | cons e r ih =>
    unfold Table.find at h
    split at h
    · rename_i he
      cases h
      rw [← he]
      exact List.mem_cons_self
    · exact List.mem_cons_of_mem _ (ih h)

theorem Ctx.initial_clocks (k : Nat) : (Ctx.initial k).l = 0 ∧ (Ctx.initial k).h = 0 := by
  unfold Ctx.initial
  split <;> exact ⟨rfl, rfl⟩

/-- A context that is not listed is as after module reset. -/
theorem State.ctx_initial_or_mem (s : State) (g k : Nat) :
    s.ctx g k = Ctx.initial k ∨ ∃ e ∈ s.cores, ∃ x ∈ e.2.ctxs, x.2 = s.ctx g k := by
  unfold State.ctx State.core Core.ctx Table.get
  cases hc : Table.find s.cores g with
  | none => exact .inl rfl
  | some c =>
    cases hx : Table.find c.ctxs k with
    | none => exact .inl (by rw [Option.getD_some, hx]; rfl)
    | some x => exact .inr ⟨_, Table.mem_of_find hc, _, Table.mem_of_find hx, by rw [Option.getD_some, hx]; rfl⟩

theorem State.ctx_le_clockMax (s : State) (g k : Nat) : (s.ctx g k).l ≤ s.clockMax ∧ (s.ctx g k).h ≤ s.clockMax := by
  obtain hc | ⟨e, he, x, hx, hc⟩ := s.ctx_initial_or_mem g k
  · rw [hc, (Ctx.initial_clocks k).1, (Ctx.initial_clocks k).2]
    exact ⟨Nat.zero_le _, Nat.zero_le _⟩
  · have hmem : ∀ n ∈ [x.2.l, x.2.h], n ≤ s.clockMax := fun n hn => by
      refine le_foldl_max (.inr (List.mem_append_left _ (List.mem_append_left _ (List.mem_flatMap.2 ⟨e, he, ?_⟩))))
      exact List.mem_append_left _ (List.mem_flatMap.2 ⟨x, hx, hn⟩)
    rw [← hc]
    exact ⟨hmem _ (by simp), hmem _ (by simp)⟩

theorem State.ctx_noteClocks_le (s : State) (g k : Nat) :
    (s.noteClocks.ctx g k).l ≤ s.noteClocks.dev.clkmax ∧ (s.noteClocks.ctx g k).h ≤ s.noteClocks.dev.clkmax := s.ctx_le_clockMax g k

/-! ### Domains that are not configured -/

theorem State.domainOf_free {s : State} (h : ∀ e ∈ s.domains, e.2.configured = false) (d : Nat) : (s.domainOf d).configured = false := by
  unfold State.domainOf Table.get
  cases hd : Table.find s.domains d with
  | none => rfl
  | some x => exact h _ (Table.mem_of_find hd)

theorem State.barrierComplete_of_free {s : State} {d : Nat} (h : (s.domainOf d).configured = false) : s.barrierComplete d = s := by
  simp only [State.barrierComplete, h, Bool.false_and, Bool.false_eq_true, if_false]

theorem State.phaseEnd_of_free {s : State} {d : Nat} (h : (s.domainOf d).configured = false) : s.phaseEnd d = s := by
  simp only [State.phaseEnd, h, Bool.false_and, Bool.false_eq_true, if_false]

theorem State.settleTurn_of_quiet {s : State} (hw : ∀ e ∈ s.cores, ∀ k, k < 13 → (s.ctx e.1 k).waitFrom = none)
    (hd : ∀ e ∈ s.domains, e.2.configured = false) : s.settleTurn = s.noteClocks := by
  have hb : (s.domains.map (·.1)).foldl (fun s d => s.barrierComplete d) s = s :=
    foldl_eq_self fun d _ => State.barrierComplete_of_free (State.domainOf_free hd d)
  rw [State.settleTurn_of_unwatched, hb, foldl_eq_self fun d _ => State.phaseEnd_of_free (State.domainOf_free hd d)]
  rw [hb]
  intro e he k hk
  rw [← Bool.not_eq_true, Ctx.watches_iff]
  exact fun h => h.2.2.1 (hw e he k hk)

theorem turnsSettle : TurnsSettle := by
  intro s g k ds c waits calm
  refine ⟨fun t ht => by rw [step, ht], State.settleTurn_of_unwatched, State.ctx_noteClocks_le _ g k, Ctx.watches_iff, fun h =>
    State.complete_stays (h.imp_left (mt Ctx.watches_iff.1)), fun hw hc t ht => ?_, State.settleTurn_of_quiet⟩
  rw [State.complete_of_turn (Ctx.watches_iff.2 hw) hc ht]
  exact ⟨fun h => if_pos h, fun h => if_neg h⟩

/-- Settles O49: what comes about once a turn is over is `turnsSettle`; a turn is its agenda's, and a context that has it does what
`contextTurn_of_idle` to `contextTurn_of_yielding` say. Beyond the rules, the order of turns is the agenda's (log 1), events come from
outside (log 41), and which of an NMFENCE and its trap comes first is a free value (log 51). -/
theorem stepRunsDecoded : Obligations.StepRunsDecoded := by
  intro s rest g k r able calm issues runs takes free
  have issued {u : State} (h : turn s = issueAt u g k) : issues u := by
    intro hp bs f i n hf hd
    rw [issueAt_of_decoded hp hf hd] at h
    refine ⟨fun hi => h.trans (resend_of_not_eret _ hi), fun t ht hno => ?_, fun t ht ⟨x, hi⟩ bs y w n hf' hd' => ?_⟩
    · rw [h, ht]
      by_cases hi : ∃ x, i = .eret x
      · obtain ⟨x, rfl⟩ := hi
        exact resend_of_no_xsend _ x (hno.resolve_left fun hn => hn x rfl)
      · exact resend_of_not_eret _ (not_exists.1 hi)
    · subst hi
      rw [h, ht]
      exact resend_of_xsend hf' hd'
  have taken {u : State} (h : turn s = contextTurn u g k) : takes u := by
    refine ⟨fun ha ⟨hd, hp⟩ => ⟨fun hy => issued ?_, fun e hy he => issued ?_, fun e hy he => ?_⟩, fun ha => ?_,
      fun ha hf => issued ?_, fun ha hf t ht => ?_, fun ha hd t ht => ?_⟩
    · exact h.trans (contextTurn_of_ready ha hd hp hy)
    · exact h.trans (contextTurn_of_yielded ha hd hp hy he)
    · exact h.trans (contextTurn_of_yielding ha hd hp hy he)
    · exact h.trans (contextTurn_of_idle ha)
    · exact h.trans (contextTurn_of_fence ha hf)
    · exact h.trans (contextTurn_of_takes ha hf (by rw [ht]; rfl))
    · exact h.trans (contextTurn_of_takes ha (State.fenceFirst_of_no_trap hd) (by rw [hd, ht]; rfl))
  refine ⟨fun u => State.fenceFirst_waits, fun ha hc hn => taken ((turn_of_empty ha hc).trans (ownTurn_of_waiting hn)),
    fun j ha hc hj => ?_, fun fe late ha => ?_,
    fun ha => ⟨fun h => taken ((turn_of_waits ha).trans (waitTurn_of_waiting h)), fun hf hc => ?_⟩, fun late ha => ⟨fun hn => ?_, fun hk c i hc hpc hi => ?_⟩, fun i => turn_of_event,
    fun v ha hv => ?_, fun v ha hv => ?_, fun n => turn_of_pass, turnsSettle⟩
  · have hown : turn s = frontTurn s g (s.ctx g j).fe [] := (turn_of_empty ha hc).trans (ownTurn_of_free hj)
    exact ⟨fun h => taken (hown.trans (frontTurn_of_pick h)), fun h => hown.trans (frontTurn_of_none h)⟩
  · exact ⟨fun h => taken ((turn_of_front ha).trans (frontTurn_of_pick h)), fun h => (turn_of_front ha).trans (frontTurn_of_none h)⟩
  · exact (turn_of_waits ha).trans (waitTurn_of_free hf hc)
  · exact (turn_of_micro ha).trans (microTurn_of_none hn)
  · exact (turn_of_micro ha).trans (microTurn_of_word hk hc hpc hi)
  · exact (turn_of_mask ha).trans (congrArg _ (State.maskVector_on hv))
  · exact (turn_of_mask ha).trans (congrArg _ (State.maskVector_off_pending hv))

end Sys2Proof.Machine
end

section
/-! The end of a launch whose streams Caravan still steps. -/
namespace Sys2Proof.Machine

/-- A part in which a launch of slot 0 has left stream 1 ready: Caravan steps its descriptor as the launch ends (R131, R323). -/
def State.leavesReadyStream : State :=
  { State.reset with launches := [(0, { state := .running })], streams := [(1, { drive := some (0, 0), state := .ready })] }

/-- The step takes a time in the order (R326), which CLKMAX then keeps (R362). -/
theorem endLaunch_leavesReadyStream_clkmax : (State.leavesReadyStream.endLaunch 0 0 .done 0 0 false).dev.clkmax = 1 := by decide

theorem not_launchEndRecord : ¬ LaunchEndRecord := by
  intro h
  obtain ⟨-, -, -, -, -, hdev, -⟩ := h State.leavesReadyStream 0 0 0 .done 0 false
  have hclk := endLaunch_leavesReadyStream_clkmax
  rw [hdev rfl] at hclk
  exact absurd hclk (by decide)

/-- Refutes O38: `LaunchEndRecord` says that an end which asks for no vector leaves the device's registers as they were. Where a stream of the
launch is ready, Caravan's step of its descriptor is given a time (R131, R323, R326), and CLKMAX moves to it (R362). -/
theorem not_launchSlots : ¬ Obligations.LaunchSlots := fun ⟨_, _, h⟩ => not_launchEndRecord h

end Sys2Proof.Machine
end

section
/-! What the host writes: the registers of BAR0, clocks, slot tables and translation answers. -/
namespace Sys2Proof.Machine

/-! ### Writing all of a register, and a half (R100) -/

/-- A register with the bits of a mask replaced. -/
def merged (old w m : Word) : Word := (old &&& ~~~m) ||| (w &&& m)

theorem merged_allOnes (old w : Word) : merged old w (BitVec.allOnes 64) = w := by
  rw [merged, BitVec.not_allOnes, BitVec.and_zero, BitVec.zero_or, BitVec.and_allOnes]

theorem getLsbD_lowMask (i : Nat) : (0xFFFFFFFF : Word).getLsbD i = decide (i < 32) := by
  have h : (0xFFFFFFFF : Word) = (BitVec.allOnes 32).setWidth 64 := rfl
  rw [h, BitVec.getLsbD_setWidth, BitVec.getLsbD_allOnes, ← Bool.decide_and]
  exact decide_eq_decide.2 (by omega)

/-- Bits of a dword put together from two halves. -/
theorem getLsbD_halves {i : Nat} (hi : i < 64) (hi' lo : Nat) : (BitVec.ofNat 64 (hi' * 2 ^ 32 + lo % 2 ^ 32)).getLsbD i =
    if i < 32 then lo.testBit i else hi'.testBit (i - 32) := by
  rw [BitVec.getLsbD_ofNat, Nat.mul_comm, Nat.testBit_two_pow_mul_add _ (Nat.mod_lt _ (by decide)), Nat.testBit_mod_two_pow]
  split <;> simp [*]

theorem merged_low (old v : Word) : merged old ((v &&& 0xFFFFFFFF) <<< 0) ((0xFFFFFFFF : Word) <<< 0)
    = BitVec.ofNat 64 (old.toNat / 2 ^ 32 * 2 ^ 32 + v.toNat % 2 ^ 32) := by
  refine BitVec.eq_of_getLsbD_eq fun i hi => ?_
  rw [getLsbD_halves hi, Nat.testBit_div_two_pow]
  simp only [merged, BitVec.shiftLeft_zero, BitVec.getLsbD_or, BitVec.getLsbD_and, BitVec.getLsbD_not, getLsbD_lowMask, BitVec.testBit_toNat, hi]
  by_cases h : i < 32
  · simp [h]
  · simp [h, Nat.sub_add_cancel (Nat.not_lt.1 h)]

theorem merged_high (old v : Word) : merged old ((v &&& 0xFFFFFFFF) <<< 32) ((0xFFFFFFFF : Word) <<< 32)
    = BitVec.ofNat 64 (v.toNat % 2 ^ 32 * 2 ^ 32 + old.toNat % 2 ^ 32) := by
  refine BitVec.eq_of_getLsbD_eq fun i hi => ?_
  rw [getLsbD_halves hi, Nat.testBit_mod_two_pow]
  simp only [merged, BitVec.getLsbD_or, BitVec.getLsbD_and, BitVec.getLsbD_not, BitVec.getLsbD_shiftLeft, getLsbD_lowMask,
    BitVec.testBit_toNat, hi]
  by_cases h : i < 32
  · simp [h]
  · have h' : i - 32 < 32 := by omega
    simp [h, h']

section Write
variable {s : State} {off : Nat} (v : Word)

theorem exec_registerWrite_wide (h : off % 8 = 0) :
    exec (.registerWrite off true v) s = .next (s.putReg off v (BitVec.allOnes 64)) := congrArg _ (if_pos h)

theorem exec_registerWrite_wide_misaligned (h : off % 8 ≠ 0) : exec (.registerWrite off true v) s = .next s := congrArg _ (if_neg h)

theorem exec_registerWrite_half (h : off % 4 = 0) : exec (.registerWrite off false v) s =
    .next (s.putReg (off / 8 * 8) ((v &&& 0xFFFFFFFF) <<< (8 * (off % 8))) ((0xFFFFFFFF : Word) <<< (8 * (off % 8)))) :=
  if_neg (not_not.2 h)

theorem exec_registerWrite_half_misaligned (h : off % 4 ≠ 0) : exec (.registerWrite off false v) s = .next s := if_pos h

theorem exec_registerWrite_answers (w : Bool) : ∃ t, exec (.registerWrite off w v) s = .next t := by
  cases w
  · by_cases h : off % 4 = 0
    · exact ⟨_, exec_registerWrite_half v h⟩
    · exact ⟨_, exec_registerWrite_half_misaligned v h⟩
  · exact ⟨_, rfl⟩

end Write

/-! ### The blocks of registers (R102, R107, R108, R279) -/

section Blocks
variable (s : State) (w m : Word)

theorem State.putReg_dev {o : Nat} (h : o < 0x1000) : s.putReg o w m = s.putDev o w m (merged (s.reg o) w m) := if_pos h

theorem State.putReg_chan {c i : Nat} (hc : c < 512) (hi : i < 64) :
    s.putReg (0x8000 + 64 * c + i) w m = s.onChan c (fun t => t.put i w m) := by
  have h1 : ¬ 0x8000 + 64 * c + i < 0x1000 := by omega
  have h2 : 0x8000 ≤ 0x8000 + 64 * c + i ∧ 0x8000 + 64 * c + i < 0x10000 := by omega
  have hq : (0x8000 + 64 * c + i - 0x8000) / 64 = c := by omega
  have hr : (0x8000 + 64 * c + i - 0x8000) % 64 = i := by omega
  refine (if_neg h1).trans ((if_pos h2).trans ?_)
  rw [hq, hr]

theorem State.putReg_launch {slot o : Nat} (hs : slot < 64) (ho : o < 256) : s.putReg (0x100000 + 256 * slot + o) w m =
    s.putLaunch slot o w m (merged (s.reg (0x100000 + 256 * slot + o)) w m) := by
  have h1 : ¬ 0x100000 + 256 * slot + o < 0x1000 := by omega
  have h2 : ¬ (0x8000 ≤ 0x100000 + 256 * slot + o ∧ 0x100000 + 256 * slot + o < 0x10000) := by omega
  have h3 : 0x100000 ≤ 0x100000 + 256 * slot + o ∧ 0x100000 + 256 * slot + o < 0x104000 := by omega
  have hq : (0x100000 + 256 * slot + o - 0x100000) / 256 = slot := by omega
  have hr : (0x100000 + 256 * slot + o - 0x100000) % 256 = o := by omega
  refine (if_neg h1).trans ((if_neg h2).trans ((if_pos h3).trans ?_))
  rw [hq, hr]
  rfl

theorem State.putReg_quota {n : Nat} (h0 : 0 < n) (h : n < 64) : s.putReg (0x200000 + 64 * n + 8) w m =
    s.onOwner n (fun x => { x with quota := (merged (s.reg (0x200000 + 64 * n + 8)) w m).setWidth 32 }) := by
  have h1 : ¬ 0x200000 + 64 * n + 8 < 0x1000 := by omega
  have h2 : ¬ (0x8000 ≤ 0x200000 + 64 * n + 8 ∧ 0x200000 + 64 * n + 8 < 0x10000) := by omega
  have h3 : ¬ (0x100000 ≤ 0x200000 + 64 * n + 8 ∧ 0x200000 + 64 * n + 8 < 0x104000) := by omega
  have h4 : 0x200000 ≤ 0x200000 + 64 * n + 8 ∧ 0x200000 + 64 * n + 8 < 0x201000 := by omega
  have hq : (0x200000 + 64 * n + 8 - 0x200000) / 64 = n := by omega
  have hr : (0x200000 + 64 * n + 8 - 0x200000) % 64 = 8 := by omega
  refine (if_neg h1).trans ((if_neg h2).trans ((if_neg h3).trans ((if_pos h4).trans ?_)))
  rw [hq, hr]
  exact if_pos ⟨h0.ne', rfl⟩

theorem State.putReg_beyond {o : Nat} (h : 0x400000 ≤ o) : s.putReg o w m = s := by
  have h1 : ¬ o < 0x1000 := by omega
  have h2 : ¬ (0x8000 ≤ o ∧ o < 0x10000) := by omega
  have h3 : ¬ (0x100000 ≤ o ∧ o < 0x104000) := by omega
  have h4 : ¬ (0x200000 ≤ o ∧ o < 0x201000) := by omega
  have h5 : o ≠ 0x300000 := by omega
  exact (if_neg h1).trans ((if_neg h2).trans ((if_neg h3).trans ((if_neg h4).trans (if_neg fun h => h5 h.1))))

theorem State.reg_launch {slot o : Nat} (hs : slot < 64) (ho : o < 256) (h8 : o % 8 = 0) :
    s.reg (0x100000 + 256 * slot + o) = (s.launch slot).reg o := by
  have h0 : ¬ (0x100000 + 256 * slot + o) % 8 ≠ 0 := by omega
  have h1 : ¬ 0x100000 + 256 * slot + o < 0x1000 := by omega
  have h1' : ¬ 0x100000 + 256 * slot + o < 0x1800 := by omega
  have h2 : ¬ (0x8000 ≤ 0x100000 + 256 * slot + o ∧ 0x100000 + 256 * slot + o < 0x10000) := by omega
  have h3 : 0x100000 ≤ 0x100000 + 256 * slot + o ∧ 0x100000 + 256 * slot + o < 0x104000 := by omega
  have hq : (0x100000 + 256 * slot + o - 0x100000) / 256 = slot := by omega
  have hr : (0x100000 + 256 * slot + o - 0x100000) % 256 = o := by omega
  refine (if_neg h0).trans ((if_neg h1).trans ((if_neg h1').trans ((if_neg h2).trans ((if_pos h3).trans ?_))))
  rw [hq, hr]

variable {i : Nat} (hi : i < 16)
include hi

theorem Launch.reg_param (l : Launch) : l.reg (0x20 + 8 * i) = l.params.get 0 i := by
  interval_cases i <;> rfl

theorem State.putLaunch_param (slot : Nat) (new : Word) : s.putLaunch slot (0x20 + 8 * i) w m new =
    s.onLaunch slot (fun l => { l with params := l.params.set i new }) := by
  interval_cases i <;> rfl

end Blocks

theorem State.putLaunch_lgo (s : State) (slot : Nat) (v new : Word) :
    s.putLaunch slot 0x18 v (BitVec.allOnes 64) new = s.lgo slot (v.toNat % 8) := congrArg (s.lgo slot) (field_mod v 3)

theorem State.putDev_mgov (s : State) (v new : Word) : s.putDev 0x40 v (BitVec.allOnes 64) new =
    { s with dev := { s.dev with mgov := max 1 (min 256 (v.toNat % 512)) } } :=
  congrArg (fun n => { s with dev := { s.dev with mgov := max 1 (min 256 n) } }) (field_mod v 9)

theorem SlotTable.put_slots (t : SlotTable) (v : Word) {i : Nat} (hi : i < 4) :
    t.put (8 * i) v (BitVec.allOnes 64) = { t with staged := t.staged.set i (v &&& 0xC7C7C7C7C7C7C7C7) } := by
  have hlt : 8 * i < 0x20 := by omega
  have hdiv : 8 * i / 8 = i := by omega
  refine (if_pos hlt).trans ?_
  rw [hdiv]
  exact congrArg (fun x : Word => { t with staged := t.staged.set i (x &&& 0xC7C7C7C7C7C7C7C7) }) (merged_allOnes _ v)

/-! ### A launch slot's registers (R108, R109) -/

section Slot
variable {s : State} {slot o : Nat} (h : slot < 64) (v : Word)
include h

/-- A write of a whole register of a launch slot. -/
theorem exec_registerWrite_launch (ho : o < 256) (h8 : o % 8 = 0) : exec (.registerWrite (0x100000 + 256 * slot + o) true v) s =
    .next (s.putLaunch slot o v (BitVec.allOnes 64) v) := by
  rw [exec_registerWrite_wide v (by omega), State.putReg_launch s _ _ h ho, merged_allOnes]

/-- A write of one half of a parameter: the low one at `d` 0, the high one at `d` 4. -/
theorem exec_registerWrite_param_half {off i d : Nat} (hi : i < 16) (hd : d = 0 ∨ d = 4)
    (ho : off = 0x100000 + 256 * slot + (0x20 + 8 * i) + d) :
    exec (.registerWrite off false v) s = .next (s.onLaunch slot (fun l => { l with
      params := l.params.set i
        (merged ((s.launch slot).params.get 0 i) ((v &&& 0xFFFFFFFF) <<< (8 * d)) ((0xFFFFFFFF : Word) <<< (8 * d))) })) := by
  have hq : off / 8 * 8 = 0x100000 + 256 * slot + (0x20 + 8 * i) := by omega
  have hr : off % 8 = d := by omega
  rw [exec_registerWrite_half v (by omega), hq, hr, State.putReg_launch s _ _ h (by omega), State.putLaunch_param s _ _ hi,
    State.reg_launch s h (by omega) (by omega), Launch.reg_param hi]

end Slot

theorem registerWrites : RegisterWrites := by
  intro s v wide half
  refine ⟨fun off w => exec_registerWrite_answers v w, fun slot h => ?_, fun n h0 h => ?_, fun c i hc hi => ?_, ?_, ?_,
    fun off => exec_registerWrite_wide_misaligned v, fun off => exec_registerWrite_half_misaligned v, fun off h => ?_⟩
  · intro base
    have whole {o : Nat} {t : State} (ho : o < 256) (h8 : o % 8 = 0) (ht : s.putLaunch slot o v (BitVec.allOnes 64) v = t) :
        wide (base + o) t := ht ▸ exec_registerWrite_launch h v ho h8
    refine ⟨whole (o := 0) (by decide) rfl ?_, whole (by decide) rfl rfl,
      whole (by decide) rfl (s.putLaunch_lgo slot v v), whole (by decide) rfl rfl, whole (by decide) rfl rfl, fun i hi => ⟨?_, ?_, ?_⟩⟩
    · exact congrArg (fun x => s.onLaunch slot (fun l => { l with lgraph := x })) (merged_allOnes _ v)
    · rw [Nat.add_assoc]
      exact whole (by omega) (by omega) (State.putLaunch_param s _ _ hi slot v)
    · rw [← merged_low]
      exact exec_registerWrite_param_half h v (d := 0) hi (.inl rfl) (by omega)
    · rw [← merged_high]
      exact exec_registerWrite_param_half h v (d := 4) hi (.inr rfl) (by omega)
  · refine (exec_registerWrite_wide v (by omega)).trans ?_
    rw [State.putReg_quota s _ _ h0 h, merged_allOnes]
  · refine (exec_registerWrite_wide v (by omega)).trans ?_
    rw [State.putReg_chan s _ _ hc (by omega)]
    exact congrArg _ (congrArg _ (funext fun t => SlotTable.put_slots t v hi))
  · refine (exec_registerWrite_wide v rfl).trans ?_
    rw [State.putReg_dev s _ _ (by decide), State.putDev_mgov]
  · refine (exec_registerWrite_wide v rfl).trans ?_
    rw [State.putReg_dev s _ _ (by decide), merged_allOnes]
    rfl
  · have half_beyond : 0x400000 ≤ off / 8 * 8 := by omega
    refine ⟨?_, ?_⟩
    · by_cases h8 : off % 8 = 0
      · exact (exec_registerWrite_wide v h8).trans (congrArg _ (State.putReg_beyond s _ _ h))
      · exact exec_registerWrite_wide_misaligned v h8
    · by_cases h4 : off % 4 = 0
      · exact (exec_registerWrite_half v h4).trans (congrArg _ (State.putReg_beyond s _ _ half_beyond))
      · exact exec_registerWrite_half_misaligned v h4

/-! ### Clocks (R362) -/

section Clocks
variable (s : State)

/-- A value of every entry of a table that is mapped, and of the default, is one of the table's default or mapped values. -/
theorem Table.get_map_of {α : Type} {p : α → Prop} {f : α → α} {t : Table α} {d : α} (hd : p d) (hf : ∀ x, p (f x)) (i : Nat) :
    p (Table.get (t.map fun (e : Nat × α) => (e.1, f e.2)) d i) := by
  unfold Table.get
  rw [Table.find_map]
  cases Table.find t i with
  | none => exact hd
  | some x => exact hf x

theorem State.line_resetClocks (n : Nat) : (s.resetClocks.line n).wts = 0 ∧ (s.resetClocks.line n).rts = 0 :=
  Table.get_map_of (p := fun l => l.wts = 0 ∧ l.rts = 0) (f := fun l : LineHome => { l with wts := 0, rts := 0, md := none })
    ⟨rfl, rfl⟩ (fun _ => ⟨rfl, rfl⟩) n

theorem State.stream_resetClocks (n : Nat) : (s.resetClocks.stream n).clock = 0 :=
  Table.get_map_of (p := fun d => d.clock = 0) (f := fun d : Stream => { d with clock := 0 }) rfl (fun _ => rfl) n

/-- Writing anew the keys of a list that a table has. -/
theorem Table.find_foldl_rewrite {α : Type} (p : Nat → Bool) (f : Nat → α) (ks : List Nat) (t : Table α) (k : Nat) :
    Table.find (ks.foldl (fun t k => if p k then t.set k (f k) else t) t) k = if k ∈ ks ∧ p k = true then some (f k) else Table.find t k := by
  induction ks generalizing t with
  | nil => simp
  | cons j ks ih =>
    rw [List.foldl_cons, ih]
    by_cases hk : k ∈ ks ∧ p k = true
    · rw [if_pos hk, if_pos ⟨List.mem_cons_of_mem _ hk.1, hk.2⟩]
    rw [if_neg hk]
    by_cases hj : k = j
    · subst hj
      by_cases hp : p k = true
      · rw [if_pos hp, if_pos ⟨List.mem_cons_self, hp⟩, Table.find_set_same]
      · rw [if_neg hp, if_neg (fun h => hp h.2)]
    · rw [if_neg fun h : k ∈ j :: ks ∧ p k = true => hk ⟨(List.mem_cons.1 h.1).resolve_left hj, h.2⟩]
      split
      · exact Table.find_set_other t (f j) hj
      · rfl

/-- A core with the clocks of its contexts and of its CWAY lines at 0. -/
def Core.clockless (c : Core) : Core := { c with
  ctxs := ctxNumbers.foldl (fun t k => if (c.ctxs.find k).isSome then t.set k (c.ctx k).clockless else t) c.ctxs
  other := c.other.map (fun (e : Nat × Ctx) => (e.1, e.2.clockless))
  cway := c.cway.map (fun (l : CLine) => { l with wts := 0, rts := 0 }) }

theorem State.resetClocks_cores : s.resetClocks.cores = s.cores.map (fun (e : Nat × Core) => (e.1, e.2.clockless)) := rfl

theorem Core.ctx_clockless (c : Core) {k : Nat} (hk : k < 13) : (c.clockless.ctx k).l = 0 ∧ (c.clockless.ctx k).h = 0 := by
  unfold Core.ctx Table.get Core.clockless
  rw [Table.find_foldl_rewrite (fun k => (c.ctxs.find k).isSome) (fun k => (c.ctx k).clockless)]
  cases hx : Table.find c.ctxs k with
  | none => simpa using Ctx.initial_clocks k
  | some x =>
    rw [if_pos ⟨mem_ctxNumbers.2 hk, rfl⟩]
    exact ⟨rfl, rfl⟩

theorem State.ctx_resetClocks (g : Nat) {k : Nat} (hk : k < 13) : (s.resetClocks.ctx g k).l = 0 ∧ (s.resetClocks.ctx g k).h = 0 := by
  unfold State.ctx State.core
  rw [State.resetClocks_cores]
  exact Table.get_map_of (p := fun c : Core => (c.ctx k).l = 0 ∧ (c.ctx k).h = 0) (d := {}) (Ctx.initial_clocks k)
    (fun c => c.ctx_clockless hk) g

end Clocks

theorem Launch.active_iff {l : Launch} : l.active = true ↔ l.state = .running ∨ l.state = .stopping := by
  simp [Launch.active]

theorem exec_clkrst {s : State} (h : ∀ e ∈ s.launches, e.2.state ≠ .running ∧ e.2.state ≠ .stopping) :
    exec .clkrst s = .next s.resetClocks := by
  refine congrArg _ (if_neg fun ha => ?_)
  obtain ⟨e, he, ha⟩ := List.any_eq_true.1 ha
  exact (Launch.active_iff.1 ha).elim (h e he).1 (h e he).2

theorem exec_clkrst_active {s : State} (h : ∃ e ∈ s.launches, e.2.state = .running ∨ e.2.state = .stopping) : exec .clkrst s = .next s := by
  obtain ⟨e, he, ha⟩ := h
  exact congrArg _ (if_pos (List.any_eq_true.2 ⟨e, he, Launch.active_iff.2 ha⟩))

/-! ### Slot tables (R279) -/

section Chan
variable {c : Nat} (h : c < 512) {s : State} {t : SlotTable}
include h

/-- What a change of a channel's table gives depends on it at the table's present value only. -/
theorem exec_slotctlCommit (ht : (s.chan c).commit = t) : exec (.slotctlCommit c) s = .next (s.onChan c fun _ => t) := by
  subst ht
  exact if_neg (Nat.not_le.2 h)

theorem exec_slotTableSwitch (ht : (s.chan c).switch = t) : exec (.slotTableSwitch c) s = .next (s.onChan c fun _ => t) := by
  subst ht
  exact if_neg (Nat.not_le.2 h)

end Chan

section Slots
variable {t : SlotTable}

theorem SlotTable.commit_of_legal (h1 : 1 ≤ writeSlots t.staged) (h8 : writeSlots t.staged ≤ 8) :
    t.commit = { t with next := some t.staged, err := false } :=
  if_neg fun h => h.elim (Nat.not_lt.2 h1) (Nat.not_lt.2 h8)

theorem SlotTable.commit_of_illegal (h : writeSlots t.staged < 1 ∨ 8 < writeSlots t.staged) : t.commit = { t with err := true } := if_pos h

theorem SlotTable.switch_of_committed {x : Table Word} (hx : t.next = some x) (hs : t.slot = 0) :
    t.switch = { t with live := x, next := none } := by
  simp only [SlotTable.switch, hx, hs, if_true]

theorem SlotTable.switch_of_none (h : t.next = none ∨ t.slot ≠ 0) : t.switch = t := by
  unfold SlotTable.switch
  split
  · rename_i x hx
    exact if_neg (h.resolve_left (by rw [hx]; exact nofun))
  · rfl

end Slots

/-! ### Translation answers (R113) -/

section Resolve
variable {s : State} {tag : Nat}

theorem State.xlResolve_of_unreported (h : ∀ f ∈ s.held, f.posted = true → f.tag ≠ tag) (fail : Bool) : s.xlResolve tag fail = s := by
  have hn : s.held.find? (fun f => f.posted && decide (f.tag = tag)) = none :=
    List.find?_eq_none.2 fun f hf hp => by
      obtain ⟨hp, ht⟩ := Bool.and_eq_true_iff.1 hp
      exact h f hf hp (of_decide_eq_true ht)
  simp only [State.xlResolve, hn]

/-- What waits for a page goes on once its fault is resolved. -/
def State.xlResume (s : State) (f : HeldFault) : State :=
  let u := s.releaseNodes f.owner f.page false
  (if f.waiters.any (fun w => decide (w.toNat / 2 ^ 20 = 1)) then u.placeCopies f.owner else u).startSends

theorem State.xlResolve_of_reported {f : HeldFault} (h : s.held.find? (fun f => f.posted && decide (f.tag = tag)) = some f) (fail : Bool) :
    s.xlResolve tag fail = State.xlResume (if fail then f.waiters.foldl (fun t w => t.failFor f w) { s with held := s.held.erase f }
      else { s with held := s.held.erase f }) f := by
  simp only [State.xlResolve, h]
  rfl

end Resolve

theorem hostConfiguration : HostConfiguration := by
  intro s
  refine ⟨fun hidle => ⟨_, exec_clkrst hidle, rfl, rfl, rfl, s.line_resetClocks, s.stream_resetClocks, fun g k => s.ctx_resetClocks g⟩,
    exec_clkrst_active, fun c hc => ⟨fun h1 h8 => ?_, fun hw => ?_, fun x hx hs => ?_, fun hn => ?_⟩,
    fun tag fail => ⟨fun hf => ?_, fun f hf => ?_⟩⟩
  · exact exec_slotctlCommit hc (SlotTable.commit_of_legal h1 h8)
  · exact exec_slotctlCommit hc (SlotTable.commit_of_illegal hw)
  · exact exec_slotTableSwitch hc (SlotTable.switch_of_committed hx hs)
  · exact exec_slotTableSwitch hc (SlotTable.switch_of_none hn)
  · exact congrArg _ (State.xlResolve_of_unreported hf fail)
  · exact ⟨congrArg _ (State.xlResolve_of_reported hf false), congrArg _ (State.xlResolve_of_reported hf true)⟩

/-- Settles O33 (`hostWrites` already names the host's writes of memory): the registers (`registerWrites`), and clocks, slot tables and
translation answers (`hostConfiguration`). That LGRAPH keeps the bits written to its reserved fields is the model's choice (log 42), and
so is that CLKRST resets every clock of the part (log 30). -/
theorem hostRegisterWrites : Obligations.HostWrites := ⟨registerWrites, hostConfiguration⟩

end Sys2Proof.Machine
end

section
/-! Walks, page moves, writes from other packages, and Sirocco. -/
namespace Sys2Proof.Machine

/-! ### Walks (R113, R174) -/

section Walk
variable {s : State} {owner agent kind slot : Nat} {va : BitVec 64}

/-- Whether a walk is one that a party makes for an address of a translated region. -/
def walkable (va : BitVec 64) (agent : Nat) : Prop :=
  regionOf va.toNat = some .translated ∧ agent < 2 ^ 24 ∧ agentOk (BitVec.ofNat 24 agent) = true

theorem walkable_iff : walkable va agent ↔
    ¬ (regionOf va.toNat ≠ some .translated ∨ 2 ^ 24 ≤ agent ∨ (!agentOk (BitVec.ofNat 24 agent)) = true) := by
  simp [walkable]

theorem exec_pageWalk_of_unwalkable (h : ¬ walkable va agent) : exec (.pageWalk owner va agent kind slot) s = .next s := by
  rw [walkable_iff, not_not] at h
  exact if_pos h

variable (h : walkable va agent)
include h

theorem exec_pageWalk_malformed (hw : s.unitWalk owner va.toNat = .malformed) : exec (.pageWalk owner va agent kind slot) s = .next s := by
  refine (if_neg (walkable_iff.1 h)).trans ?_
  rw [hw]

theorem exec_pageWalk_absent (hw : s.unitWalk owner va.toNat = .absent) : exec (.pageWalk owner va agent kind slot) s =
    .next (s.holdFault owner va.toNat (BitVec.ofNat 24 agent) (kind % 4) (slot % 65536)) := by
  refine (if_neg (walkable_iff.1 h)).trans ?_
  rw [hw]

variable {e : Word} {big : Bool} (hw : s.unitWalk owner va.toNat = .page e big)
include hw

theorem exec_pageWalk_cached (ha : agent < 3 * 2 ^ 20) : exec (.pageWalk owner va agent kind slot) s =
    .next (s.translate (agent % 2 ^ 20 / 2 ^ 11) owner va.toNat).2 := by
  have hc : agentCluster agent = some (agent % 2 ^ 20 / 2 ^ 11) := if_pos ha
  refine (if_neg (walkable_iff.1 h)).trans ?_
  rw [hw, hc]

theorem exec_pageWalk_no_cluster (ha : 3 * 2 ^ 20 ≤ agent) : exec (.pageWalk owner va agent kind slot) s = .next s := by
  have hc : agentCluster agent = none := if_neg (Nat.not_lt.2 ha)
  refine (if_neg (walkable_iff.1 h)).trans ?_
  rw [hw, hc]

end Walk

/-! ### Page moves (R172) -/

section Move
variable {s : State} {cl : Nat} (h : cl < 512)
include h

theorem exec_pageMoveComplete_none (hm : s.moves.get [] cl = []) : exec (.pageMoveComplete cl) s = .next s := by
  refine (if_pos (hasCluster_of_lt h)).trans ?_
  rw [hm]

theorem exec_pageMoveComplete {m : PageMove} {r : List PageMove} (hm : s.moves.get [] cl = m :: r) : exec (.pageMoveComplete cl) s =
    .next (State.finishMove { s.settlePage m.page with moves := s.moves.set cl r } m).startSends := by
  refine (if_pos (hasCluster_of_lt h)).trans ?_
  rw [hm]

end Move

/-- A page that still has references lies at the destination once its move ends. -/
theorem State.page_finishMove {s : State} {m : PageMove} (h : (s.page m.page).refcnt ≠ 0) : ((s.finishMove m).page m.page).loc = m.dest := by
  unfold State.finishMove
  dsimp only
  rw [if_neg h]
  exact congrArg PageDesc.loc (Table.get_set_same _ _ _ _)

/-! ### Writes from other packages (R338) -/

section Import
variable {s : State} {die pa src : Nat} {bs : List Byte} {tag : BitVec 64}

/-- Whether a write from another package is one within a line that is homed on the die. -/
def State.importLands (s : State) (die pa : Nat) (bs : List Byte) : Prop :=
  bs ≠ [] ∧ pa % 64 + bs.length ≤ 64 ∧ s.homeCluster (hbmKey pa / 64) / 128 = die

theorem State.importLands_iff : s.importLands die pa bs ↔
    ¬ (bs = [] ∨ 64 < pa % 64 + bs.length ∨ s.homeCluster (hbmKey pa / 64) / 128 ≠ die) := by
  simp only [State.importLands, not_or, Nat.not_lt, not_not, ne_eq]

variable (h : die < 4)
include h

theorem exec_importWrite_elsewhere (hl : ¬ s.importLands die pa bs) : exec (.importWrite die pa bs src tag) s = .next s := by
  rw [State.importLands_iff, not_not] at hl
  exact (if_neg (Nat.not_le.2 h)).trans (if_pos hl)

variable (hl : s.importLands die pa bs)
include hl

theorem exec_importWrite_waits (hs : s.importStore (BitVec.ofNat 16 src) (hbmKey pa / 64) (byteTable (hbmKey pa) bs) = none) :
    exec (.importWrite die pa bs src tag) s = .next (s.askHost (hbmKey pa / 64)) := by
  refine (if_neg (Nat.not_le.2 h)).trans ((if_neg (State.importLands_iff.1 hl)).trans ?_)
  rw [hs]

theorem exec_importWrite_stored {t : State}
    (hs : s.importStore (BitVec.ofNat 16 src) (hbmKey pa / 64) (byteTable (hbmKey pa) bs) = some t) :
    exec (.importWrite die pa bs src tag) s = .next { t with flits := t.flits ++ [ackFlit (BitVec.ofNat 16 src) tag] } := by
  refine (if_neg (Nat.not_le.2 h)).trans ((if_neg (State.importLands_iff.1 hl)).trans ?_)
  rw [hs]

end Import

theorem walksMovesImports : WalksMovesImports := by
  intro s owner va agent kind slot cl die hcl hdie walks mapped
  refine ⟨exec_pageWalk_of_unwalkable, exec_pageWalk_malformed, exec_pageWalk_absent,
    fun hm pte big hw => ⟨exec_pageWalk_cached hm hw, exec_pageWalk_no_cluster hm hw⟩, exec_pageMoveComplete_none hcl,
    fun m r => exec_pageMoveComplete hcl, fun m => State.page_finishMove, fun pa src bs tag => ?_⟩
  exact ⟨exec_importWrite_elsewhere hdie, exec_importWrite_waits hdie, fun hl t => exec_importWrite_stored hdie hl⟩

/-! ### A write to a line that nobody holds (R326, R353) -/

section Free
variable {s : State} {line : Nat}

theorem State.acceptFor_of_no_entry {g : Nat} {q : List WlqEntry} (h : ∀ e ∈ q, e.line ≠ line) : s.acceptFor g line q = s := by
  cases q with
  | nil => rfl
  | cons e r =>
    refine if_neg fun ha => ?_
    obtain ⟨x, hx, he⟩ := List.any_eq_true.1 ha
    exact h x hx (of_decide_eq_true he)

theorem State.acceptLine_of_no_entry (h : ∀ g e, e ∈ (s.core g).wlq → e.line ≠ line) : s.acceptLine none line = s :=
  foldl_eq_self fun gc _ => State.acceptFor_of_no_entry (h gc.1)

variable (hh : (s.line line).held = none)
include hh

theorem State.settle_of_free (h : ∀ g e, e ∈ (s.core g).wlq → e.line ≠ line) : s.settle none line = s := by
  simp only [State.settle, State.settleFor, Bool.false_eq_true, if_false, State.acceptLine_of_no_entry h, hh]

theorem State.engineHolds_of_free (hq : (s.line line).queue = []) : s.engineHolds line = false := by
  simp [State.engineHolds, hh, hq]

end Free

section Meta
variable (s : State) (l n : Nat)

theorem State.evictMeta_keeps : (s.evictMeta l).mem = s.mem ∧ (s.evictMeta l).imports = s.imports
    ∧ ((s.evictMeta l).line n).wts = (s.line n).wts ∧ ((s.evictMeta l).line n).rts = (s.line n).rts := by
  unfold State.evictMeta
  split
  · exact ⟨rfl, rfl, rfl, rfl⟩
  · refine ⟨rfl, rfl, ?_⟩
    by_cases hn : n = l
    · subst hn
      simp [State.line, Table.get_set_same]
    · simp [State.line, Table.get_set_other _ _ _ hn]

theorem State.touchMeta_keeps : (s.touchMeta l).mem = s.mem ∧ (s.touchMeta l).imports = s.imports
    ∧ ((s.touchMeta l).line n).wts = (s.line n).wts ∧ ((s.touchMeta l).line n).rts = (s.line n).rts := by
  unfold State.touchMeta
  dsimp only
  split
  · exact ⟨rfl, rfl, rfl, rfl⟩
  · split
    · exact ⟨rfl, rfl, rfl, rfl⟩
    · split
      · exact State.evictMeta_keeps _ _ n
      · exact ⟨rfl, rfl, rfl, rfl⟩

end Meta

section Write
variable {s : State} {line : Nat} (h : line < 2 ^ 50)
include h

/-- A line of HBM4E belongs to no stream page. -/
theorem State.freedLine_of_hbm : s.freedLine line = false := by
  have hk : line * 64 / space = 0 := Nat.div_eq_of_lt (by unfold space; omega)
  simp [State.freedLine, hk]

theorem State.engineWrite_hbm (owner : Nat) {bs : Table Byte} (hb : bs.length < 64) :
    (s.engineWrite line bs owner false).mem = bs.foldl (fun m b => m.put b.1 b.2) s.mem
      ∧ (s.engineWrite line bs owner false).lines = s.lines ∧ (s.engineWrite line bs owner false).imports = s.imports := by
  have hm : madeUnder line 0 = [] := if_neg fun h => h.2 rfl
  unfold State.engineWrite State.homeWrite
  rw [if_neg (Nat.not_le.2 hb), hm, if_neg (fun h => h.1 rfl), State.freedLine_of_hbm h]
  dsimp only
  rw [if_neg Bool.false_ne_true]
  split <;> exact ⟨rfl, rfl, rfl⟩

end Write

theorem State.place326_write (s : State) {r : Req} {line t : Nat} (hw : r.write = true) (hl : r.line = line)
    (ht : max r.l ((s.line line).rts + 1) = t) : s.place326 r =
      (State.sawClock { s with lines := s.lines.set line { s.line line with wts := t, rts := t, wid := r.agent } } t, t) := by
  subst hl ht
  simp only [State.place326, Req.time, LineHome.timed, hw, if_true]

section Store
variable {s : State} {line time : Nat} (src : BitVec 16) (bs : Table Byte) (hh : (s.line line).held = none)
  (hq : (s.line line).queue = []) (hw : ∀ g e, e ∈ (s.core g).wlq → e.line ≠ line)
  (ht : max (s.imports.get 0 (s.homeCluster line / 128)) ((s.line line).rts + 1) = time) (hc : time < clockLimit)
include hh hq hw ht hc

theorem State.importStore_of_free : ∃ u : State, s.importStore src line bs = some ((u.touchMeta line).engineWrite line bs 0 false)
    ∧ u.mem = s.mem ∧ (u.line line).wts = time ∧ (u.line line).rts = time ∧ u.imports.get 0 (s.homeCluster line / 128) = time := by
  unfold State.importStore
  rw [State.engineHolds_of_free hh hq, State.settle_of_free hh hw]
  dsimp only
  rw [if_neg Bool.false_ne_true, State.place326_write s rfl (Nat.mul_div_cancel line (by decide)) ht]
  dsimp only
  rw [if_neg (Nat.not_le.2 hc)]
  refine ⟨_, rfl, rfl, ?_, ?_, Table.get_set_same _ _ _ _⟩
  · simp [State.line, State.sawClock, Table.get_set_same]
  · simp [State.line, State.sawClock, Table.get_set_same]

end Store

theorem importedStores : ImportedStores := by
  intro s src line b i hi hline hm die time hh hq hw hc
  obtain ⟨u, hs, hmem, hwts, hrts, himp⟩ := State.importStore_of_free src [(line * 64 + i, b)] hh hq hw rfl hc
  obtain ⟨tmem, timp, twts, trts⟩ := u.touchMeta_keeps line line
  obtain ⟨wmem, wlines, wimp⟩ := State.engineWrite_hbm (s := u.touchMeta line) hline 0 (bs := [(line * 64 + i, b)]) (show 1 < 64 by decide)
  refine ⟨_, hs, ?_, ?_, ?_, ?_, fun a ha => ?_⟩
  · rw [State.line, wlines]
    exact twts.trans hwts
  · rw [State.line, wlines]
    exact trts.trans hrts
  · rw [wimp, timp, himp]
  · rw [wmem, tmem, hmem]
    exact Memory.byte_put_same _ _ _ hm
  · rw [wmem, tmem, hmem]
    exact Memory.byte_put_other _ _ ha hm

/-! ### Sirocco (R437-R440) -/

theorem exec_siroccoRecordCopy {s : State} {g : Nat} (h : g < 40960) : exec (.siroccoRecordCopy g) s = .next (s.copyRecord g) := by
  have hg : hasContext g 0 = true := by simp [hasContext, Config.coreCount, Config.contextCount, h]
  exact if_neg (by rw [hg]; decide)

section Copy
variable {s : State} {g : Nat}

theorem State.copyRecord_none (h : ((s.core g).trace.left = [] ∧ (s.core g).trace.todo = []) ∨ (s.siroccoOf (dieOf g)).ring = 0) :
    s.copyRecord g = s := by
  unfold State.copyRecord
  dsimp only
  split
  · rfl
  · rename_i hr
    obtain ⟨hl, ht⟩ := h.resolve_right hr
    rw [hl, ht]

variable (hr : (s.siroccoOf (dieOf g)).ring ≠ 0)
include hr

theorem State.copyRecord_left {owner : Nat} {d : Word × Word} {r : List (Nat × Word × Word)} (hl : (s.core g).trace.left = (owner, d) :: r) :
    s.copyRecord g = (s.onCore g (fun c => { c with trace := { c.trace with left := r } })).frameRecord (dieOf g) owner (g, d) := by
  refine (if_neg hr).trans ?_
  rw [hl]

theorem State.copyRecord_todo {n : Nat} {r : List Nat} (hl : (s.core g).trace.left = []) (ht : (s.core g).trace.todo = n :: r) :
    s.copyRecord g = (s.onCore g (fun c => { c with trace := { c.trace with todo := r } })).frameRecord (dieOf g)
      ((s.core g).trace.owners.get 0 (n % 256)) (g, (s.core g).trace.recs.get (0, 0) (n % 256)) := by
  refine (if_neg hr).trans ?_
  rw [hl, ht]

end Copy

section Frame
variable {s : State} {die : Nat} (h : die < 4)
include h

theorem exec_siroccoFrameClose : exec (.siroccoFrameClose die) s =
    .next (if (s.siroccoOf die).since + 65536 ≤ s.clk then s.closeFrame die else s) := if_neg (Nat.not_le.2 h)

theorem exec_siroccoFrameClose_open (hx : (s.siroccoOf die).recs = [] ∨ s.clk < (s.siroccoOf die).since + 65536) :
    exec (.siroccoFrameClose die) s = .next s := by
  rw [exec_siroccoFrameClose h]
  split
  · rename_i hc
    exact congrArg _ (if_pos (hx.resolve_right (Nat.not_lt.2 hc)))
  · rfl

theorem exec_siroccoFrameClose_due (hc : (s.siroccoOf die).since + 65536 ≤ s.clk) :
    exec (.siroccoFrameClose die) s = .next (s.closeFrame die) := by
  rw [exec_siroccoFrameClose h, if_pos hc]

end Frame

section Close
variable {s : State} {die : Nat} {x : Sirocco} (hx : s.siroccoOf die = x) (hrecs : x.recs ≠ [])
include hx hrecs

theorem State.closeFrame_disabled (hr : x.ring = 0) : s.closeFrame die = s.setSirocco die { x with recs := [] } := by
  subst hx
  exact (if_neg hrecs).trans (if_pos hr)

variable (hr : x.ring ≠ 0)
include hr

theorem State.closeFrame_full (hf : (x.tail + 65536 - x.head) % 65536 = x.frames) :
    s.closeFrame die = s.setSirocco die { x with recs := [], seq := x.seq + 1, drop := x.drop + 1 } := by
  subst hx
  exact (if_neg hrecs).trans ((if_neg hr).trans (if_pos hf))

theorem State.closeFrame_written (hf : (x.tail + 65536 - x.head) % 65536 ≠ x.frames) : s.closeFrame die =
    (s.setSirocco die { x with recs := [], seq := x.seq + 1, tail := (x.tail + 1) % 65536 }).storeRaw x.owner
      (x.ring + 4096 * (x.tail % x.frames)) (frameBytes x.seq x.owner x.recs) := by
  subst hx
  exact (if_neg hrecs).trans ((if_neg hr).trans (if_neg hf))

end Close

/-! ### The link map (R441, R442) -/

section Snapshot
variable {s : State}

theorem exec_linkMapSnapshot_early (h : ¬ s.dev.lmtaken < s.clk / 2 ^ 20) : exec .linkMapSnapshot s = .next s := if_pos (Nat.not_lt.1 h)

variable (h : s.dev.lmtaken < s.clk / 2 ^ 20)
include h

theorem exec_linkMapSnapshot_numbered (hs : ¬ (s.dev.mapBase ≠ 0 ∧ (s.owner s.dev.lmowner).loaded = true)) : exec .linkMapSnapshot s =
    .next { s with dev := { s.dev with lmseq := s.dev.lmseq + 1, lmtaken := s.dev.lmtaken + 1 } } := by
  refine (if_neg (Nat.not_le.2 h)).trans (if_pos ?_)
  rwa [not_and_or, not_not, Bool.not_eq_true, ← Bool.not_eq_true'] at hs

theorem exec_linkMapSnapshot_stored (hs : s.dev.mapBase ≠ 0 ∧ (s.owner s.dev.lmowner).loaded = true) : exec .linkMapSnapshot s =
    .next (State.storeRaw { s with dev := { s.dev with lmseq := s.dev.lmseq + 1, lmtaken := s.dev.lmtaken + 1 }, free := s.free + 12288 }
      s.dev.lmowner (s.dev.mapBase + 0x20000 * (s.dev.lmseq.toNat % 2 ^ s.dev.lmlog))
      ((List.range 512).flatMap (fun cl => mapEntry cl (s.free + 24 * cl)))) := by
  refine (if_neg (Nat.not_le.2 h)).trans (if_neg ?_)
  rw [not_or, Bool.not_eq_true, Bool.not_eq_false']
  exact hs

end Snapshot

theorem traceDrain : TraceDrain := by
  intro s g die hg hdie tr x closes
  have copies {t : State} (h : s.copyRecord g = t) : exec (.siroccoRecordCopy g) s = .next t := h ▸ exec_siroccoRecordCopy hg
  have closed {t : State} (hc : x.since + 65536 ≤ s.clk) (h : s.closeFrame die = t) : closes t := h ▸ exec_siroccoFrameClose_due hdie hc
  refine ⟨fun h => copies (State.copyRecord_none h), fun owner d r hl hr => copies (State.copyRecord_left hr hl),
    fun n r hl ht hr => copies (State.copyRecord_todo hr hl ht), exec_siroccoFrameClose_open hdie, fun hx hc => ?_,
    exec_linkMapSnapshot_early, exec_linkMapSnapshot_numbered, exec_linkMapSnapshot_stored⟩
  exact ⟨fun hr => closed hc (State.closeFrame_disabled rfl hx hr), fun hr hf => closed hc (State.closeFrame_full rfl hx hr hf),
    fun hr hf => closed hc (State.closeFrame_written rfl hx hr hf)⟩

/-- Settles O42: walks, page moves and imports (`walksMovesImports`), the store that an import makes of a line that nobody holds
(`importedStores`), and Sirocco's records, frames and snapshots (`traceDrain`). Beyond the rules, that an import's address is a physical one
and its partition that of owner 0 (log 33), and which units have a cache for their walks (log 14), are the model's choices. -/
theorem walksAndTrace : Obligations.WalksAndTrace := ⟨walksMovesImports, importedStores, traceDrain⟩

end Sys2Proof.Machine
end

section
/-! Barchan's transfers at their destination and at their source, Xanwell's puts and gets, and the links. -/
namespace Sys2Proof.Machine

/-! ### The destination of a transfer (R489) -/

section NoArrival
variable {s : State} {f : Flit}

theorem exec_xanwellOpen_stays (h : f.typ ≠ 5 ∨ s.arrivalOf f ≠ none ∨ s.dev.tripped = true) : exec (.xanwellOpen f) s = .next s := by
  rw [Option.ne_none_iff_isSome] at h
  exact if_pos h

theorem exec_xanwellOpen (hf : f.typ = 5) (ha : s.arrivalOf f = none) (ht : s.dev.tripped = false) :
    exec (.xanwellOpen f) s = .next (s.admitArrival f) := by
  refine if_neg ?_
  rw [ha, ht]
  exact fun h => h.elim (fun h => h hf) (fun h => h.elim nofun nofun)

variable (ha : s.arrivalOf f = none)
include ha

theorem exec_xanwellPage_of_no_arrival : exec (.xanwellPage f) s = .next s := by
  show execXanwellPage f s = _
  rw [execXanwellPage, ha]

theorem exec_xanwellQueue_of_no_arrival : exec (.xanwellQueue f) s = .next s := by
  show execXanwellQueue f s = _
  rw [execXanwellQueue, ha]

theorem exec_xanwellClose_of_no_arrival : exec (.xanwellClose f) s = .next s := by
  show execXanwellClose f s = _
  rw [execXanwellClose, ha]

end NoArrival

section Arrived
variable {s : State} {f : Flit} {a : Arrival} (ha : s.arrivalOf f = some a)
include ha

theorem exec_xanwellPage : exec (.xanwellPage f) s =
    .next (if f.typ = 6 ∧ a.status = 0 ∧ !s.chunkWaits a f then (s.putChunk a f).tryEnd f else s) := by
  show execXanwellPage f s = _
  rw [execXanwellPage, ha]

theorem exec_xanwellPage_stays (h : f.typ ≠ 6 ∨ a.status ≠ 0 ∨ s.chunkWaits a f = true) : exec (.xanwellPage f) s = .next s := by
  rw [exec_xanwellPage ha, if_neg]
  rintro ⟨hf, hs, hw⟩
  exact h.elim (· hf) fun h => h.elim (· hs) fun h => by rw [h] at hw; cases hw

theorem exec_xanwellPage_stored (hf : f.typ = 6) (hs : a.status = 0) (hw : s.chunkWaits a f = false) :
    exec (.xanwellPage f) s = .next ((s.putChunk a f).tryEnd f) := by
  rw [exec_xanwellPage ha, if_pos ⟨hf, hs, by rw [hw]; rfl⟩]

theorem exec_xanwellQueue_stays (h : f.typ ≠ 7 ∨ a.status ≠ 0 ∨ s.dev.tripped = true) : exec (.xanwellQueue f) s = .next s := by
  show execXanwellQueue f s = _
  simp only [execXanwellQueue, ha]
  exact if_pos h

theorem exec_xanwellClose_stays (h : f.typ ≠ 8 ∨ s.dev.tripped = true) : exec (.xanwellClose f) s = .next s := by
  show execXanwellClose f s = _
  simp only [execXanwellClose, ha]
  exact if_pos h

variable (ht : s.dev.tripped = false)
include ht

section Queue
variable (hf : f.typ = 7) (hs : a.status = 0) {t : State}
include hf hs

theorem exec_xanwellQueue {done : Bool}
    (hp : s.putEntries a (f.len / 16) (f.payload.take (16 * (f.len / 16))) f.addr.toNat = (t, done)) :
    exec (.xanwellQueue f) s = .next (if done then (t.onArrival a (fun x => { x with
      entries := max x.entries (f.addr.toNat + f.len / 16), bad := x.bad || f.flags.getLsbD 0 })).tryEnd f else t) := by
  have hn : ¬ (f.typ ≠ 7 ∨ a.status ≠ 0 ∨ s.dev.tripped = true) := by
    rw [ht]
    exact fun h => h.elim (· hf) fun h => h.elim (· hs) nofun
  show execXanwellQueue f s = _
  simp only [execXanwellQueue, ha]
  rw [if_neg hn, hp]
  cases done <;> rfl

end Queue

theorem exec_xanwellClose (hf : f.typ = 8) : exec (.xanwellClose f) s =
    .next (State.tryEnd { s.onArrival a (fun x => { x with closing := some (f.info.toNat % 2 ^ 32, f.info.toNat / 2 ^ 32) }) with
      flits := s.flits ++ (if a.status = 0 then a.missing else []) } f) := by
  have hn : ¬ (f.typ ≠ 8 ∨ s.dev.tripped = true) := by
    rw [ht]
    exact fun h => h.elim (· hf) nofun
  show execXanwellClose f s = _
  simp only [execXanwellClose, ha]
  rw [if_neg hn, field_mod, field_div (by decide)]
  rfl

end Arrived

theorem State.admitArrival_of_unloaded {s : State} {f : Flit} (h : (s.owner (f.info.toNat % 2 ^ 6)).loaded = false) :
    s.admitArrival f = { s with arrivals := s.arrivals ++ [{
      src := f.src, tag := f.tag, owner := f.info.toNat % 2 ^ 6, waiting := decide ((flitDword f 0).toNat % 2 ^ 4 = 4), status := 1 }] } := by
  unfold State.admitArrival
  simp only [field_mod]
  exact if_pos (by rw [h]; rfl)

theorem arrivingTransfers : ArrivingTransfers := by
  intro s f does
  refine ⟨fun ht => ?_, exec_xanwellOpen, fun h => exec_xanwellOpen_stays (h.imp_right .inl), fun ha => ?_,
    State.admitArrival_of_unloaded, fun a ha => ⟨fun h => exec_xanwellPage_stays ha (h.imp_right .inl), exec_xanwellPage_stored ha,
      fun hw => exec_xanwellPage_stays ha (.inr (.inr hw)), fun h => exec_xanwellQueue_stays ha (h.imp_right .inl),
      fun hf hs ht t done hp => ?_, fun h => exec_xanwellClose_stays ha (.inl h), fun hf ht => exec_xanwellClose ha ht hf⟩⟩
  · simp only [List.forall_mem_cons, List.not_mem_nil, false_implies, implies_true, and_true]
    refine ⟨exec_xanwellOpen_stays (.inr (.inr ht)), ?_⟩
    cases ha : s.arrivalOf f with
    | none => exact ⟨exec_xanwellPage_of_no_arrival ha, exec_xanwellQueue_of_no_arrival ha, exec_xanwellClose_of_no_arrival ha⟩
    | some a =>
      have hw : s.chunkWaits a f = true := by rw [State.chunkWaits, ht, Bool.true_or]
      exact ⟨exec_xanwellPage_stays ha (.inr (.inr hw)), exec_xanwellQueue_stays ha (.inr (.inr ht)), exec_xanwellClose_stays ha (.inr ht)⟩
  · simp only [List.forall_mem_cons, List.not_mem_nil, false_implies, implies_true, and_true]
    exact ⟨exec_xanwellPage_of_no_arrival ha, exec_xanwellQueue_of_no_arrival ha, exec_xanwellClose_of_no_arrival ha⟩
  · have h := exec_xanwellQueue ha ht hf hs hp
    exact ⟨fun hd => by rwa [if_neg (by rw [hd]; decide)] at h, fun hd => by rwa [if_pos hd] at h⟩

/-! ### The source of a transfer (R471, R489) -/

/-- The bytes of two dwords. -/
theorem dwordBytes_pair (a b : Word) : dwordBytes [a, b] = bytesOfNat 8 a.toNat ++ bytesOfNat 8 b.toNat := by
  simp [dwordBytes]

section End
variable {s u : State} {t : Transfer} {status : Nat} {h : Word}

theorem State.endTransfer_unrecorded (ha : t.addr = 0) : s.endTransfer t status h = s.endSource t status h := if_pos ha

theorem State.endTransfer_recorded (ha : t.addr ≠ 0) {a : UnitGot} (hu : s.unitStore t.recordOp t.addr.toNat
    (bytesOfNat 8 (if status = 0 then h else 0).toNat ++ bytesOfNat 8 (BitVec.ofNat 64 status).toNat) = (u, a)) :
    s.endTransfer t status h = if a = .pending then u
      else if a = .clock then (u.clockStop t.slot clockLimit).endSource t status h else u.endSource t status h := by
  rw [← dwordBytes_pair] at hu
  refine (if_neg ha).trans ?_
  rw [hu]
  cases a <;> rfl

theorem State.placeDesc_streams (s : State) (agent : BitVec 24) (l n : Nat) : (s.placeDesc agent l n).1.streams = s.streams := by
  unfold State.placeDesc State.placeLines
  dsimp only
  split <;> rfl

/-- What loses ROSHARE keeps its state and its forwarding handle. -/
theorem State.stream_endShare (s : State) (agent : BitVec 24) (l n m : Nat) :
    ((s.endShare agent l n).stream m).fwd = (s.stream m).fwd ∧ ((s.endShare agent l n).stream m).state = (s.stream m).state := by
  refine List.foldlRecOn (motive := fun u : State => (u.stream m).fwd = (s.stream m).fwd ∧ (u.stream m).state = (s.stream m).state) _ _
    ⟨rfl, rfl⟩ fun u hu e _ => ?_
  have hp : (u.placeDesc agent l e.1).1.stream m = u.stream m := by rw [State.stream, State.placeDesc_streams]; rfl
  by_cases hm : m = e.1
  · subst hm
    rw [State.stream_onStream, hp]
    exact hu
  · rw [State.stream_onStream_other _ _ hm, hp]
    exact hu

theorem State.stream_endSource (t : Transfer) (h : Word) : ((s.endSource t 0 h).stream t.stream).fwd = some h
    ∧ ((s.endSource t 0 h).stream t.stream).state = .migratedStub := by
  unfold State.endSource
  dsimp only
  rw [if_pos rfl]
  generalize State.dropTable _ _ = u
  have he := (u.onStream t.stream (fun d => { d with state := .migratedStub, fwd := some h })).stream_endShare
    t.agent (t.p + 1) t.stream t.stream
  rw [State.stream_onStream] at he
  exact he

theorem State.transfers_endSource (t : Transfer) (status : Nat) (h : Word) : ∀ x ∈ (s.endSource t status h).transfers, x.tag ≠ t.tag :=
  fun _ hx => of_decide_eq_true (List.mem_filter.1 hx).2

end End

section Result
variable {s : State} {f : Flit}

theorem exec_xanwellResult_none (h : s.transferOf f.tag.toNat = none) : exec (.xanwellResult f) s = .next s := by
  show execXanwellResult f s = _
  rw [execXanwellResult, h]

theorem exec_xanwellLinkFailure_none {n : Nat} (h : s.transferOf n = none) : exec (.xanwellLinkFailure n) s = .next s := by
  show execXanwellLinkFailure n s = _
  rw [execXanwellLinkFailure, h]

variable {t : Transfer}

theorem exec_xanwellLinkFailure {n : Nat} (h : s.transferOf n = some t) :
    exec (.xanwellLinkFailure n) s = .next (if s.dev.tripped then s else s.endTransfer t 4 0) := by
  show execXanwellLinkFailure n s = _
  rw [execXanwellLinkFailure, h]

variable (h : s.transferOf f.tag.toNat = some t)
include h

theorem exec_xanwellResult : exec (.xanwellResult f) s = .next (if f.typ = 9 ∧ f.src = t.dest ∧ !s.dev.tripped then
    s.endTransfer t (f.info.toNat % 256) (BitVec.ofNat 64 (f.info.toNat / 256)) else s) := by
  show execXanwellResult f s = _
  rw [execXanwellResult, h]
  dsimp only
  rw [field_mod, field_div (by decide)]
  rfl

end Result

theorem departingTransfers : DepartingTransfers := by
  intro s f n results fails ends
  have ended {i : Instr} {t : Transfer} {status : Nat} {h : Word} (hi : exec i s = .next (s.endTransfer t status h)) :
      ends (fun t => exec i s = .next t) t status h := by
    refine ⟨fun ha => hi.trans (congrArg _ (State.endTransfer_unrecorded ha)), fun ha u a hu => ?_⟩
    have hr := hi.trans (congrArg _ (State.endTransfer_recorded ha hu))
    refine ⟨fun hp => ?_, fun hc => ?_, fun hp hc => ?_⟩
    · rwa [if_pos hp] at hr
    · rwa [if_neg (by rw [hc]; exact nofun), if_pos hc] at hr
    · rwa [if_neg hp, if_neg hc] at hr
  refine ⟨fun ht => ⟨?_, ?_⟩, exec_xanwellResult_none, fun t h => ⟨fun hf => ?_, fun hf hd ht => ended ?_⟩, exec_xanwellLinkFailure_none,
    fun t h ht => ended ?_, fun t status h => ⟨?_, State.transfers_endSource t status h⟩⟩
  · cases h : s.transferOf f.tag.toNat with
    | none => exact exec_xanwellResult_none h
    | some t => exact (exec_xanwellResult h).trans (congrArg _ (if_neg fun hc => by rw [ht] at hc; cases hc.2.2))
  · cases h : s.transferOf n with
    | none => exact exec_xanwellLinkFailure_none h
    | some t => exact (exec_xanwellLinkFailure h).trans (congrArg _ (if_pos ht))
  · exact (exec_xanwellResult h).trans (congrArg _ (if_neg fun hc => hf.elim (· hc.1) (· hc.2.1)))
  · exact (exec_xanwellResult h).trans (congrArg _ (if_pos ⟨hf, hd, by rw [ht]; rfl⟩))
  · exact (exec_xanwellLinkFailure h).trans (congrArg _ (if_neg (by rw [ht]; decide)))
  · rintro rfl
    exact State.stream_endSource t h

/-! ### Puts and gets (R490) -/

section Put
variable {s : State} {f : Flit}

theorem exec_xanwellPut_other (h : f.typ ≠ 1) : exec (.xanwellPut f) s = .next s := if_pos h

/-- The bytes that a put writes, by key. -/
theorem maskBytes_line (mask : Word) (bs : List Byte) (line : Nat) : maskBytes mask bs (hbmKey (line * 64)) =
    ((List.range 64).filter (fun i => mask.getLsbD i)).map (fun i => (64 * line + i, bs.getD i 0)) := by
  rw [maskBytes, hbmKey, Nat.mul_comm]

theorem hbmKey_line (line : Nat) : hbmKey (line * 64) / 64 = line := Nat.mul_div_cancel line (by decide)

variable {line : Nat} {bytes : Table Byte} (h : f.typ = 1) (hl : f.addr.toNat / 64 = line)
  (hb : ((List.range 64).filter (fun i => f.info.getLsbD i)).map (fun i => (64 * line + i, f.payload.getD i 0)) = bytes)
include h hl hb

theorem exec_xanwellPut_waits (hs : s.importStore f.src line bytes = none) : exec (.xanwellPut f) s = .next (s.askHost line) := by
  refine (if_neg (not_not.2 h)).trans ?_
  rw [hl, maskBytes_line, hbmKey_line, hb, hs]

theorem exec_xanwellPut_stored {t : State} (hs : s.importStore f.src line bytes = some t) : exec (.xanwellPut f) s =
    .next { (if f.flags.getLsbD 0 ∧ !t.poison.contains line then { t with poison := line :: t.poison } else t) with
      flits := t.flits ++ [ackFlit f.src f.tag] } := by
  refine (if_neg (not_not.2 h)).trans ?_
  rw [hl, maskBytes_line, hbmKey_line, hb, hs]
  dsimp only
  split <;> rfl

end Put

section Get
variable {s : State} {f : Flit}

theorem exec_xanwellGet (h : f.typ = 2) : exec (.xanwellGet f) s = .next { s with flits := s.flits ++ [s.getAnswer f] } :=
  congrArg _ (if_pos h)

theorem exec_xanwellGet_other (h : f.typ ≠ 2) : exec (.xanwellGet f) s = .next s := congrArg _ (if_neg h)

theorem exec_xanwellUndefinedFlit {port : Nat} (h : port < 6) : exec (.xanwellUndefinedFlit port f) s =
    .next (if 1 ≤ f.typ ∧ f.typ ≤ 9 then s else s.countLife (33 + 2 * port) 1) := if_neg (Nat.not_le.2 h)

end Get

/-! ### Links (R99, R518) -/

theorem trains_iff {port width rate : Nat} : trains port width rate = true ↔ 0 < width ∧ (port ≠ 6 ∨
    ((width = 16 ∨ width = 8 ∨ width = 4) ∧ (rate = 128 ∨ rate = 64 ∨ rate = 32))) := by
  have hr : ((rate % 1024 = 128 ∨ rate % 1024 = 64 ∨ rate % 1024 = 32) ∧ rate < 1024) ↔ (rate = 128 ∨ rate = 64 ∨ rate = 32) := by omega
  simp [trains, smallFlits, and_assoc, ← hr]

theorem exec_linkTraining {port : Nat} (h : port < 11) (width rate : Nat) (s : State) {u : State}
    (hu : (if (s.dev.ports.find port).isSome then s.countLife (32 + 2 * port) 1 else s) = u) : exec (.linkTraining port width rate) s =
    .next { u with dev := { u.dev with ports := u.dev.ports.set port (if trains port width rate then (width, rate) else (0, 0)) } } := by
  subst hu
  exact if_neg (Nat.not_le.2 h)

theorem linkEvents : LinkEvents := by
  intro s f line bytes puts
  refine ⟨exec_xanwellPut_other, fun h => exec_xanwellPut_waits h rfl rfl, fun h t hs => ?_, exec_xanwellGet, exec_xanwellGet_other, rfl, rfl,
    fun port hp => ⟨fun h => ?_, fun h1 h9 => ?_⟩, fun port width rate hp => ⟨fun h => ?_, fun h => ?_⟩⟩
  · have hput := exec_xanwellPut_stored h rfl rfl hs
    refine ⟨fun hn => ?_, fun hf hc => ?_⟩
    · rw [if_neg] at hput
      · exact hput
      · rintro ⟨hf, hc⟩
        exact hn.elim (fun h => by rw [h] at hf; cases hf) (fun h => by rw [h] at hc; cases hc)
    · rw [if_pos ⟨hf, by rw [hc]; rfl⟩] at hput
      exact hput
  · exact (exec_xanwellUndefinedFlit hp).trans (congrArg _ (if_neg (by omega)))
  · exact (exec_xanwellUndefinedFlit hp).trans (congrArg _ (if_pos ⟨h1, h9⟩))
  · have ht := exec_linkTraining hp width rate s rfl
    rw [if_pos (trains_iff.2 h)] at ht
    exact ht
  · have ht := exec_linkTraining hp width rate s rfl
    rw [if_neg (mt trains_iff.1 h)] at ht
    exact ht

/-- Settles O48: transfers at their destination (`arrivingTransfers`) and at their source (`departingTransfers`), and puts, gets and links
(`linkEvents`). Beyond the rules, a flit's TAG, a queue flit's ADDR and the order of the completion record (log 23), and the physical address
and single time of a put (log 33), are the model's readings. -/
theorem linksAndTransfers : Obligations.LinksAndTransfers := ⟨arrivingTransfers, departingTransfers, linkEvents⟩

end Sys2Proof.Machine
end

section
/-! Node instructions (row 7): NWAIT, NDONE and TASK. -/
namespace Sys2Proof.Machine

section Node
variable {s sa u : State} {x : RFields} {a : Word}

/-! ### NWAIT (R132) -/

/-- The checks of NWAIT on a control context that holds no ticket. -/
theorem nwaitChecks_run {m : Ctx → M Unit} {aval : Word} {r : Except Stop (Unit × State)} (hk : s.cur.2 = 0) (ht : sa.mine.ticket = none)
    (h : (m sa.mine).run sa = r) : (do
      trapIf (decide (s.cur.2 ≠ 0)) 0x0E2 aval
      let c ← myCtx
      trapIf c.ticket.isSome 0x0E3 aval
      m c : M Unit).run sa = r :=
  bind_run_of (trapIf_run_false (decide_eq_false (not_not.2 hk)) ..) <| bind_run_of (myCtx_run sa) <|
    bind_run_of (trapIf_run_false (by rw [ht]; rfl) ..) h

theorem exec_nwait_arrived {n : Delivery} (hi : Issues (.nwait x) s) (hk : s.cur.2 = 0) (ht : s.mine.ticket = none)
    (hn : s.mine.arrived = some n) (ha : (s.begun (.nwait x)).pull x.a = (a, sa))
    (hu : ((sa.takeNode s.cur.1 n.ticket).give x.d n.record).give (x.d + 1) n.word = u) (hc : u.cur = s.cur)
    (hl : max u.mine.h n.p + 1 < clockLimit) : exec (.nwait x) s =
      .next (((u.acquires n.p).onMine (fun c => { c with ticket := some n.ticket, arrived := none })).completed (.nwait x)) := by
  have hr := (Reads.begun s (.nwait x)).of_pull ha
  refine issue_ok hi (bind_run_of (src_run_of ha) <| bind_run_of (me_run_of hr.cur) <|
    nwaitChecks_run hk ((hr.congr_mine Ctx.ticket).trans ht) ?_) hc
  rw [(hr.congr_mine Ctx.arrived).trans hn]
  refine bind_run_of (modify_run ..) <| bind_run_of (dst_run ..) <| bind_run_of (dst_run ..) ?_
  rw [hu]
  exact bind_run_of (acquire_run hl) <| onMyCtx_run ..

theorem exec_nwait_timeout {w : NodeWait} {t : Nat} (hi : Issues (.nwait x) s) (hk : s.cur.2 = 0) (ht : s.mine.ticket = none)
    (hn : s.mine.arrived = none) (hw : s.mine.nwait = some w) (hlim : w.limit = some t) (hclk : t ≤ s.clk)
    (ha : (s.begun (.nwait x)).pull x.a = (a, sa)) :
    exec (.nwait x) s = .next (((sa.give x.d 0).give (x.d + 1) 0).completed (.nwait x)) := by
  have hr := (Reads.begun s (.nwait x)).of_pull ha
  refine issue_ok hi (bind_run_of (src_run_of ha) <| bind_run_of (me_run_of hr.cur) <|
    nwaitChecks_run hk ((hr.congr_mine Ctx.ticket).trans ht) ?_) ?_
  · rw [(hr.congr_mine Ctx.arrived).trans hn]
    refine bind_run_of (get_run sa) ?_
    simp only [(hr.congr_mine Ctx.nwait).trans hw, Option.getD_some, hlim]
    exact ite_run_pos (by rwa [hr.congr State.clk]) <| bind_run_of (dst_run ..) <| dst_run ..
  · rw [State.give_cur, State.give_cur, hr.cur]

/-! ### NDONE (R134) -/

theorem exec_ndone {t : Ticket} (hi : Issues (.ndone x) s) (hk : s.cur.2 = 0) (ht : s.mine.ticket = some t)
    (ha : (s.begun (.ndone x)).pull x.a = (a, sa)) (hdie : field a 32 2 = t.die) (hnum : field a 16 13 = t.num) (hlive : s.mine.hlive = 0)
    (hl : s.mine.l + 1 < clockLimit)
    (hu : ((sa.onMine (fun c => { c with l := c.l + 1 })).onMine (fun c => { c with ticket := none })).rankDone s.cur.1 t s.mine.l = u)
    (hc : u.cur = s.cur) : exec (.ndone x) s = .next (u.completed (.ndone x)) := by
  have hr := (Reads.begun s (.ndone x)).of_pull ha
  have hl' : sa.mine.l = s.mine.l := hr.congr_mine Ctx.l
  refine issue_ok hi (bind_run_of (src_run_of ha) <| bind_run_of (me_run_of hr.cur) <|
    bind_run_of (trapIf_run_false (decide_eq_false (not_not.2 hk)) ..) <| bind_run_of (myCtx_run sa) ?_) hc
  simp only [(hr.congr_mine Ctx.ticket).trans ht, (hr.congr_mine Ctx.hlive).trans hlive, hdie, hnum]
  refine bind_run_of (trapIf_run_false (by simp) ..) <| bind_run_of (trapIf_run_false (by simp) ..) <|
    bind_run_of (release_run (by rwa [hl'])) <| bind_run_of (onMyCtx_run ..) ?_
  rw [← hu, hl']
  exact modify_run ..

end Node

/-! ### TASK (R135) -/

section Task
variable {s sa sb t u : State} {x : RFields} {a b : Word} {ws : List Word}

/-- The launch slot of the issuing context. -/
abbrev State.mySlot (u : State) : Nat := ((u.ctx u.cur.1 u.cur.2).launch.map (·.1)).getD 0

/-- The record of a task's dwords, for the launch of the issuing context. -/
abbrev State.taskRecord (u : State) (ws : List Word) : NodeRec := {
  w0 := ws.getD 0 0, w1 := ws.getD 1 0, k := resolveDwords (u.launch u.mySlot).vals (ws.getD 0 0) (ws.drop 2), succ := [], succOk := true }

/-- The checks of a task's offset of local memory. -/
theorem taskOffset_run {m : Unit → M Unit} {r : Except Stop (Unit × State)} (hb : b = 0 ∨ b.toNat < 65536 ∧ b.toNat % 32 = 0)
    (h : (m ()).run s = r) : (if b = 0 then m () else do
      trapIf (decide (2 ^ 19 ≤ b.toNat)) 0x042 b
      trapIf (decide (winOf b ≠ 0)) 0x043 b
      let y ← trapIf (decide (b.toNat % 32 ≠ 0)) 0x045 b
      m y).run s = r := by
  obtain hb | ⟨hlt, hmod⟩ := hb
  · exact ite_run_pos hb h
  · by_cases h0 : b = 0
    · exact ite_run_pos h0 h
    · have hw : winOf b = 0 := by unfold winOf; omega
      exact ite_run_neg h0 <| bind_run_of (trapIf_run_false (decide_eq_false (by omega)) ..) <|
        bind_run_of (trapIf_run_false (by simp [hw]) ..) <| bind_run_of (trapIf_run_false (by simp [hmod]) ..) h

section Issue
variable (hi : Issues (.task x) s) (ha : (s.begun (.task x)).pull x.a = (a, sa)) (hb : sa.pull x.b = (b, sb))
  (hal : a.toNat % 64 = 0) (hoff : b = 0 ∨ b.toNat < 65536 ∧ b.toNat % 32 = 0)
  (hws : Does (loadDwords a (envOf s s.cur.1 s.cur.2 (.task x)) 8) sb ws u)
include hi ha hb hal hoff hws

/-- What comes before a task is accepted or refused: its operands, their checks, and its record. -/
theorem issue_task {m : Env → Word → Word → List Word → M Unit}
    (h : (m (envOf s s.cur.1 s.cur.2 (.task x)) a b ws).run u = .ok ((), t)) (ht : t.cur = s.cur) :
    issue (.task x) (fun v => do
      let a ← src x.a
      let b ← src x.b
      trapIf (decide (a.toNat % 64 ≠ 0)) 0x061 a
      if b = 0 then pure ()
      else do
        trapIf (decide (2 ^ 19 ≤ b.toNat)) 0x042 b
        trapIf (decide (winOf b ≠ 0)) 0x043 b
        trapIf (decide (b.toNat % 32 ≠ 0)) 0x045 b
      let ws ← loadDwords a v 8
      m v a b ws) s = .next (t.completed (.task x)) :=
  issue_ok hi (bind_run_of (src_run_of ha) <| bind_run_of (src_run_of hb) <| bind_run_of (trapIf_run_false (by simp [hal]) ..) <|
    taskOffset_run hoff <| bind_run_of hws h) ht

variable (hu : u.cur = s.cur)
include hu

theorem exec_task_bad {code : Nat} (hc : u.checkNode (u.taskRecord ws) false true 0 = some code) :
    exec (.task x) s = .next ((u.give x.d (BitVec.ofInt 64 (-(0x10 + code)))).completed (.task x)) := by
  refine issue_task hi ha hb hal hoff hws (bind_run_of (get_run u) ?_) ((State.give_cur ..).trans hu)
  dsimp only
  rw [hc]
  exact dst_run ..

variable (hc : u.checkNode (u.taskRecord ws) false true 0 = none)
include hc

theorem exec_task_stopped (hr : (u.launch u.mySlot).state ≠ .running) :
    exec (.task x) s = .next ((u.give x.d (-2)).completed (.task x)) := by
  refine issue_task hi ha hb hal hoff hws (bind_run_of (get_run u) ?_) ((State.give_cur ..).trans hu)
  dsimp only
  rw [hc]
  exact ite_run_pos hr <| dst_run ..

variable (hr : (u.launch u.mySlot).state = .running)
include hr

theorem exec_task_full (hf : (u.caravan (u.poolOf u.mySlot (u.taskRecord ws) none)).full = true) :
    exec (.task x) s = .next ((u.give x.d (-1)).completed (.task x)) := by
  refine issue_task hi ha hb hal hoff hws (bind_run_of (get_run u) ?_) ((State.give_cur ..).trans hu)
  dsimp only
  rw [hc]
  exact ite_run_neg (not_not.2 hr) <| ite_run_pos hf <| dst_run ..

theorem exec_task_accepted {w : State} (hf : (u.caravan (u.poolOf u.mySlot (u.taskRecord ws) none)).full = false)
    (hl : u.mine.l + 1 < clockLimit)
    (hw : (u.onMine (fun c => { c with l := c.l + 1 })).enqueueTask u.mySlot a (u.taskRecord ws) u.mine.l s.cur.1 b.toNat = w)
    (hcur : w.cur = s.cur) : exec (.task x) s = .next ((w.give x.d 0).completed (.task x)) := by
  refine issue_task hi ha hb hal hoff hws (bind_run_of (get_run u) ?_) ((State.give_cur ..).trans hcur)
  dsimp only
  rw [hc]
  refine ite_run_neg (not_not.2 hr) <| ite_run_neg (by rw [hf]; decide) <| bind_run_of (release_run hl) <| bind_run_of (modify_run ..) ?_
  rw [← hu] at hw
  exact hw ▸ dst_run ..

end Issue
end Task

/-- Settles O17: NWAIT with a node (`exec_nwait_arrived`) and past its timeout (`exec_nwait_timeout`), NDONE (`exec_ndone`), and the answers of
TASK (`issue_task` is what comes before them). Beyond the rules, that TASK's -2 comes before its -1 (log 38), and that its check covers the
reserved fields and NPRED with GRAPH.RSVD (log 51), are the model's choices. -/
theorem nodeInstructions : Obligations.NodeInstructions := by
  intro s x g a
  refine ⟨fun hi hk ht => ⟨fun n hn hu hl => ?_, fun w t hn hw hlim hclk => ?_⟩, fun hi hk t ht hdie hnum hlive hl hu => ?_,
    fun hi ws u hu hal hoff hws => ⟨fun code hc => ?_, fun hc => ⟨fun hr => ?_, fun hr hf => ?_, fun hr hf hl hw => ?_⟩⟩⟩
  · exact exec_nwait_arrived hi hk ht hn rfl rfl hu hl
  · exact exec_nwait_timeout hi hk ht hn hw hlim hclk rfl
  · exact exec_ndone hi hk ht rfl hdie hnum hlive hl rfl hu
  · exact exec_task_bad hi rfl rfl hal hoff hws hu hc
  · exact exec_task_stopped hi rfl rfl hal hoff hws hu hc hr
  · exact exec_task_full hi rfl rfl hal hoff hws hu hc hr hf
  · exact exec_task_accepted hi rfl rfl hal hoff hws hu hc hr hf hl rfl hw

end Sys2Proof.Machine
end

section
/-! What contexts do outside their instructions: timeouts, deadlocks of queue pairs, cache fills, and asynchronous traps. -/
namespace Sys2Proof.Machine

/-! ### Contexts of the part (R18) -/

theorem hasContext_of_lt {g k : Nat} (hg : g < 40960) (hk : k < 13) : hasContext g k = true :=
  Bool.and_eq_true_iff.2 ⟨decide_eq_true hg, decide_eq_true hk⟩

theorem not_noContext {g k : Nat} (hg : g < 40960) (hk : k < 13) : ¬(!hasContext g k) = true := by simp [hasContext_of_lt hg hk]

theorem Ctx.down_iff {c : Ctx} : (!c.resident || !c.live) = true ↔ ¬(c.live = true ∧ c.resident = true) := by
  rw [not_and_or, or_comm]
  simp

/-! ### Blocks that the fetch unit fetches early (R182) -/

/-- A context has requested a block that its fetch buffer does not hold. -/
def Ctx.wants (c : Ctx) (bq : List Word) (va : Word) : Prop :=
  (c.live = true ∧ c.resident = true) ∧ (∀ b ∈ c.fbuf, b.va ≠ va) ∧ c.requested bq va = true

theorem Ctx.wants_iff {c : Ctx} {bq : List Word} {va : Word} :
    c.wants bq va ↔ (!c.live || !c.resident || c.fbuf.any (fun b => b.va = va) || !c.requested bq va) = false := by
  simp [Ctx.wants, and_assoc]

theorem Ctx.requested_iff {c : Ctx} {bq : List Word} {va : Word} : c.requested bq va = true ↔ ∃ b ∈ c.fbuf,
    (b.issued = true ∧ b.va + 64 = va) ∨ ∃ p ∈ b.instrs 16 0, earlyBlock bq p = some va := by
  simp [Ctx.requested]

section Events
variable {s : State} {g : Nat} (hg : g < 40960)
include hg

/-! ### Timeouts (R132, R156) -/

theorem exec_nwaitTimeout_none (hw : (s.ctx g 0).nwait = none) : exec (.nwaitTimeout g) s = .next s := by
  refine (if_neg (not_noContext hg (by decide))).trans ?_
  simp only [hw]

theorem exec_nwaitTimeout_unlimited {w : NodeWait} (hw : (s.ctx g 0).nwait = some w) (hl : w.limit = none) :
    exec (.nwaitTimeout g) s = .next s := by
  refine (if_neg (not_noContext hg (by decide))).trans ?_
  simp only [hw, hl]

theorem exec_nwaitTimeout_limit {w : NodeWait} {t : Nat} (hw : (s.ctx g 0).nwait = some w) (hl : w.limit = some t) :
    exec (.nwaitTimeout g) s = if t ≤ s.clk ∧ (s.ctx g 0).arrived = none ∧ (s.ctx g 0).live = true ∧ (s.ctx g 0).resident = true
      ∧ (s.ctx g 0).waitFrom.isSome = true then .next (s.nwaitExpire g w) else .next s := by
  refine (if_neg (not_noContext hg (by decide))).trans ?_
  simp only [hw, hl]

variable {k : Nat} (hk : k < 13)

theorem exec_queueDeadlock_none {q : Nat} (hq : q < 6) (hp : (s.core g).blockedPair q = none) : exec (.queueDeadlock g q) s = .next s := by
  refine (if_neg (by simp [hasContext_of_lt hg, hq])).trans ?_
  rw [hp]

theorem exec_queueDeadlock_pair {q i j t : Nat} {u v : BitVec 6} (hq : q < 6) (hp : (s.core g).blockedPair q = some ((i, u), (j, v), t)) :
    exec (.queueDeadlock g q) s = .next (if t + 4096 ≤ s.clk then s.deadlockPair g i j u v else s) := by
  refine (if_neg (by simp [hasContext_of_lt hg, hq])).trans ?_
  rw [hp]

include hk

theorem exec_yieldExpire_none (hy : (s.ctx g k).yieldEnd = none) : exec (.yieldExpire g k) s = .next s := by
  refine (if_neg (not_noContext hg hk)).trans ?_
  rw [hy]

theorem exec_yieldExpire_some {t : Nat} (hy : (s.ctx g k).yieldEnd = some t) : exec (.yieldExpire g k) s =
    .next (if t ≤ s.clk then s.onCtx g k (fun c => { c with yieldEnd := none }) else s) := by
  refine (if_neg (not_noContext hg hk)).trans ?_
  rw [hy]

/-! ### The register cache and the fetch buffer (R144, R145, R182, R407) -/

section Refill
variable {line : Nat} (hl : line < 512)
include hl

theorem exec_regcacheRefill_down (h : ¬((s.ctx g k).live = true ∧ (s.ctx g k).resident = true)) :
    exec (.regcacheRefill g k line) s = .next s :=
  (if_neg (by simp [hasContext_of_lt hg hk, hl])).trans (if_pos (Ctx.down_iff.2 h))

theorem exec_regcacheRefill_up (h : (s.ctx g k).live = true ∧ (s.ctx g k).resident = true) : exec (.regcacheRefill g k line) s =
    if (s.ctx g k).poisoned = true ∧ ((s.core g).cacheKey k, line) ∉ (s.core g).rcache then .next (s.imageTrap g k)
    else .next (s.onCore g (fun x => x.cacheLine (x.cacheKey k, line))) := by
  refine (if_neg (by simp [hasContext_of_lt hg hk, hl])).trans ?_
  simp [h.1, h.2]

end Refill

section Fill
variable {va : Word}

theorem exec_fetchBlockFill_unwanted (h : ¬(s.ctx g k).wants (s.bqOf g k) (blockOf va)) : exec (.fetchBlockFill g k va) s = .next s :=
  (if_neg (not_noContext hg hk)).trans (if_pos (Bool.not_eq_false _ ▸ mt Ctx.wants_iff.2 h))

variable (h : (s.ctx g k).wants (s.bqOf g k) (blockOf va))
include h

theorem exec_fetchBlockFill_bytes {bs : List Byte} {t : State} (hf : s.fetchBlock g k (blockOf va) = .bytes bs t) :
    exec (.fetchBlockFill g k va) s
      = .next (t.onCtx g k (fun x => { x with fbuf := (s.ctx g k).fbuf.take 3 ++ [{ va := blockOf va, bytes := bs }] })) := by
  refine (if_neg (not_noContext hg hk)).trans ((if_neg (by rw [Ctx.wants_iff.1 h]; decide)).trans ?_)
  simp only [hf]

theorem exec_fetchBlockFill_unread (hf : ∀ bs t, s.fetchBlock g k (blockOf va) ≠ .bytes bs t) :
    exec (.fetchBlockFill g k va) s = .next s := by
  refine (if_neg (not_noContext hg hk)).trans ((if_neg (by rw [Ctx.wants_iff.1 h]; decide)).trans ?_)
  cases hb : s.fetchBlock g k (blockOf va) with
  | bytes bs t => exact absurd hb (hf bs t)
  | fault => rfl
  | absent => rfl
  | held => rfl

end Fill

/-! ### Asynchronous traps (R410, R411) -/

theorem exec_asyncTrapDelivery : exec (.asyncTrapDelivery g k) s =
    if (s.ctx g k).live = true ∧ (s.ctx g k).resident = true then .next ((s.deliverAsync g k).getD s) else .next s := by
  refine (if_neg (not_noContext hg hk)).trans ?_
  simp only [Bool.and_eq_true]

end Events

theorem State.deliverAsync_of_none {s : State} {g k : Nat} (h : (s.ctx g k).pend = []) : s.deliverAsync g k = none := by
  unfold State.deliverAsync
  simp only [h]

/-- The oldest pending trap is delivered, unless a handler or an instruction runs. -/
theorem State.deliverAsync_of_pend {s : State} {g k : Nat} {p : Pend} {r : List Pend} (h : (s.ctx g k).pend = p :: r) : s.deliverAsync g k =
    if (s.ctx g k).intrap = false ∧ (s.ctx g k).mid = false then
      some (((s.unpop g k).onCtx g k (fun c => { c with pend := r })).takeTrap g k p.cause true p.more (s.ctx g k).pc p.tval 0 [])
    else none := by
  unfold State.deliverAsync
  cases hi : (s.ctx g k).intrap <;> cases hm : (s.ctx g k).mid <;> simp [h, hi, hm]

/-! ### The statements -/

theorem contextTimeouts : ContextTimeouts := by
  intro s g k q hg hk hq c waits
  refine ⟨fun w t ⟨hw, hl, ha, hlive, hres, hwait⟩ ht => ?_, fun h => ?_, fun t hy ht => ?_, fun h => ?_, ?_, exec_queueDeadlock_none hg hq⟩
  · exact (exec_nwaitTimeout_limit hg hw hl).trans (if_pos ⟨ht, ha, hlive, hres, hwait⟩)
  · cases hw : c.nwait with
    | none => exact exec_nwaitTimeout_none hg hw
    | some w =>
      cases hl : w.limit with
      | none => exact exec_nwaitTimeout_unlimited hg hw hl
      | some t =>
        refine (exec_nwaitTimeout_limit hg hw hl).trans (if_neg fun ⟨ht, hu⟩ => ?_)
        exact absurd ht (Nat.not_le.2 (h w t ⟨hw, hl, hu⟩))
  · exact (exec_yieldExpire_some hg hk hy).trans (congrArg _ (if_pos ht))
  · cases hy : (s.ctx g k).yieldEnd with
    | none => exact exec_yieldExpire_none hg hk hy
    | some t => exact (exec_yieldExpire_some hg hk hy).trans (congrArg _ (if_neg (Nat.not_le.2 (h t hy))))
  · intro i j t u v hp s1 d
    have hpair := exec_queueDeadlock_pair hg hq hp
    have hboth (ht : t + 4096 ≤ s.clk) : exec (.queueDeadlock g q) s = .next (s.deadlockPair g i j u v) :=
      hpair.trans (congrArg _ (if_pos ht))
    refine ⟨fun ht => hpair.trans (congrArg _ (if_neg (Nat.not_le.2 ht))), fun ht hr => (hboth ht).trans (congrArg _ (if_pos ?_)),
      fun ht hl hr => (hboth ht).trans (congrArg _ (if_neg ?_))⟩
    · obtain hl | hr := hr
      · exact Bool.or_eq_true_iff.2 (.inl hl)
      · exact Bool.or_eq_true_iff.2 (.inr (by rw [hr]; rfl))
    · rw [hl, hr]
      decide

theorem cachesOfContexts : CachesOfContexts := by
  intro s g k line va hg hk hline c up refills fills wanted there tval
  refine ⟨fun h => ⟨exec_regcacheRefill_down hg hk hline h, exec_fetchBlockFill_unwanted hg hk fun hw => h hw.1⟩, fun hup h => ?_,
    fun hup hp ht => ?_, fun va => Ctx.requested_iff, fun x e => ⟨rfl, ?_⟩, fun _ h => ?_, fun hup hw => ⟨fun bs t hf => ?_,
    fun cause tval hf => ?_, fun hf => ?_⟩⟩
  · refine (exec_regcacheRefill_up hg hk hline hup).trans (if_neg fun ⟨hp, ht⟩ => ?_)
    exact h.elim (fun hn => by rw [hn] at hp; cases hp) ht
  · exact (exec_regcacheRefill_up hg hk hline hup).trans (if_pos ⟨hp, ht⟩)
  · exact Nat.succ_le_succ (List.length_take_le ..)
  · exact exec_fetchBlockFill_unwanted hg hk fun hw => h hw.2
  · exact exec_fetchBlockFill_bytes hg hk ⟨hup, hw⟩ hf
  · exact exec_fetchBlockFill_unread hg hk ⟨hup, hw⟩ fun bs t hb => by rw [hf] at hb; cases hb
  · exact exec_fetchBlockFill_unread hg hk ⟨hup, hw⟩ fun bs t hb => by rw [hf] at hb; cases hb

theorem asynchronousTraps : AsynchronousTraps := by
  intro s g k hg hk c takes
  refine ⟨fun h => ?_, fun ⟨hl, hr, hi, hm⟩ p r hp => ?_⟩
  · refine (exec_asyncTrapDelivery hg hk).trans ?_
    split
    · rename_i hup
      cases hp : c.pend with
      | nil => rw [State.deliverAsync_of_none hp]; rfl
      | cons p r =>
        have ht : ¬takes := h.resolve_right (by simp [hp])
        rw [State.deliverAsync_of_pend hp, if_neg fun hb => ht ⟨hup.1, hup.2, hb⟩]
        rfl
    · rfl
  · rw [exec_asyncTrapDelivery hg hk, if_pos ⟨hl, hr⟩, State.deliverAsync_of_pend hp, if_pos ⟨hi, hm⟩]
    rfl

/-- Settles O39: timeouts and deadlocks (`contextTimeouts`), the register cache and the fetch buffer (`cachesOfContexts`), and asynchronous
traps (`asynchronousTraps`). Beyond the rules, the order of the two traps of a deadlock, of which the second may only be counted (log 51; R150
puts both in the same clk), and popped values going back as a trap is delivered (log 43), are the model's choices. -/
theorem contextEvents : Obligations.ContextEvents := ⟨contextTimeouts, cachesOfContexts, asynchronousTraps⟩

end Sys2Proof.Machine
end

section
/-! Wadi's events: join groups resolve, join nodes are served, and returns are ranked. -/
namespace Sys2Proof.Machine

/-! ### Join groups (R482, R486) -/

theorem State.group_onGroup (s : State) (die n : Nat) (f : JoinGroup → JoinGroup) : (s.onGroup die n f).group die n = f (s.group die n) :=
  Table.get_set_same ..

theorem JoinGroup.complete_iff {g : JoinGroup} : g.complete = true ↔ joinN g.cfg ≤ g.rets.length := decide_eq_true_iff

theorem exec_wadiResolve {die n : Nat} (hd : die < 4) (hn : n < 1024) (s : State) : exec (.wadiResolve die n) s =
    if (s.group die n).state = .opened ∧ ((s.group die n).complete = true ∨ (s.group die n).now = true) then .next (s.resolve die n none).1
    else .next s := if_neg (by omega)

/-! ### Join nodes (R130, R486) -/

/-- A join node waits in its open group, which it resolves with NOW. -/
def State.joinGroup (s : State) (die : Nat) (i : Inst) : State :=
  let n := field (i.entry.record.kd 0) 0 10
  let now := (i.entry.record.kd 1).getLsbD 62
  let t := s.onGroup die n (fun g => { g with nodes := g.nodes ++ [i.ticket], p := max g.p i.entry.p, now := g.now || now })
  if now then (t.resolve die n none).1 else t

section Serve
variable {s : State} {die : Nat} {i : Inst}

theorem exec_joinNode_none (hd : die < 4) (h : s.nextJoin die = none) : exec (.joinNode die) s = .next s := by
  refine (if_neg (Nat.not_le.2 hd)).trans ?_
  rw [h]

theorem exec_joinNode_some (hd : die < 4) (h : s.nextJoin die = some i) : exec (.joinNode die) s = .next (s.serveJoin die i) := by
  refine (if_neg (Nat.not_le.2 hd)).trans ?_
  rw [h]

theorem State.serveJoin_opens (hc : (i.entry.record.kd 1).getLsbD 63 = true)
    (hg : (s.group die (field (i.entry.record.kd 0) 0 10)).state ≠ .opened) : s.serveJoin die i =
      (s.openGroup die (field (i.entry.record.kd 0) 0 10) (BitVec.ofNat 64 (field (i.entry.record.kd 1) 0 32)) (i.entry.record.kd 2)
        (s.launch i.entry.slot).owner i.entry.slot i.entry.epoch).joinGroup die i := by
  unfold State.serveJoin
  simp only [hc, hg, ne_eq, not_false_eq_true, decide_true, Bool.and_self, if_true]
  exact if_pos (congrArg JoinGroup.state (State.group_onGroup ..))

theorem State.serveJoin_of_opened (hg : (s.group die (field (i.entry.record.kd 0) 0 10)).state = .opened) :
    s.serveJoin die i = s.joinGroup die i := by
  unfold State.serveJoin
  simp only [hg, ne_eq, not_true_eq_false, decide_false, Bool.and_false, Bool.false_eq_true, if_false, if_true]
  rfl

theorem State.serveJoin_of_closed (hc : (i.entry.record.kd 1).getLsbD 63 = false)
    (hg : (s.group die (field (i.entry.record.kd 0) 0 10)).state ≠ .opened) :
    s.serveJoin die i = s.joinDone die (s.group die (field (i.entry.record.kd 0) 0 10)).resP i := by
  unfold State.serveJoin
  simp only [hc, Bool.false_and, Bool.false_eq_true, if_false]
  exact if_neg hg

end Serve

theorem joinNodes : JoinNodes := by
  intro s die n hd hn g due
  have hdue : due ↔ (s.group die n).state = .opened ∧ ((s.group die n).complete = true ∨ (s.group die n).now = true) := by
    rw [JoinGroup.complete_iff]
  refine ⟨fun h => (exec_wadiResolve hd hn s).trans (if_pos (hdue.1 h)), fun h => (exec_wadiResolve hd hn s).trans (if_neg (mt hdue.2 h)),
    exec_joinNode_none hd, ?_⟩
  intro i hi ctl gn g opens does joined serves
  have hgn : field (i.entry.record.kd 0) 0 10 = gn := field_mod ..
  have hserves {u : State} (hu : exec (.joinNode die) s = .next (u.joinGroup die i)) : serves u := by
    unfold State.joinGroup at hu
    dsimp only at hu
    rw [hgn] at hu
    exact ⟨fun hnow => hu.trans (congrArg _ (if_neg (by rw [hnow]; decide))), fun hnow => hu.trans (congrArg _ (if_pos hnow))⟩
  have hdoes := exec_joinNode_some hd hi
  refine ⟨fun ⟨hc, hg⟩ => hserves ?_, fun hg => hserves ?_, fun hc hg => ?_⟩
  · rw [hdoes, State.serveJoin_opens hc (by rwa [hgn]), hgn, field_mod]
  · rw [hdoes, State.serveJoin_of_opened (by rwa [hgn])]
  · have hdone : does (s.joinDone die g.resP i) := by
      dsimp only [does]
      rw [hdoes, State.serveJoin_of_closed hc (by rwa [hgn]), hgn]
    intro w h p
    exact ⟨fun hp => hdone.trans (congrArg _ (if_neg (Nat.not_le.2 hp))), fun hp => hdone.trans (congrArg _ (if_pos hp))⟩

/-! ### The order of floating-point values (R27) -/

/-- The extended real that a value stands for; 0 for a NaN, which stands for none. -/
noncomputable def FVal.real : FVal → EReal
  | .nan => 0
  | .inf neg => if neg then ⊥ else ⊤
  | .fin neg m e => (((if neg then -1 else 1) * m * 2 ^ e : ℝ) : EReal)

theorem scaled_mul_zpow {neg : Bool} {m : Nat} {e q : Int} (h : q ≤ e) :
    (scaled neg m e q : ℝ) * 2 ^ q = (if neg then -1 else 1) * m * 2 ^ e := by
  have hp : (2 : ℝ) ^ (e - q).toNat * 2 ^ q = 2 ^ e := by
    rw [← zpow_natCast, ← zpow_add₀ two_ne_zero]
    congr 1
    omega
  unfold scaled
  cases neg <;> simp [mul_assoc, hp]

/-- Values that are not NaN compare as what they stand for. -/
theorem FVal.cmp_eq {a b : FVal} (ha : a.isNan = false) (hb : b.isNan = false) :
    a.cmp b = some (if a.real < b.real then -1 else if a.real = b.real then 0 else 1) := by
  cases a with
  | nan => cases ha
  | inf na =>
    cases b with
    | nan => cases hb
    | inf nb => cases na <;> cases nb <;> simp [FVal.cmp, FVal.real]
    | fin nb mb eb => cases na <;> simp [FVal.cmp, FVal.real]
  | fin na ma ea =>
    cases b with
    | nan => cases hb
    | inf nb => cases nb <;> simp [FVal.cmp, FVal.real]
    | fin nb mb eb =>
      have hq : (0 : ℝ) < 2 ^ min ea eb := by positivity
      unfold FVal.cmp FVal.real
      simp only [EReal.coe_lt_coe_iff, EReal.coe_eq_coe_iff, ← scaled_mul_zpow (min_le_left ea eb), ← scaled_mul_zpow (min_le_right ea eb),
        mul_lt_mul_iff_left₀ hq, mul_left_inj' hq.ne', Int.cast_lt, Int.cast_inj, sub_neg, sub_eq_zero]

/-! ### Ranking (R482) -/

/-- A level from which the lesser values come first with LOW, else the greater ones. -/
noncomputable def levelOf (low : Bool) (x : EReal) : EReal := if low then x else -x

theorem levelOf_lt_iff {low : Bool} {x y : EReal} : levelOf low x < levelOf low y ↔ if low then x < y else y < x := by
  cases low
  · exact EReal.neg_lt_neg_iff
  · exact Iff.rfl

theorem levelOf_inj {low : Bool} {x y : EReal} : levelOf low x = levelOf low y ↔ x = y := by
  cases low
  · exact neg_inj
  · exact Iff.rfl

/-- Where a return stands: NaNs last, values by their levels, equal ones by stream ID. -/
noncomputable def retKey (cfg : Word) (r : Ret) : (Bool ×ₗ EReal) ×ₗ ℕ :=
  let v := f32 (r.2.2.toNat % 2 ^ 32)
  toLex (if joinOp cfg ≤ 2 then toLex (v.isNan, levelOf (cfg.getLsbD 28) v.real)
    else toLex (false, levelOf (cfg.getLsbD 28) (r.2.2.toInt : ℝ)), r.1)

theorem FVal.isNan_iff {a : FVal} : a.isNan = true ↔ a = .nan := by cases a <;> simp [FVal.isNan]

theorem FVal.real_of_nan {a : FVal} (h : a.isNan = true) : a.real = 0 := by rw [FVal.isNan_iff.1 h, FVal.real]

theorem FVal.cmp_of_nan_left {a b : FVal} (h : a.isNan = true) : a.cmp b = none := by rw [FVal.isNan_iff.1 h, FVal.cmp]

theorem FVal.cmp_of_nan_right {a b : FVal} (h : b.isNan = true) : a.cmp b = none := by
  rw [FVal.isNan_iff.1 h]
  cases a <;> rfl

theorem ranksBefore_iff_of_int {cfg : Word} (h : ¬joinOp cfg ≤ 2) {a b : Ret} :
    ranksBefore cfg a b = true ↔ retKey cfg a ≤ retKey cfg b := by
  unfold ranksBefore retKey
  simp only [h, if_false, Prod.Lex.toLex_le_toLex, Prod.Lex.toLex_lt_toLex, levelOf_lt_iff, levelOf_inj, EReal.coe_lt_coe_iff,
    EReal.coe_eq_coe_iff, Int.cast_lt, Int.cast_inj, EmbeddingLike.apply_eq_iff_eq, Prod.mk.injEq, lt_self_iff_false, false_or, true_and]
  generalize a.2.2.toInt = x, b.2.2.toInt = y
  by_cases hxy : x = y
  · simp [hxy]
  · cases cfg.getLsbD 28 <;> simp [hxy]

theorem ranksBefore_iff_of_float {cfg : Word} (h : joinOp cfg ≤ 2) {a b : Ret} :
    ranksBefore cfg a b = true ↔ retKey cfg a ≤ retKey cfg b := by
  unfold ranksBefore retKey
  simp only [h, if_true, Prod.Lex.toLex_le_toLex, Prod.Lex.toLex_lt_toLex, levelOf_lt_iff, levelOf_inj,
    EmbeddingLike.apply_eq_iff_eq, Prod.mk.injEq]
  generalize f32 (a.2.2.toNat % 2 ^ 32) = x, f32 (b.2.2.toNat % 2 ^ 32) = y
  cases hx : x.isNan with
  | true =>
    rw [FVal.cmp_of_nan_left hx, FVal.real_of_nan hx]
    cases hy : y.isNan with
    | true => simp [FVal.real_of_nan hy]
    | false => simp
  | false =>
    cases hy : y.isNan with
    | true => simp [FVal.cmp_of_nan_right hy]
    | false =>
      rw [FVal.cmp_eq hx hy]
      obtain hxy | hxy | hxy := lt_trichotomy x.real y.real
      · cases cfg.getLsbD 28 <;> simp [hxy, hxy.ne, hxy.not_gt]
      · simp [hxy]
      · cases cfg.getLsbD 28 <;> simp [hxy, hxy.ne', hxy.not_gt]

/-- Returns are ranked by a key in a linear order. -/
theorem ranksBefore_iff {cfg : Word} {a b : Ret} : ranksBefore cfg a b = true ↔ retKey cfg a ≤ retKey cfg b := by
  by_cases h : joinOp cfg ≤ 2
  · exact ranksBefore_iff_of_float h
  · exact ranksBefore_iff_of_int h

theorem retKey_lt {cfg : Word} {a b : Ret} (hv : a.2.2 = b.2.2) (hid : a.1 < b.1) : retKey cfg a < retKey cfg b := by
  unfold retKey
  rw [hv]
  exact Prod.Lex.toLex_lt_toLex.2 (.inr ⟨rfl, hid⟩)

theorem returnRanking : ReturnRanking := by
  intro cfg a b c
  simp only [← Bool.not_eq_true, ranksBefore_iff]
  exact ⟨le_total _ _, le_trans, fun hv hid => ⟨(retKey_lt hv hid).le, (retKey_lt hv hid).not_ge⟩⟩

/-- Settles O47: what Wadi does for groups and join nodes (`joinNodes`), and its ranking, which is by a key in a linear order
(`ranksBefore_iff`). Beyond the rules, a join node whose completion would pass the clocks' limit being lost, and ending its launch, is the
model's choice (log 26). -/
theorem wadiEvents : Obligations.WadiEvents := ⟨joinNodes, returnRanking⟩

end Sys2Proof.Machine
end

section
/-! The registers of every context stay within their ranges (R143, R146, R222, R424): `State.good` is kept by every function of the model
that gives a state, with one lemma for each. Only a few of them write a register of which a range is asked; the ranges come from their own
checks, and all others leave those registers as they are. -/
namespace Sys2Proof.Machine
-- Many short lemmas: elaborated one after another, so that threads that wait for one another do not use up the memory.
set_option Elab.async false
variable {τ υ : State}

/-! ### Tables all of whose values have a property -/

theorem Table.forall_set {α : Type} {p : α → Prop} {t : Table α} {v : α} (ht : ∀ e ∈ t, p e.2) (hv : p v) (i : Nat) :
    ∀ e ∈ Table.set t i v, p e.2 := by
  induction t with
  | nil => simpa [Table.set] using hv
  | cons e r ih =>
    obtain ⟨k, w⟩ := e
    rw [List.forall_mem_cons] at ht
    rw [Table.set]
    split
    · exact List.forall_mem_cons.2 ⟨hv, ht.2⟩
    · exact List.forall_mem_cons.2 ⟨ht.1, ih ht.2⟩

theorem Table.get_of_forall {α : Type} {p : α → Prop} {t : Table α} {d : α} (ht : ∀ e ∈ t, p e.2) (hd : p d) (i : Nat) :
    p (Table.get t d i) := by
  unfold Table.get
  cases e : Table.find t i with
  | none => exact hd
  | some v => exact ht _ (Table.mem_of_find e)

theorem Table.forall_map {α : Type} {p : α → Prop} {f : Nat × α → α} {t : Table α} (ht : ∀ e ∈ t, p e.2)
    (hf : ∀ e : Nat × α, p e.2 → p (f e)) : ∀ e ∈ t.map (fun e => (e.1, f e)), p e.2 := by
  rintro _ he
  obtain ⟨e, he', rfl⟩ := List.mem_map.1 he
  exact hf e (ht e he')

theorem Table.forall_foldl {α β : Type} {p : α → Prop} {t : Table α} {f : Table α → β → Table α} (ht : ∀ e ∈ t, p e.2)
    (l : List β)    (hf : ∀ t b, (∀ e ∈ t, p e.2) → ∀ e ∈ f t b, p e.2) : ∀ e ∈ l.foldl f t, p e.2 :=
  List.foldlRecOn (motive := fun t : Table α => ∀ e ∈ t, p e.2) l f ht fun t ht b _ => hf t b ht

theorem Table.forall_foldl_set {α : Type} {p : α → Prop} {f : Nat → α} (hf : ∀ k, p (f k)) (ks : List Nat) {t : Table α}
    (ht : ∀ e ∈ t, p e.2) : ∀ e ∈ ks.foldl (fun t k => Table.set t k (f k)) t, p e.2 :=
  Table.forall_foldl ht ks fun _ k ht => Table.forall_set ht (hf k) k

/-! ### Contexts and cores -/

theorem Ctx.good_iff {c : Ctx} : c.good = true ↔
    c.wbase ≤ 1888 ∧ c.qset ≤ 6 ∧ c.grant ≤ 128 ∧ c.tvec.toNat % 64 = 0 ∧ c.tvec.toNat < 2 ^ 56 := by
  simp only [Ctx.good, Bool.and_eq_true, decide_eq_true_eq, and_assoc]

/-- Every field but the four of which a range is asked is free, so that the lemma unifies with any record update. -/
theorem Ctx.good_fields {c : Ctx} {hstate idle fe resident residentAt parked saved pc win g v masks savedGrant shrunk hlive abn
  endp l h tcause epc tval intrap racemode gkey gpos stream ticket arrived launch sealed done openBatch batches doneP nmIssued
  nmDone nmOpen nmP nmStopped errWord errNum pend fbuf acks yieldEnd nwait xfail waitFrom mid qFrom pairFrom coreRegs poisoned
  unissued admitted popped} (hc : c.good = true) : Ctx.good ⟨hstate, idle, fe, resident, residentAt, parked, saved, pc, win, g,
  c.wbase, v, masks, c.grant, savedGrant, shrunk, c.qset, hlive, abn, endp, l, h, c.tvec, tcause, epc, tval, intrap, racemode,
  gkey, gpos, stream, ticket, arrived, launch, sealed, done, openBatch, batches, doneP, nmIssued, nmDone, nmOpen, nmP, nmStopped,
  errWord, errNum, pend, fbuf, acks, yieldEnd, nwait, xfail, waitFrom, mid, qFrom, pairFrom, coreRegs, poisoned, unissued,
  admitted, popped⟩ = true :=
  hc

theorem Ctx.good_grant {c d : Ctx} {g : Nat} (h : c.good = true) (hg : g ≤ 128) (he : d.grant = g) (hw : d.wbase = c.wbase)
    (hq : d.qset = c.qset) (ht : d.tvec = c.tvec) : d.good = true := by
  rw [Ctx.good_iff] at h ⊢
  rw [hw, hq, he, ht]
  exact ⟨h.1, h.2.1, hg, h.2.2.2⟩

theorem Ctx.good_initial (k : Nat) : (Ctx.initial k).good = true := by unfold Ctx.initial; split <;> rfl

/-- The contexts of a core, those of the other shelf too, and WBASE in its trap frames are in their ranges. -/
structure Core.Good (c : Core) : Prop where
  ctxs : ∀ e ∈ c.ctxs, e.2.good = true
  other : ∀ e ∈ c.other, e.2.good = true
  tframes : ∀ e ∈ c.tframes, (Table.get e.2 0 3).toNat ≤ 1888

theorem Core.good_empty : ({} : Core).Good :=
  ⟨fun _ h => absurd h List.not_mem_nil, fun _ h => absurd h List.not_mem_nil, fun _ h => absurd h List.not_mem_nil⟩

theorem Core.Good.ctx {c : Core} (h : c.Good) (k : Nat) : (c.ctx k).good = true :=
  Table.get_of_forall (p := (Ctx.good · = true)) h.ctxs (Ctx.good_initial k) k

theorem Core.Good.otherCtx {c : Core} (h : c.Good) (k : Nat) : (c.other.get {} k).good = true :=
  Table.get_of_forall (p := (Ctx.good · = true)) h.other rfl k

theorem Core.Good.setCtx {c : Core} {x : Ctx} (h : c.Good) (hx : x.good = true) (k : Nat) : Core.Good { c with ctxs := c.ctxs.set k x } :=
  ⟨Table.forall_set (p := (Ctx.good · = true)) h.ctxs hx k, h.other, h.tframes⟩

/-- Every field but the contexts and the trap frames is free, so that the lemma unifies with any record update. -/
theorem Core.Good.fields {c : Core} {modes tags fifo frames queues rcache cway wlq wl cpq inbox journal seqOut barq trace lastIssue xslot
  domain leftDomain stage otherStage shelf parkedBy shared} (h : c.Good) : Core.Good ⟨c.ctxs, modes, tags, fifo, frames, queues,
  rcache, cway, wlq, wl, cpq, inbox, c.tframes, journal, seqOut, barq, trace, lastIssue, xslot, domain, leftDomain, stage, otherStage,
  shelf, parkedBy, shared, c.other⟩ :=
  ⟨h.ctxs, h.other, h.tframes⟩

theorem Core.Good.setOther {c : Core} {x : Ctx} (h : c.Good) (hx : x.good = true) (k : Nat) : Core.Good { c with other := c.other.set k x } :=
  ⟨h.ctxs, Table.forall_set (p := (Ctx.good · = true)) h.other hx k, h.tframes⟩

theorem Core.Good.setCtxs {c : Core} {f : Nat → Ctx} (h : c.Good) (hf : ∀ k, (f k).good = true) {ks : List Nat} :
    Core.Good { c with ctxs := ks.foldl (fun t k => t.set k (f k)) c.ctxs } :=
  ⟨Table.forall_foldl_set (p := (Ctx.good · = true)) hf ks h.ctxs, h.other, h.tframes⟩

theorem Core.Good.dropOther {c : Core} (h : c.Good) : Core.Good { c with other := [] } :=
  ⟨h.ctxs, fun _ h => absurd h List.not_mem_nil, h.tframes⟩

theorem Core.Good.unshelved {c : Core} (h : c.Good) : Core.Good { c with ctxs := c.other, other := [] } :=
  ⟨h.other, fun _ h => absurd h List.not_mem_nil, h.tframes⟩

theorem Core.Good.ite {c d : Core} {b : Prop} [Decidable b] (h1 : c.Good) (h2 : d.Good) : (if b then c else d).Good := by
  split <;> assumption

theorem Core.Good.foldl {α : Type} {f : Core → α → Core} {l : List α} {c : Core} (h : c.Good) (hf : ∀ c a, c.Good → (f c a).Good) :
    (l.foldl f c).Good := by
  induction l generalizing c with
  | nil => exact h
  | cons a l ih => exact ih (hf c a h)

/-- Values that return to their queues. -/
theorem Core.Good.foldr_setQueue {c : Core} (h : c.Good) {l : List (Nat × Word)} {n : Nat} :
    (l.foldr (fun e x => x.setQueue n e.1 (e.2 :: x.queue n e.1)) c).Good := by
  induction l with
  | nil => exact h
  | cons e l ih => exact ih.fields

/-! ### The state -/

theorem State.good_iff {s : State} : s.good ↔ ∀ e ∈ s.cores, e.2.Good :=
  forall₂_congr fun e _ => by
    rw [List.forall_mem_append]
    exact ⟨fun ⟨⟨h1, h2⟩, h3⟩ => ⟨h1, h2, h3⟩, fun ⟨h1, h2, h3⟩ => ⟨⟨h1, h2⟩, h3⟩⟩

theorem State.good.core (h : τ.good) (g : Nat) : (τ.core g).Good := Table.get_of_forall (State.good_iff.1 h) Core.good_empty g

theorem State.good.ctx (h : τ.good) (g k : Nat) : (τ.ctx g k).good = true := (h.core g).ctx k

/-- Every field but the cores is free. -/
theorem State.good.fields {clk agenda cur smp mem poison lmPoison keyed lines sums metaUse hostClk imports launches caravans drives domains
  owners streams nodes pages gone replay poolUsed tlbs icache held matrix jobs rotor moves engSeq near chans array samplers groups
  wadi transfers arrivals flits sirocco dev seen free fresh} (h : τ.good) : State.good ⟨clk, agenda, cur, smp, mem, poison,
  lmPoison, keyed, lines, sums, metaUse, hostClk, imports, τ.cores, launches, caravans, drives, domains, owners, streams, nodes,
  pages, gone, replay, poolUsed, tlbs, icache, held, matrix, jobs, rotor, moves, engSeq, near, chans, array, samplers, groups, wadi,
  transfers, arrivals, flits, sirocco, dev, seen, free, fresh⟩ :=
  h

theorem State.good.setCore {g : Nat} {x : Core} (h : τ.good) (hx : x.Good) : (τ.setCore g x).good :=
  State.good_iff.2 (Table.forall_set (State.good_iff.1 h) hx g)

theorem State.good.onCore {g : Nat} {f : Core → Core} (h : τ.good) (hf : ∀ c, c.Good → (f c).Good := by exact fun _ h => h.fields) :
    (τ.onCore g f).good :=
  h.setCore (hf _ (h.core g))

theorem State.good.setCtx {g k : Nat} {x : Ctx} (h : τ.good) (hx : x.good = true) : (τ.setCtx g k x).good :=
  h.setCore ((h.core g).setCtx hx k)

theorem State.good.onCtx {g k : Nat} {f : Ctx → Ctx} (h : τ.good)
    (hf : ∀ c, c.good = true → (f c).good = true := by exact fun _ h => Ctx.good_fields h) :
    (τ.onCtx g k f).good :=
  h.setCtx (hf _ (h.ctx g k))

theorem State.good.map_cores {f : Nat × Core → Core} (h : τ.good) (hf : ∀ e : Nat × Core, e.2.Good → (f e).Good)
    (he : υ.cores = τ.cores.map (fun e => (e.1, f e))) : υ.good :=
  State.good_iff.2 (by rw [he]; exact Table.forall_map (State.good_iff.1 h) hf)

theorem State.good.ite {c : Prop} [Decidable c] (h1 : τ.good) (h2 : υ.good) : (if c then τ else υ).good := by
  split <;> assumption

theorem State.good.foldl {α : Type} {f : State → α → State} {l : List α} (h : τ.good) (hf : ∀ υ a, υ.good → (f υ a).good) :
    (l.foldl f τ).good := by
  induction l generalizing τ with
  | nil => exact h
  | cons a l ih => exact ih (hf τ a h)

/-- The part `st` of what a fold carries is good where every turn of the fold leaves it good. -/
theorem State.good.foldl_part {α β : Type} {st : α → State} {f : α → β → α} {l : List β} {x : α} (h : (st x).good)
    (hf : ∀ y b, (st y).good → (st (f y b)).good) : (st (l.foldl f x)).good := by
  induction l generalizing x with
  | nil => exact h
  | cons b l ih => exact ih (hf x b h)

theorem State.good.foldl_fst {α β : Type} {f : State × α → β → State × α} {l : List β} {x : State × α} (h : x.1.good)
    (hf : ∀ y b, y.1.good → (f y b).1.good) : (l.foldl f x).1.good :=
  State.good.foldl_part (st := Prod.fst) h hf

theorem State.good.ite_fst {α : Type} {c : Prop} [Decidable c] {x y : State × α} (hx : x.1.good) (hy : y.1.good) :
    (if c then x else y).1.good := by
  split <;> assumption

theorem State.good.fst_eq {α : Type} {x : State × α} {a : α} (h : x.1.good) (e : x = (τ, a)) : τ.good := by
  subst e; exact h

theorem State.good.snd_eq {α : Type} {x : α × State} {a : α} (h : x.2.good) (e : x = (a, τ)) : τ.good := by
  subst e; exact h

/-- What a function that may answer nothing answers is good. -/
def GoodSome {α : Type} (st : α → State) (o : Option α) : Prop := ∀ x, o = some x → (st x).good

theorem GoodSome.none {α : Type} {st : α → State} : GoodSome st none := nofun

theorem GoodSome.some {α : Type} {st : α → State} {x : α} (h : (st x).good) : GoodSome st (some x) := by
  rintro _ ⟨⟩
  exact h

theorem GoodSome.ite {α : Type} {st : α → State} {o o' : Option α} {c : Prop} [Decidable c] (h : GoodSome st o) (h' : GoodSome st o') :
    GoodSome st (if c then o else o') := by
  split <;> assumption

theorem GoodSome.or {o o' : Option State} (h : GoodSome id o) (h' : GoodSome id o') : GoodSome id (o.or o') := by
  cases o
  · exact h'
  · exact h

theorem GoodSome.findSome {α β : Type} {st : β → State} {f : α → Option β} {l : List α} (hf : ∀ a, GoodSome st (f a)) :
    GoodSome st (l.findSome? f) := by
  intro x e
  obtain ⟨a, -, ha⟩ := List.exists_of_findSome?_eq_some e
  exact hf a x ha

theorem State.good.getD {o : Option State} (h : τ.good) (ho : GoodSome id o) : (o.getD τ).good := by
  cases o
  · exact h
  · exact ho _ rfl

theorem State.good.getD_fst {α : Type} {x : State × α} {o : Option (State × α)} (h : x.1.good) (ho : GoodSome Prod.fst o) :
    (o.getD x).1.good := by
  cases o
  · exact h
  · exact ho _ rfl

/-! ### Bodies of core instructions -/

/-- A stop that waits leaves a good state good. -/
def Stop.Good : Stop → Prop
  | .wait f => ∀ υ, υ.good → (f υ).good
  | .trap _ | .unready => True

/-- Run from a state, a body leaves a good one. -/
def M.GoodAt (τ : State) {α : Type} (m : M α) : Prop :=
  match m.run τ with
  | .ok r => r.2.good
  | .error e => e.Good

/-- Run from any good state, a body leaves a good one. -/
def M.Good {α : Type} (m : M α) : Prop := ∀ τ, τ.good → m.GoodAt τ

variable {α β : Type} {m m' : M α} {k : α → M β}

theorem M.Good.run {a : α} (hm : m.Good) (h : τ.good) (e : m.run τ = .ok (a, υ)) : υ.good := by
  have hr := hm τ h
  unfold M.GoodAt at hr
  rw [e] at hr
  exact hr

theorem M.GoodAt.bind (hm : m.GoodAt τ) (hk : ∀ a, (k a).Good) : (m >>= k).GoodAt τ := by
  unfold M.GoodAt at hm ⊢
  rw [bind_run]
  cases e : m.run τ with
  | error x => rw [e] at hm; exact hm
  | ok r => rw [e] at hm; exact hk r.1 r.2 hm

theorem M.Good.bind (hm : m.Good) (hk : ∀ a, (k a).Good) : (m >>= k).Good := fun τ h => (hm τ h).bind hk

theorem M.Good.ite {c : Prop} [Decidable c] (h1 : m.Good) (h2 : m'.Good) : (if c then m else m').Good := by
  split <;> assumption

theorem M.GoodAt.ite {c : Prop} [Decidable c] (h1 : m.GoodAt τ) (h2 : m'.GoodAt τ) : (if c then m else m').GoodAt τ := by
  split <;> assumption

theorem pure_good {a : α} : (pure a : M α).Good := fun _ h => h

theorem get_good : (get : M State).Good := fun _ h => h

theorem modify_good {f : State → State} (hf : ∀ υ, υ.good → (f υ).good) : (modify f : M Unit).Good := hf

theorem set_goodAt (h : υ.good) : (set υ : M Unit).GoodAt τ := h

/-- What follows a read of the state runs from the state that was read. -/
theorem get_bind_good {k : State → M β} (hk : ∀ τ, τ.good → (k τ).GoodAt τ) : ((get : M State) >>= k).Good := fun τ h => hk τ h

theorem throw_trap_good {t} : (throw (.trap t) : M α).Good := fun _ _ => trivial

theorem trap_good {cause tval} : (trap cause tval : M α).Good := throw_trap_good

theorem wait_good : (wait : M α).Good := fun _ _ _ h => h

theorem unready_good : (unready : M α).Good := fun _ _ => trivial

theorem waitAnd_good {f : State → State} (hf : ∀ υ, υ.good → (f υ).good) : (waitAnd f : M α).Good := fun _ _ => hf

theorem wait_bind_goodAt {k : α → M β} : (wait >>= k).GoodAt τ := fun _ h => h

/-- What follows a check runs where the check has found nothing. -/
theorem trapIf_bind_goodAt {k : Unit → M β} {c cause tval} (hk : c = false → (k ()).GoodAt τ) :
    (trapIf c cause tval >>= k).GoodAt τ := by
  cases c
  · exact hk rfl
  · trivial

theorem trapIf_bind_good {k : Unit → M β} {c cause tval} (hk : c = false → (k ()).Good) : (trapIf c cause tval >>= k).Good :=
  fun τ h => trapIf_bind_goodAt fun e => hk e τ h

/-! ### Outcomes -/

/-- The state that an event or a turn answers is good. -/
def GoodNext : Host.Outcome State Fault Refusal → Prop
  | .next τ => τ.good
  | .fault _ | .refused _ => True

/-- What an event leaves is good, whether it goes on or stops. -/
def GoodEither : Except State State → Prop
  | .ok τ | .error τ => τ.good

theorem GoodEither.ok_eq {x : Except State State} (h : GoodEither x) (e : x = .ok τ) : τ.good := by subst e; exact h

theorem GoodEither.error_eq {x : Except State State} (h : GoodEither x) (e : x = .error τ) : τ.good := by subst e; exact h

theorem GoodNext.next_eq {o} (h : GoodNext o) (e : o = .next τ) : τ.good := by subst e; exact h

/-! ### Ops -/

theorem State.good.onLaunch {i f} (h : τ.good) : (τ.onLaunch i f).good := h.fields

theorem State.good.onCaravan {d f} (h : τ.good) : (τ.onCaravan d f).good := h.fields

theorem State.good.onOwner {o f} (h : τ.good) : (τ.onOwner o f).good := h.fields

theorem State.good.onStream {n f} (h : τ.good) : (τ.onStream n f).good := h.fields

theorem State.good.onDomain {n f} (h : τ.good) : (τ.onDomain n f).good := h.fields

theorem State.good.unpop {g k} (h : τ.good) : (τ.unpop g k).good :=
  .ite h (h.onCore fun _ h => h.foldr_setQueue).onCtx

theorem trapIf_good {c cause tval} : (trapIf c cause tval).Good := .ite trap_good pure_good

theorem me_good : me.Good := get_good.bind fun _ => pure_good

theorem myCore_good : myCore.Good := get_good.bind fun _ => pure_good

theorem myCtx_good : myCtx.Good := get_good.bind fun _ => pure_good

/-- A context that is read has its registers in their ranges. -/
theorem myCtx_bind_good {k : Ctx → M β} (hk : ∀ c, c.good = true → (k c).Good) : (myCtx >>= k).Good :=
  get_bind_good fun τ h => hk _ (h.ctx _ _) τ h

theorem myCore_bind_good {k : Core → M β} (hk : ∀ c, c.Good → (k c).Good) : (myCore >>= k).Good :=
  get_bind_good fun τ h => hk _ (h.core _) τ h

theorem onMyCtx_good {f} (hf : ∀ c, c.good = true → (f c).good = true := by exact fun _ h => Ctx.good_fields h) : (onMyCtx f).Good :=
  modify_good fun _ h => h.onCtx hf

theorem onMyCore_good {f} (hf : ∀ c, c.Good → (f c).Good := by exact fun _ h => h.fields) :
    (onMyCore f).Good :=
  modify_good fun _ h => h.onCore hf

theorem release_good {tval} : (release tval).Good :=
  myCtx_good.bind fun _ => trapIf_good.bind fun _ => (onMyCtx_good).bind fun _ => pure_good

theorem acquire_good {p tval} : (acquire p tval).Good := myCtx_good.bind fun _ => trapIf_good.bind fun _ => onMyCtx_good

theorem freeWord_good : freeWord.Good := get_bind_good fun _ h => (set_goodAt h.fields).bind fun _ => pure_good

theorem noteAccess_good {va size} : (noteAccess va size).Good := modify_good fun _ h => h.fields

theorem freshId_good : freshId.Good := get_bind_good fun _ h => (set_goodAt h.fields).bind fun _ => pure_good

theorem State.good.onEngine {cl f} (h : τ.good) : (τ.onEngine cl f).good := h.fields

theorem State.good.unadmit {g k} (h : τ.good) : (τ.unadmit g k).good := .ite h h.onCore.onCtx

theorem State.good.releaseTilesOn {g k sh} (h : τ.good) : (τ.releaseTilesOn g k sh).good := .ite h.onEngine h

theorem State.good.releaseTiles {g k} (h : τ.good) : (τ.releaseTiles g k).good := h.releaseTilesOn

theorem State.good.orphan {g k} (h : τ.good) : (τ.orphan g k).good := h.fields.onCore

theorem State.good.ctxFor (h : τ.good) (o : Origin) (k : Nat) : (τ.ctxFor o k).good = true := by
  unfold State.ctxFor
  split
  · exact h.ctx o.core k
  · exact (h.core o.core).otherCtx k

theorem State.good.onOrigin {o k f} (h : τ.good)
    (hf : ∀ c, c.good = true → (f c).good = true := by exact fun _ h => Ctx.good_fields h) : (τ.onOrigin o k f).good :=
  .ite (h.onCtx hf) (.ite (h.onCore fun _ hc => hc.setOther (hf _ (h.ctxFor o k)) k) h)

theorem State.good.sawClock {t} (h : τ.good) : (τ.sawClock t).good := h.fields

theorem State.good.placeLines {agent l lines} (h : τ.good) : (τ.placeLines agent l lines).1.good := by
  unfold State.placeLines
  dsimp only
  split
  · exact h
  · exact h.fields.sawClock

theorem State.good.placeDesc {agent l n} (h : τ.good) : (τ.placeDesc agent l n).1.good := h.placeLines

theorem State.good.unitStep {n p} (h : τ.good) : (τ.unitStep n p).good := h.fields.placeDesc

theorem State.good.readmit {x} (h : τ.good) : (τ.readmit x).good := by
  unfold State.readmit
  dsimp only
  split
  · exact h
  · exact .ite h.fields.unitStep.onStream h

theorem State.good.readmitAll {es} (h : τ.good) : (readmitAll τ es).good := h.foldl fun _ _ h => h.readmit

theorem State.good.purgeDie {slot d} (h : τ.good) : (τ.purgeDie slot d).good := h.onCaravan.readmitAll

theorem State.good.undrive {slot} (h : τ.good) : (τ.undrive slot).good :=
  h.foldl fun _ _ h => (State.good.ite h.unitStep h).onStream

theorem State.good.purge {slot} (h : τ.good) : (τ.purge slot).good := by
  unfold State.purge
  dsimp only
  exact (h.foldl (fun _ _ h => h.purgeDie)).undrive.fields.onLaunch

theorem State.good.stopLaunch {slot code endState} (h : τ.good) : (τ.stopLaunch slot code endState).good := by
  unfold State.stopLaunch
  dsimp only
  exact .ite h.purge.onLaunch (.ite h.onLaunch (.ite h.onLaunch h))

theorem State.good.utrap {slot cause async place epc tval} (h : τ.good) : (τ.utrap slot cause async place epc tval).good := h.onLaunch

theorem State.good.clockStop {slot t recAddr} (h : τ.good) : (τ.clockStop slot t recAddr).good := .ite h h.fields.utrap.stopLaunch

theorem State.good.traceFor {owner g k kind payload} (h : τ.good) : (τ.traceFor owner g k kind payload).good := .ite h.onCore h

theorem State.good.trace {g k kind payload} (h : τ.good) : (τ.trace g k kind payload).good := h.traceFor

theorem State.good.traceMask {g k n} (h : τ.good) : (τ.traceMask g k n).good := h.trace

theorem State.good.unhandled {o p} (h : τ.good) : (τ.unhandled o p).good := h.trace.utrap

theorem State.good.post {o p} (h : τ.good) : (τ.post o p).good := by
  unfold State.post
  split
  · exact h.onOrigin
  · exact h.unhandled.stopLaunch

theorem State.good.passPend {g k} (h : τ.good) : (τ.passPend g k).good := h.onCtx.foldl fun _ _ h => h.post

theorem State.good.recordPend {g k} (h : τ.good) : (τ.recordPend g k).good := h.foldl fun _ _ h => h.unhandled

theorem State.good.dropRank {g slot} (h : τ.good) : (τ.dropRank g slot).good :=
  h.foldl fun _ _ h => h.onCaravan.foldl (fun _ _ h => (h.foldl (fun _ _ h =>
    h.readmit)).readmit)

theorem Ctx.good_discard (k : Nat) (c : Ctx) : (c.discard k).good = true := Ctx.good_initial k

theorem State.good.discardCtxs {g ks slot} (h : τ.good) : (τ.discardCtxs g ks slot).good :=
  ((h.foldl fun _ _ h => h.recordPend.unadmit.orphan).onCore fun c h =>
    (h.setCtxs fun k => Ctx.good_discard k (c.ctx k)).fields).onCtx.dropRank.foldl fun _ _ h => h.releaseTiles

theorem State.good.discardCore {g} (h : τ.good) : (τ.discardCore g).good := h.discardCtxs

theorem State.good.send {v} (h : τ.good) : (τ.send v).good := .ite h.fields h.fields

theorem State.good.logEntry {ws} (h : τ.good) : (τ.logEntry ws).good := .ite h (.ite h.fields (.ite h.fields.send h.fields))

theorem State.good.machineCheck {agent slot cause addr detail} (h : τ.good) : (τ.machineCheck agent slot cause addr detail).good :=
  h.logEntry

theorem State.good.countLife {i n} (h : τ.good) : (τ.countLife i n).good := h.fields

theorem Ctx.good_endAbnormally {c : Ctx} (h : c.good = true) : c.endAbnormally.good = true := by
  rw [Ctx.good_iff] at h ⊢
  obtain ⟨hw, -, -, ht⟩ := h
  exact ⟨hw, le_rfl, Nat.zero_le _, ht⟩

theorem State.good.endAbnormal {g k} (h : τ.good) : (τ.endAbnormal g k).good :=
  (h.unadmit.onCtx fun _ => Ctx.good_endAbnormally).releaseTiles.orphan.passPend

theorem State.good.routeTrap {g k cause async epc tval} (h : τ.good) : (τ.routeTrap g k cause async epc tval).good :=
  .ite (.ite h.trace.utrap.stopLaunch.discardCore h.trace.utrap.stopLaunch.endAbnormal) (.ite
    h.trace.utrap.stopLaunch.discardCore h.trace.utrap.endAbnormal)

/-- WBASE as a frame keeps it is that of the context (R413). -/
theorem State.good.trapFrame {tc epc tval words : Word} {race : List Word} (h : τ.good) (g k : Nat) :
    (Table.get (τ.trapFrame g k tc epc tval words race) 0 3).toNat ≤ 1888 := by
  have hw : (τ.ctx g k).wbase ≤ 1888 := (Ctx.good_iff.1 (h.ctx g k)).1
  have hf : Table.get (τ.trapFrame g k tc epc tval words race) 0 3 = BitVec.ofNat 64 (τ.ctx g k).wbase := by
    simp [State.trapFrame, Table.get, Table.find, List.range_succ_eq_map]
  rw [hf, BitVec.toNat_ofNat]
  omega

theorem State.good.putFrame {g k} {f : Table Word} (h : τ.good) (hf : (f.get 0 3).toNat ≤ 1888) : (τ.putFrame g k f).good :=
  h.onCore fun _ h => ⟨h.ctxs, h.other, Table.forall_set (p := fun f : Table Word => (f.get 0 3).toNat ≤ 1888) h.tframes hf _⟩

/-- What `Ctx.routes` leaves room for: a handler's window lies below 1,888 (R412). -/
theorem Ctx.wbase_of_not_routes {c : Ctx} {cause : Nat} (h : c.routes cause = false) : c.wbase + 32 ≤ 1888 := by
  simp only [Ctx.routes, Bool.or_eq_false_iff, decide_eq_false_iff_not, not_lt] at h
  exact h.1.1.2

theorem Ctx.good_wbase {c d : Ctx} (h : c.good = true) (hw : d.wbase ≤ 1888) (hq : d.qset = c.qset) (hg : d.grant = c.grant)
    (ht : d.tvec = c.tvec) : d.good = true := by
  rw [Ctx.good_iff] at h ⊢
  rw [hq, hg, ht]
  exact ⟨hw, h.2⟩

theorem State.good.takeTrap {g k cause async more epc tval words race} (h : τ.good) : (τ.takeTrap g k cause async more
    epc tval words race).good := by
  unfold State.takeTrap
  dsimp only
  split
  · exact h.routeTrap
  · rename_i hr
    exact (h.trace.putFrame (h.trapFrame g k)).setCtx (Ctx.good_wbase (h.ctx g k) (Ctx.wbase_of_not_routes (by simpa using hr)) rfl rfl rfl)

theorem State.good.deliverAsync {g k} (h : τ.good) : GoodSome id (τ.deliverAsync g k) := by
  unfold State.deliverAsync
  dsimp only
  split
  · exact .none
  · exact .ite .none (.some h.unpop.onCtx.takeTrap)

theorem State.good.tick {n} (h : τ.good) : (τ.tick n).good := h.fields

theorem State.good.retired {g k} (h : τ.good) : (τ.retired g k).good := h.onCtx.tick

theorem State.good.waiting {g k f} (h : τ.good) (hf : ∀ υ, υ.good → (f υ).good) : (τ.waiting g k f).good :=
  (hf τ h).onCtx.tick

/-! ### Operands -/

theorem src_good {code} : (src code).Good := by
  unfold src
  refine get_good.bind fun _ => ?_
  split
  extract_lets -underBinder +onlyGivenNames c
  split
  · split
    · exact pure_good
    · exact (onMyCore_good).bind fun _ => pure_good
  · exact pure_good

theorem dst_good {code v} : (dst code v).Good :=
  .ite onMyCtx_good (.ite onMyCtx_good (.ite (myCtx_good.bind fun _ => onMyCore_good) pure_good))

theorem dstNext_good {code v} : (dstNext code v).Good := dst_good

theorem srcB_good {x} : (srcB x).Good := by
  unfold srcB
  split
  · exact pure_good
  · exact src_good

theorem takeDraws_good {n tval} : (takeDraws n tval).Good :=
  myCtx_good.bind fun _ => trapIf_good.bind fun _ => (onMyCtx_good).bind fun _ => pure_good

theorem drawsFor_good {rm n tval} : (drawsFor rm n tval).Good := .ite takeDraws_good pure_good

/-! ### Local -/

theorem State.good.zeroBank {g bank owner} (h : τ.good) : (τ.zeroBank g bank owner).good :=
    h.fields.onCore

theorem State.good.localWrite {g off bs} (h : τ.good) : (τ.localWrite g off bs).good := h.fields

theorem State.good.retag {g owner off} (h : τ.good) : (τ.retag g owner off).good := .ite h h.zeroBank

theorem checkSpad_good {offs la} : (checkSpad offs la).Good := myCore_good.bind fun _ => trapIf_good

theorem checkLocal_good {la} : (checkLocal la).Good := trapIf_good.bind fun _ => trapIf_good

theorem State.good.retagAll {g owner off n} (h : τ.good) : (τ.retagAll g owner off n).good :=
  h.foldl fun _ _ h => h.retag

theorem localGet_good {off n la} : (localGet off n la).Good := by
  unfold localGet
  refine get_bind_good fun s h => ?_
  split
  extract_lets -underBinder +onlyGivenNames owner j0
  have hj0 : (j0 ()).GoodAt s := trapIf_bind_goodAt fun _ => ((set_goodAt h.retagAll).bind fun _ => pure_good)
  exact .ite wait_bind_goodAt hj0

theorem localPut_good {off bs} : (localPut off bs).Good := by
  unfold localPut
  refine get_bind_good fun s h => ?_
  split
  extract_lets -underBinder +onlyGivenNames owner j0
  have hj0 : (j0 ()).GoodAt s := set_goodAt h.retagAll.localWrite
  exact .ite wait_bind_goodAt hj0

theorem f4dElem_good {e la} : (f4dElem e la).Good := localGet_good.bind fun _ => localGet_good.bind fun _ => pure_good

theorem f8dElem_good {ty e la} : (f8dElem ty e la).Good := localGet_good.bind fun _ => pure_good

theorem windowGet_good {win off ty n la} : (windowGet win off ty n la).Good := by
  unfold windowGet
  split
  · exact f4dElem_good.bind fun _ => .ite (f4dElem_good.bind fun _ => pure_good) pure_good
  · exact f8dElem_good.bind fun _ => .ite (f8dElem_good.bind fun _ => pure_good) pure_good
  · exact localGet_good.bind fun _ => pure_good
  · exact localGet_good.bind fun _ => pure_good
  · exact localGet_good.bind fun _ => pure_good

theorem windowPut_good {win off ty n rm d j v} : (windowPut win off ty n rm d j v).Good := by
  unfold windowPut
  split
  · exact localPut_good
  · exact localPut_good
  · exact localPut_good
  · exact localPut_good

theorem checkScalar_good {la ty store word0} : (checkScalar la ty store word0).Good :=
  checkLocal_good.bind fun _ => trapIf_good.bind fun _ => trapIf_good.bind fun _ => trapIf_good.bind fun _ =>
    trapIf_good.bind fun _ => checkSpad_good

theorem localDword_good {la} : (localDword la).Good :=
  trapIf_good.bind fun _ => checkSpad_good.bind fun _ => localGet_good.bind fun _ => pure_good

/-! ### WriteLane -/

theorem State.good.onChan {k f} (h : τ.good) : (τ.onChan k f).good := h.fields

theorem State.good.charge {g n} (h : τ.good) : (τ.charge g n).good := h.onCore

theorem State.good.stall {g k} (h : τ.good) : (τ.stall g k).good := h.onCore

theorem State.good.stallAdmitted {g k n} (h : τ.good) : (τ.stallAdmitted g k n).good := h.onCore.onCtx

theorem State.good.landed {line} (h : τ.good) : (τ.landed line).good := h.fields

theorem State.good.homeWrite {line bytes core by_ owner near made} (h : τ.good) :
    (τ.homeWrite line bytes core by_ owner near made).good := by
  unfold State.homeWrite
  dsimp only
  refine .ite h.onCaravan (.ite h ?_)
  split
  · exact h.fields
  · exact h.fields

theorem State.good.acceptEntry {g e} (h : τ.good) : (τ.acceptEntry g e).good := .ite h.homeWrite.fields h.homeWrite

theorem State.good.acceptFor {g line q} (h : τ.good) : (τ.acceptFor g line q).good := by
  induction q generalizing τ with
  | nil => exact h
  | cons e r ih => exact .ite (ih h.acceptEntry.onCore) h

theorem State.good.acceptLine {but line} (h : τ.good) : (τ.acceptLine but line).good :=
  h.foldl fun _ _ h => .ite h h.acceptFor

theorem State.good.makeRoom {g} (h : τ.good) : (τ.makeRoom g).good := by
  unfold State.makeRoom
  split
  · exact .ite h h.acceptEntry.onCore
  · exact h

theorem State.good.writeBack {g l} (h : τ.good) : (τ.writeBack g l).good := h.charge.makeRoom.onCore.fields

theorem State.good.settleFor {g mine line} (h : τ.good) : (τ.settleFor g mine line).good := by
  unfold State.settleFor
  dsimp only
  split
  · split
    · exact h.acceptLine
    · split
      · exact h.acceptLine.writeBack.acceptFor
      · exact h.acceptLine.fields
  · exact h.acceptLine

theorem State.good.settle {g line} (h : τ.good) : (τ.settle g line).good := h.settleFor

theorem State.good.askHost {line} (h : τ.good) : (τ.askHost line).good := .ite h.fields h

theorem State.good.queueFor {id line} (h : τ.good) : (τ.queueFor id line).good := .ite h h.fields

theorem State.good.unqueue {id line} (h : τ.good) : (τ.unqueue id line).good := .ite h.fields h

theorem State.good.unqueueAll {id} (h : τ.good) : (τ.unqueueAll id).good := h.foldl fun _ _ h => h.unqueue

theorem State.good.cwayPut {g l} (h : τ.good) : (τ.cwayPut g l).good := by
  unfold State.cwayPut
  dsimp only
  split
  · exact h.setCore (h.core g).fields
  · split
    · exact h
    · exact (State.good.ite h.writeBack h).onCore

theorem takeBudget_good {n va f} (hf : ∀ υ, υ.good → (f υ).good := by exact fun _ h => h) : (takeBudget n va f).Good := by
  unfold takeBudget
  refine get_good.bind fun s => ?_
  split
  exact .ite (.ite trap_good (waitAnd_good fun υ h => (hf υ h).stall)) onMyCore_good

theorem needEntries_good {m n va f} (hf : ∀ υ, υ.good → (f υ).good := by exact fun _ h => h) : (needEntries m n va f).Good := by
  unfold needEntries
  refine get_good.bind fun s => ?_
  split
  exact .ite pure_good (.ite trap_good (waitAnd_good fun υ h => (hf υ h).stallAdmitted))

theorem needEntry_good {n va f} (hf : ∀ υ, υ.good → (f υ).good := by exact fun _ h => h) : (needEntry n va f).Good :=
    needEntries_good hf

theorem State.good.enqueue {line bytes merged also whole} (h : τ.good) : (τ.enqueue line bytes merged also whole).good :=
  .ite h.onCore h.onCore

theorem enqueue_good {line bytes merged also n va f whole} (hf : ∀ υ, υ.good → (f υ).good := by exact fun _ h => h) :
    (enqueue line bytes merged also n va f whole).Good :=
  have h := modify_good fun _ h => h.enqueue
  get_good.bind fun _ => .ite h ((needEntry_good hf).bind fun _ => h)

/-! ### Pages -/

theorem State.good.setNode {n t} (h : τ.good) : (τ.setNode n t).good := h.fields

theorem State.good.setPage {n p} (h : τ.good) : (τ.setPage n p).good := h.fields

theorem State.good.loadSpm {die n} (h : τ.good) : (τ.loadSpm die n).good := .ite h h.onCaravan

theorem State.good.leaveSpm {n} (h : τ.good) : (τ.leaveSpm n).good := h.fields

theorem State.good.growSpm {n} (h : τ.good) : (τ.growSpm n).good := .ite h.leaveSpm h.fields

theorem State.good.newId (h : τ.good) : (τ.newId).1.good := h.fields

theorem State.good.copyPage {src dst} (h : τ.good) : (τ.copyPage src dst).good := (h.foldl (fun _ _ h => h.settle)).fields

theorem State.good.dupPage {page} (h : τ.good) : (τ.dupPage page).1.good := h.newId.setPage.copyPage

theorem State.good.sharePage {page} (h : τ.good) : (τ.sharePage page).1.good := by
  unfold State.sharePage
  dsimp only
  split
  · exact h.setPage
  · exact h.dupPage

theorem State.good.copyLeaf {leaf} (h : τ.good) : (τ.copyLeaf leaf).1.good := by
  unfold State.copyLeaf
  dsimp only
  refine (State.good.newId ?_).setNode.setNode
  refine State.good.foldl_fst ?_ fun _ _ h => h.sharePage
  exact h

theorem State.good.copyRoot {root} (h : τ.good) : (τ.copyRoot root).1.good := (h.foldl (fun _ _ h => h.setNode)).newId.setNode.setNode

theorem State.good.privateRoot {stream} (h : τ.good) : (τ.privateRoot stream).good := .ite h.copyRoot.onStream h

theorem State.good.privateLeaf {stream p} (h : τ.good) : (τ.privateLeaf stream p).1.good := by
  unfold State.privateLeaf
  dsimp only
  split
  · exact h.privateRoot.newId.setNode.setNode
  · split
    · exact h.privateRoot.copyLeaf.setNode
    · exact h.privateRoot

theorem State.good.pageForWrite {stream p} (h : τ.good) : GoodSome Prod.fst (τ.pageForWrite stream p) := by
  unfold State.pageForWrite
  split
  rename_i s2 leaf e
  have h2 := h.privateLeaf.fst_eq e
  extract_lets +onlyGivenNames d setPage
  have hp {υ : State} {page : Nat} (h : υ.good) : (setPage υ page).good := h.setNode
  clear_value setPage
  split
  · refine .ite .none ?_
    split
    rename_i e1
    refine .some ?_
    exact (hp (h2.newId.fst_eq e1).setPage).onStream.growSpm
  · exact .ite (.some (hp h2.dupPage.setPage)) (.some h2)

theorem State.good.joinReplay {page w} (h : τ.good) : (τ.joinReplay page w).good := .ite h h.fields

theorem State.good.leaveReplay {page w} (h : τ.good) : (τ.leaveReplay page w).good := by
  unfold State.leaveReplay
  split
  · exact h.fields
  · exact h.fields

theorem State.good.passReplay {w} (h : τ.good) : (τ.passReplay w).good :=
  h.foldl fun _ _ h => .ite h.leaveReplay h

theorem State.good.freeFrame {page} (h : τ.good) : (τ.freeFrame page).good := by
  unfold State.freeFrame
  split
  · exact h.onCore
  · exact h.onOwner
  · exact h

theorem State.good.freePage {page} (h : τ.good) : (τ.freePage page).good := h.freeFrame.fields

theorem State.good.unrefPage {page} (h : τ.good) : (τ.unrefPage page).good := .ite (.ite h.setPage h.freePage) h.setPage

theorem State.good.unrefLeaf {leaf} (h : τ.good) : (τ.unrefLeaf leaf).good := .ite (h.foldl (fun _ _ h => h.unrefPage)).fields h.setNode

theorem State.good.unrefRoot {root} (h : τ.good) : (τ.unrefRoot root).good := .ite (h.foldl (fun _ _ h => h.unrefLeaf)).fields h.setNode

theorem State.good.reserve {owner k} (h : τ.good) : (τ.reserve owner k).1.good := by
  unfold State.reserve
  dsimp only
  split
  · dsimp only
    exact h.fields.onOwner
  · dsimp only
    exact h.onOwner

theorem State.good.unreserve {owner k} (h : τ.good) : (τ.unreserve owner k).good := h.fields.onOwner

/-! ### Translate -/

theorem State.good.translate {cl owner va} (h : τ.good) : (τ.translate cl owner va).2.good := by
  unfold State.translate
  dsimp only
  split
  · exact h
  · split
    · exact h.fields
    · exact h

theorem State.good.postFault {f} (h : τ.good) : (τ.postFault f).1.good := by
  unfold State.postFault
  dsimp only
  split
  · exact h
  · exact .ite h.fields.send h.fields

theorem State.good.postFaults {fs} (h : τ.good) : (τ.postFaults fs).1.good := by
  induction fs generalizing τ with
  | nil => exact h
  | cons f r ih => exact ih h.postFault

theorem State.good.holdFaultAs {owner va agent waiter kind slot} (h : τ.good) : (τ.holdFaultAs owner va agent waiter kind
    slot).good := h.fields.postFaults.fields

theorem State.good.holdFault {owner va agent kind slot} (h : τ.good) : (τ.holdFault owner va agent kind slot).good := h.holdFaultAs

theorem translateFor_good {va write fetch} : (translateFor va write fetch).Good := by
  unfold translateFor
  refine get_bind_good fun s h => ?_
  split
  extract_lets -underBinder +onlyGivenNames owner addr
  refine trapIf_bind_goodAt fun _ => ?_
  extract_lets -underBinder +onlyGivenNames j0
  have hj0 : (j0 ()).GoodAt s := by
    unfold j0
    split
    rename_i e
    split
    · exact trivial
    · split
      · exact trivial
      · exact (set_goodAt (h.translate.snd_eq e)).bind fun _ => pure_good
    · exact fun _ h => h.holdFault
  exact .ite wait_bind_goodAt hj0

theorem needPage_good {page} : (needPage page).Good :=
  get_good.bind fun _ => .ite (modify_good fun _ h => h.leaveReplay) (waitAnd_good fun _ h => h.joinReplay)

theorem State.good.windowWrite {agent l n p} (h : τ.good) : GoodSome Prod.fst (τ.windowWrite agent l n p) := by
  unfold State.windowWrite
  split
  · exact .none
  · rename_i e
    exact .ite (.some (h.pageForWrite _ e)) (.some (h.pageForWrite _ e).placeDesc)

theorem locate_good {va size write aval} : (locate va size write aval).Good := by
  unfold locate
  refine noteAccess_good.bind fun _ => ?_
  extract_lets -underBinder +onlyGivenNames a
  split
  · exact trap_good
  · exact trap_good
  · refine trapIf_good.bind fun _ => ?_
    split
    · exact translateFor_good.bind fun _ => pure_good
    · exact pure_good
    · exact trapIf_good.bind fun _ => pure_good
    · exact trapIf_good.bind fun _ => pure_good
    · refine get_good.bind fun _ => ?_
      split
      · exact throw_trap_good
      · split
        · refine trapIf_good.bind fun _ => ?_
          extract_lets -underBinder +onlyGivenNames j0
          have hj0 : (j0 ()).Good := by
            unfold j0
            refine get_bind_good fun s h => ?_
            extract_lets -underBinder +onlyGivenNames j0
            have hj0 : (j0 ()).GoodAt s := by
              unfold j0
              split
              · exact trivial
              · rename_i e
                exact trapIf_bind_goodAt fun _ => ((set_goodAt (h.windowWrite _ e)).bind fun _ => (onMyCtx_good).bind fun _ =>
                  pure_good)
            exact .ite wait_bind_goodAt hj0
          split
          · exact needPage_good.bind fun _ => hj0
          · exact hj0
        · split
          · exact pure_good
          · exact needPage_good.bind fun _ => pure_good

/-! ### Home -/

theorem State.good.evictMeta {line} (h : τ.good) : (τ.evictMeta line).good := by
  unfold State.evictMeta
  dsimp only
  split
  · exact h
  · exact h.fields

theorem State.good.touchMeta {line} (h : τ.good) : (τ.touchMeta line).good := by
  unfold State.touchMeta
  dsimp only
  split
  · exact h.fields
  · split
    · exact h.fields
    · split
      · exact h.fields.evictMeta
      · exact h.fields

theorem State.good.recordAccess {r t} (h : τ.good) : (τ.recordAccess r t).good := h.fields.touchMeta

theorem State.good.place326 {r} (h : τ.good) : (τ.place326 r).1.good := h.fields.sawClock

theorem State.good.logWrite {g owner agent l key bytes} (h : τ.good) : (τ.logWrite g owner agent l key bytes).good :=
  .ite h.settle.place326.homeWrite.onCore h.settle.place326.homeWrite

theorem State.good.appendLog {g owner agent l racemode rec8} (h : τ.good) : (τ.appendLog g owner agent l racemode rec8).good := by
  unfold State.appendLog
  dsimp only
  split
  · exact h
  · split
    · split
      · exact h
      · split
        · split
          · exact h.settle.logWrite.logWrite
          · exact h.settle.logWrite
        · exact h.settle.logWrite
    · exact h

theorem needLog_good {va} : (needLog va).Good := by
  unfold needLog
  refine myCtx_good.bind fun _ => get_good.bind fun _ => ?_
  split
  · exact trap_good
  · exact translateFor_good.bind fun _ => pure_good
  · exact waitAnd_good fun _ h => h.askHost
  · exact pure_good

theorem homeAccess_good {r va pc} : (homeAccess r va pc).Good := by
  unfold homeAccess
  refine get_good.bind fun _ => ?_
  split
  extract_lets -underBinder +onlyGivenNames c t
  refine trapIf_good.bind fun _ => ?_
  extract_lets -underBinder +onlyGivenNames v m kind record report j0
  have hj0 : (j0 ()).Good := (modify_good fun _ h => (State.good.ite h.recordAccess h).sawClock).bind fun _ =>
    (modify_good fun _ h => h.fields).bind fun _ => (onMyCtx_good).bind fun _ => pure_good
  split
  · exact needLog_good.bind fun _ => .ite ((modify_good fun _ h => h.appendLog).bind fun _ =>
      hj0) (throw_trap_good.bind fun _ => hj0)
  · split
    · exact .ite (needLog_good.bind fun _ => (modify_good fun _ h => h.appendLog).bind fun _ => hj0) hj0
    · exact hj0

theorem settleMineFor_good {mine line} : (settleMineFor mine line).Good := by
  unfold settleMineFor
  refine get_good.bind fun _ => ?_
  extract_lets -underBinder +onlyGivenNames j0
  have hj0 : (j0 ()).Good := modify_good fun _ h => h.settleFor
  exact .ite ((waitAnd_good fun _ h => h.askHost).bind fun _ => hj0) hj0

theorem settleMine_good {line} : (settleMine line).Good := settleMineFor_good

theorem needSlot_good {line} : (needSlot line).Good := get_good.bind fun _ => .ite wait_good pure_good

theorem loadKey_good {key size va pc plain atomic scope} : (loadKey key size va pc plain atomic scope).Good := by
  unfold loadKey
  refine get_good.bind fun _ => ?_
  extract_lets -underBinder +onlyGivenNames g line j0
  have hj0 : (j0 ()).Good := by
    unfold j0
    refine get_good.bind fun _ => ?_
    extract_lets -underBinder +onlyGivenNames r hit
    clear_value hit
    extract_lets -underBinder +onlyGivenNames j0
    have hj0 : (j0 ()).Good := by
      unfold j0
      split
      · exact trapIf_good.bind fun _ => trapIf_good.bind fun _ => (onMyCtx_good).bind fun _ => (modify_good fun _ h =>
          h.cwayPut).bind fun _ => pure_good
      · refine settleMine_good.bind fun _ => get_good.bind fun _ => trapIf_good.bind fun _ => ?_
        extract_lets -underBinder +onlyGivenNames j0
        have hj0 : (j0 ()).Good := homeAccess_good.bind fun _ => get_good.bind fun _ => (.ite ((modify_good fun _ h =>
          h.onCore).bind fun _ => pure_good) (.ite ((modify_good fun _ h => h.cwayPut).bind fun _ =>
          pure_good) pure_good))
        exact .ite hj0 (needSlot_good.bind fun _ => hj0)
    split
    · exact trap_good.bind fun _ => hj0
    · exact hj0
  exact .ite ((modify_good fun _ h => h.acceptFor).bind fun _ => hj0) hj0

theorem remoteLoad_good {core off size va} : (remoteLoad core off size va).Good := by
  unfold remoteLoad
  refine get_good.bind fun _ => ?_
  extract_lets -underBinder +onlyGivenNames j0
  have hj0 : (j0 ()).Good := trapIf_good.bind fun _ => trapIf_good.bind fun _ => pure_good
  exact .ite (wait_good.bind fun _ => hj0) hj0

theorem loadBytes_good {va size aval pc} : (loadBytes va size aval pc).Good := by
  unfold loadBytes
  refine locate_good.bind fun _ => ?_
  split
  · exact pure_good
  · exact remoteLoad_good
  · exact loadKey_good

theorem loadDword_good {va aval pc} : (loadDword va aval pc).Good := loadBytes_good.bind fun _ => pure_good

theorem putStore_good {key bs scope t n va} : (putStore key bs scope t n va).Good := by
  unfold putStore
  extract_lets -underBinder +onlyGivenNames line
  refine myCore_good.bind fun _ => ?_
  extract_lets -underBinder +onlyGivenNames j0
  have hj0 : (j0 ()).Good := by
    unfold j0
    refine get_good.bind fun _ => ?_
    split
    exact .ite ((modify_good fun _ h => h.cwayPut).bind fun _ => (modify_good fun _ h =>
      h.fields)) (.ite ((onMyCore_good).bind fun _ => (modify_good fun _ h => h.fields).bind fun _ =>
      (enqueue_good)) (enqueue_good))
  exact .ite ((modify_good fun _ h => h.acceptFor).bind fun _ => (.ite hj0 (needSlot_good.bind fun _ => hj0))) hj0

theorem storeKey_good {key bs va pc scope atomic tag} : (storeKey key bs va pc scope atomic tag).Good := by
  unfold storeKey
  extract_lets -underBinder +onlyGivenNames line
  refine settleMineFor_good.bind fun _ => myCore_good.bind fun _ => ?_
  extract_lets -underBinder +onlyGivenNames n j0
  have hj0 : (j0 ()).Good := putStore_good.bind fun _ => get_good.bind fun _ => homeAccess_good.bind fun _ => onMyCore_good
  exact .ite hj0 ((takeBudget_good).bind fun _ => hj0)

/-! ### Issue -/

theorem State.good.trapAt {g k v t} (h : τ.good) : (τ.trapAt g k v t).good :=
  (State.good.ite h.unpop.unadmit h.unpop.unadmit.appendLog).takeTrap.tick

theorem State.good.traceMem {g k i} (h : τ.good) : (τ.traceMem g k i).good := by
  unfold State.traceMem
  split
  · exact h
  · exact h.trace
  · exact h.fields.trace

theorem Ctx.good_touched {c : Ctx} (h : c.good = true) : c.touched.good = true := by
  unfold Ctx.touched
  split
  · exact Ctx.good_fields h
  · exact h

theorem State.good.waitEffect {i g k f} (h : τ.good) (hf : ∀ υ, υ.good → (f υ).good) : (waitEffect i g k f τ).good := by
  unfold Machine.waitEffect
  dsimp only
  refine (hf τ h).passReplay.onCtx fun c h => Ctx.good_fields (c := if _ then c.touched else c) ?_
  split
  · exact Ctx.good_touched h
  · exact h

theorem State.good.unreadyEffect {g k} (h : τ.good) : (unreadyEffect g k τ).good := h.onCtx

theorem State.good.takePops {g k i} (h : τ.good) : (τ.takePops g k i).good := by
  unfold State.takePops
  dsimp only
  refine .ite h (h.foldl fun _ _ h => ?_)
  split
  · exact h
  · exact h.onCore.onCtx

theorem State.good.queueWait {g k} (h : τ.good) : (queueWait g k τ).good := h.onCtx

theorem State.good.runBody {i g k v body} (h : τ.good) (hb : (body v).Good) : (runBody i τ g k v body).good := by
  have h0 : ({ τ with seen := none }.onCtx g k (fun c => { c.touched with pc := v.next })).good :=
    h.fields.onCtx fun _ hc => Ctx.good_fields (Ctx.good_touched hc)
  have hr := hb _ h0
  unfold M.GoodAt at hr
  unfold Machine.runBody
  split
  · rename_i e
    rw [e] at hr
    exact hr.traceMem.retired
  · exact h.trapAt
  · rename_i e
    rw [e] at hr
    exact (h.waiting fun _ h => h.waitEffect hr).takePops
  · exact h.waiting fun _ h => h.unreadyEffect

/-- An instruction whose body keeps good states where the checks of R63 have found nothing. -/
theorem State.good.issueChecked {i body} (h : τ.good) (hb : ∀ fe, decodeCause i fe = none → ∀ v, (body v).Good) :
    GoodNext (issue i body τ) := by
  unfold Machine.issue
  dsimp only
  split
  · exact h.trapAt
  · rename_i hc
    split
    · exact h.unpop.trapAt
    · exact h.unpop.trapAt
    · exact h.unpop.waiting fun _ h => h.queueWait
    · exact h.unpop.runBody (hb _ hc _)

theorem State.good.issue {i body} (h : τ.good) (hb : ∀ v, (body v).Good) : GoodNext (issue i body τ) := h.issueChecked fun _ _ => hb

theorem State.good.cacheCode {cl b} (h : τ.good) : (τ.cacheCode cl b).good := h.fields

theorem State.good.fillBlock {g k va bs} (h : τ.good) : (τ.fillBlock g k va bs).good := h.onCtx

theorem State.good.pinLines {g k} (h : τ.good) : (τ.pinLines g k).good := by
  unfold State.pinLines
  split
  · exact h
  · exact h.onCore fun _ h => h.foldl fun _ _ h => h.fields

theorem State.good.imageTrap {g k} (h : τ.good) : (τ.imageTrap g k).good := (h.onCtx).takeTrap

/-! ### Posted -/

theorem State.good.fireWatch {g i val} (h : τ.good) : (τ.fireWatch g i val).good := h.traceFor.onCore

theorem State.good.fireBar {g off n b b2} (h : τ.good) : (τ.fireBar g off n b b2).good := h.foldl fun _ _ h => h.fireWatch

theorem State.good.fireSignal {key val} (h : τ.good) : (τ.fireSignal key val).good :=
  h.foldl fun _ _ h => h.foldl (fun _ _ h => h.fireWatch)

theorem State.good.updateBar {g off us} (h : τ.good) : (τ.updateBar g off us).good := .ite h.onCore h.onCore.localWrite.fireBar

theorem State.good.drainBar {g bank} (h : τ.good) : (τ.drainBar g bank).good := h.foldl fun _ _ h => h.updateBar

theorem admitPosted_good {n va} : (admitPosted n va).Good := (takeBudget_good).bind fun _ => needEntry_good

theorem postWrite_good {va bs ty jkind fn kind} : (postWrite va bs ty jkind fn kind).Good := by
  unfold postWrite
  refine get_good.bind fun _ => ?_
  split
  split
  · exact unready_good
  · exact (modify_good fun _ h => h.onCore.onCore).bind fun _ => pure_good

theorem State.good.answer {g p reason} (h : τ.good) : (τ.answer g p reason).good := by
  unfold State.answer
  dsimp only
  split
  · exact h.onCore
  · split
    · exact h.fields
    · exact h.fields.onCore

theorem State.good.applyPosted {g p} (h : τ.good) : (τ.applyPosted g p).good := by
  unfold State.applyPosted
  dsimp only
  split
  · exact h.onCore.answer
  · exact h.onCore.localWrite.answer

theorem State.good.ackEntry {g i} (h : τ.good) : (τ.ackEntry g i).good := .ite h.onCore h

theorem State.good.refuseEntry {g i} (h : τ.good) : (τ.refuseEntry g i).good := by
  unfold State.refuseEntry
  dsimp only
  split
  · exact .ite (h.onCore).post h
  · exact h

theorem State.good.finishEntry {g i} (h : τ.good) : (τ.finishEntry g i).good := by
  unfold State.finishEntry
  dsimp only
  split
  · exact h.applyPosted.ackEntry
  · exact h.ackEntry

theorem postLane_good {va x sent} : (postLane va x sent).Good := by
  unfold postLane
  refine get_bind_good fun s h => ?_
  extract_lets -underBinder +onlyGivenNames g j0
  have hj0 : (j0 ()).GoodAt s := (set_goodAt (h.foldl (fun _ _ h =>
    .ite h h.finishEntry))).bind fun _ => postWrite_good.bind fun _ => pure_good
  exact .ite wait_bind_goodAt hj0

/-! ### GlobalAccess -/

theorem State.good.execLd {x} (h : τ.good) : GoodNext (execLd x τ) :=
  h.issue fun _ => src_good.bind fun _ => loadBytes_good.bind fun _ => dst_good

theorem postAll_good {ty ps} : (postAll ty ps).Good := by
  induction ps with
  | nil => exact pure_good
  | cons p r ih => exact postWrite_good.bind fun _ => ih

theorem storeBytes_good {va bs ty scope posts v} : (storeBytes va bs ty scope posts v).Good := by
  unfold storeBytes
  refine locate_good.bind fun _ => ?_
  split
  · exact pure_good
  · exact admitPosted_good.bind fun _ => postAll_good
  · exact storeKey_good

theorem State.good.execSt {x} (h : τ.good) : GoodNext (execSt x τ) :=
  h.issue fun _ => src_good.bind fun _ => src_good.bind fun _ => .ite (src_good.bind fun _ =>
    storeBytes_good) storeBytes_good

theorem partner_good {v} : (partner v).Good := by
  unfold partner
  refine myCtx_good.bind fun _ => trapIf_good.bind fun _ => myCore_good.bind fun _ => ?_
  split
  · exact pure_good
  · exact trap_good

theorem locateLanes_good {write first aval ls} : (locateLanes write first aval ls).Good := by
  induction ls with
  | nil => exact pure_good
  | cons l r ih =>
    unfold locateLanes
    refine trapIf_good.bind fun _ => ?_
    extract_lets -underBinder +onlyGivenNames j0
    have hj0 : (j0 ()).Good := locate_good.bind fun _ => ih.bind fun _ => pure_good
    split
    · exact trapIf_good.bind fun _ => hj0
    · exact hj0

theorem readLanes_good {k vd pc ls} : (readLanes k vd pc ls).Good := by
  induction ls with
  | nil => exact pure_good
  | cons l r ih =>
    have h (bs : List Byte) : (do
        modify (fun (s : State) => s.onCtx s.cur.1 k (·.setLane vd l.1 (BitVec.ofNat 32 (natOfBytes bs))))
        readLanes k vd pc r).Good :=
      (modify_good fun _ h => h.onCtx).bind fun _ => ih
    unfold readLanes
    split
    · exact pure_good.bind h
    · exact remoteLoad_good.bind h
    · exact loadKey_good.bind h

theorem admitVector_good {n scope locs} : (admitVector n scope locs).Good := by
  unfold admitVector
  refine get_good.bind fun _ => myCore_good.bind fun _ => ?_
  extract_lets -underBinder +onlyGivenNames j0
  have hj0 : (j0 ()).Good := .ite pure_good ((takeBudget_good).bind fun _ => (needEntries_good))
  exact .ite (unready_good.bind fun _ => hj0) hj0

theorem makeRoom_good {line} : (makeRoom line).Good := modify_good fun _ h => .ite h h.makeRoom

theorem writeLanes_good {p va0 scope pc sent ls} : (writeLanes p va0 scope pc sent ls).Good := by
  induction ls generalizing sent with
  | nil => exact pure_good
  | cons l r ih =>
    unfold writeLanes
    dsimp only
    split
    · exact ih
    · exact postLane_good.bind fun _ => ih
    · exact settleMineFor_good.bind fun _ => makeRoom_good.bind fun _ => putStore_good.bind fun _ => get_good.bind fun _ =>
        homeAccess_good.bind fun _ => (onMyCore_good).bind fun _ => ih

theorem State.good.storedWhole {g lines} (h : τ.good) : (τ.storedWhole g lines).good := h.onCore.fields

theorem vectorLoad_good {x v indexed} : (vectorLoad x v indexed).Good := by
  unfold vectorLoad
  refine partner_good.bind fun _ => ?_
  split
  exact src_good.bind fun _ => locateLanes_good.bind fun _ => readLanes_good

theorem vectorStore_good {x v indexed} : (vectorStore x v indexed).Good := by
  unfold vectorStore
  refine partner_good.bind fun _ => ?_
  split
  exact src_good.bind fun _ => locateLanes_good.bind fun _ => myCore_good.bind fun _ => admitVector_good.bind fun _ =>
    writeLanes_good.bind fun _ => modify_good fun _ h => h.storedWhole

theorem State.good.execVld {x} (h : τ.good) : GoodNext (execVld x τ) :=
  h.issue fun _ => vectorLoad_good

theorem State.good.execVst {x} (h : τ.good) : GoodNext (execVst x τ) :=
  h.issue fun _ => vectorStore_good

theorem State.good.execVgath {x} (h : τ.good) : GoodNext (execVgath x τ) :=
  h.issue fun _ => vectorLoad_good

theorem State.good.execVscat {x} (h : τ.good) : GoodNext (execVscat x τ) :=
  h.issue fun _ => vectorStore_good

theorem State.good.prefetch {key} (h : τ.good) : (τ.prefetch key).good := .ite h h.settle.cwayPut

theorem State.good.execPref {x} (h : τ.good) : GoodNext (execPref x τ) := by
  refine h.issue fun _ => src_good.bind fun _ => ?_
  refine get_bind_good fun s h => ?_
  split
  · rename_i e
    exact (set_goodAt (locate_good.run h e)).bind fun _ => .ite pure_good (modify_good fun _ h => h.prefetch)
  · exact pure_good s h

theorem State.good.execWlq {x} (h : τ.good) : GoodNext (execWlq x τ) := by
  refine h.issue fun _ => myCore_good.bind fun _ => myCtx_good.bind fun _ => me_good.bind fun _ => ?_
  split
  exact .ite dst_good (src_good.bind fun _ => (.ite pure_good wait_good))

theorem State.good.flushStores {g who} (h : τ.good) : (τ.flushStores g who).good :=
  (h.foldl (fun _ _ h => h.writeBack)).foldl (fun _ _ h => .ite h.acceptEntry.onCore h)

theorem State.good.flushMine {g k} (h : τ.good) : (τ.flushMine g k).good := h.flushStores

theorem State.good.execWlwait {x} (h : τ.good) : GoodNext (execWlwait x τ) := by
  refine h.issue fun _ => me_good.bind fun _ => ?_
  split
  exact .ite pure_good ((modify_good fun _ h => h.flushMine).bind fun _ => get_good.bind fun _ =>
    (.ite pure_good (waitAnd_good fun _ h => h.flushMine)))

/-! ### Atomics -/

theorem acquireForm_good {p scope va} : (acquireForm p scope va).Good := by
  unfold acquireForm
  extract_lets -underBinder +onlyGivenNames j0
  have hj0 : (j0 ()).Good := .ite (get_good.bind fun _ => acquire_good) pure_good
  split
  · exact acquire_good.bind fun _ => hj0
  · exact hj0

theorem releaseForm_good {scope va} : (releaseForm scope va).Good :=
  myCtx_good.bind fun _ => .ite (wait_good.bind fun _ => release_good) release_good

theorem locateAtomic_good {va size write aval} : (locateAtomic va size write aval).Good := trapIf_good.bind fun _ => locate_good

theorem State.good.settleAtomic {line} (h : τ.good) : (τ.settleAtomic line).good := by
  unfold State.settleAtomic
  dsimp only
  split
  · exact .ite h.settle.writeBack.acceptFor h.settle
  · exact h.settle

theorem settleAtomic_good {line} : (settleAtomic line).Good :=
  settleMine_good.bind fun _ => modify_good fun _ h => h.settleAtomic

theorem atomicLoad_good {va size scope v ready} : (atomicLoad va size scope v ready).Good := by
  unfold atomicLoad
  refine locateAtomic_good.bind fun _ => ?_
  split
  · exact pure_good
  · exact pure_good
  · refine settleAtomic_good.bind fun _ => needSlot_good.bind fun _ => get_good.bind fun _ => trapIf_good.bind fun _ => ?_
    extract_lets -underBinder +onlyGivenNames j0
    have hj0 : (j0 ()).Good := homeAccess_good.bind fun _ => get_good.bind fun _ => acquireForm_good.bind fun _ => pure_good
    exact .ite hj0 (wait_good.bind fun _ => hj0)

theorem atomicWrite_good {va size scope reads acq rel f v} : (atomicWrite va size scope reads acq rel f v).Good := by
  have hs {l} (υ : State) (h : υ.good) : (υ.settleAtomic l).good := h.settleAtomic
  unfold atomicWrite
  refine locateAtomic_good.bind fun _ => ?_
  split
  · exact pure_good
  · exact pure_good
  · extract_lets -underBinder +onlyGivenNames j0
    have hj0 : ∀ a0, (j0 a0).Good := by
      intro _
      unfold j0
      refine settleAtomic_good.bind fun _ => ?_
      extract_lets -underBinder +onlyGivenNames j0
      have hj0 : (j0 ()).Good :=
        get_good.bind fun _ => trapIf_good.bind fun _ => (takeBudget_good hs).bind fun _ => (enqueue_good hs).bind fun _ =>
          get_good.bind fun _ => homeAccess_good.bind fun _ => (onMyCore_good).bind fun _ =>
          .ite (acquireForm_good.bind fun _ => pure_good) pure_good
      exact .ite (needSlot_good.bind fun _ => hj0) hj0
    exact .ite ((releaseForm_good.bind fun _ => pure_good).bind fun _ => hj0 _) (pure_good.bind fun _ => hj0 _)

theorem atomicAddr_good {x v} : (atomicAddr x v).Good := src_good.bind fun _ => pure_good

theorem State.good.execAmo {x} (h : τ.good) : GoodNext (execAmo x τ) :=
  h.issue fun _ => atomicAddr_good.bind fun _ => src_good.bind fun _ => atomicWrite_good.bind fun _ => dst_good

theorem State.good.execCas {x} (h : τ.good) : GoodNext (execCas x τ) :=
  h.issue fun _ => atomicAddr_good.bind fun _ => src_good.bind fun _ => src_good.bind fun _ => atomicWrite_good.bind fun _ =>
    dst_good

theorem srcPair_good {code} : (srcPair code).Good := src_good.bind fun _ => src_good.bind fun _ => pure_good

theorem dstPair_good {code v} : (dstPair code v).Good := dst_good.bind fun _ => dstNext_good

theorem State.good.execCas2 {x} (h : τ.good) : GoodNext (execCas2 x τ) :=
  h.issue fun _ => atomicAddr_good.bind fun _ => srcPair_good.bind fun _ => srcPair_good.bind fun _ =>
    atomicWrite_good.bind fun _ => dstPair_good

theorem State.good.execLda {x} (h : τ.good) : GoodNext (execLda x τ) :=
  h.issue fun _ => src_good.bind fun _ => atomicLoad_good.bind fun _ => dst_good

theorem State.good.execLda2 {x} (h : τ.good) : GoodNext (execLda2 x τ) :=
  h.issue fun _ => src_good.bind fun _ => atomicLoad_good.bind fun _ => dstPair_good

theorem State.good.execStrel {x} (h : τ.good) : GoodNext (execStrel x τ) :=
  h.issue fun _ => src_good.bind fun _ => src_good.bind fun _ => atomicWrite_good.bind fun _ => pure_good

theorem State.good.execFence {x} (h : τ.good) : GoodNext (execFence x τ) := by
  refine h.issue fun _ => me_good.bind fun _ => ?_
  split
  exact .ite pure_good ((modify_good fun _ h => h.flushMine).bind fun _ => get_good.bind fun _ =>
    (.ite pure_good (waitAnd_good fun _ h => h.flushMine)))

theorem State.good.execAfadd {x} (h : τ.good) : GoodNext (execAfadd x τ) :=
  h.issue fun _ => atomicAddr_good.bind fun _ => src_good.bind fun _ => atomicWrite_good.bind fun _ => dst_good

/-! ### Barriers -/

theorem barAt_good {a} : (barAt a).Good :=
  trapIf_good.bind fun _ => trapIf_good.bind fun _ => trapIf_good.bind fun _ => checkSpad_good.bind fun _ => pure_good

theorem barOperand_good {a} : (barOperand a).Good := barAt_good.bind fun _ => localGet_good.bind fun _ => pure_good

theorem updateMine_good {off arrivals expected p} : (updateMine off arrivals expected p).Good :=
  modify_good fun _ h => h.updateBar

theorem awaitJournal_good : awaitJournal.Good := get_good.bind fun _ => .ite pure_good wait_good

theorem State.good.execBarinit {x} (h : τ.good) : GoodNext (execBarinit x τ) :=
  h.issue fun _ => src_good.bind fun _ => src_good.bind fun _ => barAt_good.bind fun _ => trapIf_good.bind fun _ =>
    localPut_good

theorem State.good.execArrive {x} (h : τ.good) : GoodNext (execArrive x τ) := by
  refine h.issue fun _ => src_good.bind fun _ => src_good.bind fun _ => ?_
  extract_lets -underBinder +onlyGivenNames bad
  split
  · refine trapIf_good.bind fun _ => trapIf_good.bind fun _ => awaitJournal_good.bind fun _ => release_good.bind fun _ => ?_
    refine get_bind_good fun s h => ?_
    extract_lets -underBinder +onlyGivenNames a u j0
    have hj0 : (j0 ()).GoodAt s := trapIf_bind_goodAt fun _ => ((set_goodAt h.updateBar).bind fun _ => dst_good)
    exact .ite wait_bind_goodAt hj0
  · exact barOperand_good.bind fun _ => trapIf_good.bind fun _ => awaitJournal_good.bind fun _ => release_good.bind fun _ =>
      get_good.bind fun _ => updateMine_good.bind fun _ => dst_good

theorem State.good.execWaitph {x} (h : τ.good) : GoodNext (execWaitph x τ) :=
  h.issue fun _ => src_good.bind fun _ => src_good.bind fun _ => barOperand_good.bind fun _ => get_good.bind fun _ =>
    (.ite (acquire_good.bind fun _ => dst_good) (waitAnd_good fun _ h => h.retagAll))

theorem State.good.execTestph {x} (h : τ.good) : GoodNext (execTestph x τ) :=
  h.issue fun _ => src_good.bind fun _ => src_good.bind fun _ => barOperand_good.bind fun _ => get_good.bind fun _ =>
    (.ite (acquire_good.bind fun _ => dst_good) dst_good)

theorem State.good.execExpect {x} (h : τ.good) : GoodNext (execExpect x τ) :=
  h.issue fun _ => src_good.bind fun _ => src_good.bind fun _ => barOperand_good.bind fun _ => get_good.bind fun _ =>
    trapIf_good.bind fun _ => updateMine_good

theorem signalSeen_good {va val} : (signalSeen va val).Good := by
  unfold signalSeen
  refine locate_good.bind fun _ => ?_
  split
  · exact modify_good fun _ h => h.fireSignal.fireSignal
  · exact pure_good

theorem State.good.execSignal {x} (h : τ.good) : GoodNext (execSignal x τ) :=
  h.issue fun _ => atomicAddr_good.bind fun _ => src_good.bind fun _ => awaitJournal_good.bind fun _ =>
    atomicWrite_good.bind fun _ => signalSeen_good.bind fun _ => dst_good

theorem State.good.execWaitsig {x} (h : τ.good) : GoodNext (execWaitsig x τ) :=
  h.issue fun _ => atomicAddr_good.bind fun _ => src_good.bind fun _ => atomicLoad_good.bind fun _ =>
    (.ite dst_good wait_good)

theorem State.good.configDomain {d slot epoch members slots len limit} (h : τ.good) : (τ.configDomain d slot epoch members
    slots len limit).good := h.onDomain.foldl fun _ _ h => h.onCore

theorem State.good.freeDomain {d} (h : τ.good) : (τ.freeDomain d).good := (h.foldl (fun _ _ h => h.onCore)).onDomain

theorem loadDwords_good {va v n} : (loadDwords va v n).Good := by
  induction n generalizing va with
  | zero => exact pure_good
  | succ n ih => exact loadDword_good.bind fun _ => ih.bind fun _ => pure_good

theorem State.good.barrierComplete {d} (h : τ.good) : (τ.barrierComplete d).good := .ite h.onDomain h

theorem State.good.deliverPart {d m off bs} (h : τ.good) : (τ.deliverPart d m off bs).good :=
    .ite h (.ite h.onDomain h.localWrite)

theorem State.good.deliverSend {d m} (h : τ.good) : (τ.deliverSend d m).good := h.onDomain.deliverPart.deliverPart

theorem State.good.phaseEnd {d} (h : τ.good) : (τ.phaseEnd d).good := .ite h.onDomain h

theorem State.good.finishPhase {d} (h : τ.good) : (τ.finishPhase d).good := .ite (h.foldl (fun _ _ h => h.deliverSend)).phaseEnd h

theorem myDomain_good {aval} : (myDomain aval).Good := by
  unfold myDomain
  refine myCore_good.bind fun _ => ?_
  split
  · exact pure_good
  · exact trap_good

theorem State.good.execDomain {x} (h : τ.good) : GoodNext (execDomain x τ) := by
  refine h.issue fun _ => src_good.bind fun _ => ?_
  extract_lets -underBinder +onlyGivenNames d
  split
  · refine src_good.bind fun _ => trapIf_good.bind fun _ => trapIf_good.bind fun _ => loadDwords_good.bind fun _ =>
      get_good.bind fun _ => ?_
    extract_lets -underBinder +onlyGivenNames members
    split
    · exact dst_good
    · exact release_good.bind fun _ => (modify_good fun _ h => h.configDomain).bind fun _ => dst_good
  · exact trapIf_good.bind fun _ => get_good.bind fun _ => .ite (.ite dst_good (.ite dst_good (release_good.bind fun _ =>
      (modify_good fun _ h => h.freeDomain).bind fun _ => dst_good))) dst_good

theorem State.good.execSync {x} (h : τ.good) : GoodNext (execSync x τ) := by
  refine h.issue fun _ => me_good.bind fun _ => ?_
  split
  refine trapIf_good.bind fun _ => myDomain_good.bind fun _ => (modify_good fun _ h => h.barrierComplete).bind fun _ =>
    get_good.bind fun _ => ?_
  split
  · exact (modify_good fun _ h => h.onDomain).bind fun _ => acquire_good.bind fun _ => dst_good
  · exact .ite wait_good ((modify_good fun _ h => h.phaseEnd).bind fun _ => get_good.bind fun _ =>
      trapIf_good.bind fun _ => (.ite dst_good (awaitJournal_good.bind fun _ => release_good.bind fun _ =>
      (waitAnd_good fun _ h => h.phaseEnd.onDomain.onCtx))))

theorem State.good.execXsend {x} (h : τ.good) : GoodNext (execXsend x τ) := by
  refine h.issue fun _ => src_good.bind fun _ => src_good.bind fun _ => me_good.bind fun _ => ?_
  split
  refine myDomain_good.bind fun _ => (modify_good fun _ h => h.barrierComplete.phaseEnd).bind fun _ =>
    get_good.bind fun _ => ?_
  extract_lets -underBinder +onlyGivenNames t
  refine trapIf_good.bind fun _ => ?_
  extract_lets -underBinder +onlyGivenNames core j0
  have hj0 : (j0 ()).Good := by
    unfold j0
    extract_lets -underBinder +onlyGivenNames to_
    refine trapIf_good.bind fun _ => ?_
    extract_lets -underBinder +onlyGivenNames n
    refine checkLocal_good.bind fun _ => trapIf_good.bind fun _ => trapIf_good.bind fun _ => trapIf_good.bind fun _ => ?_
    extract_lets -underBinder +onlyGivenNames j0
    have hj0 : (j0 ()).Good := trapIf_good.bind fun _ => localGet_good.bind fun _ => (modify_good fun _ h =>
      h.onDomain)
    split
    · exact trap_good.bind fun _ => hj0
    · exact hj0
  split
  · exact trap_good.bind fun _ => hj0
  · exact trapIf_good.bind fun _ => hj0

theorem State.good.execXwait {x} (h : τ.good) : GoodNext (execXwait x τ) := by
  refine h.issue fun _ => me_good.bind fun _ => ?_
  split
  refine myDomain_good.bind fun _ => (modify_good fun _ h => .ite h.barrierComplete.phaseEnd h.barrierComplete.finishPhase).bind fun _ =>
    get_good.bind fun _ => ?_
  extract_lets -underBinder +onlyGivenNames t
  split
  · refine src_good.bind fun _ => trapIf_good.bind fun _ => trapIf_good.bind fun _ => ?_
    extract_lets -underBinder +onlyGivenNames waited
    split
    · exact dst_good
    · exact .ite dst_good wait_good
  · exact .ite wait_good (acquire_good.bind fun _ => dst_good)

/-! ### Barchan -/

theorem State.good.settlePage {page} (h : τ.good) : (τ.settlePage page).good := h.foldl fun _ _ h => h.settle

theorem State.good.sendStream {t} (h : τ.good) : (τ.sendStream t).good := by
  unfold State.sendStream
  refine .ite h (.ite h ?_)
  split
  · exact .ite h h.fields.holdFaultAs
  · exact h
  · exact (h.foldl (fun _ _ h => h.settlePage)).fields

theorem State.good.startSends (h : τ.good) : (τ.startSends).good := h.foldl fun _ _ h => h.sendStream

/-! ### Caravan -/

theorem State.good.graphError {slot code idx} (h : τ.good) : (τ.graphError slot code idx).good := .ite h.stopLaunch.onLaunch h

theorem State.good.graphUnreadable {slot idx} (h : τ.good) : (τ.graphUnreadable slot idx).good := h.fields.graphError

theorem State.good.holdNode {slot idx va} (h : τ.good) : (τ.holdNode slot idx va).good := .ite h h.fields.holdFaultAs.onLaunch

theorem State.good.releaseNodes {owner page fail} (h : τ.good) : (τ.releaseNodes owner page fail).good := by
  unfold State.releaseNodes
  dsimp only
  refine h.foldl (fun _ _ h => ?_)
  split
  · exact .ite (.ite h.onLaunch.graphUnreadable h.onLaunch) h
  · exact h

theorem State.good.withGot {α : Type} {slot idx : Nat} {g : Got (Except Nat α)} {f : α → State} (h : τ.good)
    (hf : ∀ a, (f a).good) : (τ.withGot slot idx g f).good := by
  unfold State.withGot
  split
  · exact h.holdNode
  · exact h.graphUnreadable
  · exact h.graphError
  · exact hf _

theorem State.good.closeLone {die e} (h : τ.good) : (τ.closeLone die e).good := .ite h.onCaravan h

theorem State.good.enterPool {die e src} (h : τ.good) : (τ.enterPool die e src).good := (State.good.ite h h.closeLone).onCaravan

theorem State.good.partDrive {n} (h : τ.good) : (τ.partDrive n).good := h.fields

theorem State.good.leaveDrive {n} (h : τ.good) : (τ.leaveDrive n).good := h.partDrive.onStream

theorem State.good.unpool {n} (h : τ.good) : (τ.unpool n).good := h.fields

theorem State.good.freeze {n} (h : τ.good) : (τ.freeze n).good := (State.good.ite h.unpool h).leaveDrive.onStream.startSends

theorem State.good.freezeMarked {n} (h : τ.good) : (τ.freezeMarked n).good := .ite h.freeze h

theorem State.good.streamReady {n p clk src} (h : τ.good) : (τ.streamReady n p clk src).good := by
  unfold State.streamReady
  dsimp only
  split
  · exact h.onStream
  · refine h.onStream.withGot fun r => ?_
    split
    · exact h.onStream.holdNode
    · exact .ite h.onStream h.onStream.onStream.enterPool

theorem State.good.streamAdvance {die n succ stop p} (h : τ.good) : (τ.streamAdvance die n succ stop p).good :=
  (State.good.ite h.unitStep.onStream.leaveDrive.onStream h.unitStep.onStream.streamReady).freezeMarked.clockStop

theorem State.good.countStep {n} (h : τ.good) : (τ.countStep n).good := h.onStream

theorem State.good.releaseEdges {slot idx p succ} (h : τ.good) : (τ.releaseEdges slot idx p succ).good := h.onLaunch

theorem State.good.completeEntry {die e p} (h : τ.good) : (τ.completeEntry die e p).good := by
  unfold State.completeEntry
  dsimp only
  split
  · exact .ite h h.releaseEdges
  · exact .ite h (.ite h.countStep.streamAdvance h.streamAdvance)

theorem State.good.taskArrive {e p} (h : τ.good) : (τ.taskArrive e p).good := by
  unfold State.taskArrive
  dsimp only
  split
  · exact .ite h h.onCore
  · exact h

theorem State.good.dropInst {die id} (h : τ.good) : (τ.dropInst die id).good := h.onCaravan

theorem State.good.completeInst {die i} (h : τ.good) : (τ.completeInst die i).good := by
  unfold State.completeInst
  dsimp only
  split
  · exact h.dropInst
  · split
    · refine h.dropInst.foldl (fun _ _ h => ?_)
      split
      · exact h.completeEntry
      · exact h
    · exact .ite h.dropInst.taskArrive h.dropInst.completeEntry

theorem Ctx.good_newLaunch {c : Ctx} {slot epoch rmode} (h : c.good = true) : (c.newLaunch slot epoch rmode).good = true := by
  rw [Ctx.good_iff] at h ⊢
  obtain ⟨-, -, hg, -⟩ := h
  exact ⟨Nat.zero_le _, le_rfl, hg, rfl, Nat.two_pow_pos 56⟩

theorem State.good.takeNode {g t} (h : τ.good) : (τ.takeNode g t).good := by
  unfold State.takeNode
  dsimp only
  refine .ite ?_ (State.good.onCore (State.good.onCtx ?_ fun _ => Ctx.good_newLaunch))
  · exact h.fields.onCore
  · exact h.fields.onCore

theorem State.good.finishInst {die i} (h : τ.good) : (τ.finishInst die i).good := .ite h.onCaravan h.completeInst

/-! ### Contexts -/

/-- START's FN, which names a queue set and a front end, is at most 13: the check of R63 order 5. -/
theorem fn_le_of_decodeCause_start {x : RFields} {fe : FE} (h : decodeCause (.start x) fe = none) : x.fn.toNat ≤ 13 := by
  have hr : (Instr.start x).rsvdOk = true := by
    unfold decodeCause at h
    split at h
    · cases h
    · split at h
      · cases h
      · split at h
        · cases h
        · rename_i hr
          simpa using hr
  simp only [Instr.rsvdOk, Instr.spec, Instr.fields, Fields.regsOk, Bool.and_eq_true, decide_eq_true_eq] at hr
  exact hr.1.1.1.1.1

theorem Ctx.good_started {old ctl : Ctx} {k fe q pc s0 p} (hq : q ≤ 6) : (old.started ctl k fe q pc s0 p).good = true :=
  Ctx.good_iff.2 ⟨Nat.zero_le _, hq, Nat.zero_le _, rfl, Nat.two_pow_pos 56⟩

theorem State.good.execStart {x} (h : τ.good) : GoodNext (execStart x τ) := by
  refine h.issueChecked fun _ hc _ => src_good.bind fun _ => src_good.bind fun _ => me_good.bind fun _ => ?_
  have hq : x.fn.toNat / 2 ≤ 6 := by
    have := fn_le_of_decodeCause_start hc
    omega
  split
  refine trapIf_good.bind fun _ => trapIf_good.bind fun _ => ?_
  extract_lets
  refine myCore_good.bind fun _ => .ite dst_good ?_
  split
  · exact dst_good
  · exact release_good.bind fun _ => myCtx_good.bind fun _ => (modify_good fun _ h => h.onCtx fun _ _ => Ctx.good_started hq).bind
      fun _ => (onMyCtx_good).bind fun _ => dst_good

theorem Ctx.good_finished {c : Ctx} {p : Nat} (h : c.good = true) : (c.finished p).good = true := by
  rw [Ctx.good_iff] at h ⊢
  obtain ⟨hw, -, -, ht⟩ := h
  exact ⟨hw, le_rfl, Nat.zero_le _, ht⟩

theorem State.good.execEndHelper {x} (h : τ.good) : GoodNext (execEndHelper x τ) := by
  refine h.issue fun _ => me_good.bind fun _ => ?_
  split
  refine trapIf_good.bind fun _ => myCtx_good.bind fun _ => ?_
  extract_lets -underBinder +onlyGivenNames j0
  have hj0 : (j0 ()).Good := release_good.bind fun _ => (onMyCtx_good fun _ => Ctx.good_finished).bind fun _ => (modify_good fun _ h =>
    h.releaseTiles.orphan.passPend.onCore)
  exact .ite hj0 (.ite (wait_good.bind fun _ => hj0) ((onMyCtx_good).bind fun _ => hj0))

theorem State.good.execHwait {x} (h : τ.good) : GoodNext (execHwait x τ) := by
  refine h.issue fun _ => src_good.bind fun _ => me_good.bind fun _ => ?_
  split
  refine trapIf_good.bind fun _ => myCtx_good.bind fun _ => ?_
  extract_lets
  refine trapIf_good.bind fun _ => .ite dst_good ?_
  refine myCore_good.bind fun _ => ?_
  extract_lets -underBinder +onlyGivenNames j0
  have hj0 : (j0 ()).Good := by
    exact acquire_good.bind fun _ => (modify_good fun _ h => h.foldl fun _ j h => h.onCtx fun _ _ => Ctx.good_fields
      (Ctx.good_initial j)).bind fun _ => (onMyCtx_good).bind fun _ => dst_good
  exact .ite (wait_good.bind fun _ => hj0) hj0

theorem Ctx.good_qset {c : Ctx} {q : Nat} (h : c.good = true) (hq : q ≤ 6) : { c with qset := q }.good = true := by
  rw [Ctx.good_iff] at h ⊢
  obtain ⟨hw, -, hg, ht⟩ := h
  exact ⟨hw, hq, hg, ht⟩

theorem State.good.execQbind {x} (h : τ.good) : GoodNext (execQbind x τ) := by
  refine h.issue fun _ => src_good.bind fun a => me_good.bind fun _ => ?_
  split
  refine trapIf_bind_good fun ha => myCore_good.bind fun _ => .ite ?_ ?_
  · exact trapIf_good.bind fun _ => onMyCore_good fun _ h => h.foldl fun _ _ h => h.fields
  · have hq : a.toNat ≤ 6 := by simpa using (Bool.or_eq_false_iff.1 ha).1
    exact trapIf_good.bind fun _ => onMyCtx_good fun _ h => Ctx.good_qset h hq

theorem State.good.execQstat {x} (h : τ.good) : GoodNext (execQstat x τ) :=
  h.issue fun _ => src_good.bind fun _ => myCtx_good.bind fun _ => trapIf_good.bind fun _ => myCore_good.bind fun _ =>
    dst_good

theorem State.good.execYield {x} (h : τ.good) : GoodNext (execYield x τ) :=
  h.issue fun _ => src_good.bind fun _ => get_good.bind fun _ => onMyCtx_good

theorem Ctx.good_regrant {c : Ctx} {g : Nat} (h : c.good = true) (hg : g ≤ 128) : (c.regrant g).good = true :=
  Ctx.good_grant h hg rfl rfl rfl rfl

theorem setGrant_good {g} (hg : g ≤ 128) : (setGrant g).Good :=
  myCtx_good.bind fun _ => (onMyCtx_good fun _ h => Ctx.good_fields (Ctx.good_regrant h hg)).bind fun _ =>
    .ite pure_good (modify_good fun _ h => h.traceMask)

theorem State.good.execVclaim {x} (h : τ.good) : GoodNext (execVclaim x τ) := by
  refine h.issue fun _ => src_good.bind fun _ => get_good.bind fun _ => myCtx_bind_good fun c hc => ?_
  have hg : c.grant ≤ 128 := (Ctx.good_iff.1 hc).2.2.1
  extract_lets want g
  refine (setGrant_good ?_).bind fun _ => dst_good
  dsimp only [g]
  split
  · omega
  · exact hg

theorem State.good.execVyield {x} (h : τ.good) : GoodNext (execVyield x τ) :=
  h.issue fun _ => src_good.bind fun _ => myCtx_bind_good fun _ hc =>
    (setGrant_good ((min_le_left _ _).trans (Ctx.good_iff.1 hc).2.2.1)).bind fun _ => dst_good

theorem State.good.execNwait {x} (h : τ.good) : GoodNext (execNwait x τ) := by
  refine h.issue fun _ => src_good.bind fun _ => me_good.bind fun _ => ?_
  split
  refine trapIf_good.bind fun _ => myCtx_good.bind fun _ => trapIf_good.bind fun _ => ?_
  split
  · exact (modify_good fun _ h => h.takeNode).bind fun _ => dst_good.bind fun _ => dstNext_good.bind fun _ =>
      acquire_good.bind fun _ => onMyCtx_good
  · refine get_good.bind fun _ => ?_
    extract_lets -underBinder +onlyGivenNames w
    split
    · exact .ite (dst_good.bind fun _ => dstNext_good) (waitAnd_good fun _ h => h.onCtx)
    · exact waitAnd_good fun _ h => h.onCtx

theorem State.good.freeNodeDomain {i} (h : τ.good) : (τ.freeNodeDomain i).good := .ite h.freeDomain h

theorem State.good.rankDone {g t p} (h : τ.good) : (τ.rankDone g t p).good := by
  unfold State.rankDone
  dsimp only
  split
  · exact h
  · exact .ite h.freeNodeDomain.finishInst h.onCaravan

theorem State.good.execNdone {x} (h : τ.good) : GoodNext (execNdone x τ) := by
  refine h.issue fun _ => src_good.bind fun _ => me_good.bind fun _ => ?_
  split
  refine trapIf_good.bind fun _ => myCtx_good.bind fun _ => ?_
  split
  · exact trap_good
  · exact trapIf_good.bind fun _ => trapIf_good.bind fun _ => release_good.bind fun _ => (onMyCtx_good).bind fun _ =>
      (modify_good fun _ h => h.rankDone)

theorem State.good.enqueueTask {slot addr r p g off} (h : τ.good) : (τ.enqueueTask slot addr r p g off).good := h.enterPool

theorem State.good.execTask {x} (h : τ.good) : GoodNext (execTask x τ) := by
  refine h.issue fun _ => src_good.bind fun _ => src_good.bind fun _ => trapIf_good.bind fun _ => ?_
  extract_lets -underBinder +onlyGivenNames j0
  have hj0 : (j0 ()).Good := by
    unfold j0
    refine loadDwords_good.bind fun _ => get_good.bind fun _ => ?_
    split
    extract_lets -underBinder +onlyGivenNames slot w0 r
    split
    · exact dst_good
    · exact .ite dst_good (.ite dst_good (release_good.bind fun _ => (modify_good fun _ h =>
        h.enqueueTask).bind fun _ => dst_good))
  exact .ite hj0 (trapIf_good.bind fun _ => trapIf_good.bind fun _ => trapIf_good.bind fun _ => hj0)

/-! ### EngineAccess -/

theorem State.good.engineTranslate {o va write} (h : τ.good) : (τ.engineTranslate o va write).1.good := by
  unfold State.engineTranslate
  split
  · exact h
  · split
    · exact h
    · split
      · exact h
      · rename_i e
        split
        · exact h
        · exact h.translate.snd_eq e
      · exact h.holdFaultAs

theorem State.good.enginePage {id page} (h : τ.good) : (τ.enginePage id page).1.good := by
  unfold State.enginePage
  split
  · exact h
  · split
    · exact h.leaveReplay
    · exact h.joinReplay

theorem State.good.engineLocate {o va write} (h : τ.good) : (τ.engineLocate o va write).1.good := by
  unfold State.engineLocate
  split
  · exact h
  · exact h.engineTranslate
  · exact h
  · exact h
  · exact h
  · split
    · exact h
    · refine .ite_fst h ?_
      split
      rename_i s0 ready e
      have h : s0.good := by
        split at e
        · exact h.enginePage.fst_eq e
        · cases e
          exact h
      refine .ite_fst h (.ite_fst ?_ ?_)
      · split
        · exact h
        · rename_i e1
          exact .ite_fst h (h.windowWrite _ e1)
      · split
        · exact h
        · exact h

theorem State.good.logWait {o} (h : τ.good) : GoodSome Prod.fst (τ.logWait o) := by
  unfold State.logWait
  split
  · exact .some h
  · exact .none
  · exact .some h.askHost
  · exact .ite (.some h) (.ite (.some h) (.some h.holdFaultAs))

theorem State.good.engineAccess {o key va ws write} (h : τ.good) : (τ.engineAccess o key va ws write).1.good := by
  unfold State.engineAccess
  refine .ite_fst h.askHost.queueFor (.ite_fst h.queueFor (.ite_fst h.unqueue.settle ?_))
  extract_lets s s1 r t checked v m report step record log go
  have hs : s.good := h.unqueue
  have hl {υ : State} {cause adv} (h : υ.good) : (log υ cause adv).good := h.appendLog
  have hg {υ : State} (h : υ.good) : (go υ).good := by
    have hp : (υ.place326 r).1.good := h.place326
    change (if checked then (υ.place326 r).1.recordAccess r t else (υ.place326 r).1).good
    split
    · exact hp.recordAccess
    · exact hp
  have hs1 : s1.good := hs.settle
  clear_value log go
  refine .ite_fst hs ?_
  split
  · exact .getD_fst (.ite_fst (hg (hl hs1)) (hl hs)) hs.logWait
  · exact .ite_fst (.getD_fst (hg (hl hs1)) hs.logWait) (hg hs1)
  · exact hg hs1

theorem State.good.engineRead {o va ws} (h : τ.good) : (τ.engineRead o va ws).1.good := by
  unfold State.engineRead
  dsimp only
  split
  · rename_i e
    exact h.engineLocate.fst_eq e
  · rename_i e
    split
    · exact h
    · split
      · exact h
      · exact h.engineLocate.fst_eq e
  · rename_i e
    split
    · rename_i e1
      exact (h.engineLocate.fst_eq e).engineAccess.fst_eq e1
    · rename_i e1
      exact (h.engineLocate.fst_eq e).engineAccess.fst_eq e1
    · rename_i e1
      exact (h.engineLocate.fst_eq e).engineAccess.fst_eq e1
  · rename_i e
    exact h.engineLocate.fst_eq e
  · rename_i e
    exact h.engineLocate.fst_eq e

theorem State.good.engineHold {o va ws} (h : τ.good) : (τ.engineHold o va ws).1.good := by
  unfold State.engineHold
  dsimp only
  split
  · rename_i e
    split
    · rename_i e1
      exact ((h.engineLocate.fst_eq e).engineAccess.fst_eq e1).fields
    · exact (h.engineLocate.fst_eq e).engineAccess
  · exact h.engineLocate

theorem State.good.reserveLine {o line} (h : τ.good) : (τ.reserveLine o line).1.good := by
  unfold State.reserveLine
  dsimp only
  split
  · exact h.askHost.queueFor
  · split
    · exact h
    · exact h.unqueue.settle.place326.fields

theorem State.good.timeRead {o va} (h : τ.good) : (τ.timeRead o va).1.good := by
  unfold State.timeRead
  dsimp only
  split
  · rename_i e
    split
    · exact (h.engineLocate.fst_eq e).askHost.queueFor
    · split
      · exact h
      · exact (h.engineLocate.fst_eq e).unqueue.settle.place326
  · rename_i e
    exact h.engineLocate.fst_eq e
  · rename_i e
    exact h.engineLocate.fst_eq e
  · rename_i e
    exact h.engineLocate.fst_eq e
  · rename_i e
    exact h.engineLocate.fst_eq e

theorem State.good.engineReserve {o va} (h : τ.good) : (τ.engineReserve o va).1.good := by
  unfold State.engineReserve
  split
  · rename_i e
    exact (h.engineLocate.fst_eq e).reserveLine
  · exact h.engineLocate

theorem State.good.letGo {id line} (h : τ.good) : (τ.letGo id line).good := .ite h.fields h

theorem State.good.engineWrite {line bs owner near stream} (h : τ.good) : (τ.engineWrite line bs owner near stream).good :=
  .ite h.homeWrite.fields h.homeWrite

theorem State.good.engineDone {die ticket p} (h : τ.good) : (τ.engineDone die ticket p).good := by
  unfold State.engineDone
  split
  · exact h.finishInst
  · exact h

theorem State.good.engineTrap {slot cause async recAddr tval} (h : τ.good) : (τ.engineTrap slot cause async recAddr
    tval).good :=
  h.utrap.stopLaunch

theorem State.good.engineLost {die ticket} (h : τ.good) : (τ.engineLost die ticket).good := by
  unfold State.engineLost
  split
  · exact h.dropInst.readmit.foldl fun _ _ h => h.readmit
  · exact h

/-! ### Copies -/

theorem State.good.readLine {x cl va ws row col} (h : x.s.good) : (CopyPass.readLine x cl va ws row col).s.good := by
  have hr {c : Prop} [Decidable c] {o v w u} : (if c then x.s.engineRead o v w else x.s.timeRead o u).1.good :=
    .ite_fst h.engineRead h.timeRead
  unfold CopyPass.readLine
  split
  · exact h
  · split
    · rename_i e
      exact hr.fst_eq e
    · rename_i e
      exact hr.fst_eq e
    · rename_i e
      exact hr.fst_eq e

theorem State.good.readIndex {x cl} (h : x.s.good) : (CopyPass.readIndex x cl).s.good := by
  unfold CopyPass.readIndex
  dsimp only
  split
  · exact h
  · exact h.foldl_part fun _ _ h => h.readLine

theorem State.good.readSources {x cl} (h : x.s.good) : (CopyPass.readSources x cl).s.good := by
  unfold CopyPass.readSources
  refine h.foldl_part fun y e h => ?_
  split
  · exact h
  · split
    · exact h
    · exact h.readLine

theorem State.good.holdDests {x cl} (h : x.s.good) : (CopyPass.holdDests x cl).s.good := by
  unfold CopyPass.holdDests
  refine h.foldl_part fun y e h => ?_
  have hd {c : Prop} [Decidable c] {o v w u z} : (if c then y.s.engineHold o v w else y.s.engineReserve u z).1.good :=
    .ite_fst h.engineHold h.engineReserve
  split
  · exact h
  · split
    · exact h
    · split
      · split
        · exact h
        · exact h
      · split
        · rename_i e
          exact hd.fst_eq e
        · rename_i e
          dsimp only
          split
          · rename_i e1
            exact (hd.fst_eq e).engineReserve.fst_eq e1
          · rename_i e1
            exact (hd.fst_eq e).engineReserve.fst_eq e1
          · rename_i e1
            exact (hd.fst_eq e).engineReserve.fst_eq e1
        · rename_i e
          exact hd.fst_eq e
        · exact h

theorem State.good.placeCopy {cl j} (h : τ.good) : (τ.placeCopy cl j).1.good := by
  have h : (CopyPass.mk τ j false).s.good := h
  unfold State.placeCopy
  dsimp only
  split
  · exact h
  · exact h.readIndex.readSources.holdDests

theorem State.good.numberCopy {cl j} (h : τ.good) : (τ.numberCopy cl j).1.good := by
  unfold State.numberCopy
  refine .ite_fst h ?_
  split
  · dsimp only
    exact h.onCore
  · exact h.fields

theorem State.good.sendUpdates {cl j} (h : τ.good) : (τ.sendUpdates cl j).1.good := by
  unfold State.sendUpdates
  dsimp only
  split
  · exact h
  · exact h.foldl fun _ _ h => h.onCore

theorem State.good.writeElems {j n t es} (h : τ.good) : (τ.writeElems j n t es).1.good := by
  induction es generalizing τ t with
  | nil => exact h
  | cons e r ih =>
    unfold State.writeElems
    dsimp only
    split
    · split
      · exact h.fields
      · exact ih h.localWrite
    · exact ih h

theorem State.good.countCopy {j} (h : τ.good) : (τ.countCopy j).1.good := by
  unfold State.countCopy
  dsimp only
  split
  · refine .ite_fst h (.ite_fst h.fields ?_)
    dsimp only
    exact h.onCore
  · exact h

theorem State.good.carryOut {j} (h : τ.good) : GoodSome Prod.fst (τ.carryOut j) := by
  unfold State.carryOut
  refine .ite .none ?_
  split
  rename_i s1 t f e
  have h1 : s1.good := by
    split at e
    · cases e
      exact h
    · exact h.writeElems.fst_eq e
  extract_lets s2 s3
  have h2 : s2.good := h1.foldl fun _ _ h => h.engineWrite
  have h3 : s3.good := h2.foldl fun _ _ h => h.letGo
  split
  · exact .some h3
  · exact .some h3.countCopy

theorem State.good.endCopy {cl j stop} (h : τ.good) : (τ.endCopy cl j stop).good := by
  unfold State.endCopy
  dsimp only
  split
  · exact h.fields.unqueueAll.onOrigin
  · exact (State.good.ite (h.fields.unqueueAll.onOrigin) ((h.fields.unqueueAll.onOrigin).onOrigin)).post
  · exact h.fields.unqueueAll.engineDone
  · exact h.fields.unqueueAll.engineLost.engineTrap

theorem State.good.advanceCopy {cl j} (h : τ.good) : (τ.advanceCopy cl j).1.good := h.placeCopy.sendUpdates

theorem State.good.advanceCopies {cl} (h : τ.good) : (τ.advanceCopies cl).good := by
  have hp {js} : (List.foldl (fun (acc : State × List CopyJob) j =>
      ((acc.1.advanceCopy cl j).1, acc.2 ++ [(acc.1.advanceCopy cl j).2])) (τ, []) js).1.good :=
    State.good.foldl_fst (x := (τ, [])) h fun _ _ h => h.advanceCopy
  exact hp.fields

theorem State.good.placeCopies {owner} (h : τ.good) : (τ.placeCopies owner).good := by
  have hp {cl : Nat} (υ : State) (js : List CopyJob) (h : υ.good) : (js.foldl (fun (acc : State × List CopyJob) j =>
      ((if j.owner = owner then acc.1.placeCopy cl j else (acc.1, j)).1,
        acc.2 ++ [(if j.owner = owner then acc.1.placeCopy cl j else (acc.1, j)).2])) (υ, [])).1.good :=
    State.good.foldl_fst (x := (υ, [])) h fun _ _ h => .ite_fst h.placeCopy h
  unfold State.placeCopies
  dsimp only
  refine State.good.foldl (h.foldl fun υ e h => ?_) fun υ e h => ?_
  · exact (hp υ e.2 h).fields
  · exact (hp υ e.2.cpq h).onCore

theorem State.good.firstEnd {cl stops} (h : τ.good) : GoodSome id (τ.firstEnd cl stops) := by
  unfold State.firstEnd
  refine .findSome fun j => ?_
  split
  · rename_i e
    exact .ite (.some (h.carryOut _ e).endCopy) .none
  · exact .none

theorem State.good.stepCopies {cl stops} (h : τ.good) : (τ.stepCopies cl stops).good := h.advanceCopies.getD h.advanceCopies.firstEnd

/-! ### NearMem -/

theorem State.good.nearExtent {o va n write} (h : τ.good) : (τ.nearExtent o va n write).1.good := by
  unfold State.nearExtent
  dsimp only
  split
  · split
    · rename_i e
      exact .ite_fst h (h.engineTranslate.fst_eq e)
    · exact h.engineTranslate
  · exact h.engineTranslate

theorem State.good.nearKeys {o ws aval} (h : τ.good) : (τ.nearKeys o ws aval).1.good := by
  unfold State.nearKeys
  dsimp only
  split
  · rename_i e
    split
    · split
      · rename_i e1
        split
        · exact h
        · exact (h.nearExtent.fst_eq e).nearExtent.fst_eq e1
      · rename_i e1
        exact (h.nearExtent.fst_eq e).nearExtent.fst_eq e1
      · rename_i e1
        exact (h.nearExtent.fst_eq e).nearExtent.fst_eq e1
    · exact h.nearExtent.fst_eq e
  · rename_i e
    exact h.nearExtent.fst_eq e
  · rename_i e
    exact h.nearExtent.fst_eq e

theorem State.good.holdLine {x : State × NearCmd × Bool} {line} (h : x.1.good) : (State.holdLine x line).1.good := by
  unfold State.holdLine
  split
  rename_i s n late
  refine .ite_fst h ?_
  split
  rename_i r m e
  have h : r.1.good := by
    split at e
    · split at e
      · rename_i e'
        cases e
        exact (h.engineAccess.fst_eq e').reserveLine
      · cases e
        exact h.engineAccess
    · cases e
      exact h.reserveLine
  split
  · exact h.fields
  · exact h
  · exact h

theorem State.good.placeNear {n} (h : τ.good) : (τ.placeNear n).1.good := by
  unfold State.placeNear
  refine .ite_fst h ?_
  exact State.good.foldl_fst (x := (τ, n, false)) h fun _ _ h => h.holdLine

theorem State.good.runNear {n} (h : τ.good) : (τ.runNear n).1.good := by
  unfold State.runNear
  dsimp only
  split
  · exact h
  · split
    · exact (h.foldl (fun _ _ h => .ite h.homeWrite.fields h.homeWrite)).fields
    · exact h.foldl fun _ _ h => .ite h.homeWrite.fields h.homeWrite

theorem State.good.countNear {n} (h : τ.good) : (τ.countNear n).good := by
  unfold State.countNear
  dsimp only
  split
  · exact .ite h (h.onCore)
  · exact h

theorem State.good.endNear {n} (h : τ.good) : (τ.endNear n).good := by
  unfold State.endNear
  dsimp only
  split
  · exact .ite (h.fields.unqueueAll.foldl (fun _ _ h => h.letGo)).countNear ((h.fields.unqueueAll.foldl (fun _ _ h =>
      h.letGo)).countNear.onOrigin)
  · exact (State.good.ite (h.fields.unqueueAll.foldl (fun _ _ h => h.letGo)) ((h.fields.unqueueAll.foldl (fun _ _ h =>
      h.letGo)).onOrigin)).post
  · exact (h.fields.unqueueAll.foldl (fun _ _ h => h.letGo)).engineDone
  · exact (h.fields.unqueueAll.foldl (fun _ _ h => h.letGo)).engineLost.engineTrap

theorem State.good.advanceNear {n} (h : τ.good) : (τ.advanceNear n).good := h.placeNear.runNear.fields

theorem State.good.stepNear {stack stops} (h : τ.good) : (τ.stepNear stack stops).good := by
  unfold State.stepNear
  dsimp only
  split
  · exact (h.foldl (fun _ _ h => h.advanceNear)).endNear
  · exact h.foldl fun _ _ h => h.advanceNear

/-! ### Streams -/

theorem State.good.unitPrepare {o ps} (h : τ.good) : (τ.unitPrepare o ps).1.good := by
  induction ps generalizing τ o with
  | nil => exact h
  | cons p r ih =>
    unfold State.unitPrepare
    split
    · rename_i e
      exact h.engineLocate.fst_eq e
    · rename_i e
      exact h.engineLocate.fst_eq e
    · rename_i e
      have h1 := h.engineLocate.fst_eq e
      refine .ite_fst h (.ite_fst ?_ ?_)
      · dsimp only
        split
        · exact h1.askHost
        · exact h1
      · split
        · rename_i e1
          exact (ih h1).fst_eq e1
        · exact ih h1

theorem State.good.unitPieces {o ps} (h : τ.good) : (τ.unitPieces o ps).1.good := by
  induction ps generalizing τ o with
  | nil => exact h
  | cons p r ih =>
    unfold State.unitPieces
    split
    · exact ih h.engineAccess.engineWrite
    · exact ih (.ite h.localWrite h)
    · exact ih h

theorem State.good.unitStore {o va bs} (h : τ.good) : (τ.unitStore o va bs).1.good := by
  unfold State.unitStore
  split
  · rename_i e
    exact h.unitPrepare.fst_eq e
  · rename_i e
    exact (h.unitPrepare.fst_eq e).unitPieces

theorem State.good.takeId {want die owner resv} (h : τ.good) : (τ.takeId want die owner resv).1.good := by
  unfold State.takeId
  split
  · exact h
  · split
    · rename_i e
      exact h.reserve.fst_eq e
    · rename_i e
      split
      · exact h.reserve.fst_eq e
      · split
        · exact h.reserve.fst_eq e
        · exact h

theorem State.good.clearSw {n} (h : τ.good) : (τ.clearSw n).good := h.settle.fields

theorem State.good.admitNew {n d} (h : τ.good) : (τ.admitNew n d).good := h.newId.setNode.onStream.clearSw

theorem State.good.admitChild {n d} (h : τ.good) : (τ.admitChild n d).good := h.setNode.onStream.clearSw

theorem State.good.unmapPage {n p} (h : τ.good) : (τ.unmapPage n p).good :=
  .ite h (.ite h.privateLeaf.setNode.unrefPage.onStream.setNode.unrefLeaf h.privateLeaf.setNode.unrefPage.onStream)

theorem State.good.beginMove {cl id page core ctx dest} (h : τ.good) : (τ.beginMove cl id page core ctx dest).good := by
  unfold State.beginMove
  dsimp only
  split
  · exact h.fields.setPage.onCore
  · exact h.fields.setPage.onOwner
  · exact h.fields.setPage

theorem State.good.placePages {n dest cl core ctx ps} (h : τ.good) : (τ.placePages n dest cl core ctx ps).1.good := by
  induction ps generalizing τ with
  | nil => exact h
  | cons p r ih =>
    unfold State.placePages
    split
    · exact ih h
    · split
      · exact ih h
      · split
        · exact h
        · exact ih h.fields.beginMove

theorem State.good.dropTable {n} (h : τ.good) : (τ.dropTable n).good := h.unrefRoot.leaveSpm.unreserve.onStream

theorem State.good.retire {n pruned} (h : τ.good) : (τ.retire n pruned).good :=
  (State.good.ite (State.good.ite h h.dropTable).unpool (.ite h h.dropTable)).fields.leaveDrive.onStream

theorem State.good.awaitAction {n} (h : τ.good) : (τ.awaitAction n).good := h.partDrive.onStream

theorem State.good.wakeStream {n p} (h : τ.good) : (τ.wakeStream n p).good := by
  unfold State.wakeStream
  split
  · exact .ite h.streamReady h.onStream
  · exact h.onStream

theorem State.good.onGroup {die n f} (h : τ.good) : (τ.onGroup die n f).good := h.fields

theorem State.good.openGroup {die n cfg addr owner slot epoch} (h : τ.good) : (τ.openGroup die n cfg addr owner slot epoch).good :=
  h.onGroup

theorem State.good.report {n p} (h : τ.good) : GoodSome id (τ.report n p) := .ite .none (.some h.onGroup)

theorem State.good.prune {die p r l} (h : τ.good) : (τ.prune die p r l).1.good := by
  unfold State.prune
  refine .ite_fst ?_ h
  split
  rename_i e
  dsimp only
  exact (h.placeDesc.fst_eq e).retire.onStream

theorem State.good.resolution {die n prune} (h : τ.good) : GoodSome Prod.fst (τ.resolution die n prune) := by
  unfold State.resolution
  dsimp only
  split
  · exact .none
  · split
    · rename_i e
      exact .some (h.unitStore.fst_eq e)
    · exact .none
    · rename_i e
      exact .ite .none (.some (((h.unitStore.fst_eq e).foldl_fst (fun _ _ h => h.prune)).fields.onGroup.foldl (fun _ _ h =>
        h.engineDone)))

theorem State.good.resolve {die n prune} (h : τ.good) : (τ.resolve die n prune).1.good := h.clockStop.getD_fst h.resolution

/-! ### SamplerOps -/

theorem State.good.onSampler {die f} (h : τ.good) : (τ.onSampler die f).good := h.fields

theorem State.good.setSmp {die k c} (h : τ.good) : (τ.setSmp die k c).good := h.onSampler

theorem State.good.freeSmp {die k c} (h : τ.good) : (τ.freeSmp die k c).good := h.onSampler

theorem State.good.smpFail {die k c cause tval} (h : τ.good) : (τ.smpFail die k c cause tval).good := h.freeSmp.engineLost.engineTrap

theorem State.good.takeSample {die i} (h : τ.good) : (τ.takeSample die i).good := by
  unfold State.takeSample
  dsimp only
  split
  · exact h.fields.setSmp.onSampler
  · exact h

theorem State.good.smpRead {o ps} (h : τ.good) : (τ.smpRead o ps).1.good := by
  induction ps generalizing τ o with
  | nil => exact h
  | cons p r ih =>
    have more {υ : State} {o' : EngineOp} {bs : List Byte} (h : υ.good) :
        (match State.smpRead υ o' r with
          | (s1, .ok rest l) => (s1, SmpGot.ok (bs ++ rest) l)
          | e => e).1.good := by
      split
      · rename_i e
        exact (ih h).fst_eq e
      · exact ih h
    unfold State.smpRead
    dsimp only
    split
    · rename_i e
      exact more (h.engineLocate.fst_eq e)
    · rename_i e
      exact h.engineLocate.fst_eq e
    · exact h
    · rename_i e
      split
      · exact h
      · split
        · exact h
        · exact more (h.engineLocate.fst_eq e)
    · rename_i e
      have h1 := h.engineLocate.fst_eq e
      split
      · rename_i e1
        exact more (h1.engineAccess.fst_eq e1)
      · exact h
      · rename_i e1
        exact h1.engineAccess.fst_eq e1

theorem State.good.smpWrite {o tag ps} (h : τ.good) : (τ.smpWrite o tag ps).1.good := by
  induction ps generalizing τ o with
  | nil => exact h
  | cons p r ih =>
    unfold State.smpWrite
    split
    · rename_i e
      exact h.engineLocate.fst_eq e
    · exact h
    · rename_i e
      dsimp only
      split
      · rename_i e1
        exact ih ((h.engineLocate.fst_eq e).engineAccess.fst_eq e1).engineWrite
      · exact h
      · rename_i e1
        exact (h.engineLocate.fst_eq e).engineAccess.fst_eq e1
    · exact h

theorem State.good.smpLoad {die k c} (h : τ.good) : (τ.smpLoad die k c).good := by
  unfold State.smpLoad
  dsimp only
  split
  · exact h.smpFail
  · split
    · exact h.fields.smpFail
    · split
      · rename_i e
        exact h.smpRead.fst_eq e
      · rename_i e
        exact (h.smpRead.fst_eq e).smpFail
      · rename_i e
        split
        · exact (h.smpRead.fst_eq e).smpFail
        · split
          · rename_i e1
            exact h.fields
          · rename_i e1
            exact ((h.smpRead.fst_eq e).smpRead.fst_eq e1).smpFail
          · rename_i e1
            exact ((h.smpRead.fst_eq e).smpRead.fst_eq e1).setSmp

theorem State.good.execSamplerDispatch {die} (h : τ.good) : GoodNext (execSamplerDispatch die τ) := by
  unfold Machine.execSamplerDispatch
  split
  · trivial
  · split
    · exact h
    · split
      · exact h
      · exact h.smpLoad

theorem State.good.execSamplerTimeout {die k} (h : τ.good) : GoodNext (execSamplerTimeout die k τ) := by
  unfold Machine.execSamplerTimeout
  split
  · trivial
  · split
    · exact h
    · exact .ite h.smpFail h

/-- What a body of a micro-instruction leaves is good. -/
def MicroGot.Good : MicroGot → Prop
  | .placed _ υ | .wait υ | .over_ υ => υ.good
  | .ok _ _ | .fail _ _ | .failFree _ => True

theorem State.good.micro {body} (h : τ.good) (hb : ∀ c m, (body c m).Good) : GoodNext (micro body τ) := by
  unfold Machine.micro
  dsimp only
  split
  · exact h.tick
  · split
    · exact h.smpFail.tick
    · rename_i c _ _
      have hm := hb { c with pc := c.pc + 1, ran := c.ran + 1, xfail := none } (τ.sampler τ.smp.1)
      split
      · exact h.fields.setSmp.tick
      · rename_i e
        rw [e] at hm
        exact (State.good.setSmp hm).tick
      · exact h.smpFail.tick
      · exact h.fields.smpFail.tick
      · rename_i e
        rw [e] at hm
        exact State.good.tick hm
      · rename_i e
        rw [e] at hm
        exact State.good.tick hm

theorem State.good.toReg {x v} (h : τ.good) : GoodNext (toReg x v τ) := h.micro fun _ _ => trivial

theorem State.good.execSmpMov {x} (h : τ.good) : GoodNext (execSmpMov x τ) := h.toReg

theorem State.good.execSmpLdi {x} (h : τ.good) : GoodNext (execSmpLdi x τ) := h.toReg

theorem State.good.execSmpAdd {x} (h : τ.good) : GoodNext (execSmpAdd x τ) := h.toReg

theorem State.good.execSmpSub {x} (h : τ.good) : GoodNext (execSmpSub x τ) := h.toReg

theorem State.good.execSmpMul {x} (h : τ.good) : GoodNext (execSmpMul x τ) := h.toReg

theorem State.good.execSmpFadd {x} (h : τ.good) : GoodNext (execSmpFadd x τ) := h.toReg

theorem State.good.execSmpFmul {x} (h : τ.good) : GoodNext (execSmpFmul x τ) := h.toReg

theorem State.good.execSmpFexp {x} (h : τ.good) : GoodNext (execSmpFexp x τ) := h.toReg

theorem State.good.execSmpFmax {x} (h : τ.good) : GoodNext (execSmpFmax x τ) := h.toReg

theorem State.good.execSmpCmp {x} (h : τ.good) : GoodNext (execSmpCmp x τ) := h.toReg

theorem State.good.microBranch {opc x go} (h : τ.good) : GoodNext (microBranch opc x go τ) := h.micro fun c _ => by
  split
  · trivial
  · split
    trivial

theorem State.good.execSmpBr {x} (h : τ.good) : GoodNext (execSmpBr x τ) := h.microBranch

theorem State.good.execSmpBrc {x} (h : τ.good) : GoodNext (execSmpBrc x τ) := h.microBranch

theorem State.good.execSmpLoop {x} (h : τ.good) : GoodNext (execSmpLoop x τ) := h.microBranch

theorem State.good.execSmpCld {x} (h : τ.good) : GoodNext (execSmpCld x τ) := h.micro fun _ _ => by
  extract_lets +onlyGivenNames f n first va es
  split
  · trivial
  · split
    · trivial
    · split
      · trivial
      · extract_lets
        split
        · exact h.fields
        · trivial
        · rename_i e
          exact (h.smpRead.fst_eq e).onSampler

theorem State.good.execSmpCst {x} (h : τ.good) : GoodNext (execSmpCst x τ) := h.micro fun _ _ => by
  extract_lets +onlyGivenNames n first va
  split
  · trivial
  · split
    · trivial
    · split
      · trivial
      · extract_lets
        split
        · exact h.fields
        · trivial
        · rename_i e
          exact h.smpWrite.fst_eq e

theorem State.good.execSmpCsortk {x} (h : τ.good) : GoodNext (execSmpCsortk x τ) := h.micro fun _ _ => by
  extract_lets
  split
  · trivial
  · trivial

theorem State.good.execSmpCscan {x} (h : τ.good) : GoodNext (execSmpCscan x τ) := h.micro fun _ _ => by
  extract_lets
  split
  · trivial
  · trivial

theorem State.good.execSmpCsel {x} (h : τ.good) : GoodNext (execSmpCsel x τ) := h.micro fun _ _ => by
  extract_lets
  split
  · trivial
  · trivial

theorem State.good.execSmpRng {x} (h : τ.good) : GoodNext (execSmpRng x τ) := h.micro fun _ _ => by split <;> trivial

theorem State.good.execSmpCtrset {x} (h : τ.good) : GoodNext (execSmpCtrset x τ) := h.micro fun _ _ => by
  extract_lets
  split
  · trivial
  · split
    · trivial
    · trivial
  · split
    · trivial
    · trivial

theorem State.good.execSmpCtrget {x} (h : τ.good) : GoodNext (execSmpCtrget x τ) := h.toReg

theorem State.good.execSmpEmit {x} (h : τ.good) : GoodNext (execSmpEmit x τ) := h.micro fun _ _ => by
  extract_lets
  split
  · trivial
  · split
    · trivial
    · trivial

theorem State.good.smpDone {die k c p} (h : τ.good) : (τ.smpDone die k c p).good := h.freeSmp.engineDone

theorem State.good.smpCommit {die k c o p} (h : τ.good) : (τ.smpCommit die k c o p).Good := by
  unfold State.smpCommit
  dsimp only
  split
  · split
    · trivial
    · split
      · exact h.fields
      · trivial
      · split
        · trivial
        · rename_i e _
          exact (h.smpWrite.fst_eq e).smpDone
  · split
    · exact h.smpDone
    · split
      · trivial
      · split
        · exact h.fields
        · trivial
        · split
          · trivial
          · rename_i e _
            exact (h.smpWrite.fst_eq e).placeDesc.onStream.smpDone

theorem State.good.execSmpHalt (x) (h : τ.good) : GoodNext (execSmpHalt x τ) := h.micro fun _ _ => by
  split
  · trivial
  · exact h.smpCommit

theorem State.good.execSmpFault {x} (h : τ.good) : GoodNext (execSmpFault x τ) := h.micro fun _ _ => trivial

theorem State.good.microStep {run die k} (hr : ∀ i υ, υ.good → GoodNext (run i υ)) (h : τ.good) :
    GoodNext (microStep run die k τ) := by
  unfold Machine.microStep
  split
  · exact h.tick
  · split
    · exact h.fields.smpFail.tick
    · split
      · exact hr _ _ h.fields
      · exact h.smpFail.tick

theorem State.good.microTurn {run die late} (hr : ∀ i υ, υ.good → GoodNext (run i υ)) (h : τ.good) :
    GoodNext (microTurn run die late τ) := by
  unfold Machine.microTurn
  split
  · exact h.onSampler.microStep hr
  · exact h.tick

/-! ### CaravanEvents -/

theorem State.good.dropEdge {slot} (h : τ.good) : (τ.dropEdge slot).good := h.onLaunch

theorem State.good.nodeReady {slot idx p} (h : τ.good) : GoodEither (τ.nodeReady slot idx p) := by
  unfold State.nodeReady
  dsimp only
  split
  · exact h.holdNode
  · exact h.graphUnreadable
  · exact h.graphError
  · split
    · exact h.holdNode
    · split
      · exact h
      · exact h.enterPool

theorem State.good.startGraph {slot p} (h : τ.good) : (τ.startGraph slot p).good := by
  unfold State.startGraph
  split
  · exact h.holdNode
  · exact h.graphUnreadable
  · exact h.graphError
  · exact h.onLaunch

theorem State.good.countEdge {slot e} (h : τ.good) : (τ.countEdge slot e).good := by
  unfold State.countEdge
  extract_lets ready
  have hr {p fin} (hf : ∀ υ, υ.good → (fin υ).good) : (ready τ p fin).good := by
    dsimp only [ready]
    split
    · rename_i e
      exact h.nodeReady.error_eq e
    · rename_i e
      exact hf _ (h.nodeReady.ok_eq e).dropEdge
  clear_value ready
  split
  · exact hr fun _ h => h
  · split
    · exact h.holdNode
    · exact h.graphUnreadable
    · exact hr fun _ h => h
    · dsimp only
      split
      · exact h.dropEdge
      · split
        · exact hr fun υ h => h.onLaunch
        · exact h.dropEdge.onLaunch

theorem State.good.execSuccessorReady {slot} (h : τ.good) : GoodNext (execSuccessorReady slot τ) := by
  unfold Machine.execSuccessorReady
  split
  · trivial
  · split
    · exact h
    · split
      · exact h.dropEdge
      · split
        · exact h.startGraph
        · exact h.countEdge

theorem State.good.execPoolOverflowTransfer {die} (h : τ.good) : GoodNext (execPoolOverflowTransfer die τ) := by
  unfold Machine.execPoolOverflowTransfer
  split
  · trivial
  · split
    · exact h
    · split
      · exact h.onCaravan.closeLone.onCaravan
      · exact h

theorem State.good.execGangClose {die idx} (h : τ.good) : GoodNext (execGangClose die idx τ) := by
  unfold Machine.execGangClose
  split
  · trivial
  · exact h.onCaravan

theorem State.good.execGangCompletion {die gslot} (h : τ.good) : GoodNext (execGangCompletion die gslot τ) := by
  unfold Machine.execGangCompletion
  split
  · trivial
  · split
    · exact h
    · exact .ite h h.completeInst

theorem State.good.writeGang {die slot p rows} (h : τ.good) : (τ.writeGang die slot p rows).good := by
  have hp : ({ τ with free := τ.free + 1 }.placeLines (freeAgent τ.free) (p + 1) (gangLines die slot)).1.good := h.fields.placeLines
  unfold State.writeGang
  extract_lets key s bytes drop
  exact State.good.map_cores (f := fun e => drop e.2) hp (fun _ h => h.fields) rfl

theorem Ctx.good_setReg {c : Ctx} {code v} (h : c.good = true) : (c.setReg code v).good = true := by
  unfold Ctx.setReg
  split
  · exact Ctx.good_fields h
  · exact Ctx.good_fields h

theorem State.good.nwaitDone {g w n} (h : τ.good) : (τ.nwaitDone g w n).good :=
  h.takeNode.onCtx fun _ h => Ctx.good_fields (Ctx.good_setReg (Ctx.good_setReg h))

theorem State.good.deliver {g n entry} (h : τ.good) : (τ.deliver g n entry).good := by
  unfold State.deliver
  dsimp only
  split
  · exact h.takeNode.onCtx
  · split
    · exact .ite h.nwaitDone (h.onCtx)
    · exact h.onCtx

theorem State.good.deliverAll {i gsize} (h : τ.good) : (τ.deliverAll i gsize).good := h.foldl fun _ _ h => h.deliver

theorem State.good.configNode {i} (h : τ.good) : (τ.configNode i).good := .ite h.configDomain h

theorem State.good.startMatrix {i} (h : τ.good) : (τ.startMatrix i).good := h.onEngine

theorem State.good.handInst {i gsize} (h : τ.good) : (τ.handInst i gsize).good := by
  unfold State.handInst
  split
  · exact h.configNode.deliverAll
  · exact h.startMatrix
  · exact h.takeSample
  · exact h

theorem State.good.dispatchCand {die c cores unit} (h : τ.good) : (τ.dispatchCand die c cores unit).good := by
  unfold State.dispatchCand
  dsimp only
  split
  · exact h.onCaravan
  · refine State.good.clockStop ?_
    refine State.good.handInst ?_
    refine State.good.onCaravan ?_
    split
    · refine State.good.writeGang ?_
      refine h.onCaravan.fields.foldl (fun _ _ h => ?_)
      split
      · exact h
      · exact (State.good.ite h.loadSpm h).unitStep.onStream
    · refine h.onCaravan.fields.foldl (fun _ _ h => ?_)
      split
      · exact h
      · exact (State.good.ite h.loadSpm h).unitStep.onStream

theorem State.good.holdMaps {cs} (h : τ.good) : (τ.holdMaps cs).good := by
  unfold State.holdMaps
  refine h.foldl (fun _ _ h => ?_)
  split
  · exact h.holdNode
  · exact h.graphUnreadable
  · exact h

theorem State.good.dispatchCores {die} (h : τ.good) : (τ.dispatchCores die).good := by
  unfold State.dispatchCores
  dsimp only
  split
  · exact h.onCaravan.holdMaps
  · split
    · exact h.onCaravan.dispatchCand
    · split
      · exact h.onCaravan.dispatchCand
      · exact h.onCaravan.holdMaps

theorem State.good.dispatchUnit {die cls} (h : τ.good) : (τ.dispatchUnit die cls).good := by
  unfold State.dispatchUnit
  dsimp only
  split
  · exact h.fields.dispatchCand
  · exact h

theorem State.good.execCaravanDispatch {die cls} (h : τ.good) : GoodNext (execCaravanDispatch die cls τ) := by
  unfold Machine.execCaravanDispatch
  split
  · trivial
  · split
    · exact h.dispatchCores
    · exact h.dispatchUnit

theorem State.good.evalRead {e va} (h : τ.good) : (τ.evalRead e va).1.good := by
  unfold State.evalRead
  split
  · dsimp only
    exact h.holdNode
  · exact h
  · refine .ite_fst h.askHost (.ite_fst h ?_)
    exact h.fields.settle.place326

theorem State.good.unpoolEntry {die e} (h : τ.good) : (τ.unpoolEntry die e).good := h.onCaravan

theorem State.good.evalRelease {die e succ p body} (h : τ.good) : (τ.evalRelease die e succ p body).good := by
  unfold State.evalRelease
  dsimp only
  split
  · exact h.unpoolEntry.releaseEdges
  · exact (State.good.ite h.unpoolEntry.unitStep.onStream.awaitAction h.unpoolEntry.unitStep.onStream.streamReady).clockStop

theorem State.good.evalWith {die e va f} (hf : ∀ υ v p, υ.good → (f υ v p).good) (h : τ.good) :
    (τ.evalWith die e va f).good := by
  unfold State.evalWith
  split
  · exact h.unpoolEntry
  · split
    · rename_i e
      exact h.evalRead.fst_eq e
    · rename_i e
      exact (h.evalRead.fst_eq e).graphUnreadable
    · rename_i e
      exact hf _ _ _ (h.evalRead.fst_eq e)

theorem State.good.execConditionEval {die} (h : τ.good) : GoodNext (execConditionEval die τ) := by
  unfold Machine.execConditionEval
  dsimp only
  split
  · trivial
  · split
    · exact h
    · exact h.evalWith fun _ _ _ h => h.evalRelease

theorem State.good.execSwitchEval {die} (h : τ.good) : GoodNext (execSwitchEval die τ) := by
  unfold Machine.execSwitchEval
  dsimp only
  split
  · trivial
  · split
    · exact h
    · exact h.evalWith fun _ _ _ h => h.evalRelease

theorem State.good.evalLoop {die e lim p} (h : τ.good) : (τ.evalLoop die e lim p).good :=
  .ite (State.good.ite (.ite h.onStream h.onLaunch) (State.good.ite h.onStream h.onLaunch).onLaunch).evalRelease (State.good.ite h (.ite
    h.onStream h.onLaunch)).evalRelease

theorem State.good.execLoopEval {die} (h : τ.good) : GoodNext (execLoopEval die τ) := by
  unfold Machine.execLoopEval
  dsimp only
  split
  · trivial
  · split
    · exact h
    · split
      · exact .ite h.evalLoop h.unpoolEntry
      · exact h.evalWith fun _ _ _ h => h.evalLoop

theorem State.good.startDrive {die e} (h : τ.good) : (τ.startDrive die e).good := by
  unfold State.startDrive
  dsimp only
  split
  · exact h.holdNode
  · exact h.graphUnreadable
  · exact h.graphError
  · split
    · exact h.holdNode
    · exact h.graphUnreadable
    · exact (h.unpoolEntry.foldl (fun _ _ h => h.closeLone)).fields

theorem State.good.onDrive {slot node f} (h : τ.good) : (τ.onDrive slot node f).good := h.fields

theorem State.good.driveHandle {v x} (h : τ.good) : (τ.driveHandle v x).good :=
  .ite h.onDrive.onDrive (State.good.ite h.unpool h).unitStep.onStream.onDrive.streamReady.onDrive.clockStop

theorem State.good.retryHeld {slot} (h : τ.good) : (τ.retryHeld slot).good :=
  h.foldl fun _ _ h => .ite h.streamReady h

theorem State.good.driveNext {slot} (h : τ.good) : (τ.driveNext slot).good := by
  unfold State.driveNext
  split
  · exact h.driveHandle
  · split
    · exact h.startDrive
    · exact h

theorem State.good.execStreamDrive {slot} (h : τ.good) : GoodNext (execStreamDrive slot τ) := by
  unfold Machine.execStreamDrive
  dsimp only
  split
  · trivial
  · split
    · exact h
    · exact .ite h.retryHeld h.retryHeld.driveNext

theorem State.good.endDrive {v} (h : τ.good) : (τ.endDrive v).good := h.fields.releaseEdges

theorem State.good.execStreamDriveComplete {slot} (h : τ.good) : GoodNext (execStreamDriveComplete slot τ) := by
  unfold Machine.execStreamDriveComplete
  dsimp only
  split
  · trivial
  · split
    · exact h
    · split
      · exact h.endDrive
      · split
        · rename_i e
          exact h.fields.unitStore.fst_eq e
        · rename_i e
          exact (h.fields.unitStore.fst_eq e).clockStop
        · rename_i e
          exact (h.fields.unitStore.fst_eq e).endDrive

theorem State.good.flushLaunch {slot} (h : τ.good) : (τ.flushLaunch slot).good := h.foldl fun _ _ h => h.flushStores

theorem State.good.endLaunch {slot code st elapsed comp irqen} (h : τ.good) : (τ.endLaunch slot code st elapsed comp irqen).good := by
  unfold State.endLaunch
  extract_lets s1 l s2 doms s3 rest s4
  have h1 : s1.good := h.undrive.onLaunch
  have h3 : s3.good := State.good.foldl (.ite h1 h1.fields) fun _ _ h => h.freeDomain
  have h4 : s4.good := h3.map_cores (f := fun e => rest e.2) (fun c h => .ite h.fields h) rfl
  exact .ite h4.send h4

theorem State.good.execLaunchEnd {slot} (h : τ.good) : GoodNext (execLaunchEnd slot τ) := by
  unfold Machine.execLaunchEnd
  dsimp only
  split
  · trivial
  · split
    · exact h
    · exact .ite h.flushLaunch h.flushLaunch.endLaunch

/-! ### Control -/

theorem noteBranch_good {t} : (noteBranch t).Good := modify_good fun _ h => h.trace

theorem goTo_good {t} : (goTo t).Good := trapIf_good.bind fun _ => noteBranch_good.bind fun _ => onMyCtx_good

theorem goIf_good {b t} : (goIf b t).Good := .ite goTo_good pure_good

/-- A branch's trace record leaves the registers of the context. -/
theorem State.ctx_trace (s : State) (g k kind : Nat) (p : Word) : (s.trace g k kind p).ctx g k = s.ctx g k := by
  unfold State.ctx
  rw [State.core_trace]
  rfl

theorem callTo_good {t n v} : (callTo t n v).Good := by
  refine trapIf_good.bind fun _ => get_bind_good fun τ h => trapIf_bind_goodAt fun hw => ?_
  refine State.good.setCtx h.trace (Ctx.good_wbase (h.trace.ctx _ _) ?_ rfl rfl rfl)
  dsimp only
  rw [State.trace_cur, State.ctx_trace]
  exact not_lt.1 (decide_eq_false_iff_not.1 hw)

theorem State.good.execBr {x} (h : τ.good) : GoodNext (execBr x τ) :=
  h.issue fun _ => goTo_good

theorem State.good.execBz {x} (h : τ.good) : GoodNext (execBz x τ) :=
  h.issue fun _ => src_good.bind fun _ => goIf_good

theorem State.good.execBcmp {x} (h : τ.good) : GoodNext (execBcmp x τ) :=
  h.issue fun _ => src_good.bind fun _ => .ite (pure_good.bind fun _ => goIf_good) (src_good.bind fun _ => goIf_good)

theorem State.good.execCall {x} (h : τ.good) : GoodNext (execCall x τ) :=
  h.issue fun _ => callTo_good

theorem State.good.execRet {x} (h : τ.good) : GoodNext (execRet x τ) :=
  h.issue fun _ => myCtx_good.bind fun _ => trapIf_good.bind fun _ => trapIf_good.bind fun _ => noteBranch_good.bind fun _ =>
    onMyCtx_good fun _ h => Ctx.good_wbase h ((Nat.sub_le _ _).trans (Ctx.good_iff.1 h).1) rfl rfl rfl

theorem State.good.execJr {x} (h : τ.good) : GoodNext (execJr x τ) :=
  h.issue fun _ => src_good.bind fun _ => goTo_good

theorem State.good.execCallr {x} (h : τ.good) : GoodNext (execCallr x τ) :=
  h.issue fun _ => src_good.bind fun _ => callTo_good

theorem State.good.execLoop {x} (h : τ.good) : GoodNext (execLoop x τ) :=
  h.issue fun _ => src_good.bind fun _ => dst_good.bind fun _ => goIf_good

theorem State.good.execBq {x} (h : τ.good) : GoodNext (execBq x τ) :=
  h.issue fun _ => src_good.bind fun _ => goIf_good

theorem State.good.execJtab {x} (h : τ.good) : GoodNext (execJtab x τ) :=
  h.issue fun _ => src_good.bind fun _ => src_good.bind fun _ => checkLocal_good.bind fun _ => trapIf_good.bind fun _ =>
    trapIf_good.bind fun _ => localDword_good.bind fun _ => trapIf_good.bind fun _ => localDword_good.bind fun _ => goTo_good

theorem State.good.execNop {x} (h : τ.good) : GoodNext (execNop x τ) :=
  h.issue fun _ => pure_good

/-! ### ContextEvents -/

theorem State.good.nwaitExpire {g w} (h : τ.good) : (τ.nwaitExpire g w).good :=
  h.onCtx fun _ h => Ctx.good_fields (Ctx.good_setReg (Ctx.good_setReg h))

theorem State.good.execNwaitTimeout {core} (h : τ.good) : GoodNext (execNwaitTimeout core τ) := by
  unfold Machine.execNwaitTimeout
  dsimp only
  split
  · trivial
  · split
    · exact h
    · split
      · exact h
      · split
        · exact h.nwaitExpire
        · exact h

theorem State.good.execYieldExpire {core ctx} (h : τ.good) : GoodNext (execYieldExpire core ctx τ) := by
  unfold Machine.execYieldExpire
  split
  · trivial
  · split
    · exact .ite (h.onCtx) h
    · exact h

theorem State.good.deadlock {g k q} (h : τ.good) : (τ.deadlock g k q).good := by
  unfold State.deadlock
  dsimp only
  split
  · exact h.takeTrap
  · exact h

theorem State.good.deadlockPair {g j k u v} (h : τ.good) : (τ.deadlockPair g j k u v).good := .ite h.deadlock.deadlock h.deadlock.utrap

theorem State.good.execQueueDeadlock {core qset} (h : τ.good) : GoodNext (execQueueDeadlock core qset τ) := by
  unfold Machine.execQueueDeadlock
  split
  · trivial
  · split
    · exact h
    · exact .ite h.deadlockPair h

theorem State.good.execRegcacheRefill {core ctx line} (h : τ.good) : GoodNext (execRegcacheRefill core ctx line τ) := by
  unfold Machine.execRegcacheRefill
  dsimp only
  split
  · trivial
  · split
    · exact h
    · split
      · exact h.imageTrap
      · exact h.onCore

/-- The state that a fetch gives is good. -/
def Fetched.Good : Fetched → Prop
  | .bytes _ υ => υ.good
  | .fault _ _ | .absent | .held => True

theorem State.good.icacheBlock {cl owner key va} (h : τ.good) : (τ.icacheBlock cl owner key va).Good := by
  unfold State.icacheBlock
  dsimp only
  split
  · split
    · trivial
    · exact h.fields
  · split
    · trivial
    · split
      · trivial
      · exact h.settle.cacheCode

theorem State.good.fetchBlock {g k va} (h : τ.good) : (τ.fetchBlock g k va).Good := by
  unfold State.fetchBlock
  extract_lets a
  split
  · trivial
  · split
    · trivial
    · split
      · trivial
      · split
        rename_i e
        split
        · trivial
        · trivial
        · split
          · trivial
          · exact (h.translate.snd_eq e).icacheBlock
  · trivial

theorem Fetched.Good.bytes_eq {x : Fetched} {bs} (h : x.Good) (e : x = .bytes bs τ) : τ.good := by
  subst e
  exact h

theorem State.good.execFetchBlockFill {core ctx block} (h : τ.good) : GoodNext (execFetchBlockFill core ctx block τ) := by
  unfold Machine.execFetchBlockFill
  split
  · trivial
  · dsimp only
    split
    · exact h
    · split
      · rename_i e
        exact (h.fetchBlock.bytes_eq e).onCtx
      · exact h

theorem State.good.park {g k} (h : τ.good) : (τ.park g k).good := h.unpop.unadmit.fields.onCtx

theorem State.good.takePreempt {g k} (h : τ.good) : GoodSome id (τ.takePreempt g k) := .ite (.some h.park) .none

theorem State.good.execPreemptPoint {core ctx} (h : τ.good) : GoodNext (execPreemptPoint core ctx τ) := by
  unfold Machine.execPreemptPoint
  split
  · trivial
  · exact h.getD h.takePreempt

theorem State.good.execAsyncTrapDelivery {core ctx} (h : τ.good) : GoodNext (execAsyncTrapDelivery core ctx τ) := by
  unfold Machine.execAsyncTrapDelivery
  split
  · trivial
  · split
    · exact h.getD h.deliverAsync
    · exact h

theorem Core.Good.release {c : Core} {slot share} (h : c.Good) : (c.release slot share).Good := by
  unfold Core.release
  dsimp only
  refine .ite ⟨?_, h.ctxs, h.tframes⟩ (.ite h h.fields)
  exact Table.forall_foldl_set (p := (Ctx.good · = true)) (fun k => Ctx.good_fields (Ctx.good_initial k)) _
    fun _ h => absurd h List.not_mem_nil

theorem Ctx.good_ungranted {c : Ctx} (h : c.good = true) : { c with grant := 0 }.good = true := by
  rw [Ctx.good_iff] at h ⊢
  obtain ⟨hw, hq, -, ht⟩ := h
  exact ⟨hw, hq, Nat.zero_le _, ht⟩

theorem State.good.saveCtx {g k} (h : τ.good) : (τ.saveCtx g k).good := by
  have hc {r} : (τ.onCtx g k fun x => { x with saved := true, grant := 0, coreRegs := r }).good :=
    h.onCtx fun _ h => Ctx.good_fields (Ctx.good_ungranted h)
  unfold State.saveCtx
  dsimp only
  split
  · exact hc.onCore fun _ h => h.release
  · exact hc

theorem State.good.execContextSaved {core ctx} (h : τ.good) : GoodNext (execContextSaved core ctx τ) := by
  unfold Machine.execContextSaved
  dsimp only
  split
  · trivial
  · exact .ite h.saveCtx h

theorem State.good.execPrectlSuspend {slot share} (h : τ.good) : GoodNext (execPrectlSuspend slot share τ) := by
  unfold Machine.execPrectlSuspend
  dsimp only
  split
  · trivial
  · exact .ite h.onLaunch h

theorem Core.Good.keepCount {c : Core} {k clk} (h : c.Good) : (c.keepCount k clk).Good := by
  unfold Core.keepCount
  dsimp only
  split
  · exact .ite (h.setCtx (Ctx.good_fields (h.ctx _)) _) h
  · exact h

theorem Core.Good.restore {c : Core} {x clk} (h : c.Good) : (c.restore x clk).Good := by
  unfold Core.restore
  split
  · exact h.fields
  · exact h

theorem Ctx.good_resumed {c : Ctx} {g waited clk} (h : c.good = true) (hg : g ≤ 128) : (c.resumed g waited clk).good = true := by
  refine Ctx.good_fields (c := if c.saved then c.relane g else c) ?_
  split
  · exact Ctx.good_fields (c := Ctx.regrant _ g) (Ctx.good_grant h hg rfl rfl rfl rfl)
  · exact h

theorem State.freeLanes_le (s : State) (g : Nat) : s.freeLanes g ≤ 128 := Nat.sub_le _ _

theorem State.good.resumeCtx {g k} (h : τ.good) : (τ.resumeCtx g k).good := by
  unfold State.resumeCtx
  extract_lets c lanes waited s1
  have h1 : s1.good := (h.onCore fun _ h => h.keepCount.restore.fields).onCtx fun _ h =>
    Ctx.good_resumed h ((min_le_right _ _).trans (τ.freeLanes_le g))
  exact .ite h (.ite h1.traceMask h1)

theorem State.good.unshelve {g} (h : τ.good) : (τ.unshelve g).good :=
  .ite ((h.foldl fun _ _ h => h.releaseTiles).onCore fun _ h => h.unshelved.fields) h

theorem State.good.execContextResume {core ctx} (h : τ.good) : GoodNext (execContextResume core ctx τ) := by
  unfold Machine.execContextResume
  dsimp only
  split
  · trivial
  · exact .ite (.ite h.unshelve h) (State.good.ite h.unshelve h).resumeCtx

theorem State.good.execPrectlResume {slot} (h : τ.good) : GoodNext (execPrectlResume slot τ) := by
  unfold Machine.execPrectlResume
  dsimp only
  split
  · trivial
  · split
    · exact h
    · exact h.onLaunch.foldl fun _ _ h => h.foldl (fun _ _ h => .ite h.resumeCtx h)

theorem State.good.discardShelf {l g} (h : τ.good) : (τ.discardShelf l g).good :=
  .ite ((h.foldl fun _ _ h => h.releaseTilesOn).onCore fun _ h => h.dropOther.fields).dropRank h

/-! ### Scalar -/

theorem binary_good {x f v} : (binary x f v).Good := src_good.bind fun _ => srcB_good.bind fun _ => dst_good

theorem binaryImm_good {x f v} : (binaryImm x f v).Good := src_good.bind fun _ => dst_good

theorem State.good.execAdd {x} (h : τ.good) : GoodNext (execAdd x τ) :=
  h.issue fun _ => binary_good

theorem State.good.execSub {x} (h : τ.good) : GoodNext (execSub x τ) :=
  h.issue fun _ => binary_good

theorem State.good.execMul {x} (h : τ.good) : GoodNext (execMul x τ) :=
  h.issue fun _ => binary_good

theorem State.good.execMulh {x} (h : τ.good) : GoodNext (execMulh x τ) :=
  h.issue fun _ => binary_good

theorem State.good.execDiv {x} (h : τ.good) : GoodNext (execDiv x τ) :=
  h.issue fun _ => binary_good

theorem State.good.execRem {x} (h : τ.good) : GoodNext (execRem x τ) :=
  h.issue fun _ => binary_good

theorem State.good.execAnd {x} (h : τ.good) : GoodNext (execAnd x τ) :=
  h.issue fun _ => binary_good

theorem State.good.execOr {x} (h : τ.good) : GoodNext (execOr x τ) :=
  h.issue fun _ => binary_good

theorem State.good.execXor {x} (h : τ.good) : GoodNext (execXor x τ) :=
  h.issue fun _ => binary_good

theorem State.good.execAndn {x} (h : τ.good) : GoodNext (execAndn x τ) :=
  h.issue fun _ => binary_good

theorem State.good.execShl {x} (h : τ.good) : GoodNext (execShl x τ) :=
  h.issue fun _ => binary_good

theorem State.good.execShr {x} (h : τ.good) : GoodNext (execShr x τ) :=
  h.issue fun _ => binary_good

theorem State.good.execRot {x} (h : τ.good) : GoodNext (execRot x τ) :=
  h.issue fun _ => binary_good

theorem State.good.execMin {x} (h : τ.good) : GoodNext (execMin x τ) :=
  h.issue fun _ => binary_good

theorem State.good.execMax {x} (h : τ.good) : GoodNext (execMax x τ) :=
  h.issue fun _ => binary_good

theorem State.good.execCmp {x} (h : τ.good) : GoodNext (execCmp x τ) :=
  h.issue fun _ => binary_good

theorem State.good.execAddi {x} (h : τ.good) : GoodNext (execAddi x τ) :=
  h.issue fun _ => binaryImm_good

theorem State.good.execAndi {x} (h : τ.good) : GoodNext (execAndi x τ) :=
  h.issue fun _ => binaryImm_good

theorem State.good.execOri {x} (h : τ.good) : GoodNext (execOri x τ) :=
  h.issue fun _ => binaryImm_good

theorem State.good.execXori {x} (h : τ.good) : GoodNext (execXori x τ) :=
  h.issue fun _ => binaryImm_good

theorem State.good.execShli {x} (h : τ.good) : GoodNext (execShli x τ) :=
  h.issue fun _ => binaryImm_good

theorem State.good.execShri {x} (h : τ.good) : GoodNext (execShri x τ) :=
  h.issue fun _ => binaryImm_good

theorem State.good.execCmpi {x} (h : τ.good) : GoodNext (execCmpi x τ) :=
  h.issue fun _ => binaryImm_good

theorem State.good.execLit {x} (h : τ.good) : GoodNext (execLit x τ) :=
  h.issue fun _ => dst_good

theorem State.good.execSel {x} (h : τ.good) : GoodNext (execSel x τ) :=
  h.issue fun _ => src_good.bind fun _ => src_good.bind fun _ => srcB_good.bind fun _ => dst_good

theorem State.good.execBcnt {x} (h : τ.good) : GoodNext (execBcnt x τ) :=
  h.issue fun _ => src_good.bind fun _ => dst_good

theorem State.good.execBfx {x} (h : τ.good) : GoodNext (execBfx x τ) :=
  h.issue fun _ => binary_good

theorem State.good.execBfi {x} (h : τ.good) : GoodNext (execBfi x τ) :=
  h.issue fun _ => src_good.bind fun _ => src_good.bind fun _ => srcB_good.bind fun _ => dst_good

theorem State.good.execAddr {x} (h : τ.good) : GoodNext (execAddr x τ) :=
  h.issue fun _ => binary_good

theorem State.good.execAdds {x} (h : τ.good) : GoodNext (execAdds x τ) :=
  h.issue fun _ => binary_good

theorem State.good.execFop {x} (h : τ.good) : GoodNext (execFop x τ) := by
  refine h.issue fun _ => ?_
  extract_lets -underBinder +onlyGivenNames ty fn j0
  have hj0 : ∀ a0, (j0 a0).Good := fun _ => src_good.bind fun _ => srcB_good.bind fun _ => (.ite (src_good.bind fun _ =>
    dst_good) (pure_good.bind fun _ => dst_good))
  exact .ite (drawsFor_good.bind fun _ => hj0 _) (pure_good.bind fun _ => hj0 _)

theorem State.good.execMad {x} (h : τ.good) : GoodNext (execMad x τ) :=
  h.issue fun _ => src_good.bind fun _ => srcB_good.bind fun _ => src_good.bind fun _ => dst_good

/-! ### LocalAccess -/

theorem State.good.execLdl {x} (h : τ.good) : GoodNext (execLdl x τ) :=
  h.issue fun _ => src_good.bind fun _ => checkScalar_good.bind fun _ => windowGet_good.bind fun _ => dst_good

theorem State.good.execStl {x} (h : τ.good) : GoodNext (execStl x τ) :=
  h.issue fun _ => src_good.bind fun _ => src_good.bind fun _ => checkScalar_good.bind fun _ =>
    (.ite (drawsFor_good.bind fun _ => windowPut_good) (pure_good.bind fun _ => windowPut_good))

theorem checkLanes_good {win store gather la lanes} : (checkLanes win store gather la lanes).Good := by
  unfold checkLanes
  extract_lets -underBinder +onlyGivenNames j0
  have hj0 : ∀ a0 a1, (j0 a0 a1).Good := by
    intro _ _
    unfold j0
    split
    · exact trap_good
    · exact pure_good
  exact (hj0 _ _).bind fun _ => trapIf_good.bind fun _ => myCore_good.bind fun _ => (hj0 _ _).bind fun _ => trapIf_good

theorem loadLanes_good {ty vd ls} : (loadLanes ty vd ls).Good := by
  induction ls with
  | nil => exact pure_good
  | cons l r ih => exact windowGet_good.bind fun _ => ih.bind fun _ => onMyCtx_good

theorem storeLanes_good {ty rm d j ls} : (storeLanes ty rm d j ls).Good := by
  induction ls generalizing j with
  | nil => exact pure_good
  | cons l r ih => exact windowPut_good.bind fun _ => ih

theorem State.good.execVldl {x} (h : τ.good) : GoodNext (execVldl x τ) :=
  h.issue fun _ => src_good.bind fun _ => checkLocal_good.bind fun _ => trapIf_good.bind fun _ => myCtx_good.bind fun _ =>
    checkLanes_good.bind fun _ => loadLanes_good

theorem storePlanes_good {x v la} : (storePlanes x v la).Good := by
  unfold storePlanes
  refine myCtx_good.bind fun _ => ?_
  extract_lets -underBinder +onlyGivenNames ty p elems n size
  refine trapIf_good.bind fun _ => trapIf_good.bind fun _ => myCore_good.bind fun _ => ?_
  split
  · exact trap_good
  · exact localPut_good

theorem State.good.execVstl {x} (h : τ.good) : GoodNext (execVstl x τ) :=
  h.issue fun _ => src_good.bind fun _ => checkLocal_good.bind fun _ => trapIf_good.bind fun _ =>
    (.ite storePlanes_good (myCtx_good.bind fun _ => checkLanes_good.bind fun _ => drawsFor_good.bind fun _ =>
    storeLanes_good))

theorem checkGather_good {v store ls} : (checkGather v store ls).Good := by
  induction ls with
  | nil => exact pure_good
  | cons l r ih => exact checkLocal_good.bind fun _ => trapIf_good.bind fun _ => checkLanes_good.bind fun _ => ih

theorem State.good.execVgathl {x} (h : τ.good) : GoodNext (execVgathl x τ) :=
  h.issue fun _ => src_good.bind fun _ => myCtx_good.bind fun _ => checkGather_good.bind fun _ => loadLanes_good

theorem State.good.execVscatl {x} (h : τ.good) : GoodNext (execVscatl x τ) :=
  h.issue fun _ => src_good.bind fun _ => myCtx_good.bind fun _ => checkGather_good.bind fun _ => drawsFor_good.bind fun _ =>
    storeLanes_good

theorem loadTx_good {win bw div vd ls} : (loadTx win bw div vd ls).Good := by
  induction ls with
  | nil => exact pure_good
  | cons l r ih => exact localGet_good.bind fun _ => ih.bind fun _ => onMyCtx_good

theorem State.good.execLdtx {x} (h : τ.good) : GoodNext (execLdtx x τ) := by
  refine h.issue fun _ => src_good.bind fun _ => ?_
  extract_lets -underBinder +onlyGivenNames la
  refine checkLocal_good.bind fun _ => ?_
  extract_lets -underBinder +onlyGivenNames win
  refine trapIf_good.bind fun _ => trapIf_good.bind fun _ => ?_
  extract_lets -underBinder +onlyGivenNames div bw n p0 b0 o
  refine trapIf_good.bind fun _ => myCtx_good.bind fun _ => myCore_good.bind fun _ => ?_
  extract_lets -underBinder +onlyGivenNames off act elems
  split
  · exact trap_good
  · exact loadTx_good

theorem State.good.execRrot {x} (h : τ.good) : GoodNext (execRrot x τ) :=
  h.issue fun _ => src_good.bind fun _ => srcB_good.bind fun _ => trapIf_good.bind fun _ => trapIf_good.bind fun _ => dst_good

theorem State.good.shrinkCway {g pick} (h : τ.good) : (τ.shrinkCway g pick).good := (h.foldl (fun _ _ h => .ite h.writeBack h)).onCore

theorem State.good.evictFrame {g f} (h : τ.good) : (τ.evictFrame g f).good := by
  unfold State.evictFrame
  dsimp only
  split
  · exact (h.foldl (fun _ _ h => h.settle)).setPage.onCore
  · exact h

theorem State.good.changeBank {g owner m bank pick} (h : τ.good) : (τ.changeBank g owner m bank pick).good :=
  .ite h (.ite (State.good.ite h.drainBar.evictFrame h.drainBar).onCore.zeroBank.shrinkCway (State.good.ite h.drainBar.evictFrame
    h.drainBar).onCore.zeroBank)

theorem State.good.execBankmode {x} (h : τ.good) : GoodNext (execBankmode x τ) := by
  refine h.issue fun _ => src_good.bind fun _ => src_good.bind fun _ => trapIf_good.bind fun _ => trapIf_good.bind fun _ => ?_
  extract_lets -underBinder +onlyGivenNames bank0 n m
  refine trapIf_good.bind fun _ => ?_
  extract_lets -underBinder +onlyGivenNames banks
  refine get_good.bind fun _ => ?_
  split
  extract_lets -underBinder +onlyGivenNames core
  refine trapIf_good.bind fun _ => ?_
  extract_lets -underBinder +onlyGivenNames j0
  have hj0 : (j0 ()).Good := by
    unfold j0
    extract_lets -underBinder +onlyGivenNames j0
    have hj0 : (j0 ()).Good := by
      unfold j0
      refine dst_good.bind fun _ => ?_
      extract_lets -underBinder +onlyGivenNames j0
      have hj0 : ∀ a0, (j0 a0).Good := fun _ => (modify_good fun _ h => h.foldl (fun _ _ h => h.changeBank))
      exact .ite (freeWord_good.bind fun _ => hj0 _) (pure_good.bind fun _ => hj0 _)
    exact .ite (wait_good.bind fun _ => hj0) hj0
  exact .ite (wait_good.bind fun _ => hj0) hj0

theorem State.good.retagFifo {g owner bank} (h : τ.good) : (τ.retagFifo g owner bank).good := .ite h h.zeroBank.onCore

theorem State.good.takeFifo {bank} (h : τ.good) : (takeFifo bank τ).good := h.retagFifo

theorem fifoBank_good {a} : (fifoBank a).Good :=
  trapIf_good.bind fun _ => trapIf_good.bind fun _ => myCore_good.bind fun _ => trapIf_good.bind fun _ => pure_good

theorem State.good.execFpush {x} (h : τ.good) : GoodNext (execFpush x τ) :=
  h.issue fun _ => src_good.bind fun _ => src_good.bind fun _ => fifoBank_good.bind fun _ => (modify_good fun _ h =>
    h.takeFifo).bind fun _ => myCore_good.bind fun _ =>
    (.ite (.ite dst_good wait_good) ((onMyCore_good).bind fun _ => dst_good))

theorem State.good.execFpop {x} (h : τ.good) : GoodNext (execFpop x τ) := by
  refine h.issue fun _ => src_good.bind fun _ => fifoBank_good.bind fun _ => (modify_good fun _ h =>
    h.takeFifo).bind fun _ => myCore_good.bind fun _ => ?_
  split
  · exact .ite (dst_good.bind fun _ => dstNext_good) (waitAnd_good fun _ h => h.takeFifo)
  · exact get_good.bind fun _ => trapIf_good.bind fun _ => (onMyCore_good).bind fun _ => dst_good.bind fun _ =>
      .ite dstNext_good pure_good

theorem checkPosted_good {a n aval} : (checkPosted a n aval).Good := trapIf_good.bind fun _ => trapIf_good

theorem State.good.execRstl {x} (h : τ.good) : GoodNext (execRstl x τ) :=
  h.issue fun _ => src_good.bind fun _ => srcB_good.bind fun _ => checkPosted_good.bind fun _ => admitPosted_good.bind fun _ =>
    postWrite_good.bind fun _ => dst_good

theorem State.good.execRadd {x} (h : τ.good) : GoodNext (execRadd x τ) :=
  h.issue fun _ => src_good.bind fun _ => srcB_good.bind fun _ => checkPosted_good.bind fun _ => admitPosted_good.bind fun _ =>
    myCore_good.bind fun _ => (onMyCore_good).bind fun _ => postWrite_good.bind fun _ => dst_good

/-! ### Matrix -/

theorem trapOn_good {r} : (trapOn r).Good := by
  unfold trapOn
  split
  · exact trap_good
  · exact pure_good

theorem myEngine_good : myEngine.Good := get_good.bind fun _ => pure_good

theorem onMyEngine_good {f} : (onMyEngine f).Good := modify_good fun _ h => h.onEngine

theorem needRoom_good {load} : (needRoom load).Good := myEngine_good.bind fun _ => .ite pure_good wait_good

theorem offer_good {kind} : (offer kind).Good := by
  unfold offer
  refine get_good.bind fun _ => ?_
  split
  exact onMyEngine_good

theorem needTile_good {t aval} : (needTile t aval).Good := by
  unfold needTile
  refine myEngine_good.bind fun _ => me_good.bind fun _ => ?_
  split
  exact myCore_good.bind fun _ => trapIf_good

theorem keeperOf_good {cl slot} : (keeperOf cl slot).Good :=
  get_good.bind fun _ => .ite (freeWord_good.bind fun _ => pure_good) pure_good

/-! ### CopyInstr -/

theorem srcQuad_good {a} : (srcQuad a).Good :=
  src_good.bind fun _ => src_good.bind fun _ => src_good.bind fun _ => src_good.bind fun _ => pure_good

theorem State.good.execCpq {x} (h : τ.good) : GoodNext (execCpq x τ) := by
  refine h.issue fun _ => srcQuad_good.bind fun _ => trapOn_good.bind fun _ => myCore_good.bind fun _ =>
    .ite (.ite dst_good wait_good) ?_
  refine release_good.bind fun _ => freshId_good.bind fun _ => M.Good.bind (modify_good fun _ h => ?_) fun _ => dst_good
  dsimp only
  exact h.numberCopy.placeCopy.onCore.onCtx

theorem State.good.execCpseal {x} (h : τ.good) : GoodNext (execCpseal x τ) :=
  h.issue fun _ => myCtx_good.bind fun _ => .ite wait_good ((onMyCtx_good).bind fun _ => dst_good)

theorem State.good.execCpwait {x} (h : τ.good) : GoodNext (execCpwait x τ) :=
  h.issue fun _ => src_good.bind fun _ => myCtx_good.bind fun _ => .ite wait_good (.ite dst_good (acquire_good.bind fun _ =>
    dst_good))

theorem State.good.execCpstat {x} (h : τ.good) : GoodNext (execCpstat x τ) :=
  h.issue fun _ => myCore_good.bind fun _ => myCtx_good.bind fun _ => dst_good

theorem issueNear_good {ws wkey xkey p pc} : (issueNear ws wkey xkey p pc).Good := by
  refine freshId_good.bind fun _ => myCtx_good.bind fun _ => ?_
  extract_lets num
  refine M.Good.bind onMyCtx_good fun _ => M.Good.bind (modify_good fun _ h => ?_) fun _ => pure_good
  dsimp only
  exact h.placeNear.fields

theorem State.good.execNmc {x} (h : τ.good) : GoodNext (execNmc x τ) := by
  refine h.issue fun _ => srcQuad_good.bind fun _ => trapOn_good.bind fun _ => ?_
  refine get_bind_good fun s h => ?_
  split
  · exact fun _ h => h.nearKeys
  · exact trivial
  · rename_i e
    exact (set_goodAt (h.nearKeys.fst_eq e)).bind fun _ => myCtx_good.bind fun _ =>
      (.ite wait_good (release_good.bind fun _ => issueNear_good.bind fun _ => dst_good))

theorem State.good.execNmfence {x} (h : τ.good) : GoodNext (execNmfence x τ) :=
  h.issue fun _ => myCtx_good.bind fun _ => .ite wait_good (.ite dst_good (acquire_good.bind fun _ => dst_good))

/-! ### Debug -/

theorem onMyTrace_good {f} : (onMyTrace f).Good := onMyCore_good

theorem State.good.execTrace {x} (h : τ.good) : GoodNext (execTrace x τ) := by
  refine h.issue fun _ => src_good.bind fun _ => me_good.bind fun _ => ?_
  split
  refine myCore_good.bind fun _ => ?_
  extract_lets -underBinder +onlyGivenNames t
  split
  · exact modify_good fun _ h => h.trace
  · exact trapIf_good.bind fun _ => onMyTrace_good.bind fun _ => dst_good
  · exact dst_good
  · exact trapIf_good.bind fun _ => dst_good

theorem State.good.mark {g k owner a} (h : τ.good) : (τ.mark g k owner a).good := .ite h h.onCore

theorem State.good.execTrig {x} (h : τ.good) : GoodNext (execTrig x τ) := by
  refine h.issue fun _ => src_good.bind fun _ => me_good.bind fun _ => ?_
  split
  split
  · exact modify_good fun _ h => h.mark
  · exact onMyTrace_good
  · exact modify_good fun _ h => h.foldl fun _ _ h => h.mark

theorem watchObject_good {a sig v} : (watchObject a sig v).Good := by
  unfold watchObject
  split
  · refine locateAtomic_good.bind fun _ => ?_
    split
    · exact pure_good
    · exact get_good.bind fun _ => pure_good
  · exact barAt_good.bind fun _ => (modify_good fun _ h => h.retag).bind fun _ => pure_good

theorem State.good.execWatch {x} (h : τ.good) : GoodNext (execWatch x τ) := by
  refine h.issue fun _ => src_good.bind fun _ => me_good.bind fun _ => ?_
  split
  exact .ite (src_good.bind fun _ => trapIf_good.bind fun _ => watchObject_good.bind fun _ => get_good.bind fun _ =>
    (.ite dst_good (onMyTrace_good.bind fun _ => dst_good))) (trapIf_good.bind fun _ => myCore_good.bind fun _ =>
    (.ite (onMyTrace_good.bind fun _ => dst_good) dst_good))

/-! ### EngineEvents -/

theorem State.good.execMacroOpAccept {cluster} (h : τ.good) : GoodNext (execMacroOpAccept cluster τ) := by
  unfold Machine.execMacroOpAccept
  split
  · exact h.onEngine
  · trivial

theorem State.good.execMloadbComplete {cluster} (h : τ.good) : GoodNext (execMloadbComplete cluster τ) := by
  unfold Machine.execMloadbComplete
  split
  · exact h.onEngine
  · trivial

theorem State.good.engineGet {g owner off n} (h : τ.good) : (τ.engineGet g owner off n).1.good := h.foldl fun _ _ h => h.retag

theorem State.good.enginePut {g owner off bs} (h : τ.good) : (τ.enginePut g owner off bs).good :=
  (h.foldl (fun _ _ h => h.retag)).localWrite

theorem State.good.panelRows {g owner pan j rows} (h : τ.good) : (τ.panelRows g owner pan j rows).1.good :=
  h.foldl_fst (fun _ _ h => h.engineGet)

theorem State.good.addSlab {cl t buf g owner pan j r} (h : τ.good) : (τ.addSlab cl t buf g owner pan j r).good := h.panelRows.onEngine

theorem State.good.runMacc {cl} (h : τ.good) : (τ.runMacc cl).good := by
  unfold State.runMacc
  dsimp only
  split
  · exact h
  · split
    · split
      · exact h
      · split
        · exact h.onEngine
        · split
          · exact h.onEngine
          · exact h.onEngine.addSlab.onEngine
    · exact h

theorem State.good.execMaccExecute {cluster} (h : τ.good) : GoodNext (execMaccExecute cluster τ) := by
  unfold Machine.execMaccExecute
  split
  · exact h.runMacc
  · trivial

theorem State.good.execScaleFifoTimeout {cluster} (h : τ.good) : GoodNext (execScaleFifoTimeout cluster τ) := by
  unfold Machine.execScaleFifoTimeout
  split
  · exact h.onEngine
  · trivial

theorem State.good.writeRecords {cl t g owner pan j} (h : τ.good) : (τ.writeRecords cl t g owner pan j).good :=
  h.foldl fun _ _ h => h.enginePut

theorem State.good.writeRows {cl t g owner ty la stride} (h : τ.good) : (τ.writeRows cl t g owner ty la stride).good :=
  h.foldl fun _ _ h => h.enginePut

theorem State.good.runMread {cl} (h : τ.good) : (τ.runMread cl).good := by
  unfold State.runMread
  split
  · exact h
  · split
    · exact h.writeRecords.onEngine
    · exact h.writeRows.onEngine
    · exact h

theorem State.good.execMreadExecute {cluster} (h : τ.good) : GoodNext (execMreadExecute cluster τ) := by
  unfold Machine.execMreadExecute
  split
  · exact h.runMread
  · trivial

theorem State.good.runMsoft {cl} (h : τ.good) : (τ.runMsoft cl).good := by
  unfold State.runMsoft
  dsimp only
  split
  · exact h
  · split
    · exact (h.foldl (fun _ _ h => h.enginePut.enginePut)).onEngine
    · exact h

theorem State.good.execMsoftExecute {cluster} (h : τ.good) : GoodNext (execMsoftExecute cluster τ) := by
  unfold Machine.execMsoftExecute
  split
  · exact h.runMsoft
  · trivial

theorem State.good.execMtileMacroOp {cluster} (h : τ.good) : GoodNext (execMtileMacroOp cluster τ) := by
  unfold Machine.execMtileMacroOp
  split
  · exact h.onEngine
  · trivial

theorem State.good.execIssueGovernorToken (h : τ.good) : GoodNext (execIssueGovernorToken τ) := h.fields

theorem State.good.seqLine {o va} (h : τ.good) : (τ.seqLine o va).1.good := by
  unfold State.seqLine
  extract_lets loc base bad
  have hb : base.good := by
    clear_value loc
    unfold base
    split
    · exact .ite h h.settle
    · exact h
  clear_value base
  split
  · rename_i e
    exact (hb.fields.engineRead.fst_eq e).fields
  · rename_i e
    exact (hb.fields.engineRead.fst_eq e).fields

/-- What a sequencer's read leaves is good, whether it gives the bytes or stops. -/
def GoodRead {α β : Type} : Except (State × α) (State × β) → Prop
  | .ok x => x.1.good
  | .error x => x.1.good

theorem GoodRead.ok_eq {α β : Type} {x : Except (State × α) (State × β)} {b : β} (h : GoodRead x) (e : x = .ok (τ, b)) : τ.good := by
  subst e
  exact h

theorem GoodRead.error_eq {α β : Type} {x : Except (State × α) (State × β)} {a : α} (h : GoodRead x) (e : x = .error (τ, a)) :
    τ.good := by
  subst e
  exact h

theorem State.good.seqRead {s0 o n va} (h : τ.good) (h0 : s0.good) : GoodRead (State.seqRead s0 o n va τ) := by
  induction n generalizing τ va with
  | zero => exact h
  | succ n ih =>
    unfold State.seqRead
    split
    · rename_i e
      have hr := ih (va := (va + 64) % 2 ^ 64) (h.seqLine.fst_eq e)
      split
      · rename_i e1
        exact hr.ok_eq e1
      · rename_i e1
        exact hr.error_eq e1
    · exact h0.engineRead
    · rename_i e
      exact h.seqLine.fst_eq e

theorem State.good.loseNode {cl n} (h : τ.good) : (τ.loseNode cl n).good := h.onEngine.engineLost

theorem State.good.failNode {cl n cause} (h : τ.good) : (τ.failNode cl n cause).good := h.loseNode.engineTrap

theorem State.good.endNode {cl n} (h : τ.good) : (τ.endNode cl n).good := h.onEngine.engineDone

theorem State.good.beginNode {cl n} (h : τ.good) : (τ.beginNode cl n).good := by
  unfold State.beginNode
  dsimp only
  split
  · exact h.failNode
  · split
    · exact h
    · exact h.onEngine

theorem State.good.seqChecks {cl slot bad} (h : τ.good) : (τ.seqChecks cl slot bad).good :=
  h.foldl fun _ _ h => h.fields.machineCheck

theorem State.good.nodeSlab {cl n t} (h : τ.good) : (τ.nodeSlab cl n t).good := by
  unfold State.nodeSlab
  dsimp only
  split
  · exact h.onEngine
  · split
    · rename_i e
      exact (h.seqRead h).error_eq e
    · rename_i e
      exact ((h.seqRead h).error_eq e).failNode
    · rename_i e
      have h1 := (h.seqRead h).ok_eq e
      split
      · rename_i e1
        exact (h1.seqRead h).error_eq e1
      · rename_i e1
        exact ((h1.seqRead h).error_eq e1).failNode
      · rename_i e1
        have h2 := (h1.seqRead h).ok_eq e1
        split
        · exact h2.failNode
        · split
          · exact h2.failNode
          · exact h2.seqChecks.onEngine.addSlab

theorem State.good.nodeRead {cl n t} (h : τ.good) : (τ.nodeRead cl n t).good := by
  unfold State.nodeRead
  dsimp only
  split
  · split
    · exact h.failNode
    · exact h.writeRecords.endNode
  · split
    · exact h.failNode
    · exact h.writeRows.endNode

theorem State.good.nodeTail {cl n t} (h : τ.good) : (τ.nodeTail cl n t).good :=
  .ite h.nodeRead (.ite (.ite (.ite h.endNode (.ite h h.loseNode)) h.onEngine) (.ite (.ite h h.loseNode)
    h.onEngine.nodeRead))

theorem State.good.runNode {cl} (h : τ.good) : (τ.runNode cl).good := by
  unfold State.runNode
  dsimp only
  split
  · exact h
  · split
    · split
      · exact h.onEngine
      · exact h
    · split
      · exact h.onEngine
      · split
        · exact h.beginNode
        · exact .ite h.nodeSlab h.nodeTail

theorem State.good.execMatrixNodeRun {cluster} (h : τ.good) : GoodNext (execMatrixNodeRun cluster τ) := by
  unfold Machine.execMatrixNodeRun
  split
  · exact h.runNode
  · trivial

theorem State.good.execSplitkContribution {src} (h : τ.good) : GoodNext (execSplitkContribution src τ) := by
  unfold Machine.execSplitkContribution
  dsimp only
  split
  · split
    · exact h
    · split
      · exact h
      · split
        · exact h.onEngine.onEngine
        · exact h
  · trivial

theorem State.good.takeCopy {g} (h : τ.good) : (τ.takeCopy g).good := by
  unfold State.takeCopy
  dsimp only
  split
  · exact h
  · exact (h.onCore).fields

theorem State.good.execCopyEngineTake {core} (h : τ.good) : GoodNext (execCopyEngineTake core τ) := by
  unfold Machine.execCopyEngineTake
  dsimp only
  split
  · exact .ite h.takeCopy.fields h
  · trivial

theorem State.good.issueCopyNode {cl i} (h : τ.good) : (τ.issueCopyNode cl i).good := by
  unfold State.issueCopyNode
  dsimp only
  split
  · exact h.engineLost.engineTrap
  · exact h.fields.numberCopy.placeCopy.fields

theorem State.good.issueNearNode {st i} (h : τ.good) : (τ.issueNearNode st i).good := by
  unfold State.issueNearNode
  dsimp only
  split
  · exact h.engineLost.engineTrap
  · split
    · rename_i e
      exact h.nearKeys.fst_eq e
    · rename_i e
      exact (h.nearKeys.fst_eq e).engineLost.engineTrap
    · rename_i e
      exact (h.nearKeys.fst_eq e).fields.placeNear.fields

theorem State.good.execCopyNodeDispatch {unit} (h : τ.good) : GoodNext (execCopyNodeDispatch unit τ) := by
  unfold Machine.execCopyNodeDispatch
  split
  · split
    · trivial
    · split
      · exact h.issueCopyNode
      · exact h
  · split
    · trivial
    · split
      · exact h.issueNearNode
      · exact h

theorem State.good.execCopyComplete {cluster} (h : τ.good) : GoodNext (execCopyComplete cluster τ) := by
  unfold Machine.execCopyComplete
  split
  · exact h.stepCopies
  · trivial

theorem State.good.execCopyStop {cluster} (h : τ.good) : GoodNext (execCopyStop cluster τ) := by
  unfold Machine.execCopyStop
  split
  · exact h.stepCopies
  · trivial

theorem Ctx.good_completeBatch {c : Ctx} (h : c.good = true) : c.completeBatch.good = true := by
  unfold Ctx.completeBatch
  split
  · exact h
  · exact Ctx.good_fields h

theorem State.good.execBatchComplete {core ctx} (h : τ.good) : GoodNext (execBatchComplete core ctx τ) := by
  unfold Machine.execBatchComplete
  dsimp only
  split
  · trivial
  · split
    · exact h.onCtx fun _ => Ctx.good_completeBatch
    · exact .ite (h.onCore fun _ hc => hc.setOther (Ctx.good_completeBatch ((h.core core).otherCtx ctx)) ctx) h

theorem State.good.applyFirst {g want} (h : τ.good) : (τ.applyFirst g want).good := by
  unfold State.applyFirst
  split
  · exact h.applyPosted
  · exact h

theorem State.good.execDestArithApply {core} (h : τ.good) : GoodNext (execDestArithApply core τ) := by
  unfold Machine.execDestArithApply
  split
  · exact h.applyFirst
  · trivial

theorem State.good.execPostedWriteApply {core} (h : τ.good) : GoodNext (execPostedWriteApply core τ) := by
  unfold Machine.execPostedWriteApply
  split
  · exact h.applyFirst
  · trivial

theorem State.good.execPostedWriteAck {core entry} (h : τ.good) : GoodNext (execPostedWriteAck core entry τ) := by
  unfold Machine.execPostedWriteAck
  split
  · exact h.ackEntry
  · trivial

theorem State.good.execPostedWriteRefusal {core entry} (h : τ.good) : GoodNext (execPostedWriteRefusal core entry τ) := by
  unfold Machine.execPostedWriteRefusal
  split
  · exact h.refuseEntry
  · trivial

theorem State.good.execNmcExecute {stack} (h : τ.good) : GoodNext (execNmcExecute stack τ) := by
  unfold Machine.execNmcExecute
  split
  · trivial
  · exact h.stepNear

theorem State.good.execNmcStop {stack} (h : τ.good) : GoodNext (execNmcStop stack τ) := by
  unfold Machine.execNmcStop
  split
  · trivial
  · exact h.stepNear

theorem State.good.execBarrierUpdate {core} (h : τ.good) : GoodNext (execBarrierUpdate core τ) := by
  unfold Machine.execBarrierUpdate
  split
  · split
    · exact h
    · exact h.updateBar.tick
  · trivial

theorem State.good.execSyncBarrierComplete {dom} (h : τ.good) : GoodNext (execSyncBarrierComplete dom τ) := by
  unfold Machine.execSyncBarrierComplete
  split
  · trivial
  · exact h.barrierComplete

theorem State.good.execExchangeSlotBegin {dom} (h : τ.good) : GoodNext (execExchangeSlotBegin dom τ) := by
  unfold Machine.execExchangeSlotBegin
  split
  · trivial
  · exact h

theorem State.good.execExchangePhaseEnd {dom} (h : τ.good) : GoodNext (execExchangePhaseEnd dom τ) := by
  unfold Machine.execExchangePhaseEnd
  split
  · trivial
  · exact h.phaseEnd

theorem State.good.execXsendDeliver {dom} (h : τ.good) : GoodNext (execXsendDeliver dom τ) := by
  unfold Machine.execXsendDeliver
  split
  · trivial
  · split
    · exact h
    · exact h.deliverSend

/-! ### Sirocco -/

theorem State.good.setSirocco {die x} (h : τ.good) : (τ.setSirocco die x).good := h.fields

theorem State.good.storeRaw {owner pa bs} (h : τ.good) : (τ.storeRaw owner pa bs).good := (h.foldl (fun _ _ h => h.settle)).fields

theorem State.good.closeFrame {die} (h : τ.good) : (τ.closeFrame die).good :=
  .ite h (.ite h.setSirocco (.ite h.setSirocco h.setSirocco.storeRaw))

theorem State.good.frameRecord {die owner r} (h : τ.good) : (τ.frameRecord die owner r).good := (State.good.ite h h.closeFrame).setSirocco

theorem State.good.copyRecord {g} (h : τ.good) : (τ.copyRecord g).good := by
  unfold State.copyRecord
  dsimp only
  split
  · exact h
  · split
    · exact (h.onCore).frameRecord
    · exact h
    · exact (h.onCore).frameRecord

theorem State.good.execSiroccoRecordCopy {core} (h : τ.good) : GoodNext (execSiroccoRecordCopy core τ) := by
  unfold Machine.execSiroccoRecordCopy
  split
  · trivial
  · exact h.copyRecord

theorem State.good.execSiroccoFrameClose {die} (h : τ.good) : GoodNext (execSiroccoFrameClose die τ) := by
  unfold Machine.execSiroccoFrameClose
  split
  · trivial
  · exact .ite h.closeFrame h

theorem State.good.drainTrace {cl} (h : τ.good) : (τ.drainTrace cl).good := by
  unfold State.drainTrace
  dsimp only
  exact .ite (h.foldl (fun _ _ h => h.foldl (fun _ _ h => h.copyRecord))).closeFrame (h.foldl (fun _ _ h =>
    h.foldl (fun _ _ h => h.copyRecord)))

theorem State.good.execLinkMapSnapshot (h : τ.good) : GoodNext (execLinkMapSnapshot τ) := by
  unfold Machine.execLinkMapSnapshot
  dsimp only
  split
  · exact h
  · split
    · exact h.fields
    · exact h.fields.fields.storeRaw

/-! ### PowerEvents -/

theorem State.good.flushCore {g} (h : τ.good) : (τ.flushCore g).good :=
  (h.foldl (fun _ _ h => h.writeBack)).foldl (fun _ _ h => h.acceptEntry.onCore)

theorem Core.Good.gatedOff {c : Core} (h : c.Good) : c.gatedOff.Good :=
  ⟨fun _ h => absurd h List.not_mem_nil, fun _ h => absurd h List.not_mem_nil, h.tframes⟩

theorem State.good.gateCluster {cl} (h : τ.good) : (τ.gateCluster cl).good :=
  ((h.drainTrace.foldl fun _ _ h => h.flushCore).foldl fun _ _ h => h.onCore fun _ h => h.gatedOff).fields

theorem State.good.gateAll (h : τ.good) : (τ.gateAll).good :=
  h.foldl fun _ _ h => .ite h h.gateCluster

theorem State.good.dispatchFirst {cl} (h : τ.good) : (τ.dispatchFirst cl).good := by
  unfold State.dispatchFirst
  refine h.getD fun υ e => ?_
  obtain ⟨cls, -, rfl⟩ := List.mem_map.1 (List.mem_of_find?_eq_some e)
  exact .ite h.dispatchCores h.dispatchUnit

theorem State.good.cgateRequest {cl gate} (h : τ.good) : (τ.cgateRequest cl gate).good :=
  .ite (.ite h (.ite h.fields (.ite h.dispatchFirst.fields (.ite h.fields h.fields.gateCluster)))) h.fields

theorem State.good.execCgateRequest {cluster gate} (h : τ.good) : GoodNext (execCgateRequest cluster gate τ) := by
  unfold Machine.execCgateRequest
  split
  · trivial
  · exact h.cgateRequest

theorem State.good.execClusterUngateDone {cluster} (h : τ.good) : GoodNext (execClusterUngateDone cluster τ) := by
  unfold Machine.execClusterUngateDone
  dsimp only
  split
  · trivial
  · split
    · exact h
    · exact h.fields

theorem State.good.askPower {target} (h : τ.good) : (τ.askPower target).good := .ite h (.ite h.fields h.fields)

theorem State.good.setTarget {target} (h : τ.good) : (τ.setTarget target).good := .ite (.ite h.fields.askPower h) h.askPower

theorem State.good.execPwrctlTarget {target} (h : τ.good) : GoodNext (execPwrctlTarget target τ) := h.setTarget

theorem State.good.execPowerTransitionDone (h : τ.good) : GoodNext (execPowerTransitionDone τ) := by
  unfold Machine.execPowerTransitionDone
  dsimp only
  split
  · exact h
  · exact (State.good.ite h h.gateAll).fields.send

theorem State.good.execThermalWarn {tj} (h : τ.good) : GoodNext (execThermalWarn tj τ) := .ite h.fields.fields.send h.fields

theorem State.good.tripLaunch {slot} (h : τ.good) : (τ.tripLaunch slot).good := by
  unfold State.tripLaunch
  dsimp only
  exact ((h.purge.foldl (fun _ _ h => h.dropInst.readmit.foldl (fun _ _ h => h.readmit))).foldl (fun _ _ h =>
    h.discardCore.discardShelf)).endLaunch

theorem State.good.cutMove {m} (h : τ.good) : (τ.cutMove m).good := by
  unfold State.cutMove
  dsimp only
  split
  · refine State.good.freePage ?_
    refine State.good.setPage ?_
    split
    · exact h.onCore
    · exact h.onOwner
    · exact h
  · refine State.good.setPage ?_
    split
    · exact h.onCore
    · exact h.onOwner
    · exact h

theorem State.good.haltUnits (h : τ.good) : (τ.haltUnits).good := by
  unfold State.haltUnits
  extract_lets stop s
  exact State.good.map_cores (τ := s) (f := fun e => stop e.2) (h.foldl fun _ _ h => h.cutMove) (fun _ h => h.fields) rfl

theorem State.good.saveLife (h : τ.good) : (τ.saveLife).good := h.fields

theorem State.good.tripVector (h : τ.good) : (τ.tripVector).good := .ite h h.send

theorem State.good.trip (h : τ.good) : (τ.trip).good :=
  (h.haltUnits.foldl (fun _ _ h => h.tripLaunch)).gateAll.fields.tripVector.machineCheck.send.countLife.saveLife

theorem State.good.execThermalTrip {tj} (h : τ.good) : GoodNext (execThermalTrip tj τ) := .ite h.fields.trip h.fields

theorem State.good.countSite {site correctable} (h : τ.good) : (τ.countSite site correctable).good := by
  unfold State.countSite
  dsimp only
  split
  · exact h.countLife.countLife
  · exact h.countLife

theorem State.good.logLine {cause line syndrome} (h : τ.good) : (τ.logLine cause line syndrome).good :=
    h.fields.machineCheck

theorem State.good.localError {g off} (h : τ.good) : (τ.localError g off).good := by
  unfold State.localError
  dsimp only
  split
  · split
    · exact h.onCore
    · exact h
  · split
    · exact h.fields
    · exact h
  · exact .ite h h.fields

theorem State.good.siteError {site correctable syndrome} (h : τ.good) : (τ.siteError site correctable syndrome).good := by
  unfold State.siteError
  dsimp only
  split
  · split
    · exact h
    · exact .ite h.fields h.fields
  · exact .ite h h.localError
  · exact .ite h (h.onCtx)
  · exact .ite h h.fields.logLine
  · exact .ite h h.fields.logLine
  · exact .ite h h.fields.logLine

theorem State.good.execStorageError {site correctable syndrome} (h : τ.good) : GoodNext (execStorageError site correctable syndrome
    τ) := by
  unfold Machine.execStorageError
  split
  · trivial
  · exact h.countSite.siteError

theorem State.good.execUnitMachineCheck {unit detail} (h : τ.good) : GoodNext (execUnitMachineCheck unit detail τ) := by
  unfold Machine.execUnitMachineCheck
  dsimp only
  split
  · trivial
  · exact h.fields.machineCheck.foldl fun _ _ h => h.stopLaunch

theorem State.good.execFlashCounterUpdate (h : τ.good) : GoodNext (execFlashCounterUpdate τ) := (State.good.ite h.countLife h).saveLife

theorem State.good.readCounters (h : τ.good) : (τ.readCounters).good := .ite h h.fields.send

theorem State.good.execMbcmdReadCounters (h : τ.good) : GoodNext (execMbcmdReadCounters τ) := h.readCounters

/-! ### HostEvents -/

theorem State.good.dropCaches {owner} (h : τ.good) : (τ.dropCaches owner).good := h.fields

theorem State.good.startLaunch {slot} (h : τ.good) : (τ.startLaunch slot).good :=
  .ite h.onLaunch.endLaunch (.ite h.onLaunch.endLaunch h.dropCaches.fields.onOwner.onLaunch)

theorem State.good.goLost {slot} (h : τ.good) : (τ.goLost slot).good := h.onLaunch

theorem State.good.redeliver {l g n} (h : τ.good) : (τ.redeliver l g n).good := by
  unfold State.redeliver
  split
  · exact h
  · split
    · exact h.deliver
    · exact h

theorem State.good.killCore {l g} (h : τ.good) : (τ.killCore l g).good := by
  unfold State.killCore
  dsimp only
  split
  · exact h.discardCtxs
  · exact .ite h.discardCtxs.redeliver (.ite (h.discardCtxs.onCtx) h.discardCtxs)

theorem State.good.killLaunch {slot} (h : τ.good) : (τ.killLaunch slot).good :=
  (h.stopLaunch.onLaunch.foldl (fun _ _ h => h.killCore)).foldl (fun _ _ h => h.discardShelf)

theorem State.good.lgo {slot bits} (h : τ.good) : (τ.lgo slot bits).good :=
  .ite (.ite h.killLaunch h) (.ite h.goLost (.ite (.ite h.stopLaunch h) (.ite (.ite h.goLost h.startLaunch) h)))

theorem State.good.execLgoGo {slot} (h : τ.good) : GoodNext (execLgoGo slot τ) := by
  unfold Machine.execLgoGo
  split
  · trivial
  · exact h.lgo

theorem State.good.execLgoStop {slot} (h : τ.good) : GoodNext (execLgoStop slot τ) := by
  unfold Machine.execLgoStop
  split
  · trivial
  · exact h.lgo

theorem State.good.execLgoKill {slot} (h : τ.good) : GoodNext (execLgoKill slot τ) := by
  unfold Machine.execLgoKill
  split
  · trivial
  · exact h.lgo

theorem State.good.failFor {f w} (h : τ.good) : (τ.failFor f w).good := by
  unfold State.failFor
  dsimp only
  split
  · exact h.releaseNodes
  · split
    · exact h.fields
    · split
      · exact h.fields
      · split
        · exact h.onCtx
        · refine State.good.map_cores h (fun _ h => ?_) rfl
          exact .ite h.fields h
        · exact h.onEngine
        · exact h.onCaravan
        · exact h.onSampler
        · exact h.fields
        · exact h

theorem State.good.xlResolve {tag fail} (h : τ.good) : (τ.xlResolve tag fail).good := by
  unfold State.xlResolve
  dsimp only
  split
  · exact h
  · exact (State.good.ite (State.good.ite (h.fields.foldl (fun _ _ h => h.failFor)) h.fields).releaseNodes.placeCopies (State.good.ite
      (h.fields.foldl (fun _ _ h => h.failFor)) h.fields).releaseNodes).startSends

theorem State.good.execXlresolve {tag fail} (h : τ.good) : GoodNext (execXlresolve tag fail τ) := h.xlResolve

theorem State.good.resetClocks (h : τ.good) : (τ.resetClocks).good := by
  unfold State.resetClocks
  extract_lets core
  refine State.good.map_cores (f := fun e => core e.2) h (fun c h => ⟨?_, ?_, h.tframes⟩) rfl
  · exact Table.forall_foldl (p := (Ctx.good · = true)) h.ctxs _ fun t k ht => by
      split
      · exact Table.forall_set (p := (Ctx.good · = true)) ht (Ctx.good_fields (h.ctx k)) k
      · exact ht
  · exact Table.forall_map (p := (Ctx.good · = true)) h.other fun _ h => Ctx.good_fields h

theorem State.good.clkrst (h : τ.good) : (τ.clkrst).good := .ite h h.resetClocks

theorem State.good.execClkrst (h : τ.good) : GoodNext (execClkrst τ) := h.clkrst

theorem State.good.execSlotctlCommit {chan} (h : τ.good) : GoodNext (execSlotctlCommit chan τ) := by
  unfold Machine.execSlotctlCommit
  split
  · trivial
  · exact h.onChan

theorem State.good.execSlotTableSwitch {chan} (h : τ.good) : GoodNext (execSlotTableSwitch chan τ) := by
  unfold Machine.execSlotTableSwitch
  split
  · trivial
  · exact h.onChan

theorem State.good.afterReset : τ.afterReset.good := fun _ h => absurd h List.not_mem_nil

theorem State.good.boot {b} (h : τ.good) : (τ.boot b).good := by
  unfold State.boot
  dsimp only
  split
  · exact h.fields
  · exact h.fields.countLife

theorem State.good.execModuleReset {img} : GoodNext (execModuleReset img τ) := State.good.afterReset.boot

theorem State.good.execPowerLoss : GoodNext (execPowerLoss τ) := State.good.afterReset.fields

theorem State.good.execFirmwareImageInstall {img} (h : τ.good) : GoodNext (execFirmwareImageInstall img τ) := by
  unfold Machine.execFirmwareImageInstall
  dsimp only
  split
  · exact h.fields
  · split
    · exact h.fields
    · exact h.fields

theorem State.good.execOwnerKeyLoad {owner root} (h : τ.good) : GoodNext (execOwnerKeyLoad owner root τ) := by
  unfold Machine.execOwnerKeyLoad
  dsimp only
  split
  · trivial
  · split
    · exact h.fields
    · exact h.onOwner.fields

theorem State.good.scrambleLine {owner line} (h : τ.good) : (τ.scrambleLine owner line).good :=
  h.fields

theorem State.good.scramble {owner} (h : τ.good) : (τ.scramble owner).good := by
  unfold State.scramble
  extract_lets lines lost core t
  exact State.good.map_cores (τ := t) (f := fun e => core e.2) (h.foldl fun _ _ h => h.scrambleLine) (fun _ h => h.fields) rfl

theorem State.good.execOwnerKeyUnload {owner} (h : τ.good) : GoodNext (execOwnerKeyUnload owner τ) := by
  unfold Machine.execOwnerKeyUnload
  dsimp only
  split
  · trivial
  · split
    · exact h.fields
    · split
      · exact h.fields
      · exact h.scramble.onOwner.fields

theorem State.good.execAttestationRequest (h : τ.good) : GoodNext (execAttestationRequest τ) := by
  unfold Machine.execAttestationRequest
  dsimp only
  split
  · exact h.fields
  · exact h.fields

theorem State.good.noteClocks (h : τ.good) : (τ.noteClocks).good := h.fields

theorem State.good.maskVector {v on} (h : τ.good) : (τ.maskVector v on).good := .ite h.fields (.ite h.fields.send h.fields)

theorem State.good.prectl {w} (h : τ.good) : (τ.prectl w).good := by
  unfold State.prectl
  dsimp only
  split
  · exact h
  · split
    · rename_i e
      split at e
      · exact h.execPrectlSuspend.next_eq e
      · exact h.execPrectlResume.next_eq e
    · exact h

theorem State.good.setXlqHead {n} (h : τ.good) : (τ.setXlqHead n).good := h.fields.postFaults.fields

theorem State.good.setCgate {i new} (h : τ.good) : (τ.setCgate i new).good := h.foldl fun _ _ h => .ite h h.cgateRequest

theorem State.good.setPartmap {i new} (h : τ.good) : (τ.setPartmap i new).good := h.foldl fun _ _ h =>
    h.onOwner

theorem State.good.putDev {o w m new} (h : τ.good) : (τ.putDev o w m new).good := by
  unfold State.putDev
  dsimp only
  split
  · exact h.fields
  · exact h.fields
  · exact .ite h.setXlqHead h
  · exact .ite h.xlResolve h
  · exact .ite h.fields h
  · exact .ite h.clkrst h
  · exact .ite h.prectl h
  · exact h.setPartmap
  · exact h.setPartmap
  · exact h.setPartmap
  · exact h.setPartmap
  · exact h.fields
  · exact .ite h.fields h
  · exact .ite h.fields.setTarget h
  · exact .ite h.fields.fields h.fields
  · exact h.fields
  · exact h.fields
  · exact .ite h.fields h
  · split
    · split
      · exact h.setSirocco
      · exact .ite h.setSirocco h
      · exact h
    · exact .ite h.setCgate h

theorem State.good.putLaunch {slot o w m new} (h : τ.good) : (τ.putLaunch slot o w m new).good := by
  unfold State.putLaunch
  split
  · exact h.onLaunch
  · exact h.onLaunch
  · exact h.onLaunch
  · exact .ite h.lgo h
  · exact h.onLaunch
  · exact h.onLaunch
  · exact .ite h.onLaunch h

theorem State.good.putReg {o w m} (h : τ.good) : (τ.putReg o w m).good :=
  .ite h.putDev (.ite h.onChan (.ite h.putLaunch (.ite (.ite h.onOwner h) (.ite h.readCounters h))))

theorem State.good.execRegisterWrite {off wide value} (h : τ.good) : GoodNext (execRegisterWrite off wide value τ) := by
  unfold Machine.execRegisterWrite
  dsimp only
  split
  · exact .ite h.putReg h
  · split
    · exact h
    · exact h.putReg

theorem State.good.hostAccess {key size write} (h : τ.good) : GoodSome id (τ.hostAccess key size write) := by
  unfold State.hostAccess
  dsimp only
  split
  · exact .none
  · refine .some ?_
    refine State.good.fields ?_
    refine State.good.recordAccess ?_
    refine State.good.place326 ?_
    split
    · exact h.settle.fields.logEntry
    · exact h.settle.fields

theorem State.good.hostClockOut {pa} (h : τ.good) : (τ.hostClockOut pa).good := h.machineCheck

theorem State.good.execHostCxlMemRead {dec pa size} (h : τ.good) : GoodNext (execHostCxlMemRead dec pa size τ) := by
  unfold Machine.execHostCxlMemRead
  dsimp only
  split
  · trivial
  · split
    · exact h
    · split
      · exact h.fields
      · split
        · exact h
        · split
          · exact h.hostClockOut.fields
          · rename_i e
            exact (h.hostAccess _ e).fields

theorem State.good.execHostCxlMemWrite {dec pa data} (h : τ.good) : GoodNext (execHostCxlMemWrite dec pa data τ) := by
  unfold Machine.execHostCxlMemWrite
  dsimp only
  split
  · trivial
  · split
    · exact h
    · split
      · exact h.countLife
      · split
        · exact h
        · split
          · exact h
          · split
            · exact h.hostClockOut
            · rename_i e
              exact (h.hostAccess _ e).engineWrite.landed

theorem State.good.execCxlCacheSnoop {pa write} (h : τ.good) : GoodNext (execCxlCacheSnoop pa write τ) := by
  unfold Machine.execCxlCacheSnoop
  dsimp only
  split
  · exact h
  · split
    · exact h.hostClockOut
    · rename_i e
      exact .ite (h.hostAccess _ e).fields (h.hostAccess _ e)

theorem State.good.execCxlCacheResponse {data} (h : τ.good) : GoodNext (execCxlCacheResponse data τ) := by
  unfold Machine.execCxlCacheResponse
  dsimp only
  split
  · split
    · exact h
    · exact h.fields
  · split
    · exact h.fields
    · exact h

/-! ### MatrixInstr -/

theorem State.good.execMtile {x} (h : τ.good) : GoodNext (execMtile x τ) := by
  refine h.issue fun _ => needRoom_good.bind fun _ => src_good.bind fun _ => src_good.bind fun _ => me_good.bind fun _ => ?_
  split
  extract_lets -underBinder +onlyGivenNames t
  refine myEngine_good.bind fun _ => ?_
  split
  · exact trapIf_good.bind fun _ => trapIf_good.bind fun _ => myCore_good.bind fun _ => .ite dst_good (get_good.bind fun _ =>
      onMyEngine_good.bind fun _ => offer_good.bind fun _ => dst_good)
  · exact trapIf_good.bind fun _ => needTile_good.bind fun _ => offer_good.bind fun _ => dst_good
  · extract_lets -underBinder +onlyGivenNames sl
    refine trapIf_good.bind fun _ => needTile_good.bind fun _ => ?_
    split
    · exact offer_good.bind fun _ => dst_good
    · refine get_good.bind fun _ => ?_
      split
      · exact .ite (offer_good.bind fun _ => dst_good) dst_good
      · exact dst_good

theorem blockLine_good {va v} : (blockLine va v).Good := by
  unfold blockLine
  refine locate_good.bind fun _ => ?_
  split
  · exact pure_good
  · exact get_good.bind fun _ => .ite (wait_good.bind fun _ => trapIf_good.bind fun _ => pure_good) (trapIf_good.bind fun _ =>
      pure_good)
  · extract_lets -underBinder +onlyGivenNames line
    refine (modify_good fun _ h => h.acceptFor).bind fun _ => settleMine_good.bind fun _ => get_good.bind fun _ => ?_
    extract_lets -underBinder +onlyGivenNames j0
    have hj0 : (j0 ()).Good := homeAccess_good.bind fun _ => get_good.bind fun _ => pure_good
    exact .ite hj0 (needSlot_good.bind fun _ => hj0)

theorem blockLines_good {v n va} : (blockLines v n va).Good := by
  induction n generalizing va with
  | zero => exact pure_good
  | succ n ih =>
    unfold blockLines
    refine blockLine_good.bind fun x => ?_
    obtain ⟨bs, bad⟩ := x
    have h : (do
        let (r, rbad) ← blockLines v n (va + 64)
        pure (bs ++ r, bad.isSome || rbad) : M (List Byte × Bool)).Good := ih.bind fun _ => pure_good
    cases bad with
    | none => exact h
    | some cause =>
      exact freeWord_good.bind fun _ => get_good.bind fun _ => (modify_good fun υ h => h.machineCheck).bind fun _ => h

theorem State.good.execMloadb {x} (h : τ.good) : GoodNext (execMloadb x τ) := by
  refine h.issue fun _ => needRoom_good.bind fun _ => src_good.bind fun _ => src_good.bind fun _ => trapIf_good.bind fun _ =>
    trapIf_good.bind fun _ => ?_
  extract_lets -underBinder +onlyGivenNames ty
  refine blockLines_good.bind fun _ => ?_
  split
  exact get_good.bind fun _ => onMyEngine_good.bind fun _ => offer_good

theorem State.good.execMacc {x} (h : τ.good) : GoodNext (execMacc x τ) :=
  h.issue fun _ => needRoom_good.bind fun _ => src_good.bind fun _ => src_good.bind fun _ => myCore_good.bind fun _ =>
    myEngine_good.bind fun _ => trapIf_good.bind fun _ => needTile_good.bind fun _ => get_good.bind fun _ =>
    trapIf_good.bind fun _ => trapOn_good.bind fun _ => offer_good

theorem State.good.execMscale {x} (h : τ.good) : GoodNext (execMscale x τ) := by
  refine h.issue fun _ => myCtx_good.bind fun _ => trapIf_good.bind fun _ => ?_
  extract_lets -underBinder +onlyGivenNames t
  refine myEngine_good.bind fun _ => me_good.bind fun _ => ?_
  split
  exact trapIf_good.bind fun _ => keeperOf_good.bind fun _ => trapIf_good.bind fun _ => trapIf_good.bind fun _ =>
    .ite wait_good onMyEngine_good

theorem State.good.execMread {x} (h : τ.good) : GoodNext (execMread x τ) :=
  h.issue fun _ => needRoom_good.bind fun _ => src_good.bind fun _ => src_good.bind fun _ => myCore_good.bind fun _ =>
    myEngine_good.bind fun _ => needTile_good.bind fun _ => .ite (trapOn_good.bind fun _ =>
    offer_good) (trapOn_good.bind fun _ => offer_good)

theorem State.good.execMwait {x} (h : τ.good) : GoodNext (execMwait x τ) := by
  refine h.issue fun _ => src_good.bind fun _ => me_good.bind fun _ => ?_
  split
  exact myEngine_good.bind fun _ => trapIf_good.bind fun _ => myCore_good.bind fun _ => .ite wait_good dst_good

theorem ownerField_good {o} : (ownerField o).Good := by
  unfold ownerField
  split
  · exact pure_good
  · exact pure_good
  · exact freeWord_good.bind fun _ => pure_good

theorem State.good.execMstat {x} (h : τ.good) : GoodNext (execMstat x τ) := by
  refine h.issue fun _ => src_good.bind fun _ => me_good.bind fun _ => ?_
  split
  refine myEngine_good.bind fun _ => ?_
  split
  · exact trapIf_good.bind fun _ => ownerField_good.bind fun _ => dst_good
  · exact trapIf_good.bind fun _ => dst_good
  · exact dst_good
  · exact get_good.bind fun _ => dst_good
  · exact trapIf_good.bind fun _ => get_good.bind fun _ => dst_good
  · exact myCtx_good.bind fun _ => keeperOf_good.bind fun _ => dst_good

theorem State.good.execMsoft {x} (h : τ.good) : GoodNext (execMsoft x τ) :=
  h.issue fun _ => needRoom_good.bind fun _ => src_good.bind fun _ => src_good.bind fun _ => src_good.bind fun _ =>
    myCore_good.bind fun _ => needTile_good.bind fun _ => trapOn_good.bind fun _ => offer_good

/-! ### MemoryEvents -/

theorem State.good.homeTrap {q cause race tval} (h : τ.good) : (τ.homeTrap q cause race tval).good := by
  unfold State.homeTrap
  dsimp only
  split
  · exact h
  · exact .ite h.fields.unpop.unadmit.takeTrap h

theorem State.good.homeLog {q l words} (h : τ.good) : (τ.homeLog q l words).good := by
  unfold State.homeLog
  split
  · exact h
  · exact h.appendLog

theorem State.good.homeLogWait {q} (h : τ.good) : GoodSome id (τ.homeLogWait q) := by
  unfold State.homeLogWait
  dsimp only
  split
  · exact .none
  · split
    · exact .none
    · exact .some h.askHost
    · exact .some h.homeTrap
    · exact .ite (.some h.homeTrap) (.ite (.some h) (.some h.holdFault))

theorem State.good.homePlace {q write} (h : τ.good) : GoodEither (τ.homePlace q write) := by
  have hs {line} : (τ.settle none line).good := h.settle
  unfold State.homePlace
  extract_lets line r s1 t checked v place
  have hs1 : s1.good := hs
  have hp {υ : State} (h : υ.good) : (place υ).good := by
    have h2 : (if checked then (υ.place326 r).1.recordAccess r t else (υ.place326 r).1).good :=
      .ite h.place326.recordAccess h.place326
    dsimp only [place]
    split
    · exact h2.onCtx
    · exact h2
  clear_value s1 place
  split
  · exact h.askHost
  · split
    · exact h
    · split
      · exact h
      · split
        · exact h.homeTrap
        · split
          · exact h.homeTrap
          · split
            · split
              · rename_i e
                exact h.homeLogWait _ e
              · split
                · exact hp hs1.homeLog
                · exact h.homeLog.homeTrap
            · split
              · split
                · rename_i e
                  exact h.homeLogWait _ e
                · exact hp hs1.homeLog
              · exact hp hs1
            · exact hp hs1

theorem State.good.execHomeLoad {req} (h : τ.good) : GoodNext (execHomeLoad req τ) := by
  unfold Machine.execHomeLoad
  split
  · exact h
  · split
    · rename_i e
      exact h.homePlace.error_eq e
    · rename_i e
      exact h.homePlace.ok_eq e

theorem State.good.execHomeStore {req data} (h : τ.good) : GoodNext (execHomeStore req data τ) := by
  unfold Machine.execHomeStore
  dsimp only
  split
  · exact h
  · split
    · rename_i e
      exact h.homePlace.error_eq e
    · rename_i e
      have h := h.homePlace.ok_eq e
      exact .ite h.homeWrite.fields h.homeWrite

theorem State.good.execLineRecall {line} (h : τ.good) : GoodNext (execLineRecall line τ) := by
  unfold Machine.execLineRecall
  split
  · exact h.askHost
  · exact h.settle

theorem State.good.execWlqEntryDepart {core} (h : τ.good) : GoodNext (execWlqEntryDepart core τ) := by
  unfold Machine.execWlqEntryDepart
  split
  · exact h.onCore
  · trivial

theorem State.good.execWlqEntryAccept {core} (h : τ.good) : GoodNext (execWlqEntryAccept core τ) := by
  unfold Machine.execWlqEntryAccept
  split
  · split
    · exact h
    · exact .ite (h.acceptEntry.onCore) h
  · trivial

theorem State.good.execWriteWindowEnd {core} (h : τ.good) : GoodNext (execWriteWindowEnd core τ) := by
  unfold Machine.execWriteWindowEnd
  split
  · exact h.onCore
  · trivial

theorem State.good.execHbmSlotService {chan} (h : τ.good) : GoodNext (execHbmSlotService chan τ) := by
  unfold Machine.execHbmSlotService
  dsimp only
  split
  · trivial
  · split
    · exact h.onChan.fields
    · exact h.onChan

theorem State.good.execXmPortService {die} (h : τ.good) : GoodNext (execXmPortService die τ) := by
  unfold Machine.execXmPortService
  split
  · trivial
  · split
    · exact h.fields
    · exact h

theorem State.good.execPageWalk {owner va agent kind slot} (h : τ.good) : GoodNext (execPageWalk owner va agent kind slot τ) := by
  unfold Machine.execPageWalk
  split
  · exact h
  · split
    · exact h.holdFault
    · exact h
    · split
      · exact h.translate
      · exact h

theorem State.good.finishMove {m} (h : τ.good) : (τ.finishMove m).good := by
  unfold State.finishMove
  extract_lets d s1 s2 s3 s4
  have h1 : s1.good := by
    unfold s1
    split
    exacts [h.onCore, h.onOwner, h]
  have h3 : s3.good := by
    refine State.good.setPage ?_
    unfold s2
    split
    exacts [h1.onCore, h1]
  exact (State.good.ite h3.freePage h3).onCtx.onCore fun _ h =>
    ⟨h.ctxs, Table.forall_map (p := (Ctx.good · = true)) h.other fun _ => Ctx.good_fields, h.tframes⟩

theorem State.good.execPageMoveComplete {cluster} (h : τ.good) : GoodNext (execPageMoveComplete cluster τ) := by
  unfold Machine.execPageMoveComplete
  dsimp only
  split
  · split
    · exact h
    · exact h.settlePage.fields.finishMove.startSends
  · trivial

theorem State.good.importStore {src line bytes} (h : τ.good) : GoodSome id (τ.importStore src line bytes) :=
  .ite .none (.ite .none (.some h.settle.place326.fields.touchMeta.engineWrite))

theorem State.good.execImportWrite {die pa data src tag} (h : τ.good) : GoodNext (execImportWrite die pa data src tag τ) := by
  unfold Machine.execImportWrite
  split
  · trivial
  · split
    · exact h
    · split
      · exact h.askHost
      · rename_i e
        exact (h.importStore _ e).fields

theorem State.good.execRemoteAck {core ctx} (h : τ.good) : GoodNext (execRemoteAck core ctx τ) := by
  unfold Machine.execRemoteAck
  split
  · exact h.onCtx
  · trivial

theorem State.good.execRemoteLocalLoad {core ctx} (va size) (h : τ.good) : GoodNext (execRemoteLocalLoad core ctx va size τ) := by
  unfold Machine.execRemoteLocalLoad
  split
  · exact h
  · trivial

/-! ### StreamEvents -/

theorem State.good.execWadiResolve {die group} (h : τ.good) : GoodNext (execWadiResolve die group τ) := by
  unfold Machine.execWadiResolve
  dsimp only
  split
  · trivial
  · split
    · exact h.resolve
    · exact h

theorem State.good.joinDone {die resP i} (h : τ.good) : (τ.joinDone die resP i).good := .ite h.engineLost.clockStop h.fields.engineDone

theorem State.good.serveJoin {die i} (h : τ.good) : (τ.serveJoin die i).good :=
  .ite (.ite (State.good.ite h.openGroup h).onGroup.resolve (State.good.ite h.openGroup h).onGroup) (State.good.ite h.openGroup h).joinDone

theorem State.good.execJoinNode {die} (h : τ.good) : GoodNext (execJoinNode die τ) := by
  unfold Machine.execJoinNode
  split
  · trivial
  · split
    · exact h.serveJoin
    · exact h

theorem State.good.onArrival {a f} (h : τ.good) : (τ.onArrival a f).good := h.fields

theorem State.good.importStep {src n} (h : τ.good) : (τ.importStep src n).good := h.placeDesc.fields

theorem State.good.admitArrival {f} (h : τ.good) : (τ.admitArrival f).good := by
  unfold State.admitArrival
  dsimp only
  split
  · exact h.fields
  · split
    · rename_i e
      exact (h.reserve.fst_eq e).fields
    · rename_i e
      split
      · exact h.fields
      · exact (h.reserve.fst_eq e).importStep.admitNew.fields

theorem State.good.execXanwellOpen {flit} (h : τ.good) : GoodNext (execXanwellOpen flit τ) := by
  unfold Machine.execXanwellOpen
  split
  · exact h
  · exact h.admitArrival

theorem State.good.endArrival {a} (h : τ.good) : (τ.endArrival a).good := (State.good.ite h (.ite h.retire h.importStep.onStream)).fields

theorem State.good.tryEnd {f} (h : τ.good) : (τ.tryEnd f).good := by
  unfold State.tryEnd
  split
  · exact .ite h.endArrival h
  · exact h

theorem State.good.putChunk {a f} (h : τ.good) : (τ.putChunk a f).good := by
  unfold State.putChunk
  dsimp only
  split
  · exact h.onArrival
  · rename_i e
    exact ((State.good.ite (h.pageForWrite _ e) (h.pageForWrite _ e).importStep).fields).onArrival

theorem State.good.execXanwellPage {flit} (h : τ.good) : GoodNext (execXanwellPage flit τ) := by
  unfold Machine.execXanwellPage
  split
  · exact .ite h.putChunk.tryEnd h
  · exact h

theorem State.good.putEntries {a m bs i} (h : τ.good) : (τ.putEntries a m bs i).1.good := by
  induction m generalizing τ bs i with
  | zero => exact h
  | succ m ih =>
    unfold State.putEntries
    split
    · exact h
    · extract_lets va bad
      have hb : (bad τ).1.good := ih h.onArrival
      clear_value bad
      split
      · exact hb
      · split
        · dsimp only
          exact h.fields.holdFaultAs
        · exact hb
        · split
          · exact h.askHost
          · rename_i e
            exact ih (h.importStore _ e)

theorem State.good.execXanwellQueue {flit} (h : τ.good) : GoodNext (execXanwellQueue flit τ) := by
  unfold Machine.execXanwellQueue
  dsimp only
  split
  · split
    · exact h
    · split
      · rename_i e
        exact h.putEntries.fst_eq e
      · rename_i e
        exact (h.putEntries.fst_eq e).onArrival.tryEnd
  · exact h

theorem State.good.execXanwellClose {flit} (h : τ.good) : GoodNext (execXanwellClose flit τ) := by
  unfold Machine.execXanwellClose
  dsimp only
  split
  · split
    · exact h
    · exact h.onArrival.fields.tryEnd
  · exact h

theorem State.good.endShare {agent l n} (h : τ.good) : (τ.endShare agent l n).good :=
  h.foldl fun _ _ h => h.placeDesc.onStream

theorem State.good.endSource {t status handle} (h : τ.good) : (τ.endSource t status handle).good :=
  (State.good.ite h.placeDesc.clockStop.dropTable.onStream h.placeDesc.clockStop.onStream).endShare.fields

theorem State.good.endTransfer {t status handle} (h : τ.good) : (τ.endTransfer t status handle).good := by
  unfold State.endTransfer
  split
  · exact h.endSource
  · split
    · rename_i e
      exact h.unitStore.fst_eq e
    · rename_i e
      exact (h.unitStore.fst_eq e).clockStop.endSource
    · rename_i e
      exact (h.unitStore.fst_eq e).endSource

theorem State.good.execXanwellResult {flit} (h : τ.good) : GoodNext (execXanwellResult flit τ) := by
  unfold Machine.execXanwellResult
  split
  · exact .ite h.endTransfer h
  · exact h

theorem State.good.execXanwellLinkFailure {transfer} (h : τ.good) : GoodNext (execXanwellLinkFailure transfer τ) := by
  unfold Machine.execXanwellLinkFailure
  split
  · exact .ite h h.endTransfer
  · exact h

theorem State.good.execXanwellPut {flit} (h : τ.good) : GoodNext (execXanwellPut flit τ) := by
  unfold Machine.execXanwellPut
  dsimp only
  split
  · exact h
  · split
    · exact h.askHost
    · rename_i e
      exact (State.good.ite (h.importStore _ e).fields (h.importStore _ e)).fields

theorem State.good.execXanwellGet {flit} (h : τ.good) : GoodNext (execXanwellGet flit τ) := .ite h.fields h

theorem State.good.execXanwellUndefinedFlit {port flit} (h : τ.good) : GoodNext (execXanwellUndefinedFlit port flit τ) := by
  unfold Machine.execXanwellUndefinedFlit
  split
  · trivial
  · exact .ite h h.countLife

theorem State.good.execLinkTraining {port width rate} (h : τ.good) : GoodNext (execLinkTraining port width rate τ) := by
  unfold Machine.execLinkTraining
  dsimp only
  split
  · trivial
  · exact (State.good.ite h.countLife h).fields

/-! ### StreamInstr -/

theorem checkHandle_good {h aval} : (checkHandle h aval).Good :=
  trapIf_good.bind fun _ => trapIf_good.bind fun _ => get_good.bind fun _ => trapIf_good.bind fun _ => pure_good

theorem stepPlace_good {n aval} : (stepPlace n aval).Good := by
  unfold stepPlace
  refine get_bind_good fun s h => ?_
  split
  split
  rename_i e
  exact trapIf_bind_goodAt fun _ => (set_goodAt (h.placeDesc.fst_eq e)).bind fun _ => onMyCtx_good

theorem stepRelease_good {n aval} : (stepRelease n aval).Good :=
  stepPlace_good.bind fun _ => release_good.bind fun _ => (modify_good fun _ h => h.onStream).bind fun _ => pure_good

theorem onStreamM_good {n f} : (onStreamM n f).Good := modify_good fun _ h => h.onStream

theorem State.good.execSnew {x} (h : τ.good) : GoodNext (execSnew x τ) := by
  refine h.issue fun _ => src_good.bind fun _ => src_good.bind fun _ => trapIf_good.bind fun _ => loadDwords_good.bind fun _ =>
    trapIf_good.bind fun _ => me_good.bind fun _ => ?_
  split
  refine get_bind_good fun s h => ?_
  split
  · rename_i e
    exact (set_goodAt (h.takeId.fst_eq e)).bind fun _ => dst_good
  · rename_i e
    exact (set_goodAt (h.takeId.fst_eq e)).bind fun _ => stepPlace_good.bind fun _ => release_good.bind fun _ =>
      (modify_good fun _ h => h.admitNew).bind fun _ => get_good.bind fun _ => dst_good

theorem State.good.execFork {x} (h : τ.good) : GoodNext (execFork x τ) := by
  refine h.issue fun _ => src_good.bind fun _ => src_good.bind fun _ => checkHandle_good.bind fun _ => trapIf_good.bind fun _ =>
    loadDwords_good.bind fun _ => trapIf_good.bind fun _ => ?_
  refine get_bind_good fun s h => ?_
  extract_lets -underBinder +onlyGivenNames d
  split
  · exact dst_good _ h
  · split
    · exact dst_good _ h
    · split
      · rename_i e
        exact (set_goodAt (h.takeId.fst_eq e)).bind fun _ => dst_good
      · rename_i e
        exact (set_goodAt (h.takeId.fst_eq e)).bind fun _ => stepPlace_good.bind fun _ => release_good.bind fun _ =>
          (modify_good fun _ h => h.admitChild).bind fun _ => get_good.bind fun _ => dst_good

theorem State.good.execSbind {x} (h : τ.good) : GoodNext (execSbind x τ) := by
  refine h.issue fun _ => src_good.bind fun _ => myCtx_good.bind fun _ => ?_
  extract_lets -underBinder +onlyGivenNames j0
  have hj0 : (j0 ()).Good := (onMyCtx_good).bind fun _ => dst_good
  exact .ite hj0 (checkHandle_good.bind fun _ => get_good.bind fun _ => trapIf_good.bind fun _ => (modify_good fun _ h =>
    h.loadSpm).bind fun _ => acquire_good.bind fun _ => hj0)

theorem me_bind_goodAt {k : Nat × Nat → M β} (h : (k τ.cur).GoodAt τ) : (me >>= k).GoodAt τ := h

theorem State.good.execPplace {x} (h : τ.good) : GoodNext (execPplace x τ) := by
  refine h.issue fun _ => src_good.bind fun _ => src_good.bind fun _ => myCtx_good.bind fun _ => trapIf_good.bind fun _ =>
    checkHandle_good.bind fun _ => get_bind_good fun s h => trapIf_bind_goodAt fun _ =>
    trapIf_bind_goodAt fun _ => trapIf_bind_goodAt fun _ => me_bind_goodAt ?_
  split
  extract_lets -underBinder +onlyGivenNames cl dest pages j0
  have hj0 : (j0 ()).GoodAt s := by
    unfold j0
    split
    rename_i e
    exact (set_goodAt (h.placePages.fst_eq e)).bind fun _ => M.Good.bind onMyCtx_good fun _ => dst_good
  exact .ite wait_bind_goodAt hj0

theorem State.good.execSquery {x} (h : τ.good) : GoodNext (execSquery x τ) := by
  refine h.issue fun _ => get_good.bind fun _ => ?_
  extract_lets -underBinder +onlyGivenNames die
  split
  · exact src_good.bind fun _ => trapIf_good.bind fun _ => dst_good
  · exact dst_good
  · refine src_good.bind fun _ => checkHandle_good.bind fun _ => ?_
    extract_lets -underBinder +onlyGivenNames d
    split
    · exact acquire_good.bind fun _ => dst_good
    · exact src_good.bind fun _ => acquire_good.bind fun _ => dst_good
    · exact acquire_good.bind fun _ => dst_good
    · exact dst_good
    · exact src_good.bind fun _ => dst_good

theorem recordCkpt_good {n a b aval} : (recordCkpt n a b aval).Good := by
  unfold recordCkpt
  refine M.Good.bind (get_good.bind fun _ => pure_good) fun _ => get_good.bind fun _ => ?_
  split
  exact trapIf_good.bind fun _ => onStreamM_good

theorem State.good.execSstep {x} (h : τ.good) : GoodNext (execSstep x τ) := by
  refine h.issue fun _ => src_good.bind fun _ => checkHandle_good.bind fun _ => get_good.bind fun _ => ?_
  extract_lets -underBinder +onlyGivenNames d
  refine trapIf_good.bind fun _ => ?_
  refine M.Good.bind ?_ fun _ => stepRelease_good.bind fun _ => dst_good
  split
  · exact src_good.bind fun _ => trapIf_good.bind fun _ => onStreamM_good.bind fun _ => pure_good
  · exact src_good.bind fun _ => onStreamM_good.bind fun _ => pure_good
  · exact src_good.bind fun _ => recordCkpt_good.bind fun _ => pure_good
  · exact onStreamM_good.bind fun _ => pure_good
  · exact src_good.bind fun _ => trapIf_good.bind fun _ => onStreamM_good.bind fun _ => pure_good

theorem State.good.execApush {x} (h : τ.good) : GoodNext (execApush x τ) := by
  refine h.issue fun _ => src_good.bind fun _ => src_good.bind fun _ => checkHandle_good.bind fun _ => get_good.bind fun _ => ?_
  extract_lets -underBinder +onlyGivenNames d
  refine trapIf_good.bind fun _ => trapIf_good.bind fun _ => trapIf_good.bind fun _ => ?_
  split
  · exact .ite dst_good trap_good
  · extract_lets -underBinder +onlyGivenNames va
    split
    exact storeBytes_good.bind fun _ => storeBytes_good.bind fun _ => onStreamM_good.bind fun _ => stepRelease_good.bind fun _ =>
      (.ite ((modify_good fun _ h => h.wakeStream).bind fun _ => dst_good) dst_good)

theorem State.good.execApop {x} (h : τ.good) : GoodNext (execApop x τ) :=
  h.issue fun _ => src_good.bind fun _ => checkHandle_good.bind fun _ => get_good.bind fun _ => trapIf_good.bind fun _ =>
    trapIf_good.bind fun _ => acquire_good.bind fun _ => .ite (dst_good.bind fun _ =>
    dstNext_good) (loadDword_good.bind fun _ => loadDword_good.bind fun _ => (.ite (onStreamM_good.bind fun _ =>
    stepRelease_good.bind fun _ => dst_good.bind fun _ => dstNext_good) (dst_good.bind fun _ => dstNext_good)))

theorem unitDword_good {owner va} : (unitDword owner va).Good := by
  unfold unitDword
  refine get_good.bind fun s => ?_
  split
  refine trapIf_good.bind fun _ => ?_
  extract_lets -underBinder +onlyGivenNames j0
  have hj0 : (j0 ()).Good := by
    unfold j0
    split
    · exact pure_good
    · exact trap_good
    · split
      · exact wait_good
      · exact waitAnd_good fun υ h => h.holdFault
  exact .ite (wait_good.bind fun _ => hj0) hj0

theorem keptTail_good {d c n t} : (keptTail d c n t).Good := by
  induction n generalizing t with
  | zero => exact pure_good
  | succ n ih => exact unitDword_good.bind fun _ => .ite ih pure_good

theorem storePieces_good {p pc va ps} : (storePieces p pc va ps).Good := by
  induction ps generalizing va with
  | nil => exact pure_good
  | cons e r ih =>
    exact settleMineFor_good.bind fun _ => makeRoom_good.bind fun _ => putStore_good.bind fun _ => get_good.bind fun _ =>
      homeAccess_good.bind fun _ => ih

theorem storeZeros_good {p pc va key n} : (storeZeros p pc va key n).Good :=
  myCore_good.bind fun _ => (takeBudget_good).bind fun _ => (needEntries_good).bind fun _ => storePieces_good.bind fun _ =>
    (modify_good fun _ h => h.storedWhole)

theorem clearTail_good {n page off p pc aval} : (clearTail n page off p pc aval).Good := by
  unfold clearTail
  refine get_good.bind fun _ => ?_
  split
  · exact pure_good
  · refine needPage_good.bind fun _ => ?_
    refine get_bind_good fun s h => ?_
    extract_lets -underBinder +onlyGivenNames j0
    have hj0 : (j0 ()).GoodAt s := by
      unfold j0
      extract_lets -underBinder +onlyGivenNames va
      split
      · exact trivial
      · rename_i e
        exact trapIf_bind_goodAt fun _ => ((set_goodAt (h.windowWrite _ e)).bind fun _ => (onMyCtx_good).bind fun _ =>
          storeZeros_good)
    exact .ite wait_bind_goodAt hj0

theorem State.good.execStrunc {x} (h : τ.good) : GoodNext (execStrunc x τ) := by
  refine h.issue fun _ => src_good.bind fun _ => srcB_good.bind fun _ => src_good.bind fun _ => checkHandle_good.bind fun _ =>
    get_good.bind fun _ => ?_
  extract_lets -underBinder +onlyGivenNames d
  refine trapIf_good.bind fun _ => trapIf_good.bind fun _ => trapIf_good.bind fun _ => ?_
  extract_lets -underBinder +onlyGivenNames kp
  refine keptTail_good.bind fun _ => stepRelease_good.bind fun _ => ?_
  extract_lets -underBinder +onlyGivenNames gone j0
  have hj0 : (j0 ()).Good := by
    unfold j0
    refine (modify_good fun _ h => h.foldl (fun _ _ h => h.unmapPage)).bind fun _ => ?_
    extract_lets -underBinder +onlyGivenNames j0
    have hj0 : (j0 ()).Good := onStreamM_good.bind fun _ => dst_good
    exact .ite hj0 (clearTail_good.bind fun _ => hj0)
  exact .ite (wait_good.bind fun _ => hj0) hj0

theorem State.good.execSret {x} (h : τ.good) : GoodNext (execSret x τ) := by
  refine h.issue fun _ => src_good.bind fun _ => checkHandle_good.bind fun _ => get_good.bind fun _ => ?_
  extract_lets -underBinder +onlyGivenNames d
  split
  · refine src_good.bind fun _ => trapIf_good.bind fun _ => trapIf_good.bind fun _ => onStreamM_good.bind fun _ =>
      stepRelease_good.bind fun _ => ?_
    refine get_bind_good fun s h => ?_
    split
    · rename_i e
      exact (set_goodAt (h.report _ e)).bind fun _ => dst_good
    · exact dst_good _ h
  · exact trapIf_good.bind fun _ => stepRelease_good.bind fun _ => (modify_good fun _ h => h.retire).bind fun _ =>
      get_good.bind fun _ => dst_good

theorem State.good.execJoin {x} (h : τ.good) : GoodNext (execJoin x τ) := by
  refine h.issue fun _ => src_good.bind fun _ => trapIf_good.bind fun _ => ?_
  extract_lets -underBinder +onlyGivenNames die n
  refine get_good.bind fun _ => ?_
  extract_lets -underBinder +onlyGivenNames g
  split
  · exact src_good.bind fun _ => trapIf_good.bind fun _ => loadDwords_good.bind fun _ => trapIf_good.bind fun _ =>
      (.ite dst_good (release_good.bind fun _ => (modify_good fun _ h => h.openGroup).bind fun _ => dst_good))
  · split
    · exact dst_good
    · refine release_good.bind fun _ => ?_
      refine get_bind_good fun s h => ?_
      refine trapIf_bind_goodAt fun _ => ?_
      split
      · exact fun _ h => h.resolve
      · rename_i e
        exact (set_goodAt (h.resolve.fst_eq e)).bind fun _ => dst_good
  · exact dst_good
  · exact .ite dst_good (release_good.bind fun _ => (modify_good fun _ h => h.onGroup).bind fun _ => dst_good)

theorem State.good.execSmigr {x} (h : τ.good) : GoodNext (execSmigr x τ) := by
  refine h.issue fun _ => src_good.bind fun _ => srcB_good.bind fun _ => src_good.bind fun _ => checkHandle_good.bind fun _ =>
    trapIf_good.bind fun _ => trapIf_good.bind fun _ => get_good.bind fun _ => ?_
  split
  exact trapIf_good.bind fun _ => .ite dst_good (.ite dst_good (stepRelease_good.bind fun _ => (modify_good fun _ h =>
    h.fields.freezeMarked).bind fun _ => dst_good))

/-! ### System -/

theorem Ctx.good_tvec {c d : Ctx} {w : Word} (h : c.good = true) (h64 : w.toNat % 64 = 0) (hw : w.toNat < 2 ^ 56) (he : d.tvec = w)
    (hb : d.wbase = c.wbase) (hq : d.qset = c.qset) (hg : d.grant = c.grant) : d.good = true := by
  rw [Ctx.good_iff] at h ⊢
  rw [hb, hq, hg, he]
  exact ⟨h.1, h.2.1, h.2.2.1, h64, hw⟩

theorem writeSreg_good {n v tval} : (writeSreg n v tval).Good := by
  unfold writeSreg
  refine get_good.bind fun _ => ?_
  split
  split
  · refine trapIf_bind_good fun hv => onMyCtx_good fun _ h => Ctx.good_tvec h ?_ ?_ rfl rfl rfl rfl <;> simp_all
  · exact onMyCtx_good
  · exact trapIf_good.bind fun _ => onMyCtx_good
  · exact onMyCtx_good
  · exact onMyCtx_good
  · exact onMyCore_good
  · exact onMyCore_good
  · exact onMyCtx_good
  · exact onMyCtx_good
  · exact .ite (trapIf_good.bind fun _ => onMyCore_good) (.ite trap_good trap_good)

theorem State.good.execTrap {x} (h : τ.good) : GoodNext (execTrap x τ) :=
  h.issue fun _ => src_good.bind fun _ => throw_trap_good

/-- WBASE in the trap frame of a context. -/
theorem Core.Good.frame_wbase {c : Core} (h : c.Good) (k : Nat) : ((c.frame k).get 0 3).toNat ≤ 1888 :=
  Table.get_of_forall (p := fun f : Table Word => (f.get 0 3).toNat ≤ 1888) h.tframes (Nat.zero_le _) _

theorem State.good.execEret {x} (h : τ.good) : GoodNext (execEret x τ) := by
  refine h.issue fun _ => myCtx_good.bind fun _ => trapIf_good.bind fun _ => me_good.bind fun _ => ?_
  split
  exact myCore_bind_good fun _ hx => onMyCtx_good fun _ h =>
    Ctx.good_wbase h ((Nat.mod_le _ _).trans (hx.frame_wbase _)) rfl rfl rfl

theorem State.good.execSysr {x} (h : τ.good) : GoodNext (execSysr x τ) := by
  refine h.issue fun _ => get_good.bind fun _ => ?_
  split
  · exact dst_good
  · exact trap_good

theorem State.good.execSysw {x} (h : τ.good) : GoodNext (execSysw x τ) :=
  h.issue fun _ => src_good.bind fun _ => writeSreg_good

theorem State.good.execBrk {x} (h : τ.good) : GoodNext (execBrk x τ) :=
  h.issue fun _ => throw_trap_good

theorem State.good.execHalt {x} (h : τ.good) : GoodNext (execHalt x τ) :=
  h.issue fun _ => src_good.bind fun _ => trap_good

theorem Core.Good.freeEntry {c : Core} (h : c.Good) (i : Nat) : (c.freeEntry i).Good :=
  ⟨Table.forall_map (p := (Ctx.good · = true)) h.ctxs fun _ => Ctx.good_fields, h.other, h.tframes⟩

theorem State.good.execJrnl {x} (h : τ.good) : GoodNext (execJrnl x τ) := by
  refine h.issue fun _ => src_good.bind fun _ => get_good.bind fun _ => ?_
  extract_lets -underBinder +onlyGivenNames i
  refine trapIf_good.bind fun _ => ?_
  extract_lets -underBinder +onlyGivenNames e
  split
  · exact dst_good
  · exact dst_good
  · exact dst_good
  · exact trapIf_good.bind fun _ => (onMyCore_good fun _ h => h.freeEntry _).bind fun _ => dst_good

/-! ### VectorArith -/

theorem Ctx.good_setLanes {c : Ctx} {vd : Nat} {ls : List (Nat × Lane)} (h : c.good = true) :
    (ls.foldl (fun c e => c.setLane vd e.1 e.2) c).good = true := by
  induction ls generalizing c with
  | nil => exact h
  | cons e r ih => exact ih (Ctx.good_fields h)

theorem putLanes_good {vd lanes} : (putLanes vd lanes).Good :=
  onMyCtx_good fun _ h => Ctx.good_setLanes h

theorem putMask_good {md bits} : (putMask md bits).Good :=
  (onMyCtx_good).bind fun _ => modify_good fun _ h => h.traceMask

theorem elementwise_good {x v rounds f} : (elementwise x v rounds f).Good :=
  myCtx_good.bind fun _ => .ite (drawsFor_good.bind fun _ => putLanes_good) (pure_good.bind fun _ => putLanes_good)

theorem vectorArith_good {x v i f} : (vectorArith x v i f).Good := elementwise_good

theorem vectorBits_good {x v f} : (vectorBits x v f).Good := elementwise_good

theorem State.good.execVadd {x} (h : τ.good) : GoodNext (execVadd x τ) :=
  h.issue fun _ => vectorArith_good

theorem State.good.execVsub {x} (h : τ.good) : GoodNext (execVsub x τ) :=
  h.issue fun _ => vectorArith_good

theorem State.good.execVmul {x} (h : τ.good) : GoodNext (execVmul x τ) :=
  h.issue fun _ => vectorArith_good

theorem State.good.execVfma {x} (h : τ.good) : GoodNext (execVfma x τ) :=
  h.issue fun _ => vectorArith_good

theorem State.good.execVmin {x} (h : τ.good) : GoodNext (execVmin x τ) :=
  h.issue fun _ => vectorBits_good

theorem State.good.execVmax {x} (h : τ.good) : GoodNext (execVmax x τ) :=
  h.issue fun _ => vectorBits_good

theorem State.good.execVand {x} (h : τ.good) : GoodNext (execVand x τ) :=
  h.issue fun _ => vectorBits_good

theorem State.good.execVor {x} (h : τ.good) : GoodNext (execVor x τ) :=
  h.issue fun _ => vectorBits_good

theorem State.good.execVxor {x} (h : τ.good) : GoodNext (execVxor x τ) :=
  h.issue fun _ => vectorBits_good

theorem State.good.execVshl {x} (h : τ.good) : GoodNext (execVshl x τ) :=
  h.issue fun _ => vectorBits_good

theorem State.good.execVshr {x} (h : τ.good) : GoodNext (execVshr x τ) :=
  h.issue fun _ => vectorBits_good

theorem State.good.execVneg {x} (h : τ.good) : GoodNext (execVneg x τ) :=
  h.issue fun _ => vectorBits_good

theorem State.good.execVcmp {x} (h : τ.good) : GoodNext (execVcmp x τ) :=
  h.issue fun _ => myCtx_good.bind fun _ => putMask_good

theorem State.good.execVsel {x} (h : τ.good) : GoodNext (execVsel x τ) :=
  h.issue fun _ => myCtx_good.bind fun _ => putLanes_good

theorem State.good.execVdot4 {x} (h : τ.good) : GoodNext (execVdot4 x τ) :=
  h.issue fun _ => myCtx_good.bind fun _ => putLanes_good

theorem State.good.execVcvt {x} (h : τ.good) : GoodNext (execVcvt x τ) :=
  h.issue fun _ => myCtx_good.bind fun _ => .ite (pure_good.bind fun _ => putLanes_good) (drawsFor_good.bind fun _ =>
    putLanes_good)

theorem State.good.execVsfu {x} (h : τ.good) : GoodNext (execVsfu x τ) :=
  h.issue fun _ => elementwise_good

theorem State.good.execVquant {x} (h : τ.good) : GoodNext (execVquant x τ) :=
  h.issue fun _ => myCtx_good.bind fun _ => trapIf_good.bind fun _ => drawsFor_good.bind fun _ => putLanes_good

/-! ### VectorMove -/

theorem State.good.execVmov {x} (h : τ.good) : GoodNext (execVmov x τ) := by
  refine h.issue fun _ => ?_
  extract_lets -underBinder +onlyGivenNames w j0
  have hj0 : ∀ a0, (j0 a0).Good := fun _ => myCtx_good.bind fun _ => putLanes_good
  split
  · exact pure_good.bind fun _ => hj0 _
  · exact .ite ((src_good.bind fun _ => pure_good).bind fun _ => hj0 _) (pure_good.bind fun _ => hj0 _)

theorem State.good.execVidx {x} (h : τ.good) : GoodNext (execVidx x τ) :=
  h.issue fun _ => src_good.bind fun _ => myCtx_good.bind fun _ => putLanes_good

theorem State.good.execVext {x} (h : τ.good) : GoodNext (execVext x τ) :=
  h.issue fun _ => myCtx_good.bind fun _ => trapIf_good.bind fun _ => dst_good

theorem State.good.execVins {x} (h : τ.good) : GoodNext (execVins x τ) :=
  h.issue fun _ => src_good.bind fun _ => myCtx_good.bind fun _ => trapIf_good.bind fun _ => putLanes_good

theorem State.good.execVclamp {x} (h : τ.good) : GoodNext (execVclamp x τ) :=
  h.issue fun _ => src_good.bind fun _ => vectorBits_good

theorem State.good.execMop {x} (h : τ.good) : GoodNext (execMop x τ) := by
  refine h.issue fun _ => ?_
  extract_lets -underBinder +onlyGivenNames j0
  have hj0 : ∀ a0, (j0 a0).Good := by
    intro _
    unfold j0
    refine myCtx_good.bind fun _ => ?_
    extract_lets -underBinder +onlyGivenNames lanes a b
    split
    · exact putMask_good
    · exact putMask_good
    · exact putMask_good
    · exact putMask_good
    · exact putMask_good
    · exact putMask_good
    · exact dst_good
    · exact dst_good
  exact .ite (src_good.bind fun _ => hj0 _) (pure_good.bind fun _ => hj0 _)

theorem State.good.execVshuf {x} (h : τ.good) : GoodNext (execVshuf x τ) :=
  h.issue fun _ => myCtx_good.bind fun _ => putLanes_good

theorem State.good.execVrot {x} (h : τ.good) : GoodNext (execVrot x τ) :=
  h.issue fun _ => src_good.bind fun _ => myCtx_good.bind fun _ => putLanes_good

theorem State.good.execVbcast {x} (h : τ.good) : GoodNext (execVbcast x τ) :=
  h.issue fun _ => src_good.bind fun _ => myCtx_good.bind fun _ => trapIf_good.bind fun _ => putLanes_good

theorem State.good.execVvote {x} (h : τ.good) : GoodNext (execVvote x τ) := by
  refine h.issue fun _ => myCtx_good.bind fun _ => ?_
  extract_lets -underBinder +onlyGivenNames act a
  split
  · exact dst_good
  · exact dst_good
  · exact dst_good
  · exact putMask_good

theorem State.good.execVmatch {x} (h : τ.good) : GoodNext (execVmatch x τ) := by
  refine h.issue fun _ => myCtx_good.bind fun _ => ?_
  extract_lets -underBinder +onlyGivenNames act a
  split
  · exact putMask_good
  · exact putMask_good
  · exact putLanes_good

theorem State.good.execVcomp {x} (h : τ.good) : GoodNext (execVcomp x τ) :=
  h.issue fun _ => myCtx_good.bind fun _ => putLanes_good.bind fun _ => dst_good

theorem State.good.execVred {x} (h : τ.good) : GoodNext (execVred x τ) :=
  h.issue fun _ => myCtx_good.bind fun _ => .ite (drawsFor_good.bind fun _ =>
    (.ite dst_good putLanes_good)) (pure_good.bind fun _ => (.ite dst_good putLanes_good))

theorem State.good.execVscan {x} (h : τ.good) : GoodNext (execVscan x τ) :=
  h.issue fun _ => myCtx_good.bind fun _ => .ite (drawsFor_good.bind fun _ => putLanes_good) (pure_good.bind fun _ =>
    putLanes_good)

/-! ### Dispatch -/

theorem State.good.execCore {i} (h : τ.good) (hi : (i.spec).isSome = true) : GoodNext (exec i τ) := by
  cases i with
  | add => exact h.execAdd
  | sub => exact h.execSub
  | mul => exact h.execMul
  | mulh => exact h.execMulh
  | div => exact h.execDiv
  | rem => exact h.execRem
  | and => exact h.execAnd
  | or => exact h.execOr
  | xor => exact h.execXor
  | andn => exact h.execAndn
  | shl => exact h.execShl
  | shr => exact h.execShr
  | rot => exact h.execRot
  | min => exact h.execMin
  | max => exact h.execMax
  | cmp => exact h.execCmp
  | addi => exact h.execAddi
  | andi => exact h.execAndi
  | ori => exact h.execOri
  | xori => exact h.execXori
  | shli => exact h.execShli
  | shri => exact h.execShri
  | cmpi => exact h.execCmpi
  | lit => exact h.execLit
  | sel => exact h.execSel
  | bcnt => exact h.execBcnt
  | bfx => exact h.execBfx
  | bfi => exact h.execBfi
  | addr => exact h.execAddr
  | adds => exact h.execAdds
  | fop => exact h.execFop
  | mad => exact h.execMad
  | br => exact h.execBr
  | bz => exact h.execBz
  | bcmp => exact h.execBcmp
  | call => exact h.execCall
  | ret => exact h.execRet
  | jr => exact h.execJr
  | callr => exact h.execCallr
  | loop => exact h.execLoop
  | bq => exact h.execBq
  | jtab => exact h.execJtab
  | nop => exact h.execNop
  | ldl => exact h.execLdl
  | stl => exact h.execStl
  | vldl => exact h.execVldl
  | vstl => exact h.execVstl
  | vgathl => exact h.execVgathl
  | vscatl => exact h.execVscatl
  | ldtx => exact h.execLdtx
  | rrot => exact h.execRrot
  | bankmode => exact h.execBankmode
  | fpush => exact h.execFpush
  | fpop => exact h.execFpop
  | rstl => exact h.execRstl
  | radd => exact h.execRadd
  | ld => exact h.execLd
  | st => exact h.execSt
  | vld => exact h.execVld
  | vst => exact h.execVst
  | vgath => exact h.execVgath
  | vscat => exact h.execVscat
  | pref => exact h.execPref
  | wlq => exact h.execWlq
  | wlwait => exact h.execWlwait
  | amo => exact h.execAmo
  | cas => exact h.execCas
  | cas2 => exact h.execCas2
  | lda => exact h.execLda
  | strel => exact h.execStrel
  | fence => exact h.execFence
  | afadd => exact h.execAfadd
  | lda2 => exact h.execLda2
  | barinit => exact h.execBarinit
  | arrive => exact h.execArrive
  | waitph => exact h.execWaitph
  | testph => exact h.execTestph
  | expect => exact h.execExpect
  | signal => exact h.execSignal
  | waitsig => exact h.execWaitsig
  | domain => exact h.execDomain
  | sync => exact h.execSync
  | xsend => exact h.execXsend
  | xwait => exact h.execXwait
  | start => exact h.execStart
  | endHelper => exact h.execEndHelper
  | hwait => exact h.execHwait
  | qbind => exact h.execQbind
  | qstat => exact h.execQstat
  | vclaim => exact h.execVclaim
  | vyield => exact h.execVyield
  | yield => exact h.execYield
  | nwait => exact h.execNwait
  | ndone => exact h.execNdone
  | task => exact h.execTask
  | vadd => exact h.execVadd
  | vsub => exact h.execVsub
  | vmul => exact h.execVmul
  | vfma => exact h.execVfma
  | vmin => exact h.execVmin
  | vmax => exact h.execVmax
  | vand => exact h.execVand
  | vor => exact h.execVor
  | vxor => exact h.execVxor
  | vshl => exact h.execVshl
  | vshr => exact h.execVshr
  | vcmp => exact h.execVcmp
  | vsel => exact h.execVsel
  | vcvt => exact h.execVcvt
  | vneg => exact h.execVneg
  | vdot4 => exact h.execVdot4
  | vsfu => exact h.execVsfu
  | vmov => exact h.execVmov
  | vidx => exact h.execVidx
  | vext => exact h.execVext
  | vins => exact h.execVins
  | vclamp => exact h.execVclamp
  | vquant => exact h.execVquant
  | mop => exact h.execMop
  | vshuf => exact h.execVshuf
  | vrot => exact h.execVrot
  | vvote => exact h.execVvote
  | vmatch => exact h.execVmatch
  | vred => exact h.execVred
  | vscan => exact h.execVscan
  | vcomp => exact h.execVcomp
  | vbcast => exact h.execVbcast
  | mtile => exact h.execMtile
  | mloadb => exact h.execMloadb
  | macc => exact h.execMacc
  | mread => exact h.execMread
  | mscale => exact h.execMscale
  | mwait => exact h.execMwait
  | mstat => exact h.execMstat
  | msoft => exact h.execMsoft
  | cpq => exact h.execCpq
  | cpseal => exact h.execCpseal
  | cpwait => exact h.execCpwait
  | cpstat => exact h.execCpstat
  | nmc => exact h.execNmc
  | nmfence => exact h.execNmfence
  | snew => exact h.execSnew
  | fork => exact h.execFork
  | sbind => exact h.execSbind
  | pplace => exact h.execPplace
  | squery => exact h.execSquery
  | sstep => exact h.execSstep
  | apush => exact h.execApush
  | apop => exact h.execApop
  | strunc => exact h.execStrunc
  | smigr => exact h.execSmigr
  | sret => exact h.execSret
  | join => exact h.execJoin
  | trap => exact h.execTrap
  | eret => exact h.execEret
  | sysr => exact h.execSysr
  | sysw => exact h.execSysw
  | brk => exact h.execBrk
  | halt => exact h.execHalt
  | jrnl => exact h.execJrnl
  | trace => exact h.execTrace
  | trig => exact h.execTrig
  | watch => exact h.execWatch
  | _ => cases hi

theorem State.good.execMicro {i} (h : τ.good) (hi : (i.micro?).isSome = true) : GoodNext (exec i τ) := by
  cases i with
  | smpMov => exact h.execSmpMov
  | smpLdi => exact h.execSmpLdi
  | smpAdd => exact h.execSmpAdd
  | smpSub => exact h.execSmpSub
  | smpMul => exact h.execSmpMul
  | smpFadd => exact h.execSmpFadd
  | smpFmul => exact h.execSmpFmul
  | smpFexp => exact h.execSmpFexp
  | smpFmax => exact h.execSmpFmax
  | smpCmp => exact h.execSmpCmp
  | smpBr => exact h.execSmpBr
  | smpBrc => exact h.execSmpBrc
  | smpLoop => exact h.execSmpLoop
  | smpCld => exact h.execSmpCld
  | smpCst => exact h.execSmpCst
  | smpCsortk => exact h.execSmpCsortk
  | smpCscan => exact h.execSmpCscan
  | smpCsel => exact h.execSmpCsel
  | smpRng => exact h.execSmpRng
  | smpCtrset => exact h.execSmpCtrset
  | smpCtrget => exact h.execSmpCtrget
  | smpEmit => exact h.execSmpEmit
  | smpHalt x => exact h.execSmpHalt x
  | smpFault => exact h.execSmpFault
  | _ => cases hi

theorem State.good.execEvent {i} (h : τ.good) (hi : i.isEvent = true) : GoodNext (exec i τ) := by
  cases i with
  | samplerDispatch => exact h.execSamplerDispatch
  | samplerTimeout => exact h.execSamplerTimeout
  | moduleReset => exact State.good.execModuleReset
  | lgoGo => exact h.execLgoGo
  | lgoStop => exact h.execLgoStop
  | lgoKill => exact h.execLgoKill
  | xlresolve => exact h.execXlresolve
  | prectlSuspend => exact h.execPrectlSuspend
  | prectlResume => exact h.execPrectlResume
  | clkrst => exact h.execClkrst
  | slotctlCommit => exact h.execSlotctlCommit
  | slotTableSwitch => exact h.execSlotTableSwitch
  | pwrctlTarget => exact h.execPwrctlTarget
  | powerTransitionDone => exact h.execPowerTransitionDone
  | cgateRequest => exact h.execCgateRequest
  | clusterUngateDone => exact h.execClusterUngateDone
  | mbcmdReadCounters => exact h.execMbcmdReadCounters
  | firmwareImageInstall => exact h.execFirmwareImageInstall
  | ownerKeyLoad => exact h.execOwnerKeyLoad
  | ownerKeyUnload => exact h.execOwnerKeyUnload
  | attestationRequest => exact h.execAttestationRequest
  | registerWrite => exact h.execRegisterWrite
  | hostCxlMemRead => exact h.execHostCxlMemRead
  | hostCxlMemWrite => exact h.execHostCxlMemWrite
  | cxlCacheSnoop => exact h.execCxlCacheSnoop
  | successorReady => exact h.execSuccessorReady
  | poolOverflowTransfer => exact h.execPoolOverflowTransfer
  | caravanDispatch => exact h.execCaravanDispatch
  | gangClose => exact h.execGangClose
  | gangCompletion => exact h.execGangCompletion
  | conditionEval => exact h.execConditionEval
  | switchEval => exact h.execSwitchEval
  | loopEval => exact h.execLoopEval
  | streamDrive => exact h.execStreamDrive
  | streamDriveComplete => exact h.execStreamDriveComplete
  | launchEnd => exact h.execLaunchEnd
  | nwaitTimeout => exact h.execNwaitTimeout
  | yieldExpire => exact h.execYieldExpire
  | queueDeadlock => exact h.execQueueDeadlock
  | regcacheRefill => exact h.execRegcacheRefill
  | fetchBlockFill => exact h.execFetchBlockFill
  | asyncTrapDelivery => exact h.execAsyncTrapDelivery
  | preemptPoint => exact h.execPreemptPoint
  | contextSaved => exact h.execContextSaved
  | contextResume => exact h.execContextResume
  | homeLoad => exact h.execHomeLoad
  | homeStore => exact h.execHomeStore
  | lineRecall => exact h.execLineRecall
  | wlqEntryDepart => exact h.execWlqEntryDepart
  | wlqEntryAccept => exact h.execWlqEntryAccept
  | writeWindowEnd => exact h.execWriteWindowEnd
  | hbmSlotService => exact h.execHbmSlotService
  | pageWalk owner va agent kind slot =>
    change GoodNext (Machine.execPageWalk owner va agent kind slot τ)
    exact h.execPageWalk
  | pageMoveComplete => exact h.execPageMoveComplete
  | importWrite => exact h.execImportWrite
  | remoteAck => exact h.execRemoteAck
  | macroOpAccept => exact h.execMacroOpAccept
  | mloadbComplete => exact h.execMloadbComplete
  | maccExecute => exact h.execMaccExecute
  | scaleFifoTimeout => exact h.execScaleFifoTimeout
  | mreadExecute => exact h.execMreadExecute
  | msoftExecute => exact h.execMsoftExecute
  | mtileMacroOp => exact h.execMtileMacroOp
  | matrixNodeRun => exact h.execMatrixNodeRun
  | splitkContribution => exact h.execSplitkContribution
  | copyEngineTake => exact h.execCopyEngineTake
  | copyNodeDispatch => exact h.execCopyNodeDispatch
  | copyComplete => exact h.execCopyComplete
  | copyStop => exact h.execCopyStop
  | batchComplete => exact h.execBatchComplete
  | destArithApply => exact h.execDestArithApply
  | postedWriteApply => exact h.execPostedWriteApply
  | postedWriteAck => exact h.execPostedWriteAck
  | postedWriteRefusal => exact h.execPostedWriteRefusal
  | nmcExecute => exact h.execNmcExecute
  | nmcStop => exact h.execNmcStop
  | barrierUpdate => exact h.execBarrierUpdate
  | syncBarrierComplete => exact h.execSyncBarrierComplete
  | exchangeSlotBegin => exact h.execExchangeSlotBegin
  | exchangePhaseEnd => exact h.execExchangePhaseEnd
  | xsendDeliver => exact h.execXsendDeliver
  | wadiResolve => exact h.execWadiResolve
  | joinNode => exact h.execJoinNode
  | xanwellOpen => exact h.execXanwellOpen
  | xanwellPage => exact h.execXanwellPage
  | xanwellQueue => exact h.execXanwellQueue
  | xanwellClose => exact h.execXanwellClose
  | xanwellResult => exact h.execXanwellResult
  | xanwellPut => exact h.execXanwellPut
  | xanwellGet => exact h.execXanwellGet
  | xanwellData => exact h
  | xanwellAck => exact h
  | xanwellUndefinedFlit => exact h.execXanwellUndefinedFlit
  | siroccoRecordCopy => exact h.execSiroccoRecordCopy
  | siroccoFrameClose => exact h.execSiroccoFrameClose
  | linkMapSnapshot => exact h.execLinkMapSnapshot
  | thermalWarn => exact h.execThermalWarn
  | thermalTrip => exact h.execThermalTrip
  | storageError => exact h.execStorageError
  | flashCounterUpdate => exact h.execFlashCounterUpdate
  | issueGovernorToken => exact h.execIssueGovernorToken
  | remoteLocalLoad core ctx va size => exact h.execRemoteLocalLoad va size
  | xmPortService => exact h.execXmPortService
  | cxlCacheResponse => exact h.execCxlCacheResponse
  | linkTraining => exact h.execLinkTraining
  | xanwellLinkFailure => exact h.execXanwellLinkFailure
  | powerLoss => exact State.good.execPowerLoss
  | unitMachineCheck => exact h.execUnitMachineCheck
  | _ => cases hi

theorem State.good.exec {i} (h : τ.good) : GoodNext (exec i τ) := by
  by_cases hs : (i.spec).isSome = true
  · exact h.execCore hs
  · by_cases hm : (i.micro?).isSome = true
    · exact h.execMicro hm
    · refine h.execEvent ?_
      simp_all [Instr.isEvent]

/-! ### Step -/

theorem State.good.turnOf {g k} (h : τ.good) : (τ.turnOf g k).good := h.fields

theorem State.good.decodeFault {g k fe pc w0 w1 e} (h : τ.good) : (decodeFault τ g k fe pc w0 w1 e).good := by
  unfold Machine.decodeFault
  dsimp only
  split
  · exact h.trapAt
  · exact h.trapAt
  · exact h.trapAt
  · exact h.trapAt
  · exact h.trapAt

theorem State.good.fetch {g k} (h : τ.good) : (τ.fetch g k).Good := by
  unfold State.fetch
  dsimp only
  split
  · exact h
  · split
    · rename_i e
      exact (h.fetchBlock.bytes_eq e).fillBlock
    · exact h.fetchBlock

theorem GoodNext.resend {g k clk i o} (h : GoodNext o) : GoodNext (resend g k clk i o) := by
  unfold Machine.resend
  split
  · split
    · rename_i e
      split
      · exact (State.good.fields (State.good.fetch h |>.bytes_eq e)).exec
      · exact h
    · exact h
  · exact h

theorem State.good.issueFetched {g k f} (h : τ.good) (hf : f.Good) : GoodNext (issueFetched τ g k f) := by
  unfold Machine.issueFetched
  dsimp only
  split
  · exact h.trapAt
  · exact h.waiting fun υ h => h.holdFault.unreadyEffect
  · exact h.waiting fun υ h => h.unreadyEffect
  · split
    · exact GoodNext.resend (hf.bytes_eq rfl).turnOf.exec
    · exact (hf.bytes_eq rfl).decodeFault

theorem State.good.issueAt {g k} (h : τ.good) : GoodNext (issueAt τ g k) := by
  unfold Machine.issueAt
  split
  · exact h.imageTrap.tick
  · exact h.pinLines.issueFetched h.pinLines.fetch

theorem State.good.contextTurn {g k} (h : τ.good) : GoodNext (contextTurn τ g k) := by
  unfold Machine.contextTurn
  dsimp only
  split
  · exact h.tick
  · split
    · exact h.fields.issueAt
    · split
      · rename_i e
        exact (h.deliverAsync.or h.takePreempt _ e).tick
      · split
        · split
          · exact h.tick
          · exact (h.onCtx).issueAt
        · exact h.issueAt

theorem State.good.issuedBy {g fe k} (h : τ.good) : (τ.issuedBy g fe k).good := .ite h (h.onCore)

theorem State.good.frontTurn {g fe late} (h : τ.good) : GoodNext (frontTurn τ g fe late) := by
  unfold Machine.frontTurn
  split
  · exact h.issuedBy.contextTurn
  · exact h.tick

theorem State.good.waitTurn {g k} (h : τ.good) : GoodNext (waitTurn τ g k) := by
  unfold Machine.waitTurn
  split
  · exact h.contextTurn
  · exact h.tick

theorem State.good.ownTurn {g k} (h : τ.good) : GoodNext (ownTurn τ g k) := by
  unfold Machine.ownTurn
  split
  · exact h.contextTurn
  · exact h.frontTurn

theorem State.good.turn (h : τ.good) : GoodNext (turn τ) := by
  unfold Machine.turn
  dsimp only
  split
  · exact h.ownTurn
  · split
    · exact h.fields.frontTurn
    · exact h.fields.waitTurn
    · exact h.fields.microTurn fun _ _ h => h.exec
    · split
      · exact h.fields.exec
      · exact h.fields
    · exact h.fields.maskVector
    · exact h.fields.tick

theorem State.good.complete {g k} (h : τ.good) : (τ.complete g k).good := by
  unfold State.complete
  split
  · exact h
  · split
    · rename_i e
      exact .ite (h.contextTurn.next_eq e).fields h
    · exact h

theorem State.good.settleTurn (h : τ.good) : (τ.settleTurn).good :=
  (((h.foldl (fun _ _ h => h.barrierComplete)).foldl (fun _ _ h => h.foldl (fun _ _ h =>
    h.complete))).foldl (fun _ _ h => h.phaseEnd)).noteClocks

theorem State.good.step (h : τ.good) : GoodNext (step τ) := by
  unfold Machine.step
  split
  · rename_i e
    exact (h.turn.next_eq e).settleTurn
  · exact h.turn

/-- Settles O58: every function that a step is made of leaves the contexts good, so the step does. -/
theorem contextsStayGood : Obligations.ContextsStayGood := fun _ _ h e => GoodNext.next_eq (State.good.step h) e

end Sys2Proof.Machine
end

section
/-! What module reset leaves: its state holds no core, so every context is the initial one (R137, R520). -/
namespace Sys2Proof.Machine

theorem State.reset_good : State.reset.good := fun _ he => absurd he List.not_mem_nil

theorem State.reset_ctx (g k : Nat) : State.reset.ctx g k = Ctx.initial k := rfl

/-- No instruction has run in a context after reset: its registers hold 0, it has no queue set and no lanes, and its race mode is the
default. -/
theorem Ctx.initial_registers (k : Nat) : (Ctx.initial k).wbase = 0 ∧ (Ctx.initial k).qset = 6 ∧ (Ctx.initial k).grant = 0
    ∧ (Ctx.initial k).racemode = 0x600 ∧ (Ctx.initial k).tvec = 0 ∧ (Ctx.initial k).intrap = false
    ∧ ∀ n, (Ctx.initial k).s n = 0 ∧ (Ctx.initial k).gr n = 0 := by
  unfold Ctx.initial
  split <;> exact ⟨rfl, rfl, rfl, rfl, rfl, rfl, fun _ => ⟨rfl, rfl⟩⟩

theorem Ctx.initial_free {k : Nat} (h : k ≠ 0) : (Ctx.initial k).hstate = .free := by rw [Ctx.initial, if_neg h]

/-- Settles O59: the reset state lists neither memory nor cores nor launches, so the contexts are `Ctx.initial` and both invariants hold.
That reset leaves these values is the model's own choice where the spec gives none (log 3, log 4). -/
theorem resetState : Obligations.ResetState :=
  ⟨rfl, rfl, State.reset_good, fun _ k => Ctx.initial_registers k, fun _ => ⟨rfl, rfl⟩, fun _ _ h => Ctx.initial_free h,
    fun _ => rfl, rfl⟩

end Sys2Proof.Machine
end

section
/-! Helpers, queue sets, YIELD and lane grants (row 7): what reading and writing operands leaves of every context of the part, the state in
which each instruction leaves it, and what that state holds. -/
namespace Sys2Proof.Machine

/-! ### What operands leave of the contexts -/

/-- Of every context, reading operands changes only the PC and the fetch buffer, and of the parked ones nothing. -/
structure ReadsCtxs (s t : State) : Prop where
  ctx : ∀ g k, t.ctx g k = { s.ctx g k with pc := (t.ctx g k).pc, fbuf := (t.ctx g k).fbuf }
  other : ∀ g, (t.core g).other = (s.core g).other

theorem State.ctx_onCore_of_ctxs (s : State) {g : Nat} {f : Core → Core} (hf : (f (s.core g)).ctxs = (s.core g).ctxs) (g' k : Nat) :
    (s.onCore g f).ctx g' k = s.ctx g' k := by
  unfold State.ctx
  by_cases h : g' = g
  · subst h
    rw [State.core_onCore]
    unfold Core.ctx
    rw [hf]
  · rw [State.core_onCore_other _ _ h]

theorem State.ctx_pull (s : State) (c : BitVec 6) (g k : Nat) : (s.pull c).2.ctx g k = s.ctx g k := by
  unfold State.pull
  split
  · split
    · rfl
    · exact s.ctx_onCore_of_ctxs rfl g k
  · rfl

theorem State.other_onCore_of_eq (s : State) {g : Nat} {f : Core → Core} (hf : (f (s.core g)).other = (s.core g).other) (g' : Nat) :
    ((s.onCore g f).core g').other = (s.core g').other := by
  by_cases h : g' = g
  · subst h
    rw [State.core_onCore, hf]
  · rw [State.core_onCore_other _ _ h]

theorem State.other_onCtx (s : State) (g k : Nat) (f : Ctx → Ctx) (g' : Nat) : ((s.onCtx g k f).core g').other = (s.core g').other := by
  by_cases h : g' = g
  · subst h
    rw [State.core_onCtx]
  · rw [State.core_onCtx_other _ _ _ h]

theorem State.other_pull (s : State) (c : BitVec 6) (g : Nat) : ((s.pull c).2.core g).other = (s.core g).other := by
  unfold State.pull
  split
  · split
    · rfl
    · exact s.other_onCore_of_eq rfl g
  · rfl

namespace ReadsCtxs
variable {s t u : State}

theorem begun (s : State) (i : Instr) : ReadsCtxs s (s.begun i) where
  ctx g k := by
    by_cases h : g = s.cur.1 ∧ k = s.cur.2
    · obtain ⟨rfl, rfl⟩ := h
      exact (Reads.begun s i).mine
    · have hc : (s.begun i).ctx g k = s.ctx g k := State.ctx_onCtx_other _ _ h
      rw [hc]
  other g := State.other_onCtx ..

theorem of_pull {c : BitVec 6} {v : Word} (h : ReadsCtxs s t) (hp : t.pull c = (v, u)) : ReadsCtxs s u := by
  have hu : (t.pull c).2 = u := by rw [hp]
  subst hu
  exact ⟨fun g k => by rw [State.ctx_pull]; exact h.ctx g k, fun g => (State.other_pull ..).trans (h.other g)⟩

variable (h : ReadsCtxs s t)
include h

theorem congr {α : Type} (f : Ctx → α) (g k : Nat)
    (hf : ∀ x y, f { s.ctx g k with pc := x, fbuf := y } = f (s.ctx g k) := by exact fun _ _ => rfl) : f (t.ctx g k) = f (s.ctx g k) := by rw [h.ctx, hf]

theorem taken (g n : Nat) (fe : FE) (but : Option Nat) : (t.core g).taken n fe but = (s.core g).taken n fe but := by
  have hb (k : Nat) : ((t.core g).ctx k).binds n fe = ((s.core g).ctx k).binds n fe := h.congr (·.binds n fe) g k
  unfold Core.taken
  simp only [hb, h.other]

theorem freeLanes (g : Nat) : t.freeLanes g = s.freeLanes g := by
  have hg (k j : Nat) : (t.ctx k j).grant = (s.ctx k j).grant := h.congr Ctx.grant k j
  unfold State.freeLanes
  simp only [hg]

end ReadsCtxs

/-- Writing an operand changes a register of the context that issues, or a queue. -/
theorem State.ctx_give_other (s : State) (c : BitVec 6) (v : Word) {g k : Nat} (h : ¬(g = s.cur.1 ∧ k = s.cur.2)) :
    (s.give c v).ctx g k = s.ctx g k := by
  unfold State.give
  split
  · exact State.ctx_onCtx_other _ _ h
  · split
    · exact State.ctx_onCtx_other _ _ h
    · split
      · exact s.ctx_onCore_of_ctxs rfl g k
      · rfl

theorem State.mine_give_congr {α : Type} (f : Ctx → α) (s : State) (c : BitVec 6) (v : Word)
    (hf : ∀ x y, f { s.mine with win := x, g := y } = f s.mine := by exact fun _ _ => rfl) : f (s.give c v).mine = f s.mine := by
  unfold State.give
  split
  · rw [State.mine_onMine]
    exact hf ..
  · split
    · rw [State.mine_onMine]
      exact hf ..
    · split
      · exact congrArg f (s.ctx_onCore_of_ctxs rfl _ _)
      · rfl

/-! ### START (R151) -/

theorem ctxNumbers_eq_range : ctxNumbers = List.range 13 := rfl

section Start
variable {s sa sb t : State} {x : RFields} {a b : Word}

/-- The lowest free helper. -/
theorem Core.find_free {c : Core} {j : Nat} (hj : j ∈ ctxNumbers) (h0 : j ≠ 0) (hfree : (c.ctx j).hstate = .free)
    (hlow : ∀ i ∈ ctxNumbers, i < j → i ≠ 0 → (c.ctx i).hstate ≠ .free) :
    ctxNumbers.find? (fun j => j ≠ 0 && decide ((c.ctx j).hstate = .free)) = some j := by
  rw [ctxNumbers_eq_range] at hj hlow ⊢
  rw [List.find?_range_eq_some]
  refine ⟨by simp [h0, hfree], hj, fun i hi => ?_⟩
  have hmem : i ∈ List.range 13 := List.mem_range.2 (hi.trans (List.mem_range.1 hj))
  simpa [or_iff_not_imp_left] using hlow i hmem hi

theorem Core.find_free_none {c : Core} (h : ∀ j ∈ ctxNumbers, j ≠ 0 → (c.ctx j).hstate ≠ .free) :
    ctxNumbers.find? (fun j => j ≠ 0 && decide ((c.ctx j).hstate = .free)) = none :=
  List.find?_eq_none.2 fun j hj => by simpa using h j hj

/-- The state in which START has started helper j. -/
def State.withHelper (s : State) (j : Nat) (fe : FE) (q : Nat) (pc s0 : Word) : State :=
  let r := s.onMine fun c => { c with l := c.l + 1 }
  (r.onCtx s.cur.1 j fun h => h.started r.mine j fe q pc s0 s.mine.l).onMine fun c => { c with hlive := c.hlive ||| BitVec.ofNat 13 (2 ^ j) }

/-- The checks of START on a control context. -/
theorem startChecks_run {m : Core → M Unit} {aval : Word} {r : Except Stop (Unit × State)} (hc : sb.cur = s.cur) (hk : s.cur.2 = 0)
    (hal : a.toNat % 64 = 0) (hlt : a.toNat < 2 ^ 56) (h : (m (sb.core s.cur.1)).run sb = r) : (do
      trapIf (decide (s.cur.2 ≠ 0)) 0x0E2 aval
      trapIf (decide (a.toNat % 64 ≠ 0) || decide (2 ^ 56 ≤ a.toNat)) 0x021 a
      let core ← myCore
      m core : M Unit).run sb = r := by
  have hbad : (decide (a.toNat % 64 ≠ 0) || decide (2 ^ 56 ≤ a.toNat)) = false := by
    rw [Bool.or_eq_false_iff, decide_eq_false_iff_not, decide_eq_false_iff_not]
    exact ⟨not_not.2 hal, not_le.2 hlt⟩
  rw [← hc] at h
  exact bind_run_of (trapIf_run_false (decide_eq_false (not_not.2 hk)) ..) <| bind_run_of (trapIf_run_false hbad ..) <|
    bind_run_of (myCore_run sb) h

section Issue
variable (hi : Issues (.start x) s) (hk : s.cur.2 = 0) (ha : (s.begun (.start x)).pull x.a = (a, sa)) (hb : sa.pull x.b = (b, sb))
  (hal : a.toNat % 64 = 0) (hlt : a.toNat < 2 ^ 56)
include hi hk ha hb hal hlt

variable {q : Nat} {fe : FE} (hq : x.fn.toNat / 2 = q) (hfe : (if x.fn.toNat % 2 = 1 then FE.x else FE.a) = fe)
include hq hfe

theorem exec_start_taken (ht : q ≤ 5 ∧ (s.core s.cur.1).taken q fe none = true) :
    exec (.start x) s = .next ((sb.give x.d (-2)).completed (.start x)) := by
  have hr := ((Reads.begun s (.start x)).of_pull ha).of_pull hb
  have hc := ((ReadsCtxs.begun s (.start x)).of_pull ha).of_pull hb
  subst hq hfe
  rw [← hc.taken] at ht
  refine issue_ok hi (bind_run_of (src_run_of ha) <| bind_run_of (src_run_of hb) <| bind_run_of (me_run_of hr.cur) <|
    startChecks_run hr.cur hk hal hlt ?_) ((State.give_cur ..).trans hr.cur)
  exact ite_run_pos ht <| dst_run ..

variable (ht : ¬(q ≤ 5 ∧ (s.core s.cur.1).taken q fe none = true))
include ht

theorem exec_start_full (hf : ∀ j ∈ ctxNumbers, j ≠ 0 → ((s.core s.cur.1).ctx j).hstate ≠ .free) :
    exec (.start x) s = .next ((sb.give x.d (-1)).completed (.start x)) := by
  have hr := ((Reads.begun s (.start x)).of_pull ha).of_pull hb
  have hc := ((ReadsCtxs.begun s (.start x)).of_pull ha).of_pull hb
  subst hq hfe
  rw [← hc.taken] at ht
  have hn := Core.find_free_none (c := sb.core s.cur.1) fun j hj h0 => (hc.congr Ctx.hstate s.cur.1 j).trans_ne (hf j hj h0)
  refine issue_ok hi (bind_run_of (src_run_of ha) <| bind_run_of (src_run_of hb) <| bind_run_of (me_run_of hr.cur) <|
    startChecks_run hr.cur hk hal hlt ?_) ((State.give_cur ..).trans hr.cur)
  refine ite_run_neg ht ?_
  rw [hn]
  exact dst_run ..

theorem exec_start_free {j : Nat} (hj : j ∈ ctxNumbers) (h0 : j ≠ 0) (hfree : ((s.core s.cur.1).ctx j).hstate = .free)
    (hlow : ∀ i ∈ ctxNumbers, i < j → i ≠ 0 → ((s.core s.cur.1).ctx i).hstate ≠ .free) (hl : s.mine.l + 1 < clockLimit) :
    exec (.start x) s = .next (((sb.withHelper j fe q a b).give x.d (BitVec.ofNat 64 j)).completed (.start x)) := by
  have hr := ((Reads.begun s (.start x)).of_pull ha).of_pull hb
  have hc := ((ReadsCtxs.begun s (.start x)).of_pull ha).of_pull hb
  subst hq hfe
  rw [← hc.taken] at ht
  have hn := Core.find_free (c := sb.core s.cur.1) hj h0 ((hc.congr Ctx.hstate s.cur.1 j).trans hfree)
    fun i hi hij hi0 => (hc.congr Ctx.hstate s.cur.1 i).trans_ne (hlow i hi hij hi0)
  refine issue_ok hi (bind_run_of (src_run_of ha) <| bind_run_of (src_run_of hb) <| bind_run_of (me_run_of hr.cur) <|
    startChecks_run hr.cur hk hal hlt ?_) ((State.give_cur ..).trans hr.cur)
  refine ite_run_neg ht ?_
  rw [hn]
  exact bind_run_of (release_run (by rwa [hr.congr_mine Ctx.l])) <| bind_run_of (myCtx_run ..) <| bind_run_of (modify_run ..) <|
    bind_run_of (onMyCtx_run ..) <| dst_run ..
end Issue

theorem State.withHelper_cur (s : State) (j : Nat) (fe : FE) (q : Nat) (pc s0 : Word) : (s.withHelper j fe q pc s0).cur = s.cur := rfl

/-- What a started helper takes from its control context, and from the slot that it starts in. -/
theorem Ctx.started_congr {c c' d d' : Ctx} {j q p : Nat} {fe : FE} {pc s0 : Word} (ha : c.acks = c'.acks) (hm : d.racemode = d'.racemode)
    (hk : d.gkey = d'.gkey) (hp : d.gpos = d'.gpos) (hl : d.launch = d'.launch) :
    c.started d j fe q pc s0 p = c'.started d' j fe q pc s0 p := by
  rw [Ctx.started, Ctx.started, ha, hm, hk, hp, hl]

/-- The helper that START has started. -/
theorem State.ctx_withHelper {j : Nat} (hj : j ≠ s.cur.2) (fe : FE) (q : Nat) (pc s0 : Word) :
    (s.withHelper j fe q pc s0).ctx s.cur.1 j = (s.ctx s.cur.1 j).started s.mine j fe q pc s0 s.mine.l := by
  have hne : ¬(s.cur.1 = s.cur.1 ∧ j = s.cur.2) := fun h => hj h.2
  refine (State.ctx_onCtx_other _ _ hne).trans <| (State.ctx_onCtx ..).trans ?_
  rw [State.mine_onMine, State.onMine, State.ctx_onCtx_other _ _ hne]
  rfl

theorem State.mine_withHelper {j : Nat} (hj : j ≠ s.cur.2) (fe : FE) (q : Nat) (pc s0 : Word) :
    (s.withHelper j fe q pc s0).mine = { s.mine with l := s.mine.l + 1, hlive := s.mine.hlive ||| BitVec.ofNat 13 (2 ^ j) } := by
  have hne : ¬(s.cur.1 = s.cur.1 ∧ s.cur.2 = j) := fun h => hj h.2.symm
  refine (State.mine_onMine ..).trans ?_
  rw [State.mine, State.onCtx_cur, State.onMine_cur, State.ctx_onCtx_other _ _ hne, State.onMine, State.ctx_onCtx]
  rfl

end Start
/-! ### END (R152) -/

/-- Nothing of the contexts differs but their pending traps; memory, and whose turn it is, do not. -/
structure PendOnly (s t : State) : Prop where
  mem : t.mem = s.mem
  cur : t.cur = s.cur
  ctx : ∀ g k, t.ctx g k = { s.ctx g k with pend := (t.ctx g k).pend }

namespace PendOnly
variable {s t : State}

theorem refl (s : State) : PendOnly s s := ⟨rfl, rfl, fun _ _ => rfl⟩

/-- Every field but memory, the cores and whose turn it is is free, so that the lemma unifies with any record update. -/
theorem fields {clk agenda smp poison lmPoison keyed lines sums metaUse hostClk imports launches caravans drives domains
  owners streams nodes pages gone replay poolUsed tlbs icache held matrix jobs rotor moves engSeq near chans array samplers groups
  wadi transfers arrivals flits sirocco dev seen free fresh} (h : PendOnly s t) : PendOnly s ⟨clk, agenda, t.cur, smp, t.mem, poison,
  lmPoison, keyed, lines, sums, metaUse, hostClk, imports, t.cores, launches, caravans, drives, domains, owners, streams, nodes,
  pages, gone, replay, poolUsed, tlbs, icache, held, matrix, jobs, rotor, moves, engSeq, near, chans, array, samplers, groups, wadi,
  transfers, arrivals, flits, sirocco, dev, seen, free, fresh⟩ :=
  ⟨h.mem, h.cur, h.ctx⟩

theorem ite {c : Prop} [Decidable c] {u : State} (h1 : PendOnly s t) (h2 : PendOnly s u) : PendOnly s (if c then t else u) := by
  split <;> assumption

theorem foldl {α : Type} {f : State → α → State} {l : List α} (h : PendOnly s t) (hf : ∀ u a, PendOnly s u → PendOnly s (f u a)) :
    PendOnly s (l.foldl f t) :=
  List.foldlRecOn l f h fun u hu a _ => hf u a hu

theorem onCore {g : Nat} {f : Core → Core} (h : PendOnly s t) (hf : (f (t.core g)).ctxs = (t.core g).ctxs := by rfl) :
    PendOnly s (t.onCore g f) :=
  ⟨h.mem, h.cur, fun g' k => by rw [State.ctx_onCore_of_ctxs _ hf]; exact h.ctx g' k⟩

theorem onPend {g k : Nat} {f : Ctx → List Pend} (h : PendOnly s t) : PendOnly s (t.onCtx g k fun c => { c with pend := f c }) where
  mem := h.mem
  cur := h.cur
  ctx g' k' := by
    by_cases hg : g' = g ∧ k' = k
    · obtain ⟨rfl, rfl⟩ := hg
      rw [State.ctx_onCtx, h.ctx]
    · rw [State.ctx_onCtx_other _ _ hg]
      exact h.ctx g' k'

theorem onLaunch {n f} (h : PendOnly s t) : PendOnly s (t.onLaunch n f) := h.fields

theorem placeLines {agent l lines} (h : PendOnly s t) : PendOnly s (t.placeLines agent l lines).1 := by
  rw [State.placeLines_eq]
  exact h.fields

theorem unitStep {n p} (h : PendOnly s t) : PendOnly s (t.unitStep n p) := h.fields.placeLines.fields

theorem readmit {w} (h : PendOnly s t) : PendOnly s (t.readmit w) := by
  unfold State.readmit
  split
  · exact h
  · exact .ite h.fields.unitStep.fields h

theorem purgeDie {slot d} (h : PendOnly s t) : PendOnly s (t.purgeDie slot d) :=
  PendOnly.foldl (f := fun s (e : PoolEntry) => s.readmit e.stream) h.fields fun _ _ h => h.readmit

theorem undrive {slot} (h : PendOnly s t) : PendOnly s (t.undrive slot) := h.foldl fun _ _ h => (h.unitStep.ite h).fields

theorem purge {slot} (h : PendOnly s t) : PendOnly s (t.purge slot) := by
  unfold State.purge
  exact (h.foldl fun _ _ h => h.purgeDie).undrive.fields.onLaunch

theorem stopLaunch {slot code endState} (h : PendOnly s t) : PendOnly s (t.stopLaunch slot code endState) :=
  .ite h.purge.onLaunch (.ite h.onLaunch (.ite h.onLaunch h))

theorem trace {g k kind p} (h : PendOnly s t) : PendOnly s (t.trace g k kind p) := .ite h.onCore h

theorem unhandled {o p} (h : PendOnly s t) : PendOnly s (t.unhandled o p) := by
  unfold State.unhandled State.utrap
  exact h.trace.onLaunch

theorem onOrigin {o k} {f : Ctx → List Pend} (h : PendOnly s t) : PendOnly s (t.onOrigin o k fun c => { c with pend := f c }) :=
  .ite h.onPend (.ite h.onCore h)

theorem post {o p} (h : PendOnly s t) : PendOnly s (t.post o p) := by
  unfold State.post
  split
  · exact h.onOrigin
  · exact h.unhandled.stopLaunch

theorem passPend {g k} (h : PendOnly s t) : PendOnly s (t.passPend g k) := h.onPend.foldl fun _ _ h => h.post

theorem releaseTiles {g k} (h : PendOnly s t) : PendOnly s (t.releaseTiles g k) := .ite h.fields h

theorem orphan {g k} (h : PendOnly s t) : PendOnly s (t.orphan g k) := by
  unfold State.orphan
  exact PendOnly.onCore h.fields

theorem congr {α : Type} (h : PendOnly s t) (f : Ctx → α) (hf : ∀ x, f { s.mine with pend := x } = f s.mine := by exact fun _ => rfl) :
    f t.mine = f s.mine := by
  unfold State.mine at hf ⊢
  rw [h.cur, h.ctx, hf]

end PendOnly

section EndHelper
variable {s : State} {x : RFields}

/-- The open batch of a context that ends is sealed where it is used (R152). -/
def State.sealUsed (s : State) : State := if s.mine.openBatch.used then s.onMine (·.seal) else s

/-- The state in which a helper has published and left its registers. -/
def State.withFinished (s : State) : State := (s.onMine fun c => { c with l := c.l + 1 }).onMine (·.finished s.mine.l)

/-- The state in which END leaves the part: tiles, operations under way and pending traps of the helper have passed on. -/
def State.helperLeft (s : State) (g k : Nat) : State := (((s.releaseTiles g k).orphan g k).passPend g k).onCore g (·.dropLines k)

theorem PendOnly.helperLeft (s : State) (g k : Nat) : PendOnly s (s.helperLeft g k) := (PendOnly.refl s).releaseTiles.orphan.passPend.onCore

theorem State.sealUsed_cur (s : State) : s.sealUsed.cur = s.cur := by
  unfold State.sealUsed
  split <;> rfl

theorem State.sealUsed_mem (s : State) : s.sealUsed.mem = s.mem := by
  unfold State.sealUsed
  split <;> rfl

theorem State.mine_sealUsed_l (s : State) : s.sealUsed.mine.l = s.mine.l := by
  unfold State.sealUsed
  split
  · rw [State.mine_onMine]
    rfl
  · rfl

theorem sealUsed_run {m : M Unit} {r : Except Stop (Unit × State)} (h : s.mine.openBatch.used = false ∨ s.mine.batches.length < 16)
    (hm : m.run s.sealUsed = r) : (if !s.mine.openBatch.used then m
      else if 16 ≤ s.mine.batches.length then do
        wait
        m
      else do
        onMyCtx (·.seal)
        m).run s = r := by
  unfold State.sealUsed at hm
  cases hu : s.mine.openBatch.used with
  | false =>
    rw [hu] at hm
    exact hm
  | true =>
    rw [hu] at hm h
    exact ite_run_neg (by decide) <| ite_run_neg (not_le.2 (h.resolve_left (by decide))) <| bind_run_of (onMyCtx_run ..) hm

theorem exec_endHelper (hi : Issues (.endHelper x) s) (hk : s.cur.2 ≠ 0) (hb : s.mine.openBatch.used = false ∨ s.mine.batches.length < 16)
    (hl : s.mine.l + 1 < clockLimit) :
    exec (.endHelper x) s =
      .next (((s.begun (.endHelper x)).sealUsed.withFinished.helperLeft s.cur.1 s.cur.2).completed (.endHelper x)) := by
  have hr := Reads.begun s (.endHelper x)
  refine issue_ok hi (bind_run_of (me_run_of hr.cur) <| bind_run_of (trapIf_run_false (decide_eq_false hk) ..) <|
    bind_run_of (myCtx_run _) <| sealUsed_run ?_ <| bind_run_of (release_run ?_) <| bind_run_of (onMyCtx_run ..) <|
    modify_run ..) ((PendOnly.helperLeft ..).cur.trans (State.sealUsed_cur _))
  · rwa [hr.congr_mine Ctx.openBatch, hr.congr_mine Ctx.batches]
  · rwa [State.mine_sealUsed_l, hr.congr_mine Ctx.l]

/-- What END leaves of the helper. -/
theorem State.mine_withFinished (s : State) : s.withFinished.mine = { s.mine with l := s.mine.l + 1 }.finished s.mine.l := by
  unfold State.withFinished
  rw [State.mine_onMine, State.mine_onMine]

end EndHelper

/-! ### HWAIT (R153) -/

section Hwait
variable {s sa : State} {x : RFields} {a : Word} {js : List Nat}

/-- The helpers that a word names (R153). -/
def namedBy (a : Word) : List Nat := ctxNumbers.filter (fun j => a.getLsbD j)

/-- The greatest clock that the named helpers published. -/
def Core.published (c : Core) (js : List Nat) : Nat := js.foldl (fun p j => max p (c.ctx j).endp) 0

/-- The named helpers that ended abnormally, one bit each. -/
def Core.abnormal (c : Core) (js : List Nat) : Word := BitVec.ofNat 64 ((js.filter (fun j => (c.ctx j).abn)).foldl (fun m j => m + 2 ^ j) 0)

/-- Ended helpers become free; they keep the counts of their acknowledgements (log 38). -/
def State.freeHelpers (s : State) (g : Nat) (js : List Nat) : State :=
  js.foldl (fun s j => s.onCtx g j (fun h => { Ctx.initial j with acks := h.acks })) s

/-- The state in which HWAIT has joined the helpers that it names. -/
def State.joined (s : State) (g : Nat) (a : Word) (p : Nat) : State :=
  ((s.acquires p).freeHelpers g (namedBy a)).onMine fun c => { c with hlive := c.hlive &&& ~~~(a.setWidth 13) }

theorem State.freeHelpers_cur (s : State) (g : Nat) (js : List Nat) : (s.freeHelpers g js).cur = s.cur := by
  induction js generalizing s with
  | nil => rfl
  | cons j js ih => exact ih _

theorem State.joined_cur (s : State) (g : Nat) (a : Word) (p : Nat) : (s.joined g a p).cur = s.cur := State.freeHelpers_cur ..

theorem State.ctx_freeHelpers_other {g k : Nat} (s : State) (h : k ∉ js) : (s.freeHelpers g js).ctx g k = s.ctx g k := by
  induction js generalizing s with
  | nil => rfl
  | cons j js ih =>
    rw [List.mem_cons, not_or] at h
    exact (ih _ h.2).trans (State.ctx_onCtx_other _ _ fun e => h.1 e.2)

theorem State.hstate_freeHelpers {g k : Nat} (s : State) (h : k ∈ js) (hk : k ≠ 0) : ((s.freeHelpers g js).ctx g k).hstate = .free := by
  induction js generalizing s with
  | nil => exact absurd h List.not_mem_nil
  | cons j js ih =>
    by_cases hm : k ∈ js
    · exact ih _ hm
    · obtain rfl : k = j := (List.mem_cons.1 h).resolve_right hm
      refine (congrArg Ctx.hstate ((State.ctx_freeHelpers_other _ hm).trans (State.ctx_onCtx ..))).trans ?_
      exact congrArg Ctx.hstate (if_neg hk)

/-- A sum of different powers of two has the bits of its exponents. -/
theorem testBit_foldl_two_pow {l : List Nat} (hl : l.SortedLT) (j : Nat) :
    (l.foldl (fun m j => m + 2 ^ j) 0).testBit j = decide (j ∈ l) := by
  have h : l.foldl (fun m j => m + 2 ^ j) 0 = (l.map (2 ^ ·)).sum := by rw [List.sum_eq_foldl, List.foldl_map]
  rw [h, Bool.eq_iff_iff, decide_eq_true_iff, ← Nat.mem_bitIndices, Nat.bitIndices_sum_map_two_pow hl]

theorem Core.getLsbD_abnormal (c : Core) (a : Word) {j : Nat} (hj : j < 13) :
    (c.abnormal (namedBy a)).getLsbD j = (decide (j ∈ namedBy a) && (c.ctx j).abn) := by
  have hl : ((namedBy a).filter (fun j => (c.ctx j).abn)).SortedLT  := (List.Pairwise.filter _ (List.Pairwise.filter _ (by decide))).sortedLT
  rw [Core.abnormal, BitVec.getLsbD_ofNat, testBit_foldl_two_pow hl, decide_eq_true (show j < 64 by omega)]
  simp [List.mem_filter]

section Issue
variable (ha : (s.begun (.hwait x)).pull x.a = (a, sa))
include ha

/-- The checks of HWAIT on a control context. -/
theorem hwaitChecks_run {m : M Unit} {aval : Word} {r : Except Stop (Unit × State)} (hk : s.cur.2 = 0) (h0 : a.getLsbD 0 = false)
    (hlt : a.toNat < 2 ^ 13) (hlive : ∀ j ∈ namedBy a, s.mine.hlive.getLsbD j = true) (h : m.run sa = r) : (do
      trapIf (decide (s.cur.2 ≠ 0)) 0x0E2 aval
      let c ← myCtx
      trapIf (a.getLsbD 0 || decide (2 ^ 13 ≤ a.toNat) || (namedBy a).any (fun j => !c.hlive.getLsbD j)) 0x0EA aval
      m : M Unit).run sa = r := by
  have hr := (Reads.begun s (.hwait x)).of_pull ha
  have hl : (namedBy a).any (fun j => !sa.mine.hlive.getLsbD j) = false := by
    rw [hr.congr_mine Ctx.hlive]
    simpa using hlive
  exact bind_run_of (trapIf_run_false (decide_eq_false (not_not.2 hk)) ..) <| bind_run_of (myCtx_run _) <|
    bind_run_of (trapIf_run_false (by rw [h0, hl, decide_eq_false (not_le.2 hlt)]; rfl) ..) h

/-- What HWAIT reads of the core's contexts, it reads of the state before it. -/
theorem congr_hwait {α : Type} (f : Ctx → α) (j : Nat)
    (hf : ∀ c x y, f { c with pc := x, fbuf := y } = f c := by exact fun _ _ _ => rfl) : f ((sa.core sa.cur.1).ctx j) = f ((s.core s.cur.1).ctx j) := by
  rw [((Reads.begun s (.hwait x)).of_pull ha).cur]
  exact ((ReadsCtxs.begun s (.hwait x)).of_pull ha).congr f s.cur.1 j fun _ _ => hf ..

variable (hi : Issues (.hwait x) s) (hk : s.cur.2 = 0) (h0 : a.getLsbD 0 = false) (hlt : a.toNat < 2 ^ 13)
  (hlive : ∀ j ∈ namedBy a, s.mine.hlive.getLsbD j = true)
include hi hk h0 hlt hlive

theorem exec_hwait_none (hn : namedBy a = []) : exec (.hwait x) s = .next ((sa.give x.d 0).completed (.hwait x)) := by
  have hr := (Reads.begun s (.hwait x)).of_pull ha
  exact issue_ok hi (bind_run_of (src_run_of ha) <| bind_run_of (me_run_of hr.cur) <|
    hwaitChecks_run ha hk h0 hlt hlive <| ite_run_pos hn <| dst_run ..) ((State.give_cur ..).trans hr.cur)

theorem exec_hwait_ended (hn : namedBy a ≠ []) (he : ∀ j ∈ namedBy a, ((s.core s.cur.1).ctx j).hstate = .ended)
    (hl : max s.mine.h ((s.core s.cur.1).published (namedBy a)) + 1 < clockLimit) : exec (.hwait x) s =
      .next (((sa.joined s.cur.1 a ((s.core s.cur.1).published (namedBy a))).give x.d ((s.core s.cur.1).abnormal (namedBy a))).completed
        (.hwait x)) := by
  have hr := (Reads.begun s (.hwait x)).of_pull ha
  have hp : (s.core s.cur.1).published (namedBy a) = (sa.core sa.cur.1).published (namedBy a) := by
    simp only [Core.published, congr_hwait ha Ctx.endp]
  have hv : (s.core s.cur.1).abnormal (namedBy a) = (sa.core sa.cur.1).abnormal (namedBy a) := by
    simp only [Core.abnormal, congr_hwait ha Ctx.abn]
  have hw : ¬(namedBy a).any (fun j => ((sa.core sa.cur.1).ctx j).hstate ≠ .ended) = true := by
    simpa [congr_hwait ha Ctx.hstate] using he
  rw [hp] at hl ⊢
  rw [hv]
  refine issue_ok hi (bind_run_of (src_run_of ha) <| bind_run_of (me_run_of hr.cur) <|
    hwaitChecks_run ha hk h0 hlt hlive <| ite_run_neg hn <| bind_run_of (myCore_run sa) <| ite_run_neg hw <|
    bind_run_of (acquire_run (by rwa [hr.congr_mine Ctx.h])) <| bind_run_of (modify_run ..) <|
    bind_run_of (onMyCtx_run ..) <| dst_run ..) (((State.give_cur ..).trans (State.joined_cur ..)).trans hr.cur)
end Issue

/-- A joined helper is free. -/
theorem State.hstate_joined (s : State) (g p : Nat) {j : Nat} (hk : s.cur.2 = 0) (hj : j ∈ namedBy a) (h0 : j ≠ 0) :
    ((s.joined g a p).ctx g j).hstate = .free := by
  have hc : ((s.acquires p).freeHelpers g (namedBy a)).cur = s.cur := State.freeHelpers_cur ..
  refine (congrArg Ctx.hstate (State.ctx_onCtx_other _ _ fun e => ?_)).trans (State.hstate_freeHelpers _ hj h0)
  rw [hc, hk] at e
  exact h0 e.2

/-- What joining leaves of the control context. -/
theorem State.mine_joined (s : State) (p : Nat) (h : s.cur.2 ∉ namedBy a) :
    (s.joined s.cur.1 a p).mine = { s.mine.acquire p with hlive := s.mine.hlive &&& ~~~(a.setWidth 13) } := by
  have hm : ((s.acquires p).freeHelpers s.cur.1 (namedBy a)).mine = s.mine.acquire p := by
    rw [State.mine, State.freeHelpers_cur, State.acquires, State.onMine_cur, State.ctx_freeHelpers_other _ h]
    exact State.mine_onMine ..
  rw [State.joined, State.mine_onMine, hm]
  rfl

end Hwait
theorem namedBy_ne_zero {a : Word} (h : a.getLsbD 0 = false) {j : Nat} (hj : j ∈ namedBy a) : j ≠ 0 := by
  rintro rfl
  exact absurd (List.mem_filter.1 hj).2 (by rw [h]; decide)

section Clauses
variable {s sa sb : State} {x : RFields} {a b : Word}

theorem exec_start_started (hi : Issues (.start x) s) (hk : s.cur.2 = 0) (ha : (s.begun (.start x)).pull x.a = (a, sa))
    (hb : sa.pull x.b = (b, sb)) (hal : a.toNat % 64 = 0) (hlt : a.toNat < 2 ^ 56) {q : Nat} {fe : FE} (hq : x.fn.toNat / 2 = q)
    (hfe : (if x.fn.toNat % 2 = 1 then FE.x else FE.a) = fe) (ht : ¬(q ≤ 5 ∧ (s.core s.cur.1).taken q fe none = true))
    (hl : s.mine.l + 1 < clockLimit) {j : Nat} (hj : j ∈ ctxNumbers) (h0 : j ≠ 0) (hfree : ((s.core s.cur.1).ctx j).hstate = .free)
    (hlow : ∀ i ∈ ctxNumbers, i < j → i ≠ 0 → ((s.core s.cur.1).ctx i).hstate ≠ .free) :
    ∃ t : State, exec (.start x) s = .next (t.completed (.start x))
      ∧ t.ctx s.cur.1 j = ((s.core s.cur.1).ctx j).started s.mine j fe q a b s.mine.l
      ∧ t.mine.l = s.mine.l + 1 ∧ t.mine.hlive = s.mine.hlive ||| BitVec.ofNat 13 (2 ^ j)
      ∧ ∃ u : State, t = u.give x.d (BitVec.ofNat 64 j) ∧ u = { sb with cores := u.cores } := by
  have hr := ((Reads.begun s (.start x)).of_pull ha).of_pull hb
  have hc := ((ReadsCtxs.begun s (.start x)).of_pull ha).of_pull hb
  have hne : j ≠ sb.cur.2 := by rwa [hr.cur, hk]
  have hctx := State.ctx_withHelper hne fe q a b
  have hmine := State.mine_withHelper hne fe q a b
  refine ⟨_, exec_start_free hi hk ha hb hal hlt hq hfe ht hj h0 hfree hlow hl, ?_, ?_, ?_, _, rfl, rfl⟩
  · rw [hr.cur, hr.congr_mine Ctx.l, Ctx.started_congr (hc.congr Ctx.acks _ _) (hr.congr_mine Ctx.racemode) (hr.congr_mine Ctx.gkey)
      (hr.congr_mine Ctx.gpos) (hr.congr_mine Ctx.launch)] at hctx
    rw [State.ctx_give_other, hctx]
    · rfl
    · rw [State.withHelper_cur]
      exact fun e => hne e.2
  · rw [State.mine_give_congr Ctx.l, hmine, hr.congr_mine Ctx.l]
  · rw [State.mine_give_congr Ctx.hlive, hmine, hr.congr_mine Ctx.hlive]

theorem exec_endHelper_ended (hi : Issues (.endHelper x) s) (hk : s.cur.2 ≠ 0)
    (hb : s.mine.openBatch.used = false ∨ s.mine.batches.length < 16) (hl : s.mine.l + 1 < clockLimit) :
    ∃ t : State, exec (.endHelper x) s = .next (t.completed (.endHelper x)) ∧ t.mine.hstate = .ended ∧ t.mine.abn = false
      ∧ t.mine.endp = s.mine.l ∧ t.mine.l = s.mine.l + 1 ∧ t.mine.qset = 6 ∧ t.mine.grant = 0 ∧ t.mem = s.mem := by
  have hp := PendOnly.helperLeft (s.begun (.endHelper x)).sealUsed.withFinished s.cur.1 s.cur.2
  have hm := State.mine_withFinished (s.begun (.endHelper x)).sealUsed
  have hl' : (s.begun (.endHelper x)).sealUsed.mine.l = s.mine.l :=
    (State.mine_sealUsed_l _).trans ((Reads.begun s (.endHelper x)).congr_mine Ctx.l)
  refine ⟨_, exec_endHelper hi hk hb hl, ?_, ?_, ?_, ?_, ?_, ?_, ?_⟩
  · rw [hp.congr Ctx.hstate, hm, Ctx.finished]
  · rw [hp.congr Ctx.abn, hm, Ctx.finished]
  · rw [hp.congr Ctx.endp, hm, Ctx.finished, hl']
  · rw [hp.congr Ctx.l, hm, Ctx.finished, hl']
  · rw [hp.congr Ctx.qset, hm, Ctx.finished]
  · rw [hp.congr Ctx.grant, hm, Ctx.finished]
  · exact hp.mem.trans (State.sealUsed_mem _)

theorem exec_hwait_joined (hi : Issues (.hwait x) s) (hk : s.cur.2 = 0) (ha : (s.begun (.hwait x)).pull x.a = (a, sa))
    (h0 : a.getLsbD 0 = false) (hlt : a.toNat < 2 ^ 13) (hlive : ∀ j ∈ namedBy a, s.mine.hlive.getLsbD j = true)
    (hn : namedBy a ≠ []) (he : ∀ j ∈ namedBy a, ((s.core s.cur.1).ctx j).hstate = .ended) {p : Nat}
    (hp : (s.core s.cur.1).published (namedBy a) = p) (hl : max s.mine.h p + 1 < clockLimit) :
    ∃ (t : State) (v : Word), exec (.hwait x) s = .next ((t.give x.d v).completed (.hwait x)) ∧ t.cur = s.cur
      ∧ (∀ j ∈ namedBy a, (t.ctx s.cur.1 j).hstate = .free) ∧ t.mine.h = max s.mine.h p
      ∧ t.mine.l = max s.mine.l (max s.mine.h p + 1) ∧ t.mine.hlive = s.mine.hlive &&& ~~~(a.setWidth 13)
      ∧ ∀ j, j < 13 → v.getLsbD j = (decide (j ∈ namedBy a) && ((s.core s.cur.1).ctx j).abn) := by
  have hr := (Reads.begun s (.hwait x)).of_pull ha
  have hk' : sa.cur.2 = 0 := by rwa [hr.cur]
  have hm : (sa.joined s.cur.1 a p).mine = _ := hr.cur ▸ State.mine_joined sa p fun h => namedBy_ne_zero h0 h hk'
  subst hp
  refine ⟨_, _, exec_hwait_ended ha hi hk h0 hlt hlive hn he hl, (State.joined_cur ..).trans hr.cur,
    fun j hj => State.hstate_joined _ _ _ hk' hj (namedBy_ne_zero h0 hj), ?_, ?_, ?_, fun j hj => Core.getLsbD_abnormal _ _ hj⟩
  · rw [hm, Ctx.acquire, hr.congr_mine Ctx.h]
  · rw [hm, Ctx.acquire, hr.congr_mine Ctx.h, hr.congr_mine Ctx.l]
  · rw [hm, hr.congr_mine Ctx.hlive]

end Clauses

theorem helperInstructions : HelperInstructions := by
  intro s x g k core
  refine ⟨?_, exec_endHelper_ended, ?_⟩
  · intro hi hk a b q fe hal hlt
    have ha : (s.begun (.start x)).pull x.a = (a.1, a.2) := rfl
    have hb : a.2.pull x.b = (b.1, b.2) := rfl
    exact ⟨fun hq ht => exec_start_taken hi hk ha hb hal hlt rfl rfl ⟨hq, ht⟩, exec_start_full hi hk ha hb hal hlt rfl rfl,
      fun ht hl j hj h0 hfree hlow => exec_start_started hi hk ha hb hal hlt rfl rfl ht hl hj h0 hfree hlow⟩
  · intro hi hk a named h0 hlt hlive
    have ha : (s.begun (.hwait x)).pull x.a = (a.1, a.2) := rfl
    exact ⟨exec_hwait_none ha hi hk h0 hlt hlive, fun hn he hl => exec_hwait_joined hi hk ha h0 hlt hlive hn he rfl hl⟩

/-! ### Queue sets (R154, R155) and YIELD (R156) -/

section Queues
variable {s sa : State} {x : RFields} {a : Word}

/-- A core with the queues of a set emptied (R154). -/
def Core.emptied (c : Core) (n : Nat) : Core := [0, 1, 2, 3, 4, 5, 6].foldl (fun c i => c.setQueue n i []) c

theorem Core.emptied_ctxs (c : Core) (n : Nat) : (c.emptied n).ctxs = c.ctxs :=
  List.foldlRecOn (motive := fun d : Core => d.ctxs = c.ctxs) _ _ rfl fun _ h _ _ => h

theorem Core.queue_foldl_setQueue {n q : Nat} (c : Core) {l : List Nat} (h : q ∈ l ∨ c.queue n q = []) :
    (l.foldl (fun c i => c.setQueue n i []) c).queue n q = [] := by
  induction l generalizing c with
  | nil => exact h.resolve_left List.not_mem_nil
  | cons i l ih =>
    refine ih (c.setQueue n i []) ?_
    by_cases hq : q = i
    · exact .inr (hq ▸ Core.queue_setQueue ..)
    · exact h.imp (fun h => (List.mem_cons.1 h).resolve_left hq) (Core.queue_setQueue_ne _ _ hq).trans

theorem Core.queue_emptied (c : Core) (n : Nat) {q : Nat} (hq : q < 7) : (c.emptied n).queue n q = [] :=
  Core.queue_foldl_setQueue c (.inl (List.mem_range.2 hq))

theorem Core.queue_foldl_setQueue_other {n n' q : Nat} (c : Core) {l : List Nat} (hl : ∀ i ∈ l, i < 7) (hn : n' ≠ n) (hq : q < 7) :
    (l.foldl (fun c i => c.setQueue n i []) c).queue n' q = c.queue n' q := by
  induction l generalizing c with
  | nil => rfl
  | cons i l ih =>
    rw [List.forall_mem_cons] at hl
    exact (ih _ hl.2).trans (Core.queue_setQueue_other _ _ hl.1 hq fun e => hn e.1)

theorem Core.queue_emptied_other (c : Core) {n n' q : Nat} (hn : n' ≠ n) (hq : q < 7) : (c.emptied n).queue n' q = c.queue n' q :=
  Core.queue_foldl_setQueue_other c (by decide) hn hq

theorem exec_qbind_bind (hi : Issues (.qbind x) s) (hx : x.fn = 0) (ha : (s.begun (.qbind x)).pull x.a = (a, sa)) (h6 : a.toNat ≤ 6)
    (ht : a.toNat ≤ 5 → (sa.core s.cur.1).taken a.toNat .a (some s.cur.2) = false) :
    exec (.qbind x) s = .next ((sa.onMine (fun c => { c with qset := a.toNat })).completed (.qbind x)) := by
  have hr := (Reads.begun s (.qbind x)).of_pull ha
  have hclr : decide (x.fn = 1) = false := by rw [hx]; decide
  rw [← hr.cur] at ht
  refine issue_ok hi (bind_run_of (src_run_of ha) <| bind_run_of (me_run_of rfl) <| ?_) hr.cur
  simp only [hclr]
  refine bind_run_of (trapIf_run_false (by simpa using h6) ..) <| bind_run_of (myCore_run sa) <| ite_run_neg (by decide) <|
    bind_run_of (trapIf_run_false ?_ ..) <| onMyCtx_run ..
  rw [Bool.and_eq_false_imp, decide_eq_true_iff]
  exact ht

theorem exec_qbind_empty (hi : Issues (.qbind x) s) (hx : x.fn = 1) (ha : (s.begun (.qbind x)).pull x.a = (a, sa)) (h5 : a.toNat ≤ 5)
    (hta : (sa.core s.cur.1).taken a.toNat .a (some s.cur.2) = false) (htx : (sa.core s.cur.1).taken a.toNat .x (some s.cur.2) = false) :
    exec (.qbind x) s = .next ((sa.onCore s.cur.1 (·.emptied a.toNat)).completed (.qbind x)) := by
  have hr := (Reads.begun s (.qbind x)).of_pull ha
  have hclr : decide (x.fn = 1) = true := decide_eq_true hx
  rw [← hr.cur] at hta htx ⊢
  refine issue_ok hi (bind_run_of (src_run_of ha) <| bind_run_of (me_run_of rfl) <| ?_) hr.cur
  simp only [hclr]
  exact bind_run_of (trapIf_run_false (by simp; omega) ..) <| bind_run_of (myCore_run sa) <| ite_run_pos trivial <|
    bind_run_of (trapIf_run_false (by rw [hta, htx]; rfl) ..) <| onMyCore_run ..

theorem exec_qstat {n : Nat} (hi : Issues (.qstat x) s) (ha : (s.begun (.qstat x)).pull x.a = (a, sa))
    (hn : (if a.toNat = 7 then s.mine.qset else a.toNat) = n) (h : a.toNat ≤ 5 ∨ a.toNat = 7) :
    exec (.qstat x) s = .next ((sa.give x.d (queueStatus (sa.core s.cur.1) n)).completed (.qstat x)) := by
  have hr := (Reads.begun s (.qstat x)).of_pull ha
  rw [← hn, ← hr.cur, ← hr.congr_mine Ctx.qset]
  exact issue_ok hi (bind_run_of (src_run_of ha) <| bind_run_of (myCtx_run sa) <|
    bind_run_of (trapIf_run_false (by simpa [or_iff_not_imp_left] using h) ..) <|
    bind_run_of (myCore_run sa) <| dst_run ..) ((State.give_cur ..).trans hr.cur)

theorem exec_yield (hi : Issues (.yield x) s) (ha : (s.begun (.yield x)).pull x.a = (a, sa)) :
    exec (.yield x) s = .next ((sa.onMine (fun c => { c with
      yieldEnd := if a = 0 then none else some (s.clk + 1 + min a.toNat 65535) })).completed (.yield x)) := by
  have hr := (Reads.begun s (.yield x)).of_pull ha
  have h0 : min a.toNat 65535 = 0 ↔ a = 0 := by
    rw [← BitVec.toNat_inj, BitVec.ofNat_eq_ofNat, BitVec.toNat_zero]
    omega
  have hclk : sa.clk = s.clk := hr.congr State.clk
  simp only [← h0, ← hclk]
  exact issue_ok hi (bind_run_of (src_run_of ha) <| bind_run_of (get_run sa) <| onMyCtx_run ..) hr.cur

end Queues

/-! ### Lane grants (R224, R225) -/

section Lanes
variable {s sa : State} {x : RFields} {a : Word}

/-- The state in which a change of the grant leaves the context, with its MASK record where the grant has changed (R224, R225, R435). -/
def State.regranted (s : State) (n : Nat) : State :=
  let t := s.onMine fun c => { c.regrant n with shrunk := false }
  if n = s.mine.grant then t else t.traceMask s.cur.1 s.cur.2 0

theorem setGrant_run (n : Nat) (s : State) : (setGrant n).run s = .ok ((), s.regranted n) := by
  refine bind_run_of (myCtx_run s) <| bind_run_of (onMyCtx_run ..) ?_
  unfold State.regranted
  split
  · rfl
  · rfl

theorem State.regranted_cur (s : State) (n : Nat) : (s.regranted n).cur = s.cur := by
  unfold State.regranted State.traceMask
  dsimp only
  split
  · rfl
  · exact State.trace_cur ..

theorem State.ctx_trace_eq (s : State) (kind : Nat) (p : Word) (g k g' k' : Nat) : (s.trace g k kind p).ctx g' k' = s.ctx g' k' := by
  unfold State.trace State.traceFor
  split
  · exact State.ctx_onCore_of_ctxs _ rfl ..
  · rfl

theorem State.mine_regranted (s : State) (n : Nat) : (s.regranted n).mine = { s.mine.regrant n with shrunk := false } := by
  rw [State.mine, State.regranted_cur]
  unfold State.regranted State.traceMask
  dsimp only
  split
  · exact State.mine_onMine ..
  · exact (State.ctx_trace_eq ..).trans (State.mine_onMine ..)

theorem Table.find_filter_key {α : Type} (t : Table α) (p : Nat → Bool) (i : Nat) :
    Table.find (t.filter fun e => p e.1) i = if p i then Table.find t i else none := by
  induction t with
  | nil => simp [Table.find]
  | cons e t ih =>
    obtain ⟨k, v⟩ := e
    by_cases hk : k = i
    · subst hk
      cases hp : p k <;> simp_all [Table.find]
    · cases hp : p k <;> simp_all [Table.find]

theorem Table.find_map_value {α β : Type} (t : Table α) (f : α → β) (i : Nat) :
    Table.find (t.map fun e => (e.1, f e.2)) i = (Table.find t i).map f := by
  induction t with
  | nil => rfl
  | cons e t ih =>
    simp only [List.map_cons, Table.find]
    split
    · rfl
    · exact ih

/-- Lanes at or above the smaller grant hold 0 (R224, R225). -/
theorem Ctx.lane_regrant (c : Ctx) (n r : Nat) {j : Nat} (hj : j < 128) :
    (c.regrant n).lane r j = if j < min c.grant n then c.lane r j else 0 := by
  have hm : (r * 128 + j) % 128 = j := by omega
  have hf := Table.find_filter_key c.v (fun i => decide (i % 128 < min c.grant n)) (r * 128 + j)
  rw [hm] at hf
  unfold Ctx.lane Ctx.regrant Table.get
  dsimp only
  rw [hf]
  split <;> simp_all

/-- So do the mask bits. -/
theorem Ctx.mask_regrant (c : Ctx) (n : Nat) {m j : Nat} (hm : m ≠ 0) (hj : j < 128) :
    ((c.regrant n).mask m).getLsbD j = ((c.mask m).getLsbD j && decide (j < min c.grant n)) := by
  have hf := Table.find_map_value c.masks (· &&& BitVec.ofNat 128 (2 ^ min c.grant n - 1)) m
  unfold Ctx.mask Ctx.regrant Table.get
  rw [if_neg hm, if_neg hm]
  dsimp only
  rw [hf]
  cases Table.find c.masks m with
  | none => simp
  | some w =>
    dsimp only [Option.map_some, Option.getD_some]
    rw [BitVec.getLsbD_and, BitVec.getLsbD_ofNat, Nat.testBit_two_pow_sub_one, decide_eq_true hj, Bool.true_and]

/-- What a change of the grant to n is to leave (R224, R225). -/
theorem regranted_spec (hr : Reads s sa) (n : Nat) :
    (sa.regranted n).cur = s.cur ∧ (sa.regranted n).mine.grant = n ∧ (sa.regranted n).mine.shrunk = false
      ∧ (∀ r j, r < 32 → j < 128 → (sa.regranted n).mine.lane r j = if j < min s.mine.grant n then s.mine.lane r j else 0)
      ∧ ∀ m j, 0 < m → m < 8 → j < 128 →
        ((sa.regranted n).mine.mask m).getLsbD j = ((s.mine.mask m).getLsbD j && decide (j < min s.mine.grant n)) := by
  refine ⟨(sa.regranted_cur n).trans hr.cur, ?_, ?_, fun r j _ hj => ?_, fun m j hm _ hj => ?_⟩
  · rw [State.mine_regranted, Ctx.regrant]
  · rw [State.mine_regranted]
  · rw [State.mine_regranted, ← hr.congr_mine Ctx.grant, ← hr.congr_mine (Ctx.lane · r j)]
    exact Ctx.lane_regrant _ _ _ hj
  · rw [State.mine_regranted, ← hr.congr_mine Ctx.grant, ← hr.congr_mine (Ctx.mask · m)]
    exact Ctx.mask_regrant _ _ hm.ne' hj

theorem exec_vclaim {want n : Nat} (hi : Issues (.vclaim x) s) (ha : (s.begun (.vclaim x)).pull x.a = (a, sa))
    (hw : min 128 (8 * ((a.toNat + 7) / 8)) = want)
    (hn : (if s.mine.grant < want then s.mine.grant + min (want - s.mine.grant) (s.freeLanes s.cur.1) else s.mine.grant) = n) :
    exec (.vclaim x) s = .next (((sa.regranted n).give x.d (lanesWord n s.mine.shrunk)).completed (.vclaim x)) := by
  have hr := (Reads.begun s (.vclaim x)).of_pull ha
  have hc := (ReadsCtxs.begun s (.vclaim x)).of_pull ha
  subst hw
  rw [← hr.congr_mine Ctx.grant, ← hc.freeLanes, ← hr.cur] at hn
  rw [← hn, ← hr.congr_mine Ctx.shrunk]
  exact issue_ok hi (bind_run_of (src_run_of ha) <| bind_run_of (get_run sa) <| bind_run_of (myCtx_run sa) <|
    bind_run_of (setGrant_run ..) <| dst_run ..) (((State.give_cur ..).trans (State.regranted_cur ..)).trans hr.cur)

theorem exec_vyield {n : Nat} (hi : Issues (.vyield x) s) (ha : (s.begun (.vyield x)).pull x.a = (a, sa))
    (hn : min s.mine.grant (8 * (a.toNat / 8)) = n) :
    exec (.vyield x) s = .next (((sa.regranted n).give x.d (lanesWord n s.mine.shrunk)).completed (.vyield x)) := by
  have hr := (Reads.begun s (.vyield x)).of_pull ha
  rw [← hr.congr_mine Ctx.grant] at hn
  rw [← hn, ← hr.congr_mine Ctx.shrunk]
  exact issue_ok hi (bind_run_of (src_run_of ha) <| bind_run_of (myCtx_run sa) <|
    bind_run_of (setGrant_run ..) <| dst_run ..) (((State.give_cur ..).trans (State.regranted_cur ..)).trans hr.cur)

end Lanes

theorem queueAndLaneInstructions : QueueAndLaneInstructions := by
  intro s x g pulled
  have ha (i : Instr) : (s.begun i).pull x.a = ((pulled i).1, (pulled i).2) := rfl
  have hr (i : Instr) : Reads s (pulled i).2 := (Reads.begun s i).of_pull (ha i)
  refine ⟨fun hi hx => exec_qbind_bind hi hx (ha _), ?_, ?_, fun hi => exec_yield hi (ha _), ?_, ?_⟩
  · intro hi hx a h5 hta htx
    have hcore : (a.2.onCore s.cur.1 (·.emptied a.1.toNat)).core g = (a.2.core g).emptied a.1.toNat := State.core_onCore ..
    refine ⟨_, exec_qbind_empty hi hx (ha _) h5 hta htx, rfl, fun q hq => ?_,
      fun j => State.ctx_onCore_of_ctxs _ (Core.emptied_ctxs ..) .., fun n q hn hq => ?_⟩
    · rw [hcore]
      exact Core.queue_emptied _ _ hq
    · rw [hcore]
      exact Core.queue_emptied_other _ hn hq
  · intro hi a n h
    exact exec_qstat hi (ha _) rfl h
  · intro hi a want
    exact ⟨_, exec_vclaim hi (ha _) rfl rfl, regranted_spec (hr _) _⟩
  · intro hi a
    exact ⟨_, exec_vyield hi (ha _) rfl, regranted_spec (hr _) _⟩

/-- Settles O16: START, END and HWAIT (`helperInstructions`), and QBIND, QSTAT, YIELD, VCLAIM and VYIELD (`queueAndLaneInstructions`). Beyond
the rules, that the helper that START begins keeps its slot's acknowledgement count is the model's choice (log 38); its generator is the
control context's with its number in the key (R459). -/
theorem helpersAndQueues : Obligations.HelpersAndQueues := ⟨helperInstructions, queueAndLaneInstructions⟩

end Sys2Proof.Machine
end

section
/-! Loads and stores of global memory (row 4): where an address that the cluster has translated leads, the place that an access which races
with no other takes at its home port, and a load and a store at a line that nobody else holds. -/
namespace Sys2Proof.Machine

/-! ### Updates of the issuing core and context -/

/-- What a change of a core leaves of every core. -/
theorem State.core_onCore_congr {α : Type} (p : Core → α) (s : State) {g : Nat} {f : Core → Core}
    (hf : p (f (s.core g)) = p (s.core g) := by rfl) (g' : Nat) : p ((s.onCore g f).core g') = p (s.core g') := by
  by_cases h : g' = g
  · subst h
    rw [State.core_onCore, hf]
  · rw [State.core_onCore_other _ _ h]

/-- What a change of the issuing context leaves of every context. -/
theorem State.ctx_onMine_congr {α : Type} (p : Ctx → α) (s : State) {f : Ctx → Ctx} (hf : p (f s.mine) = p s.mine) (g k : Nat) :
    p ((s.onMine f).ctx g k) = p (s.ctx g k) := by
  by_cases h : g = s.cur.1 ∧ k = s.cur.2
  · obtain ⟨rfl, rfl⟩ := h
    exact (congrArg p (State.mine_onMine s f)).trans hf
  · rw [State.onMine, State.ctx_onCtx_other _ _ h]

theorem State.core_onMine (s : State) (f : Ctx → Ctx) :
    (s.onMine f).core s.cur.1 = { s.core s.cur.1 with ctxs := (s.core s.cur.1).ctxs.set s.cur.2 (f s.mine) } := State.core_onCtx ..

theorem ite_run_false {α : Type} {c : Bool} {m m' : M α} {s : State} {r : Except Stop (α × State)} (hc : c = false) (h : m'.run s = r) :
    (if c then m else m').run s = r := ite_run_neg (Bool.eq_false_iff.1 hc) h

/-- A step that may be made, and leaves the state as it is. -/
theorem ite_bind_run_of {β : Type} {c : Prop} [Decidable c] {m : M Unit} {k : M β} {s : State} {r : Except Stop (β × State)}
    (hm : m.run s = .ok ((), s)) (hk : k.run s = r) : (if c then m >>= fun _ => k else k).run s = r := by
  split
  · exact bind_run_of hm hk
  · exact hk

/-! ### Where an address leads (R173, R267, R283) -/

/-- An aligned access of at most 16 bytes begins and ends in translated space, or outside it. -/
theorem regionOf_last {a n : Nat} (h : a < 0x00F0000000000000) (ha : a % n = 0) (hn : n = 1 ∨ n = 2 ∨ n = 4 ∨ n = 8 ∨ n = 16) :
    regionOf (a + n - 1) = some .translated := by
  refine if_pos ?_
  obtain rfl | rfl | rfl | rfl | rfl := hn <;> omega

theorem entryKey_lt {e : Word} {big write fetch : Bool} {va key : Nat} (h : entryKey e big va write fetch = some key) :
    key < 3 * space := by
  unfold entryKey at h
  dsimp only at h
  split at h
  · exact absurd h (by simp)
  · rename_i hc
    have hk : e.toNat / 16 % 4 < 3 := by
      have h3 : e.toNat / 16 % 4 ≠ 3 := fun h3 => hc (by simp [h3])
      omega
    obtain rfl := Option.some.inj h
    unfold space
    split <;> omega

/-- The state in which the running instruction has noted its first access (R435). -/
def State.noted (s : State) (va : Word) (size : Nat) : State := { s with seen := s.seen.or (some (va, size)) }

section Locate
variable {s : State} {t : Tlb} {va key : Nat} {write fetch : Bool}
  (hc : s.cached (clusterOf s.cur.1) (s.ownerOf s.cur.1 s.cur.2) va = some t) (he : entryKey t.entry t.big va write fetch = some key)
  (hx : s.mine.xfail ≠ some (pageOf va)) (hh : s.stillHeld (s.ownerOf s.cur.1 s.cur.2) va (ctxAgent s.cur.1 s.cur.2) = false)
include hc he hx hh

theorem translateFor_run_cached : (translateFor va write fetch).run s = .ok (key, s) := by
  have ht : s.translate (clusterOf s.cur.1) (s.ownerOf s.cur.1 s.cur.2) va = (.page t.entry t.big, s) := by
    unfold State.translate
    rw [hc]
  refine bind_run_of (get_run s) <| bind_run_of (trapIf_run_false (decide_eq_false hx) ..) <|
    ite_run_false hh ?_
  simp only [ht, he]
  rfl

end Locate

/-- An aligned access at an address that the cluster has translated goes to the key of the address. -/
theorem locate_run_cached {s : State} {t : Tlb} {va aval : Word} {key n : Nat} {write : Bool} (hva : va.toNat < 0x00F0000000000000)
    (ha : va.toNat % n = 0) (hn : n = 1 ∨ n = 2 ∨ n = 4 ∨ n = 8 ∨ n = 16)
    (hc : s.cached (clusterOf s.cur.1) (s.ownerOf s.cur.1 s.cur.2) va.toNat = some t)
    (he : entryKey t.entry t.big va.toNat write false = some key) (hx : s.mine.xfail ≠ some (pageOf va.toNat))
    (hh : s.stillHeld (s.ownerOf s.cur.1 s.cur.2) va.toNat (ctxAgent s.cur.1 s.cur.2) = false) :
    (locate va n write aval).run s = .ok (.mem key, s.noted va n) := by
  have hfirst : regionOf va.toNat = some .translated := if_pos hva
  refine bind_run_of (modify_run _ s) ?_
  dsimp only
  rw [hfirst, regionOf_last hva ha hn]
  exact bind_run_of (trapIf_run_false (decide_eq_false (not_not.2 ha)) ..) <|
    bind_run_of (translateFor_run_cached (s := s.noted va n) hc he hx hh) rfl

/-! ### A line that nobody else holds (R271, R330) -/

section Free
variable {s : State} {line : Nat} (hw : ∀ g e, e ∈ (s.core g).wlq → e.line ≠ line)
include hw

theorem State.acceptLine_of_no_entry_but (but : Option Nat) : s.acceptLine but line = s := by
  refine foldl_eq_self fun gc _ => ?_
  split
  · rfl
  · exact State.acceptFor_of_no_entry (hw gc.1)

variable (hh : (s.line line).held = none)
include hh

theorem State.settleFor_of_free (g : Option Nat) (mine : Bool) : s.settleFor g mine line = s := by
  simp only [State.settleFor, State.acceptLine_of_no_entry_but hw, hh]

theorem settleMineFor_run (hq : (s.line line).queue = []) (mine : Bool) : (settleMineFor mine line).run s = .ok ((), s) := by
  refine bind_run_of (get_run s) <| ite_run_false (State.engineHolds_of_free hh hq) ?_
  exact (modify_run _ s).trans (by rw [State.settleFor_of_free hw hh])

end Free

/-! ### The place of an access in the order (R326, R350) -/

theorem State.evictMeta_eq (s : State) (l : Nat) : s.evictMeta l =
    { s with sums := (s.evictMeta l).sums, lines := (s.evictMeta l).lines, metaUse := (s.evictMeta l).metaUse } := by
  unfold State.evictMeta
  split
  · rfl
  · rfl

theorem State.touchMeta_eq (s : State) (l : Nat) : s.touchMeta l =
    { s with sums := (s.touchMeta l).sums, lines := (s.touchMeta l).lines, metaUse := (s.touchMeta l).metaUse } := by
  unfold State.touchMeta
  dsimp only
  split
  · rfl
  · split
    · rfl
    · split
      · rw [State.evictMeta_eq]
      · rfl

theorem State.recordAccess_eq (s : State) (r : Req) (t : Nat) : s.recordAccess r t =
    { s with sums := (s.recordAccess r t).sums, lines := (s.recordAccess r t).lines, metaUse := (s.recordAccess r t).metaUse } := by
  unfold State.recordAccess
  rw [State.touchMeta_eq]

theorem State.line_recordAccess (s : State) (r : Req) (t : Nat) : ((s.recordAccess r t).line r.line).wts = (s.line r.line).wts
    ∧ ((s.recordAccess r t).line r.line).rts = (s.line r.line).rts := by
  obtain ⟨-, -, hwts, hrts⟩ := State.touchMeta_keeps { s with lines := s.lines.set r.line { s.line r.line with
    md := some (if r.write then ((s.metaFor r.line r.epoch).getD { epoch := r.epoch }).addWrite r (r.tag.getD t)
      else ((s.metaFor r.line r.epoch).getD { epoch := r.epoch }).addRead r (r.tag.getD t)) } } r.line r.line
  simp only [State.line, Table.get_set_same] at hwts hrts
  exact ⟨hwts, hrts⟩

/-- An access that passed its check is recorded, where it is checked (R350), and its time noted (R362). -/
def State.checkedAt (s : State) (r : Req) (t : Nat) : State :=
  (if keyChecked r.key r.write then s.recordAccess r t else s).sawClock t

/-- An access of the issuing context has taken its place in the order, at time t (R326). -/
def State.accessed (s : State) (r : Req) (t : Nat) : State :=
  State.onMine { s.checkedAt r t with
    lines := (s.checkedAt r t).lines.set r.line (((s.checkedAt r t).line r.line).timed r t (s.checkedAt r t).dev.lease) }
    (fun c => { c with l := t })

theorem State.checkedAt_eq (s : State) (r : Req) (t : Nat) : s.checkedAt r t =
    { s with sums := (s.checkedAt r t).sums, lines := (s.checkedAt r t).lines, metaUse := (s.checkedAt r t).metaUse,
             dev := { s.dev with clkmax := (s.checkedAt r t).dev.clkmax } } := by
  unfold State.checkedAt
  split
  · rw [State.recordAccess_eq]
    rfl
  · rfl

theorem State.line_checkedAt (s : State) (r : Req) (t : Nat) : ((s.checkedAt r t).line r.line).wts = (s.line r.line).wts
    ∧ ((s.checkedAt r t).line r.line).rts = (s.line r.line).rts := by
  unfold State.checkedAt
  split
  · exact s.line_recordAccess r t
  · exact ⟨rfl, rfl⟩

theorem State.accessed_eq (s : State) (r : Req) (t : Nat) : s.accessed r t =
    { s.onMine (fun c => { c with l := t }) with
      sums := (s.accessed r t).sums, lines := (s.accessed r t).lines, metaUse := (s.accessed r t).metaUse, dev := (s.accessed r t).dev } := by
  unfold State.accessed
  rw [State.checkedAt_eq]
  rfl

section Accessed
variable (s : State) (r : Req) (t : Nat)

theorem State.accessed_cur : (s.accessed r t).cur = s.cur := by rw [State.accessed_eq]; rfl

theorem State.accessed_mem : (s.accessed r t).mem = s.mem := by rw [State.accessed_eq]; rfl

theorem State.mine_accessed : (s.accessed r t).mine = { s.mine with l := t } := by
  rw [State.accessed_eq]
  exact s.mine_onMine fun c => { c with l := t }

theorem State.core_accessed : (s.accessed r t).core s.cur.1 =
    { s.core s.cur.1 with ctxs := (s.core s.cur.1).ctxs.set s.cur.2 { s.mine with l := t } } := by
  rw [State.accessed_eq]
  exact s.core_onMine fun c => { c with l := t }

/-- A value of the contexts and of the units that the order does not concern is kept. -/
theorem State.ctx_accessed_congr {α : Type} (p : Ctx → α) (hp : p { s.mine with l := t } = p s.mine) (g k : Nat) :
    p ((s.accessed r t).ctx g k) = p (s.ctx g k) := by
  rw [State.accessed_eq]
  exact State.ctx_onMine_congr (f := fun c => { c with l := t }) p s hp g k

theorem State.line_accessed : ((s.accessed r t).line r.line).wts = (if r.write then t else (s.line r.line).wts)
    ∧ ((s.accessed r t).line r.line).rts = (if r.write then t else max (s.line r.line).rts (t + s.dev.lease)) := by
  obtain ⟨hwts, hrts⟩ := s.line_checkedAt r t
  have hl : (s.accessed r t).line r.line = ((s.checkedAt r t).line r.line).timed r t (s.checkedAt r t).dev.lease :=
    Table.get_set_same ..
  have hd : (s.checkedAt r t).dev.lease = s.dev.lease := by rw [State.checkedAt_eq]
  rw [hl, hd]
  unfold LineHome.timed
  split
  · exact ⟨rfl, rfl⟩
  · exact ⟨hwts, by rw [← hrts]⟩

variable {s r t}

theorem homeAccess_run {va pc : Word} (ht : r.time (s.line r.line) = t) (hc : t < clockLimit) (hr : (s.raceCheck r).race = none)
    (ha : (s.raceCheck r).adv = none) : (homeAccess r va pc).run s = .ok (t, s.accessed r t) := by
  subst ht
  have hv : (if keyChecked r.key r.write then s.raceCheck r else { race := none, adv := none }) = { race := none, adv := none } := by
    split
    · exact congrArg₂ Verdict.mk hr ha
    · rfl
  refine bind_run_of (get_run s) <| bind_run_of (trapIf_run_false (decide_eq_false (Nat.not_le.2 hc)) ..) ?_
  simp only [hv]
  rfl

end Accessed

/-! ### A load (R83, R271, R289) -/

theorem State.recordByte_accessed (s : State) (r : Req) (t g k a : Nat) : (s.accessed r t).recordByte g k a = s.recordByte g k a := by
  have ht : ((s.accessed r t).ctx g 0).ticket = (s.ctx g 0).ticket := s.ctx_accessed_congr r t Ctx.ticket rfl g 0
  have hl : ((s.accessed r t).ctx g k).launch = (s.ctx g k).launch := s.ctx_accessed_congr r t Ctx.launch rfl g k
  have hc : (s.accessed r t).caravan = s.caravan := by
    rw [State.accessed_eq]
    rfl
  unfold State.recordByte
  rw [ht, hl, hc]

theorem State.recordBytes_accessed (s : State) (r : Req) (t va : Nat) (bs : List Byte) :
    (s.accessed r t).recordBytes va bs = s.recordBytes va bs := by
  unfold State.recordBytes
  simp only [State.recordByte_accessed, State.accessed_cur]

theorem Core.cline_of_empty {c : Core} (h : c.cway = []) (line : Nat) : c.cline line = none := by rw [Core.cline, h]; rfl

/-- A line of which the core keeps no copy is what its home holds. -/
theorem State.lineData_of_no_copy {s : State} {g key n : Nat} (hc : (s.core g).cway = []) (hk : key < 3 * space) :
    s.lineData g key n = s.mem.bytes key n := by
  have hcl : (s.core g).cline (key / 64) = none := Core.cline_of_empty hc _
  unfold State.lineData
  rw [hcl]
  exact if_neg (by unfold space at hk ⊢; omega)

theorem needSlot_run {s : State} {line : Nat} (h : s.starves (s.ownerOf s.cur.1 s.cur.2) line = false) :
    (needSlot line).run s = .ok ((), s) :=
  bind_run_of (get_run s) <| ite_run_false h <| pure_run () s

section Load
variable {s : State} {key n t : Nat} {va pc : Word} (hk : key < 3 * space) (hp : s.poison.contains (key / 64) = false)
  (hw : ∀ g e, e ∈ (s.core g).wlq → e.line ≠ key / 64) (hcw : (s.core s.cur.1).cway = []) (hroom : (s.core s.cur.1).cwayRoom = 0)
  (hh : (s.line (key / 64)).held = none) (hq : (s.line (key / 64)).queue = [])
  (hs : s.starves (s.ownerOf s.cur.1 s.cur.2) (key / 64) = false)
  (ht : (ctxReq s key n true false false 4 none).time (s.line (key / 64)) = t) (hlim : t < clockLimit)
  (hr : (s.raceCheck (ctxReq s key n true false false 4 none)).race = none)
  (ha : (s.raceCheck (ctxReq s key n true false false 4 none)).adv = none)
include hk hp hw hcw hroom hh hq hs ht hlim hr ha

theorem loadKey_run_free : (loadKey key n va pc true false 4).run s =
    .ok (s.recordBytes va.toNat (s.mem.bytes key n), s.accessed (ctxReq s key n true false false 4 none) t) := by
  have hcl : (s.core s.cur.1).cline (key / 64) = none := Core.cline_of_empty hcw _
  have hacc : s.acceptFor s.cur.1 (key / 64) (s.core s.cur.1).wlq = s := State.acceptFor_of_no_entry (hw s.cur.1)
  have hpf : s.poisonedFor s.cur.1 (key / 64) = false := by rw [State.poisonedFor, hp, Bool.false_and]
  let u := s.accessed (ctxReq s key n true false false 4 none) t
  have hcore : u.core s.cur.1 = { s.core s.cur.1 with ctxs := (u.core s.cur.1).ctxs } := by rw [State.core_accessed]
  have hroom' : (u.core s.cur.1).cwayRoom = 0 := by rw [hcore]; exact hroom
  have hcw' : (u.core s.cur.1).cway = [] := by rw [hcore]; exact hcw
  have hdata : u.recordBytes va.toNat (u.lineData s.cur.1 key n) = s.recordBytes va.toNat (s.mem.bytes key n) := by
    rw [State.lineData_of_no_copy hcw' hk, State.recordBytes_accessed, State.accessed_mem]
  refine bind_run_of (get_run s) <| ite_bind_run_of (c := (s.core s.cur.1).overlaps key n = true)
    ((modify_run _ s).trans (by rw [hacc])) <| bind_run_of (get_run s) ?_
  simp only [hcl]
  refine bind_run_of (settleMineFor_run hw hh hq false) <| bind_run_of (get_run s) <| bind_run_of (trapIf_run_false hpf ..) <|
    ite_run_false (by rw [hcl]; rfl) <| bind_run_of (needSlot_run hs) <|
    bind_run_of (homeAccess_run ht hlim hr ha) <| bind_run_of (get_run u) <| ite_run_false (by rw [hcw']; rfl) <|
    ite_run_false (by rw [hroom']; rfl) ?_
  rw [pure_run, hdata]

end Load

theorem globalLoads : GlobalLoads := by
  intro s va aval pc n key t g line r time hva hpos ha _ hn hc he hp hw hcw hroom hh hq hs hr hadv hlim hx hst
  have hrun : Does (loadBytes va n aval pc) s (s.recordBytes va.toNat (s.mem.bytes key n)) ((s.noted va n).accessed r time) :=
    bind_run_of (locate_run_cached hva ha hn hc he hx hst) <|
      loadKey_run_free (s := s.noted va n) (entryKey_lt he) hp hw hcw hroom hh hq hs rfl hlim hr hadv
  obtain ⟨hwts, hrts⟩ := (s.noted va n).line_accessed r time
  exact ⟨_, hrun, State.accessed_cur .., fun a => by rw [State.accessed_mem]; rfl, State.mine_accessed .., hrts, hwts⟩

/-! ### A store that goes through to its home (R272-R277, R290) -/

/-- The issuing context's store of n bytes is charged to its core's write lane, once (R276). -/
def State.chargedFor (s : State) (n : Nat) : State :=
  s.onCore s.cur.1 fun c => { c with wl := { s.lane s.cur.1 with
    used := if s.mine.admitted = 0 then (s.lane s.cur.1).used + n else (s.lane s.cur.1).used,
    waiters := (s.lane s.cur.1).waiters.filter (· ≠ s.cur.2) } }

/-- The youngest entry that a store to a line of no stream page makes (R274). -/
def State.entryFor (s : State) (line : Nat) (bytes : Table Byte) : WlqEntry :=
  { line := line, bytes := bytes, ctx := s.cur.2, since := s.clk, departed := false, owner := s.ownerOf s.cur.1 s.cur.2,
    launch := s.mine.launch }

/-- A store's entry stands at the end of the queue. -/
def State.queued (s : State) (e : WlqEntry) : State := s.onCore s.cur.1 fun c => { c with wlq := c.wlq ++ [e] }

theorem takeBudget_run {s : State} {n : Nat} {va : Word} (h : s.mine.admitted ≠ 0 ∨ (s.lane s.cur.1).budget = 0
    ∨ (s.lane s.cur.1).used = 0 ∨ (s.lane s.cur.1).used + n ≤ (s.lane s.cur.1).budget) :
    (takeBudget n va).run s = .ok ((), s.chargedFor n) := by
  refine bind_run_of (get_run s) <| ite_run_neg ?_ <| onMyCore_run _ s
  rintro ⟨h1, h2, h3, h4⟩
  exact h.elim (· h1) (·.elim (h2 ·) (·.elim (h3 ·) h4.not_ge))

theorem joins_of_no_entry {q : List WlqEntry} {line : Nat} (h : ∀ e ∈ q, e.line ≠ line) (w : Storer) : joins q line w = false := by
  unfold joins
  split
  · rename_i e he
    simp [h e (List.mem_of_getLast? he)]
  · rfl

theorem needEntry_run {s : State} (h : (s.core s.cur.1).wlq.length < 16) (n : Nat) (va : Word) :
    (needEntry n va).run s = .ok ((), s) :=
  bind_run_of (get_run s) <| ite_run_pos (Nat.succ_le_of_lt h) <| pure_run () s

section Queue
variable {s : State} {key scope : Nat} {bs : List Byte} {va : Word}
  (hw : ∀ g e, e ∈ (s.core g).wlq → e.line ≠ key / 64) (hlen : (s.core s.cur.1).wlq.length < 16)
include hw hlen

theorem enqueue_run_fresh (hk : key < 3 * space) (bytes : Table Byte) (n : Nat) (va : Word) :
    (enqueue (key / 64) bytes false [] n va).run s = .ok ((), s.queued (s.entryFor (key / 64) bytes)) := by
  have hj : joins (s.core s.cur.1).wlq (key / 64) (s.storer (key / 64)) = false := joins_of_no_entry (hw s.cur.1) _
  have hs : s.storer (key / 64) = { ctx := s.cur.2, launch := s.mine.launch, handle := none } := by
    have : key / 64 * 64 / space ≠ 4 := by unfold space at hk ⊢; omega
    exact congrArg _ (if_neg this)
  refine bind_run_of (get_run s) <| ite_run_false hj <| bind_run_of (needEntry_run hlen n va) ?_
  rw [modify_run, State.enqueue, hj, hs]
  rfl

variable (hk : key < 3 * space) (hcw : (s.core s.cur.1).cway = []) (hkeep : (s.core s.cur.1).keepsStore scope = false)
include hk hcw hkeep

theorem putStore_run_free (n : Nat) : (putStore key bs scope 0 n va).run s =
    .ok ((), s.queued (s.entryFor (key / 64) (byteTable key bs))) := by
  have hcl : (s.core s.cur.1).cline (key / 64) = none := Core.cline_of_empty hcw _
  refine bind_run_of (myCore_run s) <| ite_run_false hkeep <| bind_run_of (get_run s) <|
    ite_run_false hkeep <| ite_run_false (by rw [hcl]; rfl) ?_
  exact enqueue_run_fresh hw hlen hk ..

end Queue

section Through
variable (s : State) (line n : Nat) (bytes : Table Byte)

/-- The state in which a store of n bytes that goes through to its home is charged and queued. -/
def State.storedThrough : State := (s.chargedFor n).queued ((s.chargedFor n).entryFor line bytes)

theorem State.ctx_chargedFor (g k : Nat) : (s.chargedFor n).ctx g k = s.ctx g k := s.ctx_onCore_of_ctxs rfl g k

theorem State.wlq_chargedFor (g : Nat) : ((s.chargedFor n).core g).wlq = (s.core g).wlq :=
  State.core_onCore_congr Core.wlq s rfl g

theorem State.ctx_storedThrough (g k : Nat) : (s.storedThrough line n bytes).ctx g k = s.ctx g k :=
  ((s.chargedFor n).ctx_onCore_of_ctxs rfl g k).trans (s.ctx_chargedFor n g k)

theorem State.entryFor_chargedFor : (s.chargedFor n).entryFor line bytes = s.entryFor line bytes := by
  have hc (g k : Nat) : (s.chargedFor n).ctx g k = s.ctx g k := s.ctx_chargedFor n g k
  unfold State.entryFor State.ownerOf State.mine
  simp only [hc]
  rfl

theorem State.core_storedThrough : (s.storedThrough line n bytes).core s.cur.1 =
    { s.core s.cur.1 with
      wl := { s.lane s.cur.1 with
        used := if s.mine.admitted = 0 then (s.lane s.cur.1).used + n else (s.lane s.cur.1).used,
        waiters := (s.lane s.cur.1).waiters.filter (· ≠ s.cur.2) },
      wlq := (s.core s.cur.1).wlq ++ [s.entryFor line bytes] } := by
  have hq : (s.storedThrough line n bytes).core s.cur.1 = { (s.chargedFor n).core s.cur.1 with
      wlq := ((s.chargedFor n).core s.cur.1).wlq ++ [(s.chargedFor n).entryFor line bytes] } := State.core_onCore ..
  rw [hq, State.entryFor_chargedFor, State.chargedFor, State.core_onCore]

theorem ctxReq_storedThrough (key size : Nat) (read write atomic : Bool) (scope : Nat) (tag : Option Nat) :
    ctxReq (s.storedThrough line n bytes) key size read write atomic scope tag = ctxReq s key size read write atomic scope tag := by
  have hc : (s.storedThrough line n bytes).ctx s.cur.1 s.cur.2 = s.ctx s.cur.1 s.cur.2 := s.ctx_storedThrough line n bytes ..
  simp only [ctxReq, show (s.storedThrough line n bytes).cur = s.cur from rfl, hc]

end Through

/-- The copy that a core holds of a line it has stored to takes the store's time. -/
def Core.stampCopy (c : Core) (line t : Nat) : Core :=
  { c with cway := c.cway.map (fun l => if l.line = line && l.dirty then { l with wts := t, rts := t } else l) }

/-- What the issuing core holds once its store, charged and queued, has taken its place in the order. -/
theorem State.core_stampCopy_accessed (s : State) (r : Req) (line t : Nat) :
    (((s.accessed r t).onCore s.cur.1 (·.stampCopy line t)).core s.cur.1).wl = (s.core s.cur.1).wl
      ∧ (((s.accessed r t).onCore s.cur.1 (·.stampCopy line t)).core s.cur.1).wlq = (s.core s.cur.1).wlq := by
  rw [State.core_onCore, State.core_accessed]
  exact ⟨rfl, rfl⟩

theorem State.mine_stampCopy_accessed (s : State) (r : Req) (line t : Nat) :
    ((s.accessed r t).onCore s.cur.1 (·.stampCopy line t)).mine = { s.mine with l := t } :=
  ((s.accessed r t).ctx_onCore_of_ctxs rfl ..).trans (s.mine_accessed r t)

section Store
variable {s : State} {key scope t : Nat} {bs : List Byte} {va pc : Word} (hk : key < 3 * space)
  (hkeep : (s.core s.cur.1).keepsStore scope = false) (hw : ∀ g e, e ∈ (s.core g).wlq → e.line ≠ key / 64)
  (hcw : (s.core s.cur.1).cway = []) (hh : (s.line (key / 64)).held = none) (hq : (s.line (key / 64)).queue = [])
  (hlen : (s.core s.cur.1).wlq.length < 16)
  (hb : s.mine.admitted ≠ 0 ∨ (s.lane s.cur.1).budget = 0 ∨ (s.lane s.cur.1).used = 0
    ∨ (s.lane s.cur.1).used + bs.length ≤ (s.lane s.cur.1).budget)
  (hr : (s.raceCheck (ctxReq s key bs.length false true false scope none)).race = none)
  (ha : (s.raceCheck (ctxReq s key bs.length false true false scope none)).adv = none)
  (ht : (ctxReq s key bs.length false true false scope none).time (s.line (key / 64)) = t) (hlim : t < clockLimit)
include hk hkeep hw hcw hh hq hlen hb hr ha ht hlim

theorem storeKey_run_free : (storeKey key bs va pc scope false none).run s =
    .ok ((), ((s.storedThrough (key / 64) bs.length (byteTable key bs)).accessed (ctxReq s key bs.length false true false scope none) t).onCore
      s.cur.1 (·.stampCopy (key / 64) t)) := by
  let w := s.chargedFor bs.length
  let u := s.storedThrough (key / 64) bs.length (byteTable key bs)
  have hcl : (s.core s.cur.1).cline (key / 64) = none := Core.cline_of_empty hcw _
  have hn : storeCharge (s.core s.cur.1) (key / 64) bs.length scope = bs.length := by
    rw [storeCharge, hkeep, hcl]
    rfl
  have hcore : w.core s.cur.1 = { s.core s.cur.1 with wl := (w.core s.cur.1).wl } := by
    simp only [w, State.chargedFor, State.core_onCore]
  have hkeep' : (w.core s.cur.1).keepsStore scope = false := by rw [hcore]; exact hkeep
  have hlen' : (w.core s.cur.1).wlq.length < 16 := by rw [hcore]; exact hlen
  have hcw' : (w.core s.cur.1).cway = [] := by rw [hcore]; exact hcw
  have hw' (g : Nat) (e : WlqEntry) (he : e ∈ (w.core g).wlq) : e.line ≠ key / 64 :=
    hw g e (by rwa [State.wlq_chargedFor] at he)
  have hreq := ctxReq_storedThrough s (key / 64) bs.length (byteTable key bs) key bs.length false true false scope none
  refine bind_run_of (settleMineFor_run hw hh hq true) <| bind_run_of (myCore_run s) <| ite_run_false hkeep ?_
  dsimp only
  rw [hn]
  refine bind_run_of (takeBudget_run hb) <| bind_run_of (putStore_run_free hw' hlen' hk hcw' hkeep' _) <| bind_run_of (get_run u) ?_
  rw [hreq]
  refine bind_run_of (homeAccess_run ht hlim hr ha) ?_
  rw [onMyCore_run, State.accessed_cur]
  rfl

end Store

theorem globalStores : GlobalStores := by
  intro s va scope key bs t v ty posts g line n r w time hva ha hn hc he hs hw hcw hh hq hlen hb hx hst hr hadv hlim
  have hkeep : (s.core g).keepsStore scope = false := by
    simp only [Core.keepsStore, Bool.and_eq_false_iff, decide_eq_false_iff_not]
    omega
  let z := (s.noted va n).storedThrough line n (byteTable key bs)
  have hrun : Does (storeBytes va bs ty scope posts v) s () ((z.accessed r time).onCore g (·.stampCopy line time)) :=
    bind_run_of (locate_run_cached hva ha hn hc he hx hst) <|
      storeKey_run_free (s := s.noted va n) (entryKey_lt he) hkeep hw hcw hh hq hlen hb hr hadv rfl hlim
  have hmine : z.mine = s.mine := State.ctx_storedThrough ..
  have hcore := State.core_storedThrough (s.noted va n) line n (byteTable key bs)
  obtain ⟨hwts, hrts⟩ := z.line_accessed r time
  obtain ⟨hwl, hwlq⟩ := z.core_stampCopy_accessed r line time
  refine ⟨_, hrun, State.accessed_cur .., fun a => congrArg (·.byte a) (z.accessed_mem r time), ?_, hwts, hrts, ?_, ?_⟩
  · exact (z.mine_stampCopy_accessed r line time).trans (by rw [hmine])
  · exact (congrArg WriteLane.used hwl).trans (congrArg (·.wl.used) hcore)
  · exact hwlq.trans (congrArg Core.wlq hcore)

/-- Settles O10: a load (`globalLoads`, by `loadKey_run_free`) and a store that goes through to its home (`globalStores`, by
`storeKey_run_free`). That a load within the open node's record gives the values of its parameter references is the model's reading of R83
(log 52). -/
theorem globalLoadsAndStores : Obligations.GlobalLoadsAndStores := ⟨globalLoads, globalStores⟩

end Sys2Proof.Machine
end

section
/-! Local memory (row 3): bytes made zero, what an access of open banks reads and writes, the windows, and LDL, STL and RROT. -/
namespace Sys2Proof.Machine

/-! ### Bytes made zero -/

theorem Memory.byte_zero_of_wfFrom {lo : Nat} (m : Memory) (a n x : Nat) (hm : m.wfFrom lo = true) :
    (m.zero a n).byte x = if a ≤ x ∧ x < a + n then 0 else m.byte x := by
  induction m generalizing lo with
  | nil => exact (ite_self _).symm
  | cons c r ih =>
    obtain ⟨k, v⟩ := c
    simp only [Memory.wfFrom, Bool.and_eq_true, decide_eq_true_eq] at hm
    have hr : (Memory.zero r a n).byte x = if a ≤ x ∧ x < a + n then 0 else Memory.byte r x := ih hm.2
    have hbelow (h : x < k) : Memory.byte r x = 0 := Memory.byte_below hm.2 (by omega)
    by_cases hk : a ≤ k ∧ k < a + n
    · have hz : Memory.zero ((k, v) :: r) a n = Memory.zero r a n := List.filter_cons_of_neg (by simpa using hk)
      rw [hz, hr, Memory.byte]
      split
      · rfl
      · split
        · omega
        · split
          · exact hbelow ‹_›
          · rfl
    · have hz : Memory.zero ((k, v) :: r) a n = (k, v) :: Memory.zero r a n :=
        List.filter_cons_of_pos (by rwa [← Bool.decide_and, Bool.not_eq_true', decide_eq_false_iff_not])
      rw [hz, Memory.byte, Memory.byte, hr]
      split
      · subst x
        rw [if_neg hk]
      · split
        · exact (ite_self _).symm
        · rfl

theorem Memory.byte_zero (m : Memory) (a n x : Nat) (hm : m.wf = true) :
    (m.zero a n).byte x = if a ≤ x ∧ x < a + n then 0 else m.byte x := m.byte_zero_of_wfFrom a n x hm

/-! ### Open banks (R160, R253, R515) -/

section Open
variable {s : State} {off n : Nat}

theorem State.retagAll_of_open (h : LocalOpen s off n) : s.retagAll s.cur.1 (s.ownerOf s.cur.1 s.cur.2) off n = s := by
  refine foldl_eq_self fun o ho => ?_
  obtain ⟨i, hi, rfl⟩ := List.mem_map.1 ho
  exact if_pos (h i (List.mem_range.1 hi)).2

theorem LocalOpen.no_bank_busy (h : LocalOpen s off n) :
    (List.range n).any (fun i => s.bankBusy s.cur.1 (bankOf (off + i))) = false :=
  List.any_eq_false.2 fun i hi => by simp [(h i (List.mem_range.1 hi)).1]

theorem localGet_run (h : LocalOpen s off n) (hb : s.localBad s.cur.1 off n = false) (la : Word) :
    (localGet off n la).run s = .ok (s.mem.bytes (localKey s.cur.1 off) n, s) := by
  refine bind_run_of (get_run s) <| ite_run_false h.no_bank_busy ?_
  dsimp only
  rw [State.retagAll_of_open h]
  exact bind_run_of (trapIf_run_false hb ..) <| bind_run_of (set_run ..) rfl

theorem localPut_run {bs : List Byte} (h : LocalOpen s off bs.length) :
    (localPut off bs).run s = .ok ((), s.localWrite s.cur.1 off bs) := by
  refine bind_run_of (get_run s) <| ite_run_false h.no_bank_busy ?_
  dsimp only
  rw [State.retagAll_of_open h]
  exact set_run ..

end Open

/-! ### Windows (R161) -/

section Windows
variable {s : State} {off ty n : Nat}

/-- The bytes at an offset are open, and none of them holds an error. -/
def Clear (s : State) (off n : Nat) : Prop := LocalOpen s off n ∧ s.localBad s.cur.1 off n = false

/-- The bytes at an offset of the issuing core's local memory as a number. -/
def State.localNat (s : State) (off n : Nat) : Nat := natOfBytes (s.mem.bytes (localKey s.cur.1 off) n)

theorem windowGet_run_raw (h : Clear s off n) (la : Word) : (windowGet 0 off ty n la).run s = .ok (s.localNat off n, s) :=
  bind_run_of (localGet_run h.1 h.2 la) rfl

theorem windowGet_run_planes (h : Clear s off n) (la : Word) : (windowGet 1 off ty n la).run s = .ok (s.localNat off n, s) :=
  bind_run_of (localGet_run h.1 h.2 la) rfl

theorem windowGet_run_f4d (h : Clear s (40 * (off / 2 / 64) + off / 2 % 64 / 2) 1)
    (hs : Clear s (40 * (off / 2 / 64) + 32 + off / 2 % 64 / 8) 1) (la : Word) :
    (windowGet 2 off ty 2 la).run s = .ok (fmtBf16.ofVal .rne 0 false (fp4bVal
      (if off / 2 % 2 = 0 then s.localNat (40 * (off / 2 / 64) + off / 2 % 64 / 2) 1 % 16
        else s.localNat (40 * (off / 2 / 64) + off / 2 % 64 / 2) 1 / 16)
      (s.localNat (40 * (off / 2 / 64) + 32 + off / 2 % 64 / 8) 1)), s) :=
  bind_run_of (bind_run_of (localGet_run h.1 h.2 la) <| bind_run_of (localGet_run hs.1 hs.2 la) rfl) <| ite_run_neg (by decide) rfl

theorem windowGet_run_f8d (h : Clear s (off / 2) 1) (la : Word) : (windowGet 3 off ty 2 la).run s =
    .ok (fmtBf16.ofVal .rne 0 false ((fmtOf ty).value (s.localNat (off / 2) 1)), s) :=
  bind_run_of (bind_run_of (localGet_run h.1 h.2 la) rfl) <| ite_run_neg (by decide) rfl

theorem windowGet_run_bfw (h : Clear s (off / 4 * 2) 2) (la : Word) : (windowGet 4 off ty n la).run s =
    .ok (fmtF32.ofVal .rne 0 false (fmtBf16.value (s.localNat (off / 4 * 2) 2)), s) :=
  bind_run_of (localGet_run h.1 h.2 la) rfl

theorem windowGet_run_i8w (h : Clear s (off / 4) 1) (la : Word) : (windowGet 5 off ty n la).run s =
    .ok (intCode 32 (intOf true 8 (s.localNat (off / 4) 1)), s) :=
  bind_run_of (localGet_run h.1 h.2 la) rfl

end Windows

/-! ### Reads, writes, and banks of another owner (R160, R161) -/

theorem localMemory : LocalMemory := by
  refine ⟨fun s off n ty la => ?_, fun s off bs ho hm => ?_, fun s g owner off ht hm => ?_⟩
  · exact ⟨fun h => localGet_run h.1 h.2 la, fun h => ⟨windowGet_run_raw h la, windowGet_run_planes h la⟩,
      fun h hs => windowGet_run_f4d h hs la, fun h => windowGet_run_f8d h la, fun h => windowGet_run_bfw h la,
      fun h => windowGet_run_i8w h la⟩
  · exact ⟨_, localPut_run ho, rfl, Memory.wf_putBytes _ _ _ hm, fun a => Memory.byte_putBytes _ _ _ a hm⟩
  · have hz : s.retag g owner off = s.zeroBank g (bankOf off) owner := if_neg ht
    rw [hz]
    refine ⟨?_, fun a => Memory.byte_zero _ _ _ a hm⟩
    rw [State.zeroBank, State.core_onCore]
    exact Table.get_set_same ..

/-! ### Draws (R29, R458) -/

theorem drawsFor_run {s : State} {rm : BitVec 3} {n : Nat} (h : s.drawsLeft rm n) (tval : Word) :
    (drawsFor rm n tval).run s = .ok (s.roll rm, s.rolled rm n) := by
  unfold State.rolled drawsFor
  split
  · have hroll : s.roll rm = fun j => simoomHigh s.mine.gkey (s.mine.gpos.toNat / 2 ^ 24) (s.mine.gpos.toNat % 2 ^ 24 + j) :=
      funext fun j => if_pos ‹_›
    rw [hroll]
    exact bind_run_of (myCtx_run s) <| bind_run_of (trapIf_run_false (decide_eq_false (Nat.not_lt.2 (h ‹_›))) ..) <|
      bind_run_of (onMyCtx_run ..) rfl
  · have hroll : s.roll rm = fun _ => 0 := funext fun j => if_neg ‹_›
    rw [hroll]
    rfl

/-- Reading operands draws nothing. -/
theorem Reads.drawsFor_run {s t : State} {rm : BitVec 3} {n : Nat} (hr : Reads s t) (h : s.drawsLeft rm n) (tval : Word) :
    (drawsFor rm n tval).run t = .ok (s.roll rm, t.rolled rm n) := by
  have hpos : t.mine.gpos = s.mine.gpos := hr.congr_mine Ctx.gpos
  have hroll : t.roll rm = s.roll rm := by
    unfold State.roll
    rw [hpos, hr.congr_mine Ctx.gkey]
  rw [← hroll]
  exact Machine.drawsFor_run (fun e => by rw [hpos]; exact h e) tval

/-! ### LDL and STL (R284, R285) -/

section Scalar
variable {s : State} {la : Word} {ty : Nat} {store : Bool}

theorem checkScalar_run (h : LocalOk (s.core s.cur.1) la ty store) (word0 : Lane) :
    (checkScalar la ty store word0).run s = .ok ((), s) := by
  obtain ⟨hla, hwin, hty, hst, hbytes, halign⟩ := h
  have hwraps : wraps (winOf la) (offOf la) (windowSize (winOf la) ty) = false :=
    List.any_eq_false.2 fun b hb => by simpa using (hbytes b hb).1
  have hspad : (s.core s.cur.1).notSpad (windowBytes (winOf la) (offOf la) (windowSize (winOf la) ty)) = none :=
    List.find?_eq_none.2 fun b hb => by simpa using (hbytes b hb).2
  have hplane (w : Nat) (hw : w = 1 ∨ w = 2) : (store && decide (winOf la = w)) = false :=
    Bool.and_eq_false_imp.2 fun hs => decide_eq_false fun e => hst ⟨hs, e ▸ hw⟩
  have hlocal : (checkLocal la).run s = .ok ((), s) :=
    bind_run_of (trapIf_run_false (decide_eq_false (Nat.not_le.2 hla)) ..) <| trapIf_run_false (decide_eq_false (Nat.not_le.2 hwin)) ..
  exact bind_run_of hlocal <| bind_run_of (trapIf_run_false (by simpa using hty) ..) <|
    bind_run_of (trapIf_run_false (hplane 2 (.inr rfl)) ..) <| bind_run_of (trapIf_run_false hwraps ..) <|
    bind_run_of (trapIf_run_false (by rw [hplane 1 (.inl rfl)]; simpa using halign) ..) <|
    bind_run_of (myCore_run s) <| trapIf_run_false (by rw [hspad]; rfl) ..

variable {x : IFields} {a b : Word} {sa sb u : State} (hu : u.cur = s.cur)
include hu

theorem exec_ldl {code : Nat} (hi : Issues (.ldl x) s) (ha : (s.begun (.ldl x)).pull x.a = (a, sa)) (hla : a + x.imm = la)
    (hty : (extOf (.ldl x)).ty.toNat = ty) (hok : LocalOk (sa.core s.cur.1) la ty false)
    (hget : Does (windowGet (winOf la) (offOf la) ty (windowSize (winOf la) ty) la) sa code u) :
    exec (.ldl x) s = .next ((u.give x.d (if winOf la = 2 ∨ winOf la = 3 then BitVec.ofNat 64 code else extendTy ty code)).completed
      (.ldl x)) := by
  subst hla hty
  rw [← ((Reads.begun s (.ldl x)).of_pull ha).cur] at hok
  exact issue_ok hi (bind_run_of (src_run_of ha) <| bind_run_of (checkScalar_run hok _) <| bind_run_of hget <| dst_run ..)
    ((State.give_cur ..).trans hu)

theorem exec_stl {e : Ext} {rm : BitVec 3} (hi : Issues (.stl x) s) (ha : (s.begun (.stl x)).pull x.a = (a, sa))
    (hb : sa.pull x.d = (b, sb)) (hla : a + x.imm = la) (he : extOf (.stl x) = e)
    (hrm : (if winOf la = 3 ∨ winOf la = 4 then e.rm else 0) = rm) (hok : LocalOk (sb.core s.cur.1) la e.ty.toNat true)
    (hd : s.drawsLeft rm 1)
    (hput : Does (windowPut (winOf la) (offOf la) e.ty.toNat (windowSize (winOf la) e.ty.toNat) (rmOf e.rm) (fun j => s.roll rm j) 0 b.toNat)
      (sb.rolled rm 1) () u) : exec (.stl x) s = .next (u.completed (.stl x)) := by
  subst hla he
  have hr := ((Reads.begun s (.stl x)).of_pull ha).of_pull hb
  rw [← hr.cur] at hok
  refine issue_ok hi (bind_run_of (src_run_of ha) <| bind_run_of (src_run_of hb) <| bind_run_of (checkScalar_run hok _) ?_) hu
  by_cases hw : winOf (a + x.imm) = 3 ∨ winOf (a + x.imm) = 4
  · rw [if_pos hw] at hrm
    subst hrm
    exact ite_run_pos hw <| bind_run_of (hr.drawsFor_run hd _) hput
  · rw [if_neg hw] at hrm
    subst hrm
    exact ite_run_neg hw <| bind_run_of (pure_run ..) hput

end Scalar

/-! ### RROT (R286) -/

theorem rrotResult_eq (a b : Word) : rrotResult a b = BitVec.ofNat 64 (a.toNat / 2 ^ (b.toNat / 65536 % 32) * 2 ^ (b.toNat / 65536 % 32)
    + (a + (b.setWidth 16).signExtend 64).toNat % 2 ^ (b.toNat / 65536 % 32)) := by
  have h := Nat.div_add_mod' a.toNat (2 ^ (b.toNat / 65536 % 32))
  unfold rrotResult
  dsimp only
  congr 2
  omega

theorem exec_rrot {s sa sb : State} {x : RFields} {a b : Word} (hi : Issues (.rrot x) s) (ha : (s.begun (.rrot x)).pull x.a = (a, sa))
    (hb : sa.pullB x = (b, sb)) (hal : a.toNat < 2 ^ 19) (hbl : b.toNat < 2 ^ 21) (h3 : 3 ≤ b.toNat / 65536 % 32)
    (h16 : b.toNat / 65536 % 32 ≤ 16) : exec (.rrot x) s = .next ((sb.give x.d (BitVec.ofNat 64
      (a.toNat / 2 ^ (b.toNat / 65536 % 32) * 2 ^ (b.toNat / 65536 % 32)
        + (a + (b.setWidth 16).signExtend 64).toNat % 2 ^ (b.toNat / 65536 % 32)))).completed (.rrot x)) := by
  have hcur : sb.cur = s.cur := by
    have := State.pullB_cur sa x
    rw [hb] at this
    exact this.trans ((Reads.begun s (.rrot x)).of_pull ha).cur
  rw [← rrotResult_eq]
  refine issue_ok hi (bind_run_of (src_run_of ha) <| bind_run_of ((srcB_run ..).trans (congrArg _ hb)) <|
    bind_run_of (trapIf_run_false (decide_eq_false (Nat.not_le.2 hal)) ..) <| bind_run_of (trapIf_run_false ?_ ..) <| dst_run ..)
    ((State.give_cur ..).trans hcur)
  simp only [Bool.or_eq_false_iff, decide_eq_false_iff_not]
  omega

theorem localScalarAccess : LocalScalarAccess := by
  refine fun s => ⟨?_, ?_, ?_⟩
  · intro x code u hi a la ty w hok hget hu
    exact exec_ldl hu hi rfl rfl rfl hok hget
  · intro x u hi a b la e ty w rm hok hd hput hu
    exact exec_stl hu hi rfl rfl rfl rfl rfl hok hd hput
  · intro x hi a b n ha hb h3 h16
    exact exec_rrot hi rfl rfl ha hb h3 h16

/-- Settles O7: local memory through its windows, its writes, and a bank of another owner's (`localMemory`), and LDL, STL and RROT
(`localScalarAccess`). -/
theorem localAccess : Obligations.LocalAccess := ⟨localMemory, localScalarAccess⟩

end Sys2Proof.Machine
end

section
/-! Bank modes, FIFO banks and posted writes (row 3): what reading operands leaves of a core, which updates of the part leave whose turn it is,
and BANKMODE, FPUSH, FPOP, RSTL and RADD. -/
namespace Sys2Proof.Machine

/-! ### What operands leave of the cores -/

/-- Of every core, reading operands changes only the contexts and the queues. -/
def ReadsCores (s t : State) : Prop := ∀ g, t.core g = { s.core g with ctxs := (t.core g).ctxs, queues := (t.core g).queues }

namespace ReadsCores
variable {s t u : State}

theorem begun (s : State) (i : Instr) : ReadsCores s (s.begun i) := by
  intro g
  by_cases h : g = s.cur.1
  · subst h
    rw [show (s.begun i).core s.cur.1 = _ from State.core_onMine ..]
    rfl
  · rw [show (s.begun i).core g = s.core g from State.core_onCtx_other _ _ _ h]

theorem pull (h : ReadsCores s t) (c : BitVec 6) : ReadsCores s (t.pull c).2 := by
  unfold State.pull
  split
  · split
    · exact h
    · intro g
      by_cases hg : g = t.cur.1
      · subst hg
        rw [State.core_onCore, h]
        rfl
      · rw [State.core_onCore_other _ _ hg]
        exact h g
  · exact h

theorem of_pull {c : BitVec 6} {v : Word} (h : ReadsCores s t) (hp : t.pull c = (v, u)) : ReadsCores s u := by
  have hu := h.pull c
  rwa [hp] at hu

theorem congr {α : Type} (h : ReadsCores s t) (f : Core → α) (g : Nat)
    (hf : ∀ x y, f { s.core g with ctxs := x, queues := y } = f (s.core g) := by exact fun _ _ => rfl) : f (t.core g) = f (s.core g) := by
  rw [h, hf]

end ReadsCores

/-! ### Whose turn it is -/

theorem State.foldl_cur {α : Type} {f : State → α → State} (hf : ∀ s a, (f s a).cur = s.cur) (l : List α) (s : State) :
    (l.foldl f s).cur = s.cur :=
  List.foldlRecOn (motive := fun t => t.cur = s.cur) l f rfl fun t ht a _ => (hf t a).trans ht

section Turn
variable (s : State) (g : Nat)

theorem State.traceFor_cur (owner k kind : Nat) (p : Word) : (s.traceFor owner g k kind p).cur = s.cur := by
  unfold State.traceFor
  split
  · rfl
  · rfl

theorem State.fireWatch_cur (i val : Nat) : (s.fireWatch g i val).cur = s.cur := s.traceFor_cur ..

theorem State.fireBar_cur (off n : Nat) (b b2 : BarObj) : (s.fireBar g off n b b2).cur = s.cur :=
  State.foldl_cur (fun t i => t.fireWatch_cur g i _) ..

theorem State.localWrite_cur (off : Nat) (bs : List Byte) : (s.localWrite g off bs).cur = s.cur := rfl

theorem State.updateBar_cur (off : Nat) (us : List BarUpdate) : (s.updateBar g off us).cur = s.cur := by
  unfold State.updateBar
  dsimp only
  split
  · rfl
  · rw [State.fireBar_cur, State.localWrite_cur, State.onCore_cur]

theorem State.drainBar_cur (bank : Nat) : (s.drainBar g bank).cur = s.cur := State.foldl_cur (fun t _ => t.updateBar_cur ..) ..

theorem State.homeWrite_cur (line : Nat) (bytes : Table Byte) (by_ : List Storer) (owner : Nat) (near : Bool) (made : List (Option Word)) :
    (s.homeWrite line bytes g by_ owner near made).cur = s.cur := by
  unfold State.homeWrite
  dsimp only
  split
  · rfl
  · split
    · rfl
    · split
      · rfl
      · rfl

theorem State.acceptEntry_cur (e : WlqEntry) : (s.acceptEntry g e).cur = s.cur := by
  have h := s.homeWrite_cur g e.line e.bytes e.stores e.owner false (e.stores.map (·.handle))
  unfold State.acceptEntry
  dsimp only
  split
  · exact h
  · exact h

theorem State.acceptFor_cur (line : Nat) (q : List WlqEntry) : (s.acceptFor g line q).cur = s.cur := by
  induction q generalizing s with
  | nil => rfl
  | cons e r ih =>
    unfold State.acceptFor
    split
    · rw [ih]
      exact s.acceptEntry_cur g e
    · rfl

theorem State.acceptLine_cur (but : Option Nat) (line : Nat) : (s.acceptLine but line).cur = s.cur := by
  refine State.foldl_cur (fun t gc => ?_) ..
  split
  · rfl
  · exact t.acceptFor_cur ..

theorem State.makeRoom_cur : (s.makeRoom g).cur = s.cur := by
  unfold State.makeRoom
  split
  · split
    · rfl
    · exact s.acceptEntry_cur ..
  · rfl

theorem State.writeBack_cur (l : CLine) : (s.writeBack g l).cur = s.cur := State.makeRoom_cur ..

theorem State.settleFor_cur (h : Option Nat) (mine : Bool) (line : Nat) : (s.settleFor h mine line).cur = s.cur := by
  have ha := s.acceptLine_cur (if mine then h else none) line
  unfold State.settleFor
  dsimp only
  split
  · split
    · exact ha
    · split
      · rw [State.acceptFor_cur, State.writeBack_cur]
        exact ha
      · exact ha
  · exact ha

theorem State.settle_cur (h : Option Nat) (line : Nat) : (s.settle h line).cur = s.cur := s.settleFor_cur h false line

theorem State.setPage_cur (n : Nat) (p : PageDesc) : (s.setPage n p).cur = s.cur := rfl

theorem State.evictFrame_cur (f : Nat) : (s.evictFrame g f).cur = s.cur := by
  unfold State.evictFrame
  split
  · rw [State.onCore_cur, State.setPage_cur]
    exact State.foldl_cur (fun t i => t.settle_cur none _) ..
  · rfl

theorem State.shrinkCway_cur (pick : Word) : (s.shrinkCway g pick).cur = s.cur := by
  unfold State.shrinkCway
  dsimp only
  rw [State.onCore_cur]
  refine State.foldl_cur (fun t l => ?_) ..
  split
  · exact t.writeBack_cur g l
  · rfl

theorem State.changeBank_cur (owner m bank : Nat) (pick : Word) : (s.changeBank g owner m bank pick).cur = s.cur := by
  have hd := s.drainBar_cur g bank
  have he : (if (s.core g).mode bank = 3 && bank % 8 = 0 then (s.drainBar g bank).evictFrame g (bank / 8) else s.drainBar g bank).cur
      = s.cur := by
    split
    · rw [State.evictFrame_cur, hd]
    · exact hd
  unfold State.changeBank
  dsimp only
  split
  · rfl
  · split
    · rw [State.shrinkCway_cur]
      exact he
    · exact he

end Turn

/-! ### BANKMODE (R175) -/

theorem freeWord_run (s : State) : freeWord.run s = .ok (Config.freeValue s.free, { s with free := s.free + 1 }) := rfl

theorem State.give_free (s : State) (c : BitVec 6) (v : Word) : (s.give c v).free = s.free := by
  unfold State.give
  split
  · rfl
  · split
    · rfl
    · split
      · rfl
      · rfl

/-- A free value is taken where one is needed. -/
theorem pickWord_run (c : Bool) (f : Word → State → State) (s : State) :
    (if c then freeWord >>= fun pick => (modify (f pick) : M Unit) else (pure 0 : M Word) >>= fun pick => modify (f pick)).run s
      = .ok ((), f (if c then Config.freeValue s.free else 0) (if c then { s with free := s.free + 1 } else s)) := by
  cases c with
  | true => exact bind_run_of (freeWord_run s) (modify_run ..)
  | false => exact bind_run_of (pure_run 0 s) (modify_run ..)

section BankMode
variable {s sa sb : State} {x : RFields} {a b : Word} {m bank0 : Nat} {banks : List Nat}
  (hi : Issues (.bankmode x) s) (ha : (s.begun (.bankmode x)).pull x.a = (a, sa)) (hb : sa.pull x.b = (b, sb))
  (hm : b.toNat % 8 = m) (h0 : a.toNat % 65536 / 512 = bank0)
  (hbanks : (List.range (b.toNat / 256 % 128 + 1)).map (bank0 + ·) = banks)
  (hal : a.toNat < 2 ^ 19) (halign : a.toNat % 512 = 0) (hm4 : m ≤ 4) (hbl : b.toNat < 2 ^ 15) (hres : b.toNat / 8 % 32 = 0)
  (hlen : bank0 + banks.length ≤ 128)
  (hpages : (m = 3 ∨ ∃ i ∈ banks, (s.core s.cur.1).mode i = 3) → bank0 % 8 = 0 ∧ banks.length % 8 = 0)
  (hbusy : ∀ i ∈ banks, (s.core s.cur.1).mode i ≠ m → s.bankBusy s.cur.1 i = false)
  (hframes : ∀ i ∈ banks, (s.core s.cur.1).mode i = 3 → m ≠ 3 → (∀ id, (s.core s.cur.1).frames.get .free (i / 8) ≠ .moving id)
    ∧ ∀ id, (s.core s.cur.1).frames.get .free (i / 8) = .page id → s.pageMoving id = false)
include hi ha hb hm h0 hbanks hal halign hm4 hbl hres hlen hpages hbusy hframes

theorem exec_bankmode :
    let g := s.cur.1
    let leaves := banks.any (fun i => decide ((s.core g).mode i = 1)) && decide (m ≠ 1)
    let t := sb.give x.d (BitVec.ofNat 64 ((s.core g).mode bank0))
    let t1 : State := if leaves then { t with free := t.free + 1 } else t
    exec (.bankmode x) s = .next ((banks.foldl (fun u i => u.changeBank g (u.ownerOf g s.cur.2) m i
      (if leaves then Config.freeValue s.free else 0)) t1).completed (.bankmode x)) := by
  intro g leaves t t1
  have hr : Reads s sb := ((Reads.begun s _).of_pull ha).of_pull hb
  have hc : ReadsCores s sb := ((ReadsCores.begun s _).of_pull ha).of_pull hb
  have hn : b.toNat / 256 % 128 + 1 = banks.length := by rw [← hbanks, List.length_map, List.length_range]
  have hmodes : (sb.core s.cur.1).mode = (s.core s.cur.1).mode := funext fun i => hc.congr (·.mode i) _
  have hfr : (sb.core s.cur.1).frames = (s.core s.cur.1).frames := hc.congr Core.frames _
  have hbk : sb.bankBusy = s.bankBusy := hr.congr State.bankBusy
  have hpm : sb.pageMoving = s.pageMoving := hr.congr State.pageMoving
  have h0' : bankOf (offOf a) = bank0 := h0
  have hbanks' : (List.range banks.length).map (bank0 + ·) = banks := by rw [← hn, hbanks]
  refine issue_ok hi ?_ ?_
  · refine bind_run_of (src_run_of ha) <| bind_run_of (src_run_of hb) <| bind_run_of (trapIf_run_false (decide_eq_false (Nat.not_le.2 hal)) ..) <|
      bind_run_of (trapIf_run_false (decide_eq_false (not_not.2 halign)) ..) <| bind_run_of (trapIf_run_false ?_ ..) <|
      bind_run_of (get_run sb) ?_
    · simp only [h0', hm, Bool.or_eq_false_iff, decide_eq_false_iff_not]
      omega
    · simp only [hr.cur, h0', hm, hn, hbanks', hmodes, hfr, hbk, hpm]
      refine bind_run_of (trapIf_run_false ?_ ..) <| ite_run_false ?_ <| ite_run_false ?_ <| bind_run_of (dst_run ..) ?_
      · rw [Bool.and_eq_false_imp]
        intro h
        obtain ⟨hp0, hpn⟩ := hpages (by simpa using h)
        simp [hp0, hpn]
      · refine List.any_eq_false.2 fun i hib => ?_
        by_cases h : (s.core s.cur.1).mode i = m
        · simp [h]
        · simp [hbusy i hib h]
      · refine List.any_eq_false.2 fun i hib => ?_
        by_cases h : (s.core s.cur.1).mode i = 3 ∧ m ≠ 3
        · obtain ⟨hmv, hpg⟩ := hframes i hib h.1 h.2
          split
          · exact absurd ‹_› (hmv _)
          · simp [hpg _ ‹_›]
          · simp
        · simp only [Bool.and_eq_true, decide_eq_true_eq]
          exact fun hall => h hall.1
      · have hfree : t.free = s.free := (State.give_free ..).trans (hr.congr State.free)
        rw [← hfree]
        exact pickWord_run leaves _ t
  · have ht1 : t1.cur = s.cur := by
      have ht : t.cur = s.cur := (State.give_cur ..).trans hr.cur
      unfold t1
      split
      · exact ht
      · exact ht
    exact (State.foldl_cur (fun u i => u.changeBank_cur ..) ..).trans ht1

end BankMode

/-! ### FPUSH and FPOP (R105, R160, R176) -/

theorem takeFifo_cur (bank : Nat) (s : State) : (takeFifo bank s).cur = s.cur := by
  unfold takeFifo State.retagFifo
  split
  · rfl
  · rfl

section Fifo
variable {s sa sb : State} {x : RFields} {a b : Word} {bank : Nat}

theorem fifoBank_run (hal : a.toNat < 2 ^ 19) (halign : a.toNat % 512 = 0) (h0 : a.toNat % 65536 / 512 = bank)
    (hm : (s.core s.cur.1).mode bank = 2) : (fifoBank a).run s = .ok (bank, s) := by
  subst h0
  exact bind_run_of (trapIf_run_false (decide_eq_false (Nat.not_le.2 hal)) ..) <|
    bind_run_of (trapIf_run_false (decide_eq_false (not_not.2 halign)) ..) <| bind_run_of (myCore_run s) <|
    bind_run_of (trapIf_run_false (decide_eq_false (not_not.2 hm)) ..) rfl

variable (hal : a.toNat < 2 ^ 19) (halign : a.toNat % 512 = 0) (h0 : a.toNat % 65536 / 512 = bank) (hm : (s.core s.cur.1).mode bank = 2)
include hal halign h0 hm

/-- The bank that FPUSH or FPOP names, once its operands are read. -/
theorem ReadsCores.fifoBank_run (hc : ReadsCores s sb) (hcur : sb.cur = s.cur) : (fifoBank a).run sb = .ok (bank, sb) :=
  Machine.fifoBank_run hal halign h0 (by rw [hcur, hc.congr (·.mode bank)]; exact hm)

section Push
variable {q : List Word} (hi : Issues (.fpush x) s) (ha : (s.begun (.fpush x)).pull x.a = (a, sa)) (hb : sa.pull x.b = (b, sb))
  (hq : ((takeFifo bank sb).core s.cur.1).fifo.get [] bank = q)
include hi ha hb hq

theorem exec_fpush (hlen : q.length < 64) : exec (.fpush x) s = .next ((((takeFifo bank sb).onCore s.cur.1
    (fun c => { c with fifo := c.fifo.set bank (q ++ [b]) })).give x.d (BitVec.ofNat 64 (q.length + 1))).completed (.fpush x)) := by
  have hr := ((Reads.begun s _).of_pull ha).of_pull hb
  have hc := ((ReadsCores.begun s _).of_pull ha).of_pull hb
  have hu : (takeFifo bank sb).cur = s.cur := (takeFifo_cur ..).trans hr.cur
  refine issue_ok hi ?_ ((State.give_cur ..).trans hu)
  refine bind_run_of (src_run_of ha) <| bind_run_of (src_run_of hb) <| bind_run_of (hc.fifoBank_run hal halign h0 hm hr.cur) <|
    bind_run_of (modify_run _ sb) <| bind_run_of (myCore_run _) ?_
  simp only [hu, hq]
  refine ite_run_neg (Nat.not_le.2 hlen) <| bind_run_of (onMyCore_run ..) ?_
  rw [hu]
  exact dst_run ..

theorem exec_fpush_full (hlen : 64 ≤ q.length) (hx : x.fn = 1) :
    exec (.fpush x) s = .next (((takeFifo bank sb).give x.d (-1)).completed (.fpush x)) := by
  have hr := ((Reads.begun s _).of_pull ha).of_pull hb
  have hc := ((ReadsCores.begun s _).of_pull ha).of_pull hb
  have hu : (takeFifo bank sb).cur = s.cur := (takeFifo_cur ..).trans hr.cur
  refine issue_ok hi ?_ ((State.give_cur ..).trans hu)
  refine bind_run_of (src_run_of ha) <| bind_run_of (src_run_of hb) <| bind_run_of (hc.fifoBank_run hal halign h0 hm hr.cur) <|
    bind_run_of (modify_run _ sb) <| bind_run_of (myCore_run _) ?_
  simp only [hu, hq]
  exact ite_run_pos hlen <| ite_run_pos hx <| dst_run ..

end Push

section Pop
variable (hi : Issues (.fpop x) s) (ha : (s.begun (.fpop x)).pull x.a = (a, sa))
include hi ha

theorem exec_fpop {v : Word} {r : List Word} (hq : ((takeFifo bank sa).core s.cur.1).fifo.get [] bank = v :: r)
    (hbad : (takeFifo bank sa).localBad s.cur.1 (bank * 512) 512 = false) :
    let took := ((takeFifo bank sa).onCore s.cur.1 (fun c => { c with fifo := c.fifo.set bank r })).give x.d v
    exec (.fpop x) s = .next ((if x.fn = 1 then took.give (x.d + 1) 1 else took).completed (.fpop x)) := by
  intro took
  have hr := (Reads.begun s _).of_pull ha
  have hc := (ReadsCores.begun s _).of_pull ha
  have hu : (takeFifo bank sa).cur = s.cur := (takeFifo_cur ..).trans hr.cur
  have ht : took.cur = s.cur := (State.give_cur ..).trans hu
  refine issue_ok hi ?_ ?_
  · refine bind_run_of (src_run_of ha) <| bind_run_of (hc.fifoBank_run hal halign h0 hm hr.cur) <| bind_run_of (modify_run _ sa) <|
      bind_run_of (myCore_run _) ?_
    simp only [hu, hq]
    refine bind_run_of (get_run _) ?_
    simp only [hu]
    refine bind_run_of (trapIf_run_false hbad ..) <| bind_run_of (onMyCore_run ..) ?_
    rw [hu]
    refine bind_run_of (dst_run ..) ?_
    split
    · exact dst_run ..
    · exact pure_run ..
  · split
    · exact (State.give_cur ..).trans ht
    · exact ht

theorem exec_fpop_empty (hq : ((takeFifo bank sa).core s.cur.1).fifo.get [] bank = []) (hx : x.fn = 1) :
    exec (.fpop x) s = .next ((((takeFifo bank sa).give x.d 0).give (x.d + 1) 0).completed (.fpop x)) := by
  have hr := (Reads.begun s _).of_pull ha
  have hc := (ReadsCores.begun s _).of_pull ha
  have hu : (takeFifo bank sa).cur = s.cur := (takeFifo_cur ..).trans hr.cur
  refine issue_ok hi ?_ (((State.give_cur ..).trans (State.give_cur ..)).trans hu)
  refine bind_run_of (src_run_of ha) <| bind_run_of (hc.fifoBank_run hal halign h0 hm hr.cur) <| bind_run_of (modify_run _ sa) <|
    bind_run_of (myCore_run _) ?_
  simp only [hu, hq]
  exact ite_run_pos hx <| bind_run_of (dst_run ..) <| dst_run ..

end Pop

end Fifo

theorem takeFifo_own {s : State} {bank : Nat} (h : (s.core s.cur.1).tag bank = s.ownerOf s.cur.1 s.cur.2) : takeFifo bank s = s := if_pos h

theorem takeFifo_other {s : State} {bank : Nat} (h : (s.core s.cur.1).tag bank ≠ s.ownerOf s.cur.1 s.cur.2) :
    ((takeFifo bank s).core s.cur.1).fifo.get [] bank = [] ∧ ((takeFifo bank s).core s.cur.1).tag bank = s.ownerOf s.cur.1 s.cur.2 := by
  have ht : takeFifo bank s = (s.zeroBank s.cur.1 bank (s.ownerOf s.cur.1 s.cur.2)).onCore s.cur.1
      (fun c => { c with fifo := c.fifo.drop bank }) := if_neg h
  rw [ht, State.core_onCore, State.zeroBank, State.core_onCore]
  refine ⟨?_, Table.get_set_same ..⟩
  rw [Table.get, Table.find_drop_same]
  rfl

theorem bankInstructions : BankInstructions := by
  intro s x
  refine ⟨?_, ?_, ?_, fun bank _ => ⟨takeFifo_own, takeFifo_other⟩⟩
  · intro hi a b g bank0 banks m leaves ha halign hm hb hres hlen hpages hbusy hframes
    exact exec_bankmode hi rfl rfl rfl rfl rfl ha halign hm hb hres hlen hpages hbusy hframes
  · intro hi a b bank u q ha halign hm
    exact ⟨exec_fpush ha halign rfl hm hi rfl rfl rfl, exec_fpush_full ha halign rfl hm hi rfl rfl rfl⟩
  · intro hi a bank u took ha halign hm
    exact ⟨fun v r => exec_fpop ha halign rfl hm hi rfl, exec_fpop_empty ha halign rfl hm hi rfl⟩

/-! ### RSTL and RADD (R307, R308, R319) -/

theorem State.ownerOf_onCore_of_ctxs (s : State) {g : Nat} {f : Core → Core} (hf : (f (s.core g)).ctxs = (s.core g).ctxs) (h k : Nat) :
    (s.onCore g f).ownerOf h k = s.ownerOf h k := by
  unfold State.ownerOf
  rw [s.ctx_onCore_of_ctxs hf]
  rfl

theorem State.originOf_onCore_of_ctxs (s : State) {g : Nat} {f : Core → Core} (hf : (f (s.core g)).ctxs = (s.core g).ctxs) (h k : Nat) :
    (s.onCore g f).originOf h k = s.originOf h k := by
  unfold State.originOf
  simp only [s.ctx_onCore_of_ctxs hf]

section Posted
variable {s sa sb t : State} {x : RFields} {a b : Word} {ty i : Nat} {r : List Nat}

theorem checkPosted_run (hlo : 0x00F0000000000000 ≤ a.toNat) (hhi : a.toNat < 0x00F00000A0000000) {n : Nat} (hn : a.toNat % n = 0)
    (aval : Word) (s : State) : (checkPosted a n aval).run s = .ok ((), s) := by
  refine bind_run_of (trapIf_run_false ?_ ..) <| trapIf_run_false (decide_eq_false (not_not.2 hn)) ..
  rw [decide_eq_false (Nat.not_lt.2 hlo), decide_eq_false (Nat.not_le.2 hhi)]
  rfl

/-- A posted write of the low bytes of b to address a, by journal entry i of the core of context c, on its way (R308). -/
def State.postedBy (t : State) (c : Nat × Nat) (i : Nat) (a b : Word) (ty : Nat) (kind : PostedKind) : Posted :=
  { src := .journal c.1 c.2 i, source := .inl c.1, owner := t.ownerOf c.1 c.2, off := a.toNat % 65536,
    bytes := bytesOfNat (tyBytes ty) b.toNat, kind := kind }

/-- Its journal entry (R308). -/
def State.postedEntry (t : State) (c : Nat × Nat) (a b : Word) (ty jkind fn : Nat) (seq : Bool) : JEntry :=
  { state := .pending, addr := a, value := BitVec.ofNat 64 (b.toNat % 256 ^ tyBytes ty), ctx := c.2, ty := ty, fn := fn,
    kind := jkind, seq := seq, org := t.originOf c.1 c.2 }

/-- A posted write is entered in the journal of a core and sent to the core that its address names (R308). -/
def State.posted (t : State) (g i : Nat) (e : JEntry) (p : Posted) : State :=
  (t.onCore g (fun c => c.onEntry i (fun _ => e))).onCore ((e.addr.toNat - 0x00F0000000000000) / 65536)
    (fun c => { c with inbox := c.inbox ++ [p] })

theorem postWrite_run (hf : (t.core t.cur.1).freeEntries = i :: r) (a b : Word) (ty jkind fn : Nat) {kind : PostedKind} {seq : Bool}
    (hs : (t.postedBy t.cur i a b ty kind).seqNum.isSome = seq) :
    (postWrite a (bytesOfNat (tyBytes ty) b.toNat) ty jkind fn kind).run t
      = .ok (i, t.posted t.cur.1 i (t.postedEntry t.cur a b ty jkind fn seq) (t.postedBy t.cur i a b ty kind)) := by
  subst hs
  refine bind_run_of (get_run t) ?_
  simp only [hf, natOfBytes_bytesOfNat]
  cases kind with
  | store => rfl
  | arith => rfl

variable (hlo : 0x00F0000000000000 ≤ a.toNat) (hhi : a.toNat < 0x00F00000A0000000) (halign : a.toNat % tyBytes ty = 0)
  (hadm : Does (admitPosted (tyBytes ty) a) sb () t) (hcur : t.cur = s.cur) (hf : (t.core s.cur.1).freeEntries = i :: r)
include hlo hhi halign hadm hcur hf

theorem exec_rstl (hi : Issues (.rstl x) s) (ha : (s.begun (.rstl x)).pull x.a = (a, sa)) (hb : sa.pullB x = (b, sb))
    (hty : (extOf (.rstl x)).ty.toNat = ty) :
    exec (.rstl x) s = .next (((t.posted s.cur.1 i (t.postedEntry s.cur a b ty 1 0 false) (t.postedBy s.cur i a b ty .store)).give x.d
      (BitVec.ofNat 64 i)).completed (.rstl x)) := by
  subst hty
  rw [← hcur] at hf ⊢
  refine issue_ok hi ?_ ((State.give_cur ..).trans hcur)
  exact bind_run_of (src_run_of ha) <| bind_run_of ((srcB_run ..).trans (congrArg _ hb)) <|
    bind_run_of (checkPosted_run hlo hhi halign _ _) <| bind_run_of hadm <| bind_run_of (postWrite_run hf _ _ _ _ _ rfl) <| dst_run ..

theorem exec_radd {e : Ext} {dest n : Nat} (hi : Issues (.radd x) s) (ha : (s.begun (.radd x)).pull x.a = (a, sa))
    (hb : sa.pullB x = (b, sb)) (he : extOf (.radd x) = e) (hty : e.ty.toNat = ty)
    (hdest : (a.toNat - 0x00F0000000000000) / 65536 = dest) (hn : (t.core s.cur.1).seqOut.get 0 dest = n) :
    exec (.radd x) s = .next ((((t.onCore s.cur.1 (fun c => { c with seqOut := c.seqOut.set dest (n + 1) })).posted s.cur.1 i
      (t.postedEntry s.cur a b ty 2 x.fn.toNat e.f2)
      (t.postedBy s.cur i a b ty (.arith x.fn.toNat ty e.sat (if e.f2 then some n else none)))).give
        x.d (BitVec.ofNat 64 i)).completed (.radd x)) := by
  subst he hty hdest
  rw [← hcur] at hf hn ⊢
  let numbered (c : Core) : Core := { c with seqOut := c.seqOut.set ((a.toNat - 0x00F0000000000000) / 65536) (n + 1) }
  have hf' : ((t.onCore t.cur.1 numbered).core t.cur.1).freeEntries = i :: r := by
    rw [State.core_onCore]
    exact hf
  have howner (g k : Nat) : (t.onCore t.cur.1 numbered).ownerOf g k = t.ownerOf g k := t.ownerOf_onCore_of_ctxs rfl g k
  have horigin (g k : Nat) : (t.onCore t.cur.1 numbered).originOf g k = t.originOf g k := t.originOf_onCore_of_ctxs rfl g k
  have hseq : (if (extOf (.radd x)).f2 then some n else none).isSome = (extOf (.radd x)).f2 := by
    split
    · exact Eq.symm ‹_›
    · exact (Bool.eq_false_of_not_eq_true ‹_›).symm
  refine issue_ok hi ?_ ((State.give_cur ..).trans hcur)
  refine bind_run_of (src_run_of ha) <| bind_run_of ((srcB_run ..).trans (congrArg _ hb)) <|
    bind_run_of (checkPosted_run hlo hhi halign _ _) <| bind_run_of hadm <| bind_run_of (myCore_run t) ?_
  simp only [hn]
  refine bind_run_of (onMyCore_run numbered t) <| bind_run_of (postWrite_run hf' _ _ _ _ _ hseq) ?_
  simp only [State.postedEntry, State.postedBy, howner, horigin]
  exact dst_run ..

end Posted

theorem postedWrites : PostedWrites := by
  intro s t x i r dest entry post
  refine ⟨?_, ?_⟩
  · intro hi a b ty hlo hhi halign hadm hcur hf
    exact exec_rstl hlo hhi halign hadm hcur hf hi rfl rfl rfl
  · intro hi a b e ty n hlo hhi halign hadm hcur hf
    exact exec_radd hlo hhi halign hadm hcur hf hi rfl rfl rfl rfl rfl rfl

/-- Settles O9: BANKMODE, FPUSH and FPOP (`bankInstructions`), and RSTL and RADD (`postedWrites`). Which lines leave a CWAY that shrinks
stays a free value of the model (log 16). -/
theorem banksAndPosts : Obligations.BanksAndPosts := ⟨bankInstructions, postedWrites⟩

end Sys2Proof.Machine
end

section
/-! Control flow (row 2): where a transfer goes or traps, the branches and the jumps, the jump table, and the link record, which a call
writes and a return follows. -/
namespace Sys2Proof.Machine
-- Elaborated one after another, so that threads that wait for one another do not use up the memory.
set_option Elab.async false

/-! ### What completing an instruction leaves of its context -/

theorem State.traceFor_ctx (s : State) (owner g k kind : Nat) (p : Word) (g' k' : Nat) :
    (s.traceFor owner g k kind p).ctx g' k' = s.ctx g' k' := by
  unfold State.traceFor
  split
  · exact s.ctx_onCore_of_ctxs rfl g' k'
  · rfl

theorem State.mine_trace (s : State) (g k kind : Nat) (p : Word) : (s.trace g k kind p).mine = s.mine := by
  have hcur : (s.trace g k kind p).cur = s.cur := s.trace_cur g k kind p
  unfold State.mine
  rw [hcur]
  exact s.traceFor_ctx ..

/-- A context whose instruction has completed: its registers stand, and nothing of a wait is left. -/
def Ctx.retired (c : Ctx) : Ctx :=
  { c with waitFrom := none, mid := false, qFrom := none, unissued := false, nwait := none, xfail := none, popped := [], admitted := 0 }

theorem State.mine_completed {i : Instr} (hk : memKind i = none) (s : State) : (s.completed i).mine = s.mine.retired := by
  rw [State.completed, State.traceMem_none hk]
  exact s.mine_onMine Ctx.retired

theorem Ctx.retired_win (c : Ctx) : c.retired.win = c.win := rfl
theorem Ctx.retired_wbase (c : Ctx) : c.retired.wbase = c.wbase := rfl
theorem Ctx.retired_pc (c : Ctx) : c.retired.pc = c.pc := rfl

/-! ### The window as an instruction finds it -/

theorem State.begun_wbase (s : State) (i : Instr) : (s.begun i).mine.wbase = s.mine.wbase := (Reads.begun s i).congr_mine Ctx.wbase

theorem State.begun_win (s : State) (i : Instr) : (s.begun i).mine.win = s.mine.win := (Reads.begun s i).congr_mine Ctx.win

/-! ### Targets (R51, R52, R189) -/

theorem targetBad_iff {t : Word} : targetBad t = true ↔ t.toNat % 64 ≠ 0 ∨ 2 ^ 56 ≤ t.toNat := by
  rw [targetBad, Bool.or_eq_true, decide_eq_true_eq, decide_eq_true_eq]

theorem targetBad_eq_false {t : Word} (h : ¬(t.toNat % 64 ≠ 0 ∨ 2 ^ 56 ≤ t.toNat)) : targetBad t = false :=
  Bool.eq_false_iff.2 fun hb => h (targetBad_iff.1 hb)

theorem branchTarget_of_lit {x : JFields} {v : Word} (h : formLit x.form = some v) (pc : Word) : branchTarget x pc = v := by
  unfold branchTarget
  rw [h]

/-- OFF12 counts blocks (R52). -/
theorem branchTarget_of_off {x : JFields} (h : formLit x.form = none) (pc : Word) :
    branchTarget x pc = BitVec.ofNat 64 (pc.toNat / 64 * 64) + x.off12.signExtend 64 * 64 := by
  unfold branchTarget
  rw [h]
  exact congrArg (blockOf pc + ·) (BitVec.shiftLeft_eq_mul_twoPow ..)

/-! ### Transfers (R51) -/

/-- A body stops at a check that fails. -/
theorem trapIf_bind_run_true {α : Type} {c : Bool} (h : c = true) (cause : Nat) (tval : Word) (f : Unit → M α) (s : State) :
    (trapIf c cause tval >>= f).run s = .error (.trap { cause := cause, tval := tval }) := by rw [bind_run, trapIf_run_true h]

theorem State.jump_cur (s : State) (t : Word) : (s.jump t).cur = s.cur := s.trace_cur ..

/-- A transfer that is not taken goes on, a taken one goes to its target, or traps with FET.ALIGN; its operands are read in u. -/
def State.branched (s u : State) (i : Instr) (t : Word) (taken : Bool) : State :=
  if taken then if t.toNat % 64 ≠ 0 ∨ 2 ^ 56 ≤ t.toNat then s.trapped i 0x021 t else (u.jump t).completed i else u.completed i

section Issue
variable {s u : State} {i : Instr} {t : Word} {body : Env → M Unit} (hi : Issues i s) (hcur : u.cur = s.cur)
include hi hcur

theorem issue_goTo (h : (body (envOf s s.cur.1 s.cur.2 i)).run (s.begun i) = (goTo t).run u) :
    issue i body s = .next (s.branched u i t true) := by
  rw [State.branched, if_pos rfl]
  split
  · exact issue_trap hi (h.trans (trapIf_bind_run_true (targetBad_iff.2 ‹_›) ..))
  · exact issue_ok hi (h.trans (goTo_run (targetBad_eq_false ‹_›) u)) ((u.jump_cur t).trans hcur)

theorem issue_goIf {b : Bool} (h : (body (envOf s s.cur.1 s.cur.2 i)).run (s.begun i) = (goIf b t).run u) :
    issue i body s = .next (s.branched u i t b) := by
  cases b with
  | false => exact issue_ok hi h hcur
  | true => exact issue_goTo hi hcur h

end Issue

/-! ### Branches and jumps (R189-R194, R199) -/

section Branch
variable {s sa sc : State} {a c : Word}

theorem exec_br {x : JFields} (hi : Issues (.br x) s) :
    exec (.br x) s = .next (s.branched (s.begun (.br x)) (.br x) (branchTarget x s.mine.pc) true) := issue_goTo hi rfl rfl

theorem exec_bz {x : JFields} (hi : Issues (.bz x) s) (ha : (s.begun (.bz x)).pull x.a = (a, sa)) :
    exec (.bz x) s = .next (s.branched sa (.bz x) (branchTarget x s.mine.pc) (zeroCond x.fn.toNat a)) :=
  issue_goIf hi ((Reads.begun s _).of_pull ha).cur (bind_run_of (src_run_of ha) rfl)

/-- BCMP's second operand is IMM32 or the operand that C names (R192). -/
theorem exec_bcmp {x : JFields} (hi : Issues (.bcmp x) s) (ha : (s.begun (.bcmp x)).pull x.a = (a, sa))
    (hc : (if (extOf (.bcmp x)).f2 then ((extOf (.bcmp x)).imm32.signExtend 64, sa) else sa.pull (extOf (.bcmp x)).c) = (c, sc)) :
    exec (.bcmp x) s = .next (s.branched sc (.bcmp x) (branchTarget x s.mine.pc) (relHolds x.fn.toNat a c)) := by
  have hra := (Reads.begun s _).of_pull ha
  by_cases hf : (extOf (.bcmp x)).f2 = true
  · rw [if_pos hf] at hc
    obtain ⟨rfl, rfl⟩ := Prod.mk.inj hc
    exact issue_goIf hi hra.cur (bind_run_of (src_run_of ha) <| ite_run_pos hf rfl)
  · rw [if_neg hf] at hc
    exact issue_goIf hi (hra.of_pull hc).cur (bind_run_of (src_run_of ha) <| ite_run_neg hf <| bind_run_of (src_run_of hc) rfl)

theorem exec_loop {x : JFields} {n : Word} (hi : Issues (.loop x) s) (ha : (s.begun (.loop x)).pull x.a = (a, sa))
    (hn : (if a = 0 then 0 else a - 1) = n) :
    exec (.loop x) s = .next (s.branched (sa.give x.a n) (.loop x) (branchTarget x s.mine.pc) (decide (n ≠ 0))) := by
  subst hn
  exact issue_goIf hi ((State.give_cur ..).trans ((Reads.begun s _).of_pull ha).cur)
    (bind_run_of (src_run_of ha) <| bind_run_of (dst_run ..) rfl)

theorem exec_bq {x : JFields} (hi : Issues (.bq x) s) (ha : (s.begun (.bq x)).pull x.a = (a, sa)) :
    exec (.bq x) s = .next (s.branched sa (.bq x) (branchTarget x s.mine.pc) (if x.fn = 0 then decide (a ≠ 0) else decide (a = 0))) :=
  issue_goIf hi ((Reads.begun s _).of_pull ha).cur (bind_run_of (src_run_of ha) rfl)

theorem exec_jr {x : RFields} (hi : Issues (.jr x) s) (ha : (s.begun (.jr x)).pull x.a = (a, sa)) :
    exec (.jr x) s = .next (s.branched sa (.jr x) a true) :=
  issue_goTo hi ((Reads.begun s _).of_pull ha).cur (bind_run_of (src_run_of ha) rfl)

theorem exec_nop {x : RFields} (hi : Issues (.nop x) s) : exec (.nop x) s = .next ((s.begun (.nop x)).completed (.nop x)) :=
  issue_ok hi (pure_run ..) rfl

end Branch

/-- The outcome of a transfer, as its three cases. -/
theorem State.next_branched {s u : State} {i : Instr} {t t' : Word} {b : Bool} (ht : t = t') :
    (Host.Outcome.next (s.branched u i t b) : Host.Outcome State Fault Refusal) =
      if b then if t'.toNat % 64 ≠ 0 ∨ 2 ^ 56 ≤ t'.toNat then .next (s.trapped i 0x021 t') else .next ((u.jump t').completed i)
      else .next (u.completed i) := by
  subst ht
  rw [State.branched, apply_ite Host.Outcome.next, apply_ite Host.Outcome.next]

theorem branchResults : BranchResults := by
  intro s branches target
  have htarget (x : JFields) : branchTarget x s.mine.pc = target x := by
    unfold target
    split
    · exact branchTarget_of_lit ‹_› _
    · exact branchTarget_of_off ‹_› _
  refine ⟨fun x => ⟨fun hi => ?_, fun hi => ?_, fun hi => ?_, fun hi => ?_, fun hi => ?_⟩, fun x => ⟨fun hi => ?_, exec_nop⟩⟩
  · exact (exec_br hi).trans (State.next_branched (htarget x))
  · exact (exec_bz hi rfl).trans (State.next_branched (htarget x))
  · exact (exec_bcmp hi rfl rfl).trans (State.next_branched (htarget x))
  · exact (exec_loop hi rfl rfl).trans (State.next_branched (htarget x))
  · exact (exec_bq hi rfl).trans (State.next_branched (htarget x))
  · exact (exec_jr hi rfl).trans (State.next_branched rfl)

/-! ### The jump table (R200) -/

/-- An offset of the raw window is a local address of window 0 (R157). -/
theorem winOf_of_lt {la : Word} (h : la.toNat < 65536) : winOf la = 0 := by
  rw [winOf, Nat.div_eq_of_lt h]

theorem checkLocal_run_raw {la : Word} (h : la.toNat < 65536) (s : State) : (checkLocal la).run s = .ok ((), s) :=
  bind_run_of (trapIf_run_false (decide_eq_false (by omega)) ..) <| trapIf_run_false (by rw [winOf_of_lt h]; rfl) ..

theorem exec_jtab {s sa sb s1 s2 : State} {x : RFields} {a b h t : Word} {e : Nat} (hi : Issues (.jtab x) s)
    (ha : (s.begun (.jtab x)).pull x.a = (a, sa)) (hb : sa.pull x.b = (b, sb)) (hlt : a.toNat < 65536) (halign : a.toNat % 8 = 0)
    (hcount : Does (localDword a) sb h s1) (he : a.toNat + 8 + 8 * min b.toNat (h.toNat % 2 ^ 32) = e) (hlast : e + 8 ≤ 65536)
    (hentry : Does (localDword (BitVec.ofNat 64 e)) s1 t s2) (ht : ¬(t.toNat % 64 ≠ 0 ∨ 2 ^ 56 ≤ t.toNat)) (hcur : s2.cur = s.cur) :
    exec (.jtab x) s = .next ((s2.jump t).completed (.jtab x)) := by
  refine issue_ok hi ?_ ((s2.jump_cur t).trans hcur)
  refine bind_run_of (src_run_of ha) <| bind_run_of (src_run_of hb) <| bind_run_of (checkLocal_run_raw hlt sb) <|
    bind_run_of (trapIf_run_false (decide_eq_false (not_not.2 (winOf_of_lt hlt))) ..) <|
    bind_run_of (trapIf_run_false (decide_eq_false (not_not.2 halign)) ..) <| bind_run_of hcount ?_
  simp only [← min_def_lt, he]
  exact bind_run_of (trapIf_run_false (decide_eq_false (Nat.not_lt.2 hlast)) ..) <| bind_run_of hentry <| goTo_run (targetBad_eq_false ht) s2

theorem jumpTable : JumpTable := by
  intro s x hi a b h t s1 s2 hlt halign hcount n e hlast hentry ht hmax hcur
  exact exec_jtab hi rfl rfl hlt halign hcount rfl hlast hentry (by omega) hcur

/-- Settles O6: the branches, JR and NOP (`branchResults`), each a transfer that is taken or not, and JTAB where its own checks
pass (`jumpTable`). -/
theorem branchesAndJumps : Obligations.BranchesAndJumps := ⟨branchResults, jumpTable⟩

/-! ### Calls (R195, R196) -/

/-- The state in which a call has moved the window of u, whose link record leads past the block of `pc`. -/
def State.called (u : State) (pc t : Word) (n : Nat) : State :=
  (u.trace u.cur.1 u.cur.2 1 t).onMine (fun c => { c with
    win := c.win.set (c.wbase + n - 1) (linkRecord pc n), wbase := c.wbase + n, pc := t })

theorem State.called_cur (u : State) (pc t : Word) (n : Nat) : (u.called pc t n).cur = u.cur := u.trace_cur ..

theorem State.mine_called (u : State) (pc t : Word) (n : Nat) : (u.called pc t n).mine =
    { u.mine with win := u.mine.win.set (u.mine.wbase + n - 1) (linkRecord pc n), wbase := u.mine.wbase + n, pc := t } := by
  rw [State.called, State.mine_onMine, State.mine_trace]

/-- A call goes to its target with the window moved up, or traps with FET.ALIGN or CPL.WSTACK. -/
theorem issue_callTo {s u : State} {i : Instr} {t : Word} {n : Nat} {body : Env → M Unit} (hi : Issues i s) (hr : Reads s u)
    (h : (body (envOf s s.cur.1 s.cur.2 i)).run (s.begun i) = (callTo t n (envOf s s.cur.1 s.cur.2 i)).run u) :
    issue i body s = if t.toNat % 64 ≠ 0 ∨ 2 ^ 56 ≤ t.toNat then .next (s.trapped i 0x021 t)
      else if 1888 < s.mine.wbase + n then .next (s.trapped i 0x0E6 (envOf s s.cur.1 s.cur.2 i).aval)
      else .next ((u.called s.mine.pc t n).completed i) := by
  have hbase : u.mine.wbase = s.mine.wbase := hr.congr_mine Ctx.wbase
  split
  · exact issue_trap hi (h.trans (trapIf_bind_run_true (targetBad_iff.2 ‹_›) ..))
  · rw [← hbase]
    have hcall := h.trans <| bind_run_of (trapIf_run_false (targetBad_eq_false ‹_›) 0x021 t u) <| bind_run_of (myCtx_run u) rfl
    split
    · exact issue_trap hi (hcall.trans (trapIf_bind_run_true (decide_eq_true ‹_›) ..))
    · exact issue_ok hi (hcall.trans (bind_run_of (trapIf_run_false (decide_eq_false ‹_›) ..) rfl)) ((u.called_cur ..).trans hr.cur)

theorem exec_call {s : State} {x : JFields} (hi : Issues (.call x) s) {t : Word} (ht : branchTarget x s.mine.pc = t) :
    exec (.call x) s = if t.toNat % 64 ≠ 0 ∨ 2 ^ 56 ≤ t.toNat then .next (s.trapped (.call x) 0x021 t)
      else if 1888 < s.mine.wbase + x.a.toNat then .next (s.trapped (.call x) 0x0E6 (envOf s s.cur.1 s.cur.2 (.call x)).aval)
      else .next (((s.begun (.call x)).called s.mine.pc t x.a.toNat).completed (.call x)) := by
  subst ht
  exact issue_callTo hi (.begun s _) rfl

/-! ### Returns (R197) -/

/-- The link record that a return finds does not let it return. -/
def BadLink (k : Word) (wbase : Nat) : Prop :=
  wbase = 0 ∨ k.toNat % 32 = 0 ∨ wbase < k.toNat % 32 ∨ 2 ^ 56 ≤ k.toNat ∨ k.getLsbD 5 = true

/-- The state in which a return has followed the link record k. -/
def State.returned (u : State) (k : Word) : State :=
  (u.trace u.cur.1 u.cur.2 1 (BitVec.ofNat 64 (k.toNat / 64 * 64))).onMine (fun c =>
    { c with wbase := c.wbase - k.toNat % 32, pc := BitVec.ofNat 64 (k.toNat / 64 * 64) })

theorem State.returned_cur (u : State) (k : Word) : (u.returned k).cur = u.cur := u.trace_cur ..

theorem State.mine_returned (u : State) (k : Word) : (u.returned k).mine =
    { u.mine with wbase := u.mine.wbase - k.toNat % 32, pc := BitVec.ofNat 64 (k.toNat / 64 * 64) } := by
  rw [State.returned, State.mine_onMine, State.mine_trace]

section Ret
variable {s : State} {x : JFields} {k : Word} (hi : Issues (.ret x) s) (hk : s.mine.win.get 0 (s.mine.wbase - 1) = k)
include hi hk

theorem exec_ret_of_bad (hbad : BadLink k s.mine.wbase) : exec (.ret x) s = .next (s.trapped (.ret x) 0x0E6 0) := by
  refine issue_trap (info := { cause := 0x0E6, tval := 0 }) hi <| bind_run_of (myCtx_run _) ?_
  simp only [State.begun_wbase, State.begun_win, hk]
  by_cases h0 : s.mine.wbase = 0
  · exact trapIf_bind_run_true (decide_eq_true h0) ..
  · refine bind_run_of (trapIf_run_false (decide_eq_false h0) ..) <| trapIf_bind_run_true ?_ ..
    simpa [BadLink, h0, or_assoc] using hbad

theorem exec_ret (hok : ¬BadLink k s.mine.wbase) :
    exec (.ret x) s = .next (((s.begun (.ret x)).returned k).completed (.ret x)) := by
  obtain ⟨h0, hlink⟩ := not_or.1 hok
  refine issue_ok hi (bind_run_of (myCtx_run _) ?_) (State.returned_cur ..)
  simp only [State.begun_wbase, State.begun_win, hk]
  refine bind_run_of (trapIf_run_false (decide_eq_false h0) ..) <| bind_run_of (trapIf_run_false ?_ ..) rfl
  rw [Bool.eq_false_iff]
  simpa [or_assoc] using hlink

end Ret

theorem callAndReturn : CallAndReturn := by
  intro s calls
  refine ⟨fun x hi => exec_call hi rfl, fun x hi => ?_, fun x hi => ?_⟩
  · exact issue_callTo hi ((Reads.begun s _).pull x.a) (bind_run_of (src_run_of rfl) rfl)
  · intro k n u back
    split
    · exact exec_ret_of_bad hi rfl ‹_›
    · exact exec_ret hi rfl ‹_›

/-! ### A return undoes its call (R195, R197) -/

theorem rsvdOk_of_decodeCause {i : Instr} {fe : FE} (h : decodeCause i fe = none) : i.rsvdOk = true := by
  unfold decodeCause at h
  split at h
  · cases h
  · split at h
    · cases h
    · split at h
      · cases h
      · rename_i hr
        simpa using hr

/-- CALL's slide is 1 to 24 (R196). -/
theorem slide_of_issues_call {s : State} {x : JFields} (hi : Issues (.call x) s) : 0 < x.a.toNat ∧ x.a.toNat < 25 := by
  have hr := rsvdOk_of_decodeCause hi.1
  simp only [Instr.rsvdOk, Instr.spec, Instr.fields, Fields.regsOk, Role.ok6, Bool.and_eq_true, decide_eq_true_eq] at hr
  obtain ⟨⟨⟨⟨-, hslide⟩, -⟩, -⟩, -⟩ := hr
  exact hslide

section Link
variable {pc : Word} {n : Nat} (hpc : pc.toNat < 2 ^ 56 - 64) (hn : n < 25)
include hpc hn

theorem toNat_linkRecord : (linkRecord pc n).toNat = (pc.toNat / 64 + 1) * 64 + n := by
  rw [linkRecord, BitVec.toNat_ofNat]
  omega

theorem linkRecord_slide : (linkRecord pc n).toNat % 32 = n := by
  rw [toNat_linkRecord hpc hn]
  omega

theorem linkRecord_block : (linkRecord pc n).toNat / 64 * 64 = (pc.toNat / 64 + 1) * 64 := by
  rw [toNat_linkRecord hpc hn]
  omega

/-- A call's link record lets the window come back down by the slide. -/
theorem not_badLink_linkRecord (h0 : 0 < n) (b : Nat) : ¬BadLink (linkRecord pc n) (b + n) := by
  have h5 : (linkRecord pc n).getLsbD 5 = false := by
    rw [BitVec.getLsbD, Nat.testBit_eq_decide_div_mod_eq, toNat_linkRecord hpc hn]
    exact decide_eq_false (by omega)
  have hlt : (linkRecord pc n).toNat < 2 ^ 56 := by
    rw [toNat_linkRecord hpc hn]
    omega
  simp only [BadLink, linkRecord_slide hpc hn, h5, Bool.false_eq_true, or_false]
  omega

end Link

theorem returnUndoesCall : ReturnUndoesCall := by
  intro s t u x y hi ht hpc halign hmax hroom hwin hbase hret
  obtain ⟨h0, hn⟩ := slide_of_issues_call hi
  have hcall := exec_call hi rfl
  rw [if_neg (by omega), if_neg (by omega), ht] at hcall
  obtain rfl := Host.Outcome.next.inj hcall
  simp only [State.mine_completed (i := .call x) rfl, Ctx.retired_win, Ctx.retired_wbase, State.mine_called, State.begun_wbase]
    at hwin hbase
  have hk : u.mine.win.get 0 (u.mine.wbase - 1) = linkRecord s.mine.pc x.a.toNat := by
    rw [hwin, hbase]
    exact Table.get_set_same ..
  refine ⟨_, exec_ret hret hk (hbase ▸ not_badLink_linkRecord hpc hn h0 _), ?_, ?_⟩
  · rw [State.mine_completed rfl, Ctx.retired_wbase, State.mine_returned]
    dsimp only
    rw [linkRecord_slide hpc hn, State.begun_wbase, hbase, Nat.add_sub_cancel]
  · rw [State.mine_completed rfl, Ctx.retired_pc, State.mine_returned]
    dsimp only
    rw [linkRecord_block hpc hn]

/-- Settles O5: CALL, CALLR and RET with their traps (`callAndReturn`), and a RET that follows the link record of a CALL
(`returnUndoesCall`). -/
theorem callsAndReturns : Obligations.CallsAndReturns := ⟨callAndReturn, returnUndoesCall⟩

end Sys2Proof.Machine
end

section
/-! Scalar instructions (rows 0 and 1): integers of a type and what narrowing keeps of them, division, shifts and rotates, the flag word, the
selection and bit-field instructions, and FOP. -/
namespace Sys2Proof.Machine

/-! ### Narrowing to a type (R205) -/

theorem tyBits_cases (ty : Nat) : tyBits ty = 4 ∨ tyBits ty = 8 ∨ tyBits ty = 16 ∨ tyBits ty = 32 ∨ tyBits ty = 64 := by
  unfold tyBits
  split <;> simp

theorem tyBits_pos (ty : Nat) : 0 < tyBits ty := by have := tyBits_cases ty; omega

theorem tyBits_le (ty : Nat) : tyBits ty ≤ 64 := by have := tyBits_cases ty; omega

/-- The value of a code and the code itself agree in the low bits. -/
theorem intOf_modEq (signed : Bool) (bits code : Nat) : intOf signed bits code ≡ code [ZMOD 2 ^ bits] := by
  have hcode : ((code % 2 ^ bits : Nat) : Int) ≡ code [ZMOD 2 ^ bits] := by
    rw [Int.natCast_mod, Nat.cast_pow, Nat.cast_ofNat]
    exact Int.mod_modEq _ _
  unfold intOf
  dsimp only
  split
  · exact (Int.modEq_iff_dvd.2 ⟨1, by ring⟩).trans hcode
  · exact hcode

theorem intCode_modEq (bits : Nat) (v : Int) : (intCode bits v : Int) ≡ v [ZMOD 2 ^ bits] := by
  rw [intCode, Int.toNat_of_nonneg (Int.emod_nonneg v (by positivity))]
  exact Int.mod_modEq v _

/-- A word that holds an integer agrees with it in the low bits. -/
theorem toNat_ofInt_modEq {bits : Nat} (h : bits ≤ 64) (v : Int) : ((BitVec.ofInt 64 v).toNat : Int) ≡ v [ZMOD 2 ^ bits] := by
  have hword : ((BitVec.ofInt 64 v).toNat : Int) ≡ v [ZMOD 2 ^ 64] := by
    rw [BitVec.toNat_ofInt, Int.toNat_of_nonneg (Int.emod_nonneg v (by decide))]
    exact Int.mod_modEq v _
  exact hword.of_dvd (pow_dvd_pow 2 h)

/-- Narrowing an integer to a type keeps it modulo 2^w. -/
theorem valOf_putOf_modEq (ty : Nat) (v : Int) : valOf ty (putOf ty v) ≡ v [ZMOD 2 ^ tyBits ty] :=
  calc valOf ty (putOf ty v)
    _ ≡ (putOf ty v).toNat [ZMOD 2 ^ tyBits ty] := intOf_modEq ..
    _ ≡ intOf (tySigned ty) (tyBits ty) (intCode (tyBits ty) v) [ZMOD 2 ^ tyBits ty] := toNat_ofInt_modEq (tyBits_le ty) _
    _ ≡ intCode (tyBits ty) v [ZMOD 2 ^ tyBits ty] := intOf_modEq ..
    _ ≡ v [ZMOD 2 ^ tyBits ty] := intCode_modEq ..

theorem putOf_zero (ty : Nat) : putOf ty 0 = 0 := by
  simp [putOf, intCode, intOf]

/-! ### Instructions of two operands, and of an operand and an immediate (R206, R211) -/

section Issue
variable {s : State} {i : Instr} {f : Nat → Word → Word → Word} (hi : Issues i s)
include hi

theorem issue_binary_of {g : Word → Word → Word} (x : RFields) (hf : ∀ a b, f (extOf i).ty.toNat a b = g a b) :
    issue i (binary x f) s = .next (((s.begun i).twoOperand x g).completed i) := by
  rw [← funext₂ hf]
  exact issue_binary i x f s hi

theorem issue_binaryImm_of {g : Word → Word} (x : IFields) (hf : ∀ a, f (extOf i).ty.toNat a x.imm = g a) :
    issue i (binaryImm x f) s = .next (((s.begun i).oneOperand x.a x.d g).completed i) := by
  rw [← funext hf]
  exact issue_binaryImm i x f s hi

end Issue

/-! ### Division (R208) -/

/-- Quotient and remainder give the dividend back modulo 2^w, in the defined cases too. -/
theorem divRem_modEq (ty : Nat) (x y : Int) : (divRem ty x y).1 * y + (divRem ty x y).2 ≡ x [ZMOD 2 ^ tyBits ty] := by
  unfold divRem
  split
  · simp [‹y = 0›]
  · split
    next h =>
      obtain ⟨-, rfl, rfl⟩ := h
      have hpow : (2 : Int) ^ tyBits ty = 2 * 2 ^ (tyBits ty - 1) := by rw [← pow_succ', Nat.sub_add_cancel (tyBits_pos ty)]
      rw [hpow]
      exact Int.modEq_iff_dvd.2 ⟨-1, by ring⟩
    next => rw [add_sub_cancel]

theorem divResult_mul_add_remResult_modEq (ty : Nat) (a b : Word) :
    valOf ty (divResult ty a b) * valOf ty b + valOf ty (remResult ty a b) ≡ valOf ty a [ZMOD 2 ^ tyBits ty] :=
  (((valOf_putOf_modEq ty _).mul_right _).add (valOf_putOf_modEq ty _)).trans (divRem_modEq ..)

/-- Settles O1: DIV and REM narrow the two components of `divRem`, case by case those of R208, and narrowing keeps them modulo 2^w
(`divResult_mul_add_remResult_modEq`). -/
theorem divisionResults : Obligations.DivisionResults := by
  refine ⟨fun s x => ?_, fun ty _ a b => ?_⟩
  · intro q r
    refine ⟨fun hi => issue_binary_of hi x fun a b => ?_, fun hi => issue_binary_of hi x fun a b => ?_⟩
    · rw [divResult, divRem, apply_ite Prod.fst, apply_ite Prod.fst]
    · rw [remResult, divRem, apply_ite Prod.snd, apply_ite Prod.snd]
  · exact Int.emod_eq_emod_iff_emod_sub_eq_zero.1 (divResult_mul_add_remResult_modEq ty a b)

/-! ### Shifts (R209, R212) -/

theorem shlResult_eq (ty : Nat) (a n : Word) :
    shlResult ty a n = if tyBits ty ≤ n.toNat then putOf ty 0 else putOf ty ((uval (tyBits ty) a * 2 ^ n.toNat : Nat) : Int) := by
  rw [putOf_zero]
  rfl

theorem shrResult_logical (ty : Nat) (a n : Word) : shrResult ty false a n =
    if tyBits ty ≤ n.toNat then putOf ty 0 else putOf ty ((uval (tyBits ty) a / 2 ^ n.toNat : Nat) : Int) := by
  rw [putOf_zero]
  rfl

theorem shrResult_arithmetic (ty : Nat) (a n : Word) : shrResult ty true a n =
    if tyBits ty ≤ n.toNat then putOf ty (if sval (tyBits ty) a < 0 then -1 else 0)
    else putOf ty (sval (tyBits ty) a / 2 ^ n.toNat) := rfl

/-! ### Rotates (R209) -/

section Rotate
variable {w : Nat} (hw : 0 < w) (x : BitVec w) (r : Nat)
include hw

/-- The bits that a rotate moves up and those that it brings round do not overlap. -/
theorem toNat_rotateLeft_eq_add : (x.rotateLeft r).toNat = x.toNat * 2 ^ (r % w) % 2 ^ w + x.toNat / 2 ^ (w - r % w) := by
  have hsplit : 2 ^ w = 2 ^ (w - r % w) * 2 ^ (r % w) := by rw [← pow_add, Nat.sub_add_cancel (Nat.mod_lt r hw).le]
  have hlow : x.toNat / 2 ^ (w - r % w) < 2 ^ (r % w) := Nat.div_lt_of_lt_mul (hsplit ▸ x.isLt)
  have hhigh : x.toNat * 2 ^ (r % w) % 2 ^ w = (x.toNat % 2 ^ (w - r % w)) <<< (r % w) := by
    rw [hsplit, Nat.mul_mod_mul_right, Nat.shiftLeft_eq]
  rw [BitVec.toNat_rotateLeft, Nat.shiftLeft_eq, Nat.shiftRight_eq_div_pow, hhigh,
    ← Nat.shiftLeft_add_eq_or_of_lt hlow]

theorem getLsbD_rotateLeft_add {i : Nat} (hi : i < w) : (x.rotateLeft r).getLsbD ((i + r) % w) = x.getLsbD i := by
  have hr : r % w < w := Nat.mod_lt r hw
  rw [← Nat.add_mod_mod, BitVec.getLsbD_rotateLeft]
  by_cases hin : i + r % w < w
  · have hup : ¬i + r % w < r % w := by omega
    rw [Nat.mod_eq_of_lt hin, decide_eq_false hup, decide_eq_true hin, Nat.add_sub_cancel]
    rfl
  · have hmod : (i + r % w) % w = i + r % w - w := by rw [Nat.mod_eq_sub_mod (not_lt.1 hin), Nat.mod_eq_of_lt (by omega)]
    have hround : i + r % w - w < r % w := by omega
    rw [hmod, decide_eq_true hround, cond_true]
    congr 1
    omega

end Rotate

/-- The word that a rotate by n places gives: its low w bits rotated left, to the right by as many places as are left of w. -/
def rotWord (w : Nat) (left : Bool) (a n : Word) : Word :=
  ((a.setWidth w).rotateLeft (if left then n.toNat else w - n.toNat % w)).setWidth 64

theorem rotResult_eq (ty : Nat) (left : Bool) (a n : Word) :
    rotResult ty left a n = putOf ty (rotWord (tyBits ty) left a n).toNat := by
  have hw := tyBits_pos ty
  have hlt : ((a.setWidth (tyBits ty)).rotateLeft (if left then n.toNat else tyBits ty - n.toNat % tyBits ty)).toNat < 2 ^ 64 :=
    (BitVec.isLt _).trans_le (Nat.pow_le_pow_right (by decide) (tyBits_le ty))
  rw [rotWord, BitVec.toNat_setWidth, Nat.mod_eq_of_lt hlt, toNat_rotateLeft_eq_add hw, BitVec.toNat_setWidth]
  cases left <;> rfl

section RotateWord
variable {w i : Nat} (hw : w ≤ 64) (hi : i < w) (a n : Word)
include hi

theorem getLsbD_setWidth_of_lt : (a.setWidth w).getLsbD i = a.getLsbD i := by
  rw [BitVec.getLsbD_setWidth, decide_eq_true hi, Bool.true_and]

include hw

theorem getLsbD_rotWord (left : Bool) : (rotWord w left a n).getLsbD i =
    ((a.setWidth w).rotateLeft (if left then n.toNat else w - n.toNat % w)).getLsbD i := by
  rw [rotWord, BitVec.getLsbD_setWidth, decide_eq_true (by omega : i < 64), Bool.true_and]

theorem getLsbD_rotWord_left : (rotWord w true a n).getLsbD ((i + n.toNat) % w) = a.getLsbD i := by
  have hpos : 0 < w := Nat.zero_lt_of_lt hi
  rw [getLsbD_rotWord hw (Nat.mod_lt _ hpos), if_pos rfl, getLsbD_rotateLeft_add hpos _ _ hi, getLsbD_setWidth_of_lt hi]

theorem getLsbD_rotWord_right : (rotWord w false a n).getLsbD i = a.getLsbD ((i + n.toNat) % w) := by
  have hpos : 0 < w := Nat.zero_lt_of_lt hi
  have hsrc : (i + n.toNat) % w < w := Nat.mod_lt _ hpos
  have hback : ((i + n.toNat) % w + (w - n.toNat % w)) % w = i := by
    have hn : n.toNat % w < w := Nat.mod_lt _ hpos
    rw [← Nat.add_mod_mod i, Nat.mod_add_mod, Nat.add_assoc, Nat.add_sub_cancel' hn.le, Nat.add_mod_right, Nat.mod_eq_of_lt hi]
  rw [getLsbD_rotWord hw hi, if_neg Bool.false_ne_true, ← getLsbD_setWidth_of_lt hsrc,
    ← getLsbD_rotateLeft_add hpos (a.setWidth w) (w - n.toNat % w) hsrc, hback]

end RotateWord

/-- Settles O2: the shifts by a whole count (`shlResult_eq`, `shrResult_logical`, `shrResult_arithmetic`), and a rotate as a rotation of the
low w bits, which moves each bit to its place (`getLsbD_rotWord_left`, `getLsbD_rotWord_right`). -/
theorem shiftResults : Obligations.ShiftResults := by
  intro s shl lg ar
  refine ⟨fun x => ⟨fun hi => issue_binary_of hi x (shlResult_eq _), fun hi => issue_binary_of hi x fun a n => ?_, fun hi =>
    ⟨rotWord (tyBits (extOf (.rot x)).ty.toNat) (decide (x.fn = 1)), issue_binary_of hi x (rotResult_eq _ _), fun a n i hlt => ?_⟩⟩,
    fun x => ⟨fun hi => issue_binaryImm_of hi x fun a => shlResult_eq .., fun hi => issue_binaryImm_of hi x fun a => ?_⟩⟩
  · split
    next hfn => rw [decide_eq_true hfn]; exact shrResult_arithmetic ..
    next hfn => rw [decide_eq_false hfn]; exact shrResult_logical ..
  · dsimp only
    split
    next hfn => rw [decide_eq_true hfn]; exact getLsbD_rotWord_left (tyBits_le _) hlt a n
    next hfn => rw [decide_eq_false hfn]; exact getLsbD_rotWord_right (tyBits_le _) hlt a n
  · split
    next h6 => rw [h6]; exact shrResult_arithmetic ..
    next h6 => rw [Bool.eq_false_iff.2 h6]; exact shrResult_logical ..

/-! ### Two operands, and an operand and an immediate (R207, R210, R211, R213, R214, R217-R219) -/

/-- FN scales the index by a power of two (R218). -/
theorem addrResult_eq (fn : Nat) (imm32 : Lane) (a b : Word) :
    addrResult fn imm32 a b = a + b * BitVec.ofNat 64 (2 ^ fn) + imm32.signExtend 64 := by
  have hpow : BitVec.twoPow 64 fn = BitVec.ofNat 64 (2 ^ fn) := BitVec.eq_of_toNat_eq (BitVec.toNat_twoPow 64 fn)
  rw [addrResult, BitVec.shiftLeft_eq_mul_twoPow, hpow]

theorem exec_addr {s : State} {x : RFields} (hi : Issues (.addr x) s) :
    exec (.addr x) s = .next (((s.begun (.addr x)).twoOperand x
      (addrResult x.fn.toNat (extOf (.addr x)).imm32)).completed (.addr x)) :=
  issue_ok hi (binary_run ..) (State.twoOperand_cur ..)

theorem exec_lit {s : State} {x : IFields} (hi : Issues (.lit x) s) :
    exec (.lit x) s = .next (((s.begun (.lit x)).give x.d x.imm).completed (.lit x)) :=
  issue_ok hi (dst_run ..) (State.give_cur ..)

theorem addsResult_eq (ty : Nat) (p : Prop) [Decidable p] (a b : Word) : addsResult ty (decide p) a b =
    putOf ty (intSat (tySigned ty) (tyBits ty) (if p then valOf ty a - valOf ty b else valOf ty a + valOf ty b)) := by
  simp only [addsResult, decide_eq_true_eq]

theorem twoOperandResults : TwoOperandResults := by
  intro s x gives
  refine ⟨issue_binary _ x addResult s, issue_binary _ x subResult s, issue_binary _ x mulResult s, issue_binary _ x mulhResult s,
    issue_binary _ x andResult s, issue_binary _ x orResult s, issue_binary _ x xorResult s, issue_binary _ x andnResult s,
    issue_binary _ x minResult s, issue_binary _ x maxResult s, issue_binary _ x _ s, issue_binary _ x _ s, fun hi => ?_,
    fun hi => issue_binary_of hi x (addsResult_eq _ _)⟩
  rw [exec_addr hi, funext₂ (addrResult_eq _ _)]

/-- Six answers, each in its bit (R213). -/
theorem getLsbD_flags (b0 b1 b2 b3 b4 b5 : Bool) :
    let f := boolWord b0 ||| boolWord b1 <<< 1 ||| boolWord b2 <<< 2 ||| boolWord b3 <<< 3 ||| boolWord b4 <<< 4 ||| boolWord b5 <<< 5
    f.toNat < 64 ∧ f.getLsbD 0 = b0 ∧ f.getLsbD 1 = b1 ∧ f.getLsbD 2 = b2 ∧ f.getLsbD 3 = b3 ∧ f.getLsbD 4 = b4 ∧ f.getLsbD 5 = b5 := by
  revert b0 b1 b2 b3 b4 b5
  decide

theorem immediateResults : ImmediateResults := by
  refine ⟨fun ty _ a b => getLsbD_flags .., fun s x => ?_⟩
  intro gives
  exact ⟨issue_binaryImm _ x addResult s, issue_binaryImm _ x andResult s, issue_binaryImm _ x orResult s, issue_binaryImm _ x xorResult s,
    issue_binaryImm _ x (fun ty => flagWord (tyBits ty)) s, exec_lit⟩

/-- Settles O3: the two-operand instructions (`twoOperandResults`), the immediate forms and the flag word (`immediateResults`). -/
theorem arithmeticResults : Obligations.ArithmeticResults := ⟨twoOperandResults, immediateResults⟩

/-! ### Reading the operands of one instruction -/

section Read
variable {α β : Type} {s t : State} {v : Word}

theorem srcB_run_of {x : RFields} (h : s.pullB x = (v, t)) : (srcB x).run s = .ok (v, t) := by rw [srcB_run, h]

/-- An operand that only some functions have (R204). -/
theorem srcIf_run_of {p : Prop} [Decidable p] {c : BitVec 6} (h : (if p then s.pull c else (0, s)) = (v, t)) :
    (if p then src c else pure 0).run s = .ok (v, t) := by
  rw [← h]
  split
  · exact src_run ..
  · rfl

/-- A step that one condition chooses, and what follows it. -/
theorem bind_ite_run_of {p : Prop} [Decidable p] {m m' : M α} {f : α → M β} {a : α} {r : Except Stop (β × State)}
    (h : (if p then m else m').run s = .ok (a, t)) (h' : (f a).run t = r) : (if p then m >>= f else m' >>= f).run s = r := by
  rw [← bind_run_of h h']
  split <;> rfl

theorem State.cur_of_pull {c : BitVec 6} (h : s.pull c = (v, t)) : t.cur = s.cur := by rw [← s.pull_cur c, h]

theorem State.cur_of_pullB {x : RFields} (h : s.pullB x = (v, t)) : t.cur = s.cur := by rw [← s.pullB_cur x, h]

theorem Reads.of_pullB {u : State} {x : RFields} (hr : Reads u s) (h : s.pullB x = (v, t)) : Reads u t := by
  unfold State.pullB at h
  split at h
  · obtain ⟨-, rfl⟩ := Prod.mk.inj h
    exact hr
  · exact hr.of_pull h

theorem State.rolled_cur (s : State) (rm : BitVec 3) (n : Nat) : (s.rolled rm n).cur = s.cur := by
  unfold State.rolled
  split
  · rfl
  · rfl

/-- An operation that does not round takes no draw (R29). -/
theorem Reads.drawsIf_run {p : Prop} [Decidable p] {rm rm' : BitVec 3} {n : Nat} (hr : Reads s t) (hrm : (if p then rm else 0) = rm')
    (h : s.drawsLeft rm' n) (tval : Word) :
    (if p then drawsFor rm n tval else pure fun _ => 0).run t = .ok (s.roll rm', t.rolled rm' n) := by
  subst hrm
  split_ifs at h ⊢
  · exact hr.drawsFor_run h tval
  · exact hr.drawsFor_run h tval

end Read

/-! ### SEL, BCNT, BFI and MAD (R215-R217, R220) -/

section Issue
variable {s sa sb sc sd : State} {x : RFields} {a b c d : Word}

theorem exec_sel (hi : Issues (.sel x) s) (hc : (s.begun (.sel x)).pull x.d = (c, sc)) (ha : sc.pull x.a = (a, sa))
    (hb : sa.pullB x = (b, sb)) {holds : Bool} (hh : selCond x.fn.toNat c = holds) :
    exec (.sel x) s = .next ((sb.give x.d (if holds then a else b)).completed (.sel x)) := by
  subst hh
  have hcur : sb.cur = s.cur := ((((Reads.begun s _).of_pull hc).of_pull ha).of_pullB hb).cur
  exact issue_ok hi (bind_run_of (src_run_of hc) <| bind_run_of (src_run_of ha) <| bind_run_of (srcB_run_of hb) <| dst_run ..)
    ((State.give_cur ..).trans hcur)

theorem exec_bcnt (hi : Issues (.bcnt x) s) :
    exec (.bcnt x) s = .next (((s.begun (.bcnt x)).oneOperand x.a x.d
      (fun a => BitVec.ofNat 64 (bcntResult x.fn.toNat (tyBits (extOf (.bcnt x)).ty.toNat) a))).completed (.bcnt x)) :=
  issue_ok hi (bind_run_of (src_run ..) <| dst_run ..) (State.oneOperand_cur ..)

theorem exec_bfi (hi : Issues (.bfi x) s) (hd : (s.begun (.bfi x)).pull x.d = (d, sd)) (ha : sd.pull x.a = (a, sa))
    (hb : sa.pullB x = (b, sb)) :
    exec (.bfi x) s = .next ((sb.give x.d (bfiResult d a b)).completed (.bfi x)) := by
  have hcur : sb.cur = s.cur := ((((Reads.begun s _).of_pull hd).of_pull ha).of_pullB hb).cur
  exact issue_ok hi (bind_run_of (src_run_of hd) <| bind_run_of (src_run_of ha) <| bind_run_of (srcB_run_of hb) <| dst_run ..)
    ((State.give_cur ..).trans hcur)

theorem exec_mad (hi : Issues (.mad x) s) (ha : (s.begun (.mad x)).pull x.a = (a, sa)) (hb : sa.pullB x = (b, sb))
    (hc : sb.pull (extOf (.mad x)).c = (c, sc)) :
    exec (.mad x) s = .next ((sc.give x.d (madResult (extOf (.mad x)).ty.toNat a b c)).completed (.mad x)) := by
  have hcur : sc.cur = s.cur := ((((Reads.begun s _).of_pull ha).of_pullB hb).of_pull hc).cur
  exact issue_ok hi (bind_run_of (src_run_of ha) <| bind_run_of (srcB_run_of hb) <| bind_run_of (src_run_of hc) <| dst_run ..)
    ((State.give_cur ..).trans hcur)

/-- FOP takes its draw before it reads its operands (R221, R458). -/
theorem exec_fop {e : Ext} {fn : Nat} {rm : BitVec 3} (hi : Issues (.fop x) s) (he : extOf (.fop x) = e) (hfn : x.fn.toNat = fn)
    (hrm : (if fopRounds fn e.ty.toNat then e.rm else 0) = rm) (hd : s.drawsLeft rm 1)
    (ha : ((s.begun (.fop x)).rolled rm 1).pull x.a = (a, sa)) (hb : sa.pullB x = (b, sb))
    (hc : (if fn = 7 then sb.pull e.c else (0, sb)) = (c, sc)) :
    exec (.fop x) s = .next ((sc.give x.d (fopResult fn e.ty.toNat (rmOf e.rm) (s.roll rm 0) a b c)).completed (.fop x)) := by
  subst he hfn hrm
  have hab : sb.cur = s.cur := (State.cur_of_pullB hb).trans ((State.cur_of_pull ha).trans (State.rolled_cur ..))
  have hcur : sc.cur = s.cur := by
    split at hc
    · exact (State.cur_of_pull hc).trans hab
    · obtain ⟨-, rfl⟩ := Prod.mk.inj hc
      exact hab
  refine issue_ok hi ?_ ((State.give_cur ..).trans hcur)
  exact bind_ite_run_of ((Reads.begun s _).drawsIf_run rfl hd _) <|
    bind_run_of (src_run_of ha) <| bind_run_of (srcB_run_of hb) <| bind_ite_run_of (srcIf_run_of hc) <| dst_run ..

end Issue

theorem selCond_eq (fn : BitVec 4) (c : Word) :
    selCond fn.toNat c = if fn = 0 then decide (c ≠ 0) else if fn = 1 then decide (c = 0) else c.getLsbD 63 := by
  by_cases h0 : fn = 0
  · subst h0
    rfl
  · by_cases h1 : fn = 1
    · subst h1
      rfl
    · rw [if_neg h0, if_neg h1]
      have hn0 : fn.toNat ≠ 0 := fun h => h0 (BitVec.eq_of_toNat_eq h)
      have hn1 : fn.toNat ≠ 1 := fun h => h1 (BitVec.eq_of_toNat_eq h)
      unfold selCond
      split
      · exact absurd ‹_› hn0
      · exact absurd ‹_› hn1
      · rfl

theorem getLsbD_fieldMask {i : Nat} (hi : i < 64) (pos len : Nat) :
    (BitVec.ofNat 64 ((2 ^ len - 1) * 2 ^ pos)).getLsbD i = decide (pos ≤ i ∧ i < pos + len) := by
  rw [BitVec.getLsbD_ofNat, Nat.testBit_mul_two_pow, Nat.testBit_two_pow_sub_one, decide_eq_true hi, Bool.true_and, ← Bool.decide_and]
  exact decide_eq_decide.2 (by omega)

/-- BFI takes the bits of the field from the source and every other from the destination (R217). -/
theorem getLsbD_bfiResult {i : Nat} (hi : i < 64) (d a b : Word) : (bfiResult d a b).getLsbD i =
    if b.toNat % 64 ≤ i ∧ i < b.toNat % 64 + (b.toNat / 256 % 64 + 1) then a.getLsbD (i - b.toNat % 64) else d.getLsbD i := by
  unfold bfiResult
  dsimp only
  rw [BitVec.getLsbD_or, BitVec.getLsbD_and, BitVec.getLsbD_and, BitVec.getLsbD_not, getLsbD_fieldMask hi, decide_eq_true hi]
  split
  next h => rw [decide_eq_true h, BitVec.getLsbD_shiftLeft, decide_eq_true hi, decide_eq_false (Nat.not_lt.2 h.1)]; simp
  next h => rw [decide_eq_false h]; simp

theorem moreScalarResults : MoreScalarResults := by
  intro s x
  refine ⟨fun hi => ?_, exec_bcnt, fun hi => ?_, fun hi => ?_, fun hi => ?_⟩
  · intro c a b t
    exact exec_sel hi rfl rfl rfl (selCond_eq ..)
  · intro d a b
    exact ⟨_, exec_bfi hi rfl rfl rfl, fun i h => getLsbD_bfiResult h ..⟩
  · intro ty a b c
    exact exec_mad hi rfl rfl rfl
  · intro e fn rm hd a b c
    exact exec_fop hi rfl rfl rfl hd rfl rfl rfl

/-! ### FOP's operations (R221) -/

theorem fcmpWord_of_unordered {a b : FVal} (h : a.cmp b = none) : fcmpWord a b = 8 := by
  unfold fcmpWord
  rw [h]

theorem toNat_fcmpWord_of_ordered {a b : FVal} {r : Int} (h : a.cmp b = some r) :
    (fcmpWord a b).toNat = if r < 0 then 2 else if r = 0 then 1 else 4 := by
  unfold fcmpWord
  rw [h]
  dsimp only
  rcases lt_trichotomy r 0 with hlt | rfl | hgt
  · rw [if_neg hlt.ne, if_pos hlt, if_pos hlt]
    rfl
  · rfl
  · rw [if_neg hgt.ne', if_neg hgt.not_gt, if_neg hgt.not_gt, if_neg hgt.ne']
    rfl

theorem fopOperations : FopOperations := by
  intro rm d24 ty a b c out va vb vc
  refine ⟨rfl, rfl, rfl, rfl, ?_⟩
  split
  next h => exact congrArg BitVec.toNat (fcmpWord_of_unordered h)
  next h => exact toNat_fcmpWord_of_ordered h

/-- Settles O4: SEL, BCNT, BFI, MAD and FOP with its draw (`moreScalarResults`), and FOP's sums, products and comparison
(`fopOperations`). -/
theorem bitAndFloatResults : Obligations.BitAndFloatResults := ⟨moreScalarResults, fopOperations⟩

end Sys2Proof.Machine
end

section
/-! The sampler's micro-instructions: what a micro-instruction's result leaves of the part, its registers and branches. -/
namespace Sys2Proof.Machine
-- Elaborated one after another, so that threads that wait for one another do not use up the memory.
set_option Elab.async false

/-! ### Results of micro-instructions (R466, R467) -/

/-- The state in which a micro-instruction that gives a result leaves the part. -/
def MicroGot.leaves (s : State) (c : SmpCtx) : MicroGot → State
  | .ok c1 m => State.sampled { s with samplers := s.samplers.set s.smp.1 m } c1
  | .placed c1 s1 => (s1.setSmp s.smp.1 s.smp.2 c1).tick 1
  | .fail cause tval => s.sampleFails c cause tval
  | .failFree cause => State.sampleFails { s with free := s.free + 1 } c cause (Config.freeValue s.free)
  | .wait s1 | .over_ s1 => s1.tick 1

section Micro
variable {s : State} {c c1 : SmpCtx} {body : SmpCtx → Sampler → MicroGot} (h : s.Samples c)
include h

theorem micro_of_got {got : MicroGot} (hb : body c.past (s.sampler s.smp.1) = got) : micro body s = .next (got.leaves s c) := by
  obtain ⟨hc, hran⟩ := h
  subst hb
  unfold micro
  simp only [hc]
  rw [if_neg (Nat.not_le.2 hran)]
  change (match body c.past (s.sampler s.smp.1) with
    | .ok c1 m => _
    | .placed c1 s1 => _
    | .fail cause tval => _
    | .failFree cause => _
    | .wait s1 => _
    | .over_ s1 => _) = _
  cases body c.past (s.sampler s.smp.1) <;> rfl

theorem micro_of_fail {cause : Nat} {w : Word} (hb : body c.past (s.sampler s.smp.1) = .fail cause w) :
    micro body s = .next (s.sampleFails c cause w) := micro_of_got h hb

/-- A micro-instruction that leaves the sampler's entries as they are. -/
theorem micro_of_ok (hb : body c.past (s.sampler s.smp.1) = .ok c1 (s.sampler s.smp.1)) : micro body s = .next (s.sampled c1) := by
  have hs : ∀ f, State.onSampler { s with samplers := s.samplers.set s.smp.1 (s.sampler s.smp.1) } s.smp.1 f = s.onSampler s.smp.1 f := by
    intro f
    have hm : State.sampler { s with samplers := s.samplers.set s.smp.1 (s.sampler s.smp.1) } s.smp.1 = s.sampler s.smp.1 :=
      Table.get_set_same ..
    unfold State.onSampler
    rw [hm, Table.set_set]
  rw [micro_of_got h hb, MicroGot.leaves]
  exact congrArg (fun t : State => Host.Outcome.next (t.tick 1)) (hs _)

theorem toReg_run (x : MicroFields) (f : SmpCtx → Lane) : toReg x f s = .next (s.sampled (c.past.setReg x.d (f c.past))) :=
  micro_of_ok h rfl

/-! ### Registers and branches (R193, R468) -/

theorem microBranch_run {x : MicroFields} (ht : x.imm8.toNat < c.words.length) (opc : BitVec 8) (go : SmpCtx → SmpCtx × Bool) :
    microBranch opc x go s
      = .next (s.sampled (if (go c.past).2 then { (go c.past).1 with pc := x.imm8.toNat } else (go c.past).1)) :=
  micro_of_ok h (if_neg (Nat.not_le.2 ht : ¬c.past.words.length ≤ x.imm8.toNat))

theorem microBranch_beyond {x : MicroFields} (ht : c.words.length ≤ x.imm8.toNat) (opc : BitVec 8) (go : SmpCtx → SmpCtx × Bool) :
    microBranch opc x go s = .next (s.sampleFails c 0x1C2 ((microWord opc x).setWidth 64)) :=
  micro_of_got (body := fun c _ => if c.words.length ≤ x.imm8.toNat then .fail 0x1C2 ((microWord opc x).setWidth 64) else _) h
    (if_pos ht)

end Micro

theorem microRel_eq (f : BitVec 4) (a b : Lane) : microRel f.toNat a b =
    if f = 0 then decide (a = b) else if f = 1 then decide (a ≠ b)
    else if f = 2 then decide (a.toInt < b.toInt) else if f = 3 then decide (b.toInt ≤ a.toInt)
    else if f = 4 then decide (a.toNat < b.toNat) else if f = 5 then decide (b.toNat ≤ a.toNat)
    else if f = 6 then (match (fmtF32.value a.toNat).cmp (fmtF32.value b.toNat) with
      | some o => decide (o < 0)
      | none => false)
    else (match (fmtF32.value a.toNat).cmp (fmtF32.value b.toNat) with
      | some o => decide (0 ≤ o)
      | none => false) := by
  have hne {k : BitVec 4} (hk : ¬f = k) : f.toNat ≠ k.toNat := fun e => hk (BitVec.eq_of_toNat_eq e)
  split_ifs with h0 h1 h2 h3 h4 h5 h6
  iterate 7 subst f; rfl
  unfold microRel
  split
  · exact absurd ‹_› (hne h0)
  · exact absurd ‹_› (hne h1)
  · exact absurd ‹_› (hne h2)
  · exact absurd ‹_› (hne h3)
  · exact absurd ‹_› (hne h4)
  · exact absurd ‹_› (hne h5)
  · exact absurd ‹_› (hne h6)
  · rfl

theorem microRegisterResults : MicroRegisterResults := by
  intro s c x h
  refine ⟨(toReg_run h .. : execSmpMov x s = _), fun ha => ?_, fun ha => ?_, (toReg_run h .. : execSmpAdd x s = _),
    (toReg_run h .. : execSmpSub x s = _), (toReg_run h .. : execSmpMul x s = _), (toReg_run h .. : execSmpFadd x s = _),
    (toReg_run h .. : execSmpFmul x s = _), (toReg_run h .. : execSmpFexp x s = _), (toReg_run h .. : execSmpFmax x s = _), ?_, ?_⟩
  · exact (toReg_run h .. : execSmpLdi x s = _).trans (by rw [if_pos ha])
  · refine (toReg_run h .. : execSmpLdi x s = _).trans ?_
    rw [if_neg ha]
    rfl
  · refine (toReg_run h .. : execSmpCmp x s = _).trans ?_
    rw [microRel_eq]
    rfl
  · refine (toReg_run h .. : execSmpCtrget x s = _).trans ?_
    have hne {k : BitVec 4} (hk : ¬x.f = k) : x.f.toNat ≠ k.toNat := fun e => hk (BitVec.eq_of_toNat_eq e)
    split_ifs with h0 h1 h2 h3
    iterate 4 rw [code_toNat ‹_›]; rfl
    split
    · exact absurd ‹_› (hne h0)
    · exact absurd ‹_› (hne h1)
    · exact absurd ‹_› (hne h2)
    · exact absurd ‹_› (hne h3)
    · rfl

theorem microBranchResults : MicroBranchResults := by
  intro s c x h
  refine ⟨fun ht => ⟨(microBranch_run h ht .. : execSmpBr x s = _), ?_, ?_⟩, fun ht i hi => ?_⟩
  · refine (microBranch_run h ht .. : execSmpBrc x s = _).trans ?_
    by_cases hf : x.f = 1
    · simp only [hf, if_true, decide_eq_true_eq]
      rfl
    · simp only [hf, if_false, decide_eq_true_eq]
      rfl
  · refine (microBranch_run h ht .. : execSmpLoop x s = _).trans ?_
    simp only [decide_eq_true_eq]
    rfl
  · simp only [List.mem_cons, List.not_mem_nil, or_false] at hi
    rcases hi with rfl | rfl | rfl
    · exact ⟨_, (microBranch_beyond h ht .. : execSmpBr x s = _)⟩
    · exact ⟨_, (microBranch_beyond h ht .. : execSmpBrc x s = _)⟩
    · exact ⟨_, (microBranch_beyond h ht .. : execSmpLoop x s = _)⟩

/-- Settles O30: the register micro-instructions (`microRegisterResults`) and the branches (`microBranchResults`). -/
theorem microResults : Obligations.MicroResults := ⟨microRegisterResults, microBranchResults⟩

end Sys2Proof.Machine
end

section
/-! The sampler's candidates: ranges of slots, the order of CSORTK, loads and stores of candidates. -/
namespace Sys2Proof.Machine
-- Elaborated one after another, so that threads that wait for one another do not use up the memory.
set_option Elab.async false

/-! ### Ranges of slots (R466, R469) -/

theorem SmpCtx.badRange_of_empty {n : Nat} (hn : n = 0) (c : SmpCtx) (a : Nat) (zero : Bool) :
    c.badRange a n zero = if zero then some a else none := if_pos hn

theorem SmpCtx.badRange_one_of_beyond {c : SmpCtx} {a : Nat} (h : c.count ≤ a) (zero : Bool) : c.badRange a 1 zero = some a := by
  rw [SmpCtx.badRange, if_neg one_ne_zero, if_pos (Nat.lt_succ_of_le h), max_eq_left h]

theorem SmpCtx.badRange_of_fits {c : SmpCtx} {a n : Nat} (hn : 0 < n) (h : a + n ≤ c.count) (zero : Bool) : c.badRange a n zero = none := by
  rw [SmpCtx.badRange, if_neg hn.ne', if_neg (Nat.not_lt.2 h)]

theorem SmpCtx.badRange_of_beyond {c : SmpCtx} {a n : Nat} (hn : 0 < n) (h : c.count < a + n) (zero : Bool) :
    c.badRange a n zero = some (max a c.count) := by
  rw [SmpCtx.badRange, if_neg hn.ne', if_pos h]

/-! ### The order of candidates (R469) -/

/-- Where a candidate of a slot stands: NaNs last, the greatest score first, equal ones by ID, then by slot. -/
noncomputable def candKey (p : Nat × Word) : (Bool ×ₗ EReal) ×ₗ (ℕ ×ₗ ℕ) :=
  toLex (toLex ((f32 (scoreOf p.2)).isNan, -(f32 (scoreOf p.2)).real), toLex (idOf p.2, p.1))

/-- The tie of `sortsBefore`. -/
theorem candTie_iff (a b : Nat × Word) : (if idOf a.2 = idOf b.2 then decide (a.1 ≤ b.1) else decide (idOf a.2 < idOf b.2)) = true ↔
    idOf a.2 < idOf b.2 ∨ idOf a.2 = idOf b.2 ∧ a.1 ≤ b.1 := by
  split
  next h => simp [h]
  next h => simp [h]

theorem sortsBefore_iff_key {a b : Nat × Word} : sortsBefore a b = true ↔ candKey a ≤ candKey b := by
  have ht := candTie_iff a b
  unfold sortsBefore candKey
  simp only [Prod.Lex.toLex_le_toLex, Prod.Lex.toLex_lt_toLex, EmbeddingLike.apply_eq_iff_eq, Prod.mk.injEq, EReal.neg_lt_neg_iff, neg_inj]
  rw [← ht]
  generalize (if idOf a.2 = idOf b.2 then decide (a.1 ≤ b.1) else decide (idOf a.2 < idOf b.2)) = tie
  generalize f32 (scoreOf a.2) = x, f32 (scoreOf b.2) = y
  cases hx : x.isNan with
  | true =>
    rw [FVal.cmp_of_nan_left hx, FVal.real_of_nan hx]
    cases hy : y.isNan with
    | true => simp [FVal.real_of_nan hy]
    | false => simp
  | false =>
    cases hy : y.isNan with
    | true => simp [FVal.cmp_of_nan_right hy]
    | false =>
      rw [FVal.cmp_eq hx hy]
      obtain hxy | hxy | hxy := lt_trichotomy x.real y.real
      · simp [hxy, hxy.ne, hxy.not_gt]
      · simp [hxy]
      · simp [hxy, hxy.ne', hxy.not_gt]

/-- What `sortsBefore` says of two candidates. -/
theorem sortsBefore_cases {a b : Nat × Word} (h : sortsBefore a b = true) :
    ((f32 (scoreOf a.2)).isNan = false ∧ (f32 (scoreOf b.2)).isNan = true)
    ∨ (∃ r, (f32 (scoreOf a.2)).cmp (f32 (scoreOf b.2)) = some r ∧ 0 < r)
    ∨ (((f32 (scoreOf a.2)).cmp (f32 (scoreOf b.2)) = some 0 ∨ ((f32 (scoreOf a.2)).isNan = true ∧ (f32 (scoreOf b.2)).isNan = true))
      ∧ (idOf a.2 < idOf b.2 ∨ idOf a.2 = idOf b.2 ∧ a.1 ≤ b.1)) := by
  have ht := (candTie_iff a b).1
  unfold sortsBefore at h
  dsimp only at h
  cases hc : (f32 (scoreOf a.2)).cmp (f32 (scoreOf b.2)) with
  | some r =>
    simp only [hc] at h
    split at h
    · subst r
      exact .inr (.inr ⟨.inl rfl, ht h⟩)
    · exact .inr (.inl ⟨r, rfl, of_decide_eq_true h⟩)
  | none =>
    simp only [hc] at h
    cases hx : (f32 (scoreOf a.2)).isNan with
    | false =>
      cases hy : (f32 (scoreOf b.2)).isNan with
      | false => exact absurd (FVal.cmp_eq hx hy) (by rw [hc]; exact Option.some_ne_none _ |>.symm)
      | true => exact .inl ⟨rfl, rfl⟩
    | true =>
      cases hy : (f32 (scoreOf b.2)).isNan with
      | false => simp [hx, hy] at h
      | true =>
        rw [hx, hy, if_pos rfl] at h
        exact .inr (.inr ⟨.inr ⟨rfl, rfl⟩, ht h⟩)

/-- CSORTK's order of the candidates of a range. -/
def sortedCands (vs : List Word) : List (Nat × Word) := ((List.range vs.length).zip vs).insertionSort fun a b => sortsBefore a b = true

theorem sortCands_eq (vs : List Word) : sortCands vs = (sortedCands vs).map (·.2) := rfl

theorem sortedCands_perm (vs : List Word) : (sortedCands vs).Perm ((List.range vs.length).zip vs) := List.perm_insertionSort ..

theorem sortedCands_pairwise (vs : List Word) : (sortedCands vs).Pairwise fun a b => sortsBefore a b = true := by
  have : Std.Total fun a b : Nat × Word => sortsBefore a b = true := ⟨fun a b => by simpa only [sortsBefore_iff_key] using le_total _ _⟩
  have : IsTrans (Nat × Word) fun a b => sortsBefore a b = true :=
    ⟨fun a b c => by simpa only [sortsBefore_iff_key] using le_trans⟩
  exact List.pairwise_insertionSort _ _

/-! ### Ordering, scanning, selecting and recording candidates (R465, R469) -/

section Ranges
variable {s : State} {c : SmpCtx} {x : MicroFields} {body : SmpCtx → Sampler → MicroGot} {a n : Nat} {zero : Bool}

/-- A micro-instruction whose range fails (R466). -/
theorem micro_of_bad {i : Nat} {ok : MicroGot} (h : s.Samples c) (hr : c.badRange a n zero = some i)
    (hb : body c.past (s.sampler s.smp.1) = match c.badRange a n zero with
      | some i => candFail i
      | none => ok) : micro body s = .next (s.sampleFails c 0x1C3 (BitVec.ofNat 64 i)) := by
  rw [hr] at hb
  exact micro_of_got h hb

/-- What a micro-instruction does once its range holds. -/
theorem got_of_range {got ok : MicroGot} (hr : c.badRange a n zero = none) (hg : got = match c.badRange a n zero with
    | some i => candFail i
    | none => ok) : got = ok := by rwa [hr] at hg

end Ranges

/-- A candidate as its score and its ID. -/
theorem slotWord_eq (score : Nat) (w : Word) : slotWord score (idOf w) = BitVec.ofNat 64 (score % 2 ^ 32 * 2 ^ 32 + w.toNat % 2 ^ 32) := by
  rw [slotWord, idOf, Nat.mod_mod]

section Select
variable {s : State} {c : SmpCtx} {x : MicroFields} {n i v : Nat} (h : s.Samples c)
  (hn : (if x.f.toNat < 3 then (c.reg x.b).toNat else 1) = n)
include h hn

theorem execSmpCsel_of_bad (hr : c.badRange (c.reg x.a).toNat n true = some i) :
    execSmpCsel x s = .next (s.sampleFails c 0x1C3 (BitVec.ofNat 64 i)) := by
  subst hn
  exact (micro_of_bad h hr rfl : execSmpCsel x s = _)

theorem execSmpCsel_of_range (hr : c.badRange (c.reg x.a).toNat n true = none)
    (hv : (match x.f.toNat with
      | 3 => scoreOf ((s.sampler s.smp.1).slot c (c.reg x.a).toNat)
      | 4 => idOf ((s.sampler s.smp.1).slot c (c.reg x.a).toNat)
      | _ => selectSlot x.f.toNat (c.val x.d) (c.reg x.a).toNat
        (((s.sampler s.smp.1).slots c (c.reg x.a).toNat n).map fun w => f32 (scoreOf w))) = v) :
    execSmpCsel x s = .next (s.sampled (c.past.setReg x.d (BitVec.ofNat 32 v))) := by
  subst hn hv
  exact (micro_of_ok h (got_of_range hr rfl) : execSmpCsel x s = _)

end Select

theorem microCandidateRanges : MicroCandidateRanges := by
  intro s c x h
  dsimp only
  refine ⟨fun i hi => ?_, fun hb hab => ⟨⟨sortedCands ((s.sampler s.smp.1).slots c (c.reg x.a).toNat (c.reg x.b).toNat), ?_, ?_, ?_⟩, ?_⟩,
    fun hf hb => ?_, fun hf hb hab => ?_, fun hf hb hab => ?_, fun hf ha => ?_, fun hf ha => ?_, fun hf ha => ?_, fun ha => ?_,
    fun ha he => ?_, fun ha he => ?_⟩
  · simp only [List.mem_cons, List.not_mem_nil, or_false] at hi
    rcases hi with rfl | rfl
    · exact ⟨fun hb => (micro_of_bad h (SmpCtx.badRange_of_empty hb c _ true) rfl : execSmpCsortk x s = _),
        fun hb hab => (micro_of_bad h (SmpCtx.badRange_of_beyond hb hab true) rfl : execSmpCsortk x s = _)⟩
    · exact ⟨fun hb => (micro_of_bad h (SmpCtx.badRange_of_empty hb c _ true) rfl : execSmpCscan x s = _),
        fun hb hab => (micro_of_bad h (SmpCtx.badRange_of_beyond hb hab true) rfl : execSmpCscan x s = _)⟩
  · exact (micro_of_got h (got_of_range (SmpCtx.badRange_of_fits hb hab true) rfl) : execSmpCsortk x s = _)
  · simpa [Sampler.slots] using sortedCands_perm ((s.sampler s.smp.1).slots c (c.reg x.a).toNat (c.reg x.b).toNat)
  · exact (sortedCands_pairwise _).imp sortsBefore_cases
  · refine (micro_of_got h (got_of_range (SmpCtx.badRange_of_fits hb hab true) rfl) : execSmpCscan x s = _).trans ?_
    simp only [slotWord_eq]
    rfl
  · exact execSmpCsel_of_bad h (if_pos hf) (SmpCtx.badRange_of_empty hb c _ true)
  · exact execSmpCsel_of_bad h (if_pos hf) (SmpCtx.badRange_of_beyond hb hab true)
  · refine execSmpCsel_of_range h (if_pos hf) (SmpCtx.badRange_of_fits hb hab true) ?_
    split
    · omega
    · omega
    · simp only [Sampler.slots, List.map_map]
      rfl
  · have hx : ¬x.f.toNat < 3 := by rcases hf with hf | hf <;> rw [hf] <;> decide
    exact execSmpCsel_of_bad h (if_neg hx) (SmpCtx.badRange_one_of_beyond ha true)
  · exact execSmpCsel_of_range h (by rw [hf]; rfl) (SmpCtx.badRange_of_fits one_pos ha true) (by rw [hf]; rfl)
  · exact execSmpCsel_of_range h (by rw [hf]; rfl) (SmpCtx.badRange_of_fits one_pos ha true) (by rw [hf]; rfl)
  · exact (micro_of_bad h (SmpCtx.badRange_one_of_beyond ha true) rfl : execSmpEmit x s = _)
  · exact (micro_of_got h ((got_of_range (SmpCtx.badRange_of_fits one_pos ha true) rfl).trans (if_pos he)) : execSmpEmit x s = _)
  · exact (micro_of_ok h ((got_of_range (SmpCtx.badRange_of_fits one_pos ha true) rfl).trans (if_neg (Nat.not_le.2 he))) : execSmpEmit x s = _)

/-! ### Loading and storing candidates (R464, R469) -/

theorem elemCause_of_unmapped {va es : Nat} (h : regionOf va = none) : elemCause va es = some 0x064 := if_pos h

theorem elemCause_of_misaligned {va es : Nat} (h : regionOf va ≠ none) (ha : va % es ≠ 0) : elemCause va es = some 0x061 :=
  (if_neg h).trans (if_pos ha)

theorem elemCause_of_aligned {va es : Nat} (h : regionOf va ≠ none) (ha : va % es = 0) : elemCause va es = none :=
  (if_neg h).trans (if_neg (not_not.2 ha))

theorem candBytes_eq (f : Nat) : candBytes f = if f % 4 = 0 then 4 else if f % 4 = 1 then 2 else 8 := by
  unfold candBytes
  split
  next h => rw [h]; rfl
  next h => rw [h]; rfl
  next h0 h1 => rw [if_neg h0, if_neg h1]

section CandidateAccess
variable {s u : State} {c : SmpCtx} {x : MicroFields} {va es cause a l : Nat} {bs : List Byte}

/-- The accesses of the instance whose turn it is. -/
def State.candOp (s : State) (c : SmpCtx) : EngineOp := { (c.past.op s.smp.1 (s.launch c.past.entry.slot).rmode) with xfail := c.xfail }

theorem State.Samples.xfail (h : s.Samples c) : ((s.smpCtx s.smp.1 s.smp.2).map (·.xfail)).getD none = c.xfail := by
  rw [h.1]
  rfl

theorem SmpCtx.past_reg (c : SmpCtx) (i : BitVec 4) : c.past.reg i = c.reg i := rfl

theorem SmpCtx.past_pair (c : SmpCtx) (i : BitVec 4) : c.past.pair i = (c.reg i).toNat + (c.reg (i + 1)).toNat * 2 ^ 32 := by
  rw [SmpCtx.pair, SmpCtx.past_reg, SmpCtx.past_reg]

theorem SmpCtx.past_badRange (c : SmpCtx) (a n : Nat) (zero : Bool) : c.past.badRange a n zero = c.badRange a n zero := rfl

theorem take_drop_flatMap {α β : Type} {f : α → List β} {n : Nat} (hf : ∀ a, (f a).length = n) {l : List α} {i : Nat} (hi : i < l.length) :
    ((l.flatMap f).drop (n * i)).take n = f l[i] := by
  induction l generalizing i with
  | nil => exact absurd hi (Nat.not_lt_zero i)
  | cons a l ih =>
    rw [List.flatMap_cons]
    cases i with
    | zero => rw [Nat.mul_zero, List.drop_zero, List.take_left' (hf a), List.getElem_cons_zero]
    | succ i =>
      have hlen : n * (i + 1) = (f a).length + n * i := by rw [hf a, Nat.mul_succ, Nat.add_comm]
      rw [hlen, List.drop_length_add_append, ih (Nat.lt_of_succ_lt_succ hi), List.getElem_cons_succ]

theorem elemBytes_flatMap (va b : Nat) (w : Nat → Word) :
    elemBytes va 8 b (((List.range b).map w).flatMap fun v => bytesOfNat 8 v.toNat)
      = (List.range b).map fun i => (va + 8 * i, bytesOfNat 8 (w i).toNat) := by
  refine List.map_congr_left fun i hi => ?_
  have hlt : i < ((List.range b).map w).length := by simpa using hi
  rw [take_drop_flatMap (fun v : Word => bytesOfNat_length 8 v.toNat) hlt, List.getElem_map, List.getElem_range]

variable (h : s.Samples c) (hva : c.past.pair x.a = va) (hb : 0 < (c.reg x.b).toNat)
  (hfit : (c.reg x.d).toNat + (c.reg x.b).toNat ≤ c.count)
include h hva hb hfit

theorem execSmpCld_of_cause (hes : candBytes x.f.toNat = es) (he : elemCause va es = some cause) :
    execSmpCld x s = .next (s.sampleFails c cause (BitVec.ofNat 64 va)) := by
  subst hva hes
  refine (micro_of_got h (got := .fail cause _) ?_ : execSmpCld x s = .next (s.sampleFails c cause _))
  simp only [SmpCtx.past_badRange, SmpCtx.past_reg, SmpCtx.badRange_of_fits hb hfit, hb.ne', if_false, he]

theorem execSmpCst_of_cause (he : elemCause va 8 = some cause) :
    execSmpCst x s = .next (s.sampleFails c cause (BitVec.ofNat 64 va)) := by
  subst hva
  refine (micro_of_got h (got := .fail cause _) ?_ : execSmpCst x s = .next (s.sampleFails c cause _))
  simp only [SmpCtx.past_badRange, SmpCtx.past_reg, SmpCtx.badRange_of_fits hb hfit, hb.ne', if_false, he]

/-- What CLD makes of its access. -/
def SmpCtx.loaded (s u : State) (c : SmpCtx) (x : MicroFields) (es : Nat) : SmpGot (List Byte) → MicroGot
  | .pending => .wait { s with held := u.held, dev := u.dev }
  | .fail cause a => .fail cause (BitVec.ofNat 64 a)
  | .ok bs l => .placed { c.past with l := l } (u.onSampler s.smp.1 fun m => m.setSlots c.past (c.reg x.d).toNat
      ((List.range (c.reg x.b).toNat).map fun i => candOf x.f.toNat (c.past.val 15) i (elemOf bs es i)))

theorem execSmpCld_of_read {got : SmpGot (List Byte)} (hes : candBytes x.f.toNat = es) (he : elemCause va es = none)
    (hr : s.smpRead (s.candOp c) (elemParts va es (c.reg x.b).toNat) = (u, got)) :
    execSmpCld x s = .next (MicroGot.leaves s c (c.loaded s u x es got)) := by
  subst hva hes
  refine (micro_of_got h (got := c.loaded s u x _ got) ?_ : execSmpCld x s = _)
  simp only [SmpCtx.past_badRange, SmpCtx.past_reg, SmpCtx.badRange_of_fits hb hfit, hb.ne', if_false, he, h.xfail]
  dsimp only [State.candOp] at hr
  simp only [hr]
  cases got <;> rfl

/-- What CST makes of its access. -/
def SmpCtx.stored (s u : State) (c : SmpCtx) : SmpGot Unit → MicroGot
  | .pending => .wait { s with held := u.held, dev := u.dev }
  | .fail cause a => .fail cause (BitVec.ofNat 64 a)
  | .ok _ l => .placed { c.past with l := l } u

theorem execSmpCst_of_write {got : SmpGot Unit} (he : elemCause va 8 = none)
    (hr : s.smpWrite (s.candOp c) none (elemBytes va 8 (c.reg x.b).toNat
      (((s.sampler s.smp.1).slots c.past (c.reg x.d).toNat (c.reg x.b).toNat).flatMap fun w => bytesOfNat 8 w.toNat)) = (u, got)) :
    execSmpCst x s = .next (MicroGot.leaves s c (c.stored s u got)) := by
  subst hva
  refine (micro_of_got h (got := c.stored s u got) ?_ : execSmpCst x s = _)
  simp only [SmpCtx.past_badRange, SmpCtx.past_reg, SmpCtx.badRange_of_fits hb hfit, hb.ne', if_false, he, h.xfail]
  dsimp only [State.candOp] at hr
  simp only [hr]
  cases got <;> rfl

end CandidateAccess

theorem microCandidateMemory : MicroCandidateMemory := by
  intro s c x h
  dsimp only
  refine ⟨fun i hi => ?_, fun hb hfit _ => ⟨fun hr => ?_, fun hr ha => ?_, fun hr ha u => ⟨fun bs l hg => ?_, fun hg => ?_, fun cause a hg => ?_⟩⟩,
    fun hb hfit => ⟨fun hr => ?_, fun hr ha => ?_, fun hr ha u => ⟨fun l hg => ?_, fun hg => ?_, fun cause a hg => ?_⟩⟩⟩
  · simp only [List.mem_cons, List.not_mem_nil, or_false] at hi
    rcases hi with rfl | rfl
    · exact ⟨fun hb => (micro_of_ok h ((got_of_range (SmpCtx.badRange_of_empty hb c (c.reg x.d).toNat false) rfl).trans
          (if_pos hb)) : execSmpCld x s = _),
        fun hb hfit => (micro_of_bad h (SmpCtx.badRange_of_beyond hb hfit false) rfl : execSmpCld x s = _)⟩
    · exact ⟨fun hb => (micro_of_ok h ((got_of_range (SmpCtx.badRange_of_empty hb c (c.reg x.d).toNat false) rfl).trans
          (if_pos hb)) : execSmpCst x s = _),
        fun hb hfit => (micro_of_bad h (SmpCtx.badRange_of_beyond hb hfit false) rfl : execSmpCst x s = _)⟩
  · exact execSmpCld_of_cause h (c.past_pair _) hb hfit (candBytes_eq _) (elemCause_of_unmapped hr)
  · exact execSmpCld_of_cause h (c.past_pair _) hb hfit (candBytes_eq _) (elemCause_of_misaligned hr ha)
  · exact execSmpCld_of_read h (c.past_pair _) hb hfit (candBytes_eq _) (elemCause_of_aligned hr ha) hg
  · exact execSmpCld_of_read h (c.past_pair _) hb hfit (candBytes_eq _) (elemCause_of_aligned hr ha) hg
  · exact execSmpCld_of_read h (c.past_pair _) hb hfit (candBytes_eq _) (elemCause_of_aligned hr ha) hg
  · exact execSmpCst_of_cause h (c.past_pair _) hb hfit (elemCause_of_unmapped hr)
  · exact execSmpCst_of_cause h (c.past_pair _) hb hfit (elemCause_of_misaligned hr ha)
  · rw [← elemBytes_flatMap] at hg
    exact execSmpCst_of_write h (c.past_pair _) hb hfit (elemCause_of_aligned hr ha) hg
  · rw [← elemBytes_flatMap] at hg
    exact execSmpCst_of_write h (c.past_pair _) hb hfit (elemCause_of_aligned hr ha) hg
  · rw [← elemBytes_flatMap] at hg
    exact execSmpCst_of_write h (c.past_pair _) hb hfit (elemCause_of_aligned hr ha) hg

/-- Settles O31: loads and stores of candidates (`microCandidateMemory`), and the instructions on ranges of slots
(`microCandidateRanges`). That an access is made element by element is the model's choice (log 24). -/
theorem microCandidateResults : Obligations.MicroCandidateResults := ⟨microCandidateMemory, microCandidateRanges⟩

end Sys2Proof.Machine
end

section
/-! The sampler's generator, the end of its instances, its dispatch and its timeout. -/
namespace Sys2Proof.Machine
-- Elaborated one after another, so that threads that wait for one another do not use up the memory.
set_option Elab.async false

/-! ### The generator (R458, R469) -/

theorem microGenerator : MicroGenerator := by
  intro s c x h
  dsimp only
  refine ⟨fun hd => ⟨fun hf => ?_, fun hf => ?_⟩, fun hd => ?_, fun hf => ?_, fun hf hb => ?_, fun hf hb => ?_, fun hf ha => ?_,
    fun hf ha => ?_, ?_⟩
  · refine (micro_of_ok h (if_neg (Nat.not_le.2 hd)) : execSmpRng x s = _).trans ?_
    rw [if_pos hf]
    rfl
  · refine (micro_of_ok h (if_neg (Nat.not_le.2 hd)) : execSmpRng x s = _).trans ?_
    rw [if_neg hf]
    rfl
  · exact (micro_of_fail h (if_pos hd) : execSmpRng x s = _)
  · exact (micro_of_ok h (by rw [code_toNat hf]; rfl) : execSmpCtrset x s = _)
  · exact (micro_of_ok h (by rw [code_toNat hf]; exact if_neg (Nat.not_le.2 hb)) : execSmpCtrset x s = _)
  · exact (micro_of_fail h (by rw [code_toNat hf]; exact if_pos hb) : execSmpCtrset x s = _)
  · exact (micro_of_ok h (by rw [code_toNat hf]; exact if_neg (Nat.not_le.2 ha)) : execSmpCtrset x s = _)
  · exact (micro_of_fail h (by rw [code_toNat hf]; exact if_pos ha) : execSmpCtrset x s = _)
  · exact (micro_of_got h rfl : execSmpFault x s = _)

/-! ### HALT (R464, R465) -/

section Halt
variable {s u : State} {c : SmpCtx} {x : MicroFields} {o : EngineOp} {f : Nat → Nat} {fin : State → Nat → State × Nat} {l p cause a : Nat}

/-- The instance that HALT commits: it has released. -/
def SmpCtx.releasing (c : SmpCtx) : SmpCtx := { c.past with l := c.l + 1 }

/-- The accesses of an instance that HALT commits. -/
def State.haltOp (s : State) (c : SmpCtx) : EngineOp :=
  { (c.releasing.op s.smp.1 (s.launch c.entry.slot).rmode) with xfail := c.xfail }

theorem execSmpHalt_of_clock (h : s.Samples c) (hl : clockLimit ≤ c.l + 1) :
    execSmpHalt x s = .next (State.sampleFails { s with free := s.free + 1 } c 0x0A6 (Config.freeValue s.free)) :=
  (micro_of_got h (if_pos hl) : execSmpHalt x s = _)

theorem execSmpHalt_of_commit {got : MicroGot} (h : s.Samples c) (hl : c.l + 1 < clockLimit)
    (hg : s.smpCommit s.smp.1 s.smp.2 c.releasing (s.haltOp c) c.l = got) : execSmpHalt x s = .next (got.leaves s c) := by
  refine (micro_of_got h ((if_neg (Nat.not_le.2 hl)).trans ?_) : execSmpHalt x s = .next (got.leaves s c))
  dsimp only
  rw [h.xfail]
  exact hg

/-- What the commit makes of writing its entries. -/
def SmpCtx.wrote (s u : State) (die k : Nat) (c : SmpCtx) (p : Nat) (fin : State → Nat → State × Nat) : SmpGot Unit → MicroGot
  | .pending => .wait { s with held := u.held, dev := u.dev }
  | .fail cause a => .fail cause (BitVec.ofNat 64 a)
  | .ok _ l => if clockLimit ≤ (fin u l).2 then .failFree 0x0A6 else .over_ ((fin u l).1.smpDone die k { c with l := (fin u l).2 } p)

theorem SmpCtx.streamId_of_none (hs : c.entry.stream = none) : c.streamId = none := by rw [SmpCtx.streamId, hs, Option.map_none]

theorem SmpCtx.streamId_of_some {w : Word} (hs : c.entry.stream = some w) : c.streamId = some (w.toNat % 2 ^ 24) := by
  rw [SmpCtx.streamId, hs, Option.map_some]

theorem smpStale_iff {w : Word} {n : Nat} (hs : c.entry.stream = some w) :
    s.smpStale c n = true ↔ ¬((s.stream n).gen = w.toNat / 2 ^ 24 % 256 ∧ (s.stream n).state = .running) := by
  rw [State.smpStale, hs, Bool.or_eq_true, decide_eq_true_eq, decide_eq_true_eq, not_and_or, Option.getD_some]

section Commit
variable {die k : Nat} {got : SmpGot Unit}

theorem smpCommit_of_no_place (hs : c.entry.stream = none) (hb : (c.entry.record.kd 5).toNat = 0) (he : c.emits ≠ []) :
    s.smpCommit die k c o p = .fail 0x1C5 (BitVec.ofNat 64 c.emits.length) := by
  unfold State.smpCommit
  simp only [SmpCtx.streamId_of_none hs]
  exact if_pos ⟨hb, he⟩

theorem smpCommit_of_no_stream (hs : c.entry.stream = none) (hb : (c.entry.record.kd 5).toNat ≠ 0 ∨ c.emits = [])
    (hw : s.smpWrite o (some p) (c.entryParts fun e => ((c.entry.record.kd 5).toNat + 16 * e) % 2 ^ 64) = (u, got)) :
    s.smpCommit die k c o p = c.wrote s u die k p (fun t l => (t, l)) got := by
  have hb' : ¬((c.entry.record.kd 5).toNat = 0 ∧ c.emits ≠ []) := fun hn => hb.elim (· hn.1) hn.2
  unfold State.smpCommit
  simp only [SmpCtx.streamId_of_none hs]
  rw [if_neg hb', hw]
  cases got <;> rfl

variable {w : Word} {n : Nat} (hs : c.entry.stream = some w) (hn : w.toNat % 2 ^ 24 = n)
include hs hn

theorem smpCommit_of_stale (hl : s.smpStale c n = true) : s.smpCommit die k c o p = .over_ (s.smpDone die k c p) := by
  unfold State.smpCommit
  simp only [SmpCtx.streamId_of_some hs, hn, hl, if_true]

theorem smpCommit_of_full (hl : s.smpStale c n = false) (hq : 2 ^ (s.stream n).qlog < (s.stream n).held + c.emits.length) :
    s.smpCommit die k c o p = .fail 0x1C5 (BitVec.ofNat 64 c.emits.length) := by
  unfold State.smpCommit
  simp only [SmpCtx.streamId_of_some hs, hn, hl, if_pos hq, Bool.false_eq_true, if_false]

theorem smpCommit_of_stream (hl : s.smpStale c n = false) (hq : (s.stream n).held + c.emits.length ≤ 2 ^ (s.stream n).qlog)
    (hw : s.smpWrite o (some p) (c.entryParts fun e => (s.stream n).entryAddr ((s.stream n).qtail + e)) = (u, got)) :
    s.smpCommit die k c o p = c.wrote s u die k p (fun t l => ((t.placeDesc o.agent l n).1.onStream n (fun d => d.committed c p),
      (t.placeDesc o.agent l n).2)) got := by
  unfold State.smpCommit
  simp only [SmpCtx.streamId_of_some hs, hn, hl, if_neg (Nat.not_lt.2 hq), Bool.false_eq_true, if_false, hw]
  cases got <;> rfl

end Commit

/-- A HALT whose entries are written completes its instance, or is past the clocks' limit. -/
theorem halt_wrote (hg : execSmpHalt x s = .next (MicroGot.leaves s c (c.releasing.wrote s u s.smp.1 s.smp.2 c.l fin (.ok () l)))) :
    ((fin u l).2 < clockLimit → exec (.smpHalt x) s = .next ((((fin u l).1.freeSmp s.smp.1 s.smp.2
        { c.releasing with l := (fin u l).2 }).engineDone s.smp.1 c.ticket c.l).tick 1))
    ∧ (clockLimit ≤ (fin u l).2 → ∃ w, exec (.smpHalt x) s = .next (State.sampleFails { s with free := s.free + 1 } c 0x0A6 w)) := by
  refine ⟨fun hl => ?_, fun hl => ⟨Config.freeValue s.free, ?_⟩⟩
  · exact hg.trans (congrArg (fun g => Host.Outcome.next (MicroGot.leaves s c g)) (if_neg (Nat.not_le.2 hl)))
  · exact hg.trans (congrArg (fun g => Host.Outcome.next (MicroGot.leaves s c g)) (if_pos hl))

end Halt

theorem microHalt : MicroHalt := by
  intro s c x h
  dsimp only
  refine ⟨fun hl => ⟨_, (execSmpHalt_of_clock h hl : execSmpHalt x s = _)⟩,
    fun hl hs => ⟨fun hb he => ?_, fun hb u => ⟨fun l hw => ?_, fun hw => ?_, fun cause a hw => ?_⟩⟩,
    fun hl w hs => ⟨fun hn => ?_, fun hn hq => ?_, fun hn hq u => ⟨fun l hw => ?_, fun hw => ?_, fun cause a hw => ?_⟩⟩⟩
  · exact execSmpHalt_of_commit (x := x) h hl (smpCommit_of_no_place hs hb he)
  · exact halt_wrote (execSmpHalt_of_commit (x := x) h hl (smpCommit_of_no_stream hs hb hw))
  · exact execSmpHalt_of_commit (x := x) h hl (smpCommit_of_no_stream hs hb hw)
  · exact execSmpHalt_of_commit (x := x) h hl (smpCommit_of_no_stream hs hb hw)
  · exact execSmpHalt_of_commit (x := x) h hl (smpCommit_of_stale hs rfl ((smpStale_iff hs).2 hn))
  all_goals have hl' := Bool.eq_false_iff.2 fun e => (smpStale_iff (c := c.releasing) hs).1 e hn
  · exact execSmpHalt_of_commit (x := x) h hl (smpCommit_of_full hs rfl hl' hq)
  · exact halt_wrote (execSmpHalt_of_commit (x := x) h hl (smpCommit_of_stream hs rfl hl' hq hw))
  · exact execSmpHalt_of_commit (x := x) h hl (smpCommit_of_stream hs rfl hl' hq hw)
  · exact execSmpHalt_of_commit (x := x) h hl (smpCommit_of_stream hs rfl hl' hq hw)

/-! ### Dispatch and timeout (R462, R463, R466) -/

section Dispatch
variable {s u t : State} {die k : Nat} {c : SmpCtx} {bs ws : List Byte} {l l2 : Nat}

/-- The sampler's agent as it reads an instance's program. -/
def State.programOp (s : State) (die : Nat) (c : SmpCtx) : EngineOp := c.op die (s.launch c.entry.slot).rmode

theorem execSamplerDispatch_of_none (hd : die < 4) (hno : ∀ j c, j < 256 → s.smpCtx die j = some c → c.words ≠ []) :
    execSamplerDispatch die s = .next s := by
  have hf : (List.range 256).find? (fun k => ((s.smpCtx die k).map (fun c => decide (c.words = []))).getD false) = none := by
    refine List.find?_eq_none.2 fun j hj => ?_
    cases hc : s.smpCtx die j with
    | none => simp
    | some c => simpa using hno j c (List.mem_range.1 hj) hc
  unfold execSamplerDispatch
  rw [if_neg (Nat.not_le.2 hd), hf]

theorem execSamplerDispatch_of_first (hd : die < 4) (hk : k < 256) (hc : s.smpCtx die k = some c) (hw : c.words = [])
    (hlow : ∀ j, j < k → ∀ d, s.smpCtx die j = some d → d.words ≠ []) : execSamplerDispatch die s = .next (s.smpLoad die k c) := by
  have hf : (List.range 256).find? (fun k => ((s.smpCtx die k).map (fun c => decide (c.words = []))).getD false) = some k := by
    refine List.find?_range_eq_some.2 ⟨by simp [hc, hw], List.mem_range.2 hk, fun j hj => ?_⟩
    cases hcj : s.smpCtx die j with
    | none => simp
    | some d => simpa using hlow j hj d hcj
  unfold execSamplerDispatch
  rw [if_neg (Nat.not_le.2 hd), hf]
  simp only [hc]

theorem smpLoad_of_no_candidates (hn : field (c.entry.record.kd 2) 0 16 = 0) : s.smpLoad die k c = s.smpFail die k c 0x1C3 0 := if_pos hn

variable (hn : field (c.entry.record.kd 2) 0 16 ≠ 0)
include hn

theorem smpLoad_of_misaligned (ha : c.prog.toNat % 8 ≠ 0) :
    s.smpLoad die k c = State.smpFail { s with free := s.free + 1 } die k c 0x1C2 (Config.freeValue s.free) := (if_neg hn).trans (if_pos ha)

variable (ha : c.prog.toNat % 8 = 0)
include ha

theorem smpLoad_of_pending (hr : s.smpRead (s.programOp die c) [(c.prog.toNat, 8)] = (u, .pending)) : s.smpLoad die k c = u := by
  refine (if_neg hn).trans <| (if_neg (not_not.2 ha)).trans ?_
  unfold State.programOp at hr
  rw [hr]

theorem smpLoad_of_fail {cause a : Nat} (hr : s.smpRead (s.programOp die c) [(c.prog.toNat, 8)] = (u, .fail cause a)) :
    s.smpLoad die k c = u.smpFail die k c cause (BitVec.ofNat 64 a) := by
  refine (if_neg hn).trans <| (if_neg (not_not.2 ha)).trans ?_
  unfold State.programOp at hr
  rw [hr]

variable (hr : s.smpRead (s.programOp die c) [(c.prog.toNat, 8)] = (u, .ok bs l))
include hr

theorem smpLoad_of_bad_header (hb : natOfBytes bs = 0 ∨ 256 < natOfBytes bs) :
    s.smpLoad die k c = u.smpFail die k { c with l := l } 0x1C2 (BitVec.ofNat 64 (natOfBytes bs)) := by
  refine (if_neg hn).trans <| (if_neg (not_not.2 ha)).trans ?_
  unfold State.programOp at hr
  rw [hr]
  exact if_pos (by omega)

/-- What the dispatch makes of reading a program's words. -/
def SmpCtx.programmed (s t : State) (die k : Nat) (c : SmpCtx) (l : Nat) : SmpGot (List Byte) → State
  | .pending => { s with held := t.held, dev := t.dev }
  | .fail cause a => t.smpFail die k { c with l := l } cause (BitVec.ofNat 64 a)
  | .ok ws l2 => t.setSmp die k (t.smpStarted c (lanesOf ws) l2)

theorem smpLoad_of_header {got : SmpGot (List Byte)} (h0 : 0 < natOfBytes bs) (h256 : natOfBytes bs ≤ 256)
    (hw : u.smpRead { (s.programOp die c) with l := l } ((List.range (natOfBytes bs)).map fun i => (c.prog.toNat + 8 + 4 * i, 4)) = (t, got)) :
    s.smpLoad die k c = c.programmed s t die k l got := by
  have hmod : natOfBytes bs % 512 = natOfBytes bs := Nat.mod_eq_of_lt (by omega)
  refine (if_neg hn).trans <| (if_neg (not_not.2 ha)).trans ?_
  unfold State.programOp at hr hw
  rw [hr]
  dsimp only
  rw [hmod]
  refine (if_neg (by omega)).trans ?_
  rw [elemParts, hw]
  cases got <;> rfl

end Dispatch

theorem execSamplerTimeout_of_ctx {s : State} {die k : Nat} {c : SmpCtx} (hd : die < 4) (hk : k < 256) (hc : s.smpCtx die k = some c) :
    execSamplerTimeout die k s = .next (if 2 ^ 20 ≤ c.ran then s.smpFail die k c 0x1C6 0 else s) := by
  unfold execSamplerTimeout
  rw [if_neg (by omega), hc]

theorem samplerEvents : SamplerEvents := by
  intro s die k hd hk
  dsimp only
  refine ⟨execSamplerDispatch_of_none hd, fun c hc hw hlow => ?_, fun c hc hran => ?_, fun c hc hran => ?_, fun hc => ?_⟩
  · have hex : exec (.samplerDispatch die) s = .next (s.smpLoad die k c) := execSamplerDispatch_of_first hd hk hc hw hlow
    rw [hex]
    refine ⟨fun hn => ?_, fun hn ha => ?_, fun hn ha u => ⟨fun hr => ?_, fun cause a hr => ?_, fun bs l hr => ⟨fun hb => ?_, fun h0 h256 t =>
      ⟨fun hw => ?_, fun cause a hw => ?_, fun ws l2 hw => ?_⟩⟩⟩⟩
    · rw [smpLoad_of_no_candidates hn]
    · exact ⟨_, congrArg _ (smpLoad_of_misaligned hn ha)⟩
    · rw [smpLoad_of_pending hn ha hr]
    · rw [smpLoad_of_fail hn ha hr]
    · rw [smpLoad_of_bad_header hn ha hr hb]
    · rw [smpLoad_of_header hn ha hr h0 h256 hw]; rfl
    · rw [smpLoad_of_header hn ha hr h0 h256 hw]; rfl
    · rw [smpLoad_of_header hn ha hr h0 h256 hw]; rfl
  · exact (execSamplerTimeout_of_ctx hd hk hc).trans (by rw [if_pos hran])
  · exact (execSamplerTimeout_of_ctx hd hk hc).trans (by rw [if_neg (Nat.not_le.2 hran)])
  · refine (if_neg (by omega)).trans ?_
    rw [hc]

/-- Settles O32: the generator (`microGenerator`), HALT's commit (`microHalt`), and the sampler's dispatch and timeout (`samplerEvents`). The
values that UTVAL takes where the manual gives none are the model's choice (log 24). -/
theorem samplerRuns : Obligations.SamplerRuns := ⟨microGenerator, microHalt, samplerEvents⟩

end Sys2Proof.Machine
end

section
/-! Traps (row E): what entering a trap writes, how a trap that no handler takes is recorded, the instructions that trap, and the return from
a trap, which undoes the entry. -/
namespace Sys2Proof.Machine
-- Elaborated one after another, so that threads that wait for one another do not use up the memory.
set_option Elab.async false

/-! ### The trap frame (R413) -/

theorem Table.find_zip_range' {α : Type} (l : List α) (lo i : Nat) :
    Table.find ((List.range' lo l.length).zip l) i = if lo ≤ i then l[i - lo]? else none := by
  induction l generalizing lo with
  | nil => simp [Table.find]
  | cons a l ih =>
    rw [List.length_cons, List.range'_succ, List.zip_cons_cons, Table.find, ih]
    obtain h | rfl | h := lt_trichotomy lo i
    · have hs : i - lo = i - (lo + 1) + 1 := by omega
      rw [if_neg h.ne, if_pos (Nat.succ_le_of_lt h), if_pos h.le, hs, List.getElem?_cons_succ]
    · rw [if_pos rfl, if_pos le_rfl, Nat.sub_self, List.getElem?_cons_zero]
    · rw [if_neg h.ne', if_neg (by omega), if_neg h.not_ge]

/-- A table of a list, by position. -/
theorem Table.get_zip_range {α : Type} (l : List α) (d : α) (i : Nat) : Table.get ((List.range l.length).zip l) d i = l.getD i d := by
  rw [Table.get, List.range_eq_range', Table.find_zip_range', if_pos (Nat.zero_le i), Nat.sub_zero, List.getD_eq_getElem?_getD]

/-- A list that zeros extend to eight entries, and what follows it. -/
theorem getD_padded {l : List Word} (hl : l.length ≤ 8) (r : List Word) (n : Nat) :
    (l ++ List.replicate (8 - l.length) 0 ++ r).getD n 0 = if n < 8 then l.getD n 0 else r.getD (n - 8) 0 := by
  have hlen : (l ++ List.replicate (8 - l.length) (0 : Word)).length = 8 := by simp; omega
  split
  next hn =>
    rw [List.getD_append _ _ _ _ (by omega)]
    by_cases hn' : n < l.length
    · rw [List.getD_append _ _ _ _ hn']
    · rw [List.getD_append_right _ _ _ _ (Nat.le_of_not_lt hn'), List.getD_replicate,
        List.getD_eq_default _ _ (Nat.le_of_not_lt hn')]
      omega
  next hn => rw [List.getD_append_right _ _ _ _ (by omega), hlen]

section Enter
variable {s : State} {g k cause : Nat} {async more : Bool} {epc tval words : Word} {race : List Word}

theorem Ctx.routes_eq_false {c : Ctx} (h0 : c.intrap = false) (ht : c.tvec ≠ 0) (hw : c.wbase + 32 ≤ 1888) (hh : cause ≠ 0x1E6)
    (hi : cause ≠ 0x1E7) : c.routes cause = false := by
  unfold Ctx.routes
  rw [h0, decide_eq_false ht, decide_eq_false (Nat.not_lt.2 hw : ¬Config.maxWbase < c.wbase + 32), decide_eq_false hh, decide_eq_false hi]
  rfl

theorem Ctx.routes_eq_true {c : Ctx} (h : c.intrap = true ∨ c.tvec = 0 ∨ 1888 < c.wbase + 32 ∨ cause = 0x1E6 ∨ cause = 0x1E7) :
    c.routes cause = true := by
  simp only [Ctx.routes, Bool.or_eq_true, decide_eq_true_eq, or_assoc]
  exact h

theorem State.frame_takeTrap (hr : (s.ctx g k).routes cause = false) :
    ((s.takeTrap g k cause async more epc tval words race).core g).frame k
      = s.trapFrame g k (tcauseWord cause async more) epc tval words race := by
  unfold State.takeTrap State.setCtx State.putFrame
  rw [if_neg (by simp [hr])]
  dsimp only
  rw [State.core_setCore, State.core_onCore]
  exact Table.get_set_same ..

theorem State.get_trapFrame (hl : race.length ≤ 8) (tc : Word) (n : Nat) : (s.trapFrame g k tc epc tval words race).get 0 n =
    if n = 0 then tc else if n = 1 then epc else if n = 2 then tval else if n = 3 then BitVec.ofNat 64 (s.ctx g k).wbase
    else if n = 4 then BitVec.ofNat 64 (s.ctx g k).l else if n = 5 then BitVec.ofNat 64 (s.ctx g k).h
    else if n = 6 then BitVec.ofNat 64 s.clk else if n = 7 then words
    else if n < 16 then race.getD (n - 8) 0
    else if n = 16 then (s.ctx g k).stream else if n = 17 then s.superstep g else 0 := by
  unfold State.trapFrame
  dsimp only
  rw [Table.get_zip_range]
  obtain hn | ⟨m, rfl⟩ : n < 8 ∨ ∃ m, n = m + 8 := (Nat.lt_or_ge n 8).imp_right fun h => ⟨n - 8, by omega⟩
  · interval_cases n <;> rfl
  · refine (getD_padded hl [(s.ctx g k).stream, s.superstep g] m).trans ?_
    by_cases hm : m < 8
    · simp [hm]
    · obtain rfl | rfl | h : m = 8 ∨ m = 9 ∨ 10 ≤ m := by omega
      · rfl
      · rfl
      · have hd : [(s.ctx g k).stream, s.superstep g].length ≤ m - 8 := Nat.le_sub_of_add_le h
        rw [if_neg hm, List.getD_eq_default _ _ hd]
        simp [show ¬m + 8 < 16 by omega, show m ≠ 8 by omega, show m ≠ 9 by omega]

end Enter

theorem trapEntry : TrapEntry := by
  intro s g k cause async more epc tval words race
  dsimp only
  intro hl
  refine ⟨fun h0 ht hw hh hi => ?_, fun h => ?_⟩
  · have hr := Ctx.routes_eq_false h0 ht hw hh hi
    have ha : Aside g k s (s.takeTrap g k cause async more epc tval words race) := Aside.takeTrap hr
    rw [State.ctx_takeTrap hr]
    refine ⟨rfl, rfl, rfl, rfl, rfl, rfl, rfl, rfl, rfl, rfl, rfl, rfl, rfl, rfl, rfl, rfl, rfl, fun n => ?_, fun h j hj => ?_, ?_, ?_⟩
    · rw [State.frame_takeTrap hr]
      exact State.get_trapFrame hl _ n
    · have hne : ¬(h = g ∧ j = k) := fun e => hj (Prod.ext e.1 e.2)
      by_cases hg : h = g
      · subst hg
        exact ⟨ha.ctx j fun e => hne ⟨rfl, e⟩, ha.frame j fun e => hne ⟨rfl, e⟩⟩
      · have hc := ha.core h hg
        exact ⟨congrArg (fun c : Core => c.ctx j) hc, congrArg (fun c : Core => c.frame j) hc⟩
    · exact (congrArg State.mem ha.units :)
    · exact (congrArg State.lines ha.units :)
  · exact if_pos (Ctx.routes_eq_true h)

/-! ### Routing (R415) -/

section Route
variable {s : State} {slot cause : Nat} {async : Bool} {place epc tval : Word}

theorem State.launch_utrap : (s.utrap slot cause async place epc tval).launch slot =
    if (s.launch slot).utcause.toNat / 2 ^ 24 % 256 = 0 then
      { s.launch slot with
        utcause := BitVec.ofNat 64 (place.toNat % 2 ^ 32 * 2 ^ 32 + (if async then 512 else 0) + cause + 2 ^ 24), utepc := epc, utval := tval }
    else { s.launch slot with utcause := BitVec.ofNat 64 ((s.launch slot).utcause.toNat
      + (if (s.launch slot).utcause.toNat / 2 ^ 24 % 256 < 255 then 2 ^ 24 else 0)) } := State.launch_onLaunch ..

/-- The first routed trap's word: its place, the asynchronous bit, its cause, and a count of 1 (R415). -/
theorem toNat_firstTrap (hc : cause < 512) (place : Word) (async : Bool) :
    (BitVec.ofNat 64 (place.toNat % 2 ^ 32 * 2 ^ 32 + (if async then 512 else 0) + cause + 2 ^ 24)).toNat
      = place.toNat % 2 ^ 32 * 2 ^ 32 + (if async then 512 else 0) + cause + 2 ^ 24 := by
  rw [BitVec.toNat_ofNat]
  refine Nat.mod_eq_of_lt ?_
  split <;> omega

theorem toNat_nextTrap (w : Word) : (BitVec.ofNat 64 (w.toNat + (if w.toNat / 2 ^ 24 % 256 < 255 then 2 ^ 24 else 0))).toNat
    = w.toNat + (if w.toNat / 2 ^ 24 % 256 < 255 then 2 ^ 24 else 0) := by
  have := w.isLt
  rw [BitVec.toNat_ofNat]
  refine Nat.mod_eq_of_lt ?_
  split <;> omega

end Route

theorem trapRouting : TrapRouting := by
  refine ⟨fun s slot cause async place epc tval hc => ?_, fun s g k cause async epc tval => ?_⟩
  · dsimp only
    rw [State.launch_utrap]
    by_cases h0 : (s.launch slot).utcause.toNat / 2 ^ 24 % 256 = 0
    · have ht := toNat_firstTrap hc place async
      rw [if_pos h0]
      dsimp only
      refine ⟨?_, fun _ => ⟨rfl, rfl, ?_, ?_, ?_⟩, fun h => absurd h0 h⟩
      · rw [ht, h0]
        split <;> omega
      · rw [ht]
        split <;> omega
      · rw [← BitVec.testBit_toNat, ht, Nat.testBit_eq_decide_div_mod_eq]
        cases async
        · exact decide_eq_false (by rw [if_neg Bool.false_ne_true]; omega)
        · exact decide_eq_true (by rw [if_pos rfl]; omega)
      · rw [ht]
        split <;> omega
    · have ht := toNat_nextTrap (s.launch slot).utcause
      rw [if_neg h0]
      dsimp only
      refine ⟨?_, fun h => absurd h h0, fun _ => ⟨rfl, rfl, ?_⟩⟩
      · rw [ht]
        split <;> omega
      · rw [ht]
        split <;> omega
  · refine ⟨fun hk => ?_, fun hk hc => ?_, fun hk hc => ?_, fun c => ⟨rfl, rfl, rfl, rfl, rfl, rfl⟩⟩
    · unfold State.routeTrap
      by_cases hc : cause = 0x1E6
      · rw [if_pos hc, if_pos hk]
      · rw [if_neg hc, if_pos hk]
    · exact (if_pos hc).trans (if_neg hk)
    · exact (if_neg hc).trans (if_neg hk)

/-- Settles O26: entering a trap (`trapEntry`) and routing one (`trapRouting`). -/
theorem trapEntries : Obligations.TrapEntries := ⟨trapEntry, trapRouting⟩

/-! ### TRAP, BRK, HALT and ERET (R427, R428, R430, R431) -/

section Software
variable {s : State} {i : Instr} {body : Env → M Unit} {info : TrapInfo}

/-- The word that a frame keeps of the instruction (R413). -/
def Env.words (v : Env) : Word := BitVec.ofNat 64 (v.word0.toNat + v.word1.toNat * 2 ^ 32)

/-- An instruction that issues and traps with no race record: what it was admitted with goes back (R276). -/
theorem issue_trap_norace (hi : Issues i s) (hr : info.race = [])
    (hb : (body (envOf s s.cur.1 s.cur.2 i)).run (s.begun i) = .error (.trap info)) :
    issue i body s = .next (((s.unadmit s.cur.1 s.cur.2).takeTrap s.cur.1 s.cur.2 info.cause false false
      (if info.next then (envOf s s.cur.1 s.cur.2 i).next else (envOf s s.cur.1 s.cur.2 i).pc) info.tval
      (envOf s s.cur.1 s.cur.2 i).words []).tick 1) := by
  obtain ⟨-, -, hp⟩ := id hi
  rw [issue_trap hi hb, State.trapAt, State.unpop_of_none hp]
  simp only [hr, if_true]
  rfl

theorem exec_trap {x : IFields} (hi : Issues (.trap x) s) :
    exec (.trap x) s = .next (((s.unadmit s.cur.1 s.cur.2).takeTrap s.cur.1 s.cur.2 x.imm.toNat false false
      (s.mine.pc + BitVec.ofNat 64 (instrBytes (.trap x))) ((s.begun (.trap x)).pull x.a).1
      (envOf s s.cur.1 s.cur.2 (.trap x)).words []).tick 1) :=
  (issue_trap_norace (info := { cause := x.imm.toNat, tval := _, next := true }) hi rfl (bind_run_of (src_run ..) rfl) :
    execTrap x s = _)

theorem exec_brk {x : IFields} (hi : Issues (.brk x) s) :
    exec (.brk x) s = .next (((s.unadmit s.cur.1 s.cur.2).takeTrap s.cur.1 s.cur.2 0x1E1 false false
      (s.mine.pc + BitVec.ofNat 64 (instrBytes (.brk x))) x.imm (envOf s s.cur.1 s.cur.2 (.brk x)).words []).tick 1) :=
  (issue_trap_norace (info := { cause := 0x1E1, tval := x.imm, next := true }) hi rfl rfl : execBrk x s = _)

theorem exec_halt {x : RFields} (hi : Issues (.halt x) s) :
    exec (.halt x) s = .next (((s.unadmit s.cur.1 s.cur.2).routeTrap s.cur.1 s.cur.2 0x1E6 false s.mine.pc
      ((s.begun (.halt x)).pull x.a).1).tick 1) := by
  have hr : ((s.unadmit s.cur.1 s.cur.2).ctx s.cur.1 s.cur.2).routes 0x1E6 = true := Ctx.routes_eq_true (by simp)
  refine (issue_trap_norace (info := { cause := 0x1E6, tval := _ }) hi rfl (bind_run_of (src_run ..) rfl) : execHalt x s = _).trans ?_
  rw [State.takeTrap, if_pos hr]
  rfl

end Software

theorem softwareTraps : SoftwareTraps := fun _ => ⟨fun _ => ⟨exec_trap, exec_brk⟩, fun _ => exec_halt⟩

theorem returnFromTrap : ReturnFromTrap := by
  intro s x
  dsimp only
  intro hi
  have hm : (s.begun (.eret x)).mine.intrap = s.mine.intrap := (Reads.begun s (.eret x)).congr_mine Ctx.intrap
  refine ⟨fun ht => ?_, fun ht => ⟨(envOf s s.cur.1 s.cur.2 (.eret x)).aval, ?_⟩⟩
  · have hf : ((s.begun (.eret x)).core s.cur.1).frame s.cur.2 = (s.core s.cur.1).frame s.cur.2 := by
      rw [show (s.begun (.eret x)).core s.cur.1 = _ from State.core_onMine ..]
      rfl
    rw [← hf]
    exact issue_ok hi (bind_run_of (myCtx_run ..) <| bind_run_of (trapIf_run_false (by rw [hm, ht]; rfl) ..) <| bind_run_of (me_run ..) <|
      bind_run_of (myCore_run ..) <| onMyCtx_run ..) rfl
  · exact issue_trap hi (bind_run_of (myCtx_run ..) <| trapIf_bind_run_true (by rw [hm, ht]; rfl) ..)

theorem eretUndoesEntry : EretUndoesEntry := by
  intro s g k cause async more epc tval words race
  dsimp only
  intro hl h0 ht hw hh hi
  have hr := Ctx.routes_eq_false h0 ht hw hh hi
  have hb : (BitVec.ofNat 64 (s.ctx g k).wbase).toNat % 2048 = (s.ctx g k).wbase := by
    rw [BitVec.toNat_ofNat]
    omega
  rw [State.ctx_takeTrap hr, State.frame_takeTrap hr, State.get_trapFrame hl]
  exact ⟨rfl, hb, rfl, fun n => congrArg (fun w => (s.ctx g k).win.get 0 (w + n)) hb⟩

/-- Settles O27: the instructions that trap (`softwareTraps`), the return (`returnFromTrap`), and that it undoes an entry (`eretUndoesEntry`). -/
theorem trapInstructions : Obligations.TrapInstructions := ⟨softwareTraps, returnFromTrap, eretUndoesEntry⟩

end Sys2Proof.Machine
end

section
/-! Special registers (row E): which register a number names, and what SYSR and SYSW do with each. -/
namespace Sys2Proof.Machine
-- Elaborated one after another, so that threads that wait for one another do not use up the memory.
set_option Elab.async false

/-! ### The special registers (R423) -/

/-- The numbers that name a special register. -/
def sregNumbers : List Nat :=
  [0x000, 0x001, 0x002, 0x003, 0x004, 0x005, 0x006, 0x008, 0x009, 0x010, 0x011, 0x012, 0x013, 0x014, 0x018, 0x020, 0x021, 0x028, 0x029, 0x02A,
    0x030, 0x031, 0x038] ++ (List.range 4).map (0x034 + ·) ++ (List.range 32).map (0x100 + ·)

section Values
variable {s t : State} {n : Nat} {w : Word}

theorem known_iff : (∃ e ∈ specialRegisters s, n = e.1) ↔ n ∈ sregNumbers := by
  have h : (specialRegisters s).map Prod.fst = sregNumbers := rfl
  rw [← h, List.mem_map]
  simp only [eq_comm]

theorem Ctx.ctxWord_eq (c : Ctx) (k : Nat) :
    c.ctxWord k = BitVec.ofNat 64 (c.hlive.toNat * 2 ^ 16 + c.qset * 2 ^ 13 + (if c.fe = .x then 2 ^ 12 else 0) + k) := by
  unfold Ctx.ctxWord
  cases c.fe <;> rfl

/-- The dwords of the trap frame (R413). -/
theorem sreg_frame (s : State) (g k : Nat) (hn : n < 32) : s.sreg g k (0x100 + n) = some (((s.core g).frame k).get 0 n) := by
  unfold State.sreg
  dsimp only
  split
  case h_28 => rw [if_pos (by omega), Nat.add_sub_cancel_left]
  all_goals omega

/-- Each listed register has its listed value. -/
theorem sreg_of_mem {e : Nat × Word} (he : e ∈ specialRegisters s) : s.sreg s.cur.1 s.cur.2 e.1 = some e.2 := by
  unfold specialRegisters at he
  simp only [List.mem_append, List.mem_cons, List.not_mem_nil, or_false, List.mem_map, List.mem_range] at he
  obtain (he | ⟨n, hn, rfl⟩) | ⟨n, hn, rfl⟩ := he
  · rcases he with rfl | rfl | rfl | rfl | rfl | rfl | rfl | rfl | rfl | rfl | rfl | rfl | rfl | rfl | rfl | rfl | rfl | rfl | rfl | rfl | rfl
      | rfl | rfl
    on_goal 4 => exact congrArg some (s.mine.ctxWord_eq s.cur.2)
    all_goals rfl
  · interval_cases n <;> rfl
  · exact sreg_frame s _ _ hn

/-- A number that has a value is listed. -/
theorem mem_of_sreg {g k : Nat} (h : s.sreg g k n ≠ none) : n ∈ sregNumbers := by
  unfold State.sreg at h
  dsimp only at h
  split at h
  case h_28 =>
    split at h
    next hn => exact List.mem_append_right _ (List.mem_map.2 ⟨n - 0x100, List.mem_range.2 (by omega), by omega⟩)
    next => exact absurd rfl h
  all_goals decide

/-- Reading operands leaves the special registers. -/
theorem Reads.sreg (hr : Reads s t) (hx : ReadsCtxs s t) (hc : ReadsCores s t) (n : Nat) :
    t.sreg t.cur.1 t.cur.2 n = s.sreg s.cur.1 s.cur.2 n := by
  have hcur : t.cur = s.cur := hr.cur
  have hclk : t.clk = s.clk := hr.congr State.clk
  have hdom : t.domains = s.domains := hr.congr State.domains
  rw [hcur]
  unfold State.sreg State.place State.superstep State.domainWord State.psj State.lane State.domainOf
  rw [hx.ctx, hc, hclk, hdom]
  rfl

theorem sreg_isSome_iff : (s.sreg s.cur.1 s.cur.2 n).isSome = true ↔ n ∈ sregNumbers := by
  refine ⟨fun h => mem_of_sreg (g := s.cur.1) (k := s.cur.2) (Option.isSome_iff_ne_none.1 h), fun h => ?_⟩
  obtain ⟨e, he, rfl⟩ := (known_iff (s := s)).2 h
  rw [sreg_of_mem he]
  rfl

end Values

/-! ### SYSR (R429) -/

section Sysr
variable {s : State} {x : IFields}

theorem exec_sysr {w : Word} (hi : Issues (.sysr x) s) (hw : s.sreg s.cur.1 s.cur.2 x.imm.toNat = some w) :
    exec (.sysr x) s = .next (((s.begun (.sysr x)).give x.d w).completed (.sysr x)) := by
  rw [← (Reads.begun s (.sysr x)).sreg (ReadsCtxs.begun s _) (ReadsCores.begun s _)] at hw
  refine issue_ok hi (bind_run_of (get_run ..) ?_) (State.give_cur ..)
  rw [hw]
  exact dst_run ..

theorem exec_sysr_unknown (hi : Issues (.sysr x) s) (hw : s.sreg s.cur.1 s.cur.2 x.imm.toNat = none) :
    exec (.sysr x) s = .next (s.trapped (.sysr x) 0x1E2 (envOf s s.cur.1 s.cur.2 (.sysr x)).aval) := by
  rw [← (Reads.begun s (.sysr x)).sreg (ReadsCtxs.begun s _) (ReadsCores.begun s _)] at hw
  refine issue_trap hi (bind_run_of (get_run ..) ?_)
  rw [hw]
  rfl

end Sysr

/-! ### SYSW (R424, R429) -/

section Write
variable {s : State} {n : Nat} {v tval : Word}

/-- The registers that a number of its own lets write; those of %xslot are apart. -/
def writableNumbers : List Nat := [0x010, 0x011, 0x012, 0x013, 0x018, 0x020, 0x021, 0x029, 0x02A]

theorem writeSreg_run_other (hn : n ∉ writableNumbers) : (writeSreg n v tval).run s =
    (if 0x034 ≤ n ∧ n ≤ 0x037 then do
      trapIf (s.core s.cur.1).domain.isNone 0x1E4 tval
      onMyCore (fun c => { c with xslot := c.xslot.set (n - 0x034) v })
    else if (s.sreg s.cur.1 s.cur.2 n).isSome then trap 0x1E3 tval
    else trap 0x1E2 tval : M Unit).run s := by
  unfold writeSreg
  refine bind_run_of (get_run ..) ?_
  dsimp only
  split
  case h_10 => rfl
  all_goals exact absurd (by decide) hn

theorem writeSreg_run_tvec (ha : v.toNat % 64 = 0) (hl : v.toNat < 2 ^ 56) :
    (writeSreg 0x010 v tval).run s = .ok ((), s.onMine fun c => { c with tvec := v }) :=
  bind_run_of (get_run ..) <| bind_run_of (trapIf_run_false (by rw [decide_eq_false (not_not.2 ha), decide_eq_false (Nat.not_le.2 hl)]; rfl) ..) <|
    onMyCtx_run ..

theorem writeSreg_run_epc (ha : v.toNat % 4 = 0) (hl : v.toNat < 2 ^ 56) :
    (writeSreg 0x012 v tval).run s = .ok ((), s.onMine fun c => { c with epc := v }) :=
  bind_run_of (get_run ..) <| bind_run_of (trapIf_run_false (by rw [decide_eq_false (not_not.2 ha), decide_eq_false (Nat.not_le.2 hl)]; rfl) ..) <|
    onMyCtx_run ..

theorem writeSreg_run_tvec_bad (hb : v.toNat % 64 ≠ 0 ∨ 2 ^ 56 ≤ v.toNat) :
    (writeSreg 0x010 v tval).run s = .error (.trap { cause := 0x1E4, tval := tval }) :=
  bind_run_of (get_run ..) <| trapIf_bind_run_true (by simpa using hb) ..

theorem writeSreg_run_epc_bad (hb : v.toNat % 4 ≠ 0 ∨ 2 ^ 56 ≤ v.toNat) :
    (writeSreg 0x012 v tval).run s = .error (.trap { cause := 0x1E4, tval := tval }) :=
  bind_run_of (get_run ..) <| trapIf_bind_run_true (by simpa using hb) ..

theorem not_writable_of_slot (hn : 0x034 ≤ n ∧ n ≤ 0x037) : n ∉ writableNumbers := by
  simp only [writableNumbers, List.mem_cons, List.not_mem_nil, or_false]
  omega

theorem writeSreg_run_slot (hn : 0x034 ≤ n ∧ n ≤ 0x037) (hd : (s.core s.cur.1).domain ≠ none) :
    (writeSreg n v tval).run s = .ok ((), s.onCore s.cur.1 fun c => { c with xslot := c.xslot.set (n - 0x034) v }) :=
  (writeSreg_run_other (not_writable_of_slot hn)).trans <| ite_run_pos hn <|
    bind_run_of (trapIf_run_false (by simpa [Option.isSome_iff_ne_none] using hd) ..) <| onMyCore_run ..

theorem writeSreg_run_slot_bad (hn : 0x034 ≤ n ∧ n ≤ 0x037) (hd : (s.core s.cur.1).domain = none) :
    (writeSreg n v tval).run s = .error (.trap { cause := 0x1E4, tval := tval }) :=
  (writeSreg_run_other (not_writable_of_slot hn)).trans <| ite_run_pos hn <| trapIf_bind_run_true (by rw [hd]; rfl) ..

theorem writable_subset : writableNumbers ⊆ sregNumbers := by decide

theorem slot_mem (hn : 0x034 ≤ n ∧ n ≤ 0x037) : n ∈ sregNumbers :=
  List.mem_append_left _ <| List.mem_append_right _ <| List.mem_map.2 ⟨n - 0x034, List.mem_range.2 (by omega), by omega⟩

theorem writeSreg_run_refused (hw : n ∉ writableNumbers) (hs : ¬(0x034 ≤ n ∧ n ≤ 0x037)) :
    (writeSreg n v tval).run s = .error (.trap { cause := if n ∈ sregNumbers then 0x1E3 else 0x1E2, tval := tval }) := by
  rw [writeSreg_run_other hw, if_neg hs]
  by_cases h : n ∈ sregNumbers
  · rw [if_pos (sreg_isSome_iff.2 h), if_pos h]
    rfl
  · rw [if_neg (mt sreg_isSome_iff.1 h), if_neg h]
    rfl

end Write

section Sysw
variable {s sa t : State} {x : IFields} {a : Word} (hi : Issues (.sysw x) s) (ha : (s.begun (.sysw x)).pull x.a = (a, sa))
include hi ha

theorem exec_sysw_ok (hw : (writeSreg x.imm.toNat a (envOf s s.cur.1 s.cur.2 (.sysw x)).aval).run sa = .ok ((), t)) (ht : t.cur = s.cur) :
    exec (.sysw x) s = .next (t.completed (.sysw x)) := issue_ok hi (bind_run_of (src_run_of ha) hw) ht

theorem exec_sysw_trap {cause : Nat} (hw : (writeSreg x.imm.toNat a (envOf s s.cur.1 s.cur.2 (.sysw x)).aval).run sa
    = .error (.trap { cause := cause, tval := (envOf s s.cur.1 s.cur.2 (.sysw x)).aval })) :
    exec (.sysw x) s = .next (s.trapped (.sysw x) cause (envOf s s.cur.1 s.cur.2 (.sysw x)).aval) :=
  issue_trap hi (bind_run_of (src_run_of ha) hw)

end Sysw

/-- Settles O28: SYSR and SYSW of every register, of those that may only be read, and of the numbers that name none. -/
theorem specialRegisters_read_written : Obligations.SpecialRegisters := by
  intro s x
  dsimp only
  refine ⟨fun hi => ⟨fun e he hn => ?_, fun hk => ?_⟩, fun hi => ?_⟩
  · exact exec_sysr hi (by rw [hn, sreg_of_mem he])
  · exact exec_sysr_unknown hi (by rw [known_iff, ← sreg_isSome_iff (s := s)] at hk; simpa using hk)
  · have hr := (Reads.begun s (.sysw x)).pull x.a
    have hc := (ReadsCores.begun s (.sysw x)).pull x.a
    have hcur : ((s.begun (.sysw x)).pull x.a).2.cur = s.cur := hr.cur
    have hclk : ((s.begun (.sysw x)).pull x.a).2.clk = s.clk := hr.congr State.clk
    have hdom : (((s.begun (.sysw x)).pull x.a).2.core s.cur.1).domain = (s.core s.cur.1).domain := hc.congr Core.domain _
    generalize hp : (s.begun (.sysw x)).pull x.a = p at *
    obtain ⟨a, sa⟩ := p
    dsimp only at hcur hclk hdom ⊢
    rw [← hcur] at hdom
    have ok {t : State} (hw : (writeSreg x.imm.toNat a (envOf s s.cur.1 s.cur.2 (.sysw x)).aval).run sa = .ok ((), t))
        (ht : t.cur = sa.cur) : exec (.sysw x) s = .next (t.completed (.sysw x)) := exec_sysw_ok hi hp hw (ht.trans hcur)
    refine ⟨fun hn h1 h2 => ok (by rw [hn]; exact writeSreg_run_tvec h1 h2) rfl, fun hn => ok (by rw [hn]; rfl) rfl,
      fun hn h1 h2 => ok (by rw [hn]; exact writeSreg_run_epc h1 h2) rfl, fun hn => ok (by rw [hn]; rfl) rfl,
      fun hn => ok (by rw [hn]; rfl) rfl, fun hn => ?_, fun hn => ?_, fun hn => ok (by rw [hn]; rfl) rfl, fun hn => ok (by rw [hn]; rfl) rfl,
      fun hn hd => ?_, ?_, fun hk hn => ?_, fun hk => ?_⟩
    · rw [← hclk, ← hcur]
      exact ok (by rw [hn]; rfl) rfl
    · rw [← hclk, ← hcur]
      exact ok (by rw [hn]; rfl) rfl
    · rw [← hcur] at hd ⊢
      exact ok (writeSreg_run_slot hn (hdom ▸ hd)) rfl
    · rintro (⟨hn, hb⟩ | ⟨hn, hb⟩ | ⟨hn, hd⟩)
      · exact exec_sysw_trap hi hp (by rw [hn]; exact writeSreg_run_tvec_bad hb)
      · exact exec_sysw_trap hi hp (by rw [hn]; exact writeSreg_run_epc_bad hb)
      · rw [← hcur] at hd
        exact exec_sysw_trap hi hp (writeSreg_run_slot_bad hn (hdom.trans (not_not.1 hd)))
    · have hw : x.imm.toNat ∉ writableNumbers ∧ ¬(0x034 ≤ x.imm.toNat ∧ x.imm.toNat ≤ 0x037) := by
        simp only [writableNumbers, List.mem_cons, List.not_mem_nil, or_false] at hn ⊢
        omega
      have ht := writeSreg_run_refused (s := sa) (v := a) (tval := (envOf s s.cur.1 s.cur.2 (.sysw x)).aval) hw.1 hw.2
      rw [if_pos (known_iff.1 hk)] at ht
      exact exec_sysw_trap hi hp ht
    · rw [known_iff] at hk
      have hw : x.imm.toNat ∉ writableNumbers := fun h => hk (writable_subset h)
      have hs : ¬(0x034 ≤ x.imm.toNat ∧ x.imm.toNat ≤ 0x037) := fun h => hk (slot_mem h)
      have ht := writeSreg_run_refused (s := sa) (v := a) (tval := (envOf s s.cur.1 s.cur.2 (.sysw x)).aval) hw hs
      rw [if_neg hk] at ht
      exact exec_sysw_trap hi hp ht

end Sys2Proof.Machine
end

section
/-! The journal and debug instructions (row E): JRNL, TRACE, TRIG and WATCH. -/
namespace Sys2Proof.Machine
-- Elaborated one after another, so that threads that wait for one another do not use up the memory.
set_option Elab.async false

/-! ### JRNL (R308, R432) -/

section Journal
variable {s sa t : State} {x : RFields} {a : Word}

theorem State.ownsEntry_iff {g k n : Nat} : s.ownsEntry g k n = true ↔ n < 32 ∧ ((s.core g).journal.get {} n).state ≠ .free
    ∧ (s.ctx g k).launch = some (((s.core g).journal.get {} n).org.slot, ((s.core g).journal.get {} n).org.epoch) := by
  simp only [State.ownsEntry, Bool.and_eq_true, decide_eq_true_eq, and_assoc]

variable (hi : Issues (.jrnl x) s) (ha : (s.begun (.jrnl x)).pull x.a = (a, sa))
include hi ha

theorem exec_jrnl_foreign (hn : sa.ownsEntry sa.cur.1 sa.cur.2 a.toNat = false) :
    exec (.jrnl x) s = .next (s.trapped (.jrnl x) 0x1A3 (envOf s s.cur.1 s.cur.2 (.jrnl x)).aval) :=
  issue_trap hi (bind_run_of (src_run_of ha) <| bind_run_of (get_run ..) <| trapIf_bind_run_true (by rw [hn]; rfl) ..)

variable {e : JEntry} (he : (sa.core sa.cur.1).journal.get {} a.toNat = e) (hn : sa.ownsEntry sa.cur.1 sa.cur.2 a.toNat = true)
include he hn

theorem exec_jrnl_of (hm : (match x.fn.toNat with
      | 0 => dst x.d e.status
      | 1 => dst x.d e.addr
      | 2 => dst x.d e.value
      | _ => do
        trapIf (decide (e.state ≠ JState.refused)) 0x1A3 (envOf s s.cur.1 s.cur.2 (.jrnl x)).aval
        onMyCore (·.freeEntry a.toNat)
        dst x.d 0 : M Unit).run sa = .ok ((), t)) (ht : t.cur = sa.cur) : exec (.jrnl x) s = .next (t.completed (.jrnl x)) := by
  subst he
  exact issue_ok hi (bind_run_of (src_run_of ha) <| bind_run_of (get_run ..) <| bind_run_of (trapIf_run_false (by rw [hn]; rfl) ..) hm)
    (ht.trans ((Reads.begun s _).of_pull ha).cur)

end Journal

theorem journalInstructions : JournalInstructions := by
  intro s x
  dsimp only
  intro hi
  have hr := (Reads.begun s (.jrnl x)).pull x.a
  have hc := (ReadsCores.begun s (.jrnl x)).pull x.a
  generalize hp : (s.begun (.jrnl x)).pull x.a = p at *
  obtain ⟨a, sa⟩ := p
  dsimp only at hr hc ⊢
  have hcur := hr.cur
  have he : (sa.core sa.cur.1).journal.get {} a.toNat = (s.core s.cur.1).journal.get {} a.toNat := by
    rw [hcur]
    exact hc.congr (fun c => c.journal.get {} a.toNat) _
  have hown : sa.ownsEntry sa.cur.1 sa.cur.2 a.toNat = true ↔ a.toNat < 32 ∧ ((s.core s.cur.1).journal.get {} a.toNat).state ≠ .free
      ∧ s.mine.launch = some (((s.core s.cur.1).journal.get {} a.toNat).org.slot, ((s.core s.cur.1).journal.get {} a.toNat).org.epoch) := by
    rw [State.ownsEntry_iff, he]
    have hl : sa.mine.launch = s.mine.launch := hr.congr_mine Ctx.launch
    exact and_congr_right fun _ => and_congr_right fun _ => by rw [← hl]; rfl
  rw [← hown]
  refine ⟨fun hm hf => exec_jrnl_of hi hp he hm (by rw [hf]; exact dst_run ..) (State.give_cur ..),
    fun hm hf => exec_jrnl_of hi hp he hm (by rw [hf]; exact dst_run ..) (State.give_cur ..),
    fun hm hf => exec_jrnl_of hi hp he hm (by rw [hf]; exact dst_run ..) (State.give_cur ..),
    fun hm hf hs => ?_, fun hm => ⟨_, exec_jrnl_foreign hi hp (Bool.eq_false_iff.2 hm)⟩⟩
  rw [← hcur]
  refine exec_jrnl_of hi hp he hm ?_ (State.give_cur ..)
  rw [hf]
  exact bind_run_of (trapIf_run_false (decide_eq_false (not_not.2 hs)) ..) <| bind_run_of (onMyCore_run ..) <| dst_run ..

/-! ### TRACE and TRIG (R447, R448) -/

section Trace
variable {s sa t : State} {x : RFields} {a : Word}

theorem exec_trace_of {u : TraceUnit} (hi : Issues (.trace x) s) (ha : (s.begun (.trace x)).pull x.a = (a, sa))
    (hu : (s.core s.cur.1).trace = u) (hm : (match x.fn.toNat with
      | 0 => modify (fun t => t.trace s.cur.1 s.cur.2 4 a)
      | 1 => do
        trapIf (a.getLsbD 0 || decide (2 ^ 22 ≤ a.toNat)) 0x1E4 (envOf s s.cur.1 s.cur.2 (.trace x)).aval
        onMyTrace (fun t => { t with cfg := a })
        dst x.d u.cfg
      | 2 => dst x.d u.status
      | _ => do
        trapIf (decide (512 ≤ a.toNat)) 0x1E4 (envOf s s.cur.1 s.cur.2 (.trace x)).aval
        dst x.d (u.dword a.toNat) : M Unit).run sa = .ok ((), t)) (ht : t.cur = sa.cur) :
    exec (.trace x) s = .next (t.completed (.trace x)) := by
  have hcur := ((Reads.begun s (.trace x)).of_pull ha).cur
  have hc : (sa.core sa.cur.1).trace = u := by
    rw [hcur, ← hu]
    exact ((ReadsCores.begun s (.trace x)).of_pull ha).congr Core.trace _
  subst hc
  exact issue_ok hi (bind_run_of (src_run_of ha) <| bind_run_of (me_run_of hcur) <| bind_run_of (myCore_run ..) hm) (ht.trans hcur)

theorem exec_trig_of (hi : Issues (.trig x) s) (ha : (s.begun (.trig x)).pull x.a = (a, sa)) (hm : (match x.fn.toNat with
      | 0 => modify (fun t => t.mark s.cur.1 s.cur.2 (t.ownerOf s.cur.1 s.cur.2) a)
      | 1 => onMyTrace (fun t => { t with frozen := false })
      | _ => modify (fun s' => (s'.coresOf (s'.ctx s.cur.1 s.cur.2).launch).foldl (fun t h => t.mark h s.cur.2 (s'.ownerOf s.cur.1 s.cur.2) a) s')
        : M Unit).run sa = .ok ((), t)) (ht : t.cur = s.cur) : exec (.trig x) s = .next (t.completed (.trig x)) :=
  issue_ok hi (bind_run_of (src_run_of ha) <| bind_run_of (me_run_of ((Reads.begun s (.trig x)).of_pull ha).cur) hm) ht

theorem State.mark_cur (s : State) (g k owner : Nat) (a : Word) : (s.mark g k owner a).cur = s.cur := by
  unfold State.mark
  split
  · rfl
  · rfl

end Trace

/-! ### WATCH (R449) -/

section Watch
variable {s sa sb u t : State} {x : RFields} {a b : Word} {obj : Nat} {w : WatchSlot}

/-- The state in which a watch slot of the issuing core is written. -/
def State.putWatch (s : State) (n : Nat) (w : WatchSlot) : State :=
  s.onCore s.cur.1 (fun c => { c with trace := { c.trace with watch := c.trace.watch.set n w } })

variable (hi : Issues (.watch x) s) (ha : (s.begun (.watch x)).pull x.a = (a, sa))
include hi ha

section Set
variable (hf : x.fn = 0) (hb : sa.pull x.b = (b, sb)) (h7 : b.toNat < 2 ^ 7) (h3 : b.toNat / 4 % 4 ≠ 3)
  (h4 : b.getLsbD 4 = true → b.toNat / 4 % 4 = 0) (ho : Does (watchObject a (b.getLsbD 4) (envOf s s.cur.1 s.cur.2 (.watch x))) sb obj u)
include hf hb h7 h3 h4 ho

/-- WATCH.set once its operands pass their checks and its object is known. -/
theorem exec_watch_set_of {full : Bool} (hfull : (({ obj := obj, low := a.toNat % 65536, ctl := b, ctx := s.cur.2, fired := 0 } : WatchSlot).signals
      && decide (obj < 6 * space) && decide (64 ≤ u.portWatches (u.homeCluster (obj / 64)) s.cur.1 (b.toNat % 4))) = full)
    (hm : (if full then dst x.d (-1) else do
      onMyTrace (fun t => { t with watch := t.watch.set (b.toNat % 4) { obj := obj, low := a.toNat % 65536, ctl := b, ctx := s.cur.2, fired := 0 } })
      dst x.d ((u.core s.cur.1).trace.watch.get {} (b.toNat % 4)).ctl : M Unit).run u = .ok ((), t)) (ht : t.cur = s.cur) :
    exec (.watch x) s = .next (t.completed (.watch x)) := by
  subst hfull
  have hcur := ((Reads.begun s (.watch x)).of_pull ha).cur
  have hsig : (b.getLsbD 4 && decide (b.toNat / 4 % 4 ≠ 0)) = false :=
    Bool.and_eq_false_imp.2 fun h => decide_eq_false (not_not.2 (h4 h))
  refine issue_ok hi (bind_run_of (src_run_of ha) <| bind_run_of (me_run_of hcur) <| ite_run_pos hf <| bind_run_of (src_run_of hb) <|
    bind_run_of (trapIf_run_false ?_ ..) <| bind_run_of ho <| bind_run_of (get_run ..) hm) ht
  rw [decide_eq_false (Nat.not_le.2 h7), decide_eq_false h3, hsig]
  rfl

end Set

section Slot
variable (hf : x.fn ≠ 0) (h4 : a.toNat < 4)
include hf h4

theorem exec_watch_slot_of (hw : (s.core s.cur.1).trace.watch.get {} a.toNat = w) (hm : (if x.fn = 1 then do
      onMyTrace (fun t => { t with watch := t.watch.set a.toNat {} })
      dst x.d w.ctl
    else dst x.d (w.fired.setWidth 64) : M Unit).run sa = .ok ((), t)) (ht : t.cur = s.cur) :
    exec (.watch x) s = .next (t.completed (.watch x)) := by
  have hcur := ((Reads.begun s (.watch x)).of_pull ha).cur
  have hc : (sa.core sa.cur.1).trace.watch.get {} a.toNat = w := by
    rw [hcur, ← hw]
    exact ((ReadsCores.begun s (.watch x)).of_pull ha).congr (fun c => c.trace.watch.get {} a.toNat) _
  subst hc
  exact issue_ok hi (bind_run_of (src_run_of ha) <| bind_run_of (me_run_of hcur) <| ite_run_neg hf <|
    bind_run_of (trapIf_run_false (decide_eq_false (Nat.not_le.2 h4)) ..) <| bind_run_of (myCore_run ..) hm) ht

end Slot
end Watch

theorem debugInstructions : DebugInstructions := by
  intro s x
  refine ⟨?_, ?_, fun obj u hu => ?_⟩
  · dsimp only
    intro hi
    have hcur := ((Reads.begun s (.trace x)).pull x.a).cur
    generalize hp : (s.begun (.trace x)).pull x.a = p at *
    obtain ⟨a, sa⟩ := p
    dsimp only at hcur ⊢
    refine ⟨fun hf => ?_, fun hf h0 h22 => ?_, fun hf => ?_, fun hf h512 => ?_⟩
    · exact exec_trace_of hi hp rfl (by rw [hf]; exact modify_run ..) (State.traceFor_cur ..)
    · rw [← hcur]
      refine exec_trace_of (u := (s.core sa.cur.1).trace) hi hp (by rw [hcur]) ?_ (State.give_cur ..)
      rw [hf]
      exact bind_run_of (trapIf_run_false (by rw [h0, decide_eq_false (Nat.not_le.2 h22)]; rfl) ..) <| bind_run_of (onMyCore_run ..) <|
        dst_run ..
    · exact exec_trace_of hi hp rfl (by rw [hf]; exact dst_run ..) (State.give_cur ..)
    · refine exec_trace_of hi hp rfl ?_ (State.give_cur ..)
      rw [hf]
      exact bind_run_of (trapIf_run_false (decide_eq_false (Nat.not_le.2 h512)) ..) <| dst_run ..
  · dsimp only
    intro hi
    have hr := (Reads.begun s (.trig x)).pull x.a
    generalize hp : (s.begun (.trig x)).pull x.a = p at *
    obtain ⟨a, sa⟩ := p
    have hcur : sa.cur = s.cur := hr.cur
    have hown : sa.ownerOf s.cur.1 s.cur.2 = s.ownerOf s.cur.1 s.cur.2 := hr.ownerOf
    refine ⟨fun hf => ?_, fun hf => ?_, fun hf hz => ?_⟩
    · rw [← hown]
      exact exec_trig_of hi hp (by rw [hf]; exact modify_run ..) ((State.mark_cur ..).trans hcur)
    · rw [← hcur]
      exact exec_trig_of hi hp (by rw [hf]; exact onMyCore_run ..) hcur
    · have hl : (sa.ctx s.cur.1 s.cur.2).launch = s.mine.launch := by
        rw [← hcur]
        exact hr.congr_mine Ctx.launch
      rw [← hown, ← hl]
      exact exec_trig_of hi hp (by rw [hf]; exact modify_run ..) ((State.foldl_cur (fun _ _ => State.mark_cur ..) ..).trans hcur)
  · dsimp only
    intro hi
    have hcur := ((Reads.begun s (.watch x)).pull x.a).cur
    generalize hp : (s.begun (.watch x)).pull x.a = p at *
    obtain ⟨a, sa⟩ := p
    generalize hq : sa.pull x.b = q
    obtain ⟨b, sb⟩ := q
    refine ⟨fun hf h7 h3 h4 ho => ⟨fun hfree => ?_, fun hs hobj hfull => ?_⟩, fun hf h4 => ?_, fun hf h4 => ?_⟩
    · rw [← hu]
      refine exec_watch_set_of hi hp hf hq h7 h3 h4 ho (full := false) ?_ ?_ ((State.give_cur ..).trans hu)
      · rw [Bool.and_assoc]
        refine Bool.eq_false_iff.2 fun h => ?_
        obtain ⟨hs, h⟩ := Bool.and_eq_true_iff.1 h
        obtain ⟨hobj, hfull⟩ := Bool.and_eq_true_iff.1 h
        have ho := of_decide_eq_true hobj
        have hf := of_decide_eq_true hfull
        rcases hfree with h | h | h
        · exact absurd (h.symm.trans hs) (by decide)
        · exact absurd ho (Nat.not_lt.2 h)
        · exact absurd hf (Nat.not_le.2 h)
      · exact ite_run_neg Bool.false_ne_true <| bind_run_of (onMyCore_run ..) <| by
          rw [← hu]
          exact dst_run ..
    · refine exec_watch_set_of hi hp hf hq h7 h3 h4 ho (full := true) ?_ (ite_run_pos rfl (dst_run ..)) ((State.give_cur ..).trans hu)
      rw [Bool.and_eq_true, Bool.and_eq_true, decide_eq_true_eq, decide_eq_true_eq]
      exact ⟨⟨hs, hobj⟩, hfull⟩
    · rw [← hcur]
      refine exec_watch_slot_of hi hp (by rw [hf]; decide) h4 rfl (ite_run_pos hf <| bind_run_of (onMyCore_run ..) <| ?_)
        ((State.give_cur ..).trans hcur)
      rw [hcur]
      exact dst_run ..
    · exact exec_watch_slot_of hi hp (by rw [hf]; decide) h4 rfl (ite_run_neg (by rw [hf]; decide) (dst_run ..)) ((State.give_cur ..).trans hcur)

/-- Settles O29: the journal (`journalInstructions`), and TRACE, TRIG and WATCH (`debugInstructions`). That TRIG.all freezes every core's
buffer in the step of the instruction is the model's choice (log 39). -/
theorem journalAndDebug : Obligations.JournalAndDebug := ⟨journalInstructions, debugInstructions⟩

end Sys2Proof.Machine
end

section
/-! Writes of vector lanes: which lanes a register receives, its elements, and the lanes that a mask makes active. -/
namespace Sys2Proof.Machine
-- Elaborated one after another, so that threads that wait for one another do not use up the memory.
set_option Elab.async false

/-! ### Active lanes (R222, R227) -/

theorem Ctx.lt_of_mem_active {c : Ctx} {m : BitVec 3} {i : Nat} (h : i ∈ c.active m) : i < 128 := by
  obtain ⟨-, hb⟩ := List.mem_filter.1 h
  exact BitVec.lt_of_getLsbD hb

theorem Ctx.pairwise_active (c : Ctx) (m : BitVec 3) : (c.active m).Pairwise (· < ·) := List.pairwise_lt_range.filter _

theorem Ctx.length_active_le (c : Ctx) (m : BitVec 3) : (c.active m).length ≤ 128 := by
  have hsub : c.active m ⊆ List.range 128 := fun _ hi => List.mem_range.2 (Ctx.lt_of_mem_active hi)
  have hnodup : (c.active m).Nodup := (c.pairwise_active m).imp Nat.ne_of_lt
  simpa using (hnodup.subperm hsub).length_le

/-- In an ascending list the place of an entry is the number of lesser entries. -/
theorem length_filter_lt_getElem {l : List Nat} (h : l.Pairwise (· < ·)) {p : Nat} (hp : p < l.length) :
    (l.filter (fun j => decide (j < l[p]))).length = p := by
  induction l generalizing p with
  | nil => exact absurd hp (Nat.not_lt_zero _)
  | cons a l ih =>
    obtain ⟨ha, hl⟩ := List.pairwise_cons.1 h
    cases p with
    | zero =>
      have hnone : ∀ j ∈ a :: l, ¬ decide (j < a) = true := by
        intro j hj
        rcases List.mem_cons.1 hj with rfl | hj
        · simp
        · have := ha j hj
          simp; omega
      simp [List.filter_eq_nil_iff.2 hnone]
    | succ p =>
      have hp' : p < l.length := Nat.lt_of_succ_lt_succ hp
      have hlt : a < l[p] := ha _ (List.getElem_mem hp')
      rw [List.getElem_cons_succ, List.filter_cons, if_pos (decide_eq_true hlt), List.length_cons, ih hl hp']

/-- The lanes that a mask makes active, each with its rank. -/
theorem Ctx.activeIx_eq (c : Ctx) (m : BitVec 3) : c.activeIx m = (c.active m).map (fun i => (c.rankOf m i, i)) := by
  refine List.ext_getElem (by simp [Ctx.activeIx]) fun p h1 h2 => ?_
  have hp : p < (c.active m).length := by simpa using h2
  rw [List.getElem_map, Ctx.rankOf, length_filter_lt_getElem (c.pairwise_active m) hp]
  simp [Ctx.activeIx]

theorem Ctx.rankOf_lt {c : Ctx} {m : BitVec 3} {i : Nat} (h : i ∈ c.active m) : c.rankOf m i < (c.active m).length := by
  obtain ⟨p, hp, rfl⟩ := List.getElem_of_mem h
  rwa [Ctx.rankOf, length_filter_lt_getElem (c.pairwise_active m) hp]

/-! ### The elements of a lane (R24) -/

theorem laneElem_lt (w : Nat) (x : Lane) (j : Nat) : laneElem w x j < 2 ^ w := Nat.mod_lt _ (Nat.two_pow_pos w)

/-- The j-th digit of a number in base 2^w. -/
theorem foldr_digits (w : Nat) (es : List Nat) (j : Nat) :
    es.foldr (fun e acc => acc * 2 ^ w + e % 2 ^ w) 0 / 2 ^ (w * j) % 2 ^ w = es.getD j 0 % 2 ^ w := by
  induction es generalizing j with
  | nil => simp
  | cons e es ih =>
    cases j with
    | zero => simp [Nat.mul_comm _ (2 ^ w)]
    | succ j =>
      have hdiv (a : Nat) : (a * 2 ^ w + e % 2 ^ w) / 2 ^ w = a := by
        rw [Nat.mul_comm, Nat.mul_add_div (Nat.two_pow_pos w), Nat.div_eq_of_lt (Nat.mod_lt _ (Nat.two_pow_pos w)), Nat.add_zero]
      rw [List.foldr_cons, Nat.mul_succ, Nat.add_comm (w * j), pow_add, ← Nat.div_div_eq_div_mul, hdiv, ih, List.getD_cons_succ]

theorem foldr_digits_lt (w : Nat) (es : List Nat) : es.foldr (fun e acc => acc * 2 ^ w + e % 2 ^ w) 0 < 2 ^ (w * es.length) := by
  induction es with
  | nil => simp
  | cons e es ih =>
    rw [List.foldr_cons, List.length_cons, Nat.mul_succ, pow_add]
    have hmul : (es.foldr (fun e acc => acc * 2 ^ w + e % 2 ^ w) 0 + 1) * 2 ^ w ≤ 2 ^ (w * es.length) * 2 ^ w :=
      Nat.mul_le_mul_right _ ih
    have hmod : e % 2 ^ w < 2 ^ w := Nat.mod_lt _ (Nat.two_pow_pos w)
    rw [Nat.add_mul, Nat.one_mul] at hmul
    omega

/-- An element of a lane that is made of its elements (R24). -/
theorem laneElem_laneOfElems {w : Nat} {es : List Nat} (h : w * es.length ≤ 32) (j : Nat) :
    laneElem w (laneOfElems w es) j = es.getD j 0 % 2 ^ w := by
  have hlt : es.foldr (fun e acc => acc * 2 ^ w + e % 2 ^ w) 0 < 2 ^ 32 :=
    (foldr_digits_lt w es).trans_le (Nat.pow_le_pow_right (by decide) h)
  rw [laneElem, laneOfElems, BitVec.toNat_ofNat, Nat.mod_eq_of_lt hlt, foldr_digits]

theorem laneElem_laneOfElems_range {w j : Nat} (f : Nat → Nat) (hj : j < 32 / w) :
    laneElem w (laneOfElems w ((List.range (32 / w)).map f)) j = f j % 2 ^ w := by
  rw [laneElem_laneOfElems (by simpa using Nat.mul_div_le 32 w)]
  simp [hj]

theorem laneElem_resultLane {w j : Nat} (f : Nat → Nat → Nat → Nat → Nat) (draw : Nat → Nat) (p : Nat) (z x y : Lane) (hj : j < 32 / w) :
    laneElem w (resultLane w f draw p z x y) j =
      f (draw (p * (32 / w) + j)) (laneElem w z j) (laneElem w x j) (laneElem w y j) % 2 ^ w :=
  laneElem_laneOfElems_range _ hj

theorem laneElem_literalLane {w j : Nat} (v : Word) (hj : j < 32 / w) : laneElem w (literalLane w v) j = v.toNat % 2 ^ w := by
  rw [literalLane, laneElem_laneOfElems (by simpa using Nat.mul_div_le 32 w)]
  simp [hj]

/-! ### Writing lanes -/

/-- The state in which lanes of a vector register of the current context are written, in the order of the list. -/
def State.withLanes (s : State) (vd : Nat) (ls : List (Nat × Lane)) : State :=
  s.onMine fun c => ls.foldl (fun c e => c.setLane vd e.1 e.2) c

theorem putLanes_run (vd : Nat) (ls : List (Nat × Lane)) (s : State) : (putLanes vd ls).run s = .ok ((), s.withLanes vd ls) :=
  onMyCtx_run ..

/-- A change of the current context changes nothing else. -/
theorem onlyMine_onMine (s : State) (f : Ctx → Ctx) : OnlyMine s (s.onMine f) :=
  ⟨rfl, fun _ hg => State.core_onCtx_other s s.cur.2 f hg, by rw [State.onMine, State.core_onCtx], fun _ hk =>
    State.ctx_onCtx_other s f fun h => hk h.2⟩

theorem Ctx.foldl_setLane_eq (c : Ctx) (vd : Nat) (ls : List (Nat × Lane)) : ls.foldl (fun c e => c.setLane vd e.1 e.2) c =
    { c with v := (ls.foldl (fun c e => c.setLane vd e.1 e.2) c).v } := by
  induction ls generalizing c with
  | nil => rfl
  | cons e ls ih => rw [List.foldl_cons, ih]; rfl

theorem Ctx.lane_foldl_setLane (c : Ctx) {vd : Nat} {lanes : List Nat} (hlt : ∀ i ∈ lanes, i < 128) (f : Nat → Lane) {k i : Nat}
    (hi : i < 128) : ((lanes.map (fun i => (i, f i))).foldl (fun c e => c.setLane vd e.1 e.2) c).lane k i =
      if k = vd ∧ i ∈ lanes then f i else c.lane k i := by
  induction lanes generalizing c with
  | nil => simp
  | cons a lanes ih =>
    rw [List.map_cons, List.foldl_cons, ih _ fun j hj => hlt j (List.mem_cons_of_mem _ hj)]
    by_cases hin : k = vd ∧ i ∈ lanes
    · rw [if_pos hin, if_pos ⟨hin.1, List.mem_cons_of_mem _ hin.2⟩]
    · rw [if_neg hin]
      by_cases ha : k = vd ∧ i = a
      · obtain ⟨rfl, rfl⟩ := ha
        rw [Ctx.lane_setLane, if_pos ⟨rfl, List.mem_cons_self⟩]
      · rw [Ctx.lane_setLane_other c _ (hlt a List.mem_cons_self) hi ha, if_neg]
        rintro ⟨rfl, hmem⟩
        rcases List.mem_cons.1 hmem with rfl | hmem
        · exact ha ⟨rfl, rfl⟩
        · exact hin ⟨rfl, hmem⟩

theorem writesLanes_withLanes (s : State) (vd : Nat) {lanes : List Nat} (hlt : ∀ i ∈ lanes, i < 128) (f : Nat → Lane) :
    WritesLanes s (s.withLanes vd (lanes.map (fun i => (i, f i)))) vd lanes f := by
  have hmine : (s.withLanes vd (lanes.map (fun i => (i, f i)))).mine =
      (lanes.map (fun i => (i, f i))).foldl (fun c e => c.setLane vd e.1 e.2) s.mine := State.mine_onMine ..
  refine ⟨onlyMine_onMine .., ?_, fun k i _ hi => ?_⟩
  · rw [hmine]
    exact Ctx.foldl_setLane_eq ..
  · rw [hmine, Ctx.lane_foldl_setLane _ hlt f hi]

/-- Only the values in the listed lanes matter. -/
theorem WritesLanes.congr {s t : State} {vd : Nat} {lanes : List Nat} {f g : Nat → Lane} (h : WritesLanes s t vd lanes f)
    (hfg : ∀ i ∈ lanes, f i = g i) : WritesLanes s t vd lanes g := by
  obtain ⟨honly, hv, hl⟩ := h
  refine ⟨honly, hv, fun k i hk hi => ?_⟩
  rw [hl k i hk hi]
  by_cases hin : k = vd ∧ i ∈ lanes
  · rw [if_pos hin, if_pos hin, hfg i hin.2]
  · rw [if_neg hin, if_neg hin]

/-! ### An instruction that writes lanes -/

section Exec
variable {i : Instr} {s u : State} {body : Env → M Unit} {vd : Nat} {lanes : List Nat} {f : Nat → Lane}

theorem issue_lanes (hi : Issues i s) (hu : u.cur = s.cur) (hlt : ∀ j ∈ lanes, j < 128)
    (h : (body (envOf s s.cur.1 s.cur.2 i)).run (s.begun i) = (putLanes vd (lanes.map (fun j => (j, f j)))).run u) :
    ∃ t : State, issue i body s = .next (t.completed i) ∧ WritesLanes u t vd lanes f :=
  ⟨_, issue_ok hi (h.trans (putLanes_run ..)) hu, writesLanes_withLanes u vd hlt f⟩

/-- The lanes of the active elements, under a mask that the operands' reading leaves. -/
theorem issue_activeLanes {m : BitVec 3} (hi : Issues i s) (hu : u.cur = s.cur)
    (h : (body (envOf s s.cur.1 s.cur.2 i)).run (s.begun i) = (putLanes vd ((s.mine.active m).map (fun j => (j, f j)))).run u) :
    ∃ t : State, issue i body s = .next (t.completed i) ∧ WritesLanes u t vd (s.mine.active m) f :=
  issue_lanes hi hu (fun _ => Ctx.lt_of_mem_active) h

/-- Lanes that are made of elements. -/
theorem writesElems_of {w : Nat} {e : Nat → Nat → Nat} (h : ∃ t : State, issue i body s = .next (t.completed i) ∧ WritesLanes u t vd lanes f)
    (he : ∀ l ∈ lanes, ∀ j, j < 32 / w → laneElem w (f l) j = e l j % 2 ^ w) :
    ∃ t : State, issue i body s = .next (t.completed i) ∧ WritesElems u t vd w lanes e := by
  obtain ⟨t, ht, hw⟩ := h
  exact ⟨t, ht, f, hw, he⟩

end Exec

end Sys2Proof.Machine
end

section
/-! The element-wise vector instructions (R227, R231): one argument for their lanes, draws and frame, then each one's element. -/
namespace Sys2Proof.Machine
-- Elaborated one after another, so that threads that wait for one another do not use up the memory.
set_option Elab.async false

/-- An element of the second source, or of the literal that stands in every element (R229). -/
theorem laneElem_laneB {w j : Nat} (c : Ctx) (x : VFields) (i : Nat) (hj : j < 32 / w) :
    laneElem w (c.laneB x (literalLane w) i) j =
      match formLit x.form with
      | some v => v.toNat % 2 ^ w
      | none => laneElem w (c.lane x.vb.toNat i) j := by
  unfold Ctx.laneB
  cases formLit x.form with
  | some v => exact laneElem_literalLane v hj
  | none => rfl

section Elementwise
variable {s u : State} {x : VFields} {v : Env} {rounds : Bool} {f : Nat → Nat → Nat → Nat → Nat} {rm : BitVec 3} {w : Nat}

/-- The lane that an element-wise function gives lane i (R231). -/
def elementwiseLane (s : State) (x : VFields) (rm : BitVec 3) (w : Nat) (f : Nat → Nat → Nat → Nat → Nat) (i : Nat) : Lane :=
  resultLane w f (s.roll rm) (s.mine.rankOf x.m i) (s.mine.lane x.vd.toNat i) (s.mine.lane x.va.toNat i)
    (s.mine.laneB x (literalLane w) i)

theorem elementwise_run (hr : Reads s u) (hw : tyBits v.e.ty.toNat = w) (hrm : (if rounds then v.e.rm else 0) = rm)
    (hd : s.drawsLeft rm ((s.mine.active x.m).length * (32 / w))) :
    (elementwise x v rounds f).run u =
      (putLanes x.vd.toNat ((s.mine.active x.m).map (fun i => (i, elementwiseLane s x rm w f i)))).run
        (u.rolled rm ((s.mine.active x.m).length * (32 / w))) := by
  subst hw
  have hix : u.mine.activeIx x.m = (s.mine.active x.m).map (fun i => (s.mine.rankOf x.m i, i)) :=
    (hr.congr_mine (Ctx.activeIx · x.m)).trans (Ctx.activeIx_eq ..)
  have hz (i : Nat) : u.mine.lane x.vd.toNat i = s.mine.lane x.vd.toNat i := hr.congr_mine (Ctx.lane · x.vd.toNat i)
  have ha (i : Nat) : u.mine.lane x.va.toNat i = s.mine.lane x.va.toNat i := hr.congr_mine (Ctx.lane · x.va.toNat i)
  have hb (w i : Nat) : u.mine.laneB x (literalLane w) i = s.mine.laneB x (literalLane w) i :=
    hr.congr_mine (Ctx.laneB · x (literalLane w) i)
  refine bind_run_of (myCtx_run u) ?_
  rw [hix]
  dsimp only
  rw [List.length_map]
  refine bind_ite_run_of (hr.drawsIf_run hrm hd v.aval) ?_
  simp only [List.map_map, Function.comp_def, hz, ha, hb]
  rfl

/-- An instruction whose body is element-wise once its operands are read. -/
theorem issue_elementwise {i : Instr} {rounds : Env → Bool} {f : Env → Nat → Nat → Nat → Nat → Nat} {e : Nat → Nat → Nat → Nat → Nat}
    {body : Env → M Unit} (hi : Issues i s) (hr : Reads s u)
    (h : (body (envOf s s.cur.1 s.cur.2 i)).run (s.begun i) =
      (elementwise x (envOf s s.cur.1 s.cur.2 i) (rounds (envOf s s.cur.1 s.cur.2 i)) (f (envOf s s.cur.1 s.cur.2 i))).run u)
    (hw : tyBits (extOf i).ty.toNat = w) (hrm : (if rounds (envOf s s.cur.1 s.cur.2 i) then (extOf i).rm else 0) = rm)
    (hd : s.drawsLeft rm ((s.mine.active x.m).length * (32 / w)))
    (he : ∀ d z a b, f (envOf s s.cur.1 s.cur.2 i) d z a b % 2 ^ w = e d z a b % 2 ^ w) :
    ∃ t : State, issue i body s = .next (t.completed i)
      ∧ WritesElems (u.rolled rm ((s.mine.active x.m).length * (32 / w))) t x.vd.toNat w (s.mine.active x.m) (fun l j =>
          e (s.roll rm (s.mine.rankOf x.m l * (32 / w) + j)) (laneElem w (s.mine.lane x.vd.toNat l) j)
            (laneElem w (s.mine.lane x.va.toNat l) j)
            (match formLit x.form with
              | some v => v.toNat % 2 ^ w
              | none => laneElem w (s.mine.lane x.vb.toNat l) j)) := by
  refine writesElems_of (f := elementwiseLane s x rm w (f (envOf s s.cur.1 s.cur.2 i)))
    (issue_activeLanes hi ((State.rolled_cur ..).trans hr.cur) (h.trans (elementwise_run hr hw hrm hd))) fun l _ j hj => ?_
  rw [elementwiseLane, laneElem_resultLane _ _ _ _ _ _ hj, he, laneElem_laneB _ _ _ hj]

theorem exec_elementwise {i : Instr} {rounds : Env → Bool} {f : Env → Nat → Nat → Nat → Nat → Nat} {e : Nat → Nat → Nat → Nat → Nat}
    (hi : Issues i s)
    (hd : s.drawsLeft (if rounds (envOf s s.cur.1 s.cur.2 i) then (extOf i).rm else 0)
      ((s.mine.active x.m).length * (32 / tyBits (extOf i).ty.toNat)))
    (he : ∀ d z a b, f (envOf s s.cur.1 s.cur.2 i) d z a b % 2 ^ tyBits (extOf i).ty.toNat = e d z a b % 2 ^ tyBits (extOf i).ty.toNat) :
    let rm := if rounds (envOf s s.cur.1 s.cur.2 i) then (extOf i).rm else 0
    let w := tyBits (extOf i).ty.toNat
    ∃ t : State, issue i (fun v => elementwise x v (rounds v) (f v)) s = .next (t.completed i)
      ∧ WritesElems ((s.begun i).rolled rm ((s.mine.active x.m).length * (32 / w))) t x.vd.toNat w (s.mine.active x.m) (fun l j =>
          e (s.roll rm (s.mine.rankOf x.m l * (32 / w) + j)) (laneElem w (s.mine.lane x.vd.toNat l) j)
            (laneElem w (s.mine.lane x.va.toNat l) j)
            (match formLit x.form with
              | some v => v.toNat % 2 ^ w
              | none => laneElem w (s.mine.lane x.vb.toNat l) j)) :=
  issue_elementwise hi (Reads.begun s i) rfl rfl rfl hd he

/-- Entries on bits take no draw (R231). -/
theorem exec_bits {i : Instr} {f : Env → Nat → Nat → Nat} {e : Nat → Nat → Nat → Nat → Nat} (hi : Issues i s)
    (he : ∀ d z a b, f (envOf s s.cur.1 s.cur.2 i) a b % 2 ^ tyBits (extOf i).ty.toNat = e d z a b % 2 ^ tyBits (extOf i).ty.toNat) :
    let w := tyBits (extOf i).ty.toNat
    ∃ t : State, issue i (fun v => vectorBits x v (f v)) s = .next (t.completed i)
      ∧ WritesElems ((s.begun i).rolled 0 ((s.mine.active x.m).length * (32 / w))) t x.vd.toNat w (s.mine.active x.m) (fun l j =>
          e (s.roll 0 (s.mine.rankOf x.m l * (32 / w) + j)) (laneElem w (s.mine.lane x.vd.toNat l) j)
            (laneElem w (s.mine.lane x.va.toNat l) j)
            (match formLit x.form with
              | some v => v.toNat % 2 ^ w
              | none => laneElem w (s.mine.lane x.vb.toNat l) j)) :=
  exec_elementwise (rounds := fun _ => false) (f := fun v _ _ a b => f v a b) hi (fun h => absurd (show (0 : BitVec 3) = 5 from h) (by decide)) he

end Elementwise

/-! ### The elements (R209, R231) -/

theorem arithResult_eq (ty : Nat) (sat : Bool) (rm : RMode) (fi : Int → Int → Int → Int) (ff : FVal → FVal → FVal → FVal) (d z a b : Nat) :
    arithResult ty sat rm fi ff d z a b =
      if tyFloat ty then (fmtOf ty).ofVal rm d sat (ff ((fmtOf ty).value z) ((fmtOf ty).value a) ((fmtOf ty).value b))
      else intResult (tySigned ty) (tyBits ty) sat (fi (intOf (tySigned ty) (tyBits ty) z) (intOf (tySigned ty) (tyBits ty) a)
        (intOf (tySigned ty) (tyBits ty) b)) := rfl

theorem shlElem_mod (w a b : Nat) : shlElem w a b % 2 ^ w = (if w ≤ b then 0 else a * 2 ^ b) % 2 ^ w := by
  unfold shlElem
  split
  · rfl
  · exact Nat.mod_mod ..

theorem shrElem_eq (w : Nat) (p : Prop) [Decidable p] (a b : Nat) : shrElem w (decide p) a b =
    if p then intCode w (intOf true w a / 2 ^ min b w) else if w ≤ b then 0 else a / 2 ^ b := by
  simp only [shrElem, decide_eq_true_eq]

/-- VNEG's two functions of one element (R231). -/
def negElem (ty : Nat) (sat abs : Bool) (a : Nat) : Nat :=
  arithResult ty sat .rne (fun _ a _ => if abs then |a| else -a) (fun _ a _ => if abs then a.abs else a.neg) 0 0 a 0

theorem negElem_eq (ty : Nat) (sat : Bool) (p : Prop) [Decidable p] (a : Nat) : negElem ty sat (decide p) a =
      if tyFloat ty then (fmtOf ty).ofVal .rne 0 sat (if p then ((fmtOf ty).value a).abs else ((fmtOf ty).value a).neg)
      else intResult (tySigned ty) (tyBits ty) sat
        (if p then |intOf (tySigned ty) (tyBits ty) a| else -(intOf (tySigned ty) (tyBits ty) a)) := by
  simp only [negElem, arithResult_eq, decide_eq_true_eq]

/-- Settles O18: every element-wise instruction by `exec_elementwise`, with the element that its function gives; VMIN, VMAX and VSFU through
the model's `minMaxElem` and `FFmt.sfu`, as the statement has them. -/
theorem vectorArithmetic : Obligations.VectorArithmetic := by
  intro s x
  refine ⟨fun hi hd => ?_, fun hi hd => ?_, fun hi hd => ?_, fun hi hd => ?_, fun hi hd => ?_, fun hi hd => ?_, fun hi hd => ?_,
    fun hi hd => ?_, fun hi hd => ?_, fun hi hd => ?_, fun hi hd => ?_, fun hi hd => ?_, fun hi hd => ?_⟩
  · exact exec_elementwise hi hd fun _ _ _ _ => rfl
  · exact exec_elementwise hi hd fun _ _ _ _ => rfl
  · exact exec_elementwise hi hd fun _ _ _ _ => rfl
  · exact exec_elementwise hi hd fun _ _ _ _ => rfl
  · exact exec_bits hi fun _ _ _ _ => rfl
  · exact exec_bits hi fun _ _ _ _ => rfl
  · exact exec_bits hi fun _ _ _ _ => rfl
  · exact exec_bits hi fun _ _ _ _ => rfl
  · exact exec_bits hi fun _ _ _ _ => rfl
  · exact exec_bits (f := fun v => shlElem (tyBits v.e.ty.toNat)) hi fun _ _ _ _ => shlElem_mod ..
  · exact exec_bits (f := fun v => shrElem (tyBits v.e.ty.toNat) (x.fn = 1)) hi fun _ _ _ _ => congrArg (· % _) (shrElem_eq ..)
  · exact exec_bits (f := fun v a _ => negElem v.e.ty.toNat v.e.sat (x.fn = 1) a) hi fun _ _ _ _ => congrArg (· % _) (negElem_eq ..)
  · exact exec_elementwise (rounds := fun _ => true) hi hd fun _ _ _ _ => rfl

end Sys2Proof.Machine
end

section
/-! The instructions that make whole lanes (R233-R242). -/
namespace Sys2Proof.Machine
-- Elaborated one after another, so that threads that wait for one another do not use up the memory.
set_option Elab.async false

/-! ### Running them -/

section Run
variable {s u : State} {β : Type}

/-- A body that takes its context once operands are read acts on the context as it stood, but for PC and fetch buffer. -/
theorem Reads.bind_myCtx_run (hr : Reads s u) (k : Ctx → M β)
    (hk : ∀ p f, k { s.mine with pc := p, fbuf := f } = k s.mine := by exact fun _ _ => rfl) :
    (myCtx >>= k).run u = (k s.mine).run u := by
  refine (bind_run_of (myCtx_run u) rfl).trans ?_
  rw [hr.mine, hk]

/-- Draws that an exact operation does without (R29, R235). -/
theorem Reads.drawsUnless_run {p : Prop} [Decidable p] {rm : BitVec 3} {n : Nat} (hr : Reads s u)
    (h : s.drawsLeft (if p then 0 else rm) n) (tval : Word) :
    (if p then pure fun _ => 0 else drawsFor rm n tval).run u = .ok (s.roll (if p then 0 else rm), u.rolled (if p then 0 else rm) n) := by
  by_cases hp : p
  · rw [if_pos hp] at h
    rw [if_pos hp, if_pos hp]
    exact hr.drawsFor_run h tval
  · rw [if_neg hp] at h
    rw [if_neg hp, if_neg hp]
    exact hr.drawsFor_run h tval

end Run

section Lanes
variable {s u : State} {x : VFields} {a : Word}

/-! ### VSEL, VDOT4, VCVT, VQUANT (R233-R237) -/

theorem exec_vsel (hi : Issues (.vsel x) s) : ∃ t : State, exec (.vsel x) s = .next (t.completed (.vsel x)) ∧
    WritesLanes (s.begun (.vsel x)) t x.vd.toNat (List.range (min s.mine.grant 128)) (fun i =>
      if (s.mine.mask x.m.toNat).getLsbD i then s.mine.lane x.va.toNat i else s.mine.laneB x (·.setWidth 32) i) :=
  issue_lanes hi rfl (fun _ hj => (List.mem_range.1 hj).trans_le (Nat.min_le_right ..)) ((Reads.begun s _).bind_myCtx_run _)

theorem dot4Lane_eq (fn : BitVec 4) (z x y : Lane) : dot4Lane fn.toNat z x y =
    let sa := decide (fn ≠ 1)
    let sb := decide (fn = 0)
    BitVec.ofNat 32 (intResult sa 32 true (intOf sa 32 z.toNat
      + (intOf sa 8 (laneElem 8 x 0) * intOf sb 8 (laneElem 8 y 0) + intOf sa 8 (laneElem 8 x 1) * intOf sb 8 (laneElem 8 y 1)
        + intOf sa 8 (laneElem 8 x 2) * intOf sb 8 (laneElem 8 y 2) + intOf sa 8 (laneElem 8 x 3) * intOf sb 8 (laneElem 8 y 3)))) := by
  have h1 : decide (fn.toNat ≠ 1) = decide (fn ≠ 1) := decide_eq_decide.2 (not_congr (BitVec.toNat_inj (y := (1 : BitVec 4))))
  have h0 : decide (fn.toNat = 0) = decide (fn = 0) := decide_eq_decide.2 (BitVec.toNat_inj (y := (0 : BitVec 4)))
  have hsum (f : Nat → Int) : ((List.range 4).map f).sum = f 0 + f 1 + f 2 + f 3 := by
    simp [List.range_succ, add_assoc]
  simp only [dot4Lane, h1, h0, hsum]

theorem exec_vdot4 (hi : Issues (.vdot4 x) s) : ∃ t : State, exec (.vdot4 x) s = .next (t.completed (.vdot4 x)) ∧
    WritesLanes (s.begun (.vdot4 x)) t x.vd.toNat (s.mine.active x.m) (fun i =>
      dot4Lane x.fn.toNat (s.mine.lane x.vd.toNat i) (s.mine.lane x.va.toNat i) (s.mine.laneB x (·.setWidth 32) i)) :=
  issue_activeLanes hi rfl ((Reads.begun s _).bind_myCtx_run _)

theorem exec_vcvt {e : Ext} {rm : BitVec 3} {n : Nat} (hi : Issues (.vcvt x) s) (he : extOf (.vcvt x) = e)
    (hrm : (if cvtExact e.ty.toNat e.sub.toNat then 0 else e.rm) = rm) (hn : min (32 / tyBits e.ty.toNat) (32 / tyBits e.sub.toNat) = n)
    (hd : s.drawsLeft rm ((s.mine.active x.m).length * n)) : ∃ t : State, exec (.vcvt x) s = .next (t.completed (.vcvt x)) ∧
    WritesLanes ((s.begun (.vcvt x)).rolled rm ((s.mine.active x.m).length * n)) t x.vd.toNat (s.mine.active x.m) (fun i =>
      cvtLane e.ty.toNat e.sub.toNat e.imm32.toNat (rmOf e.rm) (s.roll rm) (s.mine.rankOf x.m i * n) (s.mine.lane x.vd.toNat i)
        (s.mine.lane x.va.toNat i)) := by
  subst he hrm hn
  have hr := Reads.begun s (.vcvt x)
  refine issue_activeLanes hi ((State.rolled_cur ..).trans hr.cur) ((hr.bind_myCtx_run _).trans ?_)
  rw [Ctx.activeIx_eq]
  dsimp only
  rw [List.length_map]
  refine bind_ite_run_of (hr.drawsUnless_run hd _) ?_
  rw [List.map_map]
  rfl

/-- The first ten lanes of each group of 64 (R237). -/
theorem quantGroups_eq (c : Ctx) (x : VFields) (rm : RMode) (draw : Nat → Nat) (n : Nat) :
    (List.range n).flatMap (quantGroup c x rm draw) =
      (List.range (10 * n)).map (fun i => (i, ((quantGroup c x rm draw (i / 10)).getD (i % 10) (0, 0)).2)) := by
  have hgroup (g : Nat) : quantGroup c x rm draw g =
      (List.range 10).map (fun i => (10 * g + i, ((quantGroup c x rm draw g).getD i (0, 0)).2)) :=
    List.ext_getElem (by simp [quantGroup]) fun i h1 h2 => by
      have hi : i < 10 := by simpa using h2
      simp [quantGroup, hi]
  induction n with
  | zero => rfl
  | succ n ih =>
    rw [List.range_succ, List.flatMap_append, ih, Nat.mul_succ, List.range_add, List.map_append, List.map_map, List.flatMap_singleton, hgroup n]
    refine congrArg _ (List.map_congr_left fun i hi => ?_)
    have hlt : i < 10 := List.mem_range.1 hi
    have hdiv : (10 * n + i) / 10 = n := by omega
    have hmod : (10 * n + i) % 10 = i := by omega
    simp only [Function.comp_apply, hdiv, hmod]

theorem exec_vquant {e : Ext} (hi : Issues (.vquant x) s) (he : extOf (.vquant x) = e) (hg : s.mine.grant % 64 = 0)
    (hd : s.drawsLeft e.rm (s.mine.active x.m).length) : ∃ t : State, exec (.vquant x) s = .next (t.completed (.vquant x)) ∧
    WritesLanes ((s.begun (.vquant x)).rolled e.rm (s.mine.active x.m).length) t x.vd.toNat
      (List.range (10 * (min s.mine.grant 128 / 64))) (fun i =>
        ((quantGroup s.mine x (rmOf e.rm) (fun k => s.roll e.rm (s.mine.rankOf x.m k)) (i / 10)).getD (i % 10) (0, 0)).2) := by
  subst he
  have hr := Reads.begun s (.vquant x)
  have hlt (j : Nat) (hj : j ∈ List.range (10 * (min s.mine.grant 128 / 64))) : j < 128 := by
    have := List.mem_range.1 hj
    omega
  refine issue_lanes hi ((State.rolled_cur ..).trans hr.cur) hlt ((hr.bind_myCtx_run _).trans ?_)
  refine (bind_run_of (trapIf_run_false (decide_eq_false (not_not_intro hg)) ..) <| bind_run_of (hr.drawsFor_run hd _) ?_)
  rw [← quantGroups_eq]
  rfl

/-! ### VMOV, VIDX, VINS, VCLAMP (R238) -/

theorem exec_vmov_literal {v : Word} (hi : Issues (.vmov x) s) (hv : formLit x.form = some v) :
    ∃ t : State, exec (.vmov x) s = .next (t.completed (.vmov x)) ∧
    WritesLanes (s.begun (.vmov x)) t x.vd.toNat (s.mine.active x.m) (fun _ => literalLane (tyBits (extOf (.vmov x)).ty.toNat) v) := by
  refine issue_activeLanes hi rfl ?_
  dsimp only
  rw [hv]
  exact bind_run_of (pure_run ..) ((Reads.begun s _).bind_myCtx_run _)

theorem exec_vmov_scalar (hi : Issues (.vmov x) s) (hv : formLit x.form = none) (hf : x.fn = 1)
    (ha : (s.begun (.vmov x)).pull (extOf (.vmov x)).c = (a, u)) : ∃ t : State, exec (.vmov x) s = .next (t.completed (.vmov x)) ∧
    WritesLanes u t x.vd.toNat (s.mine.active x.m) (fun _ => literalLane (tyBits (extOf (.vmov x)).ty.toNat) a) := by
  have hr := (Reads.begun s (.vmov x)).of_pull ha
  refine issue_activeLanes hi hr.cur ?_
  dsimp only
  rw [hv]
  dsimp only
  rw [if_pos hf]
  exact bind_run_of (bind_run_of (src_run_of ha) rfl) (hr.bind_myCtx_run _)

theorem exec_vmov_lane (hi : Issues (.vmov x) s) (hv : formLit x.form = none) (hf : x.fn ≠ 1) :
    ∃ t : State, exec (.vmov x) s = .next (t.completed (.vmov x)) ∧
    WritesLanes (s.begun (.vmov x)) t x.vd.toNat (s.mine.active x.m) (s.mine.lane x.va.toNat) := by
  refine issue_activeLanes hi rfl ?_
  dsimp only
  rw [hv]
  dsimp only
  rw [if_neg hf]
  exact bind_run_of (pure_run ..) ((Reads.begun s _).bind_myCtx_run _)

theorem exec_vidx (hi : Issues (.vidx x) s) (ha : (s.begun (.vidx x)).pull (extOf (.vidx x)).c = (a, u)) :
    ∃ t : State, exec (.vidx x) s = .next (t.completed (.vidx x)) ∧
    WritesLanes u t x.vd.toNat (s.mine.active x.m) (fun i =>
      laneOfElems (tyBits (extOf (.vidx x)).ty.toNat) ((List.range (32 / tyBits (extOf (.vidx x)).ty.toNat)).map (fun j =>
        (i * (32 / tyBits (extOf (.vidx x)).ty.toNat) + j + a.toNat) % 2 ^ tyBits (extOf (.vidx x)).ty.toNat))) := by
  have hr := (Reads.begun s (.vidx x)).of_pull ha
  exact issue_activeLanes hi hr.cur (bind_run_of (src_run_of ha) (hr.bind_myCtx_run _))

theorem exec_vins {w k : Nat} (hi : Issues (.vins x) s) (ha : (s.begun (.vins x)).pull (extOf (.vins x)).c = (a, u))
    (hw : tyBits (extOf (.vins x)).ty.toNat = w) (hk : (extOf (.vins x)).imm32.toNat = k) (hlt : k < s.mine.grant * (32 / w))
    (hg : s.mine.grant ≤ 128) : ∃ t : State, exec (.vins x) s = .next (t.completed (.vins x)) ∧
    WritesLanes u t x.vd.toNat [k / (32 / w)] (fun i => laneOfElems w ((List.range (32 / w)).map (fun j =>
      if j = k % (32 / w) then a.toNat % 2 ^ w else laneElem w (s.mine.lane x.vd.toNat i) j))) := by
  subst hw hk
  have hr := (Reads.begun s (.vins x)).of_pull ha
  have h128 : ∀ j ∈ [(extOf (.vins x)).imm32.toNat / (32 / tyBits (extOf (.vins x)).ty.toNat)], j < 128 := by
    intro j hj
    rw [List.mem_singleton.1 hj]
    exact (Nat.div_lt_of_lt_mul (Nat.mul_comm .. ▸ hlt)).trans_le hg
  refine issue_lanes hi hr.cur h128 (bind_run_of (src_run_of ha) ((hr.bind_myCtx_run _).trans ?_))
  exact bind_run_of (trapIf_run_false (decide_eq_false (Nat.not_le.2 hlt)) ..) rfl

theorem exec_vclamp {ty : Nat} (hi : Issues (.vclamp x) s) (ha : (s.begun (.vclamp x)).pull (extOf (.vclamp x)).c = (a, u))
    (hty : (extOf (.vclamp x)).ty.toNat = ty) : ∃ t : State, exec (.vclamp x) s = .next (t.completed (.vclamp x)) ∧
    WritesElems u t x.vd.toNat (tyBits ty) (s.mine.active x.m) (fun i j => minMaxElem ty false
      (minMaxElem ty true (laneElem (tyBits ty) (s.mine.lane x.va.toNat i) j) (a.toNat % 2 ^ tyBits ty)) (a.toNat / 2 ^ 32 % 2 ^ tyBits ty)) := by
  subst hty
  exact issue_elementwise (rounds := fun _ => false)
    (f := fun v _ _ k _ => minMaxElem v.e.ty.toNat false (minMaxElem v.e.ty.toNat true k (a.toNat % 2 ^ tyBits v.e.ty.toNat))
      (a.toNat / 2 ^ 32 % 2 ^ tyBits v.e.ty.toNat))
    (e := fun _ _ k _ => minMaxElem (extOf (.vclamp x)).ty.toNat false
      (minMaxElem (extOf (.vclamp x)).ty.toNat true k (a.toNat % 2 ^ tyBits (extOf (.vclamp x)).ty.toNat))
      (a.toNat / 2 ^ 32 % 2 ^ tyBits (extOf (.vclamp x)).ty.toNat))
    hi ((Reads.begun s _).of_pull ha) (bind_run_of (src_run_of ha) rfl) rfl rfl
    (fun h => absurd (show (0 : BitVec 3) = 5 from h) (by decide)) fun _ _ _ _ => rfl

/-! ### VSHUF, VROT, VBCAST (R240) -/

theorem exec_vshuf (hi : Issues (.vshuf x) s) : ∃ t : State, exec (.vshuf x) s = .next (t.completed (.vshuf x)) ∧
    WritesLanes (s.begun (.vshuf x)) t x.vd.toNat (s.mine.active x.m) (fun i =>
      if x.fn = 1 then shufBytes (s.mine.lane x.va.toNat i) (s.mine.laneB x (·.setWidth 32) i)
      else if (s.mine.laneB x (·.setWidth 32) i).toNat % 128 < s.mine.grant
        then s.mine.lane x.va.toNat ((s.mine.laneB x (·.setWidth 32) i).toNat % 128) else 0) :=
  issue_activeLanes hi rfl ((Reads.begun s _).bind_myCtx_run _)

theorem laneElem_shufBytes (a b : Lane) {t : Nat} (ht : t < 4) : laneElem 8 (shufBytes a b) t =
    if 128 ≤ laneElem 8 b t then 0 else laneElem 8 a (laneElem 8 b t % 4) := by
  refine (laneElem_laneOfElems_range (w := 8) _ ht).trans (Nat.mod_eq_of_lt ?_)
  dsimp only
  split
  · decide
  · exact laneElem_lt ..

theorem getD_rotLane (fn : BitVec 4) (ln k i : Nat) (f : Nat → Lane) : ((rotLane fn.toNat ln k i).map f).getD 0 =
    if fn = 0 then f ((i + k) % ln) else if fn = 1 then (if i + k < ln then f (i + k) else 0) else (if k ≤ i then f (i - k) else 0) := by
  by_cases h0 : fn = 0
  · rw [if_pos h0, code_toNat h0]
    rfl
  · by_cases h1 : fn = 1
    · rw [if_neg h0, if_pos h1, code_toNat h1]
      change ((if i + k < ln then some (i + k) else none).map f).getD 0 = _
      split
      · rfl
      · rfl
    · rw [if_neg h0, if_neg h1]
      have hn0 : fn.toNat ≠ 0 := fun h => h0 (BitVec.eq_of_toNat_eq h)
      have hn1 : fn.toNat ≠ 1 := fun h => h1 (BitVec.eq_of_toNat_eq h)
      unfold rotLane
      split
      · exact absurd ‹_› hn0
      · exact absurd ‹_› hn1
      · split
        · rfl
        · rfl

theorem exec_vrot (hi : Issues (.vrot x) s) (ha : (s.begun (.vrot x)).pull (extOf (.vrot x)).c = (a, u)) :
    ∃ t : State, exec (.vrot x) s = .next (t.completed (.vrot x)) ∧
    WritesLanes u t x.vd.toNat (s.mine.active x.m) (fun i =>
      ((rotLane x.fn.toNat s.mine.grant a.toNat i).map (s.mine.lane x.va.toNat)).getD 0) := by
  have hr := (Reads.begun s (.vrot x)).of_pull ha
  exact issue_activeLanes hi hr.cur (bind_run_of (src_run_of ha) (hr.bind_myCtx_run _))

theorem exec_vbcast (hi : Issues (.vbcast x) s) (ha : (s.begun (.vbcast x)).pull (extOf (.vbcast x)).c = (a, u))
    (h : (extOf (.vbcast x)).sub = 0 → a.toNat < s.mine.grant) : ∃ t : State, exec (.vbcast x) s = .next (t.completed (.vbcast x)) ∧
    WritesLanes u t x.vd.toNat (s.mine.active x.m) (fun i =>
      let g := 2 ^ (extOf (.vbcast x)).sub.toNat
      let j := if (extOf (.vbcast x)).sub = 0 then a.toNat else i / g * g + a.toNat % g
      if j < s.mine.grant then s.mine.lane x.va.toNat j else 0) := by
  have hr := (Reads.begun s (.vbcast x)).of_pull ha
  have htrap : (decide ((extOf (.vbcast x)).sub = 0) && decide (s.mine.grant ≤ a.toNat)) = false :=
    Bool.and_eq_false_imp.2 fun h0 => decide_eq_false (Nat.not_le.2 (h (of_decide_eq_true h0)))
  refine issue_activeLanes hi hr.cur (bind_run_of (src_run_of ha) ((hr.bind_myCtx_run _).trans ?_))
  exact bind_run_of (trapIf_run_false htrap ..) rfl

/-! ### VMATCH's count and VCOMP (R241, R242) -/

theorem exec_vmatch_count (hi : Issues (.vmatch x) s) (hf : x.fn = 2) : ∃ t : State,
    exec (.vmatch x) s = .next (t.completed (.vmatch x)) ∧
    WritesLanes (s.begun (.vmatch x)) t x.vd.toNat (s.mine.active x.m) (fun i => BitVec.ofNat 32 ((s.mine.active x.m).filter (fun j =>
      decide (j < i) && decide (s.mine.lane x.va.toNat j = s.mine.lane x.va.toNat i))).length) := by
  refine issue_activeLanes hi rfl (((Reads.begun s _).bind_myCtx_run _).trans ?_)
  rw [code_toNat hf]
  rfl

/-- VCOMP writes lanes and gives their number. -/
theorem exec_vcomp {lanes : List Nat} {f : Nat → Lane} (hi : Issues (.vcomp x) s) (hlt : ∀ j ∈ lanes, j < 128)
    (h : ((s.mine.activeIx x.m).map (fun e => if x.fn = 0 then (e.1, s.mine.lane x.va.toNat e.2) else (e.2, s.mine.lane x.va.toNat e.1))) =
      lanes.map (fun j => (j, f j))) :
    ∃ t : State,
      exec (.vcomp x) s = .next ((t.give (extOf (.vcomp x)).c (BitVec.ofNat 64 (s.mine.active x.m).length)).completed (.vcomp x)) ∧
      WritesLanes (s.begun (.vcomp x)) t x.vd.toNat lanes f := by
  refine ⟨(s.begun (.vcomp x)).withLanes x.vd.toNat (lanes.map (fun j => (j, f j))),
    issue_ok hi (((Reads.begun s _).bind_myCtx_run _).trans ?_) (State.give_cur ..), writesLanes_withLanes _ _ hlt f⟩
  dsimp only
  rw [h]
  refine bind_run_of (putLanes_run ..) ((dst_run ..).trans ?_)
  simp only [Ctx.activeIx, List.length_zip, List.length_range, Nat.min_self]
  rfl

theorem activeIx_eq_range (c : Ctx) (m : BitVec 3) :
    c.activeIx m = (List.range (c.active m).length).map (fun p => (p, (c.active m).getD p 0)) := by
  refine List.ext_getElem (by simp [Ctx.activeIx]) fun p h1 h2 => ?_
  have hp : p < (c.active m).length := by simpa using h2
  simp [Ctx.activeIx, hp]

end Lanes

/-- Settles O19: each instruction's lanes are those of its `exec_` lemma, and their elements those of `laneElem_laneOfElems_range`; VCVT and
VQUANT through the model's `cvtLane` and `quantGroup`, as the statement has them. -/
theorem vectorLanes_written : Obligations.VectorLanes := by
  intro s x
  refine ⟨exec_vsel, fun hi => ?_, fun hi => ?_, fun hi => ?_, fun hi => ?_, fun hi => ?_, fun hi => ?_, fun hi => ?_, fun hi => ?_,
    fun hi => ?_, fun hi => ?_, exec_vmatch_count, fun hi => ?_⟩
  · obtain ⟨t, ht, hw⟩ := exec_vdot4 hi
    exact ⟨t, ht, hw.congr fun i _ => dot4Lane_eq ..⟩
  · intro e rm n hd
    exact exec_vcvt hi rfl rfl rfl hd
  · intro e groups hg hd
    exact exec_vquant hi rfl hg hd
  · intro e w
    exact ⟨fun v hv => exec_vmov_literal hi hv, fun hv hf => exec_vmov_scalar hi hv hf rfl, fun hv hf => exec_vmov_lane hi hv hf⟩
  · intro e w k
    refine ⟨_, exec_vidx (a := k.1) (u := k.2) hi rfl, fun i _ j hj => ?_⟩
    rw [laneElem_laneOfElems_range _ hj, Nat.mod_mod]
  · intro e w k a hk hg
    refine ⟨_, exec_vins (a := a.1) (u := a.2) hi rfl rfl rfl hk hg, fun j hj => (laneElem_laneOfElems_range _ hj).trans (Nat.mod_eq_of_lt ?_)⟩
    split
    · exact Nat.mod_lt _ (Nat.two_pow_pos _)
    · exact laneElem_lt ..
  · intro e ty w a
    exact exec_vclamp (a := a.1) (u := a.2) hi rfl rfl
  · refine ⟨_, exec_vshuf hi, fun hf i => ?_, fun hf i t ht => ?_⟩
    · rw [if_neg hf]
      rfl
    · rw [if_pos hf]
      exact laneElem_shufBytes _ _ ht
  · intro a k
    obtain ⟨t, ht, hw⟩ := exec_vrot (a := a.1) (u := a.2) hi rfl
    exact ⟨t, ht, hw.congr fun i _ => getD_rotLane ..⟩
  · intro e a k
    refine ⟨fun h0 hk => ?_, fun h0 => ?_⟩
    · obtain ⟨t, ht, hw⟩ := exec_vbcast (a := a.1) (u := a.2) hi rfl fun _ => hk
      refine ⟨t, ht, hw.congr fun i _ => ?_⟩
      dsimp only
      rw [if_pos h0, if_pos hk]
    · obtain ⟨t, ht, hw⟩ := exec_vbcast (a := a.1) (u := a.2) hi rfl fun h => absurd h h0
      refine ⟨t, ht, hw.congr fun i _ => ?_⟩
      dsimp only
      rw [if_neg h0]
  · by_cases hf : x.fn = 0
    · obtain ⟨t, ht, hw⟩ := exec_vcomp (lanes := List.range (s.mine.active x.m).length)
        (f := fun p => s.mine.lane x.va.toNat ((s.mine.active x.m).getD p 0)) hi
        (fun j hj => (List.mem_range.1 hj).trans_le (Ctx.length_active_le ..)) (by
          rw [activeIx_eq_range, List.map_map]
          exact List.map_congr_left fun p _ => if_pos hf)
      exact ⟨t, ht, fun _ => hw, fun h => absurd hf h⟩
    · obtain ⟨t, ht, hw⟩ := exec_vcomp (lanes := s.mine.active x.m) (f := fun i => s.mine.lane x.va.toNat (s.mine.rankOf x.m i)) hi
        (fun _ => Ctx.lt_of_mem_active) (by
          rw [Ctx.activeIx_eq, List.map_map]
          exact List.map_congr_left fun i _ => if_neg hf)
      exact ⟨t, ht, fun h => absurd h hf, fun _ => hw⟩

end Sys2Proof.Machine
end

section
/-! Vector loads and stores of local memory (R287, R288, R245). -/
namespace Sys2Proof.Machine
-- Elaborated one after another, so that threads that wait for one another do not use up the memory.
set_option Elab.async false

/-! ### Reading and writing lanes (R287) -/

/-- Lanes of several registers, written one after the other in the order of the list: register, lane and value (R245, R287). -/
def State.withLanesOf (s : State) (ls : List (Nat × Nat × Lane)) : State := ls.foldl (fun s e => s.onMine (·.setLane e.1 e.2.1 e.2.2)) s

theorem State.withLanesOf_append (s : State) (ls : List (Nat × Nat × Lane)) (k i : Nat) (x : Lane) :
    (s.withLanesOf ls).onMine (·.setLane k i x) = s.withLanesOf (ls ++ [(k, i, x)]) := by
  rw [State.withLanesOf, State.withLanesOf, List.foldl_append, List.foldl_cons, List.foldl_nil]

theorem State.withLanesOf_mine (s : State) (ls : List (Nat × Nat × Lane)) :
    (s.withLanesOf ls).mine = ls.foldl (fun c e => c.setLane e.1 e.2.1 e.2.2) s.mine := by
  induction ls generalizing s with
  | nil => rfl
  | cons e ls ih => exact (ih _).trans (congrArg (ls.foldl _) (State.mine_onMine ..))

theorem OnlyMine.refl (s : State) : OnlyMine s s := ⟨rfl, fun _ _ => rfl, rfl, fun _ _ => rfl⟩

theorem OnlyMine.onMine {s t : State} (h : OnlyMine s t) (f : Ctx → Ctx) : OnlyMine s (t.onMine f) := by
  obtain ⟨hu, hg, hc, hk⟩ := h
  have hcur : t.cur = s.cur := by rw [hu]
  obtain ⟨hu', hg', hc', hk'⟩ := onlyMine_onMine t f
  rw [hcur] at hg' hc' hk'
  refine ⟨by rw [hu', hu], fun g h => (hg' g h).trans (hg g h), by rw [hc', hc], fun k h => (hk' k h).trans (hk k h)⟩

theorem State.onlyMine_withLanesOf {s t : State} (h : OnlyMine s t) (ls : List (Nat × Nat × Lane)) : OnlyMine s (t.withLanesOf ls) := by
  induction ls generalizing t with
  | nil => exact h
  | cons e ls ih => exact ih (h.onMine _)

theorem State.withLanesOf_cur (s : State) (ls : List (Nat × Nat × Lane)) : (s.withLanesOf ls).cur = s.cur := by
  obtain ⟨hu, -⟩ := State.onlyMine_withLanesOf (OnlyMine.refl s) ls
  rw [hu]

theorem Ctx.foldl_setLaneOf_eq (c : Ctx) (ls : List (Nat × Nat × Lane)) : ls.foldl (fun c e => c.setLane e.1 e.2.1 e.2.2) c =
    { c with v := (ls.foldl (fun c e => c.setLane e.1 e.2.1 e.2.2) c).v } := by
  induction ls generalizing c with
  | nil => rfl
  | cons e ls ih => rw [List.foldl_cons, ih]; rfl

/-- What lanes hold after they are written, where the value depends on register and lane only. -/
theorem Ctx.lane_foldl_setLaneOf (c : Ctx) {l : List (Nat × Nat)} (hlt : ∀ e ∈ l, e.2 < 128) (f : Nat → Nat → Lane) {k i : Nat}
    (hi : i < 128) : ((l.map (fun e => (e.1, e.2, f e.1 e.2))).foldl (fun c e => c.setLane e.1 e.2.1 e.2.2) c).lane k i =
      if (k, i) ∈ l then f k i else c.lane k i := by
  induction l generalizing c with
  | nil => simp
  | cons a l ih =>
    rw [List.map_cons, List.foldl_cons, ih _ fun e he => hlt e (List.mem_cons_of_mem _ he)]
    by_cases hin : (k, i) ∈ l
    · rw [if_pos hin, if_pos (List.mem_cons_of_mem _ hin)]
    · rw [if_neg hin]
      by_cases ha : k = a.1 ∧ i = a.2
      · have hmem : (k, i) ∈ a :: l := by rw [ha.1, ha.2]; exact List.mem_cons_self
        rw [if_pos hmem]
        obtain ⟨rfl, rfl⟩ := ha
        exact Ctx.lane_setLane ..
      · rw [Ctx.lane_setLane_other c _ (hlt a List.mem_cons_self) hi ha, if_neg]
        intro hmem
        rcases List.mem_cons.1 hmem with rfl | hmem
        · exact ha ⟨rfl, rfl⟩
        · exact hin hmem

section Loads
variable {s : State} {ty vd win bw div : Nat}

/-- A step that each lane of a list takes, each one's value written once all have been read. -/
theorem loadLanes_run {α : Type} (acts : List α) (lane : α → Nat) (at_ : α → Nat × Word × Nat) (u : α → Nat)
    (h : ∀ e ∈ acts, Does (windowGet (at_ e).1 (at_ e).2.2 ty 4 (at_ e).2.1) s (u e) s) :
    (loadLanes ty vd (acts.map (fun e => (lane e, at_ e)))).run s =
      .ok ((), s.withLanesOf ((acts.map (fun e => (vd, lane e, BitVec.ofNat 32 (u e)))).reverse)) := by
  induction acts with
  | nil => rfl
  | cons e r ih =>
    rw [List.map_cons, List.map_cons, List.reverse_cons, ← State.withLanesOf_append]
    exact bind_run_of (h e List.mem_cons_self) <| bind_run_of (ih fun e he => h e (List.mem_cons_of_mem _ he)) (onMyCtx_run ..)

theorem loadTx_run (elems : List (Nat × Nat × Nat)) (u : Nat → Nat → List Byte)
    (h : ∀ e ∈ elems, Does (localGet e.2.2 bw (BitVec.ofNat 64 (win * 65536 + e.2.2 * div))) s (u e.1 e.2.1) s) :
    (loadTx win bw div vd elems).run s =
      .ok ((), s.withLanesOf ((elems.map (fun e => (vd + e.2.1, e.1, ldtxLane win (u e.1 e.2.1)))).reverse)) := by
  induction elems with
  | nil => rfl
  | cons e r ih =>
    rw [List.map_cons, List.reverse_cons, ← State.withLanesOf_append]
    exact bind_run_of (h e List.mem_cons_self) <| bind_run_of (ih fun e he => h e (List.mem_cons_of_mem _ he)) (onMyCtx_run ..)

/-- The address only names the place of an error (R409). -/
theorem localGet_of_tval {off n : Nat} {la : Word} {bs : List Byte} {t : State} (h : Does (localGet off n la) s bs t) (la' : Word) :
    Does (localGet off n la') s bs t := by
  by_cases hb : (List.range n).any (fun i => s.bankBusy s.cur.1 (bankOf (off + i))) = true
  · have hwait : (localGet off n la).run s = .error (.wait id) := bind_run_of (get_run s) (ite_run_pos hb rfl)
    exact absurd (hwait.symm.trans h) (by simp)
  · by_cases hbad : (s.retagAll s.cur.1 (s.ownerOf s.cur.1 s.cur.2) off n).localBad s.cur.1 off n = true
    · have htrap : (localGet off n la).run s = .error (.trap _) :=
        bind_run_of (get_run s) (ite_run_neg hb (trapIf_bind_run_true hbad ..))
      exact absurd (htrap.symm.trans h) (by simp)
    · have hok (la : Word) : (localGet off n la).run s = .ok (_, s.retagAll s.cur.1 (s.ownerOf s.cur.1 s.cur.2) off n) :=
        bind_run_of (get_run s) <| ite_run_neg hb <| bind_run_of (trapIf_run_false (Bool.eq_false_iff.2 hbad) ..) <|
          bind_run_of (set_run ..) rfl
      exact (hok la').trans ((hok la).symm.trans h)

end Loads

theorem State.lane_withLanesOf (s : State) {l : List (Nat × Nat)} (hlt : ∀ e ∈ l, e.2 < 128) (f : Nat → Nat → Lane) {k i : Nat}
    (hi : i < 128) : (s.withLanesOf ((l.map (fun e => (e.1, e.2, f e.1 e.2))).reverse)).mine.lane k i =
      if (k, i) ∈ l then f k i else s.mine.lane k i := by
  rw [State.withLanesOf_mine, ← List.map_reverse, Ctx.lane_foldl_setLaneOf _ (fun e he => hlt e (List.mem_reverse.1 he)) f hi]
  simp only [List.mem_reverse]

/-- Lanes of one register, the last first. -/
theorem writesLanes_withLanesOf (s : State) (vd : Nat) {lanes : List Nat} (hlt : ∀ i ∈ lanes, i < 128) (f : Nat → Lane) :
    WritesLanes s (s.withLanesOf ((lanes.map (fun i => (vd, i, f i))).reverse)) vd lanes f := by
  refine ⟨State.onlyMine_withLanesOf (OnlyMine.refl s) _, ?_, fun k i _ hi => ?_⟩
  · rw [State.withLanesOf_mine]
    exact Ctx.foldl_setLaneOf_eq ..
  · have hmem : (k, i) ∈ lanes.map (fun i => (vd, i)) ↔ k = vd ∧ i ∈ lanes := by
      simp only [List.mem_map, Prod.mk.injEq]
      exact ⟨fun ⟨j, hj, hk, he⟩ => ⟨hk.symm, he ▸ hj⟩, fun ⟨hk, hj⟩ => ⟨i, hj, hk.symm, rfl⟩⟩
    have h := s.lane_withLanesOf (l := lanes.map (fun i => (vd, i)))
      (fun e he => by obtain ⟨j, hj, rfl⟩ := List.mem_map.1 he; exact hlt j hj) (fun _ i => f i) (k := k) hi
    rw [List.map_map] at h
    simp only [hmem] at h
    exact h

/-! ### The checks of the lanes (R287, R288) -/

section Checks
variable {s : State} {la : Word} {win : Nat} {store gather : Bool} {lanes : List (Word × Nat)}

theorem checkLocal_run (hla : la.toNat < 2 ^ 19) (hwin : winOf la < 6) : (checkLocal la).run s = .ok ((), s) :=
  bind_run_of (trapIf_run_false (decide_eq_false (Nat.not_le.2 hla)) ..) <| trapIf_run_false (decide_eq_false (Nat.not_le.2 hwin)) ..

theorem checkLanes_run (halign : la.toNat % 4 = 0) (hgather : (store && gather && decide (win = 1)) = false)
    (hstore : (store && decide (win = 2)) = false)
    (h : ∀ l ∈ lanes, ∀ b ∈ windowBytes win l.2 4, b < 65536 ∧ (s.core s.cur.1).mode (bankOf b) = 0) :
    (checkLanes win store gather la lanes).run s = .ok ((), s) := by
  have hwraps : lanes.find? (fun l => wraps win l.2 4) = none :=
    List.find?_eq_none.2 fun l hl => by simpa [wraps] using fun b hb => (h l hl b hb).1
  have hspad : lanes.find? (fun l => ((s.core s.cur.1).notSpad (windowBytes win l.2 4)).isSome) = none :=
    List.find?_eq_none.2 fun l hl => by
      rw [show (s.core s.cur.1).notSpad (windowBytes win l.2 4) = none from
        List.find?_eq_none.2 fun b hb => by simpa using (h l hl b hb).2]
      simp
  unfold checkLanes
  dsimp only
  rw [hwraps]
  refine bind_run_of (pure_run ..) <| bind_run_of (trapIf_run_false (by rw [hgather]; simpa using halign) ..) <|
    bind_run_of (myCore_run s) ?_
  rw [hspad]
  exact bind_run_of (pure_run ..) <| trapIf_run_false hstore ..

/-- What a lane of a gather or scatter must satisfy (R288). -/
def GatherOk (s : State) (v : Env) (store : Bool) (la : Word) : Prop :=
  la.toNat < 2 ^ 19 ∧ winOf la < 6 ∧ (store = true → winOf la ≠ 1 ∧ winOf la ≠ 2) ∧ laneFieldsBad v (winOf la) false = false
    ∧ la.toNat % 4 = 0 ∧ ∀ b ∈ windowBytes (winOf la) (offOf la) 4, b < 65536 ∧ (s.core s.cur.1).mode (bankOf b) = 0

theorem checkGather_run {v : Env} (l : List (Nat × Word)) (h : ∀ e ∈ l, GatherOk s v store e.2) :
    (checkGather v store l).run s = .ok ((), s) := by
  induction l with
  | nil => rfl
  | cons e r ih =>
    obtain ⟨hla, hwin, hst, hf, halign, hb⟩ := h e List.mem_cons_self
    have hplane : ∀ w, w = 1 ∨ w = 2 → (store && decide (winOf e.2 = w)) = false := fun w hw =>
      Bool.and_eq_false_imp.2 fun hs => decide_eq_false fun he => by
        rcases hw with rfl | rfl
        · exact (hst hs).1 he
        · exact (hst hs).2 he
    refine bind_run_of (checkLocal_run hla hwin) <| bind_run_of (trapIf_run_false hf ..) <|
      bind_run_of (checkLanes_run halign ?_ (hplane 2 (.inr rfl)) ?_) (ih fun e he => h e (List.mem_cons_of_mem _ he))
    · rw [Bool.and_true]
      exact hplane 1 (.inl rfl)
    · intro l hl
      rw [List.mem_singleton.1 hl]
      exact hb

end Checks

/-! ### VLDL, VGATHL and LDTX -/

theorem zip_map_self {α β : Type} (l : List α) (f : α → β) : l.zip (l.map f) = l.map (fun a => (a, f a)) := by
  induction l with
  | nil => rfl
  | cons a l ih => rw [List.map_cons, List.zip_cons_cons, ih, List.map_cons]

section Exec
variable {s sa : State} {x : VFields} {a la : Word} {v : Env}

theorem exec_vldl {u : Nat → Nat} (hi : Issues (.vldl x) s) (hv : envOf s s.cur.1 s.cur.2 (.vldl x) = v)
    (ha : (s.begun (.vldl x)).pull v.e.c = (a, sa)) (hla : a + v.e.imm32.signExtend 64 = la) (hlt : la.toNat < 2 ^ 19) (hwin : winOf la < 6)
    (hf : laneFieldsBad v (winOf la) false = false) (halign : la.toNat % 4 = 0)
    (hb : ∀ l ∈ laneAddrs la v.e.f2 (sa.mine.active x.m), ∀ b ∈ windowBytes (winOf la) l.2 4,
      b < 65536 ∧ (sa.core sa.cur.1).mode (bankOf b) = 0)
    (hget : ∀ i ∈ sa.mine.active x.m, Does (windowGet (winOf la) (offOf la + (if v.e.f2 then 512 else 4) * i) v.e.ty.toNat 4
      (la + BitVec.ofNat 64 ((if v.e.f2 then 512 else 4) * i))) sa (u i) sa) :
    ∃ t, exec (.vldl x) s = .next (t.completed (.vldl x))
      ∧ WritesLanes sa t x.vd.toNat (sa.mine.active x.m) (fun i => BitVec.ofNat 32 (u i)) := by
  subst hv hla
  have hr := (Reads.begun s (.vldl x)).of_pull ha
  refine ⟨_, issue_ok hi (bind_run_of (src_run_of ha) <| bind_run_of (checkLocal_run hlt hwin) <| bind_run_of (trapIf_run_false hf ..) <|
    bind_run_of (myCtx_run _) <| bind_run_of (checkLanes_run halign rfl rfl hb) ?_) ((State.withLanesOf_cur ..).trans hr.cur),
    writesLanes_withLanesOf sa _ (fun _ => Ctx.lt_of_mem_active) _⟩
  rw [laneAddrs, zip_map_self, List.map_map]
  exact loadLanes_run (sa.mine.active x.m) id _ u hget

theorem exec_vgathl {u : Nat → Nat} {addr : Nat → Word} (hi : Issues (.vgathl x) s) (hv : envOf s s.cur.1 s.cur.2 (.vgathl x) = v)
    (ha : (s.begun (.vgathl x)).pull v.e.c = (a, sa))
    (hla : (fun i => a + v.e.imm32.signExtend 64 + (sa.mine.laneB x (·.setWidth 32) i).setWidth 64) = addr)
    (hok : ∀ i ∈ sa.mine.active x.m, GatherOk sa v false (addr i))
    (hget : ∀ i ∈ sa.mine.active x.m, Does (windowGet (winOf (addr i)) (offOf (addr i)) v.e.ty.toNat 4 (addr i)) sa (u i) sa) :
    ∃ t, exec (.vgathl x) s = .next (t.completed (.vgathl x))
      ∧ WritesLanes sa t x.vd.toNat (sa.mine.active x.m) (fun i => BitVec.ofNat 32 (u i)) := by
  subst hv hla
  have hr := (Reads.begun s (.vgathl x)).of_pull ha
  refine ⟨_, issue_ok hi (bind_run_of (src_run_of ha) <| bind_run_of (myCtx_run _) <| bind_run_of (checkGather_run _ ?_) ?_)
    ((State.withLanesOf_cur ..).trans hr.cur), writesLanes_withLanesOf sa _ (fun _ => Ctx.lt_of_mem_active) _⟩
  · intro e he
    obtain ⟨i, hi', rfl⟩ := List.mem_map.1 he
    exact hok i hi'
  · rw [gatherLanes, List.map_map]
    exact loadLanes_run (sa.mine.active x.m) id _ u hget

/-- The elements that LDTX loads: lane, register offset and local byte offset (R245). -/
def txElems (act : List Nat) (n bw : Nat) (off : Nat → Nat) : List (Nat × Nat × Nat) :=
  act.flatMap (fun i => (List.range n).map (fun k => (i, k, off i + k * bw)))

theorem mem_txElems {act : List Nat} {n bw vd r i : Nat} {off : Nat → Nat} :
    (r, i) ∈ (txElems act n bw off).map (fun e => (vd + e.2.1, e.1)) ↔ vd ≤ r ∧ r < vd + n ∧ i ∈ act := by
  simp only [txElems, List.map_flatMap, List.mem_flatMap, List.mem_map, List.mem_range, List.map_map, Function.comp_apply, Prod.mk.injEq]
  refine ⟨fun ⟨j, hj, k, hk, hr, he⟩ => ⟨by omega, by omega, he ▸ hj⟩, fun ⟨hl, hu, hj⟩ => ⟨i, hj, r - vd, by omega, by omega, rfl⟩⟩

theorem exec_ldtx {u : Nat → Nat → List Byte} {w div n : Nat} {off : Nat → Nat} (hi : Issues (.ldtx x) s) (hv : envOf s s.cur.1 s.cur.2 (.ldtx x) = v)
    (ha : (s.begun (.ldtx x)).pull v.e.c = (a, sa)) (hla : a + v.e.imm32.signExtend 64 = la) (hw : winOf la = w)
    (hdiv : (if w = 0 then 1 else if w = 4 then 2 else 4) = div) (hn : v.e.sub.toNat + 1 = n)
    (hoff : (fun i => (offOf la / div / 512 + i) % 128 * 512 + offOf la / div % 512) = off) (hlt : la.toNat < 2 ^ 19)
    (hwin : w = 0 ∨ w = 4 ∨ w = 5) (halign : la.toNat % 4 = 0) (hfit : offOf la / div % 512 + n * (4 / div) ≤ 512)
    (hmode : ∀ i ∈ sa.mine.active x.m, (sa.core sa.cur.1).mode ((offOf la / div / 512 + i) % 128) = 0)
    (hget : ∀ i ∈ sa.mine.active x.m, ∀ k, k < n → Does (localGet (off i + k * (4 / div)) (4 / div) la) sa (u i k) sa) :
    exec (.ldtx x) s = .next ((sa.withLanesOf (((txElems (sa.mine.active x.m) n (4 / div) off).map
      (fun e => (x.vd.toNat + e.2.1, e.1, ldtxLane w (u e.1 e.2.1)))).reverse)).completed (.ldtx x)) := by
  have hloads : ∀ e ∈ txElems (sa.mine.active x.m) n (4 / div) off,
      Does (localGet e.2.2 (4 / div) (BitVec.ofNat 64 (w * 65536 + e.2.2 * div))) sa (u e.1 e.2.1) sa := by
    intro e he
    obtain ⟨i, hi, he⟩ := List.mem_flatMap.1 he
    obtain ⟨k, hk, rfl⟩ := List.mem_map.1 he
    exact localGet_of_tval (hget i hi k (List.mem_range.1 hk)) _
  have hbad : (!(decide (w = 0) || decide (w = 4) || decide (w = 5))) = false := by
    rcases hwin with rfl | rfl | rfl <;> rfl
  have hfind : (sa.mine.active x.m).find? (fun i => (sa.core sa.cur.1).mode ((offOf la / div / 512 + i) % 128) ≠ 0) = none :=
    List.find?_eq_none.2 fun i hi => by simpa using hmode i hi
  have hlocal : winOf la < 6 := by omega
  have hr := (Reads.begun s (.ldtx x)).of_pull ha
  subst hv hla hw hdiv hn hoff
  refine issue_ok hi (bind_run_of (src_run_of ha) <| bind_run_of (checkLocal_run hlt hlocal) <| bind_run_of (trapIf_run_false hbad ..) <|
    bind_run_of (trapIf_run_false (decide_eq_false (not_not_intro halign)) ..) <|
    bind_run_of (trapIf_run_false (decide_eq_false (Nat.not_lt.2 hfit)) ..) <| bind_run_of (myCtx_run _) <| bind_run_of (myCore_run _) ?_)
    ((State.withLanesOf_cur ..).trans hr.cur)
  dsimp only
  rw [hfind]
  exact loadTx_run _ u hloads

theorem lane_withTx (vd n bw w : Nat) (act : List Nat) (off : Nat → Nat) (u : Nat → Nat → List Byte) (hact : ∀ i ∈ act, i < 128) {r i : Nat}
    (hi : i < 128) :
    (sa.withLanesOf (((txElems act n bw off).map (fun e => (vd + e.2.1, e.1, ldtxLane w (u e.1 e.2.1)))).reverse)).mine.lane r i =
      if vd ≤ r ∧ r < vd + n ∧ i ∈ act then ldtxLane w (u i (r - vd)) else sa.mine.lane r i := by
  have hlt : ∀ e ∈ (txElems act n bw off).map (fun e => (vd + e.2.1, e.1)), e.2 < 128 := fun e he =>
    hact e.2 (mem_txElems.1 he).2.2
  have h := sa.lane_withLanesOf hlt (fun r i => ldtxLane w (u i (r - vd))) (k := r) hi
  simp only [mem_txElems, List.map_map, Function.comp_def, Nat.add_sub_cancel_left] at h
  exact h

/-! ### VSTL and VSCATL -/

theorem exec_vstl {u : State} {w : Nat} {off : Nat → Nat} (hu : u.cur = s.cur) (hi : Issues (.vstl x) s)
    (hv : envOf s s.cur.1 s.cur.2 (.vstl x) = v) (ha : (s.begun (.vstl x)).pull v.e.c = (a, sa)) (hla : a + v.e.imm32.signExtend 64 = la)
    (hw : winOf la = w) (hoff : (fun i => offOf la + (if v.e.f2 then 512 else 4) * i) = off) (hlt : la.toNat < 2 ^ 19) (hwin : w < 6)
    (hf : laneFieldsBad v w true = false) (h1 : w ≠ 1) (h2 : w ≠ 2) (halign : la.toNat % 4 = 0)
    (hb : ∀ i ∈ sa.mine.active x.m, ∀ b ∈ windowBytes w (off i) 4, b < 65536 ∧ (sa.core sa.cur.1).mode (bankOf b) = 0)
    (hd : s.drawsLeft v.e.rm ((sa.mine.active x.m).length * windowDraws w 4))
    (hst : Does (storeLanes v.e.ty.toNat (rmOf v.e.rm) (s.roll v.e.rm) 0
      ((sa.mine.active x.m).map (fun i => (w, off i, sa.mine.lane x.va.toNat i))))
      (sa.rolled v.e.rm ((sa.mine.active x.m).length * windowDraws w 4)) () u) :
    exec (.vstl x) s = .next (u.completed (.vstl x)) := by
  subst hv hla hw hoff
  have hr := (Reads.begun s (.vstl x)).of_pull ha
  refine issue_ok hi (bind_run_of (src_run_of ha) <| bind_run_of (checkLocal_run hlt hwin) <| bind_run_of (trapIf_run_false hf ..) <|
    ite_run_neg h1 <| bind_run_of (myCtx_run _) <| bind_run_of (checkLanes_run halign rfl (decide_eq_false h2) ?_) <|
    bind_run_of (hr.drawsFor_run hd _) ?_) hu
  · intro l hl
    obtain ⟨i, hi', rfl⟩ := List.mem_map.1 hl
    exact hb i hi'
  · rw [laneAddrs, zip_map_self, List.map_map]
    exact hst

theorem exec_vstl_planes {u : State} {es : List (Bool × Nat × Int)} {p : Nat} (hu : u.cur = s.cur) (hi : Issues (.vstl x) s)
    (hv : envOf s s.cur.1 s.cur.2 (.vstl x) = v) (ha : (s.begun (.vstl x)).pull v.e.c = (a, sa)) (hla : a + v.e.imm32.signExtend 64 = la)
    (hlt : la.toNat < 2 ^ 19) (h1 : winOf la = 1) (hf : laneFieldsBad v 1 true = false)
    (hes : planeElems sa.mine x.va.toNat v.e.ty.toNat (sa.mine.active x.m) = es) (hp : v.e.sub.toNat % 16 + 1 = p)
    (hfit : offOf la + es.length / 64 * (8 * (p + 2)) ≤ 65536) (halign : la.toNat % 8 = 0) (h64 : 64 ≤ es.length) (hm : es.length % 64 = 0)
    (hmode : ∀ b, b < es.length / 64 * (8 * (p + 2)) → (sa.core sa.cur.1).mode (bankOf (offOf la + b)) = 0)
    (hst : Does (localPut (offOf la) (slabRecords p (v.e.sat && !tyFloat v.e.ty.toNat) (es.length / 64) es)) sa () u) :
    exec (.vstl x) s = .next (u.completed (.vstl x)) := by
  have hspad : (sa.core sa.cur.1).notSpad ((List.range (es.length / 64 * (8 * (p + 2)))).map (offOf la + ·)) = none :=
    List.find?_eq_none.2 fun o ho => by
      obtain ⟨b, hb, rfl⟩ := List.mem_map.1 ho
      simpa using hmode b (List.mem_range.1 hb)
  have hbad : (decide (la.toNat % 8 ≠ 0) || decide (es.length / 64 = 0) || decide (es.length % 64 ≠ 0)) = false := by
    simp only [Bool.or_eq_false_iff, decide_eq_false_iff_not]
    omega
  subst hv hla hes hp
  refine issue_ok hi (bind_run_of (src_run_of ha) <| bind_run_of (checkLocal_run hlt (by omega)) <|
    bind_run_of (trapIf_run_false (by rw [h1]; exact hf) ..) <| ite_run_pos h1 <| bind_run_of (myCtx_run _) <|
    bind_run_of (trapIf_run_false (decide_eq_false (Nat.not_lt.2 hfit)) ..) <| bind_run_of (trapIf_run_false hbad ..) <|
    bind_run_of (myCore_run _) ?_) hu
  rw [hspad]
  exact hst

theorem exec_vscatl {u : State} {addr : Nat → Word} {n : Nat} (hu : u.cur = s.cur) (hi : Issues (.vscatl x) s)
    (hv : envOf s s.cur.1 s.cur.2 (.vscatl x) = v) (ha : (s.begun (.vscatl x)).pull v.e.c = (a, sa))
    (hla : (fun i => a + v.e.imm32.signExtend 64 + (sa.mine.laneB x (·.setWidth 32) i).setWidth 64) = addr)
    (hn : ((sa.mine.active x.m).map (fun i => windowDraws (winOf (addr i)) 4)).sum = n)
    (hok : ∀ i ∈ sa.mine.active x.m, GatherOk sa v true (addr i)) (hd : s.drawsLeft v.e.rm n)
    (hst : Does (storeLanes v.e.ty.toNat (rmOf v.e.rm) (s.roll v.e.rm) 0
      ((sa.mine.active x.m).map (fun i => (winOf (addr i), offOf (addr i), sa.mine.lane x.va.toNat i)))) (sa.rolled v.e.rm n) () u) :
    exec (.vscatl x) s = .next (u.completed (.vscatl x)) := by
  subst hv hla hn
  have hr := (Reads.begun s (.vscatl x)).of_pull ha
  refine issue_ok hi (bind_run_of (src_run_of ha) <| bind_run_of (myCtx_run _) <| bind_run_of (checkGather_run _ ?_) ?_) hu
  · intro e he
    obtain ⟨i, hi', rfl⟩ := List.mem_map.1 he
    exact hok i hi'
  · rw [gatherLanes, List.map_map, List.map_map]
    exact bind_run_of (hr.drawsFor_run hd _) hst

end Exec

/-! ### The statement -/

/-- A bank's mode as reading operands leaves it. -/
theorem ReadsCores.mode {s t : State} (h : ReadsCores s t) (g b : Nat) : (t.core g).mode b = (s.core g).mode b :=
  h.congr (Core.mode · b) g

theorem localVectorLoads : LocalVectorLoads := by
  intro s x
  refine ⟨?_, ?_, ?_⟩
  · intro hi e a la w act off at_ u hlt hwin hf halign h
    have hr := (Reads.begun s (.vldl x)).pull e.c
    have hc := (ReadsCores.begun s (.vldl x)).pull e.c
    refine exec_vldl (a := a.1) (sa := a.2) hi rfl rfl rfl hlt hwin hf halign ?_ fun i hi => (h i hi).2
    intro l hl b hb
    obtain ⟨i, hi, rfl⟩ := List.mem_map.1 hl
    rw [hr.cur, hc.mode]
    exact (h i hi).1 b hb
  · intro hi e a act la u h
    have hr := (Reads.begun s (.vgathl x)).pull e.c
    have hc := (ReadsCores.begun s (.vgathl x)).pull e.c
    refine exec_vgathl (a := a.1) (sa := a.2) hi rfl rfl rfl (fun i hi => ?_) fun i hi => (h i hi).2.2.2.2.2
    obtain ⟨hlt, hwin, hf, halign, hb, -⟩ := h i hi
    refine ⟨hlt, hwin, fun h => absurd h Bool.false_ne_true, hf, halign, fun b hm => ?_⟩
    rw [hr.cur, hc.mode]
    exact hb b hm
  · intro hi e a la w div n act off u hlt hwin halign hfit h
    have hr := (Reads.begun s (.ldtx x)).pull e.c
    have hc := (ReadsCores.begun s (.ldtx x)).pull e.c
    refine ⟨_, exec_ldtx (a := a.1) (sa := a.2) (u := u) (off := fun i => off i 0) hi rfl rfl rfl rfl rfl rfl ?_ hlt hwin halign hfit
      (fun i hi => ?_) fun i hi k hk => ?_, State.onlyMine_withLanesOf (OnlyMine.refl a.2) _, ?_, fun r i _ h128 => ?_⟩
    · simp only [off, Nat.zero_mul, Nat.add_zero]
      rfl
    · rw [hr.cur, hc.mode]
      exact (h i hi).1
    · simp only [off, Nat.zero_mul, Nat.add_zero]
      exact (h i hi).2 k hk
    · rw [State.withLanesOf_mine]
      exact Ctx.foldl_setLaneOf_eq ..
    · exact lane_withTx _ _ _ _ _ _ u (fun _ => Ctx.lt_of_mem_active) h128

theorem localVectorStores : LocalVectorStores := by
  intro s u x hu
  refine ⟨?_, ?_⟩
  · intro hi e a la w act off hlt hwin hf
    have hr := (Reads.begun s (.vstl x)).pull e.c
    have hc := (ReadsCores.begun s (.vstl x)).pull e.c
    refine ⟨fun h1 h2 halign hb hd hst => ?_, fun h1 => ?_⟩
    · refine exec_vstl (a := a.1) (sa := a.2) hu hi rfl rfl rfl rfl rfl hlt hwin hf h1 h2 halign (fun i hi b hm => ?_) hd hst
      rw [hr.cur, hc.mode]
      exact hb i hi b hm
    · intro es p size hfit halign h64 hm hmode hst
      refine exec_vstl_planes (a := a.1) (sa := a.2) hu hi rfl rfl rfl hlt h1 (by rw [← h1]; exact hf) rfl rfl hfit halign h64 hm
        (fun b hb => ?_) hst
      rw [hr.cur, hc.mode]
      exact hmode b hb
  · intro hi e a act la n h hd hst
    have hr := (Reads.begun s (.vscatl x)).pull e.c
    have hc := (ReadsCores.begun s (.vscatl x)).pull e.c
    refine exec_vscatl (a := a.1) (sa := a.2) hu hi rfl rfl rfl rfl (fun i hi => ?_) hd hst
    obtain ⟨hlt, hwin, h1, h2, hf, halign, hb⟩ := h i hi
    refine ⟨hlt, hwin, fun _ => ⟨h1, h2⟩, hf, halign, fun b hm => ?_⟩
    rw [hr.cur, hc.mode]
    exact hb b hm

/-- Settles O8: the loads (`localVectorLoads`) and the stores (`localVectorStores`). -/
theorem localVectors : Obligations.LocalVectors := ⟨localVectorLoads, localVectorStores⟩

end Sys2Proof.Machine
end

section
/-! Streams' ends: truncation, return, retirement, join groups and migration (R474, R476, R480-R487). -/
namespace Sys2Proof.Machine
-- Elaborated one after another, so that threads that wait for one another do not use up the memory.
set_option Elab.async false

/-! ### What a descriptor step leaves (R480) -/

section Stepped
variable (s : State) (n : Nat)

theorem State.stepped_units : s.stepped n = { s with
    lines := (s.stepped n).lines, dev := (s.stepped n).dev, cores := (s.stepped n).cores, streams := (s.stepped n).streams } := by
  rw [State.stepped_eq, State.released, State.descPlaced_eq]
  rfl

theorem State.stream_released (m : Nat) : (s.released n).stream m = s.stream m := by
  rw [State.released, State.descPlaced_eq]
  rfl

/-- The step clock takes the step's time. -/
theorem State.stream_stepped : (s.stepped n).stream n = (s.stream n).stamp (s.descPlaced n).2 := by
  rw [State.stepped_eq, State.stream_onStream, State.stream_released]

theorem State.group_stepped : (s.stepped n).group = s.group := by
  rw [State.stepped_units]
  rfl

theorem State.pages_stepped : (s.stepped n).pages = s.pages := by
  rw [State.stepped_units]

theorem State.node_stepped : (s.stepped n).node = s.node := by
  rw [State.stepped_units]
  rfl

theorem State.root_stepped : ((s.stepped n).stream n).root = (s.stream n).root := by
  rw [State.stream_stepped]
  rfl

theorem State.mapped_stepped : (s.stepped n).mapped n = s.mapped n := by
  unfold State.mapped
  rw [State.root_stepped, State.node_stepped]

theorem State.copyWaits_stepped (j : Nat) : (s.stepped n).copyWaits n j = s.copyWaits n j := by
  have hpage : (s.stepped n).page = s.page := by
    rw [State.stepped_units]
    rfl
  have hmoving : (s.stepped n).pageMoving = s.pageMoving := by
    rw [State.stepped_units]
    rfl
  unfold State.copyWaits
  rw [State.root_stepped, State.node_stepped, hpage, hmoving]

end Stepped

/-! ### STRUNC (R476) -/

section Truncate
variable {s sa sb sc t u : State} {x : RFields} {n m : Nat} {a b c : Word}

theorem unitDword_run {owner va : Nat} {w : Word} (hx : s.mine.xfail = none) (hh : s.stillHeld owner va (ctxAgent s.cur.1 s.cur.2) = false)
    (hl : s.lookDword owner va = .ok w) : (unitDword owner va).run s = .ok (w, s) := by
  have hpage : decide ((s.ctx s.cur.1 s.cur.2).xfail = some (pageOf va)) = false := by
    rw [show (s.ctx s.cur.1 s.cur.2).xfail = none from hx]
    rfl
  refine bind_run_of (get_run s) <| bind_run_of (trapIf_run_false hpage ..) <| ite_run_false hh ?_
  dsimp only
  rw [hl]
  rfl

/-- What STRUNC needs of its queue to keep m entries: each entry that it looks at can be read, those from m on have a STEPAT of at least c, and
the one before them has none (R476). -/
structure KeepsEntries (s : State) (d : Stream) (c m : Nat) (e : Nat → Word) : Prop where
  xfail : s.mine.xfail = none
  read : ∀ j, m ≤ j + 1 → j < d.held → s.lookDword d.owner (d.entryAddr ((d.qhead + j) % 2 ^ 24) + 8) = .ok (e j)
    ∧ s.stillHeld d.owner (d.entryAddr ((d.qhead + j) % 2 ^ 24) + 8) (ctxAgent s.cur.1 s.cur.2) = false
  later : ∀ j, m ≤ j → j < d.held → c ≤ (e j).toNat % 2 ^ 32
  first : m ≠ 0 → (e (m - 1)).toNat % 2 ^ 32 < c

theorem KeepsEntries.unitDword_run {d : Stream} {c : Nat} {e : Nat → Word} (h : KeepsEntries s d c m e) {j : Nat} (hm : m ≤ j + 1)
    (hj : j < d.held) : (unitDword d.owner (d.entryAddr ((d.qhead + j) % 2 ^ 24) + 8)).run s = .ok (e j, s) := by
  obtain ⟨hl, hh⟩ := h.read j hm hj
  exact Machine.unitDword_run h.xfail hh hl

theorem keptTail_run {d : Stream} {c : Nat} {e : Nat → Word} (h : KeepsEntries s d c m e) {k : Nat} (hmk : m ≤ k) (hk : k ≤ d.held) :
    (keptTail d c k ((d.qhead + k) % 2 ^ 24)).run s = .ok ((d.qhead + m) % 2 ^ 24, s) := by
  induction k with
  | zero =>
    obtain rfl : m = 0 := Nat.le_zero.1 hmk
    rfl
  | succ j ih =>
    have hlast : ((d.qhead + (j + 1)) % 2 ^ 24 + 2 ^ 24 - 1) % 2 ^ 24 = (d.qhead + j) % 2 ^ 24 := by omega
    have hread := h.unitDword_run hmk hk
    rw [← hlast] at hread
    refine bind_run_of hread ?_
    rcases Nat.eq_or_lt_of_le hmk with hm | hm
    · subst hm
      exact ite_run_neg (Nat.not_le.2 (h.first (Nat.succ_ne_zero j))) (pure_run ..)
    · refine ite_run_pos (h.later j (Nat.le_of_lt_succ hm) hk) ?_
      rw [hlast]
      exact ih (Nat.le_of_lt_succ hm) (Nat.le_of_succ_le hk)

theorem clearTail_run_unmapped {page off p : Nat} {pc aval : Word} (h : s.pageAt n page = none) :
    (clearTail n page off p pc aval).run s = .ok ((), s) := by
  refine bind_run_of (get_run s) ?_
  rw [h]
  rfl

/-- The fields of a truncated stream (R476). -/
def Stream.cutTo (d : Stream) (c tail : Nat) (f2 : Bool) : Stream :=
  { d with qtail := tail, steps := c, hzn := decide (d.horizon ≠ 0) && decide (d.horizon ≤ c),
           gpos := if f2 then c else d.gpos, draw := if f2 then 0 else d.draw }

/-- Pages from a number on that a stream maps. -/
def State.mappedFrom (s : State) (n kp : Nat) : List Nat := (s.mapped n).filter (fun j => decide (kp ≤ j))

/-- Invalidate the entries of pages, in the order of the list (R476). -/
def State.unmapPages (s : State) (n : Nat) (pages : List Nat) : State := pages.foldl (fun s j => s.unmapPage n j) s

theorem exec_strunc {z : State} {tail : Nat} {e : Nat → Word} {d : Stream} {v : Env} (hi : Issues (.strunc x) s)
    (hv : envOf s s.cur.1 s.cur.2 (.strunc x) = v) (ha : (s.begun (.strunc x)).pull x.a = (a, sa))
    (hb : sa.pullB x = (b, sb)) (hc : sb.pull v.e.c = (c, sc)) (hn : sc.Names a n) (hd : s.stream n = d)
    (hst : d.state = .admitted ∨ d.state = .waitingAction) (hbl : b.toNat < 2 ^ 30) (hcl : c.toNat < 2 ^ 32) (hcs : c.toNat ≤ d.steps)
    (hp : (s.descPlaced n).2 + 1 < clockLimit) (hqh : d.qhead < 2 ^ 24) (hqt : d.qtail < 2 ^ 24) (hm : m ≤ d.held)
    (htail : (d.qhead + m) % 2 ^ 24 = tail)    (hkeep : KeepsEntries sc d c.toNat m e)
    (hwait : ∀ j ∈ (sc.stepped n).mappedFrom n ((b.toNat + 4095) / 4096), (sc.stepped n).copyWaits n j = false)
    (hclear : (if b.toNat % 4096 = 0 then pure ()
      else clearTail n ((b.toNat + 4095) / 4096 - 1) (b.toNat % 4096) (s.descPlaced n).2 v.pc v.aval).run
        ((sc.stepped n).unmapPages n ((sc.stepped n).mappedFrom n ((b.toNat + 4095) / 4096))) = .ok ((), z)) (hz : z.cur = s.cur) :
    exec (.strunc x) s = .next (((z.onStream n (fun d => d.cutTo c.toNat tail v.e.f2)).give x.d
      (BitVec.ofNat 64 (((sc.stepped n).mappedFrom n ((b.toNat + 4095) / 4096)).length + (d.held - m) % 65536 * 2 ^ 32))).completed
        (.strunc x)) := by
  subst hv hd htail
  have hr : Reads s sc := (((Reads.begun s _).of_pull ha).of_pullB hb).of_pull hc
  have hgone : (sc.stepped n).mappedFrom n ((b.toNat + 4095) / 4096) = sc.mappedFrom n ((b.toNat + 4095) / 4096) := by
    rw [State.mappedFrom, State.mapped_stepped]
    rfl
  have hstill : ((sc.mapped n).filter (fun i => decide ((b.toNat + 4095) / 4096 ≤ i))).any (sc.copyWaits n) = false :=
    List.any_eq_false.2 fun j hj => by
      rw [← State.copyWaits_stepped]
      exact Bool.eq_false_iff.1 (hwait j (hgone ▸ hj))
  have hfrozen : (s.stream n).state ≠ .frozen := by rcases hst with h | h <;> rw [h] <;> decide
  have hstate : (!(decide ((s.stream n).state = .admitted) || decide ((s.stream n).state = .waitingAction))) = false := by
    rcases hst with h | h <;> rw [h] <;> rfl
  have hrange : (decide (2 ^ 30 ≤ b.toNat) || decide (2 ^ 32 ≤ c.toNat) || decide ((s.stream n).steps < c.toNat)) = false := by
    simp only [Bool.or_eq_false_iff, decide_eq_false_iff_not]
    omega
  have hend : (s.stream n).qtail = ((s.stream n).qhead + (s.stream n).held) % 2 ^ 24 := by
    unfold Stream.held
    omega
  have hcount : ((s.stream n).qtail + 2 ^ 24 - ((s.stream n).qhead + m) % 2 ^ 24) % 2 ^ 24 = (s.stream n).held - m := by
    unfold Stream.held at hm ⊢
    omega
  have hkept := keptTail_run hkeep hm le_rfl
  rw [← hend] at hkept
  refine issue_ok hi (bind_run_of (src_run_of ha) <| bind_run_of (srcB_run_of hb) <| bind_run_of (src_run_of hc) <|
    bind_run_of (checkHandle_run hn) <| bind_run_of (get_run _) ?_) ((State.give_cur ..).trans hz)
  rw [hr.stream]
  refine bind_run_of (trapIf_run_false (decide_eq_false hfrozen) ..) <| bind_run_of (trapIf_run_false hstate ..) <|
    bind_run_of (trapIf_run_false hrange ..) <| bind_run_of hkept <|
    bind_run_of (stepRelease_run (by rwa [hr.descPlaced_time])) <| ite_run_false hstill <| bind_run_of (modify_run ..) ?_
  rw [hgone] at hclear ⊢
  rw [hr.descPlaced_time, hcount]
  exact bind_ite_run_of hclear <| bind_run_of (onStreamM_run ..) <| dst_run ..

end Truncate

theorem truncateStream : TruncateStream := by
  intro s u x n m e hu
  dsimp only
  generalize ha : (s.begun (.strunc x)).pull x.a = pa
  obtain ⟨a, sa⟩ := pa
  dsimp only
  generalize hb : sa.pullB x = pb
  obtain ⟨b, sb⟩ := pb
  dsimp only
  generalize hc : sb.pull (extOf (.strunc x)).c = pc
  obtain ⟨c, sc⟩ := pc
  intro hi hn hst hbl hcl hcs hp hqh hqt hm hx hread hlater hfirst hwait ht
  have hr : Reads s sc := (((Reads.begun s _).of_pull ha).of_pullB hb).of_pull hc
  have hkeep : KeepsEntries sc (s.stream n) c.toNat m e := {
    xfail := (hr.congr_mine Ctx.xfail).trans hx
    read := fun j h1 h2 => by rw [hr.cur]; exact hread j h1 h2
    later := hlater
    first := hfirst }
  have hrun {z : State} := exec_strunc (z := z) hi rfl ha hb hc hn rfl hst hbl hcl hcs hp hqh hqt hm rfl hkeep hwait
  refine ⟨fun h => hrun ?_ ht, fun hb hclear => hrun (ite_run_neg hb hclear) hu⟩
  by_cases hb : b.toNat % 4096 = 0
  · exact ite_run_pos hb (pure_run ..)
  · exact ite_run_neg hb (clearTail_run_unmapped (h.resolve_left hb))

/-! ### SRET (R474, R484) -/

section Return
variable {s sa sb : State} {x : RFields} {n : Nat} {a b : Word} {d : Stream} {v : Env} (hi : Issues (.sret x) s)
  (ha : (s.begun (.sret x)).pull x.a = (a, sa)) (hn : sa.Names a n) (hd : s.stream n = d)
include hi ha hn hd

/-- SRET.ret up to the report (R484). -/
theorem exec_sret_of {t : State} {p : Nat} (hb : sa.pull x.b = (b, sb)) (hf : x.fn = 0) (hst : d.state ≠ .frozen) (hg : d.gone = false)
    (hp : (s.descPlaced n).2 = p) (hl : p + 1 < clockLimit) (ht : t.cur = s.cur)
    (h : (match ((sb.onStream n (fun e => { e with retval := b })).stepped n).report n p with
      | some s1 => do
        set s1
        dst x.d 1
      | none => dst x.d 0 : M Unit).run ((sb.onStream n (fun e => { e with retval := b })).stepped n) = .ok ((), t)) :
    exec (.sret x) s = .next (t.completed (.sret x)) := by
  subst hd hp
  have hra := (Reads.begun s (.sret x)).of_pull ha
  have hr := hra.of_pull hb
  refine issue_ok hi (bind_run_of (src_run_of ha) <| bind_run_of (checkHandle_run hn) <| bind_run_of (get_run _) <|
    ite_run_pos hf <| bind_run_of (src_run_of hb) ?_) ht
  rw [hra.stream]
  refine bind_run_of (trapIf_run_false (decide_eq_false hst) ..) <| bind_run_of (trapIf_run_false hg ..) <|
    bind_run_of (onStreamM_run ..) <| bind_run_of (stepRelease_run ?_) <| bind_run_of (get_run _) ?_
  · rwa [State.descPlaced_time_onStream, hr.descPlaced_time]
  · rw [State.descPlaced_time_onStream, hr.descPlaced_time]
    exact h

theorem exec_sret_frozen (hb : sa.pull x.b = (b, sb)) (hf : x.fn = 0) (hst : d.state = .frozen) :
    exec (.sret x) s = .next (s.trapped (.sret x) 0x169 (envOf s s.cur.1 s.cur.2 (.sret x)).aval) := by
  subst hd
  refine issue_trap hi (bind_run_of (src_run_of ha) <| bind_run_of (checkHandle_run hn) <| bind_run_of (get_run _) <|
    ite_run_pos hf <| bind_run_of (src_run_of hb) ?_)
  rw [((Reads.begun s (.sret x)).of_pull ha).stream]
  exact trapIf_bind_run_true (decide_eq_true hst) ..

theorem exec_sret_gone (hb : sa.pull x.b = (b, sb)) (hf : x.fn = 0) (hg : d.gone = true) :
    exec (.sret x) s = .next (s.trapped (.sret x) 0x164 (envOf s s.cur.1 s.cur.2 (.sret x)).aval) := by
  subst hd
  have hst : (s.stream n).state ≠ .frozen := fun h => by
    rw [Stream.gone, h] at hg
    exact absurd hg (by decide)
  refine issue_trap hi (bind_run_of (src_run_of ha) <| bind_run_of (checkHandle_run hn) <| bind_run_of (get_run _) <|
    ite_run_pos hf <| bind_run_of (src_run_of hb) ?_)
  rw [((Reads.begun s (.sret x)).of_pull ha).stream]
  exact bind_run_of (trapIf_run_false (decide_eq_false hst) ..) <| trapIf_bind_run_true hg ..

theorem exec_sret_retire {z : State} (hf : x.fn ≠ 0) (hst : d.state = .admitted ∨ d.state = .waitingAction ∨ d.state = .migratedStub)
    (hl : (s.descPlaced n).2 + 1 < clockLimit) (hz : (sa.stepped n).retire n false = z) (hcur : z.cur = s.cur) :
    exec (.sret x) s = .next ((z.give x.d (BitVec.ofNat 64 (s.pages.length - z.pages.length))).completed (.sret x)) := by
  subst hd hz
  have hr := (Reads.begun s (.sret x)).of_pull ha
  have hpages : sa.pages = s.pages := hr.congr State.pages
  have hstate : (!(decide ((s.stream n).state = .admitted) || decide ((s.stream n).state = .waitingAction)
      || decide ((s.stream n).state = .migratedStub))) = false := by
    rcases hst with h | h | h <;> rw [h] <;> rfl
  refine issue_ok hi (bind_run_of (src_run_of ha) <| bind_run_of (checkHandle_run hn) <| bind_run_of (get_run _) <|
    ite_run_neg hf ?_) ((State.give_cur ..).trans hcur)
  rw [hr.stream]
  refine bind_run_of (trapIf_run_false hstate ..) <| bind_run_of (stepRelease_run (by rwa [hr.descPlaced_time])) <|
    bind_run_of (modify_run ..) <| bind_run_of (get_run _) ?_
  rw [hpages]
  exact dst_run ..

theorem exec_sret_retire_refused (hf : x.fn ≠ 0)
    (hst : d.state = .ready ∨ d.state = .running ∨ d.state = .frozen ∨ d.state = .free ∨ d.state = .retired) :
    exec (.sret x) s = .next (s.trapped (.sret x) 0x164 (envOf s s.cur.1 s.cur.2 (.sret x)).aval) := by
  subst hd
  have hstate : (!(decide ((s.stream n).state = .admitted) || decide ((s.stream n).state = .waitingAction)
      || decide ((s.stream n).state = .migratedStub))) = true := by
    rcases hst with h | h | h | h | h <;> rw [h] <;> rfl
  refine issue_trap hi (bind_run_of (src_run_of ha) <| bind_run_of (checkHandle_run hn) <| bind_run_of (get_run _) <|
    ite_run_neg hf ?_)
  rw [((Reads.begun s (.sret x)).of_pull ha).stream]
  exact trapIf_bind_run_true hstate ..

end Return

section Report
variable {s : State} {n p : Nat} {b : Word} {d : Stream} {grp : JoinGroup} (hd : (s.stream n).jgroup = d.jgroup)
  (hg : s.group (n % 4) d.jgroup = grp)
include hd hg

theorem State.report_none (h : ¬ (d.jgroup ≠ 0xFFFF ∧ grp.state = .opened ∧ grp.rets.length < grp.cfg.toNat % 2 ^ 16)) :
    s.report n p = none := by
  subst hg
  unfold State.report
  dsimp only
  rw [hd]
  refine if_pos ?_
  rw [JoinGroup.complete_iff, joinN, field_mod]
  by_cases h1 : d.jgroup = 0xFFFF
  · exact .inl h1
  · by_cases h2 : (s.group (n % 4) d.jgroup).state = .opened
    · exact .inr (.inr (Nat.le_of_not_lt fun h3 => h ⟨h1, h2, h3⟩))
    · exact .inr (.inl h2)

theorem State.report_some (hgen : (s.stream n).gen = d.gen) (hret : (s.stream n).retval = b)
    (h : d.jgroup ≠ 0xFFFF ∧ grp.state = .opened ∧ grp.rets.length < grp.cfg.toNat % 2 ^ 16) :
    s.report n p = some (s.onGroup (n % 4) d.jgroup (fun g => { g with rets := g.rets.set n (d.gen, b), p := max g.p p })) := by
  subst hg hret
  obtain ⟨h1, h2, h3⟩ := h
  unfold State.report
  dsimp only
  rw [hd, hgen]
  refine if_neg ?_
  rw [JoinGroup.complete_iff, joinN, field_mod]
  rintro (h | h | h)
  · exact h1 h
  · exact h h2
  · omega

end Report

theorem returnAndRetire : ReturnAndRetire := by
  refine ⟨?_, fun s n pruned => ?_⟩
  · intro s x n
    dsimp only
    generalize ha : (s.begun (.sret x)).pull x.a = pa
    obtain ⟨a, sa⟩ := pa
    dsimp only
    generalize hb : sa.pull x.b = pb
    obtain ⟨b, sb⟩ := pb
    dsimp only
    intro hi hn
    have hr : Reads s sb := ((Reads.begun s _).of_pull ha).of_pull hb
    generalize hw : (sb.onStream n (fun e => { e with retval := b })).stepped n = w
    have hstream : w.stream n = { s.stream n with retval := b }.stamp ((sb.onStream n (fun e => { e with retval := b })).descPlaced n).2 := by
      rw [← hw, State.stream_stepped, State.stream_onStream, hr.stream]
    have hgrp (die k : Nat) : w.group die k = s.group die k := by
      rw [← hw, State.group_stepped]
      exact congrFun (congrFun (hr.congr State.group) _) _
    have hcur : w.cur = s.cur := by
      rw [← hw, State.stepped_cur]
      exact hr.cur
    refine ⟨fun hf hst hg hl ht => ?_, fun hf hst hg hl ht => ?_, fun hf hst hl hz => exec_sret_retire hi ha hn rfl hf hst hl rfl hz,
      exec_sret_frozen hi ha hn rfl hb, exec_sret_gone hi ha hn rfl hb, exec_sret_retire_refused hi ha hn rfl⟩
    · refine exec_sret_of hi ha hn rfl hb hf hst hg rfl hl ((State.give_cur ..).trans hcur) ?_
      rw [hw, State.report_none (by rw [hstream]; rfl) (hgrp ..) ht]
      exact dst_run ..
    · refine exec_sret_of hi ha hn rfl hb hf hst hg rfl hl ((State.give_cur ..).trans hcur) ?_
      rw [hw, State.report_some (by rw [hstream]; rfl) (hgrp ..) (by rw [hstream]; rfl) (by rw [hstream, Stream.stamp]) ht]
      exact bind_run_of (set_run ..) <| dst_run ..
  · unfold State.retire
    dsimp only
    rw [State.stream_onStream]
    exact ⟨rfl, rfl, rfl, rfl, fun h => by simp [h]⟩

/-! ### JOIN (R481, R485) -/

/-- The state once the issuing context has released (R342). -/
def State.releasedMine (s : State) : State := s.onMine fun c => { c with l := s.mine.l + 1 }

theorem releaseMine_run {s : State} {aval : Word} (h : s.mine.l + 1 < clockLimit) :
    (release aval).run s = .ok (s.mine.l, s.releasedMine) := release_run h

section Join
variable {s sa sb u : State} {x : RFields} {a b : Word} {die gn : Nat} (hi : Issues (.join x) s) (ha : (s.begun (.join x)).pull x.a = (a, sa))
include hi ha

theorem exec_join_number (h : 2 ^ 12 ≤ a.toNat) :
    exec (.join x) s = .next (s.trapped (.join x) 0x168 (envOf s s.cur.1 s.cur.2 (.join x)).aval) :=
  issue_trap hi (bind_run_of (src_run_of ha) <| trapIf_bind_run_true (decide_eq_true h) ..)

variable (h12 : a.toNat < 2 ^ 12)
include h12

/-- JOIN once its group's number is checked. -/
theorem issue_join {t : State} {k : Env → Word → State → M Unit} (hk : (k (envOf s s.cur.1 s.cur.2 (.join x)) a sa).run sa = .ok ((), t))
    (ht : t.cur = s.cur) : issue (.join x) (fun v => do
      let a ← src x.a
      trapIf (decide (2 ^ 12 ≤ a.toNat)) 0x168 v.aval
      let s ← get
      k v a s) s = .next (t.completed (.join x)) :=
  issue_ok hi (bind_run_of (src_run_of ha) <| bind_run_of (trapIf_run_false (decide_eq_false (Nat.not_le.2 h12)) ..) <|
    bind_run_of (get_run _) hk) ht

/-- JOIN.init refuses a configuration out of range (R485). -/
theorem exec_join_init_refused {ws : List Word} (hb : sa.pull x.b = (b, sb)) (hf : x.fn = 0) (hal : b.toNat % 16 = 0)
    (hws : Does (loadDwords b (envOf s s.cur.1 s.cur.2 (.join x)) 2) sb ws u) (hok : joinCfgOk (ws.getD 0 0) = false) :
    exec (.join x) s = .next (s.trapped (.join x) 0x168 (envOf s s.cur.1 s.cur.2 (.join x)).aval) := by
  refine issue_trap hi (bind_run_of (src_run_of ha) <| bind_run_of (trapIf_run_false (decide_eq_false (Nat.not_le.2 h12)) ..) <|
    bind_run_of (get_run _) ?_)
  simp only [code_toNat hf]
  exact bind_run_of (src_run_of hb) <| bind_run_of (trapIf_run_false (decide_eq_false (not_not_intro hal)) ..) <|
    bind_run_of hws <| trapIf_bind_run_true (by rw [hok]; rfl) ..

variable (hdie : field a 10 2 = die) (hgn : field a 0 10 = gn)
include hdie hgn

theorem exec_join_stat (hf : x.fn = 2) : exec (.join x) s = .next ((sa.give x.d (BitVec.ofNat 64 ((s.group die gn).rets.length
    + (s.group die gn).cfg.toNat % 2 ^ 16 * 2 ^ 16 + (match (s.group die gn).state with
      | .free => 0
      | .opened => 1
      | .resolved => 2) * 2 ^ 32))).completed (.join x)) := by
  subst hdie hgn
  have hr := (Reads.begun s (.join x)).of_pull ha
  have hg : sa.group = s.group := hr.congr State.group
  refine issue_join hi ha h12 ?_ ((State.give_cur ..).trans hr.cur)
  simp only [code_toNat hf, hg, joinN, field_mod _ 16]
  exact dst_run ..

/-- Where they do not apply, prune and free give -1 (R485). -/
theorem exec_join_refused (hf : x.fn = 1 ∧ (s.group die gn).state ≠ .opened ∨ x.fn = 3 ∧ (s.group die gn).state = .opened) :
    exec (.join x) s = .next ((sa.give x.d (-1)).completed (.join x)) := by
  subst hdie hgn
  have hr := (Reads.begun s (.join x)).of_pull ha
  have hg : sa.group = s.group := hr.congr State.group
  refine issue_join hi ha h12 ?_ ((State.give_cur ..).trans hr.cur)
  rcases hf with ⟨hf, hst⟩ | ⟨hf, hst⟩
  · simp only [code_toNat hf, hg]
    exact ite_run_pos hst <| dst_run ..
  · simp only [code_toNat hf, hg]
    exact ite_run_pos hst <| dst_run ..

theorem exec_join_free (hf : x.fn = 3) (hst : (s.group die gn).state ≠ .opened) (hl : s.mine.l + 1 < clockLimit) :
    exec (.join x) s = .next (((sa.releasedMine.onGroup die gn (fun _ => {})).give x.d 0).completed
      (.join x)) := by
  subst hdie hgn
  have hr := (Reads.begun s (.join x)).of_pull ha
  have hg : sa.group = s.group := hr.congr State.group
  refine issue_join hi ha h12 ?_ ((State.give_cur ..).trans hr.cur)
  simp only [code_toNat hf, hg]
  exact ite_run_neg hst <| bind_run_of (release_run (by rwa [hr.congr_mine Ctx.l])) <| bind_run_of (modify_run ..) <| dst_run ..

theorem exec_join_prune {k : Nat} (hf : x.fn = 1) (hst : (s.group die gn).state = .opened) (hl : s.mine.l + 1 < clockLimit)
    (hk : sa.releasedMine.resolve die gn (some s.mine.l) = (u, some k)) (hu : u.cur = s.cur) :
    exec (.join x) s = .next ((u.give x.d (BitVec.ofNat 64 k)).completed (.join x)) := by
  subst hdie hgn
  have hr := (Reads.begun s (.join x)).of_pull ha
  have hg : sa.group = s.group := hr.congr State.group
  have hml : sa.mine.l = s.mine.l := hr.congr_mine Ctx.l
  have hrun : (release (envOf s s.cur.1 s.cur.2 (.join x)).aval).run sa = .ok (s.mine.l, sa.releasedMine) := by
    rw [← hml] at hl ⊢
    exact releaseMine_run hl
  generalize sa.releasedMine = r at hk hrun
  have hsome : (r.resolution (field a 10 2) (field a 0 10) (some s.mine.l)).isNone = false := by
    cases h : r.resolution (field a 10 2) (field a 0 10) (some s.mine.l) with
    | none =>
      rw [State.resolve, h] at hk
      exact absurd (congrArg Prod.snd hk) (by simp)
    | some r => rfl
  refine issue_join hi ha h12 ?_ ((State.give_cur ..).trans hu)
  simp only [code_toNat hf, hg]
  refine ite_run_neg (not_not_intro hst) <| bind_run_of hrun <| bind_run_of (get_run _) <| bind_run_of (trapIf_run_false hsome ..) ?_
  rw [hk]
  exact bind_run_of (set_run ..) <| dst_run ..

section Init
variable {ws : List Word} (hb : sa.pull x.b = (b, sb)) (hf : x.fn = 0) (hal : b.toNat % 16 = 0)
  (hws : Does (loadDwords b (envOf s s.cur.1 s.cur.2 (.join x)) 2) sb ws u) (hok : joinCfgOk (ws.getD 0 0) = true) (hu : u.cur = s.cur)
include hb hf hal hws hok hu

theorem exec_join_init_open (hst : (s.group die gn).state = .opened) :
    exec (.join x) s = .next ((u.give x.d (-1)).completed (.join x)) := by
  subst hdie hgn
  have hg : sa.group = s.group := ((Reads.begun s _).of_pull ha).congr State.group
  refine issue_join hi ha h12 ?_ ((State.give_cur ..).trans hu)
  simp only [code_toNat hf, hg]
  exact bind_run_of (src_run_of hb) <| bind_run_of (trapIf_run_false (decide_eq_false (not_not_intro hal)) ..) <|
    bind_run_of hws <| bind_run_of (trapIf_run_false (by rw [hok]; rfl) ..) <| ite_run_pos hst <| dst_run ..

theorem exec_join_init (hst : (s.group die gn).state ≠ .opened) (hl : u.mine.l + 1 < clockLimit) :
    exec (.join x) s = .next (((u.releasedMine.openGroup die gn (ws.getD 0 0) (ws.getD 1 0)
      (u.ownerOf s.cur.1 s.cur.2) ((u.mine.launch).getD (0, 0)).1 ((u.mine.launch).getD (0, 0)).2).give x.d 0).completed (.join x)) := by
  subst hdie hgn
  have hg : sa.group = s.group := ((Reads.begun s _).of_pull ha).congr State.group
  refine issue_join hi ha h12 ?_ ((State.give_cur ..).trans hu)
  simp only [code_toNat hf, hg]
  refine bind_run_of (src_run_of hb) <| bind_run_of (trapIf_run_false (decide_eq_false (not_not_intro hal)) ..) <|
    bind_run_of hws <| bind_run_of (trapIf_run_false (by rw [hok]; rfl) ..) <| ite_run_neg hst <| bind_run_of (releaseMine_run hl) <|
    bind_run_of (modify_run ..) ?_
  have hm : u.releasedMine.mine = { u.mine with l := u.mine.l + 1 } := State.mine_onMine ..
  have hl' : (u.releasedMine.ctx u.releasedMine.cur.1 u.releasedMine.cur.2).launch = u.mine.launch := (congrArg Ctx.launch hm :)
  have ho : u.releasedMine.ownerOf u.releasedMine.cur.1 u.releasedMine.cur.2 = u.ownerOf s.cur.1 s.cur.2 := by
    rw [← hu]
    unfold State.ownerOf
    rw [hl']
    rfl
  rw [hl', ho]
  exact dst_run ..

end Init

end Join

theorem joinCfgOk_iff (w : Word) : joinCfgOk w = true ↔ w.toNat < 2 ^ 29 ∧ w.toNat % 2 ^ 16 ≠ 0 ∧ w.toNat / 2 ^ 16 % 16 ≤ 5 := by
  simp only [joinCfgOk, joinN, field_mod, Bool.and_eq_true, decide_eq_true_eq, and_assoc]
  rfl

theorem joinInstruction : JoinInstruction := by
  intro s u x ws hu
  dsimp only
  generalize ha : (s.begun (.join x)).pull x.a = pa
  obtain ⟨a, sa⟩ := pa
  dsimp only
  generalize hb : sa.pull x.b = pb
  obtain ⟨b, sb⟩ := pb
  dsimp only
  intro hi
  refine ⟨exec_join_number hi ha, fun h12 => ⟨fun hf hal hws => ⟨fun hok => ?_, fun hok hst => ?_, fun hok hst hl => ?_⟩,
    fun hf hst hl k hk => ?_, fun hf hst => ?_, fun hf => ?_, fun hf hst hl => ?_, fun hf hst => ?_⟩⟩
  · exact exec_join_init_refused hi ha h12 hb hf hal hws (Bool.eq_false_iff.2 fun h => hok ((joinCfgOk_iff _).1 h))
  · exact exec_join_init_open hi ha h12 rfl (field_mod ..) hb hf hal hws ((joinCfgOk_iff _).2 hok) hu hst
  · exact exec_join_init hi ha h12 rfl (field_mod ..) hb hf hal hws ((joinCfgOk_iff _).2 hok) hu hst hl
  · exact exec_join_prune hi ha h12 rfl (field_mod ..) hf hst hl hk hu
  · exact exec_join_refused hi ha h12 rfl (field_mod ..) (.inl ⟨hf, hst⟩)
  · exact exec_join_stat hi ha h12 rfl (field_mod ..) hf
  · exact exec_join_free hi ha h12 rfl (field_mod ..) hf hst hl
  · exact exec_join_refused hi ha h12 rfl (field_mod ..) (.inr ⟨hf, hst⟩)

/-! ### SMIGR (R480, R487) -/

/-- The transfer that SMIGR queues for the issuing context of s (R487), whose owner is read in w. -/
def State.migration (s w : State) (n p : Nat) (dest c : Word) : Transfer :=
  { tag := n, die := dieOf s.cur.1, stream := n, owner := w.ownerOf s.cur.1 s.cur.2, slot := ((s.mine.launch).getD (0, 0)).1,
    epoch := ((s.mine.launch).getD (0, 0)).2, agent := ctxAgent s.cur.1 s.cur.2, dest := dest.setWidth 16, addr := c, p := p }

/-- A transfer is queued in the place of one that only marks the stream (R487, log 23). -/
def State.queueTransfer (s : State) (n : Nat) (t : Transfer) : State :=
  { s with transfers := s.transfers.filter (fun (y : Transfer) => !(decide (y.stream = n) && !y.begun)) ++ [t] }

theorem Reads.migration {s u : State} (hr : Reads s u) (w : State) (n p : Nat) (dest c : Word) :
    u.migration w n p dest c = s.migration w n p dest c := by
  rw [State.migration, State.migration, hr.cur, show u.mine.launch = s.mine.launch from hr.congr_mine Ctx.launch]

section Migrate
variable {s sa sb sc : State} {x : RFields} {n : Nat} {a b c : Word} {v : Env} (hi : Issues (.smigr x) s)
  (hv : envOf s s.cur.1 s.cur.2 (.smigr x) = v) (ha : (s.begun (.smigr x)).pull x.a = (a, sa)) (hb : sa.pullB x = (b, sb))
  (hc : sb.pull v.e.c = (c, sc)) (hn : sc.Names a n)
include hi hv ha hb hc hn

theorem exec_smigr_place (h : 2 ^ 12 ≤ b.toNat ∨ b.toNat = homeHere) :
    exec (.smigr x) s = .next (s.trapped (.smigr x) 0x168 v.aval) := by
  subst hv
  exact issue_trap hi (bind_run_of (src_run_of ha) <| bind_run_of (srcB_run_of hb) <| bind_run_of (src_run_of hc) <|
    bind_run_of (checkHandle_run hn) <| trapIf_bind_run_true (by simpa using h) ..)

variable (h12 : b.toNat < 2 ^ 12) (hhome : b.toNat ≠ homeHere)
include h12 hhome

theorem exec_smigr_misaligned (h : c.toNat % 16 ≠ 0) : exec (.smigr x) s = .next (s.trapped (.smigr x) 0x061 c) := by
  have hplace : (decide (2 ^ 12 ≤ b.toNat) || decide (b.toNat = homeHere)) = false := by simpa using ⟨h12, hhome⟩
  subst hv
  exact issue_trap hi (bind_run_of (src_run_of ha) <| bind_run_of (srcB_run_of hb) <| bind_run_of (src_run_of hc) <|
    bind_run_of (checkHandle_run hn) <| bind_run_of (trapIf_run_false hplace ..) <| trapIf_bind_run_true (decide_eq_true h) ..)

variable (hal : c.toNat % 16 = 0)
include hal

theorem exec_smigr_gone (hg : (s.stream n).gone = true) : exec (.smigr x) s = .next (s.trapped (.smigr x) 0x164 v.aval) := by
  have hplace : (decide (2 ^ 12 ≤ b.toNat) || decide (b.toNat = homeHere)) = false := by simpa using ⟨h12, hhome⟩
  have hr : Reads s sc := (((Reads.begun s _).of_pull ha).of_pullB hb).of_pull hc
  subst hv
  refine issue_trap hi (bind_run_of (src_run_of ha) <| bind_run_of (srcB_run_of hb) <| bind_run_of (src_run_of hc) <|
    bind_run_of (checkHandle_run hn) <| bind_run_of (trapIf_run_false hplace ..) <|
    bind_run_of (trapIf_run_false (decide_eq_false (not_not_intro hal)) ..) <| bind_run_of (get_run _) ?_)
  rw [hr.stream]
  exact trapIf_bind_run_true hg ..

variable (hg : (s.stream n).gone = false)
include hg

/-- SMIGR once its operands are checked. -/
theorem issue_smigr {t : State} {k : Env → Word → Word → Nat → State → M Unit}
    (hk : (k v b c n sc).run sc = .ok ((), t)) (ht : t.cur = s.cur) : issue (.smigr x) (fun v => do
      let a ← src x.a
      let b ← srcB x
      let c ← src v.e.c
      let n ← checkHandle a v.aval
      trapIf (decide (2 ^ 12 ≤ b.toNat) || decide (b.toNat = homeHere)) 0x168 v.aval
      trapIf (decide (c.toNat % 16 ≠ 0)) 0x061 c
      let s ← get
      trapIf (s.stream n).gone 0x164 v.aval
      k v b c n s) s = .next (t.completed (.smigr x)) := by
  have hplace : (decide (2 ^ 12 ≤ b.toNat) || decide (b.toNat = homeHere)) = false := by simpa using ⟨h12, hhome⟩
  have hr : Reads s sc := (((Reads.begun s _).of_pull ha).of_pullB hb).of_pull hc
  subst hv
  refine issue_ok hi (bind_run_of (src_run_of ha) <| bind_run_of (srcB_run_of hb) <| bind_run_of (src_run_of hc) <|
    bind_run_of (checkHandle_run hn) <| bind_run_of (trapIf_run_false hplace ..) <|
    bind_run_of (trapIf_run_false (decide_eq_false (not_not_intro hal)) ..) <| bind_run_of (get_run _) ?_) ht
  exact bind_run_of (trapIf_run_false (by rw [hr.stream]; exact hg) ..) hk

theorem exec_smigr_frozen (hst : (s.stream n).state = .frozen) :
    exec (.smigr x) s = .next ((sc.give x.d (-2)).completed (.smigr x)) := by
  have hr : Reads s sc := (((Reads.begun s _).of_pull ha).of_pullB hb).of_pull hc
  refine issue_smigr hi hv ha hb hc hn h12 hhome hal hg ?_ ((State.give_cur ..).trans hr.cur)
  rw [hr.stream]
  exact ite_run_pos hst <| dst_run ..

theorem exec_smigr_busy (hst : (s.stream n).state ≠ .frozen) (hbusy : 16 ≤ (s.transfers.filter (fun y => y.die = dieOf s.cur.1)).length) :
    exec (.smigr x) s = .next ((sc.give x.d (-1)).completed (.smigr x)) := by
  have hr : Reads s sc := (((Reads.begun s _).of_pull ha).of_pullB hb).of_pull hc
  have ht : sc.transfers = s.transfers := hr.congr State.transfers
  refine issue_smigr hi hv ha hb hc hn h12 hhome hal hg ?_ ((State.give_cur ..).trans hr.cur)
  rw [← hr.stream] at hst
  rw [← ht, ← hr.cur] at hbusy
  exact ite_run_neg hst <| ite_run_pos hbusy <| dst_run ..

theorem exec_smigr {w z : State} (hst : (s.stream n).state ≠ .frozen)
    (hbusy : (s.transfers.filter (fun y => y.die = dieOf s.cur.1)).length < 16) (hlt : (s.descPlaced n).2 + 1 < clockLimit)
    (hw : sc.stepped n = w) (hz : (w.queueTransfer n (s.migration w n (s.descPlaced n).2 b c)).freezeMarked n = z) (hcur : z.cur = s.cur) :
    exec (.smigr x) s = .next ((z.give x.d 0).completed (.smigr x)) := by
  have hr : Reads s sc := (((Reads.begun s _).of_pull ha).of_pullB hb).of_pull hc
  have ht : sc.transfers = s.transfers := hr.congr State.transfers
  rw [← hr.stream] at hst
  rw [← ht, ← hr.cur] at hbusy
  rw [← hr.descPlaced_time] at hlt hz
  rw [← hr.migration] at hz
  subst hw hz
  exact issue_smigr hi hv ha hb hc hn h12 hhome hal hg (ite_run_neg hst <| ite_run_neg (Nat.not_le.2 hbusy) <|
    bind_run_of (stepRelease_run hlt) <| bind_run_of (modify_run ..) <| dst_run ..) ((State.give_cur ..).trans hcur)

end Migrate

/-- A stream that its transfer marks is frozen as soon as it does not run (R127, R487). -/
theorem State.marked_queueTransfer {w : State} {n : Nat} {t : Transfer} (hn : t.stream = n) (hb : t.begun = false)
    (h : (w.stream n).state ≠ .frozen) : (w.queueTransfer n t).marked n = true := by
  have hst : ((w.queueTransfer n t).stream n).state ≠ .frozen := h
  rw [State.marked, decide_eq_true hst, Bool.and_true]
  exact List.any_eq_true.2 ⟨t, List.mem_append_right _ (List.mem_singleton_self t), by simp [hn, hb]⟩

theorem migrateStream : MigrateStream := by
  intro s x n
  dsimp only
  generalize ha : (s.begun (.smigr x)).pull x.a = pa
  obtain ⟨a, sa⟩ := pa
  dsimp only
  generalize hb : sa.pullB x = pb
  obtain ⟨b, sb⟩ := pb
  dsimp only
  generalize hc : sb.pull (extOf (.smigr x)).c = pc
  obtain ⟨c, sc⟩ := pc
  intro hi hn
  have hr : Reads s sc := (((Reads.begun s _).of_pull ha).of_pullB hb).of_pull hc
  have hstepped : ((sc.stepped n).stream n).state = (s.stream n).state := by
    rw [State.stream_stepped, hr.stream]
    rfl
  have hstate (t : Transfer) : (((sc.stepped n).queueTransfer n t).stream n).state = (s.stream n).state := hstepped
  have hcur : (sc.stepped n).cur = s.cur := (State.stepped_cur ..).trans hr.cur
  refine ⟨exec_smigr_place hi rfl ha hb hc hn, exec_smigr_misaligned hi rfl ha hb hc hn, fun h12 hhome hal =>
    ⟨exec_smigr_gone hi rfl ha hb hc hn h12 hhome hal, exec_smigr_frozen hi rfl ha hb hc hn h12 hhome hal,
      exec_smigr_busy hi rfl ha hb hc hn h12 hhome hal, fun hg hbusy hlt => ⟨fun hst => ?_, fun hst hcur' => ?_⟩⟩⟩
  · refine exec_smigr hi rfl ha hb hc hn h12 hhome hal hg ?_ hbusy hlt rfl (if_neg fun h => ?_) hcur
    · rw [hst]
      decide
    · rw [hstate, hst] at h
      exact absurd h.2 (by decide)
  · have hfrozen : (s.stream n).state ≠ .frozen := by rcases hst with h | h | h <;> rw [h] <;> decide
    refine exec_smigr hi rfl ha hb hc hn h12 hhome hal hg hfrozen hbusy hlt rfl (if_pos ⟨?_, ?_⟩) hcur'
    · exact State.marked_queueTransfer rfl rfl (by rw [hstepped]; exact hfrozen)
    · rw [hstate]
      rcases hst with h | h | h <;> rw [h] <;> decide

/-- Settles O25: STRUNC (`truncateStream`), SRET and retirement (`returnAndRetire`), JOIN (`joinInstruction`) and SMIGR (`migrateStream`). That a
later transfer takes the place of one that only marks the stream is the model's choice (log 23). -/
theorem streamEnds : Obligations.StreamEnds := ⟨truncateStream, returnAndRetire, joinInstruction, migrateStream⟩

end Sys2Proof.Machine
end

section
/-! LD, ST and the global vector accesses (row 4, R289-R293). -/
namespace Sys2Proof.Machine
-- Elaborated one after another, so that threads that wait for one another do not use up the memory.
set_option Elab.async false

/-! ### LD and ST (R289, R290) -/

section Scalar
variable {s u sa sd sd1 : State} {x : IFields} {a d d1 : Word} (hu : u.cur = s.cur)
include hu

theorem exec_ld {bs : List Byte} {ty : Nat} {v : Env} (hi : Issues (.ld x) s) (ha : (s.begun (.ld x)).pull x.a = (a, sa))
    (hv : envOf s s.cur.1 s.cur.2 (.ld x) = v) (hty : (extOf (.ld x)).ty.toNat = ty)
    (h : Does (loadBytes (a + x.imm) (tyBits ty / 8) v.aval v.pc) sa bs u) :
    exec (.ld x) s = .next ((u.give x.d (extendTy ty (natOfBytes bs))).completed (.ld x)) := by
  subst hv hty
  exact issue_ok hi (bind_run_of (src_run_of ha) <| bind_run_of h <| dst_run ..) ((State.give_cur ..).trans hu)

variable {e : Ext} {va : Word} {v : Env} (hi : Issues (.st x) s) (ha : (s.begun (.st x)).pull x.a = (a, sa)) (hd : sa.pull x.d = (d, sd))
  (hva : a + x.imm = va) (hv : envOf s s.cur.1 s.cur.2 (.st x) = v)
include hi ha hd hva hv

theorem exec_st {n : Nat} (hn : tyBits v.e.ty.toNat / 8 = n) (hf : v.e.f2 = false)
    (h : Does (storeBytes va (bytesOfNat n d.toNat) v.e.ty.toNat v.e.sc.toNat [(va, bytesOfNat n d.toNat)] v) sd () u) :
    exec (.st x) s = .next (u.completed (.st x)) := by
  subst hva hv hn
  exact issue_ok hi (bind_run_of (src_run_of ha) <| bind_run_of (src_run_of hd) <| ite_run_false hf h) hu

theorem exec_st_pair (hd1 : sd.pull (x.d + 1) = (d1, sd1)) (hf : v.e.f2 = true)
    (h : Does (storeBytes va (bytesOfNat 8 d.toNat ++ bytesOfNat 8 d1.toNat) v.e.ty.toNat v.e.sc.toNat
      [(va, bytesOfNat 8 d.toNat), (va + 8, bytesOfNat 8 d1.toNat)] v) sd1 () u) : exec (.st x) s = .next (u.completed (.st x)) := by
  subst hva hv
  exact issue_ok hi (bind_run_of (src_run_of ha) <| bind_run_of (src_run_of hd) <| ite_run_pos hf <| bind_run_of (src_run_of hd1) h) hu

end Scalar

theorem globalScalarAccess : GlobalScalarAccess := by
  intro s u hu
  refine ⟨fun x bs hi => ?_, fun x hi => ?_⟩
  · intro a ty v h
    exact exec_ld (a := a.1) (sa := a.2) hu hi rfl rfl rfl h
  · intro a d d1 e n va v
    exact ⟨exec_st (a := a.1) (sa := a.2) (d := d.1) (sd := d.2) hu hi rfl rfl rfl rfl rfl,
      exec_st_pair (a := a.1) (sa := a.2) (d := d.1) (sd := d.2) (d1 := d1.1) (sd1 := d1.2) hu hi rfl rfl rfl rfl rfl⟩

/-! ### The pair partner (R291, R226, R420) -/

namespace ReadsCtxs
variable {s t : State} (h : ReadsCtxs s t)
include h

theorem binds (g k set : Nat) (fe : FE) : ((t.core g).ctx k).binds set fe = ((s.core g).ctx k).binds set fe := by
  have hc : (t.core g).ctx k = { (s.core g).ctx k with pc := (t.ctx g k).pc, fbuf := (t.ctx g k).fbuf } := h.ctx g k
  rw [hc]
  rfl

theorem boundHere (g set : Nat) (fe : FE) : (t.core g).boundHere set fe = (s.core g).boundHere set fe := by
  unfold Core.boundHere
  simp only [h.binds]

theorem bound (g set : Nat) (fe : FE) : (t.core g).bound set fe = (s.core g).bound set fe := by
  unfold Core.bound
  simp only [h.binds, h.other]

end ReadsCtxs

section Vector
variable {s sa t u w : State} {x : VFields} {k : Nat} {p : Ctx} {a : Word} {v : Env} {indexed : Bool} {lanes : List (Nat × Word)}
  {locs : List (Nat × Word × Loc)}

theorem partner_run {i : Instr} (hq : s.mine.qset ≠ 6) (hb : (s.core s.cur.1).bound s.mine.qset .x = some k) (v : Env) :
    (partner v).run (s.begun i) = .ok ((k, ((s.begun i).core s.cur.1).partnerCtx s.mine.qset k), s.begun i) := by
  have hr := Reads.begun s i
  have hbound : ((s.begun i).core s.cur.1).bound s.mine.qset .x = some k := by rw [(ReadsCtxs.begun s i).bound]; exact hb
  refine bind_run_of (myCtx_run _) ?_
  rw [hr.congr_mine Ctx.qset]
  refine bind_run_of (trapIf_run_false (decide_eq_false hq) ..) <| bind_run_of (myCore_run _) ?_
  rw [show (s.begun i).cur.1 = s.cur.1 from rfl, hbound]
  rfl

variable (hq : s.mine.qset ≠ 6) (hb : (s.core s.cur.1).bound s.mine.qset .x = some k)
include hq hb

theorem vectorLoad_run {i : Instr} (hp : ((s.begun i).core s.cur.1).partnerCtx s.mine.qset k = p) (ha : (s.begun i).pull v.e.c = (a, sa))
    (hl : Machine.vectorLanes p x v a indexed = lanes)
    (hlocs : Does (locateLanes false (if indexed then none else lanes.head?.map (·.2)) v.aval lanes) sa locs t)
    (hread : Does (readLanes k x.vd.toNat v.pc locs) t () u) : (vectorLoad x v indexed).run (s.begun i) = .ok ((), u) := by
  subst hp hl
  exact bind_run_of (partner_run hq hb v) <| bind_run_of (src_run_of ha) <| bind_run_of hlocs hread

theorem vectorStore_run {i : Instr} (hp : ((s.begun i).core s.cur.1).partnerCtx s.mine.qset k = p) (ha : (s.begun i).pull v.e.c = (a, sa))
    (hl : Machine.vectorLanes p x v a indexed = lanes)
    (hlocs : Does (locateLanes true (if indexed then none else lanes.head?.map (·.2)) v.aval lanes) sa locs t)
    (hadmit : Does (admitVector (vectorCharge (t.core t.cur.1) v.e.sc.toNat (locs.map (·.2.2))) v.e.sc.toNat locs) t () w)
    (hwrite : Does (writeLanes p x.va.toNat v.e.sc.toNat v.pc [] locs) w () u) :
    (vectorStore x v indexed).run (s.begun i) = .ok ((), u.storedWhole u.cur.1 (wholeLines locs)) := by
  subst hp hl
  exact bind_run_of (partner_run hq hb v) <| bind_run_of (src_run_of ha) <| bind_run_of hlocs <| bind_run_of (myCore_run t) <|
    bind_run_of hadmit <| bind_run_of hwrite <| modify_run ..

end Vector

theorem State.storedWhole_cur (s : State) (g : Nat) (lines : List Nat) : (s.storedWhole g lines).cur = s.cur := rfl

theorem globalVectorAccess : GlobalVectorAccess := by
  intro s t u w x k locs ht hu hw hq hb of loads stores
  have hstored : (u.storedWhole u.cur.1 (wholeLines locs)).cur = s.cur := (State.storedWhole_cur ..).trans hu
  refine ⟨fun hi => ?_, fun hi => ?_, fun hi => ?_, fun hi => ?_, fun hnone i => ?_⟩
  · intro v a lanes hlocs hread
    exact issue_ok hi (vectorLoad_run (a := a.1) (sa := a.2) hq hb rfl rfl rfl hlocs hread) hu
  · intro v a lanes hlocs hread
    exact issue_ok hi (vectorLoad_run (a := a.1) (sa := a.2) hq hb rfl rfl rfl hlocs hread) hu
  · intro v a lanes hlocs hadmit hwrite
    rw [← ht] at hadmit
    rw [← hu]
    exact issue_ok hi (vectorStore_run (a := a.1) (sa := a.2) hq hb rfl rfl rfl hlocs hadmit hwrite) hstored
  · intro v a lanes hlocs hadmit hwrite
    rw [← ht] at hadmit
    rw [← hu]
    exact issue_ok hi (vectorStore_run (a := a.1) (sa := a.2) hq hb rfl rfl rfl hlocs hadmit hwrite) hstored
  · have hhere : ((s.begun i).core s.cur.1).boundHere s.mine.qset .x ≠ some k := by
      rw [(ReadsCtxs.begun s i).boundHere, hnone]
      simp
    exact congrArg Ctx.grant (if_neg hhere)

/-- Settles O11: LD and ST (`globalScalarAccess`), and the accesses on the registers of the pair partner (`globalVectorAccess`). -/
theorem globalAccess : Obligations.GlobalAccess := ⟨globalScalarAccess, globalVectorAccess⟩

end Sys2Proof.Machine
end

section
/-! PREF, WLQ, WLWAIT and FENCE (R294-R296, R339, R372), and steps that leave whose turn it is. -/
namespace Sys2Proof.Machine
-- Elaborated one after another, so that threads that wait for one another do not use up the memory.
set_option Elab.async false

/-! ### Steps that leave whose turn it is -/

/-- Where a step run from a state completes, it is the same context's turn. -/
def M.SameTurnAt {α : Type} (s : State) (m : M α) : Prop := ∀ a t, m.run s = .ok (a, t) → t.cur = s.cur

section SameTurn
variable {α β : Type} {s : State} {m m' : M α} {k : α → M β}

theorem M.SameTurnAt.bind (hm : m.SameTurnAt s) (hk : ∀ a t, m.run s = .ok (a, t) → (k a).SameTurnAt t) : (m >>= k).SameTurnAt s := by
  intro b u h
  rw [bind_run] at h
  cases hr : m.run s with
  | error e =>
    rw [hr] at h
    exact absurd h (by simp)
  | ok r =>
    obtain ⟨a, t⟩ := r
    rw [hr] at h
    exact (hk a t hr b u h).trans (hm a t hr)

theorem pure_sameTurn (a : α) : (pure a : M α).SameTurnAt s := by
  intro b t h
  obtain ⟨-, rfl⟩ := Prod.mk.inj (Except.ok.inj h)
  rfl

theorem throw_sameTurn (e : Stop) : (throw e : M α).SameTurnAt s := fun _ _ h => by cases h

theorem modify_sameTurn {f : State → State} (hf : ∀ s, (f s).cur = s.cur) : (modify f : M Unit).SameTurnAt s := by
  intro b t h
  obtain ⟨-, rfl⟩ := Prod.mk.inj (Except.ok.inj h)
  exact hf s

theorem set_sameTurn {u : State} (hu : u.cur = s.cur) : (set u : M Unit).SameTurnAt s := by
  intro b t h
  obtain ⟨-, rfl⟩ := Prod.mk.inj (Except.ok.inj h)
  exact hu

theorem get_bind_sameTurn {k : State → M β} (h : (k s).SameTurnAt s) : (get >>= k).SameTurnAt s := by
  intro b t ht
  exact h b t ht

theorem ite_sameTurn {c : Prop} [Decidable c] (h : c → m.SameTurnAt s) (h' : ¬c → m'.SameTurnAt s) : (if c then m else m').SameTurnAt s := by
  split
  · exact h ‹_›
  · exact h' ‹_›

theorem trapIf_bind_sameTurn {c : Bool} {cause : Nat} {tval : Word} {m : M β} (h : m.SameTurnAt s) :
    (trapIf c cause tval >>= fun _ => m).SameTurnAt s := by
  cases hc : c with
  | false => exact fun b t ht => h b t ht
  | true => exact fun b t ht => by cases ht

end SameTurn

/-! ### Locating a read (R283) -/

section Locate
variable {s : State}

theorem State.leaveReplay_cur (s : State) (page : Nat) (w : Waiter) : (s.leaveReplay page w).cur = s.cur := by
  unfold State.leaveReplay
  split
  · rfl
  · rfl

theorem State.translate_cur (s : State) (cl owner va : Nat) : (s.translate cl owner va).2.cur = s.cur := by
  unfold State.translate
  split
  · rfl
  · split
    · rfl
    · rfl

theorem needPage_sameTurn (page : Nat) : (needPage page).SameTurnAt s :=
  get_bind_sameTurn <| ite_sameTurn (fun _ => modify_sameTurn fun s => s.leaveReplay_cur page _) fun _ => throw_sameTurn _

theorem translateFor_sameTurn (va : Nat) (write fetch : Bool) : (translateFor va write fetch).SameTurnAt s := by
  unfold translateFor
  refine get_bind_sameTurn ?_
  split
  rename_i g k _
  refine trapIf_bind_sameTurn (ite_sameTurn (fun _ => throw_sameTurn _) fun _ => ?_)
  have hcur := s.translate_cur (clusterOf g) (s.ownerOf g k) va
  split
  rename_i w s1 e
  rw [e] at hcur
  split
  · exact throw_sameTurn _
  · split
    · exact throw_sameTurn _
    · exact (set_sameTurn hcur).bind fun _ _ _ => pure_sameTurn _
  · exact throw_sameTurn _

theorem noteAccess_sameTurn (va : Word) (size : Nat) : (noteAccess va size).SameTurnAt s :=
  modify_sameTurn (f := fun s => { s with seen := s.seen.or (some (va, size)) }) fun _ => rfl

theorem locate_read_sameTurn (va : Word) (size : Nat) (aval : Word) : (locate va size false aval).SameTurnAt s := by
  unfold locate
  refine (noteAccess_sameTurn va size).bind fun _ u _ => ?_
  dsimp only
  split
  · exact throw_sameTurn _
  · exact throw_sameTurn _
  · refine trapIf_bind_sameTurn ?_
    split
    · exact (translateFor_sameTurn _ _ _).bind fun _ _ _ => pure_sameTurn _
    · exact pure_sameTurn _
    · exact trapIf_bind_sameTurn (pure_sameTurn _)
    · exact trapIf_bind_sameTurn (pure_sameTurn _)
    · refine get_bind_sameTurn ?_
      split
      · exact throw_sameTurn _
      · refine ite_sameTurn (fun h => absurd h Bool.false_ne_true) fun _ => ?_
        split
        · exact pure_sameTurn _
        · exact (needPage_sameTurn _).bind fun _ _ _ => pure_sameTurn _

end Locate

/-! ### PREF (R294) -/

theorem State.cwayPut_cur (s : State) (g : Nat) (l : CLine) : (s.cwayPut g l).cur = s.cur := by
  unfold State.cwayPut
  dsimp only
  split
  · rfl
  · split
    · rfl
    · rename_i v r _
      split
      · exact State.writeBack_cur s g v
      · rfl

theorem State.prefetch_cur (s : State) (key : Nat) : (s.prefetch key).cur = s.cur := by
  unfold State.prefetch
  dsimp only
  split
  · rfl
  · rw [State.cwayPut_cur, State.settle_cur]

section Pref
variable {s sa t : State} {x : IFields} {a : Word} {key : Nat} {found : Except Stop (Loc × State)} (hi : Issues (.pref x) s)
  (ha : (s.begun (.pref x)).pull x.a = (a, sa))
  (hf : (locate (BitVec.ofNat 64 ((a + x.imm).toNat / 8 * 8)) 8 false 0).run sa = found)
include hi ha hf

theorem exec_pref (hm : found = .ok (.mem key, t)) :
    exec (.pref x) s = .next ((if (extOf (.pref x)).f2 then t else t.prefetch key).completed (.pref x)) := by
  have ht : t.cur = s.cur := (locate_read_sameTurn _ _ _ _ _ (hf.trans hm)).trans ((Reads.begun s _).of_pull ha).cur
  subst hm
  by_cases h2 : (extOf (.pref x)).f2 = true
  · rw [if_pos h2]
    refine issue_ok hi (bind_run_of (src_run_of ha) <| bind_run_of (get_run _) ?_) ht
    rw [hf]
    exact bind_run_of (set_run ..) <| ite_run_pos h2 <| pure_run ..
  · rw [if_neg h2]
    refine issue_ok hi (bind_run_of (src_run_of ha) <| bind_run_of (get_run _) ?_) ((State.prefetch_cur ..).trans ht)
    rw [hf]
    exact bind_run_of (set_run ..) <| ite_run_neg h2 <| modify_run ..

theorem exec_pref_none (hm : ∀ key t, found ≠ .ok (.mem key, t)) : exec (.pref x) s = .next (sa.completed (.pref x)) := by
  refine issue_ok hi (bind_run_of (src_run_of ha) <| bind_run_of (get_run _) ?_) ((Reads.begun s _).of_pull ha).cur
  rw [hf]
  split
  · exact absurd rfl (hm _ _)
  · exact pure_run ..

end Pref

/-! ### WLQ, WLWAIT and FENCE (R295, R296, R339) -/

section Queue
variable {s sa u : State} {x : RFields} {a : Word}

theorem exec_wlq_stat (hi : Issues (.wlq x) s) (hf : x.fn = 0) :
    exec (.wlq x) s = .next (((s.begun (.wlq x)).give x.d (wlqStat (s.core s.cur.1) s.mine s.cur.2)).completed (.wlq x)) := by
  have hstat : wlqStat ((s.begun (.wlq x)).core s.cur.1) (s.begun (.wlq x)).mine s.cur.2 = wlqStat (s.core s.cur.1) s.mine s.cur.2 :=
    ((ReadsCores.begun s (.wlq x)).congr (wlqStat · (s.begun (.wlq x)).mine s.cur.2) s.cur.1).trans
      ((Reads.begun s (.wlq x)).congr_mine (wlqStat (s.core s.cur.1) · s.cur.2))
  rw [← hstat]
  exact issue_ok hi (bind_run_of (myCore_run _) <| bind_run_of (myCtx_run _) <| bind_run_of (me_run _) <| ite_run_pos hf <| dst_run ..)
    (State.give_cur ..)

theorem exec_wlq_wait (hi : Issues (.wlq x) s) (hf : x.fn ≠ 0) (ha : (s.begun (.wlq x)).pull x.a = (a, sa))
    (h : (s.core s.cur.1).wlq.length + min a.toNat 16 ≤ 16) : exec (.wlq x) s = .next (sa.completed (.wlq x)) := by
  have hq : ((s.begun (.wlq x)).core s.cur.1).wlq = (s.core s.cur.1).wlq := (ReadsCores.begun s (.wlq x)).congr Core.wlq s.cur.1
  rw [← hq] at h
  exact issue_ok hi (bind_run_of (myCore_run _) <| bind_run_of (myCtx_run _) <| bind_run_of (me_run _) <| ite_run_neg hf <|
    bind_run_of (src_run_of ha) <| ite_run_pos h <| pure_run ..) ((Reads.begun s _).of_pull ha).cur

/-- A context waits until its stores are visible at a scope: the departures and acceptances come about inside the step (R278, log 2). -/
def waitVisible (v : Env) : M Unit := do
  let (g, k) ← me
  let scope := v.e.sc.toNat
  if scope < 2 then pure ()
  else do
    modify (fun s => s.flushMine g k)
    let s ← get
    if s.visible g k scope then pure () else waitAnd (fun s => s.flushMine g k)

theorem exec_wlwait_eq (x : RFields) (s : State) : exec (.wlwait x) s = issue (.wlwait x) waitVisible s := rfl

theorem exec_fence_eq (x : RFields) (s : State) : exec (.fence x) s = issue (.fence x) waitVisible s := rfl

section Wait
variable {i : Instr} {sc : Nat} (hi : Issues i s) (hsc : (extOf i).sc.toNat = sc)
include hi hsc

theorem issue_waitVisible_near (h : sc < 2) : issue i waitVisible s = .next ((s.begun i).completed i) := by
  subst hsc
  exact issue_ok hi (bind_run_of (me_run _) <| ite_run_pos h <| pure_run ..) rfl

theorem issue_waitVisible (h : 2 ≤ sc) (hu : (s.begun i).flushMine s.cur.1 s.cur.2 = u) (hv : u.visible s.cur.1 s.cur.2 sc = true)
    (hcur : u.cur = s.cur) : issue i waitVisible s = .next (u.completed i) := by
  subst hsc hu
  exact issue_ok hi (bind_run_of (me_run _) <| ite_run_neg (Nat.not_lt.2 h) <| bind_run_of (modify_run ..) <| bind_run_of (get_run _) <|
    ite_run_pos hv <| pure_run ..) hcur

end Wait
end Queue

/-- Settles O12: PREF (`exec_pref`, `exec_pref_none`), WLQ (`exec_wlq_stat`, `exec_wlq_wait`), and WLWAIT and FENCE
(`issue_waitVisible_near`, `issue_waitVisible`). That the departures and acceptances come about inside the waiting instruction
(`State.flushMine`) is the model's choice (log 2). -/
theorem writeLaneInstructions : Obligations.WriteLaneInstructions := by
  intro s
  refine ⟨fun x hi => ?_, fun x => ⟨exec_wlq_stat, fun hi hf => ?_, fun hi => ?_, fun hi => ?_⟩⟩
  · intro a found
    exact ⟨fun key t => exec_pref (a := a.1) (sa := a.2) hi rfl rfl, exec_pref_none (a := a.1) (sa := a.2) hi rfl rfl⟩
  · intro a h
    exact exec_wlq_wait (a := a.1) (sa := a.2) hi (by rw [hf]; decide) rfl h
  · rw [exec_wlwait_eq]
    exact ⟨issue_waitVisible_near hi rfl, fun h => issue_waitVisible hi rfl h rfl⟩
  · rw [exec_fence_eq]
    exact ⟨issue_waitVisible_near hi rfl, fun h => issue_waitVisible hi rfl h rfl⟩

end Sys2Proof.Machine
end

section
/-! Atomic accesses (row 5, R364-R373): what the instructions read and write, and what an access does at a line that nobody else holds. -/
namespace Sys2Proof.Machine
-- Elaborated one after another, so that threads that wait for one another do not use up the memory.
set_option Elab.async false

/-! ### The instructions (R367-R371, R373) -/

section Instructions
variable {s u sa sb sb1 sc sc1 : State} {x : RFields} {va a b b1 c c1 : Word} {v : Env} {old : Nat} (hu : u.cur = s.cur)

theorem atomicAddr_run {i : Instr} (ha : (s.begun i).pull x.a = (a, sa))
    (hva : a + v.e.imm32.signExtend 64 = va) : (atomicAddr x v).run (s.begun i) = .ok (va, sa) := by
  subst hva
  exact bind_run_of (src_run_of ha) (pure_run ..)

theorem srcPair_run {k : BitVec 6} (h : s.pull k = (a, sa)) (h1 : sa.pull (k + 1) = (b, sb)) :
    (srcPair k).run s = .ok (a.toNat + b.toNat * 2 ^ 64, sb) := bind_run_of (src_run_of h) <| bind_run_of (src_run_of h1) <| pure_run ..

theorem dstPair_run (k : BitVec 6) (n : Nat) (s : State) :
    (dstPair k n).run s = .ok ((), (s.give k (BitVec.ofNat 64 n)).give (k + 1) (BitVec.ofNat 64 (n / 2 ^ 64))) :=
  bind_run_of (dst_run ..) <| dst_run ..

include hu

theorem exec_amo {n ty : Nat} (hi : Issues (.amo x) s) (hv : envOf s s.cur.1 s.cur.2 (.amo x) = v) (ha : (s.begun (.amo x)).pull x.a = (a, sa))
    (hva : a + v.e.imm32.signExtend 64 = va) (hb : sa.pull x.b = (b, sb)) (hty : v.e.ty.toNat = ty)
    (hn : tyBits ty / 8 = n) (h : Does (atomicWrite va n v.e.sc.toNat true (v.e.sub.getLsbD 0) (v.e.sub.getLsbD 1)
      (fun o => amoResult x.fn.toNat ty o b.toNat) v) sb old u) :
    exec (.amo x) s = .next ((u.give x.d (putOf ty old)).completed (.amo x)) := by
  subst hv hty hn
  exact issue_ok hi (bind_run_of (atomicAddr_run ha hva) <| bind_run_of (src_run_of hb) <| bind_run_of h <| dst_run ..)
    ((State.give_cur ..).trans hu)

theorem exec_cas {n ty w : Nat} (hi : Issues (.cas x) s) (hv : envOf s s.cur.1 s.cur.2 (.cas x) = v) (ha : (s.begun (.cas x)).pull x.a = (a, sa))
    (hva : a + v.e.imm32.signExtend 64 = va) (hb : sa.pull x.b = (b, sb)) (hc : sb.pull v.e.c = (c, sc)) (hty : v.e.ty.toNat = ty)
    (hw : tyBits ty = w) (hn : w / 8 = n) (h : Does (atomicWrite va n v.e.sc.toNat true (v.e.sub.getLsbD 0) (v.e.sub.getLsbD 1)
      (fun o => if o = c.toNat % 2 ^ w then b.toNat % 2 ^ w else o) v) sc old u) :
    exec (.cas x) s = .next ((u.give x.d (putOf ty old)).completed (.cas x)) := by
  subst hv hty hw hn
  exact issue_ok hi (bind_run_of (atomicAddr_run ha hva) <| bind_run_of (src_run_of hb) <| bind_run_of (src_run_of hc) <|
    bind_run_of h <| dst_run ..) ((State.give_cur ..).trans hu)

theorem exec_cas2 (hi : Issues (.cas2 x) s) (hv : envOf s s.cur.1 s.cur.2 (.cas2 x) = v) (ha : (s.begun (.cas2 x)).pull x.a = (a, sa))
    (hva : a + v.e.imm32.signExtend 64 = va) (hb : sa.pull x.b = (b, sb)) (hb1 : sb.pull (x.b + 1) = (b1, sb1))
    (hc : sb1.pull v.e.c = (c, sc)) (hc1 : sc.pull (v.e.c + 1) = (c1, sc1))
    (h : Does (atomicWrite va 16 v.e.sc.toNat true (v.e.sub.getLsbD 0) (v.e.sub.getLsbD 1)
      (fun o => if o = c.toNat + c1.toNat * 2 ^ 64 then b.toNat + b1.toNat * 2 ^ 64 else o) v) sc1 old u) :
    exec (.cas2 x) s =
      .next (((u.give x.d (BitVec.ofNat 64 old)).give (x.d + 1) (BitVec.ofNat 64 (old / 2 ^ 64))).completed (.cas2 x)) := by
  subst hv
  exact issue_ok hi (bind_run_of (atomicAddr_run ha hva) <| bind_run_of (srcPair_run hb hb1) <| bind_run_of (srcPair_run hc hc1) <|
    bind_run_of h <| dstPair_run ..) ((State.give_cur ..).trans ((State.give_cur ..).trans hu))

theorem exec_afadd (hi : Issues (.afadd x) s) (hv : envOf s s.cur.1 s.cur.2 (.afadd x) = v) (ha : (s.begun (.afadd x)).pull x.a = (a, sa))
    (hva : a + v.e.imm32.signExtend 64 = va) (hb : sa.pull x.b = (b, sb))
    (h : Does (atomicWrite va 4 v.e.sc.toNat true (v.e.sub.getLsbD 0) (v.e.sub.getLsbD 1)
      (fun o => f32Add (rmOf v.e.rm) 0 o (b.toNat % 2 ^ 32)) v) sb old u) :
    exec (.afadd x) s = .next ((u.give x.d (BitVec.ofNat 64 old)).completed (.afadd x)) := by
  subst hv
  exact issue_ok hi (bind_run_of (atomicAddr_run ha hva) <| bind_run_of (src_run_of hb) <| bind_run_of h <| dst_run ..)
    ((State.give_cur ..).trans hu)

variable {y : IFields}

theorem exec_lda {ty : Nat} (hi : Issues (.lda y) s) (hv : envOf s s.cur.1 s.cur.2 (.lda y) = v) (ha : (s.begun (.lda y)).pull y.a = (a, sa))
    (hty : v.e.ty.toNat = ty) (h : Does (atomicLoad (a + y.imm) (tyBytes ty) v.e.sc.toNat v) sa old u) :
    exec (.lda y) s = .next ((u.give y.d (extendTy ty old)).completed (.lda y)) := by
  subst hv hty
  exact issue_ok hi (bind_run_of (src_run_of ha) <| bind_run_of h <| dst_run ..) ((State.give_cur ..).trans hu)

theorem exec_lda2 (hi : Issues (.lda2 y) s) (hv : envOf s s.cur.1 s.cur.2 (.lda2 y) = v) (ha : (s.begun (.lda2 y)).pull y.a = (a, sa))
    (h : Does (atomicLoad (a + y.imm) 16 v.e.sc.toNat v) sa old u) :
    exec (.lda2 y) s =
      .next (((u.give y.d (BitVec.ofNat 64 old)).give (y.d + 1) (BitVec.ofNat 64 (old / 2 ^ 64))).completed (.lda2 y)) := by
  subst hv
  exact issue_ok hi (bind_run_of (src_run_of ha) <| bind_run_of h <| dstPair_run ..)
    ((State.give_cur ..).trans ((State.give_cur ..).trans hu))

theorem exec_strel {n : Nat} (hi : Issues (.strel y) s) (hv : envOf s s.cur.1 s.cur.2 (.strel y) = v)
    (ha : (s.begun (.strel y)).pull y.a = (a, sa)) (hd : sa.pull y.d = (b, sb)) (hn : tyBytes v.e.ty.toNat = n)
    (h : Does (atomicWrite (a + y.imm) n v.e.sc.toNat false false true (fun _ => b.toNat % 2 ^ (8 * n)) v) sb old u) :
    exec (.strel y) s = .next (u.completed (.strel y)) := by
  subst hv hn
  exact issue_ok hi (bind_run_of (src_run_of ha) <| bind_run_of (src_run_of hd) <| bind_run_of h <| pure_run ..) hu

end Instructions

theorem atomicResults : AtomicResults := by
  intro s u old hu
  refine ⟨fun x => ?_, fun x => ⟨fun hi => ?_, fun hi => ?_, fun hi => ?_⟩⟩
  · intro at_ writes
    refine ⟨fun hi => ?_, fun hi => ?_, fun hi => ?_, fun hi => ?_⟩
    · intro ty b h
      exact exec_amo (a := ((s.begun (.amo x)).pull x.a).1) (sa := (at_ (.amo x)).2) (b := b.1) (sb := b.2) hu hi rfl rfl rfl rfl rfl rfl h
    · intro ty b c h
      exact exec_cas (a := ((s.begun (.cas x)).pull x.a).1) (sa := (at_ (.cas x)).2) (b := b.1) (sb := b.2) (c := c.1) (sc := c.2)
        hu hi rfl rfl rfl rfl rfl rfl rfl rfl h
    · intro b0 b1 c0 c1 h
      exact exec_cas2 (a := ((s.begun (.cas2 x)).pull x.a).1) (sa := (at_ (.cas2 x)).2) (b := b0.1) (sb := b0.2) (b1 := b1.1) (sb1 := b1.2)
        (c := c0.1) (sc := c0.2) (c1 := c1.1) (sc1 := c1.2) hu hi rfl rfl rfl rfl rfl rfl rfl h
    · intro b h
      exact exec_afadd (a := ((s.begun (.afadd x)).pull x.a).1) (sa := (at_ (.afadd x)).2) (b := b.1) (sb := b.2) hu hi rfl rfl rfl rfl h
  · intro a e ty h
    exact exec_lda (a := a.1) (sa := a.2) hu hi rfl rfl rfl h
  · intro a h
    exact exec_lda2 (a := a.1) (sa := a.2) hu hi rfl rfl h
  · intro a d e n h
    exact exec_strel (a := a.1) (sa := a.2) (b := d.1) (sb := d.2) hu hi rfl rfl rfl rfl h

/-! ### An access at a line that nobody else holds (R365, R366, R345) -/

theorem State.ownerOf_onMine (s : State) {f : Ctx → Ctx} (hf : (f s.mine).launch = s.mine.launch) :
    (s.onMine f).ownerOf s.cur.1 s.cur.2 = s.ownerOf s.cur.1 s.cur.2 := by
  have hl : ((s.onMine f).ctx s.cur.1 s.cur.2).launch = (s.ctx s.cur.1 s.cur.2).launch :=
    (congrArg Ctx.launch (State.mine_onMine s f) :).trans hf
  unfold State.ownerOf
  rw [hl]
  rfl

/-- What a step that waits leaves is of no account where it does not wait. -/
theorem takeBudget_run_of {s : State} {n : Nat} {va : Word} {r : Unit × State} (h : (takeBudget n va).run s = .ok r) (f : State → State) :
    (takeBudget n va f).run s = .ok r := by
  by_cases hc : s.mineAdmitted = 0 ∧ (s.lane s.cur.1).budget ≠ 0 ∧ (s.lane s.cur.1).used ≠ 0
      ∧ (s.lane s.cur.1).budget < (s.lane s.cur.1).used + n
  · have hw (f : State → State) : (takeBudget n va f).run s =
        (if (s.lane s.cur.1).trap then trap 0x081 va else waitAnd (fun s' => (f s').stall s.cur.1 s.cur.2) : M Unit).run s :=
      bind_run_of (get_run s) <| ite_run_pos hc rfl
    rw [hw] at h
    split at h <;> exact absurd h nofun
  · have hw (f : State → State) : (takeBudget n va f).run s = _ := bind_run_of (get_run s) <| ite_run_neg hc <| onMyCore_run _ s
    rwa [hw] at h ⊢

theorem enqueue_run_fresh_of {s : State} {key : Nat} {bytes : Table Byte} (hw : ∀ g e, e ∈ (s.core g).wlq → e.line ≠ key / 64)
    (hlen : (s.core s.cur.1).wlq.length < 16) (hk : key < 3 * space) (n : Nat) (va : Word) (f : State → State) :
    (enqueue (key / 64) bytes false [] n va f).run s = .ok ((), s.queued (s.entryFor (key / 64) bytes)) := by
  have hj : joins (s.core s.cur.1).wlq (key / 64) (s.storer (key / 64)) = false := joins_of_no_entry (hw s.cur.1) _
  have hn : (needEntry n va f).run s = .ok ((), s) :=
    bind_run_of (get_run s) <| ite_run_pos (Nat.succ_le_of_lt hlen) <| pure_run () s
  have hid : (enqueue (key / 64) bytes false [] n va).run s = .ok ((), s.enqueue (key / 64) bytes false []) :=
    bind_run_of (get_run s) <| ite_run_false hj <| bind_run_of (needEntry_run hlen n va) <| modify_run _ s
  rw [enqueue_run_fresh hw hlen hk] at hid
  rw [hid]
  exact bind_run_of (get_run s) <| ite_run_false hj <| bind_run_of hn <| modify_run _ s

/-- The line of a key is nobody's, free of errors and of waiting accesses, and an access of n bytes of the issuing context is admitted
(R271, R276, R277, R280). -/
structure AtomicOpen (s : State) (key n : Nat) : Prop where
  key_lt : key < 3 * space
  sound : s.poison.contains (key / 64) = false
  noEntry : ∀ g e, e ∈ (s.core g).wlq → e.line ≠ key / 64
  noCopy : (s.core s.cur.1).cway = []
  free : (s.line (key / 64)).held = none
  noQueue : (s.line (key / 64)).queue = []
  fair : s.starves (s.ownerOf s.cur.1 s.cur.2) (key / 64) = false
  room : (s.core s.cur.1).wlq.length < 16
  budget : s.mine.admitted ≠ 0 ∨ (s.lane s.cur.1).budget = 0 ∨ (s.lane s.cur.1).used = 0
    ∨ (s.lane s.cur.1).used + n ≤ (s.lane s.cur.1).budget

theorem AtomicOpen.releasedMine {s : State} {key n : Nat} (h : AtomicOpen s key n) : AtomicOpen s.releasedMine key n := by
  have hcore := s.core_onMine fun c => { c with l := s.mine.l + 1 }
  have hwlq (g : Nat) : (s.releasedMine.core g).wlq = (s.core g).wlq := by
    by_cases hg : g = s.cur.1
    · subst hg
      exact (congrArg Core.wlq hcore :)
    · exact congrArg Core.wlq (State.core_onCtx_other _ _ _ hg)
  have hcway : (s.releasedMine.core s.cur.1).cway = (s.core s.cur.1).cway := (congrArg Core.cway hcore :)
  have hlane : s.releasedMine.lane s.cur.1 = s.lane s.cur.1 := (congrArg (fun c => c.wl.sync s.clk) hcore :)
  have hmine : s.releasedMine.mine = { s.mine with l := s.mine.l + 1 } := State.mine_onMine ..
  have howner : s.releasedMine.ownerOf s.cur.1 s.cur.2 = s.ownerOf s.cur.1 s.cur.2 := s.ownerOf_onMine rfl
  exact {
    key_lt := h.key_lt, sound := h.sound, noEntry := fun g e he => h.noEntry g e (by rwa [hwlq] at he), noCopy := hcway.trans h.noCopy
    free := h.free, noQueue := h.noQueue, fair := (congrArg (s.starves · (key / 64)) howner).trans h.fair
    room := (congrArg List.length (hwlq _)).trans_lt h.room
    budget := by
      rw [show s.releasedMine.cur = s.cur from rfl, hlane, hmine]
      exact h.budget }

/-- The core's own copy of a line is dropped once the access has its place (R365). -/
def State.droppedCopy (s : State) (line : Nat) : State :=
  s.onCore s.cur.1 fun c => { c with cway := c.cway.filter (fun l => l.line ≠ line) }

/-- An access of the issuing context that writes a line through, placed at time t, and its own copy dropped. -/
def State.placedAtomic (s : State) (key n : Nat) (bytes : Table Byte) (r : Req) (t : Nat) : State :=
  ((s.storedThrough (key / 64) n bytes).accessed r t).droppedCopy (key / 64)

section Access
variable {s z u : State} {key n scope t : Nat} {acq rel : Bool} {va : Word} {v : Env} {f : Nat → Nat} {tag p : Option Nat}

theorem AtomicOpen.settleAtomic_run (h : AtomicOpen s key n) : (settleAtomic (key / 64)).run s = .ok ((), s) := by
  have hcl : (s.core s.cur.1).cline (key / 64) = none := Core.cline_of_empty h.noCopy _
  have hs : s.settleAtomic (key / 64) = s := by
    unfold State.settleAtomic State.settle
    simp only [State.settleFor_of_free h.noEntry h.free, hcl]
  exact bind_run_of (settleMineFor_run h.noEntry h.free h.noQueue false) <| (modify_run _ s).trans (by rw [hs])

theorem atomicWrite_run (h : AtomicOpen z key n) (hloc : (locateAtomic va n true v.aval).run s = .ok (.mem key, u))
    (hrel : (if rel then (releaseForm scope va >>= fun p => pure (some p)) else pure none).run u = .ok (tag, z)) {r : Req}
    (hreq : ctxReq z key n true true true scope tag = r) (ht : r.time (z.line r.line) = t) (hlim : t < clockLimit)
    (hr : (z.raceCheck r).race = none) (ha : (z.raceCheck r).adv = none) {old : Nat} (hold : natOfBytes (z.mem.bytes key n) = old)
    {w w' : State} (hw : z.placedAtomic key n (byteTable key (bytesOfNat n (f old))) r t = w)
    (hacq : (if acq then acquireForm (z.acquiredP r) scope va else pure ()).run w = .ok ((), w')) :
    Does (atomicWrite va n scope true acq rel f v) s old w' := by
  subst hreq hold hw
  have hcharged (g : Nat) (e : WlqEntry) (he : e ∈ ((z.chargedFor n).core g).wlq) : e.line ≠ key / 64 :=
    h.noEntry g e (by rwa [State.wlq_chargedFor] at he)
  have hroom : ((z.chargedFor n).core z.cur.1).wlq.length < 16 := by rw [State.wlq_chargedFor]; exact h.room
  have hbytes : z.homeBytes key n = z.mem.bytes key n := if_neg (by have := h.key_lt; unfold space at this ⊢; omega)
  refine bind_run_of hloc <| bind_ite_run_of hrel <| bind_run_of h.settleAtomic_run <| bind_run_of (needSlot_run h.fair) <|
    bind_run_of (get_run z) <| bind_run_of (trapIf_run_false (Bool.and_eq_false_iff.2 (.inr h.sound)) ..) ?_
  rw [hbytes]
  refine bind_run_of (takeBudget_run_of (takeBudget_run h.budget) _) <|
    bind_run_of (enqueue_run_fresh_of hcharged hroom h.key_lt ..) <| bind_run_of (get_run _) ?_
  rw [show ctxReq ((z.chargedFor n).queued _) .. = _ from ctxReq_storedThrough ..]
  refine bind_run_of (homeAccess_run ht hlim hr ha) <| bind_run_of (onMyCore_run ..) ?_
  exact bind_ite_run_of (f := fun _ => pure (natOfBytes (z.mem.bytes key n))) hacq (pure_run ..)

theorem locateAtomic_run {aval : Word} (hva : va.toNat < 0x00F0000000000000) {r : Loc × State} {write : Bool}
    (h : (locate va n write aval).run s = .ok r) : (locateAtomic va n write aval).run s = .ok r := by
  have hr : regionOf va.toNat = some .translated := if_pos hva
  exact bind_run_of (trapIf_run_false (by rw [hr]; rfl) ..) h

theorem releaseForm_run (hs : scope < 5) (hl : s.mine.l + 1 < clockLimit) :
    (releaseForm scope va).run s = .ok (s.mine.l, s.releasedMine) :=
  bind_run_of (myCtx_run s) <| ite_run_neg (fun h => absurd h.1 hs.ne) <| releaseMine_run hl

section Placed
variable (s key n t) (bytes : Table Byte) (r : Req)

theorem State.placedAtomic_cur : (s.placedAtomic key n bytes r t).cur = s.cur := State.accessed_cur ..

theorem State.placedAtomic_mem : (s.placedAtomic key n bytes r t).mem = s.mem := State.accessed_mem ..

theorem State.mine_placedAtomic : (s.placedAtomic key n bytes r t).mine = { s.mine with l := t } := by
  have hm := (s.storedThrough (key / 64) n bytes).mine_accessed r t
  have hs : (s.storedThrough (key / 64) n bytes).mine = s.mine := State.ctx_storedThrough ..
  exact (State.ctx_onCore_of_ctxs _ (by rfl) ..).trans (hm.trans (by rw [hs]))

theorem State.wlq_placedAtomic : ((s.placedAtomic key n bytes r t).core s.cur.1).wlq =
    (s.core s.cur.1).wlq ++ [s.entryFor (key / 64) bytes] := by
  have hd : ((s.placedAtomic key n bytes r t).core s.cur.1).wlq = (((s.storedThrough (key / 64) n bytes).accessed r t).core s.cur.1).wlq :=
    State.core_onCore_congr Core.wlq _ rfl _
  have ha := congrArg Core.wlq ((s.storedThrough (key / 64) n bytes).core_accessed r t)
  exact hd.trans (ha.trans (congrArg Core.wlq (s.core_storedThrough (key / 64) n bytes)))

theorem State.wts_placedAtomic (hw : r.write = true) : ((s.placedAtomic key n bytes r t).line r.line).wts = t :=
  ((s.storedThrough (key / 64) n bytes).line_accessed r t).1.trans (if_pos hw)

end Placed

/-- A context whose access was placed at time t, once it has taken the P that it found. -/
def Ctx.placedFound (c : Ctx) (t : Nat) : Option Nat → Ctx
  | some q => { c with h := max c.h q, l := max t (max c.h q + 1) }
  | none => { c with l := t }

/-- The state once an acquire form has taken the P that it found, where it found one (R366). -/
def State.acquiresFound (s : State) : Option Nat → State
  | some p => s.acquires p
  | none => s

theorem acquireForm_run (hs : scope < 5) (hp : ∀ q, p = some q → max s.mine.h q + 1 < clockLimit) :
    (acquireForm p scope va).run s = .ok ((), s.acquiresFound p) := by
  cases p with
  | none => exact ite_run_neg hs.ne <| pure_run ..
  | some q => exact bind_run_of (acquire_run (hp q rfl)) <| ite_run_neg hs.ne <| pure_run ..

section Found
variable (s p)

theorem State.acquiresFound_cur : (s.acquiresFound p).cur = s.cur := by cases p <;> rfl

theorem State.acquiresFound_mem : (s.acquiresFound p).mem = s.mem := by cases p <;> rfl

theorem State.line_acquiresFound (l : Nat) : (s.acquiresFound p).line l = s.line l := by cases p <;> rfl

theorem State.wlq_acquiresFound : ((s.acquiresFound p).core s.cur.1).wlq = (s.core s.cur.1).wlq := by
  cases p with
  | none => rfl
  | some q => exact (congrArg Core.wlq (s.core_onMine fun c => { c with h := max c.h q, l := max c.l (max c.h q + 1) }) :)

theorem State.mine_acquiresFound : (s.acquiresFound p).mine = match p with
    | some q => { s.mine with h := max s.mine.h q, l := max s.mine.l (max s.mine.h q + 1) }
    | none => s.mine := by
  cases p with
  | none => rfl
  | some q => exact s.mine_onMine ..

end Found

/-- What the access does at z, the state in which its release, if it has one, is done. -/
theorem atomicWrite_spec (h : AtomicOpen z key n) (hs : scope < 5) (hloc : (locateAtomic va n true v.aval).run s = .ok (.mem key, u))
    (hrel : (if rel then (releaseForm scope va >>= fun p => pure (some p)) else pure none).run u = .ok (tag, z)) {r : Req}
    (hreq : ctxReq z key n true true true scope tag = r) (ht : r.time (z.line r.line) = t) (hlim : t < clockLimit)
    (hr : (z.raceCheck r).race = none) (ha : (z.raceCheck r).adv = none) (hp : (if acq then z.acquiredP r else none) = p)
    (hlimp : ∀ q, p = some q → max z.mine.h q + 1 < clockLimit) {old : Nat} (hold : natOfBytes (z.mem.bytes key n) = old) :
    ∃ w, Does (atomicWrite va n scope true acq rel f v) s old w ∧ w.cur = z.cur ∧ w.mem = z.mem
      ∧ (w.core z.cur.1).wlq = (z.core z.cur.1).wlq ++ [z.entryFor (key / 64) (byteTable key (bytesOfNat n (f old)))]
      ∧ (w.line (key / 64)).wts = t
      ∧ w.mine = z.mine.placedFound t p := by
  let y := z.placedAtomic key n (byteTable key (bytesOfNat n (f old))) r t
  have hmine : y.mine = { z.mine with l := t } := z.mine_placedAtomic ..
  have hcur : y.cur = z.cur := z.placedAtomic_cur ..
  have hacq : (if acq then acquireForm (z.acquiredP r) scope va else pure () : M Unit).run y = .ok ((), y.acquiresFound p) := by
    cases acq with
    | false =>
      subst hp
      exact pure_run ..
    | true =>
      subst hp
      exact acquireForm_run hs fun q hq => by
        rw [hmine]
        exact hlimp q hq
  refine ⟨_, atomicWrite_run h hloc hrel hreq ht hlim hr ha hold rfl hacq, (State.acquiresFound_cur ..).trans hcur,
    (State.acquiresFound_mem ..).trans (State.placedAtomic_mem ..), ?_, ?_, ?_⟩
  · have hw := y.wlq_acquiresFound p
    rw [hcur] at hw
    exact hw.trans (State.wlq_placedAtomic ..)
  · rw [State.line_acquiresFound]
    subst hreq
    exact State.wts_placedAtomic _ _ _ _ _ _ rfl
  · rw [State.mine_acquiresFound, hmine]
    cases p <;> rfl

end Access

theorem atomicAccess : AtomicAccess := by
  intro s va n scope key acq rel f v t g line w old l1 r time hva hal hn hs hc he _ hp hw hcw hh hq hst hlen hb hx hheld hr ha hlim hl hacq
  have hopen : AtomicOpen (s.noted va n) key n :=
    { key_lt := entryKey_lt he, sound := hp, noEntry := hw, noCopy := hcw, free := hh, noQueue := hq, fair := hst, room := hlen, budget := hb }
  have hloc := locateAtomic_run hva (locate_run_cached (aval := v.aval) hva hal hn hc he hx hheld)
  have hlimp (q : Nat) (h : (if acq then s.acquiredP r else none) = some q) : max s.mine.h q + 1 < clockLimit := by
    cases acq with
    | false => exact absurd h nofun
    | true => exact hacq q h
  cases rel with
  | false =>
    obtain ⟨u, hu, hcur, hmem, hwlq, hwts, hmine⟩ := atomicWrite_spec (f := f) (acq := acq) (r := r) (t := time) (old := old) hopen hs hloc
      (rel := false) (pure_run ..) rfl rfl hlim hr ha rfl hlimp rfl
    exact ⟨u, hu, hcur, fun a => congrArg (·.byte a) hmem, hwlq, hwts, hmine.trans (by cases acq <;> rfl)⟩
  | true =>
    let z := (s.noted va n).releasedMine
    have hz : z.mine = { s.mine with l := s.mine.l + 1 } := State.mine_onMine ..
    have hcore : z.core g = { s.core g with ctxs := (s.core g).ctxs.set s.cur.2 { s.mine with l := s.mine.l + 1 } } := State.core_onMine ..
    have hlaunch : z.mine.launch = s.mine.launch := (congrArg Ctx.launch hz :)
    have howner : z.ownerOf g s.cur.2 = s.ownerOf g s.cur.2 := State.ownerOf_onMine (s.noted va n) rfl
    have hreq : ctxReq z key n true true true scope (some s.mine.l) = r := by
      simp only [ctxReq, show z.ctx z.cur.1 z.cur.2 = _ from hz]
      rfl
    have hpub (q : Nat) (h : (if acq then s.acquiredP r else none) = some q) : max z.mine.h q + 1 < clockLimit := by
      rw [hz]
      exact hlimp q h
    obtain ⟨u, hu, hcur, hmem, hwlq, hwts, hmine⟩ := atomicWrite_spec (f := f) (acq := acq) (old := old) (rel := true) (t := time)
      hopen.releasedMine hs hloc (bind_run_of (releaseForm_run hs hl) (pure_run ..)) hreq rfl hlim hr ha rfl hpub rfl
    refine ⟨u, hu, hcur, fun a => congrArg (·.byte a) hmem, ?_, hwts, ?_⟩
    · rw [show z.core z.cur.1 = _ from hcore] at hwlq
      refine hwlq.trans (congrArg (fun e => (s.core g).wlq ++ [e]) ?_)
      unfold State.entryFor
      rw [show z.ownerOf z.cur.1 z.cur.2 = _ from howner, hlaunch]
      rfl
    · rw [hmine, hz]
      cases acq <;> rfl

/-- Settles O13: the instructions (`atomicResults`), and an access at a line that nobody else holds (`atomicAccess`, by `atomicWrite_spec`). -/
theorem atomicInstructions : Obligations.AtomicInstructions := ⟨atomicResults, atomicAccess⟩

end Sys2Proof.Machine
end

section
/-! Barrier objects and signals (row 6, R375-R382): what the operands leave of an object, its instructions, and its phases. -/
namespace Sys2Proof.Machine
-- Elaborated one after another, so that threads that wait for one another do not use up the memory.
set_option Elab.async false

/-! ### What the operands leave of a barrier object -/

theorem ReadsCores.onMine {s t : State} (h : ReadsCores s t) (f : Ctx → Ctx) : ReadsCores s (t.onMine f) := by
  intro g
  by_cases hg : g = t.cur.1
  · subst hg
    rw [State.core_onMine, h]
  · rw [show (t.onMine f).core g = t.core g from State.core_onCtx_other _ _ _ hg]
    exact h g

theorem ReadsCores.releasedMine {s t : State} (h : ReadsCores s t) : ReadsCores s t.releasedMine := h.onMine _

theorem State.ownerOf_releasedMine (s : State) : s.releasedMine.ownerOf s.cur.1 s.cur.2 = s.ownerOf s.cur.1 s.cur.2 := s.ownerOf_onMine rfl

section Reads
variable {s t : State} {a : Word} (hr : Reads s t) (hc : ReadsCores s t)
include hr

theorem Reads.barObj (g off : Nat) : t.barObj g off = s.barObj g off := hr.congr (·.barObj g off)

theorem Reads.bankBusy (g b : Nat) : t.bankBusy g b = s.bankBusy g b := hr.congr (·.bankBusy g b)

include hc

theorem Reads.localOpen {off n : Nat} (h : LocalOpen s off n) : LocalOpen t off n := by
  intro i hi
  obtain ⟨hb, ht⟩ := h i hi
  rw [hr.cur, hr.bankBusy, hc.congr (Core.tag · _), hr.ownerOf]
  exact ⟨hb, ht⟩

theorem Reads.barrierOpen (h : BarrierOpen s a) : BarrierOpen t a := by
  obtain ⟨hlt, hal, hmode, hopen, hbad⟩ := h
  refine ⟨hlt, hal, ?_, hr.localOpen hc hopen, ?_⟩
  · rw [hr.cur, hc.mode]
    exact hmode
  · rw [hr.cur, hr.congr (·.localBad s.cur.1 a.toNat 32)]
    exact hbad

end Reads

theorem ReadsCores.journalQuiet {s t : State} (h : ReadsCores s t) (g k : Nat) : t.journalQuiet g k = s.journalQuiet g k :=
  h.congr (fun c => (List.range 32).all fun i =>
    !(decide ((c.journal.get {} i).state = .pending) && decide ((c.journal.get {} i).ctx = k))) g

theorem ReadsCores.barFits {s t : State} (h : ReadsCores s t) (g : Nat) (u : BarUpdate) : t.barFits g u = s.barFits g u :=
  h.congr (fun c => decide (c.mode (bankOf u.off) = 0) && decide (c.tag (bankOf u.off) = u.owner)) g

theorem offOf_of_lt {la : Word} (h : la.toNat < 65536) : offOf la = la.toNat := Nat.mod_eq_of_lt h

theorem barAt_run {s : State} {a : Word} (h : BarrierOpen s a) : (barAt a).run s = .ok (a.toNat, s) := by
  obtain ⟨hlt, hal, hmode, -, -⟩ := h
  have hspad : (s.core s.cur.1).notSpad [offOf a] = none := by
    rw [offOf_of_lt hlt]
    exact List.find?_eq_none.2 (by simpa using hmode)
  refine bind_run_of (trapIf_run_false (decide_eq_false (by omega)) ..) <|
    bind_run_of (trapIf_run_false (decide_eq_false (not_not.2 (winOf_of_lt hlt))) ..) <|
    bind_run_of (trapIf_run_false (decide_eq_false (not_not.2 hal)) ..) <|
    bind_run_of (bind_run_of (myCore_run s) <| trapIf_run_false (by rw [hspad]; rfl) ..) ?_
  rw [offOf_of_lt hlt]
  rfl

theorem barOperand_run {s : State} {a : Word} (h : BarrierOpen s a) : (barOperand a).run s = .ok (a.toNat, s) :=
  bind_run_of (barAt_run h) <| bind_run_of (localGet_run h.2.2.2.1 h.2.2.2.2 a) <| pure_run ..

theorem awaitJournal_run {s : State} (h : s.journalQuiet s.cur.1 s.cur.2 = true) : awaitJournal.run s = .ok ((), s) :=
  bind_run_of (get_run s) <| ite_run_pos h <| pure_run ..

theorem updateMine_run (off n m p : Nat) (s : State) : (updateMine off n m p).run s = .ok ((), s.updateBar s.cur.1 off
    [{ off := off, arrivals := n, bytes := 0, expected := m, p := p, owner := s.ownerOf s.cur.1 s.cur.2 }]) := modify_run ..

/-! ### Barrier instructions (R377-R381) -/

/-- The update that a barrier instruction of the issuing context makes (R375). -/
def State.barUpdate (s : State) (off n bytes p : Nat) : BarUpdate :=
  { off := off, arrivals := n, bytes := 0, expected := bytes, p := p, owner := s.ownerOf s.cur.1 s.cur.2 }

/-- The object that BARINIT writes (R378). -/
def BarObj.fresh (b : Word) : BarObj :=
  { parr := 0, earr := b.toNat % 65536, phase := 0, pbytes := 0, ebytes := b.toNat / 65536 % 2 ^ 32, racc := 0, rpub := 0 }

theorem BarObj.bytes_length (o : BarObj) : o.bytes.length = 32 := by
  simp only [BarObj.bytes, List.length_append, bytesOfNat_length]

section Instructions
variable {s sa sb : State} {i : Instr} {x : RFields} {a b : Word} {o : BarObj}

theorem exec_barinit (hi : Issues (.barinit x) s) (ha : (s.begun (.barinit x)).pull x.a = (a, sa)) (hb : sa.pull x.b = (b, sb))
    (ho : BarrierOpen s a) (hlt : b.toNat < 2 ^ 48) :
    exec (.barinit x) s = .next ((sb.localWrite s.cur.1 a.toNat (BarObj.fresh b).bytes).completed (.barinit x)) := by
  have hr := ((Reads.begun s _).of_pull ha).of_pull hb
  have hc := ((ReadsCores.begun s _).of_pull ha).of_pull hb
  have ho' := hr.barrierOpen hc ho
  rw [← hr.cur]
  refine issue_ok hi (bind_run_of (src_run_of ha) <| bind_run_of (src_run_of hb) <| bind_run_of (barAt_run ho') <|
    bind_run_of (trapIf_run_false (decide_eq_false (Nat.not_le.2 hlt)) ..) <|
    localPut_run (by rw [BarObj.bytes_length]; exact ho'.2.2.2.1)) ?_
  exact (State.localWrite_cur ..).trans hr.cur

/-- The arrivals that ARRIVE counts are in range (R379). -/
theorem arrivals_ok (h0 : 0 < b.toNat) (hlt : b.toNat < 65536) : (decide (b.toNat = 0) || decide (65536 ≤ b.toNat)) = false := by
  simp only [Bool.or_eq_false_iff, decide_eq_false_iff_not]
  omega

theorem exec_arrive (hi : Issues (.arrive x) s) (ha : (s.begun (.arrive x)).pull x.a = (a, sa)) (hb : sa.pull x.b = (b, sb))
    (ho : BarrierOpen s a) (h0 : 0 < b.toNat) (hlt : b.toNat < 65536) (hq : s.journalQuiet s.cur.1 s.cur.2 = true)
    (hl : s.mine.l + 1 < clockLimit) :
    exec (.arrive x) s = .next (((sb.releasedMine.updateBar s.cur.1 a.toNat [s.barUpdate a.toNat b.toNat 0 s.mine.l]).give x.d
      (BitVec.ofNat 64 (s.barObj s.cur.1 a.toNat).phase)).completed (.arrive x)) := by
  have hr := ((Reads.begun s _).of_pull ha).of_pull hb
  have hc := ((ReadsCores.begun s _).of_pull ha).of_pull hb
  have hlb : sb.mine.l = s.mine.l := hr.congr_mine Ctx.l
  have hcur := hr.cur
  have hregion : regionOf a.toNat ≠ some .remote := by
    rw [show regionOf a.toNat = some .translated from if_pos (by have := ho.1; omega)]
    exact nofun
  have hobj : sb.releasedMine.barObj = s.barObj := hr.congr State.barObj
  have howner : sb.releasedMine.ownerOf s.cur.1 s.cur.2 = s.ownerOf s.cur.1 s.cur.2 := by
    rw [← hr.ownerOf, ← hcur, State.ownerOf_releasedMine]
  refine issue_ok hi (bind_run_of (src_run_of ha) <| bind_run_of (src_run_of hb) <| ite_run_neg hregion <|
    bind_run_of (barOperand_run (hr.barrierOpen hc ho)) <| bind_run_of (trapIf_run_false (arrivals_ok h0 hlt) ..) <|
    bind_run_of (awaitJournal_run (by rwa [hcur, hc.journalQuiet])) <| bind_run_of (releaseMine_run (by rwa [hlb])) <|
    bind_run_of (get_run _) <| bind_run_of (updateMine_run ..) ?_) ((State.give_cur ..).trans ((State.updateBar_cur ..).trans hcur))
  rw [dst_run, show sb.releasedMine.cur = s.cur from hcur, hlb, hobj, howner]
  rfl

theorem exec_arrive_remote {h off : Nat} (hi : Issues (.arrive x) s) (ha : (s.begun (.arrive x)).pull x.a = (a, sa)) (hb : sa.pull x.b = (b, sb))
    (hlo : 0x00F0000000000000 ≤ a.toNat) (hhi : a.toNat < 0x00F00000A0000000) (hal : a.toNat % 32 = 0) (h0 : 0 < b.toNat)
    (hlt : b.toNat < 65536) (hq : s.journalQuiet s.cur.1 s.cur.2 = true) (hl : s.mine.l + 1 < clockLimit)
    (hh : (a.toNat - 0x00F0000000000000) / 65536 = h) (hoff : a.toNat % 65536 = off)
    (hfits : s.barFits h (s.barUpdate off b.toNat 0 s.mine.l) = true) (hfree : h = s.cur.1 → s.bankBusy s.cur.1 (bankOf off) = false) :
    exec (.arrive x) s = .next (((sb.releasedMine.updateBar h off [s.barUpdate off b.toNat 0 s.mine.l]).give x.d
      (BitVec.ofNat 64 (s.barObj h off).phase)).completed (.arrive x)) := by
  have hr := ((Reads.begun s _).of_pull ha).of_pull hb
  have hc := ((ReadsCores.begun s _).of_pull ha).of_pull hb
  have hlb : sb.mine.l = s.mine.l := hr.congr_mine Ctx.l
  have hcur := hr.cur
  have hregion : regionOf a.toNat = some .remote := by
    unfold regionOf
    rw [if_neg (by omega), if_pos hhi]
  have hobj : sb.releasedMine.barObj = s.barObj := hr.congr State.barObj
  have howner : sb.releasedMine.ownerOf s.cur.1 s.cur.2 = s.ownerOf s.cur.1 s.cur.2 := by
    rw [← hr.ownerOf, ← hcur, State.ownerOf_releasedMine]
  have hbusy : (decide (h = s.cur.1) && sb.releasedMine.bankBusy h (bankOf off)) = false := by
    refine Bool.and_eq_false_imp.2 fun hg => ?_
    obtain rfl := of_decide_eq_true hg
    exact (hr.bankBusy ..).trans (hfree rfl)
  refine issue_ok hi (bind_run_of (src_run_of ha) <| bind_run_of (src_run_of hb) <| ite_run_pos hregion <|
    bind_run_of (trapIf_run_false (decide_eq_false (not_not.2 hal)) ..) <| bind_run_of (trapIf_run_false (arrivals_ok h0 hlt) ..) <|
    bind_run_of (awaitJournal_run (by rwa [hcur, hc.journalQuiet])) <| bind_run_of (releaseMine_run (by rwa [hlb])) <|
    bind_run_of (get_run _) ?_) ((State.give_cur ..).trans ((State.updateBar_cur ..).trans hcur))
  simp only [hh, hoff, show sb.releasedMine.cur = s.cur from hcur, hlb, hobj, howner]
  exact ite_run_false hbusy <| bind_run_of (trapIf_run_false (by rw [hc.releasedMine.barFits]; exact congrArg not hfits) ..) <|
    bind_run_of (set_run ..) <| dst_run ..

/-- The operands of a barrier instruction (R377). -/
theorem barOperands_run {α : Type} (ha : (s.begun i).pull x.a = (a, sa)) (hb : sa.pull x.b = (b, sb)) (ho : BarrierOpen s a)
    {k : Word → Word → Nat → M α} {r : Except Stop (α × State)} (hk : (k a b a.toNat).run sb = r) :
    (do let a ← src x.a; let b ← src x.b; let off ← barOperand a; k a b off : M α).run (s.begun i) = r :=
  bind_run_of (src_run_of ha) <| bind_run_of (src_run_of hb) <|
    bind_run_of (barOperand_run ((((Reads.begun s _).of_pull ha).of_pull hb).barrierOpen (((ReadsCores.begun s _).of_pull ha).of_pull hb) ho)) hk

/-- A test of an object whose phase number is satisfied takes the P that it published (R380). -/
theorem barTest_run {aval : Word} {c : BitVec 6} {v : BarObj → Word} {m : M Unit} {n off : Nat} (hr : Reads s sb) (hobj : s.barObj s.cur.1 off = o)
    (hs : o.satisfies n = true) (hl : max s.mine.h o.rpub + 1 < clockLimit) :
    (do let s ← get
        let o := s.barObj s.cur.1 off
        if o.satisfies n then do
          acquire o.rpub aval
          dst c (v o)
        else m : M Unit).run sb = .ok ((), (sb.onMine fun c => c.acquire o.rpub).give c (v o)) := by
  have hob : sb.barObj sb.cur.1 off = o := by rw [hr.barObj, hr.cur, hobj]
  refine bind_run_of (get_run sb) ?_
  dsimp only
  rw [hob]
  exact ite_run_pos hs <| bind_run_of (acquire_run (by rwa [hr.congr_mine Ctx.h])) <| dst_run ..

theorem exec_waitph (hi : Issues (.waitph x) s) (ha : (s.begun (.waitph x)).pull x.a = (a, sa)) (hb : sa.pull x.b = (b, sb))
    (ho : BarrierOpen s a) (hobj : s.barObj s.cur.1 a.toNat = o) (hs : o.satisfies (b.toNat % 2 ^ 32) = true)
    (hl : max s.mine.h o.rpub + 1 < clockLimit) :
    exec (.waitph x) s = .next (((sb.onMine fun c => c.acquire o.rpub).give x.d (BitVec.ofNat 64 o.phase)).completed (.waitph x)) :=
  have hr := ((Reads.begun s _).of_pull ha).of_pull hb
  issue_ok hi (barOperands_run ha hb ho (barTest_run (v := fun o => BitVec.ofNat 64 o.phase) hr hobj hs hl)) ((State.give_cur ..).trans hr.cur)

theorem exec_testph_pos (hi : Issues (.testph x) s) (ha : (s.begun (.testph x)).pull x.a = (a, sa)) (hb : sa.pull x.b = (b, sb))
    (ho : BarrierOpen s a) (hobj : s.barObj s.cur.1 a.toNat = o) (hs : o.satisfies (b.toNat % 2 ^ 32) = true)
    (hl : max s.mine.h o.rpub + 1 < clockLimit) :
    exec (.testph x) s = .next (((sb.onMine fun c => c.acquire o.rpub).give x.d 1).completed (.testph x)) :=
  have hr := ((Reads.begun s _).of_pull ha).of_pull hb
  issue_ok hi (barOperands_run ha hb ho (barTest_run (v := fun _ => 1) hr hobj hs hl)) ((State.give_cur ..).trans hr.cur)

theorem exec_testph_neg (hi : Issues (.testph x) s) (ha : (s.begun (.testph x)).pull x.a = (a, sa)) (hb : sa.pull x.b = (b, sb))
    (ho : BarrierOpen s a) (hs : (s.barObj s.cur.1 a.toNat).satisfies (b.toNat % 2 ^ 32) = false) :
    exec (.testph x) s = .next ((sb.give x.d 0).completed (.testph x)) := by
  have hr := ((Reads.begun s _).of_pull ha).of_pull hb
  have hob : (sb.barObj sb.cur.1 a.toNat).satisfies (b.toNat % 2 ^ 32) = false := by rwa [hr.barObj, hr.cur]
  exact issue_ok hi (barOperands_run ha hb ho <| bind_run_of (get_run sb) <| ite_run_false hob <| dst_run ..) ((State.give_cur ..).trans hr.cur)

theorem exec_expect (hi : Issues (.expect x) s) (ha : (s.begun (.expect x)).pull x.a = (a, sa)) (hb : sa.pull x.b = (b, sb))
    (ho : BarrierOpen s a) (hlt : (s.barObj s.cur.1 a.toNat).ebytes + b.toNat < 2 ^ 32) :
    exec (.expect x) s = .next ((sb.updateBar s.cur.1 a.toNat [s.barUpdate a.toNat 0 b.toNat 0]).completed (.expect x)) := by
  have hr := ((Reads.begun s _).of_pull ha).of_pull hb
  have hok : (decide (2 ^ 32 ≤ b.toNat) || decide (2 ^ 32 ≤ (sb.barObj sb.cur.1 a.toNat).ebytes + b.toNat)) = false := by
    rw [hr.barObj, hr.cur]
    simp only [Bool.or_eq_false_iff, decide_eq_false_iff_not]
    omega
  refine issue_ok hi (barOperands_run ha hb ho <| bind_run_of (get_run sb) <| bind_run_of (trapIf_run_false hok ..) ?_)
    ((State.updateBar_cur ..).trans hr.cur)
  rw [updateMine_run, hr.cur, hr.ownerOf]
  rfl

end Instructions

theorem State.releasedMine_eq (s : State) : s.releasedMine = s.onMine fun c => { c with l := c.l + 1 } := rfl

theorem barrierInstructions : BarrierInstructions := by
  intro s x a b g off obj up
  have ha (i : Instr) : (s.begun i).pull x.a = ((a i).1, (a i).2) := rfl
  have hb (i : Instr) : (a i).2.pull x.b = ((b i).1, (b i).2) := rfl
  refine ⟨fun hi ho hlt => exec_barinit hi (ha _) (hb _) ho hlt, fun hi ho h0 hlt hq hl => ?_, fun hi hlo hhi hal h0 hlt hq hl => ?_,
    ⟨fun hi ho hs hl => exec_waitph hi (ha _) (hb _) ho rfl hs hl, fun hi ho hs hl => exec_testph_pos hi (ha _) (hb _) ho rfl hs hl⟩,
    fun hi ho hs => exec_testph_neg hi (ha _) (hb _) ho hs, fun hi ho hlt => exec_expect hi (ha _) (hb _) ho hlt⟩
  · rw [← State.releasedMine_eq]
    exact exec_arrive hi (ha _) (hb _) ho h0 hlt hq hl
  · intro h u hfits hfree
    rw [← State.releasedMine_eq]
    exact exec_arrive_remote hi (ha _) (hb _) hlo hhi hal h0 hlt hq hl rfl rfl hfits hfree

/-! ### Phases (R375, R376) -/

theorem foldl_max_p_le {us : List BarUpdate} {m : Nat} : m ≤ us.foldl (fun a u => max a u.p) m
    ∧ ∀ u ∈ us, u.p ≤ us.foldl (fun a u => max a u.p) m := by
  induction us generalizing m with
  | nil => exact ⟨le_rfl, nofun⟩
  | cons w us ih =>
    obtain ⟨hm, hu⟩ := ih (m := max m w.p)
    refine ⟨(le_max_left ..).trans hm, fun u h => ?_⟩
    obtain rfl | h := List.mem_cons.1 h
    · exact (le_max_right ..).trans hm
    · exact hu u h

theorem barrierPhases : BarrierPhases := by
  intro o us arr got want
  obtain ⟨hm, hu⟩ := foldl_max_p_le (us := us) (m := o.racc)
  refine ⟨fun ha hw => ?_, fun h => ?_, fun h => ?_⟩
  · have happly : o.apply us = { o with
      rpub := max o.rpub (us.foldl (fun a u => max a u.p) o.racc), racc := 0, phase := (o.phase + 1) % 2 ^ 32, parr := 0, pbytes := 0,
      ebytes := 0 } := if_pos ⟨ha, hw⟩
    rw [happly]
    refine ⟨rfl, rfl, rfl, rfl, rfl, rfl, le_max_left .., hm.trans (le_max_right ..), fun u h => (hu u h).trans (le_max_right ..), fun h => ?_⟩
    simp only [BarObj.satisfies, Bool.and_eq_true, decide_eq_true_eq]
    omega
  · have happly : o.apply us = { o with
      parr := arr, pbytes := got, ebytes := want % 2 ^ 32, racc := us.foldl (fun a u => max a u.p) o.racc } := if_neg h
    rw [happly]
    exact ⟨rfl, rfl, rfl, rfl, hu⟩
  · simp only [BarObj.satisfies, Bool.and_eq_false_iff, decide_eq_false_iff_not]
    omega

/-! ### Signals (R382) -/

section Signals
variable {s sa sb u w : State} {x : RFields} {va a b : Word} {v : Env} {n ty old : Nat}

theorem exec_signal (hw : w.cur = s.cur) (hi : Issues (.signal x) s) (hv : envOf s s.cur.1 s.cur.2 (.signal x) = v)
    (ha : (s.begun (.signal x)).pull x.a = (a, sa)) (hva : a + v.e.imm32.signExtend 64 = va) (hb : sa.pull x.b = (b, sb))
    (hq : s.journalQuiet s.cur.1 s.cur.2 = true) (hty : v.e.ty.toNat = ty) (hn : tyBits ty / 8 = n)
    (h : Does (atomicWrite va n v.e.sc.toNat true false true (fun o => amoResult x.fn.toNat ty o b.toNat) v) sb old u)
    (hs : Does (signalSeen va (amoResult x.fn.toNat ty old b.toNat)) u () w) :
    exec (.signal x) s = .next ((w.give x.d (putOf ty old)).completed (.signal x)) := by
  subst hv hty hn
  have hr := ((Reads.begun s _).of_pull ha).of_pull hb
  have hc := ((ReadsCores.begun s _).of_pull ha).of_pull hb
  exact issue_ok hi (bind_run_of (atomicAddr_run ha hva) <| bind_run_of (src_run_of hb) <|
    bind_run_of (awaitJournal_run (by rwa [hr.cur, hc.journalQuiet])) <| bind_run_of h <| bind_run_of hs <| dst_run ..)
    ((State.give_cur ..).trans hw)

theorem exec_waitsig (hu : u.cur = s.cur) (hi : Issues (.waitsig x) s) (hv : envOf s s.cur.1 s.cur.2 (.waitsig x) = v)
    (ha : (s.begun (.waitsig x)).pull x.a = (a, sa)) (hva : a + v.e.imm32.signExtend 64 = va) (hb : sa.pull x.b = (b, sb))
    (hty : v.e.ty.toNat = ty) (hn : tyBits ty / 8 = n)
    (h : Does (atomicLoad va n v.e.sc.toNat v (fun o => decide (cmpResult x.fn.toNat (tyBits ty) (putOf ty o) b ≠ 0))) sb old u)
    (hold : cmpResult x.fn.toNat (tyBits ty) (putOf ty old) b ≠ 0) :
    exec (.waitsig x) s = .next ((u.give x.d (putOf ty old)).completed (.waitsig x)) := by
  subst hv hty hn
  exact issue_ok hi (bind_run_of (atomicAddr_run ha hva) <| bind_run_of (src_run_of hb) <| bind_run_of h <|
    ite_run_pos (decide_eq_true hold) <| dst_run ..) ((State.give_cur ..).trans hu)

end Signals

theorem signalInstructions : SignalInstructions := by
  intro s u w x old hu hw
  refine ⟨fun hi => ?_, fun hi => ?_⟩
  · intro a b e ty va hq h hs
    exact exec_signal (a := a.1) (sa := a.2) (b := b.1) (sb := b.2) hw hi rfl rfl rfl rfl hq rfl rfl h hs
  · intro a b e ty h hold
    exact exec_waitsig (a := a.1) (sa := a.2) (b := b.1) (sb := b.2) hu hi rfl rfl rfl rfl rfl rfl h hold

/-- Settles O14: barrier objects (`barrierInstructions`), their phases (`barrierPhases`), SIGNAL and WAITSIG (`signalInstructions`). Which
watch slots a SIGNAL fires is the model's choice in `signalSeen` (log 39). -/
theorem barriersAndSignals : Obligations.BarriersAndSignals := ⟨barrierInstructions, barrierPhases, signalInstructions⟩

end Sys2Proof.Machine
end

section
/-! A context that has waited for an exchange slot (R387): what it is given once its slot has begun. -/
namespace Sys2Proof.Machine
-- Elaborated one after another, so that threads that wait for one another do not use up the memory.
set_option Elab.async false

/-- Core 0's domain stands in exchange slot 2 of four, and its control context has waited in an XWAIT.slot for slot 1 since slot 0. -/
def State.waitedForSlot : State :=
  { State.reset with
    clk := 40
    cores := [(0, { ctxs := [(0, { hstate := .live, resident := true, waitFrom := some 0, win := [(0, 1)] })], domain := some 0 })]
    domains := [(0, { configured := true, exchanging := true, members := [0], slots := 4, slotLen := 16 })] }

/-- XWAIT.slot for the slot that register 0 numbers, its answer to register 2. -/
def xwaitSlot : RFields := ⟨0, 0, 0, 2, .word⟩

/-- The value that an instruction leaves in register 2. -/
def answer : Host.Outcome State Fault Refusal → Option Word
  | .next t => some (t.mine.s 2)
  | _ => none

theorem answer_xwait_waitedForSlot : answer (exec (.xwait xwaitSlot) State.waitedForSlot) = some 1 := by decide +kernel

/-- Refutes O15: its clause for XWAIT.slot gives the slot that runs, 2 here, also to a context that has waited for slot 1. An XWAIT.slot that
has waited completes as its slot begins (R387), and so gives the number it asked for. -/
theorem not_domainInstructions : ¬ Obligations.DomainInstructions := by
  intro h
  obtain ⟨-, -, -, -, hxwait⟩ := h State.waitedForSlot xwaitSlot
  have hslot := ((hxwait (by decide +kernel) 0 (by decide +kernel) (by decide +kernel)).1 rfl (by decide +kernel) (by decide +kernel)).2 2
    (by decide +kernel) (by decide +kernel)
  have hanswer := answer_xwait_waitedForSlot
  rw [hslot] at hanswer
  exact absurd hanswer (by decide +kernel)

end Sys2Proof.Machine
end

section
/-! Row B, the instructions of the matrix engine (R251-R264). -/
namespace Sys2Proof.Machine
-- Elaborated one after another, so that threads that wait for one another do not use up the memory.
set_option Elab.async false

/-! ### The engine of the issuing context's cluster -/

/-- The issuing context owns a tile of its cluster's engine (R254). -/
def State.OwnsTile (s : State) (t : Nat) : Prop :=
  ((s.engine (clusterOf s.cur.1)).tile t).owner = some (.ctx s.cur.1 s.cur.2)
    ∧ ((s.engine (clusterOf s.cur.1)).tile t).shelf = (s.core s.cur.1).shelf ∧ ((s.engine (clusterOf s.cur.1)).tile t).leaving = false

section Engine
variable {s t u : State} {i : Instr} {n : Nat}

theorem State.ownedBy_iff : ((s.engine (clusterOf s.cur.1)).tile n).ownedBy s.cur.1 s.cur.2 (s.core s.cur.1).shelf = true ↔ s.OwnsTile n := by
  simp [Tile.ownedBy, Tile.heldBy, State.OwnsTile, and_assoc]

theorem myEngine_run (s : State) : myEngine.run s = .ok (s.engine (clusterOf s.cur.1), s) := rfl

theorem onMyEngine_run (f : MatrixEngine → MatrixEngine) (s : State) : (onMyEngine f).run s = .ok ((), s.onEngine (clusterOf s.cur.1) f) := rfl

theorem offer_run (k : MacroKind) (s : State) : (offer k).run s = .ok ((), s.withOffer k) := rfl

theorem needRoom_run {load : Bool} (h : (s.engine (clusterOf s.cur.1)).room load = true) : (needRoom load).run s = .ok ((), s) :=
  bind_run_of (myEngine_run s) <| ite_run_pos h <| pure_run ..

theorem needTile_run {aval : Word} (h : s.OwnsTile n) : (needTile n aval).run s = .ok ((), s) :=
  bind_run_of (myEngine_run s) <| bind_run_of (me_run s) <| bind_run_of (myCore_run s) <|
    trapIf_run_false (by rw [State.ownedBy_iff.2 h]; rfl) ..

theorem Reads.engine (hr : Reads s t) : t.engine = s.engine := hr.congr State.engine

theorem Reads.ownsTile (hr : Reads s t) (hc : ReadsCores s t) (h : s.OwnsTile n) : t.OwnsTile n := by
  unfold State.OwnsTile
  rw [hr.engine, hr.cur, hc.congr Core.shelf]
  exact h

end Engine

/-! ### MTILE (R257) -/

section Tile
variable {s sa sb u : State} {x : RFields} {a b : Word} {t : Nat} (hi : Issues (.mtile x) s) (ha : (s.begun (.mtile x)).pull x.a = (a, sa))
  (hb : sa.pull x.b = (b, sb)) (hroom : (s.engine (clusterOf s.cur.1)).room false = true)

theorem issue_macro {load : Bool} {i : Instr} (hi : Issues i s) (hroom : (s.engine (clusterOf s.cur.1)).room load = true)
    (ha : (s.begun i).pull x.a = (a, sa)) (hb : sa.pull x.b = (b, sb)) {k : Env → Word → Word → M Unit}
    (hk : (k (envOf s s.cur.1 s.cur.2 i) a b).run sb = .ok ((), u)) (hu : u.cur = s.cur) :
    issue i (fun v => do
      needRoom load
      let a ← src x.a
      let b ← src x.b
      k v a b) s = .next (u.completed i) :=
  issue_ok hi (bind_run_of (needRoom_run (by rw [(Reads.begun s i).engine]; exact hroom)) <| bind_run_of (src_run_of ha) <|
    bind_run_of (src_run_of hb) hk) hu

include hi ha hb hroom

theorem exec_mtile_open {sh : Nat} {r c keys : Nat} (hf : x.fn = 0) (hlt : a.toNat < 4) (ht : field a 0 2 = t) (h1 : field b 7 8 ≠ 255)
    (h2 : field b 23 8 ≠ 255) (ho : ((s.engine (clusterOf s.cur.1)).tile t).owner = none ∨ s.OwnsTile t)
    (hsh : (s.core s.cur.1).shelf = sh) (hr' : field b 0 16 = r) (hc' : field b 16 16 = c) (hk : field b 32 32 = keys)
    (hown : u = sb.onEngine (clusterOf s.cur.1) (fun e => e.onTile t (fun y => { y with
      owner := some (.ctx s.cur.1 s.cur.2), shelf := sh, owned := (s.mine.launch.map (·.1)).getD 0 }))) :
    exec (.mtile x) s = .next (((u.withOffer (.openTile t r c (BitVec.ofNat 32 keys))).give x.d 0).completed (.mtile x)) := by
  subst ht hr' hc' hk hsh hown
  have hr := ((Reads.begun s _).of_pull ha).of_pull hb
  have hc := ((ReadsCores.begun s _).of_pull ha).of_pull hb
  have hlaunch : (sb.ctx s.cur.1 s.cur.2).launch = s.mine.launch := by
    rw [← hr.cur]
    exact hr.congr_mine Ctx.launch
  have hz : (decide (field b 7 8 = 255) || decide (field b 23 8 = 255)) = false :=
    Bool.or_eq_false_iff.2 ⟨decide_eq_false h1, decide_eq_false h2⟩
  have htaken : ¬(((sb.engine (clusterOf sb.cur.1)).tile (field a 0 2)).owner.isSome
      && !((sb.engine (clusterOf sb.cur.1)).tile (field a 0 2)).ownedBy sb.cur.1 sb.cur.2 (sb.core sb.cur.1).shelf) = true := by
    obtain h | h := ho
    · rw [hr.engine, hr.cur, h]
      simp
    · rw [State.ownedBy_iff.2 (hr.ownsTile hc h)]
      simp
  refine issue_macro hi hroom ha hb ?_ ((State.give_cur ..).trans hr.cur)
  simp only [code_toNat hf]
  refine bind_run_of (me_run _) <| bind_run_of (myEngine_run _) <| bind_run_of (trapIf_run_false (decide_eq_false (by omega)) ..) <|
    bind_run_of (trapIf_run_false hz ..) <| bind_run_of (myCore_run _) <| ite_run_neg htaken <| bind_run_of (get_run _) <|
    bind_run_of (onMyEngine_run ..) <| bind_run_of (offer_run ..) ?_
  rw [dst_run, hr.cur, hc.congr Core.shelf, hlaunch]

theorem exec_mtile_taken (hf : x.fn = 0) (hlt : a.toNat < 4) (ht : field a 0 2 = t) (h1 : field b 7 8 ≠ 255)
    (h2 : field b 23 8 ≠ 255) (hn : ((s.engine (clusterOf s.cur.1)).tile t).owner ≠ none) (ho : ¬s.OwnsTile t) :
    exec (.mtile x) s = .next ((sb.give x.d (-1)).completed (.mtile x)) := by
  subst ht
  have hr := ((Reads.begun s _).of_pull ha).of_pull hb
  have hc := ((ReadsCores.begun s _).of_pull ha).of_pull hb
  have hz : (decide (field b 7 8 = 255) || decide (field b 23 8 = 255)) = false :=
    Bool.or_eq_false_iff.2 ⟨decide_eq_false h1, decide_eq_false h2⟩
  have htaken : (((sb.engine (clusterOf sb.cur.1)).tile (field a 0 2)).owner.isSome
      && !((sb.engine (clusterOf sb.cur.1)).tile (field a 0 2)).ownedBy sb.cur.1 sb.cur.2 (sb.core sb.cur.1).shelf) = true := by
    rw [hr.engine, hr.cur, hc.congr Core.shelf, Option.isSome_iff_ne_none.2 hn, Bool.eq_false_iff.2 (mt State.ownedBy_iff.1 ho)]
    rfl
  refine issue_macro hi hroom ha hb ?_ ((State.give_cur ..).trans hr.cur)
  simp only [code_toNat hf]
  exact bind_run_of (me_run _) <| bind_run_of (myEngine_run _) <| bind_run_of (trapIf_run_false (decide_eq_false (by omega)) ..) <|
    bind_run_of (trapIf_run_false hz ..) <| bind_run_of (myCore_run _) <| ite_run_pos htaken <| dst_run ..

theorem exec_mtile_close (hf : x.fn = 3) (hlt : a.toNat < 4) (ht : field a 0 2 = t) (ho : s.OwnsTile t) :
    exec (.mtile x) s = .next (((sb.withOffer (.close t)).give x.d 0).completed (.mtile x)) := by
  subst ht
  have hr := ((Reads.begun s _).of_pull ha).of_pull hb
  have hc := ((ReadsCores.begun s _).of_pull ha).of_pull hb
  refine issue_macro hi hroom ha hb ?_ ((State.give_cur ..).trans hr.cur)
  simp only [code_toNat hf]
  exact bind_run_of (me_run _) <| bind_run_of (myEngine_run _) <| bind_run_of (trapIf_run_false (decide_eq_false (by omega)) ..) <|
    bind_run_of (needTile_run (hr.ownsTile hc ho)) <| bind_run_of (offer_run ..) <| dst_run ..

variable (hlt : a.toNat < 128) (hz : a.toNat / 4 % 4 = 0) (ht : field a 0 2 = t) (ho : s.OwnsTile t)
include hlt hz ht ho

theorem exec_mtile_save (hf : x.fn = 1) :
    exec (.mtile x) s = .next (((sb.withOffer (.save t (field a 4 3) b)).give x.d 0).completed (.mtile x)) := by
  subst ht
  have hr := ((Reads.begun s _).of_pull ha).of_pull hb
  have hc := ((ReadsCores.begun s _).of_pull ha).of_pull hb
  refine issue_macro hi hroom ha hb ?_ ((State.give_cur ..).trans hr.cur)
  have hz' : (decide (field a 2 2 ≠ 0) || decide (128 ≤ a.toNat)) = false :=
    Bool.or_eq_false_iff.2 ⟨decide_eq_false (not_not.2 hz), decide_eq_false (by omega)⟩
  simp only [code_toNat hf]
  exact bind_run_of (me_run _) <| bind_run_of (myEngine_run _) <| bind_run_of (trapIf_run_false hz' ..) <|
    bind_run_of (needTile_run (hr.ownsTile hc ho)) <| ite_run_pos rfl <| bind_run_of (offer_run ..) <| dst_run ..

/-- MTILE.restore, once its operands pass the checks, looks for the image in its slot (R257). -/
theorem exec_mtile_restore_of {c : Option CkSlot} (hf : x.fn = 2) (hc : (s.engine (clusterOf s.cur.1)).slots.find (field a 4 3) = c)
    (hu : u.cur = s.cur)
    (hrun : (match (generalizing := false) c with
      | some c =>
        if c.tag = b ∧ c.owner = s.ownerOf s.cur.1 s.cur.2 then do
          offer (.restore t (field a 4 3))
          dst x.d 0
        else dst x.d (-2)
      | none => dst x.d (-2) : M Unit).run sb = .ok ((), u)) : exec (.mtile x) s = .next (u.completed (.mtile x)) := by
  subst ht hc
  have hr := ((Reads.begun s _).of_pull ha).of_pull hb
  have hc := ((ReadsCores.begun s _).of_pull ha).of_pull hb
  refine issue_macro hi hroom ha hb ?_ hu
  have hz' : (decide (field a 2 2 ≠ 0) || decide (128 ≤ a.toNat)) = false :=
    Bool.or_eq_false_iff.2 ⟨decide_eq_false (not_not.2 hz), decide_eq_false (by omega)⟩
  simp only [code_toNat hf]
  refine bind_run_of (me_run _) <| bind_run_of (myEngine_run _) <| bind_run_of (trapIf_run_false hz' ..) <|
    bind_run_of (needTile_run (hr.ownsTile hc ho)) <| ite_run_neg (by decide) <| bind_run_of (get_run _) ?_
  rw [← hrun, hr.engine, hr.cur, hr.ownerOf] <;> rfl

theorem exec_mtile_restore {c : CkSlot} (hf : x.fn = 2) (hc : (s.engine (clusterOf s.cur.1)).slots.find (field a 4 3) = some c) (htag : c.tag = b)
    (hown : c.owner = s.ownerOf s.cur.1 s.cur.2) :
    exec (.mtile x) s = .next (((sb.withOffer (.restore t (field a 4 3))).give x.d 0).completed (.mtile x)) :=
  exec_mtile_restore_of hi ha hb hroom hlt hz ht ho hf hc ((State.give_cur ..).trans (((Reads.begun s _).of_pull ha).of_pull hb).cur) <|
    ite_run_pos ⟨htag, hown⟩ <| bind_run_of (offer_run ..) <| dst_run ..

theorem exec_mtile_restore_none (hf : x.fn = 2) (hc : ∀ c, (s.engine (clusterOf s.cur.1)).slots.find (field a 4 3) = some c →
      c.tag ≠ b ∨ c.owner ≠ s.ownerOf s.cur.1 s.cur.2) :
    exec (.mtile x) s = .next ((sb.give x.d (-2)).completed (.mtile x)) := by
  refine exec_mtile_restore_of hi ha hb hroom hlt hz ht ho hf rfl ((State.give_cur ..).trans (((Reads.begun s _).of_pull ha).of_pull hb).cur) ?_
  split
  · rename_i c h
    exact ite_run_neg (fun ⟨h1, h2⟩ => (hc c h).elim (· h1) (· h2)) <| dst_run ..
  · exact dst_run ..

end Tile

theorem tileInstructions : TileInstructions := by
  intro s x i a b e t sl owned hi hroom
  have ha : (s.begun i).pull x.a = (a.1, a.2) := rfl
  have hb : a.2.pull x.b = (b.1, b.2) := rfl
  have ht : field a.1 0 2 = t := field_mod ..
  refine ⟨fun hf hlt h1 h2 ho => ?_, fun hf hlt h1 h2 hn ho => exec_mtile_taken hi ha hb hroom hf hlt ht h1 h2 hn ho,
    fun hf hlt hz ho => exec_mtile_save hi ha hb hroom hlt hz ht ho hf,
    fun hf hlt hz ho c hc htag hown => exec_mtile_restore hi ha hb hroom hlt hz ht ho hf hc htag hown,
    fun hf hlt hz ho hc => exec_mtile_restore_none hi ha hb hroom hlt hz ht ho hf hc,
    fun hf hlt ho => exec_mtile_close hi ha hb hroom hf hlt ht ho⟩
  exact exec_mtile_open hi ha hb hroom hf hlt ht h1 h2 ho rfl (field_mod ..) rfl (field_div (by decide)) rfl

/-! ### Macro-operations (R258, R259, R261, R264) -/

theorem Core.panelMode_none {c : Core} {p : Panel} {j : Nat} {rows : BitVec 32} (h : ∀ r ∈ rowsOf rows, c.mode (p.bank j r) = 0) :
    c.panelMode p j rows = none := by
  have hf : (rowsOf rows).filter (fun i => c.mode (p.bank j i) ≠ 0) = [] := List.filter_eq_nil_iff.2 fun r hr => by simp [h r hr]
  rw [Core.panelMode, hf]
  rfl

theorem panelCheck_none {c : Core} {a aval : Word} {j : Nat} {rows : BitVec 32} (hbad : panelBad a j = false)
    (h : ∀ r ∈ rowsOf rows, c.mode ((panelOf a).bank j r) = 0) : panelCheck c a j rows false aval = none := by
  rw [panelCheck, hbad, Core.panelMode_none h]
  rfl

/-- A check that finds nothing finds nothing whatever %tval it would report. -/
theorem outCheck_aval {c : Core} {ty st : Nat} {a aval : Word} {stats more : Bool} (h : outCheck c ty a st stats more aval = none) (aval' : Word) :
    outCheck c ty a st stats more aval' = none := by
  unfold outCheck at h ⊢
  dsimp only at h ⊢
  split at h
  · exact absurd h nofun
  · rename_i h1
    rw [if_neg h1]
    split at h
    · exact absurd h nofun
    · rename_i h2
      rw [if_neg h2]
      split at h
      · exact absurd h nofun
      · rename_i h3
        rw [if_neg h3]
        exact h

theorem panelCheck_aval {c : Core} {a aval : Word} {j : Nat} {rows : BitVec 32} {more : Bool} (h : panelCheck c a j rows more aval = none)
    (aval' : Word) : panelCheck c a j rows more aval' = none := by
  unfold panelCheck at h ⊢
  split at h
  · exact absurd h nofun
  · rename_i h1
    rw [if_neg h1]
    exact h

theorem trapOn_run_none {r : Option (Nat × Word)} (h : r = none) (s : State) : (trapOn r).run s = .ok ((), s) := by
  subst h
  exact pure_run ..

/-- The checks of local memory depend on the modes of a core's banks only. -/
theorem ReadsCores.outCheck_core {s t : State} (h : ReadsCores s t) (g ty st : Nat) (a aval : Word) (stats more : Bool) :
    outCheck (t.core g) ty a st stats more aval = outCheck (s.core g) ty a st stats more aval :=
  h.congr (outCheck · ty a st stats more aval) g

theorem ReadsCores.panelCheck_core {s t : State} (h : ReadsCores s t) (g j : Nat) (a aval : Word) (rows : BitVec 32) (more : Bool) :
    panelCheck (t.core g) a j rows more aval = panelCheck (s.core g) a j rows more aval :=
  h.congr (panelCheck · a j rows more aval) g

section Macro
variable {s sa sb sc u : State} {x : RFields} {a b c : Word} {v : Env} {t j st ty : Nat} {e : MatrixEngine} {core : Core}

theorem exec_mloadb {buf : Nat} {bs : List Byte} {bad : Bool} (hu : u.cur = s.cur) (hi : Issues (.mloadb x) s)
    (hv : envOf s s.cur.1 s.cur.2 (.mloadb x) = v) (ha : (s.begun (.mloadb x)).pull x.a = (a, sa)) (hb : sa.pull x.b = (b, sb))
    (hroom : (s.engine (clusterOf s.cur.1)).room true = true) (hal : a.toNat % 64 = 0) (hbuf : b.toNat = buf) (hlt : buf < 2)
    (hty : v.e.ty.toNat = ty) (h : Does (blockLines v (blockSize ty / 64) a) sb (bs, bad) u) {w : State}
    (hw : u.onEngine (clusterOf s.cur.1) (fun e => { e with bufs := e.bufs.set buf {
      e.bufs.get {} buf with user := some (u.ownerOf s.cur.1 s.cur.2) } }) = w) :
    exec (.mloadb x) s = .next ((w.withOffer (.load buf (blockElems ty bs) bad)).completed (.mloadb x)) := by
  subst hv hbuf hty hw
  refine issue_macro hi hroom ha hb ?_ hu
  refine bind_run_of (trapIf_run_false (decide_eq_false (not_not.2 hal)) ..) <|
    bind_run_of (trapIf_run_false (decide_eq_false (Nat.not_le.2 hlt)) ..) <| bind_run_of h <| bind_run_of (get_run u) <|
      bind_run_of (onMyEngine_run ..) ?_
  rw [Nat.mod_eq_of_lt hlt, hu, offer_run]

theorem exec_macc {buf : Nat} (hi : Issues (.macc x) s) (ha : (s.begun (.macc x)).pull x.a = (a, sa)) (hb : sa.pull x.b = (b, sb))
    (he : s.engine (clusterOf s.cur.1) = e) (hcore : s.core s.cur.1 = core) (hroom : e.room false = true)
    (hlt : b.toNat < 2 ^ 16) (hz : field b 3 5 = 0) (ht : field b 0 2 = t) (hbuf : field b 2 1 = buf) (hj : field b 8 8 = j) (ho : s.OwnsTile t)
    (huser : (e.bufs.get {} buf).user = some (s.ownerOf s.cur.1 s.cur.2)) (hbad : panelBad a j = false)
    (hmode : ∀ r ∈ rowsOf (e.rowsNow t), core.mode ((panelOf a).bank j r) = 0) :
    exec (.macc x) s = .next ((sb.withOffer (.macc t buf (panelOf a) j)).completed (.macc x)) := by
  subst ht hbuf hj he hcore
  have hr := ((Reads.begun s _).of_pull ha).of_pull hb
  have hc := ((ReadsCores.begun s _).of_pull ha).of_pull hb
  have hok : (panelBad a (field b 8 8) || decide (field b 3 5 ≠ 0) || decide (2 ^ 16 ≤ b.toNat)) = false := by
    rw [hbad, hz, decide_eq_false (Nat.not_le.2 hlt)]
    rfl
  refine issue_macro hi hroom ha hb ?_ hr.cur
  refine bind_run_of (myCore_run _) <| bind_run_of (myEngine_run _) <| bind_run_of (trapIf_run_false hok ..) <|
    bind_run_of (needTile_run (hr.ownsTile hc ho)) <| bind_run_of (get_run _) <| bind_run_of (trapIf_run_false ?_ ..) <|
    bind_run_of (trapOn_run_none ?_ _) <| offer_run ..
  · rw [hr.engine, hr.cur, hr.ownerOf, huser]
    exact decide_eq_false (not_not.2 rfl)
  · rw [hr.engine, hr.cur, hc.panelCheck_core]
    exact panelCheck_none hbad hmode

section Mread
variable (hi : Issues (.mread x) s) (hv : envOf s s.cur.1 s.cur.2 (.mread x) = v) (ha : (s.begun (.mread x)).pull x.a = (a, sa))
  (hb : sa.pull x.b = (b, sb)) (he : s.engine (clusterOf s.cur.1) = e) (hcore : s.core s.cur.1 = core) (hroom : e.room false = true)
  (hlt : b.toNat < 2 ^ 32) (hz : field b 4 4 = 0) (ht : field b 0 2 = t) (ho : s.OwnsTile t) (hty : v.e.ty.toNat = ty)
include hi hv ha hb he hcore hroom hlt hz ht ho hty

theorem exec_mread (hn : ty ≠ 15) (hst : field b 16 16 = st) (h : outCheck core ty a st false false 0 = none) :
    exec (.mread x) s = .next ((sb.withOffer (.mread t ty (offOf a) st (b.getLsbD 2) (b.getLsbD 3))).completed (.mread x)) := by
  subst ht hst he hcore hv hty
  have hr := ((Reads.begun s _).of_pull ha).of_pull hb
  have hc := ((ReadsCores.begun s _).of_pull ha).of_pull hb
  have hbad : (decide (field b 4 4 ≠ 0) || decide (2 ^ 32 ≤ b.toNat)) = false := by
    rw [hz, decide_eq_false (Nat.not_le.2 hlt)]
    rfl
  refine issue_macro hi hroom ha hb ?_ hr.cur
  refine bind_run_of (myCore_run _) <| bind_run_of (myEngine_run _) <|
    bind_run_of (needTile_run (hr.ownsTile hc ho)) <| ite_run_neg hn <| bind_run_of (trapOn_run_none ?_ _) <| offer_run ..
  rw [hbad, hr.cur, hc.outCheck_core]
  exact outCheck_aval h _

theorem exec_mread_pln (hn : ty = 15) (hj : field b 8 8 = j) (h : panelCheck core a j (e.rowsNow t) false 0 = none) :
    exec (.mread x) s = .next ((sb.withOffer (.mreadPln t (panelOf a) j (b.getLsbD 2) (b.getLsbD 3))).completed (.mread x)) := by
  subst ht hj he hcore hv hty
  have hr := ((Reads.begun s _).of_pull ha).of_pull hb
  have hc := ((ReadsCores.begun s _).of_pull ha).of_pull hb
  have hbad : (decide (field b 4 4 ≠ 0) || decide (2 ^ 32 ≤ b.toNat)) = false := by
    rw [hz, decide_eq_false (Nat.not_le.2 hlt)]
    rfl
  refine issue_macro hi hroom ha hb ?_ hr.cur
  refine bind_run_of (myCore_run _) <| bind_run_of (myEngine_run _) <|
    bind_run_of (needTile_run (hr.ownsTile hc ho)) <| ite_run_pos hn <| bind_run_of (trapOn_run_none ?_ _) <| offer_run ..
  rw [hbad, hr.engine, hr.cur, hc.panelCheck_core]
  exact panelCheck_aval h _

end Mread

theorem exec_msoft {tau : Nat} (hi : Issues (.msoft x) s) (hv : envOf s s.cur.1 s.cur.2 (.msoft x) = v)
    (ha : (s.begun (.msoft x)).pull x.a = (a, sa)) (hb : sa.pull x.b = (b, sb)) (hc' : sb.pull v.e.c = (c, sc))
    (hcore : s.core s.cur.1 = core) (hroom : (s.engine (clusterOf s.cur.1)).room false = true) (hz : field b 2 14 = 0)
    (htau : field b 32 32 = tau) (h0 : 0 < tau) (hmax : tau < 0x7F800000) (ht : field b 0 2 = t) (ho : s.OwnsTile t)
    (hst : field b 16 16 = st) (hty : v.e.ty.toNat = ty) (h : outCheck core ty a st true false 0 = none) :
    exec (.msoft x) s = .next ((sc.withOffer (.msoft t ty (offOf a) st tau c
      (if x.fn = 1 then some v.e.imm32.toInt else none))).completed (.msoft x)) := by
  subst ht hst htau hcore hv hty
  have hr := (((Reads.begun s _).of_pull ha).of_pull hb).of_pull hc'
  have hc := (((ReadsCores.begun s _).of_pull ha).of_pull hb).of_pull hc'
  have hbad : (decide (field b 2 14 ≠ 0) || decide (0x7F800000 ≤ field b 32 32) || decide (field b 32 32 = 0)) = false := by
    rw [hz, decide_eq_false (Nat.not_le.2 hmax), decide_eq_false h0.ne']
    rfl
  refine issue_macro hi hroom ha hb (bind_run_of (src_run_of hc') ?_) hr.cur
  refine bind_run_of (myCore_run _) <|
    bind_run_of (needTile_run (hr.ownsTile hc ho)) <| bind_run_of (trapOn_run_none ?_ _) <| offer_run ..
  rw [hbad, hr.cur, hc.outCheck_core]
  exact outCheck_aval h _

end Macro

theorem macroInstructions : MacroInstructions := by
  intro s x read first core e mine
  have ha (i : Instr) : (s.begun i).pull x.a = (first i, ((s.begun i).pull x.a).2) := rfl
  have hb (i : Instr) : ((s.begun i).pull x.a).2.pull x.b = ((read i).1, (read i).2) := rfl
  refine ⟨fun u bs bad hu => ?_, ?_, ?_, ?_⟩
  · intro i ty buf hi hroom hal hlt h
    exact exec_mloadb hu hi rfl (ha i) (hb i) hroom hal rfl hlt rfl h rfl
  · intro i b hi hroom hlt hz ho huser hbad hmode
    exact exec_macc hi (ha i) (hb i) rfl rfl hroom hlt hz (field_mod ..) rfl rfl ho huser hbad hmode
  · intro i ty b hi hroom hlt hz ho
    exact ⟨fun hn h => exec_mread hi rfl (ha i) (hb i) rfl rfl hroom hlt hz (field_mod ..) ho rfl hn rfl h,
      fun hn h => exec_mread_pln hi rfl (ha i) (hb i) rfl rfl hroom hlt hz (field_mod ..) ho rfl hn rfl h⟩
  · intro i ty b tau c hi hroom hz h0 hmax ho h
    have ht : field (read i).1 0 2 = b % 4 := field_mod ..
    have htau : field (read i).1 32 32 = tau := by rfl
    have hst : field (read i).1 16 16 = b / 2 ^ 16 % 2 ^ 16 := by rfl
    have hc : (read i).2.pull (extOf i).c = (c.1, c.2) := rfl
    have hz' : field (read i).1 2 14 = 0 := hz
    exact exec_msoft (v := envOf s s.cur.1 s.cur.2 (.msoft x)) hi rfl (ha i) (hb i) hc rfl hroom hz' htau h0 hmax ht ho hst rfl h

/-! ### MSCALE, MWAIT and MSTAT (R251, R260, R262, R263) -/

section States
variable {s sa u : State} {x : RFields} {a : Word} {e : MatrixEngine}

theorem exec_mscale {row col : List Int} {t : Nat} (hi : Issues (.mscale x) s) (ht : x.fn.toNat = t)
    (hrow : (List.range 32).map (fun n => (s.mine.lane x.a.toNat n).toInt) = row)
    (hcol : (List.range 64).map (fun n => (s.mine.lane x.b.toNat n).toInt) = col) (he : s.engine (clusterOf s.cur.1) = e)
    (hgrant : 64 ≤ s.mine.grant) (hown : (e.tile t).owner ≠ none)
    (hkeep : Does (keeperOf (clusterOf s.cur.1) (e.tile t).owned) (s.begun (.mscale x)) (coreInCluster s.cur.1) (s.begun (.mscale x)))
    (hz : ∀ z ∈ row ++ col, -32768 ≤ z ∧ z ≤ 32767) (hroom : (e.tile t).fifo.length < 8) :
    exec (.mscale x) s = .next (((s.begun (.mscale x)).onEngine (clusterOf s.cur.1) (fun e => e.onTile t (fun y => { y with
      fifo := y.fifo ++ [{ r := row, y := col }] }))).completed (.mscale x)) := by
  subst ht hrow hcol he
  have hr := Reads.begun s (.mscale x)
  have hlane (n i : Nat) : (s.begun (.mscale x)).mine.lane n i = s.mine.lane n i := hr.congr_mine (·.lane n i)
  have hrange : ((List.range 32).map (fun n => (s.mine.lane x.a.toNat n).toInt) ++ (List.range 64).map fun n => (s.mine.lane x.b.toNat n).toInt).any
      (fun z => decide (z < -32768) || decide (32767 < z)) = false :=
    List.any_eq_false.2 fun z h => by have := hz z h; simp; omega
  refine issue_ok hi ?_ ((State.onEngine_cur ..).trans hr.cur)
  refine bind_run_of (myCtx_run _) ?_
  simp only [hlane]
  exact bind_run_of (trapIf_run_false (decide_eq_false (by rw [hr.congr_mine Ctx.grant]; exact Nat.not_lt.2 hgrant)) ..) <|
    bind_run_of (myEngine_run _) <| bind_run_of (me_run _) <|
    bind_run_of (trapIf_run_false (by rw [hr.engine, hr.cur, Option.isNone_eq_false_iff, Option.isSome_iff_ne_none]; exact hown) ..) <|
    bind_run_of hkeep <| bind_run_of (trapIf_run_false (decide_eq_false (not_not.2 rfl)) ..) <| bind_run_of (trapIf_run_false hrange ..) <|
    ite_run_neg (by rw [hr.engine, hr.cur]; exact Nat.not_le.2 hroom) <| onMyEngine_run ..

/-- Bits of the tiles that a word names and for which something holds (R262). -/
theorem namedBits_eq (p f : Nat → Bool) : (([0, 1, 2, 3].filter fun t => p t && f t).foldl (fun acc t => acc + 2 ^ t) 0) =
    ([0, 1, 2, 3].map fun t => if p t = true ∧ f t = true then 2 ^ t else 0).sum := by
  have hsum (l : List Nat) (n : Nat) : (l.filter fun t => p t && f t).foldl (fun acc t => acc + 2 ^ t) n =
      n + (l.map fun t => if p t = true ∧ f t = true then 2 ^ t else 0).sum := by
    induction l generalizing n with
    | nil => rfl
    | cons t l ih =>
      by_cases h : p t = true ∧ f t = true
      · rw [List.filter_cons_of_pos (by simpa using h), List.foldl_cons, ih, List.map_cons, List.sum_cons, if_pos h, Nat.add_assoc]
      · rw [List.filter_cons_of_neg (by simpa using h), ih, List.map_cons, List.sum_cons, if_neg h, Nat.zero_add]
  rw [hsum, Nat.zero_add]

theorem exec_mwait {core : Core} (hi : Issues (.mwait x) s) (ha : (s.begun (.mwait x)).pull x.a = (a, sa))
    (he : s.engine (clusterOf s.cur.1) = e) (hcore : s.core s.cur.1 = core) (hlt : a.toNat < 32)
    (hidle : ∀ o ∈ e.loads ++ e.computes ++ e.offered, o.core = s.cur.1 → o.ctx = s.cur.2 → o.shelf = core.shelf →
      (match o.kind.tile with
        | some t => a.getLsbD t
        | none => a.getLsbD 4) = false) :
    exec (.mwait x) s = .next ((sa.give x.d (BitVec.ofNat 64
      (([0, 1, 2, 3].map fun t => if a.getLsbD t = true ∧ decide ((e.tile t).errc ≠ 0) = true then 2 ^ t else 0).sum
        + 16 * ([0, 1, 2, 3].map fun t => if a.getLsbD t = true ∧ (e.tile t).img.ovf = true then 2 ^ t else 0).sum))).completed (.mwait x)) := by
  subst he hcore
  have hr := (Reads.begun s _).of_pull ha
  have hc := (ReadsCores.begun s _).of_pull ha
  have hbusy : (s.engine (clusterOf s.cur.1)).busyFor s.cur.1 s.cur.2 (s.core s.cur.1).shelf
      (fun o => match o.tile with | some t => a.getLsbD t | none => a.getLsbD 4) = false := by
    refine List.any_eq_false.2 fun o ho h => ?_
    simp only [Bool.and_eq_true, decide_eq_true_eq] at h
    obtain ⟨⟨⟨h1, h2⟩, h3⟩, h4⟩ := h
    exact absurd h4 (Bool.eq_false_iff.1 (hidle o ho h1 h2 h3))
  refine issue_ok hi (bind_run_of (src_run_of ha) <| bind_run_of (me_run _) <| bind_run_of (myEngine_run _) <|
    bind_run_of (trapIf_run_false (decide_eq_false (Nat.not_le.2 hlt)) ..) <| bind_run_of (myCore_run _) <|
    ite_run_neg ?_ ?_) ((State.give_cur ..).trans hr.cur)
  · rw [← hr.engine, ← hc.congr Core.shelf, ← hr.cur] at hbusy
    exact Bool.eq_false_iff.1 hbusy
  · rw [dst_run, hr.engine, hr.cur]
    simp only [namedBits_eq (fun t => a.getLsbD t)]

section Mstat
variable (hi : Issues (.mstat x) s) (ha : (s.begun (.mstat x)).pull x.a = (a, sa)) (he : s.engine (clusterOf s.cur.1) = e)
include hi ha he

theorem exec_mstat_tile {n : Nat} (hf : x.fn = 0) (hlt : a.toNat < 4)
    (hown : (ownerField (e.tile a.toNat).owner).run sa = .ok (n, sa)) :
    exec (.mstat x) s = .next ((sa.give x.d (BitVec.ofNat 64 (e.status a.toNat + n))).completed (.mstat x)) := by
  subst he
  have hr := (Reads.begun s _).of_pull ha
  refine issue_ok hi (bind_run_of (src_run_of ha) <| bind_run_of (me_run _) <| bind_run_of (myEngine_run _) ?_) ((State.give_cur ..).trans hr.cur)
  simp only [code_toNat hf, hr.engine, hr.cur]
  exact bind_run_of (trapIf_run_false (decide_eq_false (Nat.not_le.2 hlt)) ..) <| bind_run_of hown <| dst_run ..

theorem exec_mstat_masked (hf : x.fn = 1) (hlt : a.toNat < 4) :
    exec (.mstat x) s = .next ((sa.give x.d (BitVec.ofNat 64 (e.tile a.toNat).masked.toNat)).completed (.mstat x)) := by
  subst he
  have hr := (Reads.begun s _).of_pull ha
  refine issue_ok hi (bind_run_of (src_run_of ha) <| bind_run_of (me_run _) <| bind_run_of (myEngine_run _) ?_) ((State.give_cur ..).trans hr.cur)
  simp only [code_toNat hf, hr.engine, hr.cur]
  exact bind_run_of (trapIf_run_false (decide_eq_false (Nat.not_le.2 hlt)) ..) <| dst_run ..

theorem exec_mstat_engine (hf : x.fn = 2) :
    exec (.mstat x) s = .next ((sa.give x.d (BitVec.ofNat 64 e.summary)).completed (.mstat x)) := by
  subst he
  have hr := (Reads.begun s _).of_pull ha
  refine issue_ok hi (bind_run_of (src_run_of ha) <| bind_run_of (me_run _) <| bind_run_of (myEngine_run _) ?_) ((State.give_cur ..).trans hr.cur)
  simp only [code_toNat hf, hr.engine, hr.cur]
  exact dst_run ..

theorem exec_mstat_governor (hf : x.fn = 3) {w : Word} (hw : e.govAt s.clk = w) :
    exec (.mstat x) s = .next ((sa.give x.d w).completed (.mstat x)) := by
  subst he hw
  have hr := (Reads.begun s _).of_pull ha
  refine issue_ok hi (bind_run_of (src_run_of ha) <| bind_run_of (me_run _) <| bind_run_of (myEngine_run _) ?_) ((State.give_cur ..).trans hr.cur)
  simp only [code_toNat hf, hr.engine, hr.cur]
  refine bind_run_of (get_run _) ?_
  rw [dst_run, hr.congr State.clk]

theorem exec_mstat_slot (hf : x.fn = 4) (hlt : a.toNat < 8) {w : Word} (hw : (match e.slots.find a.toNat with
      | some c => if c.owner = s.ownerOf s.cur.1 s.cur.2 then c.tag else 0
      | none => 0) = w) :
    exec (.mstat x) s = .next ((sa.give x.d w).completed (.mstat x)) := by
  subst he hw
  have hr := (Reads.begun s _).of_pull ha
  refine issue_ok hi (bind_run_of (src_run_of ha) <| bind_run_of (me_run _) <| bind_run_of (myEngine_run _) ?_) ((State.give_cur ..).trans hr.cur)
  simp only [code_toNat hf, hr.engine, hr.cur]
  refine bind_run_of (trapIf_run_false (decide_eq_false (Nat.not_le.2 hlt)) ..) <| bind_run_of (get_run _) ?_
  rw [hr.ownerOf]
  exact dst_run ..

omit he in
theorem exec_mstat_keeper (hf : x.fn = 5) {n : Nat} (hu : u.cur = s.cur)
    (h : Does (keeperOf (clusterOf s.cur.1) ((s.mine.launch.map (·.1)).getD 0)) sa n u) :
    exec (.mstat x) s = .next ((u.give x.d (BitVec.ofNat 64 n)).completed (.mstat x)) := by
  have hr := (Reads.begun s _).of_pull ha
  refine issue_ok hi (bind_run_of (src_run_of ha) <| bind_run_of (me_run _) <| bind_run_of (myEngine_run _) ?_) ((State.give_cur ..).trans hu)
  simp only [code_toNat hf, hr.cur]
  refine bind_run_of (myCtx_run _) ?_
  rw [hr.congr_mine Ctx.launch]
  exact bind_run_of h <| dst_run ..

end Mstat

end States

theorem matrixStateInstructions : MatrixStateInstructions := by
  intro s x e
  refine ⟨?_, ?_, ?_⟩
  · intro i t row col hi hgrant hown hkeep hz hroom
    exact exec_mscale hi rfl rfl rfl rfl hgrant hown hkeep hz hroom
  · intro i a bits hi hlt hidle
    exact exec_mwait (a := a.1) (sa := a.2) hi rfl rfl rfl hlt hidle
  · intro i a gives hi
    have ha : (s.begun i).pull x.a = (a.1, a.2) := rfl
    refine ⟨fun hf hlt hn => ?_, fun hf hlt => exec_mstat_masked hi ha rfl hf hlt, fun hf => exec_mstat_engine hi ha rfl hf, fun hf => ?_,
      fun hf hlt => exec_mstat_slot hi ha rfl hf hlt rfl, fun hf n u hu h => exec_mstat_keeper hi ha hf hu h⟩
    · refine exec_mstat_tile hi ha rfl hf hlt ?_
      split
      · rename_i h
        rw [h]
        exact pure_run ..
      · rename_i h
        cases ho : (e.tile a.1.toNat).owner with
        | none => exact pure_run ..
        | some o =>
          cases o with
          | ctx g k => exact absurd ho (h g k)
          | node => exact absurd ho hn
    · refine exec_mstat_governor hi ha rfl hf ?_
      unfold MatrixEngine.govAt
      cases e.govWait <;> rfl

/-- Settles O21: MTILE (`tileInstructions`), the macro-operations (`macroInstructions`), and MSCALE, MWAIT and MSTAT
(`matrixStateInstructions`). -/
theorem matrixInstructions : Obligations.MatrixInstructions := ⟨tileInstructions, macroInstructions, matrixStateInstructions⟩

end Sys2Proof.Machine
end

section
/-! Row C: copies, batches and near-memory commands (R303, R305, R313, R315-R321). -/
namespace Sys2Proof.Machine
-- Elaborated one after another, so that threads that wait for one another do not use up the memory.
set_option Elab.async false

theorem State.onMine_eq {s : State} {f f' : Ctx → Ctx} (h : f s.mine = f' s.mine) : s.onMine f = s.onMine f' :=
  congrArg (s.setCtx s.cur.1 s.cur.2) h

theorem freshId_run (s : State) : freshId.run s = .ok (s.fresh, { s with fresh := s.fresh + 1 }) := rfl

/-! ### Copies (R303, R315, R316) -/

section Quad
variable {s s0 s1 s2 s3 : State} {a : BitVec 6} {w0 w1 w2 w3 : Word} (h0 : s.pull a = (w0, s0)) (h1 : s0.pull (a + 1) = (w1, s1))
  (h2 : s1.pull (a + 2) = (w2, s2)) (h3 : s2.pull (a + 3) = (w3, s3))
include h0 h1 h2 h3

theorem srcQuad_run : (srcQuad a).run s = .ok ([w0, w1, w2, w3], s3) :=
  bind_run_of (src_run_of h0) <| bind_run_of (src_run_of h1) <| bind_run_of (src_run_of h2) <| bind_run_of (src_run_of h3) <| pure_run ..

theorem Reads.of_quad {r : State} (h : Reads r s) : Reads r s3 := (((h.of_pull h0).of_pull h1).of_pull h2).of_pull h3

theorem ReadsCores.of_quad {r : State} (h : ReadsCores r s) : ReadsCores r s3 := (((h.of_pull h0).of_pull h1).of_pull h2).of_pull h3

end Quad

theorem release_run_at {s : State} {p : Nat} {aval : Word} (hp : s.mine.l = p) (hl : p + 1 < clockLimit) :
    (release aval).run s = .ok (p, s.onMine fun c => { c with l := p + 1 }) := by
  subst hp
  exact releaseMine_run hl

section Cpq
variable {s sb : State} {x : RFields} {ws : List Word} (hi : Issues (.cpq x) s) (hq : (srcQuad x.a).run (s.begun (.cpq x)) = .ok (ws, sb))
  (hr : Reads s sb) (hc : ReadsCores s sb) (hok : copyCheck ws (envOf s s.cur.1 s.cur.2 (.cpq x)).aval = none)
include hi hq hr hc hok

theorem exec_cpq {u : State} {p id : Nat} {n m : State × CopyJob} (hlen : (s.core s.cur.1).cpq.length < 8) (hp : s.mine.l = p) (hid : s.fresh = id)
    (hl : p + 1 < clockLimit) (hu : { sb.onMine (fun c => { c with l := p + 1 }) with fresh := id + 1 } = u)
    (hn : u.numberCopy (clusterOf s.cur.1) (newCopy u id ws p s.mine.pc) = n) (hm : n.1.placeCopy (clusterOf s.cur.1) n.2 = m)
    (hcur : m.1.cur = s.cur) :
    exec (.cpq x) s = .next ((((m.1.onCore s.cur.1 (fun c => { c with cpq := c.cpq ++ [m.2] })).onMine (fun c => { c with
        openBatch := { c.openBatch with ops := c.openBatch.ops ++ [id], used := true } })).give x.d 0).completed (.cpq x)) := by
  have hpb : sb.mine.l = p := (hr.congr_mine Ctx.l).trans hp
  have hidb : sb.fresh = id := (hr.congr State.fresh).trans hid
  have hucur : u.cur = s.cur := by
    subst hu
    exact hr.cur
  refine issue_ok hi (bind_run_of hq <| bind_run_of (trapOn_run_none hok _) <| bind_run_of (myCore_run _) <| ite_run_neg ?_ <|
    bind_run_of (release_run_at hpb hl) <| bind_run_of (freshId_run _) <| bind_run_of (modify_run ..) ?_) ((State.give_cur ..).trans hcur)
  · rw [hr.cur, hc.congr Core.cpq]
    exact Nat.not_le.2 hlen
  · subst hidb
    rw [show ({ sb.onMine (fun c => { c with l := p + 1 }) with fresh := (sb.onMine fun c => { c with l := p + 1 }).fresh + 1 } : State) = u from hu]
    subst hm hn
    simp only [hucur, show (sb.onMine fun c => { c with l := p + 1 }).fresh = sb.fresh from rfl]
    rw [dst_run, State.onMine, State.onCore_cur, hcur]
    rfl

theorem exec_cpq_full (hlen : 8 ≤ (s.core s.cur.1).cpq.length) (hf : x.fn = 1) :
    exec (.cpq x) s = .next ((sb.give x.d (-1)).completed (.cpq x)) := by
  refine issue_ok hi (bind_run_of hq <| bind_run_of (trapOn_run_none hok _) <| bind_run_of (myCore_run _) <| ite_run_pos ?_ <|
    ite_run_pos hf <| dst_run ..) ((State.give_cur ..).trans hr.cur)
  rw [hr.cur, hc.congr Core.cpq]
  exact hlen

end Cpq

theorem copyIssue : CopyIssue := by
  intro s x i w0 w1 w2 w3 ws v hi hok
  have h0 : (s.begun i).pull x.a = (w0.1, w0.2) := rfl
  have h1 : w0.2.pull (x.a + 1) = (w1.1, w1.2) := rfl
  have h2 : w1.2.pull (x.a + 2) = (w2.1, w2.2) := rfl
  have h3 : w2.2.pull (x.a + 3) = (w3.1, w3.2) := rfl
  have hq := srcQuad_run h0 h1 h2 h3
  have hr : Reads s w3.2 := Reads.of_quad h0 h1 h2 h3 (Reads.begun s i)
  have hc : ReadsCores s w3.2 := ReadsCores.of_quad h0 h1 h2 h3 (ReadsCores.begun s i)
  refine ⟨fun hlen hl => ?_, fun hlen hf => exec_cpq_full hi hq hr hc hok hlen hf⟩
  intro u0 u n m hcur
  exact exec_cpq hi hq hr hc hok hlen rfl rfl hl rfl rfl rfl hcur

/-! ### Batches (R305, R317, R318, R342) -/

section Batch
variable {s sa : State} {x : RFields} {a : Word}

theorem exec_cpseal (hi : Issues (.cpseal x) s) (hlen : s.mine.batches.length < 16) :
    exec (.cpseal x) s = .next ((((s.begun (.cpseal x)).onMine Ctx.seal).give x.d (BitVec.ofNat 64 s.mine.openBatch.num)).completed (.cpseal x)) := by
  have hr := Reads.begun s (.cpseal x)
  refine issue_ok hi (bind_run_of (myCtx_run _) <| ite_run_neg ?_ <| bind_run_of (onMyCtx_run ..) ?_) ((State.give_cur ..).trans hr.cur)
  · rw [hr.congr_mine Ctx.batches]
    exact Nat.not_le.2 hlen
  · rw [hr.congr_mine Ctx.openBatch]
    exact dst_run ..

section Wait
variable (hi : Issues (.cpwait x) s) (ha : (s.begun (.cpwait x)).pull x.a = (a, sa)) (hlen : s.mine.batches.length ≤ a.toNat)
include hi ha hlen

theorem exec_cpwait_none (hd : s.mine.done = 0) : exec (.cpwait x) s = .next ((sa.give x.d 0).completed (.cpwait x)) := by
  have hr := (Reads.begun s _).of_pull ha
  have hdone : sa.mine.done = 0 := (hr.congr_mine Ctx.done).trans hd
  refine issue_ok hi (bind_run_of (src_run_of ha) <| bind_run_of (myCtx_run _) <| ite_run_neg ?_ <|
    ite_run_pos hdone ?_) ((State.give_cur ..).trans hr.cur)
  · rw [hr.congr_mine Ctx.batches]
    exact Nat.not_lt.2 hlen
  · rw [hdone]
    exact dst_run ..

theorem exec_cpwait_done (hd : s.mine.done ≠ 0) (hl : max s.mine.h s.mine.doneP + 1 < clockLimit) :
    exec (.cpwait x) s = .next (((sa.acquires s.mine.doneP).give x.d (BitVec.ofNat 64 s.mine.done)).completed (.cpwait x)) := by
  have hr := (Reads.begun s _).of_pull ha
  have hdone : sa.mine.done = s.mine.done := hr.congr_mine Ctx.done
  have hacq : (acquire sa.mine.doneP (envOf s s.cur.1 s.cur.2 (.cpwait x)).aval).run sa = .ok ((), sa.acquires s.mine.doneP) := by
    rw [hr.congr_mine Ctx.doneP]
    exact acquire_run (by rwa [hr.congr_mine Ctx.h])
  refine issue_ok hi (bind_run_of (src_run_of ha) <| bind_run_of (myCtx_run _) <| ite_run_neg ?_ <|
    ite_run_neg (hdone.trans_ne hd) <| bind_run_of hacq ?_) ((State.give_cur ..).trans hr.cur)
  · rw [hr.congr_mine Ctx.batches]
    exact Nat.not_lt.2 hlen
  · rw [hdone]
    exact dst_run ..

end Wait

/-- CPSTAT's answer (R318). -/
def State.copyStat (s : State) (fn : BitVec 4) : Word :=
  if fn = 0 then BitVec.ofNat 64 (s.mine.sealed * 2 ^ 32 + s.mine.done)
  else if fn = 1 then copyQueueWord (s.core s.cur.1) s.mine
  else if fn = 2 then s.mine.errWord
  else s.mine.errNum

theorem exec_cpstat (hi : Issues (.cpstat x) s) :
    exec (.cpstat x) s = .next (((s.begun (.cpstat x)).give x.d (s.copyStat x.fn)).completed (.cpstat x)) := by
  have hr := Reads.begun s (.cpstat x)
  have hc := ReadsCores.begun s (.cpstat x)
  refine issue_ok hi (bind_run_of (myCore_run _) <| bind_run_of (myCtx_run _) ?_) ((State.give_cur ..).trans hr.cur)
  have hqueue : copyQueueWord ((s.begun (.cpstat x)).core s.cur.1) (s.begun (.cpstat x)).mine = copyQueueWord (s.core s.cur.1) s.mine := by
    rw [hr.mine]
    exact hc.congr (fun c => copyQueueWord c s.mine) _
  have hcode {k : BitVec 4} (h : x.fn.toNat = k.toNat) : x.fn = k := BitVec.eq_of_toNat_eq h
  rw [dst_run, hr.cur, hqueue, hr.congr_mine Ctx.sealed, hr.congr_mine Ctx.done, hr.congr_mine Ctx.errWord, hr.congr_mine Ctx.errNum, State.copyStat]
  split
  · rename_i h
    rw [hcode (k := 0) h]
    rfl
  · rename_i h
    rw [hcode (k := 1) h]
    rfl
  · rename_i h
    rw [hcode (k := 2) h]
    rfl
  · rename_i h0 h1 h2
    rw [if_neg (fun h => h0 (code_toNat h)), if_neg (fun h => h1 (code_toNat h)), if_neg (fun h => h2 (code_toNat h))]

end Batch

theorem batchInstructions : BatchInstructions := by
  intro s x
  refine ⟨fun hi hlen => exec_cpseal hi hlen, ?_, fun hi => exec_cpstat hi⟩
  intro i a h hi hlen
  have ha : (s.begun i).pull x.a = (a.1, a.2) := rfl
  refine ⟨fun hd => exec_cpwait_none hi ha hlen hd, fun hd hl => ?_⟩
  have hh : a.2.mine.h = s.mine.h := ((Reads.begun s i).of_pull ha).congr_mine Ctx.h
  have hacq : a.2.onMine (fun c => { c with h := h, l := max c.l (h + 1) }) = a.2.acquires s.mine.doneP :=
    State.onMine_eq (by rw [hh])
  rw [hacq]
  exact exec_cpwait_done hi ha hlen hd hl

/-! ### Near-memory commands (R313, R320, R321, R342) -/

section Near
variable {s sb : State} {x : RFields}

section Nmfence
variable (hi : Issues (.nmfence x) s) (ho : s.mine.nmOpen = [])
include hi ho

theorem exec_nmfence_none (hn : s.mine.nmIssued = 0) :
    exec (.nmfence x) s = .next (((s.begun (.nmfence x)).give x.d (if s.mine.nmStopped then 1 else 0)).completed (.nmfence x)) := by
  have hr := Reads.begun s (.nmfence x)
  refine issue_ok hi (bind_run_of (myCtx_run _) <| ite_run_neg (not_not.2 ((hr.congr_mine Ctx.nmOpen).trans ho)) <|
    ite_run_pos ((hr.congr_mine Ctx.nmIssued).trans hn) ?_) ((State.give_cur ..).trans hr.cur)
  rw [hr.congr_mine Ctx.nmStopped]
  exact dst_run ..

theorem exec_nmfence_acquires (hn : s.mine.nmIssued ≠ 0) (hl : max s.mine.h s.mine.nmP + 1 < clockLimit) :
    exec (.nmfence x) s =
      .next ((((s.begun (.nmfence x)).acquires s.mine.nmP).give x.d (if s.mine.nmStopped then 1 else 0)).completed (.nmfence x)) := by
  have hr := Reads.begun s (.nmfence x)
  refine issue_ok hi (bind_run_of (myCtx_run _) <| ite_run_neg (not_not.2 ((hr.congr_mine Ctx.nmOpen).trans ho)) <|
    ite_run_neg ((hr.congr_mine Ctx.nmIssued).trans_ne hn) <| bind_run_of (acquire_run (by rwa [hr.congr_mine Ctx.h, hr.congr_mine Ctx.nmP])) ?_)
    ((State.give_cur ..).trans hr.cur)
  rw [hr.congr_mine Ctx.nmStopped, hr.congr_mine Ctx.nmP]
  exact dst_run ..

end Nmfence

theorem issueNear_run {z w : State} {ws : List Word} {wk xk p id num : Nat} {pc : Word} {n : State × NearCmd} (hid : z.fresh = id)
    (hnum : nextNumber z.mine.nmIssued = num)
    (hw : { z.onMine (fun c => { c with nmIssued := num, nmOpen := c.nmOpen ++ [num] }) with fresh := id + 1 } = w)
    (hn : w.placeNear (newNear w id num ws wk xk p pc) = n) :
    (issueNear ws wk xk p pc).run z = .ok (num, { n.1 with near := n.1.near ++ [n.2] }) := by
  subst hid hnum hw hn
  exact bind_run_of (freshId_run z) <| bind_run_of (myCtx_run _) <| bind_run_of (onMyCtx_run ..) <| bind_run_of (modify_run ..) <| pure_run ..

theorem exec_nmc {ws : List Word} {s1 u w : State} {wk xk p id num : Nat} {n : State × NearCmd} (hi : Issues (.nmc x) s)
    (hq : (srcQuad x.a).run (s.begun (.nmc x)) = .ok (ws, sb)) (hok : nearCheck ws (envOf s s.cur.1 s.cur.2 (.nmc x)).aval = none)
    (hk : sb.nearKeys (nearCtxOp sb s.mine.pc) ws (envOf s s.cur.1 s.cur.2 (.nmc x)).aval = (s1, .keys wk xk))
    (hlen : s1.mine.nmOpen.length < 8) (hp : s1.mine.l = p) (hid : s1.fresh = id) (hnum : nextNumber s1.mine.nmIssued = num)
    (hl : p + 1 < clockLimit)
    (hu : s1.onMine (fun c => { c with l := p + 1, nmIssued := num, nmOpen := c.nmOpen ++ [num] }) = u)
    (hw : { u with fresh := id + 1 } = w) (hn : w.placeNear (newNear w id num ws wk xk p s.mine.pc) = n) (hcur : n.1.cur = s.cur) :
    exec (.nmc x) s = .next ((State.give { n.1 with near := n.1.near ++ [n.2] } x.d (BitVec.ofNat 64 num)).completed (.nmc x)) := by
  refine issue_ok hi (bind_run_of hq <| bind_run_of (trapOn_run_none hok _) <| bind_run_of (get_run _) ?_) ((State.give_cur ..).trans hcur)
  simp only [show (envOf s s.cur.1 s.cur.2 (.nmc x)).pc = s.mine.pc from rfl, hk]
  refine bind_run_of (set_run ..) <| bind_run_of (myCtx_run _) <| ite_run_neg (Nat.not_le.2 hlen) <| bind_run_of (release_run_at hp hl) <|
    bind_run_of (issueNear_run hid ?_ ?_ hn) <| dst_run ..
  · rw [State.mine_onMine]
    exact hnum
  · subst hw hu
    rw [State.onMine_onMine]

end Near

theorem nearMemoryInstructions : NearMemoryInstructions := by
  intro s s1 x wk xk
  refine ⟨?_, fun hi ho => ⟨fun hn => exec_nmfence_none hi ho hn, fun hn hl => ?_⟩⟩
  · intro i w0 w1 w2 w3 ws v num u0 u n hi hok hk hcur1 hlen hl hcur
    have h0 : (s.begun i).pull x.a = (w0.1, w0.2) := rfl
    have h1 : w0.2.pull (x.a + 1) = (w1.1, w1.2) := rfl
    have h2 : w1.2.pull (x.a + 2) = (w2.1, w2.2) := rfl
    have h3 : w2.2.pull (x.a + 3) = (w3.1, w3.2) := rfl
    exact exec_nmc hi (srcQuad_run h0 h1 h2 h3) hok hk hlen rfl rfl rfl hl rfl rfl rfl hcur
  · have hh : (s.begun (.nmfence x)).mine.h = s.mine.h := (Reads.begun s _).congr_mine Ctx.h
    have hacq : (s.begun (.nmfence x)).onMine (fun c => { c with
        h := max s.mine.h s.mine.nmP, l := max c.l (max s.mine.h s.mine.nmP + 1) }) = (s.begun (.nmfence x)).acquires s.mine.nmP :=
      State.onMine_eq (by rw [hh])
    rw [hacq]
    exact exec_nmfence_acquires hi ho hn hl

/-- Settles O22: copies (`copyIssue`), batches (`batchInstructions`), and near-memory commands (`nearMemoryInstructions`). -/
theorem copyInstructions : Obligations.CopyInstructions := ⟨copyIssue, batchInstructions, nearMemoryInstructions⟩

end Sys2Proof.Machine
end

section
/-! What copy engines, near-memory units and batches do by themselves (R297, R303-R305, R313, R314, R420, R522). -/
namespace Sys2Proof.Machine
-- Elaborated one after another, so that threads that wait for one another do not use up the memory.
set_option Elab.async false

theorem hasCore_of_lt {g : Nat} (h : g < 40960) : hasCore g = true := decide_eq_true h

/-! ### The rotation of a copy engine (R297) -/

section Rotation
variable {s : State} {g : Nat}

/-- The cores of a cluster are its 80, in order. -/
theorem clusterOf_core (g : Nat) : clusterOf g * 80 + g % 80 = g := by
  show g / 80 * 80 + g % 80 = g
  omega

/-- It is a core's turn: it has copies, and no core before it, from the one taken from last on, has any (R297). -/
def State.CopyTurn (s : State) (g : Nat) : Prop :=
  (s.core g).cpq ≠ [] ∧ ∀ i, i < 80 → (s.rotor.get 79 (clusterOf g) + 1 + i) % 80 = g % 80 →
    ∀ j, j < i → (s.core (clusterOf g * 80 + (s.rotor.get 79 (clusterOf g) + 1 + j) % 80)).cpq = []

theorem State.nextCopyCore_iff {cl m : Nat} : s.nextCopyCore cl = some m ↔ ∃ i, i < 80 ∧ (s.rotor.get 79 cl + 1 + i) % 80 = m
    ∧ (s.core (cl * 80 + m)).cpq ≠ [] ∧ ∀ j, j < i → (s.core (cl * 80 + (s.rotor.get 79 cl + 1 + j) % 80)).cpq = [] := by
  unfold State.nextCopyCore
  simp only [List.find?_map, Option.map_eq_some_iff, List.find?_range_eq_some, List.mem_range]
  constructor
  · rintro ⟨i, ⟨h, hi, hj⟩, rfl⟩
    exact ⟨i, hi, rfl, by simpa using h, fun j hlt => by simpa using hj j hlt⟩
  · rintro ⟨i, hi, rfl, h, hj⟩
    exact ⟨i, ⟨by simpa using h, hi, fun j hlt => by simpa using hj j hlt⟩, rfl⟩

theorem State.copyTurn_iff : s.nextCopyCore (clusterOf g) = some (g % 80) ↔ s.CopyTurn g := by
  rw [State.nextCopyCore_iff, State.CopyTurn, clusterOf_core]
  constructor
  · rintro ⟨i, hi, him, hne, hj⟩
    refine ⟨hne, fun i' hi' him' => ?_⟩
    obtain rfl : i' = i := by omega
    exact hj
  · rintro ⟨hne, h⟩
    let i := (g % 80 + 80 - (s.rotor.get 79 (clusterOf g) + 1) % 80) % 80
    have hi : i < 80 := Nat.mod_lt _ (by decide)
    have him : (s.rotor.get 79 (clusterOf g) + 1 + i) % 80 = g % 80 := by
      simp only [i]
      omega
    exact ⟨i, hi, him, hne, h i hi him⟩

/-- The state in which the copy engine has taken a core's oldest copy (R297). -/
theorem exec_copyEngineTake_turn (hg : g < 40960) (h : s.CopyTurn g) : ∃ t : State, exec (.copyEngineTake g) s = .next t
    ∧ (t.core g).cpq = (s.core g).cpq.drop 1 ∧ t.jobs.get [] (clusterOf g) = s.jobs.get [] (clusterOf g) ++ (s.core g).cpq.take 1
    ∧ t.rotor.get 79 (clusterOf g) = g % 80 ∧ t.mem = s.mem := by
  obtain ⟨j, r, hq⟩ := List.exists_cons_of_ne_nil h.1
  have ht : s.takeCopy g = { s.onCore g (fun c => { c with cpq := r }) with
      jobs := s.jobs.set (clusterOf g) (s.jobs.get [] (clusterOf g) ++ [j]) } := by
    unfold State.takeCopy
    rw [hq]
    rfl
  refine ⟨_, (if_pos (hasCore_of_lt hg)).trans (congrArg _ (if_pos (State.copyTurn_iff.2 h))), ?_, ?_, Table.get_set_same .., ?_⟩
  · rw [ht, hq]
    exact (congrArg Core.cpq (State.core_onCore s g fun c => { c with cpq := r }) :)
  · rw [ht, hq]
    exact Table.get_set_same ..
  · rw [ht]
    rfl

theorem exec_copyEngineTake_other (hg : g < 40960) (h : ¬s.CopyTurn g) : exec (.copyEngineTake g) s = .next s :=
  (if_pos (hasCore_of_lt hg)).trans (congrArg _ (if_neg (mt State.copyTurn_iff.1 h)))

end Rotation

/-! ### Nodes that are issued, and copies that end (R303, R304, R522) -/

section Events
variable {s : State} {cl st : Nat}

/-- The first copy node dispatched to a copy engine and not yet issued (R522). -/
def State.copyNode (s : State) (cl : Nat) : Option Inst :=
  (s.caravan (cl / 128)).insts.find? (fun i => decide (i.entry.kind = 3) && decide (i.unit = cl)
    && !(s.jobs.get [] cl).any (fun j => j.issuer.isNode i.die i.ticket))

/-- The first near-memory node dispatched to a stack and not yet issued (R522). -/
def State.nearNode (s : State) (st : Nat) : Option Inst :=
  (s.caravan (st / 2)).insts.find? (fun i => decide (i.entry.kind = 7) && decide (i.unit = st)
    && !s.near.any (fun n => n.issuer.isNode i.die i.ticket))

theorem exec_copyNodeDispatch_engine (h : cl < 512) : exec (.copyNodeDispatch (.copyEngine cl)) s =
    .next (((s.copyNode cl).map (s.issueCopyNode cl)).getD s) := by
  refine (if_neg (by simp [hasCluster_of_lt h])).trans ?_
  show (match s.copyNode cl with | some i => .next (s.issueCopyNode cl i) | none => .next s : Host.Outcome State Fault Refusal) = _
  cases s.copyNode cl <;> rfl

theorem exec_copyNodeDispatch_near (h : st < 8) : exec (.copyNodeDispatch (.nearMem st)) s =
    .next (((s.nearNode st).map (s.issueNearNode st)).getD s) := by
  refine (if_neg (Nat.not_le.2 h)).trans ?_
  show (match s.nearNode st with | some i => .next (s.issueNearNode st i) | none => .next s : Host.Outcome State Fault Refusal) = _
  cases s.nearNode st <;> rfl

theorem exec_copyComplete (h : cl < 512) :
    exec (.copyComplete cl) s = .next (((s.advanceCopies cl).firstEnd cl false).getD (s.advanceCopies cl)) := if_pos (hasCluster_of_lt h)

theorem exec_copyStop (h : cl < 512) :
    exec (.copyStop cl) s = .next (((s.advanceCopies cl).firstEnd cl true).getD (s.advanceCopies cl)) := if_pos (hasCluster_of_lt h)

end Events

theorem copyEngineEvents : CopyEngineEvents := by
  intro s g cl st hg hcl hst mine last turn copyNode nearNode u
  refine ⟨exec_copyEngineTake_turn hg, exec_copyEngineTake_other hg, fun i h => ?_, fun h => ?_, fun i h => ?_, fun h => ?_,
    fun t h => ?_, fun h => ?_, fun t h => ?_, fun h => ?_⟩
  · rw [exec_copyNodeDispatch_engine hcl, show s.copyNode cl = some i from h]
    rfl
  · rw [exec_copyNodeDispatch_engine hcl, show s.copyNode cl = none from h]
    rfl
  · rw [exec_copyNodeDispatch_near hst, show s.nearNode st = some i from h]
    rfl
  · rw [exec_copyNodeDispatch_near hst, show s.nearNode st = none from h]
    rfl
  · rw [exec_copyComplete hcl, h]
    rfl
  · rw [exec_copyComplete hcl, h]
    rfl
  · rw [exec_copyStop hcl, h]
    rfl
  · rw [exec_copyStop hcl, h]
    rfl

/-! ### Near-memory commands and batches (R305, R313, R314, R420) -/

section Near
variable {s : State} {st : Nat}

/-- The commands of a stack have gone on (R313). -/
def State.advanceStack (s : State) (st : Nat) : State := (s.near.filter (fun n => stackOf n.wkey = st)).foldl (fun s n => s.advanceNear n) s

/-- The first command of a stack that can end, by completing or by stopping (R313, R314). -/
def State.nearEnd (s : State) (st : Nat) (stops : Bool) : Option NearCmd :=
  s.near.find? (fun n => decide (stackOf n.wkey = st) && s.nearWritten n && n.fail.isSome = stops)

theorem State.stepNear_eq (stops : Bool) : s.stepNear st stops =
    (((s.advanceStack st).nearEnd st stops).map (s.advanceStack st).endNear).getD (s.advanceStack st) := by
  show (match (s.advanceStack st).nearEnd st stops with | some n => (s.advanceStack st).endNear n | none => s.advanceStack st) = _
  cases (s.advanceStack st).nearEnd st stops <;> rfl

theorem exec_nmcExecute (h : st < 8) : exec (.nmcExecute st) s = .next (s.stepNear st false) := if_neg (Nat.not_le.2 h)

theorem exec_nmcStop (h : st < 8) : exec (.nmcStop st) s = .next (s.stepNear st true) := if_neg (Nat.not_le.2 h)

end Near

section Batch
variable {s : State} {g k : Nat} {b : Batch} {r : List Batch} {c : Ctx}

theorem Ctx.batchReady_iff : c.batchReady = true ↔ ∃ b r, c.batches = b :: r ∧ b.ops = [] := by
  unfold Ctx.batchReady
  cases c.batches with
  | nil => simp
  | cons b r => simp

theorem Ctx.completeBatch_of (h : c.batches = b :: r) : c.completeBatch = { c with batches := r, done := b.num, doneP := max c.doneP b.p } := by
  unfold Ctx.completeBatch
  rw [h]

/-- The context parked in a context's place (R420). -/
def State.parkedIn (s : State) (g k : Nat) : Ctx := (s.core g).other.get {} k

variable (hg : g < 40960) (hk : k < 13)
include hg hk

theorem exec_batchComplete_own (hb : (s.ctx g k).batches = b :: r) (ho : b.ops = []) :
    exec (.batchComplete g k) s = .next (s.onCtx g k (fun c => { c with batches := r, done := b.num, doneP := max c.doneP b.p })) := by
  refine (if_neg (not_noContext hg hk)).trans ((if_pos (Ctx.batchReady_iff.2 ⟨b, r, hb, ho⟩)).trans (congrArg _ ?_))
  exact congrArg (s.setCtx g k) (Ctx.completeBatch_of hb)

theorem exec_batchComplete_parked (hn : ¬∃ b r, (s.ctx g k).batches = b :: r ∧ b.ops = [])
    (hb : (s.parkedIn g k).batches = b :: r) (ho : b.ops = []) :
    exec (.batchComplete g k) s = .next (s.onCore g (fun c => { c with other := c.other.set k { s.parkedIn g k with
      batches := r, done := b.num, doneP := max (s.parkedIn g k).doneP b.p } })) := by
  refine (if_neg (not_noContext hg hk)).trans ((if_neg (mt Ctx.batchReady_iff.1 hn)).trans (congrArg _ ?_))
  rw [← Ctx.completeBatch_of hb]
  exact if_pos (Ctx.batchReady_iff.2 ⟨b, r, hb, ho⟩)

theorem exec_batchComplete_none (hn : ¬∃ b r, (s.ctx g k).batches = b :: r ∧ b.ops = [])
    (hp : ¬∃ b r, (s.parkedIn g k).batches = b :: r ∧ b.ops = []) : exec (.batchComplete g k) s = .next s :=
  (if_neg (not_noContext hg hk)).trans ((if_neg (mt Ctx.batchReady_iff.1 hn)).trans (congrArg _ (if_neg (mt Ctx.batchReady_iff.1 hp))))

end Batch

theorem nearAndBatchEvents : NearAndBatchEvents := by
  intro s g k st hg hk hst u ends x ended done
  refine ⟨fun n h => ?_, fun h => ?_, fun n h => ?_, fun h => ?_, fun b r ⟨hb, ho⟩ => exec_batchComplete_own hg hk hb ho,
    fun hn b r ⟨hb, ho⟩ => exec_batchComplete_parked hg hk (fun ⟨b, r, h⟩ => hn b r h) hb ho,
    fun hn => exec_batchComplete_none hg hk (fun ⟨b, r, h⟩ => (hn b r).1 h) (fun ⟨b, r, h⟩ => (hn b r).2 h)⟩
  · rw [exec_nmcExecute hst, State.stepNear_eq, show (s.advanceStack st).nearEnd st false = some n from h]
    rfl
  · rw [exec_nmcExecute hst, State.stepNear_eq, show (s.advanceStack st).nearEnd st false = none from h]
    rfl
  · rw [exec_nmcStop hst, State.stepNear_eq, show (s.advanceStack st).nearEnd st true = some n from h]
    rfl
  · rw [exec_nmcStop hst, State.stepNear_eq, show (s.advanceStack st).nearEnd st true = none from h]
    rfl

/-- Settles O45: the copy engines (`copyEngineEvents`), near-memory commands and batches (`nearAndBatchEvents`). -/
theorem copyEvents : Obligations.CopyEvents := ⟨copyEngineEvents, nearAndBatchEvents⟩

end Sys2Proof.Machine
end

section
/-! Posted writes, barrier updates and exchange phases: what comes about by itself (R253, R307-R310, R375, R384-R386). -/
namespace Sys2Proof.Machine
-- Elaborated one after another, so that threads that wait for one another do not use up the memory.
set_option Elab.async false

/-! ### Posted writes (R253, R307-R310) -/

section Posted
variable {s : State} {g i : Nat} {p : Posted}

/-- The first posted write of a kind that has none to wait for, nor a bank that the matrix engine uses (R253, R310). -/
def State.firstPosted (s : State) (g : Nat) (want : Posted → Bool) : Option Posted :=
  firstReady (fun p => want p && !s.bankHeld g p) (s.heldBack g) (s.core g).inbox [] (s.core g).inbox

theorem State.applyFirst_eq (want : Posted → Bool) : s.applyFirst g want = ((s.firstPosted g want).map (s.applyPosted g)).getD s := by
  show (match s.firstPosted g want with | some p => s.applyPosted g p | none => s) = _
  cases s.firstPosted g want <;> rfl

theorem exec_destArithApply (hg : g < 40960) :
    exec (.destArithApply g) s = .next (((s.firstPosted g fun p => !decide (p.kind = .store)).map (s.applyPosted g)).getD s) := by
  refine (if_pos (hasCore_of_lt hg)).trans ?_
  simp only [decide_not, State.applyFirst_eq]

theorem exec_postedWriteApply (hg : g < 40960) :
    exec (.postedWriteApply g) s = .next (((s.firstPosted g fun p => decide (p.kind = .store)).map (s.applyPosted g)).getD s) :=
  (if_pos (hasCore_of_lt hg)).trans (congrArg _ (s.applyFirst_eq _))

theorem Posted.seqBefore_self (p : Posted) : p.seqBefore p = false := by
  unfold Posted.seqBefore
  split
  · rename_i m n h1 h2
    obtain rfl : m = n := Option.some.inj (h1.symm.trans h2)
    simp
  · rfl

theorem windowTakes_nil (early : Posted → Bool) (p : Posted) : windowTakes early [] p = true :=
  List.all_eq_true.2 fun b _ => by simp

theorem State.firstPosted_single (hq : (s.core g).inbox = [p]) (hb : s.bankHeld g p = false) (he : s.heldBack g p = false) :
    s.firstPosted g (fun _ => true) = some p := by
  unfold State.firstPosted
  rw [hq, firstReady]
  simp only [List.any_cons, List.any_nil, Posted.seqBefore_self, hb, he, windowTakes_nil]
  rfl

theorem State.answer_mem (s : State) (g : Nat) (p : Posted) (r : Option Nat) : (s.answer g p r).mem = s.mem := by
  unfold State.answer
  split
  · rfl
  · split
    · rfl
    · rfl

theorem State.applyPosted_store_mem (hr : s.postedReason g p = none) (hk : p.kind = .store) :
    (s.applyPosted g p).mem = s.mem.putBytes (localKey g p.off) p.bytes := by
  have hb : s.postedBytes g p = p.bytes := by
    unfold State.postedBytes
    rw [hk]
  unfold State.applyPosted
  simp only [hr, State.answer_mem, hb]
  rfl

theorem State.applyPosted_refused_mem {r : Nat} (hr : s.postedReason g p = some r) : (s.applyPosted g p).mem = s.mem := by
  unfold State.applyPosted
  simp only [hr, State.answer_mem]
  rfl

theorem State.postedReason_mode (hm : (s.core g).mode (bankOf p.off) ≠ 0) (hg : s.dev.gated.contains (clusterOf g) = false) :
    s.postedReason g p = some 1 := (if_neg (Bool.eq_false_iff.1 hg)).trans (if_pos hm)

/-- A journal entry of a core (R308). -/
def State.entry (s : State) (g i : Nat) : JEntry := (s.core g).journal.get {} i

theorem exec_postedWriteAck (hg : g < 40960) (hi : i < 32) : exec (.postedWriteAck g i) s = .next (s.ackEntry g i) :=
  if_pos (by rw [hasCore_of_lt hg, decide_eq_true hi]; rfl)

theorem exec_postedWriteRefusal (hg : g < 40960) (hi : i < 32) : exec (.postedWriteRefusal g i) s = .next (s.refuseEntry g i) :=
  if_pos (by rw [hasCore_of_lt hg, decide_eq_true hi]; rfl)

theorem State.ackEntry_due (hs : (s.entry g i).state = .pending) (hr : (s.entry g i).reply = some 0) :
    s.ackEntry g i = s.onCore g (fun c => { c with journal := c.journal.set i {} }) := if_pos ⟨hs, hr⟩

theorem State.ackEntry_other (h : (s.entry g i).state ≠ .pending ∨ (s.entry g i).reply ≠ some 0) : s.ackEntry g i = s :=
  if_neg fun ⟨hs, hr⟩ => h.elim (· hs) (· hr)

theorem State.refuseEntry_due {r : Nat} (hs : (s.entry g i).state = .pending) (hr : (s.entry g i).reply = some r) (h0 : r ≠ 0) :
    s.refuseEntry g i = (s.onCore g (fun c => { c with
      journal := c.journal.set i { s.entry g i with state := .refused, reason := r, reply := none } })).post (s.entry g i).org (.refused i) := by
  have hf : s.refuseEntry g i = (match (s.entry g i).reply with
      | some r =>
        if (s.entry g i).state = .pending ∧ r ≠ 0 then
          (s.onCore g (fun c => c.onEntry i (fun e => { e with state := .refused, reason := r, reply := none }))).post (s.entry g i).org (.refused i)
        else s
      | none => s) := rfl
  rw [hf, hr]
  exact if_pos ⟨hs, h0⟩

theorem State.refuseEntry_other (h : (s.entry g i).state ≠ .pending ∨ (s.entry g i).reply = none ∨ (s.entry g i).reply = some 0) :
    s.refuseEntry g i = s := by
  unfold State.refuseEntry
  dsimp only
  split
  · rename_i r hr
    refine if_neg fun ⟨hs, h0⟩ => ?_
    obtain h | h | h := h
    · exact h hs
    · exact absurd (hr.symm.trans h) nofun
    · exact h0 (Option.some.inj (hr.symm.trans h))
  · rfl

end Posted

theorem postedEvents : PostedEvents := by
  intro s g i hg hi inbox first store e
  refine ⟨fun p h => ?_, fun h => ?_, fun p h => ?_, fun h => ?_, fun p hq hb he => State.firstPosted_single hq hb he,
    fun p => ⟨State.applyPosted_store_mem, fun r => State.applyPosted_refused_mem, State.postedReason_mode⟩,
    fun hs hr => ?_, fun h => ?_, fun r hs hr h0 => ?_, fun h => ?_⟩
  · rw [exec_destArithApply hg, show (s.firstPosted g fun p => !decide (p.kind = .store)) = some p from h]
    rfl
  · rw [exec_destArithApply hg, show (s.firstPosted g fun p => !decide (p.kind = .store)) = none from h]
    rfl
  · rw [exec_postedWriteApply hg, show (s.firstPosted g fun p => decide (p.kind = .store)) = some p from h]
    rfl
  · rw [exec_postedWriteApply hg, show (s.firstPosted g fun p => decide (p.kind = .store)) = none from h]
    rfl
  · rw [exec_postedWriteAck hg hi, State.ackEntry_due hs hr]
  · rw [exec_postedWriteAck hg hi, State.ackEntry_other h]
  · rw [exec_postedWriteRefusal hg hi, State.refuseEntry_due hs hr h0]
    rfl
  · rw [exec_postedWriteRefusal hg hi, State.refuseEntry_other h]

/-! ### Barrier objects (R375) -/

/-- The updates of one clk apply in no order (R375). -/
theorem BarObj.apply_perm (b : BarObj) {us vs : List BarUpdate} (h : us.Perm vs) : b.apply us = b.apply vs := by
  have hmax : us.foldl (fun a u => max a u.p) b.racc = vs.foldl (fun a u => max a u.p) b.racc :=
    h.foldl_eq' (fun x _ y _ z => by rw [Nat.max_assoc, Nat.max_comm x.p, ← Nat.max_assoc]) _
  unfold BarObj.apply
  rw [(h.map _).sum_eq, (h.map (fun u => u.bytes)).sum_eq, (h.map (fun u => u.expected)).sum_eq, hmax]

/-- Of a state, only the trace buffers of cores have changed. -/
structure TracesOnly (s t : State) : Prop where
  units : t = { s with cores := t.cores }
  core : ∀ g, t.core g = { s.core g with trace := (t.core g).trace }

namespace TracesOnly
variable {s t u : State}

theorem refl (s : State) : TracesOnly s s := ⟨rfl, fun _ => rfl⟩

theorem trans (h : TracesOnly s t) (h' : TracesOnly t u) : TracesOnly s u where
  units := by rw [h'.units, h.units]
  core g := by rw [h'.core, h.core]

theorem onTrace (s : State) (g : Nat) (f : Core → TraceUnit) : TracesOnly s (s.onCore g fun c => { c with trace := f c }) where
  units := rfl
  core h := by
    by_cases hg : h = g
    · subst hg
      rw [State.core_onCore]
    · rw [State.core_onCore_other _ _ hg]

theorem traceFor (s : State) (owner g k kind : Nat) (w : Word) : TracesOnly s (s.traceFor owner g k kind w) := by
  unfold State.traceFor
  split
  · exact onTrace ..
  · exact refl s

theorem fireWatch (s : State) (g i val : Nat) : TracesOnly s (s.fireWatch g i val) := by
  unfold State.fireWatch
  exact (traceFor ..).trans (onTrace _ g fun c => _)

theorem fireBar (s : State) (g off n : Nat) (b b' : BarObj) : TracesOnly s (s.fireBar g off n b b') :=
  List.foldlRecOn (motive := TracesOnly s) _ _ (refl s) fun _ ht _ _ => ht.trans (fireWatch ..)

theorem mem (h : TracesOnly s t) : t.mem = s.mem := by rw [h.units]

theorem barq (h : TracesOnly s t) (g : Nat) : (t.core g).barq = (s.core g).barq := by rw [h.core]

end TracesOnly

section Update
variable {s : State} {g off : Nat} {us : List BarUpdate}

/-- The updates that apply with those that wait at an object: those that find its bank SPAD and their owner's (R375). -/
def State.barUpdates (s : State) (g off : Nat) (us : List BarUpdate) : List BarUpdate :=
  ((s.core g).barq.filter (fun u => decide (u.off = off)) ++ us).filter (s.barFits g)

/-- The updates that wait at an object have left the queue. -/
def State.drainedBar (s : State) (g off : Nat) : State := s.onCore g fun c => { c with barq := c.barq.filter (fun u => u.off ≠ off) }

theorem State.updateBar_of_nil (h : s.barUpdates g off us = []) : s.updateBar g off us = s.drainedBar g off :=
  if_pos (by rw [show ((s.core g).barq.filter (fun u => u.off = off) ++ us).filter (s.barFits g) = [] from h]; rfl)

theorem State.updateBar_of_ne (h : s.barUpdates g off us ≠ []) : TracesOnly
    ((s.drainedBar g off).localWrite g off ((s.barObj g off).apply (s.barUpdates g off us)).bytes) (s.updateBar g off us) := by
  have he : ¬(s.barUpdates g off us).isEmpty = true := by simpa using h
  have hu : s.updateBar g off us = ((s.drainedBar g off).localWrite g off ((s.barObj g off).apply (s.barUpdates g off us)).bytes).fireBar g off
      ((s.barUpdates g off us).map (·.arrivals)).sum (s.barObj g off) ((s.barObj g off).apply (s.barUpdates g off us)) := if_neg he
  rw [hu]
  exact TracesOnly.fireBar ..

theorem State.core_localWrite (s : State) (g off : Nat) (bs : List Byte) (h : Nat) : (s.localWrite g off bs).core h = s.core h := rfl

theorem State.mem_localWrite (s : State) (g off : Nat) (bs : List Byte) : (s.localWrite g off bs).mem = s.mem.putBytes (localKey g off) bs := rfl

theorem State.barq_drainedBar : ((s.drainedBar g off).core g).barq = (s.core g).barq.filter (fun u => u.off ≠ off) :=
  (congrArg Core.barq (State.core_onCore s g fun c => { c with barq := c.barq.filter (fun u => u.off ≠ off) }) :)

theorem State.barq_updateBar : ((s.updateBar g off us).core g).barq = (s.core g).barq.filter (fun u => u.off ≠ off) := by
  by_cases h : s.barUpdates g off us = []
  · rw [State.updateBar_of_nil h, State.barq_drainedBar]
  · rw [(State.updateBar_of_ne h).barq, State.core_localWrite, State.barq_drainedBar]

theorem State.mem_updateBar_of_nil (h : s.barUpdates g off us = []) : (s.updateBar g off us).mem = s.mem := by
  rw [State.updateBar_of_nil h]
  rfl

theorem State.mem_updateBar_of_ne (h : s.barUpdates g off us ≠ []) :
    (s.updateBar g off us).mem = s.mem.putBytes (localKey g off) ((s.barObj g off).apply (s.barUpdates g off us)).bytes := by
  rw [(State.updateBar_of_ne h).mem, State.mem_localWrite]
  rfl

theorem exec_barrierUpdate_nil (hg : g < 40960) (hq : (s.core g).barq = []) : exec (.barrierUpdate g) s = .next s := by
  refine (if_pos (hasCore_of_lt hg)).trans ?_
  rw [hq]

theorem exec_barrierUpdate_cons {u : BarUpdate} {r : List BarUpdate} (hg : g < 40960) (hq : (s.core g).barq = u :: r) :
    exec (.barrierUpdate g) s = .next ((s.updateBar g u.off []).tick 1) := by
  refine (if_pos (hasCore_of_lt hg)).trans ?_
  rw [hq]

end Update

/-! ### Domains (R384-R386) -/

section Domain
variable {s : State} {d : Nat}

/-- The barrier of a domain's superstep completes now (R384). -/
def State.BarrierMeets (s : State) (d : Nat) : Prop :=
  (s.domainOf d).configured = true ∧ (s.domainOf d).exchanging = false ∧ (s.domainOf d).arrived.length = (s.domainOf d).members.length
    ∧ s.superstepStart d ≤ s.clk ∧ ∀ m ∈ (s.domainOf d).members, (s.ctx m 0).resident = true

/-- A domain's exchange phase ends now (R385). -/
def State.ExchangeEnded (s : State) (d : Nat) : Prop :=
  (s.domainOf d).configured = true ∧ (s.domainOf d).exchanging = true
    ∧ (s.domainOf d).t0 + (s.domainOf d).slots * (s.domainOf d).slotLen ≤ s.clk ∧ (s.domainOf d).sends = []

theorem State.barrierMeets_iff : ((s.domainOf d).configured && !(s.domainOf d).exchanging
    && decide ((s.domainOf d).arrived.length = (s.domainOf d).members.length) && decide (s.superstepStart d ≤ s.clk) && s.allResident d) = true
      ↔ s.BarrierMeets d := by
  simp [State.BarrierMeets, State.allResident, and_assoc]

theorem State.exchangeEnded_iff : ((s.domainOf d).configured && (s.domainOf d).exchanging
    && decide ((s.domainOf d).t0 + (s.domainOf d).slots * (s.domainOf d).slotLen ≤ s.clk) && decide ((s.domainOf d).sends = [])) = true
      ↔ s.ExchangeEnded d := by
  simp [State.ExchangeEnded, and_assoc]

theorem State.barrierComplete_of_meets (h : s.BarrierMeets d) : s.barrierComplete d = s.onDomain d (fun x => { x with
    exchanging := true, t0 := s.superstepStart d, dp := (s.domainOf d).arrived.foldl (fun m a => max m a.2) 0, sends := [], dropped := [],
    arrived := [], released := (s.domainOf d).arrived.map (fun a => (a.1, (s.domainOf d).count)) }) := if_pos (State.barrierMeets_iff.2 h)

theorem State.barrierComplete_of_not (h : ¬s.BarrierMeets d) : s.barrierComplete d = s := if_neg (mt State.barrierMeets_iff.1 h)

theorem State.phaseEnd_of_ended (h : s.ExchangeEnded d) :
    s.phaseEnd d = s.onDomain d (fun x => { x with exchanging := false, count := (x.count + 1) % 2 ^ 32 }) := if_pos (State.exchangeEnded_iff.2 h)

theorem State.phaseEnd_of_not (h : ¬s.ExchangeEnded d) : s.phaseEnd d = s := if_neg (mt State.exchangeEnded_iff.1 h)

/-- A bank of a core takes what an exchange send of an owner brings (R386). -/
def State.takesSend (s : State) (g owner b : Nat) : Bool := decide ((s.core g).mode b = 0) && decide ((s.core g).tag b = owner)

theorem State.deliverPart_eq (s : State) (d : Nat) (m : ExSend) (off : Nat) (bs : List Byte) : s.deliverPart d m off bs =
    if bs = [] then s else if s.takesSend m.dst m.owner (bankOf off) then s.localWrite m.dst off bs
      else s.onDomain d (fun x => { x with dropped := m.src :: x.dropped }) := by
  unfold State.deliverPart
  refine if_congr Iff.rfl rfl ?_
  by_cases h : s.takesSend m.dst m.owner (bankOf off) = true
  · have h' := h
    simp only [State.takesSend, Bool.and_eq_true, decide_eq_true_eq] at h'
    rw [if_pos h, if_neg (by rintro (h1 | h1); exacts [h1 h'.1, h1 h'.2])]
  · have h' := h
    simp only [State.takesSend, Bool.and_eq_true, decide_eq_true_eq] at h'
    rw [if_neg h, if_pos (by by_contra hc; push Not at hc; exact h' hc)]

theorem State.deliverPart_core (s : State) (d : Nat) (m : ExSend) (off : Nat) (bs : List Byte) (g : Nat) :
    (s.deliverPart d m off bs).core g = s.core g := by
  rw [State.deliverPart_eq]
  split
  · rfl
  · split
    · rfl
    · rfl

end Domain

section DomainEvents
variable {s : State} {d : Nat} (hd : d < 64)
include hd

theorem exec_syncBarrierComplete : exec (.syncBarrierComplete d) s = .next (s.barrierComplete d) := if_neg (Nat.not_le.2 hd)

theorem exec_exchangeSlotBegin : exec (.exchangeSlotBegin d) s = .next s := if_neg (Nat.not_le.2 hd)

theorem exec_exchangePhaseEnd : exec (.exchangePhaseEnd d) s = .next (s.phaseEnd d) := if_neg (Nat.not_le.2 hd)

theorem exec_xsendDeliver_nil (h : (s.domainOf d).sends = []) : exec (.xsendDeliver d) s = .next s := by
  refine (if_neg (Nat.not_le.2 hd)).trans ?_
  rw [h]

theorem exec_xsendDeliver_cons {m : ExSend} {r : List ExSend} (h : (s.domainOf d).sends = m :: r) :
    exec (.xsendDeliver d) s = .next (((s.onDomain d (fun x => { x with sends := r })).deliverPart d m
      m.off (m.bytes.take (512 - m.off % 512))).deliverPart
      d m (m.off + (512 - m.off % 512)) (m.bytes.drop (512 - m.off % 512))) := by
  have herase : s.onDomain d (fun x => { x with sends := x.sends.erase m }) = s.onDomain d (fun x => { x with sends := r }) := by
    unfold State.onDomain
    dsimp only
    rw [h, List.erase_cons_head]
  refine (if_neg (Nat.not_le.2 hd)).trans ?_
  rw [h]
  unfold State.deliverSend
  dsimp only
  rw [herase]

end DomainEvents

theorem barrierEvents : BarrierEvents := by
  intro s g d hg hd x t0 meets ended
  refine ⟨fun b us vs h => b.apply_perm h, exec_barrierUpdate_nil hg, fun u r h => exec_barrierUpdate_cons hg h,
    fun off us => ⟨State.barq_updateBar, State.mem_updateBar_of_nil, State.mem_updateBar_of_ne⟩, fun h => ?_, fun h => ?_,
    exec_exchangeSlotBegin hd, fun h => ?_, fun h => ?_, exec_xsendDeliver_nil hd, fun m r h => ?_⟩
  · rw [exec_syncBarrierComplete hd, State.barrierComplete_of_meets h]
    rfl
  · rw [exec_syncBarrierComplete hd, State.barrierComplete_of_not h]
  · rw [exec_exchangePhaseEnd hd, State.phaseEnd_of_ended h]
  · rw [exec_exchangePhaseEnd hd, State.phaseEnd_of_not h]
  · intro u fits n part
    have hpart (v : State) (off : Nat) (bs : List Byte) (hv : v.core m.dst = s.core m.dst) : v.deliverPart d m off bs = part off bs v := by
      rw [State.deliverPart_eq, State.takesSend, hv]
    have hfirst : u.deliverPart d m m.off (m.bytes.take n) = part m.off (m.bytes.take n) u := hpart u _ _ rfl
    have hcore : (part m.off (m.bytes.take n) u).core m.dst = s.core m.dst := by rw [← hfirst, State.deliverPart_core]; rfl
    rw [exec_xsendDeliver_cons hd h, hfirst, hpart _ _ _ hcore]

/-- Settles O46: posted writes (`postedEvents`), barrier objects and exchange phases (`barrierEvents`). -/
theorem postedAndBarrierEvents : Obligations.PostedAndBarrierEvents := ⟨postedEvents, barrierEvents⟩

end Sys2Proof.Machine
end

section
/-! What home ports, write lanes and memory channels do by themselves (R274-R282, R289, R326, R331, R337). -/
namespace Sys2Proof.Machine
-- Elaborated one after another, so that threads that wait for one another do not use up the memory.
set_option Elab.async false

/-! ### Home ports (R326, R331) -/

section Home
variable {s t : State} {q : HomeReq} {bs : List Byte}

theorem fits_of_not_agentOk (h : agentOk q.agent = false) : HomeReq.fits q = false := by
  unfold HomeReq.fits
  rw [h, Bool.and_false]

/-- Kinds 8 to 15 are never produced (R21). -/
theorem agentOk_of_kind {a : BitVec 24} (h : 8 ≤ a.toNat / 2 ^ 20) : agentOk a = false := by
  obtain ⟨n, hn⟩ := Nat.exists_eq_add_of_le' h
  simp only [agentOk, hn]

theorem size_of_fits (h : HomeReq.fits q = true) : q.size ≤ 64 := by
  simp only [HomeReq.fits, Bool.and_eq_true, decide_eq_true_eq] at h
  obtain ⟨⟨⟨⟨-, hsize⟩, -⟩, -⟩, -⟩ := h
  omega

theorem exec_homeLoad_unfit (h : HomeReq.fits q = false) : exec (.homeLoad q) s = .next s := if_pos (by rw [h]; rfl)

theorem exec_homeLoad (h : HomeReq.fits q = true) (ht : s.homePlace q false = .ok t ∨ s.homePlace q false = .error t) :
    exec (.homeLoad q) s = .next t := by
  refine (if_neg (by rw [h]; exact Bool.false_ne_true)).trans ?_
  obtain ht | ht := ht
  · rw [ht]
  · rw [ht]

/-- A store of a request has as many bytes as it names (R326). -/
theorem stores_iff : (!HomeReq.fits q || decide (bs.length ≠ q.size)) = false ↔ HomeReq.fits q = true ∧ bs.length = q.size := by simp

theorem exec_homeStore_unfit (h : ¬(HomeReq.fits q = true ∧ bs.length = q.size)) : exec (.homeStore q bs) s = .next s :=
  if_pos (Bool.eq_true_of_not_eq_false (mt stores_iff.1 h))

theorem exec_homeStore_error (h : HomeReq.fits q = true ∧ bs.length = q.size) (ht : s.homePlace q true = .error t) :
    exec (.homeStore q bs) s = .next t := by
  refine (if_neg (Bool.eq_false_iff.1 (stores_iff.2 h))).trans ?_
  rw [ht]

/-- The bytes that a request stores stand at their home (R326). -/
def State.homeStored (s t : State) (q : HomeReq) (bs : List Byte) : State :=
  match agentCtx q.agent with
  | some (g, k) => t.homeWrite (q.key / 64) (byteTable q.key bs) g [{ ctx := k, launch := (s.ctx g k).launch }] (s.ownerOf g k) false
  | none => t.homeWrite (q.key / 64) (byteTable q.key bs) 0 [] 0 false

theorem exec_homeStore_ok (h : HomeReq.fits q = true ∧ bs.length = q.size) (ht : s.homePlace q true = .ok t) :
    exec (.homeStore q bs) s = .next (if bs.length = 64 then
      { s.homeStored t q bs with poison := (s.homeStored t q bs).poison.filter (· ≠ q.key / 64) } else s.homeStored t q bs) := by
  have hlen : 64 ≤ bs.length ↔ bs.length = 64 := by
    have := size_of_fits h.1
    have := h.2
    omega
  refine (if_neg (Bool.eq_false_iff.1 (stores_iff.2 h))).trans ?_
  rw [ht]
  unfold State.homeStored
  cases agentCtx q.agent with
  | none => simp only [hlen]
  | some gk => simp only [hlen]

/-- The clock of a request's agent, where it is a context, is the time of the access (R326). -/
def State.agentAt (s : State) (q : HomeReq) (t : Nat) : State :=
  match agentCtx q.agent with
  | some (g, k) => s.onCtx g k (fun c => { c with l := t })
  | none => s

theorem State.agentAt_mem (s : State) (q : HomeReq) (t : Nat) : (s.agentAt q t).mem = s.mem := by
  unfold State.agentAt
  split <;> rfl

theorem State.agentAt_l (s : State) {q : HomeReq} {g k : Nat} (h : agentCtx q.agent = some (g, k)) (t : Nat) :
    ((s.agentAt q t).ctx g k).l = t := by
  unfold State.agentAt
  rw [h]
  exact congrArg Ctx.l (State.ctx_onCtx s g k fun c => { c with l := t })

theorem State.homePlace_ok {write : Bool} {time : Nat} (hh : s.engineHolds (q.key / 64) = false) (hfree : (s.line (q.key / 64)).held = none)
    (hw : ∀ g e, e ∈ (s.core g).wlq → e.line ≠ q.key / 64) (hchk : keyChecked q.key write = false) (hb : s.homePageBusy q = false)
    (hs : write = false → s.starves (s.homeOwner q) (q.key / 64) = false)
    (ht : (HomeReq.req q write).time (s.line (q.key / 64)) = time) (hl : time < clockLimit)
    (hp : write = false → s.poison.contains (q.key / 64) = false) :
    s.homePlace q write = .ok ((s.place326 (HomeReq.req q write)).1.agentAt q time) := by
  subst ht
  have hstarves : ¬(!write && s.starves (s.homeOwner q) (q.key / 64)) = true := by
    cases write with
    | true => simp
    | false => simpa using hs rfl
  have hpoison : ¬(!write && s.poison.contains (q.key / 64)) = true := by
    cases write with
    | true => simp
    | false => simpa using hp rfl
  have hsettle : s.settle none (q.key / 64) = s := State.settleFor_of_free hw hfree ..
  unfold State.homePlace
  dsimp only
  rw [if_neg (Bool.eq_false_iff.1 hh), if_neg (Bool.eq_false_iff.1 hb), if_neg hstarves, hsettle, if_neg (Nat.not_le.2 hl), if_neg hpoison, hchk]
  rfl

theorem exec_lineRecall_free {n : Nat} (h : s.engineHolds n = false) : exec (.lineRecall n) s = .next (s.settle none n) :=
  if_neg (Bool.eq_false_iff.1 h)

theorem exec_lineRecall_held {n : Nat} (h : s.engineHolds n = true) : exec (.lineRecall n) s = .next (s.askHost n) := if_pos h

end Home

theorem homeEvents : HomeEvents := by
  intro s t q bs line stores
  refine ⟨fits_of_not_agentOk, agentOk_of_kind, exec_homeLoad_unfit, exec_homeStore_unfit, exec_homeLoad, exec_homeStore_error,
    fun h ht => exec_homeStore_ok h ht, fun n => exec_lineRecall_free, fun n => exec_lineRecall_held, fun write => ?_⟩
  intro r time hh hfree hw hchk hb hs hl hp
  exact ⟨_, State.homePlace_ok hh hfree hw hchk hb hs rfl hl hp, State.agentAt_mem .., fun g k h => State.agentAt_l _ h _⟩

/-! ### The write lane (R274, R276) -/

section Lane
variable {s : State} {g : Nat} (hg : g < 40960)

theorem departFirst_append {b : List WlqEntry} (h : ∀ x ∈ b, x.departed = true) (clk : Nat) (r : List WlqEntry) :
    departFirst clk (b ++ r) = b ++ departFirst clk r := by
  induction b with
  | nil => rfl
  | cons x b ih =>
    rw [List.cons_append, departFirst, if_pos (h x (List.mem_cons_self ..)), ih fun y hy => h y (List.mem_cons_of_mem _ hy), List.cons_append]

theorem departFirst_of_departed {q : List WlqEntry} (h : ∀ x ∈ q, x.departed = true) (clk : Nat) : departFirst clk q = q := by
  have hq := departFirst_append h clk []
  rwa [List.append_nil, departFirst, List.append_nil] at hq

theorem mayDepart_iff {e : WlqEntry} {r : List WlqEntry} {clk : Nat} :
    e.mayDepart r.isEmpty clk = true ↔ 64 ≤ e.bytes.length ∨ r ≠ [] ∨ e.since + 64 ≤ clk := by
  simp [WlqEntry.mayDepart, or_assoc]

include hg

theorem exec_wlqEntryDepart {q : List WlqEntry} (h : departFirst s.clk (s.core g).wlq = q) :
    exec (.wlqEntryDepart g) s = .next (s.onCore g (fun c => { c with wlq := q })) := by
  subst h
  exact if_pos (hasCore_of_lt hg)

theorem exec_wlqEntryAccept_nil (h : (s.core g).wlq = []) : exec (.wlqEntryAccept g) s = .next s := by
  refine (if_pos (hasCore_of_lt hg)).trans ?_
  rw [h]

theorem exec_wlqEntryAccept_cons {e : WlqEntry} {r : List WlqEntry} (h : (s.core g).wlq = e :: r) : exec (.wlqEntryAccept g) s =
    .next (if e.departed then (s.acceptEntry g e).onCore g (fun c => { c with wlq := r }) else s) := by
  refine (if_pos (hasCore_of_lt hg)).trans ?_
  rw [h]

end Lane

theorem WriteLane.sync_used (w : WriteLane) (clk : Nat) : (w.sync clk).used = w.used - (clk / 2 ^ w.log - w.win) * w.budget :=
  congrArg (w.used - ·) (Nat.mul_comm ..)

/-! ### Memory channels (R278-R282) -/

section Channel
variable {s : State} {chan die : Nat}

/-- What a slot of a channel serves (R279, R280). -/
def State.served (s : State) (chan : Nat) : Option ArrayWrite :=
  slotServes (slotByte (s.chan chan).switch.live (s.chan chan).switch.slot) (s.chan chan).switch.donate (readyWrites chan [] s.array)

theorem exec_hbmSlotService (h : chan < 512) {t : SlotTable} (ht : (s.chan chan).switch = t) : exec (.hbmSlotService chan) s =
    .next (match s.served chan with
      | some w => { s.onChan chan (fun _ => { t with slot := (t.slot + 1) % 32 }) with array := s.array.erase w }
      | none => s.onChan chan (fun _ => { t with slot := (t.slot + 1) % 32 })) := by
  subst ht
  exact if_neg (Nat.not_le.2 h)

theorem exec_xmPortService (h : die < 4) {r : Option ArrayWrite} (hr : s.array.find? (fun w => w.chan = 512 + die) = r) :
    exec (.xmPortService die) s = .next (match (generalizing := false) r with
      | some w => { s with array := s.array.erase w }
      | none => s) := by
  subst hr
  exact if_neg (Nat.not_le.2 h)

end Channel

theorem writeLaneEvents : WriteLaneEvents := by
  intro s g k chan die hg hk hchan hdie departs
  refine ⟨fun b r e hq hb he => ?_, fun h => exec_wlqEntryDepart hg (departFirst_of_departed h _), exec_wlqEntryAccept_nil hg,
    fun e r hq => ⟨fun he => ?_, fun he => ?_⟩, if_pos (hasCore_of_lt hg), fun w clk _ => ⟨w.sync_used clk, rfl⟩, ?_,
    fun w h => exec_xmPortService hdie h, fun h => ?_, if_pos (hasContext_of_lt hg hk), fun va n => if_pos (hasContext_of_lt hg hk)⟩
  · have hfirst : departFirst s.clk (s.core g).wlq = b ++ if e.mayDepart r.isEmpty s.clk then { e with departed := true } :: r else e :: r := by
      rw [hq, departFirst_append hb, departFirst, if_neg (Bool.eq_false_iff.1 he)]
    refine ⟨fun hd => exec_wlqEntryDepart hg ?_, fun hd => exec_wlqEntryDepart hg ?_⟩
    · rw [hfirst, if_pos (mayDepart_iff.2 hd)]
    · rw [hfirst, if_neg (mt mayDepart_iff.1 hd)]
  · rw [exec_wlqEntryAccept_cons hg hq, if_pos he]
  · rw [exec_wlqEntryAccept_cons hg hq, if_neg (Bool.eq_false_iff.1 he)]
  · intro t slot ready mine u serves
    have ht : (s.chan chan).switch = t := rfl
    have hserved : s.served chan = mine.or (if t.donate then ready.head? else none) := by
      unfold State.served
      rw [ht]
      rfl
    refine ⟨fun w hw => ?_, fun hno hd => ?_, fun hno hd w r hr => ?_⟩
    · rw [hw, Option.some_or] at hserved
      exact (exec_hbmSlotService hchan ht).trans (by rw [hserved])
    · have hnone : (if t.donate then ready.head? else none) = none := by
        obtain hd | hd := hd
        · rw [hd]
          rfl
        · rw [hd, List.head?_nil, ite_self]
      rw [hno, Option.none_or, hnone] at hserved
      exact (exec_hbmSlotService hchan ht).trans (by rw [hserved])
    · rw [hno, Option.none_or, if_pos hd, hr, List.head?_cons] at hserved
      exact (exec_hbmSlotService hchan ht).trans (by rw [hserved])
  · refine (exec_xmPortService hdie (List.find?_eq_none.2 fun w hw => ?_)).trans rfl
    simpa using h w hw

/-- Settles O41: the accesses at a home, recalls, the write lane's departures and acceptances, and the slots of a channel. That the arrival
of a remote load changes nothing (log 11), and the free words and owner 0 partition of a home request (log 46), are the model's choices. -/
theorem memoryEvents : Obligations.MemoryEvents := ⟨homeEvents, writeLaneEvents⟩

end Sys2Proof.Machine
end

section
/-! Pre-emption: suspension and resumption of launches, and the parking, saving and resumption of contexts (R411, R416-R422). -/
namespace Sys2Proof.Machine
-- Elaborated one after another, so that threads that wait for one another do not use up the memory.
set_option Elab.async false

/-! ### Suspension and parking (R416-R418) -/

section Park
variable {s : State} {slot g k : Nat}

theorem exec_prectlSuspend_active (hs : slot < 64) {share : Bool} (h : (s.launch slot).state = .running ∨ (s.launch slot).state = .stopping) :
    exec (.prectlSuspend slot share) s = .next (s.onLaunch slot (fun l => { l with suspended := true, share := share })) :=
  (if_neg (Nat.not_le.2 hs)).trans (congrArg _ (if_pos h))

theorem exec_prectlSuspend_other (hs : slot < 64) {share : Bool} (h : ¬((s.launch slot).state = .running ∨ (s.launch slot).state = .stopping)) :
    exec (.prectlSuspend slot share) s = .next s := (if_neg (Nat.not_le.2 hs)).trans (congrArg _ (if_neg h))

/-- The pre-emption point of a context (R411, R417). -/
def State.AtPreemptPoint (s : State) (g k : Nat) : Prop :=
  (s.ctx g k).live = true ∧ (s.ctx g k).resident = true ∧ s.mustPark g k = true ∧ s.exchanging g = false
    ∧ ((s.ctx g k).mid = false ∨ s.accessHeld g k = true) ∧ ((s.ctx g k).pend = [] ∨ (s.ctx g k).intrap = true)

theorem State.atPreemptPoint_iff : ((s.ctx g k).live && (s.ctx g k).resident && s.mustPark g k && !s.exchanging g
    && (!(s.ctx g k).mid || s.accessHeld g k) && ((s.ctx g k).pend.isEmpty || (s.ctx g k).intrap)) = true ↔ s.AtPreemptPoint g k := by
  simp [State.AtPreemptPoint, and_assoc]

theorem State.takePreempt_of_point (h : s.AtPreemptPoint g k) : s.takePreempt g k = some (s.park g k) := if_pos (State.atPreemptPoint_iff.2 h)

theorem State.takePreempt_of_not_point (h : ¬s.AtPreemptPoint g k) : s.takePreempt g k = none := if_neg (mt State.atPreemptPoint_iff.1 h)

theorem exec_preemptPoint (hg : g < 40960) (hk : k < 13) : exec (.preemptPoint g k) s = .next ((s.takePreempt g k).getD s) :=
  if_neg (not_noContext hg hk)

/-- What a context was about before it takes its pre-emption point is given back. -/
theorem Aside.park_prefix (s : State) (g k : Nat) : Aside g k s ((s.unpop g k).unadmit g k) := (Aside.refl s).unpop.unadmit

theorem State.mem_park (s : State) (g k : Nat) : (s.park g k).mem = s.mem := by
  have h := congrArg State.mem (Aside.park_prefix s g k).units
  exact h

/-- A context that has stopped at its pre-emption point, with what it waited for (R411, R418). -/
def Ctx.stopped (c : Ctx) (wait : Option NodeWait) (since pair : Option Nat) : Ctx :=
  { c with
    resident := false, parked := true, saved := false, savedGrant := c.grant, waitFrom := none, mid := false, yieldEnd := none,
    xfail := none, nwait := wait, qFrom := since, pairFrom := pair }

theorem State.ctx_park (s : State) (g k : Nat) :
    ∃ wait since pair, (s.park g k).ctx g k = { s.ctx g k with popped := [], admitted := 0 }.stopped wait since pair := by
  have hctx : ((s.unpop g k).unadmit g k).ctx g k = { s.ctx g k with popped := [], admitted := 0 } := by
    rw [State.ctx_unadmit, State.ctx_unpop]
  rw [← hctx]
  unfold State.park Ctx.stopped
  dsimp only
  rw [State.ctx_onCtx]
  exact ⟨_, _, _, rfl⟩

end Park

/-! ### Saving (R419, R420) -/

section Save
variable {s : State} {g k : Nat}

/-- A context whose image is to be saved now (R419). -/
def State.SavesNow (s : State) (g k : Nat) : Prop := (s.ctx g k).parked = true ∧ (s.ctx g k).saved = false ∧ s.quiet g k = true

theorem State.savesNow_iff : ((s.ctx g k).parked && !(s.ctx g k).saved && s.quiet g k) = true ↔ s.SavesNow g k := by
  simp [State.SavesNow, and_assoc]

variable (hg : g < 40960) (hk : k < 13)
include hg hk

theorem exec_contextSaved (h : s.SavesNow g k) : exec (.contextSaved g k) s = .next (s.saveCtx g k) :=
  (if_neg (not_noContext hg hk)).trans (congrArg _ (if_pos (State.savesNow_iff.2 h)))

theorem exec_contextSaved_other (h : ¬s.SavesNow g k) : exec (.contextSaved g k) s = .next s :=
  (if_neg (not_noContext hg hk)).trans (congrArg _ (if_neg (mt State.savesNow_iff.1 h)))

end Save

/-- A context with its image in the image store, and its lanes returned (R226, R419). -/
def State.imaged (s : State) (g k : Nat) : State :=
  s.onCtx g k (fun x => { x with saved := true, grant := 0, coreRegs := if k = 0 then some ((s.core g).wl, (s.core g).xslot) else none })

theorem State.saveCtx_of_none {s : State} {g k : Nat} (h : s.parker (s.ctx g k) = none) : s.saveCtx g k = s.imaged g k := by
  unfold State.saveCtx
  dsimp only
  rw [h]
  rfl

theorem State.saveCtx_of_some {s : State} {g k n : Nat} {share : Bool} (h : s.parker (s.ctx g k) = some (n, share)) :
    s.saveCtx g k = (s.imaged g k).onCore g (fun x => x.release n share) := by
  unfold State.saveCtx
  dsimp only
  rw [h]
  rfl

/-! ### Resumption (R421) -/

section Resume
variable {s : State} {g k : Nat}

theorem Core.ctx_keepCount (c : Core) (k clk j : Nat) :
    ∃ since pair, (c.keepCount k clk).ctx j = { c.ctx j with qFrom := since, pairFrom := pair } := by
  unfold Core.keepCount
  dsimp only
  split
  · rename_i i _
    split
    · by_cases hj : j = i
      · subst hj
        exact ⟨_, _, Table.get_set_same ..⟩
      · exact ⟨_, _, Table.get_set_other _ _ _ hj⟩
    · exact ⟨_, _, rfl⟩
  · exact ⟨_, _, rfl⟩

theorem Core.ctx_restore (c : Core) (x : Ctx) (clk j : Nat) : (c.restore x clk).ctx j = c.ctx j := by
  unfold Core.restore
  split <;> rfl

/-- A core as one of its parked contexts goes on (R150, R421). -/
def State.readied (s : State) (g k : Nat) : State :=
  s.onCore g (fun x => { (x.keepCount k s.clk).restore (s.ctx g k) s.clk with parkedBy := if x.shared then x.parkedBy else none })

theorem State.ctx_readied (s : State) (g k g' j : Nat) :
    ∃ since pair, (s.readied g k).ctx g' j = { s.ctx g' j with qFrom := since, pairFrom := pair } := by
  by_cases hg : g' = g
  · subst hg
    obtain ⟨since, pair, h⟩ := Core.ctx_keepCount (s.core g') k s.clk j
    refine ⟨since, pair, ?_⟩
    have hcore : (s.readied g' k).ctx g' j = ((s.core g').keepCount k s.clk).ctx j :=
      (congrArg (Core.ctx · j) (State.core_onCore ..)).trans (Core.ctx_restore ..)
    exact hcore.trans h
  · exact ⟨_, _, congrArg (Core.ctx · j) (State.core_onCore_other s _ hg)⟩

/-- The lanes for a context that resumes (R226). -/
def State.resumeLanes (s : State) (g k : Nat) : Nat := min (s.ctx g k).savedGrant (s.freeLanes g)

theorem State.resumeCtx_of_parked (h : (s.ctx g k).parked = true) : TracesOnly
    ((s.readied g k).onCtx g k (fun c => c.resumed (s.resumeLanes g k) ((s.core g).waitedBefore k) s.clk)) (s.resumeCtx g k) := by
  have hp : ¬(!(s.ctx g k).parked) = true := by rw [h]; decide
  unfold State.resumeCtx
  dsimp only
  rw [if_neg hp]
  split
  · exact TracesOnly.traceFor ..
  · exact TracesOnly.refl _

theorem State.resumeCtx_of_running (h : (s.ctx g k).parked = false) : s.resumeCtx g k = s := if_pos (by rw [h]; rfl)

theorem TracesOnly.ctx {s t : State} (h : TracesOnly s t) (g k : Nat) : t.ctx g k = s.ctx g k := by
  unfold State.ctx
  rw [h.core]
  rfl

theorem State.ctx_resumeCtx (h : (s.ctx g k).parked = true) : ∃ since pair, (s.resumeCtx g k).ctx g k =
    { s.ctx g k with qFrom := since, pairFrom := pair }.resumed (s.resumeLanes g k) ((s.core g).waitedBefore k) s.clk := by
  obtain ⟨since, pair, hc⟩ := State.ctx_readied s g k g k
  exact ⟨since, pair, by rw [(State.resumeCtx_of_parked h).ctx, State.ctx_onCtx, hc]⟩

theorem State.ctx_resumeCtx_other (h : (s.ctx g k).parked = true) {g' j : Nat} (hne : ¬(g' = g ∧ j = k)) :
    ∃ since pair, (s.resumeCtx g k).ctx g' j = { s.ctx g' j with qFrom := since, pairFrom := pair } := by
  obtain ⟨since, pair, hc⟩ := State.ctx_readied s g k g' j
  exact ⟨since, pair, by rw [(State.resumeCtx_of_parked h).ctx, State.ctx_onCtx_other _ _ hne, hc]⟩

theorem Ctx.grant_resumed (c : Ctx) (g waited clk : Nat) : (c.resumed g waited clk).grant = if c.saved = true then g else c.grant := by
  unfold Ctx.resumed
  cases c.saved <;> rfl

theorem Ctx.win_resumed (c : Ctx) (g waited clk : Nat) : (c.resumed g waited clk).win = c.win := by
  unfold Ctx.resumed
  cases c.saved <;> rfl

theorem Ctx.pc_resumed (c : Ctx) (g waited clk : Nat) : (c.resumed g waited clk).pc = c.pc := by
  unfold Ctx.resumed
  cases c.saved <;> rfl

theorem Ctx.serves_congr {c d : Ctx} (hl : c.launch = d.launch) (ha : c.arrived = d.arrived) (l : Nat × Nat) : c.serves l = d.serves l := by
  unfold Ctx.serves
  rw [hl, ha]

theorem Ctx.serves_resumed (c : Ctx) (g waited clk : Nat) (l : Nat × Nat) : (c.resumed g waited clk).serves l = c.serves l := by
  have hl : (c.resumed g waited clk).launch = c.launch := by
    unfold Ctx.resumed
    cases c.saved <;> rfl
  have ha : (c.resumed g waited clk).arrived = c.arrived := by
    unfold Ctx.resumed
    cases c.saved <;> rfl
  exact Ctx.serves_congr hl ha l

theorem State.coresOnly_onCore (s : State) (g : Nat) (f : Core → Core) : s.onCore g f = { s with cores := (s.onCore g f).cores } := rfl

theorem State.coresOnly_onCtx (s : State) (g k : Nat) (f : Ctx → Ctx) : s.onCtx g k f = { s with cores := (s.onCtx g k f).cores } := rfl

theorem State.coresOnly_trans {s t u : State} (h : t = { s with cores := t.cores }) (h' : u = { t with cores := u.cores }) :
    u = { s with cores := u.cores } := by rw [h', h]

/-- Of a state, only cores have changed, and of its contexts only some that were parked: those go on (R421). -/
structure Resumed (s t : State) : Prop where
  units : t = { s with cores := t.cores }
  serves : ∀ g k l, (t.ctx g k).serves l = (s.ctx g k).serves l
  goesOn : ∀ g k, ((t.ctx g k).parked = (s.ctx g k).parked ∧ (t.ctx g k).resident = (s.ctx g k).resident)
    ∨ ((t.ctx g k).parked = false ∧ (t.ctx g k).resident = true)

namespace Resumed
variable {t u : State}

theorem refl (s : State) : Resumed s s := ⟨rfl, fun _ _ _ => rfl, fun _ _ => .inl ⟨rfl, rfl⟩⟩

theorem trans (h : Resumed s t) (h' : Resumed t u) : Resumed s u where
  units := State.coresOnly_trans h.units h'.units
  serves g k l := (h'.serves g k l).trans (h.serves g k l)
  goesOn g k := by
    rcases h'.goesOn g k with hsame | hruns
    · rw [hsame.1, hsame.2]
      exact h.goesOn g k
    · exact .inr hruns

theorem mem (h : Resumed s t) : t.mem = s.mem := by rw [h.units]

theorem launch (h : Resumed s t) (slot : Nat) : t.launch slot = s.launch slot := by
  rw [h.units]
  rfl

theorem mustPark (h : Resumed s t) (g k : Nat) : t.mustPark g k = s.mustPark g k := by
  have hl : t.launches = s.launches := by rw [h.units]
  unfold State.mustPark
  dsimp only
  simp only [hl, h.serves]

theorem resumeCtx (s : State) (g k : Nat) : Resumed s (s.resumeCtx g k) := by
  cases hp : (s.ctx g k).parked with
  | false =>
    rw [State.resumeCtx_of_running hp]
    exact refl s
  | true =>
    have hctx (g' j : Nat) : (∀ l, ((s.resumeCtx g k).ctx g' j).serves l = (s.ctx g' j).serves l)
        ∧ ((((s.resumeCtx g k).ctx g' j).parked = (s.ctx g' j).parked ∧ ((s.resumeCtx g k).ctx g' j).resident = (s.ctx g' j).resident)
          ∨ (((s.resumeCtx g k).ctx g' j).parked = false ∧ ((s.resumeCtx g k).ctx g' j).resident = true)) := by
      by_cases hj : g' = g ∧ j = k
      · obtain ⟨rfl, rfl⟩ := hj
        obtain ⟨since, pair, h⟩ := State.ctx_resumeCtx hp
        rw [h]
        exact ⟨fun l => (Ctx.serves_resumed ..).trans (Ctx.serves_congr rfl rfl l), .inr ⟨rfl, rfl⟩⟩
      · obtain ⟨since, pair, h⟩ := State.ctx_resumeCtx_other hp hj
        rw [h]
        exact ⟨fun l => Ctx.serves_congr rfl rfl l, .inl ⟨rfl, rfl⟩⟩
    refine ⟨?_, fun g' j => (hctx g' j).1, fun g' j => (hctx g' j).2⟩
    exact State.coresOnly_trans (State.coresOnly_trans (State.coresOnly_onCore s g _) (State.coresOnly_onCtx _ g k _))
      (State.resumeCtx_of_parked hp).units

end Resumed

end Resume

/-- A resumption of the contexts that serve a launch and need not park, one after another (R421). -/
def State.resumeServing (s : State) (l : Nat × Nat) (g k : Nat) : State :=
  if (s.ctx g k).serves l && !s.mustPark g k then s.resumeCtx g k else s

theorem Resumed.resumeServing (s : State) (l : Nat × Nat) (g k : Nat) : Resumed s (s.resumeServing l g k) := by
  unfold State.resumeServing
  split
  · exact .resumeCtx s g k
  · exact .refl s

theorem Resumed.foldl {α : Type} {f : State → α → State} (hf : ∀ s a, Resumed s (f s a)) (as : List α) (s : State) :
    Resumed s (as.foldl f s) :=
  List.foldlRecOn (motive := Resumed s) _ _ (.refl s) fun _ ht _ _ => ht.trans (hf ..)

/-- What one element of a list brings about, and every other keeps, holds after all of them. -/
theorem foldl_reaches {α β : Type} {f : β → α → β} {Q P : β → Prop} (hQ : ∀ t b, Q t → Q (f t b)) (hP : ∀ t b, P t → P (f t b))
    {a : α} (ha : ∀ t, Q t → P (f t a)) {as : List α} (hmem : a ∈ as) {s : β} (hs : Q s) : P (as.foldl f s) := by
  obtain ⟨before, after, rfl⟩ := List.append_of_mem hmem
  rw [List.foldl_append, List.foldl_cons]
  have hbefore : Q (before.foldl f s) := List.foldlRecOn (motive := Q) _ _ hs fun t ht b _ => hQ t b ht
  exact List.foldlRecOn (motive := P) _ _ (ha _ hbefore) fun t ht b _ => hP t b ht

/-- A context runs: it is not parked, and resident. -/
def State.runs (s : State) (g k : Nat) : Prop := (s.ctx g k).parked = false ∧ (s.ctx g k).resident = true

theorem Resumed.runs {s t : State} (h : Resumed s t) {g k : Nat} (hs : s.runs g k) : t.runs g k := by
  obtain ⟨hp, hr⟩ := hs
  rcases h.goesOn g k with ⟨hp', hr'⟩ | hruns
  · exact ⟨hp'.trans hp, hr'.trans hr⟩
  · exact hruns

/-- Once a context has had its turn it runs, whatever else has a turn. -/
theorem Resumed.runs_foldl {α : Type} {f : State → α → State} (hf : ∀ s a, Resumed s (f s a)) {s : State} {g k : Nat} {a : α}
    (ha : ∀ t, Resumed s t → (f t a).runs g k) {as : List α} (hmem : a ∈ as) : (as.foldl f s).runs g k :=
  foldl_reaches (Q := Resumed s) (fun t b ht => ht.trans (hf t b)) (fun t b ht => (hf t b).runs ht) ha hmem (.refl s)

/-- A context that was parked runs after its turn, if it serves the launch and need not park. -/
theorem Resumed.runs_resumeServing {s t : State} {l : Nat × Nat} {g k : Nat} (h : Resumed s t) (hp : (s.ctx g k).parked = true)
    (hl : (s.ctx g k).serves l = true) (hm : s.mustPark g k = false) :
    (t.resumeServing l g k).runs g k := by
  have hturn : ((t.ctx g k).serves l && !t.mustPark g k) = true := by rw [h.serves, h.mustPark, hl, hm]; rfl
  unfold State.resumeServing
  rw [if_pos hturn]
  rcases h.goesOn g k with ⟨hpk, -⟩ | ⟨hp', hr'⟩
  · obtain ⟨since, pair, hc⟩ := State.ctx_resumeCtx (hpk.trans hp)
    unfold State.runs
    rw [hc]
    exact ⟨rfl, rfl⟩
  · rw [State.resumeCtx_of_running hp']
    exact ⟨hp', hr'⟩

/-- A core with a parked context has an entry. -/
theorem State.mem_coresServing {s : State} {g k : Nat} (hk : k < 13) {l : Nat × Nat} (hp : (s.ctx g k).parked = true)
    (hl : (s.ctx g k).serves l = true) : g ∈ s.coresServing l := by
  cases hf : Table.find s.cores g with
  | none =>
    have hcore : s.core g = {} := by
      unfold State.core Table.get
      rw [hf]
      rfl
    have hctx : s.ctx g k = Ctx.initial k := congrArg (Core.ctx · k) hcore
    rw [hctx] at hp
    exact absurd hp (by unfold Ctx.initial; split <;> decide)
  | some c =>
    have hcore : s.core g = c := by
      unfold State.core Table.get
      rw [hf]
      rfl
    refine List.mem_map.2 ⟨(g, c), List.mem_filter.2 ⟨Table.mem_of_find hf, ?_⟩, rfl⟩
    refine List.any_eq_true.2 ⟨k, mem_ctxNumbers.2 hk, ?_⟩
    subst hcore
    exact hl

/-! ### The events -/

/-- A launch is no longer suspended (R421). -/
def State.awake (s : State) (slot : Nat) : State := s.onLaunch slot (fun l => { l with suspended := false, share := false })

/-- The contexts of a launch on a core go on that need not park. -/
def State.resumeOn (s : State) (l : Nat × Nat) (g : Nat) : State := ctxNumbers.foldl (fun s k => s.resumeServing l g k) s

/-- All contexts of a launch go on that need not park. -/
def State.resumeCores (s : State) (l : Nat × Nat) : State :=
  (s.coresServing l).foldl (fun s g => s.resumeOn l g) s

theorem Resumed.resumeOn (s : State) (l : Nat × Nat) (g : Nat) : Resumed s (s.resumeOn l g) :=
  Resumed.foldl (fun s k => .resumeServing s l g k) ctxNumbers s

theorem Resumed.resumeCores (s : State) (l : Nat × Nat) : Resumed s (s.resumeCores l) :=
  Resumed.foldl (fun s g => .resumeOn s l g) (s.coresServing l) s

theorem State.runs_resumeCores {s : State} {l : Nat × Nat} {g k : Nat} (hk : k < 13) (hp : (s.ctx g k).parked = true)
    (hl : (s.ctx g k).serves l = true) (hm : s.mustPark g k = false) :
    (s.resumeCores l).runs g k :=
  Resumed.runs_foldl (fun t g => .resumeOn t l g)
    (fun _ ht => Resumed.runs_foldl (fun t k => .resumeServing t l g k) (fun _ hu => (ht.trans hu).runs_resumeServing hp hl hm)
      (mem_ctxNumbers.2 hk)) (State.mem_coresServing hk hp hl)

section Events
variable {s : State} {slot g k : Nat}

theorem exec_prectlResume_other (hs : slot < 64) (h : (s.launch slot).suspended = false) : exec (.prectlResume slot) s = .next s :=
  (if_neg (Nat.not_le.2 hs)).trans (if_pos (by rw [h]; rfl))

theorem exec_prectlResume (hs : slot < 64) (h : (s.launch slot).suspended = true) :
    exec (.prectlResume slot) s = .next ((s.awake slot).resumeCores (slot, (s.launch slot).epoch)) :=
  (if_neg (Nat.not_le.2 hs)).trans (if_neg (by rw [h]; decide))

variable (hg : g < 40960) (hk : k < 13)
include hg hk

/-- A core in use by its own launch's contexts has none to bring back (R420, R421). -/
theorem exec_contextResume (h : (s.core g).shared = false) :
    exec (.contextResume g k) s = .next (if s.mustPark g k then s else s.resumeCtx g k) := by
  have ha : s.awaited g = false := by
    unfold State.awaited
    rw [h]
    rfl
  refine (if_neg (not_noContext hg hk)).trans (congrArg Host.Outcome.next ?_)
  simp [ha, h]

theorem exec_contextResume_shared (h : (s.core g).shared = true) (ha : s.awaited g = false) : exec (.contextResume g k) s = .next s := by
  refine (if_neg (not_noContext hg hk)).trans (congrArg Host.Outcome.next ?_)
  simp [ha, h]

end Events

/-- Settles O40: suspension, parking, saving and resumption, a resumption of a launch by induction over its cores and contexts. That a
held access is cancelled as its context parks (log 35) is the model's choice. -/
theorem preemption : Obligations.Preemption := by
  intro s slot g k hs hg hk
  dsimp only
  refine ⟨fun share => ⟨exec_prectlSuspend_active hs, exec_prectlSuspend_other hs⟩, exec_prectlResume_other hs, fun h => ?_, fun h => ?_,
    fun h => ?_, fun h hn => ?_, fun h n share hp => ?_, exec_contextSaved_other hg hk, fun h hm hp => ?_, fun h hm => ?_,
    exec_contextResume_shared hg hk⟩
  · have hcores := Resumed.resumeCores (s.awake slot) (slot, (s.launch slot).epoch)
    refine ⟨_, exec_prectlResume hs h, ?_, hcores.mem, fun hp hl hm => State.runs_resumeCores hk hp hl hm⟩
    rw [hcores.launch]
    unfold State.awake
    rw [State.launch_onLaunch]
  · obtain ⟨wait, since, pair, hc⟩ := State.ctx_park s g k
    refine ⟨s.park g k, by rw [exec_preemptPoint hg hk, State.takePreempt_of_point h, Option.getD_some], ?_⟩
    rw [hc]
    exact ⟨rfl, rfl, rfl, rfl, rfl, State.mem_park s g k⟩
  · rw [exec_preemptPoint hg hk, State.takePreempt_of_not_point h, Option.getD_none]
  · rw [exec_contextSaved hg hk h, State.saveCtx_of_none hn, State.imaged]
  · rw [exec_contextSaved hg hk h, State.saveCtx_of_some hp, State.imaged]
  · obtain ⟨since, pair, hc⟩ := State.ctx_resumeCtx hp
    refine ⟨s.resumeCtx g k, by rw [exec_contextResume hg hk h, hm, if_neg Bool.false_ne_true], ?_⟩
    rw [hc, Ctx.pc_resumed, Ctx.win_resumed, Ctx.grant_resumed]
    exact ⟨rfl, rfl, rfl, rfl, rfl, (Resumed.resumeCtx s g k).mem, rfl⟩
  · rw [exec_contextResume hg hk h]
    obtain hm | hp := hm
    · rw [if_pos hm]
    · rw [State.resumeCtx_of_running hp, ite_self]

end Sys2Proof.Machine
end

section
/-! What power states, gating and the thermal trip leave of launches and gates (R407, R511-R514). -/
namespace Sys2Proof.Machine
-- Elaborated one after another, so that threads that wait for one another do not use up the memory.
set_option Elab.async false

/-- A launch keeps its state and code, the gated clusters stay gated and the CGATE bits stay. -/
structure Stays (n : Nat) (s t : State) : Prop where
  state : (t.launch n).state = (s.launch n).state
  code : (t.launch n).ecode = (s.launch n).ecode
  gated : ∀ cl, s.dev.gated.contains cl = true → t.dev.gated.contains cl = true
  cgate : t.dev.cgate = s.dev.cgate

namespace Stays
variable {n : Nat} {σ τ υ : State}

theorem refl (s : State) : Stays n s s := ⟨rfl, rfl, fun _ h => h, rfl⟩

theorem trans (hk : Stays n σ τ) (hk' : Stays n τ υ) : Stays n σ υ where
  state := hk'.state.trans hk.state
  code := hk'.code.trans hk.code
  gated cl h := hk'.gated cl (hk.gated cl h)
  cgate := hk'.cgate.trans hk.cgate

/-- Every field but the launches and the device's is free, so that the lemma unifies with any record update. -/
theorem fields {clk agenda cur smp mem poison lmPoison keyed lines sums metaUse hostClk imports cores caravans drives domains
    owners streams nodes pages gone replay poolUsed tlbs icache held matrix jobs rotor moves engSeq near chans array samplers groups
    wadi transfers arrivals flits sirocco seen free fresh} (hk : Stays n σ τ) : Stays n σ ⟨clk, agenda, cur, smp, mem, poison,
    lmPoison, keyed, lines, sums, metaUse, hostClk, imports, cores, τ.launches, caravans, drives, domains, owners, streams, nodes,
    pages, gone, replay, poolUsed, tlbs, icache, held, matrix, jobs, rotor, moves, engSeq, near, chans, array, samplers, groups, wadi,
    transfers, arrivals, flits, sirocco, τ.dev, seen, free, fresh⟩ :=
  hk.trans ⟨rfl, rfl, fun _ h => h, rfl⟩

theorem device {d : Device} (hk : Stays n σ τ) (hg : d.gated = τ.dev.gated) (hc : d.cgate = τ.dev.cgate) : Stays n σ { τ with dev := d } :=
  hk.trans ⟨rfl, rfl, fun cl h => (congrArg (·.contains cl) hg).trans h, hc⟩

theorem onLaunch {m : Nat} {f : Launch → Launch} (hk : Stays n σ τ)
    (hf : m = n → ∀ l, (f l).state = l.state ∧ (f l).ecode = l.ecode) : Stays n σ (τ.onLaunch m f) := by
  have hsame : ((τ.onLaunch m f).launch n).state = (τ.launch n).state ∧ ((τ.onLaunch m f).launch n).ecode = (τ.launch n).ecode := by
    by_cases hm : m = n
    · subst hm
      rw [State.launch_onLaunch]
      exact hf rfl _
    · rw [State.launch_onLaunch_other _ _ (Ne.symm hm)]
      exact ⟨rfl, rfl⟩
  exact hk.trans ⟨hsame.1, hsame.2, fun _ h => h, rfl⟩

theorem onLaunch_other {m : Nat} {f : Launch → Launch} (hk : Stays n σ τ) (hm : m ≠ n) : Stays n σ (τ.onLaunch m f) :=
  hk.onLaunch fun h => absurd h hm

theorem ite {c : Prop} [Decidable c] (h1 : Stays n σ τ) (h2 : Stays n σ υ) : Stays n σ (if c then τ else υ) := by
  split <;> assumption

theorem foldl {α : Type} {f : State → α → State} {l : List α} (hk : Stays n σ τ) (hf : ∀ υ a, Stays n υ (f υ a)) :
    Stays n σ (l.foldl f τ) :=
  List.foldlRecOn (motive := Stays n σ) _ _ hk fun _ ht _ _ => ht.trans (hf ..)

/-! ### Parts of the state -/

theorem onCore {g f} (hk : Stays n σ τ) : Stays n σ (τ.onCore g f) := hk.fields

theorem onCtx {g k f} (hk : Stays n σ τ) : Stays n σ (τ.onCtx g k f) := hk.fields

theorem onCaravan {d f} (hk : Stays n σ τ) : Stays n σ (τ.onCaravan d f) := hk.fields

theorem onStream {m f} (hk : Stays n σ τ) : Stays n σ (τ.onStream m f) := hk.fields

theorem onEngine {cl f} (hk : Stays n σ τ) : Stays n σ (τ.onEngine cl f) := hk.fields

theorem onDomain {d f} (hk : Stays n σ τ) : Stays n σ (τ.onDomain d f) := hk.fields

theorem setSirocco {d x} (hk : Stays n σ τ) : Stays n σ (τ.setSirocco d x) := hk.fields

theorem sawClock {t} (hk : Stays n σ τ) : Stays n σ (τ.sawClock t) := hk.device rfl rfl

theorem send {v} (hk : Stays n σ τ) : Stays n σ (τ.send v) := .ite (hk.device rfl rfl) (hk.device rfl rfl)

/-! ### Homes and write lanes -/

theorem homeWrite {line bytes core by_ owner near made} (hk : Stays n σ τ) : Stays n σ (τ.homeWrite line bytes core by_ owner near made) := by
  unfold State.homeWrite
  dsimp only
  refine .ite hk.onCaravan (.ite hk ?_)
  split <;> exact hk.fields

theorem acceptEntry {g e} (hk : Stays n σ τ) : Stays n σ (τ.acceptEntry g e) := .ite hk.homeWrite.fields hk.homeWrite

theorem acceptFor {g line q} (hk : Stays n σ τ) : Stays n σ (τ.acceptFor g line q) := by
  induction q generalizing τ with
  | nil => exact hk
  | cons e r ih => exact .ite (ih hk.acceptEntry.onCore) hk

theorem acceptLine {but line} (hk : Stays n σ τ) : Stays n σ (τ.acceptLine but line) :=
  hk.foldl fun υ _ => .ite (refl υ) (refl υ).acceptFor

theorem makeRoom {g} (hk : Stays n σ τ) : Stays n σ (τ.makeRoom g) := by
  unfold State.makeRoom
  split
  · exact .ite hk hk.acceptEntry.onCore
  · exact hk

theorem charge {g m} (hk : Stays n σ τ) : Stays n σ (τ.charge g m) := hk.onCore

theorem writeBack {g l} (hk : Stays n σ τ) : Stays n σ (τ.writeBack g l) := by
  unfold State.writeBack
  dsimp only
  exact hk.charge.makeRoom.onCore.fields

theorem settle {g line} (hk : Stays n σ τ) : Stays n σ (τ.settle g line) := by
  unfold State.settle State.settleFor
  dsimp only
  split
  · split
    · exact hk.acceptLine
    · split
      · exact hk.acceptLine.writeBack.acceptFor
      · exact hk.acceptLine.fields
  · exact hk.acceptLine

/-! ### Streams and the pools of a launch -/

theorem placeLines {agent l lines} (hk : Stays n σ τ) : Stays n σ (τ.placeLines agent l lines).1 := by
  unfold State.placeLines
  dsimp only
  split
  · exact hk
  · exact hk.fields.sawClock

theorem unitStep {m p} (hk : Stays n σ τ) : Stays n σ (τ.unitStep m p) := placeLines hk.fields

theorem readmit {h} (hk : Stays n σ τ) : Stays n σ (τ.readmit h) := by
  unfold State.readmit
  dsimp only
  split
  · exact hk
  · exact .ite (unitStep hk.fields).onStream hk

theorem purgeDie {slot d} (hk : Stays n σ τ) : Stays n σ (τ.purgeDie slot d) := by
  unfold State.purgeDie readmitAll
  exact hk.onCaravan.foldl fun υ _ => (refl υ).readmit

theorem undrive {slot} (hk : Stays n σ τ) : Stays n σ (τ.undrive slot) :=
  hk.foldl fun υ _ => (Stays.ite (refl υ).unitStep (refl υ)).onStream

theorem purge {slot} (hk : Stays n σ τ) : Stays n σ (τ.purge slot) := by
  unfold State.purge
  dsimp only
  exact (hk.foldl fun υ _ => (refl υ).purgeDie).undrive.fields.onLaunch fun _ _ => ⟨rfl, rfl⟩

theorem stopLaunch_other {slot code endState} (hk : Stays n σ τ) (hm : slot ≠ n) : Stays n σ (τ.stopLaunch slot code endState) := by
  unfold State.stopLaunch
  dsimp only
  exact .ite (hk.purge.onLaunch_other hm) (.ite (hk.onLaunch_other hm) (.ite (hk.onLaunch_other hm) hk))

/-! ### Trace records on their way out -/

theorem traceFor {owner g k kind p} (hk : Stays n σ τ) : Stays n σ (τ.traceFor owner g k kind p) := .ite hk.onCore hk

theorem storeRaw {owner pa bs} (hk : Stays n σ τ) : Stays n σ (τ.storeRaw owner pa bs) := by
  unfold State.storeRaw
  dsimp only
  exact (hk.foldl fun υ _ => (refl υ).settle).fields

theorem closeFrame {die} (hk : Stays n σ τ) : Stays n σ (τ.closeFrame die) := by
  unfold State.closeFrame
  dsimp only
  exact .ite hk (.ite hk.setSirocco (.ite hk.setSirocco hk.setSirocco.storeRaw))

theorem frameRecord {die owner r} (hk : Stays n σ τ) : Stays n σ (τ.frameRecord die owner r) := by
  unfold State.frameRecord
  dsimp only
  exact (Stays.ite hk hk.closeFrame).setSirocco

theorem copyRecord {g} (hk : Stays n σ τ) : Stays n σ (τ.copyRecord g) := by
  unfold State.copyRecord
  dsimp only
  split
  · exact hk
  · split
    · exact hk.onCore.frameRecord
    · exact hk
    · exact hk.onCore.frameRecord

theorem drainTrace {cl} (hk : Stays n σ τ) : Stays n σ (τ.drainTrace cl) := by
  unfold State.drainTrace
  dsimp only
  exact .ite (hk.foldl fun υ _ => (refl υ).foldl fun φ _ => (refl φ).copyRecord).closeFrame
    (hk.foldl fun υ _ => (refl υ).foldl fun φ _ => (refl φ).copyRecord)

/-! ### Gating -/

theorem flushCore {g} (hk : Stays n σ τ) : Stays n σ (τ.flushCore g) := by
  unfold State.flushCore
  dsimp only
  exact (hk.foldl fun υ _ => (refl υ).writeBack).foldl fun υ _ => (refl υ).acceptEntry.onCore

end Stays

/-- A cluster whose trace has left it, whose cores have written back what they held, and whose cores are off (R513). -/
def State.drained (s : State) (cl : Nat) : State :=
  (clusterCores cl).foldl (fun s g => s.onCore g Core.gatedOff) ((clusterCores cl).foldl (fun s g => s.flushCore g) (s.drainTrace cl))

theorem Stays.drained {n : Nat} (s : State) (cl : Nat) : Stays n s (s.drained cl) := by
  unfold State.drained
  refine Stays.foldl (Stays.foldl (Stays.drainTrace (Stays.refl s)) fun υ g => ?_) fun υ g => ?_
  · exact (Stays.refl υ).flushCore
  · exact (Stays.refl υ).onCore

/-- The gated clusters, with one more. -/
def withCluster (gated : List Nat) (cl : Nat) : List Nat := if gated.contains cl then gated else cl :: gated

theorem contains_withCluster {gated : List Nat} {cl d : Nat} : (withCluster gated cl).contains d = true ↔ d = cl ∨ gated.contains d = true := by
  unfold withCluster
  split
  · rename_i h
    exact ⟨.inr, fun hd => hd.elim (fun e => e ▸ h) id⟩
  · rw [List.contains_cons, Bool.or_eq_true, beq_iff_eq]

/-- A cluster is shut: its local memory reads 0, and it keeps no code, no matrix state and no translations (R513). -/
def State.shut (s : State) (cl : Nat) : State :=
  { s with
    mem := s.mem.zero (localKey (cl * 80) 0) (80 * 65536),
    lmPoison := s.lmPoison.filter (fun w =>
      !(decide (localKey (cl * 80) 0 ≤ 4 * w) && decide (4 * w < localKey (cl * 80) 0 + 80 * 65536))),
    icache := s.icache.drop cl, matrix := s.matrix.drop cl, tlbs := s.tlbs.drop cl,
    dev := { s.dev with gated := withCluster s.dev.gated cl, icBad := s.dev.icBad.filter (fun b => b.1 ≠ cl) } }

theorem State.gateCluster_eq (s : State) (cl : Nat) : s.gateCluster cl = (s.drained cl).shut cl := by
  unfold State.gateCluster State.drained State.shut withCluster
  dsimp only

theorem Stays.shut {n : Nat} (s : State) (cl : Nat) : Stays n s (s.shut cl) :=
  ⟨rfl, rfl, fun _ hd => contains_withCluster.2 (.inr hd), rfl⟩

theorem State.shut_contains (s : State) (cl : Nat) : (s.shut cl).dev.gated.contains cl = true :=
  (contains_withCluster (gated := s.dev.gated)).2 (.inl rfl)

theorem Stays.gateCluster {n : Nat} (s : State) (cl : Nat) : Stays n s (s.gateCluster cl) := by
  rw [State.gateCluster_eq]
  exact (Stays.drained s cl).trans (Stays.shut _ cl)

theorem State.gateCluster_contains (s : State) (cl : Nat) : (s.gateCluster cl).dev.gated.contains cl = true := by
  rw [State.gateCluster_eq]
  exact State.shut_contains _ cl

theorem State.core_foldl_gatedOff {gs : List Nat} {g : Nat} (h : g ∈ gs) (s : State) :
    ∃ c : Core, (gs.foldl (fun s g => s.onCore g Core.gatedOff) s).core g = c.gatedOff := by
  refine foldl_reaches (f := fun (s : State) (g : Nat) => s.onCore g Core.gatedOff) (Q := fun _ => True)
    (P := fun t : State => ∃ c : Core, t.core g = c.gatedOff) (fun _ _ _ => trivial) (fun t g' h => ?_)
    (fun t _ => ⟨t.core g, State.core_onCore ..⟩) h trivial
  by_cases hne : g = g'
  · subst hne
    exact ⟨t.core g, State.core_onCore ..⟩
  · obtain ⟨c, hc⟩ := h
    exact ⟨c, (State.core_onCore_other t _ hne).trans hc⟩

theorem mem_clusterCores (g : Nat) : g ∈ clusterCores (clusterOf g) :=
  List.mem_map.2 ⟨g % 80, List.mem_range.2 (Nat.mod_lt _ (by decide)), Nat.div_add_mod' g 80⟩

theorem State.core_shut (s : State) (cl g : Nat) : (s.shut cl).core g = s.core g := rfl

/-- A cluster that is gated keeps its cores off: no contexts, no write lane, no cached lines (R513). -/
theorem State.core_gateCluster (s : State) {cl g : Nat} (h : clusterOf g = cl) : ∃ c : Core, (s.gateCluster cl).core g = c.gatedOff := by
  subst h
  rw [State.gateCluster_eq]
  obtain ⟨c, hc⟩ := State.core_foldl_gatedOff (mem_clusterCores g)
    ((clusterCores (clusterOf g)).foldl (fun s g => s.flushCore g) (s.drainTrace (clusterOf g)))
  refine ⟨c, (State.core_shut _ _ g).trans ?_⟩
  unfold State.drained
  exact hc

theorem State.engine_shut (s : State) (cl : Nat) : (s.shut cl).engine cl = {} :=
  congrArg (fun e : Option MatrixEngine => e.getD {}) (Table.find_drop_same s.matrix cl)

/-- A byte made zero reads 0, whatever the memory. -/
theorem Memory.byte_zero_inside {m : Memory} {a n x : Nat} (h : a ≤ x ∧ x < a + n) : (m.zero a n).byte x = 0 := by
  induction m with
  | nil => rfl
  | cons c r ih =>
    obtain ⟨k, v⟩ := c
    by_cases hk : a ≤ k ∧ k < a + n
    · have hz : Memory.zero ((k, v) :: r) a n = Memory.zero r a n := List.filter_cons_of_neg (by simpa using hk)
      rw [hz, ih]
    · have hz : Memory.zero ((k, v) :: r) a n = (k, v) :: Memory.zero r a n :=
        List.filter_cons_of_pos (by rwa [← Bool.decide_and, Bool.not_eq_true', decide_eq_false_iff_not])
      have hne : x ≠ k := fun e => hk (e ▸ h)
      rw [hz, Memory.byte, if_neg hne, ih, ite_self]

/-! ### All clusters, and what ends at a trip (R512, R514) -/

/-- One more of the clusters to be gated (R512, R514). -/
def State.gateOne (s : State) (cl : Nat) : State := if s.dev.gated.contains cl then s else s.gateCluster cl

theorem Stays.gateOne {n : Nat} (s : State) (cl : Nat) : Stays n s (s.gateOne cl) := .ite (.refl s) (.gateCluster s cl)

theorem State.gateOne_contains (s : State) (cl : Nat) : (s.gateOne cl).dev.gated.contains cl = true := by
  unfold State.gateOne
  split
  · assumption
  · exact s.gateCluster_contains cl

theorem State.foldl_gateOne_contains {cls : List Nat} {cl : Nat} (h : cl ∈ cls) (s : State) :
    (cls.foldl State.gateOne s).dev.gated.contains cl = true :=
  foldl_reaches (Q := fun _ => True) (P := fun t : State => t.dev.gated.contains cl = true) (fun _ _ _ => trivial)
    (fun t c ht => (Stays.gateOne (n := 0) t c).gated cl ht) (fun t _ => t.gateOne_contains cl) h trivial

theorem State.gateAll_eq (s : State) : s.gateAll = (List.range 512).foldl State.gateOne s := by
  unfold State.gateAll State.gateOne Config.clusterCount
  rfl

theorem State.gateAll_contains (s : State) {cl : Nat} (h : cl < 512) : s.gateAll.dev.gated.contains cl = true := by
  rw [State.gateAll_eq]
  exact State.foldl_gateOne_contains (List.mem_range.2 h) s

namespace Stays
variable {n : Nat} {σ τ υ : State}

theorem gateAll (hk : Stays n σ τ) : Stays n σ τ.gateAll := by
  rw [State.gateAll_eq]
  exact hk.foldl fun υ cl => gateOne υ cl

theorem utrap {slot cause async place epc tval} (hk : Stays n σ τ) : Stays n σ (τ.utrap slot cause async place epc tval) := by
  refine hk.onLaunch fun _ l => ?_
  dsimp only
  split <;> exact ⟨rfl, rfl⟩

theorem recordPend {g k} (hk : Stays n σ τ) : Stays n σ (τ.recordPend g k) := hk.foldl fun υ _ => utrap (traceFor (refl υ))

theorem unadmit {g k} (hk : Stays n σ τ) : Stays n σ (τ.unadmit g k) := .ite hk hk.onCore.onCtx

theorem orphan {g k} (hk : Stays n σ τ) : Stays n σ (τ.orphan g k) := by
  unfold State.orphan
  dsimp only
  exact hk.fields.onCore

theorem releaseTilesOn {g k sh} (hk : Stays n σ τ) : Stays n σ (τ.releaseTilesOn g k sh) := .ite hk.onEngine hk

theorem dropRank {g slot} (hk : Stays n σ τ) : Stays n σ (τ.dropRank g slot) := by
  unfold State.dropRank
  dsimp only
  exact hk.foldl fun υ _ => (refl υ).onCaravan.foldl fun φ _ => ((refl φ).foldl fun ψ _ => (refl ψ).readmit).readmit

theorem discardCtxs {g ks slot} (hk : Stays n σ τ) : Stays n σ (τ.discardCtxs g ks slot) := by
  unfold State.discardCtxs
  dsimp only
  exact (hk.foldl fun υ _ => (refl υ).recordPend.unadmit.orphan).onCore.onCtx.dropRank.foldl fun υ _ => (refl υ).releaseTilesOn

theorem discardShelf {l g} (hk : Stays n σ τ) : Stays n σ (τ.discardShelf l g) := by
  unfold State.discardShelf
  dsimp only
  exact .ite (hk.foldl fun υ _ => (refl υ).releaseTilesOn).onCore.dropRank hk

theorem freeDomain {d} (hk : Stays n σ τ) : Stays n σ (τ.freeDomain d) := by
  unfold State.freeDomain
  dsimp only
  exact (hk.foldl fun υ _ => (refl υ).onCore).onDomain

theorem logEntry {ws} (hk : Stays n σ τ) : Stays n σ (τ.logEntry ws) := by
  have hd : Stays n σ { τ with dev := { τ.dev with mctail := (τ.dev.mctail + 1) % 256, mccount := τ.dev.mccount + 1 } } := hk.device rfl rfl
  unfold State.logEntry
  dsimp only
  exact .ite hk (.ite (hk.device rfl rfl) (.ite hd.fields.send hd.fields))

theorem machineCheck {agent slot cause addr detail} (hk : Stays n σ τ) : Stays n σ (τ.machineCheck agent slot cause addr detail) := hk.logEntry

theorem countLife {i m} (hk : Stays n σ τ) : Stays n σ (τ.countLife i m) := hk.device rfl rfl

theorem saveLife (hk : Stays n σ τ) : Stays n σ τ.saveLife := hk.device rfl rfl

theorem tripVector (hk : Stays n σ τ) : Stays n σ τ.tripVector := .ite hk hk.send

end Stays

/-! ### Launches at a trip and at a machine check (R407, R514) -/

section Ends
variable {s : State} {n m code elapsed : Nat} {st : LState} {comp : Word} {irqen : Bool}

/-- What a launch's end leaves in its slot (R110, R112). -/
def Launch.ended (l : Launch) (code : Nat) (st : LState) (elapsed : Nat) : Launch :=
  { l with
    ecode := code, enode := if 1 ≤ code ∧ code ≤ 7 then l.enode else 0xFFFF, state := st, lelapsed := BitVec.ofNat 64 elapsed,
    seq := (l.seq + 1) % 2 ^ 24, suspended := false }

theorem Stays.endLaunch_ended : Stays n ((s.undrive m).onLaunch m (fun l => l.ended code st elapsed)) (s.endLaunch m code st elapsed comp irqen) := by
  unfold State.endLaunch Launch.ended
  dsimp only
  exact .ite ((Stays.ite (Stays.refl _) (Stays.refl _).fields).foldl fun υ _ => (Stays.refl υ).freeDomain).fields.send
    ((Stays.ite (Stays.refl _) (Stays.refl _).fields).foldl fun υ _ => (Stays.refl υ).freeDomain).fields

theorem State.launch_endLaunch : ((s.endLaunch m code st elapsed comp irqen).launch m).state = st
    ∧ ((s.endLaunch m code st elapsed comp irqen).launch m).ecode = code := by
  have h : Stays m ((s.undrive m).onLaunch m (fun l => l.ended code st elapsed)) (s.endLaunch m code st elapsed comp irqen) :=
    Stays.endLaunch_ended
  rw [h.state, h.code, State.launch_onLaunch]
  exact ⟨rfl, rfl⟩

theorem Stays.endLaunch_other {σ τ : State} (hk : Stays n σ τ) (h : m ≠ n) : Stays n σ (τ.endLaunch m code st elapsed comp irqen) :=
  (hk.undrive.onLaunch_other h).trans Stays.endLaunch_ended

end Ends

theorem Stays.tripLaunch_other {s : State} {n m : Nat} (h : m ≠ n) : Stays n s (s.tripLaunch m) := by
  unfold State.tripLaunch
  dsimp only
  exact (((Stays.refl s).purge.foldl fun υ _ => (Stays.refl υ).onCaravan.readmit.foldl fun φ _ => (Stays.refl φ).readmit).foldl fun υ _ =>
    (Stays.refl υ).discardCtxs.discardShelf).endLaunch_other h

theorem State.launch_tripLaunch (s : State) (m : Nat) : ((s.tripLaunch m).launch m).state = .error ∧ ((s.tripLaunch m).launch m).ecode = 0x15 := by
  unfold State.tripLaunch
  exact State.launch_endLaunch

/-- A launch has ended with code 0x15 (R514). -/
def State.Tripped (s : State) (n : Nat) : Prop := (s.launch n).state = .error ∧ (s.launch n).ecode = 0x15

theorem Stays.tripped {s t : State} {n : Nat} (h : Stays n s t) (hs : s.Tripped n) : t.Tripped n := ⟨h.state.trans hs.1, h.code.trans hs.2⟩

theorem State.tripped_foldl_tripLaunch {slots : List Nat} {n : Nat} (h : n ∈ slots) (s : State) :
    (slots.foldl (fun s n => s.tripLaunch n) s).Tripped n := by
  refine foldl_reaches (f := fun (s : State) (n : Nat) => s.tripLaunch n) (Q := fun _ => True) (P := fun t : State => t.Tripped n)
    (fun _ _ _ => trivial) (fun t m ht => ?_) (fun t _ => t.launch_tripLaunch n) h trivial
  by_cases hm : m = n
  · subst hm
    exact t.launch_tripLaunch m
  · exact (Stays.tripLaunch_other hm).tripped ht

/-- A launch is on its way to its end, with code 0x15 (R407). -/
def State.Checked (s : State) (n : Nat) : Prop := (s.launch n).state = .stopping ∧ (s.launch n).ecode = 0x15

theorem Stays.checked {s t : State} {n : Nat} (h : Stays n s t) (hs : s.Checked n) : t.Checked n := ⟨h.state.trans hs.1, h.code.trans hs.2⟩

theorem State.checked_stopLaunch_of_running {s : State} {n : Nat} (h : (s.launch n).state = .running) : (s.stopLaunch n 0x15 .error).Checked n := by
  have hstop : s.stopLaunch n 0x15 .error = (s.purge n).onLaunch n (fun l => { l with state := .stopping, ecode := 0x15, stopAs := .error }) :=
    if_pos h
  unfold State.Checked
  rw [hstop, State.launch_onLaunch]
  exact ⟨rfl, rfl⟩

theorem State.checked_stopLaunch_of_checked {s : State} {n : Nat} (h : s.Checked n) : (s.stopLaunch n 0x15 .error).Checked n := by
  obtain ⟨hst, hcode⟩ := h
  unfold State.Checked State.stopLaunch
  dsimp only
  rw [if_neg (by rw [hst]; decide), if_neg (by rw [hst]; decide)]
  split
  · rw [State.launch_onLaunch]
    exact ⟨hst, rfl⟩
  · exact ⟨hst, hcode⟩

/-- The launches that a unit served end, whatever their order (R407). -/
theorem State.checked_foldl_stopLaunch {slots : List Nat} {n : Nat} (hn : n ∈ slots) {s : State} (h : (s.launch n).state = .running) :
    (slots.foldl (fun s n => s.stopLaunch n 0x15 .error) s).Checked n := by
  have hstop (t : State) (ht : (t.launch n).state = .running ∨ t.Checked n) : (t.stopLaunch n 0x15 .error).Checked n :=
    ht.elim State.checked_stopLaunch_of_running State.checked_stopLaunch_of_checked
  refine foldl_reaches (f := fun (s : State) (n : Nat) => s.stopLaunch n 0x15 .error)
    (Q := fun t : State => (t.launch n).state = .running ∨ t.Checked n) (P := fun t : State => t.Checked n) (fun t m ht => ?_) (fun t m ht => ?_)
    hstop hn (.inl h)
  · by_cases hm : m = n
    · subst hm
      exact .inr (hstop t ht)
    · have hs : Stays n t (t.stopLaunch m 0x15 .error) := (Stays.refl t).stopLaunch_other hm
      exact ht.imp hs.state.trans hs.checked
  · by_cases hm : m = n
    · subst hm
      exact hstop t (.inr ht)
    · exact Stays.checked ((Stays.refl t).stopLaunch_other hm) ht

end Sys2Proof.Machine
end

section
/-! Power states, gating, temperature, storage errors and lifetime counters: their events (R407, R511-R518). -/
namespace Sys2Proof.Machine
-- Elaborated one after another, so that threads that wait for one another do not use up the memory.
set_option Elab.async false

/-! ### Gating (R513) -/

section Gate
variable {s : State} {cl : Nat} (hcl : cl < 512)
include hcl

theorem exec_cgateRequest (gate : Bool) : exec (.cgateRequest cl gate) s = .next (s.cgateRequest cl gate) := if_neg (Nat.not_le.2 hcl)

theorem exec_clusterUngateDone : exec (.clusterUngateDone cl) s = .next (if s.dev.power ≠ 0 ∨ s.dev.cgate.contains cl = true then s else
    { s with dev := { s.dev with gated := s.dev.gated.filter (· ≠ cl) } }) :=
  (if_neg (Nat.not_le.2 hcl)).trans (apply_ite Host.Outcome.next _ _ _).symm

end Gate

theorem Device.power_eq_zero_iff {d : Device} : d.power = 0 ↔ d.tripped = false ∧ d.pwrCur = 0 := by
  unfold Device.power
  cases d.tripped <;> simp

section Request
variable {s : State} {cl : Nat}

theorem State.cgateRequest_asked (h : s.dev.cgate.contains cl = true) : s.cgateRequest cl true = s := by
  unfold State.cgateRequest
  dsimp only
  rw [if_pos rfl, if_pos h]

theorem State.cgateRequest_gated (h : ¬s.dev.cgate.contains cl = true) (hg : s.dev.gated.contains cl = true) :
    s.cgateRequest cl true = { s with dev := { s.dev with cgate := cl :: s.dev.cgate } } := by
  unfold State.cgateRequest
  dsimp only
  rw [if_pos rfl, if_neg h, hg]
  rfl

variable (h : ¬s.dev.cgate.contains cl = true) (hg : ¬s.dev.gated.contains cl = true)
include h hg

theorem State.cgateRequest_busy (hb : s.clusterBusy cl = true) : s.cgateRequest cl true = { s with dev := { s.dev with cgerr := true } } := by
  rw [Bool.not_eq_true] at hg
  unfold State.cgateRequest
  dsimp only
  rw [if_pos rfl, if_neg h, hg, hb]
  rfl

theorem State.cgateRequest_dispatches (hb : s.clusterBusy cl = false) (hd : (s.dispatchFirst cl).clusterBusy cl = true) :
    s.cgateRequest cl true = { s.dispatchFirst cl with dev := { (s.dispatchFirst cl).dev with cgerr := true } } := by
  rw [Bool.not_eq_true] at hg
  unfold State.cgateRequest
  dsimp only
  rw [if_pos rfl, if_neg h, hg, hb, hd]
  rfl

theorem State.cgateRequest_gates (hb : s.clusterBusy cl = false) (hd : (s.dispatchFirst cl).clusterBusy cl = false) :
    s.cgateRequest cl true = State.gateCluster { s with dev := { s.dev with cgate := cl :: s.dev.cgate } } cl := by
  rw [Bool.not_eq_true] at hg
  unfold State.cgateRequest
  dsimp only
  rw [if_pos rfl, if_neg h, hg, hb, hd]
  rfl

end Request

theorem State.byte_shut (s : State) (cl : Nat) {i : Nat} (h : i < 80 * 65536) : (s.shut cl).mem.byte (localKey (cl * 80) 0 + i) = 0 :=
  Memory.byte_zero_inside (m := s.mem) ⟨Nat.le_add_right .., Nat.add_lt_add_left h _⟩

theorem State.byte_gateCluster (s : State) (cl : Nat) {i : Nat} (h : i < 80 * 65536) :
    (s.gateCluster cl).mem.byte (localKey (cl * 80) 0 + i) = 0 := by
  rw [State.gateCluster_eq]
  exact State.byte_shut _ cl h

theorem State.engine_gateCluster (s : State) (cl : Nat) : (s.gateCluster cl).engine cl = {} := by
  rw [State.gateCluster_eq]
  exact State.engine_shut _ cl

theorem clusterGating : ClusterGating := by
  intro s cl hcl
  dsimp only
  refine ⟨fun h => ?_, fun h hg => ?_, fun h hg hb => ?_, fun h hg hb hd => ?_, fun h hg hb hd => ?_, exec_cgateRequest hcl false,
    fun ht hp h => ?_, fun h => ?_⟩
  · rw [exec_cgateRequest hcl, State.cgateRequest_asked h]
  · rw [exec_cgateRequest hcl, State.cgateRequest_gated h hg]
  · rw [exec_cgateRequest hcl, State.cgateRequest_busy h hg hb]
  · rw [exec_cgateRequest hcl, State.cgateRequest_dispatches h hg hb hd]
  · refine ⟨_, (exec_cgateRequest hcl true).trans (congrArg _ (State.cgateRequest_gates h hg hb hd)), ?_, State.gateCluster_contains _ cl,
      fun g hgc _ => ?_, State.engine_gateCluster _ cl, fun i => State.byte_gateCluster _ cl⟩
    · rw [(Stays.gateCluster (n := 0) _ cl).cgate]
      exact List.contains_iff_mem.2 (List.mem_cons_self ..)
    · obtain ⟨c, hc⟩ := State.core_gateCluster { s with dev := { s.dev with cgate := cl :: s.dev.cgate } } hgc
      rw [hc]
      exact ⟨rfl, rfl, rfl⟩
  · have hno : ¬(s.dev.power ≠ 0 ∨ s.dev.cgate.contains cl = true) := not_or.2 ⟨not_not.2 (Device.power_eq_zero_iff.2 ⟨ht, hp⟩), h⟩
    rw [exec_clusterUngateDone hcl, if_neg hno]
  · have hyes : s.dev.power ≠ 0 ∨ s.dev.cgate.contains cl = true := by
      rcases h with ht | hp | ha
      · exact .inl fun h0 => Bool.false_ne_true ((Device.power_eq_zero_iff.1 h0).1.symm.trans ht)
      · exact .inl fun h0 => hp (Device.power_eq_zero_iff.1 h0).2
      · exact .inr ha
    rw [exec_clusterUngateDone hcl, if_pos hyes]

/-! ### Power states (R511, R512, R514) -/

section Power
variable {s : State} {target : BitVec 2}

theorem State.askPower_spec (x : State) (target : BitVec 2) :
    (target.toNat = x.dev.pwrCur → x.askPower target.toNat = x)
    ∧ (target.toNat ≠ x.dev.pwrCur → target ≠ 3 → (target = 0 ∨ x.quiescent = true) →
      x.askPower target.toNat = { x with dev := { x.dev with pwrTarget := target.toNat, pwrBusy := true, pwrErr := false } })
    ∧ (target.toNat ≠ x.dev.pwrCur → (target = 3 ∨ (target ≠ 0 ∧ x.quiescent = false)) →
      x.askPower target.toNat = { x with dev := { x.dev with pwrErr := true } }) := by
  have hthree : target.toNat = 3 ↔ target = 3 := BitVec.toNat_inj (y := (3 : BitVec 2))
  have hzero : target.toNat = 0 ↔ target = 0 := BitVec.toNat_inj (y := (0 : BitVec 2))
  have hrefused : (target.toNat = 3 ∨ (target.toNat ≠ 0 ∧ (!x.quiescent) = true)) ↔
      target = 3 ∨ (target ≠ 0 ∧ x.quiescent = false) := by
    rw [hthree, ne_eq, hzero, Bool.not_eq_true']
  refine ⟨fun h => if_pos h, fun h h3 hq => (if_neg h).trans (if_neg (mt hrefused.1 ?_)), fun h hr => (if_neg h).trans (if_pos (hrefused.2 hr))⟩
  rintro (h3' | ⟨h0, hq'⟩)
  · exact h3 h3'
  · exact hq.elim h0 fun hq => Bool.false_ne_true (hq'.symm.trans hq)

theorem State.setTarget_running (h : s.dev.tripped = false) : s.setTarget target.toNat = s.askPower target.toNat :=
  if_neg (by rw [h]; exact Bool.false_ne_true)

theorem State.setTarget_cool (h : s.dev.tripped = true) (hc : target = 0 ∧ s.dev.tj ≤ (s.dev.trip - 10) * 8) :
    s.setTarget target.toNat = State.askPower { s with dev := { s.dev with tripped := false } } target.toNat := by
  obtain ⟨rfl, htj⟩ := hc
  exact (if_pos h).trans (if_pos ⟨rfl, htj⟩)

theorem State.setTarget_hot (h : s.dev.tripped = true) (hc : ¬(target = 0 ∧ s.dev.tj ≤ (s.dev.trip - 10) * 8)) : s.setTarget target.toNat = s :=
  (if_pos h).trans (if_neg fun hz => hc ⟨BitVec.eq_of_toNat_eq hz.1, hz.2⟩)

theorem exec_pwrctlTarget : exec (.pwrctlTarget target) s = .next (s.setTarget target.toNat) := rfl

theorem exec_powerTransitionDone_up (hb : s.dev.pwrBusy = true) (h0 : s.dev.pwrTarget = 0) : exec .powerTransitionDone s =
    .next (State.send { s with dev := { s.dev with pwrCur := 0, pwrBusy := false } } 67) := by
  refine (if_neg (by simp [hb, h0])).trans ?_
  rw [if_pos h0, h0]

/-- A transition that is done: CURRENT is set and vector 67 sent (R512). -/
def State.powered (s : State) (n : Nat) : State := State.send { s with dev := { s.dev with pwrCur := n, pwrBusy := false } } 67

theorem exec_powerTransitionDone_down (hb : s.dev.pwrBusy = true) (h0 : s.dev.pwrTarget ≠ 0) (hq : s.quiescent = true) :
    exec .powerTransitionDone s = .next (s.gateAll.powered s.dev.pwrTarget) := by
  refine (if_neg (by simp [hb, hq])).trans ?_
  rw [if_neg h0, State.powered]

theorem exec_powerTransitionDone_other (h : s.dev.pwrBusy = false ∨ (s.dev.pwrTarget ≠ 0 ∧ s.quiescent = false)) :
    exec .powerTransitionDone s = .next s := if_pos (by simpa using h)

theorem State.powered_cur (s : State) (n : Nat) : (s.powered n).dev.pwrCur = n := by
  unfold State.powered State.send
  dsimp only
  split <;> rfl

theorem State.powered_busy (s : State) (n : Nat) : (s.powered n).dev.pwrBusy = false := by
  unfold State.powered State.send
  dsimp only
  split <;> rfl

theorem Stays.powered (s : State) (n : Nat) : Stays 0 s (s.powered n) := Stays.send (Stays.device (Stays.refl s) rfl rfl)

end Power

theorem powerRequests : PowerRequests := by
  intro s target takes cool asks
  refine ⟨fun h => ?_, fun h hc => ?_, fun h hc => ?_, exec_powerTransitionDone_up, fun hb h0 hq => ?_, exec_powerTransitionDone_other⟩
  · exact ⟨_, by rw [exec_pwrctlTarget, State.setTarget_running h], State.askPower_spec s target⟩
  · exact ⟨_, by rw [exec_pwrctlTarget, State.setTarget_cool h hc], State.askPower_spec _ target⟩
  · rw [exec_pwrctlTarget, State.setTarget_hot h hc]
  · refine ⟨_, exec_powerTransitionDone_down hb h0 hq, State.powered_cur .., State.powered_busy .., fun cl hcl => ?_⟩
    exact (Stays.powered s.gateAll _).gated cl (s.gateAll_contains hcl)

/-! ### Temperature (R514, R518) -/

section Trip
variable {s : State}

/-- What follows once everything is down: the trip is recorded, reported, counted and kept in flash (R514, R517, R518). -/
def State.tripped (s : State) : State :=
  ((((State.tripVector { s with dev := { s.dev with tripped := true, pwrBusy := false }, free := s.free + 3 }).machineCheck (freeAgent s.free) none
    0x1F6 (Config.freeValue (s.free + 1)).toNat (Config.freeValue (s.free + 2))).send 67).countLife 70 1).saveLife

/-- The slots whose launches a trip ends (R514). -/
def State.tripSlots (s : State) : List Nat := (List.range 64).filter (fun n =>
  decide ((s.launch n).state = .running) || decide ((s.launch n).state = .stopping) || (s.launch n).suspended)

theorem State.trip_eq (s : State) : s.trip = (s.tripSlots.foldl (fun s n => s.tripLaunch n) s.haltUnits).gateAll.tripped := by
  unfold State.trip State.tripped State.tripSlots
  dsimp only

theorem mem_tripSlots {n : Nat} (hn : n < 64)
    (h : (s.launch n).state = .running ∨ (s.launch n).state = .stopping ∨ (s.launch n).suspended = true) :
    n ∈ s.tripSlots := List.mem_filter.2 ⟨List.mem_range.2 hn, by simpa [or_assoc] using h⟩

theorem Stays.recorded {n : Nat} (s : State) : Stays n s s.tripped := by
  have h : Stays n s { s with dev := { s.dev with tripped := true, pwrBusy := false }, free := s.free + 3 } := ⟨rfl, rfl, fun _ h => h, rfl⟩
  exact h.tripVector.machineCheck.send.countLife.saveLife

theorem State.send_tripped (s : State) (v : Nat) : (s.send v).dev.tripped = s.dev.tripped := by unfold State.send; dsimp only; split <;> rfl

theorem State.logEntry_tripped (s : State) (ws : List Word) : (s.logEntry ws).dev.tripped = s.dev.tripped := by
  unfold State.logEntry
  dsimp only
  split
  · rfl
  · split
    · rfl
    · split
      · exact State.send_tripped ..
      · rfl

theorem State.tripVector_tripped (s : State) : s.tripVector.dev.tripped = s.dev.tripped := by
  unfold State.tripVector
  split
  · rfl
  · exact State.send_tripped ..

theorem State.countLife_tripped (s : State) (i n : Nat) : (s.countLife i n).dev.tripped = s.dev.tripped := rfl

theorem State.saveLife_tripped (s : State) : s.saveLife.dev.tripped = s.dev.tripped := rfl

theorem State.tripped_tripped (s : State) : s.tripped.dev.tripped = true := by
  unfold State.tripped State.machineCheck
  rw [State.saveLife_tripped, State.countLife_tripped, State.send_tripped, State.logEntry_tripped, State.tripVector_tripped]

theorem exec_thermalWarn (tj : BitVec 16) : exec (.thermalWarn tj) s = .next (if s.dev.warn * 8 ≤ tj.toNat then
    State.send { s with dev := { s.dev with tj := tj.toNat, warned := true } } 67 else { s with dev := { s.dev with tj := tj.toNat } }) := rfl

theorem exec_thermalTrip_trips {tj : BitVec 16} (h : s.dev.trip * 8 ≤ tj.toNat) (ht : s.dev.tripped = false) :
    exec (.thermalTrip tj) s = .next (State.trip { s with dev := { s.dev with tj := tj.toNat } }) :=
  congrArg Host.Outcome.next (if_pos ⟨h, by rw [ht]; rfl⟩)

theorem exec_thermalTrip_goesOn {tj : BitVec 16} (h : tj.toNat < s.dev.trip * 8 ∨ s.dev.tripped = true) :
    exec (.thermalTrip tj) s = .next { s with dev := { s.dev with tj := tj.toNat } } := by
  refine congrArg Host.Outcome.next (if_neg fun hc => ?_)
  obtain ⟨hle, ht⟩ := hc
  rcases h with hlt | hy
  · omega
  · rw [hy] at ht
    exact Bool.false_ne_true ht

/-- A trip (R514). -/
theorem State.trip_spec (s : State) : s.trip.dev.tripped = true ∧ s.trip.dev.flash = s.trip.dev.life
    ∧ (∀ cl, cl < 512 → s.trip.dev.gated.contains cl = true)
    ∧ ∀ n, n < 64 → ((s.launch n).state = .running ∨ (s.launch n).state = .stopping ∨ (s.launch n).suspended = true) →
      (s.trip.launch n).state = .error ∧ (s.trip.launch n).ecode = 0x15 := by
  rw [State.trip_eq]
  refine ⟨State.tripped_tripped _, rfl, fun cl hcl => ?_, fun n hn h => ?_⟩
  · exact (Stays.recorded (n := 0) _).gated cl (State.gateAll_contains _ hcl)
  · exact ((Stays.refl _).gateAll.trans (Stays.recorded _)).tripped (State.tripped_foldl_tripLaunch (mem_tripSlots hn h) _)

end Trip

/-! ### Storage errors (R515) -/

section Errors
variable {s : State} {g k off line : Nat} {syn : Word}

theorem exec_storageError {site : ErrorSite} (h : siteOk site = true) (correctable : Bool) (syn : BitVec 64) :
    exec (.storageError site correctable syn) s = .next ((s.countSite site correctable).siteError site correctable syn) :=
  if_neg (by rw [h]; decide)

theorem State.siteError_localWord : s.siteError (.localWord g off) false syn = s.localError g off := rfl

theorem State.localError_word (h1 : (s.core g).mode (bankOf off) ≠ 1) (h3 : (s.core g).mode (bankOf off) ≠ 3)
    (hp : s.lmPoison.contains (localKey g off / 4) = false) : s.localError g off = { s with lmPoison := (localKey g off / 4) :: s.lmPoison } := by
  unfold State.localError
  dsimp only
  split
  · contradiction
  · contradiction
  · rw [hp]
    rfl

theorem State.localError_cway {ls : List CLine} {l : CLine} (h : (s.core g).mode (bankOf off) = 1) (hc : (s.core g).cway = ls ++ [l]) :
    s.localError g off = s.onCore g (fun c => { c with cway := ls ++ [{ l with bad := some off }] }) := by
  have hlast : (s.core g).cway.getLast? = some l := by rw [hc, List.getLast?_concat]
  have hcore : s.onCore g (fun c => { c with cway := c.cway.dropLast ++ [{ l with bad := some off }] })
      = s.onCore g (fun c => { c with cway := ls ++ [{ l with bad := some off }] }) := by
    unfold State.onCore
    dsimp only
    rw [hc, List.dropLast_concat]
  unfold State.localError
  dsimp only
  rw [h, hlast]
  exact hcore

/-- The poisoned lines, with one more. -/
theorem contains_poisoned (lines : List Nat) (n : Nat) : (if lines.contains n then lines else n :: lines).contains n = true := by
  split
  · assumption
  · exact List.contains_iff_mem.2 (List.mem_cons_self ..)

theorem State.localError_page {id : Nat} (h : (s.core g).mode (bankOf off) = 3) (hf : (s.core g).frames.get .free (off / 4096) = .page id) :
    (s.localError g off).poison.contains (pageKey id (off % 4096) / 64) = true := by
  unfold State.localError
  dsimp only
  rw [h, hf]
  exact contains_poisoned ..

theorem State.logEntry_poison (s : State) (ws : List Word) : (s.logEntry ws).poison = s.poison := by
  unfold State.logEntry State.send
  dsimp only
  split_ifs <;> rfl

theorem State.logEntry_lines (s : State) (ws : List Word) : (s.logEntry ws).lines = s.lines := by
  unfold State.logEntry State.send
  dsimp only
  split_ifs <;> rfl

theorem State.logLine_poison (s : State) (cause line : Nat) (syn : Word) : (s.logLine cause line syn).poison = s.poison := State.logEntry_poison ..

theorem State.logLine_line (s : State) (cause line : Nat) (syn : Word) (n : Nat) : (s.logLine cause line syn).line n = s.line n :=
  congrArg (fun lines : Table LineHome => lines.get {} n) (State.logEntry_lines ..)

theorem State.siteError_homeMeta : ((s.siteError (.homeMeta line) false syn).line line).md = none := by
  have hset : State.line { s with
      lines := s.lines.set line { s.line line with md := none }, metaUse := s.metaUse.filter (· ≠ line) } line = { s.line line with md := none } :=
    Table.get_set_same ..
  exact congrArg LineHome.md ((State.logLine_line ..).trans hset)

theorem State.siteError_line {site : ErrorSite} (h : site ∈ [ErrorSite.hbm line, .xm line]) :
    (s.siteError site false syn).poison.contains line = true ∧ s.siteError site true syn = s := by
  rcases List.mem_pair.1 h with rfl | rfl
  · exact ⟨(congrArg (List.contains · line) (State.logLine_poison ..)).trans (contains_poisoned ..), rfl⟩
  · exact ⟨(congrArg (List.contains · line) (State.logLine_poison ..)).trans (contains_poisoned ..), rfl⟩

theorem State.siteError_icache {cl : Nat} {b : CodeBlock} {r : List CodeBlock} (h : s.icache.get [] cl = b :: r) :
    s.siteError (.icache cl) true syn = { s with icache := s.icache.set cl r }
    ∧ s.siteError (.icache cl) false syn = { s with dev := { s.dev with icBad := (cl, b.owner, b.key) :: s.dev.icBad } } := by
  unfold State.siteError
  dsimp only
  rw [h]
  exact ⟨rfl, rfl⟩

end Errors

/-! ### Machine checks of units, and lifetime counters (R407, R516, R518) -/

section Counters
variable {s : State}

/-- The machine check that a unit reports: it is logged for the first launch that the unit serves (R407). -/
def State.unitChecked (s : State) (u : EngineUnit) (d : Word) : State :=
  State.machineCheck { s with free := s.free + 1 } (unitId u) (s.servedBy u).head? 0x1F4 (Config.freeValue s.free).toNat d

theorem Stays.unitChecked {n : Nat} (s : State) (u : EngineUnit) (d : Word) : Stays n s (s.unitChecked u d) := machineCheck (Stays.refl s).fields

theorem exec_unitMachineCheck {u : EngineUnit} (h : unitExists u = true) (d : BitVec 64) : exec (.unitMachineCheck u d) s =
    .next ((s.servedBy u).foldl (fun s n => s.stopLaunch n 0x15 .error) (s.unitChecked u d)) := if_neg (by rw [h]; decide)

/-- The counter of the temperature's bin (R518). -/
def State.hourBin (s : State) : Nat := 54 + min 15 ((s.dev.tj / 8 - 40) / 5)

theorem exec_flashCounterUpdate : exec .flashCounterUpdate s = .next (if 40 ≤ s.dev.tj / 8 then s.countLife s.hourBin 1 else s).saveLife := rfl

theorem State.life_countLife {i : Nat} (h : s.dev.life.get 0 i < 2 ^ 64 - 1) : (s.countLife i 1).dev.life.get 0 i = s.dev.life.get 0 i + 1 := by
  refine (Table.get_set_same ..).trans (Nat.min_eq_right ?_)
  omega

theorem exec_mbcmdReadCounters : exec .mbcmdReadCounters s = .next s.readCounters := rfl

theorem State.readCounters_recovery (h : s.dev.recovery = true) : s.readCounters = s := if_pos h

/-- The counters stand in the mailbox (R518). -/
def State.mailed (s : State) : State :=
  { s with dev := { s.dev with mbox := (List.range 73).map (fun i => (i, BitVec.ofNat 64 (s.dev.life.get 0 i))), mbstat := 1 } }

theorem State.readCounters_ready (h : s.dev.recovery = false) : s.readCounters = s.mailed.send 66 := if_neg (by rw [h]; exact Bool.false_ne_true)

theorem State.send_mailbox (s : State) (v : Nat) : (s.send v).dev.mbstat = s.dev.mbstat ∧ (s.send v).dev.mbox = s.dev.mbox := by
  unfold State.send
  dsimp only
  split <;> exact ⟨rfl, rfl⟩

theorem Table.get_mapKeys {α : Type} {f : Nat → α} {l : List Nat} {i : Nat} (h : i ∈ l) (d : α) :
    Table.get (l.map fun k => (k, f k)) d i = f i := by
  unfold Table.get
  rw [Table.find_mapKeys h]
  rfl

theorem State.mailed_mbox {i : Nat} (h : i < 73) : s.mailed.dev.mbox.get 0 i = BitVec.ofNat 64 (s.dev.life.get 0 i) := by
  unfold State.mailed
  exact Table.get_mapKeys (List.mem_range.2 h) 0

end Counters

theorem reliability : Reliability := by
  intro s
  refine ⟨fun tj => ?_, fun site correctable syn h => exec_storageError h correctable syn, fun g k off line syn => ?_, fun u d hu => ?_, ?_,
    fun h => ?_, fun h => ?_⟩
  · intro s1
    refine ⟨fun h => ?_, fun h => ?_, fun h ht => ?_, exec_thermalTrip_goesOn⟩
    · rw [exec_thermalWarn, if_pos h]
    · rw [exec_thermalWarn, if_neg (Nat.not_le.2 h)]
    · exact ⟨s1.trip, exec_thermalTrip_trips h ht, State.trip_spec s1⟩
  · refine ⟨State.localError_word, fun ls l => State.localError_cway, fun id => State.localError_page, rfl, rfl, rfl,
      fun b r => State.siteError_icache, State.siteError_homeMeta, rfl, fun site => State.siteError_line⟩
  · refine ⟨_, exec_unitMachineCheck hu d, fun n hn hrun => ?_⟩
    exact State.checked_foldl_stopLaunch hn ((Stays.unitChecked s u d).state.trans hrun)
  · refine ⟨_, exec_flashCounterUpdate, rfl, fun h hlt => ?_⟩
    rw [if_pos (by omega)]
    exact State.life_countLife hlt
  · refine ⟨_, exec_mbcmdReadCounters, ?_, fun i hi => ?_⟩
    · rw [State.readCounters_ready h, (State.send_mailbox ..).1]
      rfl
    · rw [State.readCounters_ready h, (State.send_mailbox ..).2, State.mailed_mbox hi]
  · rw [exec_mbcmdReadCounters, State.readCounters_recovery h]

/-- Settles O35: cluster gating, power states, and temperature, storage errors, machine checks and counters. That an accepted request
clears ERR (log 40), that a refused one leaves TARGET (log 42), that a dispatch comes before the gate and a launch delays the transition
(log 28), and where an error of a cache lies (log 29) are the model's choices. -/
theorem powerAndErrors : Obligations.PowerAndErrors := ⟨clusterGating, powerRequests, reliability⟩

end Sys2Proof.Machine
end
